-- ==== Sys2Proof/Word.lean ====
section
/-!
DEFINITION. The word types and the plain index types of the device: no arithmetic beyond what a
register word, a byte or an index is.
-/

namespace Sys2Proof

/-- A register word (R279). -/
abbrev Word := BitVec 32

/-- A byte of a frame, of the flash or of a dictionary value. -/
abbrev Byte := BitVec 8

/-- A channel, CH000 to CH127. -/
abbrev Ch := Fin 128

/-- A cluster spare, SP0 to SP7; its cluster has the same number. -/
abbrev Spare := Fin 8

/-- A trigger unit, TU0 to TU15. -/
abbrev Unit16 := Fin 16

/-- A time domain, TD0 to TD3. -/
abbrev Dom := Fin 4

/-- A lane of a link. -/
abbrev Lane := Fin 16

/-- A front end: 0 to 127 are the channels' own, 128 + s is spare s. -/
abbrev FrontEnd := Fin 136

/-- The three paths to the register block (R278). -/
inductive Path where
  | host | lcp | indigo
  deriving DecidableEq, Repr

/-- The two serial links: the host link H0-H15 and the pattern link P0-P15. -/
inductive Link where
  | host | pattern
  deriving DecidableEq, Repr

/-- The two Ethernet ports. -/
inductive Port where
  | e0 | e1
  deriving DecidableEq, Repr

/-- The two samplers of a front end (R10). -/
inductive Side where
  | a | b
  deriving DecidableEq, Repr

/-- The sources the timebase can follow (R30). -/
inductive TbSource where
  | refin | crystal
  deriving DecidableEq, Repr

def Path.idx : Path → Nat
  | .host => 0
  | .lcp => 1
  | .indigo => 2

def Link.idx : Link → Nat
  | .host => 0
  | .pattern => 1

def Port.idx : Port → Nat
  | .e0 => 0
  | .e1 => 1

def Port.other : Port → Port
  | .e0 => .e1
  | .e1 => .e0

def Side.other : Side → Side
  | .a => .b
  | .b => .a

end Sys2Proof
end

