-- ==== Sys2Proof/Payload.lean ====
section
/-!
DEFINITION. What a command carries where it is more than words and numbers: frames, datasets,
descriptor heads, and what a measurement of the analogue side gave.
-/

namespace Sys2Proof.Machine

/-- The common fields of a Mordant descriptor (R117). -/
structure DescHead where
  seq : BitVec 24
  tag : BitVec 32
  pol : BitVec 2
  action : BitVec 3
  profile : BitVec 4
  texp : BitVec 48
  deriving DecidableEq, Repr

/-- A frame on an Ethernet port: destination address to the last octet before the FCS, and whether
its FCS is good. -/
structure EthFrame where
  bytes : List Byte
  fcsOk : Bool
  deriving DecidableEq, Repr

/-- A foreign master's dataset (R253). -/
structure MasterData where
  id : BitVec 64
  port : BitVec 16
  prio1 : BitVec 8
  cls : BitVec 8
  acc : BitVec 8
  var : BitVec 16
  prio2 : BitVec 8
  gm : BitVec 64
  steps : BitVec 16
  deriving DecidableEq, Repr

/-- Where a dictionary request comes from: a node, or the mailbox of a path (R246, R268). -/
inductive OdSrc where
  | node (id : BitVec 16)
  | mailbox (p : Path)
  deriving DecidableEq, Repr

/-- What an overlap of two front ends showed: pairs seen, mean difference in 1/16 tk, RMS in fs. -/
structure Overlap where
  pairs : Nat
  mean16 : Int
  rmsFs : Nat
  deriving DecidableEq, Repr

/-- The pin test's level bands: above 1.60 V, below 0.20 V, or between. -/
inductive PinBand where
  | high | low | mid
  deriving DecidableEq, Repr

/-- What a threshold calibration measured (R203, R211). -/
structure ThrVals where
  compOfs : Int
  g1 : Nat
  o1 : Int
  g2 : Nat
  o2 : Int
  /-- single-ended rising and falling, differential rising and falling -/
  cd : Int × Int × Int × Int
  spareSkew : Int
  pairSkew : Int
  deriving DecidableEq, Repr

/-- What the first full calibration found for a side: offsets, and the counts of each collection in order, at
2^16 hits and at N. -/
structure BootSide where
  fe : FrontEnd
  side : Side
  ofssR : Int
  ofssF : Int
  collections : List (List Nat)
  deriving DecidableEq, Repr

/-! ### What a service saw (R179-R185) -/

/-- A step of LEVEL on a channel: the edges that its dwell counted at a code, and whether an overflow,
BLIND or CROWD disturbed it; then the same of its repeat. -/
structure Probe where
  ch : Ch
  code : BitVec 18
  edges : Nat
  disturbed : Bool
  edges2 : Nat
  disturbed2 : Bool
  deriving DecidableEq, Repr

/-- A row of SHMOO: its accepted edges in 1/16 tk, each with the partner's latest rising edge, and whether it
was disturbed; then the same of its repeat. -/
structure ShmooRow where
  edges : List (Int × Int)
  disturbed : Bool
  edges2 : List (Int × Int)
  disturbed2 : Bool
  deriving DecidableEq, Repr

/-- What a running service has seen when it finishes. -/
inductive SvcSeen where
  | level (probes : List Probe)
  | shmoo (rows : List ShmooRow)
  /-- the segments' TIE values, those of the histogram, RJ and DJ of the fit in ps, and the spectral lines in
  Hz and ps -/
  | jitter (segments : List (List Int)) (ties : List Int) (rj dj : Rat) (lines : List (Rat × Rat))
  | selftest
  /-- a load by CALSTORE -/
  | loaded
  deriving DecidableEq, Repr

/-- A crossing at a pin: its place in the timebase period in tk, and for how many tk its level then holds. -/
structure PinEdge where
  pos : Nat
  after : Nat
  deriving DecidableEq, Repr

/-- Where a macro lies: the Vat's 64 KiB unit, the Lake's logical bank, or elsewhere. -/
inductive SramSite where
  | vat (unit : Nat)
  | lake (bank : Nat)
  | other
  deriving DecidableEq, Repr

end Sys2Proof.Machine
end

