-- ==== Sys2Proof/Syntax.lean ====
section
/-!
DEFINITION. The commands of the device: one constructor for each row of spec/opcode_table.json, with the
operands that the row's rules name. An operand that no rule bounds is what the outside world measured
or sent.
-/

namespace Sys2Proof

open Machine in
/-- A command: a write or read of a register, a message, a frame, a pin event, or an event of one of the
device's own engines. -/
inductive Instr where
  /-- SUPPLIES_VALID (R321). Every rail has been within its operating range for 1 ms and PORST_N is
  released, which starts the start-up sequence. -/
  | suppliesValid (straps : BitVec 6)
  /-- POWER_ON_RESET (R308). PORST_N is held low for at least 10 µs; device time, fuses, counters and link
  state restart, and BYPASS_N is driven low. -/
  | powerOnReset
  /-- RAIL_EXCURSION (R322). A rail leaves its range while PORST_N is high; under 2 µs the state is kept,
  and longer acts as a power-on reset. -/
  | railExcursion (ns : Nat)
  /-- FUSE_LOAD (R295). At 0.2 ms the fuse bank is loaded, voted fields take their reset values and FN_LOCK
  is set if BOOT_LOCK is fused. -/
  | fuseLoad
  /-- LCP_ENABLE (R285). At 1.5 ms the LCP begins to serve registers, with guarded writes refused until
  CFG_DONE. -/
  | lcpEnable (flash xtal : Bool)
  /-- WEAR_LOG_LOAD (R299). At 2.0 ms the SRAM repair map and wear gauges are read from the wear log and
  applied. -/
  | wearLogLoad
  /-- ETHERNET_START (R242). At 4 ms forwarding and transparent-clock correction go live and BYPASS_N is
  driven high. -/
  | ethernetStart
  /-- BOOT_RESPONDER_START (R247). At 8 ms Indigo cores 6 and 7 start the boot responder, which serves the
  identity objects and answers BUSY to the rest. -/
  | bootResponderStart
  /-- CONFIG_READ (R305). At 10 ms both configuration slots are read whole and classed, and the valid slot
  with the later sequence number, or factory defaults, is chosen. -/
  | configRead
  /-- CONFIG_COMMIT (R306). The loaded configuration image is committed in one MCLK cycle and CFG_DONE is
  set. -/
  | configCommit
  /-- CAL_SLOT_CHOOSE (R214). The calibration slots are classed and one is loaded to seed the first full
  calibration, with TORN, foreign and NOSNAP reported. -/
  | calSlotChoose
  /-- SERVICE_IMAGE_BOOT (R187). Indigo checks both service image slots and loads the valid one with the
  higher sequence number, or stays on the boot responder. -/
  | serviceImageBoot
  /-- BOOT_CAL_DONE (R210). The first full calibration ends on every front end and CAL_STAT.BOOT_DONE is
  set. -/
  | bootCalDone (sides : List BootSide) (thresholds : List (FrontEnd × ThrVals))
  /-- READY (R300). In the first cycle with the timebase locked, CFG_DONE and BOOT_DONE, the device becomes
  READY, strobes pending TDAC shadows, opens the first gates and admits the deferred functions. -/
  | ready
  /-- SOFT_RESET (R309). A guarded DEV_CMD.SRST parks every TDAC, idles every unit, drives BYPASS_N low and
  reruns start-up from 4 ms onward, keeping device time. -/
  | softReset (path : Path)
  /-- REFIN_WINDOW (R31). A 1 ms measurement window of REFIN against the crystal ends and the qualification
  tests are applied. -/
  | refinWindow (missing toggles : Bool) (mHz : Nat)
  /-- FIRST_LOCK (R32). The loop holds its phase error within ±20 ps for 100 µs; ETS64 starts at 0,
  TB_RUN_ID is drawn and MCLK moves to 312.5 MHz. -/
  | firstLock
  /-- LOCK_SOURCE_TIMEOUT (R32). At 20 ms with REFIN unqualified, the loop locks to the running crystal or,
  with no source, stays unlocked. -/
  | lockSourceTimeout
  /-- NO_SOURCE_FAULT (R301). At 25 ms with no usable source, OD 0x1005 reads faulted and DEV_FLT.NOSRC is
  set. -/
  | noSourceFault
  /-- REFIN_LOST (R35). A missing edge, an out-of-limit window or a dropped amplitude declares REFIN lost,
  and the loop enters holdover with REF_LOST set. -/
  | refinLost
  /-- CRYSTAL_SELECT (R36). 1 µs after the loss is detected the crystal is selected with phase build-out and
  the stored ratio, SWITCHED is set and a REF calibration is requested. -/
  | crystalSelect
  /-- REFIN_RETURN (R38). REFIN requalifies with REVERT = 1 and the loop returns to it with phase build-out,
  slewing the frequency at no more than 100 ppb/s. -/
  | refinReturn
  /-- CRYSTAL_LOST (R38). The crystal amplitude is lost; XTAL_FAIL is set and the loop moves to REFIN or
  holds its frequency word. -/
  | crystalLost
  /-- HOLDOVER_END (R38). A source becomes usable during holdover and the loop joins it with phase build-
  out. -/
  | holdoverEnd (src : TbSource)
  /-- TB_SRC_WRITE (R38). A guarded TB_SRC write changes the source settings; setting XTAL_ONLY switches to
  the crystal and clearing it returns to a qualified REFIN. -/
  | tbSrcWrite (path : Path) (w : Word)
  /-- DRIFT_UPDATE (R39). Every 100 ms the REFIN-to-crystal offset is updated and compared with the
  baseline, raising REF_DRIFT and acting on DRIFT_ACT. -/
  | driftUpdate (offs : Int)
  /-- BASELINE_CAPTURE (R39). 1 s after REFIN qualifies, or after REBASE, the mean offset is captured into
  TB_REF_BASE. -/
  | baselineCapture (mean : Int)
  /-- REBASE (R39). TB_DRIFT.REBASE starts the capture of a new drift baseline over the next 1 s. -/
  | rebase
  /-- ETS64_WRAP (R41). ETS64 wraps from 2^64 − 1 to 0 and EPX32 increments in the same timebase period. -/
  | ets64Wrap
  /-- SNAP_CAPTURE (R44). TB_SNAP_CTL.CAPTURE latches DT96 and every valid domain time at one MCLK cycle. -/
  | snapCapture
  /-- PACE_UPDATE (R15). Every 6.5536 µs the twelve replica monitors update and TB_PACE reports the largest
  mean handshake period. -/
  | paceUpdate (counts : List (List Nat))
  /-- PACE_MAX_CLR (R18). TB_PACE_MAX.CLR loads MAX with the current PACE. -/
  | paceMaxClr
  /-- AVS_CTL_WRITE (R20). A TB_AVS_CTL write sets the governor controls or, with inconsistent limits, is
  refused whole with CFG_ERR. -/
  | avsCtlWrite (w : Word)
  /-- AVS_EVALUATION (R20). Every 50 µs the governor compares PACE with its band and requests a 5 mV step,
  nothing, or the first voltage. -/
  | avsEvaluation (mV : Nat)
  /-- AVS_ACK_TIMEOUT (R20). The regulator fails to acknowledge within 10 µs; the governor retries once and
  then suspends with NO_ACK. -/
  | avsAckTimeout
  /-- EDGE_CAPTURE (R76). A comparator transition is latched by the active sampler and passes the edge
  qualifier's spacing, selection and decimation tests into the input FIFO. -/
  | edgeCapture (ch : Ch) (rising : Bool) (taps : BitVec 256)
  /-- OVF_MARKER_DEFERRED (R337). An OVF marker held in the qualifier is written at the first entry that
  frees, ahead of every later entry. -/
  | ovfMarkerDeferred (ch : Ch)
  /-- OVF_UNMASK (R88). Occupancy falls to 64; a BLIND marker with cause OVF is written, the decimation
  counter restarts and edges are accepted again. -/
  | ovfUnmask (ch : Ch)
  /-- BLIND_MARKER_DEFERRED (R337). A blind interval whose end found no free entry ends once its BLIND
  marker finds one, with the length and count extended. -/
  | blindMarkerDeferred (ch : Ch)
  /-- REDUCER_HANDSHAKE (R85). The reducer reads up to two entries, applies calibration and forms
  measurements, statistics and stream output from them. -/
  | reducerHandshake (ch : Ch)
  /-- VAT_GRANT (R14). A waiting channel's grant balance covers its next entry and the Vat write port writes
  the entry whole. -/
  | vatGrant (ch : Ch) (words : Nat)
  /-- WATERMARK (R115). Every 64 timebase periods with the FIFO empty and no blind interval running, a
  watermark advances Mordant's front. -/
  | watermark (ch : Ch)
  /-- CH_PART_WRITE (R11). A CH_PART write names a partner, or is refused with PART_REJ when it would break
  the crossbar fan-out or boundary limits or name a fused-off channel. -/
  | chPartWrite (ch : Ch) (w : Word)
  /-- BLIND_INTERVAL_END (R60). A 2.5 µs blind interval ends and its BLIND marker is written with its
  causes, length and count. -/
  | blindIntervalEnd (ch : Ch)
  /-- TDAC_APPLY (R62). An immediate-mode CH_TDAC write applies its code, range and hysteresis at the next
  modulator clock, unparking the TDAC if it was parked. -/
  | tdacApply (ch : Ch)
  /-- TDAC_MODE_WRITE (R62). A write to CH_TDAC.MODE applies any pending shadow at once and then follows the
  new mode. -/
  | tdacModeWrite (ch : Ch) (w : Word)
  /-- SETTLING_END (R58). 2 µs after a code application, CH_PIN.SETTLING returns to 0. -/
  | settlingEnd (ch : Ch)
  /-- PARK_END (R59). 2.5 µs after the unparking application the channel unmasks, PARKED clears and an
  absolute-stamp marker precedes the next entry. -/
  | parkEnd (ch : Ch)
  /-- PACER_RUN (R64). DEV_TPACE_n.RUN is written, starting the cluster pacer one period later or stopping
  it at once. -/
  | pacerRun (n : Fin 8) (w : Word)
  /-- PACER_TICK (R64). The cluster pacer ticks and every paced channel applies the next code from its queue
  at one modulator clock. -/
  | pacerTick (n : Fin 8)
  /-- TDAC_QUEUE_PUSH (R64). A CH_TDAC_Q write appends a code to the channel's queue, or is discarded with
  TQ_FULL. -/
  | tdacQueuePush (ch : Ch) (code : BitVec 18)
  /-- LOAD_N_EDGE (R67). A falling LOAD_N edge makes an array strobe, or is ignored and counted in IGN when
  it falls within 100 ns of the previous accepted strobe. -/
  | loadNEdge (lowNs : Nat)
  /-- ARRAY_GO (R66). DEV_TDAC_ARR.GO makes a software array strobe. -/
  | arrayGo
  /-- STROBE (R231). A STROBE message on the pattern link makes an array strobe when EN_MSG is set. -/
  | strobe
  /-- CLR_IGN (R67). DEV_TDAC_ARR.CLR_IGN clears the count of ignored LOAD_N edges. -/
  | clrIgn
  /-- SP_ROUTE_WRITE (R68). A guarded SP_ROUTE write requests a repair stand-in or a release, which starts a
  handover or hand-back or is refused with BUSY_REJ. -/
  | spRouteWrite (path : Path) (sp : Spare) (w : Word)
  /-- HANDOVER_TDAC_LOAD (R70). 40 ns into a handover the spare's TDAC is loaded with the channel's
  threshold and its trims and path skew are applied. -/
  | handoverTdacLoad (sp : Spare)
  /-- HANDOVER_SETTLED (R70). At 2,540 ns the spare threshold has settled, its samplers start and paired
  timestamps go to the overlap check. -/
  | handoverSettled (sp : Spare)
  /-- HANDOVER_CHECK_DONE (R72). The handover overlap check ends; it passes, or it fails with HO_FAIL. -/
  | handoverCheckDone (sp : Spare) (o : Overlap)
  /-- HANDOVER_STREAM_MOVE (R70). At a gap of at least 2.0 ns or a boundary the input FIFO changes front
  end, completing the handover or hand-back. -/
  | handoverStreamMove (sp : Spare)
  /-- HANDOVER_FORCED_CUT (R72). SP_WAIT expires with no gap; the channel is blinded for 1,280 tk and the
  stream moves inside that interval with FORCED set. -/
  | handoverForcedCut (sp : Spare)
  /-- PIN_TEST (R73). CH_PIN.TEST starts the open and short test on an idle channel, or is refused with
  PT_REJ. -/
  | pinTest (ch : Ch)
  /-- PIN_TEST_DONE (R73). The pin test ends; the result codes are set, the TDAC state is restored and
  PT_DONE is set. -/
  | pinTestDone (ch : Ch) (pSource pSink nSource nSink : PinBand) (joined : Bool)
  /-- AMON_SELECT (R74). A DEV_AMON write routes an internal voltage to AMON, or sets AMON to high
  impedance. -/
  | amonSelect (w : Word)
  /-- DEC_RESYNC (R83). CH_DEC.RESYNC restarts the decimation counter. -/
  | decResync (ch : Ch)
  /-- GATE_CLOSE (R97). A gate reaches its length, or its STOP, GSTOP or limit; a gate-end marker is written
  and the next continuous gate opens. -/
  | gateClose (ch : Ch)
  /-- GATE_START (R92). CH_CMD.START opens a gate in single or external mode. -/
  | gateStart (ch : Ch)
  /-- GATE_STOP (R92). CH_CMD.STOP closes an open external gate. -/
  | gateStop (ch : Ch)
  /-- APPLY_NOW (R97). CH_CMD.APPLY_NOW cuts the gate in progress with CUT and applies the shadows. -/
  | applyNow (ch : Ch)
  /-- TIE_RST (R108). CH_CMD.TIE_RST re-anchors the TIE reference line at the next entry. -/
  | tieRst (ch : Ch)
  /-- ADEV_DUMP (R112). CH_CMD.ADEV_DUMP emits seven ADEV entries after the next RESULT set. -/
  | adevDump (ch : Ch)
  /-- ADEV_CLR (R112). CH_CMD.ADEV_CLR clears the Allan deviation history and sums. -/
  | adevClr (ch : Ch)
  /-- PAIR_TIMEOUT (R103). A pending start can no longer take a stop within T_to, so it is dropped with a
  TIMEOUT entry or decided by nearness. -/
  | pairTimeout (ch : Ch)
  /-- EXP1 (R117). An EXP1 descriptor for one expected edge is checked and queued, or refused. -/
  | exp1 (ch : BitVec 8) (h : DescHead)
  /-- RUN (R117). A RUN descriptor for a periodic train is checked and queued, or refused. -/
  | run (ch : BitVec 8) (h : DescHead) (period : BitVec 48) (count : BitVec 16) (alt : Bool)
  /-- MASK1K (R117). A MASK1K descriptor covering 1,024 unit intervals is checked and queued, or refused. -/
  | mask1k (ch : BitVec 8) (h : DescHead) (ui : BitVec 32) (mask : BitVec 1024)
  /-- RETRACT (R133). A RETRACT withdraws unsealed expectations from its point, increments the generation,
  re-offers released edges and resets SEQ and ordering. -/
  | retract (ch : BitVec 8) (seq : BitVec 24) (elem : BitVec 16) (gen : BitVec 4)
  /-- SEAL (R132). A SEAL covers expectations up to the named point, which seal as soon as their windows
  close. -/
  | seal (ch : BitVec 8) (seq : BitVec 24) (elem : BitVec 16) (gen : BitVec 4)
  /-- UNKNOWN_DTYPE (R120). A message with an unknown DTYPE is refused and the rest of its frame's payload
  is discarded. -/
  | unknownDtype (w0 : BitVec 64)
  /-- MATERIALISE (R121). An expectation is taken from the descriptor queue into the table when there is
  room, and offered free log edges if its window is reached. -/
  | materialise (ch : Ch)
  /-- MORDANT_EDGE (R128). An edge reaches Mordant, advances the front, and binds to an expectation, counts
  as an extra or stays free in the log. -/
  | mordantEdge (ch : Ch)
  /-- AUTO_SEAL (R132). The front reaches we + H and the expectation seals as HIT or MISS, committing its
  verdict and statistics. -/
  | autoSeal (ch : Ch)
  /-- EDGE_AGE_OUT (R131). A free edge older than H ages out as an EXTRA. -/
  | edgeAgeOut (ch : Ch)
  /-- CREDIT_RETURN (R122). Once 8 credits have accumulated, or 1 µs after the oldest, a CREDIT message
  returns a channel's descriptor credits. -/
  | creditReturn (ch : Ch)
  /-- MD_ENABLE (R125). CH_MD_CTL.EN = 1 enables Mordant on the channel with generation 0, or is refused
  with EN_REJ. -/
  | mdEnable (ch : Ch) (w : Word)
  /-- MD_DISABLE (R126). CH_MD_CTL.EN = 0 withdraws every unsealed expectation and queued descriptor without
  verdicts and returns their credits. -/
  | mdDisable (ch : Ch)
  /-- FLUSH (R126). CH_MD_CMD.FLUSH withdraws everything unsealed and clears the log, leaving the channel
  enabled. -/
  | flush (ch : Ch)
  /-- POL_RST (R140). CH_MD_CMD.POL_RST sets the polarity-check count to 0. -/
  | polRst (ch : Ch)
  /-- DCLR (R288). CH_MD_CMD.DCLR clears the committed deviation sum, square sum, minimum and maximum. -/
  | dclr (ch : Ch)
  /-- MD_H_WRITE (R125). A CH_MD_H write sets the commit horizon while EN = 0, or is ignored with EN_REJ. -/
  | mdHWrite (ch : Ch) (w : Word)
  /-- TRIG_IN_EDGE (R148). The active edge of a TRIG_IN pin is
  assigned to its trigger sample and offered to the trigger units. -/
  | trigInEdge (pin : Fin 4) (rising : Bool) (edge : PinEdge)
  /-- STL_ASSERT (R147). A system trigger line is asserted and offered to the trigger units as
  a source event. -/
  | stlAssert (line : Fin 8) (edge : PinEdge) (held : BitVec 8)
  /-- MARK (R150). A MARK message arrives and waits in each unit that enables it, or is discarded with
  MARK_LATE or MARK_OVF. -/
  | mark (marker : Fin 16) (time48 : BitVec 48)
  /-- MARK_RELEASE (R150). The trigger sample that a waiting MARK names begins and the MARK reaches its unit
  as a source event. -/
  | markRelease (u : Unit16)
  /-- FORCE (R147). TRG_TU_CMD.FORCE makes a software source event. -/
  | force (u : Unit16)
  /-- ARM (R152). TRG_TU_CMD.ARM applies the unit's shadows and checks its configuration, then starts fresh
  rings or refuses with CFG_REJ. -/
  | arm (u : Unit16)
  /-- DISARM (R157). TRG_TU_CMD.DISARM takes the unit to IDLE, closing any records in POST with STOP. -/
  | disarm (u : Unit16)
  /-- RD (R165). TRG_TU_CMD.RD pushes the unit's oldest unread record on the host link. -/
  | rd (u : Unit16)
  /-- REL (R165). TRG_TU_CMD.REL frees the unit's oldest unread record unread. -/
  | rel (u : Unit16)
  /-- RECORD_POST_TIME (R155). Device time reaches TRIGT + POST_T and the records still open close with
  POST_T. -/
  | recordPostTime (u : Unit16)
  /-- REARM_DONE (R156). After at least 32 ns, and once each channel has a free segment or overwrites one,
  the unit writes headers and is ARMED again or goes IDLE. -/
  | rearmDone (u : Unit16)
  /-- STREAM_BLOCK_CLOSE (R164). A stream block closes at 4,096 words, 100 µs, disabling or an OVF marker,
  and is pushed on the host link. -/
  | streamBlockClose (part : Fin 32) (ch : Ch)
  /-- VAT_PARTITION_WRITE (R160). A TRG_VP write changes a partition, or is refused with CFG_REJ on overlap,
  overrun or a partition in use. -/
  | vatPartitionWrite (n : Fin 32) (w : Word)
  /-- TRIG_OUT_PULSE_END (R166). A TRIG_OUT or STL pulse reaches its WIDTH in MCLK cycles and ends. -/
  | trigOutPulseEnd (out : Fin 10)
  /-- HG_CONFIG_WRITE (R169). A CH_HG geometry write goes to the shadow, or is refused with CFG_REJ on bank
  overlap or size. -/
  | hgConfigWrite (ch : Ch) (reg : Fin 4) (w : Word)
  /-- HG_CLR (R173). CH_HG_CMD.CLR clears the histogram at its instant and starts the clearing sweep. -/
  | hgClr (ch : Ch)
  /-- HG_SNAP (R174). CH_HG_CMD.SNAP freezes the live half and sends later updates to the other half,
  cleared. -/
  | hgSnap (ch : Ch)
  /-- CLR_SWEEP_DONE (R173). The background clearing sweep finishes and CLR_BUSY returns to 0. -/
  | clrSweepDone (ch : Ch)
  /-- LAKE_SPARE_MAP (R176). A guarded DEV_LK_SPMAP write starts copying a logical bank into a spare bank,
  or is refused with CFG_REJ. -/
  | lakeSpareMap (path : Path) (sp : Spare) (w : Word)
  /-- LAKE_COPY_DONE (R176). The spare bank copy ends, reads move to the spare and DONE is set. -/
  | lakeCopyDone (sp : Spare)
  /-- LEVEL (R180). A LEVEL call is queued to binary-search the top, bottom and middle threshold codes of
  its channels. -/
  | level (src : OdSrc) (params : List Byte)
  /-- SHMOO (R181). A SHMOO call is queued to fill a two-dimensional histogram over time and threshold on
  one channel. -/
  | shmoo (src : OdSrc) (params : List Byte)
  /-- JITTER (R182). A JITTER call is queued to collect TIE values and report RJ, DJ, PJ and TJ. -/
  | jitter (src : OdSrc) (params : List Byte)
  /-- LTADEV (R183). An LTADEV call is queued to keep Allan deviation beyond 100 τ0 on up to 16 channels. -/
  | ltadev (src : OdSrc) (params : List Byte)
  /-- CALSTORE (R184). A CALSTORE call is queued to store the calibration set into a flash slot, or to load
  a named slot. -/
  | calstore (src : OdSrc) (params : List Byte)
  /-- SELFTEST (R185). A SELFTEST call is queued to test idle Lake banks, Vat space and spare front ends. -/
  | selftest (src : OdSrc) (params : List Byte)
  /-- SERVICE_START (R177). A queued call reaches a free core among cores 0 to 5, claims its channels and
  runs. -/
  | serviceStart
  /-- SERVICE_DONE (R178). A call finishes DONE or FAILED, writes its result and restores its claims. `failed` and `taken`
  are SELFTEST's: of the resources it tested, by kind and number, those whose test failed and those that became busy. -/
  | serviceDone (handle : Nat) (seen : SvcSeen) (failed taken : List (Nat × Nat))
  /-- SERVICE_MAXTIME (R178). A call's MAXTIME expires and it ends ABORTED with its claims restored. -/
  | serviceMaxtime (handle : Nat)
  /-- SERVICE_ABORT (R270). A handle written to OD 0x7181 aborts its queued or running call. -/
  | serviceAbort (src : OdSrc) (handle : Word)
  /-- IMAGE_WRITE (R188). A completed segmented write of OD 0x7201 checks a new service image and stores it
  into the slot not in use. -/
  | imageWrite (src : OdSrc) (bytes : List Byte)
  /-- LIVE_UPDATE (R189). A write of OD 0x7203 starts a live update: no new call starts, and cores that
  finish load the new image. -/
  | liveUpdate (src : OdSrc) (drain : Word)
  /-- LIVE_UPDATE_DRAIN (R189). DRAIN expires; calls still running are aborted and the remaining cores load
  the new image. -/
  | liveUpdateDrain
  /-- LIVE_UPDATE_CORE_SWAP (R189). Core 6 or core 7 finishes loading the new image and takes over the
  dictionary and limit-verdict duties. -/
  | liveUpdateCoreSwap (core : Fin 8)
  /-- LIVE_UPDATE_CHECK (R189). The new image's start check ends; a failure reverts to the previous slot
  with REVERT. -/
  | liveUpdateCheck (ok : Bool)
  /-- THERMAL_READ (R207). Every 1 ms the cluster sensors are read and TEMP calibration events are raised
  where Tj has moved beyond CAL_DT. -/
  | thermalRead (temps : List Int)
  /-- CAL_TIME_DUE (R207). CAL_TMAX has passed since a front end's last sampler calibration and a TIME event
  is raised. -/
  | calTimeDue (fe : FrontEnd)
  /-- CAL_RUN (R207). CAL_CMD.RUN raises CMD events for the masked front ends, sampler part only with SONLY.
  -/
  | calRun (sonly : Bool)
  /-- CAL_ABORT (R209). CAL_CMD.ABORT abandons every event in progress for the masked front ends. -/
  | calAbort
  /-- CAL_EVENT_START (R208). A pending calibration event takes a free Ochre slot in priority order and
  starts on the standby side. -/
  | calEventStart (fe : FrontEnd)
  /-- CAL_OFFSET_DONE (R193). The 2,048 calibration edges have been timed, OFSS_R and OFSS_F are set and
  code-density collection starts. -/
  | calOffsetDone (fe : FrontEnd) (r f : Int)
  /-- CAL_COLLECT_DONE (R195). A code-density collection reaches 2^16 or N hits and is tested, leading to a
  trim pass, the bin table or the dither source. -/
  | calCollectDone (fe : FrontEnd) (counts : List Nat)
  /-- CAL_LIVE_TIMEOUT (R196). Live hits fall short within 20 ms, so they are discarded and collection moves
  to the dither source. -/
  | calLiveTimeout (fe : FrontEnd)
  /-- CAL_OVERLAP_DONE (R200). The edge-by-edge check of the new standby side against the active side ends
  and passes, retries or fails. -/
  | calOverlapDone (fe : FrontEnd) (o : Overlap)
  /-- CAL_SWAP (R201). At a 2.0 ns gap or a gate or record boundary the sampler sides swap and SIDE toggles.
  -/
  | calSwap (fe : FrontEnd)
  /-- CAL_SWAP_STARVED (R202). CAL_SWAP_WAIT expires with no gap or boundary; CAL_STARVED is set and the
  overlap check repeats. -/
  | calSwapStarved (fe : FrontEnd)
  /-- CAL_IDLE_ROUTE (R204). A channel has been idle for 100 µs and its threshold calibration starts blind
  by the idle route. -/
  | calIdleRoute (fe : FrontEnd)
  /-- CAL_THRESHOLD_DONE (R203). The 571.9 µs threshold calibration ends, its values are written and the
  threshold returns to the pin. -/
  | calThresholdDone (fe : FrontEnd) (vals : ThrVals)
  /-- CAL_VD_WRITE (R212). A guarded CAL_VD write changes one word of the calibration set, or is refused
  with VA_REJ. -/
  | calVdWrite (path : Path) (w : Word)
  /-- AUTO_STORE (R216). Every ASTORE hours Ochre calls CALSTORE, setting STORE_FAIL if the call fails. -/
  | autoStore
  /-- LINK_ADMISSION (R219). At 10 ms for the host link and 12 ms for the pattern link the link leaves HELD
  for DETECT. -/
  | linkAdmission (l : Link)
  /-- LINK_TRAIN_SEEN (R219). The partner's TRAIN block is seen in DETECT and the link moves to LOCK. -/
  | linkTrainSeen (l : Link)
  /-- LINK_LOCK_TIMEOUT (R219). LOCK ends after 500 µs and moves to ALIGN, to a lower rate, or back to
  DETECT. -/
  | linkLockTimeout (l : Link) (locked : BitVec 16)
  /-- LINK_ALIGN_DONE (R220). Lane numbering and deskew end, setting LINV and REV, and the link moves to
  PARAM or fails with ORDER_ERR. -/
  | linkAlignDone (l : Link) (linv : BitVec 16) (nums : Vector (BitVec 4) 16)
  /-- LINK_PARAM_DONE (R221). PARAM agrees rate, mask and credits and the link enters ACTIVE, as an
  admission when link state is reset. -/
  | linkParamDone (l : Link) (mask : BitVec 16) (credits : Vector Nat 6) (keep : Bool)
  /-- LINK_EN_WRITE (R219). LNK_CFG.EN is written: 0 takes the link to DISABLED and 1 sends it to DETECT
  with link state reset. -/
  | linkEnWrite (l : Link) (en : Bool)
  /-- WIDTH_CHANGE_WINDOW (R218). An ALIGN block begins a new alignment period and the link's RWS fields and
  lane rejoins apply. -/
  | widthChangeWindow (l : Link)
  /-- LFRAME_RECEIVE (R226). An L-frame is received, checked for CRC, sequence and credit, and accepted,
  discarded or NAKed. -/
  | lframeReceive (l : Link) (afterCtl : Bool) (bytes : List Byte)
  /-- NAK_RECEIVE (R227). A NAK is received and the transmitter replays every unacknowledged frame from
  ACKSEQ + 1. -/
  | nakReceive (l : Link) (ackseq : BitVec 12)
  /-- REPLAY_TIMEOUT (R227). REPLAY_TO expires without an acknowledgement, so NAK is sent again or the
  oldest frame is replayed. -/
  | replayTimeout (l : Link)
  /-- ACK_INTERVAL (R226). ACK_INT expires with an acknowledgement owed and a CTRL frame carries it. -/
  | ackInterval (l : Link)
  /-- LFRAME_SEND (R230). The link is free and a frame of the highest-priority class with credit is sent. -/
  | lframeSend (l : Link)
  /-- FRAME_HOLD_EXPIRY (R230). The frame-packing hold of 8h ns expires and a frame that is not full is
  sent. -/
  | frameHoldExpiry (l : Link)
  /-- EIDLE_ENTER (R224). The transmitter has had nothing to send for 2 µs, sends EIDLE_ENTER and goes idle.
  -/
  | eidleEnter (l : Link)
  /-- EIDLE_WAKE (R224). A side with something to send wakes the link with a burst and an ALIGN block. -/
  | eidleWake (l : Link) (relocked : BitVec 16)
  /-- ADAPT_WINDOW (R222). Each 1 µs a lane moves its taps by at most one code, freezing or clamping as its
  traffic dictates. -/
  | adaptWindow (l : Link) (lane : Lane) (moves : List Int) (quiet : Bool)
  /-- ADAPT_REVERIFY (R223). 256 data blocks after a frozen lane's data returns, the secondary slicer's
  count decides whether to resume or run fast adaptation. -/
  | adaptReverify (l : Link) (lane : Lane) (errors : Nat)
  /-- FAST_ADAPT_END (R223). The 2 µs fast adaptation of a lane ends. -/
  | fastAdaptEnd (l : Link) (lane : Lane) (moves : List Int)
  /-- LANE_LOSS (R235). A lane in service is lost; the detecting side drops it and sends DEGRADE with the
  reduced mask. -/
  | laneLoss (l : Link) (lane : Lane)
  /-- DEGRADE (R235). A DEGRADE block from the partner is answered with DEGRADE_ACK carrying the
  intersection of the masks. -/
  | degrade (l : Link) (mask : BitVec 16)
  /-- DEGRADE_ACK (R235). DEGRADE_ACK arrives and both sides re-stripe, deskew and resume on the agreed
  lanes, then NAK for replay. -/
  | degradeAck (l : Link) (mask : BitVec 16)
  /-- DEGRADE_ACK_TIMEOUT (R235). No DEGRADE_ACK arrives within 4 µs and the link retrains, keeping link
  state. -/
  | degradeAckTimeout (l : Link)
  /-- LANE_BACKGROUND_LOCK (R236). A lost lane has held 1 ms of error-free TRAIN blocks and is marked to
  join at the next window. -/
  | laneBackgroundLock (l : Link) (lane : Lane)
  /-- LNK_RETRAIN (R219). LNK_CMD.RETRAIN retrains the link, keeping link state. -/
  | lnkRetrain (l : Link)
  /-- LNK_RESET (R221). LNK_CMD.RESET retrains the link with link state reset. -/
  | lnkReset (l : Link)
  /-- REJOIN (R235). LNK_CMD.REJOIN un-retires every retired lane. -/
  | rejoin (l : Link)
  /-- LNK_TEST (R237). LNK_CMD.TEST stops the link's traffic and enters TEST with the LNK_TEST mode. -/
  | lnkTest (l : Link)
  /-- TEST_EXIT (R237). LNK_CMD.TEST_EXIT returns the link from TEST to DETECT. -/
  | testExit (l : Link)
  /-- LNK_TEST_MODE_WRITE (R237). A LNK_TEST.MODE write selects PRBS or loopback and clears the selected
  lanes' counters. -/
  | lnkTestModeWrite (l : Link) (w : Word)
  /-- REG_READ (R234). A READ request on the host link reads COUNT words and is always answered. -/
  | regRead (tag : BitVec 12) (count : BitVec 6) (be : BitVec 4) (step : BitVec 2) (addr : BitVec 24)
  /-- REG_WRITE (R234). A posted WRITE request writes COUNT words and is answered only if refused. -/
  | regWrite (tag : BitVec 12) (count : BitVec 6) (be : BitVec 4) (step : BitVec 2) (addr : BitVec 24) (data : List Word)
  /-- WRITE_ACK (R234). A WRITE_ACK request writes and is answered once the write has taken effect. -/
  | writeAck (tag : BitVec 12) (count : BitVec 6) (be : BitVec 4) (step : BitVec 2) (addr : BitVec 24) (data : List Word)
  /-- DIRECT_READ (R234). A DIRECT_READ waits for earlier requests, reads one word and holds later requests
  until it completes. -/
  | directRead (tag : BitVec 12) (count : BitVec 6) (be : BitVec 4) (step : BitVec 2) (addr : BitVec 24)
  /-- DIRECT_WRITE (R234). A DIRECT_WRITE waits for earlier requests, writes one word and holds later
  requests until it has taken effect. -/
  | directWrite (tag : BitVec 12) (count : BitVec 6) (be : BitVec 4) (step : BitVec 2) (addr : BitVec 24) (data : List Word)
  /-- ETH_FRAME_FORWARD (R239). A frame received on one Ethernet port is forwarded cut-through out of the
  other, buffered, dropped or marked bad. -/
  | ethFrameForward (port : Port) (f : EthFrame) (residence : Nat)
  /-- ULD_FRAME (R245). A Ulidjaif frame for this node is queued, discarded or answered from a kept
  response, and then runs its commands in order. -/
  | uldFrame (port : Port) (f : EthFrame)
  /-- ULD_READ (R259). A READ command returns a dictionary entry's value. -/
  | uldRead (src : OdSrc) (index : BitVec 16) (sub : Byte)
  /-- ULD_WRITE (R260). A WRITE command writes a dictionary entry, a group or broadcast, or a service call.
  -/
  | uldWrite (src : OdSrc) (index : BitVec 16) (sub : Byte) (data : List Byte)
  /-- SEG_READ (R265). A SEG_READ opens or continues a read session and returns one segment of a BLOB. -/
  | segRead (src : OdSrc) (index : BitVec 16) (sub : Byte) (off : Word)
  /-- SEG_WRITE (R266). A SEG_WRITE opens or continues a write session and applies the entry at completion.
  -/
  | segWrite (src : OdSrc) (index : BitVec 16) (sub : Byte) (off : Word) (data : List Byte)
  /-- BEGIN (R275). A TXN BEGIN opens a configuration transaction for the source, or returns NORES or RANGE.
  -/
  | begin (src : OdSrc) (xid : BitVec 16)
  /-- COMMIT (R273). A TXN COMMIT checks the CRC-32 of the staged stream and applies every staged write in
  one MCLK cycle, or discards them. -/
  | commit (src : OdSrc) (xid : BitVec 16) (check : Word)
  /-- ABORT (R273). A TXN ABORT discards the staged commands and closes the transaction. -/
  | abort (src : OdSrc) (xid : BitVec 16)
  /-- IDENT (R244). An IDENT command returns the node ID, state, device identity and run ID. -/
  | ident (src : OdSrc)
  /-- SESSION_TIMEOUT (R267). A segmented-transfer session has seen no segment for 1 s and closes. -/
  | sessionTimeout (k : Nat)
  /-- TXN_TIMEOUT (R275). A transaction has had no command for 10 s and is discarded. -/
  | txnTimeout (src : OdSrc)
  /-- MAILBOX_GO (R268). DEV_ODM_CTL.GO runs the Ulidjaif frame in DEV_ODM_BUF and writes the answer back,
  setting DONE, or sets OVR while BUSY. -/
  | mailboxGo (path : Path)
  /-- BYP_SET (R242). NET_CFG.BYP_SET drives BYPASS_N low within 1 µs. -/
  | bypSet
  /-- BYP_CLR (R242). NET_CFG.BYP_CLR drives BYPASS_N high. -/
  | bypClr
  /-- NET_RATE_WRITE (R238). A write of NET_CFG.RATE or AN restarts both Ethernet ports. -/
  | netRateWrite (w : Word)
  /-- ETH_LINK_DOWN (R250). An Ethernet link goes down, so its frames are discarded and NET_PDLYn reads
  unmeasured. -/
  | ethLinkDown (port : Port)
  /-- PDELAY_REQ_SEND (R249). Each second in peer-to-peer mode a port sends Pdelay_Req. -/
  | pdelayReqSend (port : Port)
  /-- PDELAY_REQ_RECEIVE (R249). A Pdelay_Req is consumed in peer-to-peer mode and answered with a one-step
  Pdelay_Resp. -/
  | pdelayReqReceive (port : Port) (domain : BitVec 8) (seq : BitVec 16) (requester : BitVec 80) (turnaround : Nat)
  /-- PDELAY_RESP_RECEIVE (R250). A Pdelay_Resp completes a Pdelay exchange and NET_PDLYn is updated. -/
  | pdelayRespReceive (port : Port) (seq : BitVec 16) (delay : Nat)
  /-- PTP_ENABLE (R253). PTP_CFG.EN moves a domain to LISTENING at or after READY, or writing 0 disables it
  and discards any pending step. -/
  | ptpEnable (d : Dom) (w : Word)
  /-- ANNOUNCE (R253). An Announce message qualifies foreign masters and the domain selects its master by
  dataset comparison. -/
  | announce (d : Dom) (port : Port) (data : MasterData) (interval : Nat)
  /-- PTP_MASTER_LOST (R255). Three announce or Sync intervals pass without a message and the domain enters
  HOLDOVER with MASTER_LOST. -/
  | ptpMasterLost (d : Dom)
  /-- SYNC (R254). A Sync from the selected master gives an offset sample, which is applied, held, or tested
  as a departure or pending step. -/
  | sync (d : Dom) (port : Port) (master : BitVec 64) (t1 : Int)
  /-- DELAY_REQ_SEND (R253). In end-to-end mode the domain sends Delay_Req at its interval. -/
  | delayReqSend (d : Dom)
  /-- DELAY_RESP (R255). A Delay_Resp gives a meanPathDelay, which may end a departure check. -/
  | delayResp (d : Dom) (mpd logInt : Int)
  /-- PTP_CHECK_TIMEOUT (R255). 2 s pass in a departure check without a return or a new path delay, and the
  latest sample decides. -/
  | ptpCheckTimeout (d : Dom)
  /-- PTP_HOLDOVER_EXPIRY (R254). PTP_HMAX passes in holdover with no master and the domain goes to
  LISTENING. -/
  | ptpHoldoverExpiry (d : Dom)
  /-- ACCEPT (R257). PTP_CMD.ACCEPT fixes the pending step for application at the next domain second. -/
  | accept (d : Dom)
  /-- ABSORB (R257). PTP_CMD.ABSORB takes the pending step into PTP_ASYM and returns the domain to ACQUIRE.
  -/
  | absorb (d : Dom)
  /-- REJECT (R257). PTP_CMD.REJECT clears the pending step and stays in HOLDOVER with HREASON REJECTED. -/
  | reject (d : Dom)
  /-- STEP_APPLY (R47). At the next domain second an accepted step is applied and the era count increments.
  -/
  | stepApply (d : Dom)
  /-- REGISTER_WRITE (R279). A write to a register with no behaviour of its own is checked for width and
  alignment and performed under its fields' access codes. -/
  | registerWrite (path : Path) (addr : BitVec 24) (be : BitVec 4) (w : Word)
  /-- APERTURE_WRITE (R283). A write to the broadcast or a group aperture writes one offset of every member
  channel block in one MCLK cycle. -/
  | apertureWrite (path : Path) (group : Option (Fin 16)) (off : BitVec 12) (be : BitVec 4) (w : Word)
  /-- INDIRECT_ACCESS (R284). An access to ID performs the access at IA.ADDR and advances ADDR when it is
  accepted. -/
  | indirectAccess (path : Path) (write : Bool) (w : Word)
  /-- LCP_READ (R286). An LCP READ transaction returns a turnaround word and then the stepping words. -/
  | lcpRead (step : BitVec 2) (addr : BitVec 24) (n : Nat)
  /-- LCP_WRITE (R286). An LCP WRITE transaction writes each later word at the stepping address until a
  refusal or CS_N rises. -/
  | lcpWrite (step : BitVec 2) (addr : BitVec 24) (data : List Word)
  /-- LCP_STATUS (R287). An LCP STATUS transaction returns the previous transaction's status without an
  access. -/
  | lcpStatus
  /-- LCP_CS_RISE (R286). LCP_CS_N rises and ends the transaction, discarding a partial word with error code
  0b11. -/
  | lcpCsRise (incomplete : Bool)
  /-- UNLOCK_KEY (R292). A PRT_UNLOCK.KEY write arms one unlock for the path, or counts a wrong key and may
  disable unlocking. -/
  | unlockKey (path : Path) (key : BitVec 16)
  /-- UNLOCK_LAPSE (R292). An unlock unused for 100 µs lapses. -/
  | unlockLapse (path : Path)
  /-- FN_LOCK_SET (R294). A write of PRT_LOCK.FN_LOCK = 1 from any path sets the field-network lock until
  power-on reset. -/
  | fnLockSet (path : Path)
  /-- TV_SCRUB (R290). At least every 1 µs each triplicated word is rewritten from its majority, counting
  corrections. -/
  | tvScrub
  /-- MP_DATA_READ (R296). An MP_DATA read returns the Vat or Lake word at MP_ADDR, with ECC handling, and
  increments the address. -/
  | mpDataRead (path : Path)
  /-- MP_DATA_WRITE (R297). An MP_DATA write writes the Vat or Lake word, or is refused with WR_REJ. -/
  | mpDataWrite (path : Path) (w : Word)
  /-- CONFIG_STORE (R307). A completed write of OD 0x1040 checks a configuration image and stores it into
  the slot without the later sequence. -/
  | configStore (src : OdSrc) (bytes : List Byte)
  /-- FLASH_STORE_DONE (R307). A flash store finishes its read-back and reports its outcome, and the next
  queued store starts. -/
  | flashStoreDone (ok : Bool)
  /-- SRAM_SCRUB_PASS (R312). The scrub of an SRAM row finds an error on two successive passes and row
  repair starts under AUTO_ROW. -/
  | sramScrubPass (site : SramSite) (unit row : Nat) (ce ue : List Nat)
  /-- ROW_REPAIR_DONE (R312). The copy into a spare row finishes, reads move to it and the repair is logged.
  -/
  | rowRepairDone
  /-- REPAIR_RETRY (R311). 10 ms after a failed handover the policy requests it once more, and reports
  FE_FAULT after a second failure. -/
  | repairRetry (sp : Spare)
  /-- HEARTBEAT_MISS (R314). A core misses 10 heartbeats and is restarted, or all of Indigo restarts,
  possibly switching service slot. -/
  | heartbeatMiss (core : Fin 8)
  /-- WEAR_UPDATE (R315). Every 1 s the Arrhenius weight of the hottest sensor is added to DEV_WEAR_EQS and
  LIFE_WARN is tested. -/
  | wearUpdate (tj : Int)
  /-- WEAR_LOG_WRITE (R315). Every hour the wear gauges are written to the wear log. -/
  | wearLogWrite
  /-- ETH_LINK_UP (R250). An Ethernet port's link comes up after PCS start and auto-negotiation; NET_PDLYn
  stays unmeasured until the first Pdelay exchange. -/
  | ethLinkUp (port : Port)
  /-- ETH_EGRESS_FREE (R240). An Ethernet egress port finishes its frame in progress and the interframe gap,
  and sends the next buffered forwarded frame or one of the device's own frames. -/
  | ethEgressFree (port : Port)
  /-- ORDER_ERR_RETRY (R219). 1 ms after ALIGN ends with ORDER_ERR, the link returns to DETECT. -/
  | orderErrRetry (l : Link)
  /-- XTAL_AMPLITUDE_RETURN (R39). The crystal's amplitude reappears while REFIN is active; XTAL_OK is set
  and drift supervision and the crystal fallback become available again. -/
  | xtalAmplitudeReturn
  /-- INDIGO_RESTART_DONE (R314). A watchdog restart of one Indigo core, taking 20 ms, or of all of Indigo,
  taking up to 140 ms, completes; the dictionary, mailbox and limit verdicts resume. -/
  | indigoRestartDone
  /-- SERVICE_STOP_TIMEOUT (R314). A core among cores 0 to 5 has not stopped within 10 ms of its call's
  MAXTIME, and the device restarts all of Indigo. -/
  | serviceStopTimeout (core : Fin 8)
  deriving DecidableEq, Repr

end Sys2Proof
end

