-- ==== Sys2Proof/WellFormed.lean ====
section
/-!
DEFINITION. Which commands are well formed: the shape that the rules give a command's lists and numbers
and that its type does not fix. Everything else about an operand, such as a reserved code or an address
that names no register, is for the command's meaning to judge.
-/

namespace Sys2Proof

/-- The handles that service calls carry (R178). -/
def handleOk (h : Nat) : Bool := decide (0 < h) && decide (h < 65536)

/-- Twelve sensors and replica monitors, 256 bins, six taps, COUNT data words, a position of 0 to 255
in a sample, and the length limits of the dictionary's commands. -/
def Instr.wf : Instr → Bool
  | .bootCalDone sides _ => sides.all fun b => b.collections.all fun c => c.length == 256
  | .paceUpdate counts => counts.length == 12 && counts.all fun m => m.length == 16 && m.all fun k => decide (0 < k)
  | .vatGrant _ words => decide (0 < words)
  | .trigInEdge _ _ edge => decide (edge.pos < 256)
  | .stlAssert _ edge _ => decide (edge.pos < 256)
  | .serviceDone handle _ _ _ => handleOk handle
  | .serviceMaxtime handle => handleOk handle
  | .imageWrite _ bytes => decide (bytes.length < 2 ^ 32)
  | .thermalRead temps => temps.length == 12
  | .calCollectDone _ counts => counts.length == 256
  | .adaptWindow _ _ moves _ => moves.length == 6
  | .fastAdaptEnd _ _ moves => moves.length == 6
  | .regWrite _ count _ _ _ data => data.length == count.toNat + 1
  | .writeAck _ count _ _ _ data => data.length == count.toNat + 1
  | .directWrite _ count _ _ _ data => data.length == count.toNat + 1
  | .uldWrite _ _ _ data => decide (data.length ≤ 1024)
  | .segWrite _ _ _ _ data => decide (data.length ≤ 1020)
  | .sessionTimeout k => decide (k < 8)
  | .lcpRead _ _ n => decide (0 < n)
  | .lcpWrite _ _ data => decide (0 < data.length)
  | .configStore _ bytes => decide (bytes.length < 2 ^ 32)
  | .suppliesValid _ => true
  | .powerOnReset => true
  | .railExcursion _ => true
  | .fuseLoad => true
  | .lcpEnable _ _ => true
  | .wearLogLoad => true
  | .ethernetStart => true
  | .bootResponderStart => true
  | .configRead => true
  | .configCommit => true
  | .calSlotChoose => true
  | .serviceImageBoot => true
  | .ready => true
  | .softReset _ => true
  | .refinWindow _ _ _ => true
  | .firstLock => true
  | .lockSourceTimeout => true
  | .noSourceFault => true
  | .refinLost => true
  | .crystalSelect => true
  | .refinReturn => true
  | .crystalLost => true
  | .holdoverEnd _ => true
  | .tbSrcWrite _ _ => true
  | .driftUpdate _ => true
  | .baselineCapture _ => true
  | .rebase => true
  | .ets64Wrap => true
  | .snapCapture => true
  | .paceMaxClr => true
  | .avsCtlWrite _ => true
  | .avsEvaluation _ => true
  | .avsAckTimeout => true
  | .edgeCapture _ _ _ => true
  | .ovfMarkerDeferred _ => true
  | .ovfUnmask _ => true
  | .blindMarkerDeferred _ => true
  | .reducerHandshake _ => true
  | .watermark _ => true
  | .chPartWrite _ _ => true
  | .blindIntervalEnd _ => true
  | .tdacApply _ => true
  | .tdacModeWrite _ _ => true
  | .settlingEnd _ => true
  | .parkEnd _ => true
  | .pacerRun _ _ => true
  | .pacerTick _ => true
  | .tdacQueuePush _ _ => true
  | .loadNEdge _ => true
  | .arrayGo => true
  | .strobe => true
  | .clrIgn => true
  | .spRouteWrite _ _ _ => true
  | .handoverTdacLoad _ => true
  | .handoverSettled _ => true
  | .handoverCheckDone _ _ => true
  | .handoverStreamMove _ => true
  | .handoverForcedCut _ => true
  | .pinTest _ => true
  | .pinTestDone _ _ _ _ _ _ => true
  | .amonSelect _ => true
  | .decResync _ => true
  | .gateClose _ => true
  | .gateStart _ => true
  | .gateStop _ => true
  | .applyNow _ => true
  | .tieRst _ => true
  | .adevDump _ => true
  | .adevClr _ => true
  | .pairTimeout _ => true
  | .exp1 _ _ => true
  | .run _ _ _ _ _ => true
  | .mask1k _ _ _ _ => true
  | .retract _ _ _ _ => true
  | .seal _ _ _ _ => true
  | .unknownDtype _ => true
  | .materialise _ => true
  | .mordantEdge _ => true
  | .autoSeal _ => true
  | .edgeAgeOut _ => true
  | .creditReturn _ => true
  | .mdEnable _ _ => true
  | .mdDisable _ => true
  | .flush _ => true
  | .polRst _ => true
  | .dclr _ => true
  | .mdHWrite _ _ => true
  | .mark _ _ => true
  | .markRelease _ => true
  | .force _ => true
  | .arm _ => true
  | .disarm _ => true
  | .rd _ => true
  | .rel _ => true
  | .recordPostTime _ => true
  | .rearmDone _ => true
  | .streamBlockClose _ _ => true
  | .vatPartitionWrite _ _ => true
  | .trigOutPulseEnd _ => true
  | .hgConfigWrite _ _ _ => true
  | .hgClr _ => true
  | .hgSnap _ => true
  | .clrSweepDone _ => true
  | .lakeSpareMap _ _ _ => true
  | .lakeCopyDone _ => true
  | .level _ _ => true
  | .shmoo _ _ => true
  | .jitter _ _ => true
  | .ltadev _ _ => true
  | .calstore _ _ => true
  | .selftest _ _ => true
  | .serviceStart => true
  | .serviceAbort _ _ => true
  | .liveUpdate _ _ => true
  | .liveUpdateDrain => true
  | .liveUpdateCoreSwap _ => true
  | .liveUpdateCheck _ => true
  | .calTimeDue _ => true
  | .calRun _ => true
  | .calAbort => true
  | .calEventStart _ => true
  | .calOffsetDone _ _ _ => true
  | .calLiveTimeout _ => true
  | .calOverlapDone _ _ => true
  | .calSwap _ => true
  | .calSwapStarved _ => true
  | .calIdleRoute _ => true
  | .calThresholdDone _ _ => true
  | .calVdWrite _ _ => true
  | .autoStore => true
  | .linkAdmission _ => true
  | .linkTrainSeen _ => true
  | .linkLockTimeout _ _ => true
  | .linkAlignDone _ _ _ => true
  | .linkParamDone _ _ _ _ => true
  | .linkEnWrite _ _ => true
  | .widthChangeWindow _ => true
  | .lframeReceive _ _ _ => true
  | .nakReceive _ _ => true
  | .replayTimeout _ => true
  | .ackInterval _ => true
  | .lframeSend _ => true
  | .frameHoldExpiry _ => true
  | .eidleEnter _ => true
  | .eidleWake _ _ => true
  | .adaptReverify _ _ _ => true
  | .laneLoss _ _ => true
  | .degrade _ _ => true
  | .degradeAck _ _ => true
  | .degradeAckTimeout _ => true
  | .laneBackgroundLock _ _ => true
  | .lnkRetrain _ => true
  | .lnkReset _ => true
  | .rejoin _ => true
  | .lnkTest _ => true
  | .testExit _ => true
  | .lnkTestModeWrite _ _ => true
  | .regRead _ _ _ _ _ => true
  | .directRead _ _ _ _ _ => true
  | .ethFrameForward _ _ _ => true
  | .uldFrame _ _ => true
  | .uldRead _ _ _ => true
  | .segRead _ _ _ _ => true
  | .begin _ _ => true
  | .commit _ _ _ => true
  | .abort _ _ => true
  | .ident _ => true
  | .txnTimeout _ => true
  | .mailboxGo _ => true
  | .bypSet => true
  | .bypClr => true
  | .netRateWrite _ => true
  | .ethLinkDown _ => true
  | .pdelayReqSend _ => true
  | .pdelayReqReceive _ _ _ _ _ => true
  | .pdelayRespReceive _ _ _ => true
  | .ptpEnable _ _ => true
  | .announce _ _ _ _ => true
  | .ptpMasterLost _ => true
  | .sync _ _ _ _ => true
  | .delayReqSend _ => true
  | .delayResp _ _ _ => true
  | .ptpCheckTimeout _ => true
  | .ptpHoldoverExpiry _ => true
  | .accept _ => true
  | .absorb _ => true
  | .reject _ => true
  | .stepApply _ => true
  | .registerWrite _ _ _ _ => true
  | .apertureWrite _ _ _ _ _ => true
  | .indirectAccess _ _ _ => true
  | .lcpStatus => true
  | .lcpCsRise _ => true
  | .unlockKey _ _ => true
  | .unlockLapse _ => true
  | .fnLockSet _ => true
  | .tvScrub => true
  | .mpDataRead _ => true
  | .mpDataWrite _ _ => true
  | .flashStoreDone _ => true
  | .sramScrubPass _ _ _ _ _ => true
  | .rowRepairDone => true
  | .repairRetry _ => true
  | .heartbeatMiss _ => true
  | .wearUpdate _ => true
  | .wearLogWrite => true
  | .ethLinkUp _ => true
  | .ethEgressFree _ => true
  | .orderErrRetry _ => true
  | .xtalAmplitudeReturn => true
  | .indigoRestartDone => true
  | .serviceStopTimeout _ => true

end Sys2Proof
end

