-- ==== Sys2Proof/Decode.lean ====
section
/-!
DEFINITION. What a word spells. The command table of this block gives no row any bits (its commands
are register accesses, messages, frames and events), so no word spells a command. How messages and
requests lie in bytes is in Machine/Operands.lean.
-/

namespace Sys2Proof

/-- The command that the low `nbits` bits of `w` spell by the table: the table numbers no bits. -/
def decodeTableWord (nbits w : Nat) : Option Instr :=
  match nbits, w with
  | _, _ => none

end Sys2Proof
end

