-- ==== Sys2Proof/Machine/RegMap.lean ====
section
/-!
DEFINITION. The register map: one address per register (an offset within its block), one field
per row of the bit tables, and one descriptor list per block, transcribed from the bit tables of
spec/01 to spec/14 (each section's register tables; the addresses of R282's block map).
A name `R.X` is register X's byte offset in its block, `F.X_Y` is field Y of register X.
-/

namespace Sys2Proof.Machine

/-- The access codes of R3 (the map has no WM field). -/
inductive Access where
  | ro | rw | rws | w1c | sc
  deriving DecidableEq, Repr

/-- One row of a register's bit table: lowest bit, width, access code, the TV and G marks, and the
reset value the table states (0 for a value loaded from fuses, straps or the wear log). -/
structure FieldRow where
  lo : Nat
  len : Nat
  acc : Access
  tv : Bool
  g : Bool
  reset : Nat
  deriving DecidableEq, Repr

/-- One register (or `count` of them, `stride` bytes apart) of a block. -/
structure RegRow where
  addr : Nat
  count : Nat
  stride : Nat
  fields : List FieldRow
  deriving DecidableEq, Repr

/-- A named field: the byte offset of its register, its lowest bit and its width. -/
structure Fld where
  addr : Nat
  lo : Nat
  len : Nat
  deriving DecidableEq, Repr

/-- The same field `k` registers further on, `stride` bytes apart. -/
def Fld.at (f : Fld) (stride k : Nat) : Fld := { f with addr := f.addr + stride * k }

namespace R
abbrev CH_CFG : Nat := 0x0
abbrev CH_TDAC : Nat := 0x4
abbrev CH_TDAC_Q : Nat := 0x8
abbrev CH_PIN : Nat := 0xC
abbrev CH_DEC : Nat := 0x10
abbrev CH_STAT : Nat := 0x14
abbrev CH_FUNC : Nat := 0x18
abbrev CH_GATE_H : Nat := 0x1C
abbrev CH_GATE_L : Nat := 0x20
abbrev CH_PART : Nat := 0x24
abbrev CH_TITO_H : Nat := 0x28
abbrev CH_TITO_L : Nat := 0x2C
abbrev CH_NOM_H : Nat := 0x30
abbrev CH_NOM_L : Nat := 0x34
abbrev CH_CMD : Nat := 0x38
abbrev CH_GSEQ : Nat := 0x3C
abbrev CH_MD_CTL : Nat := 0x40
abbrev CH_MD_H : Nat := 0x44
abbrev CH_MD_STAT : Nat := 0x48
abbrev CH_MD_LVL : Nat := 0x4C
abbrev CH_MD_CMD : Nat := 0x50
abbrev CH_HG_CTL : Nat := 0x60
abbrev CH_HG_NB : Nat := 0x64
abbrev CH_HG_LO_H : Nat := 0x68
abbrev CH_HG_LO_L : Nat := 0x6C
abbrev CH_HG_CMD : Nat := 0x70
abbrev CH_HG_STAT : Nat := 0x74
abbrev CH_MD_WP : Nat := 0x80
abbrev CH_LV_CTL : Nat := 0xC0
abbrev CH_LV_LO_H : Nat := 0xC4
abbrev CH_LV_LO_L : Nat := 0xC8
abbrev CH_LV_HI_H : Nat := 0xCC
abbrev CH_LV_HI_L : Nat := 0xD0
abbrev CH_CAL_CTL : Nat := 0xE0
abbrev CH_CAL_STAT : Nat := 0xE4
abbrev CH_CAL_AGE : Nat := 0xE8
abbrev CH_CAL_TJ : Nat := 0xEC
abbrev CH_ACC_H : Nat := 0x100
abbrev CH_ACC_L : Nat := 0x104
abbrev CH_CROWD_H : Nat := 0x108
abbrev CH_CROWD_L : Nat := 0x10C
abbrev CH_LOST_H : Nat := 0x110
abbrev CH_LOST_L : Nat := 0x114
abbrev CH_OVF_H : Nat := 0x118
abbrev CH_OVF_L : Nat := 0x11C
abbrev CH_GATES_H : Nat := 0x120
abbrev CH_GATES_L : Nat := 0x124
abbrev CH_ORPHAN_H : Nat := 0x128
abbrev CH_ORPHAN_L : Nat := 0x12C
abbrev CH_TIMEOUT_H : Nat := 0x130
abbrev CH_TIMEOUT_L : Nat := 0x134
abbrev CH_COINC_H : Nat := 0x138
abbrev CH_COINC_L : Nat := 0x13C
abbrev CH_MD_HIT_H : Nat := 0x140
abbrev CH_MD_HIT_L : Nat := 0x144
abbrev CH_MD_MISS_H : Nat := 0x148
abbrev CH_MD_MISS_L : Nat := 0x14C
abbrev CH_MD_EXTRA_H : Nat := 0x150
abbrev CH_MD_EXTRA_L : Nat := 0x154
abbrev CH_MD_LATE_H : Nat := 0x158
abbrev CH_MD_LATE_L : Nat := 0x15C
abbrev CH_MD_XSUM_H : Nat := 0x160
abbrev CH_MD_XSUM_L : Nat := 0x164
abbrev CH_MD_BAD_H : Nat := 0x168
abbrev CH_MD_BAD_L : Nat := 0x16C
abbrev CH_MD_WDRAW_H : Nat := 0x170
abbrev CH_MD_WDRAW_L : Nat := 0x174
abbrev CH_MD_DSUM_H : Nat := 0x178
abbrev CH_MD_DSUM_L : Nat := 0x17C
abbrev CH_MD_DSQ_H : Nat := 0x180
abbrev CH_MD_DSQ_L : Nat := 0x184
abbrev CH_MD_DMIN : Nat := 0x188
abbrev CH_MD_DMAX : Nat := 0x18C
abbrev CH_HG_TOT_H : Nat := 0x190
abbrev CH_HG_TOT_L : Nat := 0x194
abbrev CH_HG_UEL_H : Nat := 0x198
abbrev CH_HG_UEL_L : Nat := 0x19C
abbrev CH_HG_NOSINK_H : Nat := 0x1A0
abbrev CH_HG_NOSINK_L : Nat := 0x1A4
abbrev CH_LV_FAIL_H : Nat := 0x1A8
abbrev CH_LV_FAIL_L : Nat := 0x1AC
abbrev CH_CAL_SWAP_H : Nat := 0x1B0
abbrev CH_CAL_SWAP_L : Nat := 0x1B4
abbrev CH_CAL_STARVE_H : Nat := 0x1B8
abbrev CH_CAL_STARVE_L : Nat := 0x1BC
abbrev DEV_ID : Nat := 0x0
abbrev DEV_STAT : Nat := 0x4
abbrev DEV_MODE : Nat := 0x8
abbrev IA : Nat := 0x10
abbrev ID : Nat := 0x14
abbrev DEV_CMD : Nat := 0x20
abbrev DEV_CFG_STAT : Nat := 0x24
abbrev DEV_CFG_SEQ : Nat := 0x28
abbrev DEV_FLT : Nat := 0x2C
abbrev DEV_AMON : Nat := 0x80
abbrev DEV_TDAC_ARR : Nat := 0x84
abbrev DEV_TDAC_SCNT : Nat := 0x88
abbrev DEV_TPACE : Nat := 0xA0
abbrev DEV_LK_STAT : Nat := 0x200
abbrev DEV_LK_CE_H : Nat := 0x204
abbrev DEV_LK_CE_L : Nat := 0x208
abbrev DEV_LK_UE_H : Nat := 0x20C
abbrev DEV_LK_UE_L : Nat := 0x210
abbrev DEV_LK_SPMAP : Nat := 0x220
abbrev DEV_SVC_STAT : Nat := 0x300
abbrev DEV_SVC_VER : Nat := 0x304
abbrev DEV_ODM_CTL : Nat := 0x400
abbrev UG_MASK : Nat := 0x500
abbrev DEV_ODM_BUF : Nat := 0x800
abbrev DEV_REP_CTL : Nat := 0xE00
abbrev DEV_REP_STAT : Nat := 0xE04
abbrev DEV_SRAM_STAT : Nat := 0xE08
abbrev DEV_SRAM_CE_H : Nat := 0xE10
abbrev DEV_SRAM_CE_L : Nat := 0xE14
abbrev DEV_SRAM_UE_H : Nat := 0xE18
abbrev DEV_SRAM_UE_L : Nat := 0xE1C
abbrev DEV_WEAR_EQS_H : Nat := 0xE40
abbrev DEV_WEAR_EQS_L : Nat := 0xE44
abbrev DEV_WEAR_USED : Nat := 0xE48
abbrev DEV_WEAR_FLASH : Nat := 0xE4C
abbrev DEV_WEAR_TJ : Nat := 0xE50
abbrev DEV_WEAR_CTL : Nat := 0xE54
abbrev TB_SRC : Nat := 0x1000
abbrev TB_STAT : Nat := 0x1004
abbrev TB_SWITCH_CNT : Nat := 0x1008
abbrev TB_DRIFT : Nat := 0x100C
abbrev TB_REF_OFFS : Nat := 0x1010
abbrev TB_REF_BASE : Nat := 0x1014
abbrev TB_ETS_H : Nat := 0x1018
abbrev TB_ETS_L : Nat := 0x101C
abbrev TB_EPX : Nat := 0x1020
abbrev TB_SNAP_CTL : Nat := 0x1024
abbrev TB_SNAP_EPX : Nat := 0x1028
abbrev TB_SNAP_ETS_H : Nat := 0x102C
abbrev TB_SNAP_ETS_L : Nat := 0x1030
abbrev TB_RUN_ID : Nat := 0x1034
abbrev TB_PACE : Nat := 0x1040
abbrev TB_PACE_MAX : Nat := 0x1044
abbrev TB_PACE_TARGET : Nat := 0x1048
abbrev TB_AVS_CTL : Nat := 0x104C
abbrev TB_AVS_STAT : Nat := 0x1050
abbrev TB_SNAP_TD_0 : Nat := 0x1100
abbrev TB_SNAP_TD_1 : Nat := 0x1104
abbrev TB_SNAP_TD_2 : Nat := 0x1108
abbrev TB_SNAP_TD_3 : Nat := 0x110C
abbrev TRG_OUT : Nat := 0x2800
abbrev TRG_STL_CTL : Nat := 0x2808
abbrev TRG_STL_SEL : Nat := 0x280C
abbrev TRG_STL_LVL : Nat := 0x2810
abbrev TRG_VAT_STAT : Nat := 0x2814
abbrev TRG_VAT_CE_H : Nat := 0x2818
abbrev TRG_VAT_CE_L : Nat := 0x281C
abbrev TRG_VAT_UE_H : Nat := 0x2820
abbrev TRG_VAT_UE_L : Nat := 0x2824
abbrev TRG_VP : Nat := 0x2900
abbrev TRG_VSM : Nat := 0x2A00
abbrev CAL_CTL : Nat := 0x3000
abbrev CAL_DT : Nat := 0x3004
abbrev CAL_TMAX : Nat := 0x3008
abbrev CAL_SWAP_WAIT : Nat := 0x300C
abbrev CAL_CHI : Nat := 0x3010
abbrev CAL_STAT : Nat := 0x3014
abbrev CAL_CMD : Nat := 0x3018
abbrev CAL_MASK : Nat := 0x3020
abbrev CAL_VA : Nat := 0x3040
abbrev CAL_VD : Nat := 0x3044
abbrev CAL_SEQ : Nat := 0x3048
abbrev CAL_EVT_H : Nat := 0x3050
abbrev CAL_EVT_L : Nat := 0x3054
abbrev NET_CFG : Nat := 0x5000
abbrev NET_STAT : Nat := 0x5004
abbrev NET_NODE : Nat := 0x5008
abbrev NET_ID : Nat := 0x500C
abbrev NET_MAC_H : Nat := 0x5010
abbrev NET_MAC_L : Nat := 0x5014
abbrev NET_PDLY : Nat := 0x5018
abbrev NET_FWD0_H : Nat := 0x5040
abbrev NET_FWD0_L : Nat := 0x5044
abbrev NET_FWD1_H : Nat := 0x5048
abbrev NET_FWD1_L : Nat := 0x504C
abbrev NET_FCS_H : Nat := 0x5050
abbrev NET_FCS_L : Nat := 0x5054
abbrev NET_DROP_H : Nat := 0x5058
abbrev NET_DROP_L : Nat := 0x505C
abbrev NET_UNCOR_H : Nat := 0x5060
abbrev NET_UNCOR_L : Nat := 0x5064
abbrev NET_ULDRX_H : Nat := 0x5068
abbrev NET_ULDRX_L : Nat := 0x506C
abbrev NET_ULDDROP_H : Nat := 0x5070
abbrev NET_ULDDROP_L : Nat := 0x5074
abbrev PRT_LOCK : Nat := 0x6000
abbrev PRT_UNLOCK : Nat := 0x6004
abbrev PRT_STAT : Nat := 0x6008
abbrev PRT_FAULTA : Nat := 0x6010
abbrev PRT_TVFIX : Nat := 0x6014
abbrev PRT_FUSE0 : Nat := 0x6040
abbrev PRT_FUSE1 : Nat := 0x6044
abbrev PRT_FUSE2 : Nat := 0x6048
abbrev PRT_FUSE3 : Nat := 0x604C
abbrev MP_CTL : Nat := 0x7000
abbrev MP_ADDR : Nat := 0x7004
abbrev MP_DATA : Nat := 0x7008
abbrev MP_STAT : Nat := 0x700C
abbrev PTP_CFG : Nat := 0x0
abbrev PTP_JTHR : Nat := 0x4
abbrev PTP_PTHR : Nat := 0x8
abbrev PTP_HMAX : Nat := 0xC
abbrev PTP_STAT : Nat := 0x10
abbrev PTP_CMD : Nat := 0x14
abbrev PTP_PEND_H : Nat := 0x18
abbrev PTP_PEND_L : Nat := 0x1C
abbrev PTP_OFS_H : Nat := 0x20
abbrev PTP_OFS_L : Nat := 0x24
abbrev PTP_MPD_H : Nat := 0x28
abbrev PTP_MPD_L : Nat := 0x2C
abbrev PTP_ASYM_H : Nat := 0x30
abbrev PTP_ASYM_L : Nat := 0x34
abbrev PTP_GMID_H : Nat := 0x38
abbrev PTP_GMID_L : Nat := 0x3C
abbrev LNK_CFG : Nat := 0x0
abbrev LNK_LANES : Nat := 0x4
abbrev LNK_STAT : Nat := 0x8
abbrev LNK_CMD : Nat := 0xC
abbrev LNK_TEST : Nat := 0x10
abbrev LNK_TIMER : Nat := 0x14
abbrev LNK_LSTAT : Nat := 0x40
abbrev LNK_PRBS_H : Nat := 0x80
abbrev LNK_PRBS_L : Nat := 0x84
abbrev LNK_CRC_H : Nat := 0x100
abbrev LNK_CRC_L : Nat := 0x104
abbrev LNK_NAK_H : Nat := 0x108
abbrev LNK_NAK_L : Nat := 0x10C
abbrev LNK_RPLY_H : Nat := 0x110
abbrev LNK_RPLY_L : Nat := 0x114
abbrev LNK_DUP_H : Nat := 0x118
abbrev LNK_DUP_L : Nat := 0x11C
abbrev LNK_CLS_H : Nat := 0x120
abbrev LNK_CLS_L : Nat := 0x124
abbrev LNK_TXF_H : Nat := 0x128
abbrev LNK_TXF_L : Nat := 0x12C
abbrev LNK_RXF_H : Nat := 0x130
abbrev LNK_RXF_L : Nat := 0x134
abbrev SP_ROUTE : Nat := 0x0
abbrev SP_STAT : Nat := 0x4
abbrev SP_WAIT : Nat := 0x8
abbrev TRG_TU_CFG : Nat := 0x0
abbrev TRG_TU_SRC : Nat := 0x4
abbrev TRG_TU_MARK : Nat := 0x8
abbrev TRG_TU_EDGE : Nat := 0xC
abbrev TRG_TU_VCOND : Nat := 0x10
abbrev TRG_TU_VLO_H : Nat := 0x14
abbrev TRG_TU_VLO_L : Nat := 0x18
abbrev TRG_TU_VHI_H : Nat := 0x1C
abbrev TRG_TU_VHI_L : Nat := 0x20
abbrev TRG_TU_PRE : Nat := 0x24
abbrev TRG_TU_POST : Nat := 0x28
abbrev TRG_TU_POSTT_H : Nat := 0x2C
abbrev TRG_TU_POSTT_L : Nat := 0x30
abbrev TRG_TU_CHM : Nat := 0x34
abbrev TRG_TU_CMD : Nat := 0x44
abbrev TRG_TU_STAT : Nat := 0x48
abbrev TRG_TU_EVT : Nat := 0x4C
abbrev TRG_TU_NEXT : Nat := 0x50
abbrev TRG_TU_MISSC : Nat := 0x54
abbrev TRG_TU_IGNC : Nat := 0x58
abbrev TRG_TU_LOSTC : Nat := 0x5C
end R

namespace F
abbrev CH_CFG_EN : Fld := ⟨0x0, 15, 1⟩
abbrev CH_CFG_INV : Fld := ⟨0x0, 12, 1⟩
abbrev CH_CFG_TERM : Fld := ⟨0x0, 8, 2⟩
abbrev CH_CFG_PAIR : Fld := ⟨0x0, 5, 1⟩
abbrev CH_CFG_DIFF : Fld := ⟨0x0, 4, 1⟩
abbrev CH_TDAC_MODE : Fld := ⟨0x4, 22, 2⟩
abbrev CH_TDAC_HYS : Fld := ⟨0x4, 19, 3⟩
abbrev CH_TDAC_RANGE : Fld := ⟨0x4, 18, 1⟩
abbrev CH_TDAC_CODE : Fld := ⟨0x4, 0, 18⟩
abbrev CH_TDAC_Q_LEVEL : Fld := ⟨0x8, 18, 7⟩
abbrev CH_TDAC_Q_PUSH : Fld := ⟨0x8, 0, 18⟩
abbrev CH_PIN_TEST : Fld := ⟨0xC, 31, 1⟩
abbrev CH_PIN_PARKED : Fld := ⟨0xC, 18, 1⟩
abbrev CH_PIN_BLIND_T : Fld := ⟨0xC, 17, 1⟩
abbrev CH_PIN_SETTLING : Fld := ⟨0xC, 16, 1⟩
abbrev CH_PIN_PT_DONE : Fld := ⟨0xC, 11, 1⟩
abbrev CH_PIN_PT_REJ : Fld := ⟨0xC, 10, 1⟩
abbrev CH_PIN_TQ_UNDER : Fld := ⟨0xC, 9, 1⟩
abbrev CH_PIN_TQ_FULL : Fld := ⟨0xC, 8, 1⟩
abbrev CH_PIN_PT_PAIR : Fld := ⟨0xC, 7, 1⟩
abbrev CH_PIN_PT_N : Fld := ⟨0xC, 3, 3⟩
abbrev CH_PIN_PT_P : Fld := ⟨0xC, 0, 3⟩
abbrev CH_DEC_RESYNC : Fld := ⟨0x10, 31, 1⟩
abbrev CH_DEC_GSYNC : Fld := ⟨0x10, 30, 1⟩
abbrev CH_DEC_POL : Fld := ⟨0x10, 16, 2⟩
abbrev CH_DEC_DM1 : Fld := ⟨0x10, 0, 16⟩
abbrev CH_STAT_SUSTAIN_EXCEEDED : Fld := ⟨0x14, 31, 1⟩
abbrev CH_STAT_OVF : Fld := ⟨0x14, 30, 1⟩
abbrev CH_STAT_BLIND : Fld := ⟨0x14, 29, 1⟩
abbrev CH_STAT_CROWD : Fld := ⟨0x14, 28, 1⟩
abbrev CH_STAT_TIMEOUT : Fld := ⟨0x14, 27, 1⟩
abbrev CH_STAT_COINC : Fld := ⟨0x14, 26, 1⟩
abbrev CH_STAT_ORPHAN : Fld := ⟨0x14, 25, 1⟩
abbrev CH_STAT_POL_SUSPECT : Fld := ⟨0x14, 24, 1⟩
abbrev CH_STAT_LATE_DESC : Fld := ⟨0x14, 23, 1⟩
abbrev CH_STAT_CAL_STARVED : Fld := ⟨0x14, 22, 1⟩
abbrev CH_STAT_PART_REJ : Fld := ⟨0x14, 21, 1⟩
abbrev CH_STAT_CAL_DEFER_CORR : Fld := ⟨0x14, 20, 1⟩
abbrev CH_STAT_SPARE : Fld := ⟨0x14, 19, 1⟩
abbrev CH_STAT_SIDE : Fld := ⟨0x14, 18, 1⟩
abbrev CH_STAT_OVF_BLIND : Fld := ⟨0x14, 17, 1⟩
abbrev CH_STAT_OVF_RUN : Fld := ⟨0x14, 9, 8⟩
abbrev CH_STAT_FIFO_LVL : Fld := ⟨0x14, 0, 9⟩
abbrev CH_FUNC_FEN : Fld := ⟨0x18, 31, 1⟩
abbrev CH_FUNC_EST : Fld := ⟨0x18, 30, 1⟩
abbrev CH_FUNC_EACH : Fld := ⟨0x18, 29, 1⟩
abbrev CH_FUNC_GALIGN : Fld := ⟨0x18, 28, 1⟩
abbrev CH_FUNC_GMODE : Fld := ⟨0x18, 26, 2⟩
abbrev CH_FUNC_SIGNED : Fld := ⟨0x18, 25, 1⟩
abbrev CH_FUNC_START_SEL : Fld := ⟨0x18, 24, 1⟩
abbrev CH_FUNC_SPOL : Fld := ⟨0x18, 22, 2⟩
abbrev CH_FUNC_TPOL : Fld := ⟨0x18, 20, 2⟩
abbrev CH_FUNC_WNEG : Fld := ⟨0x18, 19, 1⟩
abbrev CH_FUNC_STATS : Fld := ⟨0x18, 16, 3⟩
abbrev CH_FUNC_ADEV : Fld := ⟨0x18, 15, 1⟩
abbrev CH_FUNC_TIE_REF : Fld := ⟨0x18, 14, 1⟩
abbrev CH_FUNC_GSRC : Fld := ⟨0x18, 8, 4⟩
abbrev CH_FUNC_GSTOP : Fld := ⟨0x18, 4, 4⟩
abbrev CH_FUNC_FUNC : Fld := ⟨0x18, 0, 4⟩
abbrev CH_GATE_H_G : Fld := ⟨0x1C, 0, 18⟩
abbrev CH_GATE_L_G : Fld := ⟨0x20, 0, 32⟩
abbrev CH_PART_PEN : Fld := ⟨0x24, 31, 1⟩
abbrev CH_PART_PCH : Fld := ⟨0x24, 0, 7⟩
abbrev CH_TITO_H_T : Fld := ⟨0x28, 0, 9⟩
abbrev CH_TITO_L_T : Fld := ⟨0x2C, 0, 32⟩
abbrev CH_NOM_H_P : Fld := ⟨0x30, 0, 32⟩
abbrev CH_NOM_L_P : Fld := ⟨0x34, 0, 32⟩
abbrev CH_CMD_APPLY_NOW : Fld := ⟨0x38, 31, 1⟩
abbrev CH_CMD_START : Fld := ⟨0x38, 30, 1⟩
abbrev CH_CMD_STOP : Fld := ⟨0x38, 29, 1⟩
abbrev CH_CMD_ADEV_DUMP : Fld := ⟨0x38, 28, 1⟩
abbrev CH_CMD_ADEV_CLR : Fld := ⟨0x38, 27, 1⟩
abbrev CH_CMD_TIE_RST : Fld := ⟨0x38, 26, 1⟩
abbrev CH_GSEQ_GSEQ : Fld := ⟨0x3C, 0, 32⟩
abbrev CH_MD_CTL_EN : Fld := ⟨0x40, 31, 1⟩
abbrev CH_MD_CTL_VDEST : Fld := ⟨0x40, 29, 2⟩
abbrev CH_MD_CTL_XEMIT : Fld := ⟨0x40, 28, 1⟩
abbrev CH_MD_CTL_POLCHK : Fld := ⟨0x40, 27, 1⟩
abbrev CH_MD_H_H : Fld := ⟨0x44, 0, 24⟩
abbrev CH_MD_STAT_GEN : Fld := ⟨0x48, 28, 4⟩
abbrev CH_MD_STAT_EN_REJ : Fld := ⟨0x48, 7, 1⟩
abbrev CH_MD_STAT_QOVR : Fld := ⟨0x48, 6, 1⟩
abbrev CH_MD_STAT_BAD_DESC : Fld := ⟨0x48, 5, 1⟩
abbrev CH_MD_STAT_SEQ_ERR : Fld := ⟨0x48, 4, 1⟩
abbrev CH_MD_STAT_STALE : Fld := ⟨0x48, 3, 1⟩
abbrev CH_MD_STAT_RT_PARTIAL : Fld := ⟨0x48, 2, 1⟩
abbrev CH_MD_STAT_LOG_FULL : Fld := ⟨0x48, 1, 1⟩
abbrev CH_MD_STAT_NOEN : Fld := ⟨0x48, 0, 1⟩
abbrev CH_MD_LVL_LOG : Fld := ⟨0x4C, 18, 14⟩
abbrev CH_MD_LVL_TAB : Fld := ⟨0x4C, 8, 10⟩
abbrev CH_MD_LVL_QUEUE : Fld := ⟨0x4C, 0, 7⟩
abbrev CH_MD_CMD_FLUSH : Fld := ⟨0x50, 31, 1⟩
abbrev CH_MD_CMD_POL_RST : Fld := ⟨0x50, 30, 1⟩
abbrev CH_MD_CMD_DCLR : Fld := ⟨0x50, 29, 1⟩
abbrev CH_HG_CTL_SRC : Fld := ⟨0x60, 30, 2⟩
abbrev CH_HG_CTL_DBUF : Fld := ⟨0x60, 29, 1⟩
abbrev CH_HG_CTL_WSH : Fld := ⟨0x60, 21, 6⟩
abbrev CH_HG_CTL_NBM1 : Fld := ⟨0x60, 14, 7⟩
abbrev CH_HG_CTL_BASE : Fld := ⟨0x60, 7, 7⟩
abbrev CH_HG_NB_NB : Fld := ⟨0x64, 0, 22⟩
abbrev CH_HG_LO_H_VALUE : Fld := ⟨0x68, 0, 32⟩
abbrev CH_HG_LO_L_VALUE : Fld := ⟨0x6C, 0, 32⟩
abbrev CH_HG_CMD_CLR : Fld := ⟨0x70, 31, 1⟩
abbrev CH_HG_CMD_SNAP : Fld := ⟨0x70, 30, 1⟩
abbrev CH_HG_STAT_HALF : Fld := ⟨0x74, 31, 1⟩
abbrev CH_HG_STAT_CLR_BUSY : Fld := ⟨0x74, 30, 1⟩
abbrev CH_HG_STAT_SVC_OWN : Fld := ⟨0x74, 29, 1⟩
abbrev CH_HG_STAT_CMD_REJ : Fld := ⟨0x74, 5, 1⟩
abbrev CH_HG_STAT_CFG_REJ : Fld := ⟨0x74, 4, 1⟩
abbrev CH_HG_STAT_SAT : Fld := ⟨0x74, 3, 1⟩
abbrev CH_HG_STAT_UE : Fld := ⟨0x74, 2, 1⟩
abbrev CH_HG_STAT_NOSINK : Fld := ⟨0x74, 1, 1⟩
abbrev CH_MD_WP_LATE : Fld := ⟨0x80, 16, 16⟩
abbrev CH_MD_WP_EARLY : Fld := ⟨0x80, 0, 16⟩
abbrev CH_LV_CTL_EN : Fld := ⟨0xC0, 31, 1⟩
abbrev CH_LV_CTL_HOST : Fld := ⟨0xC0, 30, 1⟩
abbrev CH_LV_CTL_STRICT : Fld := ⟨0xC0, 29, 1⟩
abbrev CH_LV_CTL_SEL : Fld := ⟨0xC0, 26, 3⟩
abbrev CH_LV_LO_H_VALUE : Fld := ⟨0xC4, 0, 32⟩
abbrev CH_LV_LO_L_VALUE : Fld := ⟨0xC8, 0, 32⟩
abbrev CH_LV_HI_H_VALUE : Fld := ⟨0xCC, 0, 32⟩
abbrev CH_LV_HI_L_VALUE : Fld := ⟨0xD0, 0, 32⟩
abbrev CH_CAL_CTL_HOLD : Fld := ⟨0xE0, 31, 1⟩
abbrev CH_CAL_CTL_LIVE_OFF : Fld := ⟨0xE0, 30, 1⟩
abbrev CH_CAL_CTL_NOIDLE : Fld := ⟨0xE0, 29, 1⟩
abbrev CH_CAL_CTL_NOLOAN : Fld := ⟨0xE0, 28, 1⟩
abbrev CH_CAL_STAT_PHASE : Fld := ⟨0xE4, 28, 4⟩
abbrev CH_CAL_STAT_CAUSE : Fld := ⟨0xE4, 23, 5⟩
abbrev CH_CAL_STAT_DSRC_A : Fld := ⟨0xE4, 21, 2⟩
abbrev CH_CAL_STAT_DSRC_B : Fld := ⟨0xE4, 19, 2⟩
abbrev CH_CAL_STAT_THR_DEFER : Fld := ⟨0xE4, 18, 1⟩
abbrev CH_CAL_STAT_THR_DUE : Fld := ⟨0xE4, 17, 1⟩
abbrev CH_CAL_STAT_FAIL_A : Fld := ⟨0xE4, 7, 1⟩
abbrev CH_CAL_STAT_FAIL_B : Fld := ⟨0xE4, 6, 1⟩
abbrev CH_CAL_STAT_UNCHECKED : Fld := ⟨0xE4, 5, 1⟩
abbrev CH_CAL_STAT_ABORTED : Fld := ⟨0xE4, 4, 1⟩
abbrev CH_CAL_STAT_TRIM_LIM : Fld := ⟨0xE4, 3, 1⟩
abbrev CH_CAL_STAT_CMD_REJ : Fld := ⟨0xE4, 2, 1⟩
abbrev CH_CAL_AGE_SAGE : Fld := ⟨0xE8, 16, 16⟩
abbrev CH_CAL_AGE_TAGE : Fld := ⟨0xE8, 0, 16⟩
abbrev CH_CAL_TJ_STJ : Fld := ⟨0xEC, 16, 16⟩
abbrev CH_CAL_TJ_TTJ : Fld := ⟨0xEC, 0, 16⟩
abbrev CH_ACC_H_VALUE : Fld := ⟨0x100, 0, 32⟩
abbrev CH_ACC_L_VALUE : Fld := ⟨0x104, 0, 32⟩
abbrev CH_CROWD_H_VALUE : Fld := ⟨0x108, 0, 32⟩
abbrev CH_CROWD_L_VALUE : Fld := ⟨0x10C, 0, 32⟩
abbrev CH_LOST_H_VALUE : Fld := ⟨0x110, 0, 32⟩
abbrev CH_LOST_L_VALUE : Fld := ⟨0x114, 0, 32⟩
abbrev CH_OVF_H_VALUE : Fld := ⟨0x118, 0, 32⟩
abbrev CH_OVF_L_VALUE : Fld := ⟨0x11C, 0, 32⟩
abbrev CH_GATES_H_VALUE : Fld := ⟨0x120, 0, 32⟩
abbrev CH_GATES_L_VALUE : Fld := ⟨0x124, 0, 32⟩
abbrev CH_ORPHAN_H_VALUE : Fld := ⟨0x128, 0, 32⟩
abbrev CH_ORPHAN_L_VALUE : Fld := ⟨0x12C, 0, 32⟩
abbrev CH_TIMEOUT_H_VALUE : Fld := ⟨0x130, 0, 32⟩
abbrev CH_TIMEOUT_L_VALUE : Fld := ⟨0x134, 0, 32⟩
abbrev CH_COINC_H_VALUE : Fld := ⟨0x138, 0, 32⟩
abbrev CH_COINC_L_VALUE : Fld := ⟨0x13C, 0, 32⟩
abbrev CH_MD_HIT_H_VALUE : Fld := ⟨0x140, 0, 32⟩
abbrev CH_MD_HIT_L_VALUE : Fld := ⟨0x144, 0, 32⟩
abbrev CH_MD_MISS_H_VALUE : Fld := ⟨0x148, 0, 32⟩
abbrev CH_MD_MISS_L_VALUE : Fld := ⟨0x14C, 0, 32⟩
abbrev CH_MD_EXTRA_H_VALUE : Fld := ⟨0x150, 0, 32⟩
abbrev CH_MD_EXTRA_L_VALUE : Fld := ⟨0x154, 0, 32⟩
abbrev CH_MD_LATE_H_VALUE : Fld := ⟨0x158, 0, 32⟩
abbrev CH_MD_LATE_L_VALUE : Fld := ⟨0x15C, 0, 32⟩
abbrev CH_MD_XSUM_H_VALUE : Fld := ⟨0x160, 0, 32⟩
abbrev CH_MD_XSUM_L_VALUE : Fld := ⟨0x164, 0, 32⟩
abbrev CH_MD_BAD_H_VALUE : Fld := ⟨0x168, 0, 32⟩
abbrev CH_MD_BAD_L_VALUE : Fld := ⟨0x16C, 0, 32⟩
abbrev CH_MD_WDRAW_H_VALUE : Fld := ⟨0x170, 0, 32⟩
abbrev CH_MD_WDRAW_L_VALUE : Fld := ⟨0x174, 0, 32⟩
abbrev CH_MD_DSUM_H_VALUE : Fld := ⟨0x178, 0, 32⟩
abbrev CH_MD_DSUM_L_VALUE : Fld := ⟨0x17C, 0, 32⟩
abbrev CH_MD_DSQ_H_VALUE : Fld := ⟨0x180, 0, 32⟩
abbrev CH_MD_DSQ_L_VALUE : Fld := ⟨0x184, 0, 32⟩
abbrev CH_MD_DMIN_DMIN : Fld := ⟨0x188, 0, 24⟩
abbrev CH_MD_DMAX_DMAX : Fld := ⟨0x18C, 0, 24⟩
abbrev CH_HG_TOT_H_VALUE : Fld := ⟨0x190, 0, 32⟩
abbrev CH_HG_TOT_L_VALUE : Fld := ⟨0x194, 0, 32⟩
abbrev CH_HG_UEL_H_VALUE : Fld := ⟨0x198, 0, 32⟩
abbrev CH_HG_UEL_L_VALUE : Fld := ⟨0x19C, 0, 32⟩
abbrev CH_HG_NOSINK_H_VALUE : Fld := ⟨0x1A0, 0, 32⟩
abbrev CH_HG_NOSINK_L_VALUE : Fld := ⟨0x1A4, 0, 32⟩
abbrev CH_LV_FAIL_H_VALUE : Fld := ⟨0x1A8, 0, 32⟩
abbrev CH_LV_FAIL_L_VALUE : Fld := ⟨0x1AC, 0, 32⟩
abbrev CH_CAL_SWAP_H_VALUE : Fld := ⟨0x1B0, 0, 32⟩
abbrev CH_CAL_SWAP_L_VALUE : Fld := ⟨0x1B4, 0, 32⟩
abbrev CH_CAL_STARVE_H_VALUE : Fld := ⟨0x1B8, 0, 32⟩
abbrev CH_CAL_STARVE_L_VALUE : Fld := ⟨0x1BC, 0, 32⟩
abbrev DEV_ID_PART : Fld := ⟨0x0, 16, 16⟩
abbrev DEV_ID_REV : Fld := ⟨0x0, 8, 8⟩
abbrev DEV_STAT_READY : Fld := ⟨0x4, 31, 1⟩
abbrev DEV_STAT_CFG_DONE : Fld := ⟨0x4, 30, 1⟩
abbrev DEV_STAT_CFG_DEFAULTED : Fld := ⟨0x4, 29, 1⟩
abbrev DEV_MODE_DIRECT_EN : Fld := ⟨0x8, 31, 1⟩
abbrev DEV_MODE_LCP_WR : Fld := ⟨0x8, 30, 1⟩
abbrev DEV_MODE_MP_WR : Fld := ⟨0x8, 29, 1⟩
abbrev IA_STEP : Fld := ⟨0x10, 28, 4⟩
abbrev IA_ADDR : Fld := ⟨0x10, 0, 24⟩
abbrev ID_DATA : Fld := ⟨0x14, 0, 32⟩
abbrev DEV_CMD_SRST : Fld := ⟨0x20, 31, 1⟩
abbrev DEV_CFG_STAT_SLOT : Fld := ⟨0x24, 30, 2⟩
abbrev DEV_CFG_STAT_NOFLASH : Fld := ⟨0x24, 29, 1⟩
abbrev DEV_CFG_STAT_PREWR : Fld := ⟨0x24, 28, 1⟩
abbrev DEV_CFG_STAT_TORN : Fld := ⟨0x24, 27, 1⟩
abbrev DEV_CFG_STAT_FOREIGN : Fld := ⟨0x24, 26, 1⟩
abbrev DEV_CFG_STAT_STORE_BUSY : Fld := ⟨0x24, 25, 1⟩
abbrev DEV_CFG_STAT_STORE_FAIL : Fld := ⟨0x24, 24, 1⟩
abbrev DEV_CFG_SEQ_CFG_SEQ : Fld := ⟨0x28, 0, 32⟩
abbrev DEV_FLT_OVERTEMP : Fld := ⟨0x2C, 31, 1⟩
abbrev DEV_FLT_PACE_SLOW : Fld := ⟨0x2C, 30, 1⟩
abbrev DEV_FLT_FLASH_FAIL : Fld := ⟨0x2C, 29, 1⟩
abbrev DEV_FLT_IND_WDOG : Fld := ⟨0x2C, 28, 1⟩
abbrev DEV_FLT_IND_SLOT : Fld := ⟨0x2C, 27, 1⟩
abbrev DEV_FLT_FE_FAULT : Fld := ⟨0x2C, 26, 1⟩
abbrev DEV_FLT_NOSPARE : Fld := ⟨0x2C, 25, 1⟩
abbrev DEV_FLT_SPARE_BAD : Fld := ⟨0x2C, 24, 1⟩
abbrev DEV_FLT_SRAM_EXH : Fld := ⟨0x2C, 23, 1⟩
abbrev DEV_FLT_LIFE_WARN : Fld := ⟨0x2C, 22, 1⟩
abbrev DEV_FLT_NOSRC : Fld := ⟨0x2C, 21, 1⟩
abbrev DEV_FLT_SENS_FAIL : Fld := ⟨0x2C, 20, 1⟩
abbrev DEV_AMON_EN : Fld := ⟨0x80, 31, 1⟩
abbrev DEV_AMON_GRP : Fld := ⟨0x80, 8, 4⟩
abbrev DEV_AMON_IDX : Fld := ⟨0x80, 0, 8⟩
abbrev DEV_TDAC_ARR_GO : Fld := ⟨0x84, 31, 1⟩
abbrev DEV_TDAC_ARR_IGN : Fld := ⟨0x84, 16, 8⟩
abbrev DEV_TDAC_ARR_CLR_IGN : Fld := ⟨0x84, 2, 1⟩
abbrev DEV_TDAC_ARR_EN_MSG : Fld := ⟨0x84, 1, 1⟩
abbrev DEV_TDAC_ARR_EN_LOAD : Fld := ⟨0x84, 0, 1⟩
abbrev DEV_TDAC_SCNT_SCNT : Fld := ⟨0x88, 0, 32⟩
abbrev DEV_TPACE_RUN : Fld := ⟨0xA0, 31, 1⟩
abbrev DEV_TPACE_PERIOD : Fld := ⟨0xA0, 0, 14⟩
abbrev DEV_LK_STAT_CE : Fld := ⟨0x200, 31, 1⟩
abbrev DEV_LK_STAT_UE : Fld := ⟨0x200, 30, 1⟩
abbrev DEV_LK_STAT_CFG_REJ : Fld := ⟨0x200, 29, 1⟩
abbrev DEV_LK_STAT_COPY : Fld := ⟨0x200, 28, 1⟩
abbrev DEV_LK_STAT_SPUSED : Fld := ⟨0x200, 0, 4⟩
abbrev DEV_LK_CE_H_VALUE : Fld := ⟨0x204, 0, 32⟩
abbrev DEV_LK_CE_L_VALUE : Fld := ⟨0x208, 0, 32⟩
abbrev DEV_LK_UE_H_VALUE : Fld := ⟨0x20C, 0, 32⟩
abbrev DEV_LK_UE_L_VALUE : Fld := ⟨0x210, 0, 32⟩
abbrev DEV_LK_SPMAP_VALID : Fld := ⟨0x220, 31, 1⟩
abbrev DEV_LK_SPMAP_DONE : Fld := ⟨0x220, 30, 1⟩
abbrev DEV_LK_SPMAP_BANK : Fld := ⟨0x220, 0, 7⟩
abbrev DEV_SVC_STAT_SLOT : Fld := ⟨0x300, 30, 2⟩
abbrev DEV_SVC_STAT_NOIMG : Fld := ⟨0x300, 29, 1⟩
abbrev DEV_SVC_STAT_REVERT : Fld := ⟨0x300, 28, 1⟩
abbrev DEV_SVC_STAT_WR_REJ : Fld := ⟨0x300, 27, 1⟩
abbrev DEV_SVC_STAT_QUEUED : Fld := ⟨0x300, 8, 5⟩
abbrev DEV_SVC_STAT_BUSY : Fld := ⟨0x300, 0, 8⟩
abbrev DEV_SVC_VER_VERSION : Fld := ⟨0x304, 0, 32⟩
abbrev DEV_ODM_CTL_GO : Fld := ⟨0x400, 31, 1⟩
abbrev DEV_ODM_CTL_BUSY : Fld := ⟨0x400, 30, 1⟩
abbrev DEV_ODM_CTL_DONE : Fld := ⟨0x400, 29, 1⟩
abbrev DEV_ODM_CTL_OVR : Fld := ⟨0x400, 28, 1⟩
abbrev UG_MASK_MASK : Fld := ⟨0x500, 0, 32⟩
abbrev DEV_ODM_BUF_VALUE : Fld := ⟨0x800, 0, 32⟩
abbrev DEV_REP_CTL_AUTO_SPARE : Fld := ⟨0xE00, 31, 1⟩
abbrev DEV_REP_CTL_AUTO_LAKE : Fld := ⟨0xE00, 30, 1⟩
abbrev DEV_REP_CTL_AUTO_ROW : Fld := ⟨0xE00, 29, 1⟩
abbrev DEV_REP_CTL_AUTO_ISLOT : Fld := ⟨0xE00, 28, 1⟩
abbrev DEV_REP_STAT_SUBSTN : Fld := ⟨0xE04, 24, 8⟩
abbrev DEV_REP_STAT_LAKEMAP : Fld := ⟨0xE04, 16, 8⟩
abbrev DEV_REP_STAT_ROWS : Fld := ⟨0xE04, 0, 16⟩
abbrev DEV_SRAM_STAT_CE : Fld := ⟨0xE08, 31, 1⟩
abbrev DEV_SRAM_STAT_UE : Fld := ⟨0xE08, 30, 1⟩
abbrev DEV_SRAM_STAT_EXH : Fld := ⟨0xE08, 29, 1⟩
abbrev DEV_SRAM_STAT_SPUSED : Fld := ⟨0xE08, 0, 7⟩
abbrev DEV_SRAM_CE_H_VALUE : Fld := ⟨0xE10, 0, 32⟩
abbrev DEV_SRAM_CE_L_VALUE : Fld := ⟨0xE14, 0, 32⟩
abbrev DEV_SRAM_UE_H_VALUE : Fld := ⟨0xE18, 0, 32⟩
abbrev DEV_SRAM_UE_L_VALUE : Fld := ⟨0xE1C, 0, 32⟩
abbrev DEV_WEAR_EQS_H_VALUE : Fld := ⟨0xE40, 0, 32⟩
abbrev DEV_WEAR_EQS_L_VALUE : Fld := ⟨0xE44, 0, 32⟩
abbrev DEV_WEAR_USED_VALUE : Fld := ⟨0xE48, 0, 32⟩
abbrev DEV_WEAR_FLASH_VALUE : Fld := ⟨0xE4C, 0, 32⟩
abbrev DEV_WEAR_TJ_TJMAX : Fld := ⟨0xE50, 16, 16⟩
abbrev DEV_WEAR_TJ_TJNOW : Fld := ⟨0xE50, 0, 16⟩
abbrev DEV_WEAR_CTL_FEND : Fld := ⟨0xE54, 16, 16⟩
abbrev DEV_WEAR_CTL_WARN : Fld := ⟨0xE54, 0, 16⟩
abbrev TB_SRC_REF_FREQ : Fld := ⟨0x1000, 4, 2⟩
abbrev TB_SRC_DRIFT_ACT : Fld := ⟨0x1000, 2, 1⟩
abbrev TB_SRC_REVERT : Fld := ⟨0x1000, 1, 1⟩
abbrev TB_SRC_XTAL_ONLY : Fld := ⟨0x1000, 0, 1⟩
abbrev TB_STAT_ACTIVE : Fld := ⟨0x1004, 28, 2⟩
abbrev TB_STAT_LOCKED : Fld := ⟨0x1004, 27, 1⟩
abbrev TB_STAT_REF_QUAL : Fld := ⟨0x1004, 26, 1⟩
abbrev TB_STAT_REF_NOM : Fld := ⟨0x1004, 25, 1⟩
abbrev TB_STAT_XTAL_OK : Fld := ⟨0x1004, 24, 1⟩
abbrev TB_STAT_REF_BADFREQ : Fld := ⟨0x1004, 7, 1⟩
abbrev TB_STAT_XTAL_FAIL : Fld := ⟨0x1004, 6, 1⟩
abbrev TB_STAT_REF_DRIFT : Fld := ⟨0x1004, 5, 1⟩
abbrev TB_STAT_SWITCHED : Fld := ⟨0x1004, 4, 1⟩
abbrev TB_STAT_REF_LOST : Fld := ⟨0x1004, 3, 1⟩
abbrev TB_SWITCH_CNT_VALUE : Fld := ⟨0x1008, 0, 32⟩
abbrev TB_DRIFT_REBASE : Fld := ⟨0x100C, 31, 1⟩
abbrev TB_DRIFT_LIM : Fld := ⟨0x100C, 0, 17⟩
abbrev TB_REF_OFFS_VALUE : Fld := ⟨0x1010, 0, 32⟩
abbrev TB_REF_BASE_VALUE : Fld := ⟨0x1014, 0, 32⟩
abbrev TB_ETS_H_VALUE : Fld := ⟨0x1018, 0, 32⟩
abbrev TB_ETS_L_VALUE : Fld := ⟨0x101C, 0, 32⟩
abbrev TB_EPX_VALUE : Fld := ⟨0x1020, 0, 32⟩
abbrev TB_SNAP_CTL_CAPTURE : Fld := ⟨0x1024, 31, 1⟩
abbrev TB_SNAP_CTL_TD_VALID : Fld := ⟨0x1024, 16, 4⟩
abbrev TB_SNAP_EPX_VALUE : Fld := ⟨0x1028, 0, 32⟩
abbrev TB_SNAP_ETS_H_VALUE : Fld := ⟨0x102C, 0, 32⟩
abbrev TB_SNAP_ETS_L_VALUE : Fld := ⟨0x1030, 0, 32⟩
abbrev TB_RUN_ID_VALUE : Fld := ⟨0x1034, 0, 32⟩
abbrev TB_PACE_PACE_SRC : Fld := ⟨0x1040, 28, 4⟩
abbrev TB_PACE_PACE : Fld := ⟨0x1040, 0, 16⟩
abbrev TB_PACE_MAX_CLR : Fld := ⟨0x1044, 31, 1⟩
abbrev TB_PACE_MAX_MAX : Fld := ⟨0x1044, 0, 16⟩
abbrev TB_PACE_TARGET_BAND : Fld := ⟨0x1048, 16, 8⟩
abbrev TB_PACE_TARGET_TARGET : Fld := ⟨0x1048, 0, 16⟩
abbrev TB_AVS_CTL_EN : Fld := ⟨0x104C, 31, 1⟩
abbrev TB_AVS_CTL_HOLD : Fld := ⟨0x104C, 30, 1⟩
abbrev TB_AVS_CTL_VMAX : Fld := ⟨0x104C, 10, 10⟩
abbrev TB_AVS_CTL_VMIN : Fld := ⟨0x104C, 0, 10⟩
abbrev TB_AVS_STAT_ACT : Fld := ⟨0x1050, 31, 1⟩
abbrev TB_AVS_STAT_AT_CEIL : Fld := ⟨0x1050, 30, 1⟩
abbrev TB_AVS_STAT_AT_FLOOR : Fld := ⟨0x1050, 29, 1⟩
abbrev TB_AVS_STAT_NO_ACK : Fld := ⟨0x1050, 28, 1⟩
abbrev TB_AVS_STAT_CFG_ERR : Fld := ⟨0x1050, 27, 1⟩
abbrev TB_AVS_STAT_VREQ : Fld := ⟨0x1050, 0, 10⟩
abbrev TB_SNAP_TD_0_ERA : Fld := ⟨0x1100, 16, 16⟩
abbrev TB_SNAP_TD_0_SEC_HI : Fld := ⟨0x1100, 0, 16⟩
abbrev TB_SNAP_TD_1_SEC_LO : Fld := ⟨0x1104, 0, 32⟩
abbrev TB_SNAP_TD_2_NS : Fld := ⟨0x1108, 0, 30⟩
abbrev TB_SNAP_TD_3_FRAC : Fld := ⟨0x110C, 0, 16⟩
abbrev TRG_OUT_EN : Fld := ⟨0x2800, 31, 1⟩
abbrev TRG_OUT_FUNC : Fld := ⟨0x2800, 29, 2⟩
abbrev TRG_OUT_INV : Fld := ⟨0x2800, 28, 1⟩
abbrev TRG_OUT_TU : Fld := ⟨0x2800, 24, 4⟩
abbrev TRG_OUT_WIDTH : Fld := ⟨0x2800, 0, 16⟩
abbrev TRG_STL_CTL_WIDTH : Fld := ⟨0x2808, 16, 16⟩
abbrev TRG_STL_CTL_DRV : Fld := ⟨0x2808, 0, 8⟩
abbrev TRG_STL_SEL_TUk : Fld := ⟨0x280C, 0, 32⟩
abbrev TRG_STL_LVL_LVL : Fld := ⟨0x2810, 0, 8⟩
abbrev TRG_VAT_STAT_CE : Fld := ⟨0x2814, 31, 1⟩
abbrev TRG_VAT_STAT_UE : Fld := ⟨0x2814, 30, 1⟩
abbrev TRG_VAT_STAT_CFG_REJ : Fld := ⟨0x2814, 29, 1⟩
abbrev TRG_VAT_CE_H_VALUE : Fld := ⟨0x2818, 0, 32⟩
abbrev TRG_VAT_CE_L_VALUE : Fld := ⟨0x281C, 0, 32⟩
abbrev TRG_VAT_UE_H_VALUE : Fld := ⟨0x2820, 0, 32⟩
abbrev TRG_VAT_UE_L_VALUE : Fld := ⟨0x2824, 0, 32⟩
abbrev TRG_VP_MODE : Fld := ⟨0x2900, 30, 2⟩
abbrev TRG_VP_EN : Fld := ⟨0x2900, 29, 1⟩
abbrev TRG_VP_SIZE : Fld := ⟨0x2900, 10, 10⟩
abbrev TRG_VP_BASE : Fld := ⟨0x2900, 0, 10⟩
abbrev TRG_VSM_MASK : Fld := ⟨0x2A00, 0, 32⟩
abbrev CAL_CTL_EN : Fld := ⟨0x3000, 31, 1⟩
abbrev CAL_CTL_LIVE : Fld := ⟨0x3000, 30, 1⟩
abbrev CAL_CTL_ASTORE : Fld := ⟨0x3000, 0, 16⟩
abbrev CAL_DT_DT : Fld := ⟨0x3004, 0, 10⟩
abbrev CAL_TMAX_TMAX : Fld := ⟨0x3008, 0, 17⟩
abbrev CAL_SWAP_WAIT_WAIT : Fld := ⟨0x300C, 0, 20⟩
abbrev CAL_CHI_LIM : Fld := ⟨0x3010, 0, 16⟩
abbrev CAL_STAT_SLOT : Fld := ⟨0x3014, 30, 2⟩
abbrev CAL_STAT_BOOT_DONE : Fld := ⟨0x3014, 29, 1⟩
abbrev CAL_STAT_BUSY : Fld := ⟨0x3014, 28, 1⟩
abbrev CAL_STAT_SLOTS : Fld := ⟨0x3014, 23, 5⟩
abbrev CAL_STAT_CAL_SLOT_TORN : Fld := ⟨0x3014, 7, 1⟩
abbrev CAL_STAT_ID_MISMATCH : Fld := ⟨0x3014, 6, 1⟩
abbrev CAL_STAT_NOSNAP : Fld := ⟨0x3014, 5, 1⟩
abbrev CAL_STAT_STORE_FAIL : Fld := ⟨0x3014, 4, 1⟩
abbrev CAL_STAT_VA_REJ : Fld := ⟨0x3014, 3, 1⟩
abbrev CAL_CMD_RUN : Fld := ⟨0x3018, 31, 1⟩
abbrev CAL_CMD_ABORT : Fld := ⟨0x3018, 30, 1⟩
abbrev CAL_CMD_SONLY : Fld := ⟨0x3018, 29, 1⟩
abbrev CAL_MASK_MASK : Fld := ⟨0x3020, 0, 32⟩
abbrev CAL_VA_INC : Fld := ⟨0x3040, 31, 1⟩
abbrev CAL_VA_ADDR : Fld := ⟨0x3040, 0, 18⟩
abbrev CAL_VD_DATA : Fld := ⟨0x3044, 0, 32⟩
abbrev CAL_SEQ_VALUE : Fld := ⟨0x3048, 0, 32⟩
abbrev CAL_EVT_H_VALUE : Fld := ⟨0x3050, 0, 32⟩
abbrev CAL_EVT_L_VALUE : Fld := ⟨0x3054, 0, 32⟩
abbrev NET_CFG_E0EN : Fld := ⟨0x5000, 31, 1⟩
abbrev NET_CFG_E1EN : Fld := ⟨0x5000, 30, 1⟩
abbrev NET_CFG_RATE : Fld := ⟨0x5000, 29, 1⟩
abbrev NET_CFG_AN : Fld := ⟨0x5000, 28, 1⟩
abbrev NET_CFG_TC_EN : Fld := ⟨0x5000, 27, 1⟩
abbrev NET_CFG_TC_P2P : Fld := ⟨0x5000, 26, 1⟩
abbrev NET_CFG_BYP_SET : Fld := ⟨0x5000, 25, 1⟩
abbrev NET_CFG_BYP_CLR : Fld := ⟨0x5000, 24, 1⟩
abbrev NET_STAT_LINK0 : Fld := ⟨0x5004, 31, 1⟩
abbrev NET_STAT_LINK1 : Fld := ⟨0x5004, 30, 1⟩
abbrev NET_STAT_BYPASS : Fld := ⟨0x5004, 29, 1⟩
abbrev NET_STAT_FCS_FWD : Fld := ⟨0x5004, 7, 1⟩
abbrev NET_STAT_FWD_DROP : Fld := ⟨0x5004, 6, 1⟩
abbrev NET_STAT_UNCOR : Fld := ⟨0x5004, 5, 1⟩
abbrev NET_STAT_ULD_DROP : Fld := ⟨0x5004, 4, 1⟩
abbrev NET_STAT_EARLY : Fld := ⟨0x5004, 3, 1⟩
abbrev NET_STAT_DUP : Fld := ⟨0x5004, 2, 1⟩
abbrev NET_STAT_PDLY_NONE : Fld := ⟨0x5004, 1, 1⟩
abbrev NET_NODE_NODE_ID : Fld := ⟨0x5008, 16, 16⟩
abbrev NET_NODE_GRP : Fld := ⟨0x5008, 0, 16⟩
abbrev NET_ID_ETYPE : Fld := ⟨0x500C, 16, 16⟩
abbrev NET_ID_STRAP : Fld := ⟨0x500C, 0, 6⟩
abbrev NET_MAC_H_MAC : Fld := ⟨0x5010, 0, 16⟩
abbrev NET_MAC_L_MAC : Fld := ⟨0x5014, 0, 32⟩
abbrev NET_PDLY_PDLY : Fld := ⟨0x5018, 0, 32⟩
abbrev NET_FWD0_H_VALUE : Fld := ⟨0x5040, 0, 32⟩
abbrev NET_FWD0_L_VALUE : Fld := ⟨0x5044, 0, 32⟩
abbrev NET_FWD1_H_VALUE : Fld := ⟨0x5048, 0, 32⟩
abbrev NET_FWD1_L_VALUE : Fld := ⟨0x504C, 0, 32⟩
abbrev NET_FCS_H_VALUE : Fld := ⟨0x5050, 0, 32⟩
abbrev NET_FCS_L_VALUE : Fld := ⟨0x5054, 0, 32⟩
abbrev NET_DROP_H_VALUE : Fld := ⟨0x5058, 0, 32⟩
abbrev NET_DROP_L_VALUE : Fld := ⟨0x505C, 0, 32⟩
abbrev NET_UNCOR_H_VALUE : Fld := ⟨0x5060, 0, 32⟩
abbrev NET_UNCOR_L_VALUE : Fld := ⟨0x5064, 0, 32⟩
abbrev NET_ULDRX_H_VALUE : Fld := ⟨0x5068, 0, 32⟩
abbrev NET_ULDRX_L_VALUE : Fld := ⟨0x506C, 0, 32⟩
abbrev NET_ULDDROP_H_VALUE : Fld := ⟨0x5070, 0, 32⟩
abbrev NET_ULDDROP_L_VALUE : Fld := ⟨0x5074, 0, 32⟩
abbrev PRT_LOCK_FN_LOCK : Fld := ⟨0x6000, 31, 1⟩
abbrev PRT_LOCK_FN_FUSE : Fld := ⟨0x6000, 30, 1⟩
abbrev PRT_UNLOCK_KEY : Fld := ⟨0x6004, 0, 16⟩
abbrev PRT_STAT_H_ARMED : Fld := ⟨0x6008, 31, 1⟩
abbrev PRT_STAT_L_ARMED : Fld := ⟨0x6008, 30, 1⟩
abbrev PRT_STAT_UNLK_DIS : Fld := ⟨0x6008, 29, 1⟩
abbrev PRT_STAT_WRONG : Fld := ⟨0x6008, 20, 4⟩
abbrev PRT_STAT_TV_FIX : Fld := ⟨0x6008, 3, 1⟩
abbrev PRT_STAT_ACC_FAULT : Fld := ⟨0x6008, 2, 1⟩
abbrev PRT_STAT_GUARD_REJ : Fld := ⟨0x6008, 1, 1⟩
abbrev PRT_STAT_KEY_BAD : Fld := ⟨0x6008, 0, 1⟩
abbrev PRT_FAULTA_PATH : Fld := ⟨0x6010, 30, 2⟩
abbrev PRT_FAULTA_CAUSE : Fld := ⟨0x6010, 28, 2⟩
abbrev PRT_FAULTA_ADDR : Fld := ⟨0x6010, 0, 24⟩
abbrev PRT_TVFIX_TV_FIX_CNT : Fld := ⟨0x6014, 0, 32⟩
abbrev PRT_FUSE0_ETYPE : Fld := ⟨0x6040, 16, 16⟩
abbrev PRT_FUSE0_NODE_BASE : Fld := ⟨0x6040, 0, 16⟩
abbrev PRT_FUSE1_FN_WEMASK : Fld := ⟨0x6044, 16, 16⟩
abbrev PRT_FUSE1_BOOT_LOCK : Fld := ⟨0x6044, 15, 1⟩
abbrev PRT_FUSE1_GRADE : Fld := ⟨0x6044, 0, 8⟩
abbrev PRT_FUSE2_IDENT : Fld := ⟨0x6048, 0, 32⟩
abbrev PRT_FUSE3_HASH : Fld := ⟨0x604C, 0, 32⟩
abbrev MP_CTL_SPACE : Fld := ⟨0x7000, 30, 2⟩
abbrev MP_CTL_INC : Fld := ⟨0x7000, 29, 1⟩
abbrev MP_ADDR_ADDR : Fld := ⟨0x7004, 0, 24⟩
abbrev MP_DATA_DATA : Fld := ⟨0x7008, 0, 32⟩
abbrev MP_STAT_UE : Fld := ⟨0x700C, 2, 1⟩
abbrev MP_STAT_WR_REJ : Fld := ⟨0x700C, 1, 1⟩
abbrev MP_STAT_COLL : Fld := ⟨0x700C, 0, 1⟩
abbrev PTP_CFG_EN : Fld := ⟨0x0, 31, 1⟩
abbrev PTP_CFG_P2P : Fld := ⟨0x0, 30, 1⟩
abbrev PTP_CFG_UDP : Fld := ⟨0x0, 29, 1⟩
abbrev PTP_CFG_PORT : Fld := ⟨0x0, 27, 2⟩
abbrev PTP_CFG_K : Fld := ⟨0x0, 16, 8⟩
abbrev PTP_CFG_DOMAIN : Fld := ⟨0x0, 0, 8⟩
abbrev PTP_JTHR_JTHR : Fld := ⟨0x4, 0, 30⟩
abbrev PTP_PTHR_PTHR : Fld := ⟨0x8, 0, 20⟩
abbrev PTP_HMAX_HMAX : Fld := ⟨0xC, 0, 17⟩
abbrev PTP_STAT_STATE : Fld := ⟨0x10, 28, 4⟩
abbrev PTP_STAT_HREASON : Fld := ⟨0x10, 25, 3⟩
abbrev PTP_STAT_PEND : Fld := ⟨0x10, 24, 1⟩
abbrev PTP_STAT_VALID : Fld := ⟨0x10, 23, 1⟩
abbrev PTP_STAT_JUMP_REFUSED : Fld := ⟨0x10, 7, 1⟩
abbrev PTP_STAT_PATH_STEP : Fld := ⟨0x10, 6, 1⟩
abbrev PTP_STAT_ASYM_SUSPECT : Fld := ⟨0x10, 5, 1⟩
abbrev PTP_STAT_MASTER_LOST : Fld := ⟨0x10, 4, 1⟩
abbrev PTP_STAT_STEP_APPLIED : Fld := ⟨0x10, 3, 1⟩
abbrev PTP_STAT_AUTO : Fld := ⟨0x10, 2, 1⟩
abbrev PTP_STAT_CMD_REJ : Fld := ⟨0x10, 1, 1⟩
abbrev PTP_STAT_MASTER_CHG : Fld := ⟨0x10, 0, 1⟩
abbrev PTP_CMD_ACCEPT : Fld := ⟨0x14, 31, 1⟩
abbrev PTP_CMD_ABSORB : Fld := ⟨0x14, 30, 1⟩
abbrev PTP_CMD_REJECT : Fld := ⟨0x14, 29, 1⟩
abbrev PTP_PEND_H_VALUE : Fld := ⟨0x18, 0, 32⟩
abbrev PTP_PEND_L_VALUE : Fld := ⟨0x1C, 0, 32⟩
abbrev PTP_OFS_H_VALUE : Fld := ⟨0x20, 0, 32⟩
abbrev PTP_OFS_L_VALUE : Fld := ⟨0x24, 0, 32⟩
abbrev PTP_MPD_H_VALUE : Fld := ⟨0x28, 0, 32⟩
abbrev PTP_MPD_L_VALUE : Fld := ⟨0x2C, 0, 32⟩
abbrev PTP_ASYM_H_VALUE : Fld := ⟨0x30, 0, 32⟩
abbrev PTP_ASYM_L_VALUE : Fld := ⟨0x34, 0, 32⟩
abbrev PTP_GMID_H_VALUE : Fld := ⟨0x38, 0, 32⟩
abbrev PTP_GMID_L_VALUE : Fld := ⟨0x3C, 0, 32⟩
abbrev LNK_CFG_EN : Fld := ⟨0x0, 31, 1⟩
abbrev LNK_CFG_AUTO_DOWN : Fld := ⟨0x0, 30, 1⟩
abbrev LNK_CFG_RATE : Fld := ⟨0x0, 28, 2⟩
abbrev LNK_CFG_EIDLE : Fld := ⟨0x0, 27, 1⟩
abbrev LNK_CFG_HOLD : Fld := ⟨0x0, 16, 8⟩
abbrev LNK_CFG_MINWM1 : Fld := ⟨0x0, 12, 4⟩
abbrev LNK_LANES_INSVC : Fld := ⟨0x4, 16, 16⟩
abbrev LNK_LANES_EN : Fld := ⟨0x4, 0, 16⟩
abbrev LNK_STAT_STATE : Fld := ⟨0x8, 28, 4⟩
abbrev LNK_STAT_RATE_ACT : Fld := ⟨0x8, 26, 2⟩
abbrev LNK_STAT_WIDTH : Fld := ⟨0x8, 21, 5⟩
abbrev LNK_STAT_REV : Fld := ⟨0x8, 20, 1⟩
abbrev LNK_STAT_ADMITTED : Fld := ⟨0x8, 12, 1⟩
abbrev LNK_STAT_LANE_LOST : Fld := ⟨0x8, 11, 1⟩
abbrev LNK_STAT_LANE_REJOIN : Fld := ⟨0x8, 10, 1⟩
abbrev LNK_STAT_RETRAIN : Fld := ⟨0x8, 9, 1⟩
abbrev LNK_STAT_LINK_RESET : Fld := ⟨0x8, 8, 1⟩
abbrev LNK_STAT_CRC_ERR : Fld := ⟨0x8, 7, 1⟩
abbrev LNK_STAT_CRED_ERR : Fld := ⟨0x8, 6, 1⟩
abbrev LNK_STAT_CLS_ERR : Fld := ⟨0x8, 5, 1⟩
abbrev LNK_STAT_ORDER_ERR : Fld := ⟨0x8, 4, 1⟩
abbrev LNK_STAT_RATE_DOWN : Fld := ⟨0x8, 3, 1⟩
abbrev LNK_CMD_RETRAIN : Fld := ⟨0xC, 31, 1⟩
abbrev LNK_CMD_RESET : Fld := ⟨0xC, 30, 1⟩
abbrev LNK_CMD_REJOIN : Fld := ⟨0xC, 29, 1⟩
abbrev LNK_CMD_TEST : Fld := ⟨0xC, 28, 1⟩
abbrev LNK_CMD_TEST_EXIT : Fld := ⟨0xC, 27, 1⟩
abbrev LNK_TEST_MODE : Fld := ⟨0x10, 29, 3⟩
abbrev LNK_TEST_POLY : Fld := ⟨0x10, 27, 2⟩
abbrev LNK_TEST_LANES : Fld := ⟨0x10, 0, 16⟩
abbrev LNK_TIMER_REPLAY_TO : Fld := ⟨0x14, 16, 16⟩
abbrev LNK_TIMER_ACK_INT : Fld := ⟨0x14, 0, 16⟩
abbrev LNK_LSTAT_INSVC : Fld := ⟨0x40, 31, 1⟩
abbrev LNK_LSTAT_RETIRED : Fld := ⟨0x40, 30, 1⟩
abbrev LNK_LSTAT_LINV : Fld := ⟨0x40, 29, 1⟩
abbrev LNK_LSTAT_LPOS : Fld := ⟨0x40, 25, 4⟩
abbrev LNK_LSTAT_FROZEN : Fld := ⟨0x40, 24, 1⟩
abbrev LNK_LSTAT_CLAMP : Fld := ⟨0x40, 23, 1⟩
abbrev LNK_LSTAT_PRBS_LOCK : Fld := ⟨0x40, 22, 1⟩
abbrev LNK_LSTAT_LOSSES : Fld := ⟨0x40, 8, 8⟩
abbrev LNK_LSTAT_REVF : Fld := ⟨0x40, 0, 8⟩
abbrev LNK_PRBS_H_VALUE : Fld := ⟨0x80, 0, 16⟩
abbrev LNK_PRBS_L_VALUE : Fld := ⟨0x84, 0, 32⟩
abbrev LNK_CRC_H_VALUE : Fld := ⟨0x100, 0, 32⟩
abbrev LNK_CRC_L_VALUE : Fld := ⟨0x104, 0, 32⟩
abbrev LNK_NAK_H_VALUE : Fld := ⟨0x108, 0, 32⟩
abbrev LNK_NAK_L_VALUE : Fld := ⟨0x10C, 0, 32⟩
abbrev LNK_RPLY_H_VALUE : Fld := ⟨0x110, 0, 32⟩
abbrev LNK_RPLY_L_VALUE : Fld := ⟨0x114, 0, 32⟩
abbrev LNK_DUP_H_VALUE : Fld := ⟨0x118, 0, 32⟩
abbrev LNK_DUP_L_VALUE : Fld := ⟨0x11C, 0, 32⟩
abbrev LNK_CLS_H_VALUE : Fld := ⟨0x120, 0, 32⟩
abbrev LNK_CLS_L_VALUE : Fld := ⟨0x124, 0, 32⟩
abbrev LNK_TXF_H_VALUE : Fld := ⟨0x128, 0, 32⟩
abbrev LNK_TXF_L_VALUE : Fld := ⟨0x12C, 0, 32⟩
abbrev LNK_RXF_H_VALUE : Fld := ⟨0x130, 0, 32⟩
abbrev LNK_RXF_L_VALUE : Fld := ⟨0x134, 0, 32⟩
abbrev SP_ROUTE_REQ : Fld := ⟨0x0, 6, 2⟩
abbrev SP_ROUTE_SRC : Fld := ⟨0x0, 0, 4⟩
abbrev SP_STAT_STATE : Fld := ⟨0x4, 30, 2⟩
abbrev SP_STAT_OWNER : Fld := ⟨0x4, 28, 2⟩
abbrev SP_STAT_CUR : Fld := ⟨0x4, 24, 4⟩
abbrev SP_STAT_HO_DONE : Fld := ⟨0x4, 7, 1⟩
abbrev SP_STAT_HO_FAIL : Fld := ⟨0x4, 6, 1⟩
abbrev SP_STAT_BUSY_REJ : Fld := ⟨0x4, 5, 1⟩
abbrev SP_STAT_FORCED : Fld := ⟨0x4, 4, 1⟩
abbrev SP_STAT_UNCHECKED : Fld := ⟨0x4, 3, 1⟩
abbrev SP_WAIT_WAIT : Fld := ⟨0x8, 0, 24⟩
abbrev TRG_TU_CFG_MODE : Fld := ⟨0x0, 30, 2⟩
abbrev TRG_TU_CFG_FULLPRE : Fld := ⟨0x0, 29, 1⟩
abbrev TRG_TU_CFG_PUSH : Fld := ⟨0x0, 28, 1⟩
abbrev TRG_TU_CFG_OVERWRITE : Fld := ⟨0x0, 27, 1⟩
abbrev TRG_TU_CFG_GEOMIT : Fld := ⟨0x0, 26, 1⟩
abbrev TRG_TU_CFG_RMEAS : Fld := ⟨0x0, 23, 3⟩
abbrev TRG_TU_CFG_DOM : Fld := ⟨0x0, 21, 2⟩
abbrev TRG_TU_CFG_PART : Fld := ⟨0x0, 16, 5⟩
abbrev TRG_TU_CFG_NREC : Fld := ⟨0x0, 0, 16⟩
abbrev TRG_TU_SRC_TIN_FALL : Fld := ⟨0x4, 24, 4⟩
abbrev TRG_TU_SRC_SRC_EN : Fld := ⟨0x4, 0, 16⟩
abbrev TRG_TU_MARK_MASK : Fld := ⟨0x8, 0, 16⟩
abbrev TRG_TU_EDGE_POL : Fld := ⟨0xC, 30, 2⟩
abbrev TRG_TU_EDGE_CH : Fld := ⟨0xC, 0, 7⟩
abbrev TRG_TU_VCOND_SCOPE : Fld := ⟨0x10, 31, 1⟩
abbrev TRG_TU_VCOND_SENSE : Fld := ⟨0x10, 29, 2⟩
abbrev TRG_TU_VCOND_CH : Fld := ⟨0x10, 0, 7⟩
abbrev TRG_TU_VLO_H_VALUE : Fld := ⟨0x14, 0, 32⟩
abbrev TRG_TU_VLO_L_VALUE : Fld := ⟨0x18, 0, 32⟩
abbrev TRG_TU_VHI_H_VALUE : Fld := ⟨0x1C, 0, 32⟩
abbrev TRG_TU_VHI_L_VALUE : Fld := ⟨0x20, 0, 32⟩
abbrev TRG_TU_PRE_PRE : Fld := ⟨0x24, 0, 24⟩
abbrev TRG_TU_POST_POST : Fld := ⟨0x28, 0, 24⟩
abbrev TRG_TU_POSTT_H_POST_T : Fld := ⟨0x2C, 0, 16⟩
abbrev TRG_TU_POSTT_L_POST_T : Fld := ⟨0x30, 0, 32⟩
abbrev TRG_TU_CHM_CHMk : Fld := ⟨0x34, 0, 32⟩
abbrev TRG_TU_CMD_ARM : Fld := ⟨0x44, 31, 1⟩
abbrev TRG_TU_CMD_DISARM : Fld := ⟨0x44, 30, 1⟩
abbrev TRG_TU_CMD_FORCE : Fld := ⟨0x44, 29, 1⟩
abbrev TRG_TU_CMD_REL : Fld := ⟨0x44, 28, 1⟩
abbrev TRG_TU_CMD_RD : Fld := ⟨0x44, 27, 1⟩
abbrev TRG_TU_STAT_STATE : Fld := ⟨0x48, 30, 2⟩
abbrev TRG_TU_STAT_NSEG : Fld := ⟨0x48, 8, 16⟩
abbrev TRG_TU_STAT_CFG_REJ : Fld := ⟨0x48, 7, 1⟩
abbrev TRG_TU_STAT_PRE_SHORT : Fld := ⟨0x48, 6, 1⟩
abbrev TRG_TU_STAT_FULL : Fld := ⟨0x48, 5, 1⟩
abbrev TRG_TU_STAT_LOST : Fld := ⟨0x48, 4, 1⟩
abbrev TRG_TU_STAT_MARK_OVF : Fld := ⟨0x48, 3, 1⟩
abbrev TRG_TU_STAT_MARK_LATE : Fld := ⟨0x48, 2, 1⟩
abbrev TRG_TU_STAT_IGN : Fld := ⟨0x48, 1, 1⟩
abbrev TRG_TU_STAT_MISSED : Fld := ⟨0x48, 0, 1⟩
abbrev TRG_TU_EVT_VALUE : Fld := ⟨0x4C, 0, 32⟩
abbrev TRG_TU_NEXT_VALID : Fld := ⟨0x50, 31, 1⟩
abbrev TRG_TU_NEXT_CH : Fld := ⟨0x50, 24, 7⟩
abbrev TRG_TU_NEXT_EVENT : Fld := ⟨0x50, 0, 24⟩
abbrev TRG_TU_MISSC_VALUE : Fld := ⟨0x54, 0, 32⟩
abbrev TRG_TU_IGNC_VALUE : Fld := ⟨0x58, 0, 32⟩
abbrev TRG_TU_LOSTC_VALUE : Fld := ⟨0x5C, 0, 32⟩
end F

def devRows0 : List RegRow := [
  ⟨0x0, 1, 0, [⟨16, 16, .ro, false, false, 28968⟩, ⟨8, 8, .ro, false, false, 0⟩]⟩,
  ⟨0x4, 1, 0, [⟨31, 1, .ro, false, false, 0⟩, ⟨30, 1, .ro, false, false, 0⟩, ⟨29, 1, .ro, false, false, 0⟩]⟩,
  ⟨0x8, 1, 0, [⟨31, 1, .rw, true, true, 1⟩, ⟨30, 1, .rw, true, true, 1⟩, ⟨29, 1, .rw, true, true, 0⟩]⟩,
  ⟨0x10, 1, 0, [⟨28, 4, .rw, false, false, 0⟩, ⟨0, 24, .rw, false, false, 0⟩]⟩,
  ⟨0x14, 1, 0, [⟨0, 32, .rw, false, false, 0⟩]⟩,
  ⟨0x20, 1, 0, [⟨31, 1, .sc, false, true, 0⟩]⟩,
  ⟨0x24, 1, 0, [⟨30, 2, .ro, false, false, 0⟩, ⟨29, 1, .ro, false, false, 0⟩, ⟨28, 1, .w1c, false, false, 0⟩, ⟨27, 1, .w1c, false, false, 0⟩, ⟨26, 1, .w1c, false, false, 0⟩, ⟨25, 1, .ro, false, false, 0⟩, ⟨24, 1, .w1c, false, false, 0⟩]⟩,
  ⟨0x28, 1, 0, [⟨0, 32, .ro, false, false, 0⟩]⟩,
  ⟨0x2C, 1, 0, [⟨31, 1, .w1c, false, false, 0⟩, ⟨30, 1, .w1c, false, false, 0⟩, ⟨29, 1, .w1c, false, false, 0⟩, ⟨28, 1, .w1c, false, false, 0⟩, ⟨27, 1, .w1c, false, false, 0⟩, ⟨26, 1, .w1c, false, false, 0⟩, ⟨25, 1, .w1c, false, false, 0⟩, ⟨24, 1, .w1c, false, false, 0⟩, ⟨23, 1, .w1c, false, false, 0⟩, ⟨22, 1, .w1c, false, false, 0⟩, ⟨21, 1, .w1c, false, false, 0⟩, ⟨20, 1, .w1c, false, false, 0⟩]⟩,
  ⟨0x80, 1, 0, [⟨31, 1, .rw, false, false, 0⟩, ⟨8, 4, .rw, false, false, 0⟩, ⟨0, 8, .rw, false, false, 0⟩]⟩,
  ⟨0x84, 1, 0, [⟨31, 1, .sc, false, false, 0⟩, ⟨16, 8, .ro, false, false, 0⟩, ⟨2, 1, .sc, false, false, 0⟩, ⟨1, 1, .rw, false, false, 0⟩, ⟨0, 1, .rw, false, false, 0⟩]⟩,
  ⟨0x88, 1, 0, [⟨0, 32, .ro, false, false, 0⟩]⟩,
  ⟨0xA0, 8, 4, [⟨31, 1, .rw, false, false, 0⟩, ⟨0, 14, .rw, false, false, 10000⟩]⟩,
  ⟨0x200, 1, 0, [⟨31, 1, .w1c, false, false, 0⟩, ⟨30, 1, .w1c, false, false, 0⟩, ⟨29, 1, .w1c, false, false, 0⟩, ⟨28, 1, .ro, false, false, 0⟩, ⟨0, 4, .ro, false, false, 0⟩]⟩,
  ⟨0x204, 1, 0, [⟨0, 32, .ro, false, false, 0⟩]⟩,
  ⟨0x208, 1, 0, [⟨0, 32, .ro, false, false, 0⟩]⟩,
  ⟨0x20C, 1, 0, [⟨0, 32, .ro, false, false, 0⟩]⟩,
  ⟨0x210, 1, 0, [⟨0, 32, .ro, false, false, 0⟩]⟩,
  ⟨0x220, 8, 4, [⟨31, 1, .rw, true, true, 0⟩, ⟨30, 1, .ro, false, false, 0⟩, ⟨0, 7, .rw, true, true, 0⟩]⟩,
  ⟨0x300, 1, 0, [⟨30, 2, .ro, false, false, 0⟩, ⟨29, 1, .ro, false, false, 0⟩, ⟨28, 1, .w1c, false, false, 0⟩, ⟨27, 1, .w1c, false, false, 0⟩, ⟨8, 5, .ro, false, false, 0⟩, ⟨0, 8, .ro, false, false, 0⟩]⟩]

def devRows1 : List RegRow := [
  ⟨0x304, 1, 0, [⟨0, 32, .ro, false, false, 0⟩]⟩,
  ⟨0x400, 1, 0, [⟨31, 1, .sc, false, false, 0⟩, ⟨30, 1, .ro, false, false, 0⟩, ⟨29, 1, .w1c, false, false, 0⟩, ⟨28, 1, .w1c, false, false, 0⟩]⟩,
  ⟨0x500, 4, 4, [⟨0, 32, .rw, false, false, 0⟩]⟩,
  ⟨0x510, 1, 0, [⟨0, 8, .rw, false, false, 0⟩]⟩,
  ⟨0x520, 4, 4, [⟨0, 32, .rw, false, false, 0⟩]⟩,
  ⟨0x530, 1, 0, [⟨0, 8, .rw, false, false, 0⟩]⟩,
  ⟨0x540, 4, 4, [⟨0, 32, .rw, false, false, 0⟩]⟩,
  ⟨0x550, 1, 0, [⟨0, 8, .rw, false, false, 0⟩]⟩,
  ⟨0x560, 4, 4, [⟨0, 32, .rw, false, false, 0⟩]⟩,
  ⟨0x570, 1, 0, [⟨0, 8, .rw, false, false, 0⟩]⟩,
  ⟨0x580, 4, 4, [⟨0, 32, .rw, false, false, 0⟩]⟩,
  ⟨0x590, 1, 0, [⟨0, 8, .rw, false, false, 0⟩]⟩,
  ⟨0x5A0, 4, 4, [⟨0, 32, .rw, false, false, 0⟩]⟩,
  ⟨0x5B0, 1, 0, [⟨0, 8, .rw, false, false, 0⟩]⟩,
  ⟨0x5C0, 4, 4, [⟨0, 32, .rw, false, false, 0⟩]⟩,
  ⟨0x5D0, 1, 0, [⟨0, 8, .rw, false, false, 0⟩]⟩,
  ⟨0x5E0, 4, 4, [⟨0, 32, .rw, false, false, 0⟩]⟩,
  ⟨0x5F0, 1, 0, [⟨0, 8, .rw, false, false, 0⟩]⟩,
  ⟨0x600, 4, 4, [⟨0, 32, .rw, false, false, 0⟩]⟩,
  ⟨0x610, 1, 0, [⟨0, 8, .rw, false, false, 0⟩]⟩]

def devRows2 : List RegRow := [
  ⟨0x620, 4, 4, [⟨0, 32, .rw, false, false, 0⟩]⟩,
  ⟨0x630, 1, 0, [⟨0, 8, .rw, false, false, 0⟩]⟩,
  ⟨0x640, 4, 4, [⟨0, 32, .rw, false, false, 0⟩]⟩,
  ⟨0x650, 1, 0, [⟨0, 8, .rw, false, false, 0⟩]⟩,
  ⟨0x660, 4, 4, [⟨0, 32, .rw, false, false, 0⟩]⟩,
  ⟨0x670, 1, 0, [⟨0, 8, .rw, false, false, 0⟩]⟩,
  ⟨0x680, 4, 4, [⟨0, 32, .rw, false, false, 0⟩]⟩,
  ⟨0x690, 1, 0, [⟨0, 8, .rw, false, false, 0⟩]⟩,
  ⟨0x6A0, 4, 4, [⟨0, 32, .rw, false, false, 0⟩]⟩,
  ⟨0x6B0, 1, 0, [⟨0, 8, .rw, false, false, 0⟩]⟩,
  ⟨0x6C0, 4, 4, [⟨0, 32, .rw, false, false, 0⟩]⟩,
  ⟨0x6D0, 1, 0, [⟨0, 8, .rw, false, false, 0⟩]⟩,
  ⟨0x6E0, 4, 4, [⟨0, 32, .rw, false, false, 0⟩]⟩,
  ⟨0x6F0, 1, 0, [⟨0, 8, .rw, false, false, 0⟩]⟩,
  ⟨0x800, 375, 4, [⟨0, 32, .rw, false, false, 0⟩]⟩,
  ⟨0xE00, 1, 0, [⟨31, 1, .rw, false, false, 1⟩, ⟨30, 1, .rw, false, false, 1⟩, ⟨29, 1, .rw, false, false, 1⟩, ⟨28, 1, .rw, false, false, 1⟩]⟩,
  ⟨0xE04, 1, 0, [⟨24, 8, .ro, false, false, 0⟩, ⟨16, 8, .ro, false, false, 0⟩, ⟨0, 16, .ro, false, false, 0⟩]⟩,
  ⟨0xE08, 1, 0, [⟨31, 1, .w1c, false, false, 0⟩, ⟨30, 1, .w1c, false, false, 0⟩, ⟨29, 1, .w1c, false, false, 0⟩, ⟨0, 7, .ro, false, false, 0⟩]⟩,
  ⟨0xE10, 1, 0, [⟨0, 32, .ro, false, false, 0⟩]⟩,
  ⟨0xE14, 1, 0, [⟨0, 32, .ro, false, false, 0⟩]⟩]

def devRows3 : List RegRow := [
  ⟨0xE18, 1, 0, [⟨0, 32, .ro, false, false, 0⟩]⟩,
  ⟨0xE1C, 1, 0, [⟨0, 32, .ro, false, false, 0⟩]⟩,
  ⟨0xE40, 1, 0, [⟨0, 32, .ro, false, false, 0⟩]⟩,
  ⟨0xE44, 1, 0, [⟨0, 32, .ro, false, false, 0⟩]⟩,
  ⟨0xE48, 1, 0, [⟨0, 32, .ro, false, false, 0⟩]⟩,
  ⟨0xE4C, 1, 0, [⟨0, 32, .ro, false, false, 0⟩]⟩,
  ⟨0xE50, 1, 0, [⟨16, 16, .ro, false, false, 0⟩, ⟨0, 16, .ro, false, false, 0⟩]⟩,
  ⟨0xE54, 1, 0, [⟨16, 16, .rw, false, false, 100⟩, ⟨0, 16, .rw, false, false, 900⟩]⟩,
  ⟨0x1000, 1, 0, [⟨4, 2, .rw, true, true, 0⟩, ⟨2, 1, .rw, true, true, 0⟩, ⟨1, 1, .rw, true, true, 1⟩, ⟨0, 1, .rw, true, true, 0⟩]⟩,
  ⟨0x1004, 1, 0, [⟨28, 2, .ro, false, false, 0⟩, ⟨27, 1, .ro, false, false, 0⟩, ⟨26, 1, .ro, false, false, 0⟩, ⟨25, 1, .ro, false, false, 0⟩, ⟨24, 1, .ro, false, false, 0⟩, ⟨7, 1, .w1c, false, false, 0⟩, ⟨6, 1, .w1c, false, false, 0⟩, ⟨5, 1, .w1c, false, false, 0⟩, ⟨4, 1, .w1c, false, false, 0⟩, ⟨3, 1, .w1c, false, false, 0⟩]⟩,
  ⟨0x1008, 1, 0, [⟨0, 32, .ro, false, false, 0⟩]⟩,
  ⟨0x100C, 1, 0, [⟨31, 1, .sc, false, false, 0⟩, ⟨0, 17, .rw, false, false, 5000⟩]⟩,
  ⟨0x1010, 1, 0, [⟨0, 32, .ro, false, false, 0⟩]⟩,
  ⟨0x1014, 1, 0, [⟨0, 32, .ro, false, false, 0⟩]⟩,
  ⟨0x1018, 1, 0, [⟨0, 32, .ro, false, false, 0⟩]⟩,
  ⟨0x101C, 1, 0, [⟨0, 32, .ro, false, false, 0⟩]⟩,
  ⟨0x1020, 1, 0, [⟨0, 32, .ro, false, false, 0⟩]⟩,
  ⟨0x1024, 1, 0, [⟨31, 1, .sc, false, false, 0⟩, ⟨16, 4, .ro, false, false, 0⟩]⟩,
  ⟨0x1028, 1, 0, [⟨0, 32, .ro, false, false, 0⟩]⟩,
  ⟨0x102C, 1, 0, [⟨0, 32, .ro, false, false, 0⟩]⟩]

def devRows4 : List RegRow := [
  ⟨0x1030, 1, 0, [⟨0, 32, .ro, false, false, 0⟩]⟩,
  ⟨0x1034, 1, 0, [⟨0, 32, .ro, false, false, 0⟩]⟩,
  ⟨0x1040, 1, 0, [⟨28, 4, .ro, false, false, 0⟩, ⟨0, 16, .ro, false, false, 1200⟩]⟩,
  ⟨0x1044, 1, 0, [⟨31, 1, .sc, false, false, 0⟩, ⟨0, 16, .ro, false, false, 1200⟩]⟩,
  ⟨0x1048, 1, 0, [⟨16, 8, .rw, false, false, 20⟩, ⟨0, 16, .rw, false, false, 800⟩]⟩,
  ⟨0x104C, 1, 0, [⟨31, 1, .rw, false, false, 0⟩, ⟨30, 1, .rw, false, false, 0⟩, ⟨10, 10, .rw, false, false, 950⟩, ⟨0, 10, .rw, false, false, 650⟩]⟩,
  ⟨0x1050, 1, 0, [⟨31, 1, .ro, false, false, 0⟩, ⟨30, 1, .ro, false, false, 0⟩, ⟨29, 1, .ro, false, false, 0⟩, ⟨28, 1, .w1c, false, false, 0⟩, ⟨27, 1, .w1c, false, false, 0⟩, ⟨0, 10, .ro, false, false, 0⟩]⟩,
  ⟨0x1100, 4, 16, [⟨16, 16, .ro, false, false, 0⟩, ⟨0, 16, .ro, false, false, 0⟩]⟩,
  ⟨0x1104, 4, 16, [⟨0, 32, .ro, false, false, 0⟩]⟩,
  ⟨0x1108, 4, 16, [⟨0, 30, .ro, false, false, 0⟩]⟩,
  ⟨0x110C, 4, 16, [⟨0, 16, .ro, false, false, 0⟩]⟩,
  ⟨0x2800, 2, 4, [⟨31, 1, .rw, false, false, 0⟩, ⟨29, 2, .rw, false, false, 0⟩, ⟨28, 1, .rw, false, false, 0⟩, ⟨24, 4, .rw, false, false, 0⟩, ⟨0, 16, .rw, false, false, 2⟩]⟩,
  ⟨0x2808, 1, 0, [⟨16, 16, .rw, false, false, 2⟩, ⟨0, 8, .rw, false, false, 0⟩]⟩,
  ⟨0x280C, 1, 0, [⟨0, 32, .rw, false, false, 0⟩]⟩,
  ⟨0x2810, 1, 0, [⟨0, 8, .ro, false, false, 0⟩]⟩,
  ⟨0x2814, 1, 0, [⟨31, 1, .w1c, false, false, 0⟩, ⟨30, 1, .w1c, false, false, 0⟩, ⟨29, 1, .w1c, false, false, 0⟩]⟩,
  ⟨0x2818, 1, 0, [⟨0, 32, .ro, false, false, 0⟩]⟩,
  ⟨0x281C, 1, 0, [⟨0, 32, .ro, false, false, 0⟩]⟩,
  ⟨0x2820, 1, 0, [⟨0, 32, .ro, false, false, 0⟩]⟩,
  ⟨0x2824, 1, 0, [⟨0, 32, .ro, false, false, 0⟩]⟩]

def devRows5 : List RegRow := [
  ⟨0x2900, 32, 4, [⟨30, 2, .rw, false, false, 0⟩, ⟨29, 1, .rw, false, false, 0⟩, ⟨10, 10, .rw, false, false, 0⟩, ⟨0, 10, .rw, false, false, 0⟩]⟩,
  ⟨0x2A00, 128, 4, [⟨0, 32, .rw, false, false, 0⟩]⟩,
  ⟨0x3000, 1, 0, [⟨31, 1, .rw, false, false, 1⟩, ⟨30, 1, .rw, false, false, 1⟩, ⟨0, 16, .rw, false, false, 24⟩]⟩,
  ⟨0x3004, 1, 0, [⟨0, 10, .rw, false, false, 200⟩]⟩,
  ⟨0x3008, 1, 0, [⟨0, 17, .rw, false, false, 600⟩]⟩,
  ⟨0x300C, 1, 0, [⟨0, 20, .rw, false, false, 10000⟩]⟩,
  ⟨0x3010, 1, 0, [⟨0, 16, .rw, false, false, 330⟩]⟩,
  ⟨0x3014, 1, 0, [⟨30, 2, .ro, false, false, 0⟩, ⟨29, 1, .ro, false, false, 0⟩, ⟨28, 1, .ro, false, false, 0⟩, ⟨23, 5, .ro, false, false, 0⟩, ⟨7, 1, .w1c, false, false, 0⟩, ⟨6, 1, .w1c, false, false, 0⟩, ⟨5, 1, .w1c, false, false, 0⟩, ⟨4, 1, .w1c, false, false, 0⟩, ⟨3, 1, .w1c, false, false, 0⟩]⟩,
  ⟨0x3018, 1, 0, [⟨31, 1, .sc, false, false, 0⟩, ⟨30, 1, .sc, false, false, 0⟩, ⟨29, 1, .sc, false, false, 0⟩]⟩,
  ⟨0x3020, 4, 4, [⟨0, 32, .rw, false, false, 0⟩]⟩,
  ⟨0x3030, 1, 0, [⟨0, 8, .rw, false, false, 0⟩]⟩,
  ⟨0x3040, 1, 0, [⟨31, 1, .rw, false, false, 1⟩, ⟨0, 18, .rw, false, false, 0⟩]⟩,
  ⟨0x3044, 1, 0, [⟨0, 32, .rw, true, true, 0⟩]⟩,
  ⟨0x3048, 1, 0, [⟨0, 32, .ro, false, false, 0⟩]⟩,
  ⟨0x3050, 1, 0, [⟨0, 32, .ro, false, false, 0⟩]⟩,
  ⟨0x3054, 1, 0, [⟨0, 32, .ro, false, false, 0⟩]⟩,
  ⟨0x5000, 1, 0, [⟨31, 1, .rw, false, false, 1⟩, ⟨30, 1, .rw, false, false, 1⟩, ⟨29, 1, .rw, false, false, 0⟩, ⟨28, 1, .rw, false, false, 1⟩, ⟨27, 1, .rw, false, false, 1⟩, ⟨26, 1, .rw, false, false, 0⟩, ⟨25, 1, .sc, false, false, 0⟩, ⟨24, 1, .sc, false, false, 0⟩]⟩,
  ⟨0x5004, 1, 0, [⟨31, 1, .ro, false, false, 0⟩, ⟨30, 1, .ro, false, false, 0⟩, ⟨29, 1, .ro, false, false, 1⟩, ⟨7, 1, .w1c, false, false, 0⟩, ⟨6, 1, .w1c, false, false, 0⟩, ⟨5, 1, .w1c, false, false, 0⟩, ⟨4, 1, .w1c, false, false, 0⟩, ⟨3, 1, .w1c, false, false, 0⟩, ⟨2, 1, .w1c, false, false, 0⟩, ⟨1, 1, .w1c, false, false, 0⟩]⟩,
  ⟨0x5008, 1, 0, [⟨16, 16, .ro, false, false, 0⟩, ⟨0, 16, .rw, false, false, 0⟩]⟩,
  ⟨0x500C, 1, 0, [⟨16, 16, .ro, false, false, 34997⟩, ⟨0, 6, .ro, false, false, 0⟩]⟩]

def devRows6 : List RegRow := [
  ⟨0x5010, 1, 0, [⟨0, 16, .ro, false, false, 0⟩]⟩,
  ⟨0x5014, 1, 0, [⟨0, 32, .ro, false, false, 0⟩]⟩,
  ⟨0x5018, 2, 4, [⟨0, 32, .ro, false, false, 4294967295⟩]⟩,
  ⟨0x5040, 1, 0, [⟨0, 32, .ro, false, false, 0⟩]⟩,
  ⟨0x5044, 1, 0, [⟨0, 32, .ro, false, false, 0⟩]⟩,
  ⟨0x5048, 1, 0, [⟨0, 32, .ro, false, false, 0⟩]⟩,
  ⟨0x504C, 1, 0, [⟨0, 32, .ro, false, false, 0⟩]⟩,
  ⟨0x5050, 1, 0, [⟨0, 32, .ro, false, false, 0⟩]⟩,
  ⟨0x5054, 1, 0, [⟨0, 32, .ro, false, false, 0⟩]⟩,
  ⟨0x5058, 1, 0, [⟨0, 32, .ro, false, false, 0⟩]⟩,
  ⟨0x505C, 1, 0, [⟨0, 32, .ro, false, false, 0⟩]⟩,
  ⟨0x5060, 1, 0, [⟨0, 32, .ro, false, false, 0⟩]⟩,
  ⟨0x5064, 1, 0, [⟨0, 32, .ro, false, false, 0⟩]⟩,
  ⟨0x5068, 1, 0, [⟨0, 32, .ro, false, false, 0⟩]⟩,
  ⟨0x506C, 1, 0, [⟨0, 32, .ro, false, false, 0⟩]⟩,
  ⟨0x5070, 1, 0, [⟨0, 32, .ro, false, false, 0⟩]⟩,
  ⟨0x5074, 1, 0, [⟨0, 32, .ro, false, false, 0⟩]⟩,
  ⟨0x6000, 1, 0, [⟨31, 1, .rw, true, true, 0⟩, ⟨30, 1, .ro, true, false, 0⟩]⟩,
  ⟨0x6004, 1, 0, [⟨0, 16, .sc, false, false, 0⟩]⟩,
  ⟨0x6008, 1, 0, [⟨31, 1, .ro, false, false, 0⟩, ⟨30, 1, .ro, false, false, 0⟩, ⟨29, 1, .ro, false, false, 0⟩, ⟨20, 4, .ro, false, false, 0⟩, ⟨3, 1, .w1c, false, false, 0⟩, ⟨2, 1, .w1c, false, false, 0⟩, ⟨1, 1, .w1c, false, false, 0⟩, ⟨0, 1, .w1c, false, false, 0⟩]⟩]

def devRows7 : List RegRow := [
  ⟨0x6010, 1, 0, [⟨30, 2, .ro, false, false, 0⟩, ⟨28, 2, .ro, false, false, 0⟩, ⟨0, 24, .ro, false, false, 0⟩]⟩,
  ⟨0x6014, 1, 0, [⟨0, 32, .ro, false, false, 0⟩]⟩,
  ⟨0x6040, 1, 0, [⟨16, 16, .ro, false, false, 0⟩, ⟨0, 16, .ro, false, false, 0⟩]⟩,
  ⟨0x6044, 1, 0, [⟨16, 16, .ro, false, false, 0⟩, ⟨15, 1, .ro, false, false, 0⟩, ⟨0, 8, .ro, false, false, 0⟩]⟩,
  ⟨0x6048, 1, 0, [⟨0, 32, .ro, false, false, 0⟩]⟩,
  ⟨0x604C, 8, 4, [⟨0, 32, .ro, false, false, 0⟩]⟩,
  ⟨0x7000, 1, 0, [⟨30, 2, .rw, false, false, 0⟩, ⟨29, 1, .rw, false, false, 1⟩]⟩,
  ⟨0x7004, 1, 0, [⟨0, 24, .rw, false, false, 0⟩]⟩,
  ⟨0x7008, 1, 0, [⟨0, 32, .rw, false, false, 0⟩]⟩,
  ⟨0x700C, 1, 0, [⟨2, 1, .w1c, false, false, 0⟩, ⟨1, 1, .w1c, false, false, 0⟩, ⟨0, 1, .w1c, false, false, 0⟩]⟩]

/-- Every register of the device-wide blocks DEV_, TB_, TRG_ (its global part), CAL_, NET_, PRT_ and MP_. -/
def devRows : List RegRow :=
  devRows0 ++ devRows1 ++ devRows2 ++ devRows3 ++ devRows4 ++ devRows5 ++ devRows6 ++ devRows7

def chanRows0 : List RegRow := [
  ⟨0x0, 1, 0, [⟨15, 1, .rws, false, false, 0⟩, ⟨12, 1, .rws, false, false, 0⟩, ⟨8, 2, .rws, false, false, 0⟩, ⟨5, 1, .rws, false, false, 0⟩, ⟨4, 1, .rws, false, false, 0⟩]⟩,
  ⟨0x4, 1, 0, [⟨22, 2, .rw, false, false, 0⟩, ⟨19, 3, .rws, false, false, 0⟩, ⟨18, 1, .rws, false, false, 0⟩, ⟨0, 18, .rws, false, false, 131072⟩]⟩,
  ⟨0x8, 1, 0, [⟨18, 7, .ro, false, false, 0⟩, ⟨0, 18, .sc, false, false, 0⟩]⟩,
  ⟨0xC, 1, 0, [⟨31, 1, .sc, false, false, 0⟩, ⟨18, 1, .ro, false, false, 1⟩, ⟨17, 1, .ro, false, false, 0⟩, ⟨16, 1, .ro, false, false, 0⟩, ⟨11, 1, .w1c, false, false, 0⟩, ⟨10, 1, .w1c, false, false, 0⟩, ⟨9, 1, .w1c, false, false, 0⟩, ⟨8, 1, .w1c, false, false, 0⟩, ⟨7, 1, .ro, false, false, 0⟩, ⟨3, 3, .ro, false, false, 0⟩, ⟨0, 3, .ro, false, false, 0⟩]⟩,
  ⟨0x10, 1, 0, [⟨31, 1, .sc, false, false, 0⟩, ⟨30, 1, .rws, false, false, 0⟩, ⟨16, 2, .rws, false, false, 0⟩, ⟨0, 16, .rws, false, false, 0⟩]⟩,
  ⟨0x14, 1, 0, [⟨31, 1, .w1c, false, false, 0⟩, ⟨30, 1, .w1c, false, false, 0⟩, ⟨29, 1, .w1c, false, false, 0⟩, ⟨28, 1, .w1c, false, false, 0⟩, ⟨27, 1, .w1c, false, false, 0⟩, ⟨26, 1, .w1c, false, false, 0⟩, ⟨25, 1, .w1c, false, false, 0⟩, ⟨24, 1, .w1c, false, false, 0⟩, ⟨23, 1, .w1c, false, false, 0⟩, ⟨22, 1, .w1c, false, false, 0⟩, ⟨21, 1, .w1c, false, false, 0⟩, ⟨20, 1, .ro, false, false, 0⟩, ⟨19, 1, .ro, false, false, 0⟩, ⟨18, 1, .ro, false, false, 0⟩, ⟨17, 1, .ro, false, false, 0⟩, ⟨9, 8, .ro, false, false, 0⟩, ⟨0, 9, .ro, false, false, 0⟩]⟩,
  ⟨0x18, 1, 0, [⟨31, 1, .rws, false, false, 0⟩, ⟨30, 1, .rws, false, false, 1⟩, ⟨29, 1, .rws, false, false, 0⟩, ⟨28, 1, .rws, false, false, 0⟩, ⟨26, 2, .rws, false, false, 0⟩, ⟨25, 1, .rws, false, false, 0⟩, ⟨24, 1, .rws, false, false, 0⟩, ⟨22, 2, .rws, false, false, 1⟩, ⟨20, 2, .rws, false, false, 1⟩, ⟨19, 1, .rws, false, false, 0⟩, ⟨16, 3, .rws, false, false, 0⟩, ⟨15, 1, .rws, false, false, 0⟩, ⟨14, 1, .rws, false, false, 0⟩, ⟨8, 4, .rws, false, false, 0⟩, ⟨4, 4, .rws, false, false, 0⟩, ⟨0, 4, .rws, false, false, 0⟩]⟩,
  ⟨0x1C, 1, 0, [⟨0, 18, .rws, false, false, 0⟩]⟩,
  ⟨0x20, 1, 0, [⟨0, 32, .rws, false, false, 640000000⟩]⟩,
  ⟨0x24, 1, 0, [⟨31, 1, .rws, false, false, 0⟩, ⟨0, 7, .rws, false, false, 0⟩]⟩,
  ⟨0x28, 1, 0, [⟨0, 9, .rws, false, false, 0⟩]⟩,
  ⟨0x2C, 1, 0, [⟨0, 32, .rws, false, false, 640000000⟩]⟩,
  ⟨0x30, 1, 0, [⟨0, 32, .rws, false, false, 0⟩]⟩,
  ⟨0x34, 1, 0, [⟨0, 32, .rws, false, false, 0⟩]⟩,
  ⟨0x38, 1, 0, [⟨31, 1, .sc, false, false, 0⟩, ⟨30, 1, .sc, false, false, 0⟩, ⟨29, 1, .sc, false, false, 0⟩, ⟨28, 1, .sc, false, false, 0⟩, ⟨27, 1, .sc, false, false, 0⟩, ⟨26, 1, .sc, false, false, 0⟩]⟩,
  ⟨0x3C, 1, 0, [⟨0, 32, .ro, false, false, 0⟩]⟩,
  ⟨0x40, 1, 0, [⟨31, 1, .rw, false, false, 0⟩, ⟨29, 2, .rw, false, false, 0⟩, ⟨28, 1, .rw, false, false, 1⟩, ⟨27, 1, .rw, false, false, 1⟩]⟩,
  ⟨0x44, 1, 0, [⟨0, 24, .rw, false, false, 1280000⟩]⟩,
  ⟨0x48, 1, 0, [⟨28, 4, .ro, false, false, 0⟩, ⟨7, 1, .w1c, false, false, 0⟩, ⟨6, 1, .w1c, false, false, 0⟩, ⟨5, 1, .w1c, false, false, 0⟩, ⟨4, 1, .w1c, false, false, 0⟩, ⟨3, 1, .w1c, false, false, 0⟩, ⟨2, 1, .w1c, false, false, 0⟩, ⟨1, 1, .w1c, false, false, 0⟩, ⟨0, 1, .w1c, false, false, 0⟩]⟩,
  ⟨0x4C, 1, 0, [⟨18, 14, .ro, false, false, 0⟩, ⟨8, 10, .ro, false, false, 0⟩, ⟨0, 7, .ro, false, false, 0⟩]⟩]

def chanRows1 : List RegRow := [
  ⟨0x50, 1, 0, [⟨31, 1, .sc, false, false, 0⟩, ⟨30, 1, .sc, false, false, 0⟩, ⟨29, 1, .sc, false, false, 0⟩]⟩,
  ⟨0x60, 1, 0, [⟨30, 2, .rws, false, false, 0⟩, ⟨29, 1, .rws, false, false, 0⟩, ⟨21, 6, .rws, false, false, 0⟩, ⟨14, 7, .rws, false, false, 0⟩, ⟨7, 7, .rws, false, false, 0⟩]⟩,
  ⟨0x64, 1, 0, [⟨0, 22, .rws, false, false, 16382⟩]⟩,
  ⟨0x68, 1, 0, [⟨0, 32, .rws, false, false, 0⟩]⟩,
  ⟨0x6C, 1, 0, [⟨0, 32, .rws, false, false, 0⟩]⟩,
  ⟨0x70, 1, 0, [⟨31, 1, .sc, false, false, 0⟩, ⟨30, 1, .sc, false, false, 0⟩]⟩,
  ⟨0x74, 1, 0, [⟨31, 1, .ro, false, false, 0⟩, ⟨30, 1, .ro, false, false, 0⟩, ⟨29, 1, .ro, false, false, 0⟩, ⟨5, 1, .w1c, false, false, 0⟩, ⟨4, 1, .w1c, false, false, 0⟩, ⟨3, 1, .w1c, false, false, 0⟩, ⟨2, 1, .w1c, false, false, 0⟩, ⟨1, 1, .w1c, false, false, 0⟩]⟩,
  ⟨0x80, 16, 4, [⟨16, 16, .rw, false, false, 64⟩, ⟨0, 16, .rw, false, false, 64⟩]⟩,
  ⟨0xC0, 1, 0, [⟨31, 1, .rws, false, false, 0⟩, ⟨30, 1, .rws, false, false, 0⟩, ⟨29, 1, .rws, false, false, 0⟩, ⟨26, 3, .rws, false, false, 0⟩]⟩,
  ⟨0xC4, 1, 0, [⟨0, 32, .rws, false, false, 0⟩]⟩,
  ⟨0xC8, 1, 0, [⟨0, 32, .rws, false, false, 0⟩]⟩,
  ⟨0xCC, 1, 0, [⟨0, 32, .rws, false, false, 0⟩]⟩,
  ⟨0xD0, 1, 0, [⟨0, 32, .rws, false, false, 0⟩]⟩,
  ⟨0xE0, 1, 0, [⟨31, 1, .rw, false, false, 0⟩, ⟨30, 1, .rw, false, false, 0⟩, ⟨29, 1, .rw, false, false, 0⟩, ⟨28, 1, .rw, false, false, 0⟩]⟩,
  ⟨0xE4, 1, 0, [⟨28, 4, .ro, false, false, 0⟩, ⟨23, 5, .ro, false, false, 0⟩, ⟨21, 2, .ro, false, false, 3⟩, ⟨19, 2, .ro, false, false, 3⟩, ⟨18, 1, .ro, false, false, 0⟩, ⟨17, 1, .ro, false, false, 0⟩, ⟨7, 1, .w1c, false, false, 0⟩, ⟨6, 1, .w1c, false, false, 0⟩, ⟨5, 1, .w1c, false, false, 0⟩, ⟨4, 1, .w1c, false, false, 0⟩, ⟨3, 1, .w1c, false, false, 0⟩, ⟨2, 1, .w1c, false, false, 0⟩]⟩,
  ⟨0xE8, 1, 0, [⟨16, 16, .ro, false, false, 65535⟩, ⟨0, 16, .ro, false, false, 65535⟩]⟩,
  ⟨0xEC, 1, 0, [⟨16, 16, .ro, false, false, 0⟩, ⟨0, 16, .ro, false, false, 0⟩]⟩,
  ⟨0x100, 1, 0, [⟨0, 32, .ro, false, false, 0⟩]⟩,
  ⟨0x104, 1, 0, [⟨0, 32, .ro, false, false, 0⟩]⟩,
  ⟨0x108, 1, 0, [⟨0, 32, .ro, false, false, 0⟩]⟩]

def chanRows2 : List RegRow := [
  ⟨0x10C, 1, 0, [⟨0, 32, .ro, false, false, 0⟩]⟩,
  ⟨0x110, 1, 0, [⟨0, 32, .ro, false, false, 0⟩]⟩,
  ⟨0x114, 1, 0, [⟨0, 32, .ro, false, false, 0⟩]⟩,
  ⟨0x118, 1, 0, [⟨0, 32, .ro, false, false, 0⟩]⟩,
  ⟨0x11C, 1, 0, [⟨0, 32, .ro, false, false, 0⟩]⟩,
  ⟨0x120, 1, 0, [⟨0, 32, .ro, false, false, 0⟩]⟩,
  ⟨0x124, 1, 0, [⟨0, 32, .ro, false, false, 0⟩]⟩,
  ⟨0x128, 1, 0, [⟨0, 32, .ro, false, false, 0⟩]⟩,
  ⟨0x12C, 1, 0, [⟨0, 32, .ro, false, false, 0⟩]⟩,
  ⟨0x130, 1, 0, [⟨0, 32, .ro, false, false, 0⟩]⟩,
  ⟨0x134, 1, 0, [⟨0, 32, .ro, false, false, 0⟩]⟩,
  ⟨0x138, 1, 0, [⟨0, 32, .ro, false, false, 0⟩]⟩,
  ⟨0x13C, 1, 0, [⟨0, 32, .ro, false, false, 0⟩]⟩,
  ⟨0x140, 1, 0, [⟨0, 32, .ro, false, false, 0⟩]⟩,
  ⟨0x144, 1, 0, [⟨0, 32, .ro, false, false, 0⟩]⟩,
  ⟨0x148, 1, 0, [⟨0, 32, .ro, false, false, 0⟩]⟩,
  ⟨0x14C, 1, 0, [⟨0, 32, .ro, false, false, 0⟩]⟩,
  ⟨0x150, 1, 0, [⟨0, 32, .ro, false, false, 0⟩]⟩,
  ⟨0x154, 1, 0, [⟨0, 32, .ro, false, false, 0⟩]⟩,
  ⟨0x158, 1, 0, [⟨0, 32, .ro, false, false, 0⟩]⟩]

def chanRows3 : List RegRow := [
  ⟨0x15C, 1, 0, [⟨0, 32, .ro, false, false, 0⟩]⟩,
  ⟨0x160, 1, 0, [⟨0, 32, .ro, false, false, 0⟩]⟩,
  ⟨0x164, 1, 0, [⟨0, 32, .ro, false, false, 0⟩]⟩,
  ⟨0x168, 1, 0, [⟨0, 32, .ro, false, false, 0⟩]⟩,
  ⟨0x16C, 1, 0, [⟨0, 32, .ro, false, false, 0⟩]⟩,
  ⟨0x170, 1, 0, [⟨0, 32, .ro, false, false, 0⟩]⟩,
  ⟨0x174, 1, 0, [⟨0, 32, .ro, false, false, 0⟩]⟩,
  ⟨0x178, 1, 0, [⟨0, 32, .ro, false, false, 0⟩]⟩,
  ⟨0x17C, 1, 0, [⟨0, 32, .ro, false, false, 0⟩]⟩,
  ⟨0x180, 1, 0, [⟨0, 32, .ro, false, false, 0⟩]⟩,
  ⟨0x184, 1, 0, [⟨0, 32, .ro, false, false, 0⟩]⟩,
  ⟨0x188, 1, 0, [⟨0, 24, .ro, false, false, 8388607⟩]⟩,
  ⟨0x18C, 1, 0, [⟨0, 24, .ro, false, false, 8388608⟩]⟩,
  ⟨0x190, 1, 0, [⟨0, 32, .ro, false, false, 0⟩]⟩,
  ⟨0x194, 1, 0, [⟨0, 32, .ro, false, false, 0⟩]⟩,
  ⟨0x198, 1, 0, [⟨0, 32, .ro, false, false, 0⟩]⟩,
  ⟨0x19C, 1, 0, [⟨0, 32, .ro, false, false, 0⟩]⟩,
  ⟨0x1A0, 1, 0, [⟨0, 32, .ro, false, false, 0⟩]⟩,
  ⟨0x1A4, 1, 0, [⟨0, 32, .ro, false, false, 0⟩]⟩,
  ⟨0x1A8, 1, 0, [⟨0, 32, .ro, false, false, 0⟩]⟩]

def chanRows4 : List RegRow := [
  ⟨0x1AC, 1, 0, [⟨0, 32, .ro, false, false, 0⟩]⟩,
  ⟨0x1B0, 1, 0, [⟨0, 32, .ro, false, false, 0⟩]⟩,
  ⟨0x1B4, 1, 0, [⟨0, 32, .ro, false, false, 0⟩]⟩,
  ⟨0x1B8, 1, 0, [⟨0, 32, .ro, false, false, 0⟩]⟩,
  ⟨0x1BC, 1, 0, [⟨0, 32, .ro, false, false, 0⟩]⟩]

/-- Every register of a channel block. -/
def chanRows : List RegRow :=
  chanRows0 ++ chanRows1 ++ chanRows2 ++ chanRows3 ++ chanRows4

def spareRows0 : List RegRow := [
  ⟨0x0, 1, 0, [⟨6, 2, .rw, true, true, 0⟩, ⟨0, 4, .rw, true, true, 0⟩]⟩,
  ⟨0x4, 1, 0, [⟨30, 2, .ro, false, false, 0⟩, ⟨28, 2, .ro, false, false, 0⟩, ⟨24, 4, .ro, false, false, 0⟩, ⟨7, 1, .w1c, false, false, 0⟩, ⟨6, 1, .w1c, false, false, 0⟩, ⟨5, 1, .w1c, false, false, 0⟩, ⟨4, 1, .w1c, false, false, 0⟩, ⟨3, 1, .w1c, false, false, 0⟩]⟩,
  ⟨0x8, 1, 0, [⟨0, 24, .rw, false, false, 10000⟩]⟩,
  ⟨0xE0, 1, 0, [⟨31, 1, .rw, false, false, 0⟩, ⟨30, 1, .rw, false, false, 0⟩, ⟨29, 1, .rw, false, false, 0⟩, ⟨28, 1, .rw, false, false, 0⟩]⟩,
  ⟨0xE4, 1, 0, [⟨28, 4, .ro, false, false, 0⟩, ⟨23, 5, .ro, false, false, 0⟩, ⟨21, 2, .ro, false, false, 3⟩, ⟨19, 2, .ro, false, false, 3⟩, ⟨18, 1, .ro, false, false, 0⟩, ⟨17, 1, .ro, false, false, 0⟩, ⟨7, 1, .w1c, false, false, 0⟩, ⟨6, 1, .w1c, false, false, 0⟩, ⟨5, 1, .w1c, false, false, 0⟩, ⟨4, 1, .w1c, false, false, 0⟩, ⟨3, 1, .w1c, false, false, 0⟩, ⟨2, 1, .w1c, false, false, 0⟩]⟩,
  ⟨0xE8, 1, 0, [⟨16, 16, .ro, false, false, 65535⟩, ⟨0, 16, .ro, false, false, 65535⟩]⟩,
  ⟨0xEC, 1, 0, [⟨16, 16, .ro, false, false, 0⟩, ⟨0, 16, .ro, false, false, 0⟩]⟩,
  ⟨0x1B0, 1, 0, [⟨0, 32, .ro, false, false, 0⟩]⟩,
  ⟨0x1B4, 1, 0, [⟨0, 32, .ro, false, false, 0⟩]⟩,
  ⟨0x1B8, 1, 0, [⟨0, 32, .ro, false, false, 0⟩]⟩,
  ⟨0x1BC, 1, 0, [⟨0, 32, .ro, false, false, 0⟩]⟩]

/-- Every register of a spare block. -/
def spareRows : List RegRow :=
  spareRows0

def tuRows0 : List RegRow := [
  ⟨0x0, 1, 0, [⟨30, 2, .rws, false, false, 0⟩, ⟨29, 1, .rws, false, false, 0⟩, ⟨28, 1, .rws, false, false, 1⟩, ⟨27, 1, .rws, false, false, 0⟩, ⟨26, 1, .rws, false, false, 0⟩, ⟨23, 3, .rws, false, false, 0⟩, ⟨21, 2, .rws, false, false, 0⟩, ⟨16, 5, .rws, false, false, 0⟩, ⟨0, 16, .rws, false, false, 1⟩]⟩,
  ⟨0x4, 1, 0, [⟨24, 4, .rws, false, false, 0⟩, ⟨0, 16, .rws, false, false, 0⟩]⟩,
  ⟨0x8, 1, 0, [⟨0, 16, .rws, false, false, 0⟩]⟩,
  ⟨0xC, 1, 0, [⟨30, 2, .rws, false, false, 1⟩, ⟨0, 7, .rws, false, false, 0⟩]⟩,
  ⟨0x10, 1, 0, [⟨31, 1, .rws, false, false, 0⟩, ⟨29, 2, .rws, false, false, 0⟩, ⟨0, 7, .rws, false, false, 0⟩]⟩,
  ⟨0x14, 1, 0, [⟨0, 32, .rws, false, false, 0⟩]⟩,
  ⟨0x18, 1, 0, [⟨0, 32, .rws, false, false, 0⟩]⟩,
  ⟨0x1C, 1, 0, [⟨0, 32, .rws, false, false, 0⟩]⟩,
  ⟨0x20, 1, 0, [⟨0, 32, .rws, false, false, 0⟩]⟩,
  ⟨0x24, 1, 0, [⟨0, 24, .rws, false, false, 1024⟩]⟩,
  ⟨0x28, 1, 0, [⟨0, 24, .rws, false, false, 3072⟩]⟩,
  ⟨0x2C, 1, 0, [⟨0, 16, .rws, false, false, 0⟩]⟩,
  ⟨0x30, 1, 0, [⟨0, 32, .rws, false, false, 0⟩]⟩,
  ⟨0x34, 4, 4, [⟨0, 32, .rws, false, false, 0⟩]⟩,
  ⟨0x44, 1, 0, [⟨31, 1, .sc, false, false, 0⟩, ⟨30, 1, .sc, false, false, 0⟩, ⟨29, 1, .sc, false, false, 0⟩, ⟨28, 1, .sc, false, false, 0⟩, ⟨27, 1, .sc, false, false, 0⟩]⟩,
  ⟨0x48, 1, 0, [⟨30, 2, .ro, false, false, 0⟩, ⟨8, 16, .ro, false, false, 0⟩, ⟨7, 1, .w1c, false, false, 0⟩, ⟨6, 1, .w1c, false, false, 0⟩, ⟨5, 1, .ro, false, false, 0⟩, ⟨4, 1, .w1c, false, false, 0⟩, ⟨3, 1, .w1c, false, false, 0⟩, ⟨2, 1, .w1c, false, false, 0⟩, ⟨1, 1, .w1c, false, false, 0⟩, ⟨0, 1, .w1c, false, false, 0⟩]⟩,
  ⟨0x4C, 1, 0, [⟨0, 32, .ro, false, false, 0⟩]⟩,
  ⟨0x50, 1, 0, [⟨31, 1, .ro, false, false, 0⟩, ⟨24, 7, .ro, false, false, 0⟩, ⟨0, 24, .ro, false, false, 0⟩]⟩,
  ⟨0x54, 1, 0, [⟨0, 32, .ro, false, false, 0⟩]⟩,
  ⟨0x58, 1, 0, [⟨0, 32, .ro, false, false, 0⟩]⟩]

def tuRows1 : List RegRow := [
  ⟨0x5C, 1, 0, [⟨0, 32, .ro, false, false, 0⟩]⟩]

/-- Every register of a trigger unit block. -/
def tuRows : List RegRow :=
  tuRows0 ++ tuRows1

def linkRows0 : List RegRow := [
  ⟨0x0, 1, 0, [⟨31, 1, .rw, false, false, 1⟩, ⟨30, 1, .rw, false, false, 1⟩, ⟨28, 2, .rw, false, false, 0⟩, ⟨27, 1, .rws, false, false, 0⟩, ⟨16, 8, .rws, false, false, 0⟩, ⟨12, 4, .rw, false, false, 0⟩]⟩,
  ⟨0x4, 1, 0, [⟨16, 16, .ro, false, false, 0⟩, ⟨0, 16, .rws, false, false, 65535⟩]⟩,
  ⟨0x8, 1, 0, [⟨28, 4, .ro, false, false, 1⟩, ⟨26, 2, .ro, false, false, 0⟩, ⟨21, 5, .ro, false, false, 0⟩, ⟨20, 1, .ro, false, false, 0⟩, ⟨12, 1, .ro, false, false, 0⟩, ⟨11, 1, .w1c, false, false, 0⟩, ⟨10, 1, .w1c, false, false, 0⟩, ⟨9, 1, .w1c, false, false, 0⟩, ⟨8, 1, .w1c, false, false, 0⟩, ⟨7, 1, .w1c, false, false, 0⟩, ⟨6, 1, .w1c, false, false, 0⟩, ⟨5, 1, .w1c, false, false, 0⟩, ⟨4, 1, .w1c, false, false, 0⟩, ⟨3, 1, .w1c, false, false, 0⟩]⟩,
  ⟨0xC, 1, 0, [⟨31, 1, .sc, false, false, 0⟩, ⟨30, 1, .sc, false, false, 0⟩, ⟨29, 1, .sc, false, false, 0⟩, ⟨28, 1, .sc, false, false, 0⟩, ⟨27, 1, .sc, false, false, 0⟩]⟩,
  ⟨0x10, 1, 0, [⟨29, 3, .rw, false, false, 0⟩, ⟨27, 2, .rw, false, false, 3⟩, ⟨0, 16, .rw, false, false, 0⟩]⟩,
  ⟨0x14, 1, 0, [⟨16, 16, .rw, false, false, 500⟩, ⟨0, 16, .rw, false, false, 256⟩]⟩,
  ⟨0x40, 16, 4, [⟨31, 1, .ro, false, false, 0⟩, ⟨30, 1, .ro, false, false, 0⟩, ⟨29, 1, .ro, false, false, 0⟩, ⟨25, 4, .ro, false, false, 0⟩, ⟨24, 1, .ro, false, false, 0⟩, ⟨23, 1, .w1c, false, false, 0⟩, ⟨22, 1, .ro, false, false, 0⟩, ⟨8, 8, .ro, false, false, 0⟩, ⟨0, 8, .ro, false, false, 0⟩]⟩,
  ⟨0x80, 16, 8, [⟨0, 16, .ro, false, false, 0⟩]⟩,
  ⟨0x84, 16, 8, [⟨0, 32, .ro, false, false, 0⟩]⟩,
  ⟨0x100, 1, 0, [⟨0, 32, .ro, false, false, 0⟩]⟩,
  ⟨0x104, 1, 0, [⟨0, 32, .ro, false, false, 0⟩]⟩,
  ⟨0x108, 1, 0, [⟨0, 32, .ro, false, false, 0⟩]⟩,
  ⟨0x10C, 1, 0, [⟨0, 32, .ro, false, false, 0⟩]⟩,
  ⟨0x110, 1, 0, [⟨0, 32, .ro, false, false, 0⟩]⟩,
  ⟨0x114, 1, 0, [⟨0, 32, .ro, false, false, 0⟩]⟩,
  ⟨0x118, 1, 0, [⟨0, 32, .ro, false, false, 0⟩]⟩,
  ⟨0x11C, 1, 0, [⟨0, 32, .ro, false, false, 0⟩]⟩,
  ⟨0x120, 1, 0, [⟨0, 32, .ro, false, false, 0⟩]⟩,
  ⟨0x124, 1, 0, [⟨0, 32, .ro, false, false, 0⟩]⟩,
  ⟨0x128, 1, 0, [⟨0, 32, .ro, false, false, 0⟩]⟩]

def linkRows1 : List RegRow := [
  ⟨0x12C, 1, 0, [⟨0, 32, .ro, false, false, 0⟩]⟩,
  ⟨0x130, 1, 0, [⟨0, 32, .ro, false, false, 0⟩]⟩,
  ⟨0x134, 1, 0, [⟨0, 32, .ro, false, false, 0⟩]⟩]

/-- Every register of a link block. -/
def linkRows : List RegRow :=
  linkRows0 ++ linkRows1

def domRows0 : List RegRow := [
  ⟨0x0, 1, 0, [⟨31, 1, .rw, false, false, 0⟩, ⟨30, 1, .rw, false, false, 0⟩, ⟨29, 1, .rw, false, false, 0⟩, ⟨27, 2, .rw, false, false, 3⟩, ⟨16, 8, .rw, false, false, 0⟩, ⟨0, 8, .rw, false, false, 0⟩]⟩,
  ⟨0x4, 1, 0, [⟨0, 30, .rw, false, false, 1000⟩]⟩,
  ⟨0x8, 1, 0, [⟨0, 20, .rw, false, false, 50⟩]⟩,
  ⟨0xC, 1, 0, [⟨0, 17, .rw, false, false, 300⟩]⟩,
  ⟨0x10, 1, 0, [⟨28, 4, .ro, false, false, 0⟩, ⟨25, 3, .ro, false, false, 0⟩, ⟨24, 1, .ro, false, false, 0⟩, ⟨23, 1, .ro, false, false, 0⟩, ⟨7, 1, .w1c, false, false, 0⟩, ⟨6, 1, .w1c, false, false, 0⟩, ⟨5, 1, .w1c, false, false, 0⟩, ⟨4, 1, .w1c, false, false, 0⟩, ⟨3, 1, .w1c, false, false, 0⟩, ⟨2, 1, .w1c, false, false, 0⟩, ⟨1, 1, .w1c, false, false, 0⟩, ⟨0, 1, .w1c, false, false, 0⟩]⟩,
  ⟨0x14, 1, 0, [⟨31, 1, .sc, false, false, 0⟩, ⟨30, 1, .sc, false, false, 0⟩, ⟨29, 1, .sc, false, false, 0⟩]⟩,
  ⟨0x18, 1, 0, [⟨0, 32, .ro, false, false, 0⟩]⟩,
  ⟨0x1C, 1, 0, [⟨0, 32, .ro, false, false, 0⟩]⟩,
  ⟨0x20, 1, 0, [⟨0, 32, .ro, false, false, 0⟩]⟩,
  ⟨0x24, 1, 0, [⟨0, 32, .ro, false, false, 0⟩]⟩,
  ⟨0x28, 1, 0, [⟨0, 32, .ro, false, false, 0⟩]⟩,
  ⟨0x2C, 1, 0, [⟨0, 32, .ro, false, false, 0⟩]⟩,
  ⟨0x30, 1, 0, [⟨0, 32, .rw, false, false, 0⟩]⟩,
  ⟨0x34, 1, 0, [⟨0, 32, .rw, false, false, 0⟩]⟩,
  ⟨0x38, 1, 0, [⟨0, 32, .ro, false, false, 0⟩]⟩,
  ⟨0x3C, 1, 0, [⟨0, 32, .ro, false, false, 0⟩]⟩]

/-- Every register of a time domain block. -/
def domRows : List RegRow :=
  domRows0

end Sys2Proof.Machine
end

