-- ==== Sys2Proof/Config.lean ====
section
/-!
DEFINITION. The values the spec leaves open. Each is a constant with no body: nothing can evaluate
it, so a statement that holds, holds for every value. `notes/assumptions/3.md` lists them.
-/

namespace Sys2Proof.Config

/-- The 32-bit entropy word of a first lock, before 0 is excluded (R42), by draw number. -/
opaque entropy : Nat → BitVec 32

/-- Where a result is not a binary64 number exactly, whether the neighbour above in magnitude is
given (R109 and R113 state no rounding). -/
opaque f64Up : Rat → Bool

/-- The same for a square root, by its argument (R109, R112). -/
opaque f64SqrtUp : Rat → Bool

/-- Where a rounded quantity lies exactly half way and the spec gives no tie rule, whether the
upper neighbour is taken. -/
opaque tieUp : Rat → Bool

/-- A Vat word after power-on that nothing has written (R308: contents undefined), by power-on
count and word address. -/
opaque vatWord : Nat → Nat → BitVec 32

/-- A Lake word after power-on that nothing has written (R308), by power-on count and address. -/
opaque lakeWord : Nat → Nat → BitVec 32

/-- The rate correction the servo of a domain sets at a sample, before the limits of R45 (R254 gives
its bandwidths and no law), by draw number. -/
opaque servoRate : Nat → Int

/-- How many entries of a traffic class may wait while the partner's credit allows none, before the
class stalls its sources (R228 states the stall and no depth), by the class's code. -/
opaque txRoom : Nat → Nat

/-- The link-state flags of a TRAIN block, of which R218 gives the place and no layout, by whether link
state is to be reset. -/
opaque trainFlags : Nat → BitVec 8

/-- Whether a pin crossing within 100 ps of a sample boundary is assigned to the later of the two
adjacent samples (R148), by draw number. -/
opaque pinSample : Nat → Bool

/-- How many SRAM macros the device has (R312 gives their spare rows and no number of them). -/
opaque sramMacros : Nat

/-- The milliseconds until READY that a BUSY answer and OD 0x100A give before it (R246, R276), by draw
number. -/
opaque busyMs : Nat → Nat

/-- The bytes of the serial number, OD 0x1003. -/
opaque serialNumber : List (BitVec 8)

/-- The bytes of the name of the ULD file, OD 0x1009. -/
opaque uldName : List (BitVec 8)

/-- A voltage that the board gives and AMON shows (R74): VDDIO as 0, VDDA, VDDT, VDDM, VDDS and VDDH as 1 to
5; from 16 on, what the output of a thermal sensor is before its first reading. -/
opaque boardVolts : Nat → Rat

/-- Q(BER) for a target of 10 to the minus its argument, the inverse of the Gaussian tail (R182). -/
opaque gaussQ : Nat → Rat

end Sys2Proof.Config
end

