-- ==== Sys2Proof/Machine/F64.lean ====
section
/-!
DEFINITION. IEEE 754 binary64 values (R4, R113) as 64-bit words: encoding an exact rational or the
square root of one, decoding, and comparison. Where the value is not representable the choice
between its two neighbours is the free value of Config.
-/

namespace Sys2Proof.Machine

/-- The NaN every entry carries (R98). -/
def f64NaN : BitVec 64 := 0x7FF8000000000000#64

/-- floor (n · 2^k / d) for an integer k, and whether it is exact. -/
def scaleDiv (n d : Nat) (k : Int) : Nat × Bool :=
  match k with
  | .ofNat k => (n <<< k / d, decide (n <<< k % d = 0))
  | .negSucc k => (n / (d <<< (k + 1)), decide (n % (d <<< (k + 1)) = 0))

/-- floor (log2 (n / d)) for positive n and d. -/
def log2Ratio (n d : Nat) : Int :=
  let e : Int := Int.ofNat n.log2 - Int.ofNat d.log2
  if (scaleDiv n d (-e)).1 = 0 then e - 1 else e

/-- Packs a magnitude m · 2^(e − 52): m has at most 53 bits, and e ≥ −1022. -/
def f64Pack (neg : Bool) (m : Nat) (e : Int) : BitVec 64 :=
  let (m, e) := if m ≥ 2 ^ 53 then (m / 2, e + 1) else (m, e)
  let bexp : Nat := if m < 2 ^ 52 then 0 else (e + 1023).toNat
  let mag : Nat := if bexp ≥ 2047 then 2047 * 2 ^ 52 else bexp * 2 ^ 52 + m % 2 ^ 52
  BitVec.ofNat 64 (if neg then 2 ^ 63 + mag else mag)

/-- The binary64 value of a rational; inexact values take a free choice between the neighbours. -/
def f64OfRat (q : Rat) : BitVec 64 :=
  if q.num = 0 then 0#64
  else
    let n := q.num.natAbs
    let e := max (log2Ratio n q.den) (-1022)
    let (m, exact) := scaleDiv n q.den (52 - e)
    f64Pack (decide (q.num < 0)) (if exact then m else if Config.f64Up q then m + 1 else m) e

/-- The binary64 value of the square root of a non-negative rational. -/
def f64Sqrt (q : Rat) : BitVec 64 :=
  if q.num ≤ 0 then 0#64
  else
    let n := q.num.natAbs
    let e := max (log2Ratio n q.den / 2) (-1022)
    let (m2, exact) := scaleDiv n q.den (2 * (52 - e))
    let m := Nat.sqrt m2
    f64Pack false (if exact && m * m == m2 then m else if Config.f64SqrtUp q then m + 1 else m) e

/-- The rational a finite binary64 word stands for; none for infinities and NaNs. -/
def f64ToRat (w : BitVec 64) : Option Rat :=
  let neg := w.getLsbD 63
  let bexp := (w.extractLsb' 52 11).toNat
  let frac := (w.extractLsb' 0 52).toNat
  if bexp = 2047 then none
  else
    let m : Nat := if bexp = 0 then frac else 2 ^ 52 + frac
    let e : Nat := if bexp = 0 then 1 else bexp
    let q : Rat := if e ≥ 1075 then mkRat (Int.ofNat (m * 2 ^ (e - 1075))) 1 else mkRat (Int.ofNat m) (2 ^ (1075 - e))
    some (if neg then -q else q)

/-- Whether a word is a NaN. -/
def f64IsNaN (w : BitVec 64) : Bool :=
  decide ((w.extractLsb' 52 11).toNat = 2047) && decide ((w.extractLsb' 0 52).toNat ≠ 0)

/-- A key that orders all binary64 words but NaNs as their values do; both zeros have key 0. -/
def f64Key (w : BitVec 64) : Int :=
  let mag : Int := Int.ofNat (w.extractLsb' 0 63).toNat
  if w.getLsbD 63 then -mag else mag

/-- a < b, false where either is NaN. -/
def f64Lt (a b : BitVec 64) : Bool :=
  !f64IsNaN a && !f64IsNaN b && decide (f64Key a < f64Key b)

/-- floor (x + 1/2): an exact half rounds up (R108). -/
def roundHalfUp (q : Rat) : Int := (q + 1 / 2).floor

/-- Rounding to the nearest integer where the spec states no tie rule. -/
def roundNearest (q : Rat) : Int :=
  let f := q.floor
  let d := q - (f : Rat)
  if d < 1 / 2 then f else if 1 / 2 < d then f + 1 else if Config.tieUp q then f + 1 else f

end Sys2Proof.Machine
end

