-- ==== Sys2Proof/Machine/Functions.lean ====
section
/-!
DEFINITION. The measurement functions of one gate (spec/05_measurements.md): which entries a
function takes, how it pairs them, the estimators, the per-gate statistics, and the 32-byte
entries. Everything here is a function of a reducer's own data; the machine around it feeds
calibrated entries and gate ends in, and takes the entries out.
-/

namespace Sys2Proof.Machine

/-- A 32-byte entry, four 64-bit words (R113). -/
structure Entry where
  w0 : BitVec 64
  w1 : BitVec 64
  w2 : BitVec 64
  w3 : BitVec 64
  deriving DecidableEq, Repr

/-- One item of a stream as the reducer sees it; times in 1/16 tk (R78), boundaries in whole tk. -/
inductive SItem where
  /-- an edge entry: calibrated time and polarity -/
  | edge (t : Int) (rising : Bool)
  /-- the split directly after the accepted edge a CROWD marker refers to (R98) -/
  | crowd (t : Int)
  /-- a BLIND marker's interval (R98) -/
  | blind (t0 t1 : Int)
  /-- the far end of a blind interval, once its near end has been taken -/
  | blindEnd (t : Int)
  /-- an OVF marker -/
  | ovf (t : Int)
  /-- the gate-end marker of the consuming channel: closing instant, residue, k, and whether an
  overflow blind interval or any blind interval was running -/
  | gateEnd (close : Nat) (residue : Nat) (k : Nat) (ovfBlind blindNow : Bool)
  /-- gates counted by a marker that stands for more than one gate end (R98) -/
  | lost (k : Nat) (close : Nat)
  deriving DecidableEq, Repr

/-- The settings one gate works under: the active words of the channel when the gate opened. -/
structure GateCfg where
  func : Word
  dec : Word
  part : Word
  /-- the partner's CH_DEC, for RATIO -/
  partDec : Word
  /-- T_to in tk, and G in tk -/
  tito : Nat
  gate : Nat
  /-- CH_NOM in 2^-16 tk -/
  nom : Nat
  deriving DecidableEq, Repr

namespace GateCfg
def fn (c : GateCfg) : Nat := (c.func.extractLsb' 0 4).toNat
def est (c : GateCfg) : Bool := c.func.getLsbD 30
def each (c : GateCfg) : Bool := c.func.getLsbD 29
/-- 0 continuous, 1 single, 2 external; 0b11 acts as continuous (R92). -/
def gmode (c : GateCfg) : Nat := (c.func.extractLsb' 26 2).toNat % 3
def signed (c : GateCfg) : Bool := c.func.getLsbD 25
def startSel (c : GateCfg) : Bool := c.func.getLsbD 24
def spol (c : GateCfg) : Nat := (c.func.extractLsb' 22 2).toNat
def tpol (c : GateCfg) : Nat := (c.func.extractLsb' 20 2).toNat
def wneg (c : GateCfg) : Bool := c.func.getLsbD 19
def statMs (c : GateCfg) : Bool := c.func.getLsbD 16
def statMm (c : GateCfg) : Bool := c.func.getLsbD 17
def statCnt (c : GateCfg) : Bool := c.func.getLsbD 18
def adev (c : GateCfg) : Bool := c.func.getLsbD 15
def tieRef (c : GateCfg) : Bool := c.func.getLsbD 14
/-- D, 1 to 65,536 (R83). -/
def d (c : GateCfg) : Nat := (c.dec.extractLsb' 0 16).toNat + 1
/-- 0 both, 1 rising, 2 falling; 0b11 acts as both. -/
def pol (c : GateCfg) : Nat := (c.dec.extractLsb' 16 2).toNat % 3
def pen (c : GateCfg) : Bool := c.part.getLsbD 31
def pch (c : GateCfg) : Nat := (c.part.extractLsb' 0 7).toNat
end GateCfg

/-- Cycles per selected edge: 1 with one polarity, 1/2 with both. -/
def cyclesPerEdge (dec : Word) : Rat :=
  if (dec.extractLsb' 16 2).toNat % 3 = 0 then 1 / 2 else 1

/-- D of a CH_DEC word. -/
def decimation (dec : Word) : Nat := (dec.extractLsb' 0 16).toNat + 1

/-- Whether successive entries alternate in polarity: POL = both and odd D (R99). -/
def alternates (dec : Word) : Bool :=
  decide ((dec.extractLsb' 16 2).toNat % 3 = 0) && decide (decimation dec % 2 = 1)

/-- The two-stream functions: TI, PHASE, RATIO and SKEW (R102). -/
def twoStreamFn (f : Nat) : Bool := f == 2 || f == 5 || f == 6 || f == 9

/-- Whether a gate takes a second channel's stream. -/
def GateCfg.usesPartner (ch : Nat) (c : GateCfg) : Bool :=
  c.pen && decide (c.pch ≠ ch) && twoStreamFn c.fn

/-- Whether the settings a function needs are absent (R102 for codes 0xA to 0xF, R107). -/
def GateCfg.invalid (ch : Nat) (c : GateCfg) : Bool :=
  match c.fn with
  | 0 | 1 | 7 => false
  | 2 => c.spol == 3 && c.tpol == 3
  | 3 | 4 => c.pol != 0 || c.d != 1
  | 5 | 6 | 9 => !(c.pen && decide (c.pch ≠ ch))
  | 8 => !c.tieRef && c.nom == 0
  | _ => true

/-- Whether a polarity code (0b01 rising, 0b10 falling, 0b00 either, 0b11 none) takes an edge. -/
def polTakes (code : Nat) (rising : Bool) : Bool :=
  match code with
  | 0 => true
  | 1 => rising
  | 2 => !rising
  | _ => false

/-- An entry of a gate: its time in 1/16 tk, polarity, and segment number within the gate. -/
structure SEnt where
  t : Int
  rising : Bool
  seg : Nat
  deriving DecidableEq, Repr

/-- One measurement: its value in the function's unit, the time and polarity of its first entry, and
the time of its last. -/
structure Meas where
  v : Rat
  t : Int
  tl : Int
  rising : Bool
  deriving DecidableEq, Repr

/-- What a gate has collected so far. Lists are newest first. -/
structure Acc where
  own : List SEnt
  part : List SEnt
  ownSeg : Nat
  partSeg : Nat
  meas : List Meas
  /-- width and period of each complete DUTY cycle -/
  cycles : List (Int × Int)
  trunc : Bool
  blind : Bool
  crowd : Bool
  orphans : Nat
  timeouts : Nat
  coincs : Nat
  unpaired : Nat
  /-- an OVF marker truncated this gate (R89) -/
  ovfEnded : Bool
  /-- a split fell between the previous gate's last entry and this gate's first (R100); the same of
  the partner's stream -/
  brokenStart : Bool
  partBroken : Bool
  deriving DecidableEq, Repr

def Acc.empty : Acc :=
  { own := [], part := [], ownSeg := 0, partSeg := 0, meas := [], cycles := [], trunc := false,
    blind := false, crowd := false, orphans := 0, timeouts := 0, coincs := 0, unpaired := 0,
    ovfEnded := false, brokenStart := false, partBroken := false }

/-- A fitted line (R99): slope per entry and, by polarity, the intercept of the last segment's
groups, with the index of the next entry of that segment. -/
structure FitLine where
  b : Rat
  aRise : Rat
  aFall : Rat
  nextU : Int
  deriving DecidableEq, Repr

/-- The end of the previous gate, for chaining (R100): by polarity, the last entry's time and how
many entries followed it; `ok` when the gate carried none of TRUNC, BLIND and CUT. -/
structure Tail where
  ok : Bool
  rise : Option (Int × Nat)
  fall : Option (Int × Nat)
  deriving DecidableEq, Repr

def Tail.none : Tail := { ok := false, rise := Option.none, fall := Option.none }

/-- What a reducer carries from entry to entry and from gate to gate (R95). -/
structure Carry where
  /-- the last entry of the running segment, and the one before it -/
  p1 : Option (Int × Bool)
  p2 : Option (Int × Bool)
  /-- first partner entry since the last own entry (PHASE) -/
  firstP : Option Int
  /-- the first phase of the gate, against which later ones unwrap (R105) -/
  phase0 : Option Rat
  /-- the pending start of ordered pairing (R103) -/
  pend : Option (Int × Bool)
  /-- the pending starts of nearness pairing, oldest first (R104) -/
  npend : List (Int × Bool)
  /-- stops no start has used, newest first -/
  stops : List (Int × Bool)
  /-- the TIE line: anchor time and next index, once anchored (R108) -/
  tieLine : Option (Rat × Int)
  /-- the first entry at or after this time anchors the line -/
  tieFrom : Option Int
  /-- a split fell since the last entry, so the index resumes from the time -/
  tieResume : Bool
  fit : Option FitLine
  ownTail : Tail
  partTail : Tail
  /-- a split fell since the last own entry, and since the last partner entry -/
  broken : Bool
  partBroken : Bool
  /-- Allan deviation: cumulative cycles, phases newest first, and per m the sum and count -/
  adCycles : Rat
  adF0 : Option Rat
  adHist : List Rat
  adSums : List (Rat × Nat)
  deriving DecidableEq, Repr

def Carry.start : Carry :=
  { p1 := none, p2 := none, firstP := none, phase0 := none, pend := none, npend := [], stops := [],
    tieLine := none, tieFrom := some 0, tieResume := false, fit := none, ownTail := Tail.none,
    partTail := Tail.none, broken := false, partBroken := false, adCycles := 0, adF0 := none, adHist := [],
    adSums := List.replicate 7 (0, 0) }

/-- Bits [45:32] of word 0 (R113), and [47:46] POLG. -/
structure Flags0 where
  trunc : Bool
  blind : Bool
  refchg : Bool
  cut : Bool
  crowd : Bool
  coinc : Bool
  orphan : Bool
  timeout : Bool
  spare : Bool
  xcl : Bool
  few : Bool
  cfgInv : Bool
  est : Bool
  sat : Bool
  deriving DecidableEq, Repr

/-- The values of one RESULT set: polarity, N, value, and the statistics words. -/
structure GateSet where
  pg : Nat
  n : Nat
  value : BitVec 64
  few : Bool
  ms : BitVec 64 × BitVec 64
  mm : BitVec 64 × BitVec 64
  deriving DecidableEq, Repr

/-- What a gate gives a phase history (R111): whether it breaks the record, the time of its last
entry in s, its cycles, its frequency and CH_NOM. -/
structure PhaseIn where
  bad : Bool
  last : Option Rat
  cycles : Rat
  freq : Option Rat
  nom : Nat
  deriving DecidableEq, Repr

/-- What a reducer emits or reports while it works through a stream. -/
inductive RedOut where
  /-- a measurement, with its MEAS entry (sent when EACH = 1) -/
  | meas (m : Meas) (e : Entry)
  /-- a TIMEOUT entry -/
  | timeout (e : Entry)
  | orphan
  | coinc
  /-- a gate's RESULT and statistics entries in order, the values of each set, the gate's flags,
  whether it was overflow-ended, the Allan deviation sums after it, and its phase -/
  | gate (es : List Entry) (sets : List GateSet) (flags : Flags0) (ovfEnded : Bool) (sums : List (Rat × Nat)) (phase : PhaseIn)
  deriving DecidableEq, Repr

/-- A time in 1/16 tk as a whole tick (R79). -/
def wholeTk (t : Int) : Int := (t + 8).fdiv 16

/-- ETS64 of a whole-tick time. -/
def etsOf (t : Int) : BitVec 64 := BitVec.ofInt 64 t

/-- A gate the channel's gate logic has opened and the reducer has not finished. -/
structure GateRec where
  openAt : Nat
  /-- the scheduled or actual closing instant, once known -/
  closeAt : Option Nat
  /-- the gate-end marker has been written or counted -/
  ended : Bool
  seq : BitVec 32
  resOpen : Nat
  /-- CUT from the opening on (first alignment), and from the close on -/
  cut : Bool
  cutEnd : Bool
  /-- ended early by disabling or parking -/
  early : Bool
  /-- the first instant at which each flag was raised in the gate -/
  refchg : Option Nat
  spare : Option Nat
  /-- the first gate after an application of the function: nothing carries in -/
  fresh : Bool
  /-- the Allan deviation sums start anew with this gate (R112) -/
  adevClr : Bool
  /-- the TIE line is anchored anew, at the first entry at or after this instant (R108) -/
  tieAt : Option Nat
  cfg : GateCfg
  deriving DecidableEq, Repr

/-- A count held at its largest value (R98), and whether it saturated. -/
def satField (bits n : Nat) : Nat := min n (2 ^ bits - 1)

/-- Whether a count field of the gate overflowed (SAT). -/
def Acc.saturated (a : Acc) : Bool :=
  decide (a.orphans > 65535) || decide (a.timeouts > 65535) || decide (a.coincs > 65535) ||
  decide (a.unpaired > 65535) || decide (a.ownSeg + 1 > 4095) || decide (a.meas.length > 2 ^ 32) ||
  decide (a.own.length ≥ 2 ^ 44)

def bit (b : Bool) : Nat := if b then 1 else 0

def Flags0.toNat (f : Flags0) : Nat :=
  bit f.trunc * 2 ^ 13 + bit f.blind * 2 ^ 12 + bit f.refchg * 2 ^ 11 + bit f.cut * 2 ^ 10 +
  bit f.crowd * 2 ^ 9 + bit f.coinc * 2 ^ 8 + bit f.orphan * 2 ^ 7 + bit f.timeout * 2 ^ 6 +
  bit f.spare * 2 ^ 5 + bit f.xcl * 2 ^ 4 + bit f.few * 2 ^ 3 + bit f.cfgInv * 2 ^ 2 +
  bit f.est * 2 + bit f.sat

/-- Word 0 of an entry (R113). -/
def entryWord0 (kind fn ch polg : Nat) (f : Flags0) (gate : BitVec 32) : BitVec 64 :=
  BitVec.ofNat 64 (kind * 2 ^ 60 + fn * 2 ^ 56 + ch * 2 ^ 48 + polg * 2 ^ 46 + f.toNat * 2 ^ 32 + gate.toNat)

/-- The flags of a gate at its close. -/
def gateFlags (ch : Nat) (g : GateRec) (a : Acc) (few : Bool) : Flags0 :=
  { trunc := a.trunc || g.early, blind := a.blind, refchg := g.refchg.isSome, cut := g.cut || g.cutEnd, crowd := a.crowd,
    coinc := decide (a.coincs ≠ 0), orphan := decide (a.orphans ≠ 0), timeout := decide (a.timeouts ≠ 0),
    spare := g.spare.isSome,
    xcl := g.cfg.usesPartner ch && decide (g.cfg.pch / 16 ≠ ch / 16),
    few := few, cfgInv := g.cfg.invalid ch, est := g.cfg.est, sat := a.saturated }

/-- The flags of a gate as they stand at time `t` (1/16 tk) within it: those of its close are not
raised yet (R113). -/
def midFlags (ch : Nat) (g : GateRec) (a : Acc) (t : Int) : Flags0 :=
  let by_ (x : Option Nat) : Bool := match x with
    | some r => decide (16 * Int.ofNat r ≤ t)
    | none => false
  { gateFlags ch g a false with trunc := a.trunc, cut := g.cut, refchg := by_ g.refchg, spare := by_ g.spare }

/-- POLG of a polarity (R113). -/
def polg (rising : Bool) : Nat := if rising then 1 else 2

/-- The MEAS entry of a measurement (R113). -/
def measEntry (ch : Nat) (g : GateRec) (a : Acc) (m : Meas) : Entry :=
  { w0 := entryWord0 8 g.cfg.fn ch (polg m.rising) (midFlags ch g a m.tl) g.seq
    w1 := etsOf (wholeTk m.t)
    w2 := f64OfRat m.v
    w3 := BitVec.ofNat 64 (satField 32 (a.meas.length - 1) * 2 ^ 32) }

/-- The TIMEOUT entry of a dropped start (R113). -/
def timeoutEntry (ch : Nat) (g : GateRec) (a : Acc) (t : Int) (rising : Bool) : Entry :=
  { w0 := entryWord0 9 g.cfg.fn ch (polg rising)
      (let f := midFlags ch g a (t + 16 * Int.ofNat g.cfg.tito); { f with sat := f.sat || decide (a.meas.length ≥ 2 ^ 32) }) g.seq
    w1 := etsOf (wholeTk t)
    w2 := f64NaN
    w3 := BitVec.ofNat 64 (satField 32 a.meas.length * 2 ^ 32) }

/-! ### Estimators -/

/-- Adds the index of each entry within its segment; input oldest first. -/
def indexed : Nat → Nat → List SEnt → List (SEnt × Int)
  | _, _, [] => []
  | seg, u, e :: t =>
    let u' := if e.seg = seg then u else 0
    (e, Int.ofNat u') :: indexed e.seg (u' + 1) t

/-- The sums of one group (R99). -/
structure GroupSum where
  seg : Nat
  rising : Bool
  n : Nat
  su : Int
  suu : Int
  st : Int
  sut : Int
  deriving DecidableEq, Repr

/-- Adds an entry to its group; `alt` says that groups divide by polarity as well. -/
def addToGroup (alt : Bool) (e : SEnt) (u : Int) : List GroupSum → List GroupSum
  | [] => [{ seg := e.seg, rising := e.rising, n := 1, su := u, suu := u * u, st := e.t, sut := u * e.t }]
  | g :: gs =>
    if g.seg = e.seg && (!alt || g.rising == e.rising) then
      { g with n := g.n + 1, su := g.su + u, suu := g.suu + u * u, st := g.st + e.t, sut := g.sut + u * e.t } :: gs
    else g :: addToGroup alt e u gs

/-- The groups of a gate's entries, oldest first. -/
def groupsOf (alt : Bool) (es : List SEnt) : List GroupSum :=
  (indexed 0 0 es).foldl (fun gs e => addToGroup alt e.1 e.2 gs) []

def ratSum (l : List Rat) : Rat := l.foldl (· + ·) 0

/-- The common slope b of R99, in 1/16 tk per entry; none where sxx = 0. -/
def slope (gs : List GroupSum) : Option Rat :=
  let sxx := ratSum (gs.map fun g => (g.suu : Rat) - (g.su : Rat) * g.su / (g.n : Rat))
  let sxy := ratSum (gs.map fun g => (g.sut : Rat) - (g.su : Rat) * g.st / (g.n : Rat))
  if sxx > 0 then some (sxy / sxx) else none

/-- The intercept of a group under slope b. -/
def intercept (b : Rat) (g : GroupSum) : Rat := (g.st : Rat) / g.n - b * ((g.su : Rat) / g.n)

/-- The residuals of the fit, in 1/16 tk. -/
def residuals (alt : Bool) (b : Rat) (gs : List GroupSum) (es : List SEnt) : List Rat :=
  (indexed 0 0 es).filterMap fun e =>
    (gs.find? fun g => g.seg = e.1.seg && (!alt || g.rising == e.1.rising)).map fun g =>
      (e.1.t : Rat) - (intercept b g + b * (e.2 : Rat))

/-- The fit carried forward as a TIE reference (R108). -/
def fitLine (alt : Bool) (es : List SEnt) : Option FitLine :=
  let gs := groupsOf alt es
  match slope gs, es.getLast? with
  | some b, some l =>
    let inSeg := gs.filter fun g => g.seg = l.seg
    let pick (r : Bool) : Rat :=
      match inSeg.find? (fun g => !alt || g.rising == r) with
      | some g => intercept b g
      | none => (inSeg.head?.map (intercept b)).getD 0
    some { b := b, aRise := pick true, aFall := pick false,
           nextU := Int.ofNat (es.filter fun e => e.seg = l.seg).length }
  | _, _ => none

/-- The segment that holds the most entries, or the last of those (R100); entries oldest first. -/
def longestSeg (es : List SEnt) : List SEnt :=
  let segs := (es.map (·.seg)).eraseDups
  segs.foldl (fun best s =>
    let l := es.filter (fun e => e.seg = s)
    if l.length ≥ best.length then l else best) []

/-- Start entry, entry count and end entry of an unchained span. -/
def spanOf (es : List SEnt) : Option (Int × Nat) :=
  match es.getLast? with
  | none => none
  | some l =>
    match es.findIdx? (fun e => e.rising == l.rising) with
    | none => none
    | some i =>
      let n := es.length - 1 - i
      match es[i]? with
      | none => none
      | some f => if n = 0 then none else some (l.t - f.t, n)

/-- The chained reciprocal's span (R100): its duration in 1/16 tk and its number of entries. -/
def chainSpan (cont : Bool) (brokenStart : Bool) (tail : Tail) (es : List SEnt) (splits : Nat) : Option (Int × Nat) :=
  if splits ≠ 0 then spanOf (longestSeg es)
  else
    match es.getLast? with
    | none => none
    | some l =>
      let prev := if l.rising then tail.rise else tail.fall
      match cont && tail.ok && !brokenStart, prev with
      | true, some (t0, after) => some (l.t - t0, after + es.length)
      | _, _ => spanOf es

/-- The frequency in Hz of a stream over a gate by the chosen estimator (R99, R100). -/
def freqOf (est cont : Bool) (dec : Word) (brokenStart : Bool) (tail : Tail) (es : List SEnt) (splits : Nat) : Option Rat :=
  let dc : Rat := (decimation dec : Rat) * cyclesPerEdge dec
  if est then
    match slope (groupsOf (alternates dec) es) with
    | some b => if b = 0 then none else some (640000000000 * 16 * dc / b)
    | none => none
  else
    match chainSpan cont brokenStart tail es splits with
    | some (dt, du) => if dt = 0 then none else some (640000000000 * 16 * dc * (du : Rat) / (dt : Rat))
    | none => none

/-- The tail a gate leaves for the next one (R100); entries oldest first. -/
def tailOf (ok : Bool) (es : List SEnt) : Tail :=
  let last (r : Bool) : Option (Int × Nat) :=
    match es.reverse.findIdx? (fun e => e.rising == r) with
    | none => none
    | some i => (es.reverse[i]?).map fun e => (e.t, i)
  { ok := ok, rise := last true, fall := last false }

/-! ### Pairing -/

/-- The state a reducer step works on: what it carries, the gate's accumulation, and what it has
put out, newest first. -/
structure RedWork where
  carry : Carry
  acc : Acc
  out : List RedOut
  deriving DecidableEq, Repr

/-- Adds a measurement to the gate. -/
def RedWork.measure (ch : Nat) (g : GateRec) (m : Meas) (w : RedWork) : RedWork :=
  let a := { w.acc with meas := m :: w.acc.meas }
  { w with acc := a, out := .meas m (measEntry ch g a m) :: w.out }

/-- A start dropped with a TIMEOUT entry (R103). -/
def RedWork.timeOut (ch : Nat) (g : GateRec) (s : Int × Bool) (w : RedWork) : RedWork :=
  let a := { w.acc with timeouts := w.acc.timeouts + 1 }
  { w with acc := a, out := .timeout (timeoutEntry ch g a s.1 s.2) :: w.out }

def RedWork.unpair (n : Nat) (w : RedWork) : RedWork :=
  { w with acc := { w.acc with unpaired := w.acc.unpaired + n } }

/-- The measurement a decided pair makes: equal whole ticks make 0 and COINC (R105); SKEW counts
own minus partner, TI stop minus start. -/
def RedWork.pair (ch : Nat) (g : GateRec) (start stop : Int × Bool) (w : RedWork) : RedWork :=
  let coinc := decide (wholeTk start.1 = wholeTk stop.1)
  let dt : Int := if coinc then 0 else if g.cfg.fn = 9 then start.1 - stop.1 else stop.1 - start.1
  let first := if stop.1 < start.1 then stop else start
  let w := if coinc then
      { w with acc := { w.acc with coincs := w.acc.coincs + 1 }, out := .coinc :: w.out } else w
  w.measure ch g { v := (dt : Rat) / 16, t := first.1, tl := max start.1 stop.1, rising := first.2 }

/-- Whether a stop may serve a start: SKEW pairs like polarities. -/
def stopFits (g : GateRec) (start stop : Int × Bool) : Bool :=
  g.cfg.fn != 9 || start.2 == stop.2

/-- Decides one pending start under nearness (R104) between the latest unused stop before it and
an optional later stop; a start with no candidate makes a TIMEOUT, or is dropped uncounted by
TIMEOUT where `quiet` (R96, R98). Answers whether the later stop was used. -/
def RedWork.decideNear (ch : Nat) (g : GateRec) (quiet : Bool) (s : Int × Bool) (right : Option (Int × Bool))
    (w : RedWork) : RedWork × Bool :=
  let tt : Int := Int.ofNat g.cfg.tito * 16
  let left := w.carry.stops.find? fun x => decide (x.1 < s.1) && decide (s.1 - x.1 ≤ tt) && stopFits g s x
  let right := right.filter fun x => decide (x.1 - s.1 ≤ tt) && stopFits g s x
  match left, right with
  | none, none => if quiet then (w.unpair 1, false) else (w.timeOut ch g s, false)
  | none, some r => (w.pair ch g s r, true)
  | some l, none =>
    ({ w with carry := { w.carry with stops := w.carry.stops.erase l } }.pair ch g s l, false)
  | some l, some r =>
    if r.1 - s.1 ≤ s.1 - l.1 then (w.pair ch g s r, true)
    else ({ w with carry := { w.carry with stops := w.carry.stops.erase l } }.pair ch g s l, false)

/-- Decides every pending start at the arrival of the stop `r` that follows them. For SKEW only
starts of the stop's polarity are decided. -/
def RedWork.decideAt (ch : Nat) (g : GateRec) (r : Int × Bool) : List (Int × Bool) → Bool → RedWork → RedWork × Bool
  | [], used, w => (w, used)
  | s :: t, used, w =>
    if stopFits g s r then
      let (w', u) := w.decideNear ch g false s (if used then none else some r)
      RedWork.decideAt ch g r t (used || u) w'
    else
      let (w', u) := RedWork.decideAt ch g r t used w
      ({ w' with carry := { w'.carry with npend := s :: w'.carry.npend } }, u)

/-- Expires the pending starts whose T_to ends before `t` (R103, R104). -/
def RedWork.expire (ch : Nat) (g : GateRec) (t : Int) (w : RedWork) : RedWork :=
  let tt : Int := Int.ofNat g.cfg.tito * 16
  let w := match w.carry.pend with
    | some s => if s.1 + tt < t then { w with carry := { w.carry with pend := none } }.timeOut ch g s else w
    | none => w
  let gone := w.carry.npend.filter fun s => decide (s.1 + tt < t)
  let kept := w.carry.npend.filter fun s => !decide (s.1 + tt < t)
  gone.foldl (fun w s => (w.decideNear ch g false s none).1) { w with carry := { w.carry with npend := kept } }

/-- Decides or drops what a close or a split leaves pending: nearness decides among the candidates
at hand, ordered pairing drops; nothing makes a TIMEOUT (R96, R98). -/
def RedWork.dropPending (ch : Nat) (g : GateRec) (w : RedWork) : RedWork :=
  let w := match w.carry.pend with
    | some _ => { w with carry := { w.carry with pend := none } }.unpair 1
    | none => w
  let ps := w.carry.npend
  ps.foldl (fun w s => (w.decideNear ch g true s none).1) { w with carry := { w.carry with npend := [] } }

/-- A stop of ordered pairing (R103). -/
def RedWork.stopOrdered (ch : Nat) (g : GateRec) (e : Int × Bool) (w : RedWork) : RedWork :=
  match w.carry.pend with
  | some s => { w with carry := { w.carry with pend := none } }.pair ch g s e
  | none => { w with acc := { w.acc with orphans := w.acc.orphans + 1 }, out := .orphan :: w.out }

/-- A start of ordered pairing (R103). -/
def RedWork.startOrdered (g : GateRec) (e : Int × Bool) (w : RedWork) : RedWork :=
  match w.carry.pend with
  | none => { w with carry := { w.carry with pend := some e } }
  | some _ =>
    if g.cfg.startSel then w.unpair 1 else { w with carry := { w.carry with pend := some e } }.unpair 1

/-- A stop of nearness pairing (R104). -/
def RedWork.stopNear (ch : Nat) (g : GateRec) (e : Int × Bool) (w : RedWork) : RedWork :=
  let ps := w.carry.npend
  let (w, used) := { w with carry := { w.carry with npend := [] } }.decideAt ch g e ps false
  if used then w else { w with carry := { w.carry with stops := e :: w.carry.stops } }

/-- Whether a gate pairs by nearness: SIGNED = 1, and always for SKEW. -/
def GateCfg.near (c : GateCfg) : Bool := c.signed || c.fn == 9

/-- The polarity code of starts, and of stops; SKEW takes every selected edge. -/
def GateCfg.startPol (c : GateCfg) : Nat := if c.fn = 9 then 0 else c.spol
def GateCfg.stopPol (c : GateCfg) : Nat := if c.fn = 9 then 0 else c.tpol

/-- A stop edge arrives. -/
def RedWork.stopEdge (ch : Nat) (g : GateRec) (e : Int × Bool) (w : RedWork) : RedWork :=
  if polTakes g.cfg.stopPol e.2 then
    if g.cfg.near then w.stopNear ch g e else w.stopOrdered ch g e
  else w

/-- A start edge arrives. -/
def RedWork.startEdge (g : GateRec) (e : Int × Bool) (w : RedWork) : RedWork :=
  if polTakes g.cfg.startPol e.2 then
    if g.cfg.near then { w with carry := { w.carry with npend := w.carry.npend ++ [e] } }
    else w.startOrdered g e
  else w

/-! ### Entries -/

/-- The spacing P of TIE entries in 1/16 tk with TIE_REF = 0 (R108): CH_NOM × D·c. -/
def tieSpacing (c : GateCfg) : Rat :=
  (c.nom : Rat) / 65536 * 16 * ((c.d : Rat) * cyclesPerEdge c.dec)

/-- The TIE of an entry in tk, where the line gives one, and the line after it (R108). After a split
the index resumes from the time. -/
def Carry.tie (cfg : GateCfg) (e : Int × Bool) (c : Carry) : Option Rat × Carry :=
  if cfg.tieRef then
    match c.fit with
    | none => (none, c)
    | some f =>
      let a := if e.2 then f.aRise else f.aFall
      let u := if c.tieResume && decide (f.b ≠ 0) then roundHalfUp (((e.1 : Rat) - a) / f.b) else f.nextU
      (some (((e.1 : Rat) - (a + (u : Rat) * f.b)) / 16), { c with fit := some { f with nextU := u + 1 }, tieResume := false })
  else
    let p := tieSpacing cfg
    let anchorNow := match c.tieFrom with | some t0 => decide (t0 ≤ e.1) | none => false
    let (ta, u) : Rat × Int :=
      if anchorNow then ((e.1 : Rat), 0)
      else match c.tieLine with
        | none => ((e.1 : Rat), 0)
        | some (ta, u) => if c.tieResume && decide (p ≠ 0) then (ta, roundHalfUp (((e.1 : Rat) - ta) / p)) else (ta, u)
    (some (((e.1 : Rat) - (ta + (u : Rat) * p)) / 16),
     { c with tieLine := some (ta, u + 1), tieFrom := (if anchorNow then none else c.tieFrom), tieResume := false })

/-- The measurement that the TIE of an entry makes. -/
def RedWork.tie (ch : Nat) (g : GateRec) (e : Int × Bool) (w : RedWork) : RedWork :=
  let r := w.carry.tie g.cfg e
  let w := { w with carry := r.2 }
  match r.1 with
  | none => w
  | some v => w.measure ch g { v := v, t := e.1, tl := e.1, rising := e.2 }

/-- An item of the own stream outside every gate: it anchors the TIE line or takes an index of it, and a
marker splits the line, but nothing is measured (R96, R108). -/
def Carry.outside (ch : Nat) (cfg : GateCfg) (i : SItem) (c : Carry) : Carry :=
  if cfg.fn ≠ 8 || cfg.invalid ch then c
  else match i with
    | .edge t rising => (c.tie cfg (t, rising)).2
    | .crowd _ | .blind _ _ => { c with tieResume := true }
    | _ => c

/-- The PHASE measurement an own entry completes (R102, R105). -/
def RedWork.phase (ch : Nat) (g : GateRec) (o : Int × Bool) (e : Int × Bool) (w : RedWork) : RedWork :=
  match w.carry.firstP with
  | none => w
  | some tp =>
    if e.1 = o.1 then w
    else
      let v : Rat := ((tp - o.1 : Int) : Rat) / ((e.1 - o.1 : Int) : Rat)
      match w.carry.phase0 with
      | none => { w with carry := { w.carry with phase0 := some v } }.measure ch g { v := v, t := o.1, tl := e.1, rising := o.2 }
      | some v0 =>
        let k := (v - v0 + 1 / 2).floor
        w.measure ch g { v := v - (k : Rat), t := o.1, tl := e.1, rising := o.2 }

/-- The function's use of one own entry; the entry has been added to the gate. -/
def RedWork.useOwn (ch : Nat) (g : GateRec) (e : Int × Bool) (w : RedWork) : RedWork :=
  let c := w.carry
  if g.cfg.invalid ch then w
  else match g.cfg.fn with
  | 1 =>
    let k : Nat := if alternates g.cfg.dec then 2 else 1
    let prev := match c.p1, c.p2 with
      | some a, b => if a.2 == e.2 then some a else b.filter (fun x => x.2 == e.2)
      | none, _ => none
    match prev with
    | some a => w.measure ch g
        { v := ((e.1 - a.1 : Int) : Rat) / 16 / ((k : Rat) * (g.cfg.d : Rat) * cyclesPerEdge g.cfg.dec), t := a.1, tl := e.1, rising := a.2 }
    | none => w
  | 2 =>
    let w := if g.cfg.usesPartner ch then w else w.stopEdge ch g e
    w.startEdge g e
  | 3 =>
    match c.p1 with
    | some a =>
      if a.2 != g.cfg.wneg && e.2 == g.cfg.wneg then
        w.measure ch g { v := ((e.1 - a.1 : Int) : Rat) / 16, t := a.1, tl := e.1, rising := a.2 }
      else w
    | none => w
  | 4 =>
    match c.p2, c.p1 with
    | some a, some b =>
      if a.2 != g.cfg.wneg && b.2 == g.cfg.wneg && e.2 == a.2 && decide (e.1 ≠ a.1) then
        let w := { w with acc := { w.acc with cycles := (b.1 - a.1, e.1 - a.1) :: w.acc.cycles } }
        w.measure ch g { v := ((b.1 - a.1 : Int) : Rat) / ((e.1 - a.1 : Int) : Rat), t := a.1, tl := e.1, rising := a.2 }
      else w
    | _, _ => w
  | 5 => match c.p1 with
    | some o => w.phase ch g o e
    | none => w
  | 8 => w.tie ch g e
  | 9 => w.startEdge g e
  | _ => w

/-- An own entry of the gate. -/
def RedWork.ownEdge (ch : Nat) (g : GateRec) (t : Int) (rising : Bool) (w : RedWork) : RedWork :=
  let w := w.expire ch g t
  let a := w.acc
  let w := { w with acc := { a with own := { t := t, rising := rising, seg := a.ownSeg } :: a.own,
                                    brokenStart := (if a.own.isEmpty then w.carry.broken else a.brokenStart) } }
  let w := w.useOwn ch g (t, rising)
  { w with carry := { w.carry with p2 := w.carry.p1, p1 := some (t, rising), firstP := none, broken := false } }

/-- A partner entry of the gate. -/
def RedWork.partEdge (ch : Nat) (g : GateRec) (t : Int) (rising : Bool) (w : RedWork) : RedWork :=
  let w := w.expire ch g t
  let a := w.acc
  let w := { w with acc := { a with part := { t := t, rising := rising, seg := a.partSeg } :: a.part,
                                    partBroken := (if a.part.isEmpty then w.carry.partBroken else a.partBroken) }
                    carry := { w.carry with partBroken := false } }
  if g.cfg.invalid ch then w
  else match g.cfg.fn with
  | 2 | 9 => w.stopEdge ch g (t, rising)
  | 5 =>
    if polTakes g.cfg.pol rising && w.carry.firstP.isNone && w.carry.p1.isSome then
      { w with carry := { w.carry with firstP := some t } }
    else w
  | _ => w

/-- A split of either stream at time `t`: starts whose T_to has ended expire, the pending ones are
decided or dropped, and no measurement crosses it (R98, R103). -/
def RedWork.split (ch : Nat) (g : GateRec) (own : Bool) (t : Int) (w : RedWork) : RedWork :=
  let w := if g.cfg.fn = 2 || g.cfg.fn = 9 then (w.expire ch g t).dropPending ch g else w
  let a := w.acc
  { w with
    acc := (if own then { a with ownSeg := a.ownSeg + 1 } else { a with partSeg := a.partSeg + 1 })
    carry := { w.carry with p1 := none, p2 := none, firstP := none, stops := [], tieResume := (w.carry.tieResume || own),
                            broken := (w.carry.broken || own), partBroken := (w.carry.partBroken || !own) } }

/-! ### Gate close -/

/-- Mean of a non-empty list. -/
def mean (l : List Rat) : Rat := ratSum l / (l.length : Rat)

/-- The sample variance (R109). -/
def sampleVar (l : List Rat) : Rat :=
  let m := mean l
  ratSum (l.map fun v => (v - m) * (v - m)) / ((l.length : Rat) - 1)

def ratMin (l : List Rat) : Rat := l.foldl min (l.headD 0)
def ratMax (l : List Rat) : Rat := l.foldl max (l.headD 0)

def f64OfOpt : Option Rat → BitVec 64
  | some q => f64OfRat q
  | none => f64NaN

/-- A phase reduced into [0, 1). -/
def frac01 (q : Rat) : Rat := q - (q.floor : Rat)

/-- One set of RESULT and statistics entries (R109, R113). -/
def entrySet (ch : Nat) (g : GateRec) (a : Acc) (close : Nat) (q : GateSet) : List Entry :=
  let f := gateFlags ch g a q.few
  let w1 := BitVec.ofNat 64 close
  let e (kind : Nat) (w2 w3 : BitVec 64) : Entry := { w0 := entryWord0 kind g.cfg.fn ch q.pg f g.seq, w1 := w1, w2 := w2, w3 := w3 }
  let stats := !(g.cfg.fn == 6 || g.cfg.fn == 7)
  [e 1 q.value (BitVec.ofNat 64 (satField 44 q.n * 2 ^ 20 + satField 12 (a.ownSeg + 1) * 2 ^ 8))] ++
  (if stats && g.cfg.statMs then [e 2 q.ms.1 q.ms.2] else []) ++
  (if stats && g.cfg.statMm then [e 3 q.mm.1 q.mm.2] else []) ++
  (if g.cfg.statCnt then [e 4 (BitVec.ofNat 64 g.openAt)
    (BitVec.ofNat 64 (satField 16 a.orphans * 2 ^ 48 + satField 16 a.timeouts * 2 ^ 32 + satField 16 a.coincs * 2 ^ 16 + satField 16 a.unpaired))]
   else [])

/-- The statistics words over a list of measurement values. -/
def statsMs (vs : List Rat) : BitVec 64 × BitVec 64 :=
  (if vs.isEmpty then f64NaN else f64OfRat (mean vs), if vs.length < 2 then f64NaN else f64Sqrt (sampleVar vs))

def statsMm (vs : List Rat) : BitVec 64 × BitVec 64 :=
  if vs.isEmpty then (f64NaN, f64NaN) else (f64OfRat (ratMin vs), f64OfRat (ratMax vs))

/-- The frequency of the own stream over the gate. -/
def ownFreq (g : GateRec) (c : Carry) (a : Acc) (est : Bool) : Option Rat :=
  freqOf est (g.cfg.gmode == 0) g.cfg.dec a.brokenStart c.ownTail a.own.reverse a.ownSeg

/-- The gate's value and entry count N by function (R102). Values of time functions are in tk. -/
def gateValue (ch : Nat) (g : GateRec) (c : Carry) (a : Acc) (resClose : Nat) : Option Rat × Nat :=
  let vs := a.meas.map (·.v)
  let avg : Option Rat := if vs.isEmpty then none else some (mean vs)
  if g.cfg.invalid ch then (none, if g.cfg.fn = 0 ∨ g.cfg.fn = 6 ∨ g.cfg.fn = 7 ∨ 10 ≤ g.cfg.fn then a.own.length else 0)
  else match g.cfg.fn with
  | 0 => (ownFreq g c a g.cfg.est, a.own.length)
  | 1 => ((ownFreq g c a g.cfg.est).bind (fun f => if f = 0 then none else some (640000000000 / f)), vs.length)
  | 4 =>
    let p : Int := (a.cycles.map (·.2)).foldl (· + ·) 0
    let w : Int := (a.cycles.map (·.1)).foldl (· + ·) 0
    (if p = 0 then none else some ((w : Rat) / (p : Rat)), vs.length)
  | 5 => (avg.map frac01, vs.length)
  | 6 =>
    let fp := freqOf g.cfg.est (g.cfg.gmode == 0) g.cfg.partDec a.partBroken c.partTail a.part.reverse a.partSeg
    (match ownFreq g c a g.cfg.est, fp with
     | some f, some p => if p = 0 then none else some (f / p)
     | _, _ => none, a.own.length)
  | 7 => (some (((g.cfg.d * a.own.length + resClose : Nat) : Rat) - (g.resOpen : Rat)), a.own.length)
  | _ => (avg, vs.length)

/-- The value sets of a closing gate (R102, R109). SKEW with both polarities selected gives one set
for each, rising first. -/
def gateSets (ch : Nat) (g : GateRec) (c : Carry) (a : Acc) (resClose : Nat) : List GateSet :=
  let (v, n) := gateValue ch g c a resClose
  let vs := a.meas.map (·.v)
  let mk (pg n : Nat) (v : Option Rat) (ms mm : BitVec 64 × BitVec 64) : GateSet :=
    { pg := pg, n := n, value := f64OfOpt v, few := v.isNone && !g.cfg.invalid ch, ms := ms, mm := mm }
  match g.cfg.fn with
  | 0 =>
    let es := a.own.reverse
    let alt := alternates g.cfg.dec
    let gs := groupsOf alt es
    let rs : List Rat := match g.cfg.est, slope gs with
      | true, some b => (residuals alt b gs es).map (· / 16)
      | _, _ => []
    let rms := if rs.isEmpty then f64NaN else f64Sqrt (mean (rs.map fun r => r * r))
    [mk 0 n v (f64OfOpt v, rms) (statsMm rs)]
  | 9 =>
    if g.cfg.pol = 0 && !g.cfg.invalid ch then
      let half (r : Bool) : GateSet :=
        let l := (a.meas.filter fun m => m.rising == r).map (·.v)
        mk (polg r) l.length (if l.isEmpty then none else some (mean l)) (statsMs l) (statsMm l)
      [half true, half false]
    else [mk 0 n v (statsMs vs) (statsMm vs)]
  | 5 => [mk 0 n v (if vs.isEmpty then f64NaN else f64OfRat (frac01 (mean vs)), (statsMs vs).2) (statsMm vs)]
  | _ => [mk 0 n v (statsMs vs) (statsMm vs)]

/-- The seven averaging factors of R112. -/
def adevMs : List Nat := [1, 2, 5, 10, 20, 50, 100]

/-- Adds the second difference of factor m to its sum, where the history holds it. -/
def adevAdd (hist : List Rat) (m : Nat) (s : Rat × Nat) : Rat × Nat :=
  match hist[0]?, hist[m]?, hist[2 * m]? with
  | some x2, some x1, some x0 => let d := x2 - 2 * x1 + x0; (s.1 + d * d, s.2 + 1)
  | _, _, _ => s

/-- What the gate gives a phase history (R111, R112). -/
def phaseIn (g : GateRec) (bad : Bool) (a : Acc) (c : Carry) : PhaseIn :=
  { bad := bad
    last := match a.own with
      | [] => none
      | l :: _ => some ((l.t : Rat) / 16 / 640000000000)
    cycles := (g.cfg.d : Rat) * cyclesPerEdge g.cfg.dec * (a.own.length : Rat)
    freq := ownFreq g c a false
    nom := g.cfg.nom }

/-- The gate's phase x, the cumulative cycles and f_ref, from the cycles and f_ref of the history so
far; none where the history starts anew (R111). -/
def PhaseIn.next (p : PhaseIn) (isEmpty : Bool) (cycles : Rat) (f0 : Option Rat) : Option (Rat × Rat × Rat) :=
  if p.bad then none
  else
    let f : Option Rat := if p.nom ≠ 0 then some (640000000000 * 65536 / (p.nom : Rat)) else f0.orElse fun _ => p.freq
    match p.last, f with
    | some t, some f =>
      if f = 0 then none
      else
        let cyc : Rat := if isEmpty then 0 else cycles + p.cycles
        some (t - cyc / f, cyc, f)
    | _, _ => none

/-- The Allan deviation history at a gate close (R111, R112). -/
def adevClose (g : GateRec) (p : PhaseIn) (c : Carry) : Carry :=
  if !(g.cfg.adev && g.cfg.fn == 0 && g.cfg.gmode == 0) then c
  else match p.next c.adHist.isEmpty c.adCycles c.adF0 with
    | none => { c with adHist := [], adF0 := none, adCycles := 0 }
    | some (x, cyc, f) =>
      let hist := (x :: c.adHist).take 201
      { c with adHist := hist, adF0 := some f, adCycles := cyc,
               adSums := (adevMs.zip c.adSums).map fun p => adevAdd hist p.1 p.2 }

/-- The seven ADEV entries of a dump (R112, R113), with the flags of the gate's RESULT entry; τ0 is the
G under which the sums were formed. -/
def adevDump (ch : Nat) (g : GateRec) (f : Flags0) (instant : Nat) (sums : List (Rat × Nat)) : List Entry :=
  (adevMs.zip sums).map fun p =>
    let tau : Rat := (p.1 : Rat) * (g.cfg.gate : Rat) / 640000000000
    let (sig, none_) : BitVec 64 × Bool :=
      if p.2.2 = 0 || tau = 0 then (f64NaN, true) else (f64Sqrt (p.2.1 / (2 * tau * tau * (p.2.2 : Rat))), false)
    { w0 := entryWord0 5 g.cfg.fn ch g.cfg.pol { f with few := f.few || none_ } (BitVec.ofNat 32 (satField 32 p.2.2))
      w1 := BitVec.ofNat 64 instant
      w2 := f64OfRat tau
      w3 := sig }

/-- Closes the gate: decides what a single or external gate leaves pending (R96), emits the
entries and forms what the next gate starts from. With TIE_REF = 1 the fit carries forward with the
index of the next entry (R108). -/
def closeGate (ch : Nat) (g : GateRec) (close residue : Nat) (ovfBlind blindNow : Bool) (w : RedWork) : RedWork :=
  let w := w.expire ch g (Int.ofNat close * 16)
  let w := if g.cfg.gmode = 0 then w else w.dropPending ch g
  let w := { w with acc := { w.acc with trunc := (w.acc.trunc || ovfBlind), blind := (w.acc.blind || ovfBlind || blindNow) } }
  let a := w.acc
  let sets := gateSets ch g w.carry a residue
  let es := (sets.map fun q => entrySet ch g a close q).flatten
  let f := gateFlags ch g a false
  let ok := !(f.trunc || f.blind || f.cut)
  let few := sets.any (·.few)
  let ph := phaseIn g (f.trunc || f.blind || f.cut || few) a w.carry
  let c := adevClose g ph w.carry
  let c := { c with
    ownTail := tailOf ok a.own.reverse, partTail := tailOf ok a.part.reverse, phase0 := none,
    broken := (if a.own.isEmpty then c.broken || decide (a.ownSeg ≠ 0) else c.broken),
    partBroken := (if a.part.isEmpty then c.partBroken || decide (a.partSeg ≠ 0) else c.partBroken),
    fit := (if g.cfg.fn == 8 && g.cfg.tieRef then fitLine (alternates g.cfg.dec) a.own.reverse else c.fit),
    tieFrom := (if g.cfg.invalid ch then some (Int.ofNat close * 16) else c.tieFrom) }
  let c := if g.cfg.gmode = 0 then c else { c with p1 := none, p2 := none, firstP := none, stops := [] }
  { carry := c, acc := Acc.empty, out := .gate es sets f a.ovfEnded c.adSums ph :: w.out }

/-- The set of a gate that a marker counted (R98): no edges, FEW and NaN. -/
def lostSet : GateSet :=
  { pg := 0, n := 0, value := f64NaN, few := true, ms := (f64NaN, f64NaN), mm := (f64NaN, f64NaN) }

/-- The entries of a gate that a marker counted, with TRUNC and FEW (R98). -/
def lostGateEntries (ch : Nat) (g : GateRec) (openAt close : Nat) : List Entry :=
  entrySet ch { g with openAt := openAt } { Acc.empty with trunc := true } close lostSet

end Sys2Proof.Machine
end

