-- ==== Sys2Proof/Machine/MordantCore.lean ====
section
/-!
DEFINITION. Mordant on one channel (spec/06_mordant.md) as functions of its own data: descriptors
and messages, materialisation, binding, sealing, aging, retraction, and the verdicts. Times of
edges and the front are in 1/16 tk, expectation times and windows in tk.
-/

namespace Sys2Proof.Machine

/-- The 48-bit field's instant nearest the present (R43), for a field of n bits. -/
def resolveTime (n : Nat) (now : Nat) (field : Nat) : Int :=
  let d : Nat := (now + 2 ^ n - field % 2 ^ n) % 2 ^ n
  if d ≤ 2 ^ (n - 1) then Int.ofNat now - Int.ofNat d else Int.ofNat now + Int.ofNat (2 ^ n - d)

/-- A descriptor's elements: one edge, a train, or 1,024 unit intervals (R117). -/
inductive DescKind where
  | exp1
  | run (period : BitVec 48) (count : BitVec 16) (alt : Bool)
  | mask1k (ui : BitVec 32) (mask : BitVec 1024)
  deriving DecidableEq, Repr

/-- A descriptor with its common fields. -/
structure Desc where
  seq : BitVec 24
  tag : BitVec 32
  pol : BitVec 2
  action : BitVec 3
  profile : BitVec 4
  texp : BitVec 48
  kind : DescKind
  deriving DecidableEq, Repr

/-- The opposite polarity code; "either" stays. -/
def flipPol (p : BitVec 2) : BitVec 2 :=
  if p = 1#2 then 2#2 else if p = 2#2 then 1#2 else p

/-- The set bits of a mask from bit k on: bit k of MASK is bit 7 − (k mod 8) of its byte k/8, which
is bit 1023 − k of the field taken most significant byte first. -/
def maskBits (mask : BitVec 1024) : List Nat :=
  (List.range 1024).filter fun k => mask.getLsbD (1023 - k)

/-- The element indices of a descriptor, in order. -/
def Desc.elems (d : Desc) : List Nat :=
  match d.kind with
  | .exp1 => [0]
  | .run _ count _ => List.range count.toNat
  | .mask1k _ mask => maskBits mask

/-- The offset of an element from T_EXP in tk. -/
def Desc.offset (d : Desc) (i : Nat) : Nat :=
  match d.kind with
  | .exp1 => 0
  | .run period _ _ => (i * period.toNat + 2 ^ 15) / 2 ^ 16
  | .mask1k ui _ => (i * ui.toNat + 128) / 256

/-- The polarity of an element; `nth` counts the elements before it in the descriptor. -/
def Desc.polOf (d : Desc) (i nth : Nat) : BitVec 2 :=
  match d.kind with
  | .exp1 => d.pol
  | .run _ _ alt => if alt && decide (i % 2 = 1) then flipPol d.pol else d.pol
  | .mask1k _ _ => if nth % 2 = 1 then flipPol d.pol else d.pol

/-- Whether a descriptor is refused for its own fields (R120). -/
def Desc.malformed (d : Desc) : Bool :=
  d.pol == 0#2 || decide (d.action.toNat ≥ 5) ||
  match d.kind with
  | .exp1 => false
  | .run period count _ => count == 0#16 || decide (period.toNat < 160 * 65536)
  | .mask1k ui _ => decide (ui.toNat < 40960)

/-- The length of a message in bytes (R117). -/
def Desc.bytes (d : Desc) : Nat :=
  match d.kind with
  | .exp1 => 16
  | .run _ _ _ => 32
  | .mask1k _ _ => 144

/-- A queued descriptor: elements not yet materialised, those of them that a SEAL covers (R132), and how
many already are. -/
structure QDesc where
  d : Desc
  left : List Nat
  covered : List Nat
  done : Nat
  deriving DecidableEq, Repr

/-- The states of an unsealed expectation (R124). -/
inductive ExpSt where
  | opened | watch | bound
  deriving DecidableEq, Repr

/-- A materialised, unsealed expectation. -/
structure Exp where
  /-- tells apart two expectations of one (SEQ, element): after a RETRACT that left a covered one, SEQ is
  sent again -/
  id : Nat
  seq : BitVec 24
  elem : Nat
  pol : BitVec 2
  action : BitVec 3
  tag : BitVec 32
  gen : Nat
  texp : Int
  ws : Int
  we : Int
  st : ExpSt
  /-- the bound edge -/
  edge : Option (Int × Bool)
  extras : List (Int × Bool)
  blind : Bool
  crowd : Bool
  opp : Bool
  /-- covered by a SEAL (R132) -/
  covered : Bool
  /-- the window has closed: it is held in the binding log (R121) -/
  closed : Bool
  deriving DecidableEq, Repr

/-- An input of Mordant, in stream order. -/
inductive MIn where
  | edge (t : Int) (rising : Bool)
  | crowd (t : Int)
  | blind (t0 t1 : Int)
  | watermark (t : Int)
  deriving DecidableEq, Repr

/-- What Mordant puts out. -/
inductive MOut where
  /-- a verdict entry, two 64-bit words -/
  | verdict (w0 w1 : BitVec 64)
  /-- a committed HIT: its deviation, its edge's time, whether it goes to the Lake, and its extras -/
  | hit (dev edge : Int) (lake : Bool) (extras : Nat)
  | miss
  | extra
  | late
  | logFull
  | polSuspect
  | creditReturn
  | withdrawn (n : Nat)
  deriving DecidableEq, Repr

/-- Mordant's state on one channel. -/
structure Mord where
  /-- inputs read by the reducer and not yet taken -/
  input : List MIn
  queue : List QDesc
  /-- materialised, unsealed, in (SEQ, element) order -/
  exps : List Exp
  /-- free edges of the binding log, oldest first -/
  free : List (Int × Bool)
  /-- the front F, in 1/16 tk -/
  front : Int
  gen : Nat
  /-- expected next SEQ; none after enabling or FLUSH -/
  expSeq : Option (BitVec 24)
  /-- the ordering reference of R120, in tk -/
  orderRef : Option Int
  /-- the latest sealed expectation in key order -/
  lastSealed : Option (BitVec 24 × Nat × Int)
  /-- BLIND and CROWD intervals, in 1/16 tk, and the edges taken, newest first: the marks of an expectation
  that is materialised later (R130, R137) -/
  blinds : List (Int × Int)
  crowds : List (Int × Int)
  seen : List (Int × Bool)
  /-- the next expectation's id -/
  nextId : Nat
  polCount : Nat
  /-- POL_SUSPECT was raised since the count last returned to 0 -/
  polHeld : Bool
  /-- credits owed, and when the oldest of them was owed -/
  owed : Nat
  owedSince : Option Nat
  deriving DecidableEq, Repr

def Mord.reset : Mord :=
  { input := [], queue := [], exps := [], free := [], front := 0, gen := 0, expSeq := none,
    orderRef := none, lastSealed := none, blinds := [], crowds := [], seen := [], nextId := 0, polCount := 0,
    polHeld := false, owed := 0, owedSince := none }

/-- a is later than b, modulo 2^24 (R120). -/
def seqLater (a b : BitVec 24) : Bool :=
  let d := (a - b).toNat
  decide (1 ≤ d) && decide (d ≤ 2 ^ 23 - 1)

/-- (a, i) is at or after (b, j) in (SEQ, element) order. -/
def keyGe (a : BitVec 24) (i : Nat) (b : BitVec 24) (j : Nat) : Bool :=
  seqLater a b || (a == b && decide (j ≤ i))

/-- Log entries: free edges, bound edges and their extras, and closed unbound expectations (R121). -/
def Mord.logLen (m : Mord) : Nat :=
  m.free.length + (m.exps.map fun e =>
    match e.edge with
    | some _ => 1 + e.extras.length
    | none => if e.closed then 1 else 0).sum

/-- Expectations in the table: those whose window is open. -/
def Mord.tableLen (m : Mord) : Nat := (m.exps.filter fun e => !e.closed).length

def Exp.contains (e : Exp) (t : Int) : Bool := decide (16 * e.ws ≤ t) && decide (t ≤ 16 * e.we)

def Exp.matches (e : Exp) (rising : Bool) : Bool :=
  e.pol == 3#2 || (if rising then e.pol == 1#2 else e.pol == 2#2)

def Exp.opposes (e : Exp) (rising : Bool) : Bool :=
  if rising then e.pol == 2#2 else e.pol == 1#2

def Exp.overlaps (e : Exp) (i : Int × Int) : Bool := decide (16 * e.ws ≤ i.2) && decide (i.1 ≤ 16 * e.we)

/-- [t_a, t_a + 160 tk) overlaps the window (R130). -/
def Exp.overlapsOpen (e : Exp) (i : Int × Int) : Bool := decide (16 * e.ws < i.2) && decide (i.1 ≤ 16 * e.we)

def modulus24 (i : Int) : Nat := (i % (2 ^ 24 : Int)).toNat

/-- A verdict entry of an expectation (R137); VERDICT 0 HIT, 1 MISS, 3 LATE_DESC. -/
def verdictWords (ch verdict : Nat) (early : Bool) (e : Exp) : BitVec 64 × BitVec 64 :=
  let hit := decide (verdict = 0)
  let dev : Int := match e.edge with | some x => x.1 - 16 * e.texp | none => 0
  (BitVec.ofNat 64 (0xC * 2 ^ 60 + verdict * 2 ^ 58 + e.gen % 16 * 2 ^ 54 + e.pol.toNat * 2 ^ 52 +
    (if hit && !e.extras.isEmpty then 2 ^ 51 else 0) + (if e.blind then 2 ^ 50 else 0) +
    (if e.crowd then 2 ^ 49 else 0) + (if early then 2 ^ 48 else 0) + (if e.opp then 2 ^ 47 else 0) +
    ch * 2 ^ 40 + e.seq.toNat * 2 ^ 16 + e.elem % 65536),
   BitVec.ofNat 64 ((if hit then modulus24 dev * 2 ^ 40 + min e.extras.length 255 * 2 ^ 32 else 0) + e.tag.toNat))

/-- An EXTRA verdict entry (R137). -/
def extraWords (ch gen : Nat) (early : Bool) (x : Int × Bool) : BitVec 64 × BitVec 64 :=
  (BitVec.ofNat 64 (0xC * 2 ^ 60 + 2 * 2 ^ 58 + gen % 16 * 2 ^ 54 + (if x.2 then 1 else 2) * 2 ^ 52 +
    (if early then 2 ^ 48 else 0) + ch * 2 ^ 40),
   BitVec.ofNat 64 (((x.1 + 8).fdiv 16 % (2 ^ 48 : Int)).toNat))

/-- Whether a verdict is emitted as an entry (R118). -/
def emits (action : BitVec 3) (missOrLate xtra : Bool) : Bool :=
  match action.toNat with
  | 0 | 3 => true
  | 1 | 4 => missOrLate || xtra
  | _ => false

/-- The polarity check at a seal (R140). -/
def Mord.polCheck (on : Bool) (e : Exp) (m : Mord) : Mord × List MOut :=
  if !on || !(e.pol == 1#2 || e.pol == 2#2) then (m, [])
  else if e.edge.isSome || !e.opp then ({ m with polCount := 0, polHeld := false }, [])
  else
    let n := m.polCount + 1
    if n ≥ 64 && !m.polHeld then ({ m with polCount := n, polHeld := true }, [.polSuspect])
    else ({ m with polCount := n }, [])

/-- The later in (SEQ, element) order of two keys with their times; the first where they are equal. -/
def laterKey (a : BitVec 24 × Nat × Int) (b : Option (BitVec 24 × Nat × Int)) : BitVec 24 × Nat × Int :=
  match b with
  | some (s, i, t) => if keyGe a.1 a.2.1 s i then a else (s, i, t)
  | none => a

def Exp.key (e : Exp) : BitVec 24 × Nat × Int := (e.seq, e.elem, e.texp)

/-- Commits one expectation (R132, R136): verdict, counters, deviation and polarity check. The
expectation leaves `exps`; its edge and extras leave the log. -/
def Mord.seal (ch : Nat) (pchk early : Bool) (e : Exp) (m : Mord) : Mord × List MOut :=
  let (m, pol) := { m with exps := m.exps.filter (fun x => x.id != e.id),
                           lastSealed := some (laterKey e.key m.lastSealed) }.polCheck pchk e
  let early? := if early then [.logFull] else []
  match e.edge with
  | some x =>
    let w := verdictWords ch 0 early e
    (m, early? ++ (if emits e.action false (!e.extras.isEmpty) then [.verdict w.1 w.2] else []) ++
      [.hit (x.1 - 16 * e.texp) x.1 (e.action == 3#3 || e.action == 4#3) e.extras.length] ++ pol)
  | none =>
    let w := verdictWords ch 1 early e
    (m, early? ++ (if emits e.action true false then [.verdict w.1 w.2] else []) ++ [.miss] ++ pol)

/-- Ages a free edge out as an EXTRA (R123, R131). -/
def Mord.ageOut (ch : Nat) (xemit early : Bool) (x : Int × Bool) (m : Mord) : Mord × List MOut :=
  let w := extraWords ch m.gen early x
  ({ m with free := m.free.erase x },
    (if early then [.logFull] else []) ++ (if xemit then [.verdict w.1 w.2] else []) ++ [.extra])

/-- The settings a channel's Mordant works under. -/
structure MdCfg where
  ch : Nat
  h : Nat
  xemit : Bool
  polchk : Bool
  deriving DecidableEq, Repr

/-- Whether an expectation is due to seal (R116, R132). -/
def Exp.due (h : Nat) (front : Int) (e : Exp) : Bool :=
  decide (16 * (e.we + Int.ofNat h) ≤ front) || (e.covered && decide (16 * e.we < front))

/-- Seals the first due expectation in (SEQ, element) order, if there is one. -/
def Mord.sealFirst (c : MdCfg) (m : Mord) : Mord × List MOut :=
  match m.exps.find? (Exp.due c.h m.front) with
  | some e => m.seal c.ch c.polchk false e
  | none => (m, [])

/-- Seals every due expectation, in order. -/
def Mord.sealDue (c : MdCfg) (m : Mord) : Mord × List MOut :=
  (m.exps.filter (Exp.due c.h m.front)).foldl (fun (r : Mord × List MOut) e =>
    let (m', o) := r.1.seal c.ch c.polchk false e
    (m', r.2 ++ o)) (m, [])

/-- Whether a free edge is due to age (R116). -/
def edgeDue (h : Nat) (front : Int) (x : Int × Bool) : Bool := decide (x.1 + 16 * Int.ofNat h < front)

/-- Ages the oldest due free edge, after every due expectation has sealed (R138). -/
def Mord.ageFirst (c : MdCfg) (m : Mord) : Mord × List MOut :=
  let (m, o) := m.sealDue c
  match m.free.find? (edgeDue c.h m.front) with
  | some x => let (m', o') := m.ageOut c.ch c.xemit false x; (m', o ++ o')
  | none => (m, o)

/-- Everything due at the present front: seals in (SEQ, element) order, then EXTRAs in time order
(R138). -/
def Mord.drain (c : MdCfg) (m : Mord) : Mord × List MOut :=
  let (m, o) := m.sealDue c
  (m.free.filter (edgeDue c.h m.front)).foldl (fun (r : Mord × List MOut) x =>
    let (m', o') := r.1.ageOut c.ch c.xemit false x
    (m', r.2 ++ o')) (m, o)

/-- The time by which a log entry counts as old: an edge's own, or a closed window's end. -/
def Exp.logTime (e : Exp) : Option Int :=
  match e.edge with
  | some x => some x.1
  | none => if e.closed then some (16 * e.we) else none

/-- The oldest entry by time leaves the log (R123). -/
def Mord.forceOut (c : MdCfg) (m : Mord) : Mord × List MOut :=
  let oldestExp := m.exps.foldl (fun (b : Option (Exp × Int)) e =>
    match e.logTime, b with
    | some t, none => some (e, t)
    | some t, some (_, tb) => if t < tb then some (e, t) else b
    | none, _ => b) none
  match m.free.head?, oldestExp with
  | some x, some (e, t) => if x.1 ≤ t then m.ageOut c.ch c.xemit true x else m.seal c.ch c.polchk true e
  | some x, none => m.ageOut c.ch c.xemit true x
  | none, some (e, _) => m.seal c.ch c.polchk true e
  | none, none => (m, [])

/-- Makes room in a full binding log: what is due at the front leaves in its own right (R131, R132), and
where that leaves it full, the oldest entry is forced out (R123). -/
def Mord.makeRoom (c : MdCfg) (m : Mord) : Mord × List MOut :=
  if m.logLen < 8192 then (m, [])
  else
    let (m, o) := m.drain c
    if m.logLen < 8192 then (m, o)
    else let (m, o') := m.forceOut c; (m, o ++ o')

/-- Whether an output belongs to an EXTRA. -/
def MOut.ofExtra : MOut → Bool
  | .extra => true
  | .verdict w0 _ => w0.extractLsb' 58 2 == 2#2
  | _ => false

/-- Outputs decided at one value of F: those of expectations first, then EXTRAs (R138). -/
def byKind (o : List MOut) : List MOut := o.filter (fun x => !x.ofExtra) ++ o.filter MOut.ofExtra

/-- Windows the front has passed close; an unbound one takes a log entry of its own (R121). -/
def Mord.closeWindows (c : MdCfg) (m : Mord) : Mord × List MOut :=
  (m.exps.filter fun e => !e.closed && decide (16 * e.we < m.front)).foldl (fun (r : Mord × List MOut) e =>
    let (m1, o) := if e.edge.isNone && r.1.exps.any (fun x => x.id == e.id) then r.1.makeRoom c else (r.1, [])
    ({ m1 with exps := m1.exps.map fun x => if x.id == e.id then { x with closed := true } else x }, r.2 ++ o)) (m, [])

/-- Windows the front has reached go from OPEN to WATCH (R124). -/
def Mord.openWindows (m : Mord) : Mord :=
  { m with exps := m.exps.map fun e =>
      if e.st = .opened && decide (16 * e.ws ≤ m.front) then { e with st := .watch } else e }

/-- Advances the front; F never decreases (R115). -/
def Mord.advance (c : MdCfg) (t : Int) (m : Mord) : Mord × List MOut :=
  let m := { m with front := max m.front t }
  let (m, o) := m.closeWindows c
  (m.openWindows, o)

/-- Applies `f` to the first element that satisfies `p`. -/
def updateFirst {α : Type} (p : α → Bool) (f : α → α) : List α → List α
  | [] => []
  | a :: t => if p a then f a :: t else a :: updateFirst p f t

/-- Puts an edge among the free edges in time order. -/
def insertEdge (x : Int × Bool) : List (Int × Bool) → List (Int × Bool)
  | [] => [x]
  | y :: t => if x.1 < y.1 then x :: y :: t else y :: insertEdge x t

/-- Offers an edge (R128, R129): the first WATCH it fits binds it, else the first BOUND with an
open window counts it, else it stays free. -/
def Mord.offer (x : Int × Bool) (m : Mord) : Mord :=
  let m := { m with exps := m.exps.map fun (e : Exp) => if e.contains x.1 && e.opposes x.2 then { e with opp := true } else e }
  let canBind := fun e : Exp => e.st == .watch && e.contains x.1 && e.matches x.2
  let canExtra := fun e : Exp => e.st == .bound && !e.closed && e.contains x.1 && e.matches x.2
  if m.exps.any canBind then
    { m with exps := updateFirst canBind (fun e => { e with st := .bound, edge := some x }) m.exps }
  else if m.exps.any canExtra then
    { m with exps := updateFirst canExtra (fun e => { e with extras := e.extras ++ [x] }) m.exps }
  else { m with free := insertEdge x m.free }

/-- An edge reaches Mordant (R121, R128). -/
def Mord.takeEdge (c : MdCfg) (x : Int × Bool) (m : Mord) : Mord × List MOut :=
  let (m, o1) := m.drain c
  let (m, o2) := m.advance c x.1
  let (m, o3) := m.makeRoom c
  ({ m.offer x with seen := x :: m.seen }, o1 ++ byKind (o2 ++ o3))

/-- Takes the next input (R115, R130). -/
def Mord.takeInput (c : MdCfg) (m : Mord) : Mord × List MOut :=
  match m.input with
  | [] => (m, [])
  | i :: t =>
    let m := { m with input := t }
    match i with
    | .edge t r => m.takeEdge c (t, r)
    | .watermark t =>
      let (m, o1) := m.drain c
      let (m, o2) := m.advance c t
      (m, o1 ++ byKind o2)
    | .crowd t =>
      let iv := (t, t + 160 * 16)
      ({ m with crowds := iv :: m.crowds,
                exps := m.exps.map fun (e : Exp) => if e.overlapsOpen iv then { e with crowd := true } else e }, [])
    | .blind t0 t1 =>
      let (m, o1) := m.drain c
      let m := { m with blinds := (t0, t1) :: m.blinds,
                        exps := m.exps.map fun (e : Exp) => if e.overlaps (t0, t1) then { e with blind := true } else e }
      let (m, o2) := m.advance c t1
      (m, o1 ++ byKind o2)

/-- Puts an expectation in (SEQ, element) order, behind those of its own key. -/
def insertExp (e : Exp) : List Exp → List Exp
  | [] => [e]
  | x :: t => if keyGe e.seq e.elem x.seq x.elem then x :: insertExp e t else e :: x :: t

/-- The marks of an expectation from what the stream has brought so far (R130, R137). -/
def Mord.marked (m : Mord) (e : Exp) : Exp :=
  { e with blind := m.blinds.any e.overlaps, crowd := m.crowds.any e.overlapsOpen,
           opp := m.seen.any fun x => e.contains x.1 && e.opposes x.2 }

/-- Adds an expectation to the others of its channel, or seals it LATE_DESC (R124, R127). -/
def Mord.addExp (c : MdCfg) (e : Exp) (m : Mord) : Mord × List MOut :=
  let e := m.marked { e with id := m.nextId }
  let m := { m with nextId := m.nextId + 1 }
  if m.front > 16 * (e.ws + Int.ofNat c.h) then
    let w := verdictWords c.ch 3 false e
    ({ m with lastSealed := some (laterKey e.key m.lastSealed) },
      (if emits e.action true false then [.verdict w.1 w.2] else []) ++ [.late])
  else if m.front < 16 * e.ws then ({ m with exps := insertExp { e with st := .opened } m.exps }, [])
  else
    let fits := m.free.filter fun x => e.contains x.1 && e.matches x.2
    let closed := decide (16 * e.we < m.front)
    match fits with
    | x :: xs =>
      ({ m with free := m.free.filter (fun y => !fits.contains y),
                exps := insertExp { e with st := .bound, edge := some x, extras := xs, closed := closed } m.exps }, [])
    | [] =>
      let (m, o) := if closed then m.makeRoom c else (m, [])
      ({ m with exps := insertExp { e with st := .watch, closed := closed } m.exps }, o)

/-- The expectation that element i of a descriptor makes, given its profile's EARLY and LATE. T_EXP is
resolved under R43 anew at each element's materialisation (DESIGN CHOICE, log 95: R117 says "at
materialisation" of a descriptor whose elements materialise one by one). -/
def Desc.expect (d : Desc) (gen now i nth early late : Nat) : Exp :=
  let t := resolveTime 48 now d.texp.toNat + Int.ofNat (d.offset i)
  { id := 0, seq := d.seq, elem := i, pol := d.polOf i nth, action := d.action,
    tag := (match d.kind with | .mask1k _ _ => 0#32 | _ => d.tag), gen := gen, texp := t,
    ws := t - Int.ofNat early, we := t + Int.ofNat late, st := .opened, edge := none, extras := [],
    blind := false, crowd := false, opp := false, covered := false, closed := false }

/-- Materialises the next element of the queue's head while the table has room (R121). -/
def Mord.materialise (c : MdCfg) (now : Nat) (prof : Nat → Nat × Nat) (m : Mord) : Mord × List MOut :=
  match m.queue with
  | [] => (m, [])
  | q :: t =>
    match q.left with
    | [] => ({ m with queue := t }, [.creditReturn])
    | i :: left =>
      if m.tableLen ≥ 512 then (m, [])
      else
        let (m, o1) := m.drain c
        let p := prof q.d.profile.toNat
        let e := { q.d.expect m.gen now i q.done p.1 p.2 with covered := q.covered.contains i }
        let m := { m with queue := if left.isEmpty then t else { q with left := left, done := q.done + 1 } :: t }
        let (m, o2) := m.addExp c e
        (m, o1 ++ byKind o2 ++ (if left.isEmpty then [.creditReturn] else []))

/-- What becomes of a descriptor that passes the field checks on an enabled channel (R120). -/
inductive DescVerdict where
  | accepted (seqErr : Bool)
  | early
  | noSlot
  deriving DecidableEq, Repr

/-- First and last expectation times of a descriptor, where it has any. -/
def Desc.span (d : Desc) (now : Nat) : Option (Int × Int) :=
  let t := resolveTime 48 now d.texp.toNat
  match d.elems.head?, d.elems.getLast? with
  | some a, some b => some (t + Int.ofNat (d.offset a), t + Int.ofNat (d.offset b))
  | _, _ => none

/-- A descriptor arrives on an enabled channel (R120). -/
def Mord.queueDesc (now : Nat) (d : Desc) (m : Mord) : Mord × DescVerdict :=
  let sp := d.span now
  let tooEarly := match sp, m.orderRef with
    | some (a, _), some r => decide (a < r)
    | _, _ => false
  if tooEarly then (m, .early)
  else if m.queue.length ≥ 64 then (m, .noSlot)
  else
    let err := match m.expSeq with | some s => s != d.seq | none => false
    ({ m with queue := m.queue ++ [{ d := d, left := d.elems, covered := [], done := 0 }],
              expSeq := some (d.seq + 1#24),
              orderRef := (match sp with | some (_, b) => some b | none => m.orderRef) }, .accepted err)

/-- Drops everything unsealed without verdicts (R126): disabling and FLUSH. -/
def Mord.flush (m : Mord) : Mord × List MOut :=
  let n := m.exps.length + (m.queue.map fun q => q.left.length).sum
  ({ m with exps := [], queue := [], free := [], expSeq := none, orderRef := none },
    [.withdrawn n] ++ m.queue.map fun _ => .creditReturn)

/-- A SEAL covers every unsealed expectation at or before the one it names, those still queued included
(R132). -/
def Mord.sealMsg (c : MdCfg) (s : BitVec 24) (i : Nat) (m : Mord) : Mord × List MOut :=
  let (m, o1) := m.drain c
  let m := { m with
    exps := m.exps.map fun (e : Exp) => if keyGe s i e.seq e.elem then { e with covered := true } else e
    queue := m.queue.map fun (q : QDesc) => { q with covered := q.covered ++ q.left.filter fun j => keyGe s i q.d.seq j } }
  let (m, o2) := m.sealDue c
  (m, o1 ++ o2)

/-- The latest expectation of a queued descriptor, as a key and its time. -/
def QDesc.lastKey (now : Nat) (q : QDesc) : Option (BitVec 24 × Nat × Int) :=
  (q.left.getLast?).map fun i => (q.d.seq, i, resolveTime 48 now q.d.texp.toNat + Int.ofNat (q.d.offset i))

/-- A RETRACT withdraws from (S, k) on (R133, R134). Answers whether it met sealed or covered
expectations. -/
def Mord.retract (c : MdCfg) (now : Nat) (s : BitVec 24) (k : Nat) (m : Mord) : Mord × List MOut × Bool :=
  let (m, o1) := m.drain c
  let hitsExp := fun e : Exp => keyGe e.seq e.elem s k
  let gone := m.exps.filter fun e => hitsExp e && !e.covered
  let stay := m.exps.filter fun e => !(hitsExp e && !e.covered)
  let cut := m.queue.map fun q => { q with left := q.left.filter fun i => !keyGe q.d.seq i s k || q.covered.contains i }
  let partial_ := stay.any hitsExp || (cut.any fun q => q.left.any fun i => keyGe q.d.seq i s k) ||
    (match m.lastSealed with | some (a, i, _) => keyGe a i s k | none => false)
  let keptQ := cut.filter fun q => !q.left.isEmpty || (q.d.elems.isEmpty && !keyGe q.d.seq 0 s k)
  let nGone := gone.length + ((m.queue.map fun q => q.left.length).sum - (keptQ.map fun q => q.left.length).sum)
  let released := (gone.map fun e => e.edge.toList ++ e.extras).flatten
  let sorted := released.foldl (fun l x => insertEdge x l) []
  let left := stay.map Exp.key ++ keptQ.filterMap (QDesc.lastKey now)
  let lastLeft : Option Int := (left.foldl (fun b a => some (laterKey a b)) m.lastSealed).map (·.2.2)
  let m := { m with exps := stay, queue := keptQ, gen := (m.gen + 1) % 16,
                    expSeq := some (if k = 0 then s else s + 1#24), orderRef := lastLeft }
  let m := sorted.foldl (fun m x => m.offer x) m
  let credits : Nat := cut.length - keptQ.length
  (m, o1 ++ [.withdrawn nGone] ++ List.replicate credits .creditReturn, partial_)

end Sys2Proof.Machine
end

