-- ==== Sys2Proof/Machine/Store.lean ====
section
/-!
DEFINITION. Sparse stores. A store is a list of (key, value) pairs in one canonical form: keys
strictly rising and no entry equal to what an unlisted key reads as. Registers, the Vat, the Lake,
the flash and the calibration set are kept in this form.
-/

namespace Sys2Proof.Machine

/-- A sparse store: key and value pairs. What an unlisted key reads as is a parameter of each use. -/
abbrev Sparse (α : Type) := List (Nat × α)

/-- The value at key `k`, where an unlisted key `j` reads as `d j`. -/
def sparseGet {α : Type} (d : Nat → α) : Sparse α → Nat → α
  | [], k => d k
  | (a, v) :: t, k => if a = k then v else sparseGet d t k

/-- Puts an entry in front of the first entry with a larger key. -/
def sparseInsert {α : Type} (k : Nat) (v : α) : Sparse α → Sparse α
  | [] => [(k, v)]
  | (a, w) :: t => if k < a then (k, v) :: (a, w) :: t else (a, w) :: sparseInsert k v t

/-- Drops every entry of key `k`. -/
def sparseErase {α : Type} (k : Nat) : Sparse α → Sparse α
  | [] => []
  | (a, v) :: t => if a = k then sparseErase k t else (a, v) :: sparseErase k t

/-- Writes `v` at key `k`: writing what an unlisted key reads as removes the entry. -/
def sparsePut {α : Type} [DecidableEq α] (d : Nat → α) (m : Sparse α) (k : Nat) (v : α) : Sparse α :=
  if v = d k then sparseErase k m else sparseInsert k v (sparseErase k m)

/-- Writes a run of values at rising keys. -/
def sparsePutList {α : Type} [DecidableEq α] (d : Nat → α) (m : Sparse α) (k : Nat) : List α → Sparse α
  | [] => m
  | v :: t => sparsePutList d (sparsePut d m k v) (k + 1) t

/-- Reads `n` values at rising keys. -/
def sparseGetList {α : Type} (d : Nat → α) (m : Sparse α) (k : Nat) : Nat → List α
  | 0 => []
  | n + 1 => sparseGet d m k :: sparseGetList d m (k + 1) n

/-- The canonical form of a sparse store. -/
def Memory.wf {α : Type} [DecidableEq α] (d : Nat → α) : Sparse α → Bool
  | [] => true
  | (a, v) :: t => decide (v ≠ d a) && t.all (fun e => decide (a < e.1)) && Memory.wf d t

end Sys2Proof.Machine
end

