-- ==== Sys2Proof/Machine/State.lean ====
section
/-!
DEFINITION. The state of the device as plain data, the reasons a step can stop, and the state after
reset. Each structure names the rules of spec/ whose state it holds; registers stand in the sparse
store `regs`, whose addresses and reset values Machine/RegMap.lean lists.
-/

namespace Sys2Proof.Machine

/-! ### Stream items and the Vat -/

/-- What a stream item of the Vat is (R144), with what a record's measurement needs of it. -/
inductive VKind where
  | abs
  | edge (t16 : Int) (rising : Bool)
  | crowd
  | ovf
  | blind
  | gateEnd
  deriving DecidableEq, Repr

/-- One entry as the Vat writer takes it: its words, its whole-tk time (an ABS marker has that of the
edge it precedes), and the time of the channel's last edge before it (REFT of R158; 0
with no earlier edge). -/
structure VItem where
  words : List Word
  time : Int
  refBefore : Int
  kind : VKind
  deriving DecidableEq, Repr

/-- Why a record closed (R155). -/
inductive CloseCause where
  | full | postTime | ovf | stop
  deriving DecidableEq, Repr

/-- One captured channel of a trigger unit: its ring while ARMED, its record in POST. -/
structure Ring where
  ch : Ch
  /-- entries the ring holds whole, newest first -/
  items : List VItem
  /-- words written since the unit last entered ARMED -/
  written : Nat
  /-- the ring's next word in its segment, and the segment -/
  pos : Nat
  seg : Nat
  /-- ring position of the record's first word, once an event has split the ring -/
  start : Nat
  pre : List VItem
  post : List VItem
  closed : Option (CloseCause × Nat)
  short : Bool
  /-- the channel's last time with a spare, from the handover's begin to its end or failure; the last
  reference change (R158) -/
  spare : Option (Nat × Option Nat)
  refchg : Option Nat
  deriving DecidableEq, Repr

/-- A trigger event in progress (R151), with the domain's era count at TRIGT, if it was valid, and
whether it was in holdover. -/
structure TrigEvent where
  sample : Nat
  src : BitVec 16
  number : BitVec 32
  value : BitVec 64
  era : Option (BitVec 16)
  domh : Bool
  /-- events missed since the previous record, and the dead time before this one (R156, R157) -/
  missed : Nat
  dead : Nat
  deriving DecidableEq, Repr

/-- A closed record: its header and entries, where they stand in the Vat (first word of the segment,
ring size and the ring position of the first body word), and whether it is being pushed (R165). -/
structure Record where
  ch : Ch
  number : BitVec 32
  seg : Nat
  header : List (BitVec 64)
  items : List VItem
  base : Nat
  size : Nat
  start : Nat
  pushed : Bool
  deriving DecidableEq, Repr

/-- The part of a trigger unit that no register shows (spec/07). -/
structure UnitSt where
  armAt : Nat
  /-- after DISARM: an event whose sample starts before this instant is still taken (R157) -/
  ghost : Option Nat
  rings : List Ring
  event : Option TrigEvent
  missed : Nat
  dead : Nat
  closeAt : Nat
  hdrDone : Bool
  /-- disarmed in POST: IDLE follows once the records are complete (R157) -/
  ending : Bool
  count : Nat
  edgeSeen : Bool
  /-- waiting MARKs, by their time in tk (R150) -/
  marks : List Int
  records : List Record
  deriving DecidableEq, Repr

def UnitSt.reset : UnitSt :=
  { armAt := 0, ghost := none, rings := [], event := none, missed := 0, dead := 0, closeAt := 0,
    hdrDone := false, ending := false, count := 0, edgeSeen := false, marks := [], records := [] }

/-- A channel's open stream block in a stream partition (R164). -/
structure Block where
  ch : Ch
  /-- newest first -/
  items : List VItem
  startAt : Nat
  /-- a spare, and a reference change, during the block (R158) -/
  spare : Bool
  refchg : Bool
  seq : BitVec 32
  /-- closed blocks not yet acknowledged -/
  out : Nat
  deriving DecidableEq, Repr

/-! ### Input FIFO and channel -/

/-- How an edge was captured: by the own front end or the cluster spare, by which side, and its
polarity (R77, R78). -/
structure Cap where
  side : Side
  spare : Bool
  rising : Bool
  deriving DecidableEq, Repr

/-- A blind interval's start: an edge's raw time or a timebase instant (R87). -/
structure BlindStart where
  raw : Nat
  edge : Option Cap
  deriving DecidableEq, Repr

/-- The four causes of a BLIND marker (R87). -/
structure Causes where
  ovf : Bool
  tdac : Bool
  pinTest : Bool
  spare : Bool
  deriving DecidableEq, Repr

/-- An entry of the input FIFO (R77, R87). -/
inductive FEntry where
  | edge (raw : Nat) (cap : Cap)
  | abs
  /-- N, polarity of the first dropped edge, E, and the accepted edge it refers to -/
  | crowd (n : Nat) (rising e : Bool) (raw : Nat) (cap : Cap)
  | ovf (raw : Nat) (cap : Cap)
  | blind (start : BlindStart) (endAt : Nat) (causes : Causes) (count : Nat)
  | gateEnd (close : Nat) (seq : BitVec 16) (residue : Nat) (cut : Bool) (k : Nat) (ovfBlind blindNow : Bool)
  /-- the copy in a partner's FIFO, naming the owner (R97) -/
  | foreign (owner : Ch) (close : Nat) (ovfBlind blindNow : Bool)
  /-- a watermark on its way to Mordant (R115), in 1/16 tk: only among what the reducer has taken -/
  | watermark (t : Int)
  deriving DecidableEq, Repr

/-- A running blind interval. -/
structure BlindSt where
  start : BlindStart
  causes : Causes
  count : Nat
  /-- no timed cause ends before this instant -/
  endBy : Nat
  /-- waits for occupancy 64 (R88) -/
  ovfWait : Bool
  /-- waits for the pin test's end (R73) -/
  testWait : Bool
  deriving DecidableEq, Repr

/-- Drops against one accepted edge, not yet written as a marker (R82). -/
structure CrowdSt where
  n : Nat
  rising : Bool
  e : Bool
  raw : Nat
  cap : Cap
  deriving DecidableEq, Repr

/-- A channel's reducer: its queues and what it carries (spec/05). -/
structure RedSt where
  ownQ : List SItem
  partQ : List SItem
  carry : Carry
  acc : Acc
  deriving DecidableEq, Repr

def RedSt.reset : RedSt := { ownQ := [], partQ := [], carry := Carry.start, acc := Acc.empty }

/-- A channel beside its registers: TDAC strobes and queue, input FIFO and qualifier, gates,
reducer, Vat writer and Mordant. -/
structure Chan where
  /-- strobe instants of immediate-mode writes not yet applied (R62) -/
  strobes : List Nat
  /-- a shadow value is written and not applied -/
  tdacPend : Bool
  /-- a code has been written since release, so a strobe may unpark -/
  tdacWritten : Bool
  /-- the last MCLK cycle, by its start, in which software wrote the shadow, and what the shadow was before:
  the word and tdacWritten (R63) -/
  tdacLate : Option (Nat × Word × Bool)
  /-- queued codes with the instants of their pushes (R64) -/
  tdacQ : List (Nat × BitVec 18)
  settleBy : Nat
  /-- end of the park after an unparking application (R59) -/
  parkEnd : Option Nat
  /-- start of a running pin test (R73) -/
  testing : Option Nat
  /-- input FIFO, oldest first (R84) -/
  fifo : List FEntry
  /-- markers that found no free entry (R337) -/
  held : List FEntry
  /-- gate-end markers waiting for the spacing window of the last accepted edge -/
  later : List FEntry
  /-- last accepted edge: raw time, polarity, capture, and whether it has its own entry -/
  lastAcc : Option (Nat × Cap × Bool)
  crowd : Option CrowdSt
  decCount : Nat
  /-- instants of the last histogram clear and of the last SNAP (R173, R174) -/
  hgClrAt : Nat
  hgSnapAt : Nat
  /-- instant of the SNAP before the last -/
  hgSnapOld : Nat
  /-- an absolute stamp precedes the next entry (R87) -/
  stampDue : Bool
  blind : Option BlindSt
  /-- gates opened and not yet reduced, oldest first -/
  gates : List GateRec
  /-- gate ends counted for want of a free entry (R89) -/
  gateHeld : Nat
  /-- offsets of RWS registers written since they were last applied (R282) -/
  dirty : List Nat
  /-- shadows written in the running MCLK cycle: offset, end of that cycle, and the shadow that waited
  before, if one did (R288) -/
  late : List (Nat × Nat × Option Word)
  /-- sequence number of the next gate -/
  nextSeq : BitVec 32
  /-- the next gate is the first after an application or a restart; it clears the Allan deviation
  sums (R92, R112) -/
  freshDue : Bool
  adClrDue : Bool
  /-- the function was applied anew at this instant, from which an entry anchors the TIE line (R108) -/
  tieAt : Option Nat
  /-- the last close of a gate at its own boundary (R289) -/
  ownClose : Option Nat
  /-- instant of an ADEV_DUMP whose entries follow the next RESULT set -/
  adevDumpDue : Option Nat
  red : RedSt
  /-- Vat writer: entries the reducer has taken and that wait for a grant, balance in words, the running
  reference, and the time of the last edge since enabling (R14, R143, R158) -/
  vwait : List FEntry
  balance : Nat
  vref : Option Int
  lastEdge : Option Int
  mord : Mord
  /-- HIT deviations in CH_MD_DSUM and CH_MD_DSQ, for OD 0x6031 -/
  devN : Nat
  /-- idle since, for the idle route of threshold calibration (R204) -/
  idleSince : Nat
  deriving DecidableEq, Repr

def Chan.reset : Chan :=
  { strobes := [], tdacPend := false, tdacWritten := false, tdacLate := none, tdacQ := [], settleBy := 0, parkEnd := none,
    testing := none, fifo := [], held := [], later := [], lastAcc := none, crowd := none, decCount := 0,
    hgClrAt := 0, hgSnapAt := 0, hgSnapOld := 0,
    stampDue := false, blind := none, gates := [], gateHeld := 0, dirty := [], late := [], nextSeq := 0#32,
    freshDue := true, adClrDue := true, tieAt := some 0, ownClose := none, adevDumpDue := none,
    red := RedSt.reset, vwait := [], balance := 0, vref := none, lastEdge := none, mord := Mord.reset, devN := 0,
    idleSince := 0 }

/-! ### Spare front ends -/

/-- The part of a handover or hand-back that no register shows (R70-R72). -/
structure SpareSt where
  /-- row of R70 reached: 0 idle, 1 requested, 2 TDAC loaded, 3 settled, 4 checked -/
  stage : Nat
  startAt : Nat
  checkedAt : Nat
  /-- a further stand-in requested while a loan is handed back (R68) -/
  next : Option (Fin 16)
  /-- the repair policy's retry (R311): when the failed handover may be requested again, and
  whether it has been -/
  retryAt : Option Nat
  retried : Bool
  /-- channels whose stand-in failed twice -/
  gaveUp : List (Fin 16)
  deriving DecidableEq, Repr

def SpareSt.reset : SpareSt :=
  { stage := 0, startAt := 0, checkedAt := 0, next := none, retryAt := none, retried := false, gaveUp := [] }

/-! ### Timebase and start-up -/

/-- The timebase's own state beside TB_ (spec/02). -/
structure TbEng where
  /-- frequencies in mHz of the consecutive windows that passed, newest first -/
  wins : List Nat
  /-- the same since REF_DRIFT was last cleared (R40) -/
  afresh : List Nat
  /-- 20 ms passed with REFIN unqualified (R32) -/
  timedOut : Bool
  /-- detection instant of a loss whose move to the crystal is under way (R36) -/
  lostAt : Option Nat
  /-- when the drift baseline is due (R39) -/
  baseDue : Option Nat
  driftOver : Bool
  /-- the move of DRIFT_ACT: no return before REF_DRIFT is cleared and REFIN passes afresh (R40) -/
  driftMoved : Bool
  /-- AVSBus governor (R20) -/
  avsFirst : Bool
  avsBelow : Bool
  avsRetried : Bool
  avsSuspended : Bool
  /-- start of the MCLK cycle in which TB_PACE_MAX.CLR was last written (R18) -/
  paceClrAt : Option Nat
  deriving DecidableEq, Repr

def TbEng.reset : TbEng :=
  { wins := [], afresh := [], timedOut := false, lostAt := none, baseDue := none, driftOver := false,
    driftMoved := false, avsFirst := false, avsBelow := false, avsRetried := false, avsSuspended := false,
    paceClrAt := none }

/-- A domain map (R45): anchor as DT96, domain time there in 2^-16 ns, rate in 2^-56, era count. -/
structure DomMap where
  anchor : Nat
  s : Int
  rate : Int
  era : BitVec 16
  deriving DecidableEq, Repr

/-- Device time and whether the first lock has happened (R41). -/
structure Clock where
  epx : BitVec 32
  ets : BitVec 64
  running : Bool
  deriving DecidableEq, Repr

/-- Three copies of a triplicated word (R290). -/
structure TvWord where
  a : Word
  b : Word
  c : Word
  deriving DecidableEq, Repr

/-- The fuse bank (R295). -/
structure Fuses where
  etype : BitVec 16
  nodeBase : BitVec 16
  weMask : BitVec 16
  bootLock : Bool
  grade : BitVec 8
  ident : Word
  rev : BitVec 8
  mac : BitVec 48
  key : BitVec 16
  hash : BitVec 256
  deriving DecidableEq, Repr

/-- The shipped fuse bank (notes/assumptions/4.md): the EtherType the spec names, every front end
enabled, everything else 0. -/
def Fuses.shipped : Fuses :=
  { etype := 0x88B5#16, nodeBase := 0#16, weMask := 0#16, bootLock := false, grade := 0xFF#8, ident := 0#32,
    rev := 0#8, mac := 0#48, key := 0#16, hash := 0#256 }

/-! ### Services -/

/-- The states of a service call (R178). -/
inductive CallState where
  | queued | running | done
  | failed (code : Nat)
  | aborted
  deriving DecidableEq, Repr

/-- A channel of an LTADEV call (R183): its setting at the start, the phases kept (newest first), the
log2 of their spacing in gates, the gates since the last kept one, and the running cycle count. -/
structure LtChan where
  ch : Ch
  func : Word
  gate : Nat
  phases : List Rat
  shift : Nat
  skip : Nat
  cycles : Rat
  f0 : Option Rat
  ended : Bool
  deriving DecidableEq, Repr

/-- A service call (R178, R179). -/
structure Call where
  handle : Nat
  id : Nat
  params : List Byte
  st : CallState
  core : Option (Fin 8)
  /-- claimed channels, with the (address, word) pairs in force before the claim -/
  claims : List (Ch × List (Nat × Word))
  result : List Byte
  startAt : Nat
  /-- MAXTIME in ms; 0 for none -/
  maxTime : Nat
  /-- called by Ochre itself (R216) -/
  auto : Bool
  /-- an LTADEV call's channels -/
  lt : List LtChan
  deriving DecidableEq, Repr

/-- A live update under way (R189), or the same sequence back after a failed start check: the slot
it loads, DRAIN in ms and its end, and the cores that run the new image. -/
structure LiveUpdate where
  target : Nat
  drain : Nat
  drainBy : Nat
  swapped : List (Fin 8)
  back : Bool
  deriving DecidableEq, Repr

/-- Indigo: calls, images, watchdog (R177-R189, R314). -/
structure Indigo where
  calls : List Call
  nextHandle : Nat
  /-- completed handles, newest first, for the 64 results kept -/
  finished : List Nat
  live : Option LiveUpdate
  /-- outcome of the last image check, OD 0x7202, and whether a checked image waits -/
  imgOutcome : Nat
  imgReady : Bool
  /-- slot in use before a live update -/
  prevSlot : Nat
  /-- a restart of one core, or of all -/
  restarting : Option (Option (Fin 8))
  /-- instants of the restarts of the last hour -/
  restarts : List Nat
  /-- the boot responder or an image serves the dictionary -/
  serving : Bool
  deriving DecidableEq, Repr

def Indigo.reset : Indigo :=
  { calls := [], nextHandle := 1, finished := [], live := none, imgOutcome := 0, imgReady := false,
    prevSlot := 0, restarting := none, restarts := [], serving := false }

/-! ### Ochre -/

/-- Which edges a code-density collection counts (R196). -/
inductive CalSrc where
  | live | dither
  deriving DecidableEq, Repr

/-- A front end's calibration event (R207-R209); its PHASE and CAUSE stand in CH_CAL_STAT. -/
structure FeSt where
  /-- the TDAC: its HYS, RANGE and CODE, and the code its modulator receives (R203); none while it is
  parked at 0.45 V (R59) -/
  tdac : Option (Word × Rat)
  /-- the active sampler -/
  side : Side
  /-- the parts of the pending or running event -/
  needS : Bool
  needT : Bool
  running : Bool
  slot : Bool
  src : CalSrc
  /-- the DSRC code the collection will report -/
  dsrc : Nat
  /-- the collection has passed its test at 2^16 hits; in PHASE 5, the overlap check stands passed -/
  tested : Bool
  trims : Nat
  ditherFailed : Bool
  overlapFailed : Bool
  /-- when the collection began (R196) -/
  collectAt : Nat
  /-- what the standby side's block of the set, its DSRC code and its last completion were before (R196) -/
  kept : Option (List Word × Nat × Option Nat)
  /-- when the wait for a swap began -/
  waitFrom : Nat
  starved : Bool
  /-- the threshold part runs by the idle route -/
  idleRoute : Bool
  /-- completion instants of the last sampler part, per side, and threshold part -/
  lastA : Option Nat
  lastB : Option Nat
  lastT : Option Nat
  deriving DecidableEq, Repr

def FeSt.reset : FeSt :=
  { side := .a, tdac := none, needS := false, needT := false, running := false, slot := false, src := .dither, dsrc := 3,
    tested := false, trims := 0, ditherFailed := false, overlapFailed := false, collectAt := 0, kept := none,
    waitFrom := 0, starved := false,
    idleRoute := false, lastA := none, lastB := none, lastT := none }

/-! ### Start-up and flash -/

/-- Which configuration was chosen at start-up (R305). -/
inductive CfgChoice where
  | slotA | slotB | defaults
  deriving DecidableEq, Repr

/-- Where start-up stands (R299). -/
structure Boot where
  released : Bool
  straps : BitVec 6
  fused : Bool
  lcp : Bool
  eth : Bool
  responder : Bool
  /-- the flash gave an identification (R303) -/
  flashOk : Bool
  choice : Option CfgChoice
  calChosen : Bool
  /-- 25 ms passed with no usable source (R301) -/
  faulted : Bool
  /-- end of the first full calibration, and the last instant at which an automatic store was due (R216) -/
  calEnd : Option (Nat × Nat)
  deriving DecidableEq, Repr

def Boot.reset : Boot :=
  { released := false, straps := 0#6, fused := false, lcp := false, eth := false, responder := false,
    flashOk := false, choice := none, calChosen := false, faulted := false, calEnd := none }

/-- A flash store in progress or waiting (R307, R213, R188): where it goes and what it writes. -/
inductive StoreKind where
  | config | cal (handle : Nat) | image
  deriving DecidableEq, Repr

structure FlashStore where
  kind : StoreKind
  base : Nat
  header : List Byte
  body : List Byte
  deriving DecidableEq, Repr

/-- The wear log (R308, R312, R315): repaired rows as (macro, row), the Lake spare map as (spare,
bank), equivalent seconds in 2^-32 s, and erase counts by slot address. -/
structure WearLog where
  rows : List (Nat × Nat)
  lakeMap : List (Nat × Nat)
  eqs : Nat
  erases : Sparse Nat
  deriving DecidableEq, Repr

def WearLog.empty : WearLog := { rows := [], lakeMap := [], eqs := 0, erases := [] }

/-- The LCP between transactions (R286, R287). -/
structure LcpSt where
  err : Bool
  code : BitVec 2
  addr : BitVec 24
  /-- the words that SDO carried in the last transaction -/
  sdo : List Word
  deriving DecidableEq, Repr

def LcpSt.reset : LcpSt := { err := false, code := 0#2, addr := 0#24, sdo := [] }

/-- A path's own registers: IA, and the last word an access of the path returned. -/
structure PathSt where
  ia : Word
  /-- staged _H words, by address (R280) -/
  staged : List (Nat × Word)
  /-- data and outcome of the last access: 0 performed, 1 refused, 2 guarded refusal -/
  data : Word
  resp : Nat
  deriving DecidableEq, Repr

def PathSt.reset : PathSt := { ia := 0#32, staged := [], data := 0#32, resp := 0 }

/-! ### Faults and refusals -/

/-- The reasons a step can stop. The spec gives this block no behaviour that ends it, so no command
raises one; the constructor exists because the interface asks for a type of reasons. Safe. -/
inductive Fault where
  /-- Raised by nothing. Safe. -/
  | halted
  deriving DecidableEq, Repr

/-- The reasons a command can be refused a meaning. -/
inductive Refusal where
  /-- The arm of a command that has no meaning yet, by mnemonic. Safe: the run stops there. -/
  | notModelled (mnemonic : String)
  deriving DecidableEq, Repr
/-! ### Links -/

/-- The traffic classes (R229). -/
inductive FClass where
  | ctrl | reg | msg | event | result | record
  deriving DecidableEq, Repr

/-- FTYPE of a class. -/
def FClass.code : FClass → Nat
  | .ctrl => 0
  | .reg => 1
  | .msg => 2
  | .event => 3
  | .result => 4
  | .record => 5

/-- What an acknowledgement of a sent item releases (R122, R164, R165), and which items are credit
returns and limit verdicts (R186, R221). -/
inductive TxTag where
  | none
  | record (u : Unit16) (ch : Ch) (number : BitVec 32)
  | block (part : Fin 32) (ch : Ch)
  | credit
  | limit
  deriving DecidableEq, Repr

/-- An item waiting to be sent on a link: a whole entry of one class; of a record, `off` bytes are
already sent. -/
structure TxItem where
  cls : FClass
  bytes : List Byte
  tag : TxTag
  since : Nat
  off : Nat
  rsnd : Bool
  deriving DecidableEq, Repr

/-- A frame in the replay buffer (R226). A RECORD frame lists its item only where it carries the
item's last byte. -/
structure UFrame where
  seq : BitVec 12
  cls : FClass
  items : List TxItem
  payload : List Byte
  rsnd : Bool
  deriving DecidableEq, Repr

/-- Content of an accepted frame not yet taken, with the credits it holds (R228). -/
structure RxFrame where
  cls : FClass
  bytes : List Byte
  credits : Nat
  deriving DecidableEq, Repr

/-- A lane beside LNK_LSTATk. -/
structure LaneSt where
  /-- CTLE and DFE taps, in codes from the values training set (R222) -/
  taps : List Int
  fast : Bool
  /-- instants of the losses of the last second (R235) -/
  losses : List Nat
  /-- locked in this training -/
  locked : Bool
  /-- joins at the next window (R236) -/
  joining : Bool
  deriving DecidableEq, Repr

def LaneSt.reset : LaneSt :=
  { taps := List.replicate 6 0, fast := false, losses := [], locked := false, joining := false }

/-- The control blocks of R218; the lane's own logical number stands in ALIGN and TRAIN. -/
inductive CtlBlock where
  | idle
  | align (window mask : BitVec 16)
  | train (rate : Nat) (flags : Byte)
  | degrade (mask : BitVec 16)
  | degradeAck (mask : BitVec 16)
  | restripe (mask : BitVec 16)
  | eidleEnter
  deriving DecidableEq, Repr

/-- What a transmitter puts out: a control block on every lane in service, a wake burst of 1,024 unit
intervals there, or a frame. -/
inductive LineOut where
  | ctl (b : CtlBlock)
  | burst
  | frame (bytes : List Byte)
  deriving DecidableEq, Repr

/-- Of a frame in the replay buffer: the instant of its last sending, and the credits it returns. -/
structure FrameMeta where
  sentAt : Nat
  cred : Nat
  cclass : Nat
  deriving DecidableEq, Repr

/-- The link engine beside LNK_: queues, link state (R221), and what was last put on the wire. -/
structure LinkSt where
  /-- items waiting to be framed, oldest first -/
  tx : List TxItem
  /-- frames to send again after an admission -/
  resend : List UFrame
  txSeq : BitVec 12
  /-- next sequence number expected, and whether a frame has been accepted -/
  rxSeq : BitVec 12
  rxAny : Bool
  unacked : List UFrame
  /-- of each of them, in the same order -/
  metas : List FrameMeta
  /-- since when the oldest unacknowledged frame waits, and how often it was replayed -/
  oldestAt : Nat
  replays : Nat
  /-- after a bad frame: everything is discarded up to a control block and the expected frame -/
  discarding : Bool
  /-- a NAK to send; the instant of the last NAK that no replay has followed -/
  nakDue : Bool
  nakAt : Option Nat
  /-- since when an acknowledgement is owed -/
  ackAt : Option Nat
  /-- by class code: the partner's credit held, the own credit the partner holds, returns owed -/
  txCred : Vector Nat 6
  rxCred : Vector Nat 6
  credOwed : Vector Nat 6
  rx : List RxFrame
  lanes : Vector LaneSt 16
  /-- link state is to be reset at the next PARAM -/
  fresh : Bool
  leftAt : Option Nat
  /-- DEGRADE under way: the proposed mask and the instant of R235's 4 microseconds -/
  proposed : BitVec 16
  degradeBy : Nat
  /-- a width-change window fell during electrical idle -/
  windowDue : Bool
  /-- ALIGN ended with ORDER_ERR and waits (R219) -/
  orderErr : Bool
  busyAt : Nat
  /-- by class code: the instant at which it was last served (R230) -/
  served : Vector Nat 6
  /-- the last frame, and all that the last sending put on the wire -/
  sent : List Byte
  wire : List LineOut
  /-- the window count of ALIGN, and the instant of the last window (R218) -/
  windows : BitVec 16
  winAt : Nat
  deriving DecidableEq, Repr

def LinkSt.reset : LinkSt :=
  { tx := [], resend := [], txSeq := 0#12, rxSeq := 0#12, rxAny := false, unacked := [], metas := [], oldestAt := 0, replays := 0,
    discarding := false, nakDue := false, nakAt := none, ackAt := none, txCred := Vector.replicate 6 0,
    rxCred := Vector.replicate 6 0, credOwed := Vector.replicate 6 0, rx := [], lanes := Vector.replicate 16 LaneSt.reset,
    fresh := true, leftAt := none, proposed := 0#16, degradeBy := 0, windowDue := false, orderErr := false, busyAt := 0,
    served := Vector.replicate 6 0, sent := [], wire := [], windows := 0#16, winAt := 0 }

/-! ### Field network -/

/-- The device's own frames (R240, R245, R249, R253); the PTP messages by what they carry. -/
inductive OwnFrame where
  | ulidjaif (bytes : List Byte)
  | pdelayReq (seq : BitVec 16)
  | pdelayResp (domain : BitVec 8) (seq : BitVec 16) (requester : BitVec 80) (turnaround : Nat)
  | delayReq (dom : Dom) (domain : BitVec 8) (seq : BitVec 16)
  deriving DecidableEq, Repr

/-- What was last put on a port's wire. -/
inductive WireFrame where
  | none
  | forwarded (f : EthFrame)
  | own (f : OwnFrame)
  deriving DecidableEq, Repr

/-- An Ethernet port: its egress buffer (R240), own frames waiting, Pdelay exchange. -/
structure PortSt where
  busy : Bool
  buf : List EthFrame
  own : List OwnFrame
  sent : WireFrame
  pdSeq : BitVec 16
  /-- a Pdelay_Req awaits its answer; the instant of the last one -/
  pdOpen : Bool
  pdAt : Option Nat
  deriving DecidableEq, Repr

def PortSt.reset : PortSt := { busy := false, buf := [], own := [], sent := .none, pdSeq := 0#16, pdOpen := false, pdAt := none }

/-- A foreign master with the instants of its last two Announce messages and its announce interval
in tk. -/
structure Foreign where
  data : MasterData
  last : Nat
  before : Option Nat
  interval : Nat
  deriving DecidableEq, Repr

/-- A departure check under way (R255): since when, and the port of the departing Sync. -/
structure Check where
  since : Nat
  port : Port
  /-- the latest sample: ingress time, master's time -/
  latest : Nat × Int
  deriving DecidableEq, Repr

/-- A pending step's own count (R256). -/
structure PendSt where
  sum : Int
  count : Nat
  deriving DecidableEq, Repr

/-- A time domain beside PTP_ (R253-R257). -/
structure DomSt where
  masters : List Foreign
  selected : Option MasterData
  /-- last applied offset; consecutive applied samples within 100 ns -/
  lastO : Option Int
  good : Nat
  /-- STATE before the holdover of a check -/
  before : Nat
  check : Option Check
  pend : Option PendSt
  /-- an accepted step and the domain second at which it applies (R47) -/
  accepted : Option (Int × Int)
  /-- since when the domain has no master -/
  lostAt : Option Nat
  reqSeq : BitVec 16
  /-- log2 of the Delay_Req interval from the master's Delay_Resp; the instant of the last Delay_Req -/
  reqInt : Option Int
  reqAt : Option Nat
  deriving DecidableEq, Repr

def DomSt.reset : DomSt :=
  { masters := [], selected := none, lastO := none, good := 0, before := 0, check := none, pend := none,
    accepted := none, lostAt := none, reqSeq := 0#16, reqInt := none, reqAt := none }

/-- The field network beside NET_ and PTP_. -/
structure NetSt where
  ports : Vector PortSt 2
  doms : Vector DomSt 4
  deriving DecidableEq, Repr

def NetSt.reset : NetSt := { ports := Vector.replicate 2 PortSt.reset, doms := Vector.replicate 4 DomSt.reset }

/-! ### Object dictionary -/

/-- A command of a Ulidjaif frame (R244). -/
structure OdCmd where
  cmd : BitVec 8
  index : BitVec 16
  sub : BitVec 8
  data : List Byte
  deriving DecidableEq, Repr

/-- A segmented transfer (R265, R266): the captured value or the bytes received. -/
structure Session where
  src : OdSrc
  index : BitVec 16
  sub : BitVec 8
  write : Bool
  /-- segments are read live (R265) -/
  live : Bool
  data : List Byte
  last : Nat
  deriving DecidableEq, Repr

/-- An open configuration transaction (R272-R275). -/
structure Txn where
  src : OdSrc
  xid : BitVec 16
  /-- staged commands, in order, with the bytes of their stream -/
  cmds : List OdCmd
  stream : List Byte
  /-- status of the first failure -/
  failed : Option Nat
  last : Nat
  deriving DecidableEq, Repr

/-- A kept response (R246). -/
structure Kept where
  src : OdSrc
  tid : BitVec 16
  resp : List Byte
  at_ : Nat
  deriving DecidableEq, Repr

/-- The dictionary server. -/
structure OdSt where
  sessions : List Session
  txns : List Txn
  /-- newest first -/
  kept : List Kept
  /-- OD 0x1030 -/
  refused : List Byte
  /-- status and data of the last command executed -/
  answer : Nat × List Byte
  /-- a mailbox request that waits for the server -/
  mailbox : Option Path
  deriving DecidableEq, Repr

def OdSt.reset : OdSt :=
  { sessions := [], txns := [], kept := [], refused := List.replicate 24 0#8, answer := (0, []), mailbox := none }


/-! ### The whole state -/

/-- The device. Registers stand in `regs` by byte address: shadow and plain fields at their own
address, the values in force of RWS fields at +0x800 in a channel block and at +0x100_0000 for
trigger units and links. -/
structure State where
  /-- commands waiting, first in first out -/
  pending : List Instr
  /-- the model's own counter, which selects free values -/
  free : Nat
  clk : Clock
  regs : Sparse Word
  /-- triplicated registers (R290), by address -/
  tv : Sparse TvWord
  /-- the calibration set (R211), by word offset, triplicated -/
  cal : Sparse TvWord
  /-- power-on resets so far, which select undefined memory contents -/
  boots : Nat
  fuses : Fuses
  flash : Sparse Byte
  wear : WearLog
  boot : Boot
  /-- flash stores, the first in progress -/
  stores : List FlashStore
  storeOutcome : Nat
  /-- equivalent seconds in 2^-32 s (R315) -/
  eqs : Nat
  /-- erase counts of the slots the device writes (R316), by slot address -/
  erases : Sparse Nat
  /-- last readings of the twelve sensors in 0.01 degC (none before the first), and milliseconds above
  105 degC (R318) -/
  temps : List Int
  hotMs : Nat
  /-- SRAM repair: spare rows used by macro, the row under repair, the exhausted Vat units (R312, R313) -/
  rowsUsed : Sparse Nat
  repairing : Option (Nat × Nat)
  /-- store and word addresses that the copy of the row under repair corrects (R312) -/
  repairFix : SramSite × List Nat
  vatExh : List Nat
  tb : TbEng
  maps : Vector (Option DomMap) 4
  mapLogs : Vector (List DomMap) 4
  mapLost : Vector Nat 4
  paths : Vector PathSt 3
  lcp : LcpSt
  /-- unlock deadlines of the host link and the LCP (R292) -/
  unlockBy : Vector (Option Nat) 2
  chans : Vector Chan 128
  spares : Vector SpareSt 8
  fes : Vector FeSt 136
  /-- next tick of each running cluster pacer (R64) -/
  pacers : Vector (Option Nat) 8
  lastStrobe : Option Nat
  units : Vector UnitSt 16
  /-- starts and ends of running pulses on TRIG_OUT0-1 and STL0-7 (R166, R167) -/
  outPulse : Vector (Option (Nat × Nat)) 2
  stlPulse : Vector (Option (Nat × Nat)) 8
  /-- STL lines that devices outside hold asserted -/
  stlIn : BitVec 8
  /-- the last crossing at each of TRIG_IN0-3 and STL0-7 (R148) -/
  pinLast : Vector (Option Nat) 12
  /-- open stream blocks by partition (R164) -/
  blocks : Vector (List Block) 32
  vat : Sparse (Option Word)
  /-- words with a single-bit error, and uncorrectable words -/
  vatCE : List Nat
  vatUE : List Nat
  lake : Sparse (Option Word)
  /-- Lake ranges that read 0 where nothing is listed, once cleared -/
  lakeZero : List (Nat × Nat)
  lakeCE : List Nat
  lakeUE : List Nat
  /-- the service processor: calls, live update, restarts (R178-R189, R314) -/
  indigo : Indigo
  link0 : LinkSt
  link1 : LinkSt
  net : NetSt
  od : OdSt
  deriving DecidableEq, Repr

/-- The device right after a power-on reset, before SUPPLIES_VALID (R299, R308): every register at
its reset value, nothing listed in any memory, the shipped fuses, an erased flash. -/
def State.reset : State :=
  { pending := [], free := 0, clk := { epx := 0#32, ets := 0#64, running := false }, regs := [], tv := [],
    cal := [], boots := 0, fuses := Fuses.shipped, flash := [], wear := WearLog.empty, boot := Boot.reset,
    stores := [], storeOutcome := 0, eqs := 0, erases := [], temps := [], hotMs := 0, rowsUsed := [],
    repairing := none, repairFix := (.other, []), vatExh := [], tb := TbEng.reset, maps := Vector.replicate 4 none,
    mapLogs := Vector.replicate 4 [], mapLost := Vector.replicate 4 0, paths := Vector.replicate 3 PathSt.reset,
    lcp := LcpSt.reset, unlockBy := Vector.replicate 2 none, chans := Vector.replicate 128 Chan.reset,
    spares := Vector.replicate 8 SpareSt.reset, fes := Vector.replicate 136 FeSt.reset,
    pacers := Vector.replicate 8 none, lastStrobe := none, units := Vector.replicate 16 UnitSt.reset,
    outPulse := Vector.replicate 2 none, stlPulse := Vector.replicate 8 none, stlIn := 0#8,
    pinLast := Vector.replicate 12 none, blocks := Vector.replicate 32 [],
    vat := [], vatCE := [], vatUE := [], lake := [], lakeZero := [], lakeCE := [], lakeUE := [], indigo := Indigo.reset,
    link0 := LinkSt.reset, link1 := LinkSt.reset, net := NetSt.reset, od := OdSt.reset }

end Sys2Proof.Machine
end

