-- ==== Sys2Proof/Machine/Ops.lean ====
section
/-!
DEFINITION. The named operations over the state: bit fields of words, registers and their fields,
triplicated words, counters, device time and its instants, free values, and access to the parts of
a channel, front end, spare and unit.
-/

namespace Sys2Proof.Machine

/-! ### Fields of a word -/

/-- `len` bits from bit `lo` up, as a number. -/
def bitsGet (w : Word) (lo len : Nat) : Nat := (w.extractLsb' lo len).toNat

/-- A mask of `len` ones from bit `lo` up. -/
def maskAt (lo len : Nat) : Word := BitVec.ofNat 32 (2 ^ len - 1) <<< lo

/-- The word with those bits replaced by the low bits of `v`. -/
def bitsSet (w : Word) (lo len : Nat) (v : Nat) : Word :=
  (w &&& ~~~ maskAt lo len) ||| ((BitVec.ofNat 32 v <<< lo) &&& maskAt lo len)

/-- A field of a word. -/
def Fld.of (f : Fld) (w : Word) : Nat := bitsGet w f.lo f.len

/-- A word with a field replaced. -/
def Fld.into (f : Fld) (w : Word) (v : Nat) : Word := bitsSet w f.lo f.len v

/-- A signed reading of an n-bit number. -/
def signExt (n : Nat) (v : Nat) : Int :=
  if v % 2 ^ n < 2 ^ (n - 1) then Int.ofNat (v % 2 ^ n) else Int.ofNat (v % 2 ^ n) - 2 ^ n

/-- A signed number as an n-bit field, held at its limits. -/
def satSigned (n : Nat) (v : Int) : Nat :=
  let lim : Int := 2 ^ (n - 1)
  let c := max (-lim) (min (lim - 1) v)
  (c % (2 ^ n : Int)).toNat

def clampNat (lo hi v : Nat) : Nat := max lo (min hi v)

/-! ### The address map -/

/-- The block an address lies in, its number and the offset within it. -/
inductive Space where
  | dev | chan | active | spare | tu | link | dom | bcast | group | none
  deriving DecidableEq, Repr

structure Loc where
  space : Space
  idx : Nat
  off : Nat
  deriving DecidableEq, Repr

/-- Base addresses of the blocks (Register map of spec/13). -/
def chBase (n : Nat) : Nat := 0x100000 + n * 0x1000
def spBase (s : Nat) : Nat := 0x180000 + s * 0x1000
def tuBase (u : Nat) : Nat := 0x2000 + u * 0x80
def lkBase (l : Nat) : Nat := 0x4000 + l * 0x200
def dmBase (n : Nat) : Nat := 0x5100 + n * 0x40

/-- Where the values in force of trigger-unit and link RWS fields are kept, above the 24-bit space. -/
def forceBase : Nat := 0x1000000

/-- Locates a 24-bit address (R282, R283 and the register map). -/
def locate (a : Nat) : Loc :=
  if 0x100000 ≤ a ∧ a < 0x180000 then
    let off := a % 0x1000
    if off < 0x800 then ⟨.chan, (a - 0x100000) / 0x1000, off⟩
    else ⟨.active, (a - 0x100000) / 0x1000, off - 0x800⟩
  else if 0x180000 ≤ a ∧ a < 0x188000 then ⟨.spare, (a - 0x180000) / 0x1000, a % 0x1000⟩
  else if 0x1C0000 ≤ a ∧ a < 0x1C1000 then ⟨.bcast, 0, a % 0x1000⟩
  else if 0x1D0000 ≤ a ∧ a < 0x1E0000 then ⟨.group, (a - 0x1D0000) / 0x1000, a % 0x1000⟩
  else if 0x2000 ≤ a ∧ a < 0x2800 then ⟨.tu, (a - 0x2000) / 0x80, a % 0x80⟩
  else if 0x4000 ≤ a ∧ a < 0x4400 then ⟨.link, (a - 0x4000) / 0x200, a % 0x200⟩
  else if 0x5100 ≤ a ∧ a < 0x5200 then ⟨.dom, (a - 0x5100) / 0x40, a % 0x40⟩
  else if a < 0x8000 then ⟨.dev, 0, a⟩
  else ⟨.none, 0, a⟩

/-- Whether a row covers a byte offset. -/
def RegRow.covers (r : RegRow) (off : Nat) : Bool :=
  decide (r.addr ≤ off) && decide (off < r.addr + max 1 r.count * max 4 r.stride) &&
  decide ((off - r.addr) % max 4 r.stride = 0)

def rowsOf : Space → List RegRow
  | .dev => devRows
  | .chan | .active => chanRows
  | .spare => spareRows
  | .tu => tuRows
  | .link => linkRows
  | .dom => domRows
  | _ => []

/-- The row of the register at an address, if one is implemented there. -/
def rowAt (a : Nat) : Option RegRow :=
  let l := locate a
  (rowsOf l.space).find? fun r => r.covers l.off

/-- The bits of a row's fields that satisfy `p`. -/
def RegRow.mask (r : RegRow) (p : FieldRow → Bool) : Word :=
  (r.fields.filter p).foldl (fun m f => m ||| maskAt f.lo f.len) 0#32

/-- The reset word of a register: its fields' reset values; CH_HG_CTL.BASE resets to the channel's
number (R168). -/
def resetWord (k : Nat) : Word :=
  let a := k % forceBase
  match rowAt a with
  | some r =>
    let w := r.fields.foldl (fun w f => bitsSet w f.lo f.len f.reset) 0#32
    let l := locate a
    if l.off = R.CH_HG_CTL && (l.space == .chan || l.space == .active) then F.CH_HG_CTL_BASE.into w l.idx else w
  | none => 0#32

/-! ### Registers -/

/-- The stored word of a register. -/
def State.w (s : State) (a : Nat) : Word := sparseGet resetWord s.regs a

/-- Stores a register's word. -/
def State.setW (s : State) (a : Nat) (v : Word) : State := { s with regs := sparsePut resetWord s.regs a v }

/-- A field of the block at `base`. -/
def State.f (s : State) (base : Nat) (f : Fld) : Nat := f.of (s.w (base + f.addr))

/-- Sets a field of the block at `base`. -/
def State.setF (s : State) (base : Nat) (f : Fld) (v : Nat) : State :=
  s.setW (base + f.addr) (f.into (s.w (base + f.addr)) v)

/-- A one-bit field. -/
def State.fb (s : State) (base : Nat) (f : Fld) : Bool := decide (s.f base f = 1)

/-- Sets a flag (R5): hardware sets it to 1. -/
def State.raise (s : State) (base : Nat) (f : Fld) : State := s.setF base f 1

def State.setB (s : State) (base : Nat) (f : Fld) (b : Bool) : State := s.setF base f (bit b)

/-- A 64-bit pair whose high word is at `a`. -/
def State.pair (s : State) (a : Nat) : Nat := (s.w a).toNat * 2 ^ 32 + (s.w (a + 4)).toNat

def State.setPair (s : State) (a : Nat) (v : Nat) : State :=
  (s.setW a (BitVec.ofNat 32 (v / 2 ^ 32))).setW (a + 4) (BitVec.ofNat 32 v)

/-- Adds to a 64-bit counter pair. -/
def State.count (s : State) (a n : Nat) : State := s.setPair a (s.pair a + n)

/-- Adds to a field that saturates. -/
def State.countSat (s : State) (base : Nat) (f : Fld) (n : Nat) : State :=
  s.setF base f (min (s.f base f + n) (2 ^ f.len - 1))

/-- Value in force of an RWS field of channel n: its active view (R282). -/
def State.act (s : State) (n : Nat) (f : Fld) : Nat := s.f (chBase n + 0x800) f
def State.actB (s : State) (n : Nat) (f : Fld) : Bool := decide (s.act n f = 1)

/-- Value in force of an RWS field of trigger unit u: that of the last ARM or re-arm. -/
def State.tuA (s : State) (u : Nat) (f : Fld) : Nat := s.f (forceBase + tuBase u) f
/-- Value in force of an RWS field of a link: that of the last width-change window. -/
def State.lkA (s : State) (l : Nat) (f : Fld) : Nat := s.f (forceBase + lkBase l) f

/-! ### Triplicated words (R290) -/

/-- The bitwise majority of the three copies. -/
def TvWord.vote (t : TvWord) : Word := (t.a &&& t.b) ||| (t.a &&& t.c) ||| (t.b &&& t.c)

def TvWord.all (w : Word) : TvWord := { a := w, b := w, c := w }

/-- Whether the copies disagree. -/
def TvWord.split (t : TvWord) : Bool := !(t.a == t.b && t.b == t.c)

def tvDefault (a : Nat) : TvWord := TvWord.all (resetWord a)

/-- The voted value of a triplicated register. -/
def State.tvW (s : State) (a : Nat) : Word := (sparseGet tvDefault s.tv a).vote

/-- A write sets all three copies. -/
def State.setTv (s : State) (a : Nat) (w : Word) : State :=
  { s with tv := sparsePut tvDefault s.tv a (TvWord.all w) }

def State.tvF (s : State) (base : Nat) (f : Fld) : Nat := f.of (s.tvW (base + f.addr))
def State.tvB (s : State) (base : Nat) (f : Fld) : Bool := decide (s.tvF base f = 1)

/-! ### The calibration set (R211) -/

/-- The factory word at word offset k of the set: trims 32, the nominal bin table (centres of
sixteen-unit bins, R198), zero offsets, gains 2^30 (R214). -/
def calFactory (k : Nat) : TvWord :=
  if k < 54400 then
    let j := k % 200
    if j < 64 then TvWord.all 0x20202020#32
    else if j < 192 then
      let i := 2 * (j - 64)
      TvWord.all (BitVec.ofNat 32 ((16 * i + 8) * 65536 + (16 * (i + 1) + 8)))
    else TvWord.all 0#32
  else if k < 55488 then
    let j := (k - 54400) % 8
    if j = 1 ∨ j = 3 then TvWord.all 0x40000000#32 else TvWord.all 0#32
  else TvWord.all 0#32

def State.calW (s : State) (k : Nat) : Word := (sparseGet calFactory s.cal k).vote

def State.setCal (s : State) (k : Nat) (w : Word) : State :=
  { s with cal := sparsePut calFactory s.cal k (TvWord.all w) }

/-- First word of the sampler block of a front end's side, and of its front-end block (R211). -/
def samplerBlock (fe : Nat) (sd : Side) : Nat := 200 * (2 * fe + (match sd with | .a => 0 | .b => 1))
def feBlock (fe : Nat) : Nat := 54400 + 8 * fe
def pathBlock (n : Nat) : Nat := 55488 + 2 * n

/-- bin[i] of a side in 1/16 tk. -/
def State.bin (s : State) (fe : Nat) (sd : Side) (i : Nat) : Nat :=
  let w := s.calW (samplerBlock fe sd + 64 + i / 2)
  if i % 2 = 0 then bitsGet w 16 16 else bitsGet w 0 16

/-- OFS_s of R190 for an entry captured by `cap` on channel n. -/
def State.ofs (s : State) (n : Nat) (cap : Cap) : Int :=
  let rising := cap.rising
  let fe := if cap.spare then 128 + n / 16 else n
  let ofss := signExt 32 (s.calW (samplerBlock fe cap.side + (if rising then 192 else 193))).toNat
  let diff := s.act n F.CH_CFG_DIFF
  let cdw := s.calW (feBlock fe + 5 + diff)
  let cd := signExt 16 (if rising then bitsGet cdw 16 16 else bitsGet cdw 0 16)
  let pairSkew := if s.actB n F.CH_CFG_PAIR then signExt 32 (s.calW (pathBlock n + 1)).toNat else 0
  let spareSkew := if cap.spare then signExt 32 (s.calW (pathBlock n)).toNat else 0
  ofss + cd + pairSkew + spareSkew

/-- The calibrated time of an edge in 1/16 tk (R78). -/
def State.t16 (s : State) (n : Nat) (raw : Nat) (cap : Cap) : Int :=
  let fe := if cap.spare then 128 + n / 16 else n
  Int.ofNat (raw / 256) * 4096 + Int.ofNat (s.bin fe cap.side (raw % 256)) + s.ofs n cap

/-! ### Device time -/

/-- DT96 in tk (R41). -/
def State.now (s : State) : Nat := s.clk.epx.toNat * 2 ^ 64 + s.clk.ets.toNat

def Clock.at (c : Clock) (t : Nat) : Clock :=
  { c with epx := BitVec.ofNat 32 (t / 2 ^ 64), ets := BitVec.ofNat 64 t }

/-- One timebase period passes: ETS64 advances by 256, and EPX32 increments in the period in which
ETS64 wraps (R41). Nothing advances before the first lock. -/
def State.tick (s : State) : State :=
  if s.clk.running then { s with clk := s.clk.at (s.now + 256) } else s

/-- Device time reaches instant `t`, rounded up to a timebase period, if it has not yet: what a
command that stands for an event at a fixed instant implies. Device time never goes back. -/
def State.reach (t : Nat) (s : State) : State :=
  if s.clk.running && decide (s.now < t) then { s with clk := s.clk.at ((t + 255) / 256 * 256) } else s

/-- The start of the MCLK cycle after the present one (R94). -/
def State.mclkNext (s : State) : Nat := (s.now / 2048 + 1) * 2048

/-- The next instant of the 1.25 GHz modulator clock, 512 tk apart. -/
def State.modClock (s : State) : Nat := (s.now + 511) / 512 * 512

/-- tk in a microsecond, a millisecond and a second (R1). -/
def tkUs : Nat := 640000
def tkMs : Nat := 640000000
def tkSec : Nat := 640000000000

/-- Takes a fresh number for a free value. -/
def State.fresh (s : State) : Nat × State := (s.free, { s with free := s.free + 1 })

/-! ### Parts -/

def State.chan (s : State) (n : Ch) : Chan := s.chans[n]
def State.setChan (s : State) (n : Ch) (c : Chan) : State := { s with chans := s.chans.set n c }
def State.modChan (s : State) (n : Ch) (g : Chan → Chan) : State := s.setChan n (g (s.chan n))
def State.spare (s : State) (p : Spare) : SpareSt := s.spares[p]
def State.setSpare (s : State) (p : Spare) (x : SpareSt) : State := { s with spares := s.spares.set p x }
def State.fe (s : State) (f : FrontEnd) : FeSt := s.fes[f]
def State.setFe (s : State) (f : FrontEnd) (x : FeSt) : State := { s with fes := s.fes.set f x }
def State.modFe (s : State) (f : FrontEnd) (g : FeSt → FeSt) : State := s.setFe f (g (s.fe f))
def State.tu (s : State) (u : Unit16) : UnitSt := s.units[u]
def State.setTu (s : State) (u : Unit16) (x : UnitSt) : State := { s with units := s.units.set u x }
def State.modTu (s : State) (u : Unit16) (g : UnitSt → UnitSt) : State := s.setTu u (g (s.tu u))

/-- Applies an operation for every member of a list, in order. -/
def State.forAll {α : Type} (l : List α) (g : α → State → State) (s : State) : State :=
  l.foldl (fun s a => g a s) s

def allCh : List Ch := List.finRange 128
def allUnits : List Unit16 := List.finRange 16
def allSpares : List Spare := List.finRange 8
def allFe : List FrontEnd := List.finRange 136

/-- The channels of cluster c. -/
def clusterCh (c : Nat) : List Ch := allCh.filter fun n => n.val / 16 = c
def Ch.cluster (n : Ch) : Nat := n.val / 16
def Ch.spareOf (n : Ch) : Spare := ⟨n.val / 16, by omega⟩
def Ch.fe (n : Ch) : FrontEnd := ⟨n.val, by omega⟩
def spareFe (p : Spare) : FrontEnd := ⟨128 + p.val, by omega⟩
/-- The block that holds a front end's CH_CAL registers. -/
def feBase (f : FrontEnd) : Nat := if f.val < 128 then chBase f.val else spBase (f.val - 128)
def chOf (n : Nat) : Ch := ⟨n % 128, Nat.mod_lt _ (by decide)⟩
def unitOf (n : Nat) : Unit16 := ⟨n % 16, Nat.mod_lt _ (by decide)⟩

/-- Whether a channel is fused off: bit c of the channel enable grade enables cluster c. -/
def State.fusedOff (s : State) (n : Ch) : Bool := !(s.fuses.grade.getLsbD (Ch.cluster n))

def State.ready (s : State) : Bool := s.fb 0 F.DEV_STAT_READY
def State.cfgDone (s : State) : Bool := s.fb 0 F.DEV_STAT_CFG_DONE

/-- The channel is enabled and not parked: its comparator's transitions are captured (R59, R61). -/
def State.live (s : State) (n : Ch) : Bool :=
  s.actB n F.CH_CFG_EN && !s.fb (chBase n) F.CH_PIN_PARKED && !s.fusedOff n

/-- Answer of a register access: performed, refused (R279), or a guarded write refused (R291). -/
inductive Resp where
  | ok | refused | guarded
  deriving DecidableEq, Repr

end Sys2Proof.Machine
end

