-- ==== Sys2Proof/Machine/Flags.lean ====
section
/-!
DEFINITION. The access codes of register fields (R3) and what they do to a stored word: RW and RWS
fields take the value written, a 1 clears a W1C flag, SC bits command and read 0. Hardware sets and
counts flags through `State.raise`, `State.count` and `State.countSat` of Machine/Ops.lean.
-/

namespace Sys2Proof.Machine

/-! ### Access codes (R3) -/

def RegRow.rw (r : RegRow) : Word := r.mask fun f => f.acc == .rw || f.acc == .rws
def RegRow.w1c (r : RegRow) : Word := r.mask fun f => f.acc == .w1c
def RegRow.tvs (r : RegRow) : Word := r.mask fun f => f.tv
def RegRow.rws (r : RegRow) : Word := r.mask fun f => f.acc == .rws
def RegRow.guarded (r : RegRow) : Bool := r.fields.any fun f => f.g
/-- A register that takes no narrow write (R279). -/
def RegRow.wide (r : RegRow) : Bool := r.fields.any fun f => f.acc == .w1c || f.acc == .sc || f.g
def RegRow.writable (r : RegRow) : Bool := r.fields.any fun f => f.acc != .ro

/-- The word a write stores: RW and RWS fields take the value, a 1 clears a W1C flag (R3). -/
def RegRow.stored (r : RegRow) (old w : Word) : Word := ((old &&& ~~~r.rw) ||| (w &&& r.rw)) &&& ~~~(w &&& r.w1c)

def State.plain (r : RegRow) (a : Nat) (w : Word) (s : State) : State := s.setW a (r.stored (s.w a) w)

/-- The SC bits of a register. -/
def RegRow.sc (r : RegRow) : Word := r.mask fun f => f.acc == .sc

/-- Whether a register has a field that an image writes. -/
def RegRow.imaged (r : RegRow) : Bool := r.fields.any fun f => f.acc == .rw || f.acc == .rws || f.acc == .w1c

end Sys2Proof.Machine
end

