-- ==== Sys2Proof/Machine/Streams.lean ====
section
/-!
DEFINITION. What leaves a channel: items put on a link, the Vat writer's words (R143-R145), rings
and records of trigger units (R153-R159), and stream blocks (R164).
-/

namespace Sys2Proof.Machine

/-! ### Bytes and links -/

/-- A number as n bytes, most significant first. -/
def bytesBE (n v : Nat) : List Byte :=
  (List.range n).map fun i => BitVec.ofNat 8 (v / 2 ^ (8 * (n - 1 - i)))

/-- The number that bytes spell, most significant first. -/
def ofBytesBE (l : List Byte) : Nat := l.foldl (fun a b => a * 256 + b.toNat) 0

/-- A big-endian field of n bytes. -/
def field (h : List Byte) (at_ n : Nat) : Nat := ofBytesBE ((h.drop at_).take n)

/-- One bit of the reflected IEEE 802.3 polynomial. -/
def crcBit (c : BitVec 32) : BitVec 32 := if c.getLsbD 0 then (c >>> 1) ^^^ 0xEDB88320#32 else c >>> 1

def crcByte (c : BitVec 32) (b : Byte) : BitVec 32 :=
  let x := c ^^^ b.setWidth 32
  crcBit (crcBit (crcBit (crcBit (crcBit (crcBit (crcBit (crcBit x)))))))

/-- The CRC-32 of the Ethernet FCS (R225, R273, R304). -/
def crc32 (l : List Byte) : BitVec 32 := ~~~ (l.foldl crcByte 0xFFFFFFFF#32)

def Entry.bytes (e : Entry) : List Byte :=
  bytesBE 8 e.w0.toNat ++ bytesBE 8 e.w1.toNat ++ bytesBE 8 e.w2.toNat ++ bytesBE 8 e.w3.toNat

def State.link (s : State) : Link → LinkSt
  | .host => s.link0
  | .pattern => s.link1

def State.setLink (s : State) (l : Link) (x : LinkSt) : State :=
  match l with
  | .host => { s with link0 := x }
  | .pattern => { s with link1 := x }

/-- Puts an item of a class on a link's queue. -/
def State.send (l : Link) (c : FClass) (bytes : List Byte) (tag : TxTag) (s : State) : State :=
  let x := s.link l
  s.setLink l { x with tx := x.tx ++ [{ cls := c, bytes := bytes, tag := tag, since := s.now, off := 0, rsnd := false }], busyAt := s.now }

/-- Credits a frame of n payload bytes uses (R228). -/
def frameCredits (n : Nat) : Nat := (16 + n + 63) / 64

/-- Whether a class that the partner's credit holds stalls its sources (R228): the depth is open. -/
def State.classStalls (s : State) (l : Link) (c : FClass) : Bool :=
  let x := s.link l
  match x.tx.filter fun i => i.cls = c with
  | [] => false
  | i :: rest => decide ((x.txCred.toList.getD c.code 0) < frameCredits i.bytes.length) && decide (Config.txRoom c.code ≤ rest.length + 1)

/-- Whether 4,096 limit verdicts wait for the pattern link (R186). -/
def State.limitsFull (s : State) : Bool := decide (4096 ≤ s.link1.tx.countP fun i => i.tag == .limit)

/-- Sends a 32-byte result entry on the host link (R113, R229). -/
def State.sendEntry (e : Entry) (s : State) : State := s.send .host .result e.bytes .none

/-! ### Vat words -/

/-- A marker's header word (R144). -/
def markerWord (hi : Bool) (mtype payload : Nat) : Word :=
  BitVec.ofNat 32 ((if hi then 2 ^ 31 else 0) + 2 ^ 30 + mtype * 2 ^ 26 + payload % 2 ^ 26)

def w32 (i : Int) (lo : Nat) : Word := BitVec.ofNat 32 ((i % (2 ^ 64 : Int)).toNat / 2 ^ lo)

/-- The four words of an ABS marker for the next edge's time (R144). -/
def absWords (t : Int) : List Word :=
  [markerWord false 0 0, BitVec.ofNat 32 (t / 2 ^ 64).toNat, w32 t 32, w32 t 0]

/-- The words of an ABS marker that precedes an edge, if one does, and of the edge against the
reference (R145). -/
def edgeWords (ref : Option Int) (t : Int) (rising : Bool) : List Word × List Word :=
  let entry (d : Nat) : Word := BitVec.ofNat 32 ((if rising then 2 ^ 31 else 0) + d % 2 ^ 30)
  match ref with
  | none => (absWords t, [entry 0])
  | some r =>
    let d := (t - r).toNat
    if d < 2 ^ 30 then ([], [entry d])
    else if d < 2 ^ 56 then
      ([], [markerWord rising 1 ((t % (2 ^ 58 : Int)).toNat / 2 ^ 32), w32 t 0])
    else (absWords t, [entry 0])

def Causes.bits (c : Causes) : Nat := bit c.ovf + bit c.tdac * 2 + bit c.pinTest * 4 + bit c.spare * 8

/-! ### Units -/

/-- STATE codes of a trigger unit. -/
def tuIdle : Nat := 0
def tuArmed : Nat := 1
def tuPost : Nat := 2
def tuRearm : Nat := 3

def State.tuState (s : State) (u : Nat) : Nat := s.f (tuBase u) F.TRG_TU_STAT_STATE

/-- The words of a ring, S = PRE + POST (R153). -/
def State.ringWords (s : State) (u : Nat) : Nat := s.tuA u F.TRG_TU_PRE_PRE + s.tuA u F.TRG_TU_POST_POST

def itemWords (l : List VItem) : Nat := (l.map fun i => i.words.length).sum

/-- The newest items that fit whole in n words; input newest first. -/
def keepNewest : Nat → List VItem → List VItem
  | _, [] => []
  | n, i :: t => if i.words.length ≤ n then i :: keepNewest (n - i.words.length) t else []

/-- Vat word address of a ring's segment: the partition's base, the channel's equal share, the
segment within it, behind its two header copies (R161; the placement is the model's). -/
def State.segBase (s : State) (u : Nat) (chIdx nCh seg : Nat) : Nat :=
  let vp := s.w (R.TRG_VP + 4 * s.tuA u F.TRG_TU_CFG_PART)
  F.TRG_VP_BASE.of vp * 16384 + chIdx * (F.TRG_VP_SIZE.of vp * 16384 / max 1 nCh) + seg * (s.ringWords u + 32)

def vatNone (_ : Nat) : Option Word := none

/-- Writes one Vat word. -/
def State.putVat (s : State) (a : Nat) (w : Word) : State :=
  { s with vat := sparsePut vatNone s.vat a (some w), vatUE := s.vatUE.erase a, vatCE := s.vatCE.erase a }

/-- Writes an item's words round a ring. -/
def State.putRing (base size pos : Nat) : List Word → State → State
  | [], s => s
  | w :: t, s => State.putRing base size (pos + 1) t (s.putVat (base + 32 + pos % max 1 size) w)

/-- Words of post-trigger items. -/
def Ring.postWords (r : Ring) : Nat := itemWords r.post

/-- Whether an entry of a time still belongs to the record: one that closed at an instant takes what lies
before it, whenever the core passes it on, so that its content does not depend on core speed (R8). -/
def Ring.accepts (t : Int) (r : Ring) : Bool :=
  match r.closed with
  | none => true
  | some (.postTime, c) | some (.stop, c) => decide (t < Int.ofNat c)
  | some _ => false

/-- One item of a record in POST (R155); `due` is TRIGT + POST_T where a limit is set. Lists are newest
first. -/
def Ring.takePost (limit sample : Nat) (due : Option Nat) (it : VItem) (r : Ring) : Ring :=
  let lastTime : Nat := match r.post with | i :: _ => i.time.toNat | [] => sample
  let late : Bool := match due with | some d => r.closed.isNone && decide (Int.ofNat d ≤ it.time) | none => false
  if !r.accepts it.time then r
  else if late then { r with closed := due.map fun d => (.postTime, d) }
  else if r.postWords + it.words.length > limit then { r with closed := some (.full, lastTime) }
  else
    let r := { r with post := it :: r.post }
    if it.kind = .ovf then { r with closed := some (.ovf, it.time.toNat) }
    else if r.postWords = limit then { r with closed := some (.full, it.time.toNat) }
    else r

/-- Splits a ring at the trigger instant (R153, R154). -/
def Ring.split (pre limit sample : Nat) (due : Option Nat) (r : Ring) : Ring :=
  let chron := r.items.reverse
  let before := chron.takeWhile fun i => decide (i.time < Int.ofNat sample)
  let after := chron.dropWhile fun i => decide (i.time < Int.ofNat sample)
  let kept := keepNewest pre before.reverse
  let r := { r with pre := kept, short := decide (r.written < pre),
                    start := r.pos - itemWords after - itemWords kept }
  after.foldl (fun r i => r.takePost limit sample due i) r

/-- An entry from before the trigger sample that reaches the Vat after the event was made: it joins
the pre-trigger side while nothing stands on the other (R153). -/
def Ring.takeLate (pre size sample : Nat) (it : VItem) (r : Ring) : Ring :=
  let items := keepNewest size (it :: r.items)
  let kept := keepNewest pre (items.filter fun i => decide (i.time < Int.ofNat sample))
  { r with items := items, written := r.written + it.words.length, pre := kept,
           start := r.pos + it.words.length - itemWords kept }

/-! ### Records -/

/-- Same-polarity intervals of a body, never across a CROWD or BLIND marker; oldest first. -/
def bodyIntervals : Option Int → Option Int → List VItem → List Int
  | _, _, [] => []
  | r, f, i :: t =>
    match i.kind with
    | .edge x true => (match r with | some y => [x - y] | none => []) ++ bodyIntervals (some x) f t
    | .edge x false => (match f with | some y => [x - y] | none => []) ++ bodyIntervals r (some x) t
    | .crowd | .blind => bodyIntervals none none t
    | _ => bodyIntervals r f t

def bodyEdges (l : List VItem) : List Int := l.filterMap fun i => match i.kind with | .edge x _ => some x | _ => none

/-- The per-record measurement (R159). -/
def recordValue (rmeas prim : Nat) (ev : TrigEvent) (pre post : List VItem) : BitVec 64 :=
  let body := pre ++ post
  let es := bodyEdges body
  let tk (i : Int) : BitVec 64 := f64OfRat ((i : Rat) / 16)
  match rmeas with
  | 1 => if prim = 13 then ev.value else f64NaN
  | 2 => f64OfRat (es.length : Rat)
  | 3 => match es.head?, es.getLast? with
    | some a, some b => tk (b - a)
    | _, _ => f64NaN
  | 4 =>
    let ds := bodyIntervals none none body
    if ds.isEmpty then f64NaN else f64OfRat (((ds.foldl (· + ·) 0 : Int) : Rat) / (ds.length : Rat) / 16)
  | 5 => match (bodyEdges post).head? with
    | some a => tk (a - 16 * Int.ofNat ev.sample)
    | none => f64NaN
  | _ => f64NaN

/-- The lowest-numbered source of a bitmap. -/
def primOf (src : BitVec 16) : Nat := ((List.range 16).find? fun i => src.getLsbD i).getD 0

/-- The eight header words (R158). -/
def headerWords (tu prim src ch flags : Nat) (number runId : Nat) (trigt : Nat) (era dom : Nat) (reft : Int)
    (missed dead pre post : Nat) (value : BitVec 64) : List (BitVec 64) :=
  [BitVec.ofNat 64 (0xD * 2 ^ 60 + 2 ^ 56 + tu * 2 ^ 52 + prim * 2 ^ 48 + src * 2 ^ 32 + ch * 2 ^ 24 + flags),
   BitVec.ofNat 64 (number * 2 ^ 32 + runId),
   BitVec.ofNat 64 trigt,
   BitVec.ofNat 64 (trigt / 2 ^ 64 % 2 ^ 32 * 2 ^ 32 + era * 2 ^ 16 + dom * 2 ^ 14),
   BitVec.ofInt 64 reft,
   BitVec.ofNat 64 (min missed 65535 * 2 ^ 48 + min dead (2 ^ 48 - 1)),
   BitVec.ofNat 64 (pre * 2 ^ 32 + post),
   value]

/-- PTP_STAT.STATE of a domain in holdover (spec/11). -/
def ptpHoldover : Nat := 4

/-- The start of a record: its first entry, or TRIGT where that is earlier or the body empty. -/
def recordStart (sample : Nat) (body : List VItem) : Nat :=
  match body with
  | i :: _ => min sample i.time.toNat
  | [] => sample

/-- SPARE and REFCHG of a record from `start` to its close (R158): a spare's time that reaches into it,
and a reference change within it. -/
def Ring.spareIn (start : Nat) (r : Ring) : Bool :=
  match r.spare with
  | some (_, some b) => decide (start ≤ b)
  | some (_, none) => true
  | none => false
def Ring.refchgIn (start : Nat) (r : Ring) : Bool :=
  match r.refchg with
  | some t => decide (start ≤ t)
  | none => false

/-- The record of a closed ring (R158). -/
def State.mkRecord (s : State) (u : Unit16) (i nCh : Nat) (ev : TrigEvent) (r : Ring) : Record :=
  let pre := r.pre.reverse
  let post := r.post.reverse
  let body := pre ++ post
  let start := recordStart ev.sample body
  let dom := s.tuA u F.TRG_TU_CFG_DOM
  let has (k : VKind → Bool) : Nat := bit (body.any fun i => k i.kind)
  let cause := r.closed.map (·.1)
  let flags := bit r.short * 2 ^ 23 + bit (cause == some .ovf) * 2 ^ 22 +
    has (fun k => k == .blind) * 2 ^ 21 + has (fun k => k == .crowd) * 2 ^ 20 + bit (r.spareIn start) * 2 ^ 18 +
    bit (r.refchgIn start) * 2 ^ 17 + bit (cause == some .postTime) * 2 ^ 16 + bit (cause == some .stop) * 2 ^ 15 +
    bit ev.era.isSome * 2 ^ 14 + bit ev.domh * 2 ^ 13 +
    bit (decide (ev.missed > 65535) || decide (ev.dead ≥ 2 ^ 48)) * 2 ^ 12
  let prim := primOf ev.src
  { ch := r.ch, number := ev.number, seg := r.seg, pushed := false,
    header := headerWords u prim ev.src.toNat r.ch flags ev.number.toNat (s.w R.TB_RUN_ID).toNat ev.sample
      ((ev.era.map (·.toNat)).getD 0) dom ((body.head?.map (·.refBefore)).getD 0) ev.missed ev.dead
      (itemWords pre) (itemWords post) (recordValue (s.tuA u F.TRG_TU_CFG_RMEAS) prim ev pre post)
    items := body, base := s.segBase u i nCh r.seg, size := s.ringWords u, start := r.start }

/-! ### Readout and ECC (R163) -/

/-- The Vat address of a record's k-th body word. -/
def Record.addr (r : Record) (k : Nat) : Nat := r.base + 32 + (r.start + k) % max 1 r.size

/-- The word indices at which entries begin, with the reference time in force before each: the last
edge's, or the one an ABS marker just before it sets (R143). -/
def itemStarts : Option Int → Nat → List VItem → List (Nat × Int)
  | _, _, [] => []
  | r, k, i :: t =>
    (k, r.getD i.refBefore) :: itemStarts (if i.kind = .abs then some i.time else none) (k + i.words.length) t

/-- The resynchronisation point after a bad word at index k: the first entry that begins at or after
the next 1,024-word boundary of Vat address space; the end of the body where there is none. -/
def resyncAt (addr : Nat → Nat) (len k : Nat) (starts : List (Nat × Int)) : Nat × Int :=
  ((starts.filter fun p => decide (k < p.1)).find? fun p =>
    decide (addr p.1 / 1024 ≠ addr k / 1024)).getD (len, 0)

/-- An ECC mark (R144). -/
def eccMark (n : Nat) : Word := BitVec.ofNat 32 (2 ^ 30 + 15 * 2 ^ 26 + min n 2047)

/-- What a body's readout gives. -/
structure BodyRead where
  words : List Word
  /-- the reference times of its ECC marks, in order (OD 0x5041) -/
  refs : List Int
  ce : Nat
  ue : Nat
  deriving DecidableEq, Repr

/-- Reads a body word by word: a single-bit error is corrected, an uncorrectable word is replaced by
an ECC mark (R163). -/
def State.readBody (s : State) (addr : Nat → Nat) (items : List VItem) : BodyRead :=
  let ws := (items.map (·.words)).flatten
  let starts := itemStarts none 0 items
  let bad := (List.range ws.length).filter fun k => s.vatUE.contains (addr k)
  { words := ws.mapIdx fun k w => if s.vatUE.contains (addr k) then eccMark ((resyncAt addr ws.length k starts).1 - k) else w
    refs := bad.map fun k => (resyncAt addr ws.length k starts).2
    ce := ((List.range ws.length).filter fun k => s.vatCE.contains (addr k)).length
    ue := bad.length }

/-- Counts what a readout found (R163). -/
def State.countVat (ce ue : Nat) (s : State) : State :=
  let s := if ce = 0 then s else (s.count R.TRG_VAT_CE_H ce).raise 0 F.TRG_VAT_STAT_CE
  if ue = 0 then s else (s.count R.TRG_VAT_UE_H ue).raise 0 F.TRG_VAT_STAT_UE

/-- The bytes of a record as it leaves: header, then body; the header's ECC flag is set where a word
was replaced. -/
def Record.bytes (r : Record) (b : BodyRead) : List Byte :=
  let hdr := r.header.mapIdx fun i w => if i = 0 && decide (b.ue ≠ 0) then w ||| (1#64 <<< 19) else w
  (hdr.map fun w => bytesBE 8 w.toNat).flatten ++ (b.words.map fun w => bytesBE 4 w.toNat).flatten

/-- Drops a record, which frees its segment. -/
def State.freeRecord (u : Unit16) (ch : Ch) (number : BitVec 32) (s : State) : State :=
  s.modTu u fun x => { x with records := x.records.filter fun y => !(y.ch == ch && y.number == number) }

/-- Single-bit errors and uncorrectable words of a record's header copy. -/
def State.copyErrs (s : State) (r : Record) (c : Nat) : Nat × Nat :=
  let n (l : List Nat) : Nat := ((List.range 16).filter fun k => l.contains (r.base + 16 * c + k)).length
  (n s.vatCE, n s.vatUE)

/-- What a header's readout finds (R161, R163): the second copy is read where the first has an uncorrectable
word. -/
def State.headerErrs (s : State) (r : Record) : Nat × Nat :=
  let a := s.copyErrs r 0
  let b := s.copyErrs r 1
  if a.2 = 0 then a else (a.1 + b.1, a.2 + b.2)

/-- Whether neither header copy can be read (R161). -/
def State.headerLost (s : State) (r : Record) : Bool := decide ((s.copyErrs r 0).2 ≠ 0) && decide ((s.copyErrs r 1).2 ≠ 0)

/-- A record whose header is lost is skipped, counted and LOST set (R161). -/
def State.loseRecord (u : Unit16) (r : Record) (s : State) : State :=
  let h := s.headerErrs r
  (((s.countVat h.1 h.2).freeRecord u r.ch r.number).countSat (tuBase u) F.TRG_TU_LOSTC_VALUE 1).raise
    (tuBase u) F.TRG_TU_STAT_LOST

/-- Pushes a record on the host link (R165). Its segment is freed at the acknowledgement, except that
a record pushed at its close with ECC set stays unread. -/
def State.pushRecord (u : Unit16) (r : Record) (onClose : Bool) (s : State) : State :=
  if s.headerLost r then s.loseRecord u r
  else
    let b := s.readBody r.addr r.items
    let h := s.headerErrs r
    let s := s.countVat (b.ce + h.1) (b.ue + h.2)
    if onClose && decide (b.ue ≠ 0) then s.send .host .record (r.bytes b) .none
    else
      (s.send .host .record (r.bytes b) (.record u r.ch r.number)).modTu u fun x =>
        { x with records := x.records.map fun y => if y.ch = r.ch && y.number = r.number then { y with pushed := true } else y }

/-- TRG_TU_NEXT names the oldest unread record (R165). -/
def State.setNext (u : Unit16) (s : State) : State :=
  match (s.tu u).records.find? (fun r => !r.pushed) with
  | some r => s.setW (tuBase u + R.TRG_TU_NEXT) (BitVec.ofNat 32 (2 ^ 31 + r.ch * 2 ^ 24 + r.number.toNat % 2 ^ 24))
  | none => s.setW (tuBase u + R.TRG_TU_NEXT) 0#32

/-! ### Trigger outputs -/

/-- A pulse that starts at `t`, or extends the one still running (R167). -/
def pulse (t width : Nat) (p : Option (Nat × Nat)) : Option (Nat × Nat) :=
  match p with
  | some (a, e) => if t ≤ e then some (a, max e (t + width)) else some (t, t + width)
  | none => some (t, t + width)

/-- TRIG_OUT pulses of unit u of one FUNC (R166). -/
def State.pulseOut (u func start : Nat) (s : State) : State :=
  s.forAll (List.finRange 2) fun (k : Fin 2) s =>
    let w := s.w (R.TRG_OUT + 4 * k.val)
    if F.TRG_OUT_EN.of w = 1 && F.TRG_OUT_TU.of w = u && F.TRG_OUT_FUNC.of w % 3 = func then
      { s with outPulse := s.outPulse.set k (pulse start (F.TRG_OUT_WIDTH.of w * 2048) s.outPulse[k]) }
    else s

/-- The latest close among a unit's records. -/
def UnitSt.lastClose (x : UnitSt) : Nat := (x.rings.filterMap fun r => r.closed.map (·.2)).foldl max 0

/-- OVF_RUN and SUSTAIN_EXCEEDED at the end of a record or gate (R89); `n` overflow-ended ones. -/
def State.ovfRun (n : Ch) (ended : Bool) (k : Nat) (s : State) : State :=
  let b := chBase n
  let run := s.f b F.CH_STAT_OVF_RUN
  if ended then
    let run' := min (run + k) 255
    let s := s.setF b F.CH_STAT_OVF_RUN run'
    if run < 3 && decide (run' ≥ 3) then s.raise b F.CH_STAT_SUSTAIN_EXCEEDED else s
  else s.setF b F.CH_STAT_OVF_RUN 0

/-! ### What a FIFO entry is in the Vat (R143-R145) -/

/-- The whole-tk time of a FIFO entry, where it has one (R79, R87). -/
def State.entryTime (s : State) (n : Ch) : FEntry → Option Int
  | .edge raw cap | .ovf raw cap | .crowd _ _ _ raw cap => some (wholeTk (s.t16 n raw cap))
  | .blind _ endAt _ _ => some (Int.ofNat endAt)
  | .gateEnd close _ _ _ _ _ _ => some (Int.ofNat close)
  | .abs | .foreign _ _ _ _ | .watermark _ => none

/-- The Vat items of an entry: a marker's words, or an edge's with the ABS marker that precedes it
where one does. A stamp, a foreign marker and a watermark have none. -/
def State.vatItems (s : State) (n : Ch) (e : FEntry) : List VItem :=
  let last := (s.chan n).lastEdge.getD 0
  let one (w : List Word) (t : Int) (k : VKind) : List VItem := [{ words := w, time := t, refBefore := last, kind := k }]
  match e with
  | .abs | .foreign _ _ _ _ | .watermark _ => []
  | .edge raw cap =>
    let t := s.t16 n raw cap
    let tk := wholeTk t
    let ws := edgeWords (s.chan n).vref tk cap.rising
    (if ws.1.isEmpty then [] else one ws.1 tk .abs) ++ one ws.2 tk (.edge t cap.rising)
  | .crowd k rising e raw cap =>
    one [markerWord rising 2 ((if e then 2 ^ 25 else 0) + k)] (wholeTk (s.t16 n raw cap)) .crowd
  | .ovf raw cap =>
    let tk := wholeTk (s.t16 n raw cap)
    one [markerWord false 3 0, w32 tk 32, w32 tk 0] tk .ovf
  | .blind start endAt causes count =>
    let t0 : Int := match start.edge with | some cap => wholeTk (s.t16 n start.raw cap) | none => Int.ofNat start.raw
    let len := Int.ofNat endAt - t0
    one [markerWord false 4 (causes.bits * 2 ^ 22 + min count 65535), w32 t0 32, w32 t0 0, w32 len 32, w32 len 0]
      (Int.ofNat endAt) .blind
  | .gateEnd close seq residue cut k _ _ =>
    let t := Int.ofNat close
    one [markerWord false 5 ((if cut then 2 ^ 25 else 0) + k * 2 ^ 16 + seq.toNat), w32 t 32, w32 t 0, BitVec.ofNat 32 residue] t .gateEnd

/-- Whether entries of before instant t have still to pass through the channel's reducer (R8). -/
def State.pendingBefore (s : State) (n : Ch) (t : Nat) : Bool :=
  let c := s.chan n
  let early (e : FEntry) : Bool := match s.entryTime n e with | some x => decide (x < Int.ofNat t) | none => false
  c.vwait.any early || c.fifo.any early || c.held.any early || c.later.any early ||
  (match c.crowd with | some k => decide (k.raw < t) | none => false)

/-- Whether nothing can still join the records of a unit's event. -/
def State.unitSettled (s : State) (u : Unit16) : Bool :=
  (s.tu u).rings.all fun r => match r.closed with
    | some (.postTime, t) | some (.stop, t) => !s.pendingBefore r.ch t
    | some _ => true
    | none => false

/-- Once every record of the event has closed, and what lies before the closes has reached the Vat, the
unit enters REARM; the unit close is the latest close (R155), whenever the core has caught up (R8). A
record that closed at the time limit completes without an OVF marker (R89), and a TRIG_OUT of FUNC 0b10
pulses 6.4 ns after the close (R166). -/
def State.checkClosed (u : Unit16) (s : State) : State :=
  let x := s.tu u
  if s.tuState u = tuPost && s.unitSettled u then
    let s := ((s.modTu u fun x => { x with closeAt := x.lastClose, hdrDone := false }).setF (tuBase u) F.TRG_TU_STAT_STATE
      tuRearm).pulseOut u.val 2 (x.lastClose + 4096)
    s.forAll x.rings fun (r : Ring) s => match r.closed with
      | some (.postTime, _) => s.ovfRun r.ch false 1
      | _ => s
  else s

/-- Closes the open record of a channel, whatever unit captures it (R155). -/
def State.closeRecords (n : Ch) (cause : CloseCause) (s : State) : State :=
  s.forAll allUnits fun u s =>
    if s.tuState u = tuPost && (s.tu u).rings.any (fun r => r.ch = n && r.closed.isNone) then
      (s.modTu u fun x => { x with rings := x.rings.map fun r =>
        if r.ch = n && r.closed.isNone then { r with closed := some (cause, s.now) } else r }).checkClosed u
    else s

/-- TRIGT + POST_T of a unit's event, where a limit is set. -/
def State.postDue (s : State) (u : Nat) (sample : Nat) : Option Nat :=
  let limit := s.tuA u F.TRG_TU_POSTT_H_POST_T * 2 ^ 32 + s.tuA u F.TRG_TU_POSTT_L_POST_T
  if limit = 0 then none else some (sample + limit)

/-- An item reaches a unit's ring or record. -/
def State.unitItem (u : Unit16) (n : Ch) (it : VItem) (s : State) : State :=
  let x := s.tu u
  match x.rings.findIdx? (fun r => r.ch = n) with
  | none => s
  | some i =>
    if it.kind = .gateEnd && decide (s.tuA u F.TRG_TU_CFG_GEOMIT = 1) then s
    else
      match x.rings[i]? with
      | none => s
      | some r =>
        let size := s.ringWords u
        let base := s.segBase u i x.rings.length r.seg
        if s.tuState u = tuArmed then
          let r' := { r with items := keepNewest size (it :: r.items), written := r.written + it.words.length,
                             pos := r.pos + it.words.length }
          (s.putRing base size r.pos it.words).setTu u { x with rings := x.rings.set i r' }
        else if !x.hdrDone && r.accepts it.time then
          match x.event with
          | none => s
          | some ev =>
            let late := r.post.isEmpty && decide (it.time < Int.ofNat ev.sample)
            let r' := if late then r.takeLate (s.tuA u F.TRG_TU_PRE_PRE) size ev.sample it
              else r.takePost (s.tuA u F.TRG_TU_POST_POST) ev.sample (s.postDue u ev.sample) it
            let written := late || decide (r'.postWords ≠ r.postWords)
            let s := if written then s.putRing base size r.pos it.words else s
            let s := (s.setTu u { x with rings := x.rings.set i { r' with pos := r.pos + (if written then it.words.length else 0) } }).checkClosed u
            match r'.closed with
            | some (.ovf, _) => s.ovfRun n true 1
            | some (.full, _) => s.ovfRun n false 1
            | _ => s
        else s

/-! ### Stream blocks -/

/-- Whether stream partition p streams channel n: EN, mode 0b10, a size, and its mask bit. -/
def State.streams (s : State) (p : Nat) (n : Ch) : Bool :=
  let vp := s.w (R.TRG_VP + 4 * p)
  decide (F.TRG_VP_MODE.of vp = 2) && decide (F.TRG_VP_EN.of vp = 1) && decide (F.TRG_VP_SIZE.of vp ≠ 0) &&
  (s.w (R.TRG_VSM + 16 * p + 4 * (n / 32))).getLsbD (n % 32)

/-- Channels in a stream partition's mask. -/
def State.streamChs (s : State) (p : Nat) : List Ch :=
  allCh.filter fun n => (s.w (R.TRG_VSM + 16 * p + 4 * (n / 32))).getLsbD (n % 32)

/-- Block segments per channel of a stream partition, as R161 divides it. -/
def State.blockSegs (s : State) (p : Nat) : Nat :=
  F.TRG_VP_SIZE.of (s.w (R.TRG_VP + 4 * p)) * 65536 / max 1 (s.streamChs p).length / (4 * 4096 + 128)

/-- First Vat word of a stream block's segment. -/
def State.blockBase (s : State) (p : Nat) (n : Ch) (seq : BitVec 32) : Nat :=
  let vp := s.w (R.TRG_VP + 4 * p)
  let chs := s.streamChs p
  F.TRG_VP_BASE.of vp * 16384 + (chs.findIdx fun c => c = n) * (F.TRG_VP_SIZE.of vp * 16384 / max 1 chs.length) +
    seq.toNat % max 1 (s.blockSegs p) * 4128

/-- Closes a channel's open block and pushes it (R164). -/
def State.closeBlock (p : Fin 32) (n : Ch) (s : State) : State :=
  let bs := s.blocks[p]
  match bs.find? (fun b => b.ch = n) with
  | none => s
  | some b =>
    if b.items.isEmpty then s
    else
      let items := b.items.reverse
      let base := s.blockBase p n b.seq
      let body := s.readBody (fun k => base + 32 + k) items
      let has (k : VKind → Bool) : Nat := bit (items.any fun i => k i.kind)
      let flags := 2 ^ 11 + bit (decide (body.ue ≠ 0)) * 2 ^ 19 + has (fun k => k == .blind) * 2 ^ 21 + has (fun k => k == .crowd) * 2 ^ 20 +
        has (fun k => k == .ovf) * 2 ^ 22 + bit b.spare * 2 ^ 18 + bit b.refchg * 2 ^ 17
      let hdr := headerWords 0 0 0 n flags b.seq.toNat (s.w R.TB_RUN_ID).toNat
        ((items.head?.map (·.time.toNat)).getD 0) 0 0 ((items.head?.map (·.refBefore)).getD 0) 0 0 0 body.words.length f64NaN
      let bytes := (hdr.map fun w => bytesBE 8 w.toNat).flatten ++ (body.words.map fun w => bytesBE 4 w.toNat).flatten
      let s := s.countVat body.ce body.ue
      let b' := { b with items := [], spare := false, refchg := false, seq := b.seq + 1#32, out := b.out + 1 }
      ({ s with blocks := s.blocks.set p (bs.map fun (x : Block) => if x.ch = n then b' else x) }).send .host .record bytes (.block p n)

/-- An item of a streamed channel (R164). -/
def State.blockItem (p : Fin 32) (n : Ch) (it : VItem) (s : State) : State :=
  let b0 := ((s.blocks[p]).find? (fun b => b.ch = n)).getD { ch := n, items := [], startAt := s.now, spare := false, refchg := false, seq := 0#32, out := 0 }
  let s := if itemWords b0.items + it.words.length > 4096 then s.closeBlock p n else s
  let bs := s.blocks[p]
  let b := (bs.find? (fun b => b.ch = n)).getD b0
  let b' := { b with items := it :: b.items, startAt := (if b.items.isEmpty then s.now else b.startAt),
                     spare := b.spare || s.fb (chBase n) F.CH_STAT_SPARE }
  let s := { s with blocks := s.blocks.set p (b' :: bs.filter fun x => x.ch ≠ n) }.putRing
    (s.blockBase p n b.seq) 4096 (itemWords b.items) it.words
  if it.kind = .ovf || decide (itemWords b'.items ≥ 4096) then s.closeBlock p n else s

/-- The stream partition, if any, that carries a channel. -/
def State.streamOf (s : State) (n : Ch) : Option (Fin 32) := (List.finRange 32).find? fun p => s.streams p n

/-- Whether a channel places demand on the Vat write port (R162). -/
def State.captured (s : State) (n : Ch) : Bool :=
  (allUnits.any fun u => (s.tuState u == tuArmed || s.tuState u == tuPost) && (s.tu u).rings.any fun r => r.ch = n) ||
  (s.streamOf n).isSome

/-- An item the write port writes goes to the ring, record or block (R14). -/
def State.writeItem (n : Ch) (it : VItem) (s : State) : State :=
  let s := s.forAll allUnits fun u s => s.unitItem u n it
  match s.streamOf n with
  | some p => s.blockItem p n it
  | none => s

/-- Whether a stream partition has no free block for the channel (R164): the channel then stalls. -/
def State.blockFull (s : State) (n : Ch) : Bool :=
  match s.streamOf n with
  | none => false
  | some p =>
    match (s.blocks[p]).find? (fun b => b.ch = n) with
    | none => false
    | some b => decide (b.out ≥ s.blockSegs p)

/-- Whether an entry of channel n lies before the instant at which the unit that captures it was armed:
the fresh ring starts after it (R152, R153). -/
def State.beforeArm (s : State) (n : Ch) (time : Int) : Bool :=
  allUnits.any fun u => (s.tuState u == tuArmed || s.tuState u == tuPost) &&
    (s.tu u).rings.any (fun r => r.ch = n) && decide (time < Int.ofNat (s.tu u).armAt)

/-- The words of the write port that an entry takes: none while the channel places no demand (R162), and
none for an entry of before the instant of arming. -/
def State.vatCost (s : State) (n : Ch) (e : FEntry) : Nat :=
  if s.captured n then itemWords ((s.vatItems n e).filter fun i => !s.beforeArm n i.time) else 0

end Sys2Proof.Machine
end

