-- ==== Sys2Proof/Machine/Signals.lean ====
section
/-!
DEFINITION. The capture side of a channel: the input FIFO and its markers (R84, R87, R337), blind
intervals (R60), the gate logic (R92-R97), the TDAC's applications and parking (R58-R62), and the
application of measurement shadows (R282).
-/

namespace Sys2Proof.Machine

/-! ### Input FIFO -/

/-- Entries the FIFO holds, and of them the main entries (R84). -/
def fifoDepth : Nat := 260
def fifoMain : Nat := 256

/-- Markers held in the qualifier go into entries that have freed, in order (R337). -/
def Chan.flushHeld (c : Chan) : Chan :=
  let room := fifoDepth - c.fifo.length
  { c with fifo := c.fifo ++ c.held.take room, held := c.held.drop room }

/-- Whether the absolute stamp precedes a marker that is written now: after an overflow it waits for the
next accepted edge (R84, R87). -/
def Chan.stampsMarker (c : Chan) : Bool :=
  c.stampDue && !(match c.blind with | some b => b.causes.ovf | none => false)

/-- Writes a marker, behind the absolute stamp where one is due (R87), or holds it where no entry is free
or an earlier one is held (R337). -/
def Chan.pushMarker (m : FEntry) (c : Chan) : Chan :=
  { c with held := c.held ++ (if c.stampsMarker then [FEntry.abs, m] else [m]), stampDue := c.stampDue && !c.stampsMarker }.flushHeld

/-- Writes an OVF marker: an absolute stamp that is due waits for the next accepted edge (R84). -/
def Chan.pushOvf (m : FEntry) (c : Chan) : Chan := { c with held := c.held ++ [m] }.flushHeld

/-- Whether an edge could still fall within 160 tk of the last accepted one (R81). -/
def Chan.windowOpen (upto : Nat) (c : Chan) : Bool :=
  match c.lastAcc with
  | some (raw, _, _) => decide (upto < raw + 160)
  | none => false

/-- The CROWD marker of the last accepted edge and the markers that waited behind it are written (R82). -/
def Chan.settleAll (c : Chan) : Chan :=
  let c := match c.crowd with
    | some k => { c with crowd := none }.pushMarker (.crowd k.n k.rising k.e k.raw k.cap)
    | none => c
  let later := c.later
  (later.foldl (fun (c : Chan) (m : FEntry) => c.pushMarker m) { c with later := [] }).flushHeld

/-- Once the spacing window of the last accepted edge is past, its CROWD marker and the markers
that waited behind it are written (R82). -/
def Chan.settle (upto : Nat) (c : Chan) : Chan :=
  if c.windowOpen upto then c else c.settleAll

/-- Writes a marker in time order behind the spacing window. -/
def Chan.marker (now : Nat) (m : FEntry) (c : Chan) : Chan :=
  let c := c.settle now
  if c.windowOpen now then { c with later := c.later ++ [m] } else c.pushMarker m

/-! ### Blind intervals -/

def Causes.none : Causes := { ovf := false, tdac := false, pinTest := false, spare := false }
def Causes.or (a b : Causes) : Causes :=
  { ovf := a.ovf || b.ovf, tdac := a.tdac || b.tdac, pinTest := a.pinTest || b.pinTest, spare := a.spare || b.spare }

/-- Starts a blind interval, or extends the one that runs (R60). -/
def State.startBlind (n : Ch) (start : BlindStart) (c : Causes) (count endBy : Nat) (ovf test : Bool) (s : State) : State :=
  s.modChan n fun x =>
    match x.blind with
    | some b => { x with blind := some { b with causes := b.causes.or c, count := b.count + count, endBy := max b.endBy endBy,
                                                ovfWait := b.ovfWait || ovf, testWait := b.testWait || test } }
    | none => { x with blind := some { start := start, causes := c, count := count, endBy := endBy, ovfWait := ovf, testWait := test } }

/-- The end of a blind interval: its BLIND marker is written and the decimation counter restarts
(R60, R83, R88). -/
def State.writeBlind (n : Ch) (b : BlindSt) (s : State) : State :=
  let m := FEntry.blind b.start s.now b.causes b.count
  let s := s.modChan n fun x => { (x.marker s.now m) with blind := none, decCount := 0 }
  ((s.raise (chBase n) F.CH_STAT_BLIND).setF (chBase n) F.CH_STAT_OVF_BLIND 0).setF (chBase n) F.CH_PIN_BLIND_T 0

/-- Ends the interval if nothing extends it and its marker finds a free entry (R337). -/
def State.tryEndBlind (n : Ch) (s : State) : State :=
  let c := (s.chan n).settle s.now
  match c.blind with
  | none => s
  | some b =>
    if b.ovfWait || b.testWait || decide (s.now < b.endBy) then s
    else if c.held.isEmpty && decide (c.fifo.length < fifoDepth) then s.writeBlind n b
    else s

/-- Parking or disabling ends a running blind interval at that instant (R60). -/
def State.cutBlind (n : Ch) (s : State) : State :=
  match (s.chan n).blind with
  | some b => s.writeBlind n b
  | none => s

/-! ### The threshold calibration's idle route -/

/-- 2.5 microseconds, the settling of R59 and R60; 2 microseconds, that of R58. -/
def settlePark : Nat := 1600000
def settleCode : Nat := 1280000

/-- Abandons a running threshold calibration (R205): ABORTED is set; by the idle route the threshold
returns within 2.5 microseconds and the blind interval ends at the return. -/
def State.abandonThrOf (f : FrontEnd) (n : Ch) (s : State) : State :=
  let x := s.fe f
  let s := (s.setFe f { x with idleRoute := false, slot := false, running := false }).raise (feBase f) F.CH_CAL_STAT_ABORTED
  let s := s.setF (feBase f) F.CH_CAL_STAT_PHASE 7
  if x.idleRoute then
    s.modChan n fun c => { c with blind := c.blind.map fun b => { b with endBy := s.now + settlePark, testWait := false } }
  else s

/-- The same of a channel's own front end. -/
def State.abandonThr (n : Ch) (s : State) : State := s.abandonThrOf (Ch.fe n) n

/-- The front end that carries a channel's stream: the spare while it stands in. -/
def State.serving (s : State) (n : Ch) : FrontEnd :=
  if s.fb (chBase n) F.CH_STAT_SPARE then spareFe (Ch.spareOf n) else Ch.fe n

/-- An action that breaks the idle conditions abandons a threshold calibration that runs by the
idle route (R205), of the channel's own front end or of the spare that stands in. -/
def State.breakIdle (n : Ch) (s : State) : State :=
  let x := s.fe (s.serving n)
  if x.running && x.idleRoute then s.abandonThrOf (s.serving n) n else s

/-! ### Gates -/

/-- CH_GATE in force, in tk. -/
def State.gateLen (s : State) (n : Nat) : Nat := s.act n F.CH_GATE_H_G * 2 ^ 32 + s.act n F.CH_GATE_L_G

/-- The settings a gate opened now works under. -/
def State.gateCfg (s : State) (n : Ch) : GateCfg :=
  let a := chBase n + 0x800
  let part := s.w (a + R.CH_PART)
  { func := s.w (a + R.CH_FUNC), dec := s.w (a + R.CH_DEC), part := part,
    partDec := s.w (chBase (F.CH_PART_PCH.of part) + 0x800 + R.CH_DEC),
    tito := s.act n F.CH_TITO_H_T * 2 ^ 32 + s.act n F.CH_TITO_L_T, gate := s.gateLen n,
    nom := s.act n F.CH_NOM_H_P * 2 ^ 32 + s.act n F.CH_NOM_L_P }

/-- Gates run while the function and the channel are enabled and the channel is not parked (R92). -/
def State.gatesRun (s : State) (n : Ch) : Bool := s.actB n F.CH_FUNC_FEN && s.live n

/-- The longest an external gate stays open (R92). -/
def extLimit : Nat := 640000000000000

/-- The gate that is open, if one is. -/
def Chan.openGate? (c : Chan) : Option GateRec := c.gates.find? fun g => !g.ended

/-- The Allan deviation history and sums cleared (R112). -/
def Carry.clearAdev (c : Carry) : Carry :=
  { c with adHist := [], adF0 := none, adCycles := 0, adSums := Carry.start.adSums }

/-- The function applied anew at `t` anchors the TIE line at the first entry from then on, and again at a
later instant that TIE_RST has set (R108). -/
def Carry.retie (t : Nat) (c : Carry) : Carry :=
  { c with tieFrom := some (max (Int.ofNat t * 16) (c.tieFrom.getD 0)), tieLine := none, tieResume := false, fit := none }

/-- What a reducer starts a gate with. A fresh application carries nothing in but the Allan
deviation sums and what entries outside gates have made of the TIE line (R92, R108, R112). -/
def Carry.enter (g : GateRec) (c : Carry) : Carry :=
  let c := if g.fresh then
      { Carry.start with adSums := c.adSums, tieLine := c.tieLine, tieFrom := c.tieFrom, tieResume := c.tieResume }
    else c
  let c := match g.tieAt with | some t => c.retie t | none => c
  if g.adevClr then c.clearAdev else c

/-- The next multiple of g on the ETS64 scale after instant t (R93): an ETS64 wrap is one. -/
def nextMultiple (t g : Nat) : Nat :=
  min (t - t % 2 ^ 64 % g + g) ((t / 2 ^ 64 + 1) * 2 ^ 64)

/-- Opens a gate at `t` (R92, R93), which breaks the idle conditions (R205). -/
def State.openGate (n : Ch) (t : Nat) (s : State) : State :=
  let s := s.breakIdle n
  let c := s.chan n
  let fresh := c.freshDue
  let cfg := s.gateCfg n
  let g := max 1 (s.gateLen n)
  let mode := cfg.gmode
  let aligned := s.actB n F.CH_FUNC_GALIGN && decide (mode = 0)
  let close := if mode = 2 then t + extLimit else if aligned then nextMultiple t g else t + g
  let dec := if s.actB n F.CH_DEC_GSYNC then 0 else c.decCount
  let r : GateRec :=
    { openAt := t, closeAt := some close, ended := false, seq := c.nextSeq, resOpen := dec,
      cut := aligned && decide (t % 2 ^ 64 % g ≠ 0), cutEnd := false, early := false, refchg := none,
      spare := if s.fb (chBase n) F.CH_STAT_SPARE then some t else none, fresh := fresh, adevClr := c.adClrDue,
      tieAt := c.tieAt, cfg := cfg }
  let red := if c.gates.isEmpty && fresh then
      { c.red with carry := c.red.carry.enter r, acc := Acc.empty, ownQ := [], partQ := [] }
    else if c.gates.isEmpty then { c.red with carry := c.red.carry.enter r }
    else c.red
  s.setChan n { c with gates := c.gates ++ [r], nextSeq := c.nextSeq + 1#32, decCount := dec, red := red,
                       freshDue := false, adClrDue := false, tieAt := none }

/-- Closes the open gate at `t`: the gate-end marker goes into the channel's FIFO, and a foreign
copy into the partner's (R89, R97). Of more than 255 gate ends counted the marker says 255, and the gates
beyond stay unreported (DESIGN CHOICE, log 94). -/
def State.endGate (n : Ch) (t : Nat) (cut early : Bool) (s : State) : State :=
  let c := s.chan n
  match c.openGate? with
  | none => s
  | some g =>
    let c := { c with gates := c.gates.map fun (x : GateRec) =>
      if x.ended then x else { x with ended := true, closeAt := some t, cutEnd := cut, early := early } }
    let c := c.settle s.now
    let full := !c.held.isEmpty || decide (c.fifo.length ≥ fifoDepth)
    let ovfB := match c.blind with | some b => b.causes.ovf | none => false
    let blindB := c.blind.isSome
    let c := if full then { c with gateHeld := c.gateHeld + 1 }
      else { c with gateHeld := 0 }.marker s.now
        (.gateEnd t (g.seq.setWidth 16) c.decCount (g.cut || cut) (min (c.gateHeld + 1) 255) ovfB blindB)
    let s := ((s.setChan n c).setF (chBase n) F.CH_GSEQ_GSEQ g.seq.toNat).count (chBase n + R.CH_GATES_H) 1
    if g.cfg.usesPartner n && !full then
      s.modChan (chOf g.cfg.pch) fun p =>
        p.marker s.now (.foreign n t (match p.blind with | some b => b.causes.ovf | none => false) p.blind.isSome)
    else s

/-! ### A spare's time with a channel -/

/-- A spare's time with a channel begins, in the open record and block of the channel (R158). -/
def State.spareBegins (n : Ch) (s : State) : State :=
  { s with
    units := s.units.map fun u => { u with rings := u.rings.map fun (r : Ring) =>
      if r.ch = n && r.closed.isNone then
        { r with spare := match r.spare with | some (a, none) => some (a, none) | _ => some (s.now, none) } else r }
    blocks := s.blocks.map fun bs => bs.map fun (b : Block) => if b.ch = n && !b.items.isEmpty then { b with spare := true } else b }

/-- It ends. -/
def State.spareEnds (n : Ch) (s : State) : State :=
  { s with units := s.units.map fun u => { u with rings := u.rings.map fun (r : Ring) =>
      if r.ch = n && r.closed.isNone then { r with spare := r.spare.map fun p => (p.1, some (p.2.getD s.now)) } else r } }

/-- A handover or hand-back completes in the open gate of a channel, or a forced cut lies in it (R98). -/
def State.markSpare (n : Ch) (s : State) : State :=
  s.modChan n fun c => { c with gates := c.gates.map fun (g : GateRec) =>
    if g.ended then g else { g with spare := g.spare.or (some s.now) } }

/-! ### Parking and applying codes -/

/-- The spare's handover or hand-back of channel n that is in progress. -/
def State.handoverOf (s : State) (n : Ch) : Bool :=
  let b := spBase (Ch.spareOf n)
  decide (s.f b F.SP_STAT_STATE = 1 ∨ s.f b F.SP_STAT_STATE = 3) && decide (s.f b F.SP_STAT_CUR = n.val % 16)

/-- Disabling a channel abandons its handover (R72): the spare idles. -/
def State.abandonHandover (n : Ch) (s : State) : State :=
  if s.handoverOf n then
    let p := Ch.spareOf n
    let s := if s.f (spBase p) F.SP_STAT_OWNER = 2 then s.abandonThr n else s
    (((((s.setF (spBase p) F.SP_STAT_STATE 0).setF (spBase p) F.SP_STAT_OWNER 0).raise (spBase p) F.SP_STAT_HO_FAIL).setF
      (chBase n) F.CH_STAT_SPARE 0).setSpare p { SpareSt.reset with gaveUp := (s.spare p).gaveUp }).spareEnds n
  else s

/-- The front ends that hold channel n's threshold: its own, and the spare once it is loaded for the
channel or stands in (R70). -/
def State.thresholdFes (s : State) (n : Ch) : List FrontEnd :=
  let p := Ch.spareOf n
  let b := spBase p
  let loaned := decide (s.f b F.SP_STAT_STATE = 2 ∨ s.f b F.SP_STAT_STATE = 3) ||
    (decide (s.f b F.SP_STAT_STATE = 1) && decide ((s.spare p).stage ≥ 2))
  if loaned && decide (s.f b F.SP_STAT_CUR = n.val % 16) then [Ch.fe n, spareFe p] else [Ch.fe n]

/-- The code a modulator receives (R203), in code steps of the range. -/
def State.modulatorCode (s : State) (f : FrontEnd) (range2 diff : Bool) (code : Nat) : Rat :=
  let k := feBlock f
  let g := (s.calW (k + (if range2 then 3 else 1))).toNat
  let o := signExt 32 (s.calW (k + (if range2 then 4 else 2))).toNat
  let c := signExt 32 (s.calW k).toNat
  (code : Rat) * (g : Rat) / 1073741824 + (o : Rat) / 16 +
    (if diff then (c : Rat) / (if range2 then 32 else 16) else 0)

/-- A front end's TDAC takes a channel's word in force, with the TDAC values of that instant (R203, R215). -/
def State.loadTdac (n : Ch) (f : FrontEnd) (s : State) : State :=
  let w := s.w (chBase n + 0x800 + R.CH_TDAC)
  let m := s.modulatorCode f (decide (F.CH_TDAC_RANGE.of w = 1)) (s.actB n F.CH_CFG_DIFF) (F.CH_TDAC_CODE.of w)
  s.modFe f fun x => { x with tdac := some (BitVec.ofNat 32 (bitsGet w 0 22), m) }

/-- Parks a channel's TDAC (R59, R61): the channel is blind, an open gate closes with TRUNC and
CUT, records close with STOP, a handover in progress is abandoned with HO_FAIL (R72). What the qualifier
holds is written first (R82). The strobe of an immediate write that has not come is dropped
(DESIGN CHOICE, log 22). -/
def State.park (n : Ch) (s : State) : State :=
  let s := s.abandonHandover n
  if s.fb (chBase n) F.CH_PIN_PARKED && (s.chan n).parkEnd.isNone then s
  else
    let s := s.modChan n fun c => { c.settleAll with lastAcc := none }
    let s := s.cutBlind n
    let s := (s.endGate n s.now true true).closeRecords n .stop
    let s := s.forAll (s.thresholdFes n) fun f s => s.modFe f fun x => { x with tdac := none }
    let s := s.modChan n fun c => { c with parkEnd := none, strobes := [], settleBy := 0, freshDue := true, tieAt := some s.now }
    ((s.setF (chBase n) F.CH_PIN_PARKED 1).setF (chBase n) F.CH_PIN_SETTLING 0).setF (chBase n) F.CH_PIN_BLIND_T 0

/-- A change of range or input mode takes effect at `t`: blind for 2.5 microseconds, or an extension of
the park that an unpark began (R59, R60); a handover in progress restarts at its second row (R72). -/
def State.modeChange (n : Ch) (t : Nat) (s : State) : State :=
  let c := s.chan n
  if s.fb (chBase n) F.CH_PIN_PARKED then
    match c.parkEnd with
    | some _ => s.setChan n { c with parkEnd := some (t + settlePark) }
    | none => s
  else
    let s := (s.startBlind n { raw := t, edge := none } { Causes.none with tdac := true } 0 (t + settlePark) false false).setF
      (chBase n) F.CH_PIN_BLIND_T 1
    if s.handoverOf n then
      s.setSpare (Ch.spareOf n) { s.spare (Ch.spareOf n) with stage := 1, startAt := t + settlePark - 25600 }
    else s

/-- The TDAC shadow that a boundary at `t` applies, and whether a code has been written by then: a shadow
written in the boundary's own MCLK cycle waits, and what stood before it applies (R63). -/
def State.tdacAt (s : State) (n : Ch) (t : Nat) : Word × Bool × Bool :=
  match (s.chan n).tdacLate with
  | some (cyc, w, wr) =>
    if t < cyc + 2048 then (w, wr, true) else (s.w (chBase n + R.CH_TDAC), (s.chan n).tdacWritten, false)
  | none => (s.w (chBase n + R.CH_TDAC), (s.chan n).tdacWritten, false)

/-- Applies a channel's TDAC shadow at boundary `t` (R58-R61), with a queue's code in place of the shadow's
in paced mode (R64). Before READY and on a fused-off channel the shadow is kept. -/
def State.applyTdac (n : Ch) (t : Nat) (code : Option (BitVec 18)) (s : State) : State :=
  if !s.ready || s.fusedOff n then s
  else
    let a := chBase n
    let (sh, written, waits) := s.tdacAt n t
    let sh := match code with | some c => F.CH_TDAC_CODE.into sh c.toNat | none => sh
    let old := s.w (a + 0x800 + R.CH_TDAC)
    let new := bitsSet old 0 22 (bitsGet sh 0 22)
    let s := (s.setW (a + 0x800 + R.CH_TDAC) new).modChan n fun c => { c with tdacPend := c.tdacPend && waits }
    if !s.actB n F.CH_CFG_EN then s
    else
      let parked := s.fb a F.CH_PIN_PARKED
      let unparks := parked && (s.chan n).parkEnd.isNone && (written || code.isSome)
      let s := if unparks then s.modChan n fun c => { c with parkEnd := some (t + settlePark) }
        else if F.CH_TDAC_RANGE.of old ≠ F.CH_TDAC_RANGE.of new then s.modeChange n t
        else s
      let s := if parked && (s.chan n).parkEnd.isNone then s else s.forAll (s.thresholdFes n) fun f s => s.loadTdac n f
      if unparks || bitsGet old 0 22 ≠ bitsGet new 0 22 then
        (s.modChan n fun c => { c with settleBy := t + settleCode }).setF a F.CH_PIN_SETTLING 1
      else s

/-! ### Applying measurement shadows -/

/-- The RWS registers that apply at gate ends (R282), by offset. -/
def gateShadows : List Nat :=
  [R.CH_CFG, R.CH_DEC, R.CH_FUNC, R.CH_GATE_H, R.CH_GATE_L, R.CH_PART, R.CH_TITO_H, R.CH_TITO_L, R.CH_NOM_H, R.CH_NOM_L,
   R.CH_HG_CTL, R.CH_HG_NB, R.CH_HG_LO_H, R.CH_HG_LO_L, R.CH_LV_CTL, R.CH_LV_LO_H, R.CH_LV_LO_L, R.CH_LV_HI_H, R.CH_LV_HI_L]

/-- The RWS bits of a channel register. -/
def rwsMask (off : Nat) : Word :=
  match chanRows.find? (fun r => r.covers off) with
  | some r => r.mask fun f => f.acc == .rws
  | none => 0#32

/-- Copies one shadow value into force. -/
def State.forceWord (n : Ch) (off : Nat) (w : Word) (s : State) : State :=
  let m := rwsMask off
  s.setW (chBase n + 0x800 + off) ((w &&& m) ||| (s.w (chBase n + 0x800 + off) &&& ~~~m))

/-- The termination a TERM code stands for: only 0b01 terminates (R54). -/
def termOf (code : Nat) : Nat := if code = 1 then 1 else 0

/-- The input mode of a CH_CFG word: DIFF, PAIR, INV and effective termination (R60). -/
def inputMode (w : Word) : Nat × Nat × Nat × Nat :=
  (F.CH_CFG_DIFF.of w, F.CH_CFG_PAIR.of w, F.CH_CFG_INV.of w, termOf (F.CH_CFG_TERM.of w))

/-- The bins of channel n's histogram in force as [first, last) logical words: both halves (R168). -/
def State.hgSpan (s : State) (n : Nat) : Nat × Nat :=
  let lo := s.act n F.CH_HG_CTL_BASE * 16384
  (lo, lo + (s.act n F.CH_HG_NB_NB + 2) * (1 + s.act n F.CH_HG_CTL_DBUF))

/-- The physical Lake word of a logical one: a spare whose copy is done stands in for its bank
(R176). -/
def State.lakePhys (s : State) (a : Nat) : Nat :=
  match allSpares.find? (fun (p : Spare) => s.tvB 0 (F.DEV_LK_SPMAP_VALID.at 4 p.val) && s.fb 0 (F.DEV_LK_SPMAP_DONE.at 4 p.val) &&
      decide (s.tvF 0 (F.DEV_LK_SPMAP_BANK.at 4 p.val) = a / 16384)) with
  | some p => (128 + p.val) * 16384 + a % 16384
  | none => a

/-- The spare bank into which a logical bank is being copied, if one is: updates go to both (R176). -/
def State.lakeCopy (s : State) (bank : Nat) : Option Spare :=
  allSpares.find? fun (p : Spare) => s.tvB 0 (F.DEV_LK_SPMAP_VALID.at 4 p.val) && !s.fb 0 (F.DEV_LK_SPMAP_DONE.at 4 p.val) &&
    decide (s.tvF 0 (F.DEV_LK_SPMAP_BANK.at 4 p.val) = bank)

/-- The second physical word that an update of a logical one goes to. -/
def State.lakeAlso (s : State) (a : Nat) : Option Nat :=
  (s.lakeCopy (a / 16384)).map fun p => (128 + p.val) * 16384 + a % 16384

/-- Clears physical Lake words [lo, hi). -/
def State.zeroLake (lo hi : Nat) (s : State) : State :=
  { s with lake := s.lake.filter fun e => !(decide (lo ≤ e.1) && decide (e.1 < hi)),
           lakeCE := s.lakeCE.filter fun a => !(decide (lo ≤ a) && decide (a < hi)),
           lakeUE := s.lakeUE.filter fun a => !(decide (lo ≤ a) && decide (a < hi)),
           lakeZero := (lo, hi) :: s.lakeZero.filter fun r => !(decide (lo ≤ r.1) && decide (r.2 ≤ hi)) }

/-- Clears logical words [lo, hi), bank by bank, where they are read from (R173, R176). -/
def State.clearLake (lo hi : Nat) (s : State) : State :=
  s.forAll (List.range 128) fun b s =>
    let l := max lo (b * 16384)
    let h := min hi ((b + 1) * 16384)
    if l < h then
      let s' := s.zeroLake (s.lakePhys l) (s.lakePhys l + (h - l))
      match s.lakeAlso l with
      | some q => s'.zeroLake q (q + (h - l))
      | none => s'
    else s

/-- Clears a channel's histogram and starts the sweep (R169, R173). -/
def State.clearHist (n : Ch) (s : State) : State :=
  let sp := s.hgSpan n
  (((s.clearLake sp.1 sp.2).setPair (chBase n + R.CH_HG_TOT_H) 0).setF (chBase n) F.CH_HG_STAT_CLR_BUSY 1).modChan n
    fun c => { c with hgClrAt := s.now }

/-- CH_DEC with D = 1 and POL = both, which Mordant needs (R125). -/
def decFull (w : Word) : Bool := decide (F.CH_DEC_DM1.of w = 0) && decide (F.CH_DEC_POL.of w % 3 = 0)

/-- A change of G, FEN or FUNC ends LTADEV for the channel (R183). -/
def State.ltEnd (n : Ch) (s : State) : State :=
  { s with indigo := { s.indigo with calls := s.indigo.calls.map fun (k : Call) =>
      { k with lt := k.lt.map fun l => if l.ch = n then { l with ended := true } else l } } }

/-- Puts a channel's written measurement shadows into force and does what each application does:
input-mode changes blind (R60), EN parks or enables (R61), CH_DEC restarts the decimation counter
(R83), geometry clears the histogram (R169). Where the function starts afresh or the Allan deviation
sums clear, the next gate is told (R108, R112, R113). A boundary at `t` applies the previous value
of a shadow written in the MCLK cycle that holds it, and the new value waits (R288). A change of what the reducer's stream is,
or of how it measures, starts the function afresh; another change of CH_FUNC or of CH_NOM anchors
the TIE line anew; G and T_to alone do neither (DEDUCED, log 30). -/
def State.applyShadows (n : Ch) (t : Nat) (s : State) : State :=
  let a := chBase n
  let late := (s.chan n).late.filter fun l => decide (t < l.2.1)
  let waits (o : Nat) : Bool := late.any fun l => l.1 == o
  let prev (o : Nat) : Option Word := (late.find? fun l => l.1 == o).bind (·.2.2)
  let dec : Option Word :=
    if !(s.chan n).dirty.contains R.CH_DEC then none else if waits R.CH_DEC then prev R.CH_DEC else some (s.w (a + R.CH_DEC))
  let held := s.fb a F.CH_MD_CTL_EN && (match dec with | some w => !decFull w | none => false)
  let s := if held then s.raise a F.CH_MD_STAT_EN_REJ else s
  let todo := (s.chan n).dirty.filter fun o => gateShadows.contains o && !(held && o == R.CH_DEC) && !(waits o && (prev o).isNone)
  if todo.isEmpty then s
  else
    let cfg0 := s.w (a + 0x800 + R.CH_CFG)
    let fn0 := s.w (a + 0x800 + R.CH_FUNC)
    let dec0 := s.w (a + 0x800 + R.CH_DEC)
    let part0 := s.w (a + 0x800 + R.CH_PART)
    let g0 := s.gateLen n
    let s := s.forAll todo fun o s => s.forceWord n o ((prev o).getD (s.w (a + o)))
    let s := s.modChan n fun c => { c with dirty := c.dirty.filter (fun o => waits o || !todo.contains o), late := late }
    let cfg1 := s.w (a + 0x800 + R.CH_CFG)
    let fn1 := s.w (a + 0x800 + R.CH_FUNC)
    let en0 := F.CH_CFG_EN.of cfg0
    let en1 := F.CH_CFG_EN.of cfg1
    let s := if en1 = 0 && en0 = 1 then s.park n
      else if inputMode cfg0 ≠ inputMode cfg1 then s.modeChange n s.now else s
    let s := if en0 = 0 && en1 = 1 then s.modChan n fun c => { c with decCount := 0, stampDue := true, lastEdge := none } else s
    let s := if todo.contains R.CH_DEC then s.modChan n fun c => { c with decCount := 0 } else s
    let s := if todo.any (fun o => o == R.CH_HG_CTL || o == R.CH_HG_NB || o == R.CH_HG_LO_H || o == R.CH_HG_LO_L) then s.clearHist n else s
    let g1 := s.gateLen n
    let restart := (F.CH_FUNC_FEN.of fn0 = 0 ∧ F.CH_FUNC_FEN.of fn1 = 1) ∨ F.CH_FUNC_FUNC.of fn0 ≠ F.CH_FUNC_FUNC.of fn1 ∨
      F.CH_FUNC_GMODE.of fn0 ≠ F.CH_FUNC_GMODE.of fn1 ∨ g0 ≠ g1
    let adClr := g0 ≠ g1 ∨ F.CH_FUNC_FEN.of fn0 ≠ F.CH_FUNC_FEN.of fn1 ∨ F.CH_FUNC_ADEV.of fn0 ≠ F.CH_FUNC_ADEV.of fn1
    let stream (f w : Word) : List Nat := [F.CH_FUNC_FEN.of f, F.CH_FUNC_FUNC.of f, F.CH_FUNC_GMODE.of f, F.CH_FUNC_SIGNED.of f, w.toNat]
    let refn := stream fn0 dec0 ≠ stream fn1 (s.w (a + 0x800 + R.CH_DEC)) ∨ part0 ≠ s.w (a + 0x800 + R.CH_PART)
    let retie := fn0 ≠ fn1 ∨ todo.contains R.CH_NOM_H ∨ todo.contains R.CH_NOM_L
    let s := if g0 ≠ g1 ∨ F.CH_FUNC_FEN.of fn0 ≠ F.CH_FUNC_FEN.of fn1 ∨ F.CH_FUNC_FUNC.of fn0 ≠ F.CH_FUNC_FUNC.of fn1 then s.ltEnd n else s
    s.modChan n fun c => { c with nextSeq := (if restart then 0#32 else c.nextSeq),
                                  freshDue := c.freshDue || decide refn, adClrDue := c.adClrDue || decide adClr,
                                  tieAt := (if decide refn || decide retie then some t else c.tieAt) }

/-- With no gate open, continuous gating opens a gate as soon as gates run (R92). -/
def State.startGating (n : Ch) (t : Nat) (s : State) : State :=
  if s.gatesRun n && (s.chan n).openGate?.isNone && decide (s.act n F.CH_FUNC_GMODE % 3 = 0) then s.openGate n t else s

/-- A gate close at `t`, the shadows' application, and the next continuous gate (R92, R97). -/
def State.closeGateAt (n : Ch) (t : Nat) (cut : Bool) (s : State) : State :=
  ((s.endGate n t cut false).applyShadows n t).startGating n t

/-- A shadow was written: with no gate open it applies at once, at the instant of R94, which the
access reaches; gating starts if it can. -/
def State.shadowWritten (n : Ch) (off : Nat) (s : State) : State :=
  let s := s.modChan n fun c => { c with dirty := if c.dirty.contains off then c.dirty else c.dirty ++ [off] }
  if (s.chan n).openGate?.isSome then s
  else
    let s := s.reach s.mclkNext
    (s.applyShadows n s.now).startGating n s.now

/-- A write of a shadow by software: the value that waited before it is remembered until the MCLK
cycle ends (R288). -/
def State.putShadow (n : Ch) (off : Nat) (w : Word) (s : State) : State :=
  let t := s.mclkNext
  let c := s.chan n
  let late := c.late.filter fun l => decide (s.now < l.2.1)
  let late := if late.any fun l => l.1 == off then late
    else late ++ [(off, t, if c.dirty.contains off then some (s.w (chBase n + off)) else none)]
  ((s.setChan n { c with late := late }).setW (chBase n + off) w).shadowWritten n off

/-- Marks a reference change in every open gate, record and block (R37, R98, R158). -/
def State.markRefchg (s : State) : State :=
  { s with
    chans := s.chans.map fun c => { c with gates := c.gates.map fun (g : GateRec) =>
      if g.ended then g else { g with refchg := g.refchg.or (some s.now) } }
    units := s.units.map fun u => { u with rings := u.rings.map fun (r : Ring) =>
      if r.closed.isNone then { r with refchg := some s.now } else r }
    blocks := s.blocks.map fun bs => bs.map fun (b : Block) => if b.items.isEmpty then b else { b with refchg := true } }

end Sys2Proof.Machine
end

