-- ==== Sys2Proof/Machine/LakeOps.lean ====
section
/-!
DEFINITION. The Lake (R168-R176): bins, updates, clears and snapshots, readout with its ECC, and
the spare banks.
-/

namespace Sys2Proof.Machine

/-! ### Bins -/

/-- The word at a physical address, where `a` is its logical address; a word that nothing has
written since power-on is undefined (R308). -/
def State.lakeVal (s : State) (a phys : Nat) : Word :=
  match sparseGet vatNone s.lake phys with
  | some w => w
  | none => if s.lakeZero.any fun (r : Nat × Nat) => decide (r.1 ≤ phys) && decide (phys < r.2) then 0#32 else Config.lakeWord s.boots a

/-- The channels whose histogram in force uses a logical word. -/
def State.hgOwners (s : State) (a : Nat) : List Ch :=
  allCh.filter fun n => let sp := s.hgSpan n; decide (s.act n F.CH_HG_CTL_SRC ≠ 0) && decide (sp.1 ≤ a) && decide (a < sp.2)

/-- Stores a Lake word at its physical address; the write ends an error there. -/
def State.putLakeAt (p : Nat) (w : Word) (s : State) : State :=
  { s with lake := sparsePut vatNone s.lake p (some w), lakeUE := s.lakeUE.erase p, lakeCE := s.lakeCE.erase p }

/-- Stores a bin at its logical address, and in the spare bank that is being filled in its place (R176). -/
def State.putLake (a : Nat) (w : Word) (s : State) : State :=
  let s' := s.putLakeAt (s.lakePhys a) w
  match s.lakeAlso a with
  | some q => s'.putLakeAt q w
  | none => s'

/-- The channels whose histogram an uncorrectable bin is in: those that count there; else those whose banks,
with SRC off, these are (R168). -/
def State.hgHolders (s : State) (a : Nat) : List Ch :=
  if (s.hgOwners a).isEmpty then allCh.filter fun n => let sp := s.hgSpan n; decide (sp.1 ≤ a) && decide (a < sp.2)
  else s.hgOwners a

/-- Reads the word at physical address `p`, read as logical address `a` (R175). A corrected word is
written back; an uncorrectable one reads all ones. -/
def State.readLakeAt (a p : Nat) (s : State) : Word × State :=
  if s.lakeUE.contains p then
    let s := (s.count R.DEV_LK_UE_H 1).raise 0 F.DEV_LK_STAT_UE
    (0xFFFFFFFF#32, s.forAll (s.hgHolders a) fun n s => s.raise (chBase n) F.CH_HG_STAT_UE)
  else if s.lakeCE.contains p then
    (s.lakeVal a p, { ((s.count R.DEV_LK_CE_H 1).raise 0 F.DEV_LK_STAT_CE) with lakeCE := s.lakeCE.erase p })
  else (s.lakeVal a p, s)

/-- Reads a bin. -/
def State.readLake (a : Nat) (s : State) : Word × State := s.readLakeAt a (s.lakePhys a)

/-- Adds one to a bin of channel n (R171); an uncorrectable bin takes no update (R175). -/
def State.bumpBin (n : Ch) (a : Nat) (s : State) : State :=
  let p := s.lakePhys a
  if s.lakeUE.contains p then (s.count (chBase n + R.CH_HG_UEL_H) 1).raise (chBase n) F.CH_HG_STAT_UE
  else
    let v := s.lakeVal a p
    if v = 0xFFFFFFFF#32 then s.raise (chBase n) F.CH_HG_STAT_SAT
    else
      let s' : State := { s with lake := sparsePut vatNone s.lake p (some (v + 1#32)) }
      match s.lakeAlso a with
      | some q => s'.putLakeAt q (v + 1#32)
      | none => s'

/-- LO of the histogram in force, signed. -/
def State.hgLo (s : State) (n : Nat) : Int :=
  signExt 64 (s.act n F.CH_HG_LO_H_VALUE * 2 ^ 32 + s.act n F.CH_HG_LO_L_VALUE)

/-- The bin of a value (R171). -/
def histBin (nb wsh : Nat) (d : Int) : Nat :=
  if d < 0 then 0 else if d.toNat / 2 ^ wsh < nb then d.toNat / 2 ^ wsh + 1 else nb + 1

/-- An update of channel n's histogram with value `v` at time `t` in 1/16 tk: clears and SNAPs cut
the updates by time (R171, R173, R174). One from before the SNAP before the last belongs to a half that has
been cleared since, and only counts. -/
def State.histUpdate (n : Ch) (v : Int) (t : Int) (s : State) : State :=
  let c := s.chan n
  if t < 16 * Int.ofNat c.hgClrAt then s
  else
    let nb := s.act n F.CH_HG_NB_NB
    let dbuf := s.actB n F.CH_HG_CTL_DBUF
    let live := s.f (chBase n) F.CH_HG_STAT_HALF
    let half := if dbuf then (if t < 16 * Int.ofNat c.hgSnapAt then 1 - live else live) else 0
    let bin := histBin nb (s.act n F.CH_HG_CTL_WSH) (v - s.hgLo n)
    let s := if dbuf && decide (t < 16 * Int.ofNat c.hgSnapOld) then s
      else s.bumpBin n (s.act n F.CH_HG_CTL_BASE * 16384 + half * (nb + 2) + bin)
    s.count (chBase n + R.CH_HG_TOT_H) 1

/-- The source units of a measurement (R170): 2^-24 cycle for DUTY and PHASE, else 1/16 tk. -/
def histUnits (fn : Nat) (v : Rat) : Int :=
  if fn = 4 then roundNearest (v * 16777216)
  else if fn = 5 then roundNearest (frac01 v * 16777216) % 16777216
  else roundNearest (v * 16)

/-- The histogram's use of a measurement (R170). -/
def State.histMeas (n : Ch) (fn : Nat) (m : Meas) (s : State) : State :=
  if s.act n F.CH_HG_CTL_SRC = 1 then s.histUpdate n (histUnits fn m.v) m.tl else s

/-! ### Geometry -/

/-- SRC, first bank, banks, bins and halves of a histogram setting. -/
structure HgGeom where
  src : Nat
  base : Nat
  nbank : Nat
  bins : Nat
  deriving DecidableEq, Repr

def hgGeom (ctl nb : Word) : HgGeom :=
  { src := F.CH_HG_CTL_SRC.of ctl, base := F.CH_HG_CTL_BASE.of ctl, nbank := F.CH_HG_CTL_NBM1.of ctl + 1,
    bins := (F.CH_HG_NB_NB.of nb + 2) * (1 + F.CH_HG_CTL_DBUF.of ctl) }

/-- A setting's banks overlap those of another channel's histogram, unless that one is off (R168, R169). -/
def HgGeom.overlaps (a b : HgGeom) : Bool :=
  decide (b.src ≠ 0) && decide (a.base < b.base + b.nbank) && decide (b.base < a.base + a.nbank)

/-- Whether a setting of channel n is acceptable (R168, R169). -/
def State.hgFits (s : State) (n : Ch) (g : HgGeom) : Bool :=
  decide (g.bins ≤ 16384 * g.nbank) && decide (g.base + g.nbank ≤ 128) &&
  allCh.all fun m => m == n ||
    (!g.overlaps (hgGeom (s.w (chBase m + R.CH_HG_CTL)) (s.w (chBase m + R.CH_HG_NB))) &&
     !g.overlaps (hgGeom (s.w (chBase m + 0x800 + R.CH_HG_CTL)) (s.w (chBase m + 0x800 + R.CH_HG_NB))))

/-- Whether a write of CH_HG_LO is acceptable: it leaves the geometry, and its application clears the banks. -/
def State.hgLoFits (s : State) (n : Ch) : Bool :=
  s.hgFits n (hgGeom (s.w (chBase n + R.CH_HG_CTL)) (s.w (chBase n + R.CH_HG_NB)))

/-- A write of CH_HG_CTL or CH_HG_NB (R169); `w` is the word as stored. -/
def State.writeHg (n : Ch) (off : Nat) (w : Word) (s : State) : State :=
  let a := chBase n
  let ctl := if off = R.CH_HG_CTL then w else s.w (a + R.CH_HG_CTL)
  let nb := if off = R.CH_HG_NB then w else s.w (a + R.CH_HG_NB)
  if s.hgFits n (hgGeom ctl nb) then s.putShadow n off w else s.raise a F.CH_HG_STAT_CFG_REJ

/-! ### Clears and snapshots -/

/-- CH_HG_CMD.CLR at the instant of R94, already reached (R173). -/
def State.hgClr (n : Ch) (s : State) : State :=
  if s.fb (chBase n) F.CH_HG_STAT_SVC_OWN then s.raise (chBase n) F.CH_HG_STAT_CMD_REJ else s.clearHist n

/-- CH_HG_CMD.SNAP at the instant of R94, already reached (R174). -/
def State.hgSnap (n : Ch) (s : State) : State :=
  let a := chBase n
  if s.fb a F.CH_HG_STAT_SVC_OWN || !s.actB n F.CH_HG_CTL_DBUF then s.raise a F.CH_HG_STAT_CMD_REJ
  else
    let half := 1 - s.f a F.CH_HG_STAT_HALF
    let nb := s.act n F.CH_HG_NB_NB + 2
    let lo := s.act n F.CH_HG_CTL_BASE * 16384 + half * nb
    (((s.clearLake lo (lo + nb)).setF a F.CH_HG_STAT_HALF half).setF a F.CH_HG_STAT_CLR_BUSY 1).modChan n
      fun c => { c with hgSnapAt := s.now, hgSnapOld := c.hgSnapAt }

/-! ### Spare banks (R176) -/

def spmapA (p : Nat) : Nat := R.DEV_LK_SPMAP + 4 * p
def State.spValid (s : State) (p : Nat) : Bool := s.tvB 0 (F.DEV_LK_SPMAP_VALID.at 4 p)
def State.spBank (s : State) (p : Nat) : Nat := s.tvF 0 (F.DEV_LK_SPMAP_BANK.at 4 p)
def State.spDone (s : State) (p : Nat) : Bool := s.fb 0 (F.DEV_LK_SPMAP_DONE.at 4 p)

/-- SPUSED, COPY and the wear log's copy of the map follow the map (R308). -/
def State.spCount (s : State) : State :=
  let map := (allSpares.filter fun (p : Spare) => s.spValid p.val).map fun (p : Spare) => (p.val, s.spBank p.val)
  let s := { s with wear := { s.wear with lakeMap := map } }
  (s.setF 0 F.DEV_LK_STAT_SPUSED (allSpares.filter fun (p : Spare) => s.spValid p.val).length).setB 0 F.DEV_LK_STAT_COPY
    (allSpares.any fun (p : Spare) => s.spValid p.val && !s.spDone p.val)

/-- A write of DEV_LK_SPMAPs that its guard has admitted. -/
def State.writeSpmap (p : Spare) (w : Word) (s : State) : State :=
  let copying := s.spValid p.val && !s.spDone p.val
  let v := F.DEV_LK_SPMAP_VALID.of w
  let b := F.DEV_LK_SPMAP_BANK.of w
  let taken := decide (v = 1) && allSpares.any fun (q : Spare) => q != p && s.spValid q.val && decide (s.spBank q.val = b)
  if copying || taken then s.raise 0 F.DEV_LK_STAT_CFG_REJ
  else ((s.setTv (spmapA p.val) w).setF 0 (F.DEV_LK_SPMAP_DONE.at 4 p.val) 0).spCount

/-- The copy of a bank into its spare ends: reads move to the spare, which then holds what the bank holds; an
uncorrectable bin keeps its state. -/
def State.spareCopied (p : Spare) (s : State) : State :=
  if s.spValid p.val && !s.spDone p.val then
    let src := s.spBank p.val * 16384
    let dst := (128 + p.val) * 16384
    let inBank (a : Nat) : Bool := decide (src ≤ a) && decide (a < src + 16384)
    let inSpare (a : Nat) : Bool := decide (dst ≤ a) && decide (a < dst + 16384)
    let move (a : Nat) : Nat := a - src + dst
    let words := (s.lake.filter fun e => inBank e.1).map fun e => (move e.1, e.2)
    let bad := (s.lakeUE.filter inBank).map move
    let cleared := s.lakeZero.filterMap fun (r : Nat × Nat) =>
      let l := max r.1 src
      let h := min r.2 (src + 16384)
      if l < h then some (move l, move h) else none
    let base := s.lake.filter fun e => !inSpare e.1
    let lake := (words ++ bad.map fun a => (a, some 0xFFFFFFFF#32)).foldl (fun l e => sparsePut vatNone l e.1 e.2) base
    let outside := s.lakeZero.flatMap fun (r : Nat × Nat) =>
      [(r.1, min r.2 dst), (max r.1 (dst + 16384), r.2)].filter fun x => decide (x.1 < x.2)
    ({ s with lake := lake, lakeZero := cleared ++ outside,
              lakeCE := s.lakeCE.filter (fun a => !inSpare a),
              lakeUE := bad ++ s.lakeUE.filter (fun a => !inSpare a) }.setF 0 (F.DEV_LK_SPMAP_DONE.at 4 p.val) 1).spCount
  else s

end Sys2Proof.Machine
end

