-- ==== Sys2Proof/Machine/TriggerOps.lean ====
section
/-!
DEFINITION. Trigger units (R147-R157): sources, events, records, arming and re-arm; the trigger
outputs and system trigger lines (R166, R167); and the partitions of the Vat (R160, R161).
-/

namespace Sys2Proof.Machine

/-! ### A unit's settings in force -/

/-- The RWS registers of a unit, by offset. -/
def tuShadows : List Nat := (List.range 17).map fun k => 4 * k

/-- ARM and each re-arm put the shadows into force (R152, R282). -/
def State.applyTu (u : Unit16) (s : State) : State :=
  s.forAll tuShadows fun o s => s.setW (forceBase + tuBase u + o) (s.w (tuBase u + o))

/-- The channel set. -/
def State.tuChs (s : State) (u : Nat) : List Ch :=
  allCh.filter fun n => (s.w (forceBase + tuBase u + R.TRG_TU_CHM + 4 * (n.val / 32))).getLsbD (n.val % 32)

/-- NSEG (R161): none without a channel. -/
def State.nseg (s : State) (u : Nat) : Nat :=
  if (s.tuChs u).isEmpty then 0
  else F.TRG_VP_SIZE.of (s.w (R.TRG_VP + 4 * s.tuA u F.TRG_TU_CFG_PART)) * 65536 / (s.tuChs u).length /
    (4 * s.ringWords u + 128)

/-- Whether an enabled stream partition captures a channel. -/
def State.streamed (s : State) (n : Ch) : Bool := (s.streamOf n).isSome

/-- Whether ARM's checks of the configuration in force fail (R152). -/
def State.tuRejects (s : State) (u : Unit16) : Bool :=
  let chs := s.tuChs u
  decide (F.TRG_VP_MODE.of (s.w (R.TRG_VP + 4 * s.tuA u F.TRG_TU_CFG_PART)) ≠ 1) || chs.isEmpty ||
  chs.any (fun n => s.fusedOff n || s.streamed n ||
    allUnits.any fun v => v != u && decide (s.tuState v ≠ tuIdle) && (s.tu v).rings.any fun r => r.ch = n) ||
  decide (s.ringWords u > 2 ^ 24) || decide (s.nseg u = 0)

def State.srcEn (s : State) (u k : Nat) : Bool := (s.tuA u F.TRG_TU_SRC_SRC_EN).testBit k

/-! ### Entering ARMED -/

/-- A segment of the unit that no record of the channel holds. -/
def UnitSt.freeSeg (x : UnitSt) (nseg : Nat) (n : Ch) : Option Nat :=
  (List.range nseg).find? fun k => !(x.records.any fun r => r.ch = n && r.seg = k)

/-- Overwrites a channel's oldest unread record (R156). -/
def State.overwrite (u : Unit16) (n : Ch) (s : State) : State :=
  let mine := (s.tu u).records.filter fun r => r.ch = n
  match (mine.find? fun r => !r.pushed).or mine.head? with
  | some r => ((s.freeRecord u n r.number).countSat (tuBase u) F.TRG_TU_LOSTC_VALUE 1).raise (tuBase u) F.TRG_TU_STAT_LOST
  | none => s

/-- Whether a channel of the unit's set has no free segment. -/
def State.lacksSeg (s : State) (u : Unit16) : Bool :=
  (s.tuChs u).any fun c => ((s.tu u).freeSeg (s.nseg u) c).isNone

/-- Makes room with OVERWRITE = 1: the oldest unread record of each channel without a free segment goes (R156). -/
def State.makeRoom (u : Unit16) (s : State) : State :=
  if s.tuA u F.TRG_TU_CFG_OVERWRITE = 1 then
    s.forAll (s.tuChs u) fun c s => if ((s.tu u).freeSeg (s.nseg u) c).isNone then s.overwrite u c else s
  else s

/-- The wait in REARM for a segment (R156). -/
def State.waitFull (u : Unit16) (s : State) : State :=
  (s.setF (tuBase u) F.TRG_TU_STAT_STATE tuRearm).setF (tuBase u) F.TRG_TU_STAT_FULL 1

/-- Takes a segment for each channel and enters ARMED at instant `t` with fresh rings, or waits in
REARM with FULL (R152, R156). -/
def State.enterArmed (u : Unit16) (t dead : Nat) (s : State) : State :=
  let chs := s.tuChs u
  let s := s.makeRoom u
  if s.lacksSeg u then s.waitFull u
  else
    let x := s.tu u
    let rings := chs.map fun c =>
      { ch := c, items := [], written := 0, pos := 0, seg := (x.freeSeg (s.nseg u) c).getD 0, start := 0, pre := [], post := [],
        closed := none, short := false, refchg := none,
        spare := if s.fb (chBase c) F.CH_STAT_SPARE || s.handoverOf c then some (t, none) else none : Ring }
    let s := s.setTu u { x with armAt := t, ghost := none, rings := rings, event := none, dead := dead,
                                hdrDone := false, ending := false, edgeSeen := false }
    let s := s.forAll chs fun c s => s.modChan c fun c => { c with vref := none }
    ((s.setF (tuBase u) F.TRG_TU_STAT_STATE tuArmed).setF (tuBase u) F.TRG_TU_STAT_FULL 0).setNext u

/-! ### Records -/

/-- Writes a record's header twice ahead of its body (R161). -/
def State.putHeader (r : Record) (s : State) : State :=
  let ws := (r.header.map fun w => [w.extractLsb' 32 32, w.extractLsb' 0 32]).flatten
  s.forAll ((ws ++ ws).zipIdx) fun p s => s.putVat (r.base + p.2) p.1

/-- The headers of a closed event are stored, and with PUSH = 1 the records pushed (R156, R165). -/
def State.writeRecords (u : Unit16) (s : State) : State :=
  let x := s.tu u
  match x.event with
  | none => s
  | some ev =>
    let rs := x.rings.mapIdx fun i r => s.mkRecord u i x.rings.length ev r
    let s := s.forAll rs fun r s => s.putHeader r
    let s := s.setTu u { x with records := x.records ++ rs, hdrDone := true, count := x.count + 1 }
    let s := if x.rings.any (·.short) then s.raise (tuBase u) F.TRG_TU_STAT_PRE_SHORT else s
    let s := if s.tuA u F.TRG_TU_CFG_PUSH = 1 then s.forAll rs fun r s => s.pushRecord u r true else s
    s.setNext u

/-- Enters IDLE; the rings are dropped. -/
def State.enterIdle (u : Unit16) (s : State) : State :=
  ((s.modTu u fun x => { x with rings := [], event := none, ghost := none, ending := false }).setF (tuBase u)
    F.TRG_TU_STAT_STATE tuIdle).setF (tuBase u) F.TRG_TU_STAT_FULL 0

/-- The end of a unit that was disarmed in POST, or after an event of a sample before DISARM: once its
records are complete they are written, and the unit is IDLE (R157). -/
def State.endUnit (u : Unit16) (s : State) : State :=
  if (s.tu u).ending && decide (s.tuState u = tuRearm) then (s.writeRecords u).enterIdle u else s

/-- What an entry of channel n that has passed may complete. -/
def State.finishUnits (n : Ch) (s : State) : State :=
  s.forAll allUnits fun u s =>
    if s.tuState u = tuPost && (s.tu u).rings.any (fun r => r.ch = n) then (s.checkClosed u).endUnit u else s

/-- REARM after the unit close (R156): headers once, then a free segment for each channel, and ARMED again,
or IDLE in single mode and after the last record of count mode. -/
def State.rearm (u : Unit16) (s : State) : State :=
  if s.tuState u ≠ tuRearm then s
  else
    let due := (s.tu u).closeAt + 20480
    let t := if s.now < due + 256 then due else s.now
    let s := s.reach due
    let s := if (s.tu u).hdrDone || (s.tu u).event.isNone then s else s.writeRecords u
    let mode := s.tuA u F.TRG_TU_CFG_MODE
    let last := decide (mode = 0 ∨ mode = 3) || (decide (mode = 2) && decide ((s.tu u).count ≥ s.tuA u F.TRG_TU_CFG_NREC))
    if last && (s.tu u).event.isSome then
      let s := s.makeRoom u
      if s.lacksSeg u then s.waitFull u else s.enterIdle u
    else
      let s := s.applyTu u
      if s.tuRejects u then (s.enterIdle u).raise (tuBase u) F.TRG_TU_STAT_CFG_REJ
      else s.enterArmed u t (if (s.tu u).event.isSome then t - (s.tu u).closeAt else 0)

/-- Closes every open record of a unit in POST. -/
def State.closeUnit (u : Unit16) (cause : CloseCause) (at_ : Nat) (s : State) : State :=
  if s.tuState u = tuPost then
    (s.modTu u fun x => { x with rings := x.rings.map fun (r : Ring) =>
      if r.closed.isNone then { r with closed := some (cause, at_) } else r }).checkClosed u
  else s

/-! ### Outputs -/

/-- The unit that drives STL line k, if any. -/
def State.stlDriver (s : State) (k : Nat) : Option Nat :=
  if (s.f 0 F.TRG_STL_CTL_DRV).testBit k then some (bitsGet (s.w R.TRG_STL_SEL) (4 * k) 4) else none

/-- Pulls the STL lines that unit u drives (R167). -/
def State.pulseStl (u start : Nat) (s : State) : State :=
  s.forAll (List.finRange 8) fun (k : Fin 8) s =>
    if s.stlDriver k.val = some u then
      { s with stlPulse := s.stlPulse.set k (pulse start (s.f 0 F.TRG_STL_CTL_WIDTH * 2048) s.stlPulse[k]) }
    else s

/-! ### Gates -/

/-- Gates that unit u's event opens or closes (R92), at instant `t` of R94. -/
def State.tuGates (u t : Nat) (s : State) : State :=
  s.forAll allCh fun n s =>
    let mode := s.act n F.CH_FUNC_GMODE % 3
    let src := decide (s.act n F.CH_FUNC_GSRC = u)
    let stop := decide (s.act n F.CH_FUNC_GSTOP = u)
    if !s.gatesRun n || mode = 0 then s
    else if (s.chan n).openGate?.isSome then
      if mode = 2 && stop then s.closeGateAt n t false else s
    else if src then s.openGate n t
    else s

/-- The gate instant of a unit's event (R94): the sample's start where every enabled source is a
TRIG_IN pin or an STL line, else the next trigger sample. -/
def State.tuGateAt (s : State) (u sample : Nat) : Nat :=
  if s.tuA u F.TRG_TU_SRC_SRC_EN < 4096 then sample else (s.now + 255) / 256 * 256

/-! ### Sources -/

/-- Whether every channel of an armed unit has written at least PRE words (R154). -/
def State.preFull (s : State) (u : Unit16) : Bool :=
  (s.tu u).rings.all fun r => decide (r.written ≥ s.tuA u F.TRG_TU_PRE_PRE)

/-- The era count of a domain at instant `t`, from the map in force then; none where the domain is not
valid (R47, R48). -/
def State.eraAt (s : State) (d t : Nat) : Option (BitVec 16) :=
  match s.maps[d]?.join with
  | none => none
  | some m =>
    if m.anchor ≤ t then some m.era
    else ((s.mapLogs[d]?.getD []).find? fun m => decide (m.anchor ≤ t)).map (·.era)

/-- An event is made at `sample` (R151): the rings split, POST begins, gates and pulses follow. -/
def State.makeEvent (u : Unit16) (src sample : Nat) (value : BitVec 64) (s : State) : State :=
  let b := tuBase u
  let x := s.tu u
  let ev : TrigEvent := { sample := sample, src := BitVec.ofNat 16 (2 ^ src), number := s.w (b + R.TRG_TU_EVT), value := value,
                          era := s.eraAt (s.tuA u F.TRG_TU_CFG_DOM) sample,
                          domh := decide (s.f (dmBase (s.tuA u F.TRG_TU_CFG_DOM)) F.PTP_STAT_STATE = ptpHoldover),
                          missed := x.missed, dead := x.dead }
  let rings := x.rings.map fun (r : Ring) =>
    r.split (s.tuA u F.TRG_TU_PRE_PRE) (s.tuA u F.TRG_TU_POST_POST) sample (s.postDue u sample)
  let s := s.setTu u { x with event := some ev, rings := rings, missed := 0 }
  let s := (s.setW (b + R.TRG_TU_EVT) (ev.number + 1#32)).setF b F.TRG_TU_STAT_STATE tuPost
  let s := s.forAll rings fun (r : Ring) s => match r.closed with
    | some (.ovf, _) => s.ovfRun r.ch true 1
    | some (.full, _) => s.ovfRun r.ch false 1
    | _ => s
  let start := if src < 12 then sample + 8192 else s.now + 4096
  let s := (s.pulseOut u.val 0 start).pulseStl u start
  (s.tuGates u (s.tuGateAt u sample)).checkClosed u

/-- A missed source (R157). -/
def State.missSource (u : Unit16) (s : State) : State :=
  ((s.modTu u fun x => { x with missed := x.missed + 1 }).countSat (tuBase u) F.TRG_TU_MISSC_VALUE 1).raise
    (tuBase u) F.TRG_TU_STAT_MISSED

/-- A source event of `sample` reaches unit u (R151, R154, R157). -/
def State.source (u : Unit16) (src sample : Nat) (value : BitVec 64) (s : State) : State :=
  let x := s.tu u
  let st := s.tuState u
  if !s.srcEn u src || sample < x.armAt then s
  else if st = tuIdle then
    match x.ghost with
    | some d => if sample < d then
        (((((s.modTu u fun x => { x with ghost := none, ending := true }).setF (tuBase u) F.TRG_TU_STAT_STATE tuArmed).makeEvent
          u src sample value).closeUnit u .stop d).endUnit u)
      else s
    | none => s
  else if st = tuArmed then
    if s.tuA u F.TRG_TU_CFG_FULLPRE = 1 && !s.preFull u then
      (s.countSat (tuBase u) F.TRG_TU_IGNC_VALUE 1).raise (tuBase u) F.TRG_TU_STAT_IGN
    else s.makeEvent u src sample value
  else if st = tuPost then
    match x.event with
    | some ev =>
      if ev.sample = sample && x.rings.any (fun r => r.closed.isNone) then
        s.setTu u { x with event := some { ev with src := ev.src ||| BitVec.ofNat 16 (2 ^ src),
                                                   value := (if src = 13 then value else ev.value) } }
      else s.missSource u
    | none => s
  else s.missSource u

/-- The sample that contains an instant (R147). -/
def sampleOf (t : Int) : Nat := t.toNat / 256 * 256

/-- a ≤ b in F64; a NaN compares with nothing. -/
def f64Le (a b : BitVec 64) : Bool := !f64IsNaN a && !f64IsNaN b && !f64Lt b a

/-- Whether a value meets a condition (R149). -/
def valueMeets (sense : Nat) (lo hi v : BitVec 64) : Bool :=
  match sense with
  | 0 => f64Le lo v && f64Le v hi
  | 1 => f64Lt v lo || f64Lt hi v
  | 2 => f64Lt hi v
  | _ => f64Lt v lo

/-- A reducer value of channel n reaches the units that test it (R149); `t` in 1/16 tk is its
measurement's last entry or 16 × its gate close. -/
def State.valueSource (n : Ch) (scope : Nat) (v : BitVec 64) (t : Int) (s : State) : State :=
  s.forAll allUnits fun u s =>
    let lo := BitVec.ofNat 64 (s.tuA u F.TRG_TU_VLO_H_VALUE * 2 ^ 32 + s.tuA u F.TRG_TU_VLO_L_VALUE)
    let hi := BitVec.ofNat 64 (s.tuA u F.TRG_TU_VHI_H_VALUE * 2 ^ 32 + s.tuA u F.TRG_TU_VHI_L_VALUE)
    if s.srcEn u 13 && decide (s.tuA u F.TRG_TU_VCOND_CH = n.val) && decide (s.tuA u F.TRG_TU_VCOND_SCOPE = scope) &&
        valueMeets (s.tuA u F.TRG_TU_VCOND_SENSE) lo hi v then
      s.source u 13 (sampleOf (t.fdiv 16)) v
    else s

/-- An edge of channel n is the EDGE source of a unit that has seen none since it was armed (R147). -/
def State.edgeSource (n : Ch) (t16 : Int) (rising : Bool) (s : State) : State :=
  s.forAll allUnits fun u s =>
    let x := s.tu u
    let pol := s.tuA u F.TRG_TU_EDGE_POL
    if s.srcEn u 14 && decide (s.tuA u F.TRG_TU_EDGE_CH = n.val) && !x.edgeSeen && decide (16 * Int.ofNat x.armAt ≤ t16) &&
        (if pol = 1 then rising else if pol = 2 then !rising else true) && decide (s.tuState u ≠ tuIdle ∨ x.ghost.isSome) then
      (s.modTu u fun x => { x with edgeSeen := true }).source u 14 (sampleOf (t16.fdiv 16)) 0#64
    else s

/-! ### Vat partitions (R160) -/

/-- Whether a partition word holds Vat space. -/
def vpHolds (w : Word) : Bool := decide (F.TRG_VP_MODE.of w = 1 ∨ F.TRG_VP_MODE.of w = 2) && decide (F.TRG_VP_SIZE.of w ≠ 0)

def vpOverlap (a b : Word) : Bool :=
  vpHolds a && vpHolds b && decide (F.TRG_VP_BASE.of a < F.TRG_VP_BASE.of b + F.TRG_VP_SIZE.of b) &&
  decide (F.TRG_VP_BASE.of b < F.TRG_VP_BASE.of a + F.TRG_VP_SIZE.of a)

/-- Whether a unit that is not IDLE captures into partition p, or an enabled stream uses it. -/
def State.vpInUse (s : State) (p : Nat) : Bool :=
  (allUnits.any fun u => s.tuState u ≠ tuIdle && s.tuA u F.TRG_TU_CFG_PART = p) ||
  (let w := s.w (R.TRG_VP + 4 * p); F.TRG_VP_MODE.of w = 2 && F.TRG_VP_EN.of w = 1 && F.TRG_VP_SIZE.of w ≠ 0)

/-- Whether a TRG_VP write is refused (R160). EN alone may change at any time. -/
def State.vpRefused (s : State) (p : Nat) (w : Word) : Bool :=
  let old := s.w (R.TRG_VP + 4 * p)
  decide (F.TRG_VP_BASE.of w + F.TRG_VP_SIZE.of w > 768) ||
  ((List.range 32).any fun q => q != p && vpOverlap w (s.w (R.TRG_VP + 4 * q))) ||
  (s.vpInUse p && decide (F.TRG_VP_EN.into old 0 ≠ F.TRG_VP_EN.into w 0))

/-- A TRG_VP write. Disabling a stream closes its blocks (R164); a stream's start breaks the idle
conditions of its channels (R204). -/
def State.writeVp (p : Fin 32) (w : Word) (s : State) : State :=
  if s.vpRefused p w then s.raise 0 F.TRG_VAT_STAT_CFG_REJ
  else
    let a := R.TRG_VP + 4 * p.val
    let was := allCh.filter fun n => s.streams p n
    let off := decide (F.TRG_VP_EN.of w = 0) || decide (F.TRG_VP_MODE.of w ≠ 2)
    let s := if off then s.forAll was fun n s => s.closeBlock p n else s
    let s := s.setW a w
    let fresh := (allCh.filter fun n => s.streams p n).filter fun n => !was.contains n
    s.forAll fresh fun n s => (s.breakIdle n).modChan n fun c => { c with vref := none }

end Sys2Proof.Machine
end

