-- ==== Sys2Proof/Machine/CaptureOps.lean ====
section
/-!
DEFINITION. From the sampler to the result: the edge qualifier (R75-R84), the reducer's reading of
the input FIFO (R78, R85), its work on a gate (R95-R98), and what it emits (R109-R114, R186).
-/

namespace Sys2Proof.Machine

/-! ### Sampler and qualifier -/

/-- The tap index: how many taps were latched in the post-transition state (R75). All 256 would make a
count outside 0 to 255; the index is then held at 255 (DESIGN CHOICE, log 100). -/
def tapIndex (taps : BitVec 256) : Nat := min 255 ((List.range 256).countP fun i => taps.getLsbD i)

/-- The side that captures channel n's edges: the spare's while a spare stands in (R77). -/
def State.capOf (s : State) (n : Ch) (rising : Bool) : Cap :=
  if s.fb (chBase n) F.CH_STAT_SPARE then { side := (s.fe (spareFe (Ch.spareOf n))).side, spare := true, rising := rising }
  else { side := (s.fe (Ch.fe n)).side, spare := false, rising := rising }

/-- Whether CH_DEC.POL passes a polarity (R83); 0b11 passes both. -/
def decPasses (pol : Nat) (rising : Bool) : Bool := if pol = 1 then rising else if pol = 2 then !rising else true

/-- An edge dropped for spacing (R81, R82). -/
def State.crowdDrop (n : Ch) (raw : Nat) (cap : Cap) (ownEntry rising : Bool) (s : State) : State :=
  let s := s.modChan n fun c => { c with crowd := match c.crowd with
    | some k => some { k with n := min 255 (k.n + 1) }
    | none => some { n := 1, rising := rising, e := ownEntry, raw := raw, cap := cap } }
  (s.count (chBase n + R.CH_CROWD_H) 1).raise (chBase n) F.CH_STAT_CROWD

/-- An edge that passed the three tests is written, or overflows (R84, R88). -/
def State.writeEdge (n : Ch) (raw : Nat) (cap : Cap) (s : State) : State :=
  let c := (s.chan n).flushHeld
  if c.held.isEmpty && decide (c.fifo.length < fifoMain) then
    (s.setChan n { c with fifo := c.fifo ++ (if c.stampDue then [.abs, .edge raw cap] else [.edge raw cap]),
                          stampDue := false, lastAcc := some (raw, cap, true) }).count (chBase n + R.CH_ACC_H) 1
  else
    let s := s.setChan n { c.pushOvf (.ovf raw cap) with lastAcc := some (raw, cap, false) }
    let s := (((s.raise (chBase n) F.CH_STAT_OVF).setF (chBase n) F.CH_STAT_OVF_BLIND 1).count (chBase n + R.CH_OVF_H) 1)
    s.startBlind n { raw := raw, edge := some cap } { Causes.none with ovf := true } 1 0 true false

/-- The qualifier's tests in order: spacing, polarity, decimation (R81, R83). -/
def State.qualify (n : Ch) (raw : Nat) (cap : Cap) (s : State) : State :=
  let c := s.chan n
  match c.lastAcc with
  | some (r0, cap0, own) =>
    if raw < r0 + 160 then s.crowdDrop n r0 cap0 own cap.rising
    else pass (s.setChan n (c.settle raw))
  | none => pass (s.setChan n (c.settle raw))
where
  /-- The edge is accepted; the idle conditions of R204 count from it. -/
  pass (s : State) : State :=
    let s := s.modChan n fun c => { c with idleSince := raw }
    if !decPasses (s.act n F.CH_DEC_POL) cap.rising then s.modChan n fun c => { c with lastAcc := some (raw, cap, false) }
    else if (s.chan n).decCount + 1 < s.act n F.CH_DEC_DM1 + 1 then
      s.modChan n fun c => { c with decCount := c.decCount + 1, lastAcc := some (raw, cap, false) }
    else (s.modChan n fun c => { c with decCount := 0 }).writeEdge n raw cap

/-- Whether the comparator in use is off the pin, in a threshold calibration by the idle route (R204). -/
def State.offPin (s : State) (n : Ch) : Bool :=
  (s.fe (if s.fb (chBase n) F.CH_STAT_SPARE then spareFe (Ch.spareOf n) else Ch.fe n)).idleRoute

/-- A comparator transition on channel n in the present timebase period (R75-R77, R90). A blind interval
that begins at a later timebase instant is not yet running for it. -/
def State.capture (n : Ch) (pinRising : Bool) (taps : BitVec 256) (s : State) : State :=
  if !s.live n || !s.clk.running || s.offPin n then s
  else
    let rising := pinRising != s.actB n F.CH_CFG_INV
    let raw := s.now + tapIndex taps
    match (s.chan n).blind with
    | some b =>
      if b.start.edge.isNone && decide (raw < b.start.raw) then s.qualify n raw (s.capOf n rising)
      else s.modChan n fun c => { c with blind := some { b with count := b.count + 1 } }
    | none => s.qualify n raw (s.capOf n rising)

/-! ### The reducer's work -/

/-- The time by which an item takes its place; markers of gates have none. -/
def SItem.time : SItem → Option Int
  | .edge t _ => some t
  | .crowd t => some t
  | .blind t _ => some t
  | .blindEnd t => some t
  | .ovf t => some t
  | _ => none

/-- A gate-end marker takes its place ahead of entries at or after the close (R95). -/
def insertEnd (m : SItem) (close : Nat) (q : List SItem) : List SItem :=
  let tail := q.reverse.takeWhile fun i => match i.time with
    | some t => decide (16 * Int.ofNat close ≤ t)
    | none => false
  q.take (q.length - tail.length) ++ [m] ++ tail.reverse

/-- Gates that a marker counted follow the last gate whose marker is still queued (R98). -/
def insertLost (m : SItem) (q : List SItem) : List SItem :=
  let isEnd (i : SItem) : Bool := match i with
    | .gateEnd _ _ _ _ _ => true
    | _ => false
  let rest := q.reverse.takeWhile fun i => !isEnd i
  q.take (q.length - rest.length) ++ [m] ++ rest.reverse

/-- A reducer at work: gates not yet reduced, its queues and carried state, and what it has put out
with the gate concerned, oldest first. -/
structure Reduce where
  gates : List GateRec
  red : RedSt
  out : List (GateRec × RedOut)
  deriving DecidableEq, Repr

/-- Runs one operation on the front gate. -/
def Reduce.apply (g : GateRec) (op : RedWork → RedWork) (r : Reduce) : Reduce :=
  let w := op { carry := r.red.carry, acc := r.red.acc, out := [] }
  { r with red := { r.red with carry := w.carry, acc := w.acc }, out := r.out ++ w.out.reverse.map fun o => (g, o) }

/-- The next gate takes over; a fresh one starts with nothing carried in. -/
def Reduce.next (gs : List GateRec) (r : Reduce) : Reduce :=
  { r with gates := gs, red := { r.red with acc := Acc.empty, carry := match gs with
    | g :: _ => r.red.carry.enter g
    | [] => r.red.carry } }

/-- The far end of a blind interval: nothing pairs across it, and no second segment is counted in the
gate that holds its marker. -/
def RedWork.splitEnd (ch : Nat) (g : GateRec) (own : Bool) (t : Int) (w : RedWork) : RedWork :=
  let w' := w.split ch g own t
  { w' with acc := { w'.acc with ownSeg := w.acc.ownSeg, partSeg := w.acc.partSeg } }

/-- An item of the own stream outside every gate. -/
def Reduce.outside (ch : Nat) (cfg : GateCfg) (i : SItem) (r : Reduce) : Reduce :=
  { r with red := { r.red with carry := r.red.carry.outside ch cfg i } }

/-- Takes one item of the own (`own`) or partner stream for gate g; the queue has been shortened.
Items before the opening belong to no open gate. -/
def Reduce.item (ch : Nat) (own : Bool) (g : GateRec) (i : SItem) (r : Reduce) : Reduce :=
  let opens := 16 * Int.ofNat g.openAt
  let before (r : Reduce) : Reduce := if own then r.outside ch g.cfg i else r
  match i with
  | .edge t rising =>
    if t < opens then before r else r.apply g fun w => if own then w.ownEdge ch g t rising else w.partEdge ch g t rising
  | .crowd t =>
    if t < opens then before r
    else r.apply g fun w => { w with acc := { w.acc with crowd := true } }.split ch g own t
  | .blind t0 t1 =>
    let r := if t1 ≤ opens then before r
      else r.apply g fun w => { w with acc := { w.acc with blind := true } }.split ch g own t0
    let q := SItem.blindEnd t1
    { r with red := if own then { r.red with ownQ := q :: r.red.ownQ } else { r.red with partQ := q :: r.red.partQ } }
  | .blindEnd t =>
    if t < opens then r
    else if t = opens || r.red.acc.blind then r.apply g fun w => w.splitEnd ch g own t
    else r.apply g fun w => { w with acc := { w.acc with blind := true } }.split ch g own t
  | .ovf t => if t < opens then r
    else r.apply g fun w => { w with acc := { w.acc with trunc := true, blind := true, ovfEnded := true } }
  | _ => r

/-- Whether an item waits for the gate's end, being at or after its close. -/
def GateRec.holds (g : GateRec) (t : Int) : Bool :=
  match g.closeAt with
  | some c => decide (16 * Int.ofNat c ≤ t)
  | none => false

/-- The results of the gates a marker counted (R98): the span's first opening and last close. -/
def Reduce.lost (ch k close : Nat) (r : Reduce) : Reduce :=
  let gone := r.gates.take k
  let first := match gone with | g :: _ => g.openAt | [] => close
  let last := match gone.getLast? with | some g => g.closeAt.getD close | none => close
  let out := gone.map fun g =>
    (g, RedOut.gate (lostGateEntries ch g first last) [lostSet]
      { gateFlags ch { g with early := true } Acc.empty true with trunc := true } true r.red.carry.adSums
      { bad := true, last := none, cycles := 0, freq := none, nom := 0 })
  let r := { r with out := r.out ++ out }.next (r.gates.drop k)
  { r with red := { r.red with carry := { r.red.carry with
    p1 := none, p2 := none, firstP := none, stops := [], pend := none, npend := [], ownTail := Tail.none,
    partTail := Tail.none, adHist := [], adF0 := none, adCycles := 0, broken := true, partBroken := true } } }

def Reduce.popOwn (r : Reduce) : Reduce := { r with red := { r.red with ownQ := r.red.ownQ.drop 1 } }
def Reduce.popPart (r : Reduce) : Reduce := { r with red := { r.red with partQ := r.red.partQ.drop 1 } }

/-- Closes the front gate at its marker. -/
def Reduce.close (ch : Nat) (g : GateRec) (gs : List GateRec) (t residue : Nat) (ovfB blindB : Bool) (r : Reduce) : Reduce :=
  let w := closeGate ch g t residue ovfB blindB { carry := r.red.carry, acc := r.red.acc, out := [] }
  { r with red := { r.red with carry := w.carry, acc := w.acc }, out := r.out ++ w.out.reverse.map fun o => (g, o) }.next gs

/-- Whether nothing of a stream can still come at or before `t`. -/
def passed (front : Option Int) (t : Int) : Bool := match front with | some f => decide (t < f) | none => false

/-- One item of the merged order of the own and partner streams, own first at equal times; none where
the reducer must wait. `of` and `pf` are the times before which nothing more can come. -/
def Reduce.step (ch : Nat) (of pf : Option Int) (r : Reduce) : Option Reduce :=
  match r.gates with
  | [] => none
  | g :: gs =>
    let takeOwn (i : SItem) : Option Reduce :=
      match i.time with
      | some t => if g.holds t then none else some (r.popOwn.item ch true g i)
      | none => none
    let takePart (i : SItem) : Option Reduce :=
      match i.time with
      | some t => if g.holds t then none else some (r.popPart.item ch false g i)
      | none => none
    let two := g.cfg.usesPartner ch
    match r.red.ownQ, r.red.partQ with
    | .lost k c :: _, _ => some (r.popOwn.lost ch k c)
    | .gateEnd c res _ ovfB blB :: _, ps =>
      if !two then some (r.popOwn.close ch g gs c res ovfB blB)
      else match ps with
        | .gateEnd _ _ _ ovfP blP :: _ => some (r.popOwn.popPart.close ch g gs c res (ovfB || ovfP) (blB || blP))
        | p :: _ => takePart p
        | [] => none
    | o :: _, ps =>
      if !two then takeOwn o
      else match ps with
        | p :: _ =>
          match o.time, p.time with
          | some to_, some tp => if to_ ≤ tp then takeOwn o else takePart p
          | _, _ => takeOwn o
        | [] => match o.time with
          | some t => if passed pf t then takeOwn o else none
          | none => none
    | [], p :: _ =>
      if !two then none
      else match p.time with
        | some t => if passed of t then takePart p else none
        | none => none
    | [], [] => none

/-- Runs the reducer until it waits. -/
def Reduce.run (ch : Nat) (of pf : Option Int) : Nat → Reduce → Reduce
  | 0, r => r
  | n + 1, r => match r.step ch of pf with
    | some r' => Reduce.run ch of pf n r'
    | none => r

/-! ### What leaves the reducer -/

/-- A limit verdict on one value set (R186); the service needs a running image (R187). -/
def State.limitVerdict (n : Ch) (g : GateRec) (q : GateSet) (f : Flags0) (s : State) : State :=
  if !s.actB n F.CH_LV_CTL_EN || decide (s.f 0 F.DEV_SVC_STAT_SLOT = 0) then s
  else
    let sel := s.act n F.CH_LV_CTL_SEL
    let v := match sel with | 1 => q.ms.1 | 2 => q.ms.2 | 3 => q.mm.1 | 4 => q.mm.2 | _ => q.value
    let lo := BitVec.ofNat 64 (s.act n F.CH_LV_LO_H_VALUE * 2 ^ 32 + s.act n F.CH_LV_LO_L_VALUE)
    let hi := BitVec.ofNat 64 (s.act n F.CH_LV_HI_H_VALUE * 2 ^ 32 + s.act n F.CH_LV_HI_L_VALUE)
    let bad := f64IsNaN v || q.few || f.cfgInv || (s.actB n F.CH_LV_CTL_STRICT && (f.trunc || f.blind || f.cut))
    let verd : Nat := if bad then 3 else if f64Lt v lo then 1 else if f64Lt hi v then 2
      else if f64IsNaN lo || f64IsNaN hi then 3 else 0
    let bytes := bytesBE 8 (0xE * 2 ^ 60 + verd * 2 ^ 58 + sel * 2 ^ 55 + n.val * 2 ^ 48 + g.seq.toNat) ++ bytesBE 8 v.toNat
    let s := s.send .pattern .msg bytes .limit
    let s := if s.actB n F.CH_LV_CTL_HOST then s.send .host .msg bytes .none else s
    if verd = 0 then s else s.count (chBase n + R.CH_LV_FAIL_H) 1

/-- The ADEV entries of a dump that is due follow a RESULT set (R112, R114). -/
def State.adevAfter (n : Ch) (g : GateRec) (sets : List GateSet) (f : Flags0) (sums : List (Rat × Nat)) (s : State) : State :=
  match (s.chan n).adevDumpDue with
  | none => s
  | some at_ =>
    let s' := s.modChan n fun c => { c with adevDumpDue := none }
    if !(g.cfg.adev && g.cfg.fn == 0 && g.cfg.gmode == 0) then s'
    else
      s'.forAll (adevDump n g { f with few := sets.any (·.few) } at_ sums) fun e s => s.sendEntry e

/-- Whether a call is the running LTADEV service. -/
def Call.isLt (k : Call) : Bool := k.id == 4 && k.st == .running

/-- A channel of an LTADEV call takes a gate's phase (R183): a gate that breaks the record restarts
the store; at 16,384 phases every second one is kept and the spacing doubles. -/
def LtChan.take (p : PhaseIn) (l : LtChan) : LtChan :=
  if l.ended then l
  else match p.next (l.phases.isEmpty && l.skip == 0) l.cycles l.f0 with
    | none => { l with phases := [], shift := 0, skip := 0, cycles := 0, f0 := none }
    | some (x, cyc, f) =>
      let l := { l with cycles := cyc, f0 := some f }
      if l.phases.isEmpty || l.skip + 1 ≥ 2 ^ l.shift then
        let ps := x :: l.phases
        if ps.length ≥ 16384 then
          { l with phases := (ps.zipIdx.filter fun q => q.2 % 2 = 0).map (·.1), shift := l.shift + 1, skip := 0 }
        else { l with phases := ps, skip := 0 }
      else { l with skip := l.skip + 1 }

/-- Gives a gate's phase to the LTADEV calls that take the channel. -/
def State.ltTake (n : Ch) (p : PhaseIn) (s : State) : State :=
  { s with indigo := { s.indigo with calls := s.indigo.calls.map fun (k : Call) =>
      if k.isLt then { k with lt := k.lt.map fun l => if l.ch = n then l.take p else l } else k } }

/-- One output of channel n's reducer goes where it belongs. A gate reported TRUNC that no OVF marker
truncated neither counts in OVF_RUN nor returns it to 0, and so does a record closed with STOP (DESIGN
CHOICE, log 94: R89 does not place them). -/
def State.redOut (n : Ch) (g : GateRec) (o : RedOut) (s : State) : State :=
  let b := chBase n
  match o with
  | .meas m e =>
    let s := if g.cfg.each then s.sendEntry e else s
    (s.histMeas n g.cfg.fn m).valueSource n 0 (f64OfRat m.v) m.tl
  | .timeout e => ((s.sendEntry e).count (b + R.CH_TIMEOUT_H) 1).raise b F.CH_STAT_TIMEOUT
  | .orphan => (s.count (b + R.CH_ORPHAN_H) 1).raise b F.CH_STAT_ORPHAN
  | .coinc => (s.count (b + R.CH_COINC_H) 1).raise b F.CH_STAT_COINC
  | .gate es sets f ovfEnded sums ph =>
    let s := s.forAll es fun e s => s.sendEntry e
    let s := if g.cfg.fn == 0 && g.cfg.gmode == 0 then s.ltTake n ph else s
    let s := s.adevAfter n g sets f sums
    let s := s.forAll sets fun q s =>
      let s := s.limitVerdict n g q f
      if q.few || f.cfgInv then s else s.valueSource n 1 q.value (16 * Int.ofNat (g.closeAt.getD 0))
    if ovfEnded then s.ovfRun n true 1 else if f.trunc then s else s.ovfRun n false 1

/-- The time before which nothing more can come on a channel's stream, known while its FIFO and
qualifier hold nothing. -/
def State.frontOf (s : State) (n : Ch) : Option Int :=
  let c := s.chan n
  if c.fifo.isEmpty && c.held.isEmpty && c.later.isEmpty && c.vwait.isEmpty && c.blind.isNone then
    let offs := [Side.a, Side.b].flatMap fun sd => [true, false].flatMap fun sp => [true, false].map fun r =>
      s.ofs n { side := sd, spare := sp, rising := r }
    some (16 * Int.ofNat s.now + offs.foldl min 0)
  else none

/-- Items of the own stream that lie outside every gate: they may anchor the TIE line, anew where the
function has been applied since (R96, R108). -/
def Chan.outside (ch : Nat) (cfg : GateCfg) (items : List SItem) (c : Chan) : Chan :=
  if items.isEmpty then c
  else
    let k := match c.tieAt with | some t => c.red.carry.retie t | none => c.red.carry
    { c with tieAt := none, red := { c.red with carry := items.foldl (fun k i => k.outside ch cfg i) k } }

/-- Channel n's reducer works through what it holds. -/
def State.drive (n : Ch) (s : State) : State :=
  let c := s.chan n
  let pf := match c.gates with
    | g :: _ => s.frontOf (chOf g.cfg.pch)
    | [] => none
  let fuel := 2 * (c.red.ownQ.length + c.red.partQ.length) + c.gates.length + 2
  let r := Reduce.run n (s.frontOf n) pf fuel { gates := c.gates, red := c.red, out := [] }
  let left := if r.gates.isEmpty then r.red.ownQ else []
  let red := if r.gates.isEmpty then { r.red with ownQ := [], partQ := [] } else r.red
  let s := s.setChan n ({ c with gates := r.gates, red := red }.outside n (s.gateCfg n) left)
  s.forAll r.out fun o s => s.redOut n o.1 o.2

/-- The channels whose gates take channel n's stream as a partner's. -/
def State.consumers (s : State) (n : Ch) : List Ch :=
  allCh.filter fun m => m != n && (s.chan m).gates.any fun g => g.cfg.usesPartner m && decide (g.cfg.pch = n.val)

/-- Gives an item to channel n's reducer and to those that take its stream as a partner's. -/
def State.feed (n : Ch) (i : SItem) (s : State) : State :=
  let push (q : List SItem) : List SItem := q ++ [i]
  let s := s.modChan n fun c =>
    if c.gates.isEmpty then c.outside n (s.gateCfg n) [i] else { c with red := { c.red with ownQ := push c.red.ownQ } }
  s.forAll (s.consumers n) fun m s => s.modChan m fun c => { c with red := { c.red with partQ := push c.red.partQ } }

/-- Gives an input to Mordant where it is enabled. -/
def State.feedMordant (n : Ch) (i : MIn) (s : State) : State :=
  if s.fb (chBase n) F.CH_MD_CTL_EN then s.modChan n fun c => { c with mord := { c.mord with input := c.mord.input ++ [i] } } else s

/-- An entry of the input FIFO passes through the reducer (R78, R79, R85, R87). -/
def State.readEntry (n : Ch) (e : FEntry) (s : State) : State :=
  match e with
  | .abs => s.modChan n fun c => { c with vref := none }
  | .edge raw cap =>
    let t := s.t16 n raw cap
    let tk := wholeTk t
    let early := s.beforeArm n tk
    let s := s.modChan n fun c => { c with vref := (if early then c.vref else some tk), lastEdge := some tk }
    ((s.feed n (.edge t cap.rising)).feedMordant n (.edge t cap.rising)).edgeSource n t cap.rising
  | .crowd _ _ _ raw cap =>
    let t := s.t16 n raw cap
    (s.feed n (.crowd t)).feedMordant n (.crowd t)
  | .ovf raw cap => s.feed n (.ovf (s.t16 n raw cap))
  | .blind start endAt _ count =>
    let t0 : Int := match start.edge with | some cap => wholeTk (s.t16 n start.raw cap) | none => Int.ofNat start.raw
    let t1 : Int := Int.ofNat endAt
    ((s.feed n (.blind (16 * t0) (16 * t1))).feedMordant n (.blind (16 * t0) (16 * t1))).count (chBase n + R.CH_LOST_H) count
  | .gateEnd close _ residue _ k ovfB blindB =>
    s.modChan n fun c =>
      let q := if k ≤ 1 then c.red.ownQ else insertLost (.lost (k - 1) close) c.red.ownQ
      { c with red := { c.red with ownQ := insertEnd (.gateEnd close residue k ovfB blindB) close q } }
  | .foreign owner close ovfB blindB =>
    s.modChan owner fun c => { c with red := { c.red with partQ := insertEnd (.gateEnd close 0 1 ovfB blindB) close c.red.partQ } }
  | .watermark t => s.feedMordant n (.watermark t)

/-- Which reducers an entry of channel n may set going. -/
def State.driveAll (n : Ch) (owners : List Ch) (s : State) : State :=
  s.forAll (n :: (s.consumers n ++ owners).eraseDups.filter (· != n)) fun m s => s.drive m

/-- Whether channel n's result output stalls: for the host link's credit, or with 4,096 limit
verdicts waiting (R186, R228). -/
def State.outputStalls (s : State) (n : Ch) : Bool :=
  !(s.chan n).gates.isEmpty && (s.classStalls .host .result || (s.actB n F.CH_LV_CTL_EN && (s.limitsFull || s.indigo.restarting == some none)))

/-- The links that verdicts of channel n go to (R139); 0b11 acts as 0b00. -/
def State.verdictLinks (s : State) (n : Ch) : List Link :=
  match s.f (chBase n) F.CH_MD_CTL_VDEST with
  | 1 => [.host]
  | 2 => [.pattern, .host]
  | _ => [.pattern]

/-- Whether a chosen link cannot take verdicts (R139): the channel's Mordant stalls, and its reducer with it. -/
def State.mordantStalls (s : State) (n : Ch) : Bool :=
  s.fb (chBase n) F.CH_MD_CTL_EN && (s.verdictLinks n).any fun l => s.classStalls l .msg

/-- Whether the channel's records or blocks go to the host link, and the partner's credit holds that class
(R228). -/
def State.recordStalls (s : State) (n : Ch) : Bool :=
  s.classStalls .host .record &&
  ((allUnits.any fun u => (s.tuState u == tuArmed || s.tuState u == tuPost) && s.tuA u F.TRG_TU_CFG_PUSH == 1 &&
      (s.tu u).rings.any fun r => r.ch = n) || (s.streamOf n).isSome)

/-- Whether the channel's reducer may take no entry. -/
def State.stalls (s : State) (n : Ch) : Bool := s.outputStalls n || s.mordantStalls n || s.recordStalls n

/-- An entry has left the reducer's input: its words are written whole to the Vat, where the channel
places demand, and only then is it passed on (R14). -/
def State.passEntry (n : Ch) (e : FEntry) (s : State) : State :=
  let owners := match e with | .foreign o _ _ _ => [o] | _ => []
  let items := if s.captured n then (s.vatItems n e).filter fun i => !s.beforeArm n i.time else []
  (((s.forAll items fun i s => s.writeItem n i).readEntry n e).driveAll n owners).finishUnits n

/-- The reducer passes on the oldest entry it has taken, if the balance covers its words (R14) and nothing
stalls the channel. -/
def State.passFront (n : Ch) (s : State) : State :=
  let c := s.chan n
  match c.vwait with
  | [] => s
  | e :: t =>
    let k := s.vatCost n e
    if s.stalls n || (decide (k ≠ 0) && (decide (c.balance < k) || s.blockFull n)) then s
    else (s.setChan n { c with vwait := t, balance := c.balance - k }).passEntry n e

/-- Whether the channel waits for the Vat's write port. -/
def State.vatWaits (s : State) (n : Ch) : Bool :=
  s.captured n && !((s.chan n).vwait.isEmpty && (s.chan n).fifo.isEmpty)

/-- Up to `k` entries pass, in order. -/
def State.passUpTo (n : Ch) : Nat → State → State
  | 0, s => s
  | k + 1, s => State.passUpTo n k (s.passFront n)

/-- The reducer passes on what it has taken; a channel that stops waiting loses its balance (R14). -/
def State.passTaken (n : Ch) (s : State) : State :=
  let s := State.passUpTo n (s.chan n).vwait.length s
  if s.vatWaits n then s else s.modChan n fun c => { c with balance := 0 }

/-- The FIFO entries that the reducer has taken and not passed on. -/
def Chan.taken (c : Chan) : Nat := c.vwait.countP fun e => match e with | .watermark _ => false | _ => true

/-- One read of the input FIFO, unless two entries wait or something stalls the channel. -/
def State.takeEntry (n : Ch) (s : State) : State :=
  let c := s.chan n
  match c.fifo with
  | [] => s
  | e :: rest =>
    if s.stalls n || decide (2 ≤ c.taken) then s
    else s.setChan n { c with fifo := rest, vwait := c.vwait ++ [e] }

/-- One handshake: two entries at most, fewer while taken ones wait for a grant (R14, R85). What the
qualifier holds is written once its spacing window is past (R82). -/
def State.handshake (n : Ch) (s : State) : State :=
  (((s.modChan n fun c => c.settle s.now).takeEntry n).takeEntry n |>.passTaken n).driveAll n []

/-! ### Vat grants (R14) -/

/-- A waiting channel accrues `words` up to a balance of 8, and the port writes the entries it covers. -/
def State.grant (n : Ch) (words : Nat) (s : State) : State :=
  if s.vatWaits n then
    (s.modChan n fun c => { c with balance := min 8 (c.balance + words) }).passTaken n
  else s

/-! ### Partners (R11, R12, R106) -/

/-- The stream that a CH_PART word of channel m takes from another channel. -/
def partOf (m : Ch) (w : Word) : Option Nat :=
  if F.CH_PART_PEN.of w = 1 && decide (F.CH_PART_PCH.of w ≠ m.val) then some (F.CH_PART_PCH.of w) else none

/-- The (owner, stream) pairs that shadows and active views name, with channel n's shadow as `w`. -/
def State.partPairs (s : State) (n : Ch) (w : Word) : List (Nat × Nat) :=
  (allCh.flatMap fun m =>
    let sh := if m = n then w else s.w (chBase m + R.CH_PART)
    let ps := (partOf m sh).toList ++ (partOf m (s.w (chBase m + 0x800 + R.CH_PART))).toList
    ps.eraseDups.map fun p => (m.val, p))

/-- Whether a CH_PART write is refused (R11, R12, R106). -/
def State.partRefused (s : State) (n : Ch) (w : Word) : Bool :=
  decide (F.CH_PART_PEN.of w = 1) && s.fusedOff (chOf (F.CH_PART_PCH.of w)) ||
  match partOf n w with
  | none => false
  | some p =>
    let ps := s.partPairs n w
    let cross := ps.filter fun x => x.1 / 16 ≠ x.2 / 16
    decide ((ps.filter fun x => x.2 = p).length > 3) ||
    (decide (p / 16 ≠ n.val / 16) &&
      (decide ((cross.filter fun x => x.2 / 16 = p / 16).length > 16) ||
       decide ((cross.filter fun x => x.1 / 16 = n.val / 16).length > 16)))

/-- A write of CH_PART; `w` is the word as stored. -/
def State.writePart (n : Ch) (w : Word) (s : State) : State :=
  if s.partRefused n w then s.raise (chBase n) F.CH_STAT_PART_REJ
  else s.putShadow n R.CH_PART w

/-! ### Pairing time-outs (R103, R104) -/

/-- The earliest pending start of a reducer. -/
def Carry.firstPending (c : Carry) : Option (Int × Bool) :=
  match c.pend, c.npend with
  | some s, _ => some s
  | none, s :: _ => some s
  | none, [] => none

/-- A pending start's T_to runs out: device time reaches that instant, and once no stop at or before
it can still arrive the start is dropped or decided. A gate that closes first decides at its end. -/
def State.pairTimeout (n : Ch) (s : State) : State :=
  let c := s.chan n
  match c.gates, c.red.carry.firstPending with
  | g :: _, some p =>
    let limit := p.1 + 16 * Int.ofNat g.cfg.tito
    let s := s.reach ((limit / 16).toNat + 4096)
    let stops := if g.cfg.usesPartner n then chOf g.cfg.pch else n
    let q := if g.cfg.usesPartner n then c.red.partQ else c.red.ownQ
    if g.holds (limit + 1) || !q.isEmpty || !passed (s.frontOf stops) limit then s
    else
      let r := Reduce.apply g (fun w => w.expire n g (limit + 1)) { gates := c.gates, red := c.red, out := [] }
      let s := s.setChan n { c with red := r.red }
      s.forAll r.out fun o s => s.redOut n o.1 o.2
  | _, _ => s

end Sys2Proof.Machine
end

