-- ==== Sys2Proof/Machine/MordantOps.lean ====
section
/-!
DEFINITION. Mordant in the device: where its outputs go (R136-R140), the messages that reach it
(R117, R120), the credits it returns (R122), and its enabling and flushing (R125, R126).
-/

namespace Sys2Proof.Machine

/-! ### Outputs -/

/-- A signed addition to a 64-bit pair, modulo 2^64. -/
def State.addPair (a : Nat) (d : Int) (s : State) : State :=
  s.setPair a ((((s.pair a : Int) + d) % (2 ^ 64 : Int)).toNat)

/-- Commits a HIT's deviation (R136): sum, square sum, extremes, extras, and the Lake where its
action asks (R118, R170). -/
def State.commitHit (n : Ch) (dev edge : Int) (lake : Bool) (extras : Nat) (s : State) : State :=
  let b := chBase n
  let s := ((s.count (b + R.CH_MD_HIT_H) 1).count (b + R.CH_MD_XSUM_H) extras).addPair (b + R.CH_MD_DSUM_H) dev
  let s := s.modChan n fun c => { c with devN := c.devN + 1 }
  let s := s.setPair (b + R.CH_MD_DSQ_H) (min (s.pair (b + R.CH_MD_DSQ_H) + (dev * dev).toNat) (2 ^ 64 - 1))
  let s := if dev < signExt 24 (s.f b F.CH_MD_DMIN_DMIN) then s.setF b F.CH_MD_DMIN_DMIN (satSigned 24 dev) else s
  let s := if signExt 24 (s.f b F.CH_MD_DMAX_DMAX) < dev then s.setF b F.CH_MD_DMAX_DMAX (satSigned 24 dev) else s
  if !lake then s
  else if s.act n F.CH_HG_CTL_SRC = 2 then s.histUpdate n dev edge
  else (s.count (b + R.CH_HG_NOSINK_H) 1).raise b F.CH_HG_STAT_NOSINK

/-- One output of channel n's Mordant. -/
def State.mordOut (n : Ch) (o : MOut) (s : State) : State :=
  let b := chBase n
  match o with
  | .verdict w0 w1 => s.forAll (s.verdictLinks n) fun l s => s.send l .msg (bytesBE 8 w0.toNat ++ bytesBE 8 w1.toNat) .none
  | .hit dev edge lake extras => s.commitHit n dev edge lake extras
  | .miss => s.count (b + R.CH_MD_MISS_H) 1
  | .extra => s.count (b + R.CH_MD_EXTRA_H) 1
  | .late => (s.count (b + R.CH_MD_LATE_H) 1).raise b F.CH_STAT_LATE_DESC
  | .logFull => s.raise b F.CH_MD_STAT_LOG_FULL
  | .polSuspect => s.raise b F.CH_STAT_POL_SUSPECT
  | .creditReturn =>
    let m := (s.chan n).mord
    s.modChan n fun c => { c with mord := { m with owed := m.owed + 1, owedSince := some (m.owedSince.getD s.now) } }
  | .withdrawn k => s.count (b + R.CH_MD_WDRAW_H) k

/-- The settings of channel n's Mordant. -/
def State.mdCfg (s : State) (n : Ch) : MdCfg :=
  { ch := n, h := s.f (chBase n) F.CH_MD_H_H, xemit := s.fb (chBase n) F.CH_MD_CTL_XEMIT,
    polchk := s.fb (chBase n) F.CH_MD_CTL_POLCHK }

/-- The generation shows in CH_MD_STAT.GEN. -/
def State.showGen (n : Ch) (s : State) : State := s.setF (chBase n) F.CH_MD_STAT_GEN (s.chan n).mord.gen

/-- Puts Mordant's new data in place and sends what it put out, in order. -/
def State.mordSet (n : Ch) (r : Mord × List MOut) (s : State) : State :=
  ((s.modChan n fun c => { c with mord := r.1 }).forAll r.2 fun o s => s.mordOut n o).showGen n

/-- Runs one operation of channel n's Mordant, where it is enabled and its verdicts do not stall (R139). -/
def State.runMord (n : Ch) (op : MdCfg → Mord → Mord × List MOut) (s : State) : State :=
  if !s.fb (chBase n) F.CH_MD_CTL_EN || s.mordantStalls n then s else s.mordSet n (op (s.mdCfg n) (s.chan n).mord)

/-- EARLY and LATE of channel n's window profiles (R119). -/
def State.mdProfile (s : State) (n : Ch) (k : Nat) : Nat × Nat :=
  let w := s.w (chBase n + R.CH_MD_WP + 4 * (k % 16))
  (F.CH_MD_WP_EARLY.of w, F.CH_MD_WP_LATE.of w)

/-- The next element of the queue's head is materialised (R121, R127). -/
def State.materialise (n : Ch) (s : State) : State :=
  s.runMord n fun c m => m.materialise c s.now (s.mdProfile n)

/-- Puts a watermark behind what the reducer holds; one that is still last gives way to it. -/
def putWatermark (t : Int) : List FEntry → List FEntry
  | [] => [.watermark t]
  | [.watermark _] => [.watermark t]
  | e :: l => e :: putWatermark t l

/-- A watermark: while the FIFO is empty and no blind interval runs, device time less 4,096 tk
travels to Mordant behind what the reducer holds (R115). -/
def State.watermark (n : Ch) (s : State) : State :=
  let c := s.chan n
  let t := 16 * (Int.ofNat s.now - 4096)
  if c.fifo.isEmpty && c.blind.isNone && s.clk.running then
    if c.vwait.isEmpty then s.feedMordant n (.watermark t)
    else s.setChan n { c with vwait := putWatermark t c.vwait }
  else s

/-! ### Received content of the links -/

/-- Takes n bytes of the oldest content of a class, across frames. -/
def takeRx (c : FClass) : Nat → List RxFrame → List RxFrame × Nat
  | _, [] => ([], 0)
  | n, f :: t =>
    if f.cls = c then
      if f.bytes.length ≤ n then
        let r := takeRx c (n - f.bytes.length) t
        (r.1, r.2 + f.credits)
      else ({ f with bytes := f.bytes.drop n } :: t, 0)
    else
      let r := takeRx c n t
      (f :: r.1, r.2)

/-- Content of n bytes is taken: frames taken whole return their credits in the next headers (R228). -/
def State.takeContent (l : Link) (c : FClass) (n : Nat) (s : State) : State :=
  let x := s.link l
  let r := takeRx c n x.rx
  s.setLink l { x with rx := r.1, credOwed := x.credOwed.set! c.code (x.credOwed.toList.getD c.code 0 + r.2) }

/-- The bytes of a class up to the end of the frame that holds byte n of them. -/
def throughFrame (c : FClass) : Nat → List RxFrame → Nat
  | _, [] => 0
  | n, f :: t =>
    if f.cls = c then (if n ≤ f.bytes.length then f.bytes.length else f.bytes.length + throughFrame c (n - f.bytes.length) t)
    else throughFrame c n t

/-- An unknown DTYPE: the rest of the payload of the frame that holds word 1 is discarded (R120). -/
def State.discardRest (s : State) : State :=
  s.takeContent .pattern .msg (throughFrame .msg 16 s.link1.rx)

/-! ### Messages (R117, R120) -/

/-- A refused message that names a channel counts there; one that names none counts on the link. -/
def State.mdReject (n : Ch) (f : Fld) (s : State) : State := (s.count (chBase n + R.CH_MD_BAD_H) 1).raise (chBase n) f

def State.noChannel (s : State) : State :=
  (s.count (lkBase 1 + R.LNK_CLS_H) 1).raise (lkBase 1) F.LNK_STAT_CLS_ERR

/-- A descriptor's credit returns at once (R120, R122). -/
def State.returnCredit (n : Ch) (s : State) : State := s.mordOut n .creditReturn

/-- A descriptor arrives for channel code `ch` (R120). -/
def State.descriptor (ch : BitVec 8) (d : Desc) (s : State) : State :=
  let s := s.takeContent .pattern .msg d.bytes
  if h : ch.toNat < 128 then
    let n : Ch := ⟨ch.toNat, h⟩
    if d.malformed then (s.mdReject n F.CH_MD_STAT_BAD_DESC).returnCredit n
    else if !s.fb (chBase n) F.CH_MD_CTL_EN then (s.mdReject n F.CH_MD_STAT_NOEN).returnCredit n
    else
      let r := (s.chan n).mord.queueDesc s.now d
      match r.2 with
      | .accepted err =>
        let s := s.modChan n fun c => { c with mord := r.1 }
        if err then s.raise (chBase n) F.CH_MD_STAT_SEQ_ERR else s
      | .early => (s.mdReject n F.CH_MD_STAT_BAD_DESC).returnCredit n
      | .noSlot => (s.mdReject n F.CH_MD_STAT_QOVR).returnCredit n
  else s.noChannel

/-- What a control message meets before it acts: channel, enable and generation (R120). A message to a
channel whose Mordant stalls waits with the channel (R139). -/
def State.control (ch : BitVec 8) (gen : BitVec 4) (act : Ch → State → State) (s : State) : State :=
  if h : ch.toNat < 128 then
    let n : Ch := ⟨ch.toNat, h⟩
    if !s.fb (chBase n) F.CH_MD_CTL_EN then (s.takeContent .pattern .msg 16).raise (chBase n) F.CH_MD_STAT_NOEN
    else if gen.toNat ≠ (s.chan n).mord.gen then (s.takeContent .pattern .msg 16).raise (chBase n) F.CH_MD_STAT_STALE
    else if s.mordantStalls n then s
    else act n (s.takeContent .pattern .msg 16)
  else (s.takeContent .pattern .msg 16).noChannel

/-- RETRACT (R133, R134). -/
def State.retractMsg (ch : BitVec 8) (seq : BitVec 24) (elem : BitVec 16) (gen : BitVec 4) (s : State) : State :=
  s.control ch gen (fun n s =>
    let r := (s.chan n).mord.retract (s.mdCfg n) s.now seq elem.toNat
    let s := s.mordSet n (r.1, r.2.1)
    if r.2.2 then s.raise (chBase n) F.CH_MD_STAT_RT_PARTIAL else s)

/-- SEAL (R132). -/
def State.sealMsg (ch : BitVec 8) (seq : BitVec 24) (elem : BitVec 16) (gen : BitVec 4) (s : State) : State :=
  s.control ch gen (fun n s => s.mordSet n ((s.chan n).mord.sealMsg (s.mdCfg n) seq elem.toNat))

/-- A message of an unknown DTYPE; bits [39:32] of word 0 name its channel (R120). -/
def State.unknownMsg (w0 : BitVec 64) (s : State) : State :=
  let s := s.discardRest
  let ch := (w0.extractLsb' 32 8).toNat
  if h : ch < 128 then s.mdReject ⟨ch, h⟩ F.CH_MD_STAT_BAD_DESC else s.noChannel

/-! ### Credits (R122, R232) -/

/-- 1 microsecond. -/
def creditWait : Nat := tkUs

/-- A CREDIT message: KIND 0xB, CHANNEL, COUNT (R232). -/
def creditBytes (n k : Nat) : List Byte := bytesBE 8 (0xB * 2 ^ 60 + n * 2 ^ 40 + k * 2 ^ 32) ++ bytesBE 8 0

/-- Once 8 credits are owed, or 1 microsecond after the oldest, a CREDIT message returns them. -/
def State.creditReturn (n : Ch) (s : State) : State :=
  let m := (s.chan n).mord
  match m.owedSince with
  | none => s
  | some t =>
    if m.owed = 0 then s
    else
      let s := if m.owed ≥ 8 then s else s.reach (t + creditWait)
      let k := min m.owed 64
      let s := s.modChan n fun c => { c with mord := { c.mord with owed := m.owed - k, owedSince := if m.owed = k then none else some s.now } }
      s.send .pattern .msg (creditBytes n k) .credit

/-! ### Enabling and flushing (R125, R126) -/

/-- Withdraws everything unsealed without verdicts. -/
def State.flushMord (n : Ch) (s : State) : State := s.mordSet n (s.chan n).mord.flush

/-- Whether EN = 1 is refused (R125, R302). -/
def State.mdRefused (s : State) (n : Ch) : Bool :=
  !decFull (s.w (chBase n + 0x800 + R.CH_DEC)) || !s.actB n F.CH_CFG_EN || s.fusedOff n || !s.ready

/-- A CH_MD_CTL write: a refused EN leaves the other fields to take their values (R125). Enabling
breaks the idle rule of a threshold calibration (R205) and sets the generation to 0; writing EN = 0
flushes (R126). -/
def State.writeMdCtl (n : Ch) (w : Word) (s : State) : State :=
  let b := chBase n
  let was := s.fb b F.CH_MD_CTL_EN
  let keep (s : State) : State := s.setW (b + R.CH_MD_CTL) (F.CH_MD_CTL_EN.into (w &&& 0xF8000000#32) (s.f b F.CH_MD_CTL_EN))
  if F.CH_MD_CTL_EN.of w = 1 then
    if s.mdRefused n then (keep s).raise b F.CH_MD_STAT_EN_REJ
    else if was then keep s
    else
      let s := (keep (s.breakIdle n)).setF b F.CH_MD_CTL_EN 1
      (s.modChan n fun c => { c with mord := { c.mord with gen := 0, expSeq := none, orderRef := none } }).showGen n
  else (((keep s).flushMord n).modChan n fun c => { c with mord := { c.mord with input := [] } }).setF b F.CH_MD_CTL_EN 0

/-- CH_MD_H, 64,000 to 12,800,000, only while EN = 0 (R125). -/
def State.writeMdH (n : Ch) (w : Word) (s : State) : State :=
  let b := chBase n
  if s.fb b F.CH_MD_CTL_EN then s.raise b F.CH_MD_STAT_EN_REJ
  else s.setF b F.CH_MD_H_H (clampNat 64000 12800000 (F.CH_MD_H_H.of w))

/-- CH_MD_CMD.POL_RST (R140). -/
def State.polReset (n : Ch) (s : State) : State :=
  s.modChan n fun c => { c with mord := { c.mord with polCount := 0, polHeld := false } }

/-- CH_MD_CMD.DCLR (R288). -/
def State.dclr (n : Ch) (s : State) : State :=
  let b := chBase n
  let s := s.modChan n fun c => { c with devN := 0 }
  (((s.setPair (b + R.CH_MD_DSUM_H) 0).setPair (b + R.CH_MD_DSQ_H) 0).setF b F.CH_MD_DMIN_DMIN 0x7FFFFF).setF b F.CH_MD_DMAX_DMAX 0x800000

/-- CH_MD_CMD. -/
def State.writeMdCmd (n : Ch) (w : Word) (s : State) : State :=
  let s := if F.CH_MD_CMD_FLUSH.of w = 1 then s.flushMord n else s
  let s := if F.CH_MD_CMD_POL_RST.of w = 1 then s.polReset n else s
  if F.CH_MD_CMD_DCLR.of w = 1 then s.dclr n else s

/-- CH_MD_LVL as it reads. -/
def State.mdLevel (s : State) (n : Ch) : Word :=
  let m := (s.chan n).mord
  F.CH_MD_LVL_LOG.into (F.CH_MD_LVL_TAB.into (F.CH_MD_LVL_QUEUE.into 0#32 m.queue.length) m.tableLen) m.logLen

end Sys2Proof.Machine
end

