-- ==== Sys2Proof/Machine/LinkOps.lean ====
section
/-!
DEFINITION. The two serial links (spec/10): training and admission, lanes, L-frames with their
acknowledgement, replay and credit, electrical idle, degrade and rejoin, and test modes.
-/

namespace Sys2Proof.Machine

/-! ### States and lanes -/

def lnkDisabled : Nat := 0
def lnkHeld : Nat := 1
def lnkDetect : Nat := 2
def lnkLock : Nat := 3
def lnkAlign : Nat := 4
def lnkParam : Nat := 5
def lnkActive : Nat := 6
def lnkDegrade : Nat := 7
def lnkEidle : Nat := 8
def lnkTest : Nat := 9

def lnkBase (l : Link) : Nat := lkBase l.idx

def State.lnk (s : State) (l : Link) (f : Fld) : Nat := s.f (lnkBase l) f
def State.lnkState (s : State) (l : Link) : Nat := s.lnk l F.LNK_STAT_STATE
def State.setLnk (l : Link) (f : Fld) (v : Nat) (s : State) : State := s.setF (lnkBase l) f v
def State.raiseLnk (l : Link) (f : Fld) (s : State) : State := s.raise (lnkBase l) f
def State.goLnk (l : Link) (v : Nat) (s : State) : State := s.setLnk l F.LNK_STAT_STATE v
def State.countLnk (l : Link) (a : Nat) (s : State) : State := s.count ((lnkBase l) + a) 1
def State.modLink (l : Link) (g : LinkSt → LinkSt) (s : State) : State := s.setLink l (g (s.link l))

/-- LNK_LSTATk of physical lane k. -/
def lstat (f : Fld) (k : Lane) : Fld := f.at 4 k.val

def allLanes : List Lane := List.finRange 16

/-- The lanes of a mask. -/
def maskCount (m : Nat) : Nat := (List.range 16).countP fun i => m.testBit i

/-- The lanes in service, a mask of logical numbers; WIDTH and each lane's INSVC follow it. -/
def State.setInsvc (l : Link) (m : Nat) (s : State) : State :=
  let s := (s.setLnk l F.LNK_LANES_INSVC m).setLnk l F.LNK_STAT_WIDTH (maskCount m)
  s.forAll allLanes fun k s =>
    s.setB (lnkBase l) (lstat F.LNK_LSTAT_INSVC k)
      ((s.link l).lanes[k].locked && m.testBit (s.lnk l (lstat F.LNK_LSTAT_LPOS k)))

/-- The logical number of physical lane k. -/
def State.lpos (s : State) (l : Link) (k : Lane) : Nat := s.lnk l (lstat F.LNK_LSTAT_LPOS k)

def State.insvc (s : State) (l : Link) : Nat := s.lnk l F.LNK_LANES_INSVC

/-- The number of lanes in service below a logical number: its index in the striping. -/
def State.laneIndex (s : State) (l : Link) (i : Nat) : Nat := (List.range i).countP fun j => (s.insvc l).testBit j

/-- MINW of R219. -/
def State.minw (s : State) (l : Link) : Nat := s.lnk l F.LNK_CFG_MINWM1 + 1

/-- The lane is enabled: LNK_LANES.EN in force, by logical number. -/
def State.laneEn (s : State) (l : Link) (i : Nat) : Bool := (s.lkA l.idx F.LNK_LANES_EN).testBit i

def LinkSt.modLane (k : Lane) (g : LaneSt → LaneSt) (x : LinkSt) : LinkSt := { x with lanes := x.lanes.set k (g x.lanes[k]) }

/-! ### Blocks on the lanes (R217, R218, R225) -/

/-- Type and content of a control block on the lane of a logical number: bytes 1 to 7. -/
def CtlBlock.bytes (lane : Nat) : CtlBlock → List Byte
  | .idle => bytesBE 1 0x10 ++ bytesBE 6 0
  | .align w m => bytesBE 1 0x20 ++ bytesBE 1 lane ++ bytesBE 2 w.toNat ++ bytesBE 2 m.toNat ++ bytesBE 1 0
  | .train r f => bytesBE 1 0x30 ++ bytesBE 1 lane ++ bytesBE 1 0x5A ++ bytesBE 1 r ++ [f] ++ bytesBE 2 0
  | .degrade m => bytesBE 1 0x40 ++ bytesBE 2 m.toNat ++ bytesBE 4 0
  | .degradeAck m => bytesBE 1 0x41 ++ bytesBE 2 m.toNat ++ bytesBE 4 0
  | .restripe m => bytesBE 1 0x50 ++ bytesBE 2 m.toNat ++ bytesBE 4 0
  | .eidleEnter => bytesBE 1 0x60 ++ bytesBE 6 0

/-- A 64b/66b block with its sync header, before the scrambler. -/
structure LineBlock where
  sync : BitVec 2
  bytes : List Byte
  deriving DecidableEq, Repr

def syncData : BitVec 2 := 0b01#2
def syncCtl : BitVec 2 := 0b10#2

/-- Frames that follow one another without a gap, in data blocks of eight bytes: a frame starts at any
4-byte position, and a zero word fills the last block (R225). -/
def dataBlocks : Nat → List Byte → List LineBlock
  | 0, _ => []
  | n + 1, b =>
    if b.isEmpty then [] else { sync := syncData, bytes := b.take 8 ++ List.replicate (8 - (b.take 8).length) 0#8 } :: dataBlocks n (b.drop 8)

/-- Runs of frames between control blocks become data blocks. -/
def frameRun (l : List (List Byte)) : List LineBlock := dataBlocks (l.map (·.length)).sum l.flatten

/-- The lane of block j among w lanes in service: the index of R218 in ascending logical order. -/
def stripeLane (w j : Nat) : Nat := j % w

/-- The data blocks of one lane, by its index among those in service. -/
def striped (w i : Nat) (l : List LineBlock) : List LineBlock :=
  (l.zipIdx.filter fun p => stripeLane w p.2 = i).map (·.1)

/-- The blocks of a sending on the lane with a logical number, which has index i of w; a burst has none. -/
def lineBlocks (lane w i : Nat) (o : List LineOut) : List LineBlock :=
  let cut := o.foldr (fun (x : LineOut) (a : List LineBlock × List (List Byte)) =>
    match x with
    | .frame b => (a.1, b :: a.2)
    | .ctl c => (⟨syncCtl, c.bytes lane⟩ :: striped w i (frameRun a.2) ++ a.1, [])
    | .burst => (striped w i (frameRun a.2) ++ a.1, [])) ([], [])
  striped w i (frameRun cut.2) ++ cut.1

/-- One bit through the self-synchronous scrambler x^58 + x^39 + 1: bit i of the register is the line bit
i + 1 bits ago. -/
def scrambleBit (r : BitVec 58) (b : Bool) : Bool × BitVec 58 :=
  let o := xor b (xor (r.getLsbD 38) (r.getLsbD 57))
  (o, (r <<< 1) ||| (BitVec.ofBool o).setWidth 58)

/-- The receiver's side of it. -/
def descrambleBit (r : BitVec 58) (o : Bool) : Bool × BitVec 58 :=
  (xor o (xor (r.getLsbD 38) (r.getLsbD 57)), (r <<< 1) ||| (BitVec.ofBool o).setWidth 58)

/-! ### Training (R219-R221) -/

/-- Leaves ACTIVE, or whatever stands for it, for another state: the lanes go out of service. -/
def State.leaveActive (l : Link) (st : Nat) (s : State) : State :=
  let was := s.lnkState l
  let s := if was = lnkActive ∨ was = lnkDegrade ∨ was = lnkEidle then s.modLink l fun x => { x with leftAt := some s.now } else s
  (s.setInsvc l 0).goLnk l st

/-- Retrains, keeping link state under R221. -/
def State.retrain (l : Link) (s : State) : State := (s.leaveActive l lnkDetect).raiseLnk l F.LNK_STAT_RETRAIN

/-- Admission at start-up: HELD to DETECT, provided EN = 1. -/
def State.linkAdmit (l : Link) (s : State) : State :=
  if s.lnkState l = lnkHeld then
    (s.setLnk l F.LNK_STAT_ADMITTED 1).goLnk l (if s.lnk l F.LNK_CFG_EN = 1 then lnkDetect else lnkDisabled)
  else s

/-- The rate a RATE code stands for: 0b11 acts as 0b00. -/
def rateOf (r : Nat) : Nat := if r = 3 then 0 else r

/-- The partner's TRAIN is seen: LOCK, at the rate read for this training. -/
def State.trainSeen (l : Link) (s : State) : State :=
  if s.lnkState l = lnkDetect then (s.setLnk l F.LNK_STAT_RATE_ACT (rateOf (s.lnk l F.LNK_CFG_RATE))).goLnk l lnkLock else s

/-- Training sets a lane's taps, and its adaptation begins anew from them (R222). -/
def State.trained (l : Link) (k : Lane) (locked joining : Bool) (s : State) : State :=
  (s.modLink l fun x => x.modLane k fun y => { y with locked := locked, taps := List.replicate 6 0, fast := false, joining := joining }).setLnk l
    (lstat F.LNK_LSTAT_FROZEN k) 0

/-- LOCK ends: MINW lanes locked lead to ALIGN, else to the next lower rate, or to DETECT at the
configured rate. Which lanes LNK_LANES.EN admits is judged by their numbers, after ALIGN. -/
def State.lockEnd (l : Link) (locked : BitVec 16) (s : State) : State :=
  if s.lnkState l ≠ lnkLock then s
  else
    let ok (k : Lane) : Bool := locked.getLsbD k
    if (allLanes.countP ok) ≥ s.minw l then
      (s.forAll allLanes fun k s => s.trained l k (ok k) false).goLnk l lnkAlign
    else
      let r := s.lnk l F.LNK_STAT_RATE_ACT
      if s.lnk l F.LNK_CFG_AUTO_DOWN = 1 ∧ r < 2 then
        (s.setLnk l F.LNK_STAT_RATE_ACT (r + 1)).raiseLnk l F.LNK_STAT_RATE_DOWN
      else (s.setLnk l F.LNK_STAT_RATE_ACT (rateOf (s.lnk l F.LNK_CFG_RATE))).goLnk l lnkDetect

/-- ALIGN ends: complemented lanes are marked; the locked lanes number themselves 0 to 15, or all in
reverse; anything else is ORDER_ERR (R220). -/
def State.alignEnd (l : Link) (linv : BitVec 16) (nums : Vector (BitVec 4) 16) (s : State) : State :=
  if s.lnkState l ≠ lnkAlign then s
  else
    let ks := allLanes.filter fun k => (s.link l).lanes[k].locked
    let straight := ks.all fun k => nums[k].toNat = k.val
    let reversed := ks.all fun k => nums[k].toNat = 15 - k.val
    if straight || reversed then
      let s := s.forAll allLanes fun k s =>
        (s.setB (lnkBase l) (lstat F.LNK_LSTAT_LINV k) (ks.contains k && linv.getLsbD k)).setLnk l (lstat F.LNK_LSTAT_LPOS k)
          (if straight then k.val else 15 - k.val)
      (s.setB (lnkBase l) F.LNK_STAT_REV (!straight)).goLnk l lnkParam
    else (s.raiseLnk l F.LNK_STAT_ORDER_ERR).modLink l fun x => { x with orderErr := true }

/-- 1 ms after ORDER_ERR the link returns to DETECT. -/
def State.orderRetry (l : Link) (s : State) : State :=
  if s.lnkState l = lnkAlign && (s.link l).orderErr then
    (s.modLink l fun x => { x with orderErr := false }).goLnk l lnkDetect
  else s

/-- The credits the device grants (R228), by class code. -/
def grants : Link → Vector Nat 6
  | .host => #v[0, 64, 0, 0, 0, 0]
  | .pattern => #v[0, 0, 1024, 64, 0, 0]

/-- What is sent again after an admission: unacknowledged frames without their CREDIT messages
(R221); records go again from the start. -/
def UFrame.again (f : UFrame) : Option UFrame :=
  if f.cls = .record then none
  else
    let is := f.items.filter fun i => i.tag ≠ .credit
    if is.isEmpty then none else some { f with items := is, payload := (is.map (·.bytes)).flatten, rsnd := true }

/-- An admission (R221): link state reset. Frames that an earlier admission has not sent again yet come
after those it has. -/
def State.admission (l : Link) (credits : Vector Nat 6) (s : State) : State :=
  let s := s.raiseLnk l F.LNK_STAT_LINK_RESET
  let s := if l = .pattern then
      let s := s.forAll allCh fun n s => if s.fb (chBase n) F.CH_MD_CTL_EN then s.flushMord n else s
      { s with chans := s.chans.map fun (c : Chan) => { c with mord := { c.mord with owed := 0, owedSince := none } } }
    else s
  let x := s.link l
  let recs := (x.unacked.filter fun f => f.cls = .record).flatMap (·.items)
  let tx := (recs.map fun i => { i with off := 0, rsnd := true }) ++
    (x.tx.filter fun i => i.tag ≠ .credit).map fun i => if i.off = 0 then i else { i with off := 0, rsnd := true }
  s.setLink l { LinkSt.reset with
    tx := tx, resend := ((x.unacked ++ x.resend).filterMap UFrame.again), oldestAt := s.now, txCred := credits, rxCred := grants l,
    rx := x.rx.map fun f => { f with credits := 0 }, lanes := x.lanes, fresh := false, leftAt := none,
    busyAt := x.busyAt, sent := x.sent, wire := x.wire, windows := x.windows, winAt := x.winAt }

/-- PARAM agrees: the link is ACTIVE, as an admission where link state is reset (R219, R221). `keep`
says that the partner's side keeps link state too. A mask below MINW ends in DETECT, as R235 has it. -/
def State.paramDone (l : Link) (mask : BitVec 16) (credits : Vector Nat 6) (keep : Bool) (s : State) : State :=
  if s.lnkState l ≠ lnkParam then s
  else
    let x := s.link l
    let kept := keep && !x.fresh && (match x.leftAt with | some t => decide (s.now < t + 10 * tkMs) | none => false)
    let m := (List.range 16).foldl (fun a i =>
      if mask.getLsbD i && s.laneEn l i && allLanes.any (fun k => x.lanes[k].locked && s.lpos l k == i) then a + 2 ^ i else a) 0
    if maskCount m < s.minw l then s.retrain l
    else
      let s := (s.setInsvc l m).goLnk l lnkActive
      if kept then s.modLink l fun x => { x with oldestAt := s.now, busyAt := s.now } else s.admission l credits

/-- LNK_CFG.EN written (R219). -/
def State.lnkEn (l : Link) (en : Bool) (s : State) : State :=
  let was := s.lnk l F.LNK_CFG_EN
  let s := s.setLnk l F.LNK_CFG_EN (bit en)
  let st := s.lnkState l
  if st = lnkHeld then s
  else if !en then (s.leaveActive l lnkDisabled)
  else if was = 0 ∨ st = lnkDisabled then (s.modLink l fun x => { x with fresh := true }).goLnk l lnkDetect
  else s

/-- LNK_CMD.RETRAIN and RESET: the link retrains where it is past admission and not in TEST. RESET written
in any state lets the next PARAM reset link state (R221). -/
def State.lnkRetrain (l : Link) (reset : Bool) (s : State) : State :=
  let st := s.lnkState l
  let s := if reset then s.modLink l fun x => { x with fresh := true } else s
  if st = lnkDisabled ∨ st = lnkHeld ∨ st = lnkTest then s else s.retrain l

/-! ### Frames out (R225-R230) -/

/-- The sixteen header bytes and the payload (R225). -/
def frameBytes (ftype seq ackseq : Nat) (ackv nak rsnd : Bool) (cred cclass : Nat) (payload : List Byte) : List Byte :=
  let w0 := 2 ^ 60 + ftype * 2 ^ 56 + seq * 2 ^ 44 + ackseq * 2 ^ 32 + bit ackv * 2 ^ 31 + bit nak * 2 ^ 30 + bit rsnd * 2 ^ 29 +
    cred * 2 ^ 16 + cclass * 2 ^ 12 + payload.length
  let head := bytesBE 8 w0 ++ bytesBE 4 0
  head ++ bytesBE 4 (crc32 (head ++ payload)).toNat ++ payload

/-- The credits that the next header returns, and their class. -/
def LinkSt.owes (x : LinkSt) : Nat × Nat :=
  match (List.range 6).find? fun i => x.credOwed.toList.getD i 0 ≠ 0 with
  | some i => (min 4095 (x.credOwed.toList.getD i 0), i)
  | none => (0, 0)

/-- A frame with the acknowledgement in force. -/
def LinkSt.frame (x : LinkSt) (ftype seq : Nat) (nak rsnd : Bool) (o : Nat × Nat) (payload : List Byte) : List Byte :=
  frameBytes ftype seq (x.rxSeq - 1#12).toNat x.rxAny nak rsnd o.1 o.2 payload

/-- Puts a frame on the wire: it carries the acknowledgement and, where credits are owed, the
returns of one class. -/
def State.emit (l : Link) (ftype seq : Nat) (nak rsnd : Bool) (payload : List Byte) (s : State) : State :=
  let x := s.link l
  let o := x.owes
  let b := x.frame ftype seq nak rsnd o payload
  s.setLink l { x with
    sent := b, wire := [.frame b]
    credOwed := x.credOwed.set! o.2 (x.credOwed.toList.getD o.2 0 - o.1)
    rxCred := x.rxCred.set! o.2 (x.rxCred.toList.getD o.2 0 + o.1)
    ackAt := none, busyAt := s.now }

/-- Control blocks or a burst go out. -/
def State.putLine (l : Link) (o : List LineOut) (s : State) : State := s.modLink l fun x => { x with wire := o }

/-- A CTRL frame: acknowledgement, credit, and NAK where one is due. -/
def State.sendCtrl (l : Link) (s : State) : State :=
  let nak := (s.link l).nakDue
  (s.emit l 0 0 nak false []).modLink l fun x => { x with nakDue := false }

/-- A NAK naming the last in-order frame (R226). -/
def State.sendNak (l : Link) (s : State) : State :=
  (s.modLink l fun x => { x with nakDue := true, nakAt := some s.now }).countLnk l R.LNK_NAK_H

/-- Frame bytes held in the replay buffer. -/
def LinkSt.heldBytes (x : LinkSt) : Nat := (x.unacked.map fun f => 16 + f.payload.length).sum

/-- Whether the limits of R226 and the partner's credit let a frame of a class go. -/
def LinkSt.mayGo (x : LinkSt) (c : FClass) (n : Nat) : Bool :=
  decide (x.unacked.length < 2047) && decide (x.heldBytes + 16 + n ≤ 65536) && decide (frameCredits n ≤ x.txCred.toList.getD c.code 0)

/-- Sends a sequenced frame, which enters the replay buffer. -/
def State.sendSeq (l : Link) (c : FClass) (items : List TxItem) (payload : List Byte) (rsnd : Bool) (s : State) : State :=
  let x := s.link l
  let f : UFrame := { seq := x.txSeq, cls := c, items := items, payload := payload, rsnd := rsnd }
  let s := s.setLink l { x with
    txSeq := x.txSeq + 1#12, unacked := x.unacked ++ [f], oldestAt := if x.unacked.isEmpty then s.now else x.oldestAt
    metas := x.metas ++ [{ sentAt := s.now, cred := x.owes.1, cclass := x.owes.2 }], served := x.served.set! c.code s.now
    txCred := x.txCred.set! c.code (x.txCred.toList.getD c.code 0 - frameCredits payload.length) }
  (s.emit l c.code f.seq.toNat false rsnd payload).countLnk l R.LNK_TXF_H

/-- Whole entries from the front of a class that fit in n bytes. -/
def packEntries : Nat → List TxItem → List TxItem
  | _, [] => []
  | n, i :: t => if i.bytes.length ≤ n then i :: packEntries (n - i.bytes.length) t else []

/-- Removes the first n items of a class. -/
def dropClass (c : FClass) : Nat → List TxItem → List TxItem
  | _, [] => []
  | 0, l => l
  | n + 1, i :: t => if i.cls = c then dropClass c n t else i :: dropClass c (n + 1) t

/-- What the next frame of a class would carry: its entries, its payload, and whether it is full. -/
def LinkSt.pack (x : LinkSt) (c : FClass) : List TxItem × List Byte × Bool :=
  let is := x.tx.filter fun i => i.cls = c
  match c, is with
  | _, [] => ([], [], false)
  | .record, i :: _ =>
    let p := (i.bytes.drop i.off).take 256
    ([i], p, decide (p.length = 256))
  | _, is =>
    let ps := packEntries 256 is
    let p := (ps.map (·.bytes)).flatten
    (ps, p, decide (p.length = 256) || decide (ps.length < is.length))

/-- The packing hold of a class in tk; REG has none (R230). -/
def State.holdTk (s : State) (l : Link) (c : FClass) : Nat := if c = .reg then 0 else s.lkA l.idx F.LNK_CFG_HOLD * 5120

/-- Since when the first entry of a class waits, from which its packing hold runs. -/
def LinkSt.first (x : LinkSt) (c : FClass) : Option Nat := (x.tx.find? fun i => i.cls = c).map (·.since)

/-- Since when a class waits: its first entry came, or the class was last served. -/
def LinkSt.waits (x : LinkSt) (c : FClass) : Option Nat := (x.first c).map fun t => max t (x.served.toList.getD c.code 0)

/-- Sends the next frame of a class. -/
def State.sendClass (l : Link) (c : FClass) (s : State) : State :=
  let x := s.link l
  let p := x.pack c
  match c, p.1 with
  | _, [] => s
  | .record, i :: _ =>
    let last := decide (i.bytes.length ≤ i.off + p.2.1.length)
    let tx := if last then x.tx.erase i else updateFirst (fun j => j = i) (fun j => { j with off := j.off + p.2.1.length }) x.tx
    (s.setLink l { x with tx := tx }).sendSeq l c (if last then [i] else []) p.2.1 i.rsnd
  | _, ps =>
    let tx := dropClass c ps.length x.tx
    (s.setLink l { x with tx := tx }).sendSeq l c ps p.2.1 false

/-- Classes in the order of service; CTRL goes before them (R230). -/
def serveOrder : List FClass := [.msg, .reg, .result, .record]

/-- The class served next: one that has waited 2 microseconds, longest first, else by the order. -/
def State.nextClass (s : State) (l : Link) (ignoreHold : Bool) : Option FClass :=
  let x := s.link l
  let open_ := serveOrder.filter fun c =>
    let p := x.pack c
    !p.1.isEmpty && x.mayGo c p.2.1.length &&
    (ignoreHold || p.2.2 || (match x.first c with | some t => decide (t + s.holdTk l c ≤ s.now) | none => false))
  let old := open_.filter fun c => match x.waits c with | some t => decide (t + 2 * tkUs ≤ s.now) | none => false
  match old with
  | [] => open_.head?
  | c :: cs => some (cs.foldl (fun b d => if (x.waits d).getD 0 < (x.waits b).getD 0 then d else b) c)

/-- The link is free and a frame is sent (R230). -/
def State.frameSend (l : Link) (s : State) : State :=
  let x := s.link l
  if s.lnkState l ≠ lnkActive then s
  else if x.nakDue then s.sendCtrl l
  else match x.resend with
    | f :: rest =>
      if x.mayGo f.cls f.payload.length then
        (s.setLink l { x with resend := rest }).sendSeq l f.cls f.items f.payload true
      else s
    | [] => match s.nextClass l false with
      | some c => s.sendClass l c
      | none => s

/-- When the packing hold of a class ends. -/
def State.holdEnd (s : State) (l : Link) (c : FClass) : Nat := ((s.link l).first c).getD 0 + s.holdTk l c

/-- The packing hold that ends first expires and its frame goes. A NAK, and frames that an admission sends
again, go before every class. -/
def State.holdExpiry (l : Link) (s : State) : State :=
  let x := s.link l
  let open_ := serveOrder.filter fun c =>
    let p := x.pack c
    !p.1.isEmpty && x.mayGo c p.2.1.length
  if s.lnkState l ≠ lnkActive then s
  else if x.nakDue || !x.resend.isEmpty then s.frameSend l
  else match open_ with
    | [] => s
    | c :: cs =>
      let d := cs.foldl (fun b d => if s.holdEnd l d < s.holdEnd l b then d else b) c
      (s.reach (s.holdEnd l d)).sendClass l d

/-- An acknowledgement owed goes in a CTRL frame (R226). -/
def State.ackInterval (l : Link) (s : State) : State :=
  match (s.link l).ackAt with
  | some t => if s.lnkState l = lnkActive then (s.reach (t + s.lnk l F.LNK_TIMER_ACK_INT * 640)).sendCtrl l else s
  | none => s

/-! ### Acknowledgement and replay (R226, R227) -/

/-- What an acknowledged item releases. -/
def State.released (i : TxItem) (s : State) : State :=
  match i.tag with
  | .record u ch number => (s.freeRecord u ch number).setNext u
  | .block p ch => { s with blocks := s.blocks.set p ((s.blocks[p]).map fun (b : Block) => if b.ch = ch then { b with out := b.out - 1 } else b) }
  | _ => s

/-- Frames up to ACKSEQ leave the replay buffer. -/
def State.acked (l : Link) (seq : BitVec 12) (s : State) : State :=
  let x := s.link l
  if x.unacked.any fun f => f.seq == seq then
    let done := x.unacked.takeWhile fun f => f.seq != seq
    let n := done.length + 1
    let gone := x.unacked.take n
    let ms := x.metas.drop n
    let s := s.setLink l { x with
      unacked := x.unacked.drop n, metas := ms, oldestAt := (ms.map (·.sentAt)).headD s.now, replays := 0 }
    s.forAll (gone.flatMap (·.items)) fun i s => s.released i
  else s

/-- The frames of the replay buffer as they go out again: with the acknowledgement in force, and the
credits they returned at first. -/
def LinkSt.again (x : LinkSt) : List (List Byte) :=
  (x.unacked.zip x.metas).map fun p => x.frame p.1.cls.code p.1.seq.toNat false p.1.rsnd (p.2.cred, p.2.cclass) p.1.payload

/-- Replays every unacknowledged frame behind an IDLE block; after four replays of one frame the link
retrains. -/
def State.replay (l : Link) (s : State) : State :=
  let x := s.link l
  if x.unacked.isEmpty then s
  else if x.replays ≥ 4 then (s.modLink l fun x => { x with replays := 0 }).retrain l
  else
    let s := s.setLink l { x with
      replays := x.replays + 1, oldestAt := s.now, busyAt := s.now, metas := x.metas.map fun m => { m with sentAt := s.now }
      ackAt := none, wire := .ctl .idle :: x.again.map .frame, sent := x.again.getLastD x.sent }
    s.count ((lnkBase l) + R.LNK_RPLY_H) x.unacked.length

/-- A NAK names the last in-order frame: everything after it is replayed. -/
def State.nakReceived (l : Link) (seq : BitVec 12) (s : State) : State :=
  if s.lnkState l = lnkActive then (s.acked l seq).replay l else s

/-- REPLAY_TO in tk. -/
def State.replayTo (s : State) (l : Link) : Nat := s.lnk l F.LNK_TIMER_REPLAY_TO * 5120

/-- REPLAY_TO expires for a NAK no replay has followed, or for the oldest unacknowledged frame,
whichever comes first. -/
def State.replayTimeout (l : Link) (s : State) : State :=
  let x := s.link l
  let to_ := s.replayTo l
  let nak := x.nakAt.map (· + to_)
  let old := if x.unacked.isEmpty then none else some (x.oldestAt + to_)
  if s.lnkState l ≠ lnkActive then s
  else match nak, old with
    | none, none => s
    | some a, none => (s.reach a).sendNak l
    | none, some b => (s.reach b).replay l
    | some a, some b => if a ≤ b then (s.reach a).sendNak l else (s.reach b).replay l

/-! ### Frames in -/

/-- The class of an FTYPE. -/
def classOf (n : Nat) : Option FClass :=
  match n with
  | 0 => some .ctrl | 1 => some .reg | 2 => some .msg | 3 => some .event | 4 => some .result | 5 => some .record
  | _ => none

/-- Classes the device receives (R229). -/
def receives (l : Link) (c : FClass) : Bool :=
  match l, c with
  | .host, .reg | .pattern, .msg | .pattern, .event => true
  | _, _ => false

/-- The 16-byte messages of an EVENT payload, split into those kept and the count discarded (R231). -/
def eventSplit : Nat → List Byte → List Byte × Nat
  | 0, _ => ([], 0)
  | fuel + 1, b =>
    if b.isEmpty then ([], 0)
    else
      let m := b.take 16
      let r := eventSplit fuel (b.drop 16)
      let kind := (m.headD 0#8).toNat / 16
      if m.length = 16 ∧ (kind = 1 ∨ kind = 2) then (m ++ r.1, r.2) else (r.1, r.2 + 1)

/-- The bytes of the oldest frame of a class whose content waits. -/
def frontBytes (c : FClass) : List RxFrame → List Byte
  | [] => []
  | f :: t => if f.cls = c then f.bytes else frontBytes c t

/-- Whether a REG request has an OP that R233 does not name. -/
def badOp (w : Nat) : Bool := decide (w / 2 ^ 60 = 0) || decide (5 < w / 2 ^ 60)

/-- The answer to a REG request word that names no OP: STATUS 0x03 and nothing done (R233). -/
def badOpAnswer (w : Nat) : List Byte :=
  bytesBE 8 (8 * 2 ^ 60 + w % 2 ^ 60 / 2 ^ 38 * 2 ^ 38 + 3 * 2 ^ 24 + w % 2 ^ 24)

/-- Requests with an unknown OP at the front of the host link's content are answered in turn; each is
taken as the one word it has for certain. -/
def State.answerBadOps : Nat → State → State
  | 0, s => s
  | n + 1, s =>
    let b := frontBytes .reg s.link0.rx
    let w := ofBytesBE (b.take 8)
    if 8 ≤ b.length ∧ badOp w then
      State.answerBadOps n ((s.takeContent .host .reg 8).send .host .reg (badOpAnswer w) .none)
    else s

/-- How many request words the content of a link can hold. -/
def rxWords (l : List RxFrame) : Nat := (l.map fun f => f.bytes.length).sum / 8

def State.refuseBadOps (s : State) : State := s.answerBadOps (rxWords s.link0.rx)

/-- Content of an accepted frame. -/
def State.content (l : Link) (c : Option FClass) (payload : List Byte) (credits : Nat) (s : State) : State :=
  match c with
  | some c =>
    if receives l c then
      let p := if c = .event then eventSplit 16 payload else (payload, 0)
      let s := s.count ((lnkBase l) + R.LNK_CLS_H) p.2
      if p.1.isEmpty then s.modLink l fun x => { x with credOwed := x.credOwed.set! c.code (x.credOwed.toList.getD c.code 0 + credits) }
      else (s.modLink l fun x => { x with rx := x.rx ++ [{ cls := c, bytes := p.1, credits := credits }] }).refuseBadOps
    else (s.countLnk l R.LNK_CLS_H).raiseLnk l F.LNK_STAT_CLS_ERR
  | none => (s.countLnk l R.LNK_CLS_H).raiseLnk l F.LNK_STAT_CLS_ERR

/-- The acknowledgement in a good frame's header. -/
def State.ackIn (l : Link) (w0 : Nat) (s : State) : State :=
  if w0 / 2 ^ 31 % 2 = 1 then s.acked l (BitVec.ofNat 12 (w0 / 2 ^ 32)) else s

/-- Acknowledgement and credit in the header of a frame that is not discarded. -/
def State.headerIn (l : Link) (w0 : Nat) (s : State) : State :=
  let s := s.ackIn l w0
  let c := w0 / 2 ^ 12 % 16
  if c < 6 then s.modLink l fun x => { x with txCred := x.txCred.set! c (x.txCred.toList.getD c 0 + w0 / 2 ^ 16 % 4096) } else s

/-- A frame that fails: it and every later one is discarded until replay, and a NAK goes out. -/
def State.badFrame (l : Link) (s : State) : State :=
  if (s.link l).discarding then s else (s.modLink l fun x => { x with discarding := true }).sendNak l

/-- A sequenced frame with a good CRC (R226, R228). -/
def State.seqFrame (l : Link) (afterCtl : Bool) (w0 : Nat) (payload : List Byte) (s : State) : State :=
  let x := s.link l
  let seq := BitVec.ofNat 12 (w0 / 2 ^ 44)
  let c := classOf (w0 / 2 ^ 56 % 16)
  let behind := (x.rxSeq - seq).toNat
  if x.discarding && !(afterCtl && seq == x.rxSeq) then s
  else if seq = x.rxSeq then
    let need := match c with | some c => if receives l c then frameCredits payload.length else 0 | none => 0
    let code := match c with | some c => c.code | none => 0
    if x.rxCred.toList.getD code 0 < need then (s.raiseLnk l F.LNK_STAT_CRED_ERR).badFrame l
    else
      let s := s.setLink l { x with
        discarding := false, nakAt := none, rxSeq := x.rxSeq + 1#12, rxAny := true, ackAt := some (x.ackAt.getD s.now)
        rxCred := x.rxCred.set! code (x.rxCred.toList.getD code 0 - need) }
      (((s.headerIn l w0).countLnk l R.LNK_RXF_H).content l c payload need)
  else if behind ≤ 2048 then
    ((s.ackIn l w0).countLnk l R.LNK_DUP_H).modLink l fun x => { x with ackAt := some (x.ackAt.getD s.now) }
  else s.sendNak l

/-- Payload lengths of R225: none in a CTRL frame, else 4 to 256 bytes in fours. -/
def lenOk (w0 : Nat) : Bool :=
  let n := w0 % 512
  if w0 / 2 ^ 56 % 16 = 0 then n == 0 else decide (4 ≤ n) && decide (n ≤ 256) && n % 4 == 0

/-- An L-frame arrives; `afterCtl` says that a control block came directly before it. A frame whose LEN
R225 does not allow is handled as one with a bad CRC (log 104). -/
def State.frameIn (l : Link) (afterCtl : Bool) (bytes : List Byte) (s : State) : State :=
  if s.lnkState l ≠ lnkActive then s
  else
    let w0 := ofBytesBE (bytes.take 8)
    let payload := bytes.drop 16
    let good := decide (16 ≤ bytes.length) && lenOk w0 && decide (payload.length = w0 % 512) &&
      decide ((crc32 (bytes.take 12 ++ payload)).toNat = ofBytesBE ((bytes.drop 12).take 4))
    if !good then ((s.countLnk l R.LNK_CRC_H).raiseLnk l F.LNK_STAT_CRC_ERR).badFrame l
    else if w0 / 2 ^ 56 % 16 = 0 then
      if (s.link l).discarding then s else s.headerIn l w0
    else s.seqFrame l afterCtl w0 payload

/-- What the transmitter of physical lane k last put out: nothing in electrical idle, TRAIN on enabled
lanes in training, and its share of the last sending on a lane in service. -/
def State.laneOut (s : State) (l : Link) (k : Lane) : List LineBlock :=
  let i := s.lpos l k
  let st := s.lnkState l
  if st = lnkDetect ∨ st = lnkLock ∨ st = lnkAlign ∨ st = lnkParam then
    if s.laneEn l i then
      [⟨syncCtl, (CtlBlock.train (s.lnk l F.LNK_STAT_RATE_ACT) (Config.trainFlags (bit (s.link l).fresh))).bytes i⟩]
    else []
  else if (st = lnkActive ∨ st = lnkDegrade) ∧ (s.insvc l).testBit i then
    lineBlocks i (maskCount (s.insvc l)) (s.laneIndex l i) (s.link l).wire
  else []

/-! ### Lanes: adaptation, loss, degrade, rejoin (R222, R223, R235, R236) -/

/-- A tap moves by at most one code and stays within 6 codes of its trained value. -/
def moveTap (t d : Int) : Int := max (-6) (min 6 (t + max (-1) (min 1 d)))

/-- The moves held at the limit. -/
def tapHeld (t d : Int) : Bool := decide (6 < t + d) || decide (t + d < -6)

/-- One microsecond of adaptation: `moves` are the directions its taps want, `quiet` says that more
than 99 % of its blocks carried nothing. -/
def State.adapt (l : Link) (k : Lane) (moves : List Int) (quiet : Bool) (s : State) : State :=
  if s.lnkState l ≠ lnkActive ∨ s.lnk l (lstat F.LNK_LSTAT_INSVC k) = 0 then s
  else if quiet then s.setLnk l (lstat F.LNK_LSTAT_FROZEN k) 1
  else if s.lnk l (lstat F.LNK_LSTAT_FROZEN k) = 1 then s
  else
    let ts := (s.link l).lanes[k].taps
    let dirs := (moves.map fun d => max (-1) (min 1 d)) ++ List.replicate 6 0
    let s := s.modLink l fun x => x.modLane k fun y => { y with taps := ts.zipWith moveTap dirs }
    if (ts.zip dirs).any fun p => tapHeld p.1 p.2 then s.raiseLnk l (lstat F.LNK_LSTAT_CLAMP k) else s

/-- 256 data blocks after a frozen lane's data returns, the slicer's errors decide. -/
def State.reverify (l : Link) (k : Lane) (errors : Nat) (s : State) : State :=
  if s.lnk l (lstat F.LNK_LSTAT_FROZEN k) = 0 then s
  else
    let s := s.setLnk l (lstat F.LNK_LSTAT_FROZEN k) 0
    if errors = 0 then s
    else (s.countSat (lnkBase l) (lstat F.LNK_LSTAT_REVF k) 1).modLink l fun x => x.modLane k fun y => { y with fast := true }

/-- The 2 microseconds of fast adaptation end: its moves are at most two codes in each of eight
quarter microseconds. -/
def State.fastEnd (l : Link) (k : Lane) (moves : List Int) (s : State) : State :=
  let y := (s.link l).lanes[k]
  if !y.fast then s
  else
    let dirs := moves ++ List.replicate 6 0
    let ts := y.taps.zipWith (fun t d => max (-6) (min 6 (t + max (-16) (min 16 d)))) dirs
    let s := s.modLink l fun x => x.modLane k fun y => { y with taps := ts, fast := false }
    if (y.taps.zip dirs).any fun p => tapHeld p.1 p.2 then s.raiseLnk l (lstat F.LNK_LSTAT_CLAMP k) else s

/-- A lane drops out of service: counted, and retired at the third loss within 1 s. -/
def State.dropLane (l : Link) (k : Lane) (s : State) : State :=
  let y := (s.link l).lanes[k]
  let ls := s.now :: y.losses.filter fun t => decide (s.now < t + tkSec)
  let s := ((s.modLink l fun x => x.modLane k fun y => { y with losses := ls, joining := false, fast := false }).countSat (lnkBase l)
    (lstat F.LNK_LSTAT_LOSSES k) 1).raiseLnk l F.LNK_STAT_LANE_LOST
  if ls.length ≥ 3 then s.setLnk l (lstat F.LNK_LSTAT_RETIRED k) 1 else s

/-- The mask without a lane. -/
def without (m i : Nat) : Nat := if m.testBit i then m - 2 ^ i else m

/-- Stripes over a mask behind RESTRIPE, or retrains where it falls below MINW; `answer` goes out first. -/
def State.restripe (l : Link) (m : Nat) (answer : List LineOut) (s : State) : State :=
  if maskCount m < s.minw l then s.retrain l
  else
    let s := ((s.setInsvc l m).goLnk l lnkActive).putLine l (answer ++ [.ctl (.restripe (BitVec.ofNat 16 m))])
    (s.modLink l fun x => { x with discarding := true }).sendNak l

/-- A lane in service is lost: DEGRADE with the reduced mask (R235). -/
def State.laneLoss (l : Link) (k : Lane) (s : State) : State :=
  let st := s.lnkState l
  if (st ≠ lnkActive ∧ st ≠ lnkDegrade ∧ st ≠ lnkEidle) ∨ s.lnk l (lstat F.LNK_LSTAT_INSVC k) = 0 then s
  else
    let m := without (s.insvc l) (s.lpos l k)
    let s := s.dropLane l k
    if maskCount m < s.minw l then s.retrain l
    else
      ((s.setInsvc l m).goLnk l lnkDegrade).modLink l fun x =>
        { x with proposed := BitVec.ofNat 16 m, degradeBy := s.now + 4 * tkUs, wire := [.ctl (.degrade (BitVec.ofNat 16 m))] }

/-- Lanes in service that the partner's mask leaves out are lost (R235). -/
def State.dropOutside (l : Link) (m : Nat) (s : State) : State :=
  s.forAll (allLanes.filter fun k => s.lnk l (lstat F.LNK_LSTAT_INSVC k) = 1 && !(m.testBit (s.lpos l k))) fun k s => s.dropLane l k

/-- The partner's DEGRADE: the intersection of the masks is agreed, and traffic resumes on it. -/
def State.degradeIn (l : Link) (mask : BitVec 16) (s : State) : State :=
  let st := s.lnkState l
  if st ≠ lnkActive ∧ st ≠ lnkDegrade then s
  else
    let old := s.insvc l
    let m := (BitVec.ofNat 16 old &&& mask).toNat
    (s.dropOutside l m).restripe l m [.ctl (.degradeAck (BitVec.ofNat 16 m))]

/-- DEGRADE_ACK: both sides re-stripe over the agreed lanes. -/
def State.degradeAck (l : Link) (mask : BitVec 16) (s : State) : State :=
  if s.lnkState l = lnkDegrade then
    let m := ((s.link l).proposed &&& mask).toNat
    (s.dropOutside l m).restripe l m []
  else s

/-- No DEGRADE_ACK within 4 microseconds. -/
def State.degradeTimeout (l : Link) (s : State) : State :=
  if s.lnkState l = lnkDegrade then (s.reach (s.link l).degradeBy).retrain l else s

/-- A lane out of service has retrained in the background and joins at the next window (R236). -/
def State.backgroundLock (l : Link) (k : Lane) (s : State) : State :=
  if s.lnkState l = lnkActive && s.lnk l (lstat F.LNK_LSTAT_RETIRED k) == 0 && s.lnk l (lstat F.LNK_LSTAT_INSVC k) == 0 then
    s.trained l k true true
  else s

/-- LNK_CMD.REJOIN un-retires all lanes. -/
def State.rejoin (l : Link) (s : State) : State :=
  s.forAll allLanes fun k s =>
    (s.setLnk l (lstat F.LNK_LSTAT_RETIRED k) 0).modLink l fun x => x.modLane k fun y => { y with losses := [] }

/-- A width-change window: RWS fields apply, disabled lanes leave, waiting lanes join (R218, R236). -/
def State.applyWindow (l : Link) (s : State) : State :=
  let b := (lnkBase l)
  let s := s.setW (forceBase + b + R.LNK_CFG) (s.w (b + R.LNK_CFG))
  let s := s.setF (forceBase + b) F.LNK_LANES_EN (s.f b F.LNK_LANES_EN)
  if s.lnkState l ≠ lnkActive then s
  else
    let old := s.insvc l
    let join := allLanes.filter fun k => (s.link l).lanes[k].joining && s.laneEn l (s.lpos l k)
    let m := join.foldl (fun m k => if m.testBit (s.lpos l k) then m else m + 2 ^ s.lpos l k)
      ((List.range 16).foldl (fun m i => if s.laneEn l i then m else without m i) old)
    let s := if join.isEmpty then s else s.raiseLnk l F.LNK_STAT_LANE_REJOIN
    let s := s.modLink l fun x => { x with lanes := x.lanes.map fun (y : LaneSt) => { y with joining := false } }
    if m = old then s else if maskCount m < s.minw l then s.retrain l else s.setInsvc l m

/-- The alignment period at the rate in use, 33.792 us at 32.0 Gbit/s. -/
def State.windowTk (s : State) (l : Link) : Nat := 33792 * 640 * 2 ^ s.lnk l F.LNK_STAT_RATE_ACT

/-- The ALIGN block of a lane at a window. -/
def State.alignBlock (s : State) (l : Link) : LineOut := .ctl (.align (s.link l).windows (BitVec.ofNat 16 (s.insvc l)))

/-- Time passes to the next window, whole alignment periods after the last one; every one is counted,
also during electrical idle. -/
def State.nextWindow (l : Link) (s : State) : State :=
  let x := s.link l
  let p := s.windowTk l
  let k := max 1 ((s.now - x.winAt + p - 1) / p)
  (s.reach (x.winAt + k * p)).modLink l fun x => { x with windows := x.windows + BitVec.ofNat 16 k, winAt := x.winAt + k * p }

def State.window (l : Link) (s : State) : State :=
  let s := s.nextWindow l
  if s.lnkState l = lnkEidle then s.modLink l fun x => { x with windowDue := true }
  else
    let s := s.applyWindow l
    if s.lnkState l = lnkActive then s.putLine l [s.alignBlock l] else s

/-! ### Electrical idle (R224) -/

/-- 2 microseconds with nothing to send: EIDLE_ENTER goes out, and the lanes freeze (R222). -/
def State.eidleEnter (l : Link) (s : State) : State :=
  let x := s.link l
  if s.lnkState l = lnkActive && s.lkA l.idx F.LNK_CFG_EIDLE = 1 && x.tx.isEmpty && x.resend.isEmpty && !x.nakDue && x.ackAt.isNone then
    let s := ((s.reach (x.busyAt + 2 * tkUs)).goLnk l lnkEidle).putLine l [.ctl .eidleEnter]
    s.forAll (allLanes.filter fun k => s.lnk l (lstat F.LNK_LSTAT_INSVC k) = 1) fun k s => s.setLnk l (lstat F.LNK_LSTAT_FROZEN k) 1
  else s

/-- The wake: a burst of 1,024 unit intervals, an ALIGN block, 32 ns more; a lane that has not relocked
is lost. -/
def State.eidleWake (l : Link) (relocked : BitVec 16) (s : State) : State :=
  if s.lnkState l ≠ lnkEidle then s
  else
    let exit := match s.lnk l F.LNK_STAT_RATE_ACT with | 0 => 64 | 1 => 96 | _ => 160
    let s := (s.reach (s.now + exit * 640)).goLnk l lnkActive
    let s := if (s.link l).windowDue then (s.modLink l fun x => { x with windowDue := false }).applyWindow l else s
    let s := (s.modLink l fun x => { x with busyAt := s.now }).putLine l [.burst, s.alignBlock l]
    let lost := allLanes.filter fun k => s.lnk l (lstat F.LNK_LSTAT_INSVC k) = 1 && !relocked.getLsbD k
    s.forAll lost fun k s => s.laneLoss l k

/-! ### Test modes (R237) -/

def State.enterTest (l : Link) (s : State) : State :=
  let st := s.lnkState l
  if st = lnkDisabled ∨ st = lnkHeld then s else s.leaveActive l lnkTest

def State.exitTest (l : Link) (s : State) : State := if s.lnkState l = lnkTest then s.goLnk l lnkDetect else s

/-- A LNK_TEST write clears the counters of the lanes it selects. -/
def State.writeTest (l : Link) (w : Word) (s : State) : State :=
  let s := s.setW ((lnkBase l) + R.LNK_TEST) (w &&& 0xF800FFFF#32)
  s.forAll allLanes fun k s =>
    if (F.LNK_TEST_LANES.of w).testBit k then
      (s.setPair ((lnkBase l) + R.LNK_PRBS_H + 8 * k) 0).setLnk l (lstat F.LNK_LSTAT_PRBS_LOCK k) 0
    else s

/-- LNK_CMD. -/
def State.lnkCmd (l : Link) (w : Word) (s : State) : State :=
  let s := if F.LNK_CMD_REJOIN.of w = 1 then s.rejoin l else s
  let s := if F.LNK_CMD_RETRAIN.of w = 1 ∨ F.LNK_CMD_RESET.of w = 1 then s.lnkRetrain l (F.LNK_CMD_RESET.of w = 1) else s
  let s := if F.LNK_CMD_TEST.of w = 1 then s.enterTest l else s
  if F.LNK_CMD_TEST_EXIT.of w = 1 then s.exitTest l else s

end Sys2Proof.Machine
end

