-- ==== Sys2Proof/Machine/CalBase.lean ====
section
/-!
DEFINITION. Calibration events of the front ends as scheduling sees them (R191, R207-R209): causes,
slots, completion and abandonment.
-/

namespace Sys2Proof.Machine

/-- The cluster of a front end, which names its thermal sensor. -/
def feCluster (f : FrontEnd) : Nat := if f.val < 128 then f.val / 16 else f.val - 128

/-- Bit c of the enable grade enables the front ends of cluster c. -/
def State.feFused (s : State) (f : FrontEnd) : Bool := !s.fuses.grade.getLsbD (feCluster f)

def State.calHold (s : State) (f : FrontEnd) : Bool := s.fb (feBase f) F.CH_CAL_CTL_HOLD
def State.calPhase (s : State) (f : FrontEnd) : Nat := s.f (feBase f) F.CH_CAL_STAT_PHASE
def State.setPhase (f : FrontEnd) (p : Nat) (s : State) : State := s.setF (feBase f) F.CH_CAL_STAT_PHASE p

/-- PHASE codes of CH_CAL_STAT. -/
def phNone : Nat := 0
def phOffset : Nat := 1
def phCollect : Nat := 2
def phTrim : Nat := 3
def phOverlap : Nat := 4
def phSwap : Nat := 5
def phThreshold : Nat := 6
def phWait : Nat := 7

/-- CAUSE bits: REF, SPARE, CMD, TEMP, TIME from bit 4 down; a lower rank starts first (R208). -/
def causeRef : Nat := 4
def causeSpare : Nat := 3
def causeCmd : Nat := 2
def causeTemp : Nat := 1
def causeTime : Nat := 0

/-- Raises a cause for a front end with its parts, merged into an event that is pending or running
(R207, R209). A REF during a collection restarts the sampler part; a standby side that becomes due while its
swap is starved is calibrated again (R202). -/
def State.raiseCal (f : FrontEnd) (cause : Nat) (sampler threshold : Bool) (s : State) : State :=
  if s.feFused f || s.calHold f then s
  else
    let b := feBase f
    let x := s.fe f
    let s := s.setF b F.CH_CAL_STAT_CAUSE (s.f b F.CH_CAL_STAT_CAUSE ||| 2 ^ cause)
    let ph := s.calPhase f
    let restart := decide (cause = causeRef) && x.running && decide (ph = phCollect ∨ ph = phTrim ∨ ph = phOffset)
    let again := sampler && x.running && x.starved && decide (ph = phSwap)
    let s := s.setFe f { x with needS := x.needS || sampler, needT := x.needT || threshold, running := x.running && !again,
                                tested := x.tested && !restart && !again, trims := (if restart then 0 else x.trims) }
    if restart then s.setPhase f phOffset else if x.running && !again then s else s.setPhase f phWait

/-- Requests a calibration for a change of reference on every front end (R36, R38, R207). -/
def State.raiseRef (s : State) : State := s.forAll allFe fun f s => s.raiseCal f causeRef true false

/-- A spare begins to stand in for repair (R207); with EN = 0 no such event is raised (R209). -/
def State.raiseSpare (p : Spare) (s : State) : State :=
  if s.fb 0 F.CAL_CTL_EN then s.raiseCal (spareFe p) causeSpare true true else s

/-- Slots in use (R208). -/
def State.calSlots (s : State) : Nat := (allFe.filter fun f => (s.fe f).slot).length

/-- An event ends: what was merged into it meanwhile stays pending, else it is complete and counted. -/
def State.calDone (f : FrontEnd) (s : State) : State :=
  let x := s.fe f
  let s := s.setFe f { x with running := false, slot := false, idleRoute := false, starved := false }
  if x.needS || x.needT then s.setPhase f phWait
  else ((s.setPhase f phNone).setF (feBase f) F.CH_CAL_STAT_CAUSE 0).count R.CAL_EVT_H 1

/-! ### The spare's part in a loan -/

def spStat (p : Spare) : Nat := spBase p
def State.spState (s : State) (p : Spare) : Nat := s.f (spBase p) F.SP_STAT_STATE
def State.spOwner (s : State) (p : Spare) : Nat := s.f (spBase p) F.SP_STAT_OWNER
/-- The channel a spare serves or is being moved to or from. -/
def State.spCh (s : State) (p : Spare) : Ch := chOf (16 * p.val + s.f (spBase p) F.SP_STAT_CUR)

/-- The channel for which a front end's threshold part holds a loan, if it does. -/
def State.loanOf (s : State) (f : FrontEnd) : Option Ch :=
  let n := chOf f.val
  if decide (f.val < 128) && s.spOwner (Ch.spareOf n) == 2 && s.spCh (Ch.spareOf n) == n && s.spState (Ch.spareOf n) != 0 then some n
  else none

/-- A hand-back starts (R71). -/
def State.startHandBack (p : Spare) (next : Option (Fin 16)) (s : State) : State :=
  (s.setF (spBase p) F.SP_STAT_STATE 3).setSpare p { s.spare p with stage := 1, startAt := s.now, next := next }

/-- The loan of an abandoned threshold part ends: the spare hands back what it carries, or idles before it
carries anything (R68, R72). -/
def State.endLoan (f : FrontEnd) (s : State) : State :=
  match s.loanOf f with
  | none => s
  | some n =>
    let p := Ch.spareOf n
    if s.spState p = 2 then s.startHandBack p none
    else if s.spState p = 1 then
      ((((s.setF (spBase p) F.SP_STAT_STATE 0).setF (spBase p) F.SP_STAT_OWNER 0).raise (spBase p) F.SP_STAT_HO_FAIL).setSpare p
        { s.spare p with stage := 0, next := none }).spareEnds n
    else s

/-- Abandons an event in progress (R209); its causes raise it again where `again`. A loan ends with it. -/
def State.calAbandon (f : FrontEnd) (again : Bool) (s : State) : State :=
  let x := s.fe f
  if !x.running then s
  else
    let s := s.setFe f { x with running := false, slot := false, idleRoute := false, starved := false, tested := false,
                                needS := x.needS && again, needT := x.needT && again }
    let s := (s.raise (feBase f) F.CH_CAL_STAT_ABORTED).endLoan f
    let s := if x.idleRoute then
        let n := if f.val < 128 then chOf f.val else chOf (16 * (f.val - 128) + s.f (feBase f) F.SP_STAT_CUR)
        s.modChan n fun c => { c with blind := c.blind.map fun b => { b with endBy := s.now + settlePark, testWait := false } }
      else s
    if again then s.setPhase f phWait else (s.setPhase f phNone).setF (feBase f) F.CH_CAL_STAT_CAUSE 0

/-- A threshold part that ran without a route is abandoned when its front end is to feed a FIFO (R199). -/
def State.breakFree (f : FrontEnd) (s : State) : State :=
  let x := s.fe f
  if x.running && !x.idleRoute && s.calPhase f = phThreshold && (s.loanOf f).isNone then s.calAbandon f true else s

end Sys2Proof.Machine
end

