-- ==== Sys2Proof/Machine/FrontEndOps.lean ====
section
/-!
DEFINITION. Thresholds and front ends: TDAC writes, strobes and pacers (R57-R67), the spare's
handovers (R68-R72), the pin test (R73) and the analogue monitor (R74).
-/

namespace Sys2Proof.Machine

/-! ### Codes and update modes -/

/-- The TDAC output in volts for a code (R57). -/
def tdacVolts (range2 : Bool) (code : Nat) : Rat := (code : Rat) * (if range2 then 9 / 5 else 9 / 10) / 262144

/-- The voltage of a front end's TDAC: 0.45 V while parked, else that of the code it holds (R57, R59). -/
def State.tdacOut (s : State) (f : FrontEnd) : Rat :=
  match (s.fe f).tdac with
  | none => 9 / 20
  | some (w, _) => tdacVolts (decide (F.CH_TDAC_RANGE.of w = 1)) (F.CH_TDAC_CODE.of w)

/-! ### What a comparator compares (R50-R56) -/

/-- The channel whose pins channel n reads: its own, or its partner's, n XOR 1 (R51). -/
def State.pinsOf (s : State) (n : Ch) : Ch :=
  if s.actB n F.CH_CFG_PAIR then chOf (if n.val % 2 = 0 then n.val + 1 else n.val - 1) else n

/-- The termination of a channel's own pins, in ohms across P and N; none while they are high impedance:
in reset, while the channel is fused off, and for every TERM code but 0b01 (R54). -/
def State.termination (s : State) (n : Ch) : Option Nat :=
  if !s.boot.released || s.fusedOff n || termOf (s.act n F.CH_CFG_TERM) ≠ 1 then none else some 100

/-- V_mid (R50). -/
def vMid (range2 : Bool) : Rat := if range2 then 9 / 10 else 9 / 20

/-- The hysteresis that a HYS code adds, in volts (R56). -/
def hysVolts (hys : Nat) : Rat :=
  match hys with
  | 0 => 0
  | 1 => 1 / 400
  | 2 => 1 / 200
  | 3 => 3 / 400
  | 4 => 1 / 100
  | 5 => 1 / 50
  | 6 => 3 / 100
  | _ => 1 / 25

/-- The threshold that front end f sets for channel n: V_TDAC against one pin, V_TDAC − V_mid against the
difference of two (R50). -/
def State.threshold (s : State) (n : Ch) (f : FrontEnd) : Rat :=
  if s.actB n F.CH_CFG_DIFF then
    s.tdacOut f - vMid (match (s.fe f).tdac with | some (w, _) => decide (F.CH_TDAC_RANGE.of w = 1) | none => false)
  else s.tdacOut f

/-- The trip point of a crossing: h/2 above the threshold where the input rises, h/2 below where it falls
(R56). An INPUT_EDGE stands at the instant at which the input passes it. -/
def State.tripPoint (s : State) (n : Ch) (f : FrontEnd) (pinRising : Bool) : Rat :=
  let h := hysVolts (match (s.fe f).tdac with | some (w, _) => F.CH_TDAC_HYS.of w | none => 0)
  if pinRising then s.threshold n f + h / 2 else s.threshold n f - h / 2

/-- Whether an input that goes from `a` to `b` makes the comparator trip, and as what: voltages of the pin
in use, or the difference of the pair in use. -/
def State.trips (s : State) (n : Ch) (f : FrontEnd) (a b : Rat) : Option Bool :=
  if a < s.tripPoint n f true ∧ s.tripPoint n f true ≤ b then some true
  else if s.tripPoint n f false < a ∧ b ≤ s.tripPoint n f false then some false
  else none

/-! ### TDAC writes and strobes -/

/-- Whether an update mode acts as immediate (R62). -/
def immediateMode (m : Nat) : Bool := m == 0 || m == 3

/-- The modulator clock of an immediate write or a GO: 6.4 ns after the start of the present MCLK
cycle (R62, R66). -/
def State.strobeAt (s : State) : Nat := s.now / 2048 * 2048 + 4096

/-- The first modulator clock after the present instant: that of a STROBE message (R66). -/
def State.clockAfter (s : State) : Nat := (s.now / 512 + 1) * 512

/-- A write of CH_TDAC; `w` is the word as stored (R62). A pending value is applied first where MODE
changes; in immediate mode the write is its own strobe. -/
def State.writeTdac (n : Ch) (w : Word) (s : State) : State :=
  let a := chBase n + R.CH_TDAC
  let old := F.CH_TDAC_MODE.of (s.w a)
  let new := F.CH_TDAC_MODE.of w
  let t := s.strobeAt
  let cyc := s.now / 2048 * 2048
  let late := match (s.chan n).tdacLate with
    | some (c, w0, wr) => if c = cyc then (c, w0, wr) else (cyc, s.w a, (s.chan n).tdacWritten)
    | none => (cyc, s.w a, (s.chan n).tdacWritten)
  let s := if old ≠ new then
      let s := if (s.chan n).tdacPend then (s.reach t).applyTdac n t none else s
      s.modChan n fun c => { c with strobes := [] }
    else s
  let s := (s.setW a w).setW (a + 0x800) (F.CH_TDAC_MODE.into (s.w (a + 0x800)) new)
  s.modChan n fun c => { c with tdacPend := true, tdacWritten := true, tdacLate := some late,
                                strobes := if immediateMode new then c.strobes ++ [t] else c.strobes }

/-- The next strobe of an immediate write takes effect. -/
def State.applyStrobe (n : Ch) (s : State) : State :=
  match (s.chan n).strobes with
  | [] => s
  | t :: rest => (((s.reach t).modChan n fun c => { c with strobes := rest })).applyTdac n t none

/-- Whether a channel is in an update mode. -/
def State.inMode (s : State) (n : Ch) (m : Nat) : Bool := decide (s.f (chBase n) F.CH_TDAC_MODE = m)

/-- An array strobe applied at modulator clock `t` (R66, R67): strobes of one clock, from whatever sources,
make one, so device time does not go on to `t` first. A GO or LOAD_N before READY applies nothing, and
still counts as an accepted strobe (DESIGN CHOICE, log 96). -/
def State.arrayStrobe (t : Nat) (s : State) : State :=
  if s.lastStrobe = some t then s
  else
    let s := { s with lastStrobe := some (max t (s.lastStrobe.getD 0)) }.countSat 0 F.DEV_TDAC_SCNT_SCNT 1
    s.forAll (allCh.filter fun n => s.inMode n 2) fun n s => s.applyTdac n t none

/-- A LOAD_N falling edge, now (R66, R67): it applies 8.0 to 8.8 ns later; at the clock of the previous
accepted strobe it joins it, and less than 100 ns after it is ignored and counted. -/
def State.loadEdge (s : State) : State :=
  let t := (s.now + 5120 + 511) / 512 * 512
  let early := match s.lastStrobe with | some l => decide (t ≠ l) && decide (t < l + 64000) | none => false
  if early then s.countSat 0 F.DEV_TDAC_ARR_IGN 1 else s.arrayStrobe t

/-! ### Pacers (R64) -/

/-- A code is pushed on a channel's queue. -/
def State.pushCode (n : Ch) (code : BitVec 18) (s : State) : State :=
  if (s.chan n).tdacQ.length ≥ 64 then s.raise (chBase n) F.CH_PIN_TQ_FULL
  else s.modChan n fun c => { c with tdacQ := c.tdacQ ++ [(s.now, code)], tdacWritten := true }

/-- At a tick at `t` a paced channel takes the next code of its queue, with the pending range and
hysteresis; a code pushed in the tick's own MCLK cycle is not yet in the queue. It applies at the modulator
clock `clk`. -/
def State.pacedApply (n : Ch) (t clk : Nat) (s : State) : State :=
  match (s.chan n).tdacQ with
  | [] => s.raise (chBase n) F.CH_PIN_TQ_UNDER
  | (at_, code) :: rest =>
    if t / 2048 * 2048 ≤ at_ then s.raise (chBase n) F.CH_PIN_TQ_UNDER
    else (s.modChan n fun c => { c with tdacQ := rest }).applyTdac n clk (some code)

def pacerPeriod (w : Word) : Nat := F.DEV_TPACE_PERIOD.of w * 64000

/-- A write of DEV_TPACE_n; `w` is the word as stored. -/
def State.writePacer (k : Fin 8) (w : Word) (s : State) : State :=
  let run := F.DEV_TPACE_RUN.of w = 1
  let next := if run then (s.pacers[k]).or (some (s.now + pacerPeriod w)) else none
  { s.setW (R.DEV_TPACE + 4 * k.val) w with pacers := s.pacers.set k next }

/-- A pacer's tick: every paced channel of the cluster applies at one modulator clock. -/
def State.pacerTick (k : Fin 8) (s : State) : State :=
  match s.pacers[k] with
  | none => s
  | some t =>
    let s := s.reach t
    let s := { s with pacers := s.pacers.set k (some (t + pacerPeriod (s.w (R.DEV_TPACE + 4 * k.val)))) }
    s.forAll ((clusterCh k).filter fun n => s.inMode n 1) fun n s => s.pacedApply n t ((t + 511) / 512 * 512)

/-! ### Park -/

/-- The park ends (R59): the channel unmasks, an absolute stamp is due, gating restarts. A threshold
calibration that the parked front end ran without a route is abandoned (R199). -/
def State.endPark (n : Ch) (s : State) : State :=
  match (s.chan n).parkEnd with
  | none => s
  | some t =>
    let s := (s.reach t).breakFree (s.serving n)
    let s := (s.modChan n fun c => { c with parkEnd := none, stampDue := true, decCount := 0, lastAcc := none }).setF
      (chBase n) F.CH_PIN_PARKED 0
    s.startGating n s.now

/-- SETTLING returns to 0 (R58). -/
def State.endSettling (n : Ch) (s : State) : State :=
  (s.reach (s.chan n).settleBy).setF (chBase n) F.CH_PIN_SETTLING 0

/-! ### The spare's handovers -/

/-- A handover to channel 16p + src starts for an owner (R70). -/
def State.startHandover (p : Spare) (src : Fin 16) (owner : Nat) (s : State) : State :=
  let b := spBase p
  let s := s.breakFree (spareFe p)
  ((((s.setF b F.SP_STAT_STATE 1).setF b F.SP_STAT_OWNER owner).setF b F.SP_STAT_CUR src.val).setSpare p
    { s.spare p with stage := 1, startAt := s.now, next := none }).spareBegins (chOf (16 * p.val + src.val))

/-- A repair request for channel 16p + src (R68); answers none where it is refused. -/
def State.repairRequest (p : Spare) (src : Fin 16) (s : State) : Option State :=
  let n := chOf (16 * p.val + src.val)
  if s.fusedOff n then none
  else match s.spState p, s.spOwner p with
    | 0, _ => some (s.startHandover p src 1)
    | 2, 2 =>
      let loaned := s.spCh p
      let s := (s.abandonThr loaned).setF (chBase loaned) F.CH_CAL_STAT_THR_DEFER 1
      if loaned = n then some (((s.setF (spBase p) F.SP_STAT_OWNER 1).raise (spBase p) F.SP_STAT_HO_DONE).raiseSpare p)
      else some (s.startHandBack p (some src))
    | _, _ => none

/-- A write of SP_ROUTE that its guard has admitted (R68, R69). A release while the spare is idle or on an
Ochre loan is stored and does nothing else (DESIGN CHOICE, log 60). -/
def State.writeRoute (p : Spare) (w : Word) (s : State) : State :=
  let req := F.SP_ROUTE_REQ.of w
  let src : Fin 16 := ⟨F.SP_ROUTE_SRC.of w % 16, Nat.mod_lt _ (by decide)⟩
  let refuse := s.raise (spBase p) F.SP_STAT_BUSY_REJ
  match req with
  | 0 =>
    match s.spState p, s.spOwner p with
    | 2, 1 => ((s.setTv (spBase p + R.SP_ROUTE) w).breakFree (Ch.fe (s.spCh p))).startHandBack p none
    | 1, _ => refuse
    | 3, _ => refuse
    | _, _ => s.setTv (spBase p + R.SP_ROUTE) w
  | 1 => match s.repairRequest p src with
    | some s => s.setTv (spBase p + R.SP_ROUTE) w
    | none => refuse
  | _ => refuse

/-- Row 40 ns of R70: the taking front end's TDAC takes the channel's active CODE, RANGE and HYS with its
own calibration values, unless the channel is parked. -/
def State.handoverLoad (p : Spare) (s : State) : State :=
  let x := s.spare p
  if x.stage = 1 then
    let n := s.spCh p
    let s := (s.reach (x.startAt + 25600)).setSpare p { x with stage := 2 }
    if (s.fe (Ch.fe n)).tdac.isNone then s else s.loadTdac n (if s.spState p = 3 then Ch.fe n else spareFe p)
  else s

/-- Row 2,540 ns of R70: its threshold has settled and its samplers start. -/
def State.handoverSettle (p : Spare) (s : State) : State :=
  let x := s.spare p
  if x.stage = 2 then (s.reach (x.startAt + 1625600)).setSpare p { x with stage := 3 } else s

/-- The overlap check of a handover (R72): mean within 4 tk and RMS at most 3.0 ps. -/
def Overlap.handoverPass (o : Overlap) : Bool :=
  decide (o.pairs = 0) || (decide (-64 ≤ o.mean16) && decide (o.mean16 ≤ 64) && decide (o.rmsFs ≤ 3000))

/-- Where the overlap check ends, t_c: with the 1,024th pair, and at the latest 1 ms after the settled
threshold (R70). -/
def State.overlapEnd (p : Spare) (o : Overlap) (s : State) : State :=
  let due := (s.spare p).startAt + 1625600 + tkMs
  if o.pairs < 1024 then s.reach due else s

/-- The check passes; without a pair the handover goes on unchecked. -/
def State.handoverPassed (p : Spare) (o : Overlap) (s : State) : State :=
  let due := (s.spare p).startAt + 1625600 + tkMs
  let s := s.setSpare p { s.spare p with stage := 4, checkedAt := if o.pairs < 1024 then due else min s.now due }
  if o.pairs = 0 then s.raise (spBase p) F.SP_STAT_UNCHECKED else s

/-- The check fails: a handover leaves the channel on its own front end, a hand-back leaves the spare
standing in. A repair request that waited for the hand-back of a loan is then dropped, while SP_ROUTE goes
on showing it (DESIGN CHOICE, log 97). -/
def State.handoverFailed (p : Spare) (s : State) : State :=
  let b := spBase p
  let s := s.raise b F.SP_STAT_HO_FAIL
  let s := s.setSpare p { s.spare p with stage := 0, next := none }
  if s.spState p = 3 then s.setF b F.SP_STAT_STATE 2
  else
    let s := if s.spOwner p = 2 then s.abandonThr (s.spCh p) else s
    ((s.setF b F.SP_STAT_STATE 0).setF b F.SP_STAT_OWNER 0).spareEnds (s.spCh p)

/-- The stream moves (R70, R71). A further stand-in that waited for the hand-back then starts. -/
def State.moveStream (p : Spare) (s : State) : State :=
  let b := spBase p
  let n := s.spCh p
  let next := (s.spare p).next
  let s := (s.markSpare n).setSpare p { s.spare p with stage := 0, next := none }
  if s.spState p = 1 then
    let s := ((s.setF b F.SP_STAT_STATE 2).raise b F.SP_STAT_HO_DONE).setF (chBase n) F.CH_STAT_SPARE 1
    if s.spOwner p = 1 then s.raiseSpare p else s
  else
    let loan := decide (s.spOwner p = 2)
    let s := (((s.setF b F.SP_STAT_STATE 0).setF b F.SP_STAT_OWNER 0).setF (chBase n) F.CH_STAT_SPARE 0).spareEnds n
    let s := if loan && (s.fe (Ch.fe n)).running then s.calDone (Ch.fe n) else s
    match next with
    | some src => s.startHandover p src 1
    | none => s.raise b F.SP_STAT_HO_DONE

/-- Whether the present instant lies in a gap of at least 2.0 ns between accepted edges of a channel. -/
def State.edgeGap (s : State) (n : Ch) : Bool :=
  match (s.chan n).lastAcc with | some (raw, _, _) => decide (raw + 1280 ≤ s.now) | none => true

/-- Whether a gate of the channel, or a record that captures it, closes at the present instant. -/
def State.closesNow (s : State) (n : Ch) : Bool :=
  (s.chan n).gates.any (fun g => g.ended && decide (g.closeAt = some s.now)) ||
  allUnits.any fun u => (s.tu u).rings.any fun r => r.ch = n && (match r.closed with | some (_, t) => decide (t = s.now) | none => false)

/-- Whether the present instant is a gap of at least 2.0 ns in the channel's stream, or a gate
or record boundary of it; a blind interval is neither (R70, R89). -/
def State.gapNow (s : State) (n : Ch) : Bool :=
  (s.chan n).blind.isNone && (s.edgeGap n || s.closesNow n || (s.chan n).gates.any fun g => decide (g.openAt = s.now))

/-- The stream moves in a gap or at a boundary. -/
def State.handoverMove (p : Spare) (s : State) : State :=
  if (s.spare p).stage = 4 && s.gapNow (s.spCh p) then s.moveStream p else s

/-- No gap within SP_WAIT: the stream moves inside a blind interval of 1,280 tk (R72). The command stands
for the first edge boundary from SP_WAIT's end on. While the channel is blind from another cause the cut
waits (DESIGN CHOICE, log 98). -/
def State.handoverForce (p : Spare) (s : State) : State :=
  let x := s.spare p
  if x.stage ≠ 4 then s
  else
    let s := s.reach (x.checkedAt + s.f (spBase p) F.SP_WAIT_WAIT * tkUs)
    let n := s.spCh p
    if (s.chan n).blind.isSome then s
    else
      let s := if s.live n then
          s.startBlind n { raw := s.now, edge := none } { Causes.none with spare := true } 0 (s.now + 1280) false false
        else s
      (s.moveStream p).raise (spBase p) F.SP_STAT_FORCED

/-! ### The pin test (R73) -/

/-- The result code of a pin from its readings while sourcing and while sinking. -/
def pinCode (source sink : PinBand) : Nat :=
  match source, sink with
  | .high, .low => 2
  | .high, .high => 3
  | .low, .low => 4
  | _, _ => 1

/-- Whether a trigger unit uses a channel: it captures it, or has it as its EDGE or VALUE source (R147). -/
def State.tuUses (s : State) (u : Unit16) (n : Ch) : Bool :=
  (s.tu u).rings.any (fun r => r.ch = n) ||
  (s.srcEn u 14 && decide (s.tuA u F.TRG_TU_EDGE_CH = n.val)) || (s.srcEn u 13 && decide (s.tuA u F.TRG_TU_VCOND_CH = n.val))

/-- Whether a channel is idle as the pin test asks (R73): the handover that must not run is one of the
cluster's spare, whose switch reaches the channel's pins (DESIGN CHOICE, log 99). A fused-off channel has
no test currents (R54). -/
def State.pinTestIdle (s : State) (n : Ch) : Bool :=
  let p := Ch.spareOf n
  (s.chan n).openGate?.isNone && !s.fusedOff n &&
  !(allUnits.any fun u => s.tuState u ≠ tuIdle && s.tuUses u n) &&
  (s.chan n).mord.exps.isEmpty && (s.chan n).mord.queue.isEmpty &&
  !(s.spState p = 1 ∨ s.spState p = 3)

/-- CH_PIN.TEST written 1. -/
def State.pinTest (n : Ch) (s : State) : State :=
  let c := s.chan n
  if c.testing.isSome then s
  else if !s.pinTestIdle n then s.raise (chBase n) F.CH_PIN_PT_REJ
  else
    let s := s.breakIdle n
    let s := (s.modChan n fun c => { c with testing := some s.now }).setF (chBase n) F.CH_PIN_TEST 1
    if s.live n then
      (s.startBlind n { raw := s.now, edge := none } { Causes.none with pinTest := true } 0 s.now false true).setF
        (chBase n) F.CH_PIN_BLIND_T 1
    else s

/-- The pin test ends after 80 microseconds with its readings. -/
def State.pinTestDone (n : Ch) (pp pn : Nat) (joined : Bool) (s : State) : State :=
  match (s.chan n).testing with
  | none => s
  | some t =>
    let b := chBase n
    let s := s.reach (t + 80 * tkUs)
    let s := s.modChan n fun c => { c with testing := none, blind := c.blind.map fun x =>
      { x with testWait := false, endBy := max x.endBy (s.now + settlePark) } }
    ((((s.setF b F.CH_PIN_TEST 0).setF b F.CH_PIN_PT_P pp).setF b F.CH_PIN_PT_N pn).setB b F.CH_PIN_PT_PAIR joined).raise
      b F.CH_PIN_PT_DONE

/-! ### The analogue monitor (R74) -/

/-- What AMON carries. -/
inductive Amon where
  | hiZ
  | tdac (fe : Nat)
  | sensor (k : Nat)
  | reference
  /-- VDDA, VDDT, VDDM, VDDS, VDDH as 1 to 5 -/
  | supply (k : Nat)
  | halfVddio
  deriving DecidableEq, Repr

/-- The voltage that DEV_AMON selects. -/
def State.amon (s : State) : Amon :=
  let i := s.f 0 F.DEV_AMON_IDX
  if s.f 0 F.DEV_AMON_EN = 0 then .hiZ
  else match s.f 0 F.DEV_AMON_GRP with
    | 0 => if i < 128 then .tdac i else .hiZ
    | 1 => if i < 8 then .tdac (128 + i) else .hiZ
    | 2 => if i < 12 then .sensor i else .hiZ
    | 3 => if i = 0 then .reference else if i < 6 then .supply i else if i = 6 then .halfVddio else .hiZ
    | _ => .hiZ

/-- A thermal sensor's voltage at a junction temperature in 0.01 degC. -/
def sensorVolts (t : Int) : Rat := 3 / 5 + (t : Rat) / 100 * (1 / 500)

/-- The buffer's range: what lies outside it reads clipped. -/
def amonClip (v : Rat) : Rat := max (1 / 50) (min (89 / 50) v)

/-- The voltage on AMON, none while it is high impedance; a sensor without a reading, and the supplies,
which the board gives, are free values. -/
def State.amonVolts (s : State) : Option Rat :=
  match s.amon with
  | .hiZ => none
  | .tdac k => some (amonClip (if h : k < 136 then s.tdacOut ⟨k, h⟩ else 0))
  | .sensor k => some (amonClip (match s.temps[k]? with | some t => sensorVolts t | none => Config.boardVolts (16 + k)))
  | .reference => some (9 / 10)
  | .supply k => some (amonClip (Config.boardVolts k))
  | .halfVddio => some (amonClip (Config.boardVolts 0 / 2))

end Sys2Proof.Machine
end

