-- ==== Sys2Proof/Machine/CalOps.lean ====
section
/-!
DEFINITION. Ochre's work on a front end (R192-R206): offset, code density, trims, bin table, overlap
and swap, the threshold part and its routes, and the calibration set's words (R211, R212).
-/

namespace Sys2Proof.Machine

/-! ### Standby values -/

def State.standby (s : State) (f : FrontEnd) : Side := (s.fe f).side.other

/-- FAIL and DSRC fields of a side. -/
def failFld : Side → Fld
  | .a => F.CH_CAL_STAT_FAIL_A
  | .b => F.CH_CAL_STAT_FAIL_B
def dsrcFld : Side → Fld
  | .a => F.CH_CAL_STAT_DSRC_A
  | .b => F.CH_CAL_STAT_DSRC_B

def i32Word (v : Int) : Word := BitVec.ofNat 32 (satSigned 32 v)

/-- Writes a run of words of the set. -/
def State.setCalList (k : Nat) (ws : List Word) (s : State) : State :=
  s.forAll ws.zipIdx fun p s => s.setCal (k + p.2) p.1

/-- Four bytes, most significant first, of each group of four. -/
def packBytes : List Nat → List Word
  | a :: b :: c :: d :: t => BitVec.ofNat 32 (a * 2 ^ 24 + b * 2 ^ 16 + c * 2 ^ 8 + d) :: packBytes t
  | _ => []

def packHalves : List Nat → List Word
  | a :: b :: t => BitVec.ofNat 32 (a % 65536 * 65536 + b % 65536) :: packHalves t
  | _ => []

/-- trim_i of a side. -/
def State.trim (s : State) (f : FrontEnd) (sd : Side) (i : Nat) : Nat :=
  bitsGet (s.calW (samplerBlock f sd + i / 4)) (24 - 8 * (i % 4)) 6

/-- Word offsets within a sampler block (R211). -/
def ofssAt : Nat := 192
def infoAt : Nat := 194
def chiAt : Nat := 196

/-- Whether a side holds a table (the valid bit of R211). -/
def State.sideValid (s : State) (f : FrontEnd) (sd : Side) : Bool := (s.calW (samplerBlock f sd + infoAt)).getLsbD 2

/-- The junction temperature that a cluster's sensor last gave, in 0.01 degC. -/
def State.tj (s : State) (f : FrontEnd) : Int := (s.temps[feCluster f]?).getD 0

/-! ### Code density (R194-R198) -/

/-- The widths of a side's bins in 1/16 tk: between the midpoints of neighbouring centres; 16 where
the side has no table yet. -/
def State.binWidths (s : State) (f : FrontEnd) (sd : Side) : List Rat :=
  if s.sideValid f sd then
    let c (i : Nat) : Rat := (s.bin f sd i : Rat)
    let edge (i : Nat) : Rat := if i = 0 then 0 else if i = 256 then 4096 else (c (i - 1) + c i) / 2
    (List.range 256).map fun i => edge (i + 1) - edge i
  else List.replicate 256 16

/-- The coverage test of R195 on 256 counts against expected widths. -/
def coverage (ns : List Nat) (ws : List Rat) (lim : Nat) : Bool × Rat :=
  let n : Nat := ns.sum
  let es := ws.map fun w => (n : Rat) * w / 4096
  let chi := ratSum ((ns.zip es).map fun p => ((p.1 : Rat) - p.2) * ((p.1 : Rat) - p.2) / p.2)
  (decide (chi ≤ (lim : Rat)) && (ns.zip es).all (fun p => decide (p.2 / 4 ≤ (p.1 : Rat))), chi)

/-- Measured widths w_i = 4096 n_i / N. -/
def measuredWidths (ns : List Nat) : List Rat :=
  let n : Rat := (ns.sum : Rat)
  ns.map fun (k : Nat) => 4096 * (k : Rat) / n

/-- Whether a trim pass is needed: some width is more than 0.3 LSB off (R197). -/
def needsTrim (ws : List Rat) : Bool := ws.any fun w => decide (w - 16 > 24 / 5) || decide (16 - w > 24 / 5)

/-- The trims after a pass, and whether one was held at a limit (R197). -/
def newTrims : Rat → Nat → List Rat → List Nat → List Nat × Bool
  | _, _, [], _ => ([], false)
  | _, _, _ :: _, [] => ([], false)
  | start, i, w :: ws, t :: ts =>
    let v := Int.ofNat t - roundNearest ((start - 16 * (i : Rat)) / (1 / 2))
    let held := decide (v < 0) || decide (v > 63)
    let rest := newTrims (start + w) (i + 1) ws ts
    ((max 0 (min 63 v)).toNat :: rest.1, held || rest.2)

/-- The bin table of R198. -/
def binTable : Rat → List Rat → List Nat
  | _, [] => []
  | acc, w :: ws => (roundNearest (acc + w / 2)).toNat :: binTable (acc + w) ws

/-- Applies a trim pass to a side. -/
def State.trimSide (f : FrontEnd) (sd : Side) (ns : List Nat) (s : State) : State :=
  let r := newTrims 0 0 (measuredWidths ns) ((List.range 256).map fun i => s.trim f sd i)
  let s := s.setCalList (samplerBlock f sd) (packBytes r.1)
  if r.2 then s.raise (feBase f) F.CH_CAL_STAT_TRIM_LIM else s

/-- Sets a side's DSRC code. -/
def State.setDsrc (f : FrontEnd) (sd : Side) (d : Nat) (s : State) : State := s.setF (feBase f) (dsrcFld sd) d

/-- A side's sampler part is complete (R207, R210): its age counts from now. -/
def State.sideDone (f : FrontEnd) (sd : Side) (s : State) : State :=
  s.modFe f fun x => match sd with | .a => { x with lastA := some s.now } | .b => { x with lastB := some s.now }

/-- The words of a side's block of the set. -/
def State.sideWords (s : State) (f : FrontEnd) (sd : Side) : List Word :=
  (List.range 200).map fun i => s.calW (samplerBlock f sd + i)

/-- Writes a side's bin table with its temperature, source and statistic (R198, R211). -/
def State.tableSide (f : FrontEnd) (sd : Side) (ns : List Nat) (dsrc : Nat) (chi : Rat) (s : State) : State :=
  let k := samplerBlock f sd
  let s := s.setCalList (k + 64) (packHalves (binTable 0 (measuredWidths ns)))
  let s := s.setCal (k + infoAt) (BitVec.ofNat 32 (satSigned 16 (s.tj f) * 65536 + 4 + dsrc))
  let s := s.setCal (k + infoAt + 1) 0#32
  let s := s.setCal (k + chiAt) (BitVec.ofNat 32 (min (2 ^ 32 - 1) (chi * 1000).floor.toNat))
  s.setDsrc f sd dsrc

/-- N of a routine collection, of its first test, and of the first full calibration (R194). -/
def nRoutine : Nat := 2 ^ 20
def nFirst : Nat := 2 ^ 16
def nBoot : Nat := 2 ^ 24

/-! ### An event's course -/

/-- The sampler part starts on the standby side, if that side may be calibrated (R196, R200); what the side
held is kept for a part that fails. -/
def State.startSampler (f : FrontEnd) (s : State) : State :=
  let sd := s.standby f
  let x := s.fe f
  let kept := (s.sideWords f sd, s.f (feBase f) (dsrcFld sd), match sd with | .a => x.lastA | .b => x.lastB)
  (s.setPhase f phOffset).setFe f { x with trims := 0, ditherFailed := false, overlapFailed := false, tested := false, kept := some kept }

/-- A collection that has failed on the dither source a second time leaves the side its previous values (R196). -/
def State.restoreSide (f : FrontEnd) (s : State) : State :=
  let sd := s.standby f
  match (s.fe f).kept with
  | none => s
  | some (ws, d, last) =>
    ((s.setCalList (samplerBlock f sd) ws).setDsrc f sd d).modFe f fun x =>
      match sd with | .a => { x with lastA := last } | .b => { x with lastB := last }

/-- The channel whose stream a front end carries, if any. -/
def State.feChannel (s : State) (f : FrontEnd) : Option Ch :=
  if f.val < 128 then if s.fb (chBase f.val) F.CH_STAT_SPARE then none else some (chOf f.val)
  else
    let p : Spare := ⟨(f.val - 128) % 8, Nat.mod_lt _ (by decide)⟩
    if s.fb (chBase (s.spCh p)) F.CH_STAT_SPARE then some (s.spCh p) else none

/-- Whether a front end needs no route: released, parked, disabled, or a spare not standing in (R204). -/
def State.routeFree (s : State) (f : FrontEnd) : Bool :=
  match s.feChannel f with
  | none => true
  | some n => !s.live n

/-- Whether a channel meets the idle route's conditions (R204). -/
def State.idleOk (s : State) (n : Ch) : Bool :=
  let c := s.chan n
  decide (c.idleSince + 100 * tkUs ≤ s.now) && c.openGate?.isNone && c.blind.isNone &&
  !(allUnits.any fun u => (s.tuState u = tuArmed || s.tuState u = tuPost) && (s.tu u).rings.any fun r => r.ch = n) &&
  !s.streamed n && !s.fb (chBase n) F.CH_MD_CTL_EN &&
  !((s.spState (Ch.spareOf n) = 1 ∨ s.spState (Ch.spareOf n) = 3) ∧ s.spCh (Ch.spareOf n) = n)

/-- Whether a service has claimed a channel (R179): the loan route is then closed to it. -/
def State.claimed (s : State) (n : Ch) : Bool := s.indigo.calls.any fun c => c.st = .running && c.claims.any fun x => x.1 = n

/-- Whether the loan route is open to a front end that carries channel n (R179, R204). -/
def State.loanOpen (s : State) (f : FrontEnd) (n : Ch) : Bool :=
  decide (f.val < 128) && s.spState (Ch.spareOf n) == 0 && !s.fb (feBase f) F.CH_CAL_CTL_NOLOAN && !s.claimed n

/-- The threshold part takes a slot and starts by the first route that is open, or waits for a slot or a
route (R204, R208). -/
def State.startThreshold (f : FrontEnd) (s : State) : State :=
  let b := feBase f
  let begin_ (s : State) : State := ((s.setFe f { s.fe f with running := true, slot := true }).setPhase f phThreshold).setF b F.CH_CAL_STAT_THR_DEFER 0
  let wait (s : State) : State := (s.setFe f { s.fe f with running := true, slot := false }).setPhase f phWait
  let free := decide (s.calSlots < 16)
  match if s.routeFree f then none else s.feChannel f with
  | none => if free then begin_ s else wait s
  | some n =>
    if s.loanOpen f n then
      if free then (begin_ s).startHandover (Ch.spareOf n) ⟨n.val % 16, Nat.mod_lt _ (by decide)⟩ 2 else wait s
    else (wait s).setF b F.CH_CAL_STAT_THR_DEFER 1

/-- What follows the sampler part. -/
def State.afterSampler (f : FrontEnd) (s : State) : State :=
  let s := s.setFe f { s.fe f with needS := false, slot := false, starved := false, tested := false, kept := none }
  if (s.fe f).needT then s.startThreshold f else s.calDone f

/-- The rank of an event that is pending, or whose sampler part has come to a threshold part that waits: its
first cause (R208); none where nothing is pending. -/
def State.calRank (s : State) (f : FrontEnd) : Option Nat :=
  let x := s.fe f
  let held := x.needS && decide (s.calPhase f = phWait)
  if (x.running && !held) || !(x.needS || x.needT) || s.calHold f || s.feFused f then none
  else
    let c := s.f (feBase f) F.CH_CAL_STAT_CAUSE
    some (((List.range 5).find? fun k => c.testBit (4 - k)).getD 5)

/-- Whether a pending event is the next to start: no other comes before it in order. -/
def State.calNext (s : State) (f : FrontEnd) : Bool :=
  match s.calRank f with
  | none => false
  | some r => allFe.all fun g => match s.calRank g with
    | none => true
    | some q => decide (r < q ∨ (r = q ∧ f.val ≤ g.val))

/-- An event takes a slot and starts, or its waiting threshold part tries for a slot and its routes again. -/
def State.calStart (f : FrontEnd) (s : State) : State :=
  let x := s.fe f
  if x.running && x.needT && !x.needS && decide (s.calPhase f = phWait) then s.startThreshold f
  else if s.calNext f && decide (s.calSlots < 16) then
    let s := s.setFe f { x with running := true, slot := true }
    if x.needS && s.f (feBase f) (failFld (s.standby f)) = 0 then s.startSampler f else s.afterSampler f
  else s

/-- The offset is measured (R193); the collection's source is chosen (R196). -/
def State.calOffset (f : FrontEnd) (r fl : Int) (s : State) : State :=
  if s.calPhase f ≠ phOffset then s
  else
    let k := samplerBlock f (s.standby f) + ofssAt
    let s := (s.setCal k (i32Word r)).setCal (k + 1) (i32Word fl)
    let live := s.fb 0 F.CAL_CTL_LIVE && !s.fb (feBase f) F.CH_CAL_CTL_LIVE_OFF && s.fb 0 F.CAL_STAT_BOOT_DONE
    (s.modFe f fun x => { x with src := (if live then .live else .dither), dsrc := (if live then 0 else 3), tested := false,
                                 collectAt := s.now }).setPhase f phCollect

/-- Falls back to the dither source (R196). -/
def State.toDither (f : FrontEnd) (dsrc : Nat) (s : State) : State :=
  s.setFe f { s.fe f with src := .dither, dsrc := dsrc, tested := false }

/-- A side failed: it keeps its values, and is left alone until its FAIL bit is cleared. The repair
policy's request follows (R311). -/
def State.calFail (f : FrontEnd) (autoSpare : FrontEnd → State → State) (s : State) : State :=
  autoSpare f ((s.raise (feBase f) (failFld (s.standby f))).afterSampler f)

/-- Live hits reach their number within 20 ms of the collection's start (R196). -/
def State.liveInTime (s : State) (f : FrontEnd) : Bool :=
  (s.fe f).src != .live || decide (s.now ≤ (s.fe f).collectAt + 20 * tkMs)

/-- A collection is tested at 2^16 hits and again at N, and used when it has passed both (R194-R198); live hits
that come too late are not used (R196). -/
def State.calCollect (f : FrontEnd) (ns : List Nat) (autoSpare : FrontEnd → State → State) (s : State) : State :=
  let x := s.fe f
  let ph := s.calPhase f
  if ns.length ≠ 256 || !(ph = phCollect || ph = phTrim) || !s.liveInTime f then s
  else
    let sd := s.standby f
    let (ok, chi) := coverage ns (s.binWidths f sd) (s.f 0 F.CAL_CHI_LIM)
    let fail (s : State) : State :=
      match x.src with
      | .live => s.toDither f 1
      | .dither => if x.ditherFailed then (s.restoreSide f).calFail f autoSpare else s.setFe f { x with ditherFailed := true, tested := false }
    if ns.sum = nFirst && !x.tested then if ok then s.setFe f { x with tested := true } else fail s
    else if ns.sum ≠ nRoutine || !x.tested then s
    else if !ok then fail s
    else if needsTrim (measuredWidths ns) && x.trims = 0 then
      ((s.trimSide f sd ns).setFe f { x with trims := 1, tested := false, collectAt := s.now }).setPhase f phTrim
    else (s.tableSide f sd ns x.dsrc chi).setPhase f phOverlap

/-- Live hits do not suffice within 20 ms of the collection's start (R196). -/
def State.calLiveTimeout (f : FrontEnd) (s : State) : State :=
  if (s.fe f).src = .live && (s.calPhase f = phCollect || s.calPhase f = phTrim) then
    (s.reach ((s.fe f).collectAt + 20 * tkMs)).toDither f 2
  else s

/-- The overlap check of a sampler calibration (R200): mean within 2 tk, RMS at most 2.5 ps. -/
def Overlap.samplerPass (o : Overlap) : Bool :=
  decide (-32 ≤ o.mean16) && decide (o.mean16 ≤ 32) && decide (o.rmsFs ≤ 2500)

/-- The overlap ends: the swap is awaited, the side recalibrated once, or it fails; a starved swap's
repeated check opens or closes the way to the swap (R200, R202). -/
def State.calOverlap (f : FrontEnd) (o : Overlap) (autoSpare : FrontEnd → State → State) (s : State) : State :=
  let x := s.fe f
  let b := feBase f
  let few := decide (o.pairs < 16)
  let pass := few || o.samplerPass
  if s.calPhase f = phOverlap then
    let s := if few then s.raise b F.CH_CAL_STAT_UNCHECKED else s
    if pass then ((s.setFe f { x with slot := false, tested := true, waitFrom := s.now }).sideDone f (s.standby f)).setPhase f phSwap
    else if x.overlapFailed then s.calFail f autoSpare
    else (s.setFe f { x with overlapFailed := true, tested := false, trims := 0, ditherFailed := false }).setPhase f phOffset
  else if s.calPhase f = phSwap && x.starved then
    (if few then s.raise b F.CH_CAL_STAT_UNCHECKED else s).setFe f { x with tested := pass }
  else s

/-- The swap in a gap, or at a close of a gate or record (R201). -/
def State.calSwap (f : FrontEnd) (s : State) : State :=
  let x := s.fe f
  let gap := match s.feChannel f with | some n => s.edgeGap n || s.closesNow n || !s.live n | none => true
  if s.calPhase f = phSwap && x.tested && gap then
    ((s.setFe f { x with side := x.side.other }).count (feBase f + R.CH_CAL_SWAP_H) 1).afterSampler f
  else s

/-- No gap within CAL_SWAP_WAIT (R202); a spare that stands in reports in the served channel. -/
def State.calStarve (f : FrontEnd) (s : State) : State :=
  let x := s.fe f
  if s.calPhase f ≠ phSwap then s
  else
    let s := s.reach (x.waitFrom + s.f 0 F.CAL_SWAP_WAIT_WAIT * tkUs)
    let s := match s.feChannel f with
      | some n => s.raise (chBase n) F.CH_STAT_CAL_STARVED
      | none => s
    let s := if x.starved then s else s.count (feBase f + R.CH_CAL_STARVE_H) 1
    s.setFe f { x with starved := true, tested := false, waitFrom := s.now }

/-- The idle route starts where no other route is open (R204): the channel is blind until the calibration ends. -/
def State.calIdle (f : FrontEnd) (s : State) : State :=
  let x := s.fe f
  match s.feChannel f with
  | none => s
  | some n =>
    if x.running && x.needT && !x.needS && s.calPhase f = phWait && !s.fb (feBase f) F.CH_CAL_CTL_NOIDLE && s.idleOk n &&
        !s.routeFree f && !s.loanOpen f n && decide (s.calSlots < 16) then
      let s := ((s.setFe f { x with slot := true, idleRoute := true }).setPhase f phThreshold).setF (feBase f) F.CH_CAL_STAT_THR_DEFER 0
      (s.startBlind n { raw := s.now, edge := none } { Causes.none with tdac := true } 0 s.now false true).setF
        (chBase n) F.CH_PIN_BLIND_T 1
    else s

def u32Word (n : Nat) : Word := BitVec.ofNat 32 (min n (2 ^ 32 - 1))

/-- Writes a front end's threshold values; path skews are a channel's. -/
def State.putThr (f : FrontEnd) (v : ThrVals) (s : State) : State :=
  let k := feBlock f
  let half (a b : Int) : Word := BitVec.ofNat 32 (satSigned 16 a * 65536 + satSigned 16 b)
  let s := s.setCalList k [i32Word v.compOfs, u32Word v.g1, i32Word v.o1, u32Word v.g2, i32Word v.o2,
    half v.cd.1 v.cd.2.1, half v.cd.2.2.1 v.cd.2.2.2, BitVec.ofNat 32 (satSigned 16 (s.tj f) * 65536 + 1)]
  let s := if f.val < 128 then s.setCalList (pathBlock f) [i32Word v.spareSkew, i32Word v.pairSkew] else s
  (s.setFe f { s.fe f with lastT := some s.now }).setF (feBase f) F.CH_CAL_STAT_THR_DUE 0

/-- The threshold calibration ends (R203-R205): the loan is handed back, the idle route's blind
interval ends, or the event is complete. No value is written while the front end feeds a FIFO (R199). -/
def State.calThreshold (f : FrontEnd) (v : ThrVals) (s : State) : State :=
  let x := s.fe f
  if s.calPhase f ≠ phThreshold || !x.slot then s
  else
    let finish (s : State) : State := s.setFe f { s.fe f with needT := false, slot := false }
    if x.idleRoute then
      let s := finish (s.putThr f v)
      let s := match s.feChannel f with
        | some n => (s.modChan n fun (c : Chan) => { c with blind := c.blind.map fun (b : BlindSt) => { b with testWait := false, endBy := s.now } }).tryEndBlind n
        | none => s
      s.calDone f
    else match s.loanOf f with
      | some n => if s.spState (Ch.spareOf n) = 2 then (finish (s.putThr f v)).startHandBack (Ch.spareOf n) none else s
      | none => if s.routeFree f then (finish (s.putThr f v)).calDone f else s.calAbandon f true

/-! ### Causes -/

/-- Tj at the last calibration of the part, where it is valid. -/
def State.tjSampler (s : State) (f : FrontEnd) : Option Int :=
  let sd := (s.fe f).side
  if s.sideValid f sd then some (signExt 16 (bitsGet (s.calW (samplerBlock f sd + infoAt)) 16 16)) else none

def State.tjThreshold (s : State) (f : FrontEnd) : Option Int :=
  let w := s.calW (feBlock f + 7)
  if w.getLsbD 0 then some (signExt 16 (bitsGet w 16 16)) else none

def beyond (dt : Nat) (t : Int) : Option Int → Bool
  | some c => decide (t - c > Int.ofNat dt) || decide (c - t > Int.ofNat dt)
  | none => false

/-- The sensors are read (R207): THR_DUE follows, and with EN = 1 a drift beyond CAL_DT raises TEMP. -/
def State.calTemps (temps : List Int) (s : State) : State :=
  let s := { s with temps := temps }
  let dt := s.f 0 F.CAL_DT_DT
  s.forAll allFe fun f s =>
    let b1 := beyond dt (s.tj f) (s.tjSampler f)
    let b2 := beyond dt (s.tj f) (s.tjThreshold f)
    let s := if s.feFused f then s else s.setB (feBase f) F.CH_CAL_STAT_THR_DUE (b2 || (s.tjThreshold f).isNone)
    if s.fb 0 F.CAL_CTL_EN && (b1 || b2) then s.raiseCal f causeTemp b1 b2 else s

/-- CAL_TMAX has passed since the last completed sampler part (R207). -/
def State.calTime (f : FrontEnd) (s : State) : State :=
  let x := s.fe f
  match x.lastA, x.lastB with
  | none, none => s
  | a, b =>
    let s := s.reach (max (a.getD 0) (b.getD 0) + s.f 0 F.CAL_TMAX_TMAX * tkSec)
    if s.fb 0 F.CAL_CTL_EN then s.raiseCal f causeTime true true else s

/-- Whether CAL_MASK selects a front end. -/
def State.calMasked (s : State) (f : FrontEnd) : Bool := (s.w (R.CAL_MASK + 4 * (f.val / 32))).getLsbD (f.val % 32)

/-- CAL_CMD (R207, R209). -/
def State.calCmd (w : Word) (s : State) : State :=
  let mask := allFe.filter fun f => s.calMasked f && !s.feFused f
  let s := if F.CAL_CMD_ABORT.of w = 1 then s.forAll mask fun f s => s.calAbandon f false else s
  if F.CAL_CMD_RUN.of w = 1 then s.forAll mask fun f s =>
      if s.calHold f then s.raise (feBase f) F.CH_CAL_STAT_CMD_REJ
      else s.raiseCal f causeCmd true (F.CAL_CMD_SONLY.of w = 0)
    else s

/-! ### The set through CAL_VA and CAL_VD (R211, R212) -/

/-- Words of the set. -/
def calWords : Nat := 55744

/-- The front end that a word of the set belongs to. -/
def calOwner (k : Nat) : FrontEnd :=
  let f := if k < 54400 then k / 400 else if k < 55488 then (k - 54400) / 8 else (k - 55488) / 2
  ⟨f % 136, Nat.mod_lt _ (by decide)⟩

/-- Whether CAL_VA.ADDR names a word. -/
def State.vaOk (s : State) : Bool := let a := s.f 0 F.CAL_VA_ADDR; decide (a % 4 = 0) && decide (a ≤ 222972)

/-- CAL_VA steps on after an access. -/
def State.vaStep (s : State) : State :=
  if s.fb 0 F.CAL_VA_INC then s.setF 0 F.CAL_VA_ADDR (s.f 0 F.CAL_VA_ADDR + 4) else s

/-- A CAL_VD write that its guard has admitted: it abandons the front end's event (R209). -/
def State.writeCalVd (w : Word) (s : State) : State :=
  if s.vaOk then
    let k := s.f 0 F.CAL_VA_ADDR / 4
    ((s.calAbandon (calOwner k) true).setCal k w).vaStep
  else s.raise 0 F.CAL_STAT_VA_REJ

/-- A CAL_VD read. -/
def State.readCalVd (s : State) : Word × State :=
  if s.vaOk then (s.calW (s.f 0 F.CAL_VA_ADDR / 4), s.vaStep) else (0#32, s.raise 0 F.CAL_STAT_VA_REJ)

/-- A load puts a whole set into force at one instant and abandons every event in progress (R215). -/
def State.loadCal (ws : List Word) (s : State) : State :=
  let s := s.forAll allFe fun f s => s.calAbandon f true
  ({ s with cal := [] } : State).setCalList 0 (ws.take calWords)

/-! ### The first full calibration (R210) -/

/-- A side's course through the first full calibration: its counts come as they do of a routine one, at 2^16
hits and at N = 2^24, from the dither source. Up to three trim passes, then the table from the last
collection; a collection that fails is repeated once (R194-R197). None where it fails again or never ends. -/
def State.bootCollect (f : FrontEnd) (sd : Side) (trims : Nat) (tested failed : Bool) :
    List (List Nat) → State → Option State
  | [], _ => none
  | ns :: rest, s =>
    let (ok, chi) := coverage ns (s.binWidths f sd) (s.f 0 F.CAL_CHI_LIM)
    if ns.sum = nFirst && !tested then
      if ok then State.bootCollect f sd trims true failed rest s
      else if failed then none else State.bootCollect f sd trims false true rest s
    else if ns.sum ≠ nBoot || !tested then State.bootCollect f sd trims tested failed rest s
    else if !ok then if failed then none else State.bootCollect f sd trims false true rest s
    else if trims > 0 && needsTrim (measuredWidths ns) then
      State.bootCollect f sd (trims - 1) false failed rest (s.trimSide f sd ns)
    else some ((s.tableSide f sd ns 3 chi).sideDone f sd)

/-- A side whose first calibration fails keeps the values it had (R210). -/
def State.bootSide (r : BootSide) (s : State) : State :=
  if s.feFused r.fe then s
  else
    let k := samplerBlock r.fe r.side + ofssAt
    let s' := (s.setCal k (i32Word r.ofssR)).setCal (k + 1) (i32Word r.ofssF)
    (s'.bootCollect r.fe r.side 3 false false r.collections).getD (s.raise (feBase r.fe) (failFld r.side))

/-- The first full calibration ends. -/
def State.bootCal (sides : List BootSide) (thrs : List (FrontEnd × ThrVals)) (s : State) : State :=
  let s := s.forAll sides fun r s => s.bootSide r
  let s := s.forAll thrs fun t s => if s.feFused t.1 then s else s.putThr t.1 t.2
  s.raise 0 F.CAL_STAT_BOOT_DONE

end Sys2Proof.Machine
end

