-- ==== Sys2Proof/Machine/TimebaseOps.lean ====
section
/-!
DEFINITION. The timebase: qualification of REFIN, lock, switchover, holdover and return (R30-R40),
device time (R41-R44), domain maps (R45-R49), PACE and the AVSBus governor (R15-R21).
-/

namespace Sys2Proof.Machine

/-! ### Qualification (R31) -/

/-- ACTIVE codes of TB_STAT. -/
def actNone : Nat := 0
def actRefin : Nat := 1
def actCrystal : Nat := 2
def actHoldover : Nat := 3

def State.tbActive (s : State) : Nat := s.f 0 F.TB_STAT_ACTIVE
def State.xtalOk (s : State) : Bool := s.fb 0 F.TB_STAT_XTAL_OK
def State.refQual (s : State) : Bool := s.fb 0 F.TB_STAT_REF_QUAL

def absDiff (a b : Nat) : Nat := max a b - min a b

/-- The nominal frequencies in mHz that REF_FREQ allows; 0b11 acts as autodetect. -/
def nominals (refFreq : Nat) : List Nat :=
  match refFreq with
  | 1 => [10000000000]
  | 2 => [100000000000]
  | _ => [10000000000, 100000000000]

/-- Whether a window's frequency fits a nominal: 100 ppm against the crystal, 2 % without it. -/
def freqFits (xtal : Bool) (f nom : Nat) : Bool :=
  if xtal then decide (absDiff f nom * 10000 ≤ nom) else decide (absDiff f nom * 50 ≤ nom)

/-- Whether three windows qualify: one nominal fits all, and with a crystal they agree within 1 ppm. -/
def windowsQualify (xtal : Bool) (noms : List Nat) (ws : List Nat) : Option Nat :=
  match ws with
  | [a, b, c] => noms.find? fun nom =>
      freqFits xtal a nom && freqFits xtal b nom && freqFits xtal c nom &&
      (!xtal || decide ((max a (max b c) - min a (min b c)) * 1000000 ≤ nom))
  | _ => none

/-- A 1 ms window ends while REFIN is not the active source (R31). A qualified REFIN stays so through the first
two windows of a new run, and is retested from the third on. REFIN that qualifies without a crystal reports
XTAL_FAIL. -/
def State.refinWindow (missing toggles : Bool) (f : Nat) (s : State) : State :=
  if s.tbActive = actRefin then s
  else
    let xtal := s.xtalOk
    let noms := nominals (F.TB_SRC_REF_FREQ.of (s.tvW R.TB_SRC))
    let fits := toggles && noms.any (freqFits xtal f)
    let pass := fits && !missing
    let wins := if pass then (f :: s.tb.wins).take 3 else []
    let cleared := !s.fb 0 F.TB_STAT_REF_DRIFT
    let afresh := if pass && cleared then (f :: s.tb.afresh).take 3 else []
    let s := { s with tb := { s.tb with wins := wins, afresh := afresh } }
    let s := if toggles && !fits then s.raise 0 F.TB_STAT_REF_BADFREQ else s
    match windowsQualify xtal noms wins with
    | some nom =>
      let s := { s with tb := { s.tb with baseDue := if s.refQual then s.tb.baseDue else some (s.now + tkSec) } }
      let s := if !xtal && !s.refQual then s.raise 0 F.TB_STAT_XTAL_FAIL else s
      (s.setF 0 F.TB_STAT_REF_QUAL 1).setB 0 F.TB_STAT_REF_NOM (decide (nom = 100000000000))
    | none => if pass && s.refQual && decide (wins.length < 3) then s else s.setF 0 F.TB_STAT_REF_QUAL 0

/-! ### Changes of source (R35-R40) -/

/-- A switchover or return begins: it is counted, marked in gates and records, and calibration is
requested (R36-R38). -/
def State.switched (active : Nat) (s : State) : State :=
  let s := ((s.setF 0 F.TB_STAT_ACTIVE active).setF 0 F.TB_STAT_LOCKED 1).raise 0 F.TB_STAT_SWITCHED
  ((s.countSat 0 F.TB_SWITCH_CNT_VALUE 1).markRefchg).raiseRef

/-- Holdover begins (R36, R38), which requests calibration (R207). -/
def State.holdover (s : State) : State :=
  let s := ((s.setF 0 F.TB_STAT_ACTIVE actHoldover).setF 0 F.TB_STAT_LOCKED 0).markRefchg.raiseRef
  if s.refQual || s.xtalOk then s else s.raise 0 F.DEV_FLT_NOSRC

def State.setTb (x : TbEng) (s : State) : State := { s with tb := x }

/-- REFIN is declared lost (R35, R36). -/
def State.refinLost (s : State) : State :=
  let s := (s.setF 0 F.TB_STAT_REF_QUAL 0).setTb { s.tb with wins := [], afresh := [] }
  if s.tbActive = actRefin then
    let s := (s.raise 0 F.TB_STAT_REF_LOST).holdover
    if s.xtalOk then s.setTb { s.tb with lostAt := some s.now, baseDue := none, driftOver := false }
    else s.setTb { s.tb with lostAt := none, baseDue := none, driftOver := false }
  else s

/-- One microsecond after the detection the crystal is selected (R36). -/
def State.crystalSelect (s : State) : State :=
  match s.tb.lostAt with
  | some t =>
    if s.tbActive = actHoldover && s.xtalOk then
      ((s.reach (t + tkUs)).setTb { s.tb with lostAt := none, wins := [] }).switched actCrystal
    else s
  | none => s

/-- Whether a return is open: after DRIFT_ACT's move REF_DRIFT must have been cleared and REFIN have
passed afresh (R40). -/
def State.returnOpen (s : State) : Bool :=
  s.refQual && (!s.tb.driftMoved || (!s.fb 0 F.TB_STAT_REF_DRIFT &&
    (windowsQualify s.xtalOk (nominals (F.TB_SRC_REF_FREQ.of (s.tvW R.TB_SRC))) s.tb.afresh).isSome))

/-- The return to REFIN; after DRIFT_ACT's move it also rebases (R38, R40). -/
def State.toRefin (s : State) : State :=
  let moved := s.tb.driftMoved
  let s := s.setTb { s.tb with driftMoved := false, driftOver := false, lostAt := none,
                               baseDue := if moved then some (s.now + tkSec) else s.tb.baseDue }
  s.switched actRefin

/-- REFIN requalifies with REVERT = 1 while the crystal is active. -/
def State.refinReturn (s : State) : State :=
  let src := s.tvW R.TB_SRC
  if s.tbActive = actCrystal && s.returnOpen && F.TB_SRC_REVERT.of src = 1 && F.TB_SRC_XTAL_ONLY.of src = 0 then s.toRefin else s

/-- The crystal's amplitude is lost (R31, R38). With REFIN qualified the device goes to it at once, also where
DRIFT_ACT's move or XTAL_ONLY = 1 would hold a return back (DESIGN CHOICE, log 103). -/
def State.crystalLost (s : State) : State :=
  let s := (s.raise 0 F.TB_STAT_XTAL_FAIL).setF 0 F.TB_STAT_XTAL_OK 0
  let s := s.setTb { s.tb with lostAt := none, driftOver := false, baseDue := none }
  if s.tbActive = actCrystal then if s.refQual then s.toRefin else s.holdover else s

/-- A source becomes usable in holdover (R38); REFIN is joined also after DRIFT_ACT's move (DESIGN CHOICE,
log 103). -/
def State.holdoverEnd (src : TbSource) (s : State) : State :=
  if s.tbActive ≠ actHoldover then s
  else match src with
    | .refin => if s.refQual && F.TB_SRC_XTAL_ONLY.of (s.tvW R.TB_SRC) = 0 then s.toRefin else s
    | .crystal => if s.xtalOk then (s.setTb { s.tb with lostAt := none, wins := [] }).switched actCrystal else s

/-- A TB_SRC write that its guard has admitted; `w` is the word as stored (R38): XTAL_ONLY moves the loop,
and a write of REVERT = 1 returns from the crystal to a qualified REFIN. -/
def State.writeTbSrc (w : Word) (s : State) : State :=
  let old := F.TB_SRC_XTAL_ONLY.of (s.tvW R.TB_SRC)
  let w := if F.TB_SRC_REF_FREQ.of w = 3 then F.TB_SRC_REF_FREQ.into w 0 else w
  let new := F.TB_SRC_XTAL_ONLY.of w
  let s := s.setTv R.TB_SRC w
  if old = 0 && new = 1 && s.tbActive = actRefin then
    if s.xtalOk then (s.setTb { s.tb with wins := [] }).switched actCrystal else s.holdover
  else if old = 1 && new = 0 && (s.tbActive = actCrystal || s.tbActive = actHoldover) && s.returnOpen then s.toRefin
  else if new = 0 && F.TB_SRC_REVERT.of w = 1 && s.tbActive = actCrystal && s.returnOpen then s.toRefin
  else s

/-! ### Drift (R39, R40) -/

/-- The offset is updated and compared with the baseline; one REF_DRIFT for each excursion. -/
def State.driftUpdate (offs : Int) (s : State) : State :=
  if s.tbActive ≠ actRefin || !s.xtalOk then s
  else
    let s := s.setW R.TB_REF_OFFS (i32Word offs)
    let base := signExt 32 (s.w R.TB_REF_BASE).toNat
    let d := signExt 32 (s.w R.TB_REF_OFFS).toNat - base
    let beyond := decide (d.natAbs > s.f 0 F.TB_DRIFT_LIM * 1000)
    let was := s.tb.driftOver
    let s := s.setTb { s.tb with driftOver := beyond }
    if beyond && !was then
      let s := s.raise 0 F.TB_STAT_REF_DRIFT
      if F.TB_SRC_DRIFT_ACT.of (s.tvW R.TB_SRC) = 1 then
        (s.setTb { s.tb with driftMoved := true, wins := [], afresh := [], baseDue := none }).switched actCrystal
      else s
    else s

/-- The baseline is captured when it is due. -/
def State.baselineCapture (mean : Int) (s : State) : State :=
  match s.tb.baseDue with
  | some t =>
    if s.tbActive = actRefin && s.xtalOk then
      let s := (s.reach t).setTb { s.tb with baseDue := none }
      (s.setW R.TB_REF_BASE (i32Word mean)).setF 0 F.TB_DRIFT_REBASE 0
    else s
  | none => s

/-! ### Device time (R32, R41, R42) -/

/-- The source of the first lock (R32): REFIN, unless the 20 ms have passed without it or a committed
XTAL_ONLY shuts it out and the crystal runs. -/
def State.lockSource (s : State) : Nat :=
  let only := F.TB_SRC_XTAL_ONLY.of (s.tvW R.TB_SRC) = 1
  if (s.tb.timedOut || only) && s.xtalOk then actCrystal
  else if s.refQual && !only then actRefin
  else actNone

/-- The first lock: device time starts at 0 and a run identifier other than 0 is drawn. -/
def State.firstLock (s : State) : State :=
  if s.clk.running || !s.boot.released then s
  else
    let src := s.lockSource
    if src = actNone then s
    else
      let (k, s) := s.fresh
      let s := { s with clk := { epx := 0#32, ets := 0#64, running := true }, boot := { s.boot with faulted := false } }
      let s := s.setW R.TB_RUN_ID (BitVec.ofNat 32 (1 + (Config.entropy k).toNat % (2 ^ 32 - 1)))
      (s.setF 0 F.TB_STAT_ACTIVE src).setF 0 F.TB_STAT_LOCKED 1

/-! ### Domain maps (R45-R49) -/

/-- Domain time at device time `t`, in 2^-16 ns (R45). -/
def DomMap.at (m : DomMap) (t : Nat) : Int :=
  m.s + roundNearest (((t : Rat) - (m.anchor : Rat)) * (1 + (m.rate : Rat) / 2 ^ 56) * 1024 / 10)

/-- A correction rate is limited to 1,000 ppm (R45). -/
def clampRate (r : Int) : Int := max (-72057594037927) (min 72057594037927 r)

/-- Puts a map into force and logs it; the log keeps 4,096 (R46, R49). -/
def State.installMap (d : Dom) (m : DomMap) (s : State) : State :=
  let log := m :: s.mapLogs[d]
  { s with maps := s.maps.set d (some m), mapLogs := s.mapLogs.set d (log.take 4096),
           mapLost := s.mapLost.set d (s.mapLost[d] + (log.length - 4096)) }

/-- One unit of seconds, of domain time. -/
def domSec : Int := 65536000000000

/-- Seconds, nanoseconds and fraction of a domain time. -/
def domParts (t : Int) : Nat × Nat × Nat :=
  ((t.fdiv domSec % (2 ^ 48 : Int)).toNat, ((t % domSec) / 65536).toNat, (t % 65536).toNat)

/-- The 32 bytes of a map (R49). -/
def DomMap.bytes (m : DomMap) : List Byte :=
  let p := domParts m.s
  bytesBE 4 (m.anchor / 2 ^ 64) ++ bytesBE 8 (m.anchor % 2 ^ 64) ++ bytesBE 6 p.1 ++ bytesBE 4 p.2.1 ++ bytesBE 2 p.2.2 ++
  bytesBE 6 (m.rate % (2 ^ 48 : Int)).toNat ++ bytesBE 2 m.era.toNat

/-- TB_SNAP_CTL.CAPTURE (R44, R48). -/
def State.snapshot (s : State) : State :=
  let t := s.now
  let s := ((s.setW R.TB_SNAP_EPX s.clk.epx).setPair R.TB_SNAP_ETS_H s.clk.ets.toNat)
  s.forAll (List.finRange 4) fun (d : Dom) s =>
    let a := R.TB_SNAP_TD_0 + 16 * d.val
    match s.maps[d] with
    | some m =>
      let p := domParts (m.at t)
      let s := ((s.setW a (BitVec.ofNat 32 (m.era.toNat * 65536 + p.1 / 2 ^ 32))).setW (a + 4) (BitVec.ofNat 32 p.1))
      let s := (s.setW (a + 8) (BitVec.ofNat 32 p.2.1)).setW (a + 12) (BitVec.ofNat 32 p.2.2)
      s.setF 0 F.TB_SNAP_CTL_TD_VALID (s.f 0 F.TB_SNAP_CTL_TD_VALID ||| 2 ^ d.val)
    | none =>
      let s := (((s.setW a 0#32).setW (a + 4) 0#32).setW (a + 8) 0#32).setW (a + 12) 0#32
      s.setB 0 { F.TB_SNAP_CTL_TD_VALID with lo := 16 + d.val, len := 1 } false

/-! ### PACE (R15-R18) -/

/-- The mean handshake period of a monitor's 16 windows, in ps: 409.6 ns over each count. -/
def meanPeriod (counts : List Nat) : Rat := ratSum (counts.map fun (c : Nat) => 409600 / (c : Rat)) / (counts.length : Rat)

/-- The start of the present MCLK cycle. -/
def State.mclkNow (s : State) : Nat := s.now / 2048 * 2048

/-- The twelve monitors update; PACE is the largest, rounded up, and names the first that gives it. With
CLR in the same MCLK cycle MAX takes the updated value (R18). -/
def State.paceUpdate (rings : List (List Nat)) (s : State) : State :=
  let ts := rings.map meanPeriod
  let top := ratMax ts
  let pace := min 65535 top.ceil.toNat
  let s := (s.setF 0 F.TB_PACE_PACE pace).setF 0 F.TB_PACE_PACE_SRC (ts.findIdx fun t => t = top)
  let s := s.setF 0 F.TB_PACE_MAX_MAX (if s.tb.paceClrAt = some s.mclkNow then pace else max (s.f 0 F.TB_PACE_MAX_MAX) pace)
  if pace > 1200 then s.raise 0 F.DEV_FLT_PACE_SLOW else s

/-- TB_PACE_MAX.CLR: MAX takes PACE, and a PACE update of the same MCLK cycle with it (R18). -/
def State.paceMaxClr (s : State) : State :=
  ((s.setF 0 F.TB_PACE_MAX_MAX (s.f 0 F.TB_PACE_PACE)).setF 0 F.TB_PACE_MAX_CLR 0).setTb { s.tb with paceClrAt := some s.mclkNow }

/-! ### The AVSBus governor (R20) -/

/-- A TB_AVS_CTL write of the bits `m`; inconsistent limits refuse it whole. EN written with 1 again ends a
suspension, and the next evaluation is then a first one after EN is set (DESIGN CHOICE, log 102). -/
def State.writeAvs (m w : Word) (s : State) : State :=
  let vmin := F.TB_AVS_CTL_VMIN.of w
  let vmax := F.TB_AVS_CTL_VMAX.of w
  if vmin < 650 || vmax > 950 || vmin > vmax then s.raise 0 F.TB_AVS_STAT_CFG_ERR
  else
    let was := s.fb 0 F.TB_AVS_CTL_EN
    let s := s.setW R.TB_AVS_CTL w
    if F.TB_AVS_CTL_EN.of w = 1 then
      let ends := s.tb.avsSuspended && decide (F.TB_AVS_CTL_EN.of m = 1)
      let s := s.setTb { s.tb with avsFirst := s.tb.avsFirst || !was || ends, avsSuspended := s.tb.avsSuspended && !ends,
                                   avsBelow := s.tb.avsBelow && was, avsRetried := s.tb.avsRetried && was }
      if F.TB_AVS_CTL_HOLD.of w = 1 then s.setF 0 F.TB_AVS_STAT_ACT 0 else s
    else s.setF 0 F.TB_AVS_STAT_ACT 0

/-- A request to the regulator. -/
def State.avsRequest (mV : Nat) (s : State) : State :=
  ((s.setF 0 F.TB_AVS_STAT_VREQ mV).setF 0 F.TB_AVS_STAT_ACT 1).setTb { s.tb with avsRetried := false }

/-- An evaluation; `mV` is the regulator's present voltage, which the first one uses. A step that would pass
VMAX or VMIN requests that limit (DESIGN CHOICE, log 101). -/
def State.avsEvaluate (mV : Nat) (s : State) : State :=
  if !s.fb 0 F.TB_AVS_CTL_EN || s.fb 0 F.TB_AVS_CTL_HOLD || !s.ready || s.tb.avsSuspended then s
  else
    let pace := s.f 0 F.TB_PACE_PACE
    let target := s.f 0 F.TB_PACE_TARGET_TARGET
    let vmin := s.f 0 F.TB_AVS_CTL_VMIN
    let vmax := s.f 0 F.TB_AVS_CTL_VMAX
    let vreq := s.f 0 F.TB_AVS_STAT_VREQ
    let below := decide (pace + s.f 0 F.TB_PACE_TARGET_BAND < target)
    let was := s.tb.avsBelow
    let first := s.tb.avsFirst
    let s := ((s.setF 0 F.TB_AVS_STAT_AT_CEIL 0).setF 0 F.TB_AVS_STAT_AT_FLOOR 0).setTb { s.tb with avsBelow := below, avsFirst := false }
    if first then s.avsRequest (clampNat vmin vmax ((mV * 2 + 5) / 10 * 5))
    else if pace > target then
      if vreq < vmax then s.avsRequest (min vmax (vreq + 5)) else s.setF 0 F.TB_AVS_STAT_AT_CEIL 1
    else if below then
      if vreq ≤ vmin then s.setF 0 F.TB_AVS_STAT_AT_FLOOR 1
      else if was then s.avsRequest (max vmin (vreq - 5)) else s
    else s

/-- The regulator does not acknowledge: one retry, then the governor suspends. -/
def State.avsNoAck (s : State) : State :=
  if !s.fb 0 F.TB_AVS_STAT_ACT then s
  else if s.tb.avsRetried then
    ((s.raise 0 F.TB_AVS_STAT_NO_ACK).setF 0 F.TB_AVS_STAT_ACT 0).setTb { s.tb with avsSuspended := true, avsRetried := false }
  else s.setTb { s.tb with avsRetried := true }

end Sys2Proof.Machine
end

