-- ==== Sys2Proof/Machine/NetOps.lean ====
section
/-!
DEFINITION. The field network (spec/11): forwarding and BYPASS_N, the transparent clock, Pdelay, and
the time domains with their masters, samples, departure checks and pending steps.
-/

namespace Sys2Proof.Machine

/-! ### Ports and frames -/

def linkFld : Port → Fld
  | .e0 => F.NET_STAT_LINK0
  | .e1 => F.NET_STAT_LINK1

def portEn : Port → Fld
  | .e0 => F.NET_CFG_E0EN
  | .e1 => F.NET_CFG_E1EN

def portIdx : Port → Fin 2
  | .e0 => 0
  | .e1 => 1

def State.port (s : State) (p : Port) : PortSt := s.net.ports[portIdx p]
def State.setPort (p : Port) (x : PortSt) (s : State) : State :=
  { s with net := { s.net with ports := s.net.ports.set (portIdx p) x } }

/-- The port carries frames: its link is up and forwarding is live (R242, R299). -/
def State.portUp (s : State) (p : Port) : Bool :=
  s.boot.eth && s.fb 0 (linkFld p) && s.fb 0 (portEn p) && !s.fb 0 F.NET_STAT_BYPASS

def pdlyA (p : Port) : Nat := R.NET_PDLY + 4 * p.idx
/-- NET_PDLYn where no exchange has completed (R250). -/
def pdlyNone : Word := 0xFFFFFFFF#32
def State.pdly (s : State) (p : Port) : Word := s.w (pdlyA p)

/-- A discarded forwarded frame (R240, R318). -/
def State.netDrop (k : Nat) (s : State) : State :=
  if k = 0 then s else (s.count R.NET_DROP_H k).raise 0 F.NET_STAT_FWD_DROP

/-- An Ethernet link goes down (R250): its frames are discarded, its link delay is unmeasured. -/
def State.linkDown (p : Port) (s : State) : State :=
  let x := s.port p
  (((s.netDrop x.buf.length).setPort p { x with busy := false, buf := [], own := [], pdOpen := false }).setF 0 (linkFld p) 0).setW
    (pdlyA p) pdlyNone

/-- An Ethernet link comes up; NET_PDLYn stays unmeasured until an exchange completes. -/
def State.linkUp (p : Port) (s : State) : State :=
  if s.boot.eth && s.fb 0 (portEn p) then (s.setF 0 (linkFld p) 1).setW (pdlyA p) pdlyNone else s

/-- A NET_CFG write (R238, R242): a change of RATE or AN restarts both ports; BYP_SET wins over
BYP_CLR (R289). -/
def State.writeNetCfg (w : Word) (s : State) : State :=
  let old := s.w R.NET_CFG
  let s := s.setW R.NET_CFG (w &&& 0xFC000000#32)
  let restart := decide (F.NET_CFG_RATE.of old ≠ F.NET_CFG_RATE.of w ∨ F.NET_CFG_AN.of old ≠ F.NET_CFG_AN.of w)
  let s := if restart then (s.linkDown .e0).linkDown .e1 else s
  let s := if F.NET_CFG_E0EN.of w = 0 ∧ F.NET_CFG_E0EN.of old = 1 then s.linkDown .e0 else s
  let s := if F.NET_CFG_E1EN.of w = 0 ∧ F.NET_CFG_E1EN.of old = 1 then s.linkDown .e1 else s
  if F.NET_CFG_BYP_SET.of w = 1 then s.setF 0 F.NET_STAT_BYPASS 1
  else if F.NET_CFG_BYP_CLR.of w = 1 then s.setF 0 F.NET_STAT_BYPASS 0 else s

/-- EtherType and the offset of what follows it; a frame with one 802.1Q tag shows the inner type. -/
def ethType (b : List Byte) : Nat × Nat :=
  let t := ofBytesBE ((b.drop 12).take 2)
  if t = 0x8100 then (ofBytesBE ((b.drop 16).take 2), 18) else (t, 14)

def setBytes (b : List Byte) (off : Nat) (v : List Byte) : List Byte := b.take off ++ v ++ b.drop (off + v.length)

/-- What a forwarded frame is to the transparent clock (R249, R252). -/
inductive PtpClass where
  | notPtp
  /-- recognised: message type, offset of the message, offset of a UDP checksum -/
  | event (mtype off : Nat) (csum : Option Nat)
  | general
  | uncorrected
  deriving DecidableEq, Repr

/-- Classes a PTP message of versionPTP 2 by its type; the layout is IEEE 1588-2019's. -/
def ptpMessage (b : List Byte) (off : Nat) (csum : Option Nat) : PtpClass :=
  if field b (off + 1) 1 % 16 ≠ 2 then .uncorrected
  else
    let m := field b off 1 % 16
    if m ≤ 3 ∨ m = 10 then .event m off csum else .general

def ptpPort (p : Nat) : Bool := p == 319 || p == 320

def ptpClass (b : List Byte) : PtpClass :=
  let (t, o) := ethType b
  if t = 0x88F7 then ptpMessage b o none
  else if t = 0x0800 && field b (o + 9) 1 == 17 then
    let ihl := field b o 1 % 16
    if !ptpPort (field b (o + 4 * ihl + 2) 2) then .notPtp
    else if ihl = 5 then ptpMessage b (o + 28) (some (o + 26)) else .uncorrected
  else if t = 0x86DD && field b (o + 6) 1 == 17 && ptpPort (field b (o + 42) 2) then .uncorrected
  else .notPtp

/-- Adds to correctionField, saturating as R251 says, and clears a UDP checksum. -/
def correct (b : List Byte) (off : Nat) (csum : Option Nat) (add : Nat) : List Byte :=
  let v := signExt 64 (field b (off + 8) 8) + Int.ofNat add
  let v := if v > 2 ^ 63 - 1 then (2 ^ 63 - 1 : Int) else v
  let b := setBytes b (off + 8) (bytesBE 8 (v % (2 ^ 64 : Int)).toNat)
  match csum with
  | some c => setBytes b c [0#8, 0#8]
  | none => b

/-- Peer-to-peer mode of the transparent clock. -/
def State.p2p (s : State) : Bool := s.fb 0 F.NET_CFG_TC_EN && s.fb 0 F.NET_CFG_TC_P2P

def State.nodeId (s : State) : Nat := s.f 0 F.NET_NODE_NODE_ID

/-- The Ulidjaif destination of a frame, if it is one. -/
def State.uldDst (s : State) (b : List Byte) : Option Nat :=
  let (t, o) := ethType b
  if t = s.f 0 F.NET_ID_ETYPE then some (field b o 2) else none

/-- A frame that leaves through a port's wire. -/
def State.toWire (p : Port) (f : WireFrame) (s : State) : State := s.setPort p { s.port p with busy := true, sent := f }

/-- A forwarded frame takes the egress port, or its buffer of 16 KiB, or is dropped (R240). -/
def State.egress (p : Port) (f : EthFrame) (s : State) : State :=
  let x := s.port p
  if !x.busy && x.buf.isEmpty then (s.toWire p (.forwarded f)).count (if p = .e1 then R.NET_FWD0_H else R.NET_FWD1_H) 1
  else if ((x.buf.map fun g => g.bytes.length + 4).sum + f.bytes.length + 4) ≤ 16384 then
    (s.setPort p { x with buf := x.buf ++ [f] }).count (if p = .e1 then R.NET_FWD0_H else R.NET_FWD1_H) 1
  else s.netDrop 1

/-- One of the device's own frames: only when no forwarded frame is waiting (R240). -/
def State.sendOwn (p : Port) (f : OwnFrame) (s : State) : State :=
  if !s.portUp p then s
  else
    let x := s.port p
    if !x.busy && x.buf.isEmpty && x.own.isEmpty then s.toWire p (.own f) else s.setPort p { x with own := x.own ++ [f] }

/-- The egress port is free: the next forwarded frame, else one of the device's own (R240). -/
def State.egressFree (p : Port) (s : State) : State :=
  let x := s.port p
  match x.buf, x.own with
  | f :: t, _ => s.setPort p { x with buf := t, busy := true, sent := .forwarded f }
  | [], o :: t => s.setPort p { x with own := t, busy := true, sent := .own o }
  | [], [] => s.setPort p { x with busy := false }

/-- The transparent clock's work on a forwarded frame (R249-R252). `residence` is in 2^-16 ns. -/
def State.transparent (p : Port) (f : EthFrame) (residence : Nat) (s : State) : EthFrame × State :=
  if !s.fb 0 F.NET_CFG_TC_EN then (f, s)
  else match ptpClass f.bytes with
    | .notPtp | .general => (f, s)
    | .uncorrected => (f, (s.count R.NET_UNCOR_H 1).raise 0 F.NET_STAT_UNCOR)
    | .event m off csum =>
      let fix (n : Nat) : EthFrame := { f with bytes := correct f.bytes off csum n }
      if s.fb 0 F.NET_CFG_TC_P2P then
        if m = 0 then
          if s.pdly p = pdlyNone then (fix residence, s.raise 0 F.NET_STAT_PDLY_NONE)
          else (fix (residence + (s.pdly p).toNat * 256), s)
        else (f, s)
      else if m = 10 then (f, s)
      else (fix residence, s)

/-- Whether a frame is a Pdelay message, which peer-to-peer mode consumes. -/
def isPdelay (b : List Byte) : Bool :=
  match ptpClass b with
  | .event m _ _ => m == 2 || m == 3 || m == 10
  | _ => false

/-- Whether the ports accept a frame (R238): at most one tag, at most 9,216 bytes. -/
def ethAccepted (b : List Byte) : Bool := decide (b.length + 4 ≤ 9216) && decide ((ethType b).1 ≠ 0x8100) && decide (14 ≤ b.length)

/-- A frame arrives on a port and leaves through the other, unless it is consumed or dropped
(R239-R241, R249). -/
def State.forwardFrame (p : Port) (f : EthFrame) (residence : Nat) (s : State) : State :=
  if !s.portUp p || !ethAccepted f.bytes || (ethType f.bytes).1 == 0x8808 then s
  else if s.uldDst f.bytes == some s.nodeId then s
  else if s.p2p && isPdelay f.bytes then s
  else
    let s := if f.fcsOk then s else (s.count R.NET_FCS_H 1).raise 0 F.NET_STAT_FCS_FWD
    let r := s.transparent p f residence
    if s.portUp p.other then r.2.egress p.other r.1 else r.2.netDrop 1

/-! ### Time domains: registers and maps -/

def State.dm (s : State) (d : Dom) (f : Fld) : Nat := s.f (dmBase d.val) f
def State.setDm (d : Dom) (f : Fld) (v : Nat) (s : State) : State := s.setF (dmBase d.val) f v
def State.raiseDm (d : Dom) (f : Fld) (s : State) : State := s.raise (dmBase d.val) f
def State.dom (s : State) (d : Dom) : DomSt := s.net.doms[d]
def State.setDom (d : Dom) (x : DomSt) (s : State) : State := { s with net := { s.net with doms := s.net.doms.set d x } }
def State.modDom (d : Dom) (g : DomSt → DomSt) (s : State) : State := s.setDom d (g (s.dom d))

/-- A signed pair of a domain's block, in 2^-16 ns. -/
def State.dmPair (s : State) (d : Dom) (a : Nat) : Int := signExt 64 (s.pair (dmBase d.val + a))
def State.setDmPair (d : Dom) (a : Nat) (v : Int) (s : State) : State :=
  s.setPair (dmBase d.val + a) (v % (2 ^ 64 : Int)).toNat

def domDisabled : Nat := 0
def domListening : Nat := 1
def domAcquire : Nat := 2
def domSlave : Nat := 3
def domHoldover : Nat := 4

def hrNone : Nat := 0
def hrMaster : Nat := 1
def hrCheck : Nat := 2
def hrStep : Nat := 3
def hrRejected : Nat := 4

def State.domState (s : State) (d : Dom) : Nat := s.dm d F.PTP_STAT_STATE
def State.goDom (d : Dom) (st hr : Nat) (s : State) : State := (s.setDm d F.PTP_STAT_STATE st).setDm d F.PTP_STAT_HREASON hr

/-- PTP_JTHR, PTP_PTHR and the smaller of the two, in 2^-16 ns. -/
def State.jthr (s : State) (d : Dom) : Int := Int.ofNat (s.dm d F.PTP_JTHR_JTHR) * 65536
def State.pthr (s : State) (d : Dom) : Int := Int.ofNat (s.dm d F.PTP_PTHR_PTHR) * 65536
def State.smallThr (s : State) (d : Dom) : Int := min (s.jthr d) (s.pthr d)

def iabs (i : Int) : Int := Int.ofNat i.natAbs

/-- The offset of a sample taken at t with master's time t1, for a path delay (R254). -/
def State.offset (s : State) (d : Dom) (m : DomMap) (t : Nat) (t1 mpd : Int) : Int :=
  m.at t - (t1 + mpd) - s.dmPair d R.PTP_ASYM_H

def State.domMap (s : State) (d : Dom) : Option DomMap := s.maps[d]

/-- A pending step, or none. -/
def State.setPend (d : Dom) (v : Option Int) (s : State) : State :=
  let s := s.modDom d fun x => { x with pend := v.map fun _ => { sum := 0, count := 0 } }
  (s.setDmPair d R.PTP_PEND_H (v.getD 0)).setB (dmBase d.val) F.PTP_STAT_PEND v.isSome

/-- A sample is applied: the servo sets a rate and a new map continues the old one (R46, R254). The
rate is a free value within R45's limit. -/
def State.applySample (d : Dom) (o : Int) (s : State) : State :=
  match s.domMap d with
  | none => s
  | some m =>
    let k := s.free
    let s := { s with free := k + 1 }
    let s := s.installMap d { anchor := s.now, s := m.at s.now, rate := clampRate (Config.servoRate k), era := m.era }
    let good := if iabs o ≤ 6553600 then (s.dom d).good + 1 else 0
    let s := s.modDom d fun x => { x with lastO := some o, good := good }
    if s.domState d = domAcquire && decide (good ≥ 16) then s.goDom d domSlave hrNone else s

/-- Accepts the pending step: its value is fixed and waits for the next domain second (R47, R257). -/
def State.acceptStep (d : Dom) (s : State) : State :=
  match s.domMap d with
  | none => s
  | some m =>
    let sec := ((m.at s.now).fdiv domSec + 1) * domSec
    s.modDom d fun x => { x with accepted := some (s.dmPair d R.PTP_PEND_H, sec) }

/-- Goes back to measuring: the state before a check, or ACQUIRE. -/
def State.resume (d : Dom) (st : Nat) (s : State) : State :=
  (s.modDom d fun x => { x with check := none, good := if st = domAcquire then 0 else x.good }).goDom d st hrNone

/-- A departure: HOLDOVER, and the check of R255 begins. -/
def State.depart (d : Dom) (p : Port) (t1 : Int) (s : State) : State :=
  let st := s.domState d
  let before := if st = domSlave then domSlave else domAcquire
  let c : Check := { since := s.now, port := p, latest := (s.now, t1) }
  (s.modDom d fun x => { x with check := some c, before := before }).goDom d domHoldover hrCheck

/-- A sample while a step is pending (R256). -/
def State.pendSample (d : Dom) (o last : Int) (s : State) : State :=
  let x := s.dom d
  if x.accepted.isSome then s
  else if iabs (o - last) ≤ s.smallThr d then ((s.setPend d none).resume d domAcquire).applySample d o
  else match x.pend with
    | none => s
    | some p =>
      let s := s.goDom d domHoldover hrStep
      if iabs (o + s.dmPair d R.PTP_PEND_H) ≤ max (s.jthr d / 4) (20 * 65536) then
        let n := p.count + 1
        let sum := p.sum + o
        let s := (s.setDmPair d R.PTP_PEND_H (-(roundNearest ((sum : Rat) / (n : Rat))))).modDom d fun x =>
          { x with pend := some { sum := sum, count := n } }
        let k := s.dm d F.PTP_CFG_K
        if k ≥ 2 && n ≥ k then (s.acceptStep d).raiseDm d F.PTP_STAT_AUTO else s
      else s.setPend d (some (-o))

/-- The path delay in force for a Sync on a port; none in peer-to-peer mode without a measurement. -/
def State.mpdOf (s : State) (d : Dom) (p : Port) : Option Int :=
  if s.dm d F.PTP_CFG_P2P = 1 then
    if s.pdly p = pdlyNone then none else some (Int.ofNat (s.pdly p).toNat * 256)
  else some (s.dmPair d R.PTP_MPD_H)

/-- Whether a domain listens on a port (PTP_CFG.PORT). -/
def State.listens (s : State) (d : Dom) (p : Port) : Bool :=
  match s.dm d F.PTP_CFG_PORT with
  | 1 => p == .e0
  | 2 => p == .e1
  | _ => true

/-- The first sample of a domain without a map installs it (R254); the era count outlives a soft reset
in the map log (R308). -/
def State.firstMap (d : Dom) (t1 mpd : Int) (s : State) : State :=
  let m : DomMap := { anchor := s.now, s := t1 + mpd, rate := 0, era := ((s.mapLogs[d]).head?.map (·.era)).getD 0#16 }
  let o := s.offset d m s.now t1 mpd
  let s := ((s.installMap d m).setDm d F.PTP_STAT_VALID 1).setDmPair d R.PTP_OFS_H o
  (s.modDom d fun x => { x with lastO := some o, good := 0 }).goDom d domAcquire hrNone

/-- A sample of offset o is judged by the domain's state (R254-R257). -/
def State.judge (d : Dom) (p : Port) (t1 o : Int) (s : State) : State :=
  let x := s.dom d
  let last := x.lastO.getD o
  let near := decide (iabs (o - last) ≤ s.smallThr d)
  if x.pend.isSome then s.pendSample d o last
  else match x.check with
    | some c =>
      if near then (s.resume d x.before).applySample d o
      else s.modDom d fun x => { x with check := some { c with latest := (s.now, t1) } }
    | none =>
      if s.domState d = domHoldover ∧ s.dm d F.PTP_STAT_HREASON = hrRejected then
        if near then (s.resume d domAcquire).applySample d o else s
      else if !near then s.depart d p t1
      else if s.domState d = domAcquire ∨ s.domState d = domSlave then s.applySample d o
      else (s.resume d domAcquire).applySample d o

/-- A Sync from the selected master gives a sample at the present time (R254). -/
def State.syncIn (d : Dom) (p : Port) (master : BitVec 64) (t1 : Int) (s : State) : State :=
  let x := s.dom d
  if s.domState d = domDisabled || !s.listens d p || x.selected.map (·.id) != some master then s
  else
    match s.mpdOf d p, s.domMap d with
    | none, _ => s
    | some mpd, none => s.firstMap d t1 mpd
    | some mpd, some m =>
      let s := if s.dm d F.PTP_CFG_P2P = 1 && (s.dom d).check.isNone then s.setDmPair d R.PTP_MPD_H mpd else s
      let o := s.offset d m s.now t1 (s.dmPair d R.PTP_MPD_H)
      (s.setDmPair d R.PTP_OFS_H o).judge d p t1 o

/-- The check of R255 ends with a path delay; `mpd` is the new one or the one in use. -/
def State.checkEnd (d : Dom) (mpd : Int) (s : State) : State :=
  let x := s.dom d
  match x.check, s.domMap d with
  | some c, some m =>
    let dd := iabs (mpd - s.dmPair d R.PTP_MPD_H)
    let o := s.offset d m c.latest.1 c.latest.2 mpd
    let dO := iabs (o - x.lastO.getD 0)
    let moved := dd > s.pthr d
    let s := ((s.setDmPair d R.PTP_MPD_H mpd).setDmPair d R.PTP_OFS_H o).modDom d fun x => { x with check := none }
    let s := if moved then s.raiseDm d F.PTP_STAT_PATH_STEP else s
    let refuse (s : State) : State := ((s.setPend d (some (-o))).raiseDm d F.PTP_STAT_JUMP_REFUSED).goDom d domHoldover hrStep
    if moved && decide (dO ≤ s.smallThr d) then s.resume d x.before
    else if moved && decide (3 * dd ≤ 4 * dO) && decide (4 * dO ≤ 5 * dd) then (refuse s).raiseDm d F.PTP_STAT_ASYM_SUSPECT
    else if iabs o > s.jthr d then refuse s
    else (s.resume d x.before).applySample d o
  | _, _ => s

/-- A Delay_Resp gives a meanPathDelay in end-to-end mode (R255). -/
def State.delayResp (d : Dom) (mpd logInt : Int) (s : State) : State :=
  if s.domState d = domDisabled || s.dm d F.PTP_CFG_P2P == 1 then s
  else
    let s := s.modDom d fun x => { x with reqInt := some logInt }
    if (s.dom d).check.isSome then s.checkEnd d mpd else s.setDmPair d R.PTP_MPD_H mpd

/-- 2 s pass in a check: the path delay is taken as unchanged (R255). -/
def State.checkTimeout (d : Dom) (s : State) : State :=
  match (s.dom d).check with
  | some c => let s := s.reach (c.since + 2 * tkSec); s.checkEnd d (s.dmPair d R.PTP_MPD_H)
  | none => s

/-! ### Masters (R253) -/

/-- Dataset comparison of IEEE 1588-2019 clause 9.3: whether a is better than b. -/
def MasterData.better (a b : MasterData) : Bool :=
  let key (m : MasterData) : List Nat := [m.prio1.toNat, m.cls.toNat, m.acc.toNat, m.var.toNat, m.prio2.toNat, m.gm.toNat]
  let same (m : MasterData) : List Nat := [m.steps.toNat, m.id.toNat, m.port.toNat]
  let lt (x y : List Nat) : Bool := match (x.zip y).find? fun p => p.1 ≠ p.2 with | some p => decide (p.1 < p.2) | none => false
  if a.gm = b.gm then lt (same a) (same b) else lt (key a) (key b)

/-- Qualified by two Announce messages within four announce intervals. -/
def Foreign.qualified (now : Nat) (f : Foreign) : Bool :=
  (match f.before with | some b => decide (f.last ≤ b + 4 * f.interval) | none => false) && decide (now ≤ f.last + 4 * f.interval)

/-- The best of the foreign masters that are qualified. -/
def bestMaster (now : Nat) (l : List Foreign) : Option MasterData :=
  (l.filter fun f => f.qualified now).foldl (fun (b : Option MasterData) f => match b with
    | some m => if f.data.better m then some f.data else b
    | none => some f.data) none

/-- The foreign masters with one more Announce message heard. -/
def heard (now : Nat) (m : MasterData) (interval : Nat) (l : List Foreign) : List Foreign :=
  let isM (f : Foreign) : Bool := f.data.id == m.id && f.data.port == m.port
  { data := m, last := now, before := (l.find? isM).map (·.last), interval := interval } :: l.filter fun g => !isM g

/-- Selects the best qualified master; a change discards a check or a pending step (R255). -/
def State.selectMaster (d : Dom) (s : State) : State :=
  let x := s.dom d
  match bestMaster s.now x.masters with
  | none => s
  | some m =>
    let s := (s.setDmPair d R.PTP_GMID_H (Int.ofNat m.id.toNat)).modDom d fun x => { x with selected := some m, lostAt := none }
    match x.selected with
    | none => s
    | some old =>
      if old.id = m.id then s
      else
        let s := s.raiseDm d F.PTP_STAT_MASTER_CHG
        if x.check.isSome || x.pend.isSome then
          (((s.setPend d none).modDom d fun x => { x with check := none, accepted := none })).goDom d domHoldover hrMaster
        else s

/-- An Announce message (R253); `interval` is its announce interval in tk. -/
def State.announce (d : Dom) (p : Port) (m : MasterData) (interval : Nat) (s : State) : State :=
  if s.domState d = domDisabled || !s.listens d p then s
  else
    (s.modDom d fun x => { x with masters := heard s.now m interval x.masters }).selectMaster d

/-- Three intervals pass without an Announce or a Sync: the master is lost (R253, R255). -/
def State.masterLost (d : Dom) (s : State) : State :=
  let x := s.dom d
  match x.selected with
  | none => s
  | some m =>
    let s := (s.setDom d { x with masters := x.masters.filter (fun f => f.data.id ≠ m.id), selected := none, check := none,
                                  lostAt := some s.now }).raiseDm d F.PTP_STAT_MASTER_LOST
    let s := s.setDmPair d R.PTP_GMID_H 0
    let s := if s.domState d = domListening then s else s.goDom d domHoldover hrMaster
    s.selectMaster d

/-- PTP_HMAX passes in holdover with no master: LISTENING (R254). -/
def State.holdoverExpiry (d : Dom) (s : State) : State :=
  match (s.dom d).lostAt with
  | some t =>
    if s.domState d = domHoldover then (s.reach (t + s.dm d F.PTP_HMAX_HMAX * tkSec)).goDom d domListening hrNone else s
  | none => s

/-- Two to a power in seconds, as PTP intervals are given. -/
def logTk (l : Int) : Nat := if 0 ≤ l then tkSec * 2 ^ l.toNat else tkSec / 2 ^ (-l).toNat

/-- When something that recurs is due again; the first time, at once. -/
def State.again (s : State) (last : Option Nat) (interval : Nat) : State :=
  match last with
  | some t => s.reach (t + interval)
  | none => s

/-- A Delay_Req in end-to-end mode goes out of the ports the domain listens on, at the interval of the
master's Delay_Resp, or once per second until it has one. -/
def State.delayReq (d : Dom) (s : State) : State :=
  if s.domState d = domDisabled || s.dm d F.PTP_CFG_P2P == 1 || (s.dom d).selected.isNone then s
  else
    let x := s.dom d
    let seq := x.reqSeq
    let s := s.again x.reqAt (logTk (x.reqInt.getD 0))
    let s := s.modDom d fun x => { x with reqSeq := seq + 1#16, reqAt := some s.now }
    s.forAll ([Port.e0, Port.e1].filter fun p => s.listens d p) fun p s =>
      s.sendOwn p (.delayReq d (BitVec.ofNat 8 (s.dm d F.PTP_CFG_DOMAIN)) seq)

/-! ### Enabling and commands (R253, R257) -/

/-- A domain starts: at or after READY (R253). -/
def State.startDom (d : Dom) (s : State) : State :=
  if s.ready && s.dm d F.PTP_CFG_EN == 1 && s.domState d == domDisabled then s.goDom d domListening hrNone else s

/-- A domain is disabled: it ceases to be valid and any pending step is discarded. -/
def State.stopDom (d : Dom) (s : State) : State :=
  let s := ((s.setPend d none).setDom d { DomSt.reset with reqSeq := (s.dom d).reqSeq }).goDom d domDisabled hrNone
  ({ s with maps := s.maps.set d none }).setDm d F.PTP_STAT_VALID 0

/-- A PTP_CFG write; a K of 1 stores 2. -/
def State.writePtpCfg (d : Dom) (w : Word) (s : State) : State :=
  let w := w &&& 0xF8FF00FF#32
  let w := if F.PTP_CFG_K.of w = 1 then F.PTP_CFG_K.into w 2 else w
  let s := s.setW (dmBase d.val + R.PTP_CFG) w
  if F.PTP_CFG_EN.of w = 1 then s.startDom d
  else if s.domState d = domDisabled then s else s.stopDom d

def State.pending? (s : State) (d : Dom) : Bool := s.dm d F.PTP_STAT_PEND == 1

/-- PTP_CMD.ACCEPT. -/
def State.ptpAccept (d : Dom) (s : State) : State :=
  if s.pending? d && (s.dom d).accepted.isNone then s.acceptStep d else s.raiseDm d F.PTP_STAT_CMD_REJ

/-- PTP_CMD.ABSORB: the pending step becomes asymmetry. -/
def State.ptpAbsorb (d : Dom) (s : State) : State :=
  if s.pending? d then
    let s := s.setDmPair d R.PTP_ASYM_H (s.dmPair d R.PTP_ASYM_H - s.dmPair d R.PTP_PEND_H)
    ((s.setPend d none).modDom d fun x => { x with accepted := none }).resume d domAcquire
  else s.raiseDm d F.PTP_STAT_CMD_REJ

/-- PTP_CMD.REJECT. -/
def State.ptpReject (d : Dom) (s : State) : State :=
  if s.pending? d then
    ((s.setPend d none).modDom d fun x => { x with accepted := none, check := none }).goDom d domHoldover hrRejected
  else s.raiseDm d F.PTP_STAT_CMD_REJ

/-- PTP_CMD. -/
def State.ptpCmd (d : Dom) (w : Word) (s : State) : State :=
  let s := if F.PTP_CMD_ACCEPT.of w = 1 then s.ptpAccept d else s
  let s := if F.PTP_CMD_ABSORB.of w = 1 then s.ptpAbsorb d else s
  if F.PTP_CMD_REJECT.of w = 1 then s.ptpReject d else s

/-- The first device time at which a map reaches domain time v. -/
def DomMap.reaches (m : DomMap) (v : Int) : Nat :=
  (Int.ofNat m.anchor + (((v - m.s : Int) : Rat) * 10 / 1024 / (1 + (m.rate : Rat) / 2 ^ 56)).ceil).toNat

/-- At the domain second an accepted step is applied and the era count increments (R47). -/
def State.stepApply (d : Dom) (s : State) : State :=
  match (s.dom d).accepted, s.domMap d with
  | some (v, sec), some m =>
    let t := m.reaches sec
    let s := s.reach t
    let s := s.installMap d { anchor := t, s := sec + v, rate := m.rate, era := m.era + 1#16 }
    let s := ((s.setPend d none).modDom d fun x => { x with accepted := none }).resume d domAcquire
    s.raiseDm d F.PTP_STAT_STEP_APPLIED
  | _, _ => s

/-! ### Pdelay (R249, R250) -/

/-- Each second in peer-to-peer mode a port sends Pdelay_Req on domainNumber 0. -/
def State.pdelayReq (p : Port) (s : State) : State :=
  if s.p2p && s.portUp p then
    let x := s.port p
    let s := s.again x.pdAt tkSec
    (s.setPort p { x with pdSeq := x.pdSeq + 1#16, pdOpen := true, pdAt := some s.now }).sendOwn p (.pdelayReq x.pdSeq)
  else s

/-- A Pdelay_Req is consumed and answered. -/
def State.pdelayAnswer (p : Port) (domain : BitVec 8) (seq : BitVec 16) (requester : BitVec 80) (turnaround : Nat) (s : State) : State :=
  if s.p2p && s.portUp p then s.sendOwn p (.pdelayResp domain seq requester turnaround) else s

/-- A Pdelay_Resp completes an exchange; the link delay is in 2^-8 ns. It ends the departure checks
of peer-to-peer domains whose Sync came on this port. -/
def State.pdelayDone (p : Port) (seq : BitVec 16) (delay : Nat) (s : State) : State :=
  let x := s.port p
  if !(s.p2p && s.portUp p && x.pdOpen && seq == x.pdSeq - 1#16) then s
  else
    let s := (s.setPort p { x with pdOpen := false }).setW (pdlyA p) (BitVec.ofNat 32 (min delay 0xFFFFFFFE))
    s.forAll (List.finRange 4) fun (d : Dom) s =>
      match (s.dom d).check with
      | some c => if c.port = p && s.dm d F.PTP_CFG_P2P == 1 then s.checkEnd d (Int.ofNat (s.pdly p).toNat * 256) else s
      | none => s

end Sys2Proof.Machine
end

