-- ==== Sys2Proof/Machine/Crypto.lean ====
section
/-!
DEFINITION. The checks of a service image (R187): SHA-256 (FIPS 180-4) and ECDSA verification on
P-256 (FIPS 186-5). PRESUMED from those standards, which the spec names and does not restate
(notes/assumptions/33.md).
-/

namespace Sys2Proof.Machine

/-! ### SHA-256 -/

/-- The first n primes. -/
def primesUpTo (n : Nat) : List Nat :=
  (List.range n).filter fun p => decide (2 ≤ p) && (List.range p).all fun d => decide (d < 2) || decide (p % d ≠ 0)

/-- The integer cube root, by bits from the top. -/
def cubeRoot (n : Nat) : Nat :=
  (List.range 64).foldl (fun r i => let c := r + 2 ^ (63 - i); if c * c * c ≤ n then c else r) 0

/-- Round constants: fractional bits of the cube roots of the first 64 primes. -/
def shaK : List (BitVec 32) :=
  ((primesUpTo 312).take 64).map fun p => BitVec.ofNat 32 (cubeRoot (p * 2 ^ 96))

/-- Initial hash: fractional bits of the square roots of the first 8 primes. -/
def shaInit : List (BitVec 32) :=
  ((primesUpTo 20).take 8).map fun p => BitVec.ofNat 32 (Nat.sqrt (p * 2 ^ 64))

def shaBig0 (x : BitVec 32) : BitVec 32 := x.rotateRight 2 ^^^ x.rotateRight 13 ^^^ x.rotateRight 22
def shaBig1 (x : BitVec 32) : BitVec 32 := x.rotateRight 6 ^^^ x.rotateRight 11 ^^^ x.rotateRight 25
def shaSmall0 (x : BitVec 32) : BitVec 32 := x.rotateRight 7 ^^^ x.rotateRight 18 ^^^ (x >>> 3)
def shaSmall1 (x : BitVec 32) : BitVec 32 := x.rotateRight 17 ^^^ x.rotateRight 19 ^^^ (x >>> 10)

/-- Extends a message schedule, newest word first. -/
def shaExtend : Nat → List (BitVec 32) → List (BitVec 32)
  | 0, w => w
  | n + 1, w =>
    shaExtend n ((shaSmall1 (w.getD 1 0#32) + w.getD 6 0#32 + shaSmall0 (w.getD 14 0#32) + w.getD 15 0#32) :: w)

/-- One round on the working variables a to h. -/
def shaRound (v : List (BitVec 32)) (kw : BitVec 32) : List (BitVec 32) :=
  match v with
  | [a, b, c, d, e, f, g, h] =>
    let t1 := h + shaBig1 e + ((e &&& f) ^^^ (~~~e &&& g)) + kw
    let t2 := shaBig0 a + ((a &&& b) ^^^ (a &&& c) ^^^ (b &&& c))
    [t1 + t2, a, b, c, d + t1, e, f, g]
  | v => v

/-- Takes one 64-byte block. -/
def shaBlock (h : List (BitVec 32)) (b : List Byte) : List (BitVec 32) :=
  let w := (List.range 16).map fun i => BitVec.ofNat 32 (ofBytesBE ((b.drop (4 * i)).take 4))
  let w := (shaExtend 48 w.reverse).reverse
  let v := ((shaK.zip w).map fun p => p.1 + p.2).foldl shaRound h
  (h.zip v).map fun p => p.1 + p.2

def shaBlocks : Nat → List Byte → List (BitVec 32) → List (BitVec 32)
  | 0, _, h => h
  | n + 1, m, h => shaBlocks n (m.drop 64) (shaBlock h (m.take 64))

/-- The SHA-256 digest as a number. -/
def sha256 (m : List Byte) : Nat :=
  let pad := (55 + 64 - m.length % 64) % 64
  let m' := m ++ [0x80#8] ++ List.replicate pad 0#8 ++ bytesBE 8 (8 * m.length)
  (shaBlocks (m'.length / 64) m' shaInit).foldl (fun a w => a * 2 ^ 32 + w.toNat) 0

/-! ### P-256 -/

def p256p : Nat := 2 ^ 256 - 2 ^ 224 + 2 ^ 192 + 2 ^ 96 - 1
def p256n : Nat := 0xFFFFFFFF00000000FFFFFFFFFFFFFFFFBCE6FAADA7179E84F3B9CAC2FC632551
def p256b : Nat := 0x5AC635D8AA3A93E7B3EBBD55769886BC651D06B0CC53B0F63BCE3C3E27D2604B
def p256g : Nat × Nat :=
  (0x6B17D1F2E12C4247F8BCE6E563A440F277037D812DEB33A0F4A13945D898C296,
   0x4FE342E2FE1A7F9B8EE7EB4A7C0F9E162BCE33576B315ECECBB6406837BF51F5)

/-- a^e mod m, by the low `fuel` bits of e. -/
def powMod (m : Nat) : Nat → Nat → Nat → Nat
  | 0, _, _ => 1 % m
  | fuel + 1, a, e =>
    let r := powMod m fuel (a * a % m) (e / 2)
    if e % 2 = 1 then a * r % m else r

/-- The inverse modulo a prime. -/
def invMod (m a : Nat) : Nat := powMod m 256 (a % m) (m - 2)

/-- A point of the curve; none is the point at infinity. -/
abbrev P256 := Option (Nat × Nat)

/-- Point addition. -/
def p256Add : P256 → P256 → P256
  | none, q => q
  | p, none => p
  | some (x1, y1), some (x2, y2) =>
    if x1 = x2 ∧ (y1 + y2) % p256p = 0 then none
    else
      let l := if x1 = x2 then (3 * x1 * x1 + (p256p - 3)) * invMod p256p (2 * y1) % p256p
        else (y2 + (p256p - y1)) * invMod p256p (x2 + (p256p - x1)) % p256p
      let x3 := (l * l + 2 * p256p - x1 - x2) % p256p
      some (x3, (l * (x1 + p256p - x3) + (p256p - y1)) % p256p)

/-- k times a point, by the low `fuel` bits of k. -/
def p256Mul : Nat → Nat → P256 → P256
  | 0, _, _ => none
  | fuel + 1, k, p =>
    let r := p256Mul fuel (k / 2) (p256Add p p)
    if k % 2 = 1 then p256Add p r else r

/-- Whether (r, s) is a signature of digest e under the key (x, y). -/
def p256Verify (x y e r s : Nat) : Bool :=
  decide (x < p256p) && decide (y < p256p) && decide (y * y % p256p = (x * x * x + (p256p - 3) * x + p256b) % p256p) &&
  decide (0 < r) && decide (r < p256n) && decide (0 < s) && decide (s < p256n) &&
  (let w := invMod p256n s
   match p256Add (p256Mul 256 (e * w % p256n) (some p256g)) (p256Mul 256 (r * w % p256n) (some (x, y))) with
   | none => false
   | some (px, _) => decide (px % p256n = r))

end Sys2Proof.Machine
end

