-- ==== Sys2Proof/Machine/FlashOps.lean ====
section
/-!
DEFINITION. The configuration flash (R303): its contents, the classes of its slots (R304, R214,
R187), and stores into them one at a time (R307, R213, R188).
-/

namespace Sys2Proof.Machine

/-! ### Contents -/

/-- An erased byte. -/
def flashBlank (_ : Nat) : Byte := 0xFF#8

/-- Bytes of the flash; with no identification every slot reads empty (R303). -/
def State.flashRead (s : State) (a n : Nat) : List Byte :=
  if s.boot.flashOk then sparseGetList flashBlank s.flash a n else List.replicate n 0xFF#8

def State.flashWrite (a : Nat) (bs : List Byte) (s : State) : State :=
  { s with flash := sparsePutList flashBlank s.flash a bs }

def State.flashErase (a n : Nat) (s : State) : State :=
  { s with flash := s.flash.filter fun e => !(decide (a ≤ e.1) && decide (e.1 < a + n)) }

/-- The slots A and B of each kind, and their size. -/
def cfgSlot (b : Nat) : Nat := 0x100000 * b
def calSlot (b : Nat) : Nat := 0x200000 + 0x40000 * b
def imgSlot (b : Nat) : Nat := 0x400000 + 0x200000 * b
def slotSize (a : Nat) : Nat := if a < 0x200000 then 0x100000 else if a < 0x280000 then 0x40000 else 0x200000

/-- Big-endian words of a byte list. -/
def wordsOf : List Byte → List Word
  | a :: b :: c :: d :: t => BitVec.ofNat 32 (ofBytesBE [a, b, c, d]) :: wordsOf t
  | _ => []

def bytesOf (ws : List Word) : List Byte := ws.flatMap fun w => bytesBE 4 w.toNat

/-- a is later than b (R213). -/
def storeLater (a b : Nat) : Bool :=
  let d := (a + 2 ^ 32 - b) % 2 ^ 32
  decide (1 ≤ d) && decide (d < 2 ^ 31)

inductive SlotClass where
  | empty | foreign | torn | valid
  deriving DecidableEq, Repr

/-- A configuration record: OP 1, bits [27:24] 0, an address that is a multiple of 4 (R304). -/
def recordsOk : List Word → Bool
  | a :: _ :: t => decide (bitsGet a 28 4 = 1) && decide (bitsGet a 24 4 = 0) && decide (bitsGet a 0 2 = 0) && recordsOk t
  | [] => true
  | _ => false

/-- The length of a configuration body (R304). -/
def cfgLenOk (n : Nat) : Bool := decide (n % 8 = 0) && decide (8 ≤ n) && decide (n ≤ 1048320)

/-- The class of a configuration slot (R304); its body. -/
def State.cfgClass (s : State) (b : Nat) : SlotClass × List Word :=
  let a := cfgSlot b
  let h := s.flashRead a 256
  let n := field h 12 4
  if field h 0 4 = 0xFFFFFFFF then (.empty, [])
  else if field h 0 4 ≠ 0x53434346 || field h 4 4 ≠ 1 || !cfgLenOk n then (.torn, [])
  else
    let body := s.flashRead (a + 256) n
    let ws := wordsOf body
    if (crc32 (h.drop 20 ++ body)).toNat ≠ field h 16 4 || !recordsOk ws then (.torn, [])
    else if field h 20 4 ≠ 0 && field h 20 4 ≠ s.fuses.ident.toNat then (.foreign, ws)
    else (.valid, ws)

/-- The class of a calibration slot (R214); its set. -/
def State.calClass (s : State) (b : Nat) : SlotClass × List Word :=
  let a := calSlot b
  let h := s.flashRead a 256
  if field h 0 4 = 0xFFFFFFFF then (.empty, [])
  else if field h 0 4 ≠ 0x5343434C || field h 4 4 ≠ 1 || field h 12 4 ≠ 222976 then (.torn, [])
  else
    let body := s.flashRead (a + 256) 222976
    if (crc32 (h.drop 20 ++ body)).toNat ≠ field h 16 4 then (.torn, [])
    else if field h 20 4 ≠ s.fuses.ident.toNat then (.foreign, [])
    else (.valid, wordsOf body)

/-- The sequence number a slot's header holds. -/
def State.slotSeq (s : State) (a : Nat) : Nat := field (s.flashRead a 16) 8 4

/-- Of two slots, the valid one with the later sequence number (R213, R305). -/
def laterSlot (a b : SlotClass) (sa sb : Nat) : Option Nat :=
  match a, b with
  | .valid, .valid => some (if storeLater sb sa then 1 else 0)
  | .valid, _ => some 0
  | _, .valid => some 1
  | _, _ => none

/-- Where a new store goes, and its sequence number (R213, R307). -/
def nextStore (later : Option Nat) (seq : Nat → Nat) : Nat × Nat :=
  match later with
  | some b => (1 - b, (seq b + 1) % 2 ^ 32)
  | none => (0, 1)

def State.cfgLater (s : State) : Option Nat :=
  laterSlot (s.cfgClass 0).1 (s.cfgClass 1).1 (s.slotSeq (cfgSlot 0)) (s.slotSeq (cfgSlot 1))
def State.calLater (s : State) : Option Nat :=
  laterSlot (s.calClass 0).1 (s.calClass 1).1 (s.slotSeq (calSlot 0)) (s.slotSeq (calSlot 1))

/-! ### Service images (R187) -/

/-- The check of an image, header and body: 0 valid, 1 CRC, 2 key hash, 3 signature, 4 length. -/
def imageCheck (fuses : Fuses) (img : List Byte) : Nat :=
  let h := img.take 256
  let body := img.drop 256
  if img.length < 256 || field h 12 4 ≠ body.length then 4
  else if (crc32 (h.drop 20 ++ body)).toNat ≠ field h 16 4 then 1
  else if sha256 ((h.drop 20).take 64) ≠ fuses.hash.toNat then 2
  else if !p256Verify (field h 20 32) (field h 52 32) (sha256 (h.take 16 ++ body)) (field h 84 32) (field h 116 32) then 3
  else if body.length > 1048576 then 4
  else 0

/-- Whether an image slot is valid. -/
def State.imgValid (s : State) (b : Nat) : Bool :=
  let n := field (s.flashRead (imgSlot b) 256) 12 4
  decide (n ≤ 1048576) && decide (imageCheck s.fuses (s.flashRead (imgSlot b) (256 + n)) = 0)

/-! ### Stores -/

/-- The warning of R316. -/
def State.lifeTest (s : State) : State :=
  let most := s.erases.foldl (fun m e => max m e.2) 0
  let s := s.setW R.DEV_WEAR_FLASH (BitVec.ofNat 32 (min most (2 ^ 32 - 1)))
  if s.f 0 F.DEV_WEAR_USED_VALUE ≥ s.f 0 F.DEV_WEAR_CTL_WARN * 1000 || most ≥ 1000 * s.f 0 F.DEV_WEAR_CTL_FEND then
    s.raise 0 F.DEV_FLT_LIFE_WARN
  else s

/-- The first store in the queue starts: its slot is erased and the header written. -/
def State.beginStore (s : State) : State :=
  match s.stores with
  | [] => s.setF 0 F.DEV_CFG_STAT_STORE_BUSY 0
  | x :: _ =>
    let s := s.setF 0 F.DEV_CFG_STAT_STORE_BUSY 1
    if s.boot.flashOk then
      let s := (s.flashErase x.base (slotSize x.base)).flashWrite x.base x.header
      ({ s with erases := sparsePut (fun _ => 0) s.erases x.base (sparseGet (fun _ => 0) s.erases x.base + 1) } : State).lifeTest
    else s

/-- A store joins the queue. -/
def State.queueStore (x : FlashStore) (s : State) : State :=
  let idle := s.stores.isEmpty
  let s := { s with stores := s.stores ++ [x] }
  if idle then s.beginStore else s

/-- A header of 256 bytes: magic, format, sequence, length, CRC-32, then what follows byte 19. -/
def slotHeader (magic format seq len : Nat) (rest : List Byte) (body : List Byte) : List Byte :=
  let tail := rest ++ List.replicate (236 - rest.length) 0#8
  bytesBE 4 magic ++ bytesBE 4 format ++ bytesBE 4 seq ++ bytesBE 4 len ++ bytesBE 4 (crc32 (tail ++ body)).toNat ++ tail

/-- A new configuration image, as OD 0x1040 takes it: the CRC-32 of the body, then the body (R307). -/
def State.storeConfig (bytes : List Byte) (s : State) : State :=
  let body := bytes.drop 4
  if bytes.length < 4 || !cfgLenOk body.length then { s with storeOutcome := 2 }
  else if (crc32 body).toNat ≠ field bytes 0 4 then { s with storeOutcome := 1 }
  else if !recordsOk (wordsOf body) then { s with storeOutcome := 3 }
  else
    let (b, seq) := nextStore s.cfgLater fun b => s.slotSeq (cfgSlot b)
    s.queueStore { kind := .config, base := cfgSlot b, header := slotHeader 0x53434346 1 seq body.length [] body, body := body }

/-- Whole seconds since an instant, or what the set says where none is known. -/
def State.ageSec (s : State) (last : Option Nat) (else_ : Nat) : Nat :=
  match last with
  | some t => min (2 ^ 32 - 1) ((s.now - t) / tkSec)
  | none => else_

/-- The calibration set as a store takes it, with each side's age (R211). -/
def State.calBytes (s : State) : List Byte :=
  (List.range calWords).flatMap fun k =>
    let w := (s.calW k).toNat
    let w := if k < 54400 && k % 200 = 195 then
        let x := s.fe (calOwner k)
        s.ageSec (if k / 200 % 2 = 0 then x.lastA else x.lastB) w
      else w
    bytesBE 4 w

/-- The mean of the sensors' temperatures. -/
def State.meanTj (s : State) : Int := roundNearest (((s.temps.foldl (fun a t => a + t) 0 : Int) : Rat) / 12)

/-- A calibration store for a call (R213). -/
def State.storeCal (handle : Nat) (s : State) : State :=
  let body := s.calBytes
  let (b, seq) := nextStore s.calLater fun b => s.slotSeq (calSlot b)
  let rest := bytesBE 4 s.fuses.ident.toNat ++ bytesBE 4 (s.f 0 F.TB_RUN_ID_VALUE) ++ bytesBE 4 s.clk.epx.toNat ++
    bytesBE 8 s.clk.ets.toNat ++ bytesBE 2 (satSigned 16 s.meanTj)
  s.queueStore { kind := .cal handle, base := calSlot b, header := slotHeader 0x5343434C 1 seq 222976 rest body, body := body }

end Sys2Proof.Machine
end

