-- ==== Sys2Proof/Machine/ServiceOps.lean ====
section
/-!
DEFINITION. Indigo's services (R177-R185): calls, claims, results; service images, the live update
and the watchdog (R187-R189, R314).
-/

namespace Sys2Proof.Machine

/-! ### Calls -/

def State.modIndigo (g : Indigo → Indigo) (s : State) : State := { s with indigo := g s.indigo }

def State.call? (s : State) (h : Nat) : Option Call := s.indigo.calls.find? fun k => k.handle = h

def State.modCall (h : Nat) (g : Call → Call) (s : State) : State :=
  s.modIndigo fun x => { x with calls := x.calls.map fun (k : Call) => if k.handle = h then g k else k }

def Call.active (k : Call) : Bool := k.st == .queued || k.st == .running

/-- A running image is loaded (R187). -/
def State.imageRuns (s : State) : Bool := decide (s.f 0 F.DEV_SVC_STAT_SLOT ≠ 0)

/-- The length of a parameter block (R271). -/
def svcLen : Nat → Nat
  | 1 => 32
  | 2 => 40
  | 3 => 32
  | 4 => 28
  | 5 => 12
  | _ => 8

/-- A call joins the queue (R177, R178): its handle, or none where the queue is full. A handle's slot
of OD 0x7180 passes to the newest call. -/
def State.queueCall (id : Nat) (params : List Byte) (auto : Bool) (s : State) : Option Nat × State :=
  let x := s.indigo
  if (x.calls.filter fun k => k.st == .queued).length ≥ 16 then (none, s)
  else
    let h := x.nextHandle
    let k : Call := { handle := h, id := id, params := params, st := .queued, core := none, claims := [], result := [],
                      startAt := s.now, maxTime := field params 0 4, auto := auto, lt := [] }
    (some h, s.modIndigo fun x => { x with
      calls := (x.calls.filter fun (q : Call) => q.active || decide (q.handle % 256 ≠ h % 256)) ++ [k],
      nextHandle := h % 65535 + 1 })

/-! ### Claims (R179) -/

/-- The registers a claim takes. -/
def claimOffs : List Nat :=
  [R.CH_TDAC, R.CH_DEC, R.CH_FUNC, R.CH_GATE_H, R.CH_GATE_L, R.CH_PART, R.CH_NOM_H, R.CH_NOM_L,
   R.CH_HG_CTL, R.CH_HG_NB, R.CH_HG_LO_H, R.CH_HG_LO_L]

def hgOff (o : Nat) : Bool := o == R.CH_HG_CTL || o == R.CH_HG_NB || o == R.CH_HG_LO_H || o == R.CH_HG_LO_L

/-- The channels of a mask laid out as OD 0x4002, words 0 to 3. -/
def maskChs (bs : List Byte) : List Ch :=
  let ws := wordsOf bs
  allCh.filter fun n => (ws.getD (n.val / 32) 0#32).getLsbD (n.val % 32)

/-- The channels a call claims. -/
def Call.claimChs (k : Call) : List Ch :=
  match k.id with
  | 1 => maskChs (k.params.drop 8)
  | 2 | 3 => [chOf (field k.params 8 1)]
  | _ => []

/-- Whether a channel cannot be claimed. -/
def State.claimRefused (s : State) (n : Ch) : Bool :=
  let p := Ch.spareOf n
  s.fb (chBase n) F.CH_MD_CTL_EN || s.captured n || s.streamed n ||
  ((s.spState p == 1 || s.spState p == 3) && s.spCh p == n) ||
  !s.actB n F.CH_CFG_EN || s.fusedOff n || s.claimed n

/-- The values in force, to be restored. -/
def State.saveClaim (s : State) (n : Ch) : List (Nat × Word) :=
  claimOffs.map fun o => (o, s.w (chBase n + 0x800 + o))

/-- Histogram settings are put in force as they are. -/
def State.putHg (n : Ch) (o : Nat) (w : Word) (s : State) : State :=
  ((s.setW (chBase n + o) w).setW (chBase n + 0x800 + o) w).modChan n fun c => { c with dirty := c.dirty.filter (· != o) }

/-- A service's write of a claimed channel's register: the shadow, applied at its boundary. -/
def State.svcWrite (n : Ch) (o : Nat) (w : Word) (s : State) : State := s.putShadow n o w

/-- A threshold setting in immediate mode; as a write of CH_TDAC it breaks the idle conditions (R205). -/
def State.svcTdac (n : Ch) (w : Word) (s : State) : State :=
  let w := F.CH_TDAC_MODE.into w 0
  let s := s.breakIdle n
  let s := s.setW (chBase n + R.CH_TDAC) w
  (s.setW (chBase n + 0x800 + R.CH_TDAC) (F.CH_TDAC_MODE.into (s.w (chBase n + 0x800 + R.CH_TDAC)) 0)).modChan n (fun c => { c with tdacWritten := true, tdacLate := none }) |>.applyTdac n s.now none

/-- A claim ends: the values before it come back, and then the channel is released. The bins stay as
the service left them. -/
def State.releaseClaim (n : Ch) (saved : List (Nat × Word)) (s : State) : State :=
  let s := s.forAll saved fun p s =>
    if hgOff p.1 then s.putHg n p.1 p.2
    else if p.1 = R.CH_TDAC then s.svcTdac n p.2
    else s.svcWrite n p.1 p.2
  s.setF (chBase n) F.CH_HG_STAT_SVC_OWN 0

/-! ### The end of a call -/

def CallState.code : CallState → Nat
  | .queued => 1
  | .running => 2
  | .done => 3
  | .failed _ => 4
  | .aborted => 5

def CallState.fail : CallState → Nat
  | .failed c => c
  | _ => 0

/-- The averaging factors of LTADEV (R183). -/
def ltMs : List Nat := [1, 2, 5, 10, 20, 50, 100, 200, 500, 1000, 2000, 5000]

/-- The overlapping estimator over the phases kept: the sum of squared second differences and its
terms (R112). -/
def ltSum (m : Nat) (ps : List Rat) : Rat × Nat :=
  ((ps.zip (ps.drop m)).zip (ps.drop (2 * m))).foldl
    (fun a t => let d := t.1.1 - 2 * t.1.2 + t.2; (a.1 + d * d, a.2 + 1)) (0, 0)

/-- The rows of one channel of an LTADEV result (R271). -/
def LtChan.rows (l : LtChan) : List Byte :=
  bytesBE 1 l.ch.val ++ List.replicate 7 0#8 ++ ltMs.flatMap fun (m : Nat) =>
    let tau : Rat := ((m * 2 ^ l.shift * l.gate : Nat) : Rat) / 640000000000
    let q := ltSum m l.phases
    let sig := if q.2 = 0 || tau = 0 then f64NaN else f64Sqrt (q.1 / (2 * tau * tau * (q.2 : Rat)))
    bytesBE 8 (f64OfRat tau).toNat ++ bytesBE 8 sig.toNat ++ bytesBE 8 q.2

/-- The 8-byte head of a result (R270). -/
def Call.head (k : Call) (st : CallState) (now : Nat) : List Byte :=
  bytesBE 2 k.handle ++ bytesBE 1 st.code ++ bytesBE 1 st.fail ++ bytesBE 4 (min (2 ^ 32 - 1) ((now - k.startAt) / tkUs))

/-- A core that is free of calls loads the new image of a live update (R189). -/
def State.swapFree (s : State) : State :=
  match s.indigo.live with
  | none => s
  | some u =>
    let busy := s.indigo.calls.filterMap fun (k : Call) => if k.st == .running then k.core else none
    let free := (List.finRange 8).filter fun c => decide (c.val < 6) && !busy.contains c && !u.swapped.contains c
    s.modIndigo fun x => { x with live := some { u with swapped := u.swapped ++ free } }

/-- The flash store of a call that is stopped ends with it and leaves its slot torn (R213). -/
def State.dropStore (h : Nat) (s : State) : State :=
  match s.stores with
  | [] => s
  | x :: rest =>
    if x.kind == StoreKind.cal h then ({ s with stores := rest } : State).beginStore
    else { s with stores := x :: rest.filter fun y => !(y.kind == StoreKind.cal h) }

/-- A call ends: claims are restored, the result written; 64 results are kept (R178, R179). -/
def State.finishCall (h : Nat) (st : CallState) (body : List Byte) (s : State) : State :=
  match s.call? h with
  | none => s
  | some k =>
    let s := if st == .aborted then s.dropStore h else s
    let now := s.now
    let s := s.forAll k.claims fun c s => s.releaseClaim c.1 c.2
    let body := if k.id = 4 then k.lt.flatMap LtChan.rows else body
    let s := s.modCall h fun k => { k with st := st, core := none, claims := [], result := k.head st now ++ body }
    let s := s.modIndigo fun x =>
      let fin := h :: x.finished.filter (· ≠ h)
      { x with finished := fin.take 64, calls := x.calls.map fun (q : Call) => if (fin.drop 64).contains q.handle then { q with result := [] } else q }
    let s := if k.auto && st != .done then s.raise 0 F.CAL_STAT_STORE_FAIL else s
    s.swapFree

/-- Stops a call that is queued or running (R270); none where it is neither. -/
def State.abortCall (h : Nat) (s : State) : Option State :=
  match s.call? h with
  | some k => if k.active then some (s.finishCall h .aborted []) else none
  | none => none

/-- MAXTIME in ms: the service's default where the call gives 0; none for LTADEV (R178). -/
def Call.limit (k : Call) : Option Nat :=
  if k.maxTime ≠ 0 then some k.maxTime
  else match k.id with
    | 1 => some 1000
    | 2 => some 10000
    | 3 => some 60000
    | 5 => some 3000
    | 6 => some 1000
    | _ => none

/-! ### Parameters and starts (R180-R185) -/

def Call.p (k : Call) (at_ n : Nat) : Nat := field k.params at_ n
def Call.pInt (k : Call) (at_ n : Nat) : Int := signExt (8 * n) (field k.params at_ n)

/-- The codes of SHMOO's rows stay within the TDAC. -/
def Call.rowsFit (k : Call) : Bool :=
  let lastRow : Int := Int.ofNat (k.p 28 4) + (Int.ofNat (k.p 14 2) - 1) * k.pInt 32 4
  decide (k.p 28 4 < 262144) && decide (0 ≤ lastRow) && decide (lastRow < 262144)

/-- Whether a parameter block is in range. -/
def Call.paramsOk (k : Call) : Bool :=
  decide (k.p 4 4 = 0) &&
  match k.id with
  | 1 => decide (k.p 24 4 = 0) && decide (k.p 28 1 ≤ 1) && decide (k.p 29 1 = 0) && decide (1 ≤ k.p 30 2) && decide (k.p 30 2 ≤ 10000)
  | 2 => decide (k.p 8 1 < 128) && decide (k.p 9 1 ≤ 1) && decide (k.p 10 1 ≤ 47) && decide (k.p 11 1 ≤ 1) && decide (1 ≤ k.p 12 2) &&
         decide (1 ≤ k.p 14 2) && (decide (k.p 9 1 = 1) || decide (1 ≤ k.p 24 4)) && k.rowsFit && decide (1 ≤ k.p 36 2) && decide (k.p 38 2 = 0)
  | 3 => decide (k.p 8 1 < 128) && decide (-16 ≤ k.pInt 9 1) && decide (k.pInt 9 1 ≤ -6) && decide (k.p 10 2 = 0) &&
         decide (1024 ≤ k.p 12 4) && decide (k.p 12 4 ≤ 65536) && decide (2 ^ (k.p 12 4).log2 = k.p 12 4) && decide (1 ≤ k.p 16 8) &&
         decide (1000000 ≤ k.p 24 4) && decide (k.p 24 4 ≤ 1000000000) && decide (k.p 28 4 = 0)
  | 4 => decide (k.p 24 4 = 0) && decide ((maskChs (k.params.drop 8)).length ≤ 16)
  | 5 => decide (k.p 8 1 ≤ 2) && decide (k.p 9 3 = 0)
  | _ => true

/-- The histogram setting a call needs on its channel. -/
def State.svcGeom (s : State) (k : Call) (n : Ch) : HgGeom :=
  let a := chBase n + 0x800
  let ctl := F.CH_HG_CTL_DBUF.into (F.CH_HG_CTL_SRC.into (s.w (a + R.CH_HG_CTL)) 3) 0
  let nb := if k.id = 2 then BitVec.ofNat 32 (k.p 12 2) else s.w (a + R.CH_HG_NB)
  let g := hgGeom ctl nb
  if k.id = 2 then { g with bins := k.p 14 2 * (k.p 12 2 + 2) } else g

/-- Why a call cannot start: PARAM 1, CLAIM 2, CFG 3, LAKE 6. -/
def State.svcFails (s : State) (k : Call) : Option Nat :=
  let chs := k.claimChs
  if !k.paramsOk then some 1
  else if chs.any s.claimRefused then some 2
  else if (k.id = 2 || k.id = 3) && chs.any (fun n => !s.hgFits n (s.svcGeom k n)) then some 6
  else if k.id = 2 && k.p 9 1 = 1 && chs.any (fun n => !s.actB n F.CH_PART_PEN) then some 3
  else if k.id = 4 && (maskChs (k.params.drop 8)).any (fun n =>
      !(s.actB n F.CH_FUNC_FEN && decide (s.act n F.CH_FUNC_FUNC = 0) && decide (s.act n F.CH_FUNC_GMODE % 3 = 0))) then some 3
  else none

/-- What a service sets on a claimed channel before its first step. -/
def State.svcSetup (k : Call) (n : Ch) (s : State) : State :=
  let sh (o : Nat) : Word := s.w (chBase n + o)
  match k.id with
  | 1 =>
    ((s.svcTdac n (F.CH_TDAC_RANGE.into (F.CH_TDAC_HYS.into (sh R.CH_TDAC) 0) (k.p 28 1))).svcWrite n R.CH_FUNC
      (F.CH_FUNC_FUNC.into (sh R.CH_FUNC) 7)).svcWrite n R.CH_DEC (F.CH_DEC_POL.into (sh R.CH_DEC) 0)
  | 2 =>
    let ctl := F.CH_HG_CTL_WSH.into (F.CH_HG_CTL_DBUF.into (F.CH_HG_CTL_SRC.into (sh R.CH_HG_CTL) 3) 0) (k.p 10 1)
    let lo := k.p 16 8
    let s := (((s.putHg n R.CH_HG_CTL ctl).putHg n R.CH_HG_NB (BitVec.ofNat 32 (k.p 12 2))).putHg n R.CH_HG_LO_H
      (BitVec.ofNat 32 (lo / 2 ^ 32))).putHg n R.CH_HG_LO_L (BitVec.ofNat 32 lo)
    s.svcTdac n (F.CH_TDAC_CODE.into (F.CH_TDAC_RANGE.into (sh R.CH_TDAC) (k.p 11 1)) (k.p 28 4))
  | 3 =>
    let ui := k.p 16 8
    let s := ((s.svcWrite n R.CH_NOM_H (BitVec.ofNat 32 (ui / 2 ^ 32))).svcWrite n R.CH_NOM_L (BitVec.ofNat 32 ui)).svcWrite n R.CH_FUNC
      (F.CH_FUNC_TIE_REF.into (F.CH_FUNC_FUNC.into (sh R.CH_FUNC) 8) 0)
    s.putHg n R.CH_HG_CTL (F.CH_HG_CTL_WSH.into (F.CH_HG_CTL_DBUF.into (F.CH_HG_CTL_SRC.into (sh R.CH_HG_CTL) 3) 0) 0)
  | _ => s

/-- The store an LTADEV call keeps for a channel. -/
def State.ltStart (s : State) (n : Ch) : LtChan :=
  { ch := n, func := s.w (chBase n + 0x800 + R.CH_FUNC), gate := s.gateLen n, phases := [], shift := 0, skip := 0, cycles := 0,
    f0 := none, ended := false }

/-- Whether new calls may start (R187, R189, R314). -/
def State.svcOpen (s : State) : Bool :=
  s.imageRuns && s.indigo.restarting != some none &&
  match s.indigo.live with
  | none => true
  | some u => decide (u.swapped.length = 8)

/-- The first queued call that can start: one CALSTORE runs at a time (R184). -/
def State.nextCall (s : State) : Option Call :=
  let storing := s.indigo.calls.any fun k => k.id == 5 && k.st == .running
  s.indigo.calls.find? fun k => k.st == .queued && !(k.id == 5 && storing)

/-- The lowest free core among 0 to 5. -/
def State.freeCore (s : State) : Option (Fin 8) :=
  (List.finRange 8).find? fun c => decide (c.val < 6) && !(s.indigo.calls.any fun k => k.st == .running && k.core == some c)

/-- A queued call reaches a free core and starts (R177, R179); under the boot responder it ends FAILED,
NOIMG (R187). -/
def State.svcStart (s : State) : State :=
  if s.fb 0 F.DEV_SVC_STAT_NOIMG then
    match s.nextCall with
    | some k => s.finishCall k.handle (.failed 7) []
    | none => s
  else if !s.svcOpen then s
  else match s.nextCall, s.freeCore with
    | some k, some core =>
      let s := s.modCall k.handle fun q => { q with st := .running, core := some core, startAt := s.now }
      match s.svcFails k with
      | some c => s.finishCall k.handle (.failed c) []
      | none =>
        let saved := k.claimChs.map fun n => (n, s.saveClaim n)
        let lt := if k.id = 4 then (maskChs (k.params.drop 8)).map s.ltStart else []
        let s := s.modCall k.handle fun q => { q with claims := saved, lt := lt }
        let s := s.forAll k.claimChs fun n s => (s.setF (chBase n) F.CH_HG_STAT_SVC_OWN 1).svcSetup k n
        if k.id = 5 && k.p 8 1 = 0 then s.storeCal k.handle else s
    | _, _ => s

/-- The slot, sequence number and three zeros of a CALSTORE result. -/
def calResult (slot seq : Nat) : List Byte := bytesBE 1 slot ++ [0#8, 0#8, 0#8] ++ bytesBE 4 seq

/-- A load by CALSTORE (R215). -/
def State.calLoadCall (h b : Nat) (s : State) : State :=
  match s.calClass b with
  | (.valid, ws) =>
    let seq := s.slotSeq (calSlot b)
    (((s.loadCal ws).setF 0 F.CAL_STAT_SLOT (b + 1)).setF 0 F.CAL_SEQ_VALUE seq).finishCall h .done (calResult (b + 1) seq)
  | (.torn, _) => (s.raise 0 F.CAL_STAT_CAL_SLOT_TORN).finishCall h (.failed 5) []
  | (.foreign, _) => (s.raise 0 F.CAL_STAT_ID_MISMATCH).finishCall h (.failed 5) []
  | (.empty, _) => s.finishCall h (.failed 5) []

/-! ### What the services make of what they see (R179-R185) -/

/-- What a step counted: a disturbed step is discarded and repeated once, and fails the second time. -/
def Probe.count (p : Probe) : Option Nat :=
  if !p.disturbed then some p.edges else if !p.disturbed2 then some p.edges2 else none

def ShmooRow.counted (r : ShmooRow) : Option (List (Int × Int)) :=
  if !r.disturbed then some r.edges else if !r.disturbed2 then some r.edges2 else none

/-- LEVEL's result for a channel (R180): the highest and the lowest code that showed an edge, and the middle;
all ones where none did. Which codes a search tries is not stated: the probes name them (DESIGN CHOICE,
log 105). -/
def levelRow (probes : List Probe) (n : Ch) : List Byte :=
  let codes := (probes.filter fun p => p.ch = n && (match p.count with | some k => decide (0 < k) | none => false)).map (·.code.toNat)
  match codes with
  | [] => bytesBE 4 0xFFFFFFFF ++ bytesBE 4 0xFFFFFFFF ++ bytesBE 4 0xFFFFFFFF
  | c :: t =>
    let hi := t.foldl max c
    let lo := t.foldl min c
    bytesBE 4 hi ++ bytesBE 4 lo ++ bytesBE 4 ((hi + lo) / 2)

/-- SHMOO's value of an edge in 1/16 tk (R181): from the run's first edge modulo UI in MODE 0, from the partner's
latest rising edge in MODE 1. -/
def Call.shmooX (k : Call) (first : Int) (e : Int × Int) : Int :=
  if k.p 9 1 = 0 then ((e.1 - first) * 16 % Int.ofNat (k.p 24 4)).fdiv 16 else e.1 - e.2

/-- The counts of a row's bins 0 to NX + 1. -/
def Call.shmooBins (k : Call) (first : Int) (es : List (Int × Int)) : List Nat :=
  let nx := k.p 12 2
  let bs := es.map fun e => histBin nx (k.p 10 1) (k.shmooX first e - k.pInt 16 8)
  (List.range (nx + 2)).map fun b => bs.count b

/-- The longest run of empty bins and the first of them, going round where `round`; bins count from 1. -/
def emptyRun (round : Bool) (cs : List Nat) : Nat × Nat :=
  (List.range cs.length).foldl (fun best i =>
    let n := ((cs.drop i ++ (if round then cs.take i else [])).takeWhile (· = 0)).length
    if best.1 < n then (n, i + 1) else best) (0, 0)

/-- SHMOO's Lake words and result. -/
def Call.shmoo (k : Call) (rows : List ShmooRow) : List Word × List Byte :=
  let first := ((rows.flatMap fun r => r.edges ++ (if r.disturbed then r.edges2 else [])).head?.map (·.1)).getD 0
  let counted := (List.range (k.p 14 2)).map fun y => ((rows[y]?).bind ShmooRow.counted).getD []
  (counted.flatMap fun es => (k.shmooBins first es).map fun c => BitVec.ofNat 32 (min c (2 ^ 32 - 1)),
   counted.flatMap fun es =>
     let run := emptyRun (decide (k.p 9 1 = 0)) (((k.shmooBins first es).drop 1).take (k.p 12 2))
     bytesBE 4 es.length ++ bytesBE 2 run.1 ++ bytesBE 2 run.2)

/-- Whether JITTER's collection has found NFFT values in one segment (R182): none while it goes on, false when
it has been split once more after four restarts (DESIGN CHOICE, log 107). -/
def Call.collected (k : Call) (segs : List (List Int)) : Option Bool :=
  if (segs.take 5).any fun s => decide (k.p 12 4 ≤ s.length) then some true
  else if segs.length ≥ 5 then some false else none

/-- JITTER's result: the fit's RJ and DJ, TJ = DJ + 2 Q RJ, and at most eight lines. -/
def Call.jitterBytes (k : Call) (rj dj : Rat) (lines : List (Rat × Rat)) : List Byte :=
  let f (q : Rat) : List Byte := bytesBE 8 (f64OfRat q).toNat
  let ls := lines.take 8
  f rj ++ f dj ++ f (dj + 2 * Config.gaussQ (k.pInt 9 1).natAbs * rj) ++ bytesBE 1 ls.length ++ List.replicate 7 0#8 ++
  ls.flatMap fun l => f l.1 ++ f l.2

/-- The counts of JITTER's histogram, in its channel's regular bins of 1/16 tk. -/
def State.jitterBins (s : State) (n : Ch) (ties : List Int) : List Word :=
  let nb := s.act n F.CH_HG_NB_NB
  let bs := ties.map fun v => histBin nb 0 (v - s.hgLo n)
  (List.range (nb + 2)).map fun b => BitVec.ofNat 32 (min (bs.count b) (2 ^ 32 - 1))

/-- Whether a logical bank lies in no histogram (R185). -/
def State.bankIdle (s : State) (b : Nat) : Bool :=
  let g : HgGeom := { src := 0, base := b, nbank := 1, bins := 0 }
  allCh.all fun m =>
    !g.overlaps (hgGeom (s.w (chBase m + R.CH_HG_CTL)) (s.w (chBase m + R.CH_HG_NB))) &&
    !g.overlaps (hgGeom (s.w (chBase m + 0x800 + R.CH_HG_CTL)) (s.w (chBase m + 0x800 + R.CH_HG_NB)))

/-- The resources that SELFTEST finds idle, by kind and number: Lake banks, spare banks as 128 to 135, Vat
units of 64 KiB, spare front ends (R185). -/
def State.testable (s : State) : List (Nat × Nat) :=
  let inVp (u : Nat) : Bool := (List.range 32).any fun p =>
    let vp := s.w (R.TRG_VP + 4 * p)
    vpHolds vp && decide (F.TRG_VP_BASE.of vp ≤ u) && decide (u < F.TRG_VP_BASE.of vp + F.TRG_VP_SIZE.of vp)
  ((List.range 128).filter s.bankIdle).map (fun b => (0, b)) ++
  (allSpares.filter fun p => !s.spValid p.val).map (fun p => (0, 128 + p.val)) ++
  ((List.range 768).filter fun u => !inVp u).map (fun u => (1, u)) ++
  (allSpares.filter fun p => s.spState p == 0 && !s.feFused (spareFe p) && !(s.fe (spareFe p)).running).map fun p => (2, p.val)

/-- The verdict on a resource: one that became busy is SKIPPED. -/
def selfVerdict (failed taken : List (Nat × Nat)) (r : Nat × Nat) : Nat :=
  if taken.contains r then 2 else if failed.contains r then 1 else 0

/-- The instant before which a call's steps cannot all have run: a settling of 2 microseconds and DWELL each. -/
def Call.stepsEnd (k : Call) : Nat :=
  match k.id with
  | 1 => k.startAt + 36 * (2 + k.p 30 2) * tkUs
  | 2 => k.startAt + k.p 14 2 * (2 + k.p 36 2) * tkUs
  | _ => k.startAt

/-- The words a SHMOO or JITTER leaves in its channel's banks (R181, R182). -/
def State.svcBins (n : Ch) (ws : List Word) (s : State) : State :=
  let lo := s.act n F.CH_HG_CTL_BASE * 16384
  let room := 16384 * (s.act n F.CH_HG_CTL_NBM1 + 1)
  s.forAll (ws.take room).zipIdx fun p s => s.putLake (lo + p.2) p.1

/-- A running call finishes by itself with what it has seen. LTADEV runs until it is stopped, and a CALSTORE
store ends with its flash store. -/
def State.svcDone (h : Nat) (seen : SvcSeen) (failed taken : List (Nat × Nat)) (s : State) : State :=
  match s.call? h with
  | none => s
  | some k =>
    if k.st != .running then s
    else match k.id, seen with
      | 1, .level probes => (s.reach k.stepsEnd).finishCall h .done (k.claimChs.flatMap (levelRow probes))
      | 2, .shmoo rows =>
        let r := k.shmoo rows
        ((s.reach k.stepsEnd).forAll k.claimChs fun n s => s.svcBins n r.1).finishCall h .done r.2
      | 3, .jitter segs ties rj dj lines =>
        match k.collected segs with
        | some false => s.finishCall h (.failed 4) []
        | some true => (s.forAll k.claimChs fun n s => s.svcBins n (s.jitterBins n ties)).finishCall h .done (k.jitterBytes rj dj lines)
        | none => s
      | 5, .loaded => if k.p 8 1 = 0 then s else s.calLoadCall h (k.p 8 1 - 1)
      | 6, .selftest =>
        let rs := s.testable.map fun r => (r, selfVerdict failed taken r)
        let s := if rs.any fun x => x.1.1 == 0 && x.2 == 1 then s.raise 0 F.DEV_LK_STAT_UE else s
        s.finishCall h .done (rs.flatMap fun x => bytesBE 1 x.1.1 ++ bytesBE 1 x.2 ++ bytesBE 2 x.1.2)
      | _, _ => s

/-- MAXTIME expires for a running call (R178). -/
def State.svcMaxTime (h : Nat) (s : State) : State :=
  match s.call? h with
  | none => s
  | some k =>
    match k.limit with
    | some ms => if k.st = .running then (s.reach (k.startAt + ms * tkMs)).finishCall h .aborted [] else s
    | none => s

/-! ### Service images (R187, R188) -/

/-- Indigo runs the image of a slot: 1 A, 2 B, 0 the boot responder. -/
def State.runSlot (slot : Nat) (s : State) : State :=
  let ver := if slot = 0 then 0 else field (s.flashRead (imgSlot (slot - 1)) 16) 4 4
  ((s.setF 0 F.DEV_SVC_STAT_SLOT slot).setF 0 F.DEV_SVC_VER_VERSION ver).setF 0 F.DEV_SVC_STAT_NOIMG (if slot = 0 then 1 else 0)

/-- The valid slot with the higher sequence number. -/
def State.bootSlot (s : State) : Nat :=
  match s.imgValid 0, s.imgValid 1 with
  | true, true => if s.slotSeq (imgSlot 0) < s.slotSeq (imgSlot 1) then 2 else 1
  | true, false => 1
  | false, true => 2
  | false, false => 0

/-- The slot that is not in use. -/
def State.otherSlot (s : State) : Nat := if s.f 0 F.DEV_SVC_STAT_SLOT = 1 then 2 else 1

/-- A new image goes into the slot that is not in use, and the outcome of its check stands in OD 0x7202 (R188).
False where the write is BUSY. -/
def State.writeImage (img : List Byte) (s : State) : Bool × State :=
  if s.indigo.live.isSome then (false, s)
  else
    let c := imageCheck s.fuses img
    let s := s.modIndigo fun x => { x with imgOutcome := c, imgReady := false }
    (true, s.queueStore { kind := .image, base := imgSlot (s.otherSlot - 1), header := img.take 256,
                          body := (img.drop 256).take (slotSize 0x400000 - 256) })

/-! ### The end of a flash store -/

/-- The store in progress ends; the next one starts. -/
def State.storeDone (ok : Bool) (s : State) : State :=
  match s.stores with
  | [] => s
  | x :: rest =>
    let ok := ok && s.boot.flashOk
    let s := if ok then s.flashWrite (x.base + 256) x.body else s.raise 0 F.DEV_FLT_FLASH_FAIL
    let s := match x.kind with
      | .config =>
        if ok then { s with storeOutcome := 0 } else ({ s with storeOutcome := 4 } : State).raise 0 F.DEV_CFG_STAT_STORE_FAIL
      | .image =>
        if ok then s.modIndigo fun i => { i with imgReady := decide (i.imgOutcome = 0) } else s.raise 0 F.DEV_CFG_STAT_STORE_FAIL
      | .cal h =>
        match s.call? h with
        | some k => if k.st != CallState.running then s
          else if ok then s.finishCall h .done (calResult (if x.base = calSlot 0 then 1 else 2) (field x.header 8 4))
          else s.finishCall h (.failed 5) []
        | none => s
    ({ s with stores := rest } : State).beginStore

/-! ### The live update (R189) -/

/-- DRAIN is written: false where it is out of range or no checked image waits. -/
def State.liveUpdate (drain : Nat) (s : State) : Bool × State :=
  if drain > 10000 || !s.indigo.imgReady || s.indigo.live.isSome then (false, s)
  else
    let u : LiveUpdate := { target := s.otherSlot, drain := drain, drainBy := s.now + drain * tkMs, swapped := [], back := false }
    (true, (s.modIndigo fun x => { x with live := some u, imgReady := false, prevSlot := s.f 0 F.DEV_SVC_STAT_SLOT }).swapFree)

/-- Running calls end ABORTED. -/
def State.abortRunning (s : State) : State :=
  s.forAll ((s.indigo.calls.filter fun (k : Call) => k.st == .running).map (·.handle)) fun h s => s.finishCall h .aborted []

/-- DRAIN expires. -/
def State.liveDrain (s : State) : State :=
  match s.indigo.live with
  | none => s
  | some u => if u.swapped.length ≥ 6 && decide (u.drainBy ≤ s.now) then s else (s.reach u.drainBy).abortRunning.swapFree

/-- Core 6, then core 7, runs the new image; after core 7 queued calls start under it. -/
def State.liveSwap (core : Fin 8) (s : State) : State :=
  match s.indigo.live with
  | none => s
  | some u =>
    if core.val = 6 && u.swapped.length = 6 then
      (s.reach (u.drainBy + 20 * tkMs)).modIndigo fun x => { x with live := some { u with swapped := u.swapped ++ [core] } }
    else if core.val = 7 && u.swapped.length = 7 then
      let s := (s.reach (u.drainBy + 40 * tkMs)).runSlot u.target
      s.modIndigo fun x => { x with live := if u.back then none else some { u with swapped := u.swapped ++ [core] } }
    else s

/-- The new image's start check ends, or a core did not start: a failure goes back to the previous
slot by the same sequence. -/
def State.liveCheck (ok : Bool) (s : State) : State :=
  match s.indigo.live with
  | none => s
  | some u =>
    if u.back then s
    else if ok then (if u.swapped.length = 8 then s.modIndigo fun x => { x with live := none } else s)
    else
      let u' : LiveUpdate := { target := s.indigo.prevSlot, drain := u.drain, drainBy := s.now + u.drain * tkMs, swapped := [], back := true }
      ((s.modIndigo fun x => { x with live := some u' }).swapFree).raise 0 F.DEV_SVC_STAT_REVERT

/-! ### The watchdog (R314) -/

/-- A restart of one core, or of all of Indigo where none is named: IND_WDOG, and on the third within
an hour, under AUTO_ISLOT, all of Indigo goes over to the other valid slot. -/
def State.restart (core : Option (Fin 8)) (s : State) : State :=
  let times := s.now :: s.indigo.restarts.filter fun t => decide (s.now < t + 3600 * tkSec)
  let third := s.fb 0 F.DEV_REP_CTL_AUTO_ISLOT && decide (times.length ≥ 3) && s.imageRuns
  let all := core.isNone || third
  let times' := if third then [] else times
  let which := some (if all then none else core)
  let s := (s.raise 0 F.DEV_FLT_IND_WDOG).modIndigo fun x =>
    { x with restarts := times', restarting := which, serving := x.serving && !all }
  let s := if all then (s.abortRunning).modIndigo fun x => { x with live := none } else s
  if third then
    let o := s.otherSlot
    if s.imgValid (o - 1) then (s.runSlot o).raise 0 F.DEV_FLT_IND_SLOT else s.runSlot 0
  else s

/-- Core 6 or 7 misses ten heartbeats: the other carries both duties, unless it is restarting too. -/
def State.heartbeat (core : Fin 8) (s : State) : State :=
  if core.val < 6 then s
  else match s.indigo.restarting with
    | none => s.restart (some core)
    | some (some c) => if c = core then s else s.restart none
    | some none => s

/-- A core has not stopped within 10 ms of its call's MAXTIME: all of Indigo restarts. -/
def State.stopTimeout (core : Fin 8) (s : State) : State :=
  if core.val < 6 && s.indigo.restarting != some none then s.restart none else s

/-- A restart ends: a core after 20 ms, all of Indigo within 140 ms. -/
def State.restartDone (s : State) : State :=
  match s.indigo.restarting with
  | none => s
  | some r =>
    let at_ := s.indigo.restarts.headD s.now
    let s := if r.isSome then s.reach (at_ + 20 * tkMs) else s
    s.modIndigo fun x => { x with restarting := none, serving := true }

end Sys2Proof.Machine
end

