-- ==== Sys2Proof/Machine/StartupOps.lean ====
section
/-!
DEFINITION. Start-up, resets and in-service repair (spec/14): the rows of R299 up to the commit,
READY, the two resets, the repair policy, SRAM repair, thermal readings and the wear gauges.
-/

namespace Sys2Proof.Machine

/-! ### Rows of R299 -/

/-- Supplies valid and PORST_N released: start-up begins and the straps are sampled (R321, R243). -/
def State.suppliesValid (straps : BitVec 6) (s : State) : State :=
  if s.boot.released then s
  else ({ s with boot := { s.boot with released := true, straps := straps } } : State).setF 0 F.NET_ID_STRAP straps.toNat

/-- The node ID (R243). -/
def nodeIdOf (base : BitVec 16) (straps : BitVec 6) : Nat :=
  let id := base.toNat / 64 * 64 + straps.toNat
  if id ≥ 0xFF00 then 0xFEC0 + straps.toNat else id

/-- The fuses as PRT_FUSE0 to PRT_FUSE10 show them (R295). -/
def Fuses.words (f : Fuses) : List Word :=
  [BitVec.ofNat 32 (f.etype.toNat * 65536 + f.nodeBase.toNat),
   BitVec.ofNat 32 (f.weMask.toNat * 65536 + (if f.bootLock then 32768 else 0) + f.grade.toNat), f.ident] ++
  (List.range 8).map fun i => BitVec.ofNat 32 (f.hash.toNat / 2 ^ (32 * (7 - i)))

/-- The registers that show fuses and straps (R295, R243). -/
def State.showFuses (s : State) : State :=
  let f := s.fuses
  let s := s.forAll f.words.zipIdx fun p s => s.setW (R.PRT_FUSE0 + 4 * p.2) p.1
  (((((s.setF 0 F.DEV_ID_REV f.rev.toNat).setF 0 F.NET_ID_ETYPE f.etype.toNat).setF 0 F.NET_ID_STRAP s.boot.straps.toNat).setF 0
    F.NET_NODE_NODE_ID (nodeIdOf f.nodeBase s.boot.straps)).setF 0 F.NET_MAC_H_MAC (f.mac.toNat / 2 ^ 32)).setW R.NET_MAC_L
    (BitVec.ofNat 32 f.mac.toNat)

/-- 0.2 ms: the fuses load, voted fields take their reset values, BOOT_LOCK sets FN_LOCK (R294). -/
def State.fuseLoad (s : State) : State :=
  if !s.boot.released || s.boot.fused then s
  else
    let s := ({ s with boot := { s.boot with fused := true }, tv := [] } : State).showFuses
    if s.fuses.bootLock then s.setTv R.PRT_LOCK (F.PRT_LOCK_FN_FUSE.into (F.PRT_LOCK_FN_LOCK.into 0#32 1) 1) else s

/-- 1.5 ms: the LCP is served and the flash is asked for its identification (R285, R303); the crystal
runs if it has started. -/
def State.lcpEnable (ident : Bool) (xtal : Bool) (s : State) : State :=
  if !s.boot.released || s.boot.lcp then s
  else
    let s := { s with boot := { s.boot with lcp := true, flashOk := ident } }
    let s := if xtal then s.setF 0 F.TB_STAT_XTAL_OK 1 else s
    if ident then s else (s.setF 0 F.DEV_CFG_STAT_NOFLASH 1).raise 0 F.DEV_FLT_FLASH_FAIL

/-- Spare rows used by macro, from the repaired rows. -/
def rowsByMacro (rows : List (Nat × Nat)) : Sparse Nat :=
  rows.foldl (fun m r => sparsePut (fun _ => 0) m r.1 (sparseGet (fun _ => 0) m r.1 + 1)) []

/-- DEV_WEAR_EQS and DEV_WEAR_USED show the gauge (R315). -/
def State.showWear (s : State) : State :=
  let sec := s.eqs / 2 ^ 32
  let s := s.setPair R.DEV_WEAR_EQS_H sec
  (s.setW R.DEV_WEAR_USED (BitVec.ofNat 32 (min (2 ^ 32 - 1) (sec * 1000000 / 946728000)))).lifeTest

/-- DEV_REP_STAT.ROWS and the spare rows used in percent of all, whose number of macros the spec does
not give. -/
def State.rowCounts (s : State) : State :=
  let used := (s.rowsUsed.map (·.2)).sum
  (s.setF 0 F.DEV_REP_STAT_ROWS (min 65535 s.wear.rows.length)).setF 0 F.DEV_SRAM_STAT_SPUSED
    (if Config.sramMacros = 0 then 0 else min 100 (used * 100 / (8 * Config.sramMacros)))

/-- 2.0 ms: the repair map, the Lake spare map and the gauges come from the wear log (R299, R308). -/
def State.wearLoad (s : State) : State :=
  if !s.boot.released then s
  else
    let s := { s with eqs := s.wear.eqs, erases := s.wear.erases, rowsUsed := rowsByMacro s.wear.rows }
    let s := s.forAll s.wear.lakeMap fun m s =>
      let w := F.DEV_LK_SPMAP_BANK.into (F.DEV_LK_SPMAP_VALID.into 0#32 1) m.2
      (s.setTv (spmapA m.1) w).setF 0 (F.DEV_LK_SPMAP_DONE.at 4 m.1) 1
    s.spCount.rowCounts.showWear

/-- 4 ms: forwarding is live and BYPASS_N is driven high (R242). -/
def State.ethStart (s : State) : State :=
  if s.boot.released && !s.boot.eth then ({ s with boot := { s.boot with eth := true } } : State).setF 0 F.NET_STAT_BYPASS 0 else s

/-- 8 ms: the boot responder serves the dictionary (R247). -/
def State.responderStart (s : State) : State :=
  if s.boot.released && !s.boot.responder then
    ({ s with boot := { s.boot with responder := true } } : State).modIndigo fun x => { x with serving := true }
  else s

/-- 10 ms: both configuration slots are classed and one is chosen (R305). -/
def State.cfgRead (s : State) : State :=
  if !s.boot.lcp || s.boot.choice.isSome then s
  else
    let c := [(s.cfgClass 0).1, (s.cfgClass 1).1]
    let s' := if c.contains .torn then s.raise 0 F.DEV_CFG_STAT_TORN else s
    let s' := if c.contains .foreign then s'.raise 0 F.DEV_CFG_STAT_FOREIGN else s'
    let ch := match s.cfgLater with
      | some 0 => CfgChoice.slotA
      | some _ => .slotB
      | none => .defaults
    { s' with boot := { s'.boot with choice := some ch } }

/-- 25 ms with no usable source (R301). -/
def State.noSource (s : State) : State :=
  if s.clk.running || s.refQual || s.xtalOk || !s.boot.released then s
  else ({ s with boot := { s.boot with faulted := true } } : State).raise 0 F.DEV_FLT_NOSRC

/-- The service image is loaded and checked (R187). -/
def State.imageBoot (s : State) : State :=
  if s.boot.responder && !s.imageRuns then s.runSlot s.bootSlot else s

/-- OD 0x1005: 0 starting, 1 READY, 2 faulted (R276, R301, R318). -/
def State.odState (s : State) : Nat :=
  if s.boot.faulted || (s.tbActive == actHoldover && !s.refQual && !s.xtalOk) then 2 else if s.ready then 1 else 0

/-- READY (R300): thresholds written since release apply as one strobe, gates open, and the functions
that wait for it are admitted. -/
def State.becomeReady (s : State) : State :=
  if s.ready || !s.cfgDone || !s.fb 0 F.TB_STAT_LOCKED || !s.fb 0 F.CAL_STAT_BOOT_DONE then s
  else
    let s := s.setF 0 F.DEV_STAT_READY 1
    let written := allCh.filter fun n => (s.chan n).tdacWritten
    let t := s.modClock
    let s := if written.isEmpty then s else ({ s with lastStrobe := some t }.countSat 0 F.DEV_TDAC_SCNT_SCNT 1).reach t
    let s := s.forAll written fun n s => (s.modChan n fun c => { c with strobes := [] }).applyTdac n t none
    let s := s.forAll allCh fun n s => s.startGating n s.now
    s.forAll (List.finRange 4) fun d s => s.startDom d

/-- The calibration slots are classed and one is loaded (R214). -/
def State.calChoose (s : State) : State :=
  if !s.cfgDone || s.boot.calChosen then s
  else
    let a := s.calClass 0
    let b := s.calClass 1
    let pick := s.calLater
    let s' := { s with boot := { s.boot with calChosen := true } }
    let s' := if a.1 = .torn || b.1 = .torn then s'.raise 0 F.CAL_STAT_CAL_SLOT_TORN else s'
    let s' := if a.1 = .foreign || b.1 = .foreign then s'.raise 0 F.CAL_STAT_ID_MISMATCH else s'
    match pick with
    | some k =>
      ((s'.loadCal (if k = 0 then a.2 else b.2)).setF 0 F.CAL_STAT_SLOT (k + 1)).setF 0 F.CAL_SEQ_VALUE (s.slotSeq (calSlot k))
    | none => ((s'.raise 0 F.CAL_STAT_NOSNAP).setF 0 F.CAL_STAT_SLOT 0).setF 0 F.CAL_SEQ_VALUE 0

/-! ### Resets (R308, R309, R322) -/

/-- A power-on reset: what survives is the flash and the wear log in it, the fuses, and what stands
outside the device. Undefined memory contents are drawn anew. -/
def State.powerOnReset (s : State) : State :=
  { State.reset with pending := s.pending, free := s.free, boots := s.boots + 1, fuses := s.fuses, flash := s.flash,
                     wear := s.wear, stlIn := s.stlIn }

/-- A rail leaves its range (R322). -/
def State.railExcursion (ns : Nat) (s : State) : State := if ns < 2000 then s else s.powerOnReset

/-- Counters and other registers that a soft reset keeps (R308), by address. -/
def keptReg (a : Nat) : Bool :=
  let l := locate a
  match l.space with
  | .chan => (decide (0x100 ≤ l.off) && decide (l.off < 0x188)) || (decide (0x190 ≤ l.off) && decide (l.off < 0x1C0))
  | .spare => decide (0x1B0 ≤ l.off) && decide (l.off < 0x1C0)
  | .link => (decide (0x80 ≤ l.off) && decide (l.off < 0x100)) || (decide (0x100 ≤ l.off) && decide (l.off < 0x138))
  | .dev =>
    (decide (0x1000 ≤ a) && decide (a < 0x2000)) || (decide (0x204 ≤ a) && decide (a < 0x214)) || a == R.DEV_REP_STAT ||
    (decide (0xE08 ≤ a) && decide (a < 0xE20)) || (decide (0xE40 ≤ a) && decide (a < 0xE54)) ||
    (decide (0x2818 ≤ a) && decide (a < 0x2828)) || a == R.CAL_EVT_H || a == R.CAL_EVT_L ||
    (decide (0x5040 ≤ a) && decide (a < 0x5078)) || a == R.PRT_TVFIX || (decide (0x6040 ≤ a) && decide (a < 0x606C)) || a == R.DEV_ID
  | _ => false

/-- Triplicated registers that a soft reset keeps: the timebase source, FN_LOCK, the Lake spare map. -/
def keptTv (a : Nat) : Bool := a == R.TB_SRC || a == R.PRT_LOCK || (decide (R.DEV_LK_SPMAP ≤ a) && decide (a < R.DEV_LK_SPMAP + 32))

/-- The gauges go to the wear log (R315). -/
def State.wearWrite (s : State) : State := { s with wear := { s.wear with eqs := s.eqs, erases := s.erases } }

/-- A soft reset (R308, R309). -/
def State.softReset (s : State) : State :=
  let s := s.wearWrite
  let prt := s.w R.PRT_STAT
  let keepPrt := F.PRT_STAT_WRONG.into (F.PRT_STAT_UNLK_DIS.into 0#32 (F.PRT_STAT_UNLK_DIS.of prt)) (F.PRT_STAT_WRONG.of prt)
  let boot := { s.boot with eth := false, responder := false, choice := none }
  let fes := s.fes.map fun (x : FeSt) => { FeSt.reset with lastA := x.lastA, lastB := x.lastB, lastT := x.lastT }
  let chans := s.chans.map fun (c : Chan) => { Chan.reset with devN := c.devN }
  let r := { State.reset with
    chans := chans, pending := s.pending, free := s.free, boots := s.boots, fuses := s.fuses, flash := s.flash, wear := s.wear, stlIn := s.stlIn,
    clk := s.clk, tb := s.tb, regs := s.regs.filter (fun e => keptReg e.1), tv := s.tv.filter (fun e => keptTv e.1), cal := s.cal,
    boot := boot, stores := s.stores, storeOutcome := s.storeOutcome, eqs := s.eqs, erases := s.erases, temps := s.temps, hotMs := s.hotMs,
    rowsUsed := s.rowsUsed, repairing := s.repairing, repairFix := s.repairFix, vatExh := s.vatExh, fes := fes,
    vat := s.vat, vatCE := s.vatCE, vatUE := s.vatUE,
    lake := s.lake, lakeZero := s.lakeZero, lakeCE := s.lakeCE, lakeUE := s.lakeUE, mapLogs := s.mapLogs, mapLost := s.mapLost,
    lcp := s.lcp }
  let r := (r.setW R.PRT_STAT keepPrt).setF 0 F.CAL_STAT_BOOT_DONE (s.f 0 F.CAL_STAT_BOOT_DONE)
  let r := r.setB 0 F.DEV_CFG_STAT_STORE_BUSY (!s.stores.isEmpty)
  let r := r.setF 0 F.DEV_CFG_STAT_NOFLASH (s.f 0 F.DEV_CFG_STAT_NOFLASH)
  let r := r.forAll allSpares fun (p : Spare) r => r.setF 0 (F.DEV_LK_SPMAP_DONE.at 4 p.val) (s.f 0 (F.DEV_LK_SPMAP_DONE.at 4 p.val))
  (if s.boot.fused then r.showFuses else r).spCount

/-! ### The repair policy (R310, R311) -/

/-- A spare that has failed its calibration serves no repair. -/
def State.spareBad (s : State) (p : Spare) : Bool :=
  s.fb (spBase p) F.CH_CAL_STAT_FAIL_A || s.fb (spBase p) F.CH_CAL_STAT_FAIL_B

/-- The policy asks for the stand-in of channel 16p + src, by its own guarded write of SP_ROUTE. -/
def State.policyRequest (p : Spare) (src : Fin 16) (s : State) : State :=
  let ask := if s.spareBad p then none else s.repairRequest p src
  match ask with
  | some s' =>
    (s'.setTv (spBase p + R.SP_ROUTE) (F.SP_ROUTE_SRC.into (F.SP_ROUTE_REQ.into 0#32 1) src.val)).countSat 0 F.DEV_REP_STAT_SUBSTN 1
  | none => s.raise 0 F.DEV_FLT_NOSPARE

/-- Of two channels that fail in the same millisecond the spare serves the lower-numbered one: the
handover that the policy began for a higher one gives way (R311). -/
def State.firstInMs (s : State) (p : Spare) (n : Ch) : Bool :=
  let m := s.spCh p
  s.spState p == 1 && s.spOwner p == 1 && decide (n.val < m.val) && decide (s.now < (s.spare p).startAt + tkMs) &&
  (s.fb (chBase m) F.CH_CAL_STAT_FAIL_A || s.fb (chBase m) F.CH_CAL_STAT_FAIL_B) && !s.spareBad p && !s.fusedOff n

/-- A handover that has not moved the stream is given up for another, which DEV_REP_STAT.SUBSTN counts in
its place. -/
def State.dropHandover (p : Spare) (s : State) : State :=
  let s := s.setSpare p { s.spare p with stage := 0, next := none }
  let s := ((s.setF (spBase p) F.SP_STAT_STATE 0).setF (spBase p) F.SP_STAT_OWNER 0).spareEnds (s.spCh p)
  s.setF 0 F.DEV_REP_STAT_SUBSTN (s.f 0 F.DEV_REP_STAT_SUBSTN - 1)

/-- A front end set FAIL_A or FAIL_B (R311). -/
def State.autoSpare (f : FrontEnd) (s : State) : State :=
  if !s.fb 0 F.DEV_REP_CTL_AUTO_SPARE then s
  else if f.val ≥ 128 then s.raise 0 F.DEV_FLT_SPARE_BAD
  else
    let n := chOf f.val
    let p := Ch.spareOf n
    let src : Fin 16 := ⟨n.val % 16, Nat.mod_lt _ (by decide)⟩
    let serving := s.spState p != 0 && s.spOwner p == 1 && s.spCh p == n
    if serving || (s.spare p).gaveUp.contains src then s
    else if s.firstInMs p n then ((s.dropHandover p).policyRequest p src).raise 0 F.DEV_FLT_NOSPARE
    else s.policyRequest p src

/-- A handover's check failed: the policy asks once more 10 ms later, and then no more (R311). -/
def State.checkFailed (p : Spare) (s : State) : State :=
  let repair := s.spState p == 1 && s.spOwner p == 1
  let src : Fin 16 := ⟨(s.spCh p).val % 16, Nat.mod_lt _ (by decide)⟩
  let s := s.handoverFailed p
  if !repair || !s.fb 0 F.DEV_REP_CTL_AUTO_SPARE then s
  else
    let x := s.spare p
    if x.retried then
      (s.setSpare p { x with retried := false, retryAt := none, gaveUp := src :: x.gaveUp }).raise 0 F.DEV_FLT_FE_FAULT
    else s.setSpare p { x with retryAt := some (s.now + 10 * tkMs) }

/-- Ten milliseconds after a failed handover (R311). -/
def State.repairRetry (p : Spare) (s : State) : State :=
  match (s.spare p).retryAt with
  | none => s
  | some t =>
    let src : Fin 16 := ⟨s.f (spBase p) F.SP_STAT_CUR % 16, Nat.mod_lt _ (by decide)⟩
    let s := s.reach t
    (s.setSpare p { s.spare p with retryAt := none, retried := true }).policyRequest p src

/-! ### SRAM (R312, R313) -/

/-- The scrub found an error in a row on two successive passes, in the words `ce` a single bit and in the
words `ue` more, by word address in their store. A word that errs again on the second pass errs at every
read until its row is replaced or the word written (R163, R175; log 42). -/
def State.scrubHit (site : SramSite) (macroNo row : Nat) (ce ue : List Nat) (s : State) : State :=
  let s := s.count R.DEV_SRAM_CE_H ce.length |>.count R.DEV_SRAM_UE_H ue.length
  let s := if ce.isEmpty then s else s.raise 0 F.DEV_SRAM_STAT_CE
  let s := if ue.isEmpty then s else s.raise 0 F.DEV_SRAM_STAT_UE
  let s := match site with
    | .vat _ => { s with vatUE := (s.vatUE ++ ue).eraseDups, vatCE := (s.vatCE ++ ce).eraseDups }
    | .lake _ => { s with lakeUE := (s.lakeUE ++ ue).eraseDups, lakeCE := (s.lakeCE ++ ce).eraseDups }
    | .other => s
  if !s.fb 0 F.DEV_REP_CTL_AUTO_ROW then s
  else if sparseGet (fun _ => 0) s.rowsUsed macroNo < 8 then
    (if s.repairing.isNone then { s with repairing := some (macroNo, row), repairFix := (site, ce) } else s)
  else
    let s := (s.raise 0 F.DEV_SRAM_STAT_EXH).raise 0 F.DEV_FLT_SRAM_EXH
    match site with
    | .lake b =>
      let free := allSpares.find? fun (p : Spare) => !s.spValid p.val
      let mapped := allSpares.any fun (p : Spare) => s.spValid p.val && s.spBank p.val == b
      match free with
      | some p =>
        if s.fb 0 F.DEV_REP_CTL_AUTO_LAKE && !mapped then
          (s.writeSpmap p (F.DEV_LK_SPMAP_BANK.into (F.DEV_LK_SPMAP_VALID.into 0#32 1) b)).countSat 0 F.DEV_REP_STAT_LAKEMAP 1
        else s
      | none => s
    | .vat u => { s with vatExh := if s.vatExh.contains u then s.vatExh else s.vatExh ++ [u] }
    | .other => s

/-- The copy into a spare row holds corrected values; words that were uncorrectable keep their state. -/
def State.rowFixed (s : State) : State :=
  let bad := fun (l : List Nat) => l.filter fun a => !s.repairFix.2.contains a
  match s.repairFix.1 with
  | .vat _ => { s with vatCE := bad s.vatCE, repairFix := (.other, []) }
  | .lake _ => { s with lakeCE := bad s.lakeCE, repairFix := (.other, []) }
  | .other => { s with repairFix := (.other, []) }

/-- The copy into a spare row ends: it is used, counted and logged (R312). -/
def State.rowRepaired (s : State) : State :=
  match s.repairing with
  | none => s
  | some (m, r) =>
    let s := s.rowFixed
    let s := { s with repairing := none, rowsUsed := sparsePut (fun _ => 0) s.rowsUsed m (sparseGet (fun _ => 0) s.rowsUsed m + 1),
                      wear := { s.wear with rows := s.wear.rows ++ [(m, r)] } }
    s.rowCounts

/-! ### Temperature and wear (R315-R318) -/

/-- Readings of the sensors: one outside -40 to 150 degC is replaced by the hottest core sensor, which
are the last four (R318). -/
def goodTj (t : Int) : Bool := decide (-4000 ≤ t) && decide (t ≤ 15000)

def State.thermal (raw : List Int) (s : State) : State :=
  let raw := raw.take 12
  let core := (raw.drop 8).filter goodTj
  let sub := core.foldl max (core.headD ((s.temps.headD 0)))
  let temps := raw.map fun t => if goodTj t then t else sub
  let s := if raw.all goodTj then s else s.raise 0 F.DEV_FLT_SENS_FAIL
  let first := s.temps.isEmpty
  let hot := temps.foldl max (temps.headD 0)
  let most := if first then hot else max hot (signExt 16 (s.f 0 F.DEV_WEAR_TJ_TJMAX))
  let s := (s.setF 0 F.DEV_WEAR_TJ_TJNOW (satSigned 16 hot)).setF 0 F.DEV_WEAR_TJ_TJMAX (satSigned 16 most)
  let ms := if temps.any (fun t => decide (t > 10500)) then s.hotMs + 1 else 0
  let s := if ms ≥ 1000 then s.raise 0 F.DEV_FLT_OVERTEMP else s
  ({ s with hotMs := ms } : State).calTemps temps

/-- e^x for x ≥ 0 in fixed point with 64 fractional bits, by its series. -/
def expFix (x : Nat) : Nat :=
  ((List.range 80).foldl (fun (a : Nat × Nat) k => (a.1 + a.2, a.2 * x / 2 ^ 64 / (k + 1))) (0, 2 ^ 64)).1

/-- The Arrhenius weight w of R315 in 2^-32 s, at a temperature in 0.01 degC. -/
def wearWeight (t : Int) : Nat :=
  let x : Rat := 81235 / 10 * (100 / 36815 - 100 / ((t : Rat) + 27315))
  let m : Nat := ((if x < 0 then -x else x) * 2 ^ 64).floor.toNat
  if x < 0 then 2 ^ 96 / expFix m else expFix m / 2 ^ 32

/-- One second of wear at the hottest sensor (R315, R316). -/
def State.wearUpdate (t : Int) (s : State) : State :=
  let t := if goodTj t then t else s.temps.foldl max (s.temps.headD 0)
  ({ s with eqs := s.eqs + wearWeight t } : State).showWear

end Sys2Proof.Machine
end

