-- ==== Sys2Proof/Machine/GateOps.lean ====
section
/-!
DEFINITION. The gate commands of CH_CMD (R92-R97, R108, R112) and the gate's own close.
-/

namespace Sys2Proof.Machine

/-- The open gate closes at its own boundary `t`, the instant that R289 compares APPLY_NOW with. -/
def State.ownBoundary (n : Ch) (t : Nat) (s : State) : State :=
  (s.closeGateAt n t false).modChan n fun c => { c with ownClose := some t }

/-- The open gate reaches its length, or in external mode the limit (R92, R97). The limit closes the
gate early, so it carries CUT as APPLY_NOW's close does. -/
def State.gateDue (n : Ch) (s : State) : State :=
  match (s.chan n).openGate? with
  | none => s
  | some g =>
    let t := g.closeAt.getD s.now
    if g.cfg.gmode = 2 then (s.reach t).closeGateAt n t true else (s.reach t).ownBoundary n t

/-- START at instant `t` (R92, R96): opens a gate in single and external mode where none is open. -/
def State.gateStart (n : Ch) (t : Nat) (s : State) : State :=
  if s.gatesRun n && (s.chan n).openGate?.isNone && decide (s.act n F.CH_FUNC_GMODE % 3 ≠ 0) then
    s.openGate n t
  else s

/-- STOP at instant `t` (R92, R96): closes an open external gate. -/
def State.gateStop (n : Ch) (t : Nat) (s : State) : State :=
  match (s.chan n).openGate? with
  | some g => if g.cfg.gmode = 2 then s.closeGateAt n t false else s
  | none => s

/-- Whether a gate of channel n has closed at its own boundary in the MCLK cycle before instant `t`. -/
def State.closedItself (s : State) (n : Ch) (t : Nat) : Bool :=
  match (s.chan n).ownClose with
  | some oc => decide (t ≤ oc + 2048)
  | none => false

/-- APPLY_NOW at instant `t`, granted in the MCLK cycle before it (R97): cuts the open gate and applies
the shadows. A gate that reaches its own boundary in that cycle closes once, without CUT (R289). -/
def State.applyNow (n : Ch) (t : Nat) (s : State) : State :=
  match (s.chan n).openGate? with
  | none => (s.applyShadows n t).startGating n t
  | some g =>
    if decide (g.cfg.gmode ≠ 2) && decide (g.closeAt.getD (t + 1) ≤ t) then s.ownBoundary n (g.closeAt.getD t)
    else if decide (g.cfg.gmode % 3 = 0) && s.closedItself n t then s
    else s.closeGateAt n t true

/-- TIE_RST at instant `t` (R108): the first entry at or after it anchors the line anew. -/
def State.tieRst (n : Ch) (t : Nat) (s : State) : State :=
  s.modChan n fun c => { c with red := { c.red with carry := { c.red.carry with tieFrom := some (16 * Int.ofNat t) } }
                                tieAt := c.tieAt.map fun _ => t }

/-- ADEV_DUMP (R112): seven ADEV entries follow the next RESULT set. -/
def State.adevDumpCmd (n : Ch) (s : State) : State :=
  s.modChan n fun c => { c with adevDumpDue := some s.now }

/-- ADEV_CLR (R112): clears the history and the sums. -/
def State.adevClr (n : Ch) (s : State) : State :=
  s.modChan n fun c => { c with red := { c.red with carry := c.red.carry.clearAdev } }

/-- A write of CH_CMD: the bits act at one instant, each judged against the gate as it was before the
write. -/
def State.chCmd (n : Ch) (w : Word) (s : State) : State :=
  let t := s.mclkNext
  let open_ := (s.chan n).openGate?.isSome
  let on (f : Fld) : Bool := decide (f.of w = 1)
  let timed := on F.CH_CMD_START || on F.CH_CMD_STOP || on F.CH_CMD_APPLY_NOW || on F.CH_CMD_TIE_RST
  let s := if timed then s.reach t else s
  let s := if on F.CH_CMD_ADEV_CLR then s.adevClr n else s
  let s := if on F.CH_CMD_TIE_RST then s.tieRst n t else s
  let s := if on F.CH_CMD_ADEV_DUMP then s.adevDumpCmd n else s
  let s := if on F.CH_CMD_STOP && open_ then s.gateStop n t else s
  let s := if on F.CH_CMD_APPLY_NOW then s.applyNow n t else s
  if on F.CH_CMD_START && !open_ then s.gateStart n t else s

end Sys2Proof.Machine
end

