-- ==== Sys2Proof/Machine/TriggerCmdOps.lean ====
section
/-!
DEFINITION. The commands of trigger units (R150, R152, R155, R157, R165), the trigger pins and lines
(R148, R166, R167), and the stream partitions' masks (R164).
-/

namespace Sys2Proof.Machine

/-! ### TRG_TU_CMD -/

/-- ARM at the instant of R94 (R152). Before READY it is refused (R300). -/
def State.arm (u : Unit16) (s : State) : State :=
  if s.tuState u ≠ tuIdle then s
  else if !s.ready then s.raise (tuBase u) F.TRG_TU_STAT_CFG_REJ
  else
    let s := s.applyTu u
    if s.tuRejects u then s.raise (tuBase u) F.TRG_TU_STAT_CFG_REJ
    else
      let s := s.forAll (s.tuChs u) fun n s => s.breakIdle n
      (s.modTu u fun x => { x with missed := 0, count := 0, event := none }).enterArmed u s.now 0

/-- DISARM (R155, R157): records in POST close with STOP, and IDLE follows once they are complete; in
REARM no record is written that is not; an event whose sample starts before this instant is still taken if
it arrives later, so the rings of an ARMED unit stay. -/
def State.disarm (u : Unit16) (s : State) : State :=
  let st := s.tuState u
  if st = tuIdle then s
  else if st = tuArmed then
    ((s.modTu u fun x => { x with ghost := some s.now }).setF (tuBase u) F.TRG_TU_STAT_STATE tuIdle).setF (tuBase u) F.TRG_TU_STAT_FULL 0
  else if st = tuPost then ((s.modTu u fun x => { x with ending := true }).closeUnit u .stop s.now).endUnit u
  else s.enterIdle u

/-- FORCE at instant `t` (R147). -/
def State.forceSource (u : Unit16) (t : Nat) (s : State) : State := s.source u 15 (t / 256 * 256) 0#64

/-- The oldest unread record. -/
def UnitSt.oldest (x : UnitSt) : Option Record := x.records.find? fun r => !r.pushed

/-- RD (R165). -/
def State.readRecord (u : Unit16) (r : Record) (s : State) : State := (s.pushRecord u r false).setNext u

/-- REL (R165). -/
def State.releaseRecord (u : Unit16) (r : Record) (s : State) : State := (s.freeRecord u r.ch r.number).setNext u

/-- A write of TRG_TU_CMD: its bits are judged against the unit before the write (R288). -/
def State.tuCmd (u : Unit16) (w : Word) (s : State) : State :=
  let on (f : Fld) : Bool := decide (f.of w = 1)
  let was := s.tuState u
  let old := (s.tu u).oldest
  let t := s.mclkNext
  let s := if on F.TRG_TU_CMD_ARM || on F.TRG_TU_CMD_DISARM || on F.TRG_TU_CMD_FORCE then s.reach t else s
  let s := match old with
    | some r =>
      let s := if on F.TRG_TU_CMD_RD then s.readRecord u r else s
      if on F.TRG_TU_CMD_REL then s.releaseRecord u r else s
    | none => s
  let s := if on F.TRG_TU_CMD_FORCE && decide (was ≠ tuIdle) then s.forceSource u t else s
  if was = tuIdle then (if on F.TRG_TU_CMD_ARM then s.arm u else s)
  else if on F.TRG_TU_CMD_DISARM then s.disarm u else s

/-! ### Times -/

/-- TRIGT + POST_T passes (R155). -/
def State.postTime (u : Unit16) (s : State) : State :=
  let limit := s.tuA u F.TRG_TU_POSTT_H_POST_T * 2 ^ 32 + s.tuA u F.TRG_TU_POSTT_L_POST_T
  match (s.tu u).event with
  | some ev =>
    if s.tuState u = tuPost && decide (limit ≠ 0) then (s.reach (ev.sample + limit)).closeUnit u .postTime (ev.sample + limit) else s
  | none => s

/-- 100 microseconds have passed since a block's first word (R164). -/
def State.blockTime (p : Fin 32) (n : Ch) (s : State) : State :=
  match (s.blocks[p]).find? (fun b => b.ch = n) with
  | some b => if b.items.isEmpty then s else (s.reach (b.startAt + 100 * tkUs)).closeBlock p n
  | none => s

/-! ### Pins and lines -/

/-- The sample a crossing at `pos` tk into the present timebase period is assigned to (R148). -/
def State.pinSample (pos : Nat) (s : State) : Nat × State :=
  let own := s.now / 256 * 256
  if 64 < pos ∧ pos < 192 then (own, s)
  else
    let (d, s) := s.fresh
    if pos ≤ 64 then ((if Config.pinSample d then own else own - 256), s)
    else ((if Config.pinSample d then own + 256 else own), s)

/-- 1.0 ns in tk, for which a pin is held on each side of an edge that is to be seen (R148). -/
def pinHold : Nat := 640

/-- Whether a pin has been steady for 1.0 ns before instant `t`, and is for `after` tk from it. -/
def State.pinSeen (s : State) (k : Fin 12) (t after : Nat) : Bool :=
  decide (pinHold ≤ after) && (match s.pinLast[k] with | some l => decide (l + pinHold ≤ t) | none => true)

/-- A crossing at a TRIG_IN pin, offered to the units for which it is the active edge (R147, R148). -/
def State.trigIn (pin : Fin 4) (rising : Bool) (pos after : Nat) (s : State) : State :=
  if !s.clk.running then s
  else
    let k : Fin 12 := ⟨pin.val, by omega⟩
    let seen := s.pinSeen k (s.now + pos) after
    let s := { s with pinLast := s.pinLast.set k (some (s.now + pos)) }
    if !seen then s
    else
      let (sample, s) := s.pinSample pos
      s.forAll allUnits fun u s =>
        if (s.tuA u F.TRG_TU_SRC_TIN_FALL).testBit pin.val != rising then s.source u pin.val sample 0#64 else s

/-- Whether the unit drives the line itself, up to 10 ns after the pulse (R157). -/
def State.ownDrive (s : State) (u : Unit16) (k : Fin 8) : Bool :=
  match s.stlPulse[k] with
  | some (_, e) => s.stlDriver k.val == some u.val && decide (s.now ≤ e + 6400)
  | none => false

/-- A falling edge at STL line k, low for `after` tk; `held` is what devices outside hold asserted after it.
The pin's last crossing is then the rising one (R148). -/
def State.stlEdge (k : Fin 8) (pos after : Nat) (held : BitVec 8) (s : State) : State :=
  let s := { s with stlIn := held }
  if !s.clk.running then s
  else
    let j : Fin 12 := ⟨4 + k.val, by omega⟩
    let seen := s.pinSeen j (s.now + pos) after
    let s := { s with pinLast := s.pinLast.set j (some (s.now + pos + after)) }
    if !seen then s
    else
      let (sample, s) := s.pinSample pos
      s.forAll allUnits fun u s => if s.ownDrive u k then s else s.source u (4 + k.val) sample 0#64

/-- The lines' state, TRG_STL_LVL (R167). -/
def State.stlLevel (s : State) : Nat :=
  (List.finRange 8).foldl (fun a (k : Fin 8) =>
    let own := match s.stlPulse[k] with | some (b, e) => decide (b ≤ s.now ∧ s.now < e) | none => false
    if own || s.stlIn.getLsbD k.val then a + 2 ^ k.val else a) 0

/-- The level of TRIG_OUTn, none while it is high impedance (R166). -/
def State.trigOut (s : State) (k : Fin 2) : Option Bool :=
  let w := s.w (R.TRG_OUT + 4 * k.val)
  if F.TRG_OUT_EN.of w = 0 then none
  else
    let high := if F.TRG_OUT_FUNC.of w = 1 then decide (s.tuState (F.TRG_OUT_TU.of w) = tuArmed)
      else match s.outPulse[k] with | some (b, e) => decide (b ≤ s.now ∧ s.now < e) | none => false
    some (high != decide (F.TRG_OUT_INV.of w = 1))

/-- A TRIG_OUT or STL pulse reaches its width. -/
def State.outEnd (k : Fin 2) (s : State) : State :=
  match s.outPulse[k] with
  | some (_, e) => { s.reach e with outPulse := s.outPulse.set k none }
  | none => s

/-- The end of an STL pulse is kept for the 10 ns in which its unit still ignores the line (R157). -/
def State.stlEnd (k : Fin 8) (s : State) : State :=
  match s.stlPulse[k] with
  | some (_, e) =>
    let s := s.reach e
    if e + 6400 < s.now then { s with stlPulse := s.stlPulse.set k none } else s
  | none => s

/-! ### MARK (R150, R231) -/

/-- A MARK for one unit. -/
def State.markUnit (u : Unit16) (t : Int) (s : State) : State :=
  let x := s.tu u
  let start := t.fdiv 256 * 256
  if Int.ofNat s.now < start then
    if x.marks.length < 16 then s.setTu u { x with marks := x.marks ++ [t] }
    else s.raise (tuBase u) F.TRG_TU_STAT_MARK_OVF
  else if s.tuState u = tuIdle && x.ghost.isNone then s
  else if t < Int.ofNat x.armAt then s.raise (tuBase u) F.TRG_TU_STAT_MARK_LATE
  else s.source u 12 start.toNat 0#64

/-- A MARK message: 16 bytes of EVENT content. -/
def State.mark (marker : Fin 16) (time48 : BitVec 48) (s : State) : State :=
  let t := resolveTime 48 s.now time48.toNat
  (s.takeContent .pattern .event 16).forAll allUnits fun u s =>
    if s.srcEn u 12 && (s.tuA u F.TRG_TU_MARK_MASK).testBit marker.val then s.markUnit u t else s

/-- The earliest waiting MARK's sample begins. -/
def State.markRelease (u : Unit16) (s : State) : State :=
  match (s.tu u).marks with
  | [] => s
  | m :: rest =>
    let t := rest.foldl min m
    let sample := sampleOf t
    let s := s.reach sample
    (s.modTu u fun x => { x with marks := x.marks.erase t }).source u 12 sample 0#64

/-! ### Stream masks -/

/-- A write of TRG_VSMp_k (R164): channels that leave close their block; those that enter start
afresh and break their idle conditions (R205). -/
def State.writeVsm (p : Fin 32) (k : Nat) (w : Word) (s : State) : State :=
  let was := allCh.filter fun n => s.streams p n
  let gone := was.filter fun n => n.val / 32 = k && !w.getLsbD (n.val % 32)
  let s := (s.forAll gone fun n s => s.closeBlock p n).setW (R.TRG_VSM + 16 * p.val + 4 * k) w
  let fresh := (allCh.filter fun n => s.streams p n).filter fun n => !was.contains n
  s.forAll fresh fun n s => (s.breakIdle n).modChan n fun c => { c with vref := none }

end Sys2Proof.Machine
end

