-- ==== Sys2Proof/Machine/RegCore.lean ====
section
/-!
DEFINITION. The register block (R278-R297): an access by path, address, byte enables and data; its
width and alignment rules, protection, staged pairs, apertures, indirect access and the memory port;
and what each register does when it is written. The mailbox's GO only marks its request here:
Machine/DictOps.lean serves it.
-/

namespace Sys2Proof.Machine

/-! ### Paths -/

def pathIdx : Path → Fin 3
  | .host => 0
  | .lcp => 1
  | .indigo => 2

def State.path (s : State) (p : Path) : PathSt := s.paths[pathIdx p]
def State.modPath (p : Path) (g : PathSt → PathSt) (s : State) : State :=
  { s with paths := s.paths.set (pathIdx p) (g (s.path p)) }

/-- Causes of a refusal in PRT_FAULTA. -/
def causeWidth : Nat := 0
def causeAlign : Nat := 1
def causePlace : Nat := 2
def causePath : Nat := 3

/-- An access is refused with ACC_FAULT (R279). -/
def State.accFault (p : Path) (cause a : Nat) (s : State) : State :=
  let w := F.PRT_FAULTA_PATH.into (F.PRT_FAULTA_CAUSE.into (F.PRT_FAULTA_ADDR.into 0#32 a) cause) p.idx
  (s.setW R.PRT_FAULTA w).raise 0 F.PRT_STAT_ACC_FAULT

/-! ### Protection (R291-R294) -/

/-- Where a path's unlock is held; Indigo has none. -/
def lockOf : Path → Option (Fin 2)
  | .host => some 0
  | .lcp => some 1
  | .indigo => none

/-- An unlock is held and has not lapsed (R292). -/
def State.armed (s : State) (i : Fin 2) : Bool :=
  match s.unlockBy[i] with
  | some d => decide (s.now < d)
  | none => false

/-- Judges a guarded write (R291): an admitted one consumes the path's unlock; none is admitted before
CFG_DONE (R302). -/
def State.guard (p : Path) (s : State) : Bool × State :=
  match lockOf p with
  | none => (true, s)
  | some i =>
    if s.cfgDone && s.armed i && !s.fb 0 F.PRT_STAT_UNLK_DIS then (true, { s with unlockBy := s.unlockBy.set i none })
    else (false, s.raise 0 F.PRT_STAT_GUARD_REJ)

/-- A PRT_UNLOCK.KEY write (R292, R293). -/
def State.writeKey (p : Path) (key : BitVec 16) (s : State) : State :=
  match lockOf p with
  | none => s
  | some i =>
    if s.fb 0 F.PRT_STAT_UNLK_DIS then s
    else if key = s.fuses.key then { s with unlockBy := s.unlockBy.set i (some (s.now + 100 * tkUs)) }
    else
      let n := min 8 (s.f 0 F.PRT_STAT_WRONG + 1)
      let s := (s.setF 0 F.PRT_STAT_WRONG n).raise 0 F.PRT_STAT_KEY_BAD
      if n = 8 then s.setF 0 F.PRT_STAT_UNLK_DIS 1 else s

/-- An unlock unused for 100 microseconds lapses. -/
def State.unlockLapse (i : Fin 2) (s : State) : State :=
  match s.unlockBy[i] with
  | some d => let s := s.reach d; { s with unlockBy := s.unlockBy.set i none }
  | none => s

/-- FN_LOCK is set (R294). -/
def State.setFnLock (s : State) : State := s.setTv R.PRT_LOCK (F.PRT_LOCK_FN_LOCK.into (s.tvW R.PRT_LOCK) 1)

/-! ### Fields held -/

/-- A field held within its limits. -/
def Fld.hold (f : Fld) (lo hi : Nat) (w : Word) : Word := f.into w (clampNat lo hi (f.of w))

/-! ### One cycle -/

/-- Several effects of one MCLK cycle: each starts from the same instant. -/
def State.sameCycle {α : Type} (l : List α) (g : α → State → State) (s : State) : State :=
  let c := s.clk
  let r := l.foldl (fun (r : State × Nat) x => let t := g x { r.1 with clk := c }; (t, max r.2 t.now)) (s, s.now)
  { r.1 with clk := r.1.clk.at r.2 }

/-! ### Pairs (R280) -/

/-- The writable pairs, by block and offset of the high word. -/
def pairHigh (sp : Space) (off : Nat) : Bool :=
  match sp with
  | .chan => [R.CH_GATE_H, R.CH_TITO_H, R.CH_NOM_H, R.CH_HG_LO_H, R.CH_LV_LO_H, R.CH_LV_HI_H].contains off
  | .tu => [R.TRG_TU_VLO_H, R.TRG_TU_VHI_H, R.TRG_TU_POSTT_H].contains off
  | .dom => off == R.PTP_ASYM_H
  | _ => false

def pairLow (sp : Space) (off : Nat) : Bool := decide (4 ≤ off) && pairHigh sp (off - 4)

/-- The staged high word of a path, if any. -/
def State.staged? (s : State) (p : Path) (a : Nat) : Option Word := ((s.path p).staged.find? fun e => e.1 = a).map (·.2)

def State.stage (p : Path) (a : Nat) (w : Word) (s : State) : State :=
  s.modPath p fun x => { x with staged := (a, w) :: x.staged.filter fun e => e.1 ≠ a }

def State.unstage (p : Path) (a : Nat) (s : State) : State :=
  s.modPath p fun x => { x with staged := x.staged.filter fun e => e.1 ≠ a }

/-- A write of a pair's low word at `a`: the 64-bit value, with the high word staged or in force. -/
def State.joined (s : State) (p : Path) (a : Nat) (w : Word) : Nat :=
  ((s.staged? p (a - 4)).getD (s.w (a - 4))).toNat * 2 ^ 32 + w.toNat

/-- A channel's RWS pair at `off` (low word) takes a value and waits for its boundary. -/
def State.putPair (p : Path) (n : Ch) (off v : Nat) (s : State) : State :=
  let s := s.unstage p (chBase n + off - 4)
  let both := (s.chan n).openGate?.isSome
  let s := if both then s.putShadow n (off - 4) (BitVec.ofNat 32 (v / 2 ^ 32))
    else (s.setW (chBase n + off - 4) (BitVec.ofNat 32 (v / 2 ^ 32))).modChan n fun c =>
      { c with dirty := if c.dirty.contains (off - 4) then c.dirty else c.dirty ++ [off - 4] }
  s.putShadow n off (BitVec.ofNat 32 v)

/-! ### The memory port (R296, R297) -/

/-- What a Vat word holds; one that nothing has written since power-on is undefined (R308). -/
def State.vatVal (s : State) (a : Nat) : Word :=
  match sparseGet vatNone s.vat a with
  | some w => w
  | none => Config.vatWord s.boots a

/-- The logical bank that a physical bank serves now, if any. -/
def State.servedBank (s : State) (b : Nat) : Option Nat :=
  (List.range 128).find? fun k => s.lakePhys (k * 16384) = b * 16384

def State.mpWords (s : State) : Nat :=
  match s.f 0 F.MP_CTL_SPACE with
  | 1 => 2097152
  | 2 => 2228224
  | _ => 12582912

/-- Whether MP_ADDR lies in the store. -/
def State.mpInside (s : State) : Bool := decide (s.f 0 F.MP_ADDR_ADDR < s.mpWords)

def State.mpStep (s : State) : State :=
  if s.fb 0 F.MP_CTL_INC then s.setF 0 F.MP_ADDR_ADDR ((s.f 0 F.MP_ADDR_ADDR + 1) % 2 ^ 24) else s

/-- The physical Lake word that MP_ADDR names, and the logical word it reads as. -/
def State.mpLake (s : State) : Nat × Nat :=
  let a := s.f 0 F.MP_ADDR_ADDR
  if s.f 0 F.MP_CTL_SPACE = 1 then (a, s.lakePhys a)
  else match s.servedBank (a / 16384) with
    | some k => (k * 16384 + a % 16384, a)
    | none => (a, a)

/-- An MP_DATA read within the store. -/
def State.mpRead (s : State) : Word × State :=
  let a := s.f 0 F.MP_ADDR_ADDR
  if s.f 0 F.MP_CTL_SPACE % 3 = 0 then
    if s.vatUE.contains a then (0xFFFFFFFF#32, ((s.countVat 0 1).raise 0 F.MP_STAT_UE).mpStep)
    else if s.vatCE.contains a then (s.vatVal a, (s.countVat 1 0).mpStep)
    else (s.vatVal a, s.mpStep)
  else
    let (l, ph) := s.mpLake
    let bad := s.lakeUE.contains ph
    let (w, s) := s.readLakeAt l ph
    (w, (if bad then s.raise 0 F.MP_STAT_UE else s).mpStep)

/-- Whether an MP_DATA write is refused (R297). -/
def State.mpRefused (s : State) : Bool :=
  let a := s.f 0 F.MP_ADDR_ADDR
  !s.tvB 0 F.DEV_MODE_MP_WR ||
  (if s.f 0 F.MP_CTL_SPACE % 3 = 0 then
    (List.range 32).any fun p =>
      let vp := s.w (R.TRG_VP + 4 * p)
      vpHolds vp && decide (F.TRG_VP_BASE.of vp * 16384 ≤ a) && decide (a < (F.TRG_VP_BASE.of vp + F.TRG_VP_SIZE.of vp) * 16384) && s.vpInUse p
  else
    let (l, ph) := s.mpLake
    decide (s.lakePhys l = ph) && (s.hgOwners l).any fun n => decide (s.act n F.CH_HG_CTL_SRC ≤ 2))

/-- An MP_DATA write within the store. -/
def State.mpWrite (w : Word) (s : State) : State :=
  if s.mpRefused then s.raise 0 F.MP_STAT_WR_REJ
  else if s.f 0 F.MP_CTL_SPACE % 3 = 0 then (s.putVat (s.f 0 F.MP_ADDR_ADDR) w).mpStep
  else if s.f 0 F.MP_CTL_SPACE = 1 then (s.putLake (s.f 0 F.MP_ADDR_ADDR) w).mpStep
  else (s.putLakeAt s.mpLake.2 w).mpStep

/-! ### What a write does -/

/-- A channel register; `w` is the whole word. A claimed channel's registers ignore it (R179). -/
def State.writeChan (p : Path) (n : Ch) (off : Nat) (r : RegRow) (w : Word) (s : State) : State :=
  let b := chBase n
  let a := b + off
  let v := r.stored (s.w a) w
  if s.fb b F.CH_HG_STAT_SVC_OWN && claimOffs.contains off then s.raise 0 F.DEV_SVC_STAT_WR_REJ
  else if pairHigh .chan off then s.stage p a (w &&& r.rw)
  else if pairLow .chan off then
    let j := s.joined p a w
    let s := s.unstage p (a - 4)
    if off = R.CH_GATE_L then s.putPair p n off (clampNat 640000 640000000000000 j)
    else if off = R.CH_TITO_L then s.putPair p n off (clampNat 1 (2 ^ 40) j)
    else if off = R.CH_HG_LO_L && !s.hgLoFits n then s.raise b F.CH_HG_STAT_CFG_REJ
    else s.putPair p n off j
  else if off = R.CH_CFG then
    let v := if s.fusedOff n then F.CH_CFG_EN.into v 0 else v
    (s.breakIdle n).putShadow n off v
  else if off = R.CH_TDAC then (s.breakIdle n).writeTdac n v
  else if off = R.CH_TDAC_Q then s.pushCode n (w.setWidth 18)
  else if off = R.CH_PIN then (let s := s.setW a v; if F.CH_PIN_TEST.of w = 1 then s.pinTest n else s)
  else if off = R.CH_DEC then
    let s := if F.CH_DEC_RESYNC.of w = 1 then s.modChan n fun c => { c with decCount := 0 } else s
    s.putShadow n off v
  else if off = R.CH_FUNC || off = R.CH_LV_CTL then s.putShadow n off v
  else if off = R.CH_PART then s.writePart n v
  else if off = R.CH_CMD then s.chCmd n w
  else if off = R.CH_MD_CTL then s.writeMdCtl n w
  else if off = R.CH_MD_H then s.writeMdH n w
  else if off = R.CH_MD_CMD then s.writeMdCmd n w
  else if off = R.CH_HG_CTL then s.writeHg n off (F.CH_HG_CTL_WSH.hold 0 47 v)
  else if off = R.CH_HG_NB then s.writeHg n off (F.CH_HG_NB_NB.hold 1 0x3FFFFF v)
  else if off = R.CH_HG_CMD then
    let s := if F.CH_HG_CMD_CLR.of w = 1 || F.CH_HG_CMD_SNAP.of w = 1 then s.reach s.mclkNext else s
    let s := if F.CH_HG_CMD_CLR.of w = 1 then s.hgClr n else s
    if F.CH_HG_CMD_SNAP.of w = 1 then s.hgSnap n else s
  else s.setW a v

def State.writeSpare (p : Spare) (off : Nat) (r : RegRow) (w : Word) (s : State) : State :=
  let a := spBase p + off
  if off = R.SP_ROUTE then s.writeRoute p (w &&& r.rw)
  else if off = R.SP_WAIT then s.setW a (F.SP_WAIT_WAIT.hold 100 1000000 (r.stored (s.w a) w))
  else s.plain r a w

def State.writeTu (p : Path) (u : Unit16) (off : Nat) (r : RegRow) (w : Word) (s : State) : State :=
  let a := tuBase u + off
  let v := r.stored (s.w a) w
  if off = R.TRG_TU_CMD then s.tuCmd u w
  else if pairHigh .tu off then s.stage p a (w &&& r.rw)
  else if pairLow .tu off then (s.unstage p (a - 4)).setPair (a - 4) (s.joined p a w)
  else if off = R.TRG_TU_CFG then s.setW a (F.TRG_TU_CFG_NREC.hold 1 65535 v)
  else if off = R.TRG_TU_POST then s.setW a (F.TRG_TU_POST_POST.hold 1 16777215 v)
  else s.setW a v

def linkOf (i : Nat) : Link := if i = 0 then .host else .pattern

def State.writeLink (l : Link) (off : Nat) (r : RegRow) (w : Word) (s : State) : State :=
  let a := lkBase l.idx + off
  let v := r.stored (s.w a) w
  if off = R.LNK_CFG then (s.lnkEn l (F.LNK_CFG_EN.of w = 1)).setW a v
  else if off = R.LNK_CMD then s.lnkCmd l w
  else if off = R.LNK_TEST then s.writeTest l w
  else if off = R.LNK_TIMER then s.setW a (F.LNK_TIMER_REPLAY_TO.hold 16 65535 (F.LNK_TIMER_ACK_INT.hold 16 4096 v))
  else s.setW a v

def domOf (i : Nat) : Dom := ⟨i % 4, Nat.mod_lt _ (by decide)⟩

def State.writeDom (p : Path) (d : Dom) (off : Nat) (r : RegRow) (w : Word) (s : State) : State :=
  let a := dmBase d.val + off
  let v := r.stored (s.w a) w
  if off = R.PTP_CFG then s.writePtpCfg d w
  else if off = R.PTP_JTHR then s.setW a (F.PTP_JTHR_JTHR.hold 10 1000000000 v)
  else if off = R.PTP_PTHR then s.setW a (F.PTP_PTHR_PTHR.hold 5 1000000 v)
  else if off = R.PTP_HMAX then s.setW a (F.PTP_HMAX_HMAX.hold 1 86400 v)
  else if off = R.PTP_CMD then s.ptpCmd d w
  else if pairHigh .dom off then s.stage p a w
  else if pairLow .dom off then (s.unstage p (a - 4)).setPair (a - 4) (s.joined p a w)
  else s.setW a v

/-- DEV_TDAC_ARR: its enables take their values, then CLR_IGN and GO act (R66, R67). -/
def State.writeArray (r : RegRow) (w : Word) (s : State) : State :=
  let s := s.plain r R.DEV_TDAC_ARR w
  let s := if F.DEV_TDAC_ARR_CLR_IGN.of w = 1 then s.setF 0 F.DEV_TDAC_ARR_IGN 0 else s
  if F.DEV_TDAC_ARR_GO.of w = 1 then s.arrayStrobe s.strobeAt else s

/-- DEV_ODM_CTL (R268): GO while BUSY sets OVR. -/
def State.writeOdmCtl (p : Path) (r : RegRow) (w : Word) (s : State) : State :=
  let s := s.plain r R.DEV_ODM_CTL w
  if F.DEV_ODM_CTL_GO.of w = 0 then s
  else if s.fb 0 F.DEV_ODM_CTL_BUSY then s.raise 0 F.DEV_ODM_CTL_OVR
  else { s.setF 0 F.DEV_ODM_CTL_BUSY 1 with od := { s.od with mailbox := some p } }

/-- A register of the device-wide blocks; `m` has the bits that the access writes. -/
def State.writeDev (p : Path) (a : Nat) (r : RegRow) (m w : Word) (s : State) : State :=
  let v := r.stored (s.w a) w
  if a = R.DEV_MODE then s.setTv a (w &&& r.rw)
  else if a = R.IA then s.modPath p fun x => { x with ia := w &&& r.rw }
  else if a = R.DEV_CMD then (if F.DEV_CMD_SRST.of w = 1 then s.softReset else s)
  else if a = R.DEV_TDAC_ARR then s.writeArray r w
  else if R.DEV_TPACE ≤ a ∧ a < R.DEV_TPACE + 32 then
    s.writePacer ⟨(a - R.DEV_TPACE) / 4 % 8, Nat.mod_lt _ (by decide)⟩ (F.DEV_TPACE_PERIOD.hold 10 10000 v)
  else if R.DEV_LK_SPMAP ≤ a ∧ a < R.DEV_LK_SPMAP + 32 then
    s.writeSpmap ⟨(a - R.DEV_LK_SPMAP) / 4 % 8, Nat.mod_lt _ (by decide)⟩ (w &&& r.rw)
  else if a = R.DEV_ODM_CTL then s.writeOdmCtl p r w
  else if R.DEV_ODM_BUF ≤ a ∧ a < R.DEV_ODM_BUF + 1500 then (if s.fb 0 F.DEV_ODM_CTL_BUSY then s else s.setW a v)
  else if a = R.DEV_WEAR_CTL then s.setW a (F.DEV_WEAR_CTL_FEND.hold 1 65535 (F.DEV_WEAR_CTL_WARN.hold 1 1000 v))
  else if a = R.TB_SRC then s.writeTbSrc (w &&& r.rw)
  else if a = R.TB_DRIFT then
    let s := s.setW a (F.TB_DRIFT_LIM.hold 10 100000 v)
    if F.TB_DRIFT_REBASE.of w = 1 then s.setTb { s.tb with baseDue := some (s.now + tkSec) } else s
  else if a = R.TB_SNAP_CTL then (if F.TB_SNAP_CTL_CAPTURE.of w = 1 then s.snapshot else s)
  else if a = R.TB_PACE_MAX then (if F.TB_PACE_MAX_CLR.of w = 1 then s.paceMaxClr else s)
  else if a = R.TB_PACE_TARGET then s.setW a (F.TB_PACE_TARGET_TARGET.hold 550 1200 (F.TB_PACE_TARGET_BAND.hold 10 255 v))
  else if a = R.TB_AVS_CTL then s.writeAvs m (w &&& r.rw)
  else if a = R.TRG_OUT ∨ a = R.TRG_OUT + 4 then s.setW a (F.TRG_OUT_WIDTH.hold 2 65535 v)
  else if a = R.TRG_STL_CTL then s.setW a (F.TRG_STL_CTL_WIDTH.hold 2 65535 v)
  else if R.TRG_VP ≤ a ∧ a < R.TRG_VP + 128 then s.writeVp ⟨(a - R.TRG_VP) / 4 % 32, Nat.mod_lt _ (by decide)⟩ v
  else if R.TRG_VSM ≤ a ∧ a < R.TRG_VSM + 512 then
    s.writeVsm ⟨(a - R.TRG_VSM) / 16 % 32, Nat.mod_lt _ (by decide)⟩ ((a - R.TRG_VSM) / 4 % 4) v
  else if a = R.CAL_DT then s.setW a (F.CAL_DT_DT.hold 25 1000 v)
  else if a = R.CAL_TMAX then s.setW a (F.CAL_TMAX_TMAX.hold 10 86400 v)
  else if a = R.CAL_SWAP_WAIT then s.setW a (F.CAL_SWAP_WAIT_WAIT.hold 100 1000000 v)
  else if a = R.CAL_CHI then s.setW a (F.CAL_CHI_LIM.hold 280 65535 v)
  else if a = R.CAL_CMD then s.calCmd w
  else if a = R.CAL_VD then s.writeCalVd w
  else if a = R.NET_CFG then s.writeNetCfg w
  else if a = R.PRT_LOCK then (if F.PRT_LOCK_FN_LOCK.of w = 1 then s.setFnLock else s)
  else if a = R.PRT_UNLOCK then s.writeKey p (w.setWidth 16)
  else if a = R.MP_DATA then s.mpWrite w
  else s.setW a v

/-- A write of the bits `m` that every check has passed; `w` is the whole word. -/
def State.writeOwn (p : Path) (l : Loc) (a : Nat) (r : RegRow) (m w : Word) (s : State) : State :=
  match l.space with
  | .chan => s.writeChan p (chOf l.idx) l.off r w
  | .spare => s.writeSpare ⟨l.idx % 8, Nat.mod_lt _ (by decide)⟩ l.off r w
  | .tu => s.writeTu p (unitOf l.idx) l.off r w
  | .link => s.writeLink (linkOf l.idx) l.off r w
  | .dom => s.writeDom p (domOf l.idx) l.off r w
  | .dev => s.writeDev p a r m w
  | _ => s

/-! ### Reads -/

/-- SAGE and TAGE, STJ and TTJ of a front end. -/
def State.calAge (s : State) (f : FrontEnd) : Word :=
  let x := s.fe f
  F.CH_CAL_AGE_SAGE.into (F.CH_CAL_AGE_TAGE.into 0#32 (min 65535 (s.ageSec x.lastT 65535)))
    (min 65535 (s.ageSec (match x.side with | .a => x.lastA | .b => x.lastB) 65535))

def State.calTj (s : State) (f : FrontEnd) : Word :=
  F.CH_CAL_TJ_STJ.into (F.CH_CAL_TJ_TTJ.into 0#32 (satSigned 16 ((s.tjThreshold f).getD 0))) (satSigned 16 ((s.tjSampler f).getD 0))

/-- CH_STAT with the fields that follow the FIFO and Ochre: those of the front end that carries the channel
(R196, R201). -/
def State.chStat (s : State) (n : Ch) : Word :=
  let x := s.fe (s.serving n)
  let d := s.f (feBase (s.serving n)) (dsrcFld x.side)
  F.CH_STAT_FIFO_LVL.into (F.CH_STAT_SIDE.into (F.CH_STAT_CAL_DEFER_CORR.into (s.w (chBase n + R.CH_STAT)) (bit (decide (d ≠ 0))))
    (bit (decide (x.side = .b)))) (s.chan n).fifo.length

/-- A channel register's shadow view. -/
def State.readChan (s : State) (n : Ch) (off : Nat) : Word :=
  if off = R.CH_TDAC_Q then F.CH_TDAC_Q_LEVEL.into 0#32 (s.chan n).tdacQ.length
  else if off = R.CH_STAT then s.chStat n
  else if off = R.CH_MD_LVL then s.mdLevel n
  else if off = R.CH_CAL_AGE then s.calAge (Ch.fe n)
  else if off = R.CH_CAL_TJ then s.calTj (Ch.fe n)
  else s.w (chBase n + off)

/-- Whether core 6 or 7 carries its duties: not while it restarts, nor while it loads the image of a live
update, core 6 from DRAIN and then core 7 (R189, R314). -/
def State.onDuty (s : State) (k : Nat) : Bool :=
  decide (6 ≤ k) && s.indigo.serving && !(match s.indigo.restarting with | some (some c) => decide (c.val = k) | _ => false) &&
  !(match s.indigo.live with
    | some u => decide (u.swapped.length = k) && (decide (k = 7) || decide (u.drainBy ≤ s.now))
    | none => false)

/-- Cores that run a call or a duty. -/
def State.busyCores (s : State) : Nat :=
  (List.range 8).foldl (fun a k =>
    if (s.indigo.calls.any fun (c : Call) => c.st == .running && c.core.any fun x => x.val = k) || s.onDuty k
    then a + 2 ^ k else a) 0

/-- A device-wide register; live device time is that of the MCLK cycle's start (R44). -/
def State.readDev (p : Path) (a : Nat) (r : RegRow) (s : State) : Word × State :=
  let w := s.w a
  if a = R.IA then ((s.path p).ia, s)
  else if a = R.DEV_SVC_STAT then
    (F.DEV_SVC_STAT_QUEUED.into (F.DEV_SVC_STAT_BUSY.into w s.busyCores) (s.indigo.calls.countP fun (c : Call) => c.st == .queued), s)
  else if a = R.TB_ETS_H then (BitVec.ofNat 32 (s.clk.ets.toNat / 2 ^ 32), s)
  else if a = R.TB_ETS_L then (BitVec.ofNat 32 (s.clk.ets.toNat / 2048 * 2048), s)
  else if a = R.TB_EPX then (s.clk.epx, s)
  else if a = R.TRG_STL_LVL then (BitVec.ofNat 32 s.stlLevel, s)
  else if a = R.CAL_STAT then
    (F.CAL_STAT_BUSY.into (F.CAL_STAT_SLOTS.into w s.calSlots) (bit (allFe.any fun f => (s.fe f).running)), s)
  else if a = R.CAL_VD then s.readCalVd
  else if a = R.PRT_STAT then (F.PRT_STAT_H_ARMED.into (F.PRT_STAT_L_ARMED.into w (bit (s.armed 1))) (bit (s.armed 0)), s)
  else if a = R.MP_DATA then s.mpRead
  else (((s.tvW a &&& r.tvs) ||| (w &&& ~~~r.tvs)), s)

/-- A trigger unit's register; NSEG follows the settings in force. -/
def State.readTu (s : State) (u : Unit16) (off : Nat) : Word :=
  let w := s.w (tuBase u + off)
  if off = R.TRG_TU_STAT then F.TRG_TU_STAT_NSEG.into w (min (s.nseg u) 65535) else w

/-- A read that every check has passed. -/
def State.readOwn (p : Path) (l : Loc) (a : Nat) (r : RegRow) (s : State) : Word × State :=
  match l.space with
  | .chan => (s.readChan (chOf l.idx) l.off, s)
  | .active => (((s.w a &&& r.rws) ||| (s.readChan (chOf l.idx) l.off &&& ~~~r.rws)), s)
  | .spare =>
    let f := spareFe ⟨l.idx % 8, Nat.mod_lt _ (by decide)⟩
    if l.off = R.CH_CAL_AGE then (s.calAge f, s)
    else if l.off = R.CH_CAL_TJ then (s.calTj f, s)
    else (((s.tvW a &&& r.tvs) ||| (s.w a &&& ~~~r.tvs)), s)
  | .tu => (s.readTu (unitOf l.idx) l.off, s)
  | .link | .dom => (s.w a, s)
  | .dev => s.readDev p a r
  | _ => (0#32, s)

/-! ### Accesses -/

/-- The bits that byte enables name (R233). -/
def beMask (be : BitVec 4) : Word :=
  (List.range 4).foldl (fun m i => if be.getLsbD i then m ||| maskAt (8 * i) 8 else m) 0#32

/-- Byte enables that name an access, aligned to its width or not (R233). -/
def beNames (be : BitVec 4) : Bool := [0xF#4, 0x3#4, 0xC#4, 0x1#4, 0x2#4, 0x4#4, 0x8#4, 0x6#4].contains be

/-- Whether an access is aligned to its own width (R279). -/
def beAligned (a : Nat) (be : BitVec 4) : Bool := decide (a % 4 = 0) && be != 0x6#4

/-- The member channels of an aperture (R283). -/
def State.members (s : State) (l : Loc) : List Ch :=
  allCh.filter fun n => !s.fusedOff n && (l.space == .bcast || (s.w (R.UG_MASK + 0x20 * l.idx + 4 * (n.val / 32))).getLsbD (n.val % 32))

/-- A write before CFG_DONE is reported (R302). -/
def State.preWrite (r : RegRow) (s : State) : State :=
  if r.writable && !s.cfgDone then s.raise 0 F.DEV_CFG_STAT_PREWR else s

/-- The word that a narrow write merges into (R279): a staged high word stands for its register. -/
def State.mergeBase (s : State) (p : Path) (a : Nat) : Word :=
  if a = R.IA then (s.path p).ia else (s.staged? p a).getD (s.w a)

/-- An aperture write reaches every member in one cycle. -/
def State.writeAperture (p : Path) (l : Loc) (w : Word) (s : State) : State :=
  match chanRows.find? fun r => r.covers l.off with
  | some r => if l.off < 0x800 then (s.preWrite r).sameCycle (s.members l) fun n s => s.writeChan p n l.off r w else s
  | none => s

/-- A write at an address other than ID. -/
def State.writeAt (p : Path) (a : Nat) (be : BitVec 4) (w : Word) (s : State) : Resp × State :=
  if !beAligned a be then (.refused, s.accFault p causeAlign a)
  else if p = .lcp && !s.tvB 0 F.DEV_MODE_LCP_WR && a ≠ R.PRT_UNLOCK && a ≠ R.PRT_LOCK then (.refused, s.accFault p causePath a)
  else
    let l := locate a
    let full := be == 0xF#4
    if l.space = .bcast ∨ l.space = .group then
      if full then (.ok, s.writeAperture p l w) else (.refused, s.accFault p causeWidth a)
    else if l.space = .active then (.ok, s)
    else match rowAt a with
      | none => (.ok, s)
      | some r =>
        if !full && r.wide then (.refused, s.accFault p causeWidth a)
        else if a = R.MP_DATA && !s.mpInside then (.refused, s.accFault p causePlace a)
        else
          let m := beMask be
          let v := if full then w else (s.mergeBase p a &&& ~~~m) ||| (w &&& m)
          if r.guarded && !(a = R.PRT_LOCK && F.PRT_LOCK_FN_LOCK.of w = 1) then
            match s.guard p with
            | (true, s) => (.ok, s.writeOwn p l a r m v)
            | (false, s) => (.guarded, s)
          else (.ok, (s.preWrite r).writeOwn p l a r m v)

/-- A read at an address other than ID; a narrow one returns the addressed bytes. -/
def State.readAt (p : Path) (a : Nat) (be : BitVec 4) (s : State) : Resp × Word × State :=
  if !beAligned a be then (.refused, 0#32, s.accFault p causeAlign a)
  else
    let l := locate a
    if l.space = .bcast ∨ l.space = .group then (.refused, 0#32, s.accFault p causePlace a)
    else match rowAt a with
      | none => (.ok, 0#32, s)
      | some r =>
        if a = R.MP_DATA && !s.mpInside then (.refused, 0#32, s.accFault p causePlace a)
        else let x := s.readOwn p l a r; (.ok, x.1 &&& beMask be, x.2)

/-! ### Indirect access (R284) -/

/-- The address after a step: +0, +4, +8 or +0x1000, within 24 bits (R233, R284, R286). -/
def stepAddr (step a : Nat) : Nat :=
  (a + (match step with | 1 => 4 | 2 => 8 | 3 => 0x1000 | _ => 0)) % 2 ^ 24

/-- IA.ADDR advances after an accepted ID access. -/
def State.stepIa (p : Path) (s : State) : State :=
  s.modPath p fun x => { x with ia := F.IA_ADDR.into x.ia (stepAddr (F.IA_STEP.of x.ia) (F.IA_ADDR.of x.ia)) }

/-- Whether an ID access is refused before it reaches its target: narrow, or aimed at IA or ID. -/
def State.idRefused (s : State) (p : Path) (be : BitVec 4) : Option (Nat × Nat) :=
  let t := F.IA_ADDR.of (s.path p).ia
  if be = 0x6#4 then some (causeAlign, R.ID)
  else if be ≠ 0xF#4 then some (causeWidth, R.ID)
  else if t = R.IA ∨ t = R.ID then some (causePlace, t)
  else none

def Resp.code : Resp → Nat
  | .ok => 0
  | .refused => 1
  | .guarded => 2

/-- A register write by a path. -/
def State.writeReg (p : Path) (a : Nat) (be : BitVec 4) (w : Word) (s : State) : Resp × State :=
  let (r, s) :=
    if a = R.ID then
      match s.idRefused p be with
      | some (c, t) => (Resp.refused, s.accFault p c t)
      | none =>
        match s.writeAt p (F.IA_ADDR.of (s.path p).ia) 0xF#4 w with
        | (.ok, s) => (.ok, s.stepIa p)
        | x => x
    else s.writeAt p a be w
  (r, s.modPath p fun x => { x with resp := r.code })

/-- A register read by a path; the word stands in the path's data. -/
def State.readReg (p : Path) (a : Nat) (be : BitVec 4) (s : State) : Resp × Word × State :=
  let (r, w, s) :=
    if a = R.ID then
      match s.idRefused p be with
      | some (c, t) => (Resp.refused, 0#32, s.accFault p c t)
      | none =>
        match s.readAt p (F.IA_ADDR.of (s.path p).ia) 0xF#4 with
        | (.ok, w, s) => (.ok, w, s.stepIa p)
        | x => x
    else s.readAt p a be
  (r, w, s.modPath p fun x => { x with data := w, resp := r.code })

/-! ### The scrub (R290) -/

/-- Every triplicated word is rewritten from its majority; each that disagreed is counted. -/
def State.tvScrub (s : State) : State :=
  let n := (s.tv.countP fun e => e.2.split) + s.cal.countP fun e => e.2.split
  let fix (d : Nat → TvWord) (l : Sparse TvWord) : Sparse TvWord :=
    l.foldl (fun m e => sparsePut d m e.1 (TvWord.all e.2.vote)) l
  let s := { s with tv := fix tvDefault s.tv, cal := fix calFactory s.cal }
  if n = 0 then s else (s.countSat 0 F.PRT_TVFIX_TV_FIX_CNT n).raise 0 F.PRT_STAT_TV_FIX

end Sys2Proof.Machine
end

