-- ==== Sys2Proof/Machine/DictBase.lean ====
section
/-!
DEFINITION. The entries of the object dictionary (R258-R264, R269-R271, R276 and the dictionary
tables of the chapters): their access, length and sub-indices, what reading one gives, and what a
write that every check of R261 but BUSY and RANGE has passed does.
-/

namespace Sys2Proof.Machine

/-! ### Statuses (R246) -/

def odOk : Nat := 0
def odBusy : Nat := 1
def odNoObj : Nat := 2
def odNoSub : Nat := 3
def odAccess : Nat := 4
def odType : Nat := 5
def odRange : Nat := 6
def odLocked : Nat := 7
def odCheck : Nat := 8
def odSkipped : Nat := 9
def odBadCmd : Nat := 10
def odNoRes : Nat := 11

/-- Status and data of an answer. -/
abbrev OdAnswer := Nat × List Byte

def odFail (st : Nat) : OdAnswer := (st, [])
/-- BUSY until an unknown time. -/
def odBusyUnknown : OdAnswer := (odBusy, bytesBE 4 0xFFFFFFFF)

/-! ### Entries -/

/-- Access classes (R260); RWA acts as RW here. -/
inductive OdAcc where
  | ro | wo | rw | guarded
  deriving DecidableEq, Repr

/-- The sub-indices an entry lists (R258). -/
inductive SubSet where
  | upTo (n : Nat)
  /-- channels, with the spares where marked, groups and broadcast -/
  | chans (spares : Bool)
  /-- channels and spares only -/
  | reads
  /-- spares, and the groups and broadcast that may name them -/
  | spares
  | groups
  | all
  deriving DecidableEq, Repr

/-- What a sub-index names. -/
inductive Tgt where
  | idx (k : Nat)
  | ch (n : Ch)
  | sp (p : Spare)
  | group (g : Nat)
  | bcast
  deriving DecidableEq, Repr

/-- Whether a target is a group or broadcast. -/
def Tgt.many : Tgt → Bool
  | .group _ | .bcast => true
  | _ => false

def SubSet.tgt (x : SubSet) (sub : Nat) : Option Tgt :=
  let ch : Option Tgt := if sub < 128 then some (.ch (chOf sub)) else none
  let sp : Option Tgt := if 0x80 ≤ sub ∧ sub < 0x88 then some (.sp ⟨sub % 8, Nat.mod_lt _ (by decide)⟩) else none
  let gr : Option Tgt := if 0xE0 ≤ sub ∧ sub < 0xF0 then some (.group (sub - 0xE0)) else none
  let bc : Option Tgt := if sub = 0xFF then some .bcast else none
  match x with
  | .upTo n => if sub < n then some (.idx sub) else none
  | .chans s => ch.or ((if s then sp else none).or (gr.or bc))
  | .reads => ch.or sp
  | .spares => sp.or (gr.or bc)
  | .groups => gr
  | .all => some (.idx sub)

/-- Where a value stands. -/
inductive OdBody where
  /-- a register at an address, `step` bytes further for each sub-index -/
  | reg (addr step : Nat)
  /-- a register of a channel or spare block, a pair of it, or a run of words -/
  | blk (off : Nat)
  | pair (off : Nat)
  | words (off n : Nat)
  /-- a run of registers, `step` bytes further for each sub-index -/
  | run (addr step n : Nat)
  | native
  deriving DecidableEq, Repr

/-- An entry: `len` is its length, none where it varies. -/
structure OdEntry where
  acc : OdAcc
  len : Option Nat
  blob : Bool
  subs : SubSet
  body : OdBody
  deriving DecidableEq, Repr

def odU32 (acc : OdAcc) (subs : SubSet) (body : OdBody) : OdEntry := ⟨acc, some 4, false, subs, body⟩
def odReg (acc : OdAcc) (addr : Nat) : OdEntry := odU32 acc (.upTo 1) (.reg addr 0)
def odCh (acc : OdAcc) (off : Nat) : OdEntry := odU32 acc (.chans false) (.blk off)
def odPair (off : Nat) : OdEntry := ⟨.rw, some 8, false, .chans false, .pair off⟩
def odBlob (acc : OdAcc) (len : Option Nat) (subs : SubSet) (body : OdBody) : OdEntry := ⟨acc, len, true, subs, body⟩
def odNative (len : Nat) : OdEntry := ⟨.ro, some len, false, .upTo 1, .native⟩
def odStr : OdEntry := ⟨.ro, none, false, .upTo 1, .native⟩

/-- The device area. -/
def odDevice (index : Nat) : Option OdEntry :=
  match index with
  | 0x1000 | 0x1003 | 0x1009 => some odStr
  | 0x1001 | 0x1002 | 0x100A | 0x1041 => some (odNative 4)
  | 0x1004 | 0x1005 => some (odNative 2)
  | 0x1006 => some (odReg .ro R.TB_RUN_ID)
  | 0x1007 => some (odBlob .ro (some 20) (.upTo 1) .native)
  | 0x1008 => some (odReg .ro R.DEV_SVC_VER)
  | 0x1020 => some (odReg .rw R.DEV_AMON)
  | 0x1021 => some (odReg .rw R.DEV_TDAC_ARR)
  | 0x1022 => some (odReg .ro R.DEV_TDAC_SCNT)
  | 0x1023 => some (odU32 .rw (.upTo 8) (.reg R.DEV_TPACE 4))
  | 0x1030 => some (odBlob .ro (some 24) (.upTo 1) .native)
  | 0x1040 => some (odBlob .wo none (.upTo 1) .native)
  | 0x1042 => some (odBlob .ro (some 512) (.upTo 1) .native)
  | 0x1043 => some (odReg .ro R.DEV_CFG_STAT)
  | 0x1050 => some (odBlob .ro (some 32) (.upTo 1) .native)
  | 0x1051 => some (odReg .ro R.DEV_FLT)
  | 0x1052 => some (odBlob .ro (some 96) (.upTo 1) .native)
  | _ => none

/-- The areas of the timebase, the domains and calibration. -/
def odTime (index : Nat) : Option OdEntry :=
  match index with
  | 0x2010 => some (odReg .guarded R.TB_SRC)
  | 0x2020 => some (odNative 12)
  | 0x2100 | 0x2101 | 0x2102 | 0x2103 => some (odBlob .ro (some 32) (.upTo 1) .native)
  | 0x2110 | 0x2111 | 0x2112 | 0x2113 => some (odBlob .ro none (.upTo 1) .native)
  | 0x2120 | 0x2121 | 0x2122 | 0x2123 => some (odNative 4)
  | 0x2200 => some (odU32 .rw (.upTo 4) (.reg (dmBase 0 + R.PTP_CFG) 0x40))
  | 0x2201 => some (odU32 .rw (.upTo 4) (.reg (dmBase 0 + R.PTP_JTHR) 0x40))
  | 0x2202 => some (odU32 .rw (.upTo 4) (.reg (dmBase 0 + R.PTP_PTHR) 0x40))
  | 0x2203 => some (odU32 .ro (.upTo 4) (.reg (dmBase 0 + R.PTP_STAT) 0x40))
  | 0x2204 => some (odU32 .wo (.upTo 4) (.reg (dmBase 0 + R.PTP_CMD) 0x40))
  | 0x2205 => some (odBlob .ro (some 40) (.upTo 4) (.run (dmBase 0 + R.PTP_PEND_H) 0x40 10))
  | 0x3010 => some (odReg .rw R.CAL_CTL)
  | 0x3011 => some (odReg .rw R.CAL_DT)
  | 0x3012 => some (odReg .rw R.CAL_TMAX)
  | 0x3013 => some (odReg .rw R.CAL_SWAP_WAIT)
  | 0x3014 => some (odReg .rw R.CAL_CHI)
  | 0x3020 => some (odReg .ro R.CAL_STAT)
  | 0x3030 => some (odBlob .guarded (some 222976) (.upTo 1) .native)
  | 0x3031 => some (odBlob .ro (some 512) (.upTo 1) .native)
  | _ => none

/-- The per-channel and Mordant areas. -/
def odChannel (index : Nat) : Option OdEntry :=
  match index with
  | 0x4002 => some (odBlob .rw (some 20) .groups .native)
  | 0x4010 => some (odCh .rw R.CH_CFG)
  | 0x4011 => some (odCh .rw R.CH_TDAC)
  | 0x4012 => some (odCh .wo R.CH_TDAC_Q)
  | 0x4013 => some (odCh .rw R.CH_PIN)
  | 0x4014 => some (odCh .rw R.CH_DEC)
  | 0x4015 => some (odCh .rw R.CH_STAT)
  | 0x4020 => some (odCh .rw R.CH_FUNC)
  | 0x4021 => some (odPair R.CH_GATE_H)
  | 0x4022 => some (odCh .rw R.CH_PART)
  | 0x4023 => some (odPair R.CH_TITO_H)
  | 0x4024 => some (odPair R.CH_NOM_H)
  | 0x4025 => some (odCh .wo R.CH_CMD)
  | 0x4026 => some (odCh .ro R.CH_GSEQ)
  | 0x4030 => some (odBlob .ro (some 64) (.chans false) (.words R.CH_ACC_H 16))
  | 0x4040 => some (odU32 .rw (.chans true) (.blk R.CH_CAL_CTL))
  | 0x4041 => some (odU32 .ro .reads (.blk R.CH_CAL_STAT))
  | 0x4050 => some (odU32 .guarded .spares (.blk R.SP_ROUTE))
  | 0x4051 => some (odU32 .rw .spares (.blk R.SP_STAT))
  | 0x4052 => some (odU32 .rw .spares (.blk R.SP_WAIT))
  | 0x6010 => some (odCh .rw R.CH_MD_CTL)
  | 0x6011 => some (odCh .rw R.CH_MD_H)
  | 0x6012 => some (odCh .ro R.CH_MD_STAT)
  | 0x6030 => some (odBlob .ro (some 72) (.chans false) (.words R.CH_MD_HIT_H 18))
  | 0x6031 => some (odBlob .ro (some 16) (.chans false) .native)
  | _ => if 0x6020 ≤ index ∧ index < 0x6030 then some (odCh .rw (R.CH_MD_WP + 4 * (index - 0x6020))) else none

/-- The areas of triggers, the Lake and services, links, network and protection. -/
def odOther (index : Nat) : Option OdEntry :=
  match index with
  | 0x5010 => some (odU32 .rw (.upTo 16) (.reg (tuBase 0 + R.TRG_TU_CFG) 0x80))
  | 0x5011 => some (odU32 .rw (.upTo 16) (.reg (tuBase 0 + R.TRG_TU_SRC) 0x80))
  | 0x5020 => some (odU32 .ro (.upTo 16) (.reg (tuBase 0 + R.TRG_TU_STAT) 0x80))
  | 0x5030 => some (odU32 .rw (.upTo 32) (.reg R.TRG_VP 4))
  | 0x5040 | 0x5041 => some (odBlob .ro none (.upTo 16) .native)
  | 0x7010 => some (odCh .rw R.CH_HG_CTL)
  | 0x7040 => some (odBlob .ro none (.chans false) .native)
  | 0x7180 => some ⟨.ro, some 4, false, .all, .native⟩
  | 0x7181 | 0x7203 => some ⟨.wo, some 4, false, .upTo 1, .native⟩
  | 0x7200 => some (odBlob .ro (some 512) (.upTo 1) .native)
  | 0x7201 => some (odBlob .wo none (.upTo 1) .native)
  | 0x7202 => some (odNative 4)
  | 0x8010 => some (odU32 .rw (.upTo 2) (.reg (lkBase 0 + R.LNK_CFG) 0x200))
  | 0x8011 => some (odU32 .ro (.upTo 2) (.reg (lkBase 0 + R.LNK_STAT) 0x200))
  | 0x8012 => some (odU32 .rw (.upTo 2) (.reg (lkBase 0 + R.LNK_LANES) 0x200))
  | 0x8020 => some (odBlob .ro (some 64) (.upTo 2) (.run (lkBase 0 + R.LNK_LSTAT) 0x200 16))
  | 0x8030 => some (odBlob .ro (some 56) (.upTo 2) (.run (lkBase 0 + R.LNK_CRC_H) 0x200 14))
  | 0x8040 => some (odReg .rw R.NET_CFG)
  | 0x8041 => some (odReg .ro R.NET_STAT)
  | 0x8042 => some (odReg .rw R.NET_NODE)
  | 0x8050 => some (odBlob .ro (some 56) (.upTo 1) (.run R.NET_FWD0_H 0 14))
  | 0x9010 => some (odReg .guarded R.PRT_LOCK)
  | 0x9011 => some (odReg .ro R.PRT_STAT)
  | 0x9012 => some (odReg .ro R.PRT_TVFIX)
  | 0x9020 => some (odBlob .ro (some 44) (.upTo 1) (.run R.PRT_FUSE0 0 11))
  | _ => none

/-- Service calls and results: call `id` at (0x7100 + id):00, results of `id` at the odd sub-indices
of 0x7101 + id (R270). -/
def odService (index sub : Nat) : Option (Option OdEntry) :=
  if 0x7101 ≤ index ∧ index ≤ 0x7107 then
    let k := index - 0x7100
    if sub = 0 ∧ k ≤ 6 then some (some (odBlob .wo (some (svcLen k)) .all .native))
    else if sub % 2 = 1 ∧ 2 ≤ k then some (some (odBlob .ro none .all .native))
    else some none
  else none

/-- The entry of an index and what the sub-index names: NOOBJ or NOSUB where there is none. -/
def odFind (index sub : Nat) : Except Nat (OdEntry × Tgt) :=
  match odService index sub with
  | some (some e) => .ok (e, .idx sub)
  | some none => .error odNoSub
  | none =>
    match (odDevice index).or ((odTime index).or ((odChannel index).or (odOther index))) with
    | none => .error odNoObj
    | some e => match e.subs.tgt sub with
      | some t => .ok (e, t)
      | none => .error odNoSub

/-- Whether an index is listed, and whether its entry is a BLOB. -/
def odListed (index : Nat) : Option Bool :=
  if (odService index 0).isSome then some true
  else ((odDevice index).or ((odTime index).or ((odChannel index).or (odOther index)))).map (·.blob)

/-- The identity objects (R276). -/
def odIdentity (index : Nat) : Bool := decide (0x1000 ≤ index) && decide (index ≤ 0x100A)

/-! ### Values -/

def wordBytes (w : Word) : List Byte := bytesBE 4 w.toNat

/-- The word a register shows to Indigo: the shadow view. -/
def State.odWord (s : State) (a : Nat) : Word := (s.readAt .indigo a 0xF#4).2.1

def State.odWords (s : State) (a n : Nat) : List Byte := (List.range n).flatMap fun k => wordBytes (s.odWord (a + 4 * k))

/-- The block of a target. -/
def Tgt.base : Tgt → Nat
  | .ch n => chBase n
  | .sp p => spBase p
  | .idx k => k
  | _ => 0

/-- A selection of channels and spares, laid out as OD 0x4002. -/
def maskBytes (chs : List Ch) (sps : List Spare) : List Byte :=
  let word (k : Nat) : Nat := (chs.filter fun n => n.val / 32 = k).foldl (fun a n => a + 2 ^ (n.val % 32)) 0
  (List.range 4).flatMap (fun k => bytesBE 4 (word k)) ++ bytesBE 4 (sps.foldl (fun a p => a + 2 ^ p.val) 0)

/-- Milliseconds to READY, where it is known (R246). -/
def State.readyMs (s : State) : List Byte × State :=
  if s.ready then (bytesBE 4 0, s)
  else if s.boot.faulted then (bytesBE 4 0xFFFFFFFF, s)
  else let d := s.fresh; (bytesBE 4 (Config.busyMs d.1 % 2 ^ 32), d.2)

/-- OD 0x1050 (R315, R235): retired lanes of both links. -/
def State.wearBytes (s : State) : List Byte :=
  let retired := ((List.range 2).map fun l => (List.range 16).countP fun k => s.fb (lkBase l) (F.LNK_LSTAT_RETIRED.at 4 k)).sum
  wordBytes (s.w R.DEV_WEAR_EQS_H) ++ wordBytes (s.w R.DEV_WEAR_EQS_L) ++ bytesBE 4 (s.f 0 F.DEV_WEAR_USED_VALUE) ++
  wordBytes (s.w R.DEV_WEAR_FLASH) ++ bytesBE 4 (s.f 0 F.DEV_REP_STAT_ROWS) ++ bytesBE 4 (s.f 0 F.DEV_REP_STAT_LAKEMAP) ++
  bytesBE 4 retired ++ wordBytes (s.w R.DEV_WEAR_TJ)

/-- OD 0x1052: unit 0 in bit 7 of byte 0. -/
def State.vatMap (s : State) : List Byte :=
  (List.range 96).map fun i => BitVec.ofNat 8 (((List.range 8).filter fun b => s.vatExh.contains (8 * i + b)).foldl (fun a b => a + 2 ^ (7 - b)) 0)

/-- OD 0x6031: mean and standard deviation of the committed HIT deviations in tk. -/
def State.devStats (s : State) (n : Ch) : List Byte :=
  let k := (s.chan n).devN
  let b := chBase n
  let sum : Rat := (signExt 64 (s.pair (b + R.CH_MD_DSUM_H)) : Rat) / 16
  let sq : Rat := (s.pair (b + R.CH_MD_DSQ_H) : Rat) / 256
  let mean := if k = 0 then f64NaN else f64OfRat (sum / (k : Rat))
  let sd := if k < 2 then f64NaN else f64Sqrt (max 0 ((sq - sum * sum / (k : Rat)) / ((k : Rat) - 1)))
  bytesBE 8 mean.toNat ++ bytesBE 8 sd.toNat

/-- Skips the oldest unread records of a unit while neither header copy can be read (R161). -/
def State.skipLost (u : Unit16) : Nat → State → State
  | 0, s => s
  | k + 1, s =>
    match (s.tu u).oldest with
    | some r => if s.headerLost r then State.skipLost u k (s.loseRecord u r) else s
    | none => s

/-- The unit without the records that its next readout skips. -/
def State.atOldest (s : State) (u : Unit16) : State := s.skipLost u (s.tu u).records.length

/-- The bytes of a unit's oldest unread record, with what its readout found. -/
def State.oldestBytes (s : State) (u : Unit16) : List Byte × List Int × Nat × Nat :=
  match (s.tu u).oldest with
  | some r =>
    let b := s.readBody r.addr r.items
    let h := s.headerErrs r
    (r.bytes b, b.refs, b.ce + h.1, b.ue + h.2)
  | none => ([], [], 0, 0)

/-- First logical word and number of bins that OD 0x7040 shows: the frozen half with DBUF = 1. -/
def State.histView (s : State) (n : Ch) : Nat × Nat :=
  let k := s.act n F.CH_HG_NB_NB + 2
  let half := if s.actB n F.CH_HG_CTL_DBUF then 1 - s.f (chBase n) F.CH_HG_STAT_HALF else 0
  (s.act n F.CH_HG_CTL_BASE * 16384 + half * k, k)

/-- Bins `first` to `first + count` of a channel's view, read through the Lake's ECC. -/
def State.histBytes (n : Ch) (first count : Nat) (s : State) : List Byte × State :=
  let v := s.histView n
  (List.range (min count (v.2 - first))).foldl (fun (r : List Byte × State) k =>
    let x := r.2.readLake (v.1 + first + k); (r.1 ++ wordBytes x.1, x.2)) ([], s)

/-- The state of the newest call with these low bits of its handle (R270). -/
def State.callWord (s : State) (low : Nat) : Nat :=
  match s.indigo.calls.reverse.find? fun (c : Call) => c.handle % 256 = low with
  | some c => c.handle * 65536 + c.st.fail * 256 + c.st.code
  | none => 0

/-- The result of service `id` at an odd sub-index; a running LTADEV call's present values (R270). -/
def State.resultBytes (s : State) (id sub : Nat) : List Byte :=
  match s.indigo.calls.reverse.find? fun (c : Call) => c.id = id && decide (c.handle % 128 = sub / 2) && (!c.result.isEmpty || c.id = 4 && c.st == .running) with
  | some c => if c.st == .running then c.head .running s.now ++ c.lt.flatMap LtChan.rows else c.result
  | none => []

/-- The value of a native entry. -/
def State.odNativeValue (s : State) (index : Nat) (t : Tgt) : List Byte :=
  let on (c : Nat) : Bool := s.fuses.grade.getLsbD c
  match index with
  | 0x1000 => [0x53#8, 0x43#8, 0x50#8, 0x2D#8, 0x37#8, 0x31#8, 0x32#8, 0x38#8]
  | 0x1001 => bytesBE 4 s.fuses.ident.toNat
  | 0x1002 => bytesBE 4 s.fuses.rev.toNat
  | 0x1003 => Config.serialNumber.take 1024
  | 0x1004 => bytesBE 2 s.nodeId
  | 0x1005 => bytesBE 2 s.odState
  | 0x1007 => maskBytes (allCh.filter fun n => on (Ch.cluster n)) (allSpares.filter fun p => on p.val)
  | 0x1009 => Config.uldName.take 1024
  | 0x1030 => s.od.refused
  | 0x1041 => bytesBE 4 s.storeOutcome
  | 0x1042 => s.flashRead (cfgSlot 0) 256 ++ s.flashRead (cfgSlot 1) 256
  | 0x1050 => s.wearBytes
  | 0x1052 => s.vatMap
  | 0x2020 => bytesBE 12 s.now
  | 0x3030 => s.calBytes
  | 0x3031 => s.flashRead (calSlot 0) 256 ++ s.flashRead (calSlot 1) 256
  | 0x4002 => match t with
    | .group g => (List.range 5).flatMap fun k => wordBytes (s.w (R.UG_MASK + 0x20 * g + 4 * k))
    | _ => []
  | 0x6031 => match t with
    | .ch n => s.devStats n
    | _ => []
  | 0x5040 => ((s.atOldest (unitOf t.base)).oldestBytes (unitOf t.base)).1
  | 0x5041 => ((s.atOldest (unitOf t.base)).oldestBytes (unitOf t.base)).2.1.flatMap fun i => bytesBE 8 (i % (2 ^ 64 : Int)).toNat
  | 0x7180 => bytesBE 4 (s.callWord t.base)
  | 0x7200 => s.flashRead (imgSlot 0) 256 ++ s.flashRead (imgSlot 1) 256
  | 0x7202 => bytesBE 4 s.indigo.imgOutcome
  | _ =>
    if 0x2100 ≤ index ∧ index < 0x2104 then
      match s.domMap (domOf (index - 0x2100)) with
      | some m => m.bytes
      | none => List.replicate 32 0#8
    else if 0x2110 ≤ index ∧ index < 0x2114 then (s.mapLogs[domOf (index - 0x2110)]).reverse.flatMap DomMap.bytes
    else if 0x2120 ≤ index ∧ index < 0x2124 then bytesBE 4 (s.mapLost[domOf (index - 0x2120)])
    else s.resultBytes (index - 0x7101) t.base

/-- The value of an entry, as one coherent set. A histogram's bins pass the Lake's ECC; a record's
readout counts what it finds (R163). -/
def State.odValue (index : Nat) (e : OdEntry) (t : Tgt) (s : State) : List Byte × State :=
  match e.body with
  | .reg a step => (wordBytes (s.odWord (a + step * t.base)), s)
  | .blk off => (wordBytes (s.odWord (t.base + off)), s)
  | .pair off => (wordBytes (s.odWord (t.base + off)) ++ wordBytes (s.odWord (t.base + off + 4)), s)
  | .words off n => (s.odWords (t.base + off) n, s)
  | .run a step n => (s.odWords (a + step * t.base) n, s)
  | .native =>
    if index = 0x100A then s.readyMs
    else if index = 0x7040 then
      match t with
      | .ch n => s.histBytes n 0 (s.histView n).2
      | _ => ([], s)
    else if index = 0x5040 then
      let s := (s.atOldest (unitOf t.base)).setNext (unitOf t.base)
      let x := s.oldestBytes (unitOf t.base)
      (x.1, s.countVat x.2.2.1 x.2.2.2)
    else (s.odNativeValue index t, s)

/-- The length of an entry's value now. -/
def State.odLen (s : State) (index : Nat) (e : OdEntry) (t : Tgt) : Nat :=
  match e.len with
  | some n => n
  | none =>
    if index = 0x7040 then
      match t with
      | .ch n => 4 * (s.histView n).2
      | _ => 0
    else (s.odNativeValue index t).length

/-! ### Writes -/

/-- The flag by which a register of R264 refuses a value, by its index and target. -/
def rejFlag (index : Nat) (t : Tgt) : Option (Nat × Fld) :=
  match index with
  | 0x4012 => some (t.base, F.CH_PIN_TQ_FULL)
  | 0x4013 => some (t.base, F.CH_PIN_PT_REJ)
  | 0x4022 => some (t.base, F.CH_STAT_PART_REJ)
  | 0x4050 => some (t.base, F.SP_STAT_BUSY_REJ)
  | 0x6010 | 0x6011 => some (t.base, F.CH_MD_STAT_EN_REJ)
  | 0x7010 => some (t.base, F.CH_HG_STAT_CFG_REJ)
  | 0x5030 => some (0, F.TRG_VAT_STAT_CFG_REJ)
  | 0x2204 => some (dmBase t.base, F.PTP_STAT_CMD_REJ)
  | _ => none

/-- The entries whose registers a claim takes (R179). -/
def odClaimed (index : Nat) : Bool := [0x4011, 0x4014, 0x4020, 0x4021, 0x4022, 0x4024, 0x7010].contains index

/-- Writes the words of a value at rising addresses by Indigo's path, whose guard has been judged. -/
def State.odPut (a : Nat) (ws : List Word) (s : State) : State :=
  s.forAll ws.zipIdx fun p s => (s.writeAt .indigo (a + 4 * p.2) 0xF#4 p.1).2

/-- A write whose refusal a flag reports: RANGE where the register refuses the value (R264). -/
def State.odPutChecked (flag : Option (Nat × Fld)) (a : Nat) (ws : List Word) (s : State) : Nat × State :=
  match flag with
  | none => (odOk, s.odPut a ws)
  | some (b, f) => (if ((s.setF b f 0).odPut a ws).fb b f then odRange else odOk, s.odPut a ws)

/-- A mirror of one channel or spare takes a value (R262, R179). -/
def State.odMember (index off : Nat) (t : Tgt) (ws : List Word) (s : State) : Nat × State :=
  let off_ := match t with
    | .ch n => s.fusedOff n
    | .sp p => !s.fuses.grade.getLsbD p.val
    | _ => false
  let claimed := match t with
    | .ch n => odClaimed index && s.fb (chBase n) F.CH_HG_STAT_SVC_OWN
    | _ => false
  if claimed then (odBusy, s)
  else if off_ then (odRange, s)
  else s.odPutChecked (rejFlag index t) (t.base + off) ws

/-- The members of a group or broadcast that an entry reaches (R263). -/
def State.odMembers (s : State) (e : OdEntry) (t : Tgt) : List Tgt :=
  let ch (n : Ch) : Bool := match t with
    | .group g => (s.w (R.UG_MASK + 0x20 * g + 4 * (n.val / 32))).getLsbD (n.val % 32)
    | _ => true
  let sp (p : Spare) : Bool := match t with
    | .group g => (s.w (R.UG_MASK + 0x20 * g + 16)).getLsbD p.val
    | _ => false
  let chs := (allCh.filter ch).map Tgt.ch
  let sps := (allSpares.filter sp).map Tgt.sp
  match e.subs with
  | .spares => sps
  | .chans true => chs ++ sps
  | _ => chs

/-- The answer to a status; a claimed register's BUSY ends at an unknown time. -/
def odAnswer (st : Nat) : OdAnswer := if st = odBusy then odBusyUnknown else (st, [])

/-- A group or broadcast write (R263, R264): every member in one MCLK cycle, the status of the lowest
that refuses, and the report in OD 0x1030. -/
def State.odGroup (index off : Nat) (e : OdEntry) (t : Tgt) (ws : List Word) (s : State) : OdAnswer × State :=
  let c := s.clk
  let ms := s.odMembers e t
  let r := ms.foldl (fun (r : State × List (Tgt × Nat) × Nat) m =>
    let x := ({ r.1 with clk := c } : State).odMember index off m ws
    (x.2, (if x.1 = odOk then r.2.1 else r.2.1 ++ [(m, x.1)]), max r.2.2 x.2.now)) (s, [], s.now)
  let s := { r.1 with clk := r.1.clk.at r.2.2 }
  match r.2.1 with
  | [] => (odFail odOk, s)
  | (m, st) :: rest =>
    let bad := (m :: rest.map (·.1))
    let chs := bad.filterMap fun (x : Tgt) => match x with | .ch n => some n | _ => none
    let sps := bad.filterMap fun (x : Tgt) => match x with | .sp p => some p | _ => none
    (odAnswer st, { s with od := { s.od with refused := maskBytes chs sps ++ bytesBE 1 st ++ [0#8] ++ bytesBE 2 index } })

/-- Whether a source holds an open transaction. -/
def State.txnOf (s : State) (src : OdSrc) : Option Txn := s.od.txns.find? fun (x : Txn) => x.src == src

/-- What a write of a native entry does (R269, R270, R274, R307, R188, R189). -/
def State.odNativeWrite (index : Nat) (t : Tgt) (data : List Byte) (s : State) : OdAnswer × State :=
  let v := ofBytesBE data
  match index with
  | 0x1040 => if s.fb 0 F.DEV_CFG_STAT_STORE_BUSY && s.stores.any (fun x => x.kind == .config) then (odBusyUnknown, s) else (odFail odOk, s.storeConfig data)
  | 0x3030 => (odFail odOk, s.loadCal (wordsOf data))
  | 0x4002 => match t with
    | .group g => (odFail odOk, s.odPut (R.UG_MASK + 0x20 * g) (wordsOf data))
    | _ => (odFail odOk, s)
  | 0x7181 => match s.abortCall v with
    | some s' => (odFail odOk, s')
    | none => (odFail odRange, s)
  | 0x7201 => let r := s.writeImage data; (if r.1 then odFail odOk else odBusyUnknown, r.2)
  | 0x7203 => let r := s.liveUpdate v; (odFail (if r.1 then odOk else odRange), r.2)
  | _ =>
    match s.queueCall (index - 0x7100) data false with
    | (some h, s) => ((odOk, bytesBE 4 h), s)
    | (none, s) => (odBusyUnknown, s)

/-- A write that has passed BADCMD to LOCKED (R261): BUSY, RANGE, and the effect. -/
def State.odApply (index : Nat) (e : OdEntry) (t : Tgt) (data : List Byte) (s : State) : OdAnswer × State :=
  let ws := wordsOf data
  match e.body with
  | .native => s.odNativeWrite index t data
  | .reg a step => let r := s.odPutChecked (rejFlag index t) (a + step * t.base) ws; (odAnswer r.1, r.2)
  | .blk off | .pair off | .words off _ =>
    if t.many then s.odGroup index off e t ws else let r := s.odMember index off t ws; (odAnswer r.1, r.2)
  | .run _ _ _ => (odFail odAccess, s)

end Sys2Proof.Machine
end

