-- ==== Sys2Proof/Machine/DictOps.lean ====
section
/-!
DEFINITION. The dictionary server: single reads and writes, segmented transfers (R265-R267),
configuration transactions (R272-R275), Ulidjaif frames (R243-R248) and the register mailbox (R268).
-/

namespace Sys2Proof.Machine

def State.modOd (g : OdSt → OdSt) (s : State) : State := { s with od := g s.od }

/-- The source ID that a request carries (R268). -/
def OdSrc.id : OdSrc → Nat
  | .node n => n.toNat
  | .mailbox p => if p = .lcp then 0xFFFD else 0xFFFE

/-! ### Guards (R248, R260) -/

/-- Whether a write is a guarded one: PRT_LOCK takes FN_LOCK = 1 from every path (R294). -/
def odGuarded (index : Nat) (e : OdEntry) (data : List Byte) : Bool :=
  e.acc == .guarded && !(index = 0x9010 && (BitVec.ofNat 32 (ofBytesBE data) : Word).getLsbD F.PRT_LOCK_FN_LOCK.lo)

/-- The field network's rule: FN_LOCK is clear and the fused mask admits the index area. -/
def State.nodeMay (s : State) (index : Nat) : Bool :=
  !s.tvB 0 F.PRT_LOCK_FN_LOCK && s.fuses.weMask.getLsbD (index / 4096)

/-- Judges a guarded write; a mailbox's goes by the rules of its path. -/
def State.odGuard (src : OdSrc) (index : Nat) (s : State) : Bool × State :=
  match src with
  | .node _ => if s.nodeMay index then (true, s) else (false, s.raise 0 F.PRT_STAT_GUARD_REJ)
  | .mailbox p => s.guard p

/-! ### READ and WRITE -/

/-- A READ carries no data (R244); a BLOB longer than 1,024 bytes is moved by segments (R259). -/
def State.odRead (index sub : Nat) (data : List Byte) (s : State) : OdAnswer × State :=
  match odFind index sub with
  | .error st => (odFail st, s)
  | .ok (e, t) =>
    if e.acc = .wo || t.many then (odFail odAccess, s)
    else if !data.isEmpty || decide (1024 < s.odLen index e t) then (odFail odType, s)
    else let r := s.odValue index e t; ((odOk, r.1), r.2)

/-- The checks of a whole write up to TYPE (R261). The calibration set is written in a transaction only
(R212). -/
def State.odWritable (s : State) (src : OdSrc) (index sub : Nat) (data : List Byte) : Except Nat (OdEntry × Tgt) :=
  match odFind index sub with
  | .error st => .error st
  | .ok (e, t) =>
    if e.acc = .ro then .error odAccess
    else if (odService index sub).isSome && (s.txnOf src).isSome then .error odAccess
    else if index = 0x3030 && (s.txnOf src).isNone then .error odAccess
    else if (match e.len with | some n => decide (data.length ≠ n) | none => false) then .error odType
    else .ok (e, t)

/-- A whole write (R261). -/
def State.odWriteNow (src : OdSrc) (index sub : Nat) (data : List Byte) (s : State) : OdAnswer × State :=
  match s.odWritable src index sub data with
  | .error st => (odFail st, s)
  | .ok (e, t) =>
    if odGuarded index e data then
      match s.odGuard src index with
      | (true, s) => s.odApply index e t data
      | (false, s) => (odFail odLocked, s)
    else s.odApply index e t data

/-- The status a whole write would return, with no effect: how a staged write is checked (R272). -/
def State.odDry (s : State) (src : OdSrc) (index sub : Nat) (data : List Byte) : Nat := (s.odWriteNow src index sub data).1.1

/-- A WRITE moves at most 1,024 bytes (R259). -/
def tooLong (index sub : Nat) : Bool :=
  match odFind index sub with
  | .ok (e, _) => (match e.len with | some n => decide (1024 < n) | none => false)
  | .error _ => false

/-! ### Segmented transfers (R265-R267) -/

/-- A length in capture space. -/
def captureSize (n : Nat) : Nat := (n + 4095) / 4096 * 4096

/-- What a session takes of the capture space: a captured read its BLOB, a write its fixed length. -/
def Session.space (x : Session) : Nat :=
  if x.write then
    match odFind x.index.toNat x.sub.toNat with
    | .ok (e, _) => captureSize (e.len.getD 0)
    | .error _ => 0
  else if x.live then 0 else captureSize x.data.length

def OdSt.space (o : OdSt) : Nat := (o.sessions.map Session.space).sum + (o.txns.map fun (x : Txn) => captureSize x.stream.length).sum

/-- Whether one more session fits. -/
def OdSt.room (o : OdSt) (n : Nat) : Bool := decide (o.sessions.length < 8) && decide (o.space + captureSize n ≤ 524288)

def Session.on (src : OdSrc) (index : BitVec 16) (sub : Byte) (x : Session) : Bool := x.src == src && x.index == index && x.sub == sub

/-- Closes what a source holds on an entry. -/
def State.closeSession (src : OdSrc) (index : BitVec 16) (sub : Byte) (s : State) : State :=
  s.modOd fun o => { o with sessions := o.sessions.filter fun x => !x.on src index sub }

def State.putSession (x : Session) (s : State) : State :=
  (s.closeSession x.src x.index x.sub).modOd fun o => { o with sessions := o.sessions ++ [x] }

/-- A segment of a live read: the bins it covers, or part of the value as it stands. -/
def State.liveSegment (index : Nat) (e : OdEntry) (t : Tgt) (off : Nat) (s : State) : List Byte × State :=
  match index, t with
  | 0x7040, .ch n =>
    let r := s.histBytes n (off / 4) (if off % 4 = 0 then 255 else 256)
    (((r.1.drop (off % 4)).take 1020), r.2)
  | _, _ =>
    let r := s.odValue index e t
    ((r.1.drop off).take 1020, if off = 0 then r.2 else s)

/-- A SEG_READ. -/
def State.segRead (src : OdSrc) (index : BitVec 16) (sub : Byte) (data : List Byte) (s : State) : OdAnswer × State :=
  match odFind index.toNat sub.toNat with
  | .error st => (odFail st, s)
  | .ok (e, t) =>
    let off := ofBytesBE data
    if e.acc = .wo || t.many then (odFail odAccess, s)
    else if data.length ≠ 4 then (odFail odType, s)
    else
      let s := if off = 0 then s.closeSession src index sub else s
      let answer (x : Session) (len : Nat) (seg : List Byte) (s : State) : OdAnswer × State :=
        let s := s.putSession { x with last := s.now }
        ((odOk, data ++ seg), if off + seg.length = len then s.closeSession src index sub else s)
      if off = 0 then
        let len := s.odLen index.toNat e t
        if len = 0 then (odFail odRange, s)
        else if len ≤ 262144 then
          if s.od.room len then
            let r := s.odValue index.toNat e t
            let x : Session := { src := src, index := index, sub := sub, write := false, live := false, data := r.1, last := s.now }
            answer x r.1.length (r.1.take 1020) r.2
          else (odFail odNoRes, s)
        else if s.od.room 0 then
          let r := s.liveSegment index.toNat e t 0
          let x : Session := { src := src, index := index, sub := sub, write := false, live := true, data := [], last := s.now }
          answer x len r.1 r.2
        else (odFail odNoRes, s)
      else
        match s.od.sessions.find? fun x => x.on src index sub && !x.write with
        | none => (odFail odRange, s)
        | some x =>
          if x.live then
            let len := s.odLen index.toNat e t
            if off ≥ len then (odFail odRange, s)
            else let r := s.liveSegment index.toNat e t off; answer x len r.1 r.2
          else if off ≥ x.data.length then (odFail odRange, s)
          else answer x x.data.length ((x.data.drop off).take 1020) s

/-- What a segment does to the bytes a write session has received (R266). -/
inductive SegStep where
  | more (buf : List Byte)
  | complete (buf : List Byte)
  | bad (st : Nat)
  deriving DecidableEq, Repr

def segStep (len : Option Nat) (have_ : Option (List Byte)) (off : Nat) (d : List Byte) : SegStep :=
  let buf := if off = 0 then some [] else have_
  match buf with
  | none => .bad odRange
  | some b =>
    if off ≠ b.length then .bad odRange
    else match len with
      | some n =>
        let b := b ++ d
        if b.length > n then .bad odType else if b.length = n then .complete b else .more b
      | none => if d.isEmpty then .complete b else .more (b ++ d)

/-- A SEG_WRITE's offset and bytes. -/
def segParts (data : List Byte) : Nat × List Byte := (ofBytesBE (data.take 4), data.drop 4)

/-- The checks a SEG_WRITE meets at each segment: the rest wait for completion. -/
def segOpen (index sub : Nat) (data : List Byte) : Except Nat OdEntry :=
  match odFind index sub with
  | .error st => .error st
  | .ok (e, _) => if e.acc = .ro then .error odAccess else if data.length < 4 then .error odType else .ok e

/-- A SEG_WRITE outside a transaction. -/
def State.segWrite (src : OdSrc) (index : BitVec 16) (sub : Byte) (data : List Byte) (s : State) : OdAnswer × State :=
  match segOpen index.toNat sub.toNat data with
  | .error st => (odFail st, s)
  | .ok e =>
    let p := segParts data
    let old := s.od.sessions.find? fun x => x.on src index sub && x.write
    let s := if p.1 = 0 then s.closeSession src index sub else s
    if p.1 = 0 && !s.od.room (e.len.getD 0) then (odFail odNoRes, s)
    else match segStep e.len (old.map (·.data)) p.1 p.2 with
      | .bad st => (odFail st, s.closeSession src index sub)
      | .more b =>
        (odFail odOk, s.putSession { src := src, index := index, sub := sub, write := true, live := false, data := b, last := s.now })
      | .complete b => (s.closeSession src index sub).odWriteNow src index.toNat sub.toNat b

/-- A session has seen no segment for 1 s. -/
def State.sessionTimeout (k : Nat) (s : State) : State :=
  match s.od.sessions[k]? with
  | none => s
  | some x => (s.reach (x.last + tkSec)).modOd fun o => { o with sessions := o.sessions.eraseIdx k }

/-! ### Configuration transactions (R272-R275) -/

/-- A command as the staged stream holds it: its header with STATUS 0, its data padded. -/
def OdCmd.stream (c : OdCmd) : List Byte :=
  [c.cmd, 0#8] ++ bytesBE 2 c.index.toNat ++ [c.sub, 0#8] ++ bytesBE 2 c.data.length ++ c.data ++
  List.replicate ((4 - c.data.length % 4) % 4) 0#8

/-- A whole write that a staged stream makes. -/
structure StagedWrite where
  index : BitVec 16
  sub : Byte
  data : List Byte
  deriving DecidableEq, Repr

/-- Follows the segments of a stream: the whole writes, and what is open of each entry. -/
def stagedStep (r : List StagedWrite × List StagedWrite) (c : OdCmd) : List StagedWrite × List StagedWrite :=
  if c.cmd = 2#8 then (r.1 ++ [⟨c.index, c.sub, c.data⟩], r.2)
  else
    let same (x : StagedWrite) : Bool := x.index == c.index && x.sub == c.sub
    let p := segParts c.data
    let others := r.2.filter fun x => !same x
    let len := match odFind c.index.toNat c.sub.toNat with | .ok (e, _) => e.len | .error _ => none
    match segStep len ((r.2.find? same).map (·.data)) p.1 p.2 with
    | .more b => (r.1, others ++ [⟨c.index, c.sub, b⟩])
    | .complete b => (r.1 ++ [⟨c.index, c.sub, b⟩], others)
    | .bad _ => (r.1, others)

def stagedWrites (cs : List OdCmd) : List StagedWrite × List StagedWrite := cs.foldl stagedStep ([], [])

/-- The status of a command that is staged (R272): that of the write it makes or completes. -/
def State.stageStatus (s : State) (x : Txn) (c : OdCmd) : Nat :=
  if c.cmd = 2#8 then
    if tooLong c.index.toNat c.sub.toNat then odType else s.odDry x.src c.index.toNat c.sub.toNat c.data
  else
    match segOpen c.index.toNat c.sub.toNat c.data with
    | .error st => st
    | .ok e =>
      let p := segParts c.data
      let open_ := (stagedWrites x.cmds).2.find? fun w => w.index == c.index && w.sub == c.sub
      match segStep e.len (open_.map (·.data)) p.1 p.2 with
      | .bad st => st
      | .more _ => odOk
      | .complete b => s.odDry x.src c.index.toNat c.sub.toNat b

/-- A WRITE or SEG_WRITE from a source with an open transaction (R272, R275). -/
def State.stageCmd (x : Txn) (c : OdCmd) (s : State) : OdAnswer × State :=
  let bytes := c.stream
  let grown := captureSize (x.stream.length + bytes.length) - captureSize x.stream.length
  let st0 := s.stageStatus x c
  let st := if st0 ≠ odOk then st0
    else if x.stream.length + bytes.length > 262144 then odRange
    else if s.od.space + grown > 524288 then odNoRes else odOk
  let x' := if st = odOk then { x with cmds := x.cmds ++ [c], stream := x.stream ++ bytes, last := s.now }
    else { x with failed := x.failed.or (some st), last := s.now }
  (odAnswer st, s.modOd fun o => { o with txns := o.txns.map fun y => if y.src == x.src then x' else y })

/-- Applies a stream's writes at one instant, in order; none where one of them is BUSY. -/
def State.applyStream (ws : List StagedWrite) (s : State) : Option State :=
  let c := s.clk
  let r := ws.foldl (fun (r : Option (State × Nat)) w =>
    match r, odFind w.index.toNat w.sub.toNat with
    | some (s, t), .ok (e, tg) =>
      let x := ({ s with clk := c } : State).odApply w.index.toNat e tg w.data
      if x.1.1 = odBusy then none else some (x.2, max t x.2.now)
    | _, _ => r) (some (s, s.now))
  r.map fun x => { x.1 with clk := x.1.clk.at x.2 }

def State.dropTxn (src : OdSrc) (s : State) : State := s.modOd fun o => { o with txns := o.txns.filter fun x => x.src != src }

/-- Judges the guarded writes of a commit, which counts as one guarded write of a mailbox's path (R274). -/
def State.commitMay (src : OdSrc) (ws : List StagedWrite) (s : State) : Bool × State :=
  let guarded := ws.filter fun w => match odFind w.index.toNat w.sub.toNat with
    | .ok (e, _) => odGuarded w.index.toNat e w.data
    | .error _ => false
  match src with
  | .node _ =>
    if guarded.all fun w => s.nodeMay w.index.toNat then (true, s) else (false, s.raise 0 F.PRT_STAT_GUARD_REJ)
  | .mailbox p => if guarded.isEmpty then (true, s) else s.guard p

/-- COMMIT of a transaction, whose check word is `check` (R273, R274). -/
def State.commit (x : Txn) (check : Nat) (s : State) : OdAnswer × State :=
  let s := s.dropTxn x.src
  if (crc32 x.stream).toNat ≠ check then (odFail odCheck, s)
  else match x.failed with
    | some st => (odAnswer st, s)
    | none =>
      let ws := (stagedWrites x.cmds).1
      let g := s.commitMay x.src ws
      if !g.1 then (odFail odLocked, g.2)
      else match g.2.applyStream ws with
        | some s' => ((odOk, bytesBE 4 x.cmds.length), s')
        | none => (odBusyUnknown, g.2)

/-- TXN BEGIN (R275). -/
def State.txnBegin (src : OdSrc) (xid : BitVec 16) (s : State) : OdAnswer × State :=
  if (s.txnOf src).isSome then (odFail odRange, s)
  else if s.od.txns.length ≥ 2 then (odFail odNoRes, s)
  else
    let x : Txn := { src := src, xid := xid, cmds := [], stream := [], failed := none, last := s.now }
    (odFail odOk, s.modOd fun o => { o with txns := o.txns ++ [x] })

/-- TXN COMMIT. -/
def State.txnCommit (src : OdSrc) (xid : BitVec 16) (check : Nat) (s : State) : OdAnswer × State :=
  match s.txnOf src with
  | some x => if x.xid = xid then s.commit x check else (odFail odRange, s)
  | none => (odFail odRange, s)

/-- TXN ABORT. -/
def State.txnAbort (src : OdSrc) (xid : BitVec 16) (s : State) : OdAnswer × State :=
  match s.txnOf src with
  | some x => if x.xid = xid then (odFail odOk, s.dropTxn src) else (odFail odRange, s)
  | none => (odFail odRange, s)

/-- A TXN command's data (R272). -/
def State.txn (src : OdSrc) (data : List Byte) (s : State) : OdAnswer × State :=
  let xid : BitVec 16 := BitVec.ofNat 16 (field data 2 2)
  if data.length ≠ 8 then (odFail odType, s)
  else match field data 0 1 with
    | 1 => s.txnBegin src xid
    | 2 => s.txnCommit src xid (field data 4 4)
    | 3 => s.txnAbort src xid
    | _ => (odFail odRange, s)

/-- A transaction has had no command for 10 s. -/
def State.txnTimeout (src : OdSrc) (s : State) : State :=
  match s.txnOf src with
  | some x => (s.reach (x.last + 10 * tkSec)).dropTxn src
  | none => s

/-! ### One command -/

/-- The 16 bytes of IDENT. -/
def State.identBytes (s : State) : List Byte :=
  bytesBE 2 s.nodeId ++ bytesBE 2 s.odState ++ wordBytes s.fuses.ident ++ wordBytes (s.w R.TB_RUN_ID) ++ bytesBE 4 0

/-- What start-up or the boot responder answers in place of the command, if anything (R247, R261). -/
def State.odWaits (c : OdCmd) (s : State) : Option OdAnswer × State :=
  let cmd := c.cmd.toNat
  let index := c.index.toNat
  let reads := decide (cmd = 1) || decide (cmd = 3)
  if cmd = 6 || (reads && odIdentity index) then (none, s)
  else if !s.ready then let r := s.readyMs; (some (odBusy, r.1), r.2)
  else if !s.imageRuns && decide (1 ≤ cmd) && decide (cmd ≤ 4) && (odListed index).isSome && !odIdentity index &&
    !(decide (0x7200 ≤ index) && decide (index ≤ 0x7203)) then
    -- a service call before the image runs gives the estimated time (R302)
    if (odService index 0).isSome && !s.fb 0 F.DEV_SVC_STAT_NOIMG then
      let d := s.fresh; (some (odBusy, bytesBE 4 (Config.busyMs d.1 % 2 ^ 32)), d.2)
    else (some odBusyUnknown, s)
  else (none, s)

/-- Runs a command that start-up admits. -/
def State.odDo (src : OdSrc) (c : OdCmd) (s : State) : OdAnswer × State :=
  let index := c.index.toNat
  let sub := c.sub.toNat
  match c.cmd.toNat with
  | 1 => s.odRead index sub c.data
  | 2 => match s.txnOf src with
    | some x => s.stageCmd x c
    | none => if (odFind index sub).isOk && tooLong index sub then
        (odFail (match s.odWritable src index sub c.data with | .error 4 => odAccess | _ => odType), s)
      else s.odWriteNow src index sub c.data
  | 3 => if odListed index = some false then (odFail odBadCmd, s) else s.segRead src c.index c.sub c.data
  | 4 => if odListed index = some false then (odFail odBadCmd, s)
    else match s.txnOf src with
      | some x => s.stageCmd x c
      | none => s.segWrite src c.index c.sub c.data
  | 5 => s.txn src c.data
  | 6 => if c.data.isEmpty then ((odOk, s.identBytes), s) else (odFail odType, s)
  | _ => (odFail odBadCmd, s)

/-- One dictionary command from a source (R245, R261); nothing serves it while Indigo restarts. -/
def State.odRun (src : OdSrc) (c : OdCmd) (s : State) : OdAnswer × State :=
  match s.odWaits c with
  | (some a, s) => (a, s)
  | (none, s) => s.odDo src c

/-- A command that arrives by itself: the server's answer stands in the state. -/
def State.odCommand (src : OdSrc) (c : OdCmd) (s : State) : State :=
  if !s.indigo.serving then s
  else let r := s.odRun src c; r.2.modOd fun o => { o with answer := r.1 }

/-! ### Ulidjaif data (R244) -/

/-- A parsed request. -/
structure UldReq where
  dst : Nat
  src : Nat
  ackreq : Bool
  tid : BitVec 16
  cmds : List OdCmd
  deriving DecidableEq, Repr

/-- Reads `n` commands from exactly these bytes. -/
def parseCmds : Nat → List Byte → Option (List OdCmd)
  | 0, b => if b.isEmpty then some [] else none
  | n + 1, b =>
    let dlen := field b 6 2
    let whole := 8 + (dlen + 3) / 4 * 4
    if b.length < whole || decide (1024 < dlen) then none
    else
      let c : OdCmd := { cmd := BitVec.ofNat 8 (field b 0 1), index := BitVec.ofNat 16 (field b 2 2),
                         sub := BitVec.ofNat 8 (field b 4 1), data := (b.drop 8).take dlen }
      (parseCmds n (b.drop whole)).map (c :: ·)

/-- Reads Ulidjaif data from its DST field on; none where it is no request. -/
def parseUld (b : List Byte) : Option UldReq :=
  let v := field b 4 1
  let n := field b 5 1
  let len := field b 8 2
  if decide (b.length < 12 + len) || decide (v / 16 ≠ 1) || decide (v / 8 % 2 = 1) || decide (n = 0) || decide (16 < n) ||
    decide (len < 8) || decide (1488 < len) then none
  else (parseCmds n ((b.drop 12).take len)).map fun cs =>
    { dst := field b 0 2, src := field b 2 2, ackreq := decide (v / 4 % 2 = 1), tid := BitVec.ofNat 16 (field b 6 2), cmds := cs }

/-- A command's answer in a response: its header with the status, and data padded. -/
def answerBytes (c : OdCmd) (a : OdAnswer) : List Byte :=
  [c.cmd, BitVec.ofNat 8 a.1] ++ bytesBE 2 c.index.toNat ++ [c.sub, 0#8] ++ bytesBE 2 a.2.length ++ a.2 ++
  List.replicate ((4 - a.2.length % 4) % 4) 0#8

/-- The commands of a frame in order: after the first failure the rest are SKIPPED (R245). -/
def State.odCmds (src : OdSrc) : Bool → List OdCmd → State → List Byte × State
  | _, [], s => ([], s)
  | true, c :: t, s =>
    let r := State.odCmds src true t s
    (answerBytes c (odFail odSkipped) ++ r.1, r.2)
  | false, c :: t, s =>
    let a := s.odRun src c
    let s := a.2.modOd fun o => { o with answer := a.1 }
    let r := State.odCmds src (decide (a.1.1 ≠ odOk)) t s
    (answerBytes c a.1 ++ r.1, r.2)

/-- A response: 12-byte header and the commands' answers. -/
def State.uldResponse (s : State) (src : OdSrc) (q : UldReq) (body : List Byte) : List Byte :=
  bytesBE 2 src.id ++ bytesBE 2 s.nodeId ++ [0x18#8] ++ bytesBE 1 q.cmds.length ++ bytesBE 2 q.tid.toNat ++
  bytesBE 2 body.length ++ bytesBE 2 0 ++ body

/-- The response a source's request with this TID is answered with again, within 1 s (R246). -/
def State.keptFor (s : State) (src : OdSrc) (tid : BitVec 16) : Option Kept :=
  s.od.kept.find? fun k => k.src == src && k.tid == tid && decide (s.now ≤ k.at_ + tkSec)

/-- Keeps a response: one for each of the 32 most recent sources. -/
def State.keep (src : OdSrc) (tid : BitVec 16) (resp : List Byte) (s : State) : State :=
  s.modOd fun o => { o with kept := ({ src := src, tid := tid, resp := resp, at_ := s.now } :: o.kept.filter fun k => k.src != src).take 32 }

/-- A request runs, or is answered from a kept response. -/
def State.uldRun (src : OdSrc) (q : UldReq) (answered : Bool) (s : State) : List Byte × State :=
  match s.keptFor src q.tid with
  | some k => (k.resp, s.raise 0 F.NET_STAT_DUP)
  | none =>
    let r := State.odCmds src false q.cmds s
    let resp := r.2.uldResponse src q r.1
    (resp, if answered then r.2.keep src q.tid resp else r.2)

/-! ### Frames from the field network -/

/-- Whether a DST names this node (R243), and whether it names it alone. -/
def State.dstHere (s : State) (dst : Nat) : Option Bool :=
  if dst = s.nodeId then some true
  else if dst = 0xFFFF then some false
  else if 0xFF00 ≤ dst ∧ dst < 0xFF10 ∧ (F.NET_NODE_GRP.of (s.w R.NET_NODE)).testBit (dst - 0xFF00) then some false
  else none

/-- A frame for this node that is discarded: counted, with a flag where one reports it (R241, R245,
R247). -/
def State.uldDrop (flag : Option Fld) (s : State) : State :=
  let s := s.count R.NET_ULDDROP_H 1
  match flag with
  | some f => s.raise 0 f
  | none => s

/-- The response frame: to the request's sender, from the port's own address, with the request's VLAN
tag, padded to the minimum (R243). -/
def State.uldEth (s : State) (p : Port) (req resp : List Byte) : List Byte :=
  let o := (ethType req).2
  let mac := (F.NET_MAC_H_MAC.of (s.w R.NET_MAC_H)) * 2 ^ 32 + (s.w R.NET_MAC_L).toNat + p.idx
  (req.drop 6).take 6 ++ bytesBE 6 mac ++ (req.drop 12).take (o - 12) ++ resp ++ List.replicate (46 - resp.length) 0#8

/-- A Ulidjaif frame arrives at a port. A group or broadcast frame is answered where ACKREQ is 1. -/
def State.uldFrame (p : Port) (f : EthFrame) (s : State) : State :=
  match (if s.portUp p && ethAccepted f.bytes then (s.uldDst f.bytes).bind s.dstHere else none) with
  | none => s
  | some alone =>
    if !f.fcsOk then s.uldDrop none
    else if !s.boot.responder then s.uldDrop (some F.NET_STAT_EARLY)
    else if !s.indigo.serving then s.uldDrop none
    else match parseUld (f.bytes.drop (ethType f.bytes).2) with
      | none => s.uldDrop (some F.NET_STAT_ULD_DROP)
      | some q =>
        if 0xFF00 ≤ q.src then s.uldDrop (some F.NET_STAT_ULD_DROP)
        else
          let s := s.count R.NET_ULDRX_H 1
          let answered := alone || q.ackreq
          let r := s.uldRun (.node (BitVec.ofNat 16 q.src)) q answered
          if answered then r.2.sendOwn p (.ulidjaif (r.2.uldEth p f.bytes r.1)) else r.2

/-! ### The mailbox (R268) -/

/-- The 1,500 bytes of DEV_ODM_BUF. -/
def State.mailboxBytes (s : State) : List Byte := (List.range 375).flatMap fun k => wordBytes (s.w (R.DEV_ODM_BUF + 4 * k))

/-- Writes an answer over the request. -/
def State.putMailbox (b : List Byte) (s : State) : State :=
  let b := b ++ List.replicate ((4 - b.length % 4) % 4) 0#8
  s.forAll ((wordsOf b).take 375).zipIdx fun p s => s.setW (R.DEV_ODM_BUF + 4 * p.2) p.1

/-- Serves a waiting mailbox request, once the dictionary is served. -/
def State.serveMailbox (s : State) : State :=
  match s.od.mailbox with
  | none => s
  | some p =>
    if !s.indigo.serving then s
    else
      let s := s.modOd fun o => { o with mailbox := none }
      let s := match parseUld s.mailboxBytes with
        | some q => let r := s.uldRun (.mailbox p) q true; r.2.putMailbox r.1
        | none => s
      (s.setF 0 F.DEV_ODM_CTL_BUSY 0).raise 0 F.DEV_ODM_CTL_DONE

end Sys2Proof.Machine
end

