-- ==== Sys2Proof/Machine/PathOps.lean ====
section
/-!
DEFINITION. How accesses arrive: register writes and reads of the paths with the mailbox served
behind them, REG requests of the host link (R233, R234), LCP transactions (R286, R287), and the
commit of a configuration image (R306).
-/

namespace Sys2Proof.Machine

/-- A register write by a path; a mailbox request that it makes is served. -/
def State.pathWrite (p : Path) (a : Nat) (be : BitVec 4) (w : Word) (s : State) : Resp × State :=
  let r := s.writeReg p a be w
  (r.1, r.2.serveMailbox)

def State.pathRead (p : Path) (a : Nat) (be : BitVec 4) (s : State) : Resp × Word × State := s.readReg p a be

/-- A full-word write of a row that stands for one register. -/
def State.wr (p : Path) (a : Nat) (w : Word) (s : State) : State := (s.pathWrite p a 0xF#4 w).2

/-! ### REG requests (R233, R234) -/

/-- A REG request: `op` is its OP code, `count` its COUNT - 1 field. -/
structure RegMsg where
  op : BitVec 4
  tag : BitVec 12
  count : BitVec 6
  be : BitVec 4
  step : BitVec 2
  addr : BitVec 24
  data : List Word
  deriving DecidableEq, Repr

def RegMsg.words (m : RegMsg) : Nat := m.count.toNat + 1
def RegMsg.isWrite (m : RegMsg) : Bool := m.op == 2#4 || m.op == 3#4 || m.op == 5#4
def RegMsg.direct (m : RegMsg) : Bool := m.op == 4#4 || m.op == 5#4

/-- The bytes of the request on the link. -/
def RegMsg.bytes (m : RegMsg) : Nat := 8 + (if m.isWrite then 4 * m.words else 0)

/-- STATUS 0x03: COUNT or BE names no access. -/
def RegMsg.bad (m : RegMsg) : Bool :=
  decide (62 < m.words) || (m.direct && decide (m.words ≠ 1)) ||
  (if m.words = 1 then !beNames m.be else decide (m.be ≠ 0xF#4))

/-- What a request did: words done, data read, and the status and address of a refused word. -/
structure RegDone where
  done : Nat
  data : List Word
  status : Nat
  faddr : Nat
  deriving DecidableEq, Repr

/-- The STATUS of a refused access. -/
def Resp.status : Resp → Nat
  | .ok => 0
  | .refused => 1
  | .guarded => 2

/-- Performs `n` reads from address `a` on; stops at the first that is refused. -/
def State.regReads (be : BitVec 4) (step : Nat) : Nat → Nat → RegDone → State → RegDone × State
  | 0, _, d, s => (d, s)
  | n + 1, a, d, s =>
    match s.pathRead .host a be with
    | (.ok, w, s) => State.regReads be step n (stepAddr step a) { d with done := d.done + 1, data := d.data ++ [w] } s
    | (r, _, s) => ({ d with status := r.status, faddr := a }, s)

/-- Performs writes from address `a` on; stops at the first that is refused. -/
def State.regWrites (be : BitVec 4) (step : Nat) : List Word → Nat → RegDone → State → RegDone × State
  | [], _, d, s => (d, s)
  | w :: t, a, d, s =>
    match s.pathWrite .host a be w with
    | (.ok, s) => State.regWrites be step t (stepAddr step a) { d with done := d.done + 1 } s
    | (r, s) => ({ d with status := r.status, faddr := a }, s)

/-- The response word and the data behind it. -/
def RegMsg.response (m : RegMsg) (d : RegDone) : List Byte :=
  bytesBE 8 (8 * 2 ^ 60 + m.tag.toNat * 2 ^ 48 + m.count.toNat * 2 ^ 42 + m.be.toNat * 2 ^ 38 + d.done * 2 ^ 32 +
    d.status * 2 ^ 24 + d.faddr) ++ d.data.flatMap wordBytes

/-- A request is carried out, and answered. -/
def State.regServe (m : RegMsg) (s : State) : State :=
  let s := s.takeContent .host .reg m.bytes
  let none_ : RegDone := { done := 0, data := [], status := 0, faddr := 0 }
  let r : RegDone × State :=
    if m.bad then ({ none_ with status := 3, faddr := m.addr.toNat }, s)
    else if m.direct && !s.tvB 0 F.DEV_MODE_DIRECT_EN then
      ({ none_ with status := 1, faddr := m.addr.toNat }, s.accFault .host causePath m.addr.toNat)
    else if m.isWrite then s.regWrites m.be m.step.toNat (m.data.take m.words) m.addr.toNat none_
    else s.regReads m.be m.step.toNat m.words m.addr.toNat none_
  (if m.op = 2#4 && decide (r.1.status = 0) then r.2 else r.2.send .host .reg (m.response r.1) .none).refuseBadOps

/-- The requests of the host link run in order of arrival; a posted WRITE is answered only if it is
refused (R234). A DIRECT operation with DEV_MODE.DIRECT_EN = 0 is refused. While the partner's credit holds
the responses, requests wait (R228). -/
def State.regRequest (m : RegMsg) (s : State) : State :=
  if s.classStalls .host .reg then s else s.regServe m

/-! ### The LCP (R285-R287) -/

/-- The words of a WRITE transaction in order, until one is refused. -/
def State.lcpWrites (step : Nat) : List Word → Nat → State → State
  | [], _, s => s
  | w :: t, a, s =>
    match s.pathWrite .lcp a 0xF#4 w with
    | (.ok, s) => State.lcpWrites step t (stepAddr step a) s
    | (r, s) => { s with lcp := { s.lcp with err := true, code := BitVec.ofNat 2 r.status, addr := BitVec.ofNat 24 a } }

/-- The words that a READ transaction returns; 0 from a refused one on. -/
def State.lcpReads (step : Nat) : Nat → Nat → State → List Word × State
  | 0, _, s => ([], s)
  | n + 1, a, s =>
    match s.pathRead .lcp a 0xF#4 with
    | (.ok, w, s) => let r := State.lcpReads step n (stepAddr step a) s; (w :: r.1, r.2)
    | (r, _, s) =>
      (List.replicate (n + 1) 0#32,
       { s with lcp := { s.lcp with err := true, code := BitVec.ofNat 2 r.status, addr := BitVec.ofNat 24 a } })

/-- The status of the previous transaction, as SDO carries it during a command word. -/
def LcpSt.status (l : LcpSt) : Word :=
  BitVec.ofNat 32 (2 ^ 31 + bit l.err * 2 ^ 30 + l.code.toNat * 2 ^ 28 + l.addr.toNat)

/-- A transaction begins: SDO carries the last one's status, and its own begins clear. -/
def State.lcpBegin (s : State) : Word × State := (s.lcp.status, { s with lcp := LcpSt.reset })

/-- A READ transaction of `n` words. -/
def State.lcpRead (step a n : Nat) (s : State) : State :=
  if !s.boot.lcp then s
  else
    let b := s.lcpBegin
    let r := b.2.lcpReads step n a
    { r.2 with lcp := { r.2.lcp with sdo := b.1 :: 0#32 :: r.1 } }

/-- A WRITE transaction. -/
def State.lcpWrite (step a : Nat) (data : List Word) (s : State) : State :=
  if !s.boot.lcp then s
  else
    let b := s.lcpBegin
    let s := b.2.lcpWrites step data a
    { s with lcp := { s.lcp with sdo := [b.1] } }

/-- A STATUS transaction: no access. -/
def State.lcpStatus (s : State) : State :=
  if !s.boot.lcp then s else let b := s.lcpBegin; { b.2 with lcp := { b.2.lcp with sdo := [b.1] } }

/-- LCP_CS_N rises: within a word, or behind an unknown OP, the transaction ends with code 0b11. -/
def State.lcpRise (partial_ : Bool) (s : State) : State :=
  if s.boot.lcp && partial_ then { s with lcp := { s.lcp with err := true, code := 3#2 } } else s

/-! ### The configuration commit (R306) -/

/-- One record: a 32-bit write in which SC fields and PRT_UNLOCK are left out, and guarded fields need
no unlock. -/
def State.commitRecord (a : Nat) (w : Word) (s : State) : State :=
  let l := locate a
  if l.space = .bcast ∨ l.space = .group then
    match chanRows.find? fun r => r.covers l.off with
    | some r => if l.off < 0x800 && r.imaged then s.sameCycle (s.members l) fun n s => s.writeChan .indigo n l.off r (w &&& ~~~r.sc) else s
    | none => s
  else if l.space = .active || a = R.PRT_UNLOCK || a = R.ID then s
  else match rowAt a with
    | none => s
    | some r => if r.imaged then s.writeOwn .indigo l a r 0xFFFFFFFF#32 (w &&& ~~~r.sc) else s

def recordsOf : List Word → List (Nat × Word)
  | a :: d :: t => (bitsGet a 0 24, d) :: recordsOf t
  | _ => []

/-- The chosen image is committed, and CFG_DONE is set in the same cycle (R306). -/
def State.configCommit (s : State) : State :=
  if s.cfgDone then s
  else match s.boot.choice with
    | none => s
    | some c =>
      let b : Option Nat := match c with | .slotA => some 0 | .slotB => some 1 | .defaults => none
      match b with
      | none => (s.setF 0 F.DEV_STAT_CFG_DONE 1).raise 0 F.DEV_STAT_CFG_DEFAULTED
      | some k =>
        let s := s.sameCycle (recordsOf (s.cfgClass k).2) fun r s => s.commitRecord r.1 r.2
        ((s.setF 0 F.DEV_CFG_STAT_SLOT (k + 1)).setW R.DEV_CFG_SEQ (BitVec.ofNat 32 (s.slotSeq (cfgSlot k)))).setF 0 F.DEV_STAT_CFG_DONE 1

end Sys2Proof.Machine
end

