-- ==== Sys2Proof/Machine/RowOps.lean ====
section
/-!
DEFINITION. The operations that rows of the command table name and that join parts of several
chapters: command bits, dictionary writes as a whole, and events whose parts stand in earlier files.
-/

namespace Sys2Proof.Machine

/-! ### Register writes that rows stand for -/

/-- A command bit of a register is written 1 by the host link, its RW fields written as they stand. -/
def State.wrCmd (a : Nat) (f : Fld) (s : State) : State :=
  match rowAt a with
  | some r => s.wr .host a (f.into (s.w a &&& r.rw) 1)
  | none => s

/-- An aperture's address (R283): broadcast, or group g. -/
def apertureAt (group : Option (Fin 16)) (off : BitVec 12) : Nat :=
  match group with
  | none => 0x1C0000 + off.toNat
  | some g => 0x1D0000 + g.val * 0x1000 + off.toNat

/-- An access to ID (R284). -/
def State.indirect (p : Path) (write : Bool) (w : Word) (s : State) : State :=
  if write then s.wr p R.ID w else (s.pathRead p R.ID 0xF#4).2.2

/-- An unlock of a path lapses (R292). -/
def State.pathLapse (p : Path) (s : State) : State :=
  match lockOf p with
  | some i => s.unlockLapse i
  | none => s

/-! ### Dictionary writes as a whole -/

/-- A whole write of an entry from a source, by WRITE or completed segments, with its answer. -/
def State.odWhole (src : OdSrc) (index : BitVec 16) (sub : Byte) (data : List Byte) (s : State) : State :=
  if !s.indigo.serving then s
  else
    let r := match s.odWaits { cmd := 4#8, index := index, sub := sub, data := data } with
      | (some a, s) => (a, s)
      | (none, s) => s.odWriteNow src index.toNat sub.toNat data
    r.2.modOd fun o => { o with answer := r.1 }

/-- A TXN command (R272). -/
def txnCmd (op : Nat) (xid : BitVec 16) (check : Word) : OdCmd :=
  { cmd := 5#8, index := 0#16, sub := 0#8, data := bytesBE 1 op ++ [0#8] ++ bytesBE 2 xid.toNat ++ wordBytes check }

/-! ### Timebase -/

/-- 20 ms have passed with REFIN unqualified (R32): a running crystal may then give the first lock. -/
def State.lockTimeout (s : State) : State :=
  if s.clk.running || s.refQual || !s.boot.released then s else s.setTb { s.tb with timedOut := true }

/-- The crystal's amplitude is back (R31): the fallback and drift supervision are available again. -/
def State.xtalReturn (s : State) : State := if s.boot.lcp then s.setF 0 F.TB_STAT_XTAL_OK 1 else s

/-! ### Thresholds and spares -/

/-- A LOAD_N low of `ns`: seen from 5 ns on, with EN_LOAD = 1 (R66, R67). -/
def State.loadPin (ns : Nat) (s : State) : State :=
  if s.fb 0 F.DEV_TDAC_ARR_EN_LOAD && decide (5 ≤ ns) then s.loadEdge else s

/-- A STROBE message is taken (R66, R231): with EN_MSG = 1 it strobes. -/
def State.strobeMsg (s : State) : State :=
  let s := s.takeContent .pattern .event 16
  if s.fb 0 F.DEV_TDAC_ARR_EN_MSG then s.arrayStrobe s.clockAfter else s

/-- The overlap check of a handover ends (R70, R72, R311). -/
def State.handoverChecked (p : Spare) (o : Overlap) (s : State) : State :=
  if (s.spare p).stage ≠ 3 then s
  else
    let s := s.overlapEnd p o
    if o.handoverPass then s.handoverPassed p o else s.checkFailed p

/-- A repair handover that completes ends the policy's retry. -/
def State.retryDone (p : Spare) (s : State) : State :=
  if s.spState p = 2 && s.spOwner p = 1 then s.setSpare p { s.spare p with retryAt := none, retried := false } else s

def State.handoverMoved (p : Spare) (s : State) : State := (s.handoverMove p).retryDone p
def State.handoverCut (p : Spare) (s : State) : State := (s.handoverForce p).retryDone p

/-! ### Blind intervals -/

/-- Occupancy has fallen to 64 (R88). -/
def State.ovfUnmask (n : Ch) (s : State) : State :=
  let c := s.chan n
  match c.blind with
  | some b =>
    if b.ovfWait && decide (c.fifo.length ≤ 64) then
      (s.setChan n { c with blind := some { b with ovfWait := false } }).tryEndBlind n
    else s
  | none => s

/-- A blind interval's time is over (R60). -/
def State.blindEnd (n : Ch) (s : State) : State :=
  match (s.chan n).blind with
  | some b => (s.reach b.endBy).tryEndBlind n
  | none => s

/-! ### Descriptors and pulses -/

def DescHead.desc (h : DescHead) (k : DescKind) : Desc :=
  { seq := h.seq, tag := h.tag, pol := h.pol, action := h.action, profile := h.profile, texp := h.texp, kind := k }

/-- A pulse ends: outputs 0 and 1 are TRIG_OUT0 and 1, 2 to 9 are STL0 to 7. -/
def State.pulseEnd (out : Fin 10) (s : State) : State :=
  if out.val < 2 then s.outEnd ⟨out.val % 2, Nat.mod_lt _ (by decide)⟩ else s.stlEnd ⟨(out.val - 2) % 8, Nat.mod_lt _ (by decide)⟩

/-! ### Ochre's own stores (R216) -/

/-- Ochre calls CALSTORE; where Indigo has no image, or the queue is full, STORE_FAIL is set. -/
def State.autoStore (s : State) : State :=
  if !s.imageRuns then s.raise 0 F.CAL_STAT_STORE_FAIL
  else match s.queueCall 5 (List.replicate 12 0#8) true with
    | (some _, s) => s
    | (none, s) => s.raise 0 F.CAL_STAT_STORE_FAIL

/-- A store is due every ASTORE hours, counted from the end of the first full calibration. With
ASTORE = 0, and before that end, none is. -/
def State.autoStoreDue (s : State) : State :=
  let h := s.f 0 F.CAL_CTL_ASTORE * 3600 * tkSec
  match s.boot.calEnd with
  | none => s
  | some (e, last) =>
    if h = 0 then s
    else
      let k := max ((last - e) / h + 1) ((s.now - e + h - 1) / h)
      let s := s.reach (e + k * h)
      ({ s with boot := { s.boot with calEnd := some (e, e + k * h) } } : State).autoStore

/-- The first full calibration ends (R210, R216). -/
def State.bootCalEnd (sides : List BootSide) (thrs : List (FrontEnd × ThrVals)) (s : State) : State :=
  if s.fb 0 F.CAL_STAT_BOOT_DONE || !s.boot.calChosen || !s.clk.running then s
  else
    let s := s.bootCal sides thrs
    let s := if s.fb 0 F.CAL_STAT_BOOT_DONE then { s with boot := { s.boot with calEnd := some (s.now, s.now) } } else s
    if s.fb 0 F.CAL_STAT_NOSNAP && s.fb 0 F.CAL_STAT_BOOT_DONE && s.f 0 F.CAL_CTL_ASTORE ≠ 0 then s.autoStore else s

end Sys2Proof.Machine
end

