-- ==== Sys2Proof/Machine/Calibration.lean ====
section
/-!
DEFINITION. The meanings of the commands of Ochre (spec/09).
-/

namespace Sys2Proof.Machine

/-- CAL_SLOT_CHOOSE (R214). -/
def execCalSlotChoose (s : State) : Host.Outcome State Fault Refusal :=
  .next (s.calChoose)

/-- BOOT_CAL_DONE (R210). -/
def execBootCalDone (sides : List BootSide) (thresholds : List (FrontEnd × ThrVals))
    (s : State) : Host.Outcome State Fault Refusal :=
  .next (s.bootCalEnd sides thresholds)

/-- THERMAL_READ (R207). -/
def execThermalRead (temps : List Int) (s : State) : Host.Outcome State Fault Refusal :=
  .next (s.thermal temps)

/-- CAL_TIME_DUE (R207). -/
def execCalTimeDue (fe : FrontEnd) (s : State) : Host.Outcome State Fault Refusal :=
  .next (s.calTime fe)

/-- CAL_RUN (R207). -/
def execCalRun (sonly : Bool) (s : State) : Host.Outcome State Fault Refusal :=
  .next (s.wr .host R.CAL_CMD (F.CAL_CMD_SONLY.into (F.CAL_CMD_RUN.into 0#32 1) (bit sonly)))

/-- CAL_ABORT (R209). -/
def execCalAbort (s : State) : Host.Outcome State Fault Refusal :=
  .next (s.wrCmd R.CAL_CMD F.CAL_CMD_ABORT)

/-- CAL_EVENT_START (R208). -/
def execCalEventStart (fe : FrontEnd) (s : State) : Host.Outcome State Fault Refusal :=
  .next (s.calStart fe)

/-- CAL_OFFSET_DONE (R193). -/
def execCalOffsetDone (fe : FrontEnd) (r f : Int) (s : State) : Host.Outcome State Fault Refusal :=
  .next (s.calOffset fe r f)

/-- CAL_COLLECT_DONE (R195). -/
def execCalCollectDone (fe : FrontEnd) (counts : List Nat) (s : State) : Host.Outcome State Fault Refusal :=
  .next (s.calCollect fe counts State.autoSpare)

/-- CAL_LIVE_TIMEOUT (R196). -/
def execCalLiveTimeout (fe : FrontEnd) (s : State) : Host.Outcome State Fault Refusal :=
  .next (s.calLiveTimeout fe)

/-- CAL_OVERLAP_DONE (R200). -/
def execCalOverlapDone (fe : FrontEnd) (o : Overlap) (s : State) : Host.Outcome State Fault Refusal :=
  .next (s.calOverlap fe o State.autoSpare)

/-- CAL_SWAP (R201). -/
def execCalSwap (fe : FrontEnd) (s : State) : Host.Outcome State Fault Refusal :=
  .next (s.calSwap fe)

/-- CAL_SWAP_STARVED (R202). -/
def execCalSwapStarved (fe : FrontEnd) (s : State) : Host.Outcome State Fault Refusal :=
  .next (s.calStarve fe)

/-- CAL_IDLE_ROUTE (R204). -/
def execCalIdleRoute (fe : FrontEnd) (s : State) : Host.Outcome State Fault Refusal :=
  .next (s.calIdle fe)

/-- CAL_THRESHOLD_DONE (R203). -/
def execCalThresholdDone (fe : FrontEnd) (vals : ThrVals) (s : State) : Host.Outcome State Fault Refusal :=
  .next (s.calThreshold fe vals)

/-- CAL_VD_WRITE (R212). -/
def execCalVdWrite (path : Path) (w : Word) (s : State) : Host.Outcome State Fault Refusal :=
  .next (s.wr path R.CAL_VD w)

/-- AUTO_STORE (R216). -/
def execAutoStore (s : State) : Host.Outcome State Fault Refusal :=
  .next (s.autoStoreDue)

end Sys2Proof.Machine
end

