-- ==== Sys2Proof/Machine/Capture.lean ====
section
/-!
DEFINITION. The meanings of the commands of edge capture, the input FIFO, the Vat port and partners
(spec/01, spec/04).
-/

namespace Sys2Proof.Machine

/-- EDGE_CAPTURE (R76). -/
def execEdgeCapture (ch : Ch) (rising : Bool) (taps : BitVec 256)
    (s : State) : Host.Outcome State Fault Refusal :=
  .next (s.capture ch rising taps)

/-- OVF_MARKER_DEFERRED (R337). -/
def execOvfMarkerDeferred (ch : Ch) (s : State) : Host.Outcome State Fault Refusal :=
  .next (s.modChan ch Chan.flushHeld)

/-- OVF_UNMASK (R88). -/
def execOvfUnmask (ch : Ch) (s : State) : Host.Outcome State Fault Refusal :=
  .next (s.ovfUnmask ch)

/-- BLIND_MARKER_DEFERRED (R337). -/
def execBlindMarkerDeferred (ch : Ch) (s : State) : Host.Outcome State Fault Refusal :=
  .next ((s.modChan ch Chan.flushHeld).tryEndBlind ch)

/-- REDUCER_HANDSHAKE (R85). -/
def execReducerHandshake (ch : Ch) (s : State) : Host.Outcome State Fault Refusal :=
  .next (s.handshake ch)

/-- VAT_GRANT (R14). -/
def execVatGrant (ch : Ch) (words : Nat) (s : State) : Host.Outcome State Fault Refusal :=
  .next (s.grant ch words)

/-- WATERMARK (R115). -/
def execWatermark (ch : Ch) (s : State) : Host.Outcome State Fault Refusal :=
  .next (s.watermark ch)

/-- CH_PART_WRITE (R11). -/
def execChPartWrite (ch : Ch) (w : Word) (s : State) : Host.Outcome State Fault Refusal :=
  .next (s.wr .host (chBase ch + R.CH_PART) w)

/-- BLIND_INTERVAL_END (R60). -/
def execBlindIntervalEnd (ch : Ch) (s : State) : Host.Outcome State Fault Refusal :=
  .next (s.blindEnd ch)

end Sys2Proof.Machine
end

