-- ==== Sys2Proof/Machine/Dictionary.lean ====
section
/-!
DEFINITION. The meanings of the commands of the object dictionary (spec/12).
-/

namespace Sys2Proof.Machine

/-- ULD_READ (R259). -/
def execUldRead (src : OdSrc) (index : BitVec 16) (sub : Byte)
    (s : State) : Host.Outcome State Fault Refusal :=
  .next (s.odCommand src { cmd := 1#8, index := index, sub := sub, data := [] })

/-- ULD_WRITE (R260). -/
def execUldWrite (src : OdSrc) (index : BitVec 16) (sub : Byte) (data : List Byte)
    (s : State) : Host.Outcome State Fault Refusal :=
  .next (s.odCommand src { cmd := 2#8, index := index, sub := sub, data := data })

/-- SEG_READ (R265). -/
def execSegRead (src : OdSrc) (index : BitVec 16) (sub : Byte) (off : Word)
    (s : State) : Host.Outcome State Fault Refusal :=
  .next (s.odCommand src { cmd := 3#8, index := index, sub := sub, data := wordBytes off })

/-- SEG_WRITE (R266). -/
def execSegWrite (src : OdSrc) (index : BitVec 16) (sub : Byte) (off : Word) (data : List Byte)
    (s : State) : Host.Outcome State Fault Refusal :=
  .next (s.odCommand src { cmd := 4#8, index := index, sub := sub, data := wordBytes off ++ data })

/-- BEGIN (R275). -/
def execBegin (src : OdSrc) (xid : BitVec 16) (s : State) : Host.Outcome State Fault Refusal :=
  .next (s.odCommand src (txnCmd 1 xid 0#32))

/-- COMMIT (R273). -/
def execCommit (src : OdSrc) (xid : BitVec 16) (check : Word)
    (s : State) : Host.Outcome State Fault Refusal :=
  .next (s.odCommand src (txnCmd 2 xid check))

/-- ABORT (R273). -/
def execAbort (src : OdSrc) (xid : BitVec 16) (s : State) : Host.Outcome State Fault Refusal :=
  .next (s.odCommand src (txnCmd 3 xid 0#32))

/-- IDENT (R244). -/
def execIdent (src : OdSrc) (s : State) : Host.Outcome State Fault Refusal :=
  .next (s.odCommand src { cmd := 6#8, index := 0#16, sub := 0#8, data := [] })

/-- SESSION_TIMEOUT (R267). -/
def execSessionTimeout (k : Nat) (s : State) : Host.Outcome State Fault Refusal :=
  .next (s.sessionTimeout k)

/-- TXN_TIMEOUT (R275). -/
def execTxnTimeout (src : OdSrc) (s : State) : Host.Outcome State Fault Refusal :=
  .next (s.txnTimeout src)

/-- MAILBOX_GO (R268). -/
def execMailboxGo (path : Path) (s : State) : Host.Outcome State Fault Refusal :=
  .next (s.wr path R.DEV_ODM_CTL (F.DEV_ODM_CTL_GO.into 0#32 1))

end Sys2Proof.Machine
end

