-- ==== Sys2Proof/Machine/FrontEnd.lean ====
section
/-!
DEFINITION. The meanings of the commands of thresholds, the spares, the pin test and the analogue
monitor (spec/03).
-/

namespace Sys2Proof.Machine

/-- TDAC_APPLY (R62). -/
def execTdacApply (ch : Ch) (s : State) : Host.Outcome State Fault Refusal :=
  .next (s.applyStrobe ch)

/-- TDAC_MODE_WRITE (R62). -/
def execTdacModeWrite (ch : Ch) (w : Word) (s : State) : Host.Outcome State Fault Refusal :=
  .next (s.wr .host (chBase ch + R.CH_TDAC) w)

/-- SETTLING_END (R58). -/
def execSettlingEnd (ch : Ch) (s : State) : Host.Outcome State Fault Refusal :=
  .next (s.endSettling ch)

/-- PARK_END (R59). -/
def execParkEnd (ch : Ch) (s : State) : Host.Outcome State Fault Refusal :=
  .next (s.endPark ch)

/-- PACER_RUN (R64). -/
def execPacerRun (n : Fin 8) (w : Word) (s : State) : Host.Outcome State Fault Refusal :=
  .next (s.wr .host (R.DEV_TPACE + 4 * n.val) w)

/-- PACER_TICK (R64). -/
def execPacerTick (n : Fin 8) (s : State) : Host.Outcome State Fault Refusal :=
  .next (s.pacerTick n)

/-- TDAC_QUEUE_PUSH (R64). -/
def execTdacQueuePush (ch : Ch) (code : BitVec 18) (s : State) : Host.Outcome State Fault Refusal :=
  .next (s.wr .host (chBase ch + R.CH_TDAC_Q) (code.setWidth 32))

/-- LOAD_N_EDGE (R67). -/
def execLoadNEdge (lowNs : Nat) (s : State) : Host.Outcome State Fault Refusal :=
  .next (s.loadPin lowNs)

/-- ARRAY_GO (R66). -/
def execArrayGo (s : State) : Host.Outcome State Fault Refusal :=
  .next (s.wrCmd R.DEV_TDAC_ARR F.DEV_TDAC_ARR_GO)

/-- STROBE (R231). -/
def execStrobe (s : State) : Host.Outcome State Fault Refusal :=
  .next (s.strobeMsg)

/-- CLR_IGN (R67). -/
def execClrIgn (s : State) : Host.Outcome State Fault Refusal :=
  .next (s.wrCmd R.DEV_TDAC_ARR F.DEV_TDAC_ARR_CLR_IGN)

/-- SP_ROUTE_WRITE (R68). -/
def execSpRouteWrite (path : Path) (sp : Spare) (w : Word) (s : State) : Host.Outcome State Fault Refusal :=
  .next (s.wr path (spBase sp + R.SP_ROUTE) w)

/-- HANDOVER_TDAC_LOAD (R70). -/
def execHandoverTdacLoad (sp : Spare) (s : State) : Host.Outcome State Fault Refusal :=
  .next (s.handoverLoad sp)

/-- HANDOVER_SETTLED (R70). -/
def execHandoverSettled (sp : Spare) (s : State) : Host.Outcome State Fault Refusal :=
  .next (s.handoverSettle sp)

/-- HANDOVER_CHECK_DONE (R72). -/
def execHandoverCheckDone (sp : Spare) (o : Overlap) (s : State) : Host.Outcome State Fault Refusal :=
  .next (s.handoverChecked sp o)

/-- HANDOVER_STREAM_MOVE (R70). -/
def execHandoverStreamMove (sp : Spare) (s : State) : Host.Outcome State Fault Refusal :=
  .next (s.handoverMoved sp)

/-- HANDOVER_FORCED_CUT (R72). -/
def execHandoverForcedCut (sp : Spare) (s : State) : Host.Outcome State Fault Refusal :=
  .next (s.handoverCut sp)

/-- PIN_TEST (R73). -/
def execPinTest (ch : Ch) (s : State) : Host.Outcome State Fault Refusal :=
  .next (s.wrCmd (chBase ch + R.CH_PIN) F.CH_PIN_TEST)

/-- PIN_TEST_DONE (R73). -/
def execPinTestDone (ch : Ch) (pSource pSink nSource nSink : PinBand) (joined : Bool)
    (s : State) : Host.Outcome State Fault Refusal :=
  .next (s.pinTestDone ch (pinCode pSource pSink) (pinCode nSource nSink) joined)

/-- AMON_SELECT (R74). -/
def execAmonSelect (w : Word) (s : State) : Host.Outcome State Fault Refusal :=
  .next (s.wr .host R.DEV_AMON w)

/-- DEC_RESYNC (R83). -/
def execDecResync (ch : Ch) (s : State) : Host.Outcome State Fault Refusal :=
  .next (s.wrCmd (chBase ch + R.CH_DEC) F.CH_DEC_RESYNC)

end Sys2Proof.Machine
end

