-- ==== Sys2Proof/Machine/Gates.lean ====
section
/-!
DEFINITION. The meanings of the commands of gates, APPLY_NOW, TIE and Allan deviation (spec/05).
-/

namespace Sys2Proof.Machine

/-- GATE_CLOSE (R97). -/
def execGateClose (ch : Ch) (s : State) : Host.Outcome State Fault Refusal :=
  .next (s.gateDue ch)

/-- GATE_START (R92). -/
def execGateStart (ch : Ch) (s : State) : Host.Outcome State Fault Refusal :=
  .next (s.wrCmd (chBase ch + R.CH_CMD) F.CH_CMD_START)

/-- GATE_STOP (R92). -/
def execGateStop (ch : Ch) (s : State) : Host.Outcome State Fault Refusal :=
  .next (s.wrCmd (chBase ch + R.CH_CMD) F.CH_CMD_STOP)

/-- APPLY_NOW (R97). -/
def execApplyNow (ch : Ch) (s : State) : Host.Outcome State Fault Refusal :=
  .next (s.wrCmd (chBase ch + R.CH_CMD) F.CH_CMD_APPLY_NOW)

/-- TIE_RST (R108). -/
def execTieRst (ch : Ch) (s : State) : Host.Outcome State Fault Refusal :=
  .next (s.wrCmd (chBase ch + R.CH_CMD) F.CH_CMD_TIE_RST)

/-- ADEV_DUMP (R112). -/
def execAdevDump (ch : Ch) (s : State) : Host.Outcome State Fault Refusal :=
  .next (s.wrCmd (chBase ch + R.CH_CMD) F.CH_CMD_ADEV_DUMP)

/-- ADEV_CLR (R112). -/
def execAdevClr (ch : Ch) (s : State) : Host.Outcome State Fault Refusal :=
  .next (s.wrCmd (chBase ch + R.CH_CMD) F.CH_CMD_ADEV_CLR)

/-- PAIR_TIMEOUT (R103). -/
def execPairTimeout (ch : Ch) (s : State) : Host.Outcome State Fault Refusal :=
  .next (s.pairTimeout ch)

end Sys2Proof.Machine
end

