-- ==== Sys2Proof/Machine/Lake.lean ====
section
/-!
DEFINITION. The meanings of the commands of Lake histograms and spare banks (spec/08).
-/

namespace Sys2Proof.Machine

/-- HG_CONFIG_WRITE (R169). -/
def execHgConfigWrite (ch : Ch) (reg : Fin 4) (w : Word) (s : State) : Host.Outcome State Fault Refusal :=
  .next (s.wr .host (chBase ch + R.CH_HG_CTL + 4 * reg.val) w)

/-- HG_CLR (R173). -/
def execHgClr (ch : Ch) (s : State) : Host.Outcome State Fault Refusal :=
  .next (s.wrCmd (chBase ch + R.CH_HG_CMD) F.CH_HG_CMD_CLR)

/-- HG_SNAP (R174). -/
def execHgSnap (ch : Ch) (s : State) : Host.Outcome State Fault Refusal :=
  .next (s.wrCmd (chBase ch + R.CH_HG_CMD) F.CH_HG_CMD_SNAP)

/-- CLR_SWEEP_DONE (R173). -/
def execClrSweepDone (ch : Ch) (s : State) : Host.Outcome State Fault Refusal :=
  .next (s.setF (chBase ch) F.CH_HG_STAT_CLR_BUSY 0)

/-- LAKE_SPARE_MAP (R176). -/
def execLakeSpareMap (path : Path) (sp : Spare) (w : Word) (s : State) : Host.Outcome State Fault Refusal :=
  .next (s.wr path (R.DEV_LK_SPMAP + 4 * sp.val) w)

/-- LAKE_COPY_DONE (R176). -/
def execLakeCopyDone (sp : Spare) (s : State) : Host.Outcome State Fault Refusal :=
  .next (s.spareCopied sp)

end Sys2Proof.Machine
end

