-- ==== Sys2Proof/Machine/Links.lean ====
section
/-!
DEFINITION. The meanings of the commands of the host and pattern links (spec/10).
-/

namespace Sys2Proof.Machine

/-- LINK_ADMISSION (R219). -/
def execLinkAdmission (l : Link) (s : State) : Host.Outcome State Fault Refusal :=
  .next (s.linkAdmit l)

/-- LINK_TRAIN_SEEN (R219). -/
def execLinkTrainSeen (l : Link) (s : State) : Host.Outcome State Fault Refusal :=
  .next (s.trainSeen l)

/-- LINK_LOCK_TIMEOUT (R219). -/
def execLinkLockTimeout (l : Link) (locked : BitVec 16) (s : State) : Host.Outcome State Fault Refusal :=
  .next (s.lockEnd l locked)

/-- LINK_ALIGN_DONE (R220). -/
def execLinkAlignDone (l : Link) (linv : BitVec 16) (nums : Vector (BitVec 4) 16)
    (s : State) : Host.Outcome State Fault Refusal :=
  .next (s.alignEnd l linv nums)

/-- LINK_PARAM_DONE (R221). -/
def execLinkParamDone (l : Link) (mask : BitVec 16) (credits : Vector Nat 6) (keep : Bool)
    (s : State) : Host.Outcome State Fault Refusal :=
  .next (s.paramDone l mask credits keep)

/-- LINK_EN_WRITE (R219). -/
def execLinkEnWrite (l : Link) (en : Bool) (s : State) : Host.Outcome State Fault Refusal :=
  .next (s.wr .host (lnkBase l + R.LNK_CFG) (F.LNK_CFG_EN.into (s.w (lnkBase l + R.LNK_CFG)) (bit en)))

/-- WIDTH_CHANGE_WINDOW (R218). -/
def execWidthChangeWindow (l : Link) (s : State) : Host.Outcome State Fault Refusal :=
  .next (s.window l)

/-- LFRAME_RECEIVE (R226). -/
def execLframeReceive (l : Link) (afterCtl : Bool) (bytes : List Byte)
    (s : State) : Host.Outcome State Fault Refusal :=
  .next (s.frameIn l afterCtl bytes)

/-- NAK_RECEIVE (R227). -/
def execNakReceive (l : Link) (ackseq : BitVec 12) (s : State) : Host.Outcome State Fault Refusal :=
  .next (s.nakReceived l ackseq)

/-- REPLAY_TIMEOUT (R227). -/
def execReplayTimeout (l : Link) (s : State) : Host.Outcome State Fault Refusal :=
  .next (s.replayTimeout l)

/-- ACK_INTERVAL (R226). -/
def execAckInterval (l : Link) (s : State) : Host.Outcome State Fault Refusal :=
  .next (s.ackInterval l)

/-- LFRAME_SEND (R230). -/
def execLframeSend (l : Link) (s : State) : Host.Outcome State Fault Refusal :=
  .next (s.frameSend l)

/-- FRAME_HOLD_EXPIRY (R230). -/
def execFrameHoldExpiry (l : Link) (s : State) : Host.Outcome State Fault Refusal :=
  .next (s.holdExpiry l)

/-- EIDLE_ENTER (R224). -/
def execEidleEnter (l : Link) (s : State) : Host.Outcome State Fault Refusal :=
  .next (s.eidleEnter l)

/-- EIDLE_WAKE (R224). -/
def execEidleWake (l : Link) (relocked : BitVec 16) (s : State) : Host.Outcome State Fault Refusal :=
  .next (s.eidleWake l relocked)

/-- ADAPT_WINDOW (R222). -/
def execAdaptWindow (l : Link) (lane : Lane) (moves : List Int) (quiet : Bool)
    (s : State) : Host.Outcome State Fault Refusal :=
  .next (s.adapt l lane moves quiet)

/-- ADAPT_REVERIFY (R223). -/
def execAdaptReverify (l : Link) (lane : Lane) (errors : Nat)
    (s : State) : Host.Outcome State Fault Refusal :=
  .next (s.reverify l lane errors)

/-- FAST_ADAPT_END (R223). -/
def execFastAdaptEnd (l : Link) (lane : Lane) (moves : List Int)
    (s : State) : Host.Outcome State Fault Refusal :=
  .next (s.fastEnd l lane moves)

/-- LANE_LOSS (R235). -/
def execLaneLoss (l : Link) (lane : Lane) (s : State) : Host.Outcome State Fault Refusal :=
  .next (s.laneLoss l lane)

/-- DEGRADE (R235). -/
def execDegrade (l : Link) (mask : BitVec 16) (s : State) : Host.Outcome State Fault Refusal :=
  .next (s.degradeIn l mask)

/-- DEGRADE_ACK (R235). -/
def execDegradeAck (l : Link) (mask : BitVec 16) (s : State) : Host.Outcome State Fault Refusal :=
  .next (s.degradeAck l mask)

/-- DEGRADE_ACK_TIMEOUT (R235). -/
def execDegradeAckTimeout (l : Link) (s : State) : Host.Outcome State Fault Refusal :=
  .next (s.degradeTimeout l)

/-- LANE_BACKGROUND_LOCK (R236). -/
def execLaneBackgroundLock (l : Link) (lane : Lane) (s : State) : Host.Outcome State Fault Refusal :=
  .next (s.backgroundLock l lane)

/-- LNK_RETRAIN (R219). -/
def execLnkRetrain (l : Link) (s : State) : Host.Outcome State Fault Refusal :=
  .next (s.wrCmd (lnkBase l + R.LNK_CMD) F.LNK_CMD_RETRAIN)

/-- LNK_RESET (R221). -/
def execLnkReset (l : Link) (s : State) : Host.Outcome State Fault Refusal :=
  .next (s.wrCmd (lnkBase l + R.LNK_CMD) F.LNK_CMD_RESET)

/-- REJOIN (R235). -/
def execRejoin (l : Link) (s : State) : Host.Outcome State Fault Refusal :=
  .next (s.wrCmd (lnkBase l + R.LNK_CMD) F.LNK_CMD_REJOIN)

/-- LNK_TEST (R237). -/
def execLnkTest (l : Link) (s : State) : Host.Outcome State Fault Refusal :=
  .next (s.wrCmd (lnkBase l + R.LNK_CMD) F.LNK_CMD_TEST)

/-- TEST_EXIT (R237). -/
def execTestExit (l : Link) (s : State) : Host.Outcome State Fault Refusal :=
  .next (s.wrCmd (lnkBase l + R.LNK_CMD) F.LNK_CMD_TEST_EXIT)

/-- LNK_TEST_MODE_WRITE (R237). -/
def execLnkTestModeWrite (l : Link) (w : Word) (s : State) : Host.Outcome State Fault Refusal :=
  .next (s.wr .host (lnkBase l + R.LNK_TEST) w)

/-- REG_READ (R234). -/
def execRegRead (tag : BitVec 12) (count : BitVec 6) (be : BitVec 4) (step : BitVec 2) (addr : BitVec 24)
    (s : State) : Host.Outcome State Fault Refusal :=
  .next (s.regRequest { op := 1#4, tag := tag, count := count, be := be, step := step, addr := addr, data := [] })

/-- REG_WRITE (R234). -/
def execRegWrite (tag : BitVec 12) (count : BitVec 6) (be : BitVec 4) (step : BitVec 2) (addr : BitVec 24) (data : List Word)
    (s : State) : Host.Outcome State Fault Refusal :=
  .next (s.regRequest { op := 2#4, tag := tag, count := count, be := be, step := step, addr := addr, data := data })

/-- WRITE_ACK (R234). -/
def execWriteAck (tag : BitVec 12) (count : BitVec 6) (be : BitVec 4) (step : BitVec 2) (addr : BitVec 24) (data : List Word)
    (s : State) : Host.Outcome State Fault Refusal :=
  .next (s.regRequest { op := 3#4, tag := tag, count := count, be := be, step := step, addr := addr, data := data })

/-- DIRECT_READ (R234). -/
def execDirectRead (tag : BitVec 12) (count : BitVec 6) (be : BitVec 4) (step : BitVec 2) (addr : BitVec 24)
    (s : State) : Host.Outcome State Fault Refusal :=
  .next (s.regRequest { op := 4#4, tag := tag, count := count, be := be, step := step, addr := addr, data := [] })

/-- DIRECT_WRITE (R234). -/
def execDirectWrite (tag : BitVec 12) (count : BitVec 6) (be : BitVec 4) (step : BitVec 2) (addr : BitVec 24) (data : List Word)
    (s : State) : Host.Outcome State Fault Refusal :=
  .next (s.regRequest { op := 5#4, tag := tag, count := count, be := be, step := step, addr := addr, data := data })

/-- ORDER_ERR_RETRY (R219). -/
def execOrderErrRetry (l : Link) (s : State) : Host.Outcome State Fault Refusal :=
  .next (s.orderRetry l)

end Sys2Proof.Machine
end

