-- ==== Sys2Proof/Machine/Mordant.lean ====
section
/-!
DEFINITION. The meanings of the commands of Mordant: messages, expectations, credits (spec/06).
-/

namespace Sys2Proof.Machine

/-- EXP1 (R117). -/
def execExp1 (ch : BitVec 8) (h : DescHead) (s : State) : Host.Outcome State Fault Refusal :=
  .next (s.descriptor ch (h.desc .exp1))

/-- RUN (R117). -/
def execRun (ch : BitVec 8) (h : DescHead) (period : BitVec 48) (count : BitVec 16) (alt : Bool)
    (s : State) : Host.Outcome State Fault Refusal :=
  .next (s.descriptor ch (h.desc (.run period count alt)))

/-- MASK1K (R117). -/
def execMask1k (ch : BitVec 8) (h : DescHead) (ui : BitVec 32) (mask : BitVec 1024)
    (s : State) : Host.Outcome State Fault Refusal :=
  .next (s.descriptor ch (h.desc (.mask1k ui mask)))

/-- RETRACT (R133). -/
def execRetract (ch : BitVec 8) (seq : BitVec 24) (elem : BitVec 16) (gen : BitVec 4)
    (s : State) : Host.Outcome State Fault Refusal :=
  .next (s.retractMsg ch seq elem gen)

/-- SEAL (R132). -/
def execSeal (ch : BitVec 8) (seq : BitVec 24) (elem : BitVec 16) (gen : BitVec 4)
    (s : State) : Host.Outcome State Fault Refusal :=
  .next (s.sealMsg ch seq elem gen)

/-- UNKNOWN_DTYPE (R120). -/
def execUnknownDtype (w0 : BitVec 64) (s : State) : Host.Outcome State Fault Refusal :=
  .next (s.unknownMsg w0)

/-- MATERIALISE (R121). -/
def execMaterialise (ch : Ch) (s : State) : Host.Outcome State Fault Refusal :=
  .next (s.materialise ch)

/-- MORDANT_EDGE (R128). -/
def execMordantEdge (ch : Ch) (s : State) : Host.Outcome State Fault Refusal :=
  .next (s.runMord ch Mord.takeInput)

/-- AUTO_SEAL (R132). -/
def execAutoSeal (ch : Ch) (s : State) : Host.Outcome State Fault Refusal :=
  .next (s.runMord ch Mord.sealFirst)

/-- EDGE_AGE_OUT (R131). -/
def execEdgeAgeOut (ch : Ch) (s : State) : Host.Outcome State Fault Refusal :=
  .next (s.runMord ch Mord.ageFirst)

/-- CREDIT_RETURN (R122). -/
def execCreditReturn (ch : Ch) (s : State) : Host.Outcome State Fault Refusal :=
  .next (s.creditReturn ch)

/-- MD_ENABLE (R125). -/
def execMdEnable (ch : Ch) (w : Word) (s : State) : Host.Outcome State Fault Refusal :=
  .next (s.wr .host (chBase ch + R.CH_MD_CTL) (F.CH_MD_CTL_EN.into w 1))

/-- MD_DISABLE (R126). -/
def execMdDisable (ch : Ch) (s : State) : Host.Outcome State Fault Refusal :=
  .next (s.wr .host (chBase ch + R.CH_MD_CTL) (F.CH_MD_CTL_EN.into (s.w (chBase ch + R.CH_MD_CTL)) 0))

/-- FLUSH (R126). -/
def execFlush (ch : Ch) (s : State) : Host.Outcome State Fault Refusal :=
  .next (s.wrCmd (chBase ch + R.CH_MD_CMD) F.CH_MD_CMD_FLUSH)

/-- POL_RST (R140). -/
def execPolRst (ch : Ch) (s : State) : Host.Outcome State Fault Refusal :=
  .next (s.wrCmd (chBase ch + R.CH_MD_CMD) F.CH_MD_CMD_POL_RST)

/-- DCLR (R288). -/
def execDclr (ch : Ch) (s : State) : Host.Outcome State Fault Refusal :=
  .next (s.wrCmd (chBase ch + R.CH_MD_CMD) F.CH_MD_CMD_DCLR)

/-- MD_H_WRITE (R125). -/
def execMdHWrite (ch : Ch) (w : Word) (s : State) : Host.Outcome State Fault Refusal :=
  .next (s.wr .host (chBase ch + R.CH_MD_H) w)

end Sys2Proof.Machine
end

