-- ==== Sys2Proof/Machine/Network.lean ====
section
/-!
DEFINITION. The meanings of the commands of the field network and the time domains (spec/11).
-/

namespace Sys2Proof.Machine

/-- ETH_FRAME_FORWARD (R239). -/
def execEthFrameForward (port : Port) (f : EthFrame) (residence : Nat)
    (s : State) : Host.Outcome State Fault Refusal :=
  .next (s.forwardFrame port f residence)

/-- ULD_FRAME (R245). -/
def execUldFrame (port : Port) (f : EthFrame) (s : State) : Host.Outcome State Fault Refusal :=
  .next (s.uldFrame port f)

/-- BYP_SET (R242). -/
def execBypSet (s : State) : Host.Outcome State Fault Refusal :=
  .next (s.wrCmd R.NET_CFG F.NET_CFG_BYP_SET)

/-- BYP_CLR (R242). -/
def execBypClr (s : State) : Host.Outcome State Fault Refusal :=
  .next (s.wrCmd R.NET_CFG F.NET_CFG_BYP_CLR)

/-- NET_RATE_WRITE (R238). -/
def execNetRateWrite (w : Word) (s : State) : Host.Outcome State Fault Refusal :=
  .next (s.wr .host R.NET_CFG w)

/-- ETH_LINK_DOWN (R250). -/
def execEthLinkDown (port : Port) (s : State) : Host.Outcome State Fault Refusal :=
  .next (s.linkDown port)

/-- PDELAY_REQ_SEND (R249). -/
def execPdelayReqSend (port : Port) (s : State) : Host.Outcome State Fault Refusal :=
  .next (s.pdelayReq port)

/-- PDELAY_REQ_RECEIVE (R249). -/
def execPdelayReqReceive (port : Port) (domain : BitVec 8) (seq : BitVec 16) (requester : BitVec 80) (turnaround : Nat)
    (s : State) : Host.Outcome State Fault Refusal :=
  .next (s.pdelayAnswer port domain seq requester turnaround)

/-- PDELAY_RESP_RECEIVE (R250). -/
def execPdelayRespReceive (port : Port) (seq : BitVec 16) (delay : Nat)
    (s : State) : Host.Outcome State Fault Refusal :=
  .next (s.pdelayDone port seq delay)

/-- PTP_ENABLE (R253). -/
def execPtpEnable (d : Dom) (w : Word) (s : State) : Host.Outcome State Fault Refusal :=
  .next (s.wr .host (dmBase d.val + R.PTP_CFG) w)

/-- ANNOUNCE (R253). -/
def execAnnounce (d : Dom) (port : Port) (data : MasterData) (interval : Nat)
    (s : State) : Host.Outcome State Fault Refusal :=
  .next (s.announce d port data interval)

/-- PTP_MASTER_LOST (R255). -/
def execPtpMasterLost (d : Dom) (s : State) : Host.Outcome State Fault Refusal :=
  .next (s.masterLost d)

/-- SYNC (R254). -/
def execSync (d : Dom) (port : Port) (master : BitVec 64) (t1 : Int)
    (s : State) : Host.Outcome State Fault Refusal :=
  .next (s.syncIn d port master t1)

/-- DELAY_REQ_SEND (R253). -/
def execDelayReqSend (d : Dom) (s : State) : Host.Outcome State Fault Refusal :=
  .next (s.delayReq d)

/-- DELAY_RESP (R255). -/
def execDelayResp (d : Dom) (mpd logInt : Int) (s : State) : Host.Outcome State Fault Refusal :=
  .next (s.delayResp d mpd logInt)

/-- PTP_CHECK_TIMEOUT (R255). -/
def execPtpCheckTimeout (d : Dom) (s : State) : Host.Outcome State Fault Refusal :=
  .next (s.checkTimeout d)

/-- PTP_HOLDOVER_EXPIRY (R254). -/
def execPtpHoldoverExpiry (d : Dom) (s : State) : Host.Outcome State Fault Refusal :=
  .next (s.holdoverExpiry d)

/-- ACCEPT (R257). -/
def execAccept (d : Dom) (s : State) : Host.Outcome State Fault Refusal :=
  .next (s.wrCmd (dmBase d.val + R.PTP_CMD) F.PTP_CMD_ACCEPT)

/-- ABSORB (R257). -/
def execAbsorb (d : Dom) (s : State) : Host.Outcome State Fault Refusal :=
  .next (s.wrCmd (dmBase d.val + R.PTP_CMD) F.PTP_CMD_ABSORB)

/-- REJECT (R257). -/
def execReject (d : Dom) (s : State) : Host.Outcome State Fault Refusal :=
  .next (s.wrCmd (dmBase d.val + R.PTP_CMD) F.PTP_CMD_REJECT)

/-- STEP_APPLY (R47). -/
def execStepApply (d : Dom) (s : State) : Host.Outcome State Fault Refusal :=
  .next (s.stepApply d)

/-- ETH_LINK_UP (R250). -/
def execEthLinkUp (port : Port) (s : State) : Host.Outcome State Fault Refusal :=
  .next (s.linkUp port)

/-- ETH_EGRESS_FREE (R240). -/
def execEthEgressFree (port : Port) (s : State) : Host.Outcome State Fault Refusal :=
  .next (s.egressFree port)

end Sys2Proof.Machine
end

