-- ==== Sys2Proof/Machine/Registers.lean ====
section
/-!
DEFINITION. The meanings of the commands of register accesses, protection and the memory port
(spec/13).
-/

namespace Sys2Proof.Machine

/-- REGISTER_WRITE (R279). -/
def execRegisterWrite (path : Path) (addr : BitVec 24) (be : BitVec 4) (w : Word)
    (s : State) : Host.Outcome State Fault Refusal :=
  .next ((s.pathWrite path addr.toNat be w).2)

/-- APERTURE_WRITE (R283). -/
def execApertureWrite (path : Path) (group : Option (Fin 16)) (off : BitVec 12) (be : BitVec 4) (w : Word)
    (s : State) : Host.Outcome State Fault Refusal :=
  .next ((s.pathWrite path (apertureAt group off) be w).2)

/-- INDIRECT_ACCESS (R284). -/
def execIndirectAccess (path : Path) (write : Bool) (w : Word)
    (s : State) : Host.Outcome State Fault Refusal :=
  .next (s.indirect path write w)

/-- LCP_READ (R286). -/
def execLcpRead (step : BitVec 2) (addr : BitVec 24) (n : Nat)
    (s : State) : Host.Outcome State Fault Refusal :=
  .next (s.lcpRead step.toNat addr.toNat n)

/-- LCP_WRITE (R286). -/
def execLcpWrite (step : BitVec 2) (addr : BitVec 24) (data : List Word)
    (s : State) : Host.Outcome State Fault Refusal :=
  .next (s.lcpWrite step.toNat addr.toNat data)

/-- LCP_STATUS (R287). -/
def execLcpStatus (s : State) : Host.Outcome State Fault Refusal :=
  .next (s.lcpStatus)

/-- LCP_CS_RISE (R286). -/
def execLcpCsRise (incomplete : Bool) (s : State) : Host.Outcome State Fault Refusal :=
  .next (s.lcpRise incomplete)

/-- UNLOCK_KEY (R292). -/
def execUnlockKey (path : Path) (key : BitVec 16) (s : State) : Host.Outcome State Fault Refusal :=
  .next (s.wr path R.PRT_UNLOCK (key.setWidth 32))

/-- UNLOCK_LAPSE (R292). -/
def execUnlockLapse (path : Path) (s : State) : Host.Outcome State Fault Refusal :=
  .next (s.pathLapse path)

/-- FN_LOCK_SET (R294). -/
def execFnLockSet (path : Path) (s : State) : Host.Outcome State Fault Refusal :=
  .next (s.wr path R.PRT_LOCK (F.PRT_LOCK_FN_LOCK.into 0#32 1))

/-- TV_SCRUB (R290). -/
def execTvScrub (s : State) : Host.Outcome State Fault Refusal :=
  .next (s.tvScrub)

/-- MP_DATA_READ (R296). -/
def execMpDataRead (path : Path) (s : State) : Host.Outcome State Fault Refusal :=
  .next ((s.pathRead path R.MP_DATA 0xF#4).2.2)

/-- MP_DATA_WRITE (R297). -/
def execMpDataWrite (path : Path) (w : Word) (s : State) : Host.Outcome State Fault Refusal :=
  .next (s.wr path R.MP_DATA w)

end Sys2Proof.Machine
end

