-- ==== Sys2Proof/Machine/Services.lean ====
section
/-!
DEFINITION. The meanings of the commands of service calls, service images, live update and the
watchdog (spec/08).
-/

namespace Sys2Proof.Machine

/-- LEVEL (R180). -/
def execLevel (src : OdSrc) (params : List Byte) (s : State) : Host.Outcome State Fault Refusal :=
  .next (s.odWhole src 0x7101#16 0#8 params)

/-- SHMOO (R181). -/
def execShmoo (src : OdSrc) (params : List Byte) (s : State) : Host.Outcome State Fault Refusal :=
  .next (s.odWhole src 0x7102#16 0#8 params)

/-- JITTER (R182). -/
def execJitter (src : OdSrc) (params : List Byte) (s : State) : Host.Outcome State Fault Refusal :=
  .next (s.odWhole src 0x7103#16 0#8 params)

/-- LTADEV (R183). -/
def execLtadev (src : OdSrc) (params : List Byte) (s : State) : Host.Outcome State Fault Refusal :=
  .next (s.odWhole src 0x7104#16 0#8 params)

/-- CALSTORE (R184). -/
def execCalstore (src : OdSrc) (params : List Byte) (s : State) : Host.Outcome State Fault Refusal :=
  .next (s.odWhole src 0x7105#16 0#8 params)

/-- SELFTEST (R185). -/
def execSelftest (src : OdSrc) (params : List Byte) (s : State) : Host.Outcome State Fault Refusal :=
  .next (s.odWhole src 0x7106#16 0#8 params)

/-- SERVICE_START (R177). -/
def execServiceStart (s : State) : Host.Outcome State Fault Refusal :=
  .next (s.svcStart)

/-- SERVICE_DONE (R178). -/
def execServiceDone (handle : Nat) (seen : SvcSeen) (failed taken : List (Nat × Nat)) (s : State) :
    Host.Outcome State Fault Refusal :=
  .next (s.svcDone handle seen failed taken)

/-- SERVICE_MAXTIME (R178). -/
def execServiceMaxtime (handle : Nat) (s : State) : Host.Outcome State Fault Refusal :=
  .next (s.svcMaxTime handle)

/-- SERVICE_ABORT (R270). -/
def execServiceAbort (src : OdSrc) (handle : Word) (s : State) : Host.Outcome State Fault Refusal :=
  .next (s.odWhole src 0x7181#16 0#8 (wordBytes handle))

/-- IMAGE_WRITE (R188). -/
def execImageWrite (src : OdSrc) (bytes : List Byte) (s : State) : Host.Outcome State Fault Refusal :=
  .next (s.odWhole src 0x7201#16 0#8 bytes)

/-- LIVE_UPDATE (R189). -/
def execLiveUpdate (src : OdSrc) (drain : Word) (s : State) : Host.Outcome State Fault Refusal :=
  .next (s.odWhole src 0x7203#16 0#8 (wordBytes drain))

/-- LIVE_UPDATE_DRAIN (R189). -/
def execLiveUpdateDrain (s : State) : Host.Outcome State Fault Refusal :=
  .next (s.liveDrain)

/-- LIVE_UPDATE_CORE_SWAP (R189). -/
def execLiveUpdateCoreSwap (core : Fin 8) (s : State) : Host.Outcome State Fault Refusal :=
  .next (s.liveSwap core)

/-- LIVE_UPDATE_CHECK (R189). -/
def execLiveUpdateCheck (ok : Bool) (s : State) : Host.Outcome State Fault Refusal :=
  .next (s.liveCheck ok)

/-- HEARTBEAT_MISS (R314). -/
def execHeartbeatMiss (core : Fin 8) (s : State) : Host.Outcome State Fault Refusal :=
  .next (s.heartbeat core)

/-- INDIGO_RESTART_DONE (R314). -/
def execIndigoRestartDone (s : State) : Host.Outcome State Fault Refusal :=
  .next (s.restartDone.serveMailbox)

/-- SERVICE_STOP_TIMEOUT (R314). -/
def execServiceStopTimeout (core : Fin 8) (s : State) : Host.Outcome State Fault Refusal :=
  .next (s.stopTimeout core)

end Sys2Proof.Machine
end

