-- ==== Sys2Proof/Machine/Startup.lean ====
section
/-!
DEFINITION. The meanings of the commands of start-up, configuration images, resets, repair and wear
(spec/14).
-/

namespace Sys2Proof.Machine

/-- SUPPLIES_VALID (R321). -/
def execSuppliesValid (straps : BitVec 6) (s : State) : Host.Outcome State Fault Refusal :=
  .next (s.suppliesValid straps)

/-- POWER_ON_RESET (R308). -/
def execPowerOnReset (s : State) : Host.Outcome State Fault Refusal :=
  .next (s.powerOnReset)

/-- RAIL_EXCURSION (R322). -/
def execRailExcursion (ns : Nat) (s : State) : Host.Outcome State Fault Refusal :=
  .next (s.railExcursion ns)

/-- FUSE_LOAD (R295). -/
def execFuseLoad (s : State) : Host.Outcome State Fault Refusal :=
  .next (s.fuseLoad)

/-- LCP_ENABLE (R285). -/
def execLcpEnable (flash xtal : Bool) (s : State) : Host.Outcome State Fault Refusal :=
  .next (s.lcpEnable flash xtal)

/-- WEAR_LOG_LOAD (R299). -/
def execWearLogLoad (s : State) : Host.Outcome State Fault Refusal :=
  .next (s.wearLoad)

/-- ETHERNET_START (R242). -/
def execEthernetStart (s : State) : Host.Outcome State Fault Refusal :=
  .next (s.ethStart)

/-- BOOT_RESPONDER_START (R247). -/
def execBootResponderStart (s : State) : Host.Outcome State Fault Refusal :=
  .next (s.responderStart.serveMailbox)

/-- CONFIG_READ (R305). -/
def execConfigRead (s : State) : Host.Outcome State Fault Refusal :=
  .next (s.cfgRead)

/-- CONFIG_COMMIT (R306). -/
def execConfigCommit (s : State) : Host.Outcome State Fault Refusal :=
  .next (s.configCommit)

/-- SERVICE_IMAGE_BOOT (R187). -/
def execServiceImageBoot (s : State) : Host.Outcome State Fault Refusal :=
  .next (s.imageBoot)

/-- READY (R300). -/
def execReady (s : State) : Host.Outcome State Fault Refusal :=
  .next (s.becomeReady)

/-- SOFT_RESET (R309). -/
def execSoftReset (path : Path) (s : State) : Host.Outcome State Fault Refusal :=
  .next (s.wr path R.DEV_CMD (F.DEV_CMD_SRST.into 0#32 1))

/-- CONFIG_STORE (R307). -/
def execConfigStore (src : OdSrc) (bytes : List Byte) (s : State) : Host.Outcome State Fault Refusal :=
  .next (s.odWhole src 0x1040#16 0#8 bytes)

/-- FLASH_STORE_DONE (R307). -/
def execFlashStoreDone (ok : Bool) (s : State) : Host.Outcome State Fault Refusal :=
  .next (s.storeDone ok)

/-- SRAM_SCRUB_PASS (R312). -/
def execSramScrubPass (site : SramSite) (unit row : Nat) (ce ue : List Nat)
    (s : State) : Host.Outcome State Fault Refusal :=
  .next (s.scrubHit site unit row ce ue)

/-- ROW_REPAIR_DONE (R312). -/
def execRowRepairDone (s : State) : Host.Outcome State Fault Refusal :=
  .next (s.rowRepaired)

/-- REPAIR_RETRY (R311). -/
def execRepairRetry (sp : Spare) (s : State) : Host.Outcome State Fault Refusal :=
  .next (s.repairRetry sp)

/-- WEAR_UPDATE (R315). -/
def execWearUpdate (tj : Int) (s : State) : Host.Outcome State Fault Refusal :=
  .next (s.wearUpdate tj)

/-- WEAR_LOG_WRITE (R315). -/
def execWearLogWrite (s : State) : Host.Outcome State Fault Refusal :=
  .next (s.wearWrite)

end Sys2Proof.Machine
end

