-- ==== Sys2Proof/Machine/Timebase.lean ====
section
/-!
DEFINITION. The meanings of the commands of the timebase and the AVSBus governor (spec/01, spec/02).
-/

namespace Sys2Proof.Machine

/-- REFIN_WINDOW (R31). -/
def execRefinWindow (missing toggles : Bool) (mHz : Nat) (s : State) : Host.Outcome State Fault Refusal :=
  .next (s.refinWindow missing toggles mHz)

/-- FIRST_LOCK (R32). -/
def execFirstLock (s : State) : Host.Outcome State Fault Refusal :=
  .next (s.firstLock)

/-- LOCK_SOURCE_TIMEOUT (R32). -/
def execLockSourceTimeout (s : State) : Host.Outcome State Fault Refusal :=
  .next (s.lockTimeout)

/-- NO_SOURCE_FAULT (R301). -/
def execNoSourceFault (s : State) : Host.Outcome State Fault Refusal :=
  .next (s.noSource)

/-- REFIN_LOST (R35). -/
def execRefinLost (s : State) : Host.Outcome State Fault Refusal :=
  .next (s.refinLost)

/-- CRYSTAL_SELECT (R36). -/
def execCrystalSelect (s : State) : Host.Outcome State Fault Refusal :=
  .next (s.crystalSelect)

/-- REFIN_RETURN (R38). -/
def execRefinReturn (s : State) : Host.Outcome State Fault Refusal :=
  .next (s.refinReturn)

/-- CRYSTAL_LOST (R38). -/
def execCrystalLost (s : State) : Host.Outcome State Fault Refusal :=
  .next (s.crystalLost)

/-- HOLDOVER_END (R38). -/
def execHoldoverEnd (src : TbSource) (s : State) : Host.Outcome State Fault Refusal :=
  .next (s.holdoverEnd src)

/-- TB_SRC_WRITE (R38). -/
def execTbSrcWrite (path : Path) (w : Word) (s : State) : Host.Outcome State Fault Refusal :=
  .next (s.wr path R.TB_SRC w)

/-- DRIFT_UPDATE (R39). -/
def execDriftUpdate (offs : Int) (s : State) : Host.Outcome State Fault Refusal :=
  .next (s.driftUpdate offs)

/-- BASELINE_CAPTURE (R39). -/
def execBaselineCapture (mean : Int) (s : State) : Host.Outcome State Fault Refusal :=
  .next (s.baselineCapture mean)

/-- REBASE (R39). -/
def execRebase (s : State) : Host.Outcome State Fault Refusal :=
  .next (s.wrCmd R.TB_DRIFT F.TB_DRIFT_REBASE)

/-- ETS64_WRAP (R41). -/
def execEts64Wrap (s : State) : Host.Outcome State Fault Refusal :=
  .next (s.reach ((s.clk.epx.toNat + 1) * 2 ^ 64))

/-- SNAP_CAPTURE (R44). -/
def execSnapCapture (s : State) : Host.Outcome State Fault Refusal :=
  .next (s.wrCmd R.TB_SNAP_CTL F.TB_SNAP_CTL_CAPTURE)

/-- PACE_UPDATE (R15). -/
def execPaceUpdate (counts : List (List Nat)) (s : State) : Host.Outcome State Fault Refusal :=
  .next (s.paceUpdate counts)

/-- PACE_MAX_CLR (R18). -/
def execPaceMaxClr (s : State) : Host.Outcome State Fault Refusal :=
  .next (s.wrCmd R.TB_PACE_MAX F.TB_PACE_MAX_CLR)

/-- AVS_CTL_WRITE (R20). -/
def execAvsCtlWrite (w : Word) (s : State) : Host.Outcome State Fault Refusal :=
  .next (s.wr .host R.TB_AVS_CTL w)

/-- AVS_EVALUATION (R20). -/
def execAvsEvaluation (mV : Nat) (s : State) : Host.Outcome State Fault Refusal :=
  .next (s.avsEvaluate mV)

/-- AVS_ACK_TIMEOUT (R20). -/
def execAvsAckTimeout (s : State) : Host.Outcome State Fault Refusal :=
  .next (s.avsNoAck)

/-- XTAL_AMPLITUDE_RETURN (R39). -/
def execXtalAmplitudeReturn (s : State) : Host.Outcome State Fault Refusal :=
  .next (s.xtalReturn)

end Sys2Proof.Machine
end

