-- ==== Sys2Proof/Machine/Triggers.lean ====
section
/-!
DEFINITION. The meanings of the commands of trigger sources and units, records and the Vat
(spec/07).
-/

namespace Sys2Proof.Machine

/-- TRIG_IN_EDGE (R148). -/
def execTrigInEdge (pin : Fin 4) (rising : Bool) (edge : PinEdge) (s : State) : Host.Outcome State Fault Refusal :=
  .next (s.trigIn pin rising edge.pos edge.after)

/-- STL_ASSERT (R147). -/
def execStlAssert (line : Fin 8) (edge : PinEdge) (held : BitVec 8)
    (s : State) : Host.Outcome State Fault Refusal :=
  .next (s.stlEdge line edge.pos edge.after held)

/-- MARK (R150). -/
def execMark (marker : Fin 16) (time48 : BitVec 48) (s : State) : Host.Outcome State Fault Refusal :=
  .next (s.mark marker time48)

/-- MARK_RELEASE (R150). -/
def execMarkRelease (u : Unit16) (s : State) : Host.Outcome State Fault Refusal :=
  .next (s.markRelease u)

/-- FORCE (R147). -/
def execForce (u : Unit16) (s : State) : Host.Outcome State Fault Refusal :=
  .next (s.wrCmd (tuBase u + R.TRG_TU_CMD) F.TRG_TU_CMD_FORCE)

/-- ARM (R152). -/
def execArm (u : Unit16) (s : State) : Host.Outcome State Fault Refusal :=
  .next (s.wrCmd (tuBase u + R.TRG_TU_CMD) F.TRG_TU_CMD_ARM)

/-- DISARM (R157). -/
def execDisarm (u : Unit16) (s : State) : Host.Outcome State Fault Refusal :=
  .next (s.wrCmd (tuBase u + R.TRG_TU_CMD) F.TRG_TU_CMD_DISARM)

/-- RD (R165). -/
def execRd (u : Unit16) (s : State) : Host.Outcome State Fault Refusal :=
  .next (s.wrCmd (tuBase u + R.TRG_TU_CMD) F.TRG_TU_CMD_RD)

/-- REL (R165). -/
def execRel (u : Unit16) (s : State) : Host.Outcome State Fault Refusal :=
  .next (s.wrCmd (tuBase u + R.TRG_TU_CMD) F.TRG_TU_CMD_REL)

/-- RECORD_POST_TIME (R155). -/
def execRecordPostTime (u : Unit16) (s : State) : Host.Outcome State Fault Refusal :=
  .next (s.postTime u)

/-- REARM_DONE (R156). -/
def execRearmDone (u : Unit16) (s : State) : Host.Outcome State Fault Refusal :=
  .next (s.rearm u)

/-- STREAM_BLOCK_CLOSE (R164). -/
def execStreamBlockClose (part : Fin 32) (ch : Ch) (s : State) : Host.Outcome State Fault Refusal :=
  .next (s.blockTime part ch)

/-- VAT_PARTITION_WRITE (R160). -/
def execVatPartitionWrite (n : Fin 32) (w : Word) (s : State) : Host.Outcome State Fault Refusal :=
  .next (s.wr .host (R.TRG_VP + 4 * n.val) w)

/-- TRIG_OUT_PULSE_END (R166). -/
def execTrigOutPulseEnd (out : Fin 10) (s : State) : Host.Outcome State Fault Refusal :=
  .next (s.pulseEnd out)

end Sys2Proof.Machine
end

