-- ==== Sys2Proof/Machine/Dispatch.lean ====
section
/-!
DEFINITION. The meaning of a command: one arm for each, calling its own definition.
-/

namespace Sys2Proof.Machine

def exec (i : Instr) (s : State) : Host.Outcome State Fault Refusal :=
  match i with
  | .suppliesValid straps => Sys2Proof.Machine.execSuppliesValid straps s
  | .powerOnReset => Sys2Proof.Machine.execPowerOnReset s
  | .railExcursion ns => Sys2Proof.Machine.execRailExcursion ns s
  | .fuseLoad => Sys2Proof.Machine.execFuseLoad s
  | .lcpEnable flash xtal => Sys2Proof.Machine.execLcpEnable flash xtal s
  | .wearLogLoad => Sys2Proof.Machine.execWearLogLoad s
  | .ethernetStart => Sys2Proof.Machine.execEthernetStart s
  | .bootResponderStart => Sys2Proof.Machine.execBootResponderStart s
  | .configRead => Sys2Proof.Machine.execConfigRead s
  | .configCommit => Sys2Proof.Machine.execConfigCommit s
  | .calSlotChoose => Sys2Proof.Machine.execCalSlotChoose s
  | .serviceImageBoot => Sys2Proof.Machine.execServiceImageBoot s
  | .bootCalDone sides thresholds => Sys2Proof.Machine.execBootCalDone sides thresholds s
  | .ready => Sys2Proof.Machine.execReady s
  | .softReset path => Sys2Proof.Machine.execSoftReset path s
  | .refinWindow missing toggles mHz => Sys2Proof.Machine.execRefinWindow missing toggles mHz s
  | .firstLock => Sys2Proof.Machine.execFirstLock s
  | .lockSourceTimeout => Sys2Proof.Machine.execLockSourceTimeout s
  | .noSourceFault => Sys2Proof.Machine.execNoSourceFault s
  | .refinLost => Sys2Proof.Machine.execRefinLost s
  | .crystalSelect => Sys2Proof.Machine.execCrystalSelect s
  | .refinReturn => Sys2Proof.Machine.execRefinReturn s
  | .crystalLost => Sys2Proof.Machine.execCrystalLost s
  | .holdoverEnd src => Sys2Proof.Machine.execHoldoverEnd src s
  | .tbSrcWrite path w => Sys2Proof.Machine.execTbSrcWrite path w s
  | .driftUpdate offs => Sys2Proof.Machine.execDriftUpdate offs s
  | .baselineCapture mean => Sys2Proof.Machine.execBaselineCapture mean s
  | .rebase => Sys2Proof.Machine.execRebase s
  | .ets64Wrap => Sys2Proof.Machine.execEts64Wrap s
  | .snapCapture => Sys2Proof.Machine.execSnapCapture s
  | .paceUpdate counts => Sys2Proof.Machine.execPaceUpdate counts s
  | .paceMaxClr => Sys2Proof.Machine.execPaceMaxClr s
  | .avsCtlWrite w => Sys2Proof.Machine.execAvsCtlWrite w s
  | .avsEvaluation mV => Sys2Proof.Machine.execAvsEvaluation mV s
  | .avsAckTimeout => Sys2Proof.Machine.execAvsAckTimeout s
  | .edgeCapture ch rising taps => Sys2Proof.Machine.execEdgeCapture ch rising taps s
  | .ovfMarkerDeferred ch => Sys2Proof.Machine.execOvfMarkerDeferred ch s
  | .ovfUnmask ch => Sys2Proof.Machine.execOvfUnmask ch s
  | .blindMarkerDeferred ch => Sys2Proof.Machine.execBlindMarkerDeferred ch s
  | .reducerHandshake ch => Sys2Proof.Machine.execReducerHandshake ch s
  | .vatGrant ch words => Sys2Proof.Machine.execVatGrant ch words s
  | .watermark ch => Sys2Proof.Machine.execWatermark ch s
  | .chPartWrite ch w => Sys2Proof.Machine.execChPartWrite ch w s
  | .blindIntervalEnd ch => Sys2Proof.Machine.execBlindIntervalEnd ch s
  | .tdacApply ch => Sys2Proof.Machine.execTdacApply ch s
  | .tdacModeWrite ch w => Sys2Proof.Machine.execTdacModeWrite ch w s
  | .settlingEnd ch => Sys2Proof.Machine.execSettlingEnd ch s
  | .parkEnd ch => Sys2Proof.Machine.execParkEnd ch s
  | .pacerRun n w => Sys2Proof.Machine.execPacerRun n w s
  | .pacerTick n => Sys2Proof.Machine.execPacerTick n s
  | .tdacQueuePush ch code => Sys2Proof.Machine.execTdacQueuePush ch code s
  | .loadNEdge lowNs => Sys2Proof.Machine.execLoadNEdge lowNs s
  | .arrayGo => Sys2Proof.Machine.execArrayGo s
  | .strobe => Sys2Proof.Machine.execStrobe s
  | .clrIgn => Sys2Proof.Machine.execClrIgn s
  | .spRouteWrite path sp w => Sys2Proof.Machine.execSpRouteWrite path sp w s
  | .handoverTdacLoad sp => Sys2Proof.Machine.execHandoverTdacLoad sp s
  | .handoverSettled sp => Sys2Proof.Machine.execHandoverSettled sp s
  | .handoverCheckDone sp o => Sys2Proof.Machine.execHandoverCheckDone sp o s
  | .handoverStreamMove sp => Sys2Proof.Machine.execHandoverStreamMove sp s
  | .handoverForcedCut sp => Sys2Proof.Machine.execHandoverForcedCut sp s
  | .pinTest ch => Sys2Proof.Machine.execPinTest ch s
  | .pinTestDone ch pSource pSink nSource nSink joined => Sys2Proof.Machine.execPinTestDone ch pSource pSink nSource nSink joined s
  | .amonSelect w => Sys2Proof.Machine.execAmonSelect w s
  | .decResync ch => Sys2Proof.Machine.execDecResync ch s
  | .gateClose ch => Sys2Proof.Machine.execGateClose ch s
  | .gateStart ch => Sys2Proof.Machine.execGateStart ch s
  | .gateStop ch => Sys2Proof.Machine.execGateStop ch s
  | .applyNow ch => Sys2Proof.Machine.execApplyNow ch s
  | .tieRst ch => Sys2Proof.Machine.execTieRst ch s
  | .adevDump ch => Sys2Proof.Machine.execAdevDump ch s
  | .adevClr ch => Sys2Proof.Machine.execAdevClr ch s
  | .pairTimeout ch => Sys2Proof.Machine.execPairTimeout ch s
  | .exp1 ch h => Sys2Proof.Machine.execExp1 ch h s
  | .run ch h period count alt => Sys2Proof.Machine.execRun ch h period count alt s
  | .mask1k ch h ui mask => Sys2Proof.Machine.execMask1k ch h ui mask s
  | .retract ch seq elem gen => Sys2Proof.Machine.execRetract ch seq elem gen s
  | .seal ch seq elem gen => Sys2Proof.Machine.execSeal ch seq elem gen s
  | .unknownDtype w0 => Sys2Proof.Machine.execUnknownDtype w0 s
  | .materialise ch => Sys2Proof.Machine.execMaterialise ch s
  | .mordantEdge ch => Sys2Proof.Machine.execMordantEdge ch s
  | .autoSeal ch => Sys2Proof.Machine.execAutoSeal ch s
  | .edgeAgeOut ch => Sys2Proof.Machine.execEdgeAgeOut ch s
  | .creditReturn ch => Sys2Proof.Machine.execCreditReturn ch s
  | .mdEnable ch w => Sys2Proof.Machine.execMdEnable ch w s
  | .mdDisable ch => Sys2Proof.Machine.execMdDisable ch s
  | .flush ch => Sys2Proof.Machine.execFlush ch s
  | .polRst ch => Sys2Proof.Machine.execPolRst ch s
  | .dclr ch => Sys2Proof.Machine.execDclr ch s
  | .mdHWrite ch w => Sys2Proof.Machine.execMdHWrite ch w s
  | .trigInEdge pin rising edge => Sys2Proof.Machine.execTrigInEdge pin rising edge s
  | .stlAssert line edge held => Sys2Proof.Machine.execStlAssert line edge held s
  | .mark marker time48 => Sys2Proof.Machine.execMark marker time48 s
  | .markRelease u => Sys2Proof.Machine.execMarkRelease u s
  | .force u => Sys2Proof.Machine.execForce u s
  | .arm u => Sys2Proof.Machine.execArm u s
  | .disarm u => Sys2Proof.Machine.execDisarm u s
  | .rd u => Sys2Proof.Machine.execRd u s
  | .rel u => Sys2Proof.Machine.execRel u s
  | .recordPostTime u => Sys2Proof.Machine.execRecordPostTime u s
  | .rearmDone u => Sys2Proof.Machine.execRearmDone u s
  | .streamBlockClose part ch => Sys2Proof.Machine.execStreamBlockClose part ch s
  | .vatPartitionWrite n w => Sys2Proof.Machine.execVatPartitionWrite n w s
  | .trigOutPulseEnd out => Sys2Proof.Machine.execTrigOutPulseEnd out s
  | .hgConfigWrite ch reg w => Sys2Proof.Machine.execHgConfigWrite ch reg w s
  | .hgClr ch => Sys2Proof.Machine.execHgClr ch s
  | .hgSnap ch => Sys2Proof.Machine.execHgSnap ch s
  | .clrSweepDone ch => Sys2Proof.Machine.execClrSweepDone ch s
  | .lakeSpareMap path sp w => Sys2Proof.Machine.execLakeSpareMap path sp w s
  | .lakeCopyDone sp => Sys2Proof.Machine.execLakeCopyDone sp s
  | .level src params => Sys2Proof.Machine.execLevel src params s
  | .shmoo src params => Sys2Proof.Machine.execShmoo src params s
  | .jitter src params => Sys2Proof.Machine.execJitter src params s
  | .ltadev src params => Sys2Proof.Machine.execLtadev src params s
  | .calstore src params => Sys2Proof.Machine.execCalstore src params s
  | .selftest src params => Sys2Proof.Machine.execSelftest src params s
  | .serviceStart => Sys2Proof.Machine.execServiceStart s
  | .serviceDone handle seen failed taken => Sys2Proof.Machine.execServiceDone handle seen failed taken s
  | .serviceMaxtime handle => Sys2Proof.Machine.execServiceMaxtime handle s
  | .serviceAbort src handle => Sys2Proof.Machine.execServiceAbort src handle s
  | .imageWrite src bytes => Sys2Proof.Machine.execImageWrite src bytes s
  | .liveUpdate src drain => Sys2Proof.Machine.execLiveUpdate src drain s
  | .liveUpdateDrain => Sys2Proof.Machine.execLiveUpdateDrain s
  | .liveUpdateCoreSwap core => Sys2Proof.Machine.execLiveUpdateCoreSwap core s
  | .liveUpdateCheck ok => Sys2Proof.Machine.execLiveUpdateCheck ok s
  | .thermalRead temps => Sys2Proof.Machine.execThermalRead temps s
  | .calTimeDue fe => Sys2Proof.Machine.execCalTimeDue fe s
  | .calRun sonly => Sys2Proof.Machine.execCalRun sonly s
  | .calAbort => Sys2Proof.Machine.execCalAbort s
  | .calEventStart fe => Sys2Proof.Machine.execCalEventStart fe s
  | .calOffsetDone fe r f => Sys2Proof.Machine.execCalOffsetDone fe r f s
  | .calCollectDone fe counts => Sys2Proof.Machine.execCalCollectDone fe counts s
  | .calLiveTimeout fe => Sys2Proof.Machine.execCalLiveTimeout fe s
  | .calOverlapDone fe o => Sys2Proof.Machine.execCalOverlapDone fe o s
  | .calSwap fe => Sys2Proof.Machine.execCalSwap fe s
  | .calSwapStarved fe => Sys2Proof.Machine.execCalSwapStarved fe s
  | .calIdleRoute fe => Sys2Proof.Machine.execCalIdleRoute fe s
  | .calThresholdDone fe vals => Sys2Proof.Machine.execCalThresholdDone fe vals s
  | .calVdWrite path w => Sys2Proof.Machine.execCalVdWrite path w s
  | .autoStore => Sys2Proof.Machine.execAutoStore s
  | .linkAdmission l => Sys2Proof.Machine.execLinkAdmission l s
  | .linkTrainSeen l => Sys2Proof.Machine.execLinkTrainSeen l s
  | .linkLockTimeout l locked => Sys2Proof.Machine.execLinkLockTimeout l locked s
  | .linkAlignDone l linv nums => Sys2Proof.Machine.execLinkAlignDone l linv nums s
  | .linkParamDone l mask credits keep => Sys2Proof.Machine.execLinkParamDone l mask credits keep s
  | .linkEnWrite l en => Sys2Proof.Machine.execLinkEnWrite l en s
  | .widthChangeWindow l => Sys2Proof.Machine.execWidthChangeWindow l s
  | .lframeReceive l afterCtl bytes => Sys2Proof.Machine.execLframeReceive l afterCtl bytes s
  | .nakReceive l ackseq => Sys2Proof.Machine.execNakReceive l ackseq s
  | .replayTimeout l => Sys2Proof.Machine.execReplayTimeout l s
  | .ackInterval l => Sys2Proof.Machine.execAckInterval l s
  | .lframeSend l => Sys2Proof.Machine.execLframeSend l s
  | .frameHoldExpiry l => Sys2Proof.Machine.execFrameHoldExpiry l s
  | .eidleEnter l => Sys2Proof.Machine.execEidleEnter l s
  | .eidleWake l relocked => Sys2Proof.Machine.execEidleWake l relocked s
  | .adaptWindow l lane moves quiet => Sys2Proof.Machine.execAdaptWindow l lane moves quiet s
  | .adaptReverify l lane errors => Sys2Proof.Machine.execAdaptReverify l lane errors s
  | .fastAdaptEnd l lane moves => Sys2Proof.Machine.execFastAdaptEnd l lane moves s
  | .laneLoss l lane => Sys2Proof.Machine.execLaneLoss l lane s
  | .degrade l mask => Sys2Proof.Machine.execDegrade l mask s
  | .degradeAck l mask => Sys2Proof.Machine.execDegradeAck l mask s
  | .degradeAckTimeout l => Sys2Proof.Machine.execDegradeAckTimeout l s
  | .laneBackgroundLock l lane => Sys2Proof.Machine.execLaneBackgroundLock l lane s
  | .lnkRetrain l => Sys2Proof.Machine.execLnkRetrain l s
  | .lnkReset l => Sys2Proof.Machine.execLnkReset l s
  | .rejoin l => Sys2Proof.Machine.execRejoin l s
  | .lnkTest l => Sys2Proof.Machine.execLnkTest l s
  | .testExit l => Sys2Proof.Machine.execTestExit l s
  | .lnkTestModeWrite l w => Sys2Proof.Machine.execLnkTestModeWrite l w s
  | .regRead tag count be step addr => Sys2Proof.Machine.execRegRead tag count be step addr s
  | .regWrite tag count be step addr data => Sys2Proof.Machine.execRegWrite tag count be step addr data s
  | .writeAck tag count be step addr data => Sys2Proof.Machine.execWriteAck tag count be step addr data s
  | .directRead tag count be step addr => Sys2Proof.Machine.execDirectRead tag count be step addr s
  | .directWrite tag count be step addr data => Sys2Proof.Machine.execDirectWrite tag count be step addr data s
  | .ethFrameForward port f residence => Sys2Proof.Machine.execEthFrameForward port f residence s
  | .uldFrame port f => Sys2Proof.Machine.execUldFrame port f s
  | .uldRead src index sub => Sys2Proof.Machine.execUldRead src index sub s
  | .uldWrite src index sub data => Sys2Proof.Machine.execUldWrite src index sub data s
  | .segRead src index sub off => Sys2Proof.Machine.execSegRead src index sub off s
  | .segWrite src index sub off data => Sys2Proof.Machine.execSegWrite src index sub off data s
  | .begin src xid => Sys2Proof.Machine.execBegin src xid s
  | .commit src xid check => Sys2Proof.Machine.execCommit src xid check s
  | .abort src xid => Sys2Proof.Machine.execAbort src xid s
  | .ident src => Sys2Proof.Machine.execIdent src s
  | .sessionTimeout k => Sys2Proof.Machine.execSessionTimeout k s
  | .txnTimeout src => Sys2Proof.Machine.execTxnTimeout src s
  | .mailboxGo path => Sys2Proof.Machine.execMailboxGo path s
  | .bypSet => Sys2Proof.Machine.execBypSet s
  | .bypClr => Sys2Proof.Machine.execBypClr s
  | .netRateWrite w => Sys2Proof.Machine.execNetRateWrite w s
  | .ethLinkDown port => Sys2Proof.Machine.execEthLinkDown port s
  | .pdelayReqSend port => Sys2Proof.Machine.execPdelayReqSend port s
  | .pdelayReqReceive port domain seq requester turnaround => Sys2Proof.Machine.execPdelayReqReceive port domain seq requester turnaround s
  | .pdelayRespReceive port seq delay => Sys2Proof.Machine.execPdelayRespReceive port seq delay s
  | .ptpEnable d w => Sys2Proof.Machine.execPtpEnable d w s
  | .announce d port data interval => Sys2Proof.Machine.execAnnounce d port data interval s
  | .ptpMasterLost d => Sys2Proof.Machine.execPtpMasterLost d s
  | .sync d port master t1 => Sys2Proof.Machine.execSync d port master t1 s
  | .delayReqSend d => Sys2Proof.Machine.execDelayReqSend d s
  | .delayResp d mpd logInt => Sys2Proof.Machine.execDelayResp d mpd logInt s
  | .ptpCheckTimeout d => Sys2Proof.Machine.execPtpCheckTimeout d s
  | .ptpHoldoverExpiry d => Sys2Proof.Machine.execPtpHoldoverExpiry d s
  | .accept d => Sys2Proof.Machine.execAccept d s
  | .absorb d => Sys2Proof.Machine.execAbsorb d s
  | .reject d => Sys2Proof.Machine.execReject d s
  | .stepApply d => Sys2Proof.Machine.execStepApply d s
  | .registerWrite path addr be w => Sys2Proof.Machine.execRegisterWrite path addr be w s
  | .apertureWrite path group off be w => Sys2Proof.Machine.execApertureWrite path group off be w s
  | .indirectAccess path write w => Sys2Proof.Machine.execIndirectAccess path write w s
  | .lcpRead step addr n => Sys2Proof.Machine.execLcpRead step addr n s
  | .lcpWrite step addr data => Sys2Proof.Machine.execLcpWrite step addr data s
  | .lcpStatus => Sys2Proof.Machine.execLcpStatus s
  | .lcpCsRise incomplete => Sys2Proof.Machine.execLcpCsRise incomplete s
  | .unlockKey path key => Sys2Proof.Machine.execUnlockKey path key s
  | .unlockLapse path => Sys2Proof.Machine.execUnlockLapse path s
  | .fnLockSet path => Sys2Proof.Machine.execFnLockSet path s
  | .tvScrub => Sys2Proof.Machine.execTvScrub s
  | .mpDataRead path => Sys2Proof.Machine.execMpDataRead path s
  | .mpDataWrite path w => Sys2Proof.Machine.execMpDataWrite path w s
  | .configStore src bytes => Sys2Proof.Machine.execConfigStore src bytes s
  | .flashStoreDone ok => Sys2Proof.Machine.execFlashStoreDone ok s
  | .sramScrubPass site unit row ce ue => Sys2Proof.Machine.execSramScrubPass site unit row ce ue s
  | .rowRepairDone => Sys2Proof.Machine.execRowRepairDone s
  | .repairRetry sp => Sys2Proof.Machine.execRepairRetry sp s
  | .heartbeatMiss core => Sys2Proof.Machine.execHeartbeatMiss core s
  | .wearUpdate tj => Sys2Proof.Machine.execWearUpdate tj s
  | .wearLogWrite => Sys2Proof.Machine.execWearLogWrite s
  | .ethLinkUp port => Sys2Proof.Machine.execEthLinkUp port s
  | .ethEgressFree port => Sys2Proof.Machine.execEthEgressFree port s
  | .orderErrRetry l => Sys2Proof.Machine.execOrderErrRetry l s
  | .xtalAmplitudeReturn => Sys2Proof.Machine.execXtalAmplitudeReturn s
  | .indigoRestartDone => Sys2Proof.Machine.execIndigoRestartDone s
  | .serviceStopTimeout core => Sys2Proof.Machine.execServiceStopTimeout core s

end Sys2Proof.Machine
end

