-- ==== Sys2Proof/Machine/Operands.lean ====
section
/-!
DEFINITION. The operands of a command as bytes carry them: Mordant messages (R117), the EVENT messages
of the pattern link (R231) and the REG requests of the host link (R233), read from the content that a
link has accepted. `State.nextMessage` gives the command that stands at the front of a class.
-/

namespace Sys2Proof.Machine

/-- `len` bits from bit `lo` up of a number. -/
def numBits (w lo len : Nat) : Nat := w / 2 ^ lo % 2 ^ len

/-- 64-bit word k of a message, most significant byte first. -/
def msgWord (b : List Byte) (k : Nat) : Nat := ofBytesBE ((b.drop (8 * k)).take 8)

/-- SEQ, TAG, POL, ACTION, PROFILE and T_EXP of a descriptor; a MASK1K has no TAG. -/
def headOf (w0 w1 : Nat) (tagged : Bool) : DescHead :=
  { seq := BitVec.ofNat 24 (numBits w0 40 24), tag := if tagged then BitVec.ofNat 32 w0 else 0#32,
    pol := BitVec.ofNat 2 (numBits w1 62 2), action := BitVec.ofNat 3 (numBits w1 59 3),
    profile := BitVec.ofNat 4 (numBits w1 55 4), texp := BitVec.ofNat 48 w1 }

/-- The Mordant message at the front of MSG content, once all of its bytes are there (R117). -/
def mordantMessage (b : List Byte) : Option Instr :=
  if b.length < 16 then none
  else
    let w0 := msgWord b 0
    let w1 := msgWord b 1
    let ch := BitVec.ofNat 8 (numBits w0 32 8)
    let elem := BitVec.ofNat 16 (numBits w0 16 16)
    let gen := BitVec.ofNat 4 w0
    match numBits w1 48 7 with
    | 0x00 => some (.exp1 ch (headOf w0 w1 true))
    | 0x01 =>
      if b.length < 32 then none
      else
        let w2 := msgWord b 2
        some (.run ch (headOf w0 w1 true) (BitVec.ofNat 48 (numBits w2 16 48)) (BitVec.ofNat 16 w2)
          (decide (numBits (msgWord b 3) 63 1 = 1)))
    | 0x02 =>
      if b.length < 144 then none
      else some (.mask1k ch (headOf w0 w1 false) (BitVec.ofNat 32 w0) (BitVec.ofNat 1024 (ofBytesBE ((b.drop 16).take 128))))
    | 0x10 => some (.retract ch (BitVec.ofNat 24 (numBits w0 40 24)) elem gen)
    | 0x11 => some (.seal ch (BitVec.ofNat 24 (numBits w0 40 24)) elem gen)
    | _ => some (.unknownDtype (BitVec.ofNat 64 w0))

/-- The EVENT message at the front of EVENT content (R231). -/
def eventMessage (b : List Byte) : Option Instr :=
  if b.length < 16 then none
  else
    let w0 := msgWord b 0
    match numBits w0 60 4 with
    | 1 => some .strobe
    | 2 => some (.mark ⟨numBits w0 48 4 % 16, Nat.mod_lt _ (by decide)⟩ (BitVec.ofNat 48 w0))
    | _ => none

/-- `n` data words of 32 bits. -/
def dataWords : Nat → List Byte → List Word
  | 0, _ => []
  | n + 1, b => BitVec.ofNat 32 (ofBytesBE (b.take 4)) :: dataWords n (b.drop 4)

/-- The REG request at the front of REG content (R233). -/
def regMessage (b : List Byte) : Option Instr :=
  if b.length < 8 then none
  else
    let w := msgWord b 0
    let tag := BitVec.ofNat 12 (numBits w 48 12)
    let count := BitVec.ofNat 6 (numBits w 42 6)
    let be := BitVec.ofNat 4 (numBits w 38 4)
    let step := BitVec.ofNat 2 (numBits w 36 2)
    let addr := BitVec.ofNat 24 w
    let d := dataWords (count.toNat + 1) (b.drop 8)
    let whole := decide (8 + 4 * (count.toNat + 1) ≤ b.length)
    match numBits w 60 4 with
    | 1 => some (.regRead tag count be step addr)
    | 2 => if whole then some (.regWrite tag count be step addr d) else none
    | 3 => if whole then some (.writeAck tag count be step addr d) else none
    | 4 => some (.directRead tag count be step addr)
    | 5 => if whole then some (.directWrite tag count be step addr d) else none
    | _ => none

/-- The content of a class that waits on a link, oldest first. -/
def waiting (c : FClass) (l : List RxFrame) : List Byte := l.flatMap fun f => if f.cls = c then f.bytes else []

/-- The command that stands at the front of a class of a link's accepted content. -/
def State.nextMessage (s : State) (l : Link) (c : FClass) : Option Instr :=
  let b := waiting c (s.link l).rx
  match c with
  | .msg => mordantMessage b
  | .event => eventMessage b
  | .reg => regMessage b
  | _ => none

end Sys2Proof.Machine
end

