-- ==== Sys2Proof/Safety.lean ====
section
/-!
DEFINITION. What the statements call a sound state: every sparse store in its canonical form, and what
the invariants of the model say of registers and queues.
-/

namespace Sys2Proof.Machine

/-- Every sparse store is in its canonical form, so that equal contents are equal data: the registers,
the triplicated words, the calibration set, the flash, the Vat, the Lake, the erase counts (those in
the wear log too) and the spare rows used. -/
structure State.Canonical (s : State) : Prop where
  regs : Memory.wf resetWord s.regs = true
  tv : Memory.wf tvDefault s.tv = true
  cal : Memory.wf calFactory s.cal = true
  flash : Memory.wf flashBlank s.flash = true
  vat : Memory.wf vatNone s.vat = true
  lake : Memory.wf vatNone s.lake = true
  erases : Memory.wf (fun _ => 0) s.erases = true
  wear : Memory.wf (fun _ => 0) s.wear.erases = true
  rows : Memory.wf (fun _ => 0) s.rowsUsed = true

/-- The step answers a next state: it neither faults nor refuses. -/
def runs (s : State) : Prop := ∃ t, step s = .next t

/-! ### When a register write takes effect -/

/-- The register block has its configuration (R302), and no mailbox request waits for the dictionary. -/
def State.Serves (s : State) : Prop := s.cfgDone = true ∧ s.od.mailbox = none

/-- The path may write: the LCP only with DEV_MODE.LCP_WR set (R285). -/
def State.Writes (s : State) (p : Path) : Prop := p = .lcp → s.tvB 0 F.DEV_MODE_LCP_WR = true

/-- A guarded write of the path is admitted (R291, R292): Indigo's always, the others' with an unlock
that has not lapsed, where unlocking is not disabled. -/
def State.Unlocked (s : State) (p : Path) : Prop :=
  match lockOf p with
  | none => True
  | some i => s.armed i = true ∧ s.fb 0 F.PRT_STAT_UNLK_DIS = false

/-- The dictionary is served, the device is READY and Indigo runs an image (R247, R261): no command waits. -/
def State.OdServes (s : State) : Prop := s.indigo.serving = true ∧ s.ready = true ∧ s.imageRuns = true

/-! ### Frames -/

/-- Registers at the listed addresses may differ, and nothing else. -/
def State.OnlyRegs (s t : State) (l : List Nat) : Prop := t = { s with regs := t.regs } ∧ ∀ a, a ∉ l → t.w a = s.w a

/-- A write by a path: registers at the listed addresses and the path's own answer may differ. -/
def State.OnlyRegsOf (p : Path) (s t : State) (l : List Nat) : Prop :=
  t = { s with regs := t.regs, paths := t.paths } ∧ (∀ a, a ∉ l → t.w a = s.w a) ∧ ∀ q, q ≠ p → t.path q = s.path q

/-- Every byte of every memory reads as before: the Vat, the Lake, the flash and the calibration set. -/
def State.SameMemory (s t : State) : Prop :=
  (∀ a, t.vatVal a = s.vatVal a) ∧ (∀ a, sparseGet vatNone t.lake a = sparseGet vatNone s.lake a) ∧ t.lakeZero = s.lakeZero ∧
  (∀ a, sparseGet flashBlank t.flash a = sparseGet flashBlank s.flash a) ∧ ∀ k, t.calW k = s.calW k

/-- The parts that hold measurements and messages stand: channels, trigger units, links, the network and
the dictionary. -/
def State.SameEngines (s t : State) : Prop :=
  t.chans = s.chans ∧ t.units = s.units ∧ t.link0 = s.link0 ∧ t.link1 = s.link1 ∧ t.net = s.net ∧ t.od = s.od ∧
  t.indigo = s.indigo ∧ t.fes = s.fes ∧ t.spares = s.spares

/-! ### The timebase -/

/-- The source `active` has taken over (R36-R38): it is locked and marked, the change is counted, and a REF calibration
is requested for every front end that is neither fused off nor held. -/
def State.SwitchedTo (active : Nat) (s t : State) : Prop :=
  t.tbActive = active ∧ t.fb 0 F.TB_STAT_LOCKED = true ∧ t.fb 0 F.TB_STAT_SWITCHED = true ∧
  t.f 0 F.TB_SWITCH_CNT_VALUE = min (s.f 0 F.TB_SWITCH_CNT_VALUE + 1) (2 ^ F.TB_SWITCH_CNT_VALUE.len - 1) ∧
  ∀ f : FrontEnd, s.feFused f = false → s.calHold f = false → (t.f (feBase f) F.CH_CAL_STAT_CAUSE).testBit causeRef = true

/-- Holdover has begun (R36, R38): it is not locked, a REF calibration is requested, and without any usable source
NOSRC is set. -/
def State.InHoldover (s t : State) : Prop :=
  t.tbActive = actHoldover ∧ t.fb 0 F.TB_STAT_LOCKED = false ∧ (t.refQual = false → t.xtalOk = false → t.fb 0 F.DEV_FLT_NOSRC = true) ∧
  ∀ f : FrontEnd, s.feFused f = false → s.calHold f = false → (t.f (feBase f) F.CH_CAL_STAT_CAUSE).testBit causeRef = true

/-- A stored TB_SRC word: REF_FREQ = 3 reads back 0 (the TB_SRC table of 02_timebase). -/
def tbSrcWord (w : Word) : Word := if F.TB_SRC_REF_FREQ.of w = 3 then F.TB_SRC_REF_FREQ.into w 0 &&& 0x37#32 else w &&& 0x37#32

/-! ### Blind intervals (R60, R337) -/

/-- The blind interval that runs for an edge with raw time `raw`: one that starts at a later timebase instant does
not run yet. -/
def State.blindAt (s : State) (n : Ch) (raw : Nat) : Option BlindSt :=
  (s.chan n).blind.filter fun b => !(b.start.edge.isNone && decide (raw < b.start.raw))

/-- Nothing but the wait for an overflow extends interval b, and its BLIND marker finds a free entry. -/
def State.MayEndBlind (s : State) (n : Ch) (b : BlindSt) : Prop :=
  b.testWait = false ∧ b.endBy ≤ s.now ∧ ((s.chan n).settle s.now).held = [] ∧ ((s.chan n).settle s.now).fifo.length < fifoDepth

/-- Marker m is put into channel state `c` at `now`, and `t` results: behind what waited for the spacing window and an
absolute stamp that is due and waits for no edge; while the window is open the marker waits. -/
def Chan.Marked (now : Nat) (m : FEntry) (c t : Chan) : Prop :=
  (c.windowOpen now = true → t.fifo = c.fifo ∧ t.held = c.held ∧ t.later = c.later ++ [m]) ∧
  (c.windowOpen now = false →
    t.fifo ++ t.held = (c.settle now).fifo ++ (c.settle now).held ++ (if (c.settle now).stampsMarker then [FEntry.abs] else []) ++ [m] ∧
    ((c.settle now).held = [] → (c.settle now).fifo.length + 1 < fifoDepth → t.held = []))

/-- Interval b of channel state `c` has ended at `now`: its BLIND marker is written and the decimation counter restarts. -/
def Chan.BlindEnded (now : Nat) (b : BlindSt) (c t : Chan) : Prop :=
  t.blind = none ∧ t.decCount = 0 ∧ c.Marked now (FEntry.blind b.start now b.causes b.count) t

/-! ### Gates (R89, R97) -/

/-- Whether the FIFO has no entry for a gate-end marker that is due at `now`. -/
def Chan.noEntry (now : Nat) (c : Chan) : Bool := !(c.settle now).held.isEmpty || decide (fifoDepth ≤ (c.settle now).fifo.length)

/-- The gate-end marker of gate g of channel state `c`, closed at instant `at_`. -/
def Chan.endMarker (at_ : Nat) (cut : Bool) (g : GateRec) (c : Chan) : FEntry :=
  .gateEnd at_ (g.seq.setWidth 16) c.decCount (g.cut || cut) (min (c.gateHeld + 1) 255)
    (match c.blind with | some b => b.causes.ovf | none => false) c.blind.isSome

/-- Gate g of a channel has closed at `at_`: it is counted and numbered. -/
def State.GateCounted (n : Ch) (g : GateRec) (s t : State) : Prop :=
  t.f (chBase n) F.CH_GSEQ_GSEQ = g.seq.toNat ∧
  t.pair (chBase n + R.CH_GATES_H) = (s.pair (chBase n + R.CH_GATES_H) + 1) % 2 ^ 64

/-! ### Descriptors (R120, R122) -/

/-- Whether a descriptor's first expectation lies before the last one queued or left (R120). -/
def Desc.before (now : Nat) (d : Desc) (r : Option Int) : Bool :=
  match d.span now, r with
  | some (a, _), some x => decide (a < x)
  | _, _ => false

/-- A descriptor for channel n is refused with flag f: it counts in CH_MD_BAD and its credit returns. -/
def State.DescRefused (n : Ch) (f : Fld) (s t : State) : Prop :=
  t.fb (chBase n) f = true ∧ t.pair (chBase n + R.CH_MD_BAD_H) = (s.pair (chBase n + R.CH_MD_BAD_H) + 1) % 2 ^ 64 ∧
  (t.chan n).mord.queue = (s.chan n).mord.queue ∧ (t.chan n).mord.expSeq = (s.chan n).mord.expSeq ∧
  (t.chan n).mord.owed = (s.chan n).mord.owed + 1

/-- A descriptor for channel n joins the queue with every element it names; a SEQ that was not expected sets SEQ_ERR. -/
def State.DescQueued (n : Ch) (d : Desc) (s t : State) : Prop :=
  (t.chan n).mord.queue = (s.chan n).mord.queue ++ [{ d := d, left := d.elems, covered := [], done := 0 }] ∧
  (t.chan n).mord.expSeq = some (d.seq + 1#24) ∧ (t.chan n).mord.owed = (s.chan n).mord.owed ∧
  t.pair (chBase n + R.CH_MD_BAD_H) = s.pair (chBase n + R.CH_MD_BAD_H) ∧
  t.fb (chBase n) F.CH_MD_STAT_SEQ_ERR = (s.fb (chBase n) F.CH_MD_STAT_SEQ_ERR || (match (s.chan n).mord.expSeq with
    | some x => x != d.seq
    | none => false))

/-- What becomes of a descriptor for channel n, by the order of the checks of R120. -/
def State.DescriptorMet (n : Ch) (d : Desc) (s t : State) : Prop :=
  if d.malformed = true then s.DescRefused n F.CH_MD_STAT_BAD_DESC t
  else if s.fb (chBase n) F.CH_MD_CTL_EN = false then s.DescRefused n F.CH_MD_STAT_NOEN t
  else if d.before s.now (s.chan n).mord.orderRef = true then s.DescRefused n F.CH_MD_STAT_BAD_DESC t
  else if 64 ≤ (s.chan n).mord.queue.length then s.DescRefused n F.CH_MD_STAT_QOVR t
  else s.DescQueued n d t

/-! ### Trigger sources (R151, R154, R157) -/

/-- A TRIG_IN pin and an STL line among the pins whose crossings are kept. -/
def tinPin (k : Fin 4) : Fin 12 := ⟨k.val, by omega⟩
def stlPin (k : Fin 8) : Fin 12 := ⟨4 + k.val, by omega⟩

/-- What a source `src` of a sample does to unit u that enables it and was armed by then: an ARMED unit makes its event or,
while it waits for its pre-trigger side, ignores the source; in POST, for another sample, and in REARM the source is missed;
a unit disarmed after the sample makes its event still, and an IDLE one stands. -/
structure State.SourceMet (u : Unit16) (src sample : Nat) (s t : State) : Prop where
  armed : s.tuState u = tuArmed → (s.tuA u F.TRG_TU_CFG_FULLPRE ≠ 1 ∨ s.preFull u = true) →
    (t.tu u).event.map (fun (e : TrigEvent) => (e.sample, e.src)) = some (sample, BitVec.ofNat 16 (2 ^ src)) ∧
    t.w (tuBase u + R.TRG_TU_EVT) = s.w (tuBase u + R.TRG_TU_EVT) + 1#32 ∧ (t.tuState u = tuPost ∨ t.tuState u = tuRearm)
  ignored : s.tuState u = tuArmed → s.tuA u F.TRG_TU_CFG_FULLPRE = 1 → s.preFull u = false →
    t.fb (tuBase u) F.TRG_TU_STAT_IGN = true ∧ t.tuState u = tuArmed ∧ t.tu u = s.tu u
  missed : (s.tuState u = tuRearm ∨ (s.tuState u = tuPost ∧ (s.tu u).event.any (fun e => e.sample != sample) = true)) →
    t.fb (tuBase u) F.TRG_TU_STAT_MISSED = true ∧ (t.tu u).missed = (s.tu u).missed + 1 ∧ (t.tu u).event = (s.tu u).event
  idle : s.tuState u = tuIdle → (s.tu u).ghost.all (fun d => decide (d ≤ sample)) = true → t.tu u = s.tu u ∧ t.tuState u = tuIdle
  ghost : s.tuState u = tuIdle → (s.tu u).ghost.any (fun d => decide (sample < d)) = true →
    (t.tu u).ghost = none ∧ t.w (tuBase u + R.TRG_TU_EVT) = s.w (tuBase u + R.TRG_TU_EVT) + 1#32

/-! ### Service calls (R178, R179) -/

/-- Call k of handle h has ended in state `st`, at `now`, with `body` behind the 8-byte head: its core is free, and its
channels are released. -/
def State.CallEnded (h : Nat) (k : Call) (st : CallState) (now : Nat) (body : List Byte) (t : State) : Prop :=
  (t.call? h).map Call.st = some st ∧ (t.call? h).map Call.core = some none ∧ (t.call? h).map Call.claims = some [] ∧
  (t.call? h).map Call.result = some (k.head st now ++ body) ∧ ∀ c ∈ k.claims, t.fb (chBase c.1) F.CH_HG_STAT_SVC_OWN = false

/-- What an LTADEV call has measured; other calls bring nothing when they are stopped. -/
def Call.stopped (k : Call) : List Byte := if k.id = 4 then k.lt.flatMap LtChan.rows else []

/-- The service whose findings they are. -/
def SvcSeen.service : SvcSeen → Nat
  | .level _ => 1
  | .shmoo _ => 2
  | .jitter _ _ _ _ _ => 3
  | .loaded => 5
  | .selftest => 6

/-- A restart now would be the third within an hour under AUTO_ISLOT, while an image runs (R314). -/
def State.thirdRestart (s : State) : Bool :=
  s.fb 0 F.DEV_REP_CTL_AUTO_ISLOT && decide (2 ≤ (s.indigo.restarts.filter fun t => decide (s.now < t + 3600 * tkSec)).length) && s.imageRuns

/-- On the third restart the other slot runs where its image is valid, and else the boot responder. -/
def State.SlotMoved (s t : State) : Prop :=
  (s.thirdRestart = true → t.indigo.restarts = [] ∧
    if t.imgValid (s.otherSlot - 1) then t.f 0 F.DEV_SVC_STAT_SLOT = s.otherSlot ∧ t.fb 0 F.DEV_FLT_IND_SLOT = true
    else t.f 0 F.DEV_SVC_STAT_SLOT = 0 ∧ t.fb 0 F.DEV_SVC_STAT_NOIMG = true) ∧
  (s.thirdRestart = false → t.w R.DEV_SVC_STAT = s.w R.DEV_SVC_STAT)

/-! ### Calibration (R195-R208) -/

/-- A front end's threshold block after a part that measured v (R211). -/
def State.thrWords (s : State) (f : FrontEnd) (v : ThrVals) : List Word :=
  let half (a b : Int) : Word := BitVec.ofNat 32 (satSigned 16 a * 65536 + satSigned 16 b)
  [i32Word v.compOfs, u32Word v.g1, i32Word v.o1, u32Word v.g2, i32Word v.o2, half v.cd.1 v.cd.2.1, half v.cd.2.2.1 v.cd.2.2.2,
   BitVec.ofNat 32 (satSigned 16 (s.tj f) * 65536 + 1)]

/-- The threshold values of front end f have been written, and with them a channel's path skews; its part is complete
now, and no other word of the set has changed. -/
def State.ThrWritten (f : FrontEnd) (v : ThrVals) (s t : State) : Prop :=
  (∀ i, i < 8 → t.calW (feBlock f + i) = (s.thrWords f v).getD i 0#32) ∧
  (f.val < 128 → t.calW (pathBlock f) = i32Word v.spareSkew ∧ t.calW (pathBlock f + 1) = i32Word v.pairSkew) ∧
  (∀ k, (k < feBlock f ∨ feBlock f + 8 ≤ k) → (128 ≤ f.val ∨ k < pathBlock f ∨ pathBlock f + 2 ≤ k) → t.calW k = s.calW k) ∧
  (t.fe f).lastT = some s.now ∧ t.fb (feBase f) F.CH_CAL_STAT_THR_DUE = false

/-- A threshold part of front end f has come to its start, with a slot free or not: it runs where no route is needed, or on
a loan of the spare, and else waits, deferred where no route is open. -/
def State.ThrStarted (f : FrontEnd) (free : Bool) (s t : State) : Prop :=
  (t.fe f).running = true ∧ (t.fe f).needT = true ∧
  (s.routeFree f = true → free = true → t.calPhase f = phThreshold ∧ (t.fe f).slot = true ∧ t.fb (feBase f) F.CH_CAL_STAT_THR_DEFER = false) ∧
  (s.routeFree f = false → (s.feChannel f).any (s.loanOpen f) = true → free = true →
    t.calPhase f = phThreshold ∧ (t.fe f).slot = true ∧ t.loanOf f = s.feChannel f ∧ t.spState (Ch.spareOf (chOf f.val)) = 1) ∧
  ((s.routeFree f = true ∨ (s.feChannel f).any (s.loanOpen f) = true) → free = false →
    t.calPhase f = phWait ∧ (t.fe f).slot = false ∧ t.spares = s.spares) ∧
  (s.routeFree f = false → (s.feChannel f).any (s.loanOpen f) = false →
    t.calPhase f = phWait ∧ (t.fe f).slot = false ∧ t.fb (feBase f) F.CH_CAL_STAT_THR_DEFER = true ∧ t.spares = s.spares)

/-- The slots that remain in use while front end f holds none. -/
def State.slotsBut (s : State) (f : FrontEnd) : Nat := (allFe.filter fun g => g != f && (s.fe g).slot).length

/-- A collection of front end f has failed a test: live hits give way to the dither source, dither hits are collected once
more, and the second time the side keeps its former values and FAIL is set. -/
def State.CollectionFailed (f : FrontEnd) (s t : State) : Prop :=
  ((s.fe f).src = CalSrc.live → t = s.setFe f { s.fe f with src := .dither, dsrc := 1, tested := false }) ∧
  ((s.fe f).src = CalSrc.dither → (s.fe f).ditherFailed = false → t = s.setFe f { s.fe f with ditherFailed := true, tested := false }) ∧
  ((s.fe f).src = CalSrc.dither → (s.fe f).ditherFailed = true →
    t.fb (feBase f) (failFld (s.standby f)) = true ∧ (t.fe f).needS = false ∧ t.cal = (s.restoreSide f).cal ∧ t.clk = s.clk)

/-- Whether the idle route may start on channel n for front end f (R204). -/
def State.idleRouteMay (s : State) (f : FrontEnd) (n : Ch) : Bool :=
  (s.fe f).running && (s.fe f).needT && !(s.fe f).needS && decide (s.calPhase f = phWait) && !s.fb (feBase f) F.CH_CAL_CTL_NOIDLE &&
  s.idleOk n && !s.routeFree f && !s.loanOpen f n && decide (s.calSlots < 16)

/-- The temperatures that a set of readings gives: a reading out of range counts as the hottest core sensor's (R318). -/
def State.readings (s : State) (raw : List Int) : List Int :=
  let core := ((raw.take 12).drop 8).filter goodTj
  (raw.take 12).map fun x => if goodTj x then x else core.foldl max (core.headD (s.temps.headD 0))

/-- The next due instant of Ochre's stores, every h from the end e of the first full calibration, the last at `last` (R216). -/
def autoStoreAt (h e last now : Nat) : Nat := e + max ((last - e) / h + 1) ((now - e + h - 1) / h) * h

/-! ### L-frames (R225) -/

/-- The first header word of a frame. -/
def frameWord (b : List Byte) : Nat := ofBytesBE (b.take 8)

/-- The frame is whole: a header with a LEN that R225 allows, LEN payload bytes, and a CRC that agrees. -/
def frameGood (b : List Byte) : Prop :=
  16 ≤ b.length ∧ lenOk (frameWord b) = true ∧ b.length = 16 + frameWord b % 512 ∧
  (crc32 (b.take 12 ++ b.drop 16)).toNat = ofBytesBE ((b.drop 12).take 4)

/-- Its traffic class code and its sequence number. -/
def frameType (b : List Byte) : Nat := frameWord b / 2 ^ 56 % 16
def frameSeq (b : List Byte) : BitVec 12 := BitVec.ofNat 12 (frameWord b / 2 ^ 44)

/-- The replay buffer after an acknowledgement up to a number: unchanged where no frame in it has that number. -/
def LinkSt.after (x : LinkSt) (seq : BitVec 12) : List UFrame :=
  if x.unacked.any fun f => f.seq == seq then x.unacked.drop ((x.unacked.takeWhile fun f => f.seq != seq).length + 1) else x.unacked

/-- Link l has taken the acknowledgement in a frame's header (R226). -/
def State.AckTaken (l : Link) (b : List Byte) (s t : State) : Prop :=
  (t.link l).unacked = if frameWord b / 2 ^ 31 % 2 = 1 then (s.link l).after (BitVec.ofNat 12 (frameWord b / 2 ^ 32)) else (s.link l).unacked

/-- And the credits in it, by class (R228). -/
def State.CreditTaken (l : Link) (b : List Byte) (s t : State) : Prop :=
  ∀ c : Fin 6, (t.link l).txCred[c] =
    (s.link l).txCred[c] + (if frameWord b / 2 ^ 12 % 16 = c.val then frameWord b / 2 ^ 16 % 4096 else 0)

/-- Link l has accepted a sequenced frame that uses `need` credits: the next SEQ is expected, an acknowledgement is owed, and
what the header returns is taken. -/
def State.Accepted (l : Link) (b : List Byte) (need : Nat) (s t : State) : Prop :=
  (t.link l).rxSeq = (s.link l).rxSeq + 1#12 ∧ (t.link l).rxAny = true ∧ (t.link l).discarding = false ∧ (t.link l).nakAt = none ∧
  (t.link l).ackAt = some ((s.link l).ackAt.getD s.now) ∧ s.AckTaken l b t ∧ s.CreditTaken l b t ∧
  (∀ c : Fin 6, c.val = frameType b → (t.link l).rxCred[c] = (s.link l).rxCred[c] - need) ∧
  t.pair (lnkBase l + R.LNK_RXF_H) = (s.pair (lnkBase l + R.LNK_RXF_H) + 1) % 2 ^ 64 ∧ t.clk = s.clk ∧ s.SameMemory t

/-- No REG request with an unknown OP stands at the front of this content. -/
def rxOk (r : List RxFrame) : Prop := 8 ≤ (frontBytes .reg r).length → badOp (ofBytesBE ((frontBytes .reg r).take 8)) = false

/-- A frame has gone out at `now`: it carries the acknowledgement in force and the credits owed of one class, which are then
the partner's. -/
def LinkSt.Sent (now ftype seq : Nat) (nak rsnd : Bool) (payload : List Byte) (x y : LinkSt) : Prop :=
  y.sent = frameBytes ftype seq (x.rxSeq - 1#12).toNat x.rxAny nak rsnd x.owes.1 x.owes.2 payload ∧ y.wire = [.frame y.sent] ∧
  y.ackAt = none ∧ y.busyAt = now ∧
  ∀ c : Fin 6, y.credOwed[c] = x.credOwed[c] - (if c.val = x.owes.2 then x.owes.1 else 0) ∧
    y.rxCred[c] = x.rxCred[c] + (if c.val = x.owes.2 then x.owes.1 else 0)

/-- A sequenced frame of class c has gone out on link l: it takes the next SEQ, enters the replay buffer and spends credit. -/
def State.SeqSent (l : Link) (c : FClass) (items : List TxItem) (payload : List Byte) (rsnd : Bool) (s t : State) : Prop :=
  (t.link l).txSeq = (s.link l).txSeq + 1#12 ∧
  (t.link l).unacked = (s.link l).unacked ++ [{ seq := (s.link l).txSeq, cls := c, items := items, payload := payload, rsnd := rsnd }] ∧
  (∀ k : Fin 6, (t.link l).txCred[k] = (s.link l).txCred[k] - (if k.val = c.code then frameCredits payload.length else 0)) ∧
  (s.link l).Sent t.now c.code (s.link l).txSeq.toNat false rsnd payload (t.link l) ∧
  t.pair (lnkBase l + R.LNK_TXF_H) = (s.pair (lnkBase l + R.LNK_TXF_H) + 1) % 2 ^ 64 ∧
  (∀ a, a ∉ [lnkBase l + R.LNK_TXF_H, lnkBase l + R.LNK_TXF_H + 4] → t.w a = s.w a) ∧
  (∀ m : Link, m ≠ l → t.link m = s.link m) ∧ t = { s with regs := t.regs, link0 := t.link0, link1 := t.link1, clk := t.clk }

/-- The next frame of class c has gone out on link l: whole entries of it, or the next piece of its first record. -/
def State.ClassSent (l : Link) (c : FClass) (s t : State) : Prop :=
  (t.link l).resend = (s.link l).resend ∧
  (c ≠ .record → s.SeqSent l c ((s.link l).pack c).1 ((s.link l).pack c).2.1 false t ∧
    (t.link l).tx = dropClass c ((s.link l).pack c).1.length (s.link l).tx) ∧
  (c = .record → ∀ i ∈ ((s.link l).pack c).1,
    s.SeqSent l c (if i.bytes.length ≤ i.off + ((s.link l).pack c).2.1.length then [i] else []) ((s.link l).pack c).2.1 i.rsnd t ∧
    (t.link l).tx = if i.bytes.length ≤ i.off + ((s.link l).pack c).2.1.length then (s.link l).tx.erase i
      else updateFirst (fun j => j = i) (fun j => { j with off := j.off + ((s.link l).pack c).2.1.length }) (s.link l).tx)

/-- The class whose packing hold ends first, of those whose frame the limits and the credit let go. -/
def State.holdNext (s : State) (l : Link) : Option FClass :=
  match serveOrder.filter fun c => !((s.link l).pack c).1.isEmpty && (s.link l).mayGo c ((s.link l).pack c).2.1.length with
  | [] => none
  | c :: cs => some (cs.foldl (fun b d => if s.holdEnd l d < s.holdEnd l b then d else b) c)

/-- Link state x at `now`, after its replay buffer has gone out again behind an IDLE block: frames unchanged, with the
acknowledgement in force and the credits they returned at first. -/
def LinkSt.replayed (now : Nat) (x : LinkSt) : LinkSt :=
  let fr := (x.unacked.zip x.metas).map fun p => frameBytes p.1.cls.code p.1.seq.toNat (x.rxSeq - 1#12).toNat x.rxAny false p.1.rsnd
    p.2.cred p.2.cclass p.1.payload
  { x with replays := x.replays + 1, oldestAt := now, busyAt := now, metas := x.metas.map fun m => { m with sentAt := now }
           ackAt := none, wire := .ctl .idle :: fr.map .frame, sent := fr.getLastD x.sent }

/-! ### Lanes (R218-R236) -/

/-- The lanes that PARAM agrees on: those of the partner's mask that are enabled and have locked. -/
def State.agreed (s : State) (l : Link) (mask : BitVec 16) : Nat :=
  (List.range 16).foldl (fun a i =>
    if mask.getLsbD i && s.laneEn l i && allLanes.any (fun k => (s.link l).lanes[k].locked && s.lpos l k == i) then a + 2 ^ i else a) 0

/-- How many alignment periods have passed at the next window. -/
def State.periods (s : State) (l : Link) : Nat :=
  max 1 ((s.now - (s.link l).winAt + s.windowTk l - 1) / s.windowTk l)

/-- Whether a window leaves the lane of a logical number in service, or lets it join. -/
def State.windowLane (s : State) (l : Link) (i : Nat) : Bool :=
  (s.lnk l F.LNK_LANES_EN).testBit i &&
  ((s.insvc l).testBit i || allLanes.any fun k => (s.link l).lanes[k].joining && s.lpos l k == i)

/-- Lane k has been lost: it is counted and marked, and retired at the third loss within 1 s. -/
def State.LaneLost (l : Link) (k : Lane) (s t : State) : Prop :=
  t.lnk l F.LNK_STAT_LANE_LOST = 1 ∧ t.lnk l (lstat F.LNK_LSTAT_LOSSES k) = min 255 (s.lnk l (lstat F.LNK_LSTAT_LOSSES k) + 1) ∧
  t.lnk l (lstat F.LNK_LSTAT_INSVC k) = 0 ∧
  (2 ≤ ((s.link l).lanes[k].losses.filter (fun (d : Nat) => decide (s.now < d + tkSec))).length → t.lnk l (lstat F.LNK_LSTAT_RETIRED k) = 1)

/-- Link l stripes over a mask behind RESTRIPE, after `answer`: what comes is discarded until a replay, which a NAK asks for.
Below MINW it retrains. -/
def State.Restriped (l : Link) (m : Nat) (answer : List LineOut) (s t : State) : Prop :=
  (t.link l).unacked = (s.link l).unacked ∧ (t.link l).txSeq = (s.link l).txSeq ∧ t.clk = s.clk ∧
  (s.minw l ≤ maskCount m → t.lnkState l = lnkActive ∧ t.insvc l = m ∧ t.lnk l F.LNK_STAT_WIDTH = maskCount m ∧
    (t.link l).wire = answer ++ [.ctl (.restripe (BitVec.ofNat 16 m))] ∧
    (t.link l).discarding = true ∧ (t.link l).nakDue = true ∧ (t.link l).nakAt = some s.now ∧
    t.pair (lnkBase l + R.LNK_NAK_H) = (s.pair (lnkBase l + R.LNK_NAK_H) + 1) % 2 ^ 64) ∧
  (maskCount m < s.minw l → t.lnkState l = lnkDetect ∧ t.lnk l F.LNK_STAT_RETRAIN = 1 ∧ t.insvc l = 0 ∧ (t.link l).leftAt = some s.now)

/-! ### Readers (R85) -/

/-- A watermark, which the FIFO does not hold. -/
def FEntry.isWatermark : FEntry → Bool
  | .watermark _ => true
  | _ => false

/-! ### Accesses (R279-R285) -/

/-- The word that a write gives its register: byte lanes merge into the one that stands there (R279). -/
def State.written (s : State) (p : Path) (a : Nat) (be : BitVec 4) (w : Word) : Word :=
  if be = 0xF#4 then w else (s.mergeBase p a &&& ~~~beMask be) ||| (w &&& beMask be)

/-- The path's access to an address was refused for a cause, with ACC_FAULT, and nothing else. -/
def State.AccessRefused (p : Path) (cause a : Nat) (s t : State) : Prop :=
  t.fb 0 F.PRT_STAT_ACC_FAULT = true ∧ t.f 0 F.PRT_FAULTA_ADDR = a ∧ t.f 0 F.PRT_FAULTA_CAUSE = cause ∧ t.f 0 F.PRT_FAULTA_PATH = p.idx ∧
  (t.path p).resp = 1 ∧ s.OnlyRegsOf p t [R.PRT_STAT, R.PRT_FAULTA]

/-! ### The dictionary (R258-R275) -/

/-- A READ or SEG_READ (`reads`), or a WRITE or SEG_WRITE, of an index is not held off by start-up or by the boot
responder (R247, R261). -/
def State.OdOpen (s : State) (reads : Bool) (index : Nat) : Prop :=
  s.indigo.serving = true ∧ (reads = true ∧ odIdentity index = true ∨
    s.ready = true ∧ (s.imageRuns = true ∨ odListed index = none ∨ odIdentity index = true ∨ 0x7200 ≤ index ∧ index ≤ 0x7203))

/-- The command is answered BUSY with a time of four bytes: that until READY, or, of a call to a service before the first
image runs, a free value; else, under the boot responder, unknown (R187, R247, R302). -/
def State.OdBusy (s : State) (index : Nat) (t : State) : Prop :=
  t.od.answer.1 = odBusy ∧ t.od.answer.2.length = 4 ∧
  (s.ready = true → (odService index 0).isSome = false ∨ s.fb 0 F.DEV_SVC_STAT_NOIMG = true →
    t.od.answer = odBusyUnknown ∧ t.free = s.free) ∧
  t = { s with od := { s.od with answer := t.od.answer }, free := t.free }

/-- Command c is staged in transaction x where its check is OK and it fits; else its status is answered and the commit
will fail by the first such status (R272, R273, R275). -/
def State.Staged (x : Txn) (c : OdCmd) (s t : State) : Prop :=
  let fits := x.stream.length + c.stream.length ≤ 262144
  let space := s.od.space + (captureSize (x.stream.length + c.stream.length) - captureSize x.stream.length) ≤ 524288
  let put (y : Txn) : List Txn := s.od.txns.map fun z => if z.src = x.src then y else z
  let failed (st : Nat) : Prop := t.od.answer = odAnswer st ∧ t.od.txns = put { x with failed := x.failed.or (some st), last := s.now }
  (s.stageStatus x c = odOk → fits → space →
    t.od.answer = (odOk, []) ∧ t.od.txns = put { x with cmds := x.cmds ++ [c], stream := x.stream ++ c.stream, last := s.now }) ∧
  (s.stageStatus x c ≠ odOk → failed (s.stageStatus x c)) ∧
  (s.stageStatus x c = odOk → ¬fits → failed odRange) ∧
  (s.stageStatus x c = odOk → fits → ¬space → failed odNoRes) ∧
  t = { s with od := { s.od with answer := t.od.answer, txns := t.od.txns } }

/-- A segment of session x is answered, r the state after its value was read: the session is kept unless the transfer of
`len` bytes is complete (R265). -/
def State.SegAnswered (x : Session) (off : Word) (seg : List Byte) (len : Nat) (r t : State) : Prop :=
  t.od.answer = (odOk, wordBytes off ++ seg) ∧
  t.od.sessions = r.od.sessions.filter (fun y => !y.on x.src x.index x.sub) ++
    (if off.toNat + seg.length = len then [] else [{ x with last := r.now }]) ∧
  t = { r with od := { r.od with answer := t.od.answer, sessions := t.od.sessions } }

/-- The answer a command left. -/
def State.answered (a : OdAnswer) (s : State) : State := { s with od := { s.od with answer := a } }

/-! ### The field network and its time domains (R238-R257) -/

/-- What a frame of g's length fills of port q's buffer. -/
def State.bufWith (s : State) (q : Port) (g : EthFrame) : Nat :=
  ((s.port q).buf.map fun h => h.bytes.length + 4).sum + g.bytes.length + 4

/-- Frame g, which came in on port p, goes out of the other port, waits in its buffer, or is dropped; a bad FCS is counted
(R240, R241). -/
def State.Forwarded (p : Port) (g : EthFrame) (s t : State) : Prop :=
  let q := p.other
  let idle := (s.port q).busy = false ∧ (s.port q).buf = []
  let fwd := if p = .e0 then R.NET_FWD0_H else R.NET_FWD1_H
  (s.portUp q = true → idle → t.port q = { s.port q with busy := true, sent := .forwarded g }) ∧
  (s.portUp q = true → ¬idle → s.bufWith q g ≤ 16384 → t.port q = { s.port q with buf := (s.port q).buf ++ [g] }) ∧
  (s.portUp q = true → idle ∨ s.bufWith q g ≤ 16384 →
    t.pair fwd = (s.pair fwd + 1) % 2 ^ 64 ∧ t.pair R.NET_DROP_H = s.pair R.NET_DROP_H ∧
    t.fb 0 F.NET_STAT_FWD_DROP = s.fb 0 F.NET_STAT_FWD_DROP) ∧
  (s.portUp q = false ∨ ¬idle ∧ 16384 < s.bufWith q g →
    t.net = s.net ∧ t.pair fwd = s.pair fwd ∧ t.pair R.NET_DROP_H = (s.pair R.NET_DROP_H + 1) % 2 ^ 64 ∧
    t.fb 0 F.NET_STAT_FWD_DROP = true) ∧
  (g.fcsOk = false → t.fb 0 F.NET_STAT_FCS_FWD = true ∧ t.pair R.NET_FCS_H = (s.pair R.NET_FCS_H + 1) % 2 ^ 64) ∧
  (g.fcsOk = true → t.fb 0 F.NET_STAT_FCS_FWD = s.fb 0 F.NET_STAT_FCS_FWD ∧ t.pair R.NET_FCS_H = s.pair R.NET_FCS_H) ∧
  t.port p = s.port p ∧ t.net.doms = s.net.doms ∧ t = { s with regs := t.regs, net := t.net }

/-- The transparent clock's own reports stand: no frame went uncorrected, or without a link delay. -/
def State.NoClockReport (s t : State) : Prop :=
  t.fb 0 F.NET_STAT_UNCOR = s.fb 0 F.NET_STAT_UNCOR ∧ t.pair R.NET_UNCOR_H = s.pair R.NET_UNCOR_H ∧
  t.fb 0 F.NET_STAT_PDLY_NONE = s.fb 0 F.NET_STAT_PDLY_NONE

/-- One of the device's own frames goes out of port x at once where nothing waits, else after what waits (R240). -/
def PortSt.given (o : OwnFrame) (x : PortSt) : PortSt :=
  if x.busy = false ∧ x.buf = [] ∧ x.own = [] then { x with busy := true, sent := .own o } else { x with own := x.own ++ [o] }

/-- The offset of a Sync on port p: the domain's time less the master's, corrected for the path delay in use (R254); `mpd` is
what `mpdOf` gives for the port. -/
def State.syncOffset (s : State) (d : Dom) (mp : DomMap) (t1 mpd : Int) : Int :=
  s.offset d mp s.now t1 (if s.dm d F.PTP_CFG_P2P = 1 ∧ (s.dom d).check = none then mpd else s.dmPair d R.PTP_MPD_H)

/-- Offset o lies within the smaller threshold of the last applied one (R255). -/
def State.near (s : State) (d : Dom) (o : Int) : Bool := decide (iabs (o - (s.dom d).lastO.getD o) ≤ s.smallThr d)

/-- A sample of offset o is applied in state st after `good` samples within 100 ns; the servo's rate is free value k
(R46, R254). -/
def State.SampleApplied (d : Dom) (mp : DomMap) (o : Int) (st good k : Nat) (t : State) : Prop :=
  t.domMap d = some { anchor := t.now, s := mp.at t.now, rate := clampRate (Config.servoRate k), era := mp.era } ∧
  (t.dom d).lastO = some o ∧ (t.dom d).good = (if iabs o ≤ 6553600 then good + 1 else 0) ∧
  (t.dom d).check = none ∧ (t.dom d).pend = none ∧
  t.domState d = if st = domAcquire ∧ 16 ≤ (t.dom d).good then domSlave else st

/-- A sample went into domain d alone: its own registers, map and free value may differ. -/
def State.OnlyDomain (d : Dom) (s t : State) : Prop :=
  (∀ e : Dom, e ≠ d → t.dom e = s.dom e ∧ t.domMap e = s.domMap e) ∧ t.net.ports = s.net.ports ∧
  (∀ a, a < dmBase d.val ∨ dmBase d.val + 0x40 ≤ a → t.w a = s.w a) ∧
  t = { s with regs := t.regs, net := t.net, maps := t.maps, mapLogs := t.mapLogs, mapLost := t.mapLost, free := t.free, clk := t.clk }

/-- The offset o of a check became a pending step (R255). -/
def State.StepRefused (d : Dom) (o : Int) (s t : State) : Prop :=
  t.domState d = domHoldover ∧ t.dm d F.PTP_STAT_HREASON = hrStep ∧ t.dm d F.PTP_STAT_JUMP_REFUSED = 1 ∧
  t.dm d F.PTP_STAT_PEND = 1 ∧ t.pair (dmBase d.val + R.PTP_PEND_H) = (-o % (2 ^ 64 : Int)).toNat ∧
  (t.dom d).pend = some { sum := 0, count := 0 } ∧ t.domMap d = s.domMap d

/-- The check c of domain d ends with path delay mpd, by the rows of R255; a sample that is slewed out takes free value k. -/
def State.CheckEnded (d : Dom) (c : Check) (mp : DomMap) (mpd : Int) (k : Nat) (s t : State) : Prop :=
  let dd := iabs (mpd - s.dmPair d R.PTP_MPD_H)
  let o := s.offset d mp c.latest.1 c.latest.2 mpd
  let dO := iabs (o - (s.dom d).lastO.getD 0)
  let band := 3 * dd ≤ 4 * dO ∧ 4 * dO ≤ 5 * dd
  (t.dom d).check = none ∧ t.pair (dmBase d.val + R.PTP_MPD_H) = (mpd % (2 ^ 64 : Int)).toNat ∧
  t.dm d F.PTP_STAT_PATH_STEP = (if s.pthr d < dd then 1 else s.dm d F.PTP_STAT_PATH_STEP) ∧
  (s.pthr d < dd → dO ≤ s.smallThr d →
    t.domState d = (s.dom d).before % 16 ∧ t.domMap d = s.domMap d ∧ (t.dom d).pend = (s.dom d).pend ∧
    t.pair (dmBase d.val + R.PTP_PEND_H) = s.pair (dmBase d.val + R.PTP_PEND_H) ∧
    t.dm d F.PTP_STAT_JUMP_REFUSED = s.dm d F.PTP_STAT_JUMP_REFUSED) ∧
  (s.pthr d < dd → s.smallThr d < dO → band → s.StepRefused d o t ∧ t.dm d F.PTP_STAT_ASYM_SUSPECT = 1) ∧
  ((s.pthr d < dd → s.smallThr d < dO ∧ ¬band) → s.jthr d < iabs o →
    s.StepRefused d o t ∧ t.dm d F.PTP_STAT_ASYM_SUSPECT = s.dm d F.PTP_STAT_ASYM_SUSPECT) ∧
  ((s.pthr d < dd → s.smallThr d < dO ∧ ¬band) → iabs o ≤ s.jthr d → (s.dom d).pend = none →
    t.SampleApplied d mp o ((s.dom d).before % 16) (if (s.dom d).before = domAcquire then 0 else (s.dom d).good) k ∧
    t.dm d F.PTP_STAT_JUMP_REFUSED = s.dm d F.PTP_STAT_JUMP_REFUSED)

end Sys2Proof.Machine
end

