-- ==== Sys2Proof/Certificates/Slice0/Obligations.lean ====
section
/-!
DEFINITION. The statements for the provers: what each command does to the state, and what every step
keeps. A clause begins with the command it is about.
-/

open Sys2Proof Sys2Proof.Machine

/-- A step runs the command at the front of the queue on the state with the queue's rest. Rests on 98_reader,
00_scope. For every state whose queue starts with a command c, the step is exec of c on that state with the rest of
the queue. Commands wait first in, first out. -/
def Obligations.StepRunsTheFrontCommand : Prop :=
  (∀ (s : State) (c : Instr) (rest : List Instr), s.pending = c :: rest → step s = exec c { s with pending := rest })

/-- On an empty queue one timebase period passes, once device time runs (the model's choice). Rests on R1, R41,
02_timebase. The spec gives no command for the passing of time; that a step on an empty queue is one timebase period
of 256 tk is the model's choice (assumption 1). ETS64 advances by 256, EPX32 by its carry, and nothing else changes;
before the first lock nothing does. -/
def Obligations.EmptyQueueLetsAPeriodPass : Prop :=
  (∀ (s : State), s.pending = [] → s.clk.running = true →
    ∃ t, step s = .next t ∧ t.clk.ets = s.clk.ets + 256#64 ∧
      t.clk.epx = (if 2 ^ 64 ≤ s.clk.ets.toNat + 256 then s.clk.epx + 1#32 else s.clk.epx) ∧ t.clk.running = true ∧ t = { s with clk := t.clk }) ∧
  (∀ (s : State), s.pending = [] → s.clk.running = false → step s = .next s)

/-- No command stops the block: every command on every state answers a next state. Rests on 00_scope, 98_reader. The
spec gives no behaviour that ends the block: a refused command sets its flag or its answer. So exec of every command
answers a next state, and so does every step. -/
def Obligations.EveryCommandAnswersANextState : Prop :=
  (∀ (c : Instr) (s : State), ∃ t, exec c s = .next t) ∧
  (∀ (s : State), ∃ t, step s = .next t)

/-- After power-on reset nothing runs, nothing is unlocked and the registers read their reset values. Rests on R41,
R61, R219, R253, R292, R293, R299, 13_registers, 14_startup_and_resilience. The links are HELD, the forwarding path is
bypassed, the domains are DISABLED, no unlock is held, device time does not run, no command waits and every FIFO and
queue is empty. The register values are those of the spec's tables. -/
def Obligations.ResetLeavesTheStatedValues : Prop :=
  (State.reset.pending = [] ∧ State.reset.clk = { epx := 0#32, ets := 0#64, running := false } ∧ State.reset.ready = false ∧ State.reset.cfgDone = false ∧
    State.reset.lnkState .host = lnkHeld ∧ State.reset.lnkState .pattern = lnkHeld ∧ State.reset.fb 0 F.NET_STAT_BYPASS = true ∧
    (∀ d : Dom, State.reset.domState d = domDisabled ∧ State.reset.domMap d = none) ∧ (∀ i : Fin 2, State.reset.unlockBy[i] = none) ∧
    State.reset.f 0 F.PRT_STAT_WRONG = 0 ∧ State.reset.f (chBase 0) F.CH_TDAC_CODE = 131072 ∧ State.reset.f (chBase 127) F.CH_GATE_L_G = 640000000 ∧
    State.reset.f (chBase 5) F.CH_PIN_PARKED = 1 ∧ State.reset.f 0 F.TB_PACE_TARGET_TARGET = 800 ∧ State.reset.f 0 F.TB_PACE_TARGET_BAND = 20 ∧
    State.reset.pdly .e0 = 0xFFFFFFFF#32 ∧ State.reset.f (lnkBase .host) F.LNK_TIMER_REPLAY_TO = 500 ∧ State.reset.vat = [] ∧ State.reset.lake = [])

/-- Right after reset every sparse store is in its canonical form. Rests on 13_registers, 14_startup_and_resilience.
Registers, triplicated words, the calibration set, the flash, the Vat, the Lake, the erase counts and the spare rows
are kept as address and value pairs with rising addresses and no entry equal to what an unlisted address reads as.
After reset they are in that form. -/
def Obligations.ResetStoresAreCanonical : Prop :=
  (State.reset.Canonical)

/-- Every step keeps every store in its canonical form, from any state that is so. Rests on 08_lake_and_services,
13_registers, 14_startup_and_resilience. From every state whose stores are in canonical form, reached or not, a step
answers a state whose stores are in canonical form, so that equal contents are equal data after every command. -/
def Obligations.EveryStepKeepsTheStoresCanonical : Prop :=
  (∀ (s t : State), s.Canonical → step s = .next t → t.Canonical)

/-- No command changes the waiting commands or the fuse bank. Rests on R295, 13_registers, 98_reader. The queue
belongs to the step alone, and the fuse bank cannot be changed in service (R295): whatever the command and the state,
exec leaves both as they are. -/
def Obligations.CommandsLeaveTheQueueAndTheFuses : Prop :=
  (∀ (c : Instr) (s t : State), exec c s = .next t → t.pending = s.pending ∧ t.fuses = s.fuses)

/-- TARGET and BAND outside their range are stored as the nearest limit and read so, without a fault. Formalises R19.
A write to TB_PACE_TARGET stores TARGET held within 550 to 1,200 and BAND within 10 to 255, whatever is written; every
path then reads the stored word; the write is answered as performed and sets no fault. -/
def Obligations.NearestLimitsAreStored : Prop :=
  (∀ (s : State) (p : Sys2Proof.Path) (w : Word), s.Serves → s.Writes p →
    ∃ t, exec (.registerWrite p (BitVec.ofNat 24 R.TB_PACE_TARGET) 0xF#4 w) s = .next t ∧
      t.f 0 F.TB_PACE_TARGET_TARGET = max 550 (min 1200 (F.TB_PACE_TARGET_TARGET.of w)) ∧
      t.f 0 F.TB_PACE_TARGET_BAND = max 10 (min 255 (F.TB_PACE_TARGET_BAND.of w)) ∧
      (∀ q : Sys2Proof.Path, (t.pathRead q R.TB_PACE_TARGET 0xF#4).1 = .ok ∧ (t.pathRead q R.TB_PACE_TARGET 0xF#4).2.1 = t.w R.TB_PACE_TARGET) ∧
      (t.path p).resp = 0 ∧ s.OnlyRegsOf p t [R.TB_PACE_TARGET])

/-- A CREDIT message has the 16 bytes of R232 and returns COUNT of the channel's credits. Formalises R232.
CREDIT_RETURN on a channel that owes credits puts one message on the pattern link: 16 bytes, word 0 with 0xB at
[63:60], the channel at [46:40], COUNT from 1 to 64 at [39:32] and every other bit 0, word 1 zero; the channel then
owes COUNT credits fewer. -/
def Obligations.CreditMessagesAreLaidOut : Prop :=
  (∀ (s : State) (ch : Ch) (since : Nat), (s.chan ch).mord.owedSince = some since → (s.chan ch).mord.owed ≠ 0 →
    ∃ t, exec (.creditReturn ch) s = .next t ∧ ∃ (i : TxItem) (n : Nat), t.link1.tx = s.link1.tx ++ [i] ∧ i.cls = FClass.msg ∧ i.bytes.length = 16 ∧
      1 ≤ n ∧ n ≤ 64 ∧ msgWord i.bytes 0 = 0xB * 2 ^ 60 + ch.val * 2 ^ 40 + n * 2 ^ 32 ∧ numBits (msgWord i.bytes 0) 60 4 = 0xB ∧
      numBits (msgWord i.bytes 0) 40 7 = ch.val ∧ numBits (msgWord i.bytes 0) 32 8 = n ∧ msgWord i.bytes 1 = 0 ∧
      (t.chan ch).mord.owed + n = (s.chan ch).mord.owed)

/-- The rows of start-up from SUPPLIES_VALID to the boot responder take effect. Rests on R321, R295, R285, R242, R247,
14_startup. Each of the commands SUPPLIES_VALID, FUSE_LOAD, LCP_ENABLE, ETHERNET_START and BOOT_RESPONDER_START, where
its row of start-up has not yet happened, answers a next state: the straps are sampled into NET_ID; the fuses count as
loaded, every voted register but PRT_LOCK reads its reset value and BOOT_LOCK sets FN_LOCK; the LCP is served and a
flash without identification raises NOFLASH and FLASH_FAIL; BYPASS_N is high; the dictionary is served. Everything the
clauses do not name stands. -/
def Obligations.StartUpRowsTakeEffect : Prop :=
  -- SUPPLIES_VALID
  (∀ (s : State) (straps : BitVec 6), s.boot.released = false →
    ∃ t, exec (.suppliesValid straps) s = .next t ∧ t.boot = { s.boot with released := true, straps := straps } ∧
      t.f 0 F.NET_ID_STRAP = straps.toNat ∧ (∀ a, a ≠ R.NET_ID → t.w a = s.w a) ∧ t = { s with regs := t.regs, boot := t.boot }) ∧
  -- FUSE_LOAD
  (∀ (s : State), s.boot.released = true → s.boot.fused = false →
    ∃ t, exec .fuseLoad s = .next t ∧ t.boot = { s.boot with fused := true } ∧ (∀ a, a ≠ R.PRT_LOCK → t.tvW a = resetWord a) ∧
      (s.fuses.bootLock = true → t.tvB 0 F.PRT_LOCK_FN_LOCK = true ∧ t.tvB 0 F.PRT_LOCK_FN_FUSE = true) ∧
      (s.fuses.bootLock = false → t.tvW R.PRT_LOCK = resetWord R.PRT_LOCK) ∧
      t.f 0 F.NET_ID_ETYPE = s.fuses.etype.toNat ∧ t.f 0 F.NET_NODE_NODE_ID = nodeIdOf s.fuses.nodeBase s.boot.straps ∧
      (∀ a, (a < R.PRT_FUSE0 ∨ R.PRT_FUSE0 + 44 ≤ a) → a ∉ [R.DEV_ID, R.NET_ID, R.NET_NODE, R.NET_MAC_H, R.NET_MAC_L] → t.w a = s.w a) ∧
      t = { s with regs := t.regs, tv := t.tv, boot := t.boot }) ∧
  -- LCP_ENABLE
  (∀ (s : State) (flash xtal : Bool), s.boot.released = true → s.boot.lcp = false →
    ∃ t, exec (.lcpEnable flash xtal) s = .next t ∧ t.boot = { s.boot with lcp := true, flashOk := flash } ∧
      (xtal = true → t.fb 0 F.TB_STAT_XTAL_OK = true) ∧
      (flash = false → t.fb 0 F.DEV_CFG_STAT_NOFLASH = true ∧ t.fb 0 F.DEV_FLT_FLASH_FAIL = true) ∧
      (flash = true → xtal = false → t.regs = s.regs) ∧
      (∀ a, a ∉ [R.TB_STAT, R.DEV_CFG_STAT, R.DEV_FLT] → t.w a = s.w a) ∧ t = { s with regs := t.regs, boot := t.boot }) ∧
  -- ETHERNET_START
  (∀ (s : State), s.boot.released = true → s.boot.eth = false →
    ∃ t, exec .ethernetStart s = .next t ∧ t.boot = { s.boot with eth := true } ∧ t.f 0 F.NET_STAT_BYPASS = 0 ∧
      (∀ a, a ≠ R.NET_STAT → t.w a = s.w a) ∧ t = { s with regs := t.regs, boot := t.boot }) ∧
  -- BOOT_RESPONDER_START
  (∀ (s : State), s.boot.released = true → s.boot.responder = false → s.od.mailbox = none →
    ∃ t, exec .bootResponderStart s = .next t ∧
      t = { s with boot := { s.boot with responder := true }, indigo := { s.indigo with serving := true } })

/-- What the two resets and a rail excursion leave. Rests on R308, R309, R322, 14_startup. POWER_ON_RESET gives the
reset state with only the flash, the fuses, the wear log and what stands outside the device kept (waiting commands,
lines held from outside; the model's own counters of free values and resets). RAIL_EXCURSION changes nothing under 2
us and acts as a power-on reset from 2 us on. SOFT_RESET, admitted by its guard, keeps device time, fuses, flash, Vat,
Lake and the calibration set, clears READY, parks every TDAC, makes every trigger unit idle and drives BYPASS_N low. -/
def Obligations.ResetsRestoreTheirReach : Prop :=
  -- POWER_ON_RESET
  (∀ (s : State), ∃ t, exec .powerOnReset s = .next t ∧
    t = { State.reset with pending := s.pending, free := s.free, boots := s.boots + 1, fuses := s.fuses, flash := s.flash,
                           wear := s.wear, stlIn := s.stlIn }) ∧
  -- RAIL_EXCURSION
  (∀ (s : State) (ns : Nat), ∃ t, exec (.railExcursion ns) s = .next t ∧ (ns < 2000 → t = s) ∧
    (2000 ≤ ns → exec .powerOnReset s = .next t)) ∧
  -- SOFT_RESET
  (∀ (s : State) (p : Sys2Proof.Path), s.cfgDone = true → s.Writes p → s.Unlocked p →
    ∃ t, exec (.softReset p) s = .next t ∧ t.clk = s.clk ∧ t.fuses = s.fuses ∧ t.flash = s.flash ∧ t.vat = s.vat ∧ t.lake = s.lake ∧
      t.cal = s.cal ∧ t.ready = false ∧ t.cfgDone = false ∧ t.f 0 F.NET_STAT_BYPASS = 1 ∧
      (∀ n : Ch, t.fb (chBase n) F.CH_PIN_PARKED = true) ∧ (∀ u : Unit16, t.tuState u = tuIdle) ∧
      t.units = Vector.replicate 16 UnitSt.reset ∧ t.blocks = Vector.replicate 32 [] ∧ t.tb = s.tb ∧ t.wear.eqs = s.eqs)

/-- The slots are chosen, the configuration is committed and the device becomes READY. Rests on R305, R306, R214,
R187, R300, 14_startup. CONFIG_READ chooses the valid configuration slot with the later sequence number, or the
defaults, and reports TORN and FOREIGN. CONFIG_COMMIT sets CFG_DONE, with DEFAULTED for the defaults and the slot's
number otherwise. CAL_SLOT_CHOOSE chooses a calibration slot once, and without a valid one sets NOSNAP with slot and
sequence number 0. SERVICE_IMAGE_BOOT runs the valid image with the higher sequence number, else the boot responder
stays and NOIMG is set. READY is reached once the timebase is locked and CFG_DONE and BOOT_DONE are set. -/
def Obligations.ConfigurationIsChosenAndCommitted : Prop :=
  -- CONFIG_READ
  (∀ (s : State), s.boot.lcp = true → s.boot.choice = none →
    ∃ t, exec .configRead s = .next t ∧
      t.boot = { s.boot with choice := some (match s.cfgLater with | some 0 => CfgChoice.slotA | some _ => CfgChoice.slotB | none => CfgChoice.defaults) } ∧
      (((s.cfgClass 0).1 = SlotClass.torn ∨ (s.cfgClass 1).1 = SlotClass.torn) → t.fb 0 F.DEV_CFG_STAT_TORN = true) ∧
      (((s.cfgClass 0).1 = SlotClass.foreign ∨ (s.cfgClass 1).1 = SlotClass.foreign) → t.fb 0 F.DEV_CFG_STAT_FOREIGN = true) ∧
      (∀ a, a ≠ R.DEV_CFG_STAT → t.w a = s.w a) ∧ t = { s with regs := t.regs, boot := t.boot }) ∧
  -- CONFIG_COMMIT
  (∀ (s : State) (c : CfgChoice), s.cfgDone = false → s.boot.choice = some c →
    ∃ t, exec .configCommit s = .next t ∧ t.cfgDone = true ∧
      (c = CfgChoice.defaults → t.fb 0 F.DEV_STAT_CFG_DEFAULTED = true ∧ s.OnlyRegs t [R.DEV_STAT]) ∧
      (c = CfgChoice.slotA → t.f 0 F.DEV_CFG_STAT_SLOT = 1) ∧ (c = CfgChoice.slotB → t.f 0 F.DEV_CFG_STAT_SLOT = 2)) ∧
  -- CAL_SLOT_CHOOSE
  (∀ (s : State), s.cfgDone = true → s.boot.calChosen = false →
    ∃ t, exec .calSlotChoose s = .next t ∧ t.boot = { s.boot with calChosen := true } ∧
      (((s.calClass 0).1 = SlotClass.torn ∨ (s.calClass 1).1 = SlotClass.torn) → t.fb 0 F.CAL_STAT_CAL_SLOT_TORN = true) ∧
      (s.calLater = none → t.fb 0 F.CAL_STAT_NOSNAP = true ∧ t.f 0 F.CAL_STAT_SLOT = 0 ∧ t.f 0 F.CAL_SEQ_VALUE = 0 ∧ t.cal = s.cal) ∧
      (s.calLater = some 0 → t.f 0 F.CAL_STAT_SLOT = 1 ∧ t.f 0 F.CAL_SEQ_VALUE = s.slotSeq (calSlot 0)) ∧
      (s.calLater = some 1 → t.f 0 F.CAL_STAT_SLOT = 2 ∧ t.f 0 F.CAL_SEQ_VALUE = s.slotSeq (calSlot 1)) ∧
      t.vat = s.vat ∧ t.lake = s.lake ∧ t.flash = s.flash) ∧
  -- SERVICE_IMAGE_BOOT
  (∀ (s : State), s.boot.responder = true → s.imageRuns = false →
    ∃ t, exec .serviceImageBoot s = .next t ∧ t.f 0 F.DEV_SVC_STAT_SLOT = s.bootSlot ∧
      (s.bootSlot = 0 → t.fb 0 F.DEV_SVC_STAT_NOIMG = true) ∧ (s.bootSlot ≠ 0 → t.fb 0 F.DEV_SVC_STAT_NOIMG = false) ∧
      s.OnlyRegs t [R.DEV_SVC_STAT, R.DEV_SVC_VER]) ∧
  -- READY
  (∀ (s : State), s.ready = false → s.cfgDone = true → s.fb 0 F.TB_STAT_LOCKED = true → s.fb 0 F.CAL_STAT_BOOT_DONE = true →
    ∃ t, exec .ready s = .next t ∧ t.ready = true ∧ t.cfgDone = true ∧
      t.vat = s.vat ∧ t.lake = s.lake ∧ t.flash = s.flash ∧ t.cal = s.cal ∧ t.units = s.units)

/-- A configuration image is checked and queued, and a flash store ends. Rests on R304, R307, R213, 14_startup.
CONFIG_STORE, served by a running image, answers OK for a well-formed image with a matching CRC and queues one store
into the slot that R307 names; a wrong CRC stores nothing and leaves outcome 1. FLASH_STORE_DONE takes the first store
off the queue, whatever it stores: a configuration's success leaves its body readable behind the header with outcome
0, its failure sets STORE_FAIL and outcome 4; every failure, and every store to a flash without identification, sets
FLASH_FAIL. -/
def Obligations.FlashStoresRunInOrder : Prop :=
  -- CONFIG_STORE
  (∀ (s : State) (src : OdSrc) (bytes : List Byte), s.OdServes →
    (s.stores.any fun x => x.kind == .config) = false → 4 ≤ bytes.length → cfgLenOk (bytes.drop 4).length = true →
    (crc32 (bytes.drop 4)).toNat = field bytes 0 4 → recordsOk (wordsOf (bytes.drop 4)) = true →
    ∃ t, exec (.configStore src bytes) s = .next t ∧ t.od.answer = (odOk, []) ∧
      (∃ x : FlashStore, t.stores = s.stores ++ [x] ∧ x.kind = .config ∧ x.body = bytes.drop 4 ∧
        x.base = cfgSlot (nextStore s.cfgLater fun b => s.slotSeq (cfgSlot b)).1) ∧
      t.vat = s.vat ∧ t.lake = s.lake ∧ t.cal = s.cal ∧ t.chans = s.chans) ∧
  -- CONFIG_STORE
  (∀ (s : State) (src : OdSrc) (bytes : List Byte), s.OdServes →
    (s.stores.any fun x => x.kind == .config) = false → 4 ≤ bytes.length → cfgLenOk (bytes.drop 4).length = true →
    (crc32 (bytes.drop 4)).toNat ≠ field bytes 0 4 →
    ∃ t, exec (.configStore src bytes) s = .next t ∧ t = { s with storeOutcome := 1, od := { s.od with answer := (odOk, []) } }) ∧
  -- FLASH_STORE_DONE
  (∀ (s : State) (x : FlashStore), s.stores = [x] → x.kind = .config → s.boot.flashOk = true →
    ∃ t, exec (.flashStoreDone true) s = .next t ∧ t.stores = [] ∧ t.storeOutcome = 0 ∧
      t.flashRead (x.base + 256) x.body.length = x.body ∧ t.f 0 F.DEV_CFG_STAT_STORE_BUSY = 0 ∧
      (∀ a, a < x.base + 256 → sparseGet flashBlank t.flash a = sparseGet flashBlank s.flash a) ∧
      (∀ a, x.base + 256 + x.body.length ≤ a → sparseGet flashBlank t.flash a = sparseGet flashBlank s.flash a) ∧
      t = { s with regs := t.regs, flash := t.flash, stores := [], storeOutcome := 0 }) ∧
  -- FLASH_STORE_DONE
  (∀ (s : State) (ok : Bool) (x : FlashStore) (rest : List FlashStore), s.stores = x :: rest →
    ∃ t, exec (.flashStoreDone ok) s = .next t ∧ t.stores = rest ∧
      ((ok = false ∨ s.boot.flashOk = false) → t.fb 0 F.DEV_FLT_FLASH_FAIL = true) ∧
      (x.kind = StoreKind.config → (ok = false ∨ s.boot.flashOk = false) → t.storeOutcome = 4 ∧ t.fb 0 F.DEV_CFG_STAT_STORE_FAIL = true) ∧
      (x.kind = StoreKind.config → ok = true → s.boot.flashOk = true → t.storeOutcome = 0))

/-- The wear log, the gauges, SRAM repair and the repair policy's retry. Rests on R312, R313, R315, R316, R311, R299,
14_startup. WEAR_LOG_LOAD takes the gauge, the erase counts and the repaired rows from the wear log. WEAR_UPDATE adds
one second's weight of a plausible temperature to the gauge. WEAR_LOG_WRITE copies the gauges to the log and changes
nothing else. SRAM_SCRUB_PASS counts corrected and uncorrectable errors, marks the words that err again and, with
AUTO_ROW and a spare row left, begins one repair; ROW_REPAIR_DONE uses and logs the row, whose corrected words err no
more. Which reads of a marked word err is the model's choice (assumption 42). REPAIR_RETRY asks once more for the
stand-in of a spare that is free. -/
def Obligations.WearAndRepairAreKept : Prop :=
  -- WEAR_LOG_LOAD
  (∀ (s : State), s.boot.released = true →
    ∃ t, exec .wearLogLoad s = .next t ∧ t.eqs = s.wear.eqs ∧ t.erases = s.wear.erases ∧ t.rowsUsed = rowsByMacro s.wear.rows ∧
      t.wear.rows = s.wear.rows ∧ t.chans = s.chans ∧ t.vat = s.vat ∧ t.lake = s.lake ∧ t.flash = s.flash ∧ t.cal = s.cal) ∧
  -- WEAR_UPDATE
  (∀ (s : State) (tj : Int), goodTj tj = true →
    ∃ t, exec (.wearUpdate tj) s = .next t ∧ t.eqs = s.eqs + wearWeight tj ∧ t.pair R.DEV_WEAR_EQS_H = t.eqs / 2 ^ 32 % 2 ^ 64 ∧
      (∀ a, a ∉ [R.DEV_WEAR_EQS_H, R.DEV_WEAR_EQS_L, R.DEV_WEAR_USED, R.DEV_WEAR_FLASH, R.DEV_FLT] → t.w a = s.w a) ∧
      t = { s with regs := t.regs, eqs := t.eqs }) ∧
  -- WEAR_LOG_WRITE
  (∀ (s : State), ∃ t, exec .wearLogWrite s = .next t ∧
    t = { s with wear := { s.wear with eqs := s.eqs, erases := s.erases } }) ∧
  -- SRAM_SCRUB_PASS
  (∀ (s : State) (site : SramSite) (macroNo row : Nat) (ce ue : List Nat), s.fb 0 F.DEV_REP_CTL_AUTO_ROW = true → s.repairing = none →
    sparseGet (fun _ => 0) s.rowsUsed macroNo < 8 →
    ∃ t, exec (.sramScrubPass site macroNo row ce ue) s = .next t ∧ t.repairing = some (macroNo, row) ∧
      t.pair R.DEV_SRAM_CE_H = (s.pair R.DEV_SRAM_CE_H + ce.length) % 2 ^ 64 ∧
      t.pair R.DEV_SRAM_UE_H = (s.pair R.DEV_SRAM_UE_H + ue.length) % 2 ^ 64 ∧
      (ce ≠ [] → t.fb 0 F.DEV_SRAM_STAT_CE = true) ∧ (ue ≠ [] → t.fb 0 F.DEV_SRAM_STAT_UE = true) ∧ t.repairFix = (site, ce) ∧
      (∀ u : Nat, site = SramSite.vat u → (∀ a ∈ ce, a ∈ t.vatCE) ∧ ∀ a ∈ ue, a ∈ t.vatUE) ∧
      (∀ b : Nat, site = SramSite.lake b → (∀ a ∈ ce, a ∈ t.lakeCE) ∧ ∀ a ∈ ue, a ∈ t.lakeUE) ∧
      t = { s with regs := t.regs, vatUE := t.vatUE, vatCE := t.vatCE, lakeUE := t.lakeUE, lakeCE := t.lakeCE, repairing := t.repairing,
                   repairFix := t.repairFix }) ∧
  -- SRAM_SCRUB_PASS
  (∀ (s : State) (site : SramSite) (macroNo row : Nat) (ce ue : List Nat), s.fb 0 F.DEV_REP_CTL_AUTO_ROW = false →
    ∃ t, exec (.sramScrubPass site macroNo row ce ue) s = .next t ∧
      t.pair R.DEV_SRAM_CE_H = (s.pair R.DEV_SRAM_CE_H + ce.length) % 2 ^ 64 ∧
      t.pair R.DEV_SRAM_UE_H = (s.pair R.DEV_SRAM_UE_H + ue.length) % 2 ^ 64 ∧
      t = { s with regs := t.regs, vatUE := t.vatUE, vatCE := t.vatCE, lakeUE := t.lakeUE, lakeCE := t.lakeCE }) ∧
  -- ROW_REPAIR_DONE
  (∀ (s : State) (m r : Nat), s.repairing = some (m, r) →
    ∃ t, exec .rowRepairDone s = .next t ∧ t.repairing = none ∧ t.wear.rows = s.wear.rows ++ [(m, r)] ∧
      (∀ k, sparseGet (fun _ => 0) t.rowsUsed k = sparseGet (fun _ => 0) s.rowsUsed k + (if k = m then 1 else 0)) ∧
      t.f 0 F.DEV_REP_STAT_ROWS = min 65535 (s.wear.rows.length + 1) ∧
      (∀ u : Nat, s.repairFix.1 = SramSite.vat u → t.vatCE = s.vatCE.filter fun a => !s.repairFix.2.contains a) ∧
      (∀ b : Nat, s.repairFix.1 = SramSite.lake b → t.lakeCE = s.lakeCE.filter fun a => !s.repairFix.2.contains a) ∧
      t = { s with regs := t.regs, repairing := none, repairFix := (SramSite.other, []), vatCE := t.vatCE, lakeCE := t.lakeCE,
                   rowsUsed := t.rowsUsed, wear := t.wear }) ∧
  -- REPAIR_RETRY
  (∀ (s : State) (p : Spare) (at_ : Nat), (s.spare p).retryAt = some at_ → s.spareBad p = false → s.spState p = 0 →
    s.fuses.grade.getLsbD p.val = true →
    ∃ t, exec (.repairRetry p) s = .next t ∧ t.spState p = 1 ∧ t.spOwner p = 1 ∧ (t.spare p).retryAt = none ∧
      (t.spare p).retried = true ∧ t.f 0 F.DEV_REP_STAT_SUBSTN = min (s.f 0 F.DEV_REP_STAT_SUBSTN + 1) 255 ∧
      t.chans = s.chans ∧ t.vat = s.vat ∧ t.lake = s.lake)

/-- REFIN is qualified by windows, and the first lock starts device time. Rests on R31, R32, R41, R42, R301,
02_timebase. REFIN_WINDOW, while REFIN is not the active source, keeps the last three passing windows, sets
REF_BADFREQ for a toggling REFIN that fits no nominal, clears REF_QUAL with a window that does not pass and with three
that do not agree, and sets REF_QUAL and REF_NOM when three windows qualify; while REFIN is active it does nothing.
LOCK_SOURCE_TIMEOUT only notes the 20 ms. FIRST_LOCK starts device time at 0, draws a TB_RUN_ID other than 0 and locks
to the running crystal where the 20 ms have passed or XTAL_ONLY is set, else to a qualified REFIN. NO_SOURCE_FAULT
sets NOSRC. XTAL_AMPLITUDE_RETURN sets XTAL_OK. -/
def Obligations.SourcesQualifyAndFirstLock : Prop :=
  -- REFIN_WINDOW
  (∀ (s : State) (missing toggles : Bool) (f : Nat), s.tbActive ≠ actRefin →
    ∃ t, exec (.refinWindow missing toggles f) s = .next t ∧
      (toggles = true → ((nominals (F.TB_SRC_REF_FREQ.of (s.tvW R.TB_SRC))).any fun x => freqFits s.xtalOk f x) = false →
        t.fb 0 F.TB_STAT_REF_BADFREQ = true) ∧
      ((missing = true ∨ toggles = false ∨ ((nominals (F.TB_SRC_REF_FREQ.of (s.tvW R.TB_SRC))).any fun x => freqFits s.xtalOk f x) = false) →
        t.tb.wins = [] ∧ t.refQual = false) ∧
      (missing = false → toggles = true → ((nominals (F.TB_SRC_REF_FREQ.of (s.tvW R.TB_SRC))).any fun x => freqFits s.xtalOk f x) = true →
        t.tb.wins = (f :: s.tb.wins).take 3 ∧
        ((windowsQualify s.xtalOk (nominals (F.TB_SRC_REF_FREQ.of (s.tvW R.TB_SRC))) ((f :: s.tb.wins).take 3)).isSome = true →
          t.refQual = true ∧ (s.xtalOk = false → s.refQual = false → t.fb 0 F.TB_STAT_XTAL_FAIL = true)) ∧
        (windowsQualify s.xtalOk (nominals (F.TB_SRC_REF_FREQ.of (s.tvW R.TB_SRC))) ((f :: s.tb.wins).take 3) = some 100000000000 →
          t.f 0 F.TB_STAT_REF_NOM = 1) ∧
        (windowsQualify s.xtalOk (nominals (F.TB_SRC_REF_FREQ.of (s.tvW R.TB_SRC))) ((f :: s.tb.wins).take 3) = some 10000000000 →
          t.f 0 F.TB_STAT_REF_NOM = 0) ∧
        (windowsQualify s.xtalOk (nominals (F.TB_SRC_REF_FREQ.of (s.tvW R.TB_SRC))) ((f :: s.tb.wins).take 3) = none →
          2 ≤ s.tb.wins.length → t.refQual = false)) ∧
      (∀ a, a ≠ R.TB_STAT → t.w a = s.w a) ∧ t = { s with regs := t.regs, tb := t.tb }) ∧
  -- REFIN_WINDOW
  (∀ (s : State) (missing toggles : Bool) (f : Nat), s.tbActive = actRefin → ∃ t, exec (.refinWindow missing toggles f) s = .next t ∧ t = s) ∧
  -- LOCK_SOURCE_TIMEOUT
  (∀ (s : State), s.clk.running = false → s.refQual = false → s.boot.released = true →
    ∃ t, exec .lockSourceTimeout s = .next t ∧ t = { s with tb := { s.tb with timedOut := true } }) ∧
  -- FIRST_LOCK
  (∀ (s : State), s.clk.running = false → s.boot.released = true →
    ((s.refQual = true ∧ F.TB_SRC_XTAL_ONLY.of (s.tvW R.TB_SRC) = 0) ∨
      ((s.tb.timedOut = true ∨ F.TB_SRC_XTAL_ONLY.of (s.tvW R.TB_SRC) = 1) ∧ s.xtalOk = true)) →
    ∃ t, exec .firstLock s = .next t ∧ t.clk = ({ epx := 0#32, ets := 0#64, running := true } : Clock) ∧ t.now = 0 ∧
      t.w R.TB_RUN_ID ≠ 0#32 ∧ t.fb 0 F.TB_STAT_LOCKED = true ∧
      (s.tb.timedOut = false → F.TB_SRC_XTAL_ONLY.of (s.tvW R.TB_SRC) = 0 → t.tbActive = actRefin) ∧
      (s.xtalOk = false → t.tbActive = actRefin) ∧
      ((s.tb.timedOut = true ∨ F.TB_SRC_XTAL_ONLY.of (s.tvW R.TB_SRC) = 1) → s.xtalOk = true → t.tbActive = actCrystal) ∧
      (∀ a, a ∉ [R.TB_RUN_ID, R.TB_STAT] → t.w a = s.w a) ∧
      t = { s with regs := t.regs, clk := t.clk, free := t.free, boot := { s.boot with faulted := false } }) ∧
  -- NO_SOURCE_FAULT
  (∀ (s : State), s.clk.running = false → s.refQual = false → s.xtalOk = false → s.boot.released = true →
    ∃ t, exec .noSourceFault s = .next t ∧ t.fb 0 F.DEV_FLT_NOSRC = true ∧ t.odState = 2 ∧ (∀ a, a ≠ R.DEV_FLT → t.w a = s.w a) ∧
      t = { s with regs := t.regs, boot := { s.boot with faulted := true } }) ∧
  -- XTAL_AMPLITUDE_RETURN
  (∀ (s : State), s.boot.lcp = true → ∃ t, exec .xtalAmplitudeReturn s = .next t ∧ t.xtalOk = true ∧ s.OnlyRegs t [R.TB_STAT])

/-- Losses, switchovers and returns of the timebase's sources. Rests on R35, R36, R38, R40, R291, 02_timebase.
REFIN_LOST on the active source sets REF_LOST, clears REF_QUAL and enters holdover; on another source it only clears
REF_QUAL. CRYSTAL_SELECT, REFIN_RETURN, HOLDOVER_END, a TB_SRC write that changes XTAL_ONLY and one of REVERT = 1 on
the crystal take the other source over: it is LOCKED, SWITCHED is set, TB_SWITCH_CNT counts and a REF calibration is
requested for every front end that is neither fused off nor held. CRYSTAL_LOST sets XTAL_FAIL and moves from the
crystal to a qualified REFIN or to holdover; that it does so also after DRIFT_ACT's move, and HOLDOVER_END too, is the
model's choice (assumption 103). Holdover requests the calibration too, and sets NOSRC without a usable source.
REF_FREQ = 3 is stored as 0. No memory changes. -/
def Obligations.SourceChangesAreMarked : Prop :=
  -- REFIN_LOST
  (∀ (s : State), s.tbActive = actRefin →
    ∃ t, exec .refinLost s = .next t ∧ s.InHoldover t ∧ t.refQual = false ∧ t.xtalOk = s.xtalOk ∧
      t.fb 0 F.TB_STAT_REF_LOST = true ∧ t.tb.wins = [] ∧ (s.xtalOk = true → t.tb.lostAt = some s.now) ∧
      (s.xtalOk = false → t.tb.lostAt = none ∧ t.fb 0 F.DEV_FLT_NOSRC = true) ∧ t.clk = s.clk ∧ s.SameMemory t) ∧
  -- REFIN_LOST
  (∀ (s : State), s.tbActive ≠ actRefin →
    ∃ t, exec .refinLost s = .next t ∧ t.refQual = false ∧ t.tbActive = s.tbActive ∧ t.tb = { s.tb with wins := [], afresh := [] } ∧
      (∀ a, a ≠ R.TB_STAT → t.w a = s.w a) ∧ t = { s with regs := t.regs, tb := t.tb }) ∧
  -- CRYSTAL_SELECT
  (∀ (s : State) (at_ : Nat), s.tb.lostAt = some at_ → s.tbActive = actHoldover → s.xtalOk = true →
    ∃ t, exec .crystalSelect s = .next t ∧ State.SwitchedTo actCrystal s t ∧ t.tb.lostAt = none ∧ t.clk = (s.reach (at_ + tkUs)).clk ∧
      s.SameMemory t) ∧
  -- REFIN_RETURN
  (∀ (s : State), s.tbActive = actCrystal → s.returnOpen = true → F.TB_SRC_REVERT.of (s.tvW R.TB_SRC) = 1 →
    F.TB_SRC_XTAL_ONLY.of (s.tvW R.TB_SRC) = 0 →
    ∃ t, exec .refinReturn s = .next t ∧ State.SwitchedTo actRefin s t ∧ t.tb.driftMoved = false ∧
      (s.tb.driftMoved = true → t.tb.baseDue = some (s.now + tkSec)) ∧ t.clk = s.clk ∧ s.SameMemory t) ∧
  -- CRYSTAL_LOST
  (∀ (s : State), ∃ t, exec .crystalLost s = .next t ∧ t.fb 0 F.TB_STAT_XTAL_FAIL = true ∧ t.xtalOk = false ∧
    (s.tbActive = actCrystal → s.refQual = true → State.SwitchedTo actRefin s t) ∧
    (s.tbActive = actCrystal → s.refQual = false → s.InHoldover t ∧ t.fb 0 F.DEV_FLT_NOSRC = true) ∧
    (s.tbActive ≠ actCrystal → t.tbActive = s.tbActive ∧ (∀ a, a ≠ R.TB_STAT → t.w a = s.w a)) ∧ t.clk = s.clk ∧ s.SameMemory t) ∧
  -- HOLDOVER_END
  (∀ (s : State) (src : TbSource), s.tbActive = actHoldover →
    (src = TbSource.refin → s.refQual = true ∧ F.TB_SRC_XTAL_ONLY.of (s.tvW R.TB_SRC) = 0) → (src = TbSource.crystal → s.xtalOk = true) →
    ∃ t, exec (.holdoverEnd src) s = .next t ∧ (src = TbSource.refin → State.SwitchedTo actRefin s t) ∧
      (src = TbSource.crystal → State.SwitchedTo actCrystal s t) ∧ t.tb.lostAt = none ∧ t.clk = s.clk ∧ s.SameMemory t) ∧
  -- TB_SRC_WRITE
  (∀ (s : State) (p : Sys2Proof.Path) (w : Word), s.Serves → s.Writes p → s.Unlocked p →
    ∃ t, exec (.tbSrcWrite p w) s = .next t ∧ t.tvW R.TB_SRC = tbSrcWord w ∧ (∀ a, a ≠ R.TB_SRC → t.tvW a = s.tvW a) ∧
      (F.TB_SRC_XTAL_ONLY.of (s.tvW R.TB_SRC) = 0 → F.TB_SRC_XTAL_ONLY.of w = 1 → s.tbActive = actRefin → s.xtalOk = true →
        State.SwitchedTo actCrystal s t) ∧
      (F.TB_SRC_XTAL_ONLY.of (s.tvW R.TB_SRC) = 0 → F.TB_SRC_XTAL_ONLY.of w = 1 → s.tbActive = actRefin → s.xtalOk = false →
        s.InHoldover t) ∧
      (F.TB_SRC_XTAL_ONLY.of (s.tvW R.TB_SRC) = 1 → F.TB_SRC_XTAL_ONLY.of w = 0 → (s.tbActive = actCrystal ∨ s.tbActive = actHoldover) →
        s.refQual = true → s.tb.driftMoved = false → State.SwitchedTo actRefin s t) ∧
      (F.TB_SRC_XTAL_ONLY.of w = 0 → F.TB_SRC_REVERT.of w = 1 → s.tbActive = actCrystal → s.refQual = true → s.tb.driftMoved = false →
        State.SwitchedTo actRefin s t) ∧
      (F.TB_SRC_XTAL_ONLY.of (s.tvW R.TB_SRC) = F.TB_SRC_XTAL_ONLY.of w → (s.tbActive ≠ actCrystal ∨ F.TB_SRC_REVERT.of w = 0) →
        t.regs = s.regs) ∧ t.clk = s.clk ∧ s.SameMemory t)

/-- Drift supervision, the wrap of ETS64 and the time snapshot. Rests on R39, R41, R44, R48, 02_timebase.
DRIFT_UPDATE, with REFIN active and the crystal running, stores the offset and raises REF_DRIFT where it leaves the
limit anew; with DRIFT_ACT the crystal takes over. BASELINE_CAPTURE stores the mean offset when it is due, and REBASE
makes it due in one second. ETS64_WRAP leaves ETS64 at 0 and EPX32 one higher. SNAP_CAPTURE latches DT96, and the
validity of every domain. -/
def Obligations.DriftBaselineAndSnapshots : Prop :=
  -- DRIFT_UPDATE
  (∀ (s : State) (offs : Int), s.tbActive = actRefin → s.xtalOk = true →
    ∃ t, exec (.driftUpdate offs) s = .next t ∧ t.w R.TB_REF_OFFS = i32Word offs ∧
      (-2147483648 ≤ offs → offs < 2147483648 → signExt 32 (t.w R.TB_REF_OFFS).toNat = offs) ∧
      (s.f 0 F.TB_DRIFT_LIM * 1000 < (signExt 32 (i32Word offs).toNat - signExt 32 (s.w R.TB_REF_BASE).toNat).natAbs →
        s.tb.driftOver = false → t.fb 0 F.TB_STAT_REF_DRIFT = true ∧
        (F.TB_SRC_DRIFT_ACT.of (s.tvW R.TB_SRC) = 1 → State.SwitchedTo actCrystal s t ∧ t.tb.driftMoved = true)) ∧
      (s.f 0 F.TB_DRIFT_LIM * 1000 < (signExt 32 (i32Word offs).toNat - signExt 32 (s.w R.TB_REF_BASE).toNat).natAbs →
        s.tb.driftOver = true → s.OnlyRegs t [R.TB_REF_OFFS]) ∧
      ((signExt 32 (i32Word offs).toNat - signExt 32 (s.w R.TB_REF_BASE).toNat).natAbs ≤ s.f 0 F.TB_DRIFT_LIM * 1000 →
        t.tb = { s.tb with driftOver := false } ∧ (∀ a, a ≠ R.TB_REF_OFFS → t.w a = s.w a)) ∧ t.clk = s.clk ∧ s.SameMemory t) ∧
  -- BASELINE_CAPTURE
  (∀ (s : State) (mean : Int) (at_ : Nat), s.tb.baseDue = some at_ → s.tbActive = actRefin → s.xtalOk = true →
    ∃ t, exec (.baselineCapture mean) s = .next t ∧ t.w R.TB_REF_BASE = i32Word mean ∧ t.f 0 F.TB_DRIFT_REBASE = 0 ∧
      t.clk = (s.reach at_).clk ∧ t.tb = { s.tb with baseDue := none } ∧
      (∀ a, a ∉ [R.TB_REF_BASE, R.TB_DRIFT] → t.w a = s.w a) ∧ t = { s with regs := t.regs, clk := t.clk, tb := t.tb }) ∧
  -- REBASE
  (∀ (s : State), s.Serves → ∃ t, exec .rebase s = .next t ∧ t.tb = { s.tb with baseDue := some (s.now + tkSec) } ∧
    (∀ a, a ≠ R.TB_DRIFT → t.w a = s.w a) ∧
    (10 ≤ s.f 0 F.TB_DRIFT_LIM → s.f 0 F.TB_DRIFT_LIM ≤ 100000 → t.f 0 F.TB_DRIFT_LIM = s.f 0 F.TB_DRIFT_LIM) ∧
    t = { s with regs := t.regs, tb := t.tb, paths := t.paths }) ∧
  -- ETS64_WRAP
  (∀ (s : State), s.clk.running = true →
    ∃ t, exec .ets64Wrap s = .next t ∧ t = { s with clk := { epx := s.clk.epx + 1#32, ets := 0#64, running := true } }) ∧
  -- SNAP_CAPTURE
  (∀ (s : State), s.Serves → ∃ t, exec .snapCapture s = .next t ∧ t.w R.TB_SNAP_EPX = s.clk.epx ∧
    t.pair R.TB_SNAP_ETS_H = s.clk.ets.toNat ∧
    (∀ d : Dom, (t.f 0 F.TB_SNAP_CTL_TD_VALID).testBit d.val = s.maps[d].isSome) ∧
    (∀ d : Dom, s.maps[d] = none → t.w (R.TB_SNAP_TD_0 + 16 * d.val) = 0#32 ∧ t.w (R.TB_SNAP_TD_0 + 16 * d.val + 12) = 0#32) ∧
    t = { s with regs := t.regs, paths := t.paths })

/-- PACE follows the slowest monitor, and the AVSBus governor keeps it in its band. Rests on R15, R16, R18, R20,
01_overview. PACE_UPDATE shows the largest of the twelve mean handshake periods, keeps the largest seen and sets
PACE_SLOW above 1,200; with CLR in the same MCLK cycle MAX takes the updated value. PACE_MAX_CLR loads MAX with PACE.
AVS_CTL_WRITE stores consistent limits, ends a suspension with EN = 1 and refuses inconsistent limits whole with
CFG_ERR. AVS_EVALUATION takes the first voltage within the limits, then steps by 5 mV up when PACE is above the
target, or stays with AT_CEIL, and down at the second of two successive evaluations below the band, or stays with
AT_FLOOR. AVS_ACK_TIMEOUT retries once and then suspends with NO_ACK. The model's choices: a step that would pass a
limit requests the limit (assumption 101), and the evaluation after a suspension's end is a first one (assumption
102). -/
def Obligations.PaceAndSupplyGovernor : Prop :=
  -- PACE_UPDATE
  (∀ (s : State) (counts : List (List Nat)), (Instr.paceUpdate counts).wf = true →
    ∃ t, exec (.paceUpdate counts) s = .next t ∧
      t.f 0 F.TB_PACE_PACE = min 65535 (ratMax (counts.map meanPeriod)).ceil.toNat ∧
      (s.tb.paceClrAt ≠ some (s.now / 2048 * 2048) →
        t.f 0 F.TB_PACE_MAX_MAX = max (s.f 0 F.TB_PACE_MAX_MAX) (t.f 0 F.TB_PACE_PACE)) ∧
      (s.tb.paceClrAt = some (s.now / 2048 * 2048) → t.f 0 F.TB_PACE_MAX_MAX = t.f 0 F.TB_PACE_PACE) ∧
      (1200 < t.f 0 F.TB_PACE_PACE → t.fb 0 F.DEV_FLT_PACE_SLOW = true) ∧
      (t.f 0 F.TB_PACE_PACE ≤ 1200 → t.w R.DEV_FLT = s.w R.DEV_FLT) ∧ s.OnlyRegs t [R.TB_PACE, R.TB_PACE_MAX, R.DEV_FLT]) ∧
  -- PACE_MAX_CLR
  (∀ (s : State), s.Serves → ∃ t, exec .paceMaxClr s = .next t ∧ t.f 0 F.TB_PACE_MAX_MAX = s.f 0 F.TB_PACE_PACE ∧
    t.tb = { s.tb with paceClrAt := some (s.now / 2048 * 2048) } ∧ (∀ a, a ≠ R.TB_PACE_MAX → t.w a = s.w a) ∧
    t = { s with regs := t.regs, tb := t.tb, paths := t.paths }) ∧
  -- AVS_CTL_WRITE
  (∀ (s : State) (w : Word), s.Serves →
    ∃ t, exec (.avsCtlWrite w) s = .next t ∧
      ((F.TB_AVS_CTL_VMIN.of w < 650 ∨ 950 < F.TB_AVS_CTL_VMAX.of w ∨ F.TB_AVS_CTL_VMAX.of w < F.TB_AVS_CTL_VMIN.of w) →
        t.fb 0 F.TB_AVS_STAT_CFG_ERR = true ∧ s.OnlyRegsOf .host t [R.TB_AVS_STAT]) ∧
      (650 ≤ F.TB_AVS_CTL_VMIN.of w → F.TB_AVS_CTL_VMAX.of w ≤ 950 → F.TB_AVS_CTL_VMIN.of w ≤ F.TB_AVS_CTL_VMAX.of w →
        t.w R.TB_AVS_CTL = w &&& 0xC00FFFFF#32 ∧ (∀ a, a ∉ [R.TB_AVS_CTL, R.TB_AVS_STAT] → t.w a = s.w a) ∧
        (F.TB_AVS_CTL_EN.of w = 1 → t.tb.avsSuspended = false ∧ (s.tb.avsSuspended = true → t.tb.avsFirst = true)) ∧
        (F.TB_AVS_CTL_EN.of w = 0 → t.fb 0 F.TB_AVS_STAT_ACT = false ∧ t.tb = s.tb) ∧
        t = { s with regs := t.regs, tb := t.tb, paths := t.paths })) ∧
  -- AVS_EVALUATION
  (∀ (s : State) (mV : Nat), s.fb 0 F.TB_AVS_CTL_EN = true → s.fb 0 F.TB_AVS_CTL_HOLD = false → s.ready = true →
    s.tb.avsSuspended = false →
    ∃ t, exec (.avsEvaluation mV) s = .next t ∧ t.tb.avsFirst = false ∧
      (s.tb.avsFirst = true → t.f 0 F.TB_AVS_STAT_VREQ =
          clampNat (s.f 0 F.TB_AVS_CTL_VMIN) (s.f 0 F.TB_AVS_CTL_VMAX) ((mV * 2 + 5) / 10 * 5) ∧ t.fb 0 F.TB_AVS_STAT_ACT = true) ∧
      (s.tb.avsFirst = false → s.f 0 F.TB_PACE_TARGET_TARGET < s.f 0 F.TB_PACE_PACE →
        (s.f 0 F.TB_AVS_STAT_VREQ < s.f 0 F.TB_AVS_CTL_VMAX →
          t.f 0 F.TB_AVS_STAT_VREQ = min (s.f 0 F.TB_AVS_CTL_VMAX) (s.f 0 F.TB_AVS_STAT_VREQ + 5) ∧ t.fb 0 F.TB_AVS_STAT_ACT = true ∧
            t.fb 0 F.TB_AVS_STAT_AT_CEIL = false) ∧
        (s.f 0 F.TB_AVS_CTL_VMAX ≤ s.f 0 F.TB_AVS_STAT_VREQ → t.fb 0 F.TB_AVS_STAT_AT_CEIL = true ∧
          t.f 0 F.TB_AVS_STAT_VREQ = s.f 0 F.TB_AVS_STAT_VREQ)) ∧
      (s.tb.avsFirst = false → s.f 0 F.TB_PACE_PACE + s.f 0 F.TB_PACE_TARGET_BAND < s.f 0 F.TB_PACE_TARGET_TARGET →
        (s.f 0 F.TB_AVS_STAT_VREQ ≤ s.f 0 F.TB_AVS_CTL_VMIN → t.fb 0 F.TB_AVS_STAT_AT_FLOOR = true ∧
          t.f 0 F.TB_AVS_STAT_VREQ = s.f 0 F.TB_AVS_STAT_VREQ) ∧
        (s.f 0 F.TB_AVS_CTL_VMIN < s.f 0 F.TB_AVS_STAT_VREQ → s.tb.avsBelow = true →
          t.f 0 F.TB_AVS_STAT_VREQ = max (s.f 0 F.TB_AVS_CTL_VMIN) (s.f 0 F.TB_AVS_STAT_VREQ - 5) ∧ t.fb 0 F.TB_AVS_STAT_ACT = true) ∧
        (s.f 0 F.TB_AVS_CTL_VMIN < s.f 0 F.TB_AVS_STAT_VREQ → s.tb.avsBelow = false →
          t.f 0 F.TB_AVS_STAT_VREQ = s.f 0 F.TB_AVS_STAT_VREQ ∧ t.tb.avsBelow = true)) ∧
      (∀ a, a ≠ R.TB_AVS_STAT → t.w a = s.w a) ∧ t = { s with regs := t.regs, tb := t.tb }) ∧
  -- AVS_ACK_TIMEOUT
  (∀ (s : State), s.fb 0 F.TB_AVS_STAT_ACT = true →
    ∃ t, exec .avsAckTimeout s = .next t ∧
      (s.tb.avsRetried = false → t = { s with tb := { s.tb with avsRetried := true } }) ∧
      (s.tb.avsRetried = true → t.fb 0 F.TB_AVS_STAT_NO_ACK = true ∧ t.fb 0 F.TB_AVS_STAT_ACT = false ∧
        t.tb = { s.tb with avsSuspended := true, avsRetried := false } ∧ (∀ a, a ≠ R.TB_AVS_STAT → t.w a = s.w a)))

/-- Threshold codes, settling, parking and the decimation restart. Rests on R57, R58, R59, R62, R279, 03_front_end.
TDAC_APPLY puts the shadow's code, range and hysteresis into force at its strobe, a shadow written in the strobe's own
MCLK cycle excepted, gives them to the front end of an enabled channel and unparks a parked channel that has a code;
before READY and on a fused-off channel it only takes the strobe. TDAC_MODE_WRITE stores the word, puts MODE into
force at once and, in immediate mode, makes its own strobe. SETTLING_END clears SETTLING. PARK_END unmasks the channel
with a stamp due. TDAC_QUEUE_PUSH appends a code, or sets TQ_FULL at 64. DEC_RESYNC restarts the decimation counter.
Other channels and all memories stand. -/
def Obligations.ThresholdCodesApply : Prop :=
  -- TDAC_APPLY
  (∀ (s : State) (n : Ch) (at_ : Nat) (rest : List Nat), (s.chan n).strobes = at_ :: rest → s.ready = true → s.fusedOff n = false →
    ∃ t, exec (.tdacApply n) s = .next t ∧ (t.chan n).strobes = rest ∧ t.clk = (s.reach at_).clk ∧
      bitsGet (t.w (chBase n + 0x800 + R.CH_TDAC)) 0 22 = bitsGet (s.tdacAt n at_).1 0 22 ∧
      ((s.chan n).tdacLate = none → (s.tdacAt n at_).1 = s.w (chBase n + R.CH_TDAC) ∧ (t.chan n).tdacPend = false) ∧
      (∀ c : Nat × Word × Bool, (s.chan n).tdacLate = some c → c.1 + 2048 ≤ at_ →
        (s.tdacAt n at_).1 = s.w (chBase n + R.CH_TDAC) ∧ (t.chan n).tdacPend = false) ∧
      (∀ c : Nat × Word × Bool, (s.chan n).tdacLate = some c → at_ < c.1 + 2048 →
        (s.tdacAt n at_).1 = c.2.1 ∧ (t.chan n).tdacPend = (s.chan n).tdacPend) ∧
      t.w (chBase n + R.CH_TDAC) = s.w (chBase n + R.CH_TDAC) ∧
      (s.actB n F.CH_CFG_EN = true → s.fb (chBase n) F.CH_PIN_PARKED = false →
        (t.fe (Ch.fe n)).tdac.map (fun (x : Word × Rat) => x.1) = some (BitVec.ofNat 32 (bitsGet (s.tdacAt n at_).1 0 22))) ∧
      (s.actB n F.CH_CFG_EN = true → s.fb (chBase n) F.CH_PIN_PARKED = true → (s.chan n).parkEnd = none →
        (s.tdacAt n at_).2.1 = true →
        (t.chan n).parkEnd = some (at_ + settlePark) ∧ t.fb (chBase n) F.CH_PIN_SETTLING = true ∧
          (t.chan n).settleBy = at_ + settleCode ∧
          (t.fe (Ch.fe n)).tdac.map (fun (x : Word × Rat) => x.1) = some (BitVec.ofNat 32 (bitsGet (s.tdacAt n at_).1 0 22))) ∧
      (∀ m : Ch, m ≠ n → t.chan m = s.chan m) ∧ s.SameMemory t) ∧
  -- TDAC_APPLY
  (∀ (s : State) (n : Ch) (at_ : Nat) (rest : List Nat), (s.chan n).strobes = at_ :: rest → (s.ready = false ∨ s.fusedOff n = true) →
    ∃ t, exec (.tdacApply n) s = .next t ∧ t.chan n = { s.chan n with strobes := rest } ∧ (∀ m : Ch, m ≠ n → t.chan m = s.chan m) ∧
      t.clk = (s.reach at_).clk ∧ t = { s with clk := t.clk, chans := t.chans }) ∧
  -- TDAC_MODE_WRITE
  (∀ (s : State) (n : Ch) (w : Word), s.Serves → s.fb (chBase n) F.CH_HG_STAT_SVC_OWN = false →
    ∃ t, exec (.tdacModeWrite n w) s = .next t ∧ t.w (chBase n + R.CH_TDAC) &&& 0xFFFFFF#32 = w &&& 0xFFFFFF#32 ∧
      F.CH_TDAC_MODE.of (t.w (chBase n + 0x800 + R.CH_TDAC)) = F.CH_TDAC_MODE.of w ∧
      (t.chan n).tdacPend = true ∧ (t.chan n).tdacWritten = true ∧
      (t.chan n).strobes = (if F.CH_TDAC_MODE.of (s.w (chBase n + R.CH_TDAC)) ≠ F.CH_TDAC_MODE.of w then [] else (s.chan n).strobes) ++
        (if immediateMode (F.CH_TDAC_MODE.of w) then [s.strobeAt] else []) ∧
      (∀ m : Ch, m ≠ n → t.chan m = s.chan m) ∧ s.SameMemory t) ∧
  -- SETTLING_END
  (∀ (s : State) (n : Ch), ∃ t, exec (.settlingEnd n) s = .next t ∧ t.fb (chBase n) F.CH_PIN_SETTLING = false ∧
    t.clk = (s.reach (s.chan n).settleBy).clk ∧ (∀ a, a ≠ chBase n + R.CH_PIN → t.w a = s.w a) ∧
    t = { s with regs := t.regs, clk := t.clk }) ∧
  -- PARK_END
  (∀ (s : State) (n : Ch) (at_ : Nat), (s.chan n).parkEnd = some at_ →
    ∃ t, exec (.parkEnd n) s = .next t ∧ t.fb (chBase n) F.CH_PIN_PARKED = false ∧ (t.chan n).parkEnd = none ∧
      (t.chan n).stampDue = true ∧ t.clk = (s.reach at_).clk ∧ (∀ m : Ch, m ≠ n → t.chan m = s.chan m) ∧ s.SameMemory t) ∧
  -- TDAC_QUEUE_PUSH
  (∀ (s : State) (n : Ch) (code : BitVec 18), s.Serves →
    ∃ t, exec (.tdacQueuePush n code) s = .next t ∧
      ((s.chan n).tdacQ.length < 64 → t.chan n = { s.chan n with tdacQ := (s.chan n).tdacQ ++ [(s.now, code)], tdacWritten := true } ∧
        t.regs = s.regs) ∧
      (64 ≤ (s.chan n).tdacQ.length → t.fb (chBase n) F.CH_PIN_TQ_FULL = true ∧ t.chan n = s.chan n) ∧
      (∀ m : Ch, m ≠ n → t.chan m = s.chan m) ∧ t = { s with regs := t.regs, chans := t.chans, paths := t.paths }) ∧
  -- DEC_RESYNC
  (∀ (s : State) (n : Ch), s.Serves → s.fb (chBase n) F.CH_HG_STAT_SVC_OWN = false →
    ∃ t, exec (.decResync n) s = .next t ∧ (t.chan n).decCount = 0 ∧ t.w (chBase n + R.CH_DEC) = s.w (chBase n + R.CH_DEC) ∧
      ((s.chan n).openGate?.isSome = true → (∀ a, t.w a = s.w a) ∧ t.clk = s.clk ∧ (∀ m : Ch, m ≠ n → t.chan m = s.chan m) ∧ s.SameMemory t))

/-- Array strobes and cluster pacers apply codes at one instant. Rests on R64, R66, R67, R231, 03_front_end.
LOAD_N_EDGE (EN_LOAD set, at least 5 ns low), ARRAY_GO and STROBE (EN_MSG set) make one array strobe at their
modulator clock: it is counted, its instant is kept, and every channel in array mode that may apply has its shadow's
code in force; at the clock of the previous strobe it is that strobe and nothing more happens; a LOAD_N edge less than
100 ns after the previous strobe is only counted in IGN. CLR_IGN clears that count. PACER_RUN starts a pacer one
period later, lets a running one run or stops it; PACER_TICK schedules the next tick and takes one code, pushed before
the tick's MCLK cycle, from the queue of every paced channel of the cluster, whose shadow stands, or sets TQ_UNDER. -/
def Obligations.StrobesAndPacersApply : Prop :=
  -- LOAD_N_EDGE
  (∀ (s : State) (ns : Nat), s.fb 0 F.DEV_TDAC_ARR_EN_LOAD = true → 5 ≤ ns →
    ∃ t, exec (.loadNEdge ns) s = .next t ∧
      (s.lastStrobe = some ((s.now + 5120 + 511) / 512 * 512) → t = s) ∧
      (∀ l : Nat, s.lastStrobe = some l → l ≠ (s.now + 5120 + 511) / 512 * 512 → (s.now + 5120 + 511) / 512 * 512 < l + 64000 →
        t.f 0 F.DEV_TDAC_ARR_IGN = min (s.f 0 F.DEV_TDAC_ARR_IGN + 1) (2 ^ F.DEV_TDAC_ARR_IGN.len - 1) ∧ s.OnlyRegs t [R.DEV_TDAC_ARR]) ∧
      ((∀ l : Nat, s.lastStrobe = some l → l + 64000 ≤ (s.now + 5120 + 511) / 512 * 512) →
        t.lastStrobe = some ((s.now + 5120 + 511) / 512 * 512) ∧
        t.f 0 F.DEV_TDAC_SCNT_SCNT = min (s.f 0 F.DEV_TDAC_SCNT_SCNT + 1) (2 ^ F.DEV_TDAC_SCNT_SCNT.len - 1) ∧
        (∀ n : Ch, s.inMode n 2 = true → s.ready = true → s.fusedOff n = false →
          bitsGet (t.w (chBase n + 0x800 + R.CH_TDAC)) 0 22 = bitsGet (s.tdacAt n ((s.now + 5120 + 511) / 512 * 512)).1 0 22)) ∧
      t.clk = s.clk ∧ s.SameMemory t) ∧
  -- LOAD_N_EDGE
  (∀ (s : State) (ns : Nat), (s.fb 0 F.DEV_TDAC_ARR_EN_LOAD = false ∨ ns < 5) → ∃ t, exec (.loadNEdge ns) s = .next t ∧ t = s) ∧
  -- ARRAY_GO
  (∀ (s : State), s.Serves → s.lastStrobe ≠ some s.strobeAt →
    ∃ t, exec .arrayGo s = .next t ∧ t.lastStrobe = some (max s.strobeAt (s.lastStrobe.getD 0)) ∧
      t.f 0 F.DEV_TDAC_SCNT_SCNT = min (s.f 0 F.DEV_TDAC_SCNT_SCNT + 1) (2 ^ F.DEV_TDAC_SCNT_SCNT.len - 1) ∧
      (∀ n : Ch, s.inMode n 2 = true → s.ready = true → s.fusedOff n = false →
        bitsGet (t.w (chBase n + 0x800 + R.CH_TDAC)) 0 22 = bitsGet (s.tdacAt n s.strobeAt).1 0 22) ∧
      t.clk = s.clk ∧ s.SameMemory t) ∧
  -- ARRAY_GO
  (∀ (s : State), s.Serves → s.lastStrobe = some s.strobeAt → ∃ t, exec .arrayGo s = .next t ∧ t = { s with paths := t.paths, regs := t.regs } ∧
    t.f 0 F.DEV_TDAC_SCNT_SCNT = s.f 0 F.DEV_TDAC_SCNT_SCNT ∧ t.f 0 F.DEV_TDAC_ARR_IGN = s.f 0 F.DEV_TDAC_ARR_IGN) ∧
  -- STROBE
  (∀ (s : State), s.fb 0 F.DEV_TDAC_ARR_EN_MSG = true → s.lastStrobe ≠ some s.clockAfter →
    ∃ t, exec .strobe s = .next t ∧ t.lastStrobe = some (max s.clockAfter (s.lastStrobe.getD 0)) ∧
      t.f 0 F.DEV_TDAC_SCNT_SCNT = min (s.f 0 F.DEV_TDAC_SCNT_SCNT + 1) (2 ^ F.DEV_TDAC_SCNT_SCNT.len - 1) ∧
      (∀ n : Ch, s.inMode n 2 = true → s.ready = true → s.fusedOff n = false →
        bitsGet (t.w (chBase n + 0x800 + R.CH_TDAC)) 0 22 = bitsGet (s.tdacAt n s.clockAfter).1 0 22) ∧
      t.clk = s.clk ∧ s.SameMemory t) ∧
  -- STROBE
  (∀ (s : State), (s.fb 0 F.DEV_TDAC_ARR_EN_MSG = false ∨ s.lastStrobe = some s.clockAfter) →
    ∃ t, exec .strobe s = .next t ∧ t.lastStrobe = s.lastStrobe ∧ t.chans = s.chans ∧ t.fes = s.fes ∧ t.clk = s.clk ∧
      t.f 0 F.DEV_TDAC_SCNT_SCNT = s.f 0 F.DEV_TDAC_SCNT_SCNT ∧ s.SameMemory t) ∧
  -- CLR_IGN
  (∀ (s : State), s.Serves → ∃ t, exec .clrIgn s = .next t ∧ t.f 0 F.DEV_TDAC_ARR_IGN = 0 ∧
    t.f 0 F.DEV_TDAC_ARR_EN_LOAD = s.f 0 F.DEV_TDAC_ARR_EN_LOAD ∧ t.f 0 F.DEV_TDAC_ARR_EN_MSG = s.f 0 F.DEV_TDAC_ARR_EN_MSG ∧
    s.OnlyRegsOf .host t [R.DEV_TDAC_ARR]) ∧
  -- PACER_RUN
  (∀ (s : State) (k : Fin 8) (w : Word), s.Serves →
    ∃ t, exec (.pacerRun k w) s = .next t ∧
      F.DEV_TPACE_PERIOD.of (t.w (R.DEV_TPACE + 4 * k.val)) = clampNat 10 10000 (F.DEV_TPACE_PERIOD.of w) ∧
      (F.DEV_TPACE_RUN.of w = 1 → s.pacers[k] = none →
        t.pacers[k] = some (s.now + clampNat 10 10000 (F.DEV_TPACE_PERIOD.of w) * 64000)) ∧
      (F.DEV_TPACE_RUN.of w = 1 → s.pacers[k].isSome = true → t.pacers[k] = s.pacers[k]) ∧
      (F.DEV_TPACE_RUN.of w = 0 → t.pacers[k] = none) ∧ (∀ j : Fin 8, j ≠ k → t.pacers[j] = s.pacers[j]) ∧
      (∀ a, a ≠ R.DEV_TPACE + 4 * k.val → t.w a = s.w a) ∧ t = { s with regs := t.regs, pacers := t.pacers, paths := t.paths }) ∧
  -- PACER_TICK
  (∀ (s : State) (k : Fin 8) (at_ : Nat), s.pacers[k] = some at_ →
    ∃ t, exec (.pacerTick k) s = .next t ∧ t.pacers[k] = some (at_ + pacerPeriod (s.w (R.DEV_TPACE + 4 * k.val))) ∧
      t.clk = (s.reach at_).clk ∧
      (∀ n : Ch, n.val / 16 = k.val → s.inMode n 1 = true → (s.chan n).tdacQ ≠ [] →
        ((s.chan n).tdacQ.headD (0, 0#18)).1 < at_ / 2048 * 2048 →
        (t.chan n).tdacQ = (s.chan n).tdacQ.tail ∧ t.w (chBase n + R.CH_TDAC) = s.w (chBase n + R.CH_TDAC) ∧
        (s.ready = true → s.fusedOff n = false →
          F.CH_TDAC_CODE.of (t.w (chBase n + 0x800 + R.CH_TDAC)) = ((s.chan n).tdacQ.headD (0, 0#18)).2.toNat)) ∧
      (∀ n : Ch, n.val / 16 = k.val → s.inMode n 1 = true →
        ((s.chan n).tdacQ = [] ∨ at_ / 2048 * 2048 ≤ ((s.chan n).tdacQ.headD (0, 0#18)).1) →
        t.fb (chBase n) F.CH_PIN_TQ_UNDER = true ∧ t.chan n = s.chan n) ∧
      (∀ n : Ch, n.val / 16 ≠ k.val → t.chan n = s.chan n) ∧ s.SameMemory t)

/-- A spare stands in for a channel by the rows of a handover. Rests on R68, R69, R70, R71, R72, R291, 03_front_end.
An admitted SP_ROUTE write that requests an idle spare starts a handover, one that releases a spare which stands in
for repair starts its hand-back, and a reserved request or one while the spare moves is refused with BUSY_REJ; a
release elsewhere is only stored (the model's choice, assumption 60). HANDOVER_TDAC_LOAD passes the row at 40 ns and
gives the spare the channel's threshold, HANDOVER_SETTLED the row at 2,540 ns. HANDOVER_CHECK_DONE ends with the
1,024th pair or 1 ms after the settled threshold: it passes to the wait for a gap, or fails with HO_FAIL and leaves a
handover's channel on its own front end. HANDOVER_STREAM_MOVE in a gap, and HANDOVER_FORCED_CUT without one, move the
stream: at a handover's end the spare serves and CH_STAT.SPARE is set, at a hand-back's end the spare is idle and
CH_STAT.SPARE is 0; HO_DONE is set, and the cut sets FORCED. While the channel is blind the cut waits (assumption 98). -/
def Obligations.SpareHandoversFollowTheirRows : Prop :=
  -- SP_ROUTE_WRITE
  (∀ (s : State) (p : Sys2Proof.Path) (sp : Spare) (w : Word), s.Serves → s.Writes p → s.Unlocked p →
    ∃ t, exec (.spRouteWrite p sp w) s = .next t ∧
      (F.SP_ROUTE_REQ.of w = 1 → s.spState sp = 0 → s.fuses.grade.getLsbD sp.val = true →
        t.spState sp = 1 ∧ t.spOwner sp = 1 ∧ t.f (spBase sp) F.SP_STAT_CUR = F.SP_ROUTE_SRC.of w ∧
        (t.spare sp).stage = 1 ∧ (t.spare sp).startAt = s.now ∧ t.tvW (spBase sp + R.SP_ROUTE) = w &&& 0xCF#32 ∧
        t.chans = s.chans) ∧
      (F.SP_ROUTE_REQ.of w = 0 → s.spState sp = 2 → s.spOwner sp = 1 →
        t.spState sp = 3 ∧ (t.spare sp).stage = 1 ∧ (t.spare sp).startAt = s.now ∧ (t.spare sp).next = none ∧
        t.tvW (spBase sp + R.SP_ROUTE) = w &&& 0xCF#32 ∧ t.chans = s.chans) ∧
      (F.SP_ROUTE_REQ.of w = 0 → (s.spState sp = 0 ∨ (s.spState sp = 2 ∧ s.spOwner sp = 2)) →
        t.tvW (spBase sp + R.SP_ROUTE) = w &&& 0xCF#32 ∧ t.regs = s.regs ∧ t.spares = s.spares ∧ t.chans = s.chans) ∧
      (F.SP_ROUTE_REQ.of w = 1 → s.spState sp = 2 → s.spOwner sp = 2 → s.fuses.grade.getLsbD sp.val = true →
        (s.f (spBase sp) F.SP_STAT_CUR = F.SP_ROUTE_SRC.of w → t.spState sp = 2 ∧ t.spOwner sp = 1 ∧ t.fb (spBase sp) F.SP_STAT_HO_DONE = true) ∧
        (s.f (spBase sp) F.SP_STAT_CUR ≠ F.SP_ROUTE_SRC.of w → t.spState sp = 3 ∧ (t.spare sp).stage = 1 ∧
          (t.spare sp).next.map (fun (x : Fin 16) => x.val) = some (F.SP_ROUTE_SRC.of w))) ∧
      ((2 ≤ F.SP_ROUTE_REQ.of w ∨ s.spState sp = 1 ∨ s.spState sp = 3 ∨
          (F.SP_ROUTE_REQ.of w = 1 ∧ ((s.spState sp = 2 ∧ s.spOwner sp = 1) ∨ s.fuses.grade.getLsbD sp.val = false))) →
        t.fb (spBase sp) F.SP_STAT_BUSY_REJ = true ∧ t.tv = s.tv ∧ t.spares = s.spares ∧ t.chans = s.chans) ∧
      t.clk = s.clk ∧ s.SameMemory t) ∧
  -- HANDOVER_TDAC_LOAD
  (∀ (s : State) (sp : Spare), (s.spare sp).stage = 1 →
    ∃ t, exec (.handoverTdacLoad sp) s = .next t ∧ t.spare sp = { s.spare sp with stage := 2 } ∧
      t.clk = (s.reach ((s.spare sp).startAt + 25600)).clk ∧ (∀ q : Spare, q ≠ sp → t.spare q = s.spare q) ∧
      (s.spState sp ≠ 3 → (s.fe (Ch.fe (s.spCh sp))).tdac.isSome = true → (t.fe (spareFe sp)).tdac.map (fun (x : Word × Rat) => x.1) =
        some (BitVec.ofNat 32 (bitsGet (s.w (chBase (s.spCh sp) + 0x800 + R.CH_TDAC)) 0 22))) ∧
      ((s.fe (Ch.fe (s.spCh sp))).tdac = none → t.fes = s.fes) ∧
      (∀ f : FrontEnd, f ≠ spareFe sp → f ≠ Ch.fe (s.spCh sp) → t.fe f = s.fe f) ∧
      t = { s with clk := t.clk, spares := t.spares, fes := t.fes }) ∧
  -- HANDOVER_SETTLED
  (∀ (s : State) (sp : Spare), (s.spare sp).stage = 2 →
    ∃ t, exec (.handoverSettled sp) s = .next t ∧ t.spare sp = { s.spare sp with stage := 3 } ∧
      t.clk = (s.reach ((s.spare sp).startAt + 1625600)).clk ∧ (∀ q : Spare, q ≠ sp → t.spare q = s.spare q) ∧
      t = { s with clk := t.clk, spares := t.spares }) ∧
  -- HANDOVER_CHECK_DONE
  (∀ (s : State) (sp : Spare) (o : Overlap), (s.spare sp).stage = 3 →
    ∃ t, exec (.handoverCheckDone sp o) s = .next t ∧
      (o.handoverPass = true → (t.spare sp).stage = 4 ∧
        (o.pairs < 1024 → (t.spare sp).checkedAt = (s.spare sp).startAt + 1625600 + tkMs) ∧
        (1024 ≤ o.pairs → (t.spare sp).checkedAt = min s.now ((s.spare sp).startAt + 1625600 + tkMs)) ∧
        (o.pairs = 0 → t.fb (spBase sp) F.SP_STAT_UNCHECKED = true) ∧ (0 < o.pairs → t.regs = s.regs)) ∧
      (o.handoverPass = false → t.fb (spBase sp) F.SP_STAT_HO_FAIL = true ∧ (t.spare sp).stage = 0 ∧
        (s.spState sp = 3 → t.spState sp = 2) ∧ (s.spState sp ≠ 3 → t.spState sp = 0 ∧ t.spOwner sp = 0)) ∧
      (o.pairs < 1024 → t.clk = (s.reach ((s.spare sp).startAt + 1625600 + tkMs)).clk) ∧ (1024 ≤ o.pairs → t.clk = s.clk) ∧
      s.SameMemory t) ∧
  -- HANDOVER_STREAM_MOVE
  (∀ (s : State) (sp : Spare), (s.spare sp).stage = 4 → s.spState sp = 1 → s.gapNow (s.spCh sp) = true →
    ∃ t, exec (.handoverStreamMove sp) s = .next t ∧ t.spState sp = 2 ∧ (t.spare sp).stage = 0 ∧
      t.fb (spBase sp) F.SP_STAT_HO_DONE = true ∧ t.fb (chBase (s.spCh sp)) F.CH_STAT_SPARE = true ∧ t.clk = s.clk ∧ s.SameMemory t) ∧
  -- HANDOVER_STREAM_MOVE
  (∀ (s : State) (sp : Spare), (s.spare sp).stage = 4 → s.spState sp = 3 → (s.spare sp).next = none → s.gapNow (s.spCh sp) = true →
    ∃ t, exec (.handoverStreamMove sp) s = .next t ∧ t.spState sp = 0 ∧ t.spOwner sp = 0 ∧ (t.spare sp).stage = 0 ∧
      t.fb (spBase sp) F.SP_STAT_HO_DONE = true ∧ t.fb (chBase (s.spCh sp)) F.CH_STAT_SPARE = false ∧ t.clk = s.clk ∧ s.SameMemory t) ∧
  -- HANDOVER_STREAM_MOVE
  (∀ (s : State) (sp : Spare) (src : Fin 16), (s.spare sp).stage = 4 → s.spState sp = 3 → (s.spare sp).next = some src → s.gapNow (s.spCh sp) = true →
    ∃ t, exec (.handoverStreamMove sp) s = .next t ∧ t.spState sp = 1 ∧ t.spOwner sp = 1 ∧ t.f (spBase sp) F.SP_STAT_CUR = src.val ∧
      (t.spare sp).stage = 1 ∧ (t.spare sp).startAt = s.now ∧ t.fb (chBase (s.spCh sp)) F.CH_STAT_SPARE = false ∧ t.clk = s.clk ∧ s.SameMemory t) ∧
  -- HANDOVER_STREAM_MOVE
  (∀ (s : State) (sp : Spare), (s.spare sp).stage = 4 → (s.spState sp = 1 ∨ s.spState sp = 3) → s.gapNow (s.spCh sp) = false →
    ∃ t, exec (.handoverStreamMove sp) s = .next t ∧ t = s) ∧
  -- HANDOVER_FORCED_CUT
  (∀ (s : State) (sp : Spare), (s.spare sp).stage = 4 → s.spState sp = 1 → (s.chan (s.spCh sp)).blind = none →
    ∃ t, exec (.handoverForcedCut sp) s = .next t ∧ t.spState sp = 2 ∧ (t.spare sp).stage = 0 ∧
      t.fb (spBase sp) F.SP_STAT_FORCED = true ∧ t.fb (spBase sp) F.SP_STAT_HO_DONE = true ∧ t.fb (chBase (s.spCh sp)) F.CH_STAT_SPARE = true ∧
      (s.live (s.spCh sp) = true → (t.chan (s.spCh sp)).blind.isSome = true) ∧
      t.clk = (s.reach ((s.spare sp).checkedAt + s.f (spBase sp) F.SP_WAIT_WAIT * tkUs)).clk ∧ s.SameMemory t) ∧
  -- HANDOVER_FORCED_CUT
  (∀ (s : State) (sp : Spare), (s.spare sp).stage = 4 → s.spState sp = 3 → (s.spare sp).next = none → (s.chan (s.spCh sp)).blind = none →
    ∃ t, exec (.handoverForcedCut sp) s = .next t ∧ t.spState sp = 0 ∧ t.spOwner sp = 0 ∧ (t.spare sp).stage = 0 ∧
      t.fb (spBase sp) F.SP_STAT_FORCED = true ∧ t.fb (spBase sp) F.SP_STAT_HO_DONE = true ∧ t.fb (chBase (s.spCh sp)) F.CH_STAT_SPARE = false ∧
      t.clk = (s.reach ((s.spare sp).checkedAt + s.f (spBase sp) F.SP_WAIT_WAIT * tkUs)).clk ∧ s.SameMemory t) ∧
  -- HANDOVER_FORCED_CUT
  (∀ (s : State) (sp : Spare), (s.spare sp).stage = 4 → (s.spState sp = 1 ∨ s.spState sp = 3) → (s.chan (s.spCh sp)).blind.isSome = true →
    ∃ t, exec (.handoverForcedCut sp) s = .next t ∧
      t.clk = (s.reach ((s.spare sp).checkedAt + s.f (spBase sp) F.SP_WAIT_WAIT * tkUs)).clk ∧ t = { s with clk := t.clk })

/-- The pin test starts only on an idle channel and reports its codes; AMON follows its selection. Rests on R73, R74,
03_front_end. PIN_TEST starts the test on an idle channel, is refused with PT_REJ on another, and does nothing while a
test runs; that a handover which must not run is one of the cluster's spare is the model's choice (assumption 99).
PIN_TEST_DONE sets the result codes that the readings give, PT_PAIR and PT_DONE, and clears TEST, 80 us after its
start. AMON_SELECT stores the selection; without EN the monitor is high impedance and carries no voltage, and with it
it carries the selected TDAC's. -/
def Obligations.PinTestAndMonitor : Prop :=
  -- PIN_TEST
  (∀ (s : State) (n : Ch), s.Serves → (s.chan n).testing = none →
    ∃ t, exec (.pinTest n) s = .next t ∧
      (s.pinTestIdle n = true → (t.chan n).testing = some s.now ∧ t.fb (chBase n) F.CH_PIN_TEST = true ∧
        (s.live n = true → t.fb (chBase n) F.CH_PIN_BLIND_T = true ∧ (t.chan n).blind.isSome = true)) ∧
      (s.pinTestIdle n = false → t.fb (chBase n) F.CH_PIN_PT_REJ = true ∧ t.chans = s.chans) ∧
      (∀ m : Ch, m ≠ n → t.chan m = s.chan m) ∧ t.clk = s.clk ∧ s.SameMemory t) ∧
  -- PIN_TEST
  (∀ (s : State) (n : Ch), s.Serves → (s.chan n).testing.isSome = true →
    ∃ t, exec (.pinTest n) s = .next t ∧ t.chans = s.chans ∧ t.regs = s.regs ∧ t.clk = s.clk ∧ s.SameMemory t) ∧
  -- PIN_TEST_DONE
  (∀ (s : State) (n : Ch) (p1 p2 n1 n2 : PinBand) (joined : Bool) (at_ : Nat), (s.chan n).testing = some at_ →
    ∃ t, exec (.pinTestDone n p1 p2 n1 n2 joined) s = .next t ∧ (t.chan n).testing = none ∧ t.fb (chBase n) F.CH_PIN_TEST = false ∧
      t.f (chBase n) F.CH_PIN_PT_P = pinCode p1 p2 ∧ t.f (chBase n) F.CH_PIN_PT_N = pinCode n1 n2 ∧
      t.fb (chBase n) F.CH_PIN_PT_PAIR = joined ∧ t.fb (chBase n) F.CH_PIN_PT_DONE = true ∧ t.clk = (s.reach (at_ + 80 * tkUs)).clk ∧
      (∀ a, a ≠ chBase n + R.CH_PIN → t.w a = s.w a) ∧ (∀ m : Ch, m ≠ n → t.chan m = s.chan m) ∧
      t = { s with regs := t.regs, clk := t.clk, chans := t.chans }) ∧
  -- AMON_SELECT
  (∀ (s : State) (w : Word), s.Serves → ∃ t, exec (.amonSelect w) s = .next t ∧ t.w R.DEV_AMON &&& 0x80000FFF#32 = w &&& 0x80000FFF#32 ∧
    (F.DEV_AMON_EN.of w = 0 → t.amon = Amon.hiZ ∧ t.amonVolts = none) ∧
    (F.DEV_AMON_EN.of w = 1 → F.DEV_AMON_GRP.of w = 0 → F.DEV_AMON_IDX.of w < 128 → t.amon = Amon.tdac (F.DEV_AMON_IDX.of w) ∧
      t.amonVolts = some (amonClip (s.tdacOut ⟨F.DEV_AMON_IDX.of w % 136, Nat.mod_lt _ (by decide)⟩))) ∧
    s.OnlyRegsOf .host t [R.DEV_AMON])

/-- An edge is written with its stamp, dropped for spacing, deselected, counted in a blind interval or overflows.
Rests on R75, R77, R81, R82, R83, R84, R88, R90, R204, 04_edge_capture. EDGE_CAPTURE on a live channel whose
comparator is on the pin takes the raw time, device time plus the tap index. An edge within 160 tk of the last
accepted one is dropped: it counts in CH_CROWD, sets CROWD and leaves the FIFO alone. Any other edge is accepted: what
waited for the spacing window goes into the FIFO first; an edge that polarity or decimation does not pass leaves no
entry; one that passes enters a FIFO with a free main entry and no held marker, behind an ABS entry where a stamp is
due, and counts in CH_ACC; in a full FIFO it counts in CH_OVF, sets OVF, leaves an OVF marker behind what is held and
starts a blind interval. In a blind interval it is only counted. A channel that is not live, whose comparator is off
the pin, or without device time captures nothing. CH_PART_WRITE stores its word, or sets PART_REJ and changes nothing;
on a channel claimed by a service it sets WR_REJ and changes nothing. -/
def Obligations.QualifierWritesOrDropsEachEdge : Prop :=
  -- EDGE_CAPTURE
  (∀ (s : State) (ch : Ch) (rising : Bool) (taps : BitVec 256), (s.live ch = false ∨ s.clk.running = false ∨ s.offPin ch = true) →
    ∃ t, exec (.edgeCapture ch rising taps) s = .next t ∧ t = s) ∧
  -- EDGE_CAPTURE
  (∀ (s : State) (ch : Ch) (rising : Bool) (taps : BitVec 256) (b : BlindSt), s.live ch = true → s.clk.running = true →
    s.offPin ch = false → s.blindAt ch (s.now + tapIndex taps) = some b →
    ∃ t, exec (.edgeCapture ch rising taps) s = .next t ∧
      t = s.setChan ch { s.chan ch with blind := some { b with count := b.count + 1 } }) ∧
  -- EDGE_CAPTURE
  (∀ (s : State) (ch : Ch) (rising : Bool) (taps : BitVec 256) (r0 : Nat) (cap0 : Cap) (own : Bool), s.live ch = true →
    s.clk.running = true → s.offPin ch = false → s.blindAt ch (s.now + tapIndex taps) = none →
    (s.chan ch).lastAcc = some (r0, cap0, own) → s.now + tapIndex taps < r0 + 160 →
    ∃ t, exec (.edgeCapture ch rising taps) s = .next t ∧ t.fb (chBase ch) F.CH_STAT_CROWD = true ∧
      t.pair (chBase ch + R.CH_CROWD_H) = (s.pair (chBase ch + R.CH_CROWD_H) + 1) % 2 ^ 64 ∧
      t.chan ch = { s.chan ch with crowd := some (match (s.chan ch).crowd with
        | some k => { k with n := min 255 (k.n + 1) }
        | none => ({ n := 1, rising := (rising != s.actB ch F.CH_CFG_INV), e := own, raw := r0, cap := cap0 } : CrowdSt)) } ∧
      (∀ a, a ∉ [chBase ch + R.CH_CROWD_H, chBase ch + R.CH_CROWD_H + 4, chBase ch + R.CH_STAT] → t.w a = s.w a) ∧
      (∀ m : Ch, m ≠ ch → t.chan m = s.chan m) ∧ t = { s with regs := t.regs, chans := t.chans }) ∧
  -- EDGE_CAPTURE
  (∀ (s : State) (ch : Ch) (rising : Bool) (taps : BitVec 256), s.live ch = true → s.clk.running = true → s.offPin ch = false →
    s.blindAt ch (s.now + tapIndex taps) = none → (s.chan ch).windowOpen (s.now + tapIndex taps) = false →
    decPasses (s.act ch F.CH_DEC_POL) (rising != s.actB ch F.CH_CFG_INV) = false →
    ∃ t, exec (.edgeCapture ch rising taps) s = .next t ∧
      t = s.setChan ch { (s.chan ch).settle (s.now + tapIndex taps) with
        idleSince := s.now + tapIndex taps,
        lastAcc := some (s.now + tapIndex taps, s.capOf ch (rising != s.actB ch F.CH_CFG_INV), false) }) ∧
  -- EDGE_CAPTURE
  (∀ (s : State) (ch : Ch) (rising : Bool) (taps : BitVec 256), s.live ch = true → s.clk.running = true → s.offPin ch = false →
    s.blindAt ch (s.now + tapIndex taps) = none → (s.chan ch).windowOpen (s.now + tapIndex taps) = false →
    decPasses (s.act ch F.CH_DEC_POL) (rising != s.actB ch F.CH_CFG_INV) = true → (s.chan ch).decCount < s.act ch F.CH_DEC_DM1 →
    ∃ t, exec (.edgeCapture ch rising taps) s = .next t ∧
      t = s.setChan ch { (s.chan ch).settle (s.now + tapIndex taps) with
        idleSince := s.now + tapIndex taps, decCount := (s.chan ch).decCount + 1,
        lastAcc := some (s.now + tapIndex taps, s.capOf ch (rising != s.actB ch F.CH_CFG_INV), false) }) ∧
  -- EDGE_CAPTURE
  (∀ (s : State) (ch : Ch) (rising : Bool) (taps : BitVec 256), s.live ch = true → s.clk.running = true → s.offPin ch = false →
    s.blindAt ch (s.now + tapIndex taps) = none → (s.chan ch).windowOpen (s.now + tapIndex taps) = false →
    decPasses (s.act ch F.CH_DEC_POL) (rising != s.actB ch F.CH_CFG_INV) = true → s.act ch F.CH_DEC_DM1 ≤ (s.chan ch).decCount →
    ((s.chan ch).settle (s.now + tapIndex taps)).held = [] → ((s.chan ch).settle (s.now + tapIndex taps)).fifo.length < 256 →
    ∃ t, exec (.edgeCapture ch rising taps) s = .next t ∧
      t.chan ch = { (s.chan ch).settle (s.now + tapIndex taps) with
        idleSince := s.now + tapIndex taps, decCount := 0, stampDue := false,
        fifo := ((s.chan ch).settle (s.now + tapIndex taps)).fifo ++
          (if ((s.chan ch).settle (s.now + tapIndex taps)).stampDue then [FEntry.abs] else []) ++
          [FEntry.edge (s.now + tapIndex taps) (s.capOf ch (rising != s.actB ch F.CH_CFG_INV))],
        lastAcc := some (s.now + tapIndex taps, s.capOf ch (rising != s.actB ch F.CH_CFG_INV), true) } ∧
      t.pair (chBase ch + R.CH_ACC_H) = (s.pair (chBase ch + R.CH_ACC_H) + 1) % 2 ^ 64 ∧
      (∀ a, a ∉ [chBase ch + R.CH_ACC_H, chBase ch + R.CH_ACC_H + 4] → t.w a = s.w a) ∧
      (∀ m : Ch, m ≠ ch → t.chan m = s.chan m) ∧ t = { s with regs := t.regs, chans := t.chans }) ∧
  -- EDGE_CAPTURE
  (∀ (s : State) (ch : Ch) (rising : Bool) (taps : BitVec 256), s.live ch = true → s.clk.running = true → s.offPin ch = false →
    s.blindAt ch (s.now + tapIndex taps) = none → (s.chan ch).windowOpen (s.now + tapIndex taps) = false →
    decPasses (s.act ch F.CH_DEC_POL) (rising != s.actB ch F.CH_CFG_INV) = true → s.act ch F.CH_DEC_DM1 ≤ (s.chan ch).decCount →
    (((s.chan ch).settle (s.now + tapIndex taps)).held ≠ [] ∨ 256 ≤ ((s.chan ch).settle (s.now + tapIndex taps)).fifo.length) →
    ∃ t, exec (.edgeCapture ch rising taps) s = .next t ∧ (t.chan ch).decCount = 0 ∧
      t.fb (chBase ch) F.CH_STAT_OVF = true ∧ t.fb (chBase ch) F.CH_STAT_OVF_BLIND = true ∧
      t.pair (chBase ch + R.CH_OVF_H) = (s.pair (chBase ch + R.CH_OVF_H) + 1) % 2 ^ 64 ∧
      (t.chan ch).fifo ++ (t.chan ch).held = ((s.chan ch).settle (s.now + tapIndex taps)).fifo ++
        ((s.chan ch).settle (s.now + tapIndex taps)).held ++
        [FEntry.ovf (s.now + tapIndex taps) (s.capOf ch (rising != s.actB ch F.CH_CFG_INV))] ∧
      (((s.chan ch).settle (s.now + tapIndex taps)).held = [] →
        ((s.chan ch).settle (s.now + tapIndex taps)).fifo.length < 260 → (t.chan ch).held = []) ∧
      (t.chan ch).lastAcc = some (s.now + tapIndex taps, s.capOf ch (rising != s.actB ch F.CH_CFG_INV), false) ∧
      ((s.chan ch).blind = none → (t.chan ch).blind = some
        ({ start := { raw := s.now + tapIndex taps, edge := some (s.capOf ch (rising != s.actB ch F.CH_CFG_INV)) }, causes := { Causes.none with ovf := true }, count := 1, endBy := 0, ovfWait := true, testWait := false } : BlindSt)) ∧
      (∀ a, a ∉ [chBase ch + R.CH_OVF_H, chBase ch + R.CH_OVF_H + 4, chBase ch + R.CH_STAT] → t.w a = s.w a) ∧
      (∀ m : Ch, m ≠ ch → t.chan m = s.chan m) ∧ t = { s with regs := t.regs, chans := t.chans }) ∧
  -- CH_PART_WRITE
  (∀ (s : State) (ch : Ch) (w : Word), s.Serves → s.fb (chBase ch) F.CH_HG_STAT_SVC_OWN = false →
    ∃ t, exec (.chPartWrite ch w) s = .next t ∧
      (s.partRefused ch w = true →
        t.fb (chBase ch) F.CH_STAT_PART_REJ = true ∧ s.OnlyRegsOf .host t [chBase ch + R.CH_STAT]) ∧
      (s.partRefused ch w = false →
        t.w (chBase ch + R.CH_PART) &&& 0x8000007F#32 = w &&& 0x8000007F#32) ∧
      ((s.chan ch).openGate?.isSome = true → t.clk = s.clk ∧ (∀ m : Ch, m ≠ ch → t.chan m = s.chan m) ∧ s.SameMemory t)) ∧
  -- CH_PART_WRITE
  (∀ (s : State) (ch : Ch) (w : Word), s.Serves → s.fb (chBase ch) F.CH_HG_STAT_SVC_OWN = true →
    ∃ t, exec (.chPartWrite ch w) s = .next t ∧ t.fb 0 F.DEV_SVC_STAT_WR_REJ = true ∧ s.OnlyRegsOf .host t [R.DEV_SVC_STAT])

/-- Held markers enter freed entries in order, and blind intervals end with their marker. Rests on R60, R81, R82, R83,
R87, R88, R337, 04_edge_capture. OVF_MARKER_DEFERRED moves held markers, oldest first, into the entries that are free.
OVF_UNMASK at an occupancy of 64 or less ends the wait for an overflow; it, BLIND_MARKER_DEFERRED (after it has moved
what is held) and BLIND_INTERVAL_END (once its time has come) end a blind interval that nothing extends and whose
BLIND marker finds a free entry: the marker carries the interval's start, its end now, its causes and count, stands
behind an absolute stamp that is due (after an overflow the stamp waits for the next edge), and behind an open spacing
window it waits; CH_STAT.BLIND is set, OVF_BLIND cleared, and the decimation counter restarts. An interval that must
still wait stays. -/
def Obligations.DeferredMarkersKeepTheirOrder : Prop :=
  -- OVF_MARKER_DEFERRED
  (∀ (s : State) (ch : Ch), ∃ t, exec (.ovfMarkerDeferred ch) s = .next t ∧
    t = s.setChan ch { s.chan ch with fifo := (s.chan ch).fifo ++ (s.chan ch).held.take (260 - (s.chan ch).fifo.length),
                                      held := (s.chan ch).held.drop (260 - (s.chan ch).fifo.length) }) ∧
  -- OVF_UNMASK
  (∀ (s : State) (ch : Ch) (b : BlindSt), (s.chan ch).blind = some b → b.ovfWait = true → (s.chan ch).fifo.length ≤ 64 → s.MayEndBlind ch b →
    ∃ t, exec (.ovfUnmask ch) s = .next t ∧ (s.chan ch).BlindEnded s.now b (t.chan ch) ∧
      t.fb (chBase ch) F.CH_STAT_BLIND = true ∧ t.fb (chBase ch) F.CH_STAT_OVF_BLIND = false ∧
      (∀ a, a ∉ [chBase ch + R.CH_STAT, chBase ch + R.CH_PIN] → t.w a = s.w a) ∧
      (∀ m : Ch, m ≠ ch → t.chan m = s.chan m) ∧ t = { s with regs := t.regs, chans := t.chans }) ∧
  -- OVF_UNMASK
  (∀ (s : State) (ch : Ch) (b : BlindSt), (s.chan ch).blind = some b → b.ovfWait = true → (s.chan ch).fifo.length ≤ 64 → ¬ s.MayEndBlind ch b →
    ∃ t, exec (.ovfUnmask ch) s = .next t ∧ t = s.setChan ch { s.chan ch with blind := some { b with ovfWait := false } }) ∧
  -- OVF_UNMASK
  (∀ (s : State) (ch : Ch), (64 < (s.chan ch).fifo.length ∨ (s.chan ch).blind.all (fun (b : BlindSt) => !b.ovfWait) = true) →
    ∃ t, exec (.ovfUnmask ch) s = .next t ∧ t = s) ∧
  -- BLIND_MARKER_DEFERRED
  (∀ (s : State) (ch : Ch) (b : BlindSt), (s.chan ch).blind = some b → b.ovfWait = false →
    (s.setChan ch (s.chan ch).flushHeld).MayEndBlind ch b →
    ∃ t, exec (.blindMarkerDeferred ch) s = .next t ∧ (s.chan ch).flushHeld.BlindEnded s.now b (t.chan ch) ∧
      t.fb (chBase ch) F.CH_STAT_BLIND = true ∧ t.fb (chBase ch) F.CH_STAT_OVF_BLIND = false ∧
      (∀ a, a ∉ [chBase ch + R.CH_STAT, chBase ch + R.CH_PIN] → t.w a = s.w a) ∧
      (∀ m : Ch, m ≠ ch → t.chan m = s.chan m) ∧ t = { s with regs := t.regs, chans := t.chans }) ∧
  -- BLIND_MARKER_DEFERRED
  (∀ (s : State) (ch : Ch), (∀ b ∈ (s.chan ch).blind, b.ovfWait = true ∨ ¬ (s.setChan ch (s.chan ch).flushHeld).MayEndBlind ch b) →
    ∃ t, exec (.blindMarkerDeferred ch) s = .next t ∧ t = s.setChan ch (s.chan ch).flushHeld) ∧
  -- BLIND_INTERVAL_END
  (∀ (s : State) (ch : Ch) (b : BlindSt), (s.chan ch).blind = some b → b.ovfWait = false → (s.reach b.endBy).MayEndBlind ch b →
    ∃ t, exec (.blindIntervalEnd ch) s = .next t ∧ t.clk = (s.reach b.endBy).clk ∧
      (s.chan ch).BlindEnded t.now b (t.chan ch) ∧
      t.fb (chBase ch) F.CH_STAT_BLIND = true ∧ t.fb (chBase ch) F.CH_STAT_OVF_BLIND = false ∧
      (∀ a, a ∉ [chBase ch + R.CH_STAT, chBase ch + R.CH_PIN] → t.w a = s.w a) ∧
      (∀ m : Ch, m ≠ ch → t.chan m = s.chan m) ∧ t = { s with regs := t.regs, chans := t.chans, clk := t.clk }) ∧
  -- BLIND_INTERVAL_END
  (∀ (s : State) (ch : Ch) (b : BlindSt), (s.chan ch).blind = some b → (b.ovfWait = true ∨ ¬ (s.reach b.endBy).MayEndBlind ch b) →
    ∃ t, exec (.blindIntervalEnd ch) s = .next t ∧ t = s.reach b.endBy) ∧
  -- BLIND_INTERVAL_END
  (∀ (s : State) (ch : Ch), (s.chan ch).blind = none → ∃ t, exec (.blindIntervalEnd ch) s = .next t ∧ t = s)

/-- The reducer reads two entries a handshake, the Vat port writes what its grants cover, and watermarks reach
Mordant. Rests on R14, R78, R85, R115, R139, R143, R145, R164, R228, 04_edge_capture. REDUCER_HANDSHAKE takes the two
oldest entries; each that needs no grant passes on: an edge's calibrated time becomes the channel's last edge and,
where Mordant is enabled, an input of Mordant. On a captured channel an entry that the balance does not cover waits,
and with two waiting nothing is read; a stalled channel reads nothing. VAT_GRANT adds to the balance of a waiting
channel, up to 8 words; a balance that covers the waiting entry writes it whole, into the open stream block of a
streamed channel, and only then passes it on; the balance falls to 0 when nothing waits. Without demand it does
nothing. WATERMARK of a quiet channel gives Mordant's front the present less 4,096 tk, behind what the reducer holds;
with an entry in the FIFO or a blind interval it sends none. -/
def Obligations.ReadersTakeEntriesInOrder : Prop :=
  -- REDUCER_HANDSHAKE
  (∀ (s : State) (ch : Ch) (raw : Nat) (cap : Cap), (s.chan ch).fifo = [.edge raw cap] → (s.chan ch).vwait = [] → (s.chan ch).gates = [] →
    (s.chan ch).red.ownQ = [] → (s.chan ch).red.partQ = [] → (s.chan ch).settle s.now = s.chan ch →
    s.consumers ch = [] → s.captured ch = false → s.stalls ch = false → (∀ u : Unit16, s.srcEn u 14 = false) →
    ∃ t, exec (.reducerHandshake ch) s = .next t ∧ (t.chan ch).fifo = [] ∧ (t.chan ch).vwait = [] ∧ (t.chan ch).balance = 0 ∧
      (t.chan ch).lastEdge = some (wholeTk (s.t16 ch raw cap)) ∧ (t.chan ch).vref = some (wholeTk (s.t16 ch raw cap)) ∧
      (s.fb (chBase ch) F.CH_MD_CTL_EN = true → (t.chan ch).mord = { (s.chan ch).mord with
        input := (s.chan ch).mord.input ++ [MIn.edge (s.t16 ch raw cap) cap.rising] }) ∧
      (s.fb (chBase ch) F.CH_MD_CTL_EN = false → (t.chan ch).mord = (s.chan ch).mord) ∧
      (∀ m : Ch, m ≠ ch → t.chan m = s.chan m) ∧ t = { s with chans := t.chans }) ∧
  -- REDUCER_HANDSHAKE
  (∀ (s : State) (ch : Ch) (r1 r2 : Nat) (c1 c2 : Cap) (rest : List FEntry), (s.chan ch).fifo = .edge r1 c1 :: .edge r2 c2 :: rest →
    (s.chan ch).vwait = [] → (s.chan ch).gates = [] → (s.chan ch).red.ownQ = [] → (s.chan ch).red.partQ = [] →
    (s.chan ch).settle s.now = s.chan ch → s.consumers ch = [] → s.captured ch = false → s.stalls ch = false →
    (∀ u : Unit16, s.srcEn u 14 = false) →
    ∃ t, exec (.reducerHandshake ch) s = .next t ∧ (t.chan ch).fifo = rest ∧ (t.chan ch).vwait = [] ∧ (t.chan ch).balance = 0 ∧
      (t.chan ch).lastEdge = some (wholeTk (s.t16 ch r2 c2)) ∧
      (s.fb (chBase ch) F.CH_MD_CTL_EN = true → (t.chan ch).mord.input =
        (s.chan ch).mord.input ++ [MIn.edge (s.t16 ch r1 c1) c1.rising, MIn.edge (s.t16 ch r2 c2) c2.rising]) ∧
      (s.fb (chBase ch) F.CH_MD_CTL_EN = false → (t.chan ch).mord = (s.chan ch).mord) ∧
      (∀ m : Ch, m ≠ ch → t.chan m = s.chan m) ∧ t = { s with chans := t.chans }) ∧
  -- REDUCER_HANDSHAKE
  (∀ (s : State) (ch : Ch) (e1 e2 : FEntry) (rest : List FEntry), (s.chan ch).fifo = e1 :: e2 :: rest → (s.chan ch).vwait = [] →
    (s.chan ch).gates = [] → (s.chan ch).red.ownQ = [] → (s.chan ch).red.partQ = [] → (s.chan ch).settle s.now = s.chan ch →
    s.consumers ch = [] → s.stalls ch = false → (s.chan ch).balance < s.vatCost ch e1 →
    e1.isWatermark = false → e2.isWatermark = false →
    ∃ t, exec (.reducerHandshake ch) s = .next t ∧ t = s.setChan ch { s.chan ch with fifo := rest, vwait := [e1, e2] }) ∧
  -- REDUCER_HANDSHAKE
  (∀ (s : State) (ch : Ch) (e : FEntry) (rest : List FEntry), (s.chan ch).vwait = e :: rest → 2 ≤ (s.chan ch).taken →
    (s.chan ch).balance < s.vatCost ch e → (s.chan ch).gates = [] → (s.chan ch).red.ownQ = [] → (s.chan ch).red.partQ = [] →
    (s.chan ch).settle s.now = s.chan ch → s.consumers ch = [] →
    ∃ t, exec (.reducerHandshake ch) s = .next t ∧ t = s) ∧
  -- REDUCER_HANDSHAKE
  (∀ (s : State) (ch : Ch), s.stalls ch = true → (s.chan ch).gates = [] → (s.chan ch).red.ownQ = [] → (s.chan ch).red.partQ = [] →
    (s.chan ch).settle s.now = s.chan ch → s.consumers ch = [] →
    ∃ t, exec (.reducerHandshake ch) s = .next t ∧
      t = s.setChan ch { s.chan ch with balance := if s.vatWaits ch then (s.chan ch).balance else 0 }) ∧
  -- VAT_GRANT
  (∀ (s : State) (ch : Ch) (n : Nat), s.vatWaits ch = false → ∃ t, exec (.vatGrant ch n) s = .next t ∧ t = s) ∧
  -- VAT_GRANT
  (∀ (s : State) (ch : Ch) (n : Nat), s.vatWaits ch = true → (s.chan ch).vwait = [] →
    ∃ t, exec (.vatGrant ch n) s = .next t ∧ t = s.setChan ch { s.chan ch with balance := min 8 ((s.chan ch).balance + n) }) ∧
  -- VAT_GRANT
  (∀ (s : State) (ch : Ch) (n : Nat) (e : FEntry) (rest : List FEntry), s.vatWaits ch = true → (s.chan ch).vwait = e :: rest →
    (s.stalls ch = true ∨ min 8 ((s.chan ch).balance + n) < s.vatCost ch e ∨ (s.vatCost ch e ≠ 0 ∧ s.blockFull ch = true)) →
    ∃ t, exec (.vatGrant ch n) s = .next t ∧ t = s.setChan ch { s.chan ch with balance := min 8 ((s.chan ch).balance + n) }) ∧
  -- VAT_GRANT
  (∀ (s : State) (ch : Ch) (n raw : Nat) (cap : Cap) (i : VItem) (p : Fin 32) (b : Block), (s.chan ch).vwait = [.edge raw cap] →
    s.vatItems ch (.edge raw cap) = [i] → i.words.length ≤ min 8 ((s.chan ch).balance + n) → s.stalls ch = false →
    (∀ u : Unit16, (s.tu u).rings = [] ∧ s.srcEn u 14 = false) → s.streamOf ch = some p → s.blockFull ch = false →
    (s.chan ch).gates = [] → (s.chan ch).red.ownQ = [] → (s.chan ch).red.partQ = [] → s.consumers ch = [] →
    (s.blocks[p]).find? (fun (x : Block) => x.ch = ch) = some b → itemWords b.items + i.words.length < 4096 → b.items ≠ [] →
    ∃ t, exec (.vatGrant ch n) s = .next t ∧ (t.chan ch).vwait = [] ∧
      (t.chan ch).balance = (if (s.chan ch).fifo = [] then 0 else min 8 ((s.chan ch).balance + n) - i.words.length) ∧
      (t.chan ch).lastEdge = some (wholeTk (s.t16 ch raw cap)) ∧
      (t.blocks[p]).find? (fun (x : Block) => x.ch = ch) =
        some { b with items := i :: b.items, spare := b.spare || s.fb (chBase ch) F.CH_STAT_SPARE } ∧
      (∀ k, k < i.words.length → t.vatVal (s.blockBase p ch b.seq + 32 + (itemWords b.items + k)) = i.words.getD k 0#32) ∧
      (∀ a, (∀ j < i.words.length, a ≠ s.blockBase p ch b.seq + 32 + (itemWords b.items + j)) → t.vatVal a = s.vatVal a) ∧
      t.clk = s.clk ∧ t.regs = s.regs ∧ t.lake = s.lake ∧ (∀ m : Ch, m ≠ ch → t.chan m = s.chan m)) ∧
  -- WATERMARK
  (∀ (s : State) (ch : Ch), (s.chan ch).fifo = [] → (s.chan ch).blind = none → s.clk.running = true → (s.chan ch).vwait = [] →
    ∃ t, exec (.watermark ch) s = .next t ∧
      (s.fb (chBase ch) F.CH_MD_CTL_EN = true → t = s.setChan ch { s.chan ch with mord := { (s.chan ch).mord with
        input := (s.chan ch).mord.input ++ [MIn.watermark (16 * (Int.ofNat s.now - 4096))] } }) ∧
      (s.fb (chBase ch) F.CH_MD_CTL_EN = false → t = s)) ∧
  -- WATERMARK
  (∀ (s : State) (ch : Ch), (s.chan ch).fifo = [] → (s.chan ch).blind = none → s.clk.running = true → (s.chan ch).vwait ≠ [] →
    ∃ t, exec (.watermark ch) s = .next t ∧ (t.chan ch).vwait.getLast? = some (FEntry.watermark (16 * (Int.ofNat s.now - 4096))) ∧
      (t.chan ch).taken = (s.chan ch).taken ∧ t = s.setChan ch { s.chan ch with vwait := (t.chan ch).vwait }) ∧
  -- WATERMARK
  (∀ (s : State) (ch : Ch), ((s.chan ch).fifo ≠ [] ∨ (s.chan ch).blind ≠ none ∨ s.clk.running = false) → ∃ t, exec (.watermark ch) s = .next t ∧ t = s)

/-- A gate's close writes its marker and counts; START, STOP and APPLY_NOW act at the next MCLK cycle. Rests on R89,
R92, R94, R96, R97, R282, R289, 05_measurements. GATE_CLOSE reaches the open gate's closing instant: its sequence
number stands in CH_GSEQ, CH_GATES counts it, its gate-end marker enters the FIFO (behind an open spacing window it
waits; without a free entry the gate is counted for the next marker), and in continuous mode the next gate opens at
that instant; with no gate open it does nothing. START opens a gate in single and external mode where none is open;
STOP closes an open external gate; APPLY_NOW closes the open gate with CUT, or without it where the gate reaches its
own boundary first, and puts the written shadows into force; in continuous mode it adds nothing to a close of the
cycle before. With no gate open it only applies the shadows. The three act at the start of the next MCLK cycle. Other
channels but a partner keep their FIFOs, and every memory stands at GATE_CLOSE and START. -/
def Obligations.GatesOpenAndCloseAtTheirInstants : Prop :=
  -- GATE_CLOSE
  (∀ (s : State) (ch : Ch) (g : GateRec), (s.chan ch).openGate? = some g →
    ∃ t, exec (.gateClose ch) s = .next t ∧ t.clk = (s.reach (g.closeAt.getD s.now)).clk ∧ s.GateCounted ch g t) ∧
  -- GATE_CLOSE
  (∀ (s : State) (ch : Ch) (g : GateRec), (s.chan ch).openGate? = some g → (s.chan ch).dirty = [] →
    ∃ t, exec (.gateClose ch) s = .next t ∧
      ((s.chan ch).noEntry t.now = false →
        (s.chan ch).Marked t.now ((s.chan ch).endMarker (g.closeAt.getD s.now) (decide (g.cfg.gmode = 2)) g) (t.chan ch) ∧
        (t.chan ch).gateHeld = 0) ∧
      ((s.chan ch).noEntry t.now = true → (t.chan ch).fifo = ((s.chan ch).settle t.now).fifo ∧ (t.chan ch).gateHeld = (s.chan ch).gateHeld + 1) ∧
      (s.gatesRun ch = true → s.act ch F.CH_FUNC_GMODE % 3 = 0 →
        (t.chan ch).openGate?.map GateRec.openAt = some (g.closeAt.getD s.now)) ∧
      (g.cfg.usesPartner ch = true → (s.chan ch).noEntry t.now = false →
        (s.chan (chOf g.cfg.pch)).Marked t.now (.foreign ch (g.closeAt.getD s.now)
          (match (s.chan (chOf g.cfg.pch)).blind with | some b => b.causes.ovf | none => false) (s.chan (chOf g.cfg.pch)).blind.isSome)
          (t.chan (chOf g.cfg.pch))) ∧
      (∀ m : Ch, m ≠ ch → (g.cfg.usesPartner ch = true → m ≠ chOf g.cfg.pch) → t.chan m = s.chan m) ∧ s.SameMemory t) ∧
  -- GATE_CLOSE
  (∀ (s : State) (ch : Ch), (s.chan ch).openGate? = none → ∃ t, exec (.gateClose ch) s = .next t ∧ t = s) ∧
  -- GATE_START
  (∀ (s : State) (ch : Ch), s.Serves → s.gatesRun ch = true →
    (s.chan ch).openGate? = none → s.act ch F.CH_FUNC_GMODE % 3 ≠ 0 →
    ∃ t, exec (.gateStart ch) s = .next t ∧ t.clk = (s.reach s.mclkNext).clk ∧
      (t.chan ch).openGate?.map GateRec.openAt = some s.mclkNext ∧ (t.chan ch).nextSeq = (s.chan ch).nextSeq + 1#32 ∧
      (t.chan ch).fifo = (s.chan ch).fifo ∧
      (∀ a, a ≠ feBase (s.serving ch) + R.CH_CAL_STAT → t.w a = s.w a) ∧ (∀ m : Ch, m ≠ ch → t.chan m = s.chan m) ∧ s.SameMemory t) ∧
  -- GATE_START
  (∀ (s : State) (ch : Ch), s.Serves →
    (s.gatesRun ch = false ∨ (s.chan ch).openGate?.isSome = true ∨ s.act ch F.CH_FUNC_GMODE % 3 = 0) →
    ∃ t, exec (.gateStart ch) s = .next t ∧ t = { s with clk := (s.reach s.mclkNext).clk, paths := t.paths }) ∧
  -- GATE_STOP
  (∀ (s : State) (ch : Ch) (g : GateRec), s.Serves → (s.chan ch).openGate? = some g → g.cfg.gmode = 2 →
    ∃ t, exec (.gateStop ch) s = .next t ∧ t.clk = (s.reach s.mclkNext).clk ∧ s.GateCounted ch g t ∧
      ((s.chan ch).dirty = [] → (s.chan ch).noEntry t.now = false →
        (s.chan ch).Marked t.now ((s.chan ch).endMarker s.mclkNext false g) (t.chan ch))) ∧
  -- GATE_STOP
  (∀ (s : State) (ch : Ch), s.Serves → (s.chan ch).openGate?.all (fun (g : GateRec) => g.cfg.gmode != 2) = true →
    ∃ t, exec (.gateStop ch) s = .next t ∧ t = { s with clk := (s.reach s.mclkNext).clk, paths := t.paths }) ∧
  -- APPLY_NOW
  (∀ (s : State) (ch : Ch) (g : GateRec), s.Serves → (s.chan ch).openGate? = some g →
    (g.cfg.gmode = 2 ∨ s.mclkNext < g.closeAt.getD (s.mclkNext + 1)) →
    (g.cfg.gmode % 3 ≠ 0 ∨ s.closedItself ch s.mclkNext = false) → (∀ l ∈ (s.chan ch).late, l.2.1 ≤ s.mclkNext) →
    ∃ t, exec (.applyNow ch) s = .next t ∧ t.clk = (s.reach s.mclkNext).clk ∧ s.GateCounted ch g t ∧
      ((s.chan ch).dirty = [] → (s.chan ch).noEntry t.now = false →
        (s.chan ch).Marked t.now ((s.chan ch).endMarker s.mclkNext true g) (t.chan ch)) ∧
      (∀ o ∈ (s.chan ch).dirty, gateShadows.contains o = true →
        (s.fb (chBase ch) F.CH_MD_CTL_EN = false ∨ o ≠ R.CH_DEC ∨ decFull (s.w (chBase ch + R.CH_DEC)) = true) →
        t.w (chBase ch + 0x800 + o) &&& rwsMask o = s.w (chBase ch + o) &&& rwsMask o ∧ t.w (chBase ch + o) = s.w (chBase ch + o))) ∧
  -- APPLY_NOW
  (∀ (s : State) (ch : Ch) (g : GateRec), s.Serves → (s.chan ch).openGate? = some g → g.cfg.gmode ≠ 2 →
    g.closeAt.getD (s.mclkNext + 1) ≤ s.mclkNext →
    ∃ t, exec (.applyNow ch) s = .next t ∧ t.clk = (s.reach s.mclkNext).clk ∧ s.GateCounted ch g t ∧
      ((s.chan ch).dirty = [] → (s.chan ch).noEntry t.now = false →
        (s.chan ch).Marked t.now ((s.chan ch).endMarker (g.closeAt.getD s.mclkNext) false g) (t.chan ch))) ∧
  -- APPLY_NOW
  (∀ (s : State) (ch : Ch) (g : GateRec), s.Serves → (s.chan ch).openGate? = some g → g.cfg.gmode % 3 = 0 →
    s.mclkNext < g.closeAt.getD (s.mclkNext + 1) → s.closedItself ch s.mclkNext = true →
    ∃ t, exec (.applyNow ch) s = .next t ∧ t = { s with clk := (s.reach s.mclkNext).clk, paths := t.paths }) ∧
  -- APPLY_NOW
  (∀ (s : State) (ch : Ch), s.Serves → (s.chan ch).openGate? = none → (∀ l ∈ (s.chan ch).late, l.2.1 ≤ s.mclkNext) →
    ∃ t, exec (.applyNow ch) s = .next t ∧ t.clk = (s.reach s.mclkNext).clk ∧
      t.pair (chBase ch + R.CH_GATES_H) = s.pair (chBase ch + R.CH_GATES_H) ∧
      (∀ o ∈ (s.chan ch).dirty, gateShadows.contains o = true →
        (s.fb (chBase ch) F.CH_MD_CTL_EN = false ∨ o ≠ R.CH_DEC ∨ decFull (s.w (chBase ch + R.CH_DEC)) = true) →
        t.w (chBase ch + 0x800 + o) &&& rwsMask o = s.w (chBase ch + o) &&& rwsMask o ∧ t.w (chBase ch + o) = s.w (chBase ch + o)))

/-- TIE_RST, ADEV_DUMP, ADEV_CLR and pairing time-outs act on the channel's reducer. Rests on R103, R104, R105, R108,
R112, 05_measurements. TIE_RST anchors the line at the first entry at or after the next MCLK cycle, an application of
the function that waits for its first entry included. ADEV_DUMP marks the dump, with its instant, for the next RESULT
set. ADEV_CLR clears the history and the sums. PAIR_TIMEOUT reaches the end of a pending start's T_to and, once no
earlier stop can still come, drops it: CH_TIMEOUT counts it and TIMEOUT is set, and a TIMEOUT entry is queued on the
host link; nearness pairs it instead with an unused earlier stop within T_to, if there is one. Without a pending start
it does nothing, and where earlier stops may still come or the gate closes first only time passes. -/
def Obligations.FunctionCommandsTouchOnlyTheReducer : Prop :=
  -- TIE_RST
  (∀ (s : State) (ch : Ch), s.Serves →
    ∃ t, exec (.tieRst ch) s = .next t ∧ t.chan ch = { s.chan ch with
        red := { (s.chan ch).red with carry := { (s.chan ch).red.carry with tieFrom := some (16 * Int.ofNat s.mclkNext) } },
        tieAt := (s.chan ch).tieAt.map fun (_ : Nat) => s.mclkNext } ∧
      (∀ m : Ch, m ≠ ch → t.chan m = s.chan m) ∧ t = { s with clk := (s.reach s.mclkNext).clk, chans := t.chans, paths := t.paths }) ∧
  -- ADEV_DUMP
  (∀ (s : State) (ch : Ch), s.Serves →
    ∃ t, exec (.adevDump ch) s = .next t ∧ t.chan ch = { s.chan ch with adevDumpDue := some s.now } ∧
      (∀ m : Ch, m ≠ ch → t.chan m = s.chan m) ∧ t = { s with chans := t.chans, paths := t.paths }) ∧
  -- ADEV_CLR
  (∀ (s : State) (ch : Ch), s.Serves →
    ∃ t, exec (.adevClr ch) s = .next t ∧ (t.chan ch).red.carry.adHist = [] ∧ (t.chan ch).red.carry.adSums = Carry.start.adSums ∧
      t.chan ch = { s.chan ch with red := { (s.chan ch).red with carry := (s.chan ch).red.carry.clearAdev } } ∧
      (∀ m : Ch, m ≠ ch → t.chan m = s.chan m) ∧ t = { s with chans := t.chans, paths := t.paths }) ∧
  -- PAIR_TIMEOUT
  (∀ (s : State) (ch : Ch) (g : GateRec) (rest : List GateRec) (p : Int × Bool), (s.chan ch).gates = g :: rest →
    (s.chan ch).red.carry.pend.toList ++ (s.chan ch).red.carry.npend = [p] →
    ((s.chan ch).red.carry.pend = none → (s.chan ch).red.carry.stops.find? (fun (x : Int × Bool) =>
      decide (x.1 < p.1) && decide (p.1 - x.1 ≤ Int.ofNat g.cfg.tito * 16) && stopFits g p x) = none) →
    (if g.cfg.usesPartner ch then (s.chan ch).red.partQ else (s.chan ch).red.ownQ) = [] →
    g.holds (p.1 + 16 * Int.ofNat g.cfg.tito + 1) = false →
    passed ((s.reach (((p.1 + 16 * Int.ofNat g.cfg.tito) / 16).toNat + 4096)).frontOf (if g.cfg.usesPartner ch then chOf g.cfg.pch else ch))
      (p.1 + 16 * Int.ofNat g.cfg.tito) = true →
    ∃ t, exec (.pairTimeout ch) s = .next t ∧ (t.chan ch).red.carry.pend = none ∧ (t.chan ch).red.carry.npend = [] ∧
      (t.chan ch).red.acc.timeouts = (s.chan ch).red.acc.timeouts + 1 ∧ t.fb (chBase ch) F.CH_STAT_TIMEOUT = true ∧
      t.pair (chBase ch + R.CH_TIMEOUT_H) = (s.pair (chBase ch + R.CH_TIMEOUT_H) + 1) % 2 ^ 64 ∧
      t.link0.tx.length = s.link0.tx.length + 1 ∧
      (∀ a, a ∉ [chBase ch + R.CH_TIMEOUT_H, chBase ch + R.CH_TIMEOUT_H + 4, chBase ch + R.CH_STAT] → t.w a = s.w a) ∧
      (∀ m : Ch, m ≠ ch → t.chan m = s.chan m) ∧ t = { s with regs := t.regs, chans := t.chans, clk := t.clk, link0 := t.link0 }) ∧
  -- PAIR_TIMEOUT
  (∀ (s : State) (ch : Ch) (g : GateRec) (rest : List GateRec) (p l : Int × Bool), (s.chan ch).gates = g :: rest →
    (s.chan ch).red.carry.pend = none → (s.chan ch).red.carry.npend = [p] →
    (s.chan ch).red.carry.stops.find? (fun (x : Int × Bool) =>
      decide (x.1 < p.1) && decide (p.1 - x.1 ≤ Int.ofNat g.cfg.tito * 16) && stopFits g p x) = some l →
    (if g.cfg.usesPartner ch then (s.chan ch).red.partQ else (s.chan ch).red.ownQ) = [] →
    g.holds (p.1 + 16 * Int.ofNat g.cfg.tito + 1) = false →
    passed ((s.reach (((p.1 + 16 * Int.ofNat g.cfg.tito) / 16).toNat + 4096)).frontOf (if g.cfg.usesPartner ch then chOf g.cfg.pch else ch))
      (p.1 + 16 * Int.ofNat g.cfg.tito) = true → (∀ u : Unit16, s.srcEn u 13 = false) →
    ∃ t, exec (.pairTimeout ch) s = .next t ∧ (t.chan ch).red.carry.npend = [] ∧
      (t.chan ch).red.carry.stops = (s.chan ch).red.carry.stops.erase l ∧
      (t.chan ch).red.acc.timeouts = (s.chan ch).red.acc.timeouts ∧
      t.pair (chBase ch + R.CH_TIMEOUT_H) = s.pair (chBase ch + R.CH_TIMEOUT_H)) ∧
  -- PAIR_TIMEOUT
  (∀ (s : State) (ch : Ch), ((s.chan ch).gates = [] ∨ (s.chan ch).red.carry.firstPending = none) →
    ∃ t, exec (.pairTimeout ch) s = .next t ∧ t = s) ∧
  -- PAIR_TIMEOUT
  (∀ (s : State) (ch : Ch) (g : GateRec) (rest : List GateRec) (p : Int × Bool), (s.chan ch).gates = g :: rest →
    (s.chan ch).red.carry.firstPending = some p →
    (g.holds (p.1 + 16 * Int.ofNat g.cfg.tito + 1) = true ∨
      (if g.cfg.usesPartner ch then (s.chan ch).red.partQ else (s.chan ch).red.ownQ) ≠ [] ∨
      passed ((s.reach (((p.1 + 16 * Int.ofNat g.cfg.tito) / 16).toNat + 4096)).frontOf (if g.cfg.usesPartner ch then chOf g.cfg.pch else ch))
        (p.1 + 16 * Int.ofNat g.cfg.tito) = false) →
    ∃ t, exec (.pairTimeout ch) s = .next t ∧ t = s.reach (((p.1 + 16 * Int.ofNat g.cfg.tito) / 16).toNat + 4096))

/-- A descriptor is queued in order, or refused with its flag, its count and its credit. Rests on R117, R120, R122,
06_mordant. EXP1, RUN and MASK1K for an enabled channel with a free slot join the descriptor queue with every element
they name, and the expected SEQ becomes the next one; a SEQ that was not expected sets SEQ_ERR. A malformed
descriptor, or one whose first expectation lies before the ordering reference, sets BAD_DESC, one for a disabled
channel NOEN, one that finds 64 descriptors waiting QOVR: each counts in CH_MD_BAD and returns its credit. A
descriptor for a channel code above 127 counts on the pattern link. UNKNOWN_DTYPE counts as a bad descriptor of the
channel it names, or on the link. -/
def Obligations.DescriptorsQueueOrCountAsBad : Prop :=
  -- EXP1
  (∀ (s : State) (n : Ch) (ch : BitVec 8) (h : DescHead), ch.toNat = n.val →
    ∃ t, exec (.exp1 ch h) s = .next t ∧ s.DescriptorMet n (h.desc DescKind.exp1) t ∧
      (∀ a, a ∉ [chBase n + R.CH_MD_BAD_H, chBase n + R.CH_MD_BAD_H + 4, chBase n + R.CH_MD_STAT] → t.w a = s.w a) ∧
      (∀ m : Ch, m ≠ n → t.chan m = s.chan m) ∧ t = { s with regs := t.regs, chans := t.chans, link1 := t.link1 }) ∧
  -- EXP1
  (∀ (s : State) (ch : BitVec 8) (h : DescHead), 128 ≤ ch.toNat →
    ∃ t, exec (.exp1 ch h) s = .next t ∧ t.fb (lkBase 1) F.LNK_STAT_CLS_ERR = true ∧
      t.pair (lkBase 1 + R.LNK_CLS_H) = (s.pair (lkBase 1 + R.LNK_CLS_H) + 1) % 2 ^ 64 ∧ t = { s with regs := t.regs, link1 := t.link1 }) ∧
  -- RUN
  (∀ (s : State) (n : Ch) (ch : BitVec 8) (h : DescHead) (period : BitVec 48) (count : BitVec 16) (alt : Bool), ch.toNat = n.val →
    ∃ t, exec (.run ch h period count alt) s = .next t ∧ s.DescriptorMet n (h.desc (DescKind.run period count alt)) t ∧
      (∀ a, a ∉ [chBase n + R.CH_MD_BAD_H, chBase n + R.CH_MD_BAD_H + 4, chBase n + R.CH_MD_STAT] → t.w a = s.w a) ∧
      (∀ m : Ch, m ≠ n → t.chan m = s.chan m) ∧ t = { s with regs := t.regs, chans := t.chans, link1 := t.link1 }) ∧
  -- RUN
  (∀ (s : State) (ch : BitVec 8) (h : DescHead) (period : BitVec 48) (count : BitVec 16) (alt : Bool), 128 ≤ ch.toNat →
    ∃ t, exec (.run ch h period count alt) s = .next t ∧ t.fb (lkBase 1) F.LNK_STAT_CLS_ERR = true ∧
      t.pair (lkBase 1 + R.LNK_CLS_H) = (s.pair (lkBase 1 + R.LNK_CLS_H) + 1) % 2 ^ 64 ∧ t = { s with regs := t.regs, link1 := t.link1 }) ∧
  -- MASK1K
  (∀ (s : State) (n : Ch) (ch : BitVec 8) (h : DescHead) (ui : BitVec 32) (mask : BitVec 1024), ch.toNat = n.val →
    ∃ t, exec (.mask1k ch h ui mask) s = .next t ∧ s.DescriptorMet n (h.desc (DescKind.mask1k ui mask)) t ∧
      (∀ a, a ∉ [chBase n + R.CH_MD_BAD_H, chBase n + R.CH_MD_BAD_H + 4, chBase n + R.CH_MD_STAT] → t.w a = s.w a) ∧
      (∀ m : Ch, m ≠ n → t.chan m = s.chan m) ∧ t = { s with regs := t.regs, chans := t.chans, link1 := t.link1 }) ∧
  -- MASK1K
  (∀ (s : State) (ch : BitVec 8) (h : DescHead) (ui : BitVec 32) (mask : BitVec 1024), 128 ≤ ch.toNat →
    ∃ t, exec (.mask1k ch h ui mask) s = .next t ∧ t.fb (lkBase 1) F.LNK_STAT_CLS_ERR = true ∧
      t.pair (lkBase 1 + R.LNK_CLS_H) = (s.pair (lkBase 1 + R.LNK_CLS_H) + 1) % 2 ^ 64 ∧ t = { s with regs := t.regs, link1 := t.link1 }) ∧
  -- UNKNOWN_DTYPE
  (∀ (s : State) (w0 : BitVec 64) (n : Ch), (w0.extractLsb' 32 8).toNat = n.val →
    ∃ t, exec (.unknownDtype w0) s = .next t ∧ t.fb (chBase n) F.CH_MD_STAT_BAD_DESC = true ∧
      t.pair (chBase n + R.CH_MD_BAD_H) = (s.pair (chBase n + R.CH_MD_BAD_H) + 1) % 2 ^ 64 ∧ t.chans = s.chans ∧
      (∀ a, a ∉ [chBase n + R.CH_MD_BAD_H, chBase n + R.CH_MD_BAD_H + 4, chBase n + R.CH_MD_STAT] → t.w a = s.w a) ∧
      t = { s with regs := t.regs, link1 := t.link1 }) ∧
  -- UNKNOWN_DTYPE
  (∀ (s : State) (w0 : BitVec 64), 128 ≤ (w0.extractLsb' 32 8).toNat →
    ∃ t, exec (.unknownDtype w0) s = .next t ∧ t.fb (lkBase 1) F.LNK_STAT_CLS_ERR = true ∧
      t.pair (lkBase 1 + R.LNK_CLS_H) = (s.pair (lkBase 1 + R.LNK_CLS_H) + 1) % 2 ^ 64 ∧ t = { s with regs := t.regs, link1 := t.link1 })

/-- RETRACT and SEAL act only in the channel's generation, and owed credits return as one message. Rests on R120,
R122, R132, R133, R134, R232, 06_mordant. RETRACT and SEAL for a disabled channel set NOEN, with another generation
STALE, for a channel code above 127 they count on the pattern link, and do nothing else; while the channel's Mordant
stalls they wait. A RETRACT of the channel's generation leaves no uncovered expectation and no uncovered queued
element at or after the one it names, advances the generation modulo 16 and shows it in CH_MD_STAT.GEN. A SEAL leaves
no expectation that is due and marks as covered what stays, queued elements included: a covered one seals once the
front passes its window. CREDIT_RETURN sends one CREDIT message for up to 64 owed credits, at 8 or 1 us after the
oldest; with none owed it does nothing. -/
def Obligations.ControlMessagesMeetTheGeneration : Prop :=
  -- RETRACT
  (∀ (s : State) (n : Ch) (ch : BitVec 8) (seq : BitVec 24) (elem : BitVec 16) (gen : BitVec 4), ch.toNat = n.val →
    s.fb (chBase n) F.CH_MD_CTL_EN = true → gen.toNat = (s.chan n).mord.gen → s.mordantStalls n = false →
    ∃ t, exec (.retract ch seq elem gen) s = .next t ∧ (t.chan n).mord.gen = ((s.chan n).mord.gen + 1) % 16 ∧
      t.f (chBase n) F.CH_MD_STAT_GEN = ((s.chan n).mord.gen + 1) % 16 ∧
      (t.chan n).mord.expSeq = some (if elem.toNat = 0 then seq else seq + 1#24) ∧
      (∀ e ∈ (t.chan n).mord.exps, keyGe e.seq e.elem seq elem.toNat = true → e.covered = true) ∧
      (∀ q ∈ (t.chan n).mord.queue, ∀ i ∈ q.left, keyGe q.d.seq i seq elem.toNat = true → q.covered.contains i = true) ∧ t.clk = s.clk ∧
      (∀ m : Ch, m ≠ n → t.chan m = s.chan m) ∧ t.vat = s.vat) ∧
  -- SEAL
  (∀ (s : State) (n : Ch) (ch : BitVec 8) (seq : BitVec 24) (elem : BitVec 16) (gen : BitVec 4), ch.toNat = n.val →
    s.fb (chBase n) F.CH_MD_CTL_EN = true → gen.toNat = (s.chan n).mord.gen → s.mordantStalls n = false →
    ∃ t, exec (.seal ch seq elem gen) s = .next t ∧ (t.chan n).mord.gen = (s.chan n).mord.gen ∧
      (t.chan n).mord.front = (s.chan n).mord.front ∧
      (t.chan n).mord.queue.map (fun (q : QDesc) => (q.d, q.left)) = (s.chan n).mord.queue.map (fun (q : QDesc) => (q.d, q.left)) ∧
      (∀ q ∈ (t.chan n).mord.queue, ∀ i ∈ q.left, keyGe seq elem.toNat q.d.seq i = true → q.covered.contains i = true) ∧
      (∀ e ∈ (t.chan n).mord.exps, Exp.due (s.f (chBase n) F.CH_MD_H_H) (s.chan n).mord.front e = false) ∧
      (∀ e ∈ (t.chan n).mord.exps, keyGe seq elem.toNat e.seq e.elem = true → e.covered = true) ∧ t.clk = s.clk ∧
      (∀ m : Ch, m ≠ n → t.chan m = s.chan m) ∧ t.vat = s.vat) ∧
  -- RETRACT
  (∀ (s : State) (n : Ch) (ch : BitVec 8) (seq : BitVec 24) (elem : BitVec 16) (gen : BitVec 4), ch.toNat = n.val →
    (s.fb (chBase n) F.CH_MD_CTL_EN = false ∨ gen.toNat ≠ (s.chan n).mord.gen) →
    ∃ t, exec (.retract ch seq elem gen) s = .next t ∧
      (s.fb (chBase n) F.CH_MD_CTL_EN = false → t.fb (chBase n) F.CH_MD_STAT_NOEN = true) ∧
      (s.fb (chBase n) F.CH_MD_CTL_EN = true → t.fb (chBase n) F.CH_MD_STAT_STALE = true) ∧
      (∀ a, a ≠ chBase n + R.CH_MD_STAT → t.w a = s.w a) ∧ t = { s with regs := t.regs, link1 := t.link1 }) ∧
  -- SEAL
  (∀ (s : State) (n : Ch) (ch : BitVec 8) (seq : BitVec 24) (elem : BitVec 16) (gen : BitVec 4), ch.toNat = n.val →
    (s.fb (chBase n) F.CH_MD_CTL_EN = false ∨ gen.toNat ≠ (s.chan n).mord.gen) →
    ∃ t, exec (.seal ch seq elem gen) s = .next t ∧
      (s.fb (chBase n) F.CH_MD_CTL_EN = false → t.fb (chBase n) F.CH_MD_STAT_NOEN = true) ∧
      (s.fb (chBase n) F.CH_MD_CTL_EN = true → t.fb (chBase n) F.CH_MD_STAT_STALE = true) ∧
      (∀ a, a ≠ chBase n + R.CH_MD_STAT → t.w a = s.w a) ∧ t = { s with regs := t.regs, link1 := t.link1 }) ∧
  -- RETRACT
  (∀ (s : State) (n : Ch) (ch : BitVec 8) (seq : BitVec 24) (elem : BitVec 16) (gen : BitVec 4), ch.toNat = n.val →
    gen.toNat = (s.chan n).mord.gen → s.mordantStalls n = true → ∃ t, exec (.retract ch seq elem gen) s = .next t ∧ t = s) ∧
  -- SEAL
  (∀ (s : State) (n : Ch) (ch : BitVec 8) (seq : BitVec 24) (elem : BitVec 16) (gen : BitVec 4), ch.toNat = n.val →
    gen.toNat = (s.chan n).mord.gen → s.mordantStalls n = true → ∃ t, exec (.seal ch seq elem gen) s = .next t ∧ t = s) ∧
  -- RETRACT
  (∀ (s : State) (ch : BitVec 8) (seq : BitVec 24) (elem : BitVec 16) (gen : BitVec 4), 128 ≤ ch.toNat →
    ∃ t, exec (.retract ch seq elem gen) s = .next t ∧ t.fb (lkBase 1) F.LNK_STAT_CLS_ERR = true ∧
      t.pair (lkBase 1 + R.LNK_CLS_H) = (s.pair (lkBase 1 + R.LNK_CLS_H) + 1) % 2 ^ 64 ∧ t = { s with regs := t.regs, link1 := t.link1 }) ∧
  -- SEAL
  (∀ (s : State) (ch : BitVec 8) (seq : BitVec 24) (elem : BitVec 16) (gen : BitVec 4), 128 ≤ ch.toNat →
    ∃ t, exec (.seal ch seq elem gen) s = .next t ∧ t.fb (lkBase 1) F.LNK_STAT_CLS_ERR = true ∧
      t.pair (lkBase 1 + R.LNK_CLS_H) = (s.pair (lkBase 1 + R.LNK_CLS_H) + 1) % 2 ^ 64 ∧ t = { s with regs := t.regs, link1 := t.link1 }) ∧
  -- CREDIT_RETURN
  (∀ (s : State) (ch : Ch) (since : Nat), (s.chan ch).mord.owedSince = some since → (s.chan ch).mord.owed ≠ 0 →
    ∃ t, exec (.creditReturn ch) s = .next t ∧ (t.chan ch).mord.owed = (s.chan ch).mord.owed - min (s.chan ch).mord.owed 64 ∧
      t.link1.tx.map TxItem.bytes = s.link1.tx.map TxItem.bytes ++ [creditBytes ch.val (min (s.chan ch).mord.owed 64)] ∧
      ((s.chan ch).mord.owed < 8 → t.clk = (s.reach (since + tkUs)).clk) ∧ (8 ≤ (s.chan ch).mord.owed → t.clk = s.clk) ∧
      (∀ m : Ch, m ≠ ch → t.chan m = s.chan m) ∧ t = { s with chans := t.chans, clk := t.clk, link1 := t.link1 }) ∧
  -- CREDIT_RETURN
  (∀ (s : State) (ch : Ch), ((s.chan ch).mord.owed = 0 ∨ (s.chan ch).mord.owedSince = none) → ∃ t, exec (.creditReturn ch) s = .next t ∧ t = s)

/-- Elements become expectations, edges bind to them, and what is due seals or ages. Rests on R116, R121, R124, R127,
R128, R131, R132, R136, R138, R139, 06_mordant. On an enabled channel that no verdict stalls: MATERIALISE takes the
next element of the queue's head; the last one frees the slot and its credit; with the log and table otherwise empty
the element enters the table with the window its profile gives, open or watching, or seals LATE_DESC where the front
is past its window's start by more than H; with 512 open windows, or nothing queued, it does nothing. MORDANT_EDGE
takes the next input; an edge moves the front forward, and with one WATCH expectation whose window and polarity fit
binds it, with none it stays free. AUTO_SEAL commits the first due expectation as HIT or MISS. EDGE_AGE_OUT seals what
is due and counts the oldest due free edge as an EXTRA. With nothing due, nothing happens; on a disabled channel, and
where a chosen link cannot take verdicts, nothing happens. -/
def Obligations.MordantBindsSealsAndAges : Prop :=
  -- MATERIALISE
  (∀ (s : State) (ch : Ch) (q : QDesc) (rest : List QDesc) (i : Nat) (left : List Nat), s.fb (chBase ch) F.CH_MD_CTL_EN = true →
    s.mordantStalls ch = false → (s.chan ch).mord.queue = q :: rest → q.left = i :: left → (s.chan ch).mord.tableLen < 512 →
    ∃ t, exec (.materialise ch) s = .next t ∧
      (t.chan ch).mord.queue = (if left.isEmpty then rest else { q with left := left, done := q.done + 1 } :: rest) ∧
      (t.chan ch).mord.owed = (s.chan ch).mord.owed + (if left.isEmpty then 1 else 0) ∧
      (t.chan ch).mord.front = (s.chan ch).mord.front ∧ (t.chan ch).mord.input = (s.chan ch).mord.input ∧
      t.clk = s.clk ∧ t.vat = s.vat ∧ (∀ m : Ch, m ≠ ch → t.chan m = s.chan m)) ∧
  -- MATERIALISE
  (∀ (s : State) (ch : Ch) (q : QDesc) (rest : List QDesc) (i : Nat) (left : List Nat) (e : Exp), s.fb (chBase ch) F.CH_MD_CTL_EN = true →
    s.mordantStalls ch = false → (s.chan ch).mord.queue = q :: rest → q.left = i :: left → (s.chan ch).mord.exps = [] →
    (s.chan ch).mord.free = [] →
    e = q.d.expect (s.chan ch).mord.gen s.now i q.done (s.mdProfile ch q.d.profile.toNat).1 (s.mdProfile ch q.d.profile.toNat).2 →
    ∃ t, exec (.materialise ch) s = .next t ∧
      (16 * (e.ws + Int.ofNat (s.f (chBase ch) F.CH_MD_H_H)) < (s.chan ch).mord.front →
        (t.chan ch).mord.exps = [] ∧ t.pair (chBase ch + R.CH_MD_LATE_H) = (s.pair (chBase ch + R.CH_MD_LATE_H) + 1) % 2 ^ 64 ∧
        t.fb (chBase ch) F.CH_STAT_LATE_DESC = true) ∧
      ((s.chan ch).mord.front ≤ 16 * (e.ws + Int.ofNat (s.f (chBase ch) F.CH_MD_H_H)) →
        (t.chan ch).mord.exps.map (fun (x : Exp) => (x.seq, x.elem, x.pol, x.gen)) = [(q.d.seq, i, q.d.polOf i q.done, (s.chan ch).mord.gen)] ∧
        (t.chan ch).mord.exps.map (fun (x : Exp) => (x.texp, x.texp - x.ws, x.we - x.texp)) =
          [(resolveTime 48 s.now q.d.texp.toNat + Int.ofNat (q.d.offset i), Int.ofNat (s.mdProfile ch q.d.profile.toNat).1,
            Int.ofNat (s.mdProfile ch q.d.profile.toNat).2)] ∧
        (t.chan ch).mord.exps.map (fun (x : Exp) => (x.st, x.edge, x.covered)) =
          [(if (s.chan ch).mord.front < 16 * e.ws then ExpSt.opened else ExpSt.watch, none, q.covered.contains i)] ∧
        (∀ a, a ≠ chBase ch + R.CH_MD_STAT → t.w a = s.w a) ∧ t = { s with regs := t.regs, chans := t.chans })) ∧
  -- MATERIALISE
  (∀ (s : State) (ch : Ch) (q : QDesc) (rest : List QDesc), s.fb (chBase ch) F.CH_MD_CTL_EN = true → s.mordantStalls ch = false →
    (s.chan ch).mord.queue = q :: rest → q.left = [] →
    ∃ t, exec (.materialise ch) s = .next t ∧ (t.chan ch).mord.queue = rest ∧ (t.chan ch).mord.owed = (s.chan ch).mord.owed + 1 ∧
      (t.chan ch).mord.exps = (s.chan ch).mord.exps ∧ (∀ a, a ≠ chBase ch + R.CH_MD_STAT → t.w a = s.w a) ∧
      (∀ m : Ch, m ≠ ch → t.chan m = s.chan m) ∧ t = { s with regs := t.regs, chans := t.chans }) ∧
  -- MATERIALISE
  (∀ (s : State) (ch : Ch), s.fb (chBase ch) F.CH_MD_CTL_EN = true → s.mordantStalls ch = false →
    ((s.chan ch).mord.queue = [] ∨ (512 ≤ (s.chan ch).mord.tableLen ∧ (s.chan ch).mord.queue.head?.all (fun (q : QDesc) => !q.left.isEmpty) = true)) →
    ∃ t, exec (.materialise ch) s = .next t ∧ t.chans = s.chans ∧ (∀ a, a ≠ chBase ch + R.CH_MD_STAT → t.w a = s.w a) ∧
      t = { s with regs := t.regs }) ∧
  -- MORDANT_EDGE
  (∀ (s : State) (ch : Ch) (i : MIn) (rest : List MIn), s.fb (chBase ch) F.CH_MD_CTL_EN = true → s.mordantStalls ch = false →
    (s.chan ch).mord.input = i :: rest →
    ∃ t, exec (.mordantEdge ch) s = .next t ∧ (t.chan ch).mord.input = rest ∧
      (t.chan ch).mord.front = (match i with
        | .edge x _ => max (s.chan ch).mord.front x
        | .watermark x => max (s.chan ch).mord.front x
        | .blind _ x => max (s.chan ch).mord.front x
        | .crowd _ => (s.chan ch).mord.front) ∧
      (t.chan ch).mord.queue = (s.chan ch).mord.queue ∧ t.clk = s.clk ∧ t.vat = s.vat ∧ (∀ m : Ch, m ≠ ch → t.chan m = s.chan m)) ∧
  -- MORDANT_EDGE
  (∀ (s : State) (ch : Ch) (x : Int) (r : Bool) (rest : List MIn) (e : Exp), s.fb (chBase ch) F.CH_MD_CTL_EN = true → s.mordantStalls ch = false →
    (s.chan ch).mord.input = .edge x r :: rest → (s.chan ch).mord.exps = [e] → (s.chan ch).mord.free = [] → e.st = .watch →
    e.closed = false → e.edge = none → e.contains x = true → e.matches r = true → (s.chan ch).mord.front ≤ x →
    Exp.due (s.f (chBase ch) F.CH_MD_H_H) (s.chan ch).mord.front e = false →
    ∃ t, exec (.mordantEdge ch) s = .next t ∧ (t.chan ch).mord.exps = [{ e with st := .bound, edge := some (x, r) }] ∧
      (t.chan ch).mord.free = [] ∧ (∀ a, a ≠ chBase ch + R.CH_MD_STAT → t.w a = s.w a) ∧
      t = { s with regs := t.regs, chans := t.chans }) ∧
  -- MORDANT_EDGE
  (∀ (s : State) (ch : Ch) (x : Int) (r : Bool) (rest : List MIn), s.fb (chBase ch) F.CH_MD_CTL_EN = true → s.mordantStalls ch = false →
    (s.chan ch).mord.input = .edge x r :: rest → (s.chan ch).mord.exps = [] → (s.chan ch).mord.free = [] →
    ∃ t, exec (.mordantEdge ch) s = .next t ∧ (t.chan ch).mord.free = [(x, r)] ∧ (t.chan ch).mord.exps = [] ∧
      (∀ a, a ≠ chBase ch + R.CH_MD_STAT → t.w a = s.w a) ∧ t = { s with regs := t.regs, chans := t.chans }) ∧
  -- MORDANT_EDGE
  (∀ (s : State) (ch : Ch), s.fb (chBase ch) F.CH_MD_CTL_EN = true → s.mordantStalls ch = false → (s.chan ch).mord.input = [] →
    ∃ t, exec (.mordantEdge ch) s = .next t ∧ t.chans = s.chans ∧ (∀ a, a ≠ chBase ch + R.CH_MD_STAT → t.w a = s.w a) ∧
      t = { s with regs := t.regs }) ∧
  -- AUTO_SEAL
  (∀ (s : State) (ch : Ch) (e : Exp), s.fb (chBase ch) F.CH_MD_CTL_EN = true → s.mordantStalls ch = false →
    (s.chan ch).mord.exps.find? (Exp.due (s.f (chBase ch) F.CH_MD_H_H) (s.chan ch).mord.front) = some e →
    ∃ t, exec (.autoSeal ch) s = .next t ∧
      (t.chan ch).mord.exps = (s.chan ch).mord.exps.filter (fun (x : Exp) => x.id != e.id) ∧
      (e.edge.isSome = true → t.pair (chBase ch + R.CH_MD_HIT_H) = (s.pair (chBase ch + R.CH_MD_HIT_H) + 1) % 2 ^ 64 ∧
        t.pair (chBase ch + R.CH_MD_MISS_H) = s.pair (chBase ch + R.CH_MD_MISS_H) ∧ (t.chan ch).devN = (s.chan ch).devN + 1) ∧
      (e.edge = none → t.pair (chBase ch + R.CH_MD_MISS_H) = (s.pair (chBase ch + R.CH_MD_MISS_H) + 1) % 2 ^ 64 ∧
        t.pair (chBase ch + R.CH_MD_HIT_H) = s.pair (chBase ch + R.CH_MD_HIT_H) ∧ t.lake = s.lake) ∧
      (∀ m : Ch, m ≠ ch → t.chan m = s.chan m) ∧ t.clk = s.clk ∧ t.vat = s.vat) ∧
  -- AUTO_SEAL
  (∀ (s : State) (ch : Ch), s.fb (chBase ch) F.CH_MD_CTL_EN = true → s.mordantStalls ch = false →
    (s.chan ch).mord.exps.find? (Exp.due (s.f (chBase ch) F.CH_MD_H_H) (s.chan ch).mord.front) = none →
    ∃ t, exec (.autoSeal ch) s = .next t ∧ t.chans = s.chans ∧ (∀ a, a ≠ chBase ch + R.CH_MD_STAT → t.w a = s.w a) ∧
      t = { s with regs := t.regs }) ∧
  -- EDGE_AGE_OUT
  (∀ (s : State) (ch : Ch) (x : Int × Bool), s.fb (chBase ch) F.CH_MD_CTL_EN = true → s.mordantStalls ch = false →
    (s.chan ch).mord.free.find? (edgeDue (s.f (chBase ch) F.CH_MD_H_H) (s.chan ch).mord.front) = some x →
    ∃ t, exec (.edgeAgeOut ch) s = .next t ∧ (t.chan ch).mord.free = (s.chan ch).mord.free.erase x ∧
      (∀ e ∈ (t.chan ch).mord.exps, Exp.due (s.f (chBase ch) F.CH_MD_H_H) (s.chan ch).mord.front e = false) ∧
      t.pair (chBase ch + R.CH_MD_EXTRA_H) = (s.pair (chBase ch + R.CH_MD_EXTRA_H) + 1) % 2 ^ 64 ∧
      ((s.chan ch).mord.exps = [] →
        (∀ a, a ∉ [chBase ch + R.CH_MD_EXTRA_H, chBase ch + R.CH_MD_EXTRA_H + 4, chBase ch + R.CH_MD_STAT] → t.w a = s.w a) ∧
        t = { s with regs := t.regs, chans := t.chans, link0 := t.link0, link1 := t.link1 }) ∧
      (∀ m : Ch, m ≠ ch → t.chan m = s.chan m) ∧ t.clk = s.clk ∧ t.vat = s.vat) ∧
  -- EDGE_AGE_OUT
  (∀ (s : State) (ch : Ch), s.fb (chBase ch) F.CH_MD_CTL_EN = true → s.mordantStalls ch = false →
    (s.chan ch).mord.exps.any (Exp.due (s.f (chBase ch) F.CH_MD_H_H) (s.chan ch).mord.front) = false →
    (s.chan ch).mord.free.any (edgeDue (s.f (chBase ch) F.CH_MD_H_H) (s.chan ch).mord.front) = false →
    ∃ t, exec (.edgeAgeOut ch) s = .next t ∧ t.chans = s.chans ∧ (∀ a, a ≠ chBase ch + R.CH_MD_STAT → t.w a = s.w a) ∧
      t = { s with regs := t.regs }) ∧
  -- MATERIALISE
  (∀ (s : State) (ch : Ch), s.fb (chBase ch) F.CH_MD_CTL_EN = false → ∃ t, exec (.materialise ch) s = .next t ∧ t = s) ∧
  -- MATERIALISE
  (∀ (s : State) (ch : Ch), s.mordantStalls ch = true → ∃ t, exec (.materialise ch) s = .next t ∧ t = s) ∧
  -- MORDANT_EDGE
  (∀ (s : State) (ch : Ch), s.fb (chBase ch) F.CH_MD_CTL_EN = false → ∃ t, exec (.mordantEdge ch) s = .next t ∧ t = s) ∧
  -- MORDANT_EDGE
  (∀ (s : State) (ch : Ch), s.mordantStalls ch = true → ∃ t, exec (.mordantEdge ch) s = .next t ∧ t = s) ∧
  -- AUTO_SEAL
  (∀ (s : State) (ch : Ch), s.fb (chBase ch) F.CH_MD_CTL_EN = false → ∃ t, exec (.autoSeal ch) s = .next t ∧ t = s) ∧
  -- AUTO_SEAL
  (∀ (s : State) (ch : Ch), s.mordantStalls ch = true → ∃ t, exec (.autoSeal ch) s = .next t ∧ t = s) ∧
  -- EDGE_AGE_OUT
  (∀ (s : State) (ch : Ch), s.fb (chBase ch) F.CH_MD_CTL_EN = false → ∃ t, exec (.edgeAgeOut ch) s = .next t ∧ t = s) ∧
  -- EDGE_AGE_OUT
  (∀ (s : State) (ch : Ch), s.mordantStalls ch = true → ∃ t, exec (.edgeAgeOut ch) s = .next t ∧ t = s)

/-- Enabling starts a generation, disabling and FLUSH withdraw, POL_RST, DCLR and CH_MD_H write what they name. Rests
on R125, R126, R140, R205, R288, 06_mordant. MD_ENABLE on a disabled channel that fits R125 sets EN with generation 0,
no expected SEQ and no ordering reference, while front, polarity count and owed credits stand; on an enabled one that
fits it changes no Mordant; on one that does not fit it sets EN_REJ and leaves EN as it is. The other fields take
their values each time. MD_DISABLE clears EN and the inputs not yet taken and, as FLUSH does, withdraws every
expectation and queued element: CH_MD_WDRAW counts them and each queued descriptor returns its credit. POL_RST
restarts the polarity count. DCLR clears the deviation sums and extremes. MD_H_WRITE stores H held within its limits
while EN = 0 and sets EN_REJ while EN = 1. -/
def Obligations.MordantEnablesFlushesAndClears : Prop :=
  -- MD_ENABLE
  (∀ (s : State) (ch : Ch) (w : Word), s.Serves →
    ∃ t, exec (.mdEnable ch w) s = .next t ∧ t.w (chBase ch + R.CH_MD_CTL) &&& 0x78000000#32 = w &&& 0x78000000#32 ∧
      (s.mdRefused ch = true → t.fb (chBase ch) F.CH_MD_STAT_EN_REJ = true ∧
        t.fb (chBase ch) F.CH_MD_CTL_EN = s.fb (chBase ch) F.CH_MD_CTL_EN ∧ t.chans = s.chans) ∧
      (s.mdRefused ch = false → s.fb (chBase ch) F.CH_MD_CTL_EN = false → t.fb (chBase ch) F.CH_MD_CTL_EN = true ∧
        t.f (chBase ch) F.CH_MD_STAT_GEN = 0 ∧
        (t.chan ch).mord = { (s.chan ch).mord with gen := 0, expSeq := none, orderRef := none }) ∧
      (s.mdRefused ch = false → s.fb (chBase ch) F.CH_MD_CTL_EN = true → t.fb (chBase ch) F.CH_MD_CTL_EN = true ∧ t.chans = s.chans) ∧
      (∀ m : Ch, m ≠ ch → t.chan m = s.chan m) ∧ t.clk = s.clk ∧ s.SameMemory t) ∧
  -- MD_DISABLE
  (∀ (s : State) (ch : Ch), s.Serves →
    ∃ t, exec (.mdDisable ch) s = .next t ∧ t.fb (chBase ch) F.CH_MD_CTL_EN = false ∧
      t.w (chBase ch + R.CH_MD_CTL) &&& 0x78000000#32 = s.w (chBase ch + R.CH_MD_CTL) &&& 0x78000000#32 ∧
      (t.chan ch).mord.exps = [] ∧ (t.chan ch).mord.queue = [] ∧ (t.chan ch).mord.free = [] ∧ (t.chan ch).mord.input = [] ∧
      (t.chan ch).mord.owed = (s.chan ch).mord.owed + (s.chan ch).mord.queue.length ∧
      t.pair (chBase ch + R.CH_MD_WDRAW_H) = (s.pair (chBase ch + R.CH_MD_WDRAW_H) + ((s.chan ch).mord.exps.length +
        ((s.chan ch).mord.queue.map fun (q : QDesc) => q.left.length).sum)) % 2 ^ 64 ∧
      (∀ m : Ch, m ≠ ch → t.chan m = s.chan m) ∧ t.clk = s.clk ∧ s.SameMemory t ∧ t.link0 = s.link0 ∧ t.link1 = s.link1) ∧
  -- FLUSH
  (∀ (s : State) (ch : Ch), s.Serves →
    ∃ t, exec (.flush ch) s = .next t ∧ t.w (chBase ch + R.CH_MD_CTL) = s.w (chBase ch + R.CH_MD_CTL) ∧
      (t.chan ch).mord.exps = [] ∧ (t.chan ch).mord.queue = [] ∧ (t.chan ch).mord.free = [] ∧
      (t.chan ch).mord.owed = (s.chan ch).mord.owed + (s.chan ch).mord.queue.length ∧
      t.pair (chBase ch + R.CH_MD_WDRAW_H) = (s.pair (chBase ch + R.CH_MD_WDRAW_H) + ((s.chan ch).mord.exps.length +
        ((s.chan ch).mord.queue.map fun (q : QDesc) => q.left.length).sum)) % 2 ^ 64 ∧
      (∀ m : Ch, m ≠ ch → t.chan m = s.chan m) ∧ t.clk = s.clk ∧ s.SameMemory t ∧ t.link0 = s.link0 ∧ t.link1 = s.link1) ∧
  -- POL_RST
  (∀ (s : State) (ch : Ch), s.Serves →
    ∃ t, exec (.polRst ch) s = .next t ∧ t.chan ch = { s.chan ch with mord := { (s.chan ch).mord with polCount := 0, polHeld := false } } ∧
      (∀ m : Ch, m ≠ ch → t.chan m = s.chan m) ∧ t = { s with chans := t.chans, paths := t.paths }) ∧
  -- DCLR
  (∀ (s : State) (ch : Ch), s.Serves →
    ∃ t, exec (.dclr ch) s = .next t ∧ t.pair (chBase ch + R.CH_MD_DSUM_H) = 0 ∧ t.pair (chBase ch + R.CH_MD_DSQ_H) = 0 ∧
      t.f (chBase ch) F.CH_MD_DMIN_DMIN = 0x7FFFFF ∧ t.f (chBase ch) F.CH_MD_DMAX_DMAX = 0x800000 ∧
      (∀ a, a ∉ [chBase ch + R.CH_MD_DSUM_H, chBase ch + R.CH_MD_DSUM_H + 4, chBase ch + R.CH_MD_DSQ_H, chBase ch + R.CH_MD_DSQ_H + 4,
        chBase ch + R.CH_MD_DMIN, chBase ch + R.CH_MD_DMAX] → t.w a = s.w a) ∧ t.chan ch = { s.chan ch with devN := 0 } ∧
      (∀ m : Ch, m ≠ ch → t.chan m = s.chan m) ∧ t = { s with regs := t.regs, chans := t.chans, paths := t.paths }) ∧
  -- MD_H_WRITE
  (∀ (s : State) (ch : Ch) (w : Word), s.Serves →
    ∃ t, exec (.mdHWrite ch w) s = .next t ∧
      (s.fb (chBase ch) F.CH_MD_CTL_EN = false → t.f (chBase ch) F.CH_MD_H_H = max 64000 (min 12800000 (F.CH_MD_H_H.of w)) ∧
        s.OnlyRegsOf .host t [chBase ch + R.CH_MD_H]) ∧
      (s.fb (chBase ch) F.CH_MD_CTL_EN = true → t.fb (chBase ch) F.CH_MD_STAT_EN_REJ = true ∧
        s.OnlyRegsOf .host t [chBase ch + R.CH_MD_STAT]))

/-- An enabled source makes an ARMED unit's event at its sample, and is counted as missed where it comes too late.
Rests on R147, R148, R150, R151, R154, R157, R231, 07_triggers. TRIG_IN_EDGE, STL_ASSERT, MARK, MARK_RELEASE and FORCE
offer their source to the units that enable it and were armed by its sample. An ARMED unit makes an event of the
sample, with the source's bit: the event number advances and the unit leaves ARMED; while it waits for its pre-trigger
side it sets IGN. In POST another sample's source, and in REARM any, counts as MISSED; FORCE in the event's own sample
joins its sources. A crossing within 100 ps of a sample's border takes either sample; a pin not steady for 1.0 ns on
both sides of an edge is not seen; a unit ignores a line it drives itself. MARK queues a time in the future, at most
16 a unit, else MARK_OVF; an earlier time than the arming sets MARK_LATE. MARK_RELEASE takes the earliest time that
waits. Before the first lock pins and lines do nothing. FORCE acts at the next MCLK cycle, and nothing in IDLE. -/
def Obligations.SourcesMakeEventsInArmedUnits : Prop :=
  -- TRIG_IN_EDGE
  (∀ (s : State) (pin : Fin 4) (rising : Bool) (pos after : Nat) (u : Unit16), s.clk.running = true → 64 < pos → pos < 192 →
    s.pinSeen (tinPin pin) (s.now + pos) after = true →
    s.srcEn u pin.val = true → (s.tuA u F.TRG_TU_SRC_TIN_FALL).testBit pin.val = !rising → (s.tu u).armAt ≤ s.now / 256 * 256 →
    ∃ t, exec (.trigInEdge pin rising ⟨pos, after⟩) s = .next t ∧ s.SourceMet u pin.val (s.now / 256 * 256) t ∧
      t.clk = s.clk ∧ t.pinLast = s.pinLast.set (tinPin pin) (some (s.now + pos))) ∧
  -- TRIG_IN_EDGE
  (∀ (s : State) (pin : Fin 4) (rising : Bool) (pos after : Nat) (u : Unit16), s.clk.running = true → (pos ≤ 64 ∨ 192 ≤ pos) →
    s.pinSeen (tinPin pin) (s.now + pos) after = true → s.tuState u = tuArmed → s.tuA u F.TRG_TU_CFG_FULLPRE ≠ 1 →
    s.srcEn u pin.val = true → (s.tuA u F.TRG_TU_SRC_TIN_FALL).testBit pin.val = !rising → (s.tu u).armAt ≤ s.now / 256 * 256 - 256 →
    ∃ t, exec (.trigInEdge pin rising ⟨pos, after⟩) s = .next t ∧
      (pos ≤ 64 → (t.tu u).event.map TrigEvent.sample = some (s.now / 256 * 256) ∨
        (t.tu u).event.map TrigEvent.sample = some (s.now / 256 * 256 - 256)) ∧
      (192 ≤ pos → (t.tu u).event.map TrigEvent.sample = some (s.now / 256 * 256) ∨
        (t.tu u).event.map TrigEvent.sample = some (s.now / 256 * 256 + 256)) ∧
      t.w (tuBase u + R.TRG_TU_EVT) = s.w (tuBase u + R.TRG_TU_EVT) + 1#32 ∧ t.clk = s.clk) ∧
  -- TRIG_IN_EDGE
  (∀ (s : State) (pin : Fin 4) (rising : Bool) (pos after : Nat), s.clk.running = true →
    s.pinSeen (tinPin pin) (s.now + pos) after = false →
    ∃ t, exec (.trigInEdge pin rising ⟨pos, after⟩) s = .next t ∧ t = { s with pinLast := s.pinLast.set (tinPin pin) (some (s.now + pos)) }) ∧
  -- TRIG_IN_EDGE
  (∀ (s : State) (pin : Fin 4) (rising : Bool) (pos after : Nat), s.clk.running = false →
    ∃ t, exec (.trigInEdge pin rising ⟨pos, after⟩) s = .next t ∧ t = s) ∧
  -- STL_ASSERT
  (∀ (s : State) (line : Fin 8) (pos after : Nat) (held : BitVec 8) (u : Unit16), s.clk.running = true → 64 < pos → pos < 192 →
    s.pinSeen (stlPin line) (s.now + pos) after = true →
    s.srcEn u (4 + line.val) = true → s.ownDrive u line = false → (s.tu u).armAt ≤ s.now / 256 * 256 →
    (∀ v : Unit16, v ≠ u → s.srcEn v (4 + line.val) = false) →
    ∃ t, exec (.stlAssert line ⟨pos, after⟩ held) s = .next t ∧ s.SourceMet u (4 + line.val) (s.now / 256 * 256) t ∧ t.stlIn = held ∧
      t.clk = s.clk ∧ t.pinLast = s.pinLast.set (stlPin line) (some (s.now + pos + after))) ∧
  -- STL_ASSERT
  (∀ (s : State) (line : Fin 8) (pos after : Nat) (held : BitVec 8) (u : Unit16), s.clk.running = true →
    s.pinSeen (stlPin line) (s.now + pos) after = true → s.tuState u = tuArmed → s.tuA u F.TRG_TU_CFG_FULLPRE ≠ 1 →
    s.srcEn u (4 + line.val) = true → s.ownDrive u line = false → (s.tu u).armAt ≤ s.now / 256 * 256 - 256 →
    (∀ v : Unit16, v ≠ u → s.srcEn v (4 + line.val) = false) →
    ∃ t, exec (.stlAssert line ⟨pos, after⟩ held) s = .next t ∧
      (pos ≤ 64 → (t.tu u).event.map TrigEvent.sample = some (s.now / 256 * 256) ∨
        (t.tu u).event.map TrigEvent.sample = some (s.now / 256 * 256 - 256)) ∧
      (192 ≤ pos → (t.tu u).event.map TrigEvent.sample = some (s.now / 256 * 256) ∨
        (t.tu u).event.map TrigEvent.sample = some (s.now / 256 * 256 + 256)) ∧
      t.w (tuBase u + R.TRG_TU_EVT) = s.w (tuBase u + R.TRG_TU_EVT) + 1#32 ∧ t.stlIn = held ∧ t.clk = s.clk) ∧
  -- STL_ASSERT
  (∀ (s : State) (line : Fin 8) (pos after : Nat) (held : BitVec 8), s.clk.running = true → 64 < pos → pos < 192 →
    (s.pinSeen (stlPin line) (s.now + pos) after = false ∨
      (∀ u : Unit16, s.srcEn u (4 + line.val) = true → s.ownDrive u line = true)) →
    ∃ t, exec (.stlAssert line ⟨pos, after⟩ held) s = .next t ∧
      t = { s with stlIn := held, pinLast := s.pinLast.set (stlPin line) (some (s.now + pos + after)) }) ∧
  -- STL_ASSERT
  (∀ (s : State) (line : Fin 8) (pos after : Nat) (held : BitVec 8), s.clk.running = false →
    ∃ t, exec (.stlAssert line ⟨pos, after⟩ held) s = .next t ∧ t = { s with stlIn := held }) ∧
  -- MARK
  (∀ (s : State) (marker : Fin 16) (time48 : BitVec 48), Int.ofNat s.now < (resolveTime 48 s.now time48.toNat).fdiv 256 * 256 →
    ∃ t, exec (.mark marker time48) s = .next t ∧
      (∀ u : Unit16, s.srcEn u 12 = true → (s.tuA u F.TRG_TU_MARK_MASK).testBit marker.val = true →
        ((s.tu u).marks.length < 16 → (t.tu u).marks = (s.tu u).marks ++ [resolveTime 48 s.now time48.toNat]) ∧
        (16 ≤ (s.tu u).marks.length → (t.tu u).marks = (s.tu u).marks ∧ t.fb (tuBase u) F.TRG_TU_STAT_MARK_OVF = true)) ∧
      (∀ u : Unit16, (s.srcEn u 12 = false ∨ (s.tuA u F.TRG_TU_MARK_MASK).testBit marker.val = false) → t.tu u = s.tu u) ∧
      t = { s with regs := t.regs, units := t.units, link1 := t.link1 }) ∧
  -- MARK
  (∀ (s : State) (marker : Fin 16) (time48 : BitVec 48) (u : Unit16), (resolveTime 48 s.now time48.toNat).fdiv 256 * 256 ≤ Int.ofNat s.now →
    s.srcEn u 12 = true → (s.tuA u F.TRG_TU_MARK_MASK).testBit marker.val = true →
    (s.tu u).armAt ≤ ((resolveTime 48 s.now time48.toNat).fdiv 256 * 256).toNat →
    ∃ t, exec (.mark marker time48) s = .next t ∧ t.clk = s.clk ∧
      (Int.ofNat (s.tu u).armAt ≤ resolveTime 48 s.now time48.toNat →
        s.SourceMet u 12 ((resolveTime 48 s.now time48.toNat).fdiv 256 * 256).toNat t)) ∧
  -- MARK
  (∀ (s : State) (marker : Fin 16) (time48 : BitVec 48) (u : Unit16), (resolveTime 48 s.now time48.toNat).fdiv 256 * 256 ≤ Int.ofNat s.now →
    s.srcEn u 12 = true → (s.tuA u F.TRG_TU_MARK_MASK).testBit marker.val = true → s.tuState u ≠ tuIdle →
    resolveTime 48 s.now time48.toNat < Int.ofNat (s.tu u).armAt →
    ∃ t, exec (.mark marker time48) s = .next t ∧ t.clk = s.clk ∧ t.fb (tuBase u) F.TRG_TU_STAT_MARK_LATE = true ∧
      (t.tu u).event = (s.tu u).event ∧ (t.tu u).missed = (s.tu u).missed) ∧
  -- MARK_RELEASE
  (∀ (s : State) (u : Unit16) (m : Int) (rest : List Int), (s.tu u).marks = m :: rest → s.srcEn u 12 = true →
    (s.tu u).armAt ≤ sampleOf (rest.foldl min m) →
    ∃ t, exec (.markRelease u) s = .next t ∧ t.clk = (s.reach (sampleOf (rest.foldl min m))).clk ∧
      (t.tu u).marks = (m :: rest).erase (rest.foldl min m) ∧
      (s.modTu u fun (x : UnitSt) => { x with marks := (m :: rest).erase (rest.foldl min m) }).SourceMet u 12 (sampleOf (rest.foldl min m)) t) ∧
  -- MARK_RELEASE
  (∀ (s : State) (u : Unit16) (m : Int) (rest : List Int), (s.tu u).marks = m :: rest →
    (s.srcEn u 12 = false ∨ sampleOf (rest.foldl min m) < (s.tu u).armAt) →
    ∃ t, exec (.markRelease u) s = .next t ∧
      t = { s.modTu u (fun (x : UnitSt) => { x with marks := (m :: rest).erase (rest.foldl min m) }) with
            clk := (s.reach (sampleOf (rest.foldl min m))).clk }) ∧
  -- MARK_RELEASE
  (∀ (s : State) (u : Unit16), (s.tu u).marks = [] → ∃ t, exec (.markRelease u) s = .next t ∧ t = s) ∧
  -- FORCE
  (∀ (s : State) (u : Unit16), s.Serves → s.srcEn u 15 = true → (s.tu u).armAt ≤ s.mclkNext / 256 * 256 → s.tuState u ≠ tuIdle →
    ∃ t, exec (.force u) s = .next t ∧ t.clk = (s.reach s.mclkNext).clk ∧ s.SourceMet u 15 (s.mclkNext / 256 * 256) t) ∧
  -- FORCE
  (∀ (s : State) (u : Unit16) (e : TrigEvent), s.Serves → s.tuState u = tuPost → s.srcEn u 15 = true → (s.tu u).armAt ≤ e.sample →
    (s.tu u).event = some e → e.sample = s.mclkNext / 256 * 256 → (s.tu u).rings.any (fun (r : Ring) => r.closed.isNone) = true →
    ∃ t, exec (.force u) s = .next t ∧ (t.tu u).event = some { e with src := e.src ||| 0x8000#16 } ∧
      t = { s.setTu u { s.tu u with event := (t.tu u).event } with clk := (s.reach s.mclkNext).clk, paths := t.paths }) ∧
  -- FORCE
  (∀ (s : State) (u : Unit16), s.Serves → (s.tuState u = tuIdle ∨ s.srcEn u 15 = false ∨ s.mclkNext / 256 * 256 < (s.tu u).armAt) →
    ∃ t, exec (.force u) s = .next t ∧ t = { s with clk := (s.reach s.mclkNext).clk, paths := t.paths })

/-- ARM checks the shadows it puts into force; records close by time or STOP and are stored with two headers. Rests on
R8, R89, R152, R155, R156, R157, R158, R161, R300, 07_triggers. ARM in an IDLE unit puts the shadows into force and,
where R152 accepts them, enters ARMED at the next MCLK cycle with an empty ring for each channel of the set, or waits
in REARM with FULL for a free segment; else, or before READY, it sets CFG_REJ; elsewhere it does nothing. DISARM takes
an ARMED or REARM unit to IDLE; in POST it closes the open records with STOP, and the unit is IDLE once no earlier
entry is on its way to them. RECORD_POST_TIME closes every open record of the event at TRIGT + POST_T, and the unit
enters REARM once no earlier entry is on its way; without a limit or an event it does nothing. REARM_DONE stores each
record, header first and twice, once; in single mode it then enters IDLE, in continuous mode it puts the shadows into
force and enters ARMED at the re-arm instant, or IDLE with CFG_REJ; in both it waits with FULL where a channel has no
free segment. -/
def Obligations.UnitsArmCloseAndRearm : Prop :=
  -- ARM
  (∀ (s : State) (u : Unit16), s.Serves → s.tuState u = tuIdle →
    ∃ t, exec (.arm u) s = .next t ∧ t.clk = (s.reach s.mclkNext).clk ∧
      (s.ready = false → t.fb (tuBase u) F.TRG_TU_STAT_CFG_REJ = true ∧ t.units = s.units) ∧
      (s.ready = true → ((s.reach s.mclkNext).applyTu u).tuRejects u = true →
        t.fb (tuBase u) F.TRG_TU_STAT_CFG_REJ = true ∧ t.tuState u = tuIdle ∧ t.units = s.units) ∧
      (s.ready = true → ((s.reach s.mclkNext).applyTu u).tuRejects u = false → t.lacksSeg u = false →
        t.tuState u = tuArmed ∧ (t.tu u).armAt = (s.reach s.mclkNext).now ∧
        (t.tu u).rings.map Ring.ch = ((s.reach s.mclkNext).applyTu u).tuChs u ∧
        (∀ r ∈ (t.tu u).rings, r.items = [] ∧ r.closed = none) ∧ (t.tu u).missed = 0 ∧ (t.tu u).count = 0) ∧
      (s.ready = true → ((s.reach s.mclkNext).applyTu u).tuRejects u = false → t.lacksSeg u = true →
        t.tuState u = tuRearm ∧ t.fb (tuBase u) F.TRG_TU_STAT_FULL = true) ∧
      ((s.tu u).records = [] → (t.tu u).records = []) ∧
      (∀ v : Unit16, v ≠ u → t.tu v = s.tu v) ∧ s.SameMemory t) ∧
  -- ARM
  (∀ (s : State) (u : Unit16), s.Serves → s.tuState u ≠ tuIdle →
    ∃ t, exec (.arm u) s = .next t ∧ t = { s with clk := (s.reach s.mclkNext).clk, paths := t.paths }) ∧
  -- DISARM
  (∀ (s : State) (u : Unit16), s.Serves → s.tuState u = tuArmed →
    ∃ t, exec (.disarm u) s = .next t ∧ t.tuState u = tuIdle ∧ t.fb (tuBase u) F.TRG_TU_STAT_FULL = false ∧
      t.tu u = { s.tu u with ghost := some (s.reach s.mclkNext).now } ∧ (∀ v : Unit16, v ≠ u → t.tu v = s.tu v) ∧
      (∀ a, a ≠ tuBase u + R.TRG_TU_STAT → t.w a = s.w a) ∧
      t = { s with regs := t.regs, units := t.units, clk := (s.reach s.mclkNext).clk, paths := t.paths }) ∧
  -- DISARM
  (∀ (s : State) (u : Unit16), s.Serves → s.tuState u = tuPost →
    ∃ t, exec (.disarm u) s = .next t ∧ t.clk = (s.reach s.mclkNext).clk ∧
      ((∀ r ∈ (s.tu u).rings, r.closed = none ∧ s.pendingBefore r.ch (s.reach s.mclkNext).now = false) →
        t.tuState u = tuIdle ∧ (t.tu u).rings = [] ∧ (t.tu u).event = none) ∧
      (t.tuState u ≠ tuIdle → t.tuState u = tuPost ∧ (t.tu u).ending = true ∧ (t.tu u).rings = (s.tu u).rings.map (fun (r : Ring) =>
        if r.closed.isNone then { r with closed := some (CloseCause.stop, (s.reach s.mclkNext).now) } else r)) ∧
      (∀ v : Unit16, v ≠ u → t.tu v = s.tu v) ∧ t.lake = s.lake ∧ t.flash = s.flash) ∧
  -- DISARM
  (∀ (s : State) (u : Unit16), s.Serves → s.tuState u = tuRearm →
    ∃ t, exec (.disarm u) s = .next t ∧ t.tuState u = tuIdle ∧ t.fb (tuBase u) F.TRG_TU_STAT_FULL = false ∧
      (t.tu u).rings = [] ∧ (t.tu u).event = none ∧ (t.tu u).records = (s.tu u).records ∧ (∀ v : Unit16, v ≠ u → t.tu v = s.tu v) ∧
      (∀ a, a ≠ tuBase u + R.TRG_TU_STAT → t.w a = s.w a) ∧
      t = { s with regs := t.regs, units := t.units, clk := (s.reach s.mclkNext).clk, paths := t.paths }) ∧
  -- DISARM
  (∀ (s : State) (u : Unit16), s.Serves → s.tuState u = tuIdle →
    ∃ t, exec (.disarm u) s = .next t ∧ t = { s with clk := (s.reach s.mclkNext).clk, paths := t.paths }) ∧
  -- RECORD_POST_TIME
  (∀ (s : State) (u : Unit16) (e : TrigEvent) (due : Nat), s.tuState u = tuPost → (s.tu u).event = some e → s.postDue u e.sample = some due →
    ∃ t, exec (.recordPostTime u) s = .next t ∧ t.clk = (s.reach due).clk ∧
      (t.tu u).rings = (s.tu u).rings.map (fun (r : Ring) =>
        if r.closed.isNone then { r with closed := some (CloseCause.postTime, due) } else r) ∧
      ((∀ r ∈ (s.tu u).rings, r.closed = none ∧ s.pendingBefore r.ch due = false) → t.tuState u = tuRearm ∧
        (∀ r ∈ (s.tu u).rings, t.f (chBase r.ch) F.CH_STAT_OVF_RUN = 0)) ∧
      (t.tuState u = tuPost → t.regs = s.regs) ∧ (t.tuState u = tuPost ∨ t.tuState u = tuRearm) ∧
      (∀ a, a ≠ tuBase u + R.TRG_TU_STAT → (∀ r ∈ (s.tu u).rings, a ≠ chBase r.ch + R.CH_STAT) → t.w a = s.w a) ∧
      (∀ v : Unit16, v ≠ u → t.tu v = s.tu v) ∧ t = { s with regs := t.regs, units := t.units, clk := t.clk, outPulse := t.outPulse }) ∧
  -- RECORD_POST_TIME
  (∀ (s : State) (u : Unit16), (s.tuState u ≠ tuPost ∨ (s.tu u).event.all (fun (e : TrigEvent) => (s.postDue u e.sample).isNone) = true) →
    ∃ t, exec (.recordPostTime u) s = .next t ∧ t = s) ∧
  -- REARM_DONE
  (∀ (s : State) (u : Unit16) (e : TrigEvent) (r : Ring), s.tuState u = tuRearm → (s.tu u).event = some e → (s.tu u).rings = [r] →
    (s.tu u).hdrDone = false → (s.tuA u F.TRG_TU_CFG_MODE = 0 ∨ s.tuA u F.TRG_TU_CFG_MODE = 3) → s.tuA u F.TRG_TU_CFG_PUSH = 0 →
    s.tuA u F.TRG_TU_CFG_OVERWRITE = 0 →
    ∃ t, exec (.rearmDone u) s = .next t ∧ t.clk = (s.reach ((s.tu u).closeAt + 20480)).clk ∧
      (t.tu u).records = (s.tu u).records ++ [s.mkRecord u 0 1 e r] ∧
      (t.lacksSeg u = false → t.tuState u = tuIdle ∧ (t.tu u).rings = [] ∧ (t.tu u).event = none) ∧
      (t.lacksSeg u = true → t.tuState u = tuRearm ∧ t.fb (tuBase u) F.TRG_TU_STAT_FULL = true ∧ (t.tu u).hdrDone = true) ∧
      (∀ k, k < 16 → t.vatVal (s.segBase u 0 1 r.seg + k) = t.vatVal (s.segBase u 0 1 r.seg + 16 + k)) ∧
      (∀ k, k < 8 → t.vatVal (s.segBase u 0 1 r.seg + 2 * k) =
          ((s.mkRecord u 0 1 e r).header.getD k 0#64).extractLsb' 32 32 ∧
        t.vatVal (s.segBase u 0 1 r.seg + 2 * k + 1) = ((s.mkRecord u 0 1 e r).header.getD k 0#64).extractLsb' 0 32) ∧
      (∀ a, (a < s.segBase u 0 1 r.seg ∨ s.segBase u 0 1 r.seg + 32 ≤ a) → t.vatVal a = s.vatVal a) ∧
      (∀ v : Unit16, v ≠ u → t.tu v = s.tu v) ∧ t.lake = s.lake ∧ t.chans = s.chans) ∧
  -- REARM_DONE
  (∀ (s : State) (u : Unit16), s.tuState u = tuRearm → (s.tu u).event.isSome = true → (s.tu u).hdrDone = true →
    (s.tuA u F.TRG_TU_CFG_MODE = 0 ∨ s.tuA u F.TRG_TU_CFG_MODE = 3 ∨
      (s.tuA u F.TRG_TU_CFG_MODE = 2 ∧ s.tuA u F.TRG_TU_CFG_NREC ≤ (s.tu u).count)) →
    ∃ t, exec (.rearmDone u) s = .next t ∧ t.clk = (s.reach ((s.tu u).closeAt + 20480)).clk ∧
      (t.lacksSeg u = false → t.tuState u = tuIdle ∧ (t.tu u).rings = [] ∧ (t.tu u).event = none) ∧
      (t.lacksSeg u = true → t.tuState u = tuRearm ∧ t.fb (tuBase u) F.TRG_TU_STAT_FULL = true) ∧
      (s.tuA u F.TRG_TU_CFG_OVERWRITE = 0 → (t.tu u).records = (s.tu u).records) ∧ t.chans = s.chans ∧ s.SameMemory t) ∧
  -- REARM_DONE
  (∀ (s : State) (u : Unit16), s.tuState u = tuRearm → ((s.tu u).event = none ∨ (s.tu u).hdrDone = true) →
    ((s.tu u).event = none ∨ s.tuA u F.TRG_TU_CFG_MODE = 1 ∨ (s.tuA u F.TRG_TU_CFG_MODE = 2 ∧ (s.tu u).count < s.tuA u F.TRG_TU_CFG_NREC)) →
    ∃ t, exec (.rearmDone u) s = .next t ∧ t.clk = (s.reach ((s.tu u).closeAt + 20480)).clk ∧
      (((s.reach ((s.tu u).closeAt + 20480)).applyTu u).tuRejects u = true →
        t.tuState u = tuIdle ∧ t.fb (tuBase u) F.TRG_TU_STAT_CFG_REJ = true) ∧
      (((s.reach ((s.tu u).closeAt + 20480)).applyTu u).tuRejects u = false → t.lacksSeg u = true →
        t.tuState u = tuRearm ∧ t.fb (tuBase u) F.TRG_TU_STAT_FULL = true) ∧
      (((s.reach ((s.tu u).closeAt + 20480)).applyTu u).tuRejects u = false → t.lacksSeg u = false →
        t.tuState u = tuArmed ∧ (t.tu u).event = none ∧
        (t.tu u).armAt = (if s.now < (s.tu u).closeAt + 20480 + 256 then (s.tu u).closeAt + 20480 else s.now) ∧
        (∀ r ∈ (t.tu u).rings, r.items = [] ∧ r.closed = none)) ∧ s.SameMemory t) ∧
  -- REARM_DONE
  (∀ (s : State) (u : Unit16), s.tuState u ≠ tuRearm → ∃ t, exec (.rearmDone u) s = .next t ∧ t = s)

/-- RD and REL take the oldest unread record; blocks close by time; partitions and pulses follow their rules. Rests on
R160, R161, R163, R164, R165, R166, R167, 07_triggers. RD queues the oldest unread record on the host link and marks
it pushed; one whose header has an uncorrectable word in both copies is lost instead: its segment is freed, LOSTC
counts it and LOST is set. REL frees the oldest unread record without sending. With none, both do nothing.
STREAM_BLOCK_CLOSE closes a block that holds entries 100 us after its first word and queues it; an empty one stays.
VAT_PARTITION_WRITE stores a partition's word, or sets CFG_REJ and changes nothing where R160 refuses it.
TRIG_OUT_PULSE_END ends a pulse at its width; the end of an STL pulse is kept for the 10 ns in which its unit ignores
the line. The Vat's contents stand throughout. -/
def Obligations.RecordsAndBlocksLeave : Prop :=
  -- RD
  (∀ (s : State) (u : Unit16) (r : Record), s.Serves → (s.tu u).oldest = some r → s.headerLost r = false →
    ∃ t, exec (.rd u) s = .next t ∧ t.link0.tx.length = s.link0.tx.length + 1 ∧
      (t.tu u).records = (s.tu u).records.map (fun (y : Record) => if y.ch = r.ch && y.number = r.number then { y with pushed := true } else y) ∧
      (∀ a, a ∉ [tuBase u + R.TRG_TU_NEXT, R.TRG_VAT_CE_H, R.TRG_VAT_CE_H + 4, R.TRG_VAT_UE_H, R.TRG_VAT_UE_H + 4, R.TRG_VAT_STAT] →
        t.w a = s.w a) ∧
      (∀ a, a ≠ tuBase u + R.TRG_TU_NEXT → s.vatUE = [] → s.vatCE = [] → t.w a = s.w a) ∧ (∀ v : Unit16, v ≠ u → t.tu v = s.tu v) ∧
      t = { s with regs := t.regs, units := t.units, link0 := t.link0, paths := t.paths }) ∧
  -- RD
  (∀ (s : State) (u : Unit16) (r : Record), s.Serves → (s.tu u).oldest = some r → s.headerLost r = true →
    ∃ t, exec (.rd u) s = .next t ∧ t.link0 = s.link0 ∧ t.fb (tuBase u) F.TRG_TU_STAT_LOST = true ∧
      t.f (tuBase u) F.TRG_TU_LOSTC_VALUE = min (s.f (tuBase u) F.TRG_TU_LOSTC_VALUE + 1) (2 ^ F.TRG_TU_LOSTC_VALUE.len - 1) ∧
      (t.tu u).records = (s.tu u).records.filter (fun (y : Record) => !(y.ch == r.ch && y.number == r.number)) ∧
      (∀ v : Unit16, v ≠ u → t.tu v = s.tu v) ∧ t = { s with regs := t.regs, units := t.units, paths := t.paths }) ∧
  -- REL
  (∀ (s : State) (u : Unit16) (r : Record), s.Serves → (s.tu u).oldest = some r →
    ∃ t, exec (.rel u) s = .next t ∧
      (t.tu u).records = (s.tu u).records.filter (fun (y : Record) => !(y.ch == r.ch && y.number == r.number)) ∧
      (∀ a, a ≠ tuBase u + R.TRG_TU_NEXT → t.w a = s.w a) ∧ (∀ v : Unit16, v ≠ u → t.tu v = s.tu v) ∧
      t = { s with regs := t.regs, units := t.units, paths := t.paths }) ∧
  -- RD
  (∀ (s : State) (u : Unit16), s.Serves → (s.tu u).oldest = none → ∃ t, exec (.rd u) s = .next t ∧ t = { s with paths := t.paths }) ∧
  -- REL
  (∀ (s : State) (u : Unit16), s.Serves → (s.tu u).oldest = none → ∃ t, exec (.rel u) s = .next t ∧ t = { s with paths := t.paths }) ∧
  -- STREAM_BLOCK_CLOSE
  (∀ (s : State) (part : Fin 32) (ch : Ch) (b : Block), (s.blocks[part]).find? (fun (x : Block) => x.ch = ch) = some b → b.items ≠ [] →
    ∃ t, exec (.streamBlockClose part ch) s = .next t ∧ t.clk = (s.reach (b.startAt + 100 * tkUs)).clk ∧
      (t.blocks[part]).find? (fun (x : Block) => x.ch = ch) =
        some { b with items := [], spare := false, refchg := false, seq := b.seq + 1#32, out := b.out + 1 } ∧
      t.link0.tx.length = s.link0.tx.length + 1 ∧ s.SameMemory t ∧
      t = { s with regs := t.regs, clk := t.clk, blocks := t.blocks, link0 := t.link0 }) ∧
  -- STREAM_BLOCK_CLOSE
  (∀ (s : State) (part : Fin 32) (ch : Ch), ((s.blocks[part]).find? (fun (x : Block) => x.ch = ch)).all (fun (x : Block) => x.items.isEmpty) = true →
    ∃ t, exec (.streamBlockClose part ch) s = .next t ∧ t = s) ∧
  -- VAT_PARTITION_WRITE
  (∀ (s : State) (n : Fin 32) (w : Word), s.Serves →
    ∃ t, exec (.vatPartitionWrite n w) s = .next t ∧
      (s.vpRefused n.val ((s.w (R.TRG_VP + 4 * n.val) &&& ~~~0xE00FFFFF#32) ||| (w &&& 0xE00FFFFF#32)) = true → t.fb 0 F.TRG_VAT_STAT_CFG_REJ = true ∧ s.OnlyRegsOf .host t [R.TRG_VAT_STAT]) ∧
      (s.vpRefused n.val ((s.w (R.TRG_VP + 4 * n.val) &&& ~~~0xE00FFFFF#32) ||| (w &&& 0xE00FFFFF#32)) = false → t.w (R.TRG_VP + 4 * n.val) &&& 0xE00FFFFF#32 = w &&& 0xE00FFFFF#32) ∧ t.clk = s.clk ∧ s.SameMemory t) ∧
  -- TRIG_OUT_PULSE_END
  (∀ (s : State) (out : Fin 10) (k : Fin 2) (a e : Nat), out.val = k.val → s.outPulse[k] = some (a, e) →
    ∃ t, exec (.trigOutPulseEnd out) s = .next t ∧ t = { s with clk := (s.reach e).clk, outPulse := s.outPulse.set k none }) ∧
  -- TRIG_OUT_PULSE_END
  (∀ (s : State) (out : Fin 10) (k : Fin 2), out.val = k.val → s.outPulse[k] = none →
    ∃ t, exec (.trigOutPulseEnd out) s = .next t ∧ t = s) ∧
  -- TRIG_OUT_PULSE_END
  (∀ (s : State) (out : Fin 10) (k : Fin 8) (a e : Nat), out.val = k.val + 2 → s.stlPulse[k] = some (a, e) →
    ∃ t, exec (.trigOutPulseEnd out) s = .next t ∧ t = { s with clk := (s.reach e).clk, stlPulse := if e + 6400 < (s.reach e).now then s.stlPulse.set k none else s.stlPulse }) ∧
  -- TRIG_OUT_PULSE_END
  (∀ (s : State) (out : Fin 10) (k : Fin 8), out.val = k.val + 2 → s.stlPulse[k] = none →
    ∃ t, exec (.trigOutPulseEnd out) s = .next t ∧ t = s)

/-- Histogram settings that fit are kept, CLR clears every bin, SNAP flips the halves and clears the new one. Rests on
R168, R169, R170, R173, R174, 08_lake. HG_CONFIG_WRITE of CH_HG_CTL or CH_HG_NB, or one that completes CH_HG_LO, that
R168 and R169 do not allow sets CFG_REJ and changes no register else; an allowed one is kept, WSH held to 47 and NB to
at least 1; the high word of CH_HG_LO waits for the low one. A claimed channel refuses it with WR_REJ. HG_CLR clears
every bin of the histogram in force and its total and sets CLR_BUSY; the other bins of the Lake keep their contents.
HG_SNAP of a double-buffered histogram moves updates to the other half, cleared, and of another histogram sets
CMD_REJ. A claimed channel refuses both commands. CLR_SWEEP_DONE clears CLR_BUSY. -/
def Obligations.HistogramsClearFlipAndTakeSettings : Prop :=
  -- HG_CONFIG_WRITE
  (∀ (s : State) (ch : Ch) (w : Word), s.Serves → s.fb (chBase ch) F.CH_HG_STAT_SVC_OWN = false →
    s.hgFits ch (hgGeom w (s.w (chBase ch + R.CH_HG_NB))) = false →
    ∃ t, exec (.hgConfigWrite ch 0 w) s = .next t ∧ t.fb (chBase ch) F.CH_HG_STAT_CFG_REJ = true ∧
      s.OnlyRegsOf .host t [chBase ch + R.CH_HG_STAT]) ∧
  -- HG_CONFIG_WRITE
  (∀ (s : State) (ch : Ch) (w : Word), s.Serves → s.fb (chBase ch) F.CH_HG_STAT_SVC_OWN = false →
    s.hgFits ch (hgGeom w (s.w (chBase ch + R.CH_HG_NB))) = true →
    ∃ t, exec (.hgConfigWrite ch 0 w) s = .next t ∧ F.CH_HG_CTL_BASE.of (t.w (chBase ch + R.CH_HG_CTL)) = F.CH_HG_CTL_BASE.of w ∧
      F.CH_HG_CTL_SRC.of (t.w (chBase ch + R.CH_HG_CTL)) = F.CH_HG_CTL_SRC.of w ∧
      F.CH_HG_CTL_WSH.of (t.w (chBase ch + R.CH_HG_CTL)) = min 47 (F.CH_HG_CTL_WSH.of w) ∧
      ((s.chan ch).openGate?.isSome = true → t.clk = s.clk ∧ (∀ m : Ch, m ≠ ch → t.chan m = s.chan m) ∧ s.SameMemory t)) ∧
  -- HG_CONFIG_WRITE
  (∀ (s : State) (ch : Ch) (w : Word), s.Serves → s.fb (chBase ch) F.CH_HG_STAT_SVC_OWN = false →
    ∃ t, exec (.hgConfigWrite ch 1 w) s = .next t ∧
      (s.hgFits ch (hgGeom (s.w (chBase ch + R.CH_HG_CTL)) (F.CH_HG_NB_NB.into 0#32 (max 1 (F.CH_HG_NB_NB.of w)))) = true →
        F.CH_HG_NB_NB.of (t.w (chBase ch + R.CH_HG_NB)) = max 1 (F.CH_HG_NB_NB.of w)) ∧
      (s.hgFits ch (hgGeom (s.w (chBase ch + R.CH_HG_CTL)) (F.CH_HG_NB_NB.into 0#32 (max 1 (F.CH_HG_NB_NB.of w)))) = false →
        t.fb (chBase ch) F.CH_HG_STAT_CFG_REJ = true ∧ s.OnlyRegsOf .host t [chBase ch + R.CH_HG_STAT])) ∧
  -- HG_CONFIG_WRITE
  (∀ (s : State) (ch : Ch) (w : Word), s.Serves → s.fb (chBase ch) F.CH_HG_STAT_SVC_OWN = false →
    ∃ t, exec (.hgConfigWrite ch 2 w) s = .next t ∧ t.staged? .host (chBase ch + R.CH_HG_LO_H) = some w ∧
      (∀ a, t.w a = s.w a) ∧ t = { s with paths := t.paths }) ∧
  -- HG_CONFIG_WRITE
  (∀ (s : State) (ch : Ch) (w h : Word), s.Serves → s.fb (chBase ch) F.CH_HG_STAT_SVC_OWN = false →
    s.staged? .host (chBase ch + R.CH_HG_LO_H) = some h →
    ∃ t, exec (.hgConfigWrite ch 3 w) s = .next t ∧ t.staged? .host (chBase ch + R.CH_HG_LO_H) = none ∧
      (s.hgLoFits ch = true → t.w (chBase ch + R.CH_HG_LO_H) = h ∧ t.w (chBase ch + R.CH_HG_LO_L) = w) ∧
      (s.hgLoFits ch = false → t.fb (chBase ch) F.CH_HG_STAT_CFG_REJ = true ∧ s.OnlyRegsOf .host t [chBase ch + R.CH_HG_STAT])) ∧
  -- HG_CONFIG_WRITE
  (∀ (s : State) (ch : Ch) (w : Word), s.Serves → s.fb (chBase ch) F.CH_HG_STAT_SVC_OWN = false →
    s.staged? .host (chBase ch + R.CH_HG_LO_H) = none → s.hgLoFits ch = true →
    ∃ t, exec (.hgConfigWrite ch 3 w) s = .next t ∧
      t.w (chBase ch + R.CH_HG_LO_H) = s.w (chBase ch + R.CH_HG_LO_H) ∧ t.w (chBase ch + R.CH_HG_LO_L) = w) ∧
  -- HG_CONFIG_WRITE
  (∀ (s : State) (ch : Ch) (reg : Fin 4) (w : Word), s.Serves → s.fb (chBase ch) F.CH_HG_STAT_SVC_OWN = true →
    ∃ t, exec (.hgConfigWrite ch reg w) s = .next t ∧ t.fb 0 F.DEV_SVC_STAT_WR_REJ = true ∧ s.OnlyRegsOf .host t [R.DEV_SVC_STAT]) ∧
  -- HG_CLR
  (∀ (s : State) (ch : Ch), s.Serves → s.fb (chBase ch) F.CH_HG_STAT_SVC_OWN = false →
    ∃ t, exec (.hgClr ch) s = .next t ∧ t.clk = (s.reach s.mclkNext).clk ∧ t.pair (chBase ch + R.CH_HG_TOT_H) = 0 ∧
      t.fb (chBase ch) F.CH_HG_STAT_CLR_BUSY = true ∧ (t.chan ch).hgClrAt = t.now ∧
      (∀ a, a < 2097152 → (s.hgSpan ch).1 ≤ a → a < (s.hgSpan ch).2 → t.lakeVal a (t.lakePhys a) = 0#32) ∧
      (∀ a, a < 2097152 → (a < (s.hgSpan ch).1 ∨ (s.hgSpan ch).2 ≤ a) → t.lakeVal a (t.lakePhys a) = s.lakeVal a (s.lakePhys a)) ∧
      (∀ a, a ∉ [chBase ch + R.CH_HG_TOT_H, chBase ch + R.CH_HG_TOT_H + 4, chBase ch + R.CH_HG_STAT] → t.w a = s.w a) ∧
      (∀ m : Ch, m ≠ ch → t.chan m = s.chan m) ∧ t.vat = s.vat ∧ t.flash = s.flash) ∧
  -- HG_SNAP
  (∀ (s : State) (ch : Ch), s.Serves → s.fb (chBase ch) F.CH_HG_STAT_SVC_OWN = false → s.actB ch F.CH_HG_CTL_DBUF = true →
    ∃ t, exec (.hgSnap ch) s = .next t ∧ t.clk = (s.reach s.mclkNext).clk ∧
      t.f (chBase ch) F.CH_HG_STAT_HALF = 1 - s.f (chBase ch) F.CH_HG_STAT_HALF ∧ t.fb (chBase ch) F.CH_HG_STAT_CLR_BUSY = true ∧
      (t.chan ch).hgSnapAt = t.now ∧ (t.chan ch).hgSnapOld = (s.chan ch).hgSnapAt ∧
      (∀ k, k < s.act ch F.CH_HG_NB_NB + 2 → s.act ch F.CH_HG_CTL_BASE * 16384 + (1 - s.f (chBase ch) F.CH_HG_STAT_HALF) *
          (s.act ch F.CH_HG_NB_NB + 2) + k < 2097152 →
        t.lakeVal (s.act ch F.CH_HG_CTL_BASE * 16384 + (1 - s.f (chBase ch) F.CH_HG_STAT_HALF) * (s.act ch F.CH_HG_NB_NB + 2) + k)
          (t.lakePhys (s.act ch F.CH_HG_CTL_BASE * 16384 + (1 - s.f (chBase ch) F.CH_HG_STAT_HALF) * (s.act ch F.CH_HG_NB_NB + 2) + k)) = 0#32) ∧
      (∀ a, a ≠ chBase ch + R.CH_HG_STAT → t.w a = s.w a) ∧ (∀ m : Ch, m ≠ ch → t.chan m = s.chan m) ∧ t.vat = s.vat) ∧
  -- HG_SNAP
  (∀ (s : State) (ch : Ch), s.Serves → (s.fb (chBase ch) F.CH_HG_STAT_SVC_OWN = true ∨ s.actB ch F.CH_HG_CTL_DBUF = false) →
    ∃ t, exec (.hgSnap ch) s = .next t ∧ t.fb (chBase ch) F.CH_HG_STAT_CMD_REJ = true ∧ (∀ a, a ≠ chBase ch + R.CH_HG_STAT → t.w a = s.w a) ∧
      t = { s with regs := t.regs, clk := (s.reach s.mclkNext).clk, paths := t.paths }) ∧
  -- HG_CLR
  (∀ (s : State) (ch : Ch), s.Serves → s.fb (chBase ch) F.CH_HG_STAT_SVC_OWN = true →
    ∃ t, exec (.hgClr ch) s = .next t ∧ t.fb (chBase ch) F.CH_HG_STAT_CMD_REJ = true ∧ (∀ a, a ≠ chBase ch + R.CH_HG_STAT → t.w a = s.w a) ∧
      t = { s with regs := t.regs, clk := (s.reach s.mclkNext).clk, paths := t.paths }) ∧
  -- CLR_SWEEP_DONE
  (∀ (s : State) (ch : Ch), ∃ t, exec (.clrSweepDone ch) s = .next t ∧ t.fb (chBase ch) F.CH_HG_STAT_CLR_BUSY = false ∧
    s.OnlyRegs t [chBase ch + R.CH_HG_STAT])

/-- A spare bank is mapped under guard, and once its copy is done it serves what its bank held. Rests on R176, R291,
R308, 08_lake. LAKE_SPARE_MAP, with the path's unlock, stores the map word of a spare whose copy does not run and
whose bank no other valid spare holds, and clears its DONE; else it sets CFG_REJ. LAKE_COPY_DONE of a spare that is
valid and not done sets DONE; every bin of the bank then stands in the spare, and reads as before or, with an
uncorrectable error, keeps it; of another spare it does nothing. -/
def Obligations.LakeSparesStandIn : Prop :=
  -- LAKE_SPARE_MAP
  (∀ (s : State) (path : Sys2Proof.Path) (sp : Spare) (w : Word), s.Serves → s.Writes path → s.Unlocked path →
    ∃ t, exec (.lakeSpareMap path sp w) s = .next t ∧
      (s.spValid sp.val = true → s.spDone sp.val = false → t.fb 0 F.DEV_LK_STAT_CFG_REJ = true ∧ t.tv = s.tv) ∧
      (F.DEV_LK_SPMAP_VALID.of w = 1 → (∃ q : Spare, q ≠ sp ∧ s.spValid q.val = true ∧ s.spBank q.val = F.DEV_LK_SPMAP_BANK.of w) →
        t.fb 0 F.DEV_LK_STAT_CFG_REJ = true ∧ t.tv = s.tv) ∧
      ((s.spValid sp.val = false ∨ s.spDone sp.val = true) →
        (F.DEV_LK_SPMAP_VALID.of w = 0 ∨ (∀ q : Spare, q ≠ sp → s.spValid q.val = false ∨ s.spBank q.val ≠ F.DEV_LK_SPMAP_BANK.of w)) →
        t.spDone sp.val = false ∧ (t.spValid sp.val = true ↔ F.DEV_LK_SPMAP_VALID.of w = 1) ∧
        t.spBank sp.val = F.DEV_LK_SPMAP_BANK.of w ∧ (∀ q : Spare, q ≠ sp → t.spBank q.val = s.spBank q.val)) ∧
      t.clk = s.clk ∧ s.SameMemory t ∧ s.SameEngines t) ∧
  -- LAKE_COPY_DONE
  (∀ (s : State) (sp : Spare), s.spValid sp.val = true → s.spDone sp.val = false → Memory.wf vatNone s.lake = true →
    (∀ q : Spare, q ≠ sp → s.spValid q.val = false ∨ s.spBank q.val ≠ s.spBank sp.val) →
    ∃ t, exec (.lakeCopyDone sp) s = .next t ∧ t.spDone sp.val = true ∧
      (∀ k, k < 16384 → s.lakeUE.contains (s.spBank sp.val * 16384 + k) = false →
        t.lakeVal (s.spBank sp.val * 16384 + k) (t.lakePhys (s.spBank sp.val * 16384 + k)) =
          s.lakeVal (s.spBank sp.val * 16384 + k) (s.spBank sp.val * 16384 + k)) ∧
      (∀ k, k < 16384 → s.lakeUE.contains (s.spBank sp.val * 16384 + k) = true → t.lakeUE.contains ((128 + sp.val) * 16384 + k) = true) ∧
      t.lakePhys (s.spBank sp.val * 16384) = (128 + sp.val) * 16384 ∧ t.clk = s.clk ∧ t.vat = s.vat ∧ t.chans = s.chans) ∧
  -- LAKE_COPY_DONE
  (∀ (s : State) (sp : Spare), (s.spValid sp.val = false ∨ s.spDone sp.val = true) →
    ∃ t, exec (.lakeCopyDone sp) s = .next t ∧ t = s)

/-- A write of a service's object queues one call and answers its handle. Rests on R177, R178, R261, R270, R271, R272,
R302, 08_lake, 12_object_dictionary. LEVEL, SHMOO, JITTER, LTADEV, CALSTORE and SELFTEST, with the dictionary served,
the device READY, a running image, no open transaction of the source and a parameter block of the service's length:
with fewer than 16 calls waiting the call joins the queue with the next handle, which the answer carries, and the
handle after it comes next; with 16 waiting the answer is BUSY. A block of another length is answered TYPE. Nothing
else changes. In an open transaction of the source the answer is ACCESS, and before READY or without a running image
it is BUSY, and no call is queued; while the dictionary is not served nothing happens. -/
def Obligations.ServiceCallsQueueInOrder : Prop :=
  -- LEVEL
  (∀ (s : State) (src : OdSrc) (params : List Byte), s.OdServes → (s.txnOf src).isSome = false →
    ∃ t, exec (.level src params) s = .next t ∧
      (params.length = 32 → (s.indigo.calls.filter fun (k : Call) => k.st == CallState.queued).length < 16 →
        t.od = { s.od with answer := (0, bytesBE 4 s.indigo.nextHandle) } ∧
        t.indigo.nextHandle = s.indigo.nextHandle % 65535 + 1 ∧
        t.indigo.calls.getLast? = some ({ handle := s.indigo.nextHandle, id := 1, params := params, st := .queued, core := none, claims := [], result := [], startAt := s.now, maxTime := field params 0 4, auto := false, lt := [] } : Call) ∧
        t.indigo.calls.filter (fun (k : Call) => k.active) = s.indigo.calls.filter (fun (k : Call) => k.active) ++ t.indigo.calls.drop (t.indigo.calls.length - 1)) ∧
      (params.length = 32 → 16 ≤ (s.indigo.calls.filter fun (k : Call) => k.st == CallState.queued).length →
        t.od = { s.od with answer := (1, bytesBE 4 0xFFFFFFFF) } ∧ t.indigo = s.indigo) ∧
      (params.length ≠ 32 → t.od = { s.od with answer := (5, []) } ∧ t.indigo = s.indigo) ∧
      t = { s with od := t.od, indigo := t.indigo }) ∧
  -- LEVEL
  (∀ (s : State) (src : OdSrc) (params : List Byte),
    ∃ t, exec (.level src params) s = .next t ∧ (s.indigo.serving = false → t = s) ∧
      (s.indigo.serving = true → (s.ready = false ∨ s.imageRuns = false) → t.od.answer.1 = 1 ∧ t.indigo = s.indigo ∧ t.regs = s.regs ∧ t.chans = s.chans) ∧
      (s.OdServes → (s.txnOf src).isSome = true → t = { s with od := { s.od with answer := (4, []) } })) ∧
  -- SHMOO
  (∀ (s : State) (src : OdSrc) (params : List Byte), s.OdServes → (s.txnOf src).isSome = false →
    ∃ t, exec (.shmoo src params) s = .next t ∧
      (params.length = 40 → (s.indigo.calls.filter fun (k : Call) => k.st == CallState.queued).length < 16 →
        t.od = { s.od with answer := (0, bytesBE 4 s.indigo.nextHandle) } ∧
        t.indigo.nextHandle = s.indigo.nextHandle % 65535 + 1 ∧
        t.indigo.calls.getLast? = some ({ handle := s.indigo.nextHandle, id := 2, params := params, st := .queued, core := none, claims := [], result := [], startAt := s.now, maxTime := field params 0 4, auto := false, lt := [] } : Call) ∧
        t.indigo.calls.filter (fun (k : Call) => k.active) = s.indigo.calls.filter (fun (k : Call) => k.active) ++ t.indigo.calls.drop (t.indigo.calls.length - 1)) ∧
      (params.length = 40 → 16 ≤ (s.indigo.calls.filter fun (k : Call) => k.st == CallState.queued).length →
        t.od = { s.od with answer := (1, bytesBE 4 0xFFFFFFFF) } ∧ t.indigo = s.indigo) ∧
      (params.length ≠ 40 → t.od = { s.od with answer := (5, []) } ∧ t.indigo = s.indigo) ∧
      t = { s with od := t.od, indigo := t.indigo }) ∧
  -- SHMOO
  (∀ (s : State) (src : OdSrc) (params : List Byte),
    ∃ t, exec (.shmoo src params) s = .next t ∧ (s.indigo.serving = false → t = s) ∧
      (s.indigo.serving = true → (s.ready = false ∨ s.imageRuns = false) → t.od.answer.1 = 1 ∧ t.indigo = s.indigo ∧ t.regs = s.regs ∧ t.chans = s.chans) ∧
      (s.OdServes → (s.txnOf src).isSome = true → t = { s with od := { s.od with answer := (4, []) } })) ∧
  -- JITTER
  (∀ (s : State) (src : OdSrc) (params : List Byte), s.OdServes → (s.txnOf src).isSome = false →
    ∃ t, exec (.jitter src params) s = .next t ∧
      (params.length = 32 → (s.indigo.calls.filter fun (k : Call) => k.st == CallState.queued).length < 16 →
        t.od = { s.od with answer := (0, bytesBE 4 s.indigo.nextHandle) } ∧
        t.indigo.nextHandle = s.indigo.nextHandle % 65535 + 1 ∧
        t.indigo.calls.getLast? = some ({ handle := s.indigo.nextHandle, id := 3, params := params, st := .queued, core := none, claims := [], result := [], startAt := s.now, maxTime := field params 0 4, auto := false, lt := [] } : Call) ∧
        t.indigo.calls.filter (fun (k : Call) => k.active) = s.indigo.calls.filter (fun (k : Call) => k.active) ++ t.indigo.calls.drop (t.indigo.calls.length - 1)) ∧
      (params.length = 32 → 16 ≤ (s.indigo.calls.filter fun (k : Call) => k.st == CallState.queued).length →
        t.od = { s.od with answer := (1, bytesBE 4 0xFFFFFFFF) } ∧ t.indigo = s.indigo) ∧
      (params.length ≠ 32 → t.od = { s.od with answer := (5, []) } ∧ t.indigo = s.indigo) ∧
      t = { s with od := t.od, indigo := t.indigo }) ∧
  -- JITTER
  (∀ (s : State) (src : OdSrc) (params : List Byte),
    ∃ t, exec (.jitter src params) s = .next t ∧ (s.indigo.serving = false → t = s) ∧
      (s.indigo.serving = true → (s.ready = false ∨ s.imageRuns = false) → t.od.answer.1 = 1 ∧ t.indigo = s.indigo ∧ t.regs = s.regs ∧ t.chans = s.chans) ∧
      (s.OdServes → (s.txnOf src).isSome = true → t = { s with od := { s.od with answer := (4, []) } })) ∧
  -- LTADEV
  (∀ (s : State) (src : OdSrc) (params : List Byte), s.OdServes → (s.txnOf src).isSome = false →
    ∃ t, exec (.ltadev src params) s = .next t ∧
      (params.length = 28 → (s.indigo.calls.filter fun (k : Call) => k.st == CallState.queued).length < 16 →
        t.od = { s.od with answer := (0, bytesBE 4 s.indigo.nextHandle) } ∧
        t.indigo.nextHandle = s.indigo.nextHandle % 65535 + 1 ∧
        t.indigo.calls.getLast? = some ({ handle := s.indigo.nextHandle, id := 4, params := params, st := .queued, core := none, claims := [], result := [], startAt := s.now, maxTime := field params 0 4, auto := false, lt := [] } : Call) ∧
        t.indigo.calls.filter (fun (k : Call) => k.active) = s.indigo.calls.filter (fun (k : Call) => k.active) ++ t.indigo.calls.drop (t.indigo.calls.length - 1)) ∧
      (params.length = 28 → 16 ≤ (s.indigo.calls.filter fun (k : Call) => k.st == CallState.queued).length →
        t.od = { s.od with answer := (1, bytesBE 4 0xFFFFFFFF) } ∧ t.indigo = s.indigo) ∧
      (params.length ≠ 28 → t.od = { s.od with answer := (5, []) } ∧ t.indigo = s.indigo) ∧
      t = { s with od := t.od, indigo := t.indigo }) ∧
  -- LTADEV
  (∀ (s : State) (src : OdSrc) (params : List Byte),
    ∃ t, exec (.ltadev src params) s = .next t ∧ (s.indigo.serving = false → t = s) ∧
      (s.indigo.serving = true → (s.ready = false ∨ s.imageRuns = false) → t.od.answer.1 = 1 ∧ t.indigo = s.indigo ∧ t.regs = s.regs ∧ t.chans = s.chans) ∧
      (s.OdServes → (s.txnOf src).isSome = true → t = { s with od := { s.od with answer := (4, []) } })) ∧
  -- CALSTORE
  (∀ (s : State) (src : OdSrc) (params : List Byte), s.OdServes → (s.txnOf src).isSome = false →
    ∃ t, exec (.calstore src params) s = .next t ∧
      (params.length = 12 → (s.indigo.calls.filter fun (k : Call) => k.st == CallState.queued).length < 16 →
        t.od = { s.od with answer := (0, bytesBE 4 s.indigo.nextHandle) } ∧
        t.indigo.nextHandle = s.indigo.nextHandle % 65535 + 1 ∧
        t.indigo.calls.getLast? = some ({ handle := s.indigo.nextHandle, id := 5, params := params, st := .queued, core := none, claims := [], result := [], startAt := s.now, maxTime := field params 0 4, auto := false, lt := [] } : Call) ∧
        t.indigo.calls.filter (fun (k : Call) => k.active) = s.indigo.calls.filter (fun (k : Call) => k.active) ++ t.indigo.calls.drop (t.indigo.calls.length - 1)) ∧
      (params.length = 12 → 16 ≤ (s.indigo.calls.filter fun (k : Call) => k.st == CallState.queued).length →
        t.od = { s.od with answer := (1, bytesBE 4 0xFFFFFFFF) } ∧ t.indigo = s.indigo) ∧
      (params.length ≠ 12 → t.od = { s.od with answer := (5, []) } ∧ t.indigo = s.indigo) ∧
      t = { s with od := t.od, indigo := t.indigo }) ∧
  -- CALSTORE
  (∀ (s : State) (src : OdSrc) (params : List Byte),
    ∃ t, exec (.calstore src params) s = .next t ∧ (s.indigo.serving = false → t = s) ∧
      (s.indigo.serving = true → (s.ready = false ∨ s.imageRuns = false) → t.od.answer.1 = 1 ∧ t.indigo = s.indigo ∧ t.regs = s.regs ∧ t.chans = s.chans) ∧
      (s.OdServes → (s.txnOf src).isSome = true → t = { s with od := { s.od with answer := (4, []) } })) ∧
  -- SELFTEST
  (∀ (s : State) (src : OdSrc) (params : List Byte), s.OdServes → (s.txnOf src).isSome = false →
    ∃ t, exec (.selftest src params) s = .next t ∧
      (params.length = 8 → (s.indigo.calls.filter fun (k : Call) => k.st == CallState.queued).length < 16 →
        t.od = { s.od with answer := (0, bytesBE 4 s.indigo.nextHandle) } ∧
        t.indigo.nextHandle = s.indigo.nextHandle % 65535 + 1 ∧
        t.indigo.calls.getLast? = some ({ handle := s.indigo.nextHandle, id := 6, params := params, st := .queued, core := none, claims := [], result := [], startAt := s.now, maxTime := field params 0 4, auto := false, lt := [] } : Call) ∧
        t.indigo.calls.filter (fun (k : Call) => k.active) = s.indigo.calls.filter (fun (k : Call) => k.active) ++ t.indigo.calls.drop (t.indigo.calls.length - 1)) ∧
      (params.length = 8 → 16 ≤ (s.indigo.calls.filter fun (k : Call) => k.st == CallState.queued).length →
        t.od = { s.od with answer := (1, bytesBE 4 0xFFFFFFFF) } ∧ t.indigo = s.indigo) ∧
      (params.length ≠ 8 → t.od = { s.od with answer := (5, []) } ∧ t.indigo = s.indigo) ∧
      t = { s with od := t.od, indigo := t.indigo }) ∧
  -- SELFTEST
  (∀ (s : State) (src : OdSrc) (params : List Byte),
    ∃ t, exec (.selftest src params) s = .next t ∧ (s.indigo.serving = false → t = s) ∧
      (s.indigo.serving = true → (s.ready = false ∨ s.imageRuns = false) → t.od.answer.1 = 1 ∧ t.indigo = s.indigo ∧ t.regs = s.regs ∧ t.chans = s.chans) ∧
      (s.OdServes → (s.txnOf src).isSome = true → t = { s with od := { s.od with answer := (4, []) } }))

/-- A call starts on a free core with its claims, and ends DONE, FAILED or ABORTED. Rests on R177, R178, R179, R180,
R181, R182, R184, R185, R187, R215, R270, R271. SERVICE_START runs the first call that can start on a free core, with
its channels claimed and their values kept, or ends it FAILED with the code of what it lacks; with no image it ends
FAILED 7. While no call may start nothing happens. SERVICE_DONE of a running call with its service's findings ends it
with its result behind the 8-byte head: LEVEL's rows, SHMOO's rows with its bins in the Lake, JITTER's values, or
FAILED 4 where four restarts found no whole collection, CALSTORE's loaded slot or FAILED 5, SELFTEST's verdicts with
UE where a bank failed. A JITTER that still collects, a CALSTORE that stores, another service's findings and a call
that does not run leave all as it is. What LEVEL tries and when JITTER gives up are the model's choices (assumptions
105 and 107). SERVICE_MAXTIME ends a running call with a limit ABORTED at that limit, and SERVICE_ABORT a queued or
running one at once, with what LTADEV had measured and with its flash store dropped; other handles are answered RANGE.
Every call that ends frees its core and releases its channels. -/
def Obligations.CallsRunFinishAndAbort : Prop :=
  -- SERVICE_START
  (∀ (s : State) (k : Call), s.fb 0 F.DEV_SVC_STAT_NOIMG = true → s.nextCall = some k →
    ∃ t, exec .serviceStart s = .next t ∧ (t.call? k.handle).map Call.st = some (CallState.failed 7)) ∧
  -- SERVICE_START
  (∀ (s : State) (k : Call) (core : Fin 8), s.fb 0 F.DEV_SVC_STAT_NOIMG = false → s.svcOpen = true → s.nextCall = some k →
    s.freeCore = some core →
    (s.modCall k.handle fun q => { q with st := .running, core := some core, startAt := s.now }).svcFails k = none →
    ∃ t, exec .serviceStart s = .next t ∧ (t.call? k.handle).map Call.st = some CallState.running ∧
      (t.call? k.handle).map Call.core = some (some core) ∧ (t.call? k.handle).map Call.startAt = some s.now ∧
      (t.call? k.handle).map Call.claims = some (k.claimChs.map fun n => (n, s.saveClaim n)) ∧
      (∀ n ∈ k.claimChs, t.fb (chBase n) F.CH_HG_STAT_SVC_OWN = true) ∧
      (k.id = 5 → k.p 8 1 = 0 → t.stores.map FlashStore.kind = s.stores.map FlashStore.kind ++ [StoreKind.cal k.handle]) ∧
      ((k.id ≠ 5 ∨ k.p 8 1 ≠ 0) → t.stores = s.stores)) ∧
  -- SERVICE_START
  (∀ (s : State) (k : Call) (core : Fin 8) (c : Nat), s.fb 0 F.DEV_SVC_STAT_NOIMG = false → s.svcOpen = true → s.nextCall = some k →
    s.freeCore = some core → (s.modCall k.handle fun q => { q with st := .running, core := some core, startAt := s.now }).svcFails k = some c →
    ∃ t, exec .serviceStart s = .next t ∧ (t.call? k.handle).map Call.st = some (CallState.failed c) ∧ (t.call? k.handle).map Call.core = some none) ∧
  -- SERVICE_START
  (∀ (s : State), (s.nextCall = none ∨ (s.fb 0 F.DEV_SVC_STAT_NOIMG = false ∧ (s.svcOpen = false ∨ s.freeCore = none))) →
    ∃ t, exec .serviceStart s = .next t ∧ t = s) ∧
  -- SERVICE_DONE
  (∀ (s : State) (handle : Nat) (probes : List Probe) (failed taken : List (Nat × Nat)) (k : Call), s.call? handle = some k → k.st = .running → k.id = 1 →
    ∃ t, exec (.serviceDone handle (.level probes) failed taken) s = .next t ∧
      t.CallEnded handle k .done (s.reach k.stepsEnd).now (k.claimChs.flatMap (levelRow probes)) ∧
      (k.claims = [] → t.chans = s.chans ∧ t.clk = (s.reach k.stepsEnd).clk ∧ s.SameMemory t)) ∧
  -- SERVICE_DONE
  (∀ (s : State) (handle : Nat) (rows : List ShmooRow) (failed taken : List (Nat × Nat)) (k : Call), s.call? handle = some k → k.st = .running → k.id = 2 →
    ∃ t, exec (.serviceDone handle (.shmoo rows) failed taken) s = .next t ∧ t.CallEnded handle k .done (s.reach k.stepsEnd).now (k.shmoo rows).2 ∧
      t.lake = ((s.reach k.stepsEnd).forAll k.claimChs fun n s => s.svcBins n (k.shmoo rows).1).lake ∧
      (k.claims = [] → t.chans = s.chans ∧ t.clk = (s.reach k.stepsEnd).clk ∧ t.vat = s.vat ∧ t.flash = s.flash ∧ t.cal = s.cal)) ∧
  -- SERVICE_DONE
  (∀ (s : State) (handle : Nat) (segs : List (List Int)) (ties : List Int) (rj dj : Rat) (lines : List (Rat × Rat))
    (failed taken : List (Nat × Nat)) (k : Call),
    s.call? handle = some k → k.st = .running → k.id = 3 →
    ∃ t, exec (.serviceDone handle (.jitter segs ties rj dj lines) failed taken) s = .next t ∧
      (k.collected segs = none → t = s) ∧
      (k.collected segs = some false → t.CallEnded handle k (.failed 4) s.now [] ∧ t.lake = s.lake) ∧
      (k.collected segs = some true → t.CallEnded handle k .done s.now (k.jitterBytes rj dj lines) ∧
        t.lake = (s.forAll k.claimChs fun n s => s.svcBins n (s.jitterBins n ties)).lake) ∧
      (k.claims = [] → t.chans = s.chans ∧ t.clk = s.clk ∧ t.vat = s.vat ∧ t.flash = s.flash ∧ t.cal = s.cal)) ∧
  -- SERVICE_DONE
  (∀ (s : State) (handle : Nat) (failed taken : List (Nat × Nat)) (k : Call), s.call? handle = some k → k.st = .running → k.id = 5 →
    ∃ t, exec (.serviceDone handle .loaded failed taken) s = .next t ∧ (k.p 8 1 = 0 → t = s) ∧
      (k.p 8 1 ≠ 0 → (s.calClass (k.p 8 1 - 1)).1 ≠ SlotClass.valid → t.CallEnded handle k (.failed 5) s.now [] ∧ t.cal = s.cal ∧
        ((s.calClass (k.p 8 1 - 1)).1 = SlotClass.torn → t.fb 0 F.CAL_STAT_CAL_SLOT_TORN = true) ∧
        ((s.calClass (k.p 8 1 - 1)).1 = SlotClass.foreign → t.fb 0 F.CAL_STAT_ID_MISMATCH = true)) ∧
      (k.p 8 1 ≠ 0 → (s.calClass (k.p 8 1 - 1)).1 = SlotClass.valid →
        t.CallEnded handle k .done s.now (calResult (k.p 8 1 - 1 + 1) (s.slotSeq (calSlot (k.p 8 1 - 1)))) ∧
        (k.p 8 1 ≤ 2 → t.f 0 F.CAL_STAT_SLOT = k.p 8 1) ∧ t.cal = (s.loadCal (s.calClass (k.p 8 1 - 1)).2).cal)) ∧
  -- SERVICE_DONE
  (∀ (s : State) (handle : Nat) (failed taken : List (Nat × Nat)) (k : Call), s.call? handle = some k → k.st = .running → k.id = 6 →
    ∃ t, exec (.serviceDone handle .selftest failed taken) s = .next t ∧
      t.CallEnded handle k .done s.now (s.testable.flatMap fun (r : Nat × Nat) => bytesBE 1 r.1 ++ bytesBE 1 (selfVerdict failed taken r) ++ bytesBE 2 r.2) ∧
      ((s.testable.any fun (r : Nat × Nat) => r.1 == 0 && selfVerdict failed taken r == 1) = true → t.fb 0 F.DEV_LK_STAT_UE = true) ∧
      (k.claims = [] → t.chans = s.chans ∧ t.clk = s.clk ∧ s.SameMemory t)) ∧
  -- SERVICE_DONE
  (∀ (s : State) (handle : Nat) (seen : SvcSeen) (failed taken : List (Nat × Nat)),
    ((s.call? handle).all fun (k : Call) => k.st != CallState.running || k.id != seen.service) = true →
    ∃ t, exec (.serviceDone handle seen failed taken) s = .next t ∧ t = s) ∧
  -- SERVICE_MAXTIME
  (∀ (s : State) (handle : Nat) (k : Call) (ms : Nat), s.call? handle = some k → k.st = .running → k.limit = some ms →
    ∃ t, exec (.serviceMaxtime handle) s = .next t ∧ t.CallEnded handle k .aborted (s.reach (k.startAt + ms * tkMs)).now k.stopped ∧
      (s.stores.head?.map FlashStore.kind = some (StoreKind.cal handle) → t.stores = s.stores.tail) ∧
      (k.claims = [] → t.clk = (s.reach (k.startAt + ms * tkMs)).clk ∧ t.chans = s.chans ∧
        (s.stores = [] → s.SameMemory t))) ∧
  -- SERVICE_MAXTIME
  (∀ (s : State) (handle : Nat), ((s.call? handle).all fun (k : Call) => k.st != CallState.running || k.limit == none) = true →
    ∃ t, exec (.serviceMaxtime handle) s = .next t ∧ t = s) ∧
  -- SERVICE_ABORT
  (∀ (s : State) (src : OdSrc) (handle : Word) (k : Call), s.OdServes → s.call? handle.toNat = some k → k.active = true →
    ∃ t, exec (.serviceAbort src handle) s = .next t ∧ t.CallEnded handle.toNat k .aborted s.now k.stopped ∧ t.od = { s.od with answer := (0, []) } ∧
      (s.stores.head?.map FlashStore.kind = some (StoreKind.cal handle.toNat) → t.stores = s.stores.tail) ∧
      (k.claims = [] → t.clk = s.clk ∧ t.chans = s.chans ∧ (s.stores = [] → s.SameMemory t))) ∧
  -- SERVICE_ABORT
  (∀ (s : State) (src : OdSrc) (handle : Word), s.OdServes → ((s.call? handle.toNat).all fun (k : Call) => !k.active) = true →
    ∃ t, exec (.serviceAbort src handle) s = .next t ∧ t = { s with od := { s.od with answer := (6, []) } }) ∧
  -- SERVICE_ABORT
  (∀ (s : State) (src : OdSrc) (handle : Word),
    ∃ t, exec (.serviceAbort src handle) s = .next t ∧ (s.indigo.serving = false → t = s) ∧
      (s.indigo.serving = true → (s.ready = false ∨ s.imageRuns = false) → t.od.answer.1 = 1 ∧ t.indigo = s.indigo ∧ t.regs = s.regs ∧ t.chans = s.chans))

/-- A written image is checked and stored, and a live update moves the cores one by one or goes back. Rests on R187,
R188, R189, R261, 08_lake. IMAGE_WRITE with no live update under way keeps the outcome of R188's check in OD 0x7202
and queues the image's store to the slot not in use; during one it is answered BUSY. LIVE_UPDATE with a checked and
stored image and a drain of at most 10,000 ms starts the update to the other slot, and idle cores below 6 move at
once; else it is answered RANGE. LIVE_UPDATE_DRAIN ends the running calls at the deadline and moves their cores; when
all have moved and the deadline has passed nothing is left to do. LIVE_UPDATE_CORE_SWAP moves core 6 and then core 7,
which runs the new slot; another core, another count or no update stands. LIVE_UPDATE_CHECK ends the update once all
cores have moved, or on a failure goes back with REVERT set; going back it does nothing. Before READY the objects are
answered BUSY, and unserved they stand. -/
def Obligations.ImagesAndLiveUpdatesProceed : Prop :=
  -- IMAGE_WRITE
  (∀ (s : State) (src : OdSrc) (bytes : List Byte), s.indigo.serving = true → s.ready = true →
    ∃ t, exec (.imageWrite src bytes) s = .next t ∧
      (s.indigo.live = none → t.indigo = { s.indigo with imgOutcome := imageCheck s.fuses bytes, imgReady := false } ∧ t.od = { s.od with answer := (0, []) } ∧
        t.stores = s.stores ++ [({ kind := .image, base := imgSlot (s.otherSlot - 1), header := bytes.take 256, body := (bytes.drop 256).take (slotSize 0x400000 - 256) } : FlashStore)]) ∧
      (s.indigo.live.isSome = true → t = { s with od := { s.od with answer := (1, bytesBE 4 0xFFFFFFFF) } }) ∧ t.clk = s.clk ∧ t.chans = s.chans) ∧
  -- LIVE_UPDATE
  (∀ (s : State) (src : OdSrc) (drain : Word), s.indigo.serving = true → s.ready = true →
    ∃ t, exec (.liveUpdate src drain) s = .next t ∧
      (drain.toNat ≤ 10000 → s.indigo.imgReady = true → s.indigo.live = none →
        t.indigo.live.map LiveUpdate.target = some s.otherSlot ∧ t.indigo.live.map LiveUpdate.drainBy = some (s.now + drain.toNat * tkMs) ∧
        t.indigo.live.map LiveUpdate.back = some false ∧
        (∀ c : Fin 8, (t.indigo.live.map fun (x : LiveUpdate) => x.swapped.contains c) = some (decide (c.val < 6) && !(s.indigo.calls.any fun (k : Call) => k.st == CallState.running && k.core == some c))) ∧
        t.indigo.imgReady = false ∧ t.indigo.prevSlot = s.f 0 F.DEV_SVC_STAT_SLOT ∧ t.od = { s.od with answer := (0, []) }) ∧
      ((10000 < drain.toNat ∨ s.indigo.imgReady = false ∨ s.indigo.live.isSome = true) →
        t = { s with od := { s.od with answer := (6, []) } }) ∧
      t.indigo.calls = s.indigo.calls ∧ t = { s with indigo := t.indigo, od := t.od }) ∧
  -- IMAGE_WRITE
  (∀ (s : State) (src : OdSrc) (bytes : List Byte),
    ∃ t, exec (.imageWrite src bytes) s = .next t ∧ (s.indigo.serving = false → t = s) ∧
      (s.indigo.serving = true → s.ready = false → t.od.answer.1 = 1 ∧ t.indigo = s.indigo ∧ t.stores = s.stores ∧ t.regs = s.regs)) ∧
  -- LIVE_UPDATE
  (∀ (s : State) (src : OdSrc) (drain : Word),
    ∃ t, exec (.liveUpdate src drain) s = .next t ∧ (s.indigo.serving = false → t = s) ∧
      (s.indigo.serving = true → s.ready = false → t.od.answer.1 = 1 ∧ t.indigo = s.indigo ∧ t.regs = s.regs)) ∧
  -- LIVE_UPDATE_DRAIN
  (∀ (s : State) (u : LiveUpdate), s.indigo.live = some u → (u.swapped.length < 6 ∨ s.now < u.drainBy) →
    ∃ t, exec .liveUpdateDrain s = .next t ∧ (∀ k ∈ t.indigo.calls, k.st ≠ CallState.running) ∧
      (∀ c : Fin 8, c.val < 6 → (t.indigo.live.map fun (x : LiveUpdate) => x.swapped.contains c) = some true) ∧
      ((∀ k ∈ s.indigo.calls, k.claims = []) → t.clk = (s.reach u.drainBy).clk ∧ t.chans = s.chans)) ∧
  -- LIVE_UPDATE_DRAIN
  (∀ (s : State), (s.indigo.live.all fun (u : LiveUpdate) => decide (6 ≤ u.swapped.length) && decide (u.drainBy ≤ s.now)) = true →
    ∃ t, exec .liveUpdateDrain s = .next t ∧ t = s) ∧
  -- LIVE_UPDATE_CORE_SWAP
  (∀ (s : State) (u : LiveUpdate), s.indigo.live = some u → u.swapped.length = 6 →
    ∃ t, exec (.liveUpdateCoreSwap 6) s = .next t ∧ t.indigo = { s.indigo with live := some { u with swapped := u.swapped ++ [6] } } ∧
      t.clk = (s.reach (u.drainBy + 20 * tkMs)).clk ∧ t = { s with clk := t.clk, indigo := t.indigo }) ∧
  -- LIVE_UPDATE_CORE_SWAP
  (∀ (s : State) (u : LiveUpdate), s.indigo.live = some u → u.swapped.length = 7 →
    ∃ t, exec (.liveUpdateCoreSwap 7) s = .next t ∧ t.f 0 F.DEV_SVC_STAT_SLOT = u.target % 4 ∧
      t.fb 0 F.DEV_SVC_STAT_NOIMG = decide (u.target = 0) ∧
      (u.back = false → t.indigo = { s.indigo with live := some { u with swapped := u.swapped ++ [7] } }) ∧ (u.back = true → t.indigo = { s.indigo with live := none }) ∧
      t.clk = (s.reach (u.drainBy + 40 * tkMs)).clk ∧ (∀ a, a ∉ [R.DEV_SVC_STAT, R.DEV_SVC_VER] → t.w a = s.w a) ∧
      t = { s with regs := t.regs, clk := t.clk, indigo := t.indigo }) ∧
  -- LIVE_UPDATE_CORE_SWAP
  (∀ (s : State) (core : Fin 8), (s.indigo.live.all fun (u : LiveUpdate) => !(core.val == 6 && u.swapped.length == 6) && !(core.val == 7 && u.swapped.length == 7)) = true →
    ∃ t, exec (.liveUpdateCoreSwap core) s = .next t ∧ t = s) ∧
  -- LIVE_UPDATE_CHECK
  (∀ (s : State) (u : LiveUpdate) (ok : Bool), s.indigo.live = some u → u.back = false →
    ∃ t, exec (.liveUpdateCheck ok) s = .next t ∧
      (ok = true → u.swapped.length = 8 → t = { s with indigo := { s.indigo with live := none } }) ∧
      (ok = true → u.swapped.length ≠ 8 → t = s) ∧
      (ok = false → t.fb 0 F.DEV_SVC_STAT_REVERT = true ∧ t.indigo.live.map LiveUpdate.target = some s.indigo.prevSlot ∧
        t.indigo.live.map LiveUpdate.back = some true ∧ t.indigo.live.map LiveUpdate.drainBy = some (s.now + u.drain * tkMs) ∧
        (∀ a, a ≠ R.DEV_SVC_STAT → t.w a = s.w a)) ∧
      t = { s with regs := t.regs, indigo := t.indigo }) ∧
  -- LIVE_UPDATE_CHECK
  (∀ (s : State) (ok : Bool), (s.indigo.live.all fun (u : LiveUpdate) => u.back) = true → ∃ t, exec (.liveUpdateCheck ok) s = .next t ∧ t = s)

/-- A missed heartbeat restarts a core, both restart all of Indigo, and the dictionary returns after the restart.
Rests on R187, R268, R314, 08_lake, 14_startup. HEARTBEAT_MISS of core 6 or 7 sets IND_WDOG and restarts that core
while the other serves; while the other core restarts too, all of Indigo restarts: the dictionary is unserved, a live
update ends and no call stays running. On the third restart within an hour under AUTO_ISLOT all of Indigo restarts on
the other slot where its image is valid, with IND_SLOT, and else under the boot responder. A heartbeat of a core below
6, of one that already restarts or while all restart does nothing more. SERVICE_STOP_TIMEOUT of a core below 6
restarts all of Indigo unless it restarts already. INDIGO_RESTART_DONE ends the restart, a core's 20 ms after it
began, and the dictionary is served again: a request that waits in the mailbox is served; with no restart under way
only that. -/
def Obligations.WatchdogRestartsIndigo : Prop :=
  -- HEARTBEAT_MISS
  (∀ (s : State) (core : Fin 8), 6 ≤ core.val → s.indigo.restarting = none → s.thirdRestart = false →
    ∃ t, exec (.heartbeatMiss core) s = .next t ∧ t.fb 0 F.DEV_FLT_IND_WDOG = true ∧
      t.indigo = { s.indigo with restarting := some (some core), restarts := s.now :: s.indigo.restarts.filter fun t => decide (s.now < t + 3600 * tkSec) } ∧
      (∀ a, a ≠ R.DEV_FLT → t.w a = s.w a) ∧ t = { s with regs := t.regs, indigo := t.indigo }) ∧
  -- HEARTBEAT_MISS
  (∀ (s : State) (core : Fin 8), 6 ≤ core.val → ((s.indigo.restarting = none ∧ s.thirdRestart = true) ∨ ((s.indigo.restarting.bind id).any fun c => c != core) = true) →
    ∃ t, exec (.heartbeatMiss core) s = .next t ∧ t.fb 0 F.DEV_FLT_IND_WDOG = true ∧ t.indigo.restarting = some none ∧
      t.indigo.serving = false ∧ t.indigo.live = none ∧ (∀ k ∈ t.indigo.calls, k.st ≠ CallState.running) ∧ s.SlotMoved t) ∧
  -- HEARTBEAT_MISS
  (∀ (s : State) (core : Fin 8), (core.val < 6 ∨ s.indigo.restarting = some (some core) ∨ s.indigo.restarting = some none) →
    ∃ t, exec (.heartbeatMiss core) s = .next t ∧ t = s) ∧
  -- SERVICE_STOP_TIMEOUT
  (∀ (s : State) (core : Fin 8), core.val < 6 → s.indigo.restarting ≠ some none →
    ∃ t, exec (.serviceStopTimeout core) s = .next t ∧ t.fb 0 F.DEV_FLT_IND_WDOG = true ∧ t.indigo.restarting = some none ∧
      t.indigo.serving = false ∧ t.indigo.live = none ∧ (∀ k ∈ t.indigo.calls, k.st ≠ CallState.running) ∧ s.SlotMoved t) ∧
  -- SERVICE_STOP_TIMEOUT
  (∀ (s : State) (core : Fin 8), (6 ≤ core.val ∨ s.indigo.restarting = some none) → ∃ t, exec (.serviceStopTimeout core) s = .next t ∧ t = s) ∧
  -- INDIGO_RESTART_DONE
  (∀ (s : State) (r : Option (Fin 8)), s.indigo.restarting = some r → s.od.mailbox = none →
    ∃ t, exec .indigoRestartDone s = .next t ∧ t.indigo = { s.indigo with restarting := none, serving := true } ∧
      (r.isSome = true → t.clk = (s.reach (s.indigo.restarts.headD s.now + 20 * tkMs)).clk) ∧ (r = none → t.clk = s.clk) ∧
      t = { s with clk := t.clk, indigo := t.indigo }) ∧
  -- INDIGO_RESTART_DONE
  (∀ (s : State) (r : Option (Fin 8)), s.indigo.restarting = some r → s.od.mailbox.isSome = true →
    ∃ t, exec .indigoRestartDone s = .next t ∧
      t = ({ (if r.isSome then s.reach (s.indigo.restarts.headD s.now + 20 * tkMs) else s) with indigo := { s.indigo with restarting := none, serving := true } } : State).serveMailbox) ∧
  -- INDIGO_RESTART_DONE
  (∀ (s : State), s.indigo.restarting = none →
    ∃ t, exec .indigoRestartDone s = .next t ∧ t = s.serveMailbox ∧ ((s.od.mailbox = none ∨ s.indigo.serving = false) → t = s))

/-- Readings, times and commands raise causes; an event takes a slot; ABORT abandons. Rests on R204, R207, R208, R209,
R210, R216, R318, 09_calibration. BOOT_CAL_DONE, once the calibration slot is chosen and time runs, writes what each
side's and each threshold's measurement gave, leaves a side that fails as it was with its FAIL bit, sets BOOT_DONE
and, with NOSNAP and ASTORE set, stores. THERMAL_READ keeps the readings, shows the hottest, counts time above 105
degC and raises TEMP, with the parts concerned, where a drift exceeds CAL_DT. CAL_TIME_DUE raises TIME with both parts
once a sampler part has ever been completed. CAL_RUN raises CMD on every selected front end, or sets CMD_REJ where
HOLD forbids it; CAL_ABORT ends the selected events. CAL_EVENT_START gives the next event a slot and starts its offset
measurement, or, where no sampler part is due or the standby side has failed, its threshold part by the first open
route, or ends it; a threshold part that waits tries its routes again; else nothing happens. AUTO_STORE at a multiple
of ASTORE hours from that end queues Ochre's own CALSTORE, or sets STORE_FAIL; with ASTORE = 0 or before that end it
does nothing. -/
def Obligations.CalibrationCausesAreRaised : Prop :=
  -- BOOT_CAL_DONE
  (∀ (s : State) (sides : List BootSide) (thresholds : List (FrontEnd × ThrVals)), s.fb 0 F.CAL_STAT_BOOT_DONE = false →
    s.boot.calChosen = true → s.clk.running = true →
    ∃ t, exec (.bootCalDone sides thresholds) s = .next t ∧ t.fb 0 F.CAL_STAT_BOOT_DONE = true ∧ t.boot.calEnd = some (s.now, s.now) ∧
      ((s.fb 0 F.CAL_STAT_NOSNAP = false ∨ s.f 0 F.CAL_CTL_ASTORE = 0) → t.indigo = s.indigo) ∧
      (s.fb 0 F.CAL_STAT_NOSNAP = true → s.f 0 F.CAL_CTL_ASTORE ≠ 0 → s.imageRuns = true → (s.indigo.calls.filter fun (k : Call) => k.st == CallState.queued).length < 16 →
        t.indigo.calls.getLast?.map (fun (k : Call) => (k.id, k.auto, k.handle)) = some (5, true, s.indigo.nextHandle)) ∧
      t.clk = s.clk ∧ t.chans = s.chans ∧ t.vat = s.vat) ∧
  -- BOOT_CAL_DONE
  (∀ (s : State) (f : FrontEnd) (v : ThrVals), s.fb 0 F.CAL_STAT_BOOT_DONE = false → s.boot.calChosen = true → s.clk.running = true →
    s.feFused f = false →
    ∃ t, exec (.bootCalDone [] [(f, v)]) s = .next t ∧ s.ThrWritten f v t ∧ (∀ g : FrontEnd, g ≠ f → t.fe g = s.fe g) ∧
      (∀ a, a ∉ [R.CAL_STAT, feBase f + R.CH_CAL_STAT] → t.w a = s.w a)) ∧
  -- BOOT_CAL_DONE
  (∀ (s : State) (r : BootSide), s.fb 0 F.CAL_STAT_BOOT_DONE = false → s.boot.calChosen = true → s.clk.running = true → s.feFused r.fe = false →
    ∃ t, exec (.bootCalDone [r] []) s = .next t ∧
      t.cal = (((((s.setCal (samplerBlock r.fe r.side + 192) (i32Word r.ofssR)).setCal (samplerBlock r.fe r.side + 193) (i32Word r.ofssF)).bootCollect r.fe r.side 3 false false r.collections).getD s)).cal ∧
      ((((s.setCal (samplerBlock r.fe r.side + 192) (i32Word r.ofssR)).setCal (samplerBlock r.fe r.side + 193) (i32Word r.ofssF)).bootCollect r.fe r.side 3 false false r.collections).isNone = true →
        t.fb (feBase r.fe) (failFld r.side) = true)) ∧
  -- BOOT_CAL_DONE
  (∀ (s : State) (sides : List BootSide) (thresholds : List (FrontEnd × ThrVals)),
    (s.fb 0 F.CAL_STAT_BOOT_DONE = true ∨ s.boot.calChosen = false ∨ s.clk.running = false) →
    ∃ t, exec (.bootCalDone sides thresholds) s = .next t ∧ t = s) ∧
  -- THERMAL_READ
  (∀ (s : State) (temps : List Int),
    ∃ t, exec (.thermalRead temps) s = .next t ∧ t.temps = s.readings temps ∧
      t.f 0 F.DEV_WEAR_TJ_TJNOW = satSigned 16 ((s.readings temps).foldl max ((s.readings temps).headD 0)) ∧
      ((temps.take 12).all goodTj = false → t.fb 0 F.DEV_FLT_SENS_FAIL = true) ∧
      t.hotMs = (if (s.readings temps).any (fun x => decide (10500 < x)) then s.hotMs + 1 else 0) ∧
      (1000 ≤ t.hotMs → t.fb 0 F.DEV_FLT_OVERTEMP = true) ∧
      (∀ f : FrontEnd, s.fb 0 F.CAL_CTL_EN = true → s.feFused f = false → s.calHold f = false →
        beyond (s.f 0 F.CAL_DT_DT) ((s.readings temps).getD (feCluster f) 0) (s.tjSampler f) = true →
        (t.fe f).needS = true ∧ (t.f (feBase f) F.CH_CAL_STAT_CAUSE).testBit causeTemp = true) ∧
      (∀ f : FrontEnd, s.fb 0 F.CAL_CTL_EN = true → s.feFused f = false → s.calHold f = false →
        beyond (s.f 0 F.CAL_DT_DT) ((s.readings temps).getD (feCluster f) 0) (s.tjThreshold f) = true →
        (t.fe f).needT = true ∧ (t.f (feBase f) F.CH_CAL_STAT_CAUSE).testBit causeTemp = true) ∧
      (s.fb 0 F.CAL_CTL_EN = false → t.fes = s.fes) ∧ t.clk = s.clk ∧ t.chans = s.chans ∧ s.SameMemory t) ∧
  -- CAL_TIME_DUE
  (∀ (s : State) (fe : FrontEnd), ((s.fe fe).lastA ≠ none ∨ (s.fe fe).lastB ≠ none) → s.fb 0 F.CAL_CTL_EN = true →
    s.feFused fe = false → s.calHold fe = false →
    ∃ t, exec (.calTimeDue fe) s = .next t ∧
      t.clk = (s.reach (max ((s.fe fe).lastA.getD 0) ((s.fe fe).lastB.getD 0) + s.f 0 F.CAL_TMAX_TMAX * tkSec)).clk ∧
      (t.fe fe).needS = true ∧ (t.fe fe).needT = true ∧ (t.f (feBase fe) F.CH_CAL_STAT_CAUSE).testBit causeTime = true ∧
      ((s.fe fe).running = false → t.calPhase fe = phWait) ∧
      (∀ g : FrontEnd, g ≠ fe → t.fe g = s.fe g) ∧ (∀ a, a ≠ feBase fe + R.CH_CAL_STAT → t.w a = s.w a) ∧
      t = { s with regs := t.regs, fes := t.fes, clk := t.clk }) ∧
  -- CAL_TIME_DUE
  (∀ (s : State) (fe : FrontEnd),
    ∃ t, exec (.calTimeDue fe) s = .next t ∧ ((s.fe fe).lastA = none → (s.fe fe).lastB = none → t = s) ∧
      ((s.fb 0 F.CAL_CTL_EN = false ∨ s.feFused fe = true ∨ s.calHold fe = true) → t = { s with clk := t.clk })) ∧
  -- CAL_RUN
  (∀ (s : State) (sonly : Bool), s.Serves →
    ∃ t, exec (.calRun sonly) s = .next t ∧
      (∀ f : FrontEnd, s.calMasked f = true → s.feFused f = false → s.calHold f = false →
        (t.f (feBase f) F.CH_CAL_STAT_CAUSE).testBit causeCmd = true ∧ (t.fe f).needS = true ∧ (sonly = false → (t.fe f).needT = true) ∧
        ((s.fe f).running = false → t.calPhase f = phWait)) ∧
      (∀ f : FrontEnd, s.calMasked f = true → s.feFused f = false → s.calHold f = true →
        t.fb (feBase f) F.CH_CAL_STAT_CMD_REJ = true ∧ t.fe f = s.fe f) ∧
      (∀ f : FrontEnd, s.calMasked f = false ∨ s.feFused f = true → t.fe f = s.fe f) ∧ t.clk = s.clk ∧
      t = { s with regs := t.regs, fes := t.fes, paths := t.paths }) ∧
  -- CAL_ABORT
  (∀ (s : State), s.Serves →
    ∃ t, exec .calAbort s = .next t ∧
      (∀ f : FrontEnd, s.calMasked f = true → s.feFused f = false →
        (t.fe f).running = false ∧ ((s.fe f).running = true → (t.fe f).slot = false ∧ (t.fe f).needS = false ∧ (t.fe f).needT = false ∧
          t.fb (feBase f) F.CH_CAL_STAT_ABORTED = true ∧ t.calPhase f = phNone ∧ t.f (feBase f) F.CH_CAL_STAT_CAUSE = 0)) ∧
      (∀ f : FrontEnd, s.calMasked f = false ∨ s.feFused f = true → t.fe f = s.fe f) ∧ t.clk = s.clk ∧ s.SameMemory t) ∧
  -- CAL_EVENT_START
  (∀ (s : State) (fe : FrontEnd), s.calNext fe = true → s.calSlots < 16 → (s.fe fe).needS = true → s.f (feBase fe) (failFld (s.standby fe)) = 0 →
    ∃ t, exec (.calEventStart fe) s = .next t ∧ (t.fe fe).running = true ∧ (t.fe fe).slot = true ∧ t.calPhase fe = phOffset ∧
      (t.fe fe).side = (s.fe fe).side ∧ (t.fe fe).trims = 0 ∧ (t.fe fe).tested = false ∧ (t.fe fe).kept.map Prod.fst = some (s.sideWords fe (s.standby fe)) ∧
      (∀ g : FrontEnd, g ≠ fe → t.fe g = s.fe g) ∧
      (∀ a, a ≠ feBase fe + R.CH_CAL_STAT → t.w a = s.w a) ∧ t = { s with regs := t.regs, fes := t.fes }) ∧
  -- CAL_EVENT_START
  (∀ (s : State) (fe : FrontEnd), s.calNext fe = true → s.calSlots < 16 → ((s.fe fe).needS = false ∨ s.f (feBase fe) (failFld (s.standby fe)) ≠ 0) →
    ∃ t, exec (.calEventStart fe) s = .next t ∧ (t.fe fe).needS = false ∧ ((s.fe fe).needT = true → s.ThrStarted fe true t) ∧
      ((s.fe fe).needT = false → (t.fe fe).running = false ∧ (t.fe fe).slot = false ∧ t.calPhase fe = phNone ∧ t.f (feBase fe) F.CH_CAL_STAT_CAUSE = 0 ∧
        t.pair R.CAL_EVT_H = (s.pair R.CAL_EVT_H + 1) % 2 ^ 64) ∧ t.clk = s.clk ∧ s.SameMemory t) ∧
  -- CAL_EVENT_START
  (∀ (s : State) (fe : FrontEnd), (s.fe fe).running = true → (s.fe fe).needT = true → (s.fe fe).needS = false → s.calPhase fe = phWait →
    ∃ t, exec (.calEventStart fe) s = .next t ∧ s.ThrStarted fe (decide (s.calSlots < 16)) t ∧ t.clk = s.clk ∧ s.SameMemory t) ∧
  -- CAL_EVENT_START
  (∀ (s : State) (fe : FrontEnd), ((s.fe fe).running = false ∨ (s.fe fe).needT = false ∨ (s.fe fe).needS = true ∨ s.calPhase fe ≠ phWait) →
    (s.calNext fe = false ∨ 16 ≤ s.calSlots) → ∃ t, exec (.calEventStart fe) s = .next t ∧ t = s) ∧
  -- AUTO_STORE
  (∀ (s : State) (e last : Nat), s.f 0 F.CAL_CTL_ASTORE ≠ 0 → s.boot.calEnd = some (e, last) →
    ∃ t, exec .autoStore s = .next t ∧ t.clk = (s.reach (autoStoreAt (s.f 0 F.CAL_CTL_ASTORE * 3600 * tkSec) e last s.now)).clk ∧
      t.boot.calEnd = some (e, autoStoreAt (s.f 0 F.CAL_CTL_ASTORE * 3600 * tkSec) e last s.now) ∧
      (s.imageRuns = true → (s.indigo.calls.filter fun (k : Call) => k.st == CallState.queued).length < 16 →
        t.indigo.calls.getLast?.map (fun (k : Call) => (k.id, k.auto, k.handle)) = some (5, true, s.indigo.nextHandle) ∧ t.regs = s.regs) ∧
      ((s.imageRuns = false ∨ 16 ≤ (s.indigo.calls.filter fun (k : Call) => k.st == CallState.queued).length) →
        t.fb 0 F.CAL_STAT_STORE_FAIL = true ∧ t.indigo = s.indigo) ∧
      (∀ a, a ≠ R.CAL_STAT → t.w a = s.w a) ∧ t = { s with regs := t.regs, indigo := t.indigo, boot := t.boot, clk := t.clk }) ∧
  -- AUTO_STORE
  (∀ (s : State), (s.f 0 F.CAL_CTL_ASTORE = 0 ∨ s.boot.calEnd = none) → ∃ t, exec .autoStore s = .next t ∧ t = s)

/-- Offset, collection, trims, overlap and swap follow one another on the standby side. Rests on R193, R194, R195,
R196, R197, R198, R200, R201, R202, R311, 09_calibration. CAL_OFFSET_DONE writes the standby side's offsets and enters
the collection, live where live calibration is enabled. CAL_COLLECT_DONE tests a collection at 65,536 hits and at
1,048,576: the first pass is kept, the second trims once where a width is out by more than 0.3 LSB, and else writes
the table and enters the overlap; a failure of live hits goes to the dither source, the first of dither hits collects
again, the second restores the side and sets FAIL. CAL_LIVE_TIMEOUT, at 20 ms, goes to the dither source.
CAL_OVERLAP_DONE that passes, or sees fewer than 16 pairs, frees the slot and awaits the swap; a first failure
measures again, a second sets FAIL; for a starved swap it says whether the swap may follow. CAL_SWAP at a gap, or at a
close, or with no stream, changes the active side and counts, and the threshold part or the event's end follows.
CAL_SWAP_STARVED reports at its deadline and counts once. In another phase, with another number of hits, late live
hits or without a gap each of them does nothing. -/
def Obligations.SamplerCalibrationRunsItsCourse : Prop :=
  -- CAL_OFFSET_DONE
  (∀ (s : State) (fe : FrontEnd) (r f : Int), s.calPhase fe = phOffset →
    ∃ t, exec (.calOffsetDone fe r f) s = .next t ∧ t.calPhase fe = phCollect ∧ (t.fe fe).collectAt = s.now ∧
      t.calW (samplerBlock fe (s.standby fe) + 192) = i32Word r ∧ t.calW (samplerBlock fe (s.standby fe) + 193) = i32Word f ∧
      (∀ k, k ≠ samplerBlock fe (s.standby fe) + 192 → k ≠ samplerBlock fe (s.standby fe) + 193 → t.calW k = s.calW k) ∧
      ((t.fe fe).src = CalSrc.live ↔ (s.fb 0 F.CAL_CTL_LIVE = true ∧ s.fb (feBase fe) F.CH_CAL_CTL_LIVE_OFF = false ∧
        s.fb 0 F.CAL_STAT_BOOT_DONE = true)) ∧ (∀ g : FrontEnd, g ≠ fe → t.fe g = s.fe g) ∧
      (∀ a, a ≠ feBase fe + R.CH_CAL_STAT → t.w a = s.w a) ∧ t = { s with regs := t.regs, cal := t.cal, fes := t.fes }) ∧
  -- CAL_OFFSET_DONE
  (∀ (s : State) (fe : FrontEnd) (r f : Int), s.calPhase fe ≠ phOffset → ∃ t, exec (.calOffsetDone fe r f) s = .next t ∧ t = s) ∧
  -- CAL_COLLECT_DONE
  (∀ (s : State) (fe : FrontEnd) (counts : List Nat), (s.calPhase fe = phCollect ∨ s.calPhase fe = phTrim) → counts.length = 256 → counts.sum = 65536 →
    (s.fe fe).tested = false → s.liveInTime fe = true →
    ∃ t, exec (.calCollectDone fe counts) s = .next t ∧
      ((coverage counts (s.binWidths fe (s.standby fe)) (s.f 0 F.CAL_CHI_LIM)).1 = true →
        t = s.setFe fe { s.fe fe with tested := true }) ∧
      ((coverage counts (s.binWidths fe (s.standby fe)) (s.f 0 F.CAL_CHI_LIM)).1 = false → s.CollectionFailed fe t)) ∧
  -- CAL_COLLECT_DONE
  (∀ (s : State) (fe : FrontEnd) (counts : List Nat), (s.calPhase fe = phCollect ∨ s.calPhase fe = phTrim) → counts.length = 256 → counts.sum = 1048576 →
    (s.fe fe).tested = true → s.liveInTime fe = true →
    ∃ t, exec (.calCollectDone fe counts) s = .next t ∧
      ((coverage counts (s.binWidths fe (s.standby fe)) (s.f 0 F.CAL_CHI_LIM)).1 = false → s.CollectionFailed fe t) ∧
      ((coverage counts (s.binWidths fe (s.standby fe)) (s.f 0 F.CAL_CHI_LIM)).1 = true → needsTrim (measuredWidths counts) = true → (s.fe fe).trims = 0 →
        t.calPhase fe = phTrim ∧ (t.fe fe).trims = 1 ∧ (t.fe fe).tested = false ∧ (t.fe fe).collectAt = s.now ∧
        t.cal = (s.trimSide fe (s.standby fe) counts).cal) ∧
      ((coverage counts (s.binWidths fe (s.standby fe)) (s.f 0 F.CAL_CHI_LIM)).1 = true → (needsTrim (measuredWidths counts) = false ∨ (s.fe fe).trims ≠ 0) →
        t.calPhase fe = phOverlap ∧ t.f (feBase fe) (dsrcFld (s.standby fe)) = (s.fe fe).dsrc % 4 ∧
        (∀ k, k < 128 → t.calW (samplerBlock fe (s.standby fe) + 64 + k) = (packHalves (binTable 0 (measuredWidths counts))).getD k 0#32) ∧
        (∀ k, (k < samplerBlock fe (s.standby fe) + 64 ∨ samplerBlock fe (s.standby fe) + 197 ≤ k) → t.calW k = s.calW k)) ∧
      (∀ g : FrontEnd, g ≠ fe → t.fe g = s.fe g) ∧ t.clk = s.clk ∧ t.chans = s.chans) ∧
  -- CAL_COLLECT_DONE
  (∀ (s : State) (fe : FrontEnd) (counts : List Nat), ((s.calPhase fe ≠ phCollect ∧ s.calPhase fe ≠ phTrim) ∨ counts.length ≠ 256 ∨ s.liveInTime fe = false ∨
      (counts.sum ≠ 65536 ∧ counts.sum ≠ 1048576) ∨ (counts.sum = 65536 ∧ (s.fe fe).tested = true) ∨ (counts.sum = 1048576 ∧ (s.fe fe).tested = false)) →
    ∃ t, exec (.calCollectDone fe counts) s = .next t ∧ t = s) ∧
  -- CAL_LIVE_TIMEOUT
  (∀ (s : State) (fe : FrontEnd), (s.fe fe).src = CalSrc.live → (s.calPhase fe = phCollect ∨ s.calPhase fe = phTrim) →
    ∃ t, exec (.calLiveTimeout fe) s = .next t ∧
      t = (s.reach ((s.fe fe).collectAt + 20 * tkMs)).setFe fe { s.fe fe with src := .dither, dsrc := 2, tested := false }) ∧
  -- CAL_LIVE_TIMEOUT
  (∀ (s : State) (fe : FrontEnd), ((s.fe fe).src = CalSrc.dither ∨ (s.calPhase fe ≠ phCollect ∧ s.calPhase fe ≠ phTrim)) →
    ∃ t, exec (.calLiveTimeout fe) s = .next t ∧ t = s) ∧
  -- CAL_OVERLAP_DONE
  (∀ (s : State) (fe : FrontEnd) (o : Overlap), s.calPhase fe = phOverlap →
    ∃ t, exec (.calOverlapDone fe o) s = .next t ∧
      ((o.pairs < 16 ∨ o.samplerPass = true) → t.calPhase fe = phSwap ∧ (t.fe fe).slot = false ∧ (t.fe fe).tested = true ∧
        (t.fe fe).waitFrom = s.now ∧ (s.standby fe = Side.a → (t.fe fe).lastA = some s.now) ∧ (s.standby fe = Side.b → (t.fe fe).lastB = some s.now) ∧
        (o.pairs < 16 → t.fb (feBase fe) F.CH_CAL_STAT_UNCHECKED = true)) ∧
      (16 ≤ o.pairs → o.samplerPass = false → (s.fe fe).overlapFailed = false →
        t.calPhase fe = phOffset ∧ (t.fe fe).overlapFailed = true ∧ (∀ a, a ≠ feBase fe + R.CH_CAL_STAT → t.w a = s.w a)) ∧
      (16 ≤ o.pairs → o.samplerPass = false → (s.fe fe).overlapFailed = true → t.fb (feBase fe) (failFld (s.standby fe)) = true ∧ (t.fe fe).needS = false) ∧
      t.clk = s.clk ∧ s.SameMemory t) ∧
  -- CAL_OVERLAP_DONE
  (∀ (s : State) (fe : FrontEnd) (o : Overlap), s.calPhase fe ≠ phOverlap →
    ∃ t, exec (.calOverlapDone fe o) s = .next t ∧
      (s.calPhase fe = phSwap → (s.fe fe).starved = true → (t.fe fe).tested = (decide (o.pairs < 16) || o.samplerPass) ∧
        (o.pairs < 16 → t.fb (feBase fe) F.CH_CAL_STAT_UNCHECKED = true) ∧ (∀ g : FrontEnd, g ≠ fe → t.fe g = s.fe g) ∧
        (∀ a, a ≠ feBase fe + R.CH_CAL_STAT → t.w a = s.w a) ∧ t = { s with regs := t.regs, fes := t.fes }) ∧
      ((s.calPhase fe ≠ phSwap ∨ (s.fe fe).starved = false) → t = s)) ∧
  -- CAL_SWAP
  (∀ (s : State) (fe : FrontEnd), s.calPhase fe = phSwap → (s.fe fe).tested = true →
    ((s.feChannel fe).all fun n => s.edgeGap n || s.closesNow n || !s.live n) = true →
    ∃ t, exec (.calSwap fe) s = .next t ∧ (t.fe fe).side = (s.fe fe).side.other ∧ (t.fe fe).needS = false ∧
      t.pair (feBase fe + R.CH_CAL_SWAP_H) = (s.pair (feBase fe + R.CH_CAL_SWAP_H) + 1) % 2 ^ 64 ∧
      ((s.fe fe).needT = false → t.calPhase fe = phNone ∧ (t.fe fe).running = false ∧ t.f (feBase fe) F.CH_CAL_STAT_CAUSE = 0 ∧
        t.pair R.CAL_EVT_H = (s.pair R.CAL_EVT_H + 1) % 2 ^ 64 ∧ (∀ g : FrontEnd, g ≠ fe → t.fe g = s.fe g) ∧
        t = { s with regs := t.regs, fes := t.fes }) ∧
      ((s.fe fe).needT = true → s.ThrStarted fe (decide (s.slotsBut fe < 16)) t) ∧ t.clk = s.clk ∧ s.SameMemory t) ∧
  -- CAL_SWAP
  (∀ (s : State) (fe : FrontEnd), (s.calPhase fe ≠ phSwap ∨ (s.fe fe).tested = false ∨
      ((s.feChannel fe).any fun n => !s.edgeGap n && !s.closesNow n && s.live n) = true) →
    ∃ t, exec (.calSwap fe) s = .next t ∧ t = s) ∧
  -- CAL_SWAP_STARVED
  (∀ (s : State) (fe : FrontEnd), s.calPhase fe = phSwap →
    ∃ t, exec (.calSwapStarved fe) s = .next t ∧ t.clk = (s.reach ((s.fe fe).waitFrom + s.f 0 F.CAL_SWAP_WAIT_WAIT * tkUs)).clk ∧
      (t.fe fe).starved = true ∧ (t.fe fe).tested = false ∧ (t.fe fe).waitFrom = t.now ∧
      (∀ n : Ch, s.feChannel fe = some n → t.fb (chBase n) F.CH_STAT_CAL_STARVED = true) ∧
      t.pair (feBase fe + R.CH_CAL_STARVE_H) = (s.pair (feBase fe + R.CH_CAL_STARVE_H) + (if (s.fe fe).starved then 0 else 1)) % 2 ^ 64 ∧
      (∀ g : FrontEnd, g ≠ fe → t.fe g = s.fe g) ∧ t = { s with regs := t.regs, fes := t.fes, clk := t.clk }) ∧
  -- CAL_SWAP_STARVED
  (∀ (s : State) (fe : FrontEnd), s.calPhase fe ≠ phSwap → ∃ t, exec (.calSwapStarved fe) s = .next t ∧ t = s)

/-- The idle route blinds its channel, a threshold part writes its block, and CAL_VD is a guarded window. Rests on
R199, R203, R204, R205, R209, R211, R212, R285, R291, 09_calibration. CAL_IDLE_ROUTE starts a waiting threshold part
on a channel that meets R204's conditions, with no other route open: the channel is blind and the front end in PHASE
6; else it does nothing. CAL_THRESHOLD_DONE writes the front end's block of the set and ends the part: the idle
route's blind interval ends, a loan is handed back, and a part without a route ends its event or leaves the sampler
part pending. Of a loan that has not moved the stream yet it does nothing, and a part without a route whose front end
has gone live is abandoned with nothing written. CAL_VD_WRITE, with the path's unlock, writes the word that CAL_VA
names to all three copies, steps CAL_VA under INC and abandons the front end's event; an address outside the set sets
VA_REJ. -/
def Obligations.ThresholdCalibrationAndTheSet : Prop :=
  -- CAL_IDLE_ROUTE
  (∀ (s : State) (fe : FrontEnd) (n : Ch), s.feChannel fe = some n → s.idleRouteMay fe n = true →
    ∃ t, exec (.calIdleRoute fe) s = .next t ∧ (t.fe fe).slot = true ∧ (t.fe fe).idleRoute = true ∧ t.calPhase fe = phThreshold ∧
      t.fb (feBase fe) F.CH_CAL_STAT_THR_DEFER = false ∧
      (t.chan n).blind.map BlindSt.testWait = some true ∧ t.fb (chBase n) F.CH_PIN_BLIND_T = true ∧
      (∀ g : FrontEnd, g ≠ fe → t.fe g = s.fe g) ∧ (∀ m : Ch, m ≠ n → t.chan m = s.chan m) ∧
      (∀ a, a ∉ [feBase fe + R.CH_CAL_STAT, chBase n + R.CH_PIN] → t.w a = s.w a) ∧
      t = { s with regs := t.regs, fes := t.fes, chans := t.chans }) ∧
  -- CAL_IDLE_ROUTE
  (∀ (s : State) (fe : FrontEnd), ((s.feChannel fe).all fun n => !s.idleRouteMay fe n) = true →
    ∃ t, exec (.calIdleRoute fe) s = .next t ∧ t = s) ∧
  -- CAL_THRESHOLD_DONE
  (∀ (s : State) (fe : FrontEnd) (vals : ThrVals), s.calPhase fe = phThreshold → (s.fe fe).slot = true → (s.fe fe).idleRoute = false →
    s.loanOf fe = none → s.routeFree fe = true →
    ∃ t, exec (.calThresholdDone fe vals) s = .next t ∧ s.ThrWritten fe vals t ∧ (t.fe fe).needT = false ∧ (t.fe fe).slot = false ∧ (t.fe fe).running = false ∧
      ((s.fe fe).needS = true → t.calPhase fe = phWait) ∧
      ((s.fe fe).needS = false → t.calPhase fe = phNone ∧ t.pair R.CAL_EVT_H = (s.pair R.CAL_EVT_H + 1) % 2 ^ 64) ∧
      (∀ g : FrontEnd, g ≠ fe → t.fe g = s.fe g) ∧ t = { s with regs := t.regs, cal := t.cal, fes := t.fes }) ∧
  -- CAL_THRESHOLD_DONE
  (∀ (s : State) (fe : FrontEnd) (vals : ThrVals), s.calPhase fe = phThreshold → (s.fe fe).slot = true → (s.fe fe).idleRoute = true →
    ∃ t, exec (.calThresholdDone fe vals) s = .next t ∧ s.ThrWritten fe vals t ∧ (t.fe fe).needT = false ∧ (t.fe fe).slot = false ∧
      (t.fe fe).running = false ∧ (t.fe fe).idleRoute = false ∧
      (∀ n : Ch, s.feChannel fe = some n → ((s.chan n).blind.any fun (b : BlindSt) => b.ovfWait) = false → ((s.chan n).settle s.now).held = [] →
        ((s.chan n).settle s.now).fifo.length < fifoDepth → (t.chan n).blind = none)) ∧
  -- CAL_THRESHOLD_DONE
  (∀ (s : State) (fe : FrontEnd) (vals : ThrVals) (n : Ch), s.calPhase fe = phThreshold → (s.fe fe).slot = true → (s.fe fe).idleRoute = false →
    s.loanOf fe = some n →
    ∃ t, exec (.calThresholdDone fe vals) s = .next t ∧
      (s.spState (Ch.spareOf n) = 2 → s.ThrWritten fe vals t ∧ t.spState (Ch.spareOf n) = 3 ∧ (t.fe fe).needT = false ∧ (t.fe fe).slot = false) ∧
      (s.spState (Ch.spareOf n) ≠ 2 → t = s)) ∧
  -- CAL_THRESHOLD_DONE
  (∀ (s : State) (fe : FrontEnd) (vals : ThrVals), s.calPhase fe = phThreshold → (s.fe fe).slot = true → (s.fe fe).idleRoute = false →
    s.loanOf fe = none → s.routeFree fe = false → (s.fe fe).running = true →
    ∃ t, exec (.calThresholdDone fe vals) s = .next t ∧ (t.fe fe).running = false ∧ (t.fe fe).slot = false ∧ (t.fe fe).needT = (s.fe fe).needT ∧
      t.fb (feBase fe) F.CH_CAL_STAT_ABORTED = true ∧ t.calPhase fe = phWait ∧ (∀ g : FrontEnd, g ≠ fe → t.fe g = s.fe g) ∧
      t = { s with regs := t.regs, fes := t.fes }) ∧
  -- CAL_THRESHOLD_DONE
  (∀ (s : State) (fe : FrontEnd) (vals : ThrVals), (s.calPhase fe ≠ phThreshold ∨ (s.fe fe).slot = false) →
    ∃ t, exec (.calThresholdDone fe vals) s = .next t ∧ t = s) ∧
  -- CAL_VD_WRITE
  (∀ (s : State) (path : Sys2Proof.Path) (w : Word), s.Serves → s.Writes path → s.Unlocked path →
    ∃ t, exec (.calVdWrite path w) s = .next t ∧
      (s.vaOk = true → t.cal = sparsePut calFactory s.cal (s.f 0 F.CAL_VA_ADDR / 4) (TvWord.all w) ∧
        t.calW (s.f 0 F.CAL_VA_ADDR / 4) = w ∧ (t.fe (calOwner (s.f 0 F.CAL_VA_ADDR / 4))).running = false ∧
        t.f 0 F.CAL_VA_ADDR = (if s.fb 0 F.CAL_VA_INC then (s.f 0 F.CAL_VA_ADDR + 4) % 2 ^ F.CAL_VA_ADDR.len else s.f 0 F.CAL_VA_ADDR) ∧
        (∀ g : FrontEnd, g ≠ calOwner (s.f 0 F.CAL_VA_ADDR / 4) → t.fe g = s.fe g)) ∧
      (s.vaOk = false → t.fb 0 F.CAL_STAT_VA_REJ = true ∧ t.cal = s.cal ∧ t.fes = s.fes) ∧ t.clk = s.clk)

/-- Admission, LOCK, ALIGN and PARAM move a link through training to ACTIVE. Rests on R217, R219, R220, R221, R222,
R235, 10_serial_links. LINK_ADMISSION moves a HELD link to DETECT, or to DISABLED where LNK_CFG.EN is 0.
LINK_TRAIN_SEEN enters LOCK at the configured rate. LINK_LOCK_TIMEOUT leads to ALIGN with MINW lanes locked, which
start from their trained taps, else to the next lower rate with RATE_DOWN, else to DETECT at the configured rate.
LINK_ALIGN_DONE accepts locked lanes numbered straight or all in reverse, marks LINV and REV, and otherwise sets
ORDER_ERR. LINK_PARAM_DONE enters ACTIVE on the lanes that both sides name, keeping link state or, where a side does
not keep it or 10 ms have passed, resetting it as an admission, after which unacknowledged frames but CREDIT go again
in their order; a mask below MINW retrains (assumption 104). ORDER_ERR_RETRY returns to DETECT. Each of them does
nothing in another state. -/
def Obligations.LinksTrainStepByStep : Prop :=
  -- LINK_ADMISSION
  (∀ (s : State) (l : Link), s.lnkState l = lnkHeld →
    ∃ t, exec (.linkAdmission l) s = .next t ∧ t.lnk l F.LNK_STAT_ADMITTED = 1 ∧
      (s.lnk l F.LNK_CFG_EN = 1 → t.lnkState l = lnkDetect) ∧ (s.lnk l F.LNK_CFG_EN = 0 → t.lnkState l = lnkDisabled) ∧
      s.OnlyRegs t [lnkBase l + R.LNK_STAT]) ∧
  -- LINK_ADMISSION
  (∀ (s : State) (l : Link), s.lnkState l ≠ lnkHeld → ∃ t, exec (.linkAdmission l) s = .next t ∧ t = s) ∧
  -- LINK_TRAIN_SEEN
  (∀ (s : State) (l : Link), s.lnkState l = lnkDetect →
    ∃ t, exec (.linkTrainSeen l) s = .next t ∧ t.lnkState l = lnkLock ∧
      t.lnk l F.LNK_STAT_RATE_ACT = (if s.lnk l F.LNK_CFG_RATE = 3 then 0 else s.lnk l F.LNK_CFG_RATE) ∧
      s.OnlyRegs t [lnkBase l + R.LNK_STAT]) ∧
  -- LINK_TRAIN_SEEN
  (∀ (s : State) (l : Link), s.lnkState l ≠ lnkDetect → ∃ t, exec (.linkTrainSeen l) s = .next t ∧ t = s) ∧
  -- LINK_LOCK_TIMEOUT
  (∀ (s : State) (l : Link) (locked : BitVec 16), s.lnkState l = lnkLock →
    s.minw l ≤ allLanes.countP (fun (k : Lane) => locked.getLsbD k.val) →
    ∃ t, exec (.linkLockTimeout l locked) s = .next t ∧ t.lnkState l = lnkAlign ∧
      (∀ k : Lane, (t.link l).lanes[k] = { (s.link l).lanes[k] with locked := locked.getLsbD k.val, taps := List.replicate 6 0, fast := false, joining := false } ∧
        t.lnk l (lstat F.LNK_LSTAT_FROZEN k) = 0) ∧ t.link l = { s.link l with lanes := (t.link l).lanes } ∧
      (∀ a, a ≠ lnkBase l + R.LNK_STAT → (a < lnkBase l + R.LNK_LSTAT ∨ lnkBase l + R.LNK_LSTAT + 64 ≤ a) → t.w a = s.w a) ∧
      (∀ m : Link, m ≠ l → t.link m = s.link m) ∧ t = { s with regs := t.regs, link0 := t.link0, link1 := t.link1 }) ∧
  -- LINK_LOCK_TIMEOUT
  (∀ (s : State) (l : Link) (locked : BitVec 16), s.lnkState l = lnkLock →
    allLanes.countP (fun (k : Lane) => locked.getLsbD k.val) < s.minw l →
    ∃ t, exec (.linkLockTimeout l locked) s = .next t ∧
      (s.lnk l F.LNK_CFG_AUTO_DOWN = 1 → s.lnk l F.LNK_STAT_RATE_ACT < 2 → t.lnkState l = lnkLock ∧
        t.lnk l F.LNK_STAT_RATE_ACT = s.lnk l F.LNK_STAT_RATE_ACT + 1 ∧ t.lnk l F.LNK_STAT_RATE_DOWN = 1) ∧
      ((s.lnk l F.LNK_CFG_AUTO_DOWN = 0 ∨ 2 ≤ s.lnk l F.LNK_STAT_RATE_ACT) → t.lnkState l = lnkDetect ∧
        t.lnk l F.LNK_STAT_RATE_ACT = (if s.lnk l F.LNK_CFG_RATE = 3 then 0 else s.lnk l F.LNK_CFG_RATE)) ∧
      s.OnlyRegs t [lnkBase l + R.LNK_STAT]) ∧
  -- LINK_LOCK_TIMEOUT
  (∀ (s : State) (l : Link) (locked : BitVec 16), s.lnkState l ≠ lnkLock → ∃ t, exec (.linkLockTimeout l locked) s = .next t ∧ t = s) ∧
  -- LINK_ALIGN_DONE
  (∀ (s : State) (l : Link) (linv : BitVec 16) (nums : Vector (BitVec 4) 16), s.lnkState l = lnkAlign →
    (∀ k : Lane, (s.link l).lanes[k].locked = true → nums[k].toNat = k.val) →
    ∃ t, exec (.linkAlignDone l linv nums) s = .next t ∧ t.lnkState l = lnkParam ∧ t.lnk l F.LNK_STAT_REV = 0 ∧
      (∀ k : Lane, t.lnk l (lstat F.LNK_LSTAT_LPOS k) = k.val ∧
        t.lnk l (lstat F.LNK_LSTAT_LINV k) = bit ((s.link l).lanes[k].locked && linv.getLsbD k.val)) ∧
      (∀ a, a ≠ lnkBase l + R.LNK_STAT → (a < lnkBase l + R.LNK_LSTAT ∨ lnkBase l + R.LNK_LSTAT + 64 ≤ a) → t.w a = s.w a) ∧
      t = { s with regs := t.regs }) ∧
  -- LINK_ALIGN_DONE
  (∀ (s : State) (l : Link) (linv : BitVec 16) (nums : Vector (BitVec 4) 16), s.lnkState l = lnkAlign →
    (∀ k : Lane, (s.link l).lanes[k].locked = true → nums[k].toNat = 15 - k.val) → (∃ k : Lane, (s.link l).lanes[k].locked = true) →
    ∃ t, exec (.linkAlignDone l linv nums) s = .next t ∧ t.lnkState l = lnkParam ∧ t.lnk l F.LNK_STAT_REV = 1 ∧
      (∀ k : Lane, t.lnk l (lstat F.LNK_LSTAT_LPOS k) = 15 - k.val ∧
        t.lnk l (lstat F.LNK_LSTAT_LINV k) = bit ((s.link l).lanes[k].locked && linv.getLsbD k.val)) ∧ t = { s with regs := t.regs }) ∧
  -- LINK_ALIGN_DONE
  (∀ (s : State) (l : Link) (linv : BitVec 16) (nums : Vector (BitVec 4) 16), s.lnkState l = lnkAlign →
    (∃ k : Lane, (s.link l).lanes[k].locked = true ∧ nums[k].toNat ≠ k.val) →
    (∃ k : Lane, (s.link l).lanes[k].locked = true ∧ nums[k].toNat ≠ 15 - k.val) →
    ∃ t, exec (.linkAlignDone l linv nums) s = .next t ∧ t.lnkState l = lnkAlign ∧ t.lnk l F.LNK_STAT_ORDER_ERR = 1 ∧
      t.link l = { s.link l with orderErr := true } ∧ (∀ a, a ≠ lnkBase l + R.LNK_STAT → t.w a = s.w a) ∧
      (∀ m : Link, m ≠ l → t.link m = s.link m) ∧ t = { s with regs := t.regs, link0 := t.link0, link1 := t.link1 }) ∧
  -- LINK_ALIGN_DONE
  (∀ (s : State) (l : Link) (linv : BitVec 16) (nums : Vector (BitVec 4) 16), s.lnkState l ≠ lnkAlign →
    ∃ t, exec (.linkAlignDone l linv nums) s = .next t ∧ t = s) ∧
  -- LINK_PARAM_DONE
  (∀ (s : State) (l : Link) (mask : BitVec 16) (credits : Vector Nat 6), s.lnkState l = lnkParam → s.minw l ≤ maskCount (s.agreed l mask) →
    (!(s.link l).fresh && (s.link l).leftAt.any fun (d : Nat) => decide (s.now < d + 10 * tkMs)) = true →
    ∃ t, exec (.linkParamDone l mask credits true) s = .next t ∧ t.lnkState l = lnkActive ∧
      t.link l = { s.link l with oldestAt := s.now, busyAt := s.now } ∧
      (∀ i : Fin 16, (t.insvc l).testBit i.val =
        (mask.getLsbD i.val && s.laneEn l i.val && allLanes.any (fun (k : Lane) => (s.link l).lanes[k].locked && s.lpos l k == i.val))) ∧
      t.lnk l F.LNK_STAT_WIDTH = maskCount (t.insvc l) ∧ t.lnk l F.LNK_STAT_LINK_RESET = s.lnk l F.LNK_STAT_LINK_RESET ∧
      (∀ a, a ∉ [lnkBase l + R.LNK_STAT, lnkBase l + R.LNK_LANES] → (a < lnkBase l + R.LNK_LSTAT ∨ lnkBase l + R.LNK_LSTAT + 64 ≤ a) →
        t.w a = s.w a) ∧ (∀ m : Link, m ≠ l → t.link m = s.link m) ∧ t = { s with regs := t.regs, link0 := t.link0, link1 := t.link1 }) ∧
  -- LINK_PARAM_DONE
  (∀ (s : State) (l : Link) (mask : BitVec 16) (credits : Vector Nat 6) (keep : Bool), s.lnkState l = lnkParam → s.minw l ≤ maskCount (s.agreed l mask) →
    (keep && !(s.link l).fresh && (s.link l).leftAt.any fun (d : Nat) => decide (s.now < d + 10 * tkMs)) = false →
    ∃ t, exec (.linkParamDone l mask credits keep) s = .next t ∧ t.lnkState l = lnkActive ∧ t.lnk l F.LNK_STAT_LINK_RESET = 1 ∧
      (t.link l).txSeq = 0#12 ∧ (t.link l).rxSeq = 0#12 ∧ (t.link l).rxAny = false ∧ (t.link l).unacked = [] ∧ (t.link l).txCred = credits ∧
      (t.link l).rxCred = grants l ∧ (t.link l).resend = ((s.link l).unacked ++ (s.link l).resend).filterMap UFrame.again ∧
      (∀ f ∈ (t.link l).resend, f.rsnd = true ∧ ∀ i ∈ f.items, i.tag ≠ TxTag.credit) ∧
      (∀ i : Fin 16, (t.insvc l).testBit i.val =
        (mask.getLsbD i.val && s.laneEn l i.val && allLanes.any (fun (k : Lane) => (s.link l).lanes[k].locked && s.lpos l k == i.val))) ∧
      t.lnk l F.LNK_STAT_WIDTH = maskCount (t.insvc l) ∧ t.clk = s.clk ∧
      (l = Link.host → (∀ a, a ∉ [lnkBase l + R.LNK_STAT, lnkBase l + R.LNK_LANES] →
        (a < lnkBase l + R.LNK_LSTAT ∨ lnkBase l + R.LNK_LSTAT + 64 ≤ a) → t.w a = s.w a) ∧ t = { s with regs := t.regs, link0 := t.link0 }) ∧
      (l = Link.pattern → ∀ n : Ch, (t.chan n).mord.owed = 0)) ∧
  -- LINK_PARAM_DONE
  (∀ (s : State) (l : Link) (mask : BitVec 16) (credits : Vector Nat 6) (keep : Bool), s.lnkState l = lnkParam → maskCount (s.agreed l mask) < s.minw l →
    ∃ t, exec (.linkParamDone l mask credits keep) s = .next t ∧ t.lnkState l = lnkDetect ∧ t.lnk l F.LNK_STAT_RETRAIN = 1 ∧ t.insvc l = 0 ∧
      t.link l = s.link l ∧ (∀ m : Link, m ≠ l → t.link m = s.link m) ∧ t = { s with regs := t.regs, link0 := t.link0, link1 := t.link1 }) ∧
  -- LINK_PARAM_DONE
  (∀ (s : State) (l : Link) (mask : BitVec 16) (credits : Vector Nat 6) (keep : Bool), s.lnkState l ≠ lnkParam →
    ∃ t, exec (.linkParamDone l mask credits keep) s = .next t ∧ t = s) ∧
  -- ORDER_ERR_RETRY
  (∀ (s : State) (l : Link), s.lnkState l = lnkAlign → (s.link l).orderErr = true →
    ∃ t, exec (.orderErrRetry l) s = .next t ∧ t.lnkState l = lnkDetect ∧ t.link l = { s.link l with orderErr := false } ∧
      (∀ a, a ≠ lnkBase l + R.LNK_STAT → t.w a = s.w a) ∧ (∀ m : Link, m ≠ l → t.link m = s.link m) ∧
      t = { s with regs := t.regs, link0 := t.link0, link1 := t.link1 }) ∧
  -- ORDER_ERR_RETRY
  (∀ (s : State) (l : Link), (s.lnkState l ≠ lnkAlign ∨ (s.link l).orderErr = false) → ∃ t, exec (.orderErrRetry l) s = .next t ∧ t = s)

/-- LNK_CFG.EN, the LNK_CMD bits, LNK_TEST and the width-change window. Rests on R218, R219, R221, R235, R236, R237,
10_serial_links. LINK_EN_WRITE disables a link, or takes a disabled one to DETECT with link state due for a reset; a
HELD link only stores it, and so does one that trains or runs when EN is 1 already. LNK_RETRAIN retrains a trained
link, keeping link state; a DISABLED, HELD or TEST link stays as it is. LNK_RESET does the same with link state due
for a reset, in every state. REJOIN un-retires every lane. LNK_TEST enters TEST, not from DISABLED or HELD, and
TEST_EXIT leaves it for DETECT. LNK_TEST_MODE_WRITE stores LNK_TEST and clears the counters of the lanes it selects.
WIDTH_CHANGE_WINDOW counts the window, puts the RWS fields in force and an ALIGN block on the lanes, takes out lanes
no longer enabled and lets waiting lanes join, and retrains below MINW; in EIDLE it waits for the wake. -/
def Obligations.LinksTakeTheirCommands : Prop :=
  -- LINK_EN_WRITE
  (∀ (s : State) (l : Link), s.Serves → s.lnkState l ≠ lnkHeld →
    ∃ t, exec (.linkEnWrite l false) s = .next t ∧ t.lnk l F.LNK_CFG_EN = 0 ∧ t.lnkState l = lnkDisabled ∧ t.insvc l = 0 ∧
      t.lnk l F.LNK_STAT_WIDTH = 0 ∧ t.link l = { s.link l with leftAt := (t.link l).leftAt } ∧
      (s.lnkState l ∈ [lnkActive, lnkDegrade, lnkEidle] → (t.link l).leftAt = some s.now) ∧
      (∀ a, a ∉ [lnkBase l + R.LNK_CFG, lnkBase l + R.LNK_STAT, lnkBase l + R.LNK_LANES] →
        (a < lnkBase l + R.LNK_LSTAT ∨ lnkBase l + R.LNK_LSTAT + 64 ≤ a) → t.w a = s.w a) ∧
      (∀ m : Link, m ≠ l → t.link m = s.link m) ∧ t = { s with regs := t.regs, link0 := t.link0, link1 := t.link1, paths := t.paths }) ∧
  -- LINK_EN_WRITE
  (∀ (s : State) (l : Link), s.Serves → (s.lnkState l = lnkDisabled ∨ (s.lnkState l ≠ lnkHeld ∧ s.lnk l F.LNK_CFG_EN = 0)) →
    ∃ t, exec (.linkEnWrite l true) s = .next t ∧ t.lnk l F.LNK_CFG_EN = 1 ∧ t.lnkState l = lnkDetect ∧
      t.link l = { s.link l with fresh := true } ∧ (∀ a, a ∉ [lnkBase l + R.LNK_CFG, lnkBase l + R.LNK_STAT] → t.w a = s.w a) ∧
      (∀ m : Link, m ≠ l → t.link m = s.link m) ∧ t = { s with regs := t.regs, link0 := t.link0, link1 := t.link1, paths := t.paths }) ∧
  -- LINK_EN_WRITE
  (∀ (s : State) (l : Link) (en : Bool), s.Serves → (s.lnkState l = lnkHeld ∨ (s.lnkState l ≠ lnkDisabled ∧ en = true ∧ s.lnk l F.LNK_CFG_EN = 1)) →
    ∃ t, exec (.linkEnWrite l en) s = .next t ∧ t.lnk l F.LNK_CFG_EN = bit en ∧ t.lnkState l = s.lnkState l ∧
      s.OnlyRegsOf .host t [lnkBase l + R.LNK_CFG]) ∧
  -- LNK_RETRAIN
  (∀ (s : State) (l : Link), s.Serves → s.lnkState l ∉ [lnkDisabled, lnkHeld, lnkTest] →
    ∃ t, exec (.lnkRetrain l) s = .next t ∧ t.lnkState l = lnkDetect ∧ t.lnk l F.LNK_STAT_RETRAIN = 1 ∧ t.insvc l = 0 ∧
      (s.lnkState l ∈ [lnkActive, lnkDegrade, lnkEidle] → (t.link l).leftAt = some s.now) ∧ t.link l = { s.link l with leftAt := (t.link l).leftAt } ∧
      (∀ m : Link, m ≠ l → t.link m = s.link m) ∧ t = { s with regs := t.regs, link0 := t.link0, link1 := t.link1, paths := t.paths }) ∧
  -- LNK_RETRAIN
  (∀ (s : State) (l : Link), s.Serves → s.lnkState l ∈ [lnkDisabled, lnkHeld, lnkTest] →
    ∃ t, exec (.lnkRetrain l) s = .next t ∧ t = { s with paths := t.paths }) ∧
  -- LNK_RESET
  (∀ (s : State) (l : Link), s.Serves →
    ∃ t, exec (.lnkReset l) s = .next t ∧ t.link l = { s.link l with fresh := true, leftAt := (t.link l).leftAt } ∧
      (s.lnkState l ∉ [lnkDisabled, lnkHeld, lnkTest] → t.lnkState l = lnkDetect ∧ t.lnk l F.LNK_STAT_RETRAIN = 1 ∧ t.insvc l = 0) ∧
      (s.lnkState l ∈ [lnkDisabled, lnkHeld, lnkTest] → t.regs = s.regs ∧ (t.link l).leftAt = (s.link l).leftAt) ∧
      (∀ m : Link, m ≠ l → t.link m = s.link m) ∧ t = { s with regs := t.regs, link0 := t.link0, link1 := t.link1, paths := t.paths }) ∧
  -- REJOIN
  (∀ (s : State) (l : Link), s.Serves →
    ∃ t, exec (.rejoin l) s = .next t ∧
      (∀ k : Lane, t.lnk l (lstat F.LNK_LSTAT_RETIRED k) = 0 ∧ (t.link l).lanes[k] = { (s.link l).lanes[k] with losses := [] }) ∧
      (∀ a, (a < lnkBase l + R.LNK_LSTAT ∨ lnkBase l + R.LNK_LSTAT + 64 ≤ a) → t.w a = s.w a) ∧
      t.link l = { s.link l with lanes := (t.link l).lanes } ∧ (∀ m : Link, m ≠ l → t.link m = s.link m) ∧
      t = { s with regs := t.regs, link0 := t.link0, link1 := t.link1, paths := t.paths }) ∧
  -- LNK_TEST
  (∀ (s : State) (l : Link), s.Serves → s.lnkState l ∉ [lnkDisabled, lnkHeld] →
    ∃ t, exec (.lnkTest l) s = .next t ∧ t.lnkState l = lnkTest ∧ t.insvc l = 0 ∧
      t.link l = { s.link l with leftAt := (t.link l).leftAt } ∧ (∀ m : Link, m ≠ l → t.link m = s.link m) ∧
      t = { s with regs := t.regs, link0 := t.link0, link1 := t.link1, paths := t.paths }) ∧
  -- LNK_TEST
  (∀ (s : State) (l : Link), s.Serves → s.lnkState l ∈ [lnkDisabled, lnkHeld] → ∃ t, exec (.lnkTest l) s = .next t ∧ t = { s with paths := t.paths }) ∧
  -- TEST_EXIT
  (∀ (s : State) (l : Link), s.Serves → s.lnkState l = lnkTest →
    ∃ t, exec (.testExit l) s = .next t ∧ t.lnkState l = lnkDetect ∧ s.OnlyRegsOf .host t [lnkBase l + R.LNK_STAT]) ∧
  -- TEST_EXIT
  (∀ (s : State) (l : Link), s.Serves → s.lnkState l ≠ lnkTest → ∃ t, exec (.testExit l) s = .next t ∧ t = { s with paths := t.paths }) ∧
  -- LNK_TEST_MODE_WRITE
  (∀ (s : State) (l : Link) (w : Word), s.Serves →
    ∃ t, exec (.lnkTestModeWrite l w) s = .next t ∧ t.w (lnkBase l + R.LNK_TEST) = w &&& 0xF800FFFF#32 ∧
      (∀ k : Lane, (F.LNK_TEST_LANES.of w).testBit k.val = true →
        t.pair (lnkBase l + R.LNK_PRBS_H + 8 * k.val) = 0 ∧ t.lnk l (lstat F.LNK_LSTAT_PRBS_LOCK k) = 0) ∧
      (∀ k : Lane, (F.LNK_TEST_LANES.of w).testBit k.val = false →
        t.pair (lnkBase l + R.LNK_PRBS_H + 8 * k.val) = s.pair (lnkBase l + R.LNK_PRBS_H + 8 * k.val) ∧
        t.w (lnkBase l + R.LNK_LSTAT + 4 * k.val) = s.w (lnkBase l + R.LNK_LSTAT + 4 * k.val)) ∧
      (∀ a, a ≠ lnkBase l + R.LNK_TEST → (a < lnkBase l + R.LNK_LSTAT ∨ lnkBase l + R.LNK_CRC_H ≤ a) → t.w a = s.w a) ∧
      t = { s with regs := t.regs, paths := t.paths }) ∧
  -- WIDTH_CHANGE_WINDOW
  (∀ (s : State) (l : Link), s.lnkState l = lnkEidle →
    ∃ t, exec (.widthChangeWindow l) s = .next t ∧ t.clk = (s.reach ((s.link l).winAt + s.periods l * s.windowTk l)).clk ∧
      t.link l = { s.link l with windowDue := true, windows := (s.link l).windows + BitVec.ofNat 16 (s.periods l), winAt := (s.link l).winAt + s.periods l * s.windowTk l } ∧
      (∀ m : Link, m ≠ l → t.link m = s.link m) ∧ t = { s with link0 := t.link0, link1 := t.link1, clk := t.clk }) ∧
  -- WIDTH_CHANGE_WINDOW
  (∀ (s : State) (l : Link), s.lnkState l ≠ lnkEidle →
    ∃ t, exec (.widthChangeWindow l) s = .next t ∧ t.clk = (s.reach ((s.link l).winAt + s.periods l * s.windowTk l)).clk ∧
      s.lnk l F.LNK_CFG_HOLD = t.lkA l.idx F.LNK_CFG_HOLD ∧
      s.lnk l F.LNK_CFG_EIDLE = t.lkA l.idx F.LNK_CFG_EIDLE ∧ t.lkA l.idx F.LNK_LANES_EN = s.lnk l F.LNK_LANES_EN ∧
      (t.link l).windows = (s.link l).windows + BitVec.ofNat 16 (s.periods l) ∧ (t.link l).winAt = (s.link l).winAt + s.periods l * s.windowTk l ∧
      (s.lnkState l ≠ lnkActive → t.lnkState l = s.lnkState l ∧ t.insvc l = s.insvc l ∧ (t.link l).wire = (s.link l).wire) ∧
      (∀ m : Link, m ≠ l → t.link m = s.link m) ∧ t = { s with regs := t.regs, link0 := t.link0, link1 := t.link1, clk := t.clk }) ∧
  -- WIDTH_CHANGE_WINDOW
  (∀ (s : State) (l : Link), s.lnkState l = lnkActive →
    (s.minw l ≤ (List.range 16).countP (s.windowLane l) ∨ ((List.range 16).all fun i => s.windowLane l i == (s.insvc l).testBit i) = true) →
    ∃ t, exec (.widthChangeWindow l) s = .next t ∧ t.lnkState l = lnkActive ∧ (∀ i : Fin 16, (t.insvc l).testBit i.val = s.windowLane l i.val) ∧
      (t.link l).wire = [LineOut.ctl (.align (t.link l).windows (BitVec.ofNat 16 (t.insvc l)))] ∧
      ((∃ k : Lane, (s.link l).lanes[k].joining = true ∧ (s.lnk l F.LNK_LANES_EN).testBit (s.lpos l k) = true) → t.lnk l F.LNK_STAT_LANE_REJOIN = 1) ∧
      (∀ k : Lane, (t.link l).lanes[k] = { (s.link l).lanes[k] with joining := false }) ∧
      (t.link l).unacked = (s.link l).unacked ∧ (t.link l).nakDue = (s.link l).nakDue) ∧
  -- WIDTH_CHANGE_WINDOW
  (∀ (s : State) (l : Link), s.lnkState l = lnkActive → (List.range 16).countP (s.windowLane l) < s.minw l →
    ((List.range 16).any fun i => s.windowLane l i != (s.insvc l).testBit i) = true →
    ∃ t, exec (.widthChangeWindow l) s = .next t ∧ t.lnkState l = lnkDetect ∧ t.lnk l F.LNK_STAT_RETRAIN = 1 ∧ t.insvc l = 0)

/-- What an arriving L-frame and a NAK do in ACTIVE, and nothing elsewhere. Rests on R225, R226, R227, R228, R229,
R231, R233, 10_serial_links. LFRAME_RECEIVE in ACTIVE accepts a good frame of the expected SEQ with credit, takes the
acknowledgement and credit in its header, queues its content and owes an acknowledgement; of an EVENT payload the
messages it does not know are discarded and counted, and a REG request without a known OP is answered with STATUS
0x03. It counts content of a class the link does not receive; takes only the header of a CTRL frame; acknowledges a
duplicate again; answers a later SEQ with a NAK; and a bad CRC, a LEN out of range (assumption 104) or a frame without
credit starts discarding, with a NAK. While it discards, all is dropped up to the expected frame behind a control
block. NAK_RECEIVE releases what the NAK acknowledges and replays the rest behind an IDLE block; the fifth replay
retrains. -/
def Obligations.FramesAreAcknowledgedOrRefused : Prop :=
  -- LFRAME_RECEIVE
  (∀ (s : State) (l : Link) (ctl : Bool) (b : List Byte), s.lnkState l ≠ lnkActive → ∃ t, exec (.lframeReceive l ctl b) s = .next t ∧ t = s) ∧
  -- LFRAME_RECEIVE
  (∀ (s : State) (l : Link) (ctl : Bool) (b : List Byte), s.lnkState l = lnkActive → ¬ frameGood b →
    ∃ t, exec (.lframeReceive l ctl b) s = .next t ∧ t.lnk l F.LNK_STAT_CRC_ERR = 1 ∧
      t.pair (lnkBase l + R.LNK_CRC_H) = (s.pair (lnkBase l + R.LNK_CRC_H) + 1) % 2 ^ 64 ∧
      t.pair (lnkBase l + R.LNK_NAK_H) = (s.pair (lnkBase l + R.LNK_NAK_H) + (if (s.link l).discarding then 0 else 1)) % 2 ^ 64 ∧
      t.link l = (if (s.link l).discarding then s.link l else { s.link l with discarding := true, nakDue := true, nakAt := some s.now }) ∧
      (∀ a, a ∉ [lnkBase l + R.LNK_STAT, lnkBase l + R.LNK_CRC_H, lnkBase l + R.LNK_CRC_H + 4, lnkBase l + R.LNK_NAK_H, lnkBase l + R.LNK_NAK_H + 4] →
        t.w a = s.w a) ∧ (∀ m : Link, m ≠ l → t.link m = s.link m) ∧ t = { s with regs := t.regs, link0 := t.link0, link1 := t.link1 }) ∧
  -- LFRAME_RECEIVE
  (∀ (s : State) (l : Link) (ctl : Bool) (b : List Byte), s.lnkState l = lnkActive → frameGood b → (s.link l).discarding = true →
    (frameType b = 0 ∨ ctl = false ∨ frameSeq b ≠ (s.link l).rxSeq) → ∃ t, exec (.lframeReceive l ctl b) s = .next t ∧ t = s) ∧
  -- LFRAME_RECEIVE
  (∀ (s : State) (l : Link) (ctl : Bool) (b : List Byte), s.lnkState l = lnkActive → frameGood b → (s.link l).discarding = false → frameType b = 0 →
    ∃ t, exec (.lframeReceive l ctl b) s = .next t ∧ s.AckTaken l b t ∧ s.CreditTaken l b t ∧ (t.link l).rx = (s.link l).rx ∧
      (t.link l).rxSeq = (s.link l).rxSeq ∧ (t.link l).ackAt = (s.link l).ackAt ∧ t.clk = s.clk ∧ s.SameMemory t) ∧
  -- LFRAME_RECEIVE
  (∀ (s : State) (ctl : Bool) (b : List Byte), s.lnkState .pattern = lnkActive → frameGood b → frameType b = 2 →
    frameSeq b = s.link1.rxSeq → (s.link1.discarding = false ∨ ctl = true) → frameCredits (b.length - 16) ≤ s.link1.rxCred[2] → rxOk s.link0.rx →
    ∃ t, exec (.lframeReceive .pattern ctl b) s = .next t ∧ s.Accepted .pattern b (frameCredits (b.length - 16)) t ∧
      t.link1.rx = s.link1.rx ++ [RxFrame.mk FClass.msg (b.drop 16) (frameCredits (b.length - 16))] ∧ t.link1.tx = s.link1.tx ∧ t.link0 = s.link0 ∧
      t.pair (lnkBase .pattern + R.LNK_CLS_H) = s.pair (lnkBase .pattern + R.LNK_CLS_H)) ∧
  -- LFRAME_RECEIVE
  (∀ (s : State) (ctl : Bool) (b : List Byte), s.lnkState .pattern = lnkActive → frameGood b → frameType b = 3 →
    frameSeq b = s.link1.rxSeq → (s.link1.discarding = false ∨ ctl = true) → frameCredits (b.length - 16) ≤ s.link1.rxCred[3] → rxOk s.link0.rx →
    ∃ t, exec (.lframeReceive .pattern ctl b) s = .next t ∧ s.Accepted .pattern b (frameCredits (b.length - 16)) t ∧
      t.pair (lnkBase .pattern + R.LNK_CLS_H) = (s.pair (lnkBase .pattern + R.LNK_CLS_H) + (eventSplit 16 (b.drop 16)).2) % 2 ^ 64 ∧
      ((eventSplit 16 (b.drop 16)).1 ≠ [] → t.link1.rx = s.link1.rx ++ [RxFrame.mk FClass.event (eventSplit 16 (b.drop 16)).1 (frameCredits (b.length - 16))]) ∧
      ((eventSplit 16 (b.drop 16)).1 = [] → t.link1.rx = s.link1.rx ∧ s.link1.credOwed[3] + frameCredits (b.length - 16) = t.link1.credOwed[3])) ∧
  -- LFRAME_RECEIVE
  (∀ (s : State) (ctl : Bool) (b : List Byte), s.lnkState .host = lnkActive → frameGood b → frameType b = 1 →
    frameSeq b = s.link0.rxSeq → (s.link0.discarding = false ∨ ctl = true) → frameCredits (b.length - 16) ≤ s.link0.rxCred[1] →
    rxOk (s.link0.rx ++ [RxFrame.mk FClass.reg (b.drop 16) (frameCredits (b.length - 16))]) →
    ∃ t, exec (.lframeReceive .host ctl b) s = .next t ∧ s.Accepted .host b (frameCredits (b.length - 16)) t ∧
      t.link0.rx = s.link0.rx ++ [RxFrame.mk FClass.reg (b.drop 16) (frameCredits (b.length - 16))] ∧ t.link0.tx = s.link0.tx) ∧
  -- LFRAME_RECEIVE
  (∀ (s : State) (ctl : Bool) (b : List Byte), s.lnkState .host = lnkActive → frameGood b → frameType b = 1 → b.length = 24 →
    frameSeq b = s.link0.rxSeq → (s.link0.discarding = false ∨ ctl = true) → 1 ≤ s.link0.rxCred[1] → s.link0.rx = [] →
    badOp (ofBytesBE (b.drop 16)) = true →
    ∃ t, exec (.lframeReceive .host ctl b) s = .next t ∧ s.Accepted .host b 1 t ∧ t.link0.rx = [] ∧
      t.link0.tx = s.link0.tx ++ [TxItem.mk FClass.reg (badOpAnswer (ofBytesBE (b.drop 16))) TxTag.none s.now 0 false]) ∧
  -- LFRAME_RECEIVE
  (∀ (s : State) (l : Link) (ctl : Bool) (b : List Byte), s.lnkState l = lnkActive → frameGood b → frameType b ≠ 0 →
    (l = .host → frameType b ≠ 1) → (l = .pattern → frameType b ≠ 2 ∧ frameType b ≠ 3) →
    frameSeq b = (s.link l).rxSeq → ((s.link l).discarding = false ∨ ctl = true) →
    ∃ t, exec (.lframeReceive l ctl b) s = .next t ∧ s.Accepted l b 0 t ∧ t.lnk l F.LNK_STAT_CLS_ERR = 1 ∧ (t.link l).rx = (s.link l).rx ∧
      t.pair (lnkBase l + R.LNK_CLS_H) = (s.pair (lnkBase l + R.LNK_CLS_H) + 1) % 2 ^ 64 ∧ (∀ m : Link, m ≠ l → t.link m = s.link m)) ∧
  -- LFRAME_RECEIVE
  (∀ (s : State) (l : Link) (ctl : Bool) (b : List Byte), s.lnkState l = lnkActive → frameGood b → frameType b ≠ 0 →
    (s.link l).discarding = false → frameSeq b ≠ (s.link l).rxSeq → ((s.link l).rxSeq - frameSeq b).toNat ≤ 2048 →
    ∃ t, exec (.lframeReceive l ctl b) s = .next t ∧ t.pair (lnkBase l + R.LNK_DUP_H) = (s.pair (lnkBase l + R.LNK_DUP_H) + 1) % 2 ^ 64 ∧
      s.AckTaken l b t ∧ (t.link l).ackAt = some ((s.link l).ackAt.getD s.now) ∧ (t.link l).rx = (s.link l).rx ∧ (t.link l).rxSeq = (s.link l).rxSeq ∧
      (t.link l).txCred = (s.link l).txCred ∧ (∀ m : Link, m ≠ l → t.link m = s.link m)) ∧
  -- LFRAME_RECEIVE
  (∀ (s : State) (l : Link) (ctl : Bool) (b : List Byte), s.lnkState l = lnkActive → frameGood b → frameType b ≠ 0 → (s.link l).discarding = false →
    2048 < ((s.link l).rxSeq - frameSeq b).toNat →
    ∃ t, exec (.lframeReceive l ctl b) s = .next t ∧ t.pair (lnkBase l + R.LNK_NAK_H) = (s.pair (lnkBase l + R.LNK_NAK_H) + 1) % 2 ^ 64 ∧
      t.link l = { s.link l with nakDue := true, nakAt := some s.now } ∧
      (∀ a, a ∉ [lnkBase l + R.LNK_NAK_H, lnkBase l + R.LNK_NAK_H + 4] → t.w a = s.w a) ∧
      (∀ m : Link, m ≠ l → t.link m = s.link m) ∧ t = { s with regs := t.regs, link0 := t.link0, link1 := t.link1 }) ∧
  -- LFRAME_RECEIVE
  (∀ (s : State) (l : Link) (ctl : Bool) (b : List Byte) (c : Fin 6), s.lnkState l = lnkActive → frameGood b → frameType b = c.val →
    ((l = .host ∧ c = 1) ∨ (l = .pattern ∧ (c = 2 ∨ c = 3))) → ((s.link l).discarding = false ∨ ctl = true) →
    frameSeq b = (s.link l).rxSeq → (s.link l).rxCred[c] < frameCredits (b.length - 16) →
    ∃ t, exec (.lframeReceive l ctl b) s = .next t ∧ t.lnk l F.LNK_STAT_CRED_ERR = 1 ∧
      t.link l = (if (s.link l).discarding then s.link l else { s.link l with discarding := true, nakDue := true, nakAt := some s.now }) ∧
      t.pair (lnkBase l + R.LNK_NAK_H) = (s.pair (lnkBase l + R.LNK_NAK_H) + (if (s.link l).discarding then 0 else 1)) % 2 ^ 64 ∧
      (∀ m : Link, m ≠ l → t.link m = s.link m) ∧ t = { s with regs := t.regs, link0 := t.link0, link1 := t.link1 }) ∧
  -- NAK_RECEIVE
  (∀ (s : State) (l : Link) (seq : BitVec 12), (s.lnkState l ≠ lnkActive ∨ (s.link l).unacked = []) →
    ∃ t, exec (.nakReceive l seq) s = .next t ∧ t = s) ∧
  -- NAK_RECEIVE
  (∀ (s : State) (l : Link) (seq : BitVec 12), s.lnkState l = lnkActive → ((s.link l).unacked.any fun (f : UFrame) => f.seq == seq) = true →
    ∃ t, exec (.nakReceive l seq) s = .next t ∧ (t.link l).unacked = (s.link l).after seq ∧
      ((s.link l).after seq = [] → (t.link l).replays = 0 ∧ (t.link l).wire = (s.link l).wire) ∧
      ((s.link l).after seq ≠ [] →
        t.link l = ({ s.link l with unacked := (s.link l).after seq, metas := (s.link l).metas.drop ((s.link l).unacked.length - ((s.link l).after seq).length), replays := 0 } : LinkSt).replayed s.now) ∧
      t.pair (lnkBase l + R.LNK_RPLY_H) = (s.pair (lnkBase l + R.LNK_RPLY_H) + ((s.link l).after seq).length) % 2 ^ 64 ∧
      (∀ m : Link, m ≠ l → t.link m = s.link m) ∧ t.clk = s.clk ∧ s.SameMemory t) ∧
  -- NAK_RECEIVE
  (∀ (s : State) (l : Link) (seq : BitVec 12), s.lnkState l = lnkActive → (s.link l).unacked ≠ [] →
    ((s.link l).unacked.any fun (f : UFrame) => f.seq == seq) = false →
    ∃ t, exec (.nakReceive l seq) s = .next t ∧
      ((s.link l).replays < 4 → t.link l = (s.link l).replayed s.now ∧
        t.pair (lnkBase l + R.LNK_RPLY_H) = (s.pair (lnkBase l + R.LNK_RPLY_H) + (s.link l).unacked.length) % 2 ^ 64 ∧ t.lnkState l = lnkActive) ∧
      (4 ≤ (s.link l).replays → t.lnkState l = lnkDetect ∧ t.lnk l F.LNK_STAT_RETRAIN = 1 ∧
        t.link l = { s.link l with replays := 0, leftAt := some s.now } ∧ t.insvc l = 0) ∧
      (∀ m : Link, m ≠ l → t.link m = s.link m) ∧ t = { s with regs := t.regs, link0 := t.link0, link1 := t.link1 })

/-- LFRAME_SEND, the packing hold, the acknowledgement interval and the replay timeout. Rests on R225, R226, R227,
R228, R230, 10_serial_links. LFRAME_SEND sends a NAK in a CTRL frame first, then a frame due again after an admission,
then the frame of the next class: whole entries, or a record's next piece. A sequenced frame takes the next SEQ,
enters the replay buffer and spends credit; every frame carries the acknowledgement in force and the credits owed of
one class. Where the limits or the credit hold the frame, or nothing is due, nothing goes. FRAME_HOLD_EXPIRY sends the
frame of the class whose hold ends first, at that end, unless a NAK or a frame due again goes before it. ACK_INTERVAL
sends the acknowledgement owed in a CTRL frame. REPLAY_TIMEOUT sends the NAK again or replays from the oldest frame,
whichever is due first; the fifth replay retrains. Outside ACTIVE each does nothing. -/
def Obligations.FramesLeaveInTheirOrder : Prop :=
  -- LFRAME_SEND
  (∀ (s : State) (l : Link), s.lnkState l ≠ lnkActive → ∃ t, exec (.lframeSend l) s = .next t ∧ t = s) ∧
  -- LFRAME_SEND
  (∀ (s : State) (l : Link), s.lnkState l = lnkActive → (s.link l).nakDue = true →
    ∃ t, exec (.lframeSend l) s = .next t ∧ (s.link l).Sent s.now 0 0 true false [] (t.link l) ∧ (t.link l).nakDue = false ∧
      (t.link l).tx = (s.link l).tx ∧ (t.link l).unacked = (s.link l).unacked ∧ (t.link l).txSeq = (s.link l).txSeq ∧
      (∀ m : Link, m ≠ l → t.link m = s.link m) ∧ t = { s with link0 := t.link0, link1 := t.link1 }) ∧
  -- LFRAME_SEND
  (∀ (s : State) (l : Link) (f : UFrame) (rest : List UFrame), s.lnkState l = lnkActive → (s.link l).nakDue = false →
    (s.link l).resend = f :: rest →
    ∃ t, exec (.lframeSend l) s = .next t ∧
      ((s.link l).mayGo f.cls f.payload.length = true → s.SeqSent l f.cls f.items f.payload true t ∧ (t.link l).resend = rest ∧
        (t.link l).tx = (s.link l).tx ∧ t.clk = s.clk) ∧
      ((s.link l).mayGo f.cls f.payload.length = false → t = s)) ∧
  -- LFRAME_SEND
  (∀ (s : State) (l : Link), s.lnkState l = lnkActive → (s.link l).nakDue = false → (s.link l).resend = [] →
    ∃ t, exec (.lframeSend l) s = .next t ∧ (s.nextClass l false = none → t = s) ∧
      (∀ c ∈ s.nextClass l false, s.ClassSent l c t ∧ t.clk = s.clk)) ∧
  -- LFRAME_SEND
  (∀ (s : State) (l : Link) (i : TxItem), s.lnkState l = lnkActive → (s.link l).nakDue = false → (s.link l).resend = [] → (s.link l).tx = [i] →
    i.cls = FClass.msg → i.bytes.length ≤ 256 → (s.link l).mayGo FClass.msg i.bytes.length = true → i.since + s.holdTk l FClass.msg ≤ s.now →
    ∃ t, exec (.lframeSend l) s = .next t ∧ s.SeqSent l .msg [i] i.bytes false t ∧ (t.link l).tx = []) ∧
  -- FRAME_HOLD_EXPIRY
  (∀ (s : State) (l : Link), s.lnkState l = lnkActive → (s.link l).nakDue = false → (s.link l).resend = [] →
    ∃ t, exec (.frameHoldExpiry l) s = .next t ∧ (s.holdNext l = none → t = s) ∧
      (∀ c ∈ s.holdNext l, s.ClassSent l c t ∧ t.clk = (s.reach (s.holdEnd l c)).clk)) ∧
  -- FRAME_HOLD_EXPIRY
  (∀ (s : State) (l : Link), s.lnkState l = lnkActive → (s.link l).nakDue = true →
    ∃ t, exec (.frameHoldExpiry l) s = .next t ∧ (s.link l).Sent s.now 0 0 true false [] (t.link l) ∧ (t.link l).nakDue = false ∧
      (t.link l).tx = (s.link l).tx ∧ t = { s with link0 := t.link0, link1 := t.link1 }) ∧
  -- FRAME_HOLD_EXPIRY
  (∀ (s : State) (l : Link) (f : UFrame) (rest : List UFrame), s.lnkState l = lnkActive → (s.link l).nakDue = false →
    (s.link l).resend = f :: rest →
    ∃ t, exec (.frameHoldExpiry l) s = .next t ∧
      ((s.link l).mayGo f.cls f.payload.length = true → s.SeqSent l f.cls f.items f.payload true t ∧ (t.link l).resend = rest ∧ t.clk = s.clk) ∧
      ((s.link l).mayGo f.cls f.payload.length = false → t = s)) ∧
  -- FRAME_HOLD_EXPIRY
  (∀ (s : State) (l : Link), s.lnkState l ≠ lnkActive → ∃ t, exec (.frameHoldExpiry l) s = .next t ∧ t = s) ∧
  -- ACK_INTERVAL
  (∀ (s : State) (l : Link) (d : Nat), s.lnkState l = lnkActive → (s.link l).ackAt = some d →
    ∃ t, exec (.ackInterval l) s = .next t ∧ t.clk = (s.reach (d + s.lnk l F.LNK_TIMER_ACK_INT * 640)).clk ∧
      (s.link l).Sent t.now 0 0 (s.link l).nakDue false [] (t.link l) ∧ (t.link l).nakDue = false ∧ (t.link l).tx = (s.link l).tx ∧
      (t.link l).unacked = (s.link l).unacked ∧ (∀ m : Link, m ≠ l → t.link m = s.link m) ∧ t = { s with link0 := t.link0, link1 := t.link1, clk := t.clk }) ∧
  -- ACK_INTERVAL
  (∀ (s : State) (l : Link), (s.lnkState l ≠ lnkActive ∨ (s.link l).ackAt = none) → ∃ t, exec (.ackInterval l) s = .next t ∧ t = s) ∧
  -- REPLAY_TIMEOUT
  (∀ (s : State) (l : Link) (d : Nat), s.lnkState l = lnkActive → (s.link l).nakAt = some d →
    ((s.link l).unacked = [] ∨ d ≤ (s.link l).oldestAt) →
    ∃ t, exec (.replayTimeout l) s = .next t ∧ t.clk = (s.reach (d + s.replayTo l)).clk ∧
      t.link l = { s.link l with nakDue := true, nakAt := some t.now } ∧
      t.pair (lnkBase l + R.LNK_NAK_H) = (s.pair (lnkBase l + R.LNK_NAK_H) + 1) % 2 ^ 64 ∧
      (∀ a, a ∉ [lnkBase l + R.LNK_NAK_H, lnkBase l + R.LNK_NAK_H + 4] → t.w a = s.w a) ∧
      (∀ m : Link, m ≠ l → t.link m = s.link m) ∧ t = { s with regs := t.regs, link0 := t.link0, link1 := t.link1, clk := t.clk }) ∧
  -- REPLAY_TIMEOUT
  (∀ (s : State) (l : Link), s.lnkState l = lnkActive → (s.link l).unacked ≠ [] → ((s.link l).nakAt.all fun (d : Nat) => decide ((s.link l).oldestAt < d)) = true →
    ∃ t, exec (.replayTimeout l) s = .next t ∧ t.clk = (s.reach ((s.link l).oldestAt + s.replayTo l)).clk ∧
      ((s.link l).replays < 4 → t.link l = (s.link l).replayed t.now ∧
        t.pair (lnkBase l + R.LNK_RPLY_H) = (s.pair (lnkBase l + R.LNK_RPLY_H) + (s.link l).unacked.length) % 2 ^ 64 ∧
        (∀ a, a ∉ [lnkBase l + R.LNK_RPLY_H, lnkBase l + R.LNK_RPLY_H + 4] → t.w a = s.w a)) ∧
      (4 ≤ (s.link l).replays → t.lnkState l = lnkDetect ∧ t.lnk l F.LNK_STAT_RETRAIN = 1 ∧
        t.link l = { s.link l with replays := 0, leftAt := some t.now } ∧ t.insvc l = 0) ∧
      (∀ m : Link, m ≠ l → t.link m = s.link m) ∧ t = { s with regs := t.regs, link0 := t.link0, link1 := t.link1, clk := t.clk }) ∧
  -- REPLAY_TIMEOUT
  (∀ (s : State) (l : Link), (s.lnkState l ≠ lnkActive ∨ ((s.link l).unacked = [] ∧ (s.link l).nakAt = none)) →
    ∃ t, exec (.replayTimeout l) s = .next t ∧ t = s)

/-- Electrical idle, tap adaptation, lane loss, degrade and the background lock. Rests on R218, R222, R223, R224,
R226, R235, R236, 10_serial_links. EIDLE_ENTER idles a link with nothing to send 2 microseconds after its last sending
and freezes its lanes; EIDLE_WAKE wakes it after the rate's exit time with a burst and ALIGN, applies a window that
fell meanwhile, and loses lanes that did not relock. ADAPT_WINDOW moves a lane's taps by at most one code within 6
codes of training, FAST_ADAPT_END by at most 16, with CLAMP where one is held; a quiet lane freezes and a frozen one
stands. ADAPT_REVERIFY thaws a frozen lane, counts REVF on any error and adapts fast. LANE_LOSS counts the loss and
proposes the reduced mask or retrains below MINW; DEGRADE agrees the intersection and answers it, DEGRADE_ACK
re-stripes, each counting what it takes out, and the timeout retrains. LANE_BACKGROUND_LOCK trains a lane that is not
retired, which joins at the next window. In another state each does nothing. -/
def Obligations.LanesAdaptLeaveAndReturn : Prop :=
  -- EIDLE_ENTER
  (∀ (s : State) (l : Link), s.lnkState l = lnkActive → s.lkA l.idx F.LNK_CFG_EIDLE = 1 → (s.link l).tx = [] → (s.link l).resend = [] →
    (s.link l).nakDue = false → (s.link l).ackAt = none →
    ∃ t, exec (.eidleEnter l) s = .next t ∧ t.clk = (s.reach ((s.link l).busyAt + 2 * tkUs)).clk ∧ t.lnkState l = lnkEidle ∧
      t.link l = { s.link l with wire := [LineOut.ctl .eidleEnter] } ∧
      (∀ k : Lane, t.lnk l (lstat F.LNK_LSTAT_FROZEN k) = if s.lnk l (lstat F.LNK_LSTAT_INSVC k) = 1 then 1 else s.lnk l (lstat F.LNK_LSTAT_FROZEN k)) ∧
      (∀ a, a ≠ lnkBase l + R.LNK_STAT → (a < lnkBase l + R.LNK_LSTAT ∨ lnkBase l + R.LNK_LSTAT + 64 ≤ a) → t.w a = s.w a) ∧
      (∀ m : Link, m ≠ l → t.link m = s.link m) ∧ t = { s with regs := t.regs, link0 := t.link0, link1 := t.link1, clk := t.clk }) ∧
  -- EIDLE_ENTER
  (∀ (s : State) (l : Link), (s.lnkState l ≠ lnkActive ∨ s.lkA l.idx F.LNK_CFG_EIDLE = 0 ∨ (s.link l).tx ≠ [] ∨ (s.link l).resend ≠ [] ∨
      (s.link l).nakDue = true ∨ (s.link l).ackAt ≠ none) →
    ∃ t, exec (.eidleEnter l) s = .next t ∧ t = s) ∧
  -- EIDLE_WAKE
  (∀ (s : State) (l : Link) (relocked : BitVec 16), s.lnkState l = lnkEidle → (s.link l).windowDue = false →
    (∀ k : Lane, s.lnk l (lstat F.LNK_LSTAT_INSVC k) = 1 → relocked.getLsbD k.val = true) →
    ∃ t, exec (.eidleWake l relocked) s = .next t ∧ t.lnkState l = lnkActive ∧
      t.clk = (s.reach (s.now + 640 * (match s.lnk l F.LNK_STAT_RATE_ACT with | 0 => 64 | 1 => 96 | _ => 160))).clk ∧
      t.link l = { s.link l with busyAt := t.now, wire := [LineOut.burst, LineOut.ctl (.align (s.link l).windows (BitVec.ofNat 16 (s.insvc l)))] } ∧
      (∀ a, a ≠ lnkBase l + R.LNK_STAT → t.w a = s.w a) ∧
      (∀ m : Link, m ≠ l → t.link m = s.link m) ∧ t = { s with regs := t.regs, link0 := t.link0, link1 := t.link1, clk := t.clk }) ∧
  -- EIDLE_WAKE
  (∀ (s : State) (l : Link) (relocked : BitVec 16), s.lnkState l = lnkEidle → (s.link l).windowDue = false →
    (∃ k : Lane, s.lnk l (lstat F.LNK_LSTAT_INSVC k) = 1 ∧ relocked.getLsbD k.val = false) →
    ∃ t, exec (.eidleWake l relocked) s = .next t ∧ t.lnk l F.LNK_STAT_LANE_LOST = 1 ∧ (t.lnkState l = lnkDegrade ∨ t.lnkState l = lnkDetect) ∧
      (∀ k : Lane, s.lnk l (lstat F.LNK_LSTAT_INSVC k) = 1 → relocked.getLsbD k.val = false → t.lnk l (lstat F.LNK_LSTAT_INSVC k) = 0) ∧
      t.clk = (s.reach (s.now + 640 * (match s.lnk l F.LNK_STAT_RATE_ACT with | 0 => 64 | 1 => 96 | _ => 160))).clk ∧
      (∀ m : Link, m ≠ l → t.link m = s.link m) ∧ t = { s with regs := t.regs, link0 := t.link0, link1 := t.link1, clk := t.clk }) ∧
  -- EIDLE_WAKE
  (∀ (s : State) (l : Link), s.lnkState l = lnkEidle → (s.link l).windowDue = true →
    ∃ t, exec (.eidleWake l 0xFFFF#16) s = .next t ∧ (t.link l).windowDue = false ∧ (t.lnkState l = lnkActive ∨ t.lnkState l = lnkDetect) ∧
      s.lnk l F.LNK_CFG_HOLD = t.lkA l.idx F.LNK_CFG_HOLD ∧ s.lnk l F.LNK_CFG_EIDLE = t.lkA l.idx F.LNK_CFG_EIDLE ∧
      t.lkA l.idx F.LNK_LANES_EN = s.lnk l F.LNK_LANES_EN ∧
      t.clk = (s.reach (s.now + 640 * (match s.lnk l F.LNK_STAT_RATE_ACT with | 0 => 64 | 1 => 96 | _ => 160))).clk) ∧
  -- EIDLE_WAKE
  (∀ (s : State) (l : Link) (relocked : BitVec 16), s.lnkState l ≠ lnkEidle → ∃ t, exec (.eidleWake l relocked) s = .next t ∧ t = s) ∧
  -- ADAPT_WINDOW
  (∀ (s : State) (l : Link) (k : Lane) (moves : List Int), s.lnkState l = lnkActive → s.lnk l (lstat F.LNK_LSTAT_INSVC k) ≠ 0 →
    s.lnk l (lstat F.LNK_LSTAT_FROZEN k) ≠ 1 →
    ∃ t, exec (.adaptWindow l k moves false) s = .next t ∧
      (t.link l).lanes[k] = { (s.link l).lanes[k] with
        taps := (s.link l).lanes[k].taps.zipWith (fun (x d : Int) => max (-6) (min 6 (x + max (-1) (min 1 d)))) (moves ++ List.replicate 6 0) } ∧
      (((s.link l).lanes[k].taps.zip (moves ++ List.replicate 6 0)).any (fun (p : Int × Int) => decide (6 < p.1 + max (-1) (min 1 p.2) ∨ p.1 + max (-1) (min 1 p.2) < -6)) = true →
        t.lnk l (lstat F.LNK_LSTAT_CLAMP k) = 1) ∧
      (∀ j : Lane, j ≠ k → (t.link l).lanes[j] = (s.link l).lanes[j]) ∧
      (∀ a, a ≠ lnkBase l + R.LNK_LSTAT + 4 * k.val → t.w a = s.w a) ∧
      (∀ m : Link, m ≠ l → t.link m = s.link m) ∧ t = { s with regs := t.regs, link0 := t.link0, link1 := t.link1 }) ∧
  -- ADAPT_WINDOW
  (∀ (s : State) (l : Link) (k : Lane) (moves : List Int), s.lnkState l = lnkActive → s.lnk l (lstat F.LNK_LSTAT_INSVC k) ≠ 0 →
    ∃ t, exec (.adaptWindow l k moves true) s = .next t ∧ t.lnk l (lstat F.LNK_LSTAT_FROZEN k) = 1 ∧
      s.OnlyRegs t [lnkBase l + R.LNK_LSTAT + 4 * k.val]) ∧
  -- ADAPT_WINDOW
  (∀ (s : State) (l : Link) (k : Lane) (moves : List Int) (quiet : Bool),
    (s.lnkState l ≠ lnkActive ∨ s.lnk l (lstat F.LNK_LSTAT_INSVC k) = 0 ∨ (quiet = false ∧ s.lnk l (lstat F.LNK_LSTAT_FROZEN k) = 1)) →
    ∃ t, exec (.adaptWindow l k moves quiet) s = .next t ∧ t = s) ∧
  -- ADAPT_REVERIFY
  (∀ (s : State) (l : Link) (k : Lane) (errors : Nat), s.lnk l (lstat F.LNK_LSTAT_FROZEN k) ≠ 0 →
    ∃ t, exec (.adaptReverify l k errors) s = .next t ∧ t.lnk l (lstat F.LNK_LSTAT_FROZEN k) = 0 ∧
      (errors = 0 → t.lnk l (lstat F.LNK_LSTAT_REVF k) = s.lnk l (lstat F.LNK_LSTAT_REVF k) ∧ t.link l = s.link l) ∧
      (errors ≠ 0 → t.lnk l (lstat F.LNK_LSTAT_REVF k) = min 255 (s.lnk l (lstat F.LNK_LSTAT_REVF k) + 1) ∧
        (t.link l).lanes[k] = { (s.link l).lanes[k] with fast := true }) ∧
      (∀ j : Lane, j ≠ k → (t.link l).lanes[j] = (s.link l).lanes[j]) ∧
      (∀ a, a ≠ lnkBase l + R.LNK_LSTAT + 4 * k.val → t.w a = s.w a) ∧
      (∀ m : Link, m ≠ l → t.link m = s.link m) ∧ t = { s with regs := t.regs, link0 := t.link0, link1 := t.link1 }) ∧
  -- ADAPT_REVERIFY
  (∀ (s : State) (l : Link) (k : Lane) (errors : Nat), s.lnk l (lstat F.LNK_LSTAT_FROZEN k) = 0 → ∃ t, exec (.adaptReverify l k errors) s = .next t ∧ t = s) ∧
  -- FAST_ADAPT_END
  (∀ (s : State) (l : Link) (k : Lane) (moves : List Int), (s.link l).lanes[k].fast = true →
    ∃ t, exec (.fastAdaptEnd l k moves) s = .next t ∧
      (t.link l).lanes[k] = { (s.link l).lanes[k] with
        fast := false, taps := (s.link l).lanes[k].taps.zipWith (fun (x d : Int) => max (-6) (min 6 (x + max (-16) (min 16 d)))) (moves ++ List.replicate 6 0) } ∧
      (((s.link l).lanes[k].taps.zip (moves ++ List.replicate 6 0)).any (fun (p : Int × Int) => decide (6 < p.1 + p.2 ∨ p.1 + p.2 < -6)) = true →
        t.lnk l (lstat F.LNK_LSTAT_CLAMP k) = 1) ∧
      (∀ j : Lane, j ≠ k → (t.link l).lanes[j] = (s.link l).lanes[j]) ∧
      (∀ a, a ≠ lnkBase l + R.LNK_LSTAT + 4 * k.val → t.w a = s.w a) ∧
      (∀ m : Link, m ≠ l → t.link m = s.link m) ∧ t = { s with regs := t.regs, link0 := t.link0, link1 := t.link1 }) ∧
  -- FAST_ADAPT_END
  (∀ (s : State) (l : Link) (k : Lane) (moves : List Int), (s.link l).lanes[k].fast = false → ∃ t, exec (.fastAdaptEnd l k moves) s = .next t ∧ t = s) ∧
  -- LANE_LOSS
  (∀ (s : State) (l : Link) (k : Lane), s.lnkState l ∈ [lnkActive, lnkDegrade, lnkEidle] → s.lnk l (lstat F.LNK_LSTAT_INSVC k) ≠ 0 →
    ∃ t, exec (.laneLoss l k) s = .next t ∧ s.LaneLost l k t ∧
      (s.minw l ≤ maskCount (without (s.insvc l) (s.lpos l k)) → t.lnkState l = lnkDegrade ∧ t.insvc l = without (s.insvc l) (s.lpos l k) ∧
        (t.link l).proposed = BitVec.ofNat 16 (t.insvc l) ∧ (t.link l).degradeBy = s.now + 4 * tkUs ∧
        (t.link l).wire = [LineOut.ctl (.degrade (BitVec.ofNat 16 (t.insvc l)))]) ∧
      (maskCount (without (s.insvc l) (s.lpos l k)) < s.minw l → t.lnkState l = lnkDetect ∧ t.lnk l F.LNK_STAT_RETRAIN = 1 ∧ t.insvc l = 0 ∧
        (t.link l).leftAt = some s.now) ∧
      (∀ j : Lane, j ≠ k → (t.link l).lanes[j] = (s.link l).lanes[j]) ∧ (t.link l).unacked = (s.link l).unacked ∧ (t.link l).txSeq = (s.link l).txSeq ∧
      (∀ a, a ∉ [lnkBase l + R.LNK_STAT, lnkBase l + R.LNK_LANES] → (a < lnkBase l + R.LNK_LSTAT ∨ lnkBase l + R.LNK_LSTAT + 64 ≤ a) →
        t.w a = s.w a) ∧
      (∀ m : Link, m ≠ l → t.link m = s.link m) ∧ t = { s with regs := t.regs, link0 := t.link0, link1 := t.link1 }) ∧
  -- LANE_LOSS
  (∀ (s : State) (l : Link) (k : Lane), (s.lnkState l ∉ [lnkActive, lnkDegrade, lnkEidle] ∨ s.lnk l (lstat F.LNK_LSTAT_INSVC k) = 0) →
    ∃ t, exec (.laneLoss l k) s = .next t ∧ t = s) ∧
  -- DEGRADE
  (∀ (s : State) (l : Link) (mask : BitVec 16), (s.lnkState l = lnkActive ∨ s.lnkState l = lnkDegrade) →
    ∃ t, exec (.degrade l mask) s = .next t ∧
      s.Restriped l (BitVec.ofNat 16 (s.insvc l) &&& mask).toNat [LineOut.ctl (.degradeAck (BitVec.ofNat 16 (s.insvc l) &&& mask))] t ∧
      (∀ k : Lane, s.lnk l (lstat F.LNK_LSTAT_INSVC k) = 1 → ((BitVec.ofNat 16 (s.insvc l) &&& mask).toNat).testBit (s.lpos l k) = false → s.LaneLost l k t) ∧
      (∀ m : Link, m ≠ l → t.link m = s.link m) ∧ t = { s with regs := t.regs, link0 := t.link0, link1 := t.link1 }) ∧
  -- DEGRADE
  (∀ (s : State) (l : Link) (mask : BitVec 16), s.lnkState l ≠ lnkActive → s.lnkState l ≠ lnkDegrade → ∃ t, exec (.degrade l mask) s = .next t ∧ t = s) ∧
  -- DEGRADE_ACK
  (∀ (s : State) (l : Link) (mask : BitVec 16), s.lnkState l = lnkDegrade →
    ∃ t, exec (.degradeAck l mask) s = .next t ∧ s.Restriped l ((s.link l).proposed &&& mask).toNat [] t ∧
      (∀ k : Lane, s.lnk l (lstat F.LNK_LSTAT_INSVC k) = 1 → (((s.link l).proposed &&& mask).toNat).testBit (s.lpos l k) = false → s.LaneLost l k t) ∧
      (∀ m : Link, m ≠ l → t.link m = s.link m) ∧ t = { s with regs := t.regs, link0 := t.link0, link1 := t.link1 }) ∧
  -- DEGRADE_ACK
  (∀ (s : State) (l : Link) (mask : BitVec 16), s.lnkState l ≠ lnkDegrade → ∃ t, exec (.degradeAck l mask) s = .next t ∧ t = s) ∧
  -- DEGRADE_ACK_TIMEOUT
  (∀ (s : State) (l : Link), s.lnkState l = lnkDegrade →
    ∃ t, exec (.degradeAckTimeout l) s = .next t ∧ t.clk = (s.reach (s.link l).degradeBy).clk ∧ t.lnkState l = lnkDetect ∧
      t.lnk l F.LNK_STAT_RETRAIN = 1 ∧ t.insvc l = 0 ∧ t.link l = { s.link l with leftAt := some t.now } ∧
      (∀ m : Link, m ≠ l → t.link m = s.link m) ∧ t = { s with regs := t.regs, link0 := t.link0, link1 := t.link1, clk := t.clk }) ∧
  -- DEGRADE_ACK_TIMEOUT
  (∀ (s : State) (l : Link), s.lnkState l ≠ lnkDegrade → ∃ t, exec (.degradeAckTimeout l) s = .next t ∧ t = s) ∧
  -- LANE_BACKGROUND_LOCK
  (∀ (s : State) (l : Link) (k : Lane), s.lnkState l = lnkActive → s.lnk l (lstat F.LNK_LSTAT_RETIRED k) = 0 →
    s.lnk l (lstat F.LNK_LSTAT_INSVC k) = 0 →
    ∃ t, exec (.laneBackgroundLock l k) s = .next t ∧
      (t.link l).lanes[k] = { (s.link l).lanes[k] with locked := true, taps := List.replicate 6 0, fast := false, joining := true } ∧
      t.lnk l (lstat F.LNK_LSTAT_FROZEN k) = 0 ∧ (∀ j : Lane, j ≠ k → (t.link l).lanes[j] = (s.link l).lanes[j]) ∧
      t.link l = { s.link l with lanes := (t.link l).lanes } ∧ (∀ m : Link, m ≠ l → t.link m = s.link m) ∧
      (∀ a, a ≠ lnkBase l + R.LNK_LSTAT + 4 * k.val → t.w a = s.w a) ∧ t = { s with regs := t.regs, link0 := t.link0, link1 := t.link1 }) ∧
  -- LANE_BACKGROUND_LOCK
  (∀ (s : State) (l : Link) (k : Lane), (s.lnkState l ≠ lnkActive ∨ s.lnk l (lstat F.LNK_LSTAT_RETIRED k) ≠ 0 ∨ s.lnk l (lstat F.LNK_LSTAT_INSVC k) ≠ 0) →
    ∃ t, exec (.laneBackgroundLock l k) s = .next t ∧ t = s)

/-- READ, WRITE, WRITE_ACK and the DIRECT operations of the host link, with their answers. Rests on R228, R233, R234,
R279, R280, R285, R291, 10_serial_links. A REG_READ is answered with the words read. A posted REG_WRITE that is
accepted writes and is not answered; one refused is answered with its STATUS. A WRITE_ACK writes and is answered. The
DIRECT operations do the same where DEV_MODE.DIRECT_EN is set and are refused with ACC_FAULT where it is not. Every
request that names an access runs word after word, by its STEP, up to a word that is refused, and its answer tells how
far it came. A request whose COUNT or BE names no access is answered with STATUS 0x03 and has no effect. While the
partner's credit holds a full queue of answers, requests wait. The single words stated use the group masks as plain
registers and TB_SRC as a guarded one. -/
def Obligations.RegisterRequestsRunInOrder : Prop :=
  -- REG_READ
  (∀ (s : State) (tag : BitVec 12) (count : BitVec 6) (be : BitVec 4) (step : BitVec 2) (addr : BitVec 24) (r : List RxFrame) (c : Nat),
    s.classStalls .host .reg = false → takeRx .reg 8 s.link0.rx = (r, c) → rxOk r → (62 < count.toNat + 1 ∨ (count = 0#6 ∧ be ∉ [0xF#4, 0x3#4, 0xC#4, 1#4, 2#4, 4#4, 8#4, 6#4]) ∨ (count ≠ 0#6 ∧ be ≠ 0xF#4)) →
    ∃ t, exec (.regRead tag count be step addr) s = .next t ∧
      t.link0 = { s.link0 with rx := r, credOwed := s.link0.credOwed.set! 1 (s.link0.credOwed[1] + c), busyAt := s.now, tx := s.link0.tx ++ [TxItem.mk FClass.reg (bytesBE 8 (8 * 2 ^ 60 + tag.toNat * 2 ^ 48 + count.toNat * 2 ^ 42 + be.toNat * 2 ^ 38 + 3 * 2 ^ 24 + addr.toNat)) TxTag.none s.now 0 false] } ∧ t = { s with link0 := t.link0 }) ∧
  -- REG_READ
  (∀ (s : State) (tag : BitVec 12) (count : BitVec 6) (be : BitVec 4) (step : BitVec 2) (addr : BitVec 24) (d : RegDone) (u : State),
    s.classStalls .host .reg = false → ({ op := 1#4, tag := tag, count := count, be := be, step := step, addr := addr, data := [] } : RegMsg).bad = false →
    (s.takeContent .host .reg 8).regReads be step.toNat (count.toNat + 1) addr.toNat { done := 0, data := [], status := 0, faddr := 0 } = (d, u) →
    ∃ t, exec (.regRead tag count be step addr) s = .next t ∧ t = (u.send .host .reg (({ op := 1#4, tag := tag, count := count, be := be, step := step, addr := addr, data := [] } : RegMsg).response d) .none).refuseBadOps) ∧
  -- REG_READ
  (∀ (s : State) (tag : BitVec 12) (count : BitVec 6) (be : BitVec 4) (step : BitVec 2) (addr : BitVec 24), s.classStalls .host .reg = true →
    ∃ t, exec (.regRead tag count be step addr) s = .next t ∧ t = s) ∧
  -- REG_WRITE
  (∀ (s : State) (tag : BitVec 12) (count : BitVec 6) (be : BitVec 4) (step : BitVec 2) (addr : BitVec 24) (data : List Word) (r : List RxFrame) (c : Nat),
    s.classStalls .host .reg = false → takeRx .reg (12 + 4 * count.toNat) s.link0.rx = (r, c) → rxOk r → (62 < count.toNat + 1 ∨ (count = 0#6 ∧ be ∉ [0xF#4, 0x3#4, 0xC#4, 1#4, 2#4, 4#4, 8#4, 6#4]) ∨ (count ≠ 0#6 ∧ be ≠ 0xF#4)) →
    ∃ t, exec (.regWrite tag count be step addr data) s = .next t ∧
      t.link0 = { s.link0 with rx := r, credOwed := s.link0.credOwed.set! 1 (s.link0.credOwed[1] + c), busyAt := s.now, tx := s.link0.tx ++ [TxItem.mk FClass.reg (bytesBE 8 (8 * 2 ^ 60 + tag.toNat * 2 ^ 48 + count.toNat * 2 ^ 42 + be.toNat * 2 ^ 38 + 3 * 2 ^ 24 + addr.toNat)) TxTag.none s.now 0 false] } ∧ t = { s with link0 := t.link0 }) ∧
  -- REG_WRITE
  (∀ (s : State) (tag : BitVec 12) (count : BitVec 6) (be : BitVec 4) (step : BitVec 2) (addr : BitVec 24) (data : List Word) (d : RegDone) (u : State),
    s.classStalls .host .reg = false → ({ op := 2#4, tag := tag, count := count, be := be, step := step, addr := addr, data := data } : RegMsg).bad = false →
    (s.takeContent .host .reg (12 + 4 * count.toNat)).regWrites be step.toNat (data.take (count.toNat + 1)) addr.toNat { done := 0, data := [], status := 0, faddr := 0 } = (d, u) →
    ∃ t, exec (.regWrite tag count be step addr data) s = .next t ∧ (d.status ≠ 0 → t = (u.send .host .reg (({ op := 2#4, tag := tag, count := count, be := be, step := step, addr := addr, data := data } : RegMsg).response d) .none).refuseBadOps) ∧ (d.status = 0 → t = u.refuseBadOps)) ∧
  -- REG_WRITE
  (∀ (s : State) (tag : BitVec 12) (count : BitVec 6) (be : BitVec 4) (step : BitVec 2) (addr : BitVec 24) (data : List Word), s.classStalls .host .reg = true →
    ∃ t, exec (.regWrite tag count be step addr data) s = .next t ∧ t = s) ∧
  -- WRITE_ACK
  (∀ (s : State) (tag : BitVec 12) (count : BitVec 6) (be : BitVec 4) (step : BitVec 2) (addr : BitVec 24) (data : List Word) (r : List RxFrame) (c : Nat),
    s.classStalls .host .reg = false → takeRx .reg (12 + 4 * count.toNat) s.link0.rx = (r, c) → rxOk r → (62 < count.toNat + 1 ∨ (count = 0#6 ∧ be ∉ [0xF#4, 0x3#4, 0xC#4, 1#4, 2#4, 4#4, 8#4, 6#4]) ∨ (count ≠ 0#6 ∧ be ≠ 0xF#4)) →
    ∃ t, exec (.writeAck tag count be step addr data) s = .next t ∧
      t.link0 = { s.link0 with rx := r, credOwed := s.link0.credOwed.set! 1 (s.link0.credOwed[1] + c), busyAt := s.now, tx := s.link0.tx ++ [TxItem.mk FClass.reg (bytesBE 8 (8 * 2 ^ 60 + tag.toNat * 2 ^ 48 + count.toNat * 2 ^ 42 + be.toNat * 2 ^ 38 + 3 * 2 ^ 24 + addr.toNat)) TxTag.none s.now 0 false] } ∧ t = { s with link0 := t.link0 }) ∧
  -- WRITE_ACK
  (∀ (s : State) (tag : BitVec 12) (count : BitVec 6) (be : BitVec 4) (step : BitVec 2) (addr : BitVec 24) (data : List Word) (d : RegDone) (u : State),
    s.classStalls .host .reg = false → ({ op := 3#4, tag := tag, count := count, be := be, step := step, addr := addr, data := data } : RegMsg).bad = false →
    (s.takeContent .host .reg (12 + 4 * count.toNat)).regWrites be step.toNat (data.take (count.toNat + 1)) addr.toNat { done := 0, data := [], status := 0, faddr := 0 } = (d, u) →
    ∃ t, exec (.writeAck tag count be step addr data) s = .next t ∧ t = (u.send .host .reg (({ op := 3#4, tag := tag, count := count, be := be, step := step, addr := addr, data := data } : RegMsg).response d) .none).refuseBadOps) ∧
  -- WRITE_ACK
  (∀ (s : State) (tag : BitVec 12) (count : BitVec 6) (be : BitVec 4) (step : BitVec 2) (addr : BitVec 24) (data : List Word), s.classStalls .host .reg = true →
    ∃ t, exec (.writeAck tag count be step addr data) s = .next t ∧ t = s) ∧
  -- DIRECT_READ
  (∀ (s : State) (tag : BitVec 12) (count : BitVec 6) (be : BitVec 4) (step : BitVec 2) (addr : BitVec 24) (r : List RxFrame) (c : Nat),
    s.classStalls .host .reg = false → takeRx .reg 8 s.link0.rx = (r, c) → rxOk r → (62 < count.toNat + 1 ∨ (count = 0#6 ∧ be ∉ [0xF#4, 0x3#4, 0xC#4, 1#4, 2#4, 4#4, 8#4, 6#4]) ∨ (count ≠ 0#6 ∧ be ≠ 0xF#4) ∨ count ≠ 0#6) →
    ∃ t, exec (.directRead tag count be step addr) s = .next t ∧
      t.link0 = { s.link0 with rx := r, credOwed := s.link0.credOwed.set! 1 (s.link0.credOwed[1] + c), busyAt := s.now, tx := s.link0.tx ++ [TxItem.mk FClass.reg (bytesBE 8 (8 * 2 ^ 60 + tag.toNat * 2 ^ 48 + count.toNat * 2 ^ 42 + be.toNat * 2 ^ 38 + 3 * 2 ^ 24 + addr.toNat)) TxTag.none s.now 0 false] } ∧ t = { s with link0 := t.link0 }) ∧
  -- DIRECT_READ
  (∀ (s : State) (tag : BitVec 12) (count : BitVec 6) (be : BitVec 4) (step : BitVec 2) (addr : BitVec 24) (d : RegDone) (u : State),
    s.classStalls .host .reg = false → s.tvB 0 F.DEV_MODE_DIRECT_EN = true → ({ op := 4#4, tag := tag, count := count, be := be, step := step, addr := addr, data := [] } : RegMsg).bad = false →
    (s.takeContent .host .reg 8).regReads be step.toNat (count.toNat + 1) addr.toNat { done := 0, data := [], status := 0, faddr := 0 } = (d, u) →
    ∃ t, exec (.directRead tag count be step addr) s = .next t ∧ t = (u.send .host .reg (({ op := 4#4, tag := tag, count := count, be := be, step := step, addr := addr, data := [] } : RegMsg).response d) .none).refuseBadOps) ∧
  -- DIRECT_READ
  (∀ (s : State) (tag : BitVec 12) (count : BitVec 6) (be : BitVec 4) (step : BitVec 2) (addr : BitVec 24), s.classStalls .host .reg = true →
    ∃ t, exec (.directRead tag count be step addr) s = .next t ∧ t = s) ∧
  -- DIRECT_WRITE
  (∀ (s : State) (tag : BitVec 12) (count : BitVec 6) (be : BitVec 4) (step : BitVec 2) (addr : BitVec 24) (data : List Word) (r : List RxFrame) (c : Nat),
    s.classStalls .host .reg = false → takeRx .reg (12 + 4 * count.toNat) s.link0.rx = (r, c) → rxOk r → (62 < count.toNat + 1 ∨ (count = 0#6 ∧ be ∉ [0xF#4, 0x3#4, 0xC#4, 1#4, 2#4, 4#4, 8#4, 6#4]) ∨ (count ≠ 0#6 ∧ be ≠ 0xF#4) ∨ count ≠ 0#6) →
    ∃ t, exec (.directWrite tag count be step addr data) s = .next t ∧
      t.link0 = { s.link0 with rx := r, credOwed := s.link0.credOwed.set! 1 (s.link0.credOwed[1] + c), busyAt := s.now, tx := s.link0.tx ++ [TxItem.mk FClass.reg (bytesBE 8 (8 * 2 ^ 60 + tag.toNat * 2 ^ 48 + count.toNat * 2 ^ 42 + be.toNat * 2 ^ 38 + 3 * 2 ^ 24 + addr.toNat)) TxTag.none s.now 0 false] } ∧ t = { s with link0 := t.link0 }) ∧
  -- DIRECT_WRITE
  (∀ (s : State) (tag : BitVec 12) (count : BitVec 6) (be : BitVec 4) (step : BitVec 2) (addr : BitVec 24) (data : List Word) (d : RegDone) (u : State),
    s.classStalls .host .reg = false → s.tvB 0 F.DEV_MODE_DIRECT_EN = true → ({ op := 5#4, tag := tag, count := count, be := be, step := step, addr := addr, data := data } : RegMsg).bad = false →
    (s.takeContent .host .reg (12 + 4 * count.toNat)).regWrites be step.toNat (data.take (count.toNat + 1)) addr.toNat { done := 0, data := [], status := 0, faddr := 0 } = (d, u) →
    ∃ t, exec (.directWrite tag count be step addr data) s = .next t ∧ t = (u.send .host .reg (({ op := 5#4, tag := tag, count := count, be := be, step := step, addr := addr, data := data } : RegMsg).response d) .none).refuseBadOps) ∧
  -- DIRECT_WRITE
  (∀ (s : State) (tag : BitVec 12) (count : BitVec 6) (be : BitVec 4) (step : BitVec 2) (addr : BitVec 24) (data : List Word), s.classStalls .host .reg = true →
    ∃ t, exec (.directWrite tag count be step addr data) s = .next t ∧ t = s) ∧
  -- REG_READ
  (∀ (s : State) (tag : BitVec 12) (addr : BitVec 24) (g : Fin 16) (j : Fin 4) (r : List RxFrame) (c : Nat),
    s.classStalls .host .reg = false → takeRx .reg 8 s.link0.rx = (r, c) → rxOk r → addr.toNat = R.UG_MASK + 0x20 * g.val + 4 * j.val →
    ∃ t, exec (.regRead tag 0#6 0xF#4 0#2 addr) s = .next t ∧
      t.link0 = { s.link0 with rx := r, credOwed := s.link0.credOwed.set! 1 (s.link0.credOwed[1] + c), busyAt := s.now, tx := s.link0.tx ++ [TxItem.mk FClass.reg (bytesBE 8 (8 * 2 ^ 60 + tag.toNat * 2 ^ 48 + 15 * 2 ^ 38 + 1 * 2 ^ 32) ++ wordBytes (s.w addr.toNat)) TxTag.none s.now 0 false] } ∧
      t = { s with link0 := t.link0, paths := t.paths } ∧ (∀ q : Sys2Proof.Path, q ≠ Sys2Proof.Path.host → t.path q = s.path q)) ∧
  -- REG_READ
  (∀ (s : State) (tag : BitVec 12) (addr : BitVec 24) (g : Fin 16) (j : Fin 3) (r : List RxFrame) (c : Nat),
    s.classStalls .host .reg = false → takeRx .reg 8 s.link0.rx = (r, c) → rxOk r → addr.toNat = R.UG_MASK + 0x20 * g.val + 4 * j.val →
    ∃ t, exec (.regRead tag 1#6 0xF#4 1#2 addr) s = .next t ∧
      t.link0.tx = s.link0.tx ++ [TxItem.mk FClass.reg (bytesBE 8 (8 * 2 ^ 60 + tag.toNat * 2 ^ 48 + 1 * 2 ^ 42 + 15 * 2 ^ 38 + 2 * 2 ^ 32) ++
          (wordBytes (s.w addr.toNat) ++ wordBytes (s.w (addr.toNat + 4)))) TxTag.none s.now 0 false] ∧
      t = { s with link0 := t.link0, paths := t.paths }) ∧
  -- REG_READ
  (∀ (s : State) (tag : BitVec 12) (be : BitVec 4) (addr : BitVec 24) (r : List RxFrame) (c : Nat),
    s.classStalls .host .reg = false → takeRx .reg 8 s.link0.rx = (r, c) → rxOk r → be ∈ [0xF#4, 0x3#4, 0xC#4, 1#4, 2#4, 4#4, 8#4] → addr.toNat % 4 ≠ 0 →
    ∃ t, exec (.regRead tag 0#6 be 0#2 addr) s = .next t ∧ t.fb 0 F.PRT_STAT_ACC_FAULT = true ∧
      t.f 0 F.PRT_FAULTA_ADDR = addr.toNat ∧ t.f 0 F.PRT_FAULTA_CAUSE = causeAlign ∧
      t.link0.tx = s.link0.tx ++ [TxItem.mk FClass.reg (bytesBE 8 (8 * 2 ^ 60 + tag.toNat * 2 ^ 48 + be.toNat * 2 ^ 38 +
          1 * 2 ^ 24 + addr.toNat)) TxTag.none s.now 0 false] ∧
      (∀ a, a ∉ [R.PRT_STAT, R.PRT_FAULTA] → t.w a = s.w a) ∧ t = { s with regs := t.regs, link0 := t.link0, paths := t.paths }) ∧
  -- REG_WRITE
  (∀ (s : State) (tag : BitVec 12) (addr : BitVec 24) (w : Word) (g : Fin 16) (j : Fin 4) (r : List RxFrame) (c : Nat), s.Serves →
    s.classStalls .host .reg = false → takeRx .reg 12 s.link0.rx = (r, c) → rxOk r → addr.toNat = R.UG_MASK + 0x20 * g.val + 4 * j.val →
    ∃ t, exec (.regWrite tag 0#6 0xF#4 0#2 addr [w]) s = .next t ∧ t.w addr.toNat = w ∧
      t.link0 = { s.link0 with rx := r, credOwed := s.link0.credOwed.set! 1 (s.link0.credOwed[1] + c) } ∧
      (∀ a, a ≠ addr.toNat → t.w a = s.w a) ∧ t = { s with regs := t.regs, link0 := t.link0, paths := t.paths }) ∧
  -- REG_WRITE
  (∀ (s : State) (tag : BitVec 12) (addr : BitVec 24) (w : Word) (r : List RxFrame) (c : Nat), addr.toNat = R.TB_SRC →
    s.armed 0 = false → s.classStalls .host .reg = false → takeRx .reg 12 s.link0.rx = (r, c) → rxOk r → s.od.mailbox = none →
    ∃ t, exec (.regWrite tag 0#6 0xF#4 0#2 addr [w]) s = .next t ∧ t.fb 0 F.PRT_STAT_GUARD_REJ = true ∧
      t.link0.tx = s.link0.tx ++ [TxItem.mk FClass.reg (bytesBE 8 (8 * 2 ^ 60 + tag.toNat * 2 ^ 48 + 15 * 2 ^ 38 +
          2 * 2 ^ 24 + addr.toNat)) TxTag.none s.now 0 false] ∧
      (∀ a, a ≠ R.PRT_STAT → t.w a = s.w a) ∧ t = { s with regs := t.regs, link0 := t.link0, paths := t.paths }) ∧
  -- WRITE_ACK
  (∀ (s : State) (tag : BitVec 12) (addr : BitVec 24) (w : Word) (g : Fin 16) (j : Fin 4) (r : List RxFrame) (c : Nat), s.Serves →
    s.classStalls .host .reg = false → takeRx .reg 12 s.link0.rx = (r, c) → rxOk r → addr.toNat = R.UG_MASK + 0x20 * g.val + 4 * j.val →
    ∃ t, exec (.writeAck tag 0#6 0xF#4 0#2 addr [w]) s = .next t ∧ t.w addr.toNat = w ∧
      t.link0 = { s.link0 with rx := r, credOwed := s.link0.credOwed.set! 1 (s.link0.credOwed[1] + c), busyAt := s.now, tx := s.link0.tx ++ [TxItem.mk FClass.reg (bytesBE 8 (8 * 2 ^ 60 + tag.toNat * 2 ^ 48 + 15 * 2 ^ 38 + 1 * 2 ^ 32)) TxTag.none s.now 0 false] } ∧
      (∀ a, a ≠ addr.toNat → t.w a = s.w a) ∧ t = { s with regs := t.regs, link0 := t.link0, paths := t.paths }) ∧
  -- DIRECT_READ
  (∀ (s : State) (tag : BitVec 12) (addr : BitVec 24) (g : Fin 16) (j : Fin 4) (r : List RxFrame) (c : Nat), s.tvB 0 F.DEV_MODE_DIRECT_EN = true →
    s.classStalls .host .reg = false → takeRx .reg 8 s.link0.rx = (r, c) → rxOk r → addr.toNat = R.UG_MASK + 0x20 * g.val + 4 * j.val →
    ∃ t, exec (.directRead tag 0#6 0xF#4 0#2 addr) s = .next t ∧
      t.link0.tx = s.link0.tx ++ [TxItem.mk FClass.reg (bytesBE 8 (8 * 2 ^ 60 + tag.toNat * 2 ^ 48 + 15 * 2 ^ 38 + 1 * 2 ^ 32) ++
          wordBytes (s.w addr.toNat)) TxTag.none s.now 0 false] ∧ t = { s with link0 := t.link0, paths := t.paths }) ∧
  -- DIRECT_READ
  (∀ (s : State) (tag : BitVec 12) (be : BitVec 4) (addr : BitVec 24) (r : List RxFrame) (c : Nat), s.tvB 0 F.DEV_MODE_DIRECT_EN = false →
    be ∈ [0xF#4, 0x3#4, 0xC#4, 1#4, 2#4, 4#4, 8#4, 6#4] → s.classStalls .host .reg = false → takeRx .reg 8 s.link0.rx = (r, c) → rxOk r →
    ∃ t, exec (.directRead tag 0#6 be 0#2 addr) s = .next t ∧ t.fb 0 F.PRT_STAT_ACC_FAULT = true ∧ t.f 0 F.PRT_FAULTA_CAUSE = causePath ∧
      t.link0.tx = s.link0.tx ++ [TxItem.mk FClass.reg (bytesBE 8 (8 * 2 ^ 60 + tag.toNat * 2 ^ 48 + be.toNat * 2 ^ 38 +
          1 * 2 ^ 24 + addr.toNat)) TxTag.none s.now 0 false] ∧
      (∀ a, a ∉ [R.PRT_STAT, R.PRT_FAULTA] → t.w a = s.w a) ∧ t = { s with regs := t.regs, link0 := t.link0 }) ∧
  -- DIRECT_WRITE
  (∀ (s : State) (tag : BitVec 12) (be : BitVec 4) (addr : BitVec 24) (data : List Word) (r : List RxFrame) (c : Nat), s.tvB 0 F.DEV_MODE_DIRECT_EN = false →
    be ∈ [0xF#4, 0x3#4, 0xC#4, 1#4, 2#4, 4#4, 8#4, 6#4] → s.classStalls .host .reg = false → takeRx .reg 12 s.link0.rx = (r, c) → rxOk r →
    ∃ t, exec (.directWrite tag 0#6 be 0#2 addr data) s = .next t ∧ t.fb 0 F.PRT_STAT_ACC_FAULT = true ∧ t.f 0 F.PRT_FAULTA_CAUSE = causePath ∧
      t.link0.tx = s.link0.tx ++ [TxItem.mk FClass.reg (bytesBE 8 (8 * 2 ^ 60 + tag.toNat * 2 ^ 48 + be.toNat * 2 ^ 38 +
          1 * 2 ^ 24 + addr.toNat)) TxTag.none s.now 0 false] ∧
      (∀ a, a ∉ [R.PRT_STAT, R.PRT_FAULTA] → t.w a = s.w a) ∧ t = { s with regs := t.regs, link0 := t.link0 }) ∧
  -- DIRECT_WRITE
  (∀ (s : State) (tag : BitVec 12) (addr : BitVec 24) (w : Word) (g : Fin 16) (j : Fin 4) (r : List RxFrame) (c : Nat), s.Serves →
    s.tvB 0 F.DEV_MODE_DIRECT_EN = true → s.classStalls .host .reg = false → takeRx .reg 12 s.link0.rx = (r, c) → rxOk r →
    addr.toNat = R.UG_MASK + 0x20 * g.val + 4 * j.val →
    ∃ t, exec (.directWrite tag 0#6 0xF#4 0#2 addr [w]) s = .next t ∧ t.w addr.toNat = w ∧
      t.link0.tx = s.link0.tx ++ [TxItem.mk FClass.reg (bytesBE 8 (8 * 2 ^ 60 + tag.toNat * 2 ^ 48 + 15 * 2 ^ 38 + 1 * 2 ^ 32)) TxTag.none s.now 0 false] ∧
      (∀ a, a ≠ addr.toNat → t.w a = s.w a) ∧ t = { s with regs := t.regs, link0 := t.link0, paths := t.paths })

/-- Forwarded frames take the other port, wait in its buffer or are dropped; ports and BYPASS_N follow their commands.
Rests on R238, R239, R240, R241, R242, R249, R250, R251, R252, 11_field_network_and_time. ETH_FRAME_FORWARD sends an
accepted frame out of the other port at once when that is idle, else after the frames in its 16 KiB buffer; a frame
that does not fit, or meets a port that is down, is dropped with FWD_DROP and NET_DROP. A bad FCS is counted and
forwarded. The clock adds the residence time to correctionField end to end, and peer to peer for a Sync alone, with
the ingress port's link delay where it is measured, else PDLY_NONE; other frames pass unchanged, those it cannot
correct with UNCOR counted. A port that is down, an unaccepted frame, MAC control, a frame for this node alone and
peer-to-peer Pdelay forward nothing. ETH_EGRESS_FREE puts forwarded frames on the wire before the device's own.
ETH_LINK_DOWN discards a port's frames, counting forwarded ones, and unmeasures its delay; ETH_LINK_UP sets the link
of an enabled port, unmeasured, and nothing for another. NET_RATE_WRITE stores NET_CFG, restarts both ports on a
change of RATE or AN and takes down a port it disables; BYP_SET, which wins, and BYP_CLR drive BYPASS_N. -/
def Obligations.EthernetForwardsAndDrops : Prop :=
  -- ETH_FRAME_FORWARD
  (∀ (s : State) (p : Port) (f : EthFrame) (r : Nat),
    (s.portUp p = false ∨ ethAccepted f.bytes = false ∨ (ethType f.bytes).1 = 0x8808 ∨ s.uldDst f.bytes = some s.nodeId ∨
      (s.p2p = true ∧ isPdelay f.bytes = true)) →
    ∃ t, exec (.ethFrameForward p f r) s = .next t ∧ t = s) ∧
  -- ETH_FRAME_FORWARD
  (∀ (s : State) (p : Port) (f : EthFrame) (r : Nat), s.portUp p = true → ethAccepted f.bytes = true →
    (ethType f.bytes).1 ≠ 0x8808 → s.uldDst f.bytes ≠ some s.nodeId →
    (s.fb 0 F.NET_CFG_TC_EN = false ∨ ptpClass f.bytes = PtpClass.notPtp ∨ ptpClass f.bytes = PtpClass.general) →
    ∃ t, exec (.ethFrameForward p f r) s = .next t ∧ s.Forwarded p f t ∧ s.NoClockReport t) ∧
  -- ETH_FRAME_FORWARD
  (∀ (s : State) (p : Port) (f : EthFrame) (r : Nat), s.portUp p = true → ethAccepted f.bytes = true →
    (ethType f.bytes).1 ≠ 0x8808 → s.uldDst f.bytes ≠ some s.nodeId → s.fb 0 F.NET_CFG_TC_EN = true →
    ptpClass f.bytes = PtpClass.uncorrected →
    ∃ t, exec (.ethFrameForward p f r) s = .next t ∧ s.Forwarded p f t ∧ t.fb 0 F.NET_STAT_UNCOR = true ∧
      t.pair R.NET_UNCOR_H = (s.pair R.NET_UNCOR_H + 1) % 2 ^ 64) ∧
  -- ETH_FRAME_FORWARD
  (∀ (s : State) (p : Port) (f : EthFrame) (r m off : Nat) (cs : Option Nat), s.portUp p = true → ethAccepted f.bytes = true →
    (ethType f.bytes).1 ≠ 0x8808 → s.uldDst f.bytes ≠ some s.nodeId → ptpClass f.bytes = PtpClass.event m off cs →
    s.fb 0 F.NET_CFG_TC_EN = true → s.fb 0 F.NET_CFG_TC_P2P = false →
    ∃ t, exec (.ethFrameForward p f r) s = .next t ∧ s.NoClockReport t ∧
      (m ≠ 10 → s.Forwarded p (EthFrame.mk (correct f.bytes off cs r) (f.fcsOk)) t) ∧ (m = 10 → s.Forwarded p f t)) ∧
  -- ETH_FRAME_FORWARD
  (∀ (s : State) (p : Port) (f : EthFrame) (r m off : Nat) (cs : Option Nat), s.portUp p = true → ethAccepted f.bytes = true →
    (ethType f.bytes).1 ≠ 0x8808 → s.uldDst f.bytes ≠ some s.nodeId → ptpClass f.bytes = PtpClass.event m off cs → s.p2p = true →
    m ≠ 2 → m ≠ 3 → m ≠ 10 →
    ∃ t, exec (.ethFrameForward p f r) s = .next t ∧
      (m = 0 → s.pdly p = pdlyNone → s.Forwarded p (EthFrame.mk (correct f.bytes off cs r) (f.fcsOk)) t ∧ t.fb 0 F.NET_STAT_PDLY_NONE = true) ∧
      (m = 0 → s.pdly p ≠ pdlyNone →
        s.Forwarded p (EthFrame.mk (correct f.bytes off cs (r + (s.pdly p).toNat * 256)) (f.fcsOk)) t ∧ s.NoClockReport t) ∧
      (m ≠ 0 → s.Forwarded p f t ∧ s.NoClockReport t)) ∧
  -- ETH_EGRESS_FREE
  (∀ (s : State) (p : Port), ∃ t, exec (.ethEgressFree p) s = .next t ∧
      (∀ f ∈ (s.port p).buf.head?, t.port p = { s.port p with buf := (s.port p).buf.tail, busy := true, sent := WireFrame.forwarded f }) ∧
      ((s.port p).buf = [] → ∀ o ∈ (s.port p).own.head?, t.port p = { s.port p with own := (s.port p).own.tail, busy := true, sent := WireFrame.own o }) ∧
      ((s.port p).buf = [] → (s.port p).own = [] → t.port p = { s.port p with busy := false }) ∧
      t.port p.other = s.port p.other ∧ t.net.doms = s.net.doms ∧ t = { s with net := t.net }) ∧
  -- ETH_LINK_DOWN
  (∀ (s : State) (p : Port), ∃ t, exec (.ethLinkDown p) s = .next t ∧ t.fb 0 (linkFld p) = false ∧ t.pdly p = pdlyNone ∧
      t.port p = { s.port p with busy := false, buf := [], own := [], pdOpen := false } ∧
      t.pair R.NET_DROP_H = (s.pair R.NET_DROP_H + (s.port p).buf.length) % 2 ^ 64 ∧
      ((s.port p).buf ≠ [] → t.fb 0 F.NET_STAT_FWD_DROP = true) ∧
      ((s.port p).buf = [] → t.fb 0 F.NET_STAT_FWD_DROP = s.fb 0 F.NET_STAT_FWD_DROP) ∧ t.port p.other = s.port p.other ∧ t.net.doms = s.net.doms ∧
      (∀ a, a ∉ [R.NET_STAT, pdlyA p, R.NET_DROP_H, R.NET_DROP_H + 4] → t.w a = s.w a) ∧ t = { s with regs := t.regs, net := t.net }) ∧
  -- ETH_LINK_UP
  (∀ (s : State) (p : Port), s.boot.eth = true → s.fb 0 (portEn p) = true →
    ∃ t, exec (.ethLinkUp p) s = .next t ∧ t.fb 0 (linkFld p) = true ∧ t.pdly p = pdlyNone ∧ s.OnlyRegs t [R.NET_STAT, pdlyA p]) ∧
  -- ETH_LINK_UP
  (∀ (s : State) (p : Port), (s.boot.eth = false ∨ s.fb 0 (portEn p) = false) → ∃ t, exec (.ethLinkUp p) s = .next t ∧ t = s) ∧
  -- NET_RATE_WRITE
  (∀ (s : State) (w : Word), s.Serves →
    ∃ t, exec (.netRateWrite w) s = .next t ∧ t.w R.NET_CFG = w &&& 0xFC000000#32 ∧
      (∀ p : Port, (F.NET_CFG_RATE.of w ≠ s.f 0 F.NET_CFG_RATE ∨ F.NET_CFG_AN.of w ≠ s.f 0 F.NET_CFG_AN ∨
          (s.fb 0 (portEn p) = true ∧ (portEn p).of w = 0)) →
        t.fb 0 (linkFld p) = false ∧ t.pdly p = pdlyNone ∧ t.port p = { s.port p with busy := false, buf := [], own := [], pdOpen := false }) ∧
      (F.NET_CFG_RATE.of w = s.f 0 F.NET_CFG_RATE → F.NET_CFG_AN.of w = s.f 0 F.NET_CFG_AN →
        ∀ p : Port, ¬(s.fb 0 (portEn p) = true ∧ (portEn p).of w = 0) →
          t.fb 0 (linkFld p) = s.fb 0 (linkFld p) ∧ t.pdly p = s.pdly p ∧ t.port p = s.port p) ∧
      t.f 0 F.NET_STAT_BYPASS = (if F.NET_CFG_BYP_SET.of w = 1 then 1 else if F.NET_CFG_BYP_CLR.of w = 1 then 0 else s.f 0 F.NET_STAT_BYPASS) ∧
      t.net.doms = s.net.doms ∧
      (∀ a, a ∉ [R.NET_CFG, R.NET_STAT, R.NET_PDLY, R.NET_PDLY + 4, R.NET_DROP_H, R.NET_DROP_H + 4] → t.w a = s.w a) ∧
      t = { s with regs := t.regs, net := t.net, paths := t.paths }) ∧
  -- BYP_SET
  (∀ (s : State), s.Serves → ∃ t, exec .bypSet s = .next t ∧ t.f 0 F.NET_STAT_BYPASS = 1 ∧
      t.w R.NET_CFG = s.w R.NET_CFG &&& 0xFC000000#32 ∧ s.OnlyRegsOf .host t [R.NET_CFG, R.NET_STAT]) ∧
  -- BYP_CLR
  (∀ (s : State), s.Serves → ∃ t, exec .bypClr s = .next t ∧ t.f 0 F.NET_STAT_BYPASS = 0 ∧
      t.w R.NET_CFG = s.w R.NET_CFG &&& 0xFC000000#32 ∧ s.OnlyRegsOf .host t [R.NET_CFG, R.NET_STAT])

/-- Pdelay and Delay exchanges start, answer and complete. Rests on R249, R250, R253, R255, 11_field_network_and_time.
PDELAY_REQ_SEND, a second after the last, sends the next Pdelay_Req in peer-to-peer mode; PDELAY_REQ_RECEIVE answers
one with its own domainNumber, at once or after what waits on the port. PDELAY_RESP_RECEIVE completes the open
exchange with its number, stores the link delay below the unmeasured code (assumption 70) and ends by R255's rows
every check that waits for it, in the domains' order; another answer changes nothing. DELAY_REQ_SEND, at the master's
interval after the last, or after 1 s until it has one, sends a Delay_Req out of each port the domain listens on, in a
domain with a master in end-to-end mode. DELAY_RESP takes the path delay and the interval and ends a check by R255's
rows. Outside their mode, on a port that is down and without a master they change nothing. -/
def Obligations.DelaysAreMeasured : Prop :=
  -- PDELAY_REQ_SEND
  (∀ (s : State) (p : Port), s.p2p = true → s.portUp p = true →
    ∃ t, exec (.pdelayReqSend p) s = .next t ∧ t.clk = (s.again (s.port p).pdAt tkSec).clk ∧
      t.port p = (PortSt.given (OwnFrame.pdelayReq (s.port p).pdSeq) { s.port p with pdSeq := (s.port p).pdSeq + 1#16, pdOpen := true, pdAt := some t.now }) ∧
      t.port p.other = s.port p.other ∧ t.net.doms = s.net.doms ∧ t = { s with net := t.net, clk := t.clk }) ∧
  -- PDELAY_REQ_SEND
  (∀ (s : State) (p : Port), (s.p2p = false ∨ s.portUp p = false) → ∃ t, exec (.pdelayReqSend p) s = .next t ∧ t = s) ∧
  -- PDELAY_REQ_RECEIVE
  (∀ (s : State) (p : Port) (dn : BitVec 8) (seq : BitVec 16) (req : BitVec 80) (tr : Nat), s.p2p = true → s.portUp p = true →
    ∃ t, exec (.pdelayReqReceive p dn seq req tr) s = .next t ∧
      t.port p = (PortSt.given (OwnFrame.pdelayResp dn seq req tr) (s.port p)) ∧
      t.port p.other = s.port p.other ∧ t.net.doms = s.net.doms ∧ t = { s with net := t.net }) ∧
  -- PDELAY_REQ_RECEIVE
  (∀ (s : State) (p : Port) (dn : BitVec 8) (seq : BitVec 16) (req : BitVec 80) (tr : Nat), (s.p2p = false ∨ s.portUp p = false) →
    ∃ t, exec (.pdelayReqReceive p dn seq req tr) s = .next t ∧ t = s) ∧
  -- PDELAY_RESP_RECEIVE
  (∀ (s : State) (p : Port) (seq : BitVec 16) (delay : Nat), s.p2p = true → s.portUp p = true → (s.port p).pdOpen = true →
    seq = (s.port p).pdSeq - 1#16 →
    ∃ t, exec (.pdelayRespReceive p seq delay) s = .next t ∧ (t.pdly p).toNat = min delay 0xFFFFFFFE ∧
      t.port p = { s.port p with pdOpen := false } ∧ t.port p.other = s.port p.other ∧ t.clk = s.clk ∧
      (∀ d : Dom, ((s.dom d).check = none ∨ s.dm d F.PTP_CFG_P2P = 0 ∨ s.domMap d = none ∨ (s.dom d).check.map (fun (c : Check) => c.port) ≠ some p) →
        t.dom d = s.dom d ∧ t.domMap d = s.domMap d ∧ t.w (dmBase d.val + R.PTP_STAT) = s.w (dmBase d.val + R.PTP_STAT)) ∧
      (∀ d : Dom, ∀ c : Check, ∀ mp : DomMap, (s.dom d).check = some c → c.port = p → s.dm d F.PTP_CFG_P2P = 1 → s.domMap d = some mp →
        ∃ k, s.free ≤ k ∧ k ≤ t.free ∧ s.CheckEnded d c mp (Int.ofNat (min delay 0xFFFFFFFE) * 256) k t) ∧
      t = { s with regs := t.regs, net := t.net, maps := t.maps, mapLogs := t.mapLogs, mapLost := t.mapLost, free := t.free }) ∧
  -- PDELAY_RESP_RECEIVE
  (∀ (s : State) (p : Port) (seq : BitVec 16) (delay : Nat) (d : Dom) (c : Check) (mp : DomMap), s.p2p = true → s.portUp p = true →
    (s.port p).pdOpen = true → seq = (s.port p).pdSeq - 1#16 → (s.dom d).check = some c → c.port = p → s.dm d F.PTP_CFG_P2P = 1 →
    s.domMap d = some mp → (∀ e : Dom, e ≠ d → (s.dom e).check = none) →
    ∃ t, exec (.pdelayRespReceive p seq delay) s = .next t ∧ s.CheckEnded d c mp (Int.ofNat (min delay 0xFFFFFFFE) * 256) s.free t ∧
      (∀ e : Dom, e ≠ d → t.dom e = s.dom e ∧ t.domMap e = s.domMap e)) ∧
  -- PDELAY_RESP_RECEIVE
  (∀ (s : State) (p : Port) (seq : BitVec 16) (delay : Nat),
    (s.p2p = false ∨ s.portUp p = false ∨ (s.port p).pdOpen = false ∨ seq ≠ (s.port p).pdSeq - 1#16) →
    ∃ t, exec (.pdelayRespReceive p seq delay) s = .next t ∧ t = s) ∧
  -- DELAY_REQ_SEND
  (∀ (s : State) (d : Dom) (m : MasterData), s.domState d ≠ domDisabled → s.dm d F.PTP_CFG_P2P = 0 → (s.dom d).selected = some m →
    ∃ t, exec (.delayReqSend d) s = .next t ∧ t.clk = (s.again (s.dom d).reqAt (logTk ((s.dom d).reqInt.getD 0))).clk ∧
      t.dom d = { s.dom d with reqSeq := (s.dom d).reqSeq + 1#16, reqAt := some t.now } ∧
      (∀ p : Port, s.listens d p = true → s.portUp p = true →
        t.port p = PortSt.given (OwnFrame.delayReq d (BitVec.ofNat 8 (s.dm d F.PTP_CFG_DOMAIN)) (s.dom d).reqSeq) (s.port p)) ∧
      (∀ p : Port, (s.listens d p = false ∨ s.portUp p = false) → t.port p = s.port p) ∧
      (∀ e : Dom, e ≠ d → t.dom e = s.dom e) ∧ t = { s with net := t.net, clk := t.clk }) ∧
  -- DELAY_REQ_SEND
  (∀ (s : State) (d : Dom), (s.domState d = domDisabled ∨ s.dm d F.PTP_CFG_P2P = 1 ∨ (s.dom d).selected = none) →
    ∃ t, exec (.delayReqSend d) s = .next t ∧ t = s) ∧
  -- DELAY_RESP
  (∀ (s : State) (d : Dom) (mpd li : Int), s.domState d ≠ domDisabled → s.dm d F.PTP_CFG_P2P = 0 → (s.dom d).check = none →
    ∃ t, exec (.delayResp d mpd li) s = .next t ∧ t.pair (dmBase d.val + R.PTP_MPD_H) = (mpd % (2 ^ 64 : Int)).toNat ∧
      t.dom d = { s.dom d with reqInt := some li } ∧
      (∀ e : Dom, e ≠ d → t.dom e = s.dom e) ∧ (∀ a, a ∉ [dmBase d.val + R.PTP_MPD_H, dmBase d.val + R.PTP_MPD_H + 4] → t.w a = s.w a) ∧
      t = { s with regs := t.regs, net := t.net }) ∧
  -- DELAY_RESP
  (∀ (s : State) (d : Dom) (c : Check) (mp : DomMap) (mpd li : Int), s.domState d ≠ domDisabled → s.dm d F.PTP_CFG_P2P = 0 →
    (s.dom d).check = some c → s.domMap d = some mp →
    ∃ t, exec (.delayResp d mpd li) s = .next t ∧ s.CheckEnded d c mp mpd s.free t ∧ s.free ≤ t.free ∧ t.free ≤ s.free + 1 ∧ (t.dom d).reqInt = some li ∧ s.OnlyDomain d t ∧ t.clk = s.clk) ∧
  -- DELAY_RESP
  (∀ (s : State) (d : Dom) (c : Check) (mpd li : Int), s.domState d ≠ domDisabled → s.dm d F.PTP_CFG_P2P = 0 →
    (s.dom d).check = some c → s.domMap d = none →
    ∃ t, exec (.delayResp d mpd li) s = .next t ∧ t.dom d = { s.dom d with reqInt := some li } ∧ (∀ e : Dom, e ≠ d → t.dom e = s.dom e) ∧
      t = { s with net := t.net }) ∧
  -- DELAY_RESP
  (∀ (s : State) (d : Dom) (mpd li : Int), (s.domState d = domDisabled ∨ s.dm d F.PTP_CFG_P2P = 1) →
    ∃ t, exec (.delayResp d mpd li) s = .next t ∧ t = s)

/-- Announce, Sync and their absence move a time domain between its states. Rests on R46, R253, R254, R255, R256,
11_field_network_and_time. PTP_ENABLE stores PTP_CFG, a K of 1 as 2, starts a disabled domain from READY on, stops one
and else leaves it. ANNOUNCE, heard on a port the domain listens on, selects the best master with two messages within
four intervals; a change sets MASTER_CHG and ends a check or a pending step. SYNC from the selected master installs
the first map; else it gives an offset: within the smaller threshold of the last applied one it is applied at a free
servo rate, from LISTENING or HOLDOVER back in ACQUIRE (assumption 71), after a check in the state before it, 16
within 100 ns making SLAVE; beyond, it begins or goes on with a check, holds a rejected domain, or is compared with
the pending step, which K consistent samples accept with AUTO. Without a measured delay in peer-to-peer mode it does
nothing. PTP_MASTER_LOST sets MASTER_LOST, enters HOLDOVER unless LISTENING, keeps a pending step and selects the next
best (assumption 71); PTP_HOLDOVER_EXPIRY, PTP_HMAX after the loss, returns a domain without a master to LISTENING.
PTP_CHECK_TIMEOUT, 2 s on, ends a check by R255's rows on the path delay in use. -/
def Obligations.DomainsFollowTheirMaster : Prop :=
  -- PTP_ENABLE
  (∀ (s : State) (d : Dom) (w : Word), s.Serves →
    ∃ t, exec (.ptpEnable d w) s = .next t ∧ t.w (dmBase d.val + R.PTP_CFG) = (if F.PTP_CFG_K.of w = 1 then F.PTP_CFG_K.into (w &&& 0xF8FF00FF#32) 2 else w &&& 0xF8FF00FF#32) ∧
      (F.PTP_CFG_EN.of w = 1 → s.domState d = domDisabled → s.ready = true → t.domState d = domListening ∧ t.dm d F.PTP_STAT_HREASON = hrNone ∧
        s.OnlyRegsOf .host t [dmBase d.val + R.PTP_CFG, dmBase d.val + R.PTP_STAT]) ∧
      (F.PTP_CFG_EN.of w = 1 → (s.domState d ≠ domDisabled ∨ s.ready = false) → s.OnlyRegsOf .host t [dmBase d.val + R.PTP_CFG]) ∧
      (F.PTP_CFG_EN.of w = 0 → s.domState d = domDisabled → s.OnlyRegsOf .host t [dmBase d.val + R.PTP_CFG]) ∧
      (F.PTP_CFG_EN.of w = 0 → s.domState d ≠ domDisabled → t.domState d = domDisabled ∧ t.dm d F.PTP_STAT_VALID = 0 ∧ t.dm d F.PTP_STAT_PEND = 0 ∧
        t.dmPair d R.PTP_PEND_H = 0 ∧ t.domMap d = none ∧ t.dom d = { DomSt.reset with reqSeq := (s.dom d).reqSeq } ∧
        (∀ e : Dom, e ≠ d → t.dom e = s.dom e ∧ t.domMap e = s.domMap e) ∧
        t = { s with regs := t.regs, net := t.net, maps := t.maps, paths := t.paths })) ∧
  -- ANNOUNCE
  (∀ (s : State) (d : Dom) (p : Port) (m : MasterData) (iv : Nat), s.domState d ≠ domDisabled → s.listens d p = true →
    bestMaster s.now (heard s.now m iv (s.dom d).masters) = none →
    ∃ t, exec (.announce d p m iv) s = .next t ∧ t.dom d = { s.dom d with masters := heard s.now m iv (s.dom d).masters } ∧
      (∀ e : Dom, e ≠ d → t.dom e = s.dom e) ∧ t.net.ports = s.net.ports ∧ t = { s with net := t.net }) ∧
  -- ANNOUNCE
  (∀ (s : State) (d : Dom) (p : Port) (m b : MasterData) (iv : Nat), s.domState d ≠ domDisabled → s.listens d p = true →
    bestMaster s.now (heard s.now m iv (s.dom d).masters) = some b → (∀ o ∈ (s.dom d).selected, o.id = b.id) →
    ∃ t, exec (.announce d p m iv) s = .next t ∧
      t.dom d = { s.dom d with masters := heard s.now m iv (s.dom d).masters, selected := some b, lostAt := none } ∧
      t.pair (dmBase d.val + R.PTP_GMID_H) = b.id.toNat ∧ (∀ e : Dom, e ≠ d → t.dom e = s.dom e) ∧ t.net.ports = s.net.ports ∧
      (∀ a, a ∉ [dmBase d.val + R.PTP_GMID_H, dmBase d.val + R.PTP_GMID_H + 4] → t.w a = s.w a) ∧ t = { s with regs := t.regs, net := t.net }) ∧
  -- ANNOUNCE
  (∀ (s : State) (d : Dom) (p : Port) (m b o : MasterData) (iv : Nat), s.domState d ≠ domDisabled → s.listens d p = true →
    bestMaster s.now (heard s.now m iv (s.dom d).masters) = some b → (s.dom d).selected = some o → o.id ≠ b.id →
    ∃ t, exec (.announce d p m iv) s = .next t ∧ t.dm d F.PTP_STAT_MASTER_CHG = 1 ∧ t.pair (dmBase d.val + R.PTP_GMID_H) = b.id.toNat ∧
      ((s.dom d).check = none → (s.dom d).pend = none →
        t.dom d = { s.dom d with masters := heard s.now m iv (s.dom d).masters, selected := some b, lostAt := none } ∧ t.domState d = s.domState d) ∧
      (((s.dom d).check.isSome = true ∨ (s.dom d).pend.isSome = true) →
        t.dom d = { s.dom d with masters := heard s.now m iv (s.dom d).masters, selected := some b, lostAt := none, check := none, pend := none, accepted := none } ∧
        t.domState d = domHoldover ∧ t.dm d F.PTP_STAT_HREASON = hrMaster ∧ t.dm d F.PTP_STAT_PEND = 0 ∧ t.dmPair d R.PTP_PEND_H = 0) ∧
      t.domMap d = s.domMap d ∧ s.OnlyDomain d t ∧ t.free = s.free ∧ t.clk = s.clk) ∧
  -- ANNOUNCE
  (∀ (s : State) (d : Dom) (p : Port) (m : MasterData) (iv : Nat), (s.domState d = domDisabled ∨ s.listens d p = false) →
    ∃ t, exec (.announce d p m iv) s = .next t ∧ t = s) ∧
  -- SYNC
  (∀ (s : State) (d : Dom) (p : Port) (id : BitVec 64) (t1 : Int),
    (s.domState d = domDisabled ∨ s.listens d p = false ∨ (∀ m ∈ (s.dom d).selected, m.id ≠ id) ∨ s.mpdOf d p = none) →
    ∃ t, exec (.sync d p id t1) s = .next t ∧ t = s) ∧
  -- SYNC
  (∀ (s : State) (d : Dom) (p : Port) (m : MasterData) (t1 mpd : Int), s.domState d ≠ domDisabled → s.listens d p = true →
    (s.dom d).selected = some m → s.mpdOf d p = some mpd → s.domMap d = none →
    ∃ t, exec (.sync d p m.id t1) s = .next t ∧
      t.domMap d = some (DomMap.mk (s.now) (t1 + mpd) (0) (((s.mapLogs[d]).head?.map (fun (x : DomMap) => x.era)).getD 0#16)) ∧ t.mapLogs[d].head? = t.domMap d ∧
      t.domState d = domAcquire ∧ t.dm d F.PTP_STAT_HREASON = hrNone ∧ t.dm d F.PTP_STAT_VALID = 1 ∧ (t.dom d).good = 0 ∧
      (t.dom d).check = (s.dom d).check ∧ (t.dom d).pend = (s.dom d).pend ∧ s.OnlyDomain d t ∧ t.free = s.free ∧ t.clk = s.clk) ∧
  -- SYNC
  (∀ (s : State) (d : Dom) (p : Port) (m : MasterData) (mp : DomMap) (t1 mpd : Int), s.domState d ≠ domDisabled → s.listens d p = true →
    (s.dom d).selected = some m → s.mpdOf d p = some mpd → s.domMap d = some mp → (s.dom d).pend = none →
    s.near d (s.syncOffset d mp t1 mpd) = true →
    ∃ t, exec (.sync d p m.id t1) s = .next t ∧
      ((s.dom d).check = none → (s.domState d = domAcquire ∨ s.domState d = domSlave) →
        t.SampleApplied d mp (s.syncOffset d mp t1 mpd) (s.domState d) (s.dom d).good s.free) ∧
      ((s.dom d).check = none → s.domState d ≠ domAcquire → s.domState d ≠ domSlave →
        t.SampleApplied d mp (s.syncOffset d mp t1 mpd) domAcquire 0 s.free ∧ t.dm d F.PTP_STAT_HREASON = hrNone) ∧
      ((s.dom d).check.isSome = true → t.SampleApplied d mp (s.syncOffset d mp t1 mpd) ((s.dom d).before % 16) (if (s.dom d).before = domAcquire then 0 else (s.dom d).good) s.free ∧
        t.dm d F.PTP_STAT_HREASON = hrNone) ∧
      t.pair (dmBase d.val + R.PTP_OFS_H) = ((s.syncOffset d mp t1 mpd) % (2 ^ 64 : Int)).toNat ∧ t.free = s.free + 1 ∧ s.OnlyDomain d t ∧ t.clk = s.clk) ∧
  -- SYNC
  (∀ (s : State) (d : Dom) (p : Port) (m : MasterData) (mp : DomMap) (t1 mpd : Int), s.domState d ≠ domDisabled → s.listens d p = true →
    (s.dom d).selected = some m → s.mpdOf d p = some mpd → s.domMap d = some mp → (s.dom d).pend = none →
    s.near d (s.syncOffset d mp t1 mpd) = false →
    ∃ t, exec (.sync d p m.id t1) s = .next t ∧
      (∀ c ∈ (s.dom d).check, t.dom d = { s.dom d with check := some { c with latest := (s.now, t1) } } ∧ t.domState d = s.domState d) ∧
      ((s.dom d).check = none → s.domState d = domHoldover → s.dm d F.PTP_STAT_HREASON = hrRejected → t.dom d = s.dom d ∧ t.domState d = domHoldover ∧
        t.dm d F.PTP_STAT_HREASON = hrRejected) ∧
      ((s.dom d).check = none → ¬(s.domState d = domHoldover ∧ s.dm d F.PTP_STAT_HREASON = hrRejected) →
        t.domState d = domHoldover ∧ t.dm d F.PTP_STAT_HREASON = hrCheck ∧
        t.dom d = { s.dom d with check := some (Check.mk s.now p (s.now, t1)), before := (if s.domState d = domSlave then domSlave else domAcquire) }) ∧
      t.domMap d = some mp ∧ t.free = s.free ∧ t.pair (dmBase d.val + R.PTP_OFS_H) = ((s.syncOffset d mp t1 mpd) % (2 ^ 64 : Int)).toNat ∧
      s.OnlyDomain d t ∧ t.clk = s.clk) ∧
  -- SYNC
  (∀ (s : State) (d : Dom) (p : Port) (m : MasterData) (mp : DomMap) (q : PendSt) (t1 mpd : Int), s.domState d ≠ domDisabled → s.listens d p = true →
    (s.dom d).selected = some m → s.mpdOf d p = some mpd → s.domMap d = some mp → (s.dom d).pend = some q →
    ∃ t, exec (.sync d p m.id t1) s = .next t ∧
      ((s.dom d).accepted.isSome = true → t.dom d = s.dom d ∧ t.domMap d = some mp ∧ t.free = s.free ∧ t.w (dmBase d.val + R.PTP_STAT) = s.w (dmBase d.val + R.PTP_STAT)) ∧
      ((s.dom d).accepted = none → s.near d (s.syncOffset d mp t1 mpd) = true →
        t.SampleApplied d mp (s.syncOffset d mp t1 mpd) domAcquire 0 s.free ∧ t.dm d F.PTP_STAT_PEND = 0 ∧ t.dmPair d R.PTP_PEND_H = 0 ∧ t.free = s.free + 1) ∧
      ((s.dom d).accepted = none → s.near d (s.syncOffset d mp t1 mpd) = false →
        iabs (s.syncOffset d mp t1 mpd + s.dmPair d R.PTP_PEND_H) ≤ max (s.jthr d / 4) (20 * 65536) →
        (t.dom d).pend = some (PendSt.mk (q.sum + s.syncOffset d mp t1 mpd) (q.count + 1)) ∧
        t.pair (dmBase d.val + R.PTP_PEND_H) = (-(roundNearest (((q.sum + s.syncOffset d mp t1 mpd : Int) : Rat) / ((q.count + 1 : Nat) : Rat))) % (2 ^ 64 : Int)).toNat ∧
        ((s.dm d F.PTP_CFG_K < 2 ∨ q.count + 1 < s.dm d F.PTP_CFG_K) → (t.dom d).accepted = none ∧ t.dm d F.PTP_STAT_AUTO = s.dm d F.PTP_STAT_AUTO) ∧
        (2 ≤ s.dm d F.PTP_CFG_K → s.dm d F.PTP_CFG_K ≤ q.count + 1 → t.dm d F.PTP_STAT_AUTO = 1 ∧
          (t.dom d).accepted = some (t.dmPair d R.PTP_PEND_H, ((mp.at s.now).fdiv domSec + 1) * domSec))) ∧
      ((s.dom d).accepted = none → s.near d (s.syncOffset d mp t1 mpd) = false →
        max (s.jthr d / 4) (20 * 65536) < iabs (s.syncOffset d mp t1 mpd + s.dmPair d R.PTP_PEND_H) →
        (t.dom d).pend = some (PendSt.mk 0 0) ∧ t.pair (dmBase d.val + R.PTP_PEND_H) = (-(s.syncOffset d mp t1 mpd) % (2 ^ 64 : Int)).toNat ∧ (t.dom d).accepted = none) ∧
      ((s.dom d).accepted = none → s.near d (s.syncOffset d mp t1 mpd) = false → t.domMap d = some mp ∧ t.free = s.free ∧ t.dm d F.PTP_STAT_PEND = 1 ∧
        t.domState d = domHoldover ∧ t.dm d F.PTP_STAT_HREASON = hrStep) ∧
      t.pair (dmBase d.val + R.PTP_OFS_H) = ((s.syncOffset d mp t1 mpd) % (2 ^ 64 : Int)).toNat ∧ s.OnlyDomain d t ∧ t.clk = s.clk) ∧
  -- PTP_MASTER_LOST
  (∀ (s : State) (d : Dom) (m : MasterData), (s.dom d).selected = some m →
    ∃ t, exec (.ptpMasterLost d) s = .next t ∧ t.dm d F.PTP_STAT_MASTER_LOST = 1 ∧
      t.domState d = (if s.domState d = domListening then domListening else domHoldover) ∧
      (s.domState d ≠ domListening → t.dm d F.PTP_STAT_HREASON = hrMaster) ∧ t.dm d F.PTP_STAT_PEND = s.dm d F.PTP_STAT_PEND ∧
      (bestMaster s.now ((s.dom d).masters.filter (fun (f : Foreign) => f.data.id ≠ m.id)) = none → t.pair (dmBase d.val + R.PTP_GMID_H) = 0 ∧
        t.dom d = { s.dom d with masters := (s.dom d).masters.filter (fun (f : Foreign) => f.data.id ≠ m.id), selected := none, check := none, lostAt := some s.now }) ∧
      (∀ b ∈ bestMaster s.now ((s.dom d).masters.filter (fun (f : Foreign) => f.data.id ≠ m.id)), t.pair (dmBase d.val + R.PTP_GMID_H) = b.id.toNat ∧
        t.dom d = { s.dom d with masters := (s.dom d).masters.filter (fun (f : Foreign) => f.data.id ≠ m.id), selected := some b, check := none, lostAt := none }) ∧
      t.domMap d = s.domMap d ∧ s.OnlyDomain d t ∧ t.free = s.free ∧ t.clk = s.clk) ∧
  -- PTP_MASTER_LOST
  (∀ (s : State) (d : Dom), (s.dom d).selected = none → ∃ t, exec (.ptpMasterLost d) s = .next t ∧ t = s) ∧
  -- PTP_HOLDOVER_EXPIRY
  (∀ (s : State) (d : Dom) (lost : Nat), (s.dom d).lostAt = some lost → s.domState d = domHoldover →
    ∃ t, exec (.ptpHoldoverExpiry d) s = .next t ∧ t.clk = (s.reach (lost + s.dm d F.PTP_HMAX_HMAX * tkSec)).clk ∧
      t.domState d = domListening ∧ t.dm d F.PTP_STAT_HREASON = hrNone ∧ t.domMap d = s.domMap d ∧
      (∀ a, a ≠ dmBase d.val + R.PTP_STAT → t.w a = s.w a) ∧ t = { s with regs := t.regs, clk := t.clk }) ∧
  -- PTP_HOLDOVER_EXPIRY
  (∀ (s : State) (d : Dom), (s.domState d ≠ domHoldover ∨ (s.dom d).lostAt = none) → ∃ t, exec (.ptpHoldoverExpiry d) s = .next t ∧ t = s) ∧
  -- PTP_CHECK_TIMEOUT
  (∀ (s : State) (d : Dom) (c : Check) (mp : DomMap), (s.dom d).check = some c → s.domMap d = some mp →
    ∃ t, exec (.ptpCheckTimeout d) s = .next t ∧ t.clk = (s.reach (c.since + 2 * tkSec)).clk ∧
      s.CheckEnded d c mp (s.dmPair d R.PTP_MPD_H) s.free t ∧ s.OnlyDomain d t) ∧
  -- PTP_CHECK_TIMEOUT
  (∀ (s : State) (d : Dom) (c : Check), (s.dom d).check = some c → s.domMap d = none →
    ∃ t, exec (.ptpCheckTimeout d) s = .next t ∧ t = s.reach (c.since + 2 * tkSec)) ∧
  -- PTP_CHECK_TIMEOUT
  (∀ (s : State) (d : Dom), (s.dom d).check = none → ∃ t, exec (.ptpCheckTimeout d) s = .next t ∧ t = s)

/-- ACCEPT, ABSORB, REJECT and the second at which an accepted step applies. Rests on R47, R256, R257,
11_field_network_and_time. ACCEPT fixes the pending step for the next domain second; without a pending step, or with
one accepted, it sets CMD_REJ. ABSORB turns the pending step into asymmetry and measures again in ACQUIRE, without a
step or a new era. REJECT drops it and stays in holdover with REJECTED. Both drop an accepted step too (assumption
71), and set CMD_REJ where none is pending. STEP_APPLY, at the domain second, moves the map by the step, increments
the era count, sets STEP_APPLIED and goes to ACQUIRE; without an accepted step it changes nothing. -/
def Obligations.StepsWaitForTheirCommand : Prop :=
  -- ACCEPT
  (∀ (s : State) (d : Dom) (mp : DomMap), s.Serves → s.pending? d = true → (s.dom d).accepted = none → s.domMap d = some mp →
    ∃ t, exec (.accept d) s = .next t ∧
      t.dom d = { s.dom d with accepted := some (s.dmPair d R.PTP_PEND_H, ((mp.at s.now).fdiv domSec + 1) * domSec) } ∧
      t.domMap d = some mp ∧ (∀ e : Dom, e ≠ d → t.dom e = s.dom e) ∧ t = { s with net := t.net, paths := t.paths }) ∧
  -- ACCEPT
  (∀ (s : State) (d : Dom), s.Serves → s.pending? d = true → (s.dom d).accepted = none → s.domMap d = none →
    ∃ t, exec (.accept d) s = .next t ∧ s.OnlyRegsOf .host t []) ∧
  -- ACCEPT
  (∀ (s : State) (d : Dom), s.Serves → (s.pending? d = false ∨ (s.dom d).accepted.isSome = true) →
    ∃ t, exec (.accept d) s = .next t ∧ t.dm d F.PTP_STAT_CMD_REJ = 1 ∧ s.OnlyRegsOf .host t [dmBase d.val + R.PTP_STAT]) ∧
  -- ABSORB
  (∀ (s : State) (d : Dom), s.Serves → s.pending? d = true →
    ∃ t, exec (.absorb d) s = .next t ∧
      t.pair (dmBase d.val + R.PTP_ASYM_H) = ((s.dmPair d R.PTP_ASYM_H - s.dmPair d R.PTP_PEND_H) % (2 ^ 64 : Int)).toNat ∧
      t.dmPair d R.PTP_PEND_H = 0 ∧ t.dm d F.PTP_STAT_PEND = 0 ∧ t.domState d = domAcquire ∧ t.dm d F.PTP_STAT_HREASON = hrNone ∧
      t.dom d = { s.dom d with pend := none, accepted := none, check := none, good := 0 } ∧
      t.domMap d = s.domMap d ∧ (∀ e : Dom, e ≠ d → t.dom e = s.dom e) ∧
      (∀ a, a ∉ [dmBase d.val + R.PTP_STAT, dmBase d.val + R.PTP_ASYM_H, dmBase d.val + R.PTP_ASYM_H + 4, dmBase d.val + R.PTP_PEND_H,
        dmBase d.val + R.PTP_PEND_H + 4] → t.w a = s.w a) ∧ t = { s with regs := t.regs, net := t.net, paths := t.paths }) ∧
  -- ABSORB
  (∀ (s : State) (d : Dom), s.Serves → s.pending? d = false →
    ∃ t, exec (.absorb d) s = .next t ∧ t.dm d F.PTP_STAT_CMD_REJ = 1 ∧ s.OnlyRegsOf .host t [dmBase d.val + R.PTP_STAT]) ∧
  -- REJECT
  (∀ (s : State) (d : Dom), s.Serves → s.pending? d = true →
    ∃ t, exec (.reject d) s = .next t ∧ t.dmPair d R.PTP_PEND_H = 0 ∧ t.dm d F.PTP_STAT_PEND = 0 ∧ t.domState d = domHoldover ∧
      t.dm d F.PTP_STAT_HREASON = hrRejected ∧ t.dom d = { s.dom d with pend := none, accepted := none, check := none } ∧ t.domMap d = s.domMap d ∧
      (∀ e : Dom, e ≠ d → t.dom e = s.dom e) ∧
      (∀ a, a ∉ [dmBase d.val + R.PTP_STAT, dmBase d.val + R.PTP_PEND_H, dmBase d.val + R.PTP_PEND_H + 4] → t.w a = s.w a) ∧
      t = { s with regs := t.regs, net := t.net, paths := t.paths }) ∧
  -- REJECT
  (∀ (s : State) (d : Dom), s.Serves → s.pending? d = false →
    ∃ t, exec (.reject d) s = .next t ∧ t.dm d F.PTP_STAT_CMD_REJ = 1 ∧ s.OnlyRegsOf .host t [dmBase d.val + R.PTP_STAT]) ∧
  -- STEP_APPLY
  (∀ (s : State) (d : Dom) (mp : DomMap) (v sec : Int), (s.dom d).accepted = some (v, sec) → s.domMap d = some mp →
    ∃ t, exec (.stepApply d) s = .next t ∧ t.clk = (s.reach (mp.reaches sec)).clk ∧
      t.domMap d = some (DomMap.mk (mp.reaches sec) (sec + v) (mp.rate) (mp.era + 1#16)) ∧ t.mapLogs[d].head? = t.domMap d ∧
      t.dm d F.PTP_STAT_STEP_APPLIED = 1 ∧ t.dm d F.PTP_STAT_PEND = 0 ∧ t.dmPair d R.PTP_PEND_H = 0 ∧ t.domState d = domAcquire ∧
      t.dm d F.PTP_STAT_HREASON = hrNone ∧ t.dom d = { s.dom d with pend := none, accepted := none, check := none, good := 0 } ∧
      (∀ e : Dom, e ≠ d → t.dom e = s.dom e ∧ t.domMap e = s.domMap e) ∧
      t = { s with regs := t.regs, net := t.net, maps := t.maps, mapLogs := t.mapLogs, mapLost := t.mapLost, clk := t.clk }) ∧
  -- STEP_APPLY
  (∀ (s : State) (d : Dom), ((s.dom d).accepted = none ∨ s.domMap d = none) → ∃ t, exec (.stepApply d) s = .next t ∧ t = s)

/-- ULD_READ, ULD_WRITE and IDENT answer by the order of checks of R261 and write only what they name. Rests on R244,
R246, R247, R248, R258, R259, R260, R261, R264, R272, R302, 12_object_dictionary. A READ answers an unknown index or
sub-index NOOBJ or NOSUB, a write-only entry and a group ACCESS, a value above 1,024 bytes TYPE (assumption 72), and
else OK with the entry's value: one word for a register. A WRITE answers them likewise, a read-only entry ACCESS, as
the calibration set outside a transaction, a wrong length TYPE, and a guarded entry that may not be written LOCKED,
with GUARD_REJ; else the entry takes the value by its own rules and answers: NET_NODE stores the group bits. With a
transaction open a write is staged, or its status is answered and the commit will fail. Before READY reads of identity
objects alone are served, and IDENT; others answer BUSY with a time, as under the boot responder, there with an
unknown time but for identity objects, the image objects and unlisted indices. IDENT answers 16 bytes. Nothing is
served while Indigo restarts. The answer stands in the state (assumption 82). -/
def Obligations.EntriesAreReadAndWritten : Prop :=
  -- ULD_READ
  (∀ (s : State) (src : OdSrc) (index : BitVec 16) (sub : Byte) (e : OdEntry) (tg : Tgt), s.OdOpen true index.toNat →
    odFind index.toNat sub.toNat = .ok (e, tg) → e.acc ≠ .wo → tg.many = false → s.odLen index.toNat e tg ≤ 1024 →
    ∃ t, exec (.uldRead src index sub) s = .next t ∧ t = ((s.odValue index.toNat e tg).2.answered (odOk, (s.odValue index.toNat e tg).1)) ∧
      (∀ l : Nat, ∀ u : Nat, e.body = OdBody.reg l u → t = s.answered (odOk, wordBytes (s.odWord (l + u * tg.base)))) ∧
      (∀ u : Nat, e.body = OdBody.blk u → t = s.answered (odOk, wordBytes (s.odWord (tg.base + u))))) ∧
  -- ULD_READ
  (∀ (s : State) (src : OdSrc) (index : BitVec 16) (sub : Byte) (st : Nat), s.OdOpen true index.toNat → odFind index.toNat sub.toNat = .error st →
    ∃ t, exec (.uldRead src index sub) s = .next t ∧ (st = odNoObj ∨ st = odNoSub) ∧ t = s.answered (st, [])) ∧
  -- ULD_READ
  (∀ (s : State) (src : OdSrc) (index : BitVec 16) (sub : Byte) (e : OdEntry) (tg : Tgt), s.OdOpen true index.toNat →
    odFind index.toNat sub.toNat = .ok (e, tg) → (e.acc = .wo ∨ tg.many = true ∨ 1024 < s.odLen index.toNat e tg) →
    ∃ t, exec (.uldRead src index sub) s = .next t ∧ t = s.answered (if e.acc = OdAcc.wo ∨ tg.many = true then odAccess else odType, [])) ∧
  -- ULD_READ
  (∀ (s : State) (src : OdSrc) (index : BitVec 16) (sub : Byte), s.indigo.serving = true → ¬s.OdOpen true index.toNat →
    ∃ t, exec (.uldRead src index sub) s = .next t ∧ s.OdBusy index.toNat t) ∧
  -- ULD_READ
  (∀ (s : State) (src : OdSrc) (index : BitVec 16) (sub : Byte), s.indigo.serving = false → ∃ t, exec (.uldRead src index sub) s = .next t ∧ t = s) ∧
  -- ULD_WRITE
  (∀ (s : State) (src : OdSrc) (b0 b1 b2 b3 : Byte), s.OdServes → s.cfgDone = true → s.txnOf src = none →
    ∃ t, exec (.uldWrite src 0x8042#16 0#8 [b0, b1, b2, b3]) s = .next t ∧ t.od = { s.od with answer := (odOk, []) } ∧
      t.f 0 F.NET_NODE_GRP = b2.toNat * 256 + b3.toNat ∧ t.f 0 F.NET_NODE_NODE_ID = s.f 0 F.NET_NODE_NODE_ID ∧
      (∀ a, a ≠ R.NET_NODE → t.w a = s.w a) ∧ t = { s with regs := t.regs, od := t.od, paths := t.paths }) ∧
  -- ULD_WRITE
  (∀ (s : State) (src : OdSrc) (index : BitVec 16) (sub : Byte) (data : List Byte) (st : Nat), s.OdOpen false index.toNat → s.txnOf src = none →
    odFind index.toNat sub.toNat = .error st →
    ∃ t, exec (.uldWrite src index sub data) s = .next t ∧ (st = odNoObj ∨ st = odNoSub) ∧ t = s.answered (st, [])) ∧
  -- ULD_WRITE
  (∀ (s : State) (src : OdSrc) (index : BitVec 16) (sub : Byte) (data : List Byte) (e : OdEntry) (tg : Tgt), s.OdOpen false index.toNat → s.txnOf src = none →
    odFind index.toNat sub.toNat = .ok (e, tg) → (e.acc = .ro ∨ index = 0x3030#16 ∨ ∃ n ∈ e.len, data.length ≠ n ∨ 1024 < n) →
    ∃ t, exec (.uldWrite src index sub data) s = .next t ∧ t = s.answered (if e.acc = OdAcc.ro ∨ index = 0x3030#16 then odAccess else odType, [])) ∧
  -- ULD_WRITE
  (∀ (s : State) (src : OdSrc) (index : BitVec 16) (sub : Byte) (data : List Byte) (e : OdEntry) (tg : Tgt), s.OdOpen false index.toNat → s.txnOf src = none →
    odFind index.toNat sub.toNat = .ok (e, tg) → e.acc ≠ .ro → index ≠ 0x3030#16 → (∀ n ∈ e.len, data.length = n ∧ n ≤ 1024) →
    ∃ t, exec (.uldWrite src index sub data) s = .next t ∧
      (odGuarded index.toNat e data = false →
        t = (s.odApply index.toNat e tg data).2.answered (s.odApply index.toNat e tg data).1) ∧
      (odGuarded index.toNat e data = true → (s.odGuard src index.toNat).1 = true →
        t = ((s.odGuard src index.toNat).2.odApply index.toNat e tg data).2.answered ((s.odGuard src index.toNat).2.odApply index.toNat e tg data).1) ∧
      (odGuarded index.toNat e data = true → (s.odGuard src index.toNat).1 = false →
        t.fb 0 F.PRT_STAT_GUARD_REJ = true ∧ t = (s.odGuard src index.toNat).2.answered (odLocked, []))) ∧
  -- ULD_WRITE
  (∀ (s : State) (n : BitVec 16) (data : List Byte), s.OdServes → s.txnOf (.node n) = none → data.length = 4 →
    (s.tvB 0 F.PRT_LOCK_FN_LOCK = true ∨ s.fuses.weMask.getLsbD 2 = false) →
    ∃ t, exec (.uldWrite (.node n) 0x2010#16 0#8 data) s = .next t ∧ t.fb 0 F.PRT_STAT_GUARD_REJ = true ∧
      (∀ a, a ≠ R.PRT_STAT → t.w a = s.w a) ∧ t = { s with regs := t.regs, od := { s.od with answer := (odLocked, []) } }) ∧
  -- ULD_WRITE
  (∀ (s : State) (src : OdSrc) (index : BitVec 16) (sub : Byte) (data : List Byte) (x : Txn), s.OdOpen false index.toNat → s.txnOf src = some x →
    ∃ t, exec (.uldWrite src index sub data) s = .next t ∧ s.Staged x (OdCmd.mk 2#8 index sub data) t) ∧
  -- ULD_WRITE
  (∀ (s : State) (src : OdSrc) (index : BitVec 16) (sub : Byte) (data : List Byte), s.indigo.serving = true → ¬s.OdOpen false index.toNat →
    ∃ t, exec (.uldWrite src index sub data) s = .next t ∧ s.OdBusy index.toNat t) ∧
  -- ULD_WRITE
  (∀ (s : State) (src : OdSrc) (index : BitVec 16) (sub : Byte) (data : List Byte), s.indigo.serving = false →
    ∃ t, exec (.uldWrite src index sub data) s = .next t ∧ t = s) ∧
  -- IDENT
  (∀ (s : State) (src : OdSrc), s.indigo.serving = true →
    ∃ t, exec (.ident src) s = .next t ∧ t.od.answer.2.length = 16 ∧
      t = { s with od := { s.od with answer := (odOk, bytesBE 2 s.nodeId ++ bytesBE 2 s.odState ++ wordBytes s.fuses.ident ++ wordBytes (s.w R.TB_RUN_ID) ++ bytesBE 4 0) } }) ∧
  -- IDENT
  (∀ (s : State) (src : OdSrc), s.indigo.serving = false → ∃ t, exec (.ident src) s = .next t ∧ t = s)

/-- SEG_READ and SEG_WRITE open, follow and close sessions; a silent session ends after 1 s. Rests on R247, R261,
R265, R266, R267, R272, 12_object_dictionary. A SEG_READ at offset 0 of a BLOB of up to 256 KiB captures it, answers
up to 1,020 bytes and keeps a session unless that is all of it; a longer one is read live. A later offset continues
the session's value; without a session, at or past the end, or of a BLOB of no bytes, it answers RANGE. A SEG_WRITE at
offset 0 opens a write session, one at the received length extends it, any other answers RANGE and ends it; one too
long answers TYPE; the one that completes it writes the value, by the checks of R261, and answers as a WRITE. No free
session or space answers NORES. With a transaction open a SEG_WRITE is staged. An entry that is no BLOB answers
BADCMD, and an unknown, a write-only or a read-only one as READ and WRITE do. They are held off as READ and WRITE are
before READY and under the boot responder, and not served while Indigo restarts. SESSION_TIMEOUT ends a session 1 s
after its last segment. -/
def Obligations.SegmentsFollowTheirSession : Prop :=
  -- SEG_READ
  (∀ (s : State) (src : OdSrc) (index : BitVec 16) (sub : Byte) (e : OdEntry) (tg : Tgt) (c : State), s.OdOpen true index.toNat →
    odListed index.toNat = some true → odFind index.toNat sub.toNat = .ok (e, tg) → e.acc ≠ .wo → tg.many = false → c = s.closeSession src index sub →
    ∃ t, exec (.segRead src index sub 0#32) s = .next t ∧
      (c.odLen index.toNat e tg = 0 → t = c.answered (odRange, [])) ∧
      (0 < c.odLen index.toNat e tg → c.odLen index.toNat e tg ≤ 262144 → c.od.room (c.odLen index.toNat e tg) = true →
        (c.odValue index.toNat e tg).2.SegAnswered (Session.mk src index sub false false (c.odValue index.toNat e tg).1 s.now) 0#32
          ((c.odValue index.toNat e tg).1.take 1020) (c.odValue index.toNat e tg).1.length t) ∧
      (0 < c.odLen index.toNat e tg → c.odLen index.toNat e tg ≤ 262144 → c.od.room (c.odLen index.toNat e tg) = false → t = c.answered (odNoRes, [])) ∧
      (262144 < c.odLen index.toNat e tg → c.od.room 0 = true →
        (c.liveSegment index.toNat e tg 0).2.SegAnswered (Session.mk src index sub false true [] s.now) 0#32
          (c.liveSegment index.toNat e tg 0).1 (c.odLen index.toNat e tg) t) ∧
      (262144 < c.odLen index.toNat e tg → c.od.room 0 = false → t = c.answered (odNoRes, []))) ∧
  -- SEG_READ
  (∀ (s : State) (src : OdSrc), s.OdServes → (s.closeSession src 0x3030#16 0#8).od.room 222976 = true →
    ∃ t, exec (.segRead src 0x3030#16 0#8 0#32) s = .next t ∧ t.od.answer = (odOk, [0#8, 0#8, 0#8, 0#8] ++ s.calBytes.take 1020) ∧
      t.od.sessions = (s.od.sessions.filter (fun (x : Session) => !x.on src 0x3030#16 0#8)) ++ [Session.mk src 0x3030#16 0#8 false false s.calBytes s.now] ∧
      t = { s with od := { s.od with answer := t.od.answer, sessions := t.od.sessions } }) ∧
  -- SEG_READ
  (∀ (s : State) (src : OdSrc) (index : BitVec 16) (sub : Byte) (off : Word) (e : OdEntry) (tg : Tgt) (x : Session), s.OdOpen true index.toNat →
    odListed index.toNat = some true → odFind index.toNat sub.toNat = .ok (e, tg) → e.acc ≠ .wo → tg.many = false → off ≠ 0#32 →
    s.od.sessions.find? (fun (y : Session) => y.on src index sub && !y.write) = some x →
    ∃ t, exec (.segRead src index sub off) s = .next t ∧
      (x.live = false → off.toNat < x.data.length → s.SegAnswered x off ((x.data.drop off.toNat).take 1020) x.data.length t) ∧
      (x.live = false → x.data.length ≤ off.toNat → t = s.answered (odRange, [])) ∧
      (x.live = true → off.toNat < s.odLen index.toNat e tg →
        (s.liveSegment index.toNat e tg off.toNat).2.SegAnswered x off (s.liveSegment index.toNat e tg off.toNat).1 (s.odLen index.toNat e tg) t) ∧
      (x.live = true → s.odLen index.toNat e tg ≤ off.toNat → t = s.answered (odRange, []))) ∧
  -- SEG_READ
  (∀ (s : State) (src : OdSrc) (index : BitVec 16) (sub : Byte) (off : Word) (e : OdEntry) (tg : Tgt), s.OdOpen true index.toNat →
    odListed index.toNat = some true → odFind index.toNat sub.toNat = .ok (e, tg) → e.acc ≠ .wo → tg.many = false → off ≠ 0#32 →
    s.od.sessions.find? (fun (y : Session) => y.on src index sub && !y.write) = none →
    ∃ t, exec (.segRead src index sub off) s = .next t ∧ t = s.answered (odRange, [])) ∧
  -- SEG_READ
  (∀ (s : State) (src : OdSrc) (index : BitVec 16) (sub : Byte) (off : Word) (e : OdEntry) (tg : Tgt), s.OdOpen true index.toNat →
    odListed index.toNat ≠ some false → odFind index.toNat sub.toNat = .ok (e, tg) → (e.acc = .wo ∨ tg.many = true) →
    ∃ t, exec (.segRead src index sub off) s = .next t ∧ t = s.answered (odAccess, [])) ∧
  -- SEG_READ
  (∀ (s : State) (src : OdSrc) (index : BitVec 16) (sub : Byte) (off : Word) (st : Nat), s.OdOpen true index.toNat →
    odListed index.toNat ≠ some false → odFind index.toNat sub.toNat = .error st →
    ∃ t, exec (.segRead src index sub off) s = .next t ∧ (st = odNoObj ∨ st = odNoSub) ∧ t = s.answered (st, [])) ∧
  -- SEG_READ
  (∀ (s : State) (src : OdSrc) (index : BitVec 16) (sub : Byte) (off : Word), s.OdOpen true index.toNat → odListed index.toNat = some false →
    ∃ t, exec (.segRead src index sub off) s = .next t ∧ t = s.answered (odBadCmd, [])) ∧
  -- SEG_READ
  (∀ (s : State) (src : OdSrc) (index : BitVec 16) (sub : Byte) (off : Word), s.indigo.serving = true → ¬s.OdOpen true index.toNat →
    ∃ t, exec (.segRead src index sub off) s = .next t ∧ s.OdBusy index.toNat t) ∧
  -- SEG_READ
  (∀ (s : State) (src : OdSrc) (index : BitVec 16) (sub : Byte) (off : Word), s.indigo.serving = false → ∃ t, exec (.segRead src index sub off) s = .next t ∧ t = s) ∧
  -- SEG_WRITE
  (∀ (s : State) (src : OdSrc) (index : BitVec 16) (sub : Byte) (off : Word) (data : List Byte) (e : OdEntry) (tg : Tgt), s.OdOpen false index.toNat →
    s.txnOf src = none → odListed index.toNat = some true → odFind index.toNat sub.toNat = .ok (e, tg) → e.acc ≠ .ro →
    (off = 0#32 → (s.closeSession src index sub).od.room (e.len.getD 0) = true) →
    ∃ t, exec (.segWrite src index sub off data) s = .next t ∧
      (∀ st : Nat, segStep e.len ((s.od.sessions.find? (fun (y : Session) => y.on src index sub && y.write)).map (fun (y : Session) => y.data)) off.toNat data = SegStep.bad st →
        (st = odRange ∨ st = odType) ∧ t = (s.closeSession src index sub).answered (st, [])) ∧
      (∀ b : List Byte, segStep e.len ((s.od.sessions.find? (fun (y : Session) => y.on src index sub && y.write)).map (fun (y : Session) => y.data)) off.toNat data = SegStep.more b →
        t = { s with od := { s.od with
                answer := (odOk, []),
                sessions := (s.od.sessions.filter (fun (y : Session) => !y.on src index sub)) ++ [Session.mk src index sub true false b s.now] } }) ∧
      (∀ b : List Byte, segStep e.len ((s.od.sessions.find? (fun (y : Session) => y.on src index sub && y.write)).map (fun (y : Session) => y.data)) off.toNat data = SegStep.complete b →
        t = ((s.closeSession src index sub).odWriteNow src index.toNat sub.toNat b).2.answered ((s.closeSession src index sub).odWriteNow src index.toNat sub.toNat b).1)) ∧
  -- SEG_WRITE
  (∀ (s : State) (src : OdSrc) (data : List Byte), s.OdServes → s.txnOf src = none → data ≠ [] →
    (s.closeSession src 0x1040#16 0#8).od.room 0 = true →
    ∃ t, exec (.segWrite src 0x1040#16 0#8 0#32 data) s = .next t ∧
      t = { s with od := { s.od with
              answer := (odOk, []),
              sessions := (s.od.sessions.filter (fun (x : Session) => !x.on src 0x1040#16 0#8)) ++ [Session.mk src 0x1040#16 0#8 true false data s.now] } }) ∧
  -- SEG_WRITE
  (∀ (s : State) (src : OdSrc) (x : Session) (off : Word) (data : List Byte), s.OdServes → s.txnOf src = none → data ≠ [] → off ≠ 0#32 →
    s.od.sessions.find? (fun (y : Session) => y.on src 0x1040#16 0#8 && y.write) = some x → off.toNat = x.data.length →
    ∃ t, exec (.segWrite src 0x1040#16 0#8 off data) s = .next t ∧
      t = { s with od := { s.od with
              answer := (odOk, []),
              sessions := (s.od.sessions.filter (fun (y : Session) => !y.on src 0x1040#16 0#8)) ++ [Session.mk src 0x1040#16 0#8 true false (x.data ++ data) s.now] } }) ∧
  -- SEG_WRITE
  (∀ (s : State) (src : OdSrc) (index : BitVec 16) (sub : Byte) (off : Word) (data : List Byte) (e : OdEntry) (tg : Tgt), s.OdOpen false index.toNat → s.txnOf src = none →
    odListed index.toNat = some true → odFind index.toNat sub.toNat = .ok (e, tg) → e.acc ≠ .ro → off ≠ 0#32 →
    (∀ x ∈ s.od.sessions.find? (fun (y : Session) => y.on src index sub && y.write), off.toNat ≠ x.data.length) →
    ∃ t, exec (.segWrite src index sub off data) s = .next t ∧
      t = { s with od := { s.od with answer := (odRange, []), sessions := s.od.sessions.filter (fun (y : Session) => !y.on src index sub) } }) ∧
  -- SEG_WRITE
  (∀ (s : State) (src : OdSrc) (index : BitVec 16) (sub : Byte) (data : List Byte) (e : OdEntry) (tg : Tgt), s.OdOpen false index.toNat → s.txnOf src = none →
    odListed index.toNat = some true → odFind index.toNat sub.toNat = .ok (e, tg) → e.acc ≠ .ro → (s.closeSession src index sub).od.room (e.len.getD 0) = false →
    ∃ t, exec (.segWrite src index sub 0#32 data) s = .next t ∧ t = (s.closeSession src index sub).answered (odNoRes, [])) ∧
  -- SEG_WRITE
  (∀ (s : State) (src : OdSrc) (index : BitVec 16) (sub : Byte) (off : Word) (data : List Byte) (x : Txn), s.OdOpen false index.toNat → s.txnOf src = some x →
    odListed index.toNat ≠ some false →
    ∃ t, exec (.segWrite src index sub off data) s = .next t ∧ s.Staged x (OdCmd.mk 4#8 index sub (wordBytes off ++ data)) t) ∧
  -- SEG_WRITE
  (∀ (s : State) (src : OdSrc) (index : BitVec 16) (sub : Byte) (off : Word) (data : List Byte) (e : OdEntry) (tg : Tgt), s.OdOpen false index.toNat →
    s.txnOf src = none → odListed index.toNat ≠ some false → odFind index.toNat sub.toNat = .ok (e, tg) → e.acc = .ro →
    ∃ t, exec (.segWrite src index sub off data) s = .next t ∧ t = s.answered (odAccess, [])) ∧
  -- SEG_WRITE
  (∀ (s : State) (src : OdSrc) (index : BitVec 16) (sub : Byte) (off : Word) (data : List Byte) (st : Nat), s.OdOpen false index.toNat → s.txnOf src = none →
    odListed index.toNat ≠ some false → odFind index.toNat sub.toNat = .error st →
    ∃ t, exec (.segWrite src index sub off data) s = .next t ∧ (st = odNoObj ∨ st = odNoSub) ∧ t = s.answered (st, [])) ∧
  -- SEG_WRITE
  (∀ (s : State) (src : OdSrc) (index : BitVec 16) (sub : Byte) (off : Word) (data : List Byte), s.OdOpen false index.toNat → odListed index.toNat = some false →
    ∃ t, exec (.segWrite src index sub off data) s = .next t ∧ t = s.answered (odBadCmd, [])) ∧
  -- SEG_WRITE
  (∀ (s : State) (src : OdSrc) (index : BitVec 16) (sub : Byte) (off : Word) (data : List Byte), s.indigo.serving = true → ¬s.OdOpen false index.toNat →
    ∃ t, exec (.segWrite src index sub off data) s = .next t ∧ s.OdBusy index.toNat t) ∧
  -- SEG_WRITE
  (∀ (s : State) (src : OdSrc) (index : BitVec 16) (sub : Byte) (off : Word) (data : List Byte), s.indigo.serving = false →
    ∃ t, exec (.segWrite src index sub off data) s = .next t ∧ t = s) ∧
  -- SESSION_TIMEOUT
  (∀ (s : State) (k : Nat) (x : Session), s.od.sessions[k]? = some x →
    ∃ t, exec (.sessionTimeout k) s = .next t ∧ t = { s with clk := (s.reach (x.last + tkSec)).clk, od := { s.od with sessions := s.od.sessions.eraseIdx k } }) ∧
  -- SESSION_TIMEOUT
  (∀ (s : State) (k : Nat), s.od.sessions.length ≤ k → ∃ t, exec (.sessionTimeout k) s = .next t ∧ t = s)

/-- BEGIN, COMMIT, ABORT and the transaction timeout. Rests on R244, R247, R272, R273, R274, R275,
12_object_dictionary. BEGIN opens a transaction for a source that has none while fewer than two are open; else it
answers RANGE or NORES. COMMIT answers RANGE without a matching transaction, CHECK where the check word disagrees, the
first failure's status where a staged command failed, LOCKED with GUARD_REJ where a guarded write is no longer
permitted, and BUSY where an entry is claimed; else it applies the staged writes in order at one instant and answers
their count: in each but the first it closes the transaction. ABORT drops the matching transaction, else it answers
RANGE. Before READY these answer BUSY with a time, and while Indigo restarts nothing is served. TXN_TIMEOUT drops a
transaction 10 s after its last command. -/
def Obligations.TransactionsCommitAsAWhole : Prop :=
  -- BEGIN
  (∀ (s : State) (src : OdSrc) (xid : BitVec 16), s.indigo.serving = true → s.ready = true → s.txnOf src = none → s.od.txns.length < 2 →
    ∃ t, exec (.begin src xid) s = .next t ∧
      t = { s with od := { s.od with answer := (odOk, []), txns := s.od.txns ++ [Txn.mk src xid [] [] none s.now] } }) ∧
  -- BEGIN
  (∀ (s : State) (src : OdSrc) (xid : BitVec 16), s.indigo.serving = true → s.ready = true → ((s.txnOf src).isSome = true ∨ 2 ≤ s.od.txns.length) →
    ∃ t, exec (.begin src xid) s = .next t ∧ t = s.answered (if (s.txnOf src).isSome then odRange else odNoRes, [])) ∧
  -- BEGIN
  (∀ (s : State) (src : OdSrc) (xid : BitVec 16), s.indigo.serving = true → s.ready = false →
    ∃ t, exec (.begin src xid) s = .next t ∧ t.od.answer.1 = odBusy ∧ t.od.answer.2.length = 4 ∧
      t = { s with od := { s.od with answer := t.od.answer }, free := t.free }) ∧
  -- BEGIN
  (∀ (s : State) (src : OdSrc) (xid : BitVec 16), s.indigo.serving = false → ∃ t, exec (.begin src xid) s = .next t ∧ t = s) ∧
  -- COMMIT
  (∀ (s : State) (src : OdSrc) (xid : BitVec 16) (check : Word), s.indigo.serving = true → s.ready = true → (∀ x ∈ s.txnOf src, x.xid ≠ xid) →
    ∃ t, exec (.commit src xid check) s = .next t ∧ t = s.answered (odRange, [])) ∧
  -- COMMIT
  (∀ (s : State) (src : OdSrc) (x : Txn) (check : Word), s.indigo.serving = true → s.ready = true → s.txnOf src = some x → crc32 x.stream ≠ check →
    ∃ t, exec (.commit src x.xid check) s = .next t ∧ t = (s.dropTxn src).answered (odCheck, [])) ∧
  -- COMMIT
  (∀ (s : State) (src : OdSrc) (x : Txn) (st : Nat), s.indigo.serving = true → s.ready = true → s.txnOf src = some x → x.failed = some st →
    ∃ t, exec (.commit src x.xid (crc32 x.stream)) s = .next t ∧ t = (s.dropTxn src).answered (odAnswer st)) ∧
  -- COMMIT
  (∀ (s : State) (src : OdSrc) (x : Txn) (ws : List StagedWrite), s.indigo.serving = true → s.ready = true → s.txnOf src = some x → x.failed = none → ws = (stagedWrites x.cmds).1 →
    ∃ t, exec (.commit src x.xid (crc32 x.stream)) s = .next t ∧
      (((s.dropTxn src).commitMay src ws).1 = false → t.fb 0 F.PRT_STAT_GUARD_REJ = true ∧ t = ((s.dropTxn src).commitMay src ws).2.answered (odLocked, [])) ∧
      (((s.dropTxn src).commitMay src ws).1 = true → ((s.dropTxn src).commitMay src ws).2.applyStream ws = none →
        t = ((s.dropTxn src).commitMay src ws).2.answered odBusyUnknown) ∧
      (((s.dropTxn src).commitMay src ws).1 = true → ∀ c ∈ ((s.dropTxn src).commitMay src ws).2.applyStream ws, t = c.answered (odOk, bytesBE 4 x.cmds.length))) ∧
  -- COMMIT
  (∀ (s : State) (n : BitVec 16) (x : Txn) (b0 b1 b2 b3 : Byte), s.OdServes → s.cfgDone = true → s.txnOf (.node n) = some x → x.failed = none →
    x.cmds = [OdCmd.mk 2#8 0x8042#16 0#8 [b0, b1, b2, b3]] →
    ∃ t, exec (.commit (.node n) x.xid (crc32 x.stream)) s = .next t ∧ t.od.answer = (odOk, bytesBE 4 1) ∧
      t.od = { s.od with answer := t.od.answer, txns := s.od.txns.filter (fun (y : Txn) => y.src != OdSrc.node n) } ∧
      t.f 0 F.NET_NODE_GRP = b2.toNat * 256 + b3.toNat ∧ (∀ a, a ≠ R.NET_NODE → t.w a = s.w a) ∧
      t = { s with regs := t.regs, od := t.od, paths := t.paths }) ∧
  -- COMMIT
  (∀ (s : State) (src : OdSrc) (xid : BitVec 16) (check : Word), s.indigo.serving = true → s.ready = false →
    ∃ t, exec (.commit src xid check) s = .next t ∧ t.od.answer.1 = odBusy ∧ t.od.answer.2.length = 4 ∧
      t = { s with od := { s.od with answer := t.od.answer }, free := t.free }) ∧
  -- COMMIT
  (∀ (s : State) (src : OdSrc) (xid : BitVec 16) (check : Word), s.indigo.serving = false → ∃ t, exec (.commit src xid check) s = .next t ∧ t = s) ∧
  -- ABORT
  (∀ (s : State) (src : OdSrc) (x : Txn), s.indigo.serving = true → s.ready = true → s.txnOf src = some x →
    ∃ t, exec (.abort src x.xid) s = .next t ∧
      t = { s with od := { s.od with answer := (odOk, []), txns := s.od.txns.filter (fun (y : Txn) => y.src != src) } }) ∧
  -- ABORT
  (∀ (s : State) (src : OdSrc) (xid : BitVec 16), s.indigo.serving = true → s.ready = true → (∀ x ∈ s.txnOf src, x.xid ≠ xid) →
    ∃ t, exec (.abort src xid) s = .next t ∧ t = s.answered (odRange, [])) ∧
  -- ABORT
  (∀ (s : State) (src : OdSrc) (xid : BitVec 16), s.indigo.serving = true → s.ready = false →
    ∃ t, exec (.abort src xid) s = .next t ∧ t.od.answer.1 = odBusy ∧ t.od.answer.2.length = 4 ∧
      t = { s with od := { s.od with answer := t.od.answer }, free := t.free }) ∧
  -- ABORT
  (∀ (s : State) (src : OdSrc) (xid : BitVec 16), s.indigo.serving = false → ∃ t, exec (.abort src xid) s = .next t ∧ t = s) ∧
  -- TXN_TIMEOUT
  (∀ (s : State) (src : OdSrc) (x : Txn), s.txnOf src = some x →
    ∃ t, exec (.txnTimeout src) s = .next t ∧
      t = { s with clk := (s.reach (x.last + 10 * tkSec)).clk, od := { s.od with txns := s.od.txns.filter (fun (y : Txn) => y.src != src) } }) ∧
  -- TXN_TIMEOUT
  (∀ (s : State) (src : OdSrc), s.txnOf src = none → ∃ t, exec (.txnTimeout src) s = .next t ∧ t = s)

/-- A Ulidjaif frame or a mailbox request runs its commands once and is answered. Rests on R239, R241, R243, R244,
R245, R246, R247, R268, 12_object_dictionary. ULD_FRAME counts a request for this node, runs its commands in order and
keeps and sends the response from the request's port, at once or after what waits there; a group's or broadcast's is
answered where it asks; a request that is kept is answered again without running, with DUP; one with a bad FCS, one
while Indigo restarts (assumption 79), one before the boot responder, with EARLY, and a malformed one or one from a
source above 0xFEFF, with ULD_DROP, are counted and dropped; other nodes' frames, and frames a port does not take, do
nothing. A path that may write makes MAILBOX_GO serve the request in the buffer likewise, set DONE and clear BUSY; a
malformed one leaves the buffer; while Indigo does not serve it waits; while BUSY it sets OVR. -/
def Obligations.FramesAndMailboxesAreAnswered : Prop :=
  -- ULD_FRAME
  (∀ (s : State) (p : Port) (f : EthFrame), (s.portUp p = false ∨ ethAccepted f.bytes = false ∨ s.uldDst f.bytes = none ∨ ∀ d ∈ s.uldDst f.bytes, s.dstHere d = none) →
    ∃ t, exec (.uldFrame p f) s = .next t ∧ t = s) ∧
  -- ULD_FRAME
  (∀ (s : State) (p : Port) (f : EthFrame) (d : Nat) (alone : Bool), s.portUp p = true → ethAccepted f.bytes = true → s.uldDst f.bytes = some d →
    s.dstHere d = some alone →
    (f.fcsOk = false ∨ s.boot.responder = false ∨ s.indigo.serving = false ∨ parseUld (f.bytes.drop (ethType f.bytes).2) = none ∨
      ∀ q ∈ parseUld (f.bytes.drop (ethType f.bytes).2), 0xFF00 ≤ q.src) →
    ∃ t, exec (.uldFrame p f) s = .next t ∧ t.pair R.NET_ULDDROP_H = (s.pair R.NET_ULDDROP_H + 1) % 2 ^ 64 ∧
      (f.fcsOk = true → s.boot.responder = false → t.fb 0 F.NET_STAT_EARLY = true) ∧
      (f.fcsOk = true → s.boot.responder = true → s.indigo.serving = true → t.fb 0 F.NET_STAT_ULD_DROP = true) ∧
      s.OnlyRegs t [R.NET_ULDDROP_H, R.NET_ULDDROP_H + 4, R.NET_STAT]) ∧
  -- ULD_FRAME
  (∀ (s : State) (p : Port) (f : EthFrame) (d : Nat) (alone : Bool) (q : UldReq) (c : State) (r : List Byte × State), s.portUp p = true → ethAccepted f.bytes = true →
    s.uldDst f.bytes = some d → s.dstHere d = some alone → f.fcsOk = true → s.boot.responder = true → s.indigo.serving = true →
    parseUld (f.bytes.drop (ethType f.bytes).2) = some q → q.src < 0xFF00 → s.keptFor (.node (BitVec.ofNat 16 q.src)) q.tid = none →
    c = s.count R.NET_ULDRX_H 1 → r = State.odCmds (.node (BitVec.ofNat 16 q.src)) false q.cmds c →
    ∃ t, exec (.uldFrame p f) s = .next t ∧
      (alone = false → q.ackreq = false → t = r.2) ∧
      (alone = true ∨ q.ackreq = true →
        t = (r.2.keep (.node (BitVec.ofNat 16 q.src)) q.tid (r.2.uldResponse (.node (BitVec.ofNat 16 q.src)) q r.1)).sendOwn p
          (.ulidjaif (r.2.uldEth p f.bytes (r.2.uldResponse (.node (BitVec.ofNat 16 q.src)) q r.1))))) ∧
  -- ULD_FRAME
  (∀ (s : State) (p : Port) (f : EthFrame) (d : Nat) (q : UldReq), s.portUp p = true → ethAccepted f.bytes = true → s.uldDst f.bytes = some d →
    s.dstHere d = some true → f.fcsOk = true → s.boot.responder = true → s.indigo.serving = true →
    parseUld (f.bytes.drop (ethType f.bytes).2) = some q → q.src < 0xFF00 → q.cmds = [OdCmd.mk 6#8 0#16 0#8 []] →
    s.keptFor (.node (BitVec.ofNat 16 q.src)) q.tid = none →
    ∃ t, exec (.uldFrame p f) s = .next t ∧ t.pair R.NET_ULDRX_H = (s.pair R.NET_ULDRX_H + 1) % 2 ^ 64 ∧
      t.od.answer = (odOk, s.identBytes) ∧ (t.od.kept.head?.map Kept.tid) = some q.tid ∧ t.od.sessions = s.od.sessions ∧ t.od.txns = s.od.txns ∧
      t.port p = PortSt.given (OwnFrame.ulidjaif (s.uldEth p f.bytes (s.uldResponse (.node (BitVec.ofNat 16 q.src)) q
        (answerBytes (OdCmd.mk 6#8 0#16 0#8 []) (odOk, s.identBytes))))) (s.port p) ∧ t.port p.other = s.port p.other ∧ t.net.doms = s.net.doms ∧
      (∀ a, a ∉ [R.NET_ULDRX_H, R.NET_ULDRX_H + 4] → t.w a = s.w a) ∧ t = { s with regs := t.regs, net := t.net, od := t.od }) ∧
  -- ULD_FRAME
  (∀ (s : State) (p : Port) (f : EthFrame) (d : Nat) (alone : Bool) (q : UldReq) (kp : Kept), s.portUp p = true → ethAccepted f.bytes = true → s.uldDst f.bytes = some d →
    s.dstHere d = some alone → f.fcsOk = true → s.boot.responder = true → s.indigo.serving = true →
    parseUld (f.bytes.drop (ethType f.bytes).2) = some q → q.src < 0xFF00 → s.keptFor (.node (BitVec.ofNat 16 q.src)) q.tid = some kp →
    ∃ t, exec (.uldFrame p f) s = .next t ∧ t.fb 0 F.NET_STAT_DUP = true ∧ t.od = s.od ∧
      t.pair R.NET_ULDRX_H = (s.pair R.NET_ULDRX_H + 1) % 2 ^ 64 ∧
      t.port p = (if alone = true ∨ q.ackreq = true then PortSt.given (OwnFrame.ulidjaif (s.uldEth p f.bytes kp.resp)) (s.port p) else s.port p) ∧
      t.port p.other = s.port p.other ∧ t.net.doms = s.net.doms ∧
      (∀ a, a ∉ [R.NET_ULDRX_H, R.NET_ULDRX_H + 4, R.NET_STAT] → t.w a = s.w a) ∧ t = { s with regs := t.regs, net := t.net }) ∧
  -- MAILBOX_GO
  (∀ (s : State) (p : Sys2Proof.Path), s.Writes p → s.od.mailbox = none → s.fb 0 F.DEV_ODM_CTL_BUSY = false → s.indigo.serving = false →
    ∃ t, exec (.mailboxGo p) s = .next t ∧ t.od = { s.od with mailbox := some p } ∧ t.fb 0 F.DEV_ODM_CTL_BUSY = true ∧
      (∀ a, a ≠ R.DEV_ODM_CTL → t.w a = s.w a) ∧ t = { s with regs := t.regs, od := t.od, paths := t.paths }) ∧
  -- MAILBOX_GO
  (∀ (s : State) (p : Sys2Proof.Path), s.Writes p → (s.od.mailbox = none ∨ s.indigo.serving = false) → s.fb 0 F.DEV_ODM_CTL_BUSY = true →
    ∃ t, exec (.mailboxGo p) s = .next t ∧ t.fb 0 F.DEV_ODM_CTL_OVR = true ∧ t.fb 0 F.DEV_ODM_CTL_BUSY = true ∧
      s.OnlyRegsOf p t [R.DEV_ODM_CTL]) ∧
  -- MAILBOX_GO
  (∀ (s : State) (p : Sys2Proof.Path), s.Writes p → s.od.mailbox = none → s.fb 0 F.DEV_ODM_CTL_BUSY = false → s.indigo.serving = true → parseUld s.mailboxBytes = none →
    ∃ t, exec (.mailboxGo p) s = .next t ∧ t.fb 0 F.DEV_ODM_CTL_BUSY = false ∧ t.fb 0 F.DEV_ODM_CTL_DONE = true ∧ s.OnlyRegsOf p t [R.DEV_ODM_CTL]) ∧
  -- MAILBOX_GO
  (∀ (s : State) (p : Sys2Proof.Path) (q : UldReq) (c : State) (r : List Byte × State), s.Writes p → s.od.mailbox = none → s.fb 0 F.DEV_ODM_CTL_BUSY = false →
    s.indigo.serving = true → parseUld s.mailboxBytes = some q → s.keptFor (.mailbox p) q.tid = none →
    c = (s.setF 0 F.DEV_ODM_CTL_BUSY 1).modPath p (fun x => { x with resp := 0 }) → r = State.odCmds (.mailbox p) false q.cmds c →
    ∃ t, exec (.mailboxGo p) s = .next t ∧
      t = ((((r.2.keep (.mailbox p) q.tid (r.2.uldResponse (.mailbox p) q r.1)).putMailbox (r.2.uldResponse (.mailbox p) q r.1)).setF 0 F.DEV_ODM_CTL_BUSY 0).raise 0
        F.DEV_ODM_CTL_DONE)) ∧
  -- MAILBOX_GO
  (∀ (s : State) (p : Sys2Proof.Path) (q : UldReq) (kp : Kept), s.Writes p → s.od.mailbox = none → s.fb 0 F.DEV_ODM_CTL_BUSY = false →
    s.indigo.serving = true → parseUld s.mailboxBytes = some q → s.keptFor (.mailbox p) q.tid = some kp →
    ∃ t, exec (.mailboxGo p) s = .next t ∧ t.fb 0 F.NET_STAT_DUP = true ∧ t.fb 0 F.DEV_ODM_CTL_BUSY = false ∧ t.fb 0 F.DEV_ODM_CTL_DONE = true ∧ t.od = s.od ∧
      (kp.resp.length ≤ 1500 → t.mailboxBytes.take kp.resp.length = kp.resp) ∧
      (∀ a, a ≠ R.DEV_ODM_CTL → a ≠ R.NET_STAT → (a < R.DEV_ODM_BUF ∨ R.DEV_ODM_BUF + 1500 ≤ a) → t.w a = s.w a) ∧
      t = { s with regs := t.regs, paths := t.paths }) ∧
  -- MAILBOX_GO
  (∀ (s : State) (p : Sys2Proof.Path) (q : UldReq), s.Writes p → s.Serves → s.fb 0 F.DEV_ODM_CTL_BUSY = false → s.indigo.serving = true →
    parseUld s.mailboxBytes = some q → q.cmds = [OdCmd.mk 6#8 0#16 0#8 []] → s.keptFor (.mailbox p) q.tid = none →
    ∃ t, exec (.mailboxGo p) s = .next t ∧ t.fb 0 F.DEV_ODM_CTL_BUSY = false ∧ t.fb 0 F.DEV_ODM_CTL_DONE = true ∧ t.od.mailbox = none ∧
      t.od.answer = (odOk, s.identBytes) ∧
      t.mailboxBytes.take 36 = s.uldResponse (.mailbox p) q (answerBytes (OdCmd.mk 6#8 0#16 0#8 []) (odOk, s.identBytes)) ∧
      (∀ a, a ≠ R.DEV_ODM_CTL → (a < R.DEV_ODM_BUF ∨ R.DEV_ODM_BUF + 36 ≤ a) → t.w a = s.w a) ∧
      t = { s with regs := t.regs, od := t.od, paths := t.paths })

/-- REGISTER_WRITE, APERTURE_WRITE, INDIRECT_ACCESS and FN_LOCK_SET by the rules of R279 to R294. Rests on R3, R279,
R283, R284, R285, R291, R294, 13_registers. REGISTER_WRITE gives a register the written word, byte lanes merged into
the one it holds, by that register's own rules: a group mask stores it, NET_STAT clears the W1C flags; it leaves
unmapped addresses and the active view alone, and is refused with ACC_FAULT where it is not aligned, too narrow for a
command register or an aperture, beyond the memory port's store, or from an LCP that may not write; a guarded write
needs the path's unlock, which it consumes, else GUARD_REJ is set. APERTURE_WRITE gives every member channel that is
not fused off the word, as a write of its own register. INDIRECT_ACCESS acts at IA.ADDR as an access there and
advances it where that was accepted; IA and ID themselves it refuses. FN_LOCK is set from every path without an
unlock. -/
def Obligations.AccessesFollowTheRegisterRules : Prop :=
  -- REGISTER_WRITE
  (∀ (s : State) (p : Sys2Proof.Path) (addr : BitVec 24) (w : Word) (g : Fin 16) (j : Fin 4), s.Serves → s.Writes p →
    addr.toNat = R.UG_MASK + 0x20 * g.val + 4 * j.val →
    ∃ t, exec (.registerWrite p addr 0xF#4 w) s = .next t ∧ t.w addr.toNat = w ∧ (t.path p).resp = 0 ∧ s.OnlyRegsOf p t [addr.toNat]) ∧
  -- REGISTER_WRITE
  (∀ (s : State) (p : Sys2Proof.Path) (addr : BitVec 24) (w : Word) (g : Fin 16) (j : Fin 4), s.Serves → s.Writes p → s.staged? p addr.toNat = none →
    addr.toNat = R.UG_MASK + 0x20 * g.val + 4 * j.val →
    ∃ t, exec (.registerWrite p addr 0xC#4 w) s = .next t ∧ t.w addr.toNat = (s.w addr.toNat &&& 0x0000FFFF#32) ||| (w &&& 0xFFFF0000#32) ∧
      s.OnlyRegsOf p t [addr.toNat]) ∧
  -- REGISTER_WRITE
  (∀ (s : State) (p : Sys2Proof.Path) (w : Word), s.Serves → s.Writes p →
    ∃ t, exec (.registerWrite p (BitVec.ofNat 24 R.NET_STAT) 0xF#4 w) s = .next t ∧ t.w R.NET_STAT = s.w R.NET_STAT &&& ~~~(w &&& 0xFE#32) ∧
      s.OnlyRegsOf p t [R.NET_STAT]) ∧
  -- REGISTER_WRITE
  (∀ (s : State) (p : Sys2Proof.Path) (addr : BitVec 24) (be : BitVec 4) (w : Word) (r : RegRow), s.od.mailbox = none → s.Writes p → beAligned addr.toNat be = true →
    addr.toNat ≠ R.ID → (addr.toNat = R.DEV_ODM_CTL → F.DEV_ODM_CTL_GO.of w = 0) → (locate addr.toNat).space ∉ [Space.bcast, Space.group, Space.active] →
    rowAt addr.toNat = some r → (be = 0xF#4 ∨ r.wide = false) → (addr.toNat = R.MP_DATA → s.mpInside = true) → r.guarded = false →
    ∃ t, exec (.registerWrite p addr be w) s = .next t ∧ (t.path p).resp = 0 ∧
      t = ((s.preWrite r).writeOwn p (locate addr.toNat) addr.toNat r (beMask be) (s.written p addr.toNat be w)).modPath p (fun x => { x with resp := 0 })) ∧
  -- REGISTER_WRITE
  (∀ (s : State) (p : Sys2Proof.Path) (addr : BitVec 24) (be : BitVec 4) (w : Word) (r : RegRow), s.od.mailbox = none → s.Writes p → beAligned addr.toNat be = true →
    addr.toNat ≠ R.ID → (locate addr.toNat).space ∉ [Space.bcast, Space.group, Space.active] → rowAt addr.toNat = some r → (be = 0xF#4 ∨ r.wide = false) →
    (addr.toNat = R.MP_DATA → s.mpInside = true) → r.guarded = true → (addr.toNat ≠ R.PRT_LOCK ∨ F.PRT_LOCK_FN_LOCK.of w = 0) →
    ∃ t, exec (.registerWrite p addr be w) s = .next t ∧
      ((s.guard p).1 = true → (t.path p).resp = 0 ∧
        t = ((s.guard p).2.writeOwn p (locate addr.toNat) addr.toNat r (beMask be) (s.written p addr.toNat be w)).modPath p (fun x => { x with resp := 0 })) ∧
      ((s.guard p).1 = false → t.fb 0 F.PRT_STAT_GUARD_REJ = true ∧ (t.path p).resp = 2 ∧ s.OnlyRegsOf p t [R.PRT_STAT]) ∧
      ((s.guard p).1 = true ↔ lockOf p = none ∨ (s.Unlocked p ∧ s.cfgDone = true))) ∧
  -- REGISTER_WRITE
  (∀ (s : State) (p : Sys2Proof.Path) (i : Fin 2), s.Serves → s.Writes p → s.Unlocked p → lockOf p = some i →
    ∃ t, exec (.registerWrite p (BitVec.ofNat 24 R.PRT_LOCK) 0xF#4 0#32) s = .next t ∧ t.unlockBy[i] = none ∧ (t.path p).resp = 0 ∧
      (∀ j : Fin 2, j ≠ i → t.unlockBy[j] = s.unlockBy[j]) ∧ t = { s with unlockBy := t.unlockBy, paths := t.paths }) ∧
  -- REGISTER_WRITE
  (∀ (s : State) (p : Sys2Proof.Path) (addr : BitVec 24) (be : BitVec 4) (w : Word), s.od.mailbox = none → beAligned addr.toNat be = false → addr.toNat ≠ R.ID →
    ∃ t, exec (.registerWrite p addr be w) s = .next t ∧ s.AccessRefused p causeAlign addr.toNat t) ∧
  -- REGISTER_WRITE
  (∀ (s : State) (addr : BitVec 24) (be : BitVec 4) (w : Word), s.od.mailbox = none → beAligned addr.toNat be = true → addr.toNat ∉ [R.ID, R.PRT_UNLOCK, R.PRT_LOCK] →
    s.tvB 0 F.DEV_MODE_LCP_WR = false →
    ∃ t, exec (.registerWrite .lcp addr be w) s = .next t ∧ s.AccessRefused .lcp causePath addr.toNat t) ∧
  -- REGISTER_WRITE
  (∀ (s : State) (p : Sys2Proof.Path) (addr : BitVec 24) (be : BitVec 4) (w : Word), s.od.mailbox = none → s.Writes p → beAligned addr.toNat be = true → be ≠ 0xF#4 →
    addr.toNat ≠ R.ID → (locate addr.toNat).space ≠ Space.active →
    ((locate addr.toNat).space = Space.bcast ∨ (locate addr.toNat).space = Space.group ∨ ∃ r ∈ rowAt addr.toNat, r.wide = true) →
    ∃ t, exec (.registerWrite p addr be w) s = .next t ∧ s.AccessRefused p causeWidth addr.toNat t) ∧
  -- REGISTER_WRITE
  (∀ (s : State) (p : Sys2Proof.Path) (addr : BitVec 24) (be : BitVec 4) (w : Word), s.od.mailbox = none → s.Writes p → beAligned addr.toNat be = true →
    addr.toNat ≠ R.ID → (locate addr.toNat).space ≠ Space.bcast → (locate addr.toNat).space ≠ Space.group →
    ((locate addr.toNat).space = Space.active ∨ rowAt addr.toNat = none) →
    ∃ t, exec (.registerWrite p addr be w) s = .next t ∧ (t.path p).resp = 0 ∧ s.OnlyRegsOf p t []) ∧
  -- REGISTER_WRITE
  (∀ (s : State) (p : Sys2Proof.Path) (w : Word), s.od.mailbox = none → s.Writes p → s.mpInside = false →
    ∃ t, exec (.registerWrite p (BitVec.ofNat 24 R.MP_DATA) 0xF#4 w) s = .next t ∧ s.AccessRefused p causePlace R.MP_DATA t) ∧
  -- REGISTER_WRITE
  (∀ (s : State) (p : Sys2Proof.Path) (addr : BitVec 24) (w : Word), s.od.mailbox = none → s.Writes p → addr.toNat % 4 = 0 →
    ((locate addr.toNat).space = Space.bcast ∨ (locate addr.toNat).space = Space.group) → addr.toNat ≠ R.ID →
    ∃ t, exec (.registerWrite p addr 0xF#4 w) s = .next t ∧ t = (s.writeAperture p (locate addr.toNat) w).modPath p (fun x => { x with resp := 0 })) ∧
  -- APERTURE_WRITE
  (∀ (s : State) (p : Sys2Proof.Path) (g : Option (Fin 16)) (w : Word) (k : Fin 16), s.Serves → s.Writes p →
    ∃ t, exec (.apertureWrite p g (BitVec.ofNat 12 (R.CH_MD_WP + 4 * k.val)) 0xF#4 w) s = .next t ∧
      (∀ n : Ch, s.fusedOff n = false → (∀ i ∈ g, (s.w (R.UG_MASK + 0x20 * i.val + 4 * (n.val / 32))).getLsbD (n.val % 32) = true) →
        t.w (chBase n + R.CH_MD_WP + 4 * k.val) = w) ∧
      (∀ n : Ch, (s.fusedOff n = true ∨ ∃ i ∈ g, (s.w (R.UG_MASK + 0x20 * i.val + 4 * (n.val / 32))).getLsbD (n.val % 32) = false) →
        t.w (chBase n + R.CH_MD_WP + 4 * k.val) = s.w (chBase n + R.CH_MD_WP + 4 * k.val)) ∧
      (∀ a, (∀ n : Ch, a ≠ chBase n + R.CH_MD_WP + 4 * k.val) → t.w a = s.w a) ∧ t = { s with regs := t.regs, paths := t.paths }) ∧
  -- APERTURE_WRITE
  (∀ (s : State) (p : Sys2Proof.Path) (g : Option (Fin 16)) (off : BitVec 12) (w : Word), s.od.mailbox = none → s.Writes p → off.toNat % 4 = 0 →
    ∃ t, exec (.apertureWrite p g off 0xF#4 w) s = .next t ∧ (t.path p).resp = 0 ∧
      (∀ r ∈ chanRows.find? (fun (x : RegRow) => x.covers off.toNat), off.toNat < 0x800 →
        t = ((s.preWrite r).sameCycle (s.members (locate (apertureAt g off))) (fun n x => x.writeChan p n off.toNat r w)).modPath p (fun x => { x with resp := 0 })) ∧
      ((chanRows.find? (fun (x : RegRow) => x.covers off.toNat) = none ∨ 0x800 ≤ off.toNat) → s.OnlyRegsOf p t [])) ∧
  -- APERTURE_WRITE
  (∀ (s : State) (p : Sys2Proof.Path) (g : Option (Fin 16)) (off : BitVec 12) (be : BitVec 4) (w : Word), s.od.mailbox = none →
    ∃ t, exec (.apertureWrite p g off be w) s = .next t ∧
      (beAligned off.toNat be = false → s.AccessRefused p causeAlign (apertureAt g off) t) ∧
      (beAligned off.toNat be = true → p = Sys2Proof.Path.lcp → s.tvB 0 F.DEV_MODE_LCP_WR = false → s.AccessRefused p causePath (apertureAt g off) t) ∧
      (beAligned off.toNat be = true → be ≠ 0xF#4 → (p ≠ Sys2Proof.Path.lcp ∨ s.tvB 0 F.DEV_MODE_LCP_WR = true) → s.AccessRefused p causeWidth (apertureAt g off) t)) ∧
  -- INDIRECT_ACCESS
  (∀ (s : State) (p : Sys2Proof.Path) (w : Word) (g : Fin 16) (j : Fin 4), s.Serves → s.Writes p →
    F.IA_ADDR.of (s.path p).ia = R.UG_MASK + 0x20 * g.val + 4 * j.val →
    ∃ t, exec (.indirectAccess p true w) s = .next t ∧ t.w (R.UG_MASK + 0x20 * g.val + 4 * j.val) = w ∧
      F.IA_ADDR.of (t.path p).ia = stepAddr (F.IA_STEP.of (s.path p).ia) (R.UG_MASK + 0x20 * g.val + 4 * j.val) ∧
      F.IA_STEP.of (t.path p).ia = F.IA_STEP.of (s.path p).ia ∧ s.OnlyRegsOf p t [R.UG_MASK + 0x20 * g.val + 4 * j.val]) ∧
  -- INDIRECT_ACCESS
  (∀ (s : State) (p : Sys2Proof.Path) (w : Word) (g : Fin 16) (j : Fin 4), F.IA_ADDR.of (s.path p).ia = R.UG_MASK + 0x20 * g.val + 4 * j.val →
    ∃ t, exec (.indirectAccess p false w) s = .next t ∧ (t.path p).data = s.w (R.UG_MASK + 0x20 * g.val + 4 * j.val) ∧ (t.path p).resp = 0 ∧
      F.IA_ADDR.of (t.path p).ia = stepAddr (F.IA_STEP.of (s.path p).ia) (R.UG_MASK + 0x20 * g.val + 4 * j.val) ∧
      (∀ q : Sys2Proof.Path, q ≠ p → t.path q = s.path q) ∧ t = { s with paths := t.paths }) ∧
  -- INDIRECT_ACCESS
  (∀ (s : State) (p : Sys2Proof.Path) (w : Word) (a : Nat) (u : State), s.od.mailbox = none → a = F.IA_ADDR.of (s.path p).ia → a ≠ R.IA → a ≠ R.ID →
    (a = R.DEV_ODM_CTL → F.DEV_ODM_CTL_GO.of w = 0) → u = (s.pathWrite p a 0xF#4 w).2 →
    ∃ t, exec (.indirectAccess p true w) s = .next t ∧ t = if (u.path p).resp = 0 then u.stepIa p else u) ∧
  -- INDIRECT_ACCESS
  (∀ (s : State) (p : Sys2Proof.Path) (w : Word) (a : Nat), a = F.IA_ADDR.of (s.path p).ia → a ≠ R.IA → a ≠ R.ID →
    ∃ t, exec (.indirectAccess p false w) s = .next t ∧ (t.path p).data = (s.readAt p a 0xF#4).2.1 ∧ (t.path p).resp = (s.readAt p a 0xF#4).1.code ∧
      F.IA_ADDR.of (t.path p).ia = (if (s.readAt p a 0xF#4).1 = Resp.ok then stepAddr (F.IA_STEP.of (s.path p).ia) a else a) ∧
      (∀ q : Sys2Proof.Path, q ≠ p → t.path q = (s.readAt p a 0xF#4).2.2.path q) ∧ t = { (s.readAt p a 0xF#4).2.2 with paths := t.paths }) ∧
  -- INDIRECT_ACCESS
  (∀ (s : State) (p : Sys2Proof.Path) (write : Bool) (w : Word), s.od.mailbox = none →
    (F.IA_ADDR.of (s.path p).ia = R.IA ∨ F.IA_ADDR.of (s.path p).ia = R.ID) →
    ∃ t, exec (.indirectAccess p write w) s = .next t ∧ t.fb 0 F.PRT_STAT_ACC_FAULT = true ∧ t.f 0 F.PRT_FAULTA_CAUSE = causePlace ∧
      (t.path p).ia = (s.path p).ia ∧ (t.path p).resp = 1 ∧ s.OnlyRegsOf p t [R.PRT_STAT, R.PRT_FAULTA]) ∧
  -- FN_LOCK_SET
  (∀ (s : State) (p : Sys2Proof.Path), s.Serves →
    ∃ t, exec (.fnLockSet p) s = .next t ∧ t.tvB 0 F.PRT_LOCK_FN_LOCK = true ∧ t.regs = s.regs ∧ t.unlockBy = s.unlockBy ∧
      (∀ a, a ≠ R.PRT_LOCK → t.tvW a = s.tvW a) ∧ t = { s with tv := t.tv, paths := t.paths })

/-- LCP transactions with the status that the next one returns, and MP_DATA accesses at MP_ADDR. Rests on R285, R286,
R287, R296, R297, 13_registers. LCP_READ returns the last transaction's status and the words read at the stepped
addresses, 0 from a refused one on, whose error it keeps; LCP_WRITE returns the status and writes its words there, up
to a refused one, whose error it keeps; LCP_STATUS returns the status and clears it; a rise of LCP_CS_N within a word
ends the transaction with an error, and else changes nothing. Before the LCP is enabled none of them does anything.
MP_DATA_READ gives the Vat or Lake word at MP_ADDR and, with INC, steps MP_ADDR; a corrected Vat word is counted, an
uncorrectable one reads as ones with UE. MP_DATA_WRITE writes the word where DEV_MODE.MP_WR is set and it is not in
use; else it sets WR_REJ and changes nothing. An access beyond the store is refused with ACC_FAULT, and from an LCP
that may not write, a write. -/
def Obligations.TheLcpAndTheMemoryPortServe : Prop :=
  -- LCP_READ
  (∀ (s : State) (step : BitVec 2) (addr : BitVec 24) (g : Fin 16) (j : Fin 4), s.boot.lcp = true →
    addr.toNat = R.UG_MASK + 0x20 * g.val + 4 * j.val →
    ∃ t, exec (.lcpRead step addr 1) s = .next t ∧ t.lcp = { LcpSt.reset with sdo := [s.lcp.status, 0#32, s.w addr.toNat] } ∧
      t = { s with lcp := t.lcp, paths := t.paths }) ∧
  -- LCP_READ
  (∀ (s : State) (step : BitVec 2) (addr : BitVec 24) (n : Nat) (r : List Word × State), s.boot.lcp = true →
    r = State.lcpReads step.toNat n addr.toNat { s with lcp := LcpSt.reset } →
    ∃ t, exec (.lcpRead step addr n) s = .next t ∧ t = { r.2 with lcp := { r.2.lcp with sdo := s.lcp.status :: 0#32 :: r.1 } }) ∧
  -- LCP_READ
  (∀ (s : State) (step : BitVec 2) (addr : BitVec 24) (n : Nat), s.boot.lcp = true → addr.toNat % 4 ≠ 0 → addr.toNat ≠ R.ID → 0 < n →
    ∃ t, exec (.lcpRead step addr n) s = .next t ∧ t.lcp = LcpSt.mk true 1#2 addr (s.lcp.status :: 0#32 :: List.replicate n 0#32) ∧
      t.fb 0 F.PRT_STAT_ACC_FAULT = true ∧ (∀ a, a ∉ [R.PRT_STAT, R.PRT_FAULTA] → t.w a = s.w a) ∧
      t = { s with regs := t.regs, lcp := t.lcp, paths := t.paths }) ∧
  -- LCP_READ
  (∀ (s : State) (step : BitVec 2) (addr : BitVec 24) (n : Nat), s.boot.lcp = false → ∃ t, exec (.lcpRead step addr n) s = .next t ∧ t = s) ∧
  -- LCP_WRITE
  (∀ (s : State) (addr : BitVec 24) (v w : Word) (g : Fin 16) (j : Fin 3), s.boot.lcp = true → s.Serves → s.tvB 0 F.DEV_MODE_LCP_WR = true →
    addr.toNat = R.UG_MASK + 0x20 * g.val + 4 * j.val →
    ∃ t, exec (.lcpWrite 1#2 addr [v, w]) s = .next t ∧ t.w addr.toNat = v ∧ t.w (addr.toNat + 4) = w ∧
      t.lcp = { LcpSt.reset with sdo := [s.lcp.status] } ∧ (∀ a, a ∉ [addr.toNat, addr.toNat + 4] → t.w a = s.w a) ∧
      t = { s with regs := t.regs, lcp := t.lcp, paths := t.paths }) ∧
  -- LCP_WRITE
  (∀ (s : State) (step : BitVec 2) (addr : BitVec 24) (ws : List Word) (u : State), s.boot.lcp = true →
    u = State.lcpWrites step.toNat ws addr.toNat { s with lcp := LcpSt.reset } →
    ∃ t, exec (.lcpWrite step addr ws) s = .next t ∧ t = { u with lcp := { u.lcp with sdo := [s.lcp.status] } }) ∧
  -- LCP_WRITE
  (∀ (s : State) (step : BitVec 2) (addr : BitVec 24) (ws : List Word), s.boot.lcp = false →
    ∃ t, exec (.lcpWrite step addr ws) s = .next t ∧ t = s) ∧
  -- LCP_WRITE
  (∀ (s : State) (step : BitVec 2) (addr : BitVec 24) (w : Word) (ws : List Word), s.boot.lcp = true → s.od.mailbox = none →
    s.tvB 0 F.DEV_MODE_LCP_WR = false → addr.toNat % 4 = 0 → addr.toNat ∉ [R.ID, R.PRT_UNLOCK, R.PRT_LOCK] →
    ∃ t, exec (.lcpWrite step addr (w :: ws)) s = .next t ∧ t.lcp = LcpSt.mk true 1#2 addr [s.lcp.status] ∧
      t.fb 0 F.PRT_STAT_ACC_FAULT = true ∧ (∀ a, a ∉ [R.PRT_STAT, R.PRT_FAULTA] → t.w a = s.w a) ∧
      t = { s with regs := t.regs, lcp := t.lcp, paths := t.paths }) ∧
  -- LCP_STATUS
  (∀ (s : State), s.boot.lcp = true → ∃ t, exec .lcpStatus s = .next t ∧ t = { s with lcp := { LcpSt.reset with sdo := [s.lcp.status] } }) ∧
  -- LCP_STATUS
  (∀ (s : State), s.boot.lcp = false → ∃ t, exec .lcpStatus s = .next t ∧ t = s) ∧
  -- LCP_CS_RISE
  (∀ (s : State), s.boot.lcp = true → ∃ t, exec (.lcpCsRise true) s = .next t ∧ t = { s with lcp := { s.lcp with err := true, code := 3#2 } }) ∧
  -- LCP_CS_RISE
  (∀ (s : State) (incomplete : Bool), (incomplete = false ∨ s.boot.lcp = false) → ∃ t, exec (.lcpCsRise incomplete) s = .next t ∧ t = s) ∧
  -- MP_DATA_READ
  (∀ (s : State) (p : Sys2Proof.Path), s.f 0 F.MP_CTL_SPACE % 3 = 0 → s.f 0 F.MP_ADDR_ADDR < 12582912 → s.vatUE.contains (s.f 0 F.MP_ADDR_ADDR) = false →
    s.vatCE.contains (s.f 0 F.MP_ADDR_ADDR) = false →
    ∃ t, exec (.mpDataRead p) s = .next t ∧ (t.path p).data = s.vatVal (s.f 0 F.MP_ADDR_ADDR) ∧ (t.path p).resp = 0 ∧
      t.f 0 F.MP_ADDR_ADDR = (if s.fb 0 F.MP_CTL_INC then s.f 0 F.MP_ADDR_ADDR + 1 else s.f 0 F.MP_ADDR_ADDR) ∧
      s.OnlyRegsOf p t [R.MP_ADDR]) ∧
  -- MP_DATA_READ
  (∀ (s : State) (p : Sys2Proof.Path), s.f 0 F.MP_CTL_SPACE % 3 = 0 → s.f 0 F.MP_ADDR_ADDR < 12582912 →
    (s.vatUE.contains (s.f 0 F.MP_ADDR_ADDR) = true ∨ s.vatCE.contains (s.f 0 F.MP_ADDR_ADDR) = true) →
    ∃ t, exec (.mpDataRead p) s = .next t ∧ (t.path p).resp = 0 ∧
      (s.vatUE.contains (s.f 0 F.MP_ADDR_ADDR) = true → (t.path p).data = 0xFFFFFFFF#32 ∧ t.fb 0 F.MP_STAT_UE = true) ∧
      (s.vatUE.contains (s.f 0 F.MP_ADDR_ADDR) = false → (t.path p).data = s.vatVal (s.f 0 F.MP_ADDR_ADDR) ∧ t.fb 0 F.MP_STAT_UE = s.fb 0 F.MP_STAT_UE) ∧
      t.f 0 F.MP_ADDR_ADDR = (if s.fb 0 F.MP_CTL_INC then s.f 0 F.MP_ADDR_ADDR + 1 else s.f 0 F.MP_ADDR_ADDR) ∧
      t = { s with regs := t.regs, paths := t.paths }) ∧
  -- MP_DATA_READ
  (∀ (s : State) (p : Sys2Proof.Path), s.f 0 F.MP_CTL_SPACE % 3 ≠ 0 → s.mpInside = true →
    ∃ t, exec (.mpDataRead p) s = .next t ∧ (t.path p).resp = 0 ∧ (t.path p).data = (s.readLakeAt s.mpLake.1 s.mpLake.2).1 ∧
      (s.lakeUE.contains s.mpLake.2 = true → (t.path p).data = 0xFFFFFFFF#32 ∧ t.fb 0 F.MP_STAT_UE = true) ∧
      (s.lakeUE.contains s.mpLake.2 = false → (t.path p).data = s.lakeVal s.mpLake.1 s.mpLake.2 ∧ t.fb 0 F.MP_STAT_UE = s.fb 0 F.MP_STAT_UE) ∧
      t.f 0 F.MP_ADDR_ADDR = (if s.fb 0 F.MP_CTL_INC then s.f 0 F.MP_ADDR_ADDR + 1 else s.f 0 F.MP_ADDR_ADDR) ∧
      t = { s with regs := t.regs, paths := t.paths, lakeCE := t.lakeCE }) ∧
  -- MP_DATA_READ
  (∀ (s : State) (p : Sys2Proof.Path), s.mpInside = false →
    ∃ t, exec (.mpDataRead p) s = .next t ∧ s.AccessRefused p causePlace R.MP_DATA t) ∧
  -- MP_DATA_WRITE
  (∀ (s : State) (p : Sys2Proof.Path) (w : Word), s.Serves → s.Writes p → s.f 0 F.MP_CTL_SPACE % 3 = 0 → s.f 0 F.MP_ADDR_ADDR < 12582912 → s.mpRefused = false →
    ∃ t, exec (.mpDataWrite p w) s = .next t ∧ t.vatVal (s.f 0 F.MP_ADDR_ADDR) = w ∧
      (∀ k, k ≠ s.f 0 F.MP_ADDR_ADDR → t.vatVal k = s.vatVal k) ∧
      t.f 0 F.MP_ADDR_ADDR = (if s.fb 0 F.MP_CTL_INC then s.f 0 F.MP_ADDR_ADDR + 1 else s.f 0 F.MP_ADDR_ADDR) ∧
      (∀ a, a ≠ R.MP_ADDR → t.w a = s.w a) ∧
      t = { s with regs := t.regs, paths := t.paths, vat := t.vat, vatUE := t.vatUE, vatCE := t.vatCE }) ∧
  -- MP_DATA_WRITE
  (∀ (s : State) (p : Sys2Proof.Path) (w : Word), s.Serves → s.Writes p → s.f 0 F.MP_CTL_SPACE % 3 ≠ 0 → s.mpInside = true → s.mpRefused = false →
    ∃ t, exec (.mpDataWrite p w) s = .next t ∧
      t.f 0 F.MP_ADDR_ADDR = (if s.fb 0 F.MP_CTL_INC then s.f 0 F.MP_ADDR_ADDR + 1 else s.f 0 F.MP_ADDR_ADDR) ∧
      (s.f 0 F.MP_CTL_SPACE = 1 → t.lake = (s.putLake (s.f 0 F.MP_ADDR_ADDR) w).lake) ∧
      (s.f 0 F.MP_CTL_SPACE = 2 → t.lake = (s.putLakeAt s.mpLake.2 w).lake) ∧
      (∀ a, a ≠ R.MP_ADDR → t.w a = s.w a) ∧ t.vat = s.vat ∧ t.cal = s.cal ∧ t.flash = s.flash ∧ s.SameEngines t) ∧
  -- MP_DATA_WRITE
  (∀ (s : State) (p : Sys2Proof.Path) (w : Word), s.Serves → s.Writes p → s.mpInside = true → s.mpRefused = true →
    ∃ t, exec (.mpDataWrite p w) s = .next t ∧ t.fb 0 F.MP_STAT_WR_REJ = true ∧ s.OnlyRegsOf p t [R.MP_STAT]) ∧
  -- MP_DATA_WRITE
  (∀ (s : State) (p : Sys2Proof.Path) (w : Word), s.od.mailbox = none →
    ∃ t, exec (.mpDataWrite p w) s = .next t ∧
      (s.Writes p → s.mpInside = false → s.AccessRefused p causePlace R.MP_DATA t) ∧
      (p = Sys2Proof.Path.lcp → s.tvB 0 F.DEV_MODE_LCP_WR = false → s.AccessRefused p causePath R.MP_DATA t))

/-- PRT_UNLOCK keys, their lapse, what they guard, and the majority of triplicated words. Rests on R285, R290, R291,
R292, R293, 13_registers. UNLOCK_KEY with the fused key gives its path an unlock for 100 microseconds; a wrong key
counts up to 8, sets KEY_BAD, and the eighth disables unlocking; once disabled, and from Indigo, which needs none,
keys do nothing. UNLOCK_LAPSE ends an unlock at its instant, and without one changes nothing. TV_SCRUB rewrites every
triplicated word from its majority, so that each reads as before, and counts the words that disagreed. SOFT_RESET,
TB_SRC_WRITE, SP_ROUTE_WRITE, LAKE_SPARE_MAP and CAL_VD_WRITE without the path's unlock set GUARD_REJ, and from an LCP
that may not write ACC_FAULT, and change nothing else. -/
def Obligations.UnlocksAndTheScrubProtect : Prop :=
  -- UNLOCK_KEY
  (∀ (s : State) (p : Sys2Proof.Path) (i : Fin 2), s.Serves → lockOf p = some i → s.fb 0 F.PRT_STAT_UNLK_DIS = false →
    ∃ t, exec (.unlockKey p s.fuses.key) s = .next t ∧ t.unlockBy[i] = some (s.now + 100 * tkUs) ∧ t.armed i = true ∧
      (∀ j : Fin 2, j ≠ i → t.unlockBy[j] = s.unlockBy[j]) ∧ t = { s with unlockBy := t.unlockBy, paths := t.paths }) ∧
  -- UNLOCK_KEY
  (∀ (s : State) (p : Sys2Proof.Path) (i : Fin 2) (key : BitVec 16), s.Serves → lockOf p = some i → s.fb 0 F.PRT_STAT_UNLK_DIS = false → key ≠ s.fuses.key →
    ∃ t, exec (.unlockKey p key) s = .next t ∧ t.fb 0 F.PRT_STAT_KEY_BAD = true ∧ t.f 0 F.PRT_STAT_WRONG = min 8 (s.f 0 F.PRT_STAT_WRONG + 1) ∧
      (7 ≤ s.f 0 F.PRT_STAT_WRONG → t.fb 0 F.PRT_STAT_UNLK_DIS = true) ∧ (s.f 0 F.PRT_STAT_WRONG < 7 → t.fb 0 F.PRT_STAT_UNLK_DIS = false) ∧
      s.OnlyRegsOf p t [R.PRT_STAT]) ∧
  -- UNLOCK_KEY
  (∀ (s : State) (p : Sys2Proof.Path) (key : BitVec 16), s.Serves → (s.fb 0 F.PRT_STAT_UNLK_DIS = true ∨ p = .indigo) →
    ∃ t, exec (.unlockKey p key) s = .next t ∧ t = { s with paths := t.paths }) ∧
  -- UNLOCK_LAPSE
  (∀ (s : State) (p : Sys2Proof.Path) (i : Fin 2) (d : Nat), lockOf p = some i → s.unlockBy[i] = some d →
    ∃ t, exec (.unlockLapse p) s = .next t ∧ t.clk = (s.reach d).clk ∧ t.unlockBy[i] = none ∧
      (∀ j : Fin 2, j ≠ i → t.unlockBy[j] = s.unlockBy[j]) ∧ t = { s with unlockBy := t.unlockBy, clk := t.clk }) ∧
  -- UNLOCK_LAPSE
  (∀ (s : State) (p : Sys2Proof.Path), (∀ i ∈ lockOf p, s.unlockBy[i] = none) → ∃ t, exec (.unlockLapse p) s = .next t ∧ t = s) ∧
  -- TV_SCRUB
  (∀ (s : State), Memory.wf tvDefault s.tv = true → Memory.wf calFactory s.cal = true →
    ∃ t, exec .tvScrub s = .next t ∧ (∀ a, t.tvW a = s.tvW a) ∧ (∀ k, t.calW k = s.calW k) ∧
      (t.tv.all (fun (e : Nat × TvWord) => !e.2.split)) = true ∧ (t.cal.all (fun (e : Nat × TvWord) => !e.2.split)) = true ∧
      ((s.tv.all (fun (e : Nat × TvWord) => !e.2.split)) = true → (s.cal.all (fun (e : Nat × TvWord) => !e.2.split)) = true → t.regs = s.regs) ∧
      ((s.tv.any (fun (e : Nat × TvWord) => e.2.split)) = true → t.fb 0 F.PRT_STAT_TV_FIX = true) ∧
      t.f 0 F.PRT_TVFIX_TV_FIX_CNT = min (s.f 0 F.PRT_TVFIX_TV_FIX_CNT + ((s.tv.countP (fun (e : Nat × TvWord) => e.2.split)) +
        s.cal.countP (fun (e : Nat × TvWord) => e.2.split))) (2 ^ 32 - 1) ∧
      (∀ a, a ∉ [R.PRT_TVFIX, R.PRT_STAT] → t.w a = s.w a) ∧ t = { s with regs := t.regs, tv := t.tv, cal := t.cal }) ∧
  -- SOFT_RESET
  (∀ (s : State) (p : Sys2Proof.Path) (i : Fin 2), s.od.mailbox = none → s.Writes p → lockOf p = some i →
    (s.armed i = false ∨ s.cfgDone = false ∨ s.fb 0 F.PRT_STAT_UNLK_DIS = true) →
    ∃ t, exec (.softReset p) s = .next t ∧ t.fb 0 F.PRT_STAT_GUARD_REJ = true ∧ (t.path p).resp = 2 ∧ s.OnlyRegsOf p t [R.PRT_STAT]) ∧
  -- SOFT_RESET
  (∀ (s : State), s.od.mailbox = none → s.tvB 0 F.DEV_MODE_LCP_WR = false →
    ∃ t, exec (.softReset .lcp) s = .next t ∧ t.fb 0 F.PRT_STAT_ACC_FAULT = true ∧ t.f 0 F.PRT_FAULTA_CAUSE = causePath ∧
      (t.path .lcp).resp = 1 ∧ s.OnlyRegsOf .lcp t [R.PRT_STAT, R.PRT_FAULTA]) ∧
  -- TB_SRC_WRITE
  (∀ (s : State) (p : Sys2Proof.Path) (i : Fin 2) (w : Word), s.od.mailbox = none → s.Writes p → lockOf p = some i →
    (s.armed i = false ∨ s.cfgDone = false ∨ s.fb 0 F.PRT_STAT_UNLK_DIS = true) →
    ∃ t, exec (.tbSrcWrite p w) s = .next t ∧ t.fb 0 F.PRT_STAT_GUARD_REJ = true ∧ (t.path p).resp = 2 ∧ s.OnlyRegsOf p t [R.PRT_STAT]) ∧
  -- TB_SRC_WRITE
  (∀ (s : State) (w : Word), s.od.mailbox = none → s.tvB 0 F.DEV_MODE_LCP_WR = false →
    ∃ t, exec (.tbSrcWrite .lcp w) s = .next t ∧ t.fb 0 F.PRT_STAT_ACC_FAULT = true ∧ t.f 0 F.PRT_FAULTA_CAUSE = causePath ∧
      (t.path .lcp).resp = 1 ∧ s.OnlyRegsOf .lcp t [R.PRT_STAT, R.PRT_FAULTA]) ∧
  -- SP_ROUTE_WRITE
  (∀ (s : State) (p : Sys2Proof.Path) (i : Fin 2) (sp : Spare) (w : Word), s.od.mailbox = none → s.Writes p → lockOf p = some i →
    (s.armed i = false ∨ s.cfgDone = false ∨ s.fb 0 F.PRT_STAT_UNLK_DIS = true) →
    ∃ t, exec (.spRouteWrite p sp w) s = .next t ∧ t.fb 0 F.PRT_STAT_GUARD_REJ = true ∧ (t.path p).resp = 2 ∧ s.OnlyRegsOf p t [R.PRT_STAT]) ∧
  -- SP_ROUTE_WRITE
  (∀ (s : State) (sp : Spare) (w : Word), s.od.mailbox = none → s.tvB 0 F.DEV_MODE_LCP_WR = false →
    ∃ t, exec (.spRouteWrite .lcp sp w) s = .next t ∧ t.fb 0 F.PRT_STAT_ACC_FAULT = true ∧ t.f 0 F.PRT_FAULTA_CAUSE = causePath ∧
      (t.path .lcp).resp = 1 ∧ s.OnlyRegsOf .lcp t [R.PRT_STAT, R.PRT_FAULTA]) ∧
  -- LAKE_SPARE_MAP
  (∀ (s : State) (p : Sys2Proof.Path) (i : Fin 2) (sp : Spare) (w : Word), s.od.mailbox = none → s.Writes p → lockOf p = some i →
    (s.armed i = false ∨ s.cfgDone = false ∨ s.fb 0 F.PRT_STAT_UNLK_DIS = true) →
    ∃ t, exec (.lakeSpareMap p sp w) s = .next t ∧ t.fb 0 F.PRT_STAT_GUARD_REJ = true ∧ (t.path p).resp = 2 ∧ s.OnlyRegsOf p t [R.PRT_STAT]) ∧
  -- LAKE_SPARE_MAP
  (∀ (s : State) (sp : Spare) (w : Word), s.od.mailbox = none → s.tvB 0 F.DEV_MODE_LCP_WR = false →
    ∃ t, exec (.lakeSpareMap .lcp sp w) s = .next t ∧ t.fb 0 F.PRT_STAT_ACC_FAULT = true ∧ t.f 0 F.PRT_FAULTA_CAUSE = causePath ∧
      (t.path .lcp).resp = 1 ∧ s.OnlyRegsOf .lcp t [R.PRT_STAT, R.PRT_FAULTA]) ∧
  -- CAL_VD_WRITE
  (∀ (s : State) (p : Sys2Proof.Path) (i : Fin 2) (w : Word), s.od.mailbox = none → s.Writes p → lockOf p = some i →
    (s.armed i = false ∨ s.cfgDone = false ∨ s.fb 0 F.PRT_STAT_UNLK_DIS = true) →
    ∃ t, exec (.calVdWrite p w) s = .next t ∧ t.fb 0 F.PRT_STAT_GUARD_REJ = true ∧ (t.path p).resp = 2 ∧ s.OnlyRegsOf p t [R.PRT_STAT]) ∧
  -- CAL_VD_WRITE
  (∀ (s : State) (w : Word), s.od.mailbox = none → s.tvB 0 F.DEV_MODE_LCP_WR = false →
    ∃ t, exec (.calVdWrite .lcp w) s = .next t ∧ t.fb 0 F.PRT_STAT_ACC_FAULT = true ∧ t.f 0 F.PRT_FAULTA_CAUSE = causePath ∧
      (t.path .lcp).resp = 1 ∧ s.OnlyRegsOf .lcp t [R.PRT_STAT, R.PRT_FAULTA])
end

