-- ==== Sys2Proof/Laws/Store.lean ====
section
/-!
SUPPORT. Laws of the sparse stores: a read after a write, and that every operation keeps the canonical
form.
-/

namespace Sys2Proof.Machine

variable {α : Type}

/-! ### Reads after writes -/

theorem sparseGet_erase (d : Nat → α) (m : Sparse α) (k j : Nat) :
    sparseGet d (sparseErase k m) j = if k = j then d j else sparseGet d m j := by
  induction m with
  | nil => simp [sparseErase, sparseGet]
  | cons e t ih =>
    obtain ⟨a, v⟩ := e
    simp only [sparseErase, sparseGet]
    by_cases h : a = k
    · subst h
      simp only [if_true, ih]
      by_cases hj : a = j <;> simp [hj]
    · simp only [h, if_false, sparseGet, ih]
      by_cases hk : k = j
      · subst hk; simp [h]
      · simp [hk]

theorem sparseGet_insert_other (d : Nat → α) (m : Sparse α) (k j : Nat) (v : α) (h : k ≠ j) :
    sparseGet d (sparseInsert k v m) j = sparseGet d m j := by
  induction m with
  | nil => simp [sparseInsert, sparseGet, h]
  | cons e t ih =>
    obtain ⟨a, w⟩ := e
    simp only [sparseInsert]
    by_cases hl : k < a
    · simp [hl, sparseGet, h]
    · simp [hl, sparseGet, ih]

theorem sparseGet_insert_same (d : Nat → α) (m : Sparse α) (k : Nat) (v : α) :
    sparseGet d (sparseInsert k v (sparseErase k m)) k = v := by
  induction m with
  | nil => simp [sparseErase, sparseInsert, sparseGet]
  | cons e t ih =>
    obtain ⟨a, w⟩ := e
    simp only [sparseErase]
    by_cases h : a = k
    · simpa [h] using ih
    · simp only [h, if_false, sparseInsert]
      by_cases hl : k < a
      · simp [hl, sparseGet]
      · simp [hl, sparseGet, h, ih]

/-- A read after a write: the written key gives the value written, every other key what it gave. -/
theorem sparseGet_put [DecidableEq α] (d : Nat → α) (m : Sparse α) (k j : Nat) (v : α) :
    sparseGet d (sparsePut d m k v) j = if k = j then v else sparseGet d m j := by
  unfold sparsePut
  by_cases hv : v = d k
  · rw [if_pos hv, sparseGet_erase]
    by_cases hj : k = j
    · subst hj; simp [hv]
    · simp [hj]
  · rw [if_neg hv]
    by_cases hj : k = j
    · subst hj; simp [sparseGet_insert_same]
    · simp [hj, sparseGet_insert_other _ _ _ _ _ hj, sparseGet_erase]

/-! ### The canonical form -/

variable [DecidableEq α]

theorem wf_nil (d : Nat → α) : Memory.wf d ([] : Sparse α) = true := rfl

theorem wf_cons {d : Nat → α} {a : Nat} {v : α} {t : Sparse α} :
    Memory.wf d ((a, v) :: t) = true ↔ v ≠ d a ∧ (∀ e ∈ t, a < e.1) ∧ Memory.wf d t = true := by
  simp [Memory.wf, and_assoc]

theorem wf_filter {d : Nat → α} (p : Nat × α → Bool) {m : Sparse α} (h : Memory.wf d m = true) :
    Memory.wf d (m.filter p) = true := by
  induction m with
  | nil => rfl
  | cons e t ih =>
    obtain ⟨a, v⟩ := e
    obtain ⟨h1, h2, h3⟩ := wf_cons.1 h
    by_cases hp : p (a, v)
    · rw [List.filter_cons_of_pos hp]
      exact wf_cons.2 ⟨h1, fun e he => h2 e (List.mem_filter.1 he).1, ih h3⟩
    · rw [List.filter_cons_of_neg hp]
      exact ih h3

theorem mem_erase {k : Nat} {m : Sparse α} {e : Nat × α} (h : e ∈ sparseErase k m) : e ∈ m ∧ e.1 ≠ k := by
  induction m with
  | nil => simp [sparseErase] at h
  | cons f t ih =>
    obtain ⟨a, w⟩ := f
    simp only [sparseErase] at h
    by_cases ha : a = k
    · rw [if_pos ha] at h
      exact ⟨List.mem_cons_of_mem _ (ih h).1, (ih h).2⟩
    · rw [if_neg ha] at h
      rcases List.mem_cons.1 h with h | h
      · subst h; exact ⟨List.mem_cons_self, ha⟩
      · exact ⟨List.mem_cons_of_mem _ (ih h).1, (ih h).2⟩

theorem wf_erase {d : Nat → α} (k : Nat) {m : Sparse α} (h : Memory.wf d m = true) :
    Memory.wf d (sparseErase k m) = true := by
  induction m with
  | nil => rfl
  | cons e t ih =>
    obtain ⟨a, v⟩ := e
    obtain ⟨h1, h2, h3⟩ := wf_cons.1 h
    simp only [sparseErase]
    by_cases ha : a = k
    · rw [if_pos ha]; exact ih h3
    · rw [if_neg ha]
      exact wf_cons.2 ⟨h1, fun e he => h2 e (mem_erase he).1, ih h3⟩

theorem mem_insert {k : Nat} {v : α} {m : Sparse α} {e : Nat × α} (h : e ∈ sparseInsert k v m) :
    e = (k, v) ∨ e ∈ m := by
  induction m with
  | nil => simpa [sparseInsert] using h
  | cons f t ih =>
    obtain ⟨a, w⟩ := f
    simp only [sparseInsert] at h
    by_cases hl : k < a
    · rw [if_pos hl] at h
      rcases List.mem_cons.1 h with h | h
      · exact .inl h
      · exact .inr h
    · rw [if_neg hl] at h
      rcases List.mem_cons.1 h with h | h
      · exact .inr (h ▸ List.mem_cons_self)
      · rcases ih h with h | h
        · exact .inl h
        · exact .inr (List.mem_cons_of_mem _ h)

theorem wf_insert {d : Nat → α} {k : Nat} {v : α} {m : Sparse α} (hv : v ≠ d k) (hk : ∀ e ∈ m, e.1 ≠ k)
    (h : Memory.wf d m = true) : Memory.wf d (sparseInsert k v m) = true := by
  induction m with
  | nil => exact wf_cons.2 ⟨hv, by simp, rfl⟩
  | cons f t ih =>
    obtain ⟨a, w⟩ := f
    obtain ⟨h1, h2, h3⟩ := wf_cons.1 h
    have hne : a ≠ k := hk (a, w) List.mem_cons_self
    simp only [sparseInsert]
    by_cases hl : k < a
    · rw [if_pos hl]
      refine wf_cons.2 ⟨hv, fun e he => ?_, h⟩
      rcases List.mem_cons.1 he with he | he
      · rw [he]; exact hl
      · exact lt_trans hl (h2 e he)
    · rw [if_neg hl]
      refine wf_cons.2 ⟨h1, fun e he => ?_, ih (fun e he => hk e (List.mem_cons_of_mem _ he)) h3⟩
      rcases mem_insert he with he | he
      · rw [he]; show a < k; omega
      · exact h2 e he

/-- A write keeps the canonical form. -/
theorem wf_put {d : Nat → α} (k : Nat) (v : α) {m : Sparse α} (h : Memory.wf d m = true) :
    Memory.wf d (sparsePut d m k v) = true := by
  unfold sparsePut
  by_cases hv : v = d k
  · rw [if_pos hv]; exact wf_erase k h
  · rw [if_neg hv]
    exact wf_insert hv (fun e he => (mem_erase he).2) (wf_erase k h)

theorem wf_putList {d : Nat → α} (vs : List α) : ∀ (k : Nat) {m : Sparse α}, Memory.wf d m = true →
    Memory.wf d (sparsePutList d m k vs) = true := by
  induction vs with
  | nil => exact fun _ _ h => h
  | cons v t ih => exact fun k _ h => ih (k + 1) (wf_put k v h)

/-- A run of writes keeps the canonical form. -/
theorem wf_foldPut {β : Type} {d : Nat → α} (key : β → Nat) (val : β → α) (l : List β) :
    ∀ {m : Sparse α}, Memory.wf d m = true →
      Memory.wf d (l.foldl (fun m e => sparsePut d m (key e) (val e)) m) = true := by
  induction l with
  | nil => exact fun h => h
  | cons e t ih => exact fun h => ih (wf_put (key e) (val e) h)

end Sys2Proof.Machine
end

