-- ==== Sys2Proof/Laws/KeepsBase.lean ====
section
/-!
SUPPORT. What every operation of the device keeps: the queue of waiting commands, the fuses, and the
canonical form of every sparse store, and the shapes of a definition it passes through.
-/

namespace Sys2Proof.Machine

/-- From s to t the queue and the fuses stand, and canonical stores stay canonical. -/
structure Keeps (s t : State) : Prop where
  pending : t.pending = s.pending
  fuses : t.fuses = s.fuses
  canon : s.Canonical → t.Canonical

variable {s0 s : State}

theorem Keeps.refl (s : State) : Keeps s s := ⟨rfl, rfl, id⟩

theorem Keeps.trans {a b c : State} (h : Keeps a b) (g : Keeps b c) : Keeps a c :=
  ⟨g.pending.trans h.pending, g.fuses.trans h.fuses, fun x => g.canon (h.canon x)⟩

/-! ### The shapes of a definition -/

theorem keeps_cut {x t : State} (hx : Keeps s0 x) (ht : Keeps s0 x → Keeps s0 t) : Keeps s0 t := ht hx

theorem keeps_cutP {α : Type} {x : α × State} {t : State} (hx : Keeps s0 x.2) (ht : Keeps s0 x.2 → Keeps s0 t) : Keeps s0 t := ht hx

theorem keeps_cutP2 {α β : Type} {x : α × β × State} {t : State} (hx : Keeps s0 x.2.2) (ht : Keeps s0 x.2.2 → Keeps s0 t) :
    Keeps s0 t := ht hx

theorem keeps_ite {c : Prop} [Decidable c] {a b : State} (ha : Keeps s0 a) (hb : Keeps s0 b) :
    Keeps s0 (if c then a else b) := by
  split
  · exact ha
  · exact hb

theorem keeps_iteP {α : Type} {c : Prop} [Decidable c] {a b : α × State} (ha : Keeps s0 a.2) (hb : Keeps s0 b.2) :
    Keeps s0 (if c then a else b).2 := by
  split
  · exact ha
  · exact hb

theorem keeps_iteP2 {α β : Type} {c : Prop} [Decidable c] {a b : α × β × State} (ha : Keeps s0 a.2.2) (hb : Keeps s0 b.2.2) :
    Keeps s0 (if c then a else b).2.2 := by
  split
  · exact ha
  · exact hb

/-- A record update that leaves the queue, the fuses and the sparse stores. -/
theorem keeps_mk (h : Keeps s0 s) (free clk boots boot stores storeOutcome eqs temps hotMs repairing repairFix vatExh tb maps mapLogs
    mapLost paths lcp unlockBy chans spares fes pacers lastStrobe units outPulse stlPulse stlIn pinLast blocks vatCE vatUE lakeZero lakeCE lakeUE
    indigo link0 link1 net od) :
    Keeps s0 (State.mk s.pending free clk s.regs s.tv s.cal boots s.fuses s.flash s.wear boot stores storeOutcome eqs s.erases
      temps hotMs s.rowsUsed repairing repairFix vatExh tb maps mapLogs mapLost paths lcp unlockBy chans spares fes pacers lastStrobe
      units outPulse stlPulse stlIn pinLast blocks s.vat vatCE vatUE s.lake lakeZero lakeCE lakeUE indigo link0 link1 net od) :=
  ⟨h.pending, h.fuses, fun c => have d := h.canon c
    ⟨d.regs, d.tv, d.cal, d.flash, d.vat, d.lake, d.erases, d.wear, d.rows⟩⟩

/-! ### Folds -/

theorem State.forAll_keeps {α : Type} {l : List α} {g : α → State → State} (hg : ∀ a s, Keeps s0 s → Keeps s0 (g a s))
    (h : Keeps s0 s) : Keeps s0 (s.forAll l g) := by
  induction l generalizing s with
  | nil => exact h
  | cons a t ih => exact ih (hg a s h)

theorem foldl_keeps {α : Type} {l : List α} {g : State → α → State} (hg : ∀ a s, Keeps s0 s → Keeps s0 (g s a))
    (h : Keeps s0 s) : Keeps s0 (l.foldl g s) := by
  induction l generalizing s with
  | nil => exact h
  | cons a t ih => exact ih (hg a s h)

theorem foldlP_keeps {α β : Type} {l : List α} {g : β × State → α → β × State} {r : β × State}
    (hg : ∀ a r, Keeps s0 r.2 → Keeps s0 (g r a).2) (h : Keeps s0 r.2) : Keeps s0 (l.foldl g r).2 := by
  induction l generalizing r with
  | nil => exact h
  | cons a t ih => exact ih (hg a r h)

theorem foldlF_keeps {α β : Type} {l : List α} {g : State × β → α → State × β} {r : State × β}
    (hg : ∀ a r, Keeps s0 r.1 → Keeps s0 (g r a).1) (h : Keeps s0 r.1) : Keeps s0 (l.foldl g r).1 := by
  induction l generalizing r with
  | nil => exact h
  | cons a t ih => exact ih (hg a r h)

/-! ### The operations on the stores -/

theorem State.setW_keeps {a : Nat} {v : Word} (h : Keeps s0 s) : Keeps s0 (s.setW a v) :=
  ⟨h.pending, h.fuses, fun c => have d := h.canon c
    ⟨wf_put a v d.regs, d.tv, d.cal, d.flash, d.vat, d.lake, d.erases, d.wear, d.rows⟩⟩

theorem State.setTv_keeps {a : Nat} {w : Word} (h : Keeps s0 s) : Keeps s0 (s.setTv a w) :=
  ⟨h.pending, h.fuses, fun c => have d := h.canon c
    ⟨d.regs, wf_put a _ d.tv, d.cal, d.flash, d.vat, d.lake, d.erases, d.wear, d.rows⟩⟩

theorem State.setCal_keeps {k : Nat} {w : Word} (h : Keeps s0 s) : Keeps s0 (s.setCal k w) :=
  ⟨h.pending, h.fuses, fun c => have d := h.canon c
    ⟨d.regs, d.tv, wf_put k _ d.cal, d.flash, d.vat, d.lake, d.erases, d.wear, d.rows⟩⟩

theorem keeps_tv (h : Keeps s0 s) {m : Sparse TvWord} (hm : s.Canonical → Memory.wf tvDefault m = true) :
    Keeps s0 { s with tv := m } := by
  exact Keeps.trans h ⟨rfl, rfl, fun d => ⟨d.regs, hm d, d.cal, d.flash, d.vat, d.lake, d.erases, d.wear, d.rows⟩⟩

theorem keeps_cal (h : Keeps s0 s) {m : Sparse TvWord} (hm : s.Canonical → Memory.wf calFactory m = true) :
    Keeps s0 { s with cal := m } := by
  exact Keeps.trans h ⟨rfl, rfl, fun d => ⟨d.regs, d.tv, hm d, d.flash, d.vat, d.lake, d.erases, d.wear, d.rows⟩⟩

theorem keeps_flash (h : Keeps s0 s) {m : Sparse Byte} (hm : s.Canonical → Memory.wf flashBlank m = true) :
    Keeps s0 { s with flash := m } := by
  exact Keeps.trans h ⟨rfl, rfl, fun d => ⟨d.regs, d.tv, d.cal, hm d, d.vat, d.lake, d.erases, d.wear, d.rows⟩⟩

theorem keeps_vat (h : Keeps s0 s) {m : Sparse (Option Word)} {ue ce : List Nat}
    (hm : s.Canonical → Memory.wf vatNone m = true) : Keeps s0 { s with vat := m, vatUE := ue, vatCE := ce } := by
  exact Keeps.trans h ⟨rfl, rfl, fun d => ⟨d.regs, d.tv, d.cal, d.flash, hm d, d.lake, d.erases, d.wear, d.rows⟩⟩

theorem keeps_lake (h : Keeps s0 s) {m : Sparse (Option Word)} {z : List (Nat × Nat)} {ue ce : List Nat}
    (hm : s.Canonical → Memory.wf vatNone m = true) :
    Keeps s0 { s with lake := m, lakeZero := z, lakeCE := ce, lakeUE := ue } := by
  exact Keeps.trans h ⟨rfl, rfl, fun d => ⟨d.regs, d.tv, d.cal, d.flash, d.vat, hm d, d.erases, d.wear, d.rows⟩⟩

theorem keeps_erases (h : Keeps s0 s) {m : Sparse Nat} (hm : s.Canonical → Memory.wf (fun _ => 0) m = true) :
    Keeps s0 { s with erases := m } := by
  exact Keeps.trans h ⟨rfl, rfl, fun d => ⟨d.regs, d.tv, d.cal, d.flash, d.vat, d.lake, hm d, d.wear, d.rows⟩⟩

theorem keeps_wear (h : Keeps s0 s) {x : WearLog} (hm : s.Canonical → Memory.wf (fun _ => 0) x.erases = true) :
    Keeps s0 { s with wear := x } := by
  exact Keeps.trans h ⟨rfl, rfl, fun d => ⟨d.regs, d.tv, d.cal, d.flash, d.vat, d.lake, d.erases, hm d, d.rows⟩⟩

theorem keeps_rows (h : Keeps s0 s) {m : Sparse Nat} (hm : s.Canonical → Memory.wf (fun _ => 0) m = true) :
    Keeps s0 { s with rowsUsed := m } := by
  exact Keeps.trans h ⟨rfl, rfl, fun d => ⟨d.regs, d.tv, d.cal, d.flash, d.vat, d.lake, d.erases, d.wear, hm d⟩⟩

end Sys2Proof.Machine
end

