-- ==== Sys2Proof/Laws/Keeps1.lean ====
section
/-!
SUPPORT. What the operations keep, part 1 of 4: one lemma for each operation on State (the queue of
waiting commands and the fuses stand, canonical stores stay canonical), callees before callers.
-/

namespace Sys2Proof.Machine

theorem State.reach_keeps {s0 : State} {t : ℕ} {s : State} (hk : Keeps s0 s) : Keeps s0 (State.reach t s) := by
  unfold State.reach
  repeat' first
    | (with_reducible apply keeps_ite)
    | (with_reducible exact keeps_mk (by assumption) ..)

theorem State.setChan_keeps {s0 : State} {s : State} {n : Ch} {c : Chan} (hk : Keeps s0 s) : Keeps s0 (State.setChan s n c) := by
  unfold State.setChan
  repeat' first
    | (with_reducible exact keeps_mk (by assumption) ..)

theorem State.modChan_keeps {s0 : State} {s : State} {n : Ch} {g : Chan → Chan} (hk : Keeps s0 s) : Keeps s0 (State.modChan s n g) := by
  unfold State.modChan
  repeat' first
    | (with_reducible assumption)
    | (with_reducible apply State.setChan_keeps)

theorem State.setLink_keeps {s0 : State} {s : State} {l : Link} {x : LinkSt} (hk : Keeps s0 s) : Keeps s0 (State.setLink s l x) := by
  unfold State.setLink
  repeat' first
    | (with_reducible exact keeps_mk (by assumption) ..)
    | split

theorem State.send_keeps {s0 : State} {l : Link} {c : FClass} {bytes : List Byte} {tag : TxTag} {s : State} (hk : Keeps s0 s) : Keeps s0 (State.send l c bytes tag s) := by
  unfold State.send
  repeat' first
    | (with_reducible assumption)
    | (with_reducible apply State.setLink_keeps)

theorem State.creditReturn_keeps {s0 : State} {n : Ch} {s : State} (hk : Keeps s0 s) : Keeps s0 (State.creditReturn n s) := by
  unfold State.creditReturn
  repeat' first
    | (with_reducible assumption)
    | (lift_lets; intro x)
    | (with_reducible apply keeps_ite)
    | (with_reducible apply State.reach_keeps)
    | (with_reducible apply State.modChan_keeps)
    | (with_reducible apply State.send_keeps)
    | split

theorem State.setF_keeps {s0 : State} {s : State} {base : ℕ} {f : Fld} {v : ℕ} (hk : Keeps s0 s) : Keeps s0 (State.setF s base f v) := by
  unfold State.setF
  repeat' first
    | (with_reducible assumption)
    | (with_reducible apply State.setW_keeps)

theorem State.raise_keeps {s0 : State} {s : State} {base : ℕ} {f : Fld} (hk : Keeps s0 s) : Keeps s0 (State.raise s base f) := by
  unfold State.raise
  repeat' first
    | (with_reducible assumption)
    | (with_reducible apply State.setF_keeps)

theorem State.raiseLnk_keeps {s0 : State} {l : Link} {f : Fld} {s : State} (hk : Keeps s0 s) : Keeps s0 (State.raiseLnk l f s) := by
  unfold State.raiseLnk
  repeat' first
    | (with_reducible assumption)
    | (with_reducible apply State.raise_keeps)

theorem State.modLink_keeps {s0 : State} {l : Link} {g : LinkSt → LinkSt} {s : State} (hk : Keeps s0 s) : Keeps s0 (State.modLink l g s) := by
  unfold State.modLink
  repeat' first
    | (with_reducible assumption)
    | (with_reducible apply State.setLink_keeps)

theorem State.setLnk_keeps {s0 : State} {l : Link} {f : Fld} {v : ℕ} {s : State} (hk : Keeps s0 s) : Keeps s0 (State.setLnk l f v s) := by
  unfold State.setLnk
  repeat' first
    | (with_reducible assumption)
    | (with_reducible apply State.setF_keeps)

theorem State.goLnk_keeps {s0 : State} {l : Link} {v : ℕ} {s : State} (hk : Keeps s0 s) : Keeps s0 (State.goLnk l v s) := by
  unfold State.goLnk
  repeat' first
    | (with_reducible assumption)
    | (with_reducible apply State.setLnk_keeps)

theorem State.setB_keeps {s0 : State} {s : State} {base : ℕ} {f : Fld} {b : Bool} (hk : Keeps s0 s) : Keeps s0 (State.setB s base f b) := by
  unfold State.setB
  repeat' first
    | (with_reducible assumption)
    | (with_reducible apply State.setF_keeps)

theorem State.setInsvc_keeps {s0 : State} {l : Link} {m : ℕ} {s : State} (hk : Keeps s0 s) : Keeps s0 (State.setInsvc l m s) := by
  unfold State.setInsvc
  repeat' first
    | (with_reducible assumption)
    | (with_reducible refine State.forAll_keeps (fun a s hs => ?_) ?_)
    | (with_reducible apply State.setLnk_keeps)
    | (with_reducible apply State.setB_keeps)

theorem State.leaveActive_keeps {s0 : State} {l : Link} {st : ℕ} {s : State} (hk : Keeps s0 s) : Keeps s0 (State.leaveActive l st s) := by
  unfold State.leaveActive
  repeat' first
    | (with_reducible assumption)
    | (with_reducible apply keeps_ite)
    | (with_reducible apply State.modLink_keeps)
    | (with_reducible apply State.goLnk_keeps)
    | (with_reducible apply State.setInsvc_keeps)

theorem State.retrain_keeps {s0 : State} {l : Link} {s : State} (hk : Keeps s0 s) : Keeps s0 (State.retrain l s) := by
  unfold State.retrain
  repeat' first
    | (with_reducible assumption)
    | (with_reducible apply State.raiseLnk_keeps)
    | (with_reducible apply State.leaveActive_keeps)

theorem State.degradeTimeout_keeps {s0 : State} {l : Link} {s : State} (hk : Keeps s0 s) : Keeps s0 (State.degradeTimeout l s) := by
  unfold State.degradeTimeout
  repeat' first
    | (with_reducible assumption)
    | (with_reducible apply keeps_ite)
    | (with_reducible apply State.retrain_keeps)
    | (with_reducible apply State.reach_keeps)

theorem State.setPair_keeps {s0 : State} {s : State} {a : ℕ} {v : ℕ} (hk : Keeps s0 s) : Keeps s0 (State.setPair s a v) := by
  unfold State.setPair
  repeat' first
    | (with_reducible assumption)
    | (with_reducible apply State.setW_keeps)

theorem State.addPair_keeps {s0 : State} {a : ℕ} {d : ℤ} {s : State} (hk : Keeps s0 s) : Keeps s0 (State.addPair a d s) := by
  unfold State.addPair
  repeat' first
    | (with_reducible assumption)
    | (with_reducible apply State.setPair_keeps)

theorem State.count_keeps {s0 : State} {s : State} {a : ℕ} {n : ℕ} (hk : Keeps s0 s) : Keeps s0 (State.count s a n) := by
  unfold State.count
  repeat' first
    | (with_reducible assumption)
    | (with_reducible apply State.setPair_keeps)

theorem State.putLakeAt_keeps {s0 : State} {p : ℕ} {w : Word} {s : State} (hk : Keeps s0 s) : Keeps s0 (State.putLakeAt p w s) :=
  keeps_lake hk fun d => wf_put _ _ d.lake

theorem State.bumpBin_keeps {s0 : State} {n : Ch} {a : ℕ} {s : State} (hk : Keeps s0 s) : Keeps s0 (State.bumpBin n a s) := by
  unfold State.bumpBin
  extract_lets p v s'
  have h : Keeps s0 s' := keeps_lake hk fun d => wf_put _ _ d.lake
  split
  · exact State.raise_keeps (State.count_keeps hk)
  · split
    · exact State.raise_keeps hk
    · split
      · exact State.putLakeAt_keeps h
      · exact h

theorem State.histUpdate_keeps {s0 : State} {n : Ch} {v : ℤ} {t : ℤ} {s : State} (hk : Keeps s0 s) : Keeps s0 (State.histUpdate n v t s) := by
  unfold State.histUpdate
  repeat' first
    | (with_reducible assumption)
    | (with_reducible apply keeps_ite)
    | (with_reducible apply State.count_keeps)
    | (with_reducible apply State.bumpBin_keeps)

theorem State.commitHit_keeps {s0 : State} {n : Ch} {dev : ℤ} {edge : ℤ} {lake : Bool} {extras : ℕ} {s : State} (hk : Keeps s0 s) : Keeps s0 (State.commitHit n dev edge lake extras s) := by
  unfold State.commitHit
  repeat' first
    | (with_reducible assumption)
    | (with_reducible apply keeps_ite)
    | (with_reducible apply State.addPair_keeps)
    | (with_reducible apply State.count_keeps)
    | (with_reducible apply State.modChan_keeps)
    | (with_reducible apply State.setPair_keeps)
    | (with_reducible apply State.setF_keeps)
    | (with_reducible apply State.histUpdate_keeps)
    | (with_reducible apply State.raise_keeps)

theorem State.setCalList_keeps {s0 : State} {k : ℕ} {ws : List Word} {s : State} (hk : Keeps s0 s) : Keeps s0 (State.setCalList k ws s) := by
  unfold State.setCalList
  repeat' first
    | (with_reducible assumption)
    | (with_reducible refine State.forAll_keeps (fun a s hs => ?_) ?_)
    | (with_reducible apply State.setCal_keeps)

theorem State.setDsrc_keeps {s0 : State} {f : FrontEnd} {sd : Side} {d : ℕ} {s : State} (hk : Keeps s0 s) : Keeps s0 (State.setDsrc f sd d s) := by
  unfold State.setDsrc
  repeat' first
    | (with_reducible assumption)
    | (with_reducible apply State.setF_keeps)

theorem State.tableSide_keeps {s0 : State} {f : FrontEnd} {sd : Side} {ns : List ℕ} {dsrc : ℕ} {chi : ℚ} {s : State} (hk : Keeps s0 s) : Keeps s0 (State.tableSide f sd ns dsrc chi s) := by
  unfold State.tableSide
  repeat' first
    | (with_reducible assumption)
    | (with_reducible apply State.setCalList_keeps)
    | (with_reducible apply State.setCal_keeps)
    | (with_reducible apply State.setDsrc_keeps)
    | (with_reducible apply State.setFe_keeps)

theorem State.enterTest_keeps {s0 : State} {l : Link} {s : State} (hk : Keeps s0 s) : Keeps s0 (State.enterTest l s) := by
  unfold State.enterTest
  repeat' first
    | (with_reducible assumption)
    | (with_reducible apply keeps_ite)
    | (with_reducible apply State.leaveActive_keeps)

theorem State.setSpare_keeps {s0 : State} {s : State} {p : Spare} {x : SpareSt} (hk : Keeps s0 s) : Keeps s0 (State.setSpare s p x) := by
  unfold State.setSpare
  repeat' first
    | (with_reducible exact keeps_mk (by assumption) ..)

theorem State.startHandBack_keeps {s0 : State} {p : Spare} {next : Option (Fin 16)} {s : State} (hk : Keeps s0 s) : Keeps s0 (State.startHandBack p next s) := by
  unfold State.startHandBack
  repeat' first
    | (with_reducible assumption)
    | (with_reducible apply State.setSpare_keeps)
    | (with_reducible apply State.setF_keeps)

theorem State.setFe_keeps {s0 : State} {s : State} {f : FrontEnd} {x : FeSt} (hk : Keeps s0 s) : Keeps s0 (State.setFe s f x) := by
  unfold State.setFe
  repeat' first
    | (with_reducible exact keeps_mk (by assumption) ..)

theorem State.setPhase_keeps {s0 : State} {f : FrontEnd} {p : ℕ} {s : State} (hk : Keeps s0 s) : Keeps s0 (State.setPhase f p s) := by
  unfold State.setPhase
  repeat' first
    | (with_reducible assumption)
    | (with_reducible apply State.setF_keeps)

theorem State.raiseCal_keeps {s0 : State} {f : FrontEnd} {cause : ℕ} {sampler : Bool} {threshold : Bool} {s : State} (hk : Keeps s0 s) : Keeps s0 (State.raiseCal f cause sampler threshold s) := by
  unfold State.raiseCal
  repeat' first
    | (with_reducible assumption)
    | (with_reducible apply keeps_ite)
    | (with_reducible apply State.setF_keeps)
    | (with_reducible apply State.setFe_keeps)
    | (with_reducible apply State.setPhase_keeps)

theorem State.raiseSpare_keeps {s0 : State} {p : Spare} {s : State} (hk : Keeps s0 s) : Keeps s0 (State.raiseSpare p s) := by
  unfold State.raiseSpare
  repeat' first
    | (with_reducible assumption)
    | (with_reducible apply keeps_ite)
    | (with_reducible apply State.raiseCal_keeps)

theorem State.abandonThrOf_keeps {s0 : State} {f : FrontEnd} {n : Ch} {s : State} (hk : Keeps s0 s) : Keeps s0 (State.abandonThrOf f n s) := by
  unfold State.abandonThrOf
  repeat' first
    | (with_reducible assumption)
    | (with_reducible apply keeps_ite)
    | (with_reducible apply State.raise_keeps)
    | (with_reducible apply State.setFe_keeps)
    | (with_reducible apply State.setF_keeps)
    | (with_reducible apply State.modChan_keeps)

theorem State.abandonThr_keeps {s0 : State} {n : Ch} {s : State} (hk : Keeps s0 s) : Keeps s0 (State.abandonThr n s) := by
  unfold State.abandonThr
  repeat' first
    | (with_reducible assumption)
    | (with_reducible apply State.abandonThrOf_keeps)

theorem State.spareEnds_keeps {s0 : State} {n : Ch} {s : State} (hk : Keeps s0 s) : Keeps s0 (State.spareEnds n s) := by
  unfold State.spareEnds
  repeat' first
    | (with_reducible exact keeps_mk (by assumption) ..)

theorem State.endLoan_keeps {s0 : State} {f : FrontEnd} {s : State} (hk : Keeps s0 s) : Keeps s0 (State.endLoan f s) := by
  unfold State.endLoan
  repeat' first
    | (with_reducible assumption)
    | (lift_lets; intro x)
    | (with_reducible apply State.startHandBack_keeps)
    | (with_reducible apply State.spareEnds_keeps)
    | (with_reducible apply State.setSpare_keeps)
    | (with_reducible apply State.raise_keeps)
    | (with_reducible apply State.setF_keeps)
    | split

theorem State.calAbandon_keeps {s0 : State} {f : FrontEnd} {again : Bool} {s : State} (hk : Keeps s0 s) : Keeps s0 (State.calAbandon f again s) := by
  unfold State.calAbandon
  repeat' first
    | (with_reducible assumption)
    | (with_reducible apply keeps_ite)
    | (with_reducible apply State.setFe_keeps)
    | (with_reducible apply State.endLoan_keeps)
    | (with_reducible apply State.raise_keeps)
    | (with_reducible apply State.modChan_keeps)
    | (with_reducible apply State.setPhase_keeps)
    | (with_reducible apply State.setF_keeps)

theorem State.breakFree_keeps {s0 : State} {f : FrontEnd} {s : State} (hk : Keeps s0 s) : Keeps s0 (State.breakFree f s) := by
  unfold State.breakFree
  repeat' first
    | (with_reducible assumption)
    | (with_reducible apply keeps_ite)
    | (with_reducible apply State.calAbandon_keeps)

theorem State.spareBegins_keeps {s0 : State} {n : Ch} {s : State} (hk : Keeps s0 s) : Keeps s0 (State.spareBegins n s) := by
  unfold State.spareBegins
  repeat' first
    | (with_reducible exact keeps_mk (by assumption) ..)

theorem State.startHandover_keeps {s0 : State} {p : Spare} {src : Fin 16} {owner : ℕ} {s : State} (hk : Keeps s0 s) : Keeps s0 (State.startHandover p src owner s) := by
  unfold State.startHandover
  repeat' first
    | (with_reducible assumption)
    | (with_reducible apply State.breakFree_keeps)
    | (with_reducible apply State.spareBegins_keeps)
    | (with_reducible apply State.setSpare_keeps)
    | (with_reducible apply State.setF_keeps)

theorem State.repairRequest_keeps {s0 : State} {p : Spare} {src : Fin 16} {s : State} (hk : Keeps s0 s) :
    ∀ t, State.repairRequest p src s = some t → Keeps s0 t := by
  intro t ht
  unfold State.repairRequest at ht
  dsimp only at ht
  split at ht
  · cases ht
  · split at ht
    · cases ht; exact State.startHandover_keeps hk
    · split at ht
      · cases ht; exact State.raiseSpare_keeps (State.raise_keeps (State.setF_keeps (State.setF_keeps (State.abandonThr_keeps hk))))
      · cases ht; exact State.startHandBack_keeps (State.setF_keeps (State.abandonThr_keeps hk))
    · cases ht

theorem State.writeRoute_keeps {s0 : State} {p : Spare} {w : Word} {s : State} (hk : Keeps s0 s) : Keeps s0 (State.writeRoute p w s) := by
  unfold State.writeRoute
  dsimp only
  split
  · split
    · exact State.startHandBack_keeps (State.breakFree_keeps (State.setTv_keeps hk))
    · exact State.raise_keeps hk
    · exact State.raise_keeps hk
    · exact State.setTv_keeps hk
  · split
    · rename_i h; exact State.setTv_keeps (State.repairRequest_keeps hk _ h)
    · exact State.raise_keeps hk
  · exact State.raise_keeps hk

theorem State.plain_keeps {s0 : State} {r : RegRow} {a : ℕ} {w : Word} {s : State} (hk : Keeps s0 s) : Keeps s0 (State.plain r a w s) := by
  unfold State.plain
  repeat' first
    | (with_reducible assumption)
    | (with_reducible apply State.setW_keeps)

theorem State.writeSpare_keeps {s0 : State} {p : Spare} {off : ℕ} {r : RegRow} {w : Word} {s : State} (hk : Keeps s0 s) : Keeps s0 (State.writeSpare p off r w s) := by
  unfold State.writeSpare
  repeat' first
    | (with_reducible assumption)
    | (with_reducible apply keeps_ite)
    | (with_reducible apply State.writeRoute_keeps)
    | (with_reducible apply State.setW_keeps)
    | (with_reducible apply State.plain_keeps)

theorem State.countSat_keeps {s0 : State} {s : State} {base : ℕ} {f : Fld} {n : ℕ} (hk : Keeps s0 s) : Keeps s0 (State.countSat s base f n) := by
  unfold State.countSat
  repeat' first
    | (with_reducible assumption)
    | (with_reducible apply State.setF_keeps)

theorem State.readLakeAt_keeps {s0 : State} {a : ℕ} {p : ℕ} {s : State} (hk : Keeps s0 s) : Keeps s0 (State.readLakeAt a p s).2 := by
  unfold State.readLakeAt
  repeat' first
    | (with_reducible assumption)
    | (with_reducible apply keeps_iteP)
    | (with_reducible refine State.forAll_keeps (fun a s hs => ?_) ?_)
    | (with_reducible apply State.raise_keeps)
    | (with_reducible apply State.count_keeps)
    | (with_reducible refine keeps_mk ?_ ..)

theorem State.lcpRise_keeps {s0 : State} {partial_ : Bool} {s : State} (hk : Keeps s0 s) : Keeps s0 (State.lcpRise partial_ s) := by
  unfold State.lcpRise
  repeat' first
    | (with_reducible apply keeps_ite)
    | (with_reducible exact keeps_mk (by assumption) ..)

theorem State.setDom_keeps {s0 : State} {d : Dom} {x : DomSt} {s : State} (hk : Keeps s0 s) : Keeps s0 (State.setDom d x s) := by
  unfold State.setDom
  repeat' first
    | (with_reducible exact keeps_mk (by assumption) ..)

theorem State.modDom_keeps {s0 : State} {d : Dom} {g : DomSt → DomSt} {s : State} (hk : Keeps s0 s) : Keeps s0 (State.modDom d g s) := by
  unfold State.modDom
  repeat' first
    | (with_reducible assumption)
    | (with_reducible apply State.setDom_keeps)

theorem State.setDmPair_keeps {s0 : State} {d : Dom} {a : ℕ} {v : ℤ} {s : State} (hk : Keeps s0 s) : Keeps s0 (State.setDmPair d a v s) := by
  unfold State.setDmPair
  repeat' first
    | (with_reducible assumption)
    | (with_reducible apply State.setPair_keeps)

theorem State.raiseDm_keeps {s0 : State} {d : Dom} {f : Fld} {s : State} (hk : Keeps s0 s) : Keeps s0 (State.raiseDm d f s) := by
  unfold State.raiseDm
  repeat' first
    | (with_reducible assumption)
    | (with_reducible apply State.raise_keeps)

theorem State.setDm_keeps {s0 : State} {d : Dom} {f : Fld} {v : ℕ} {s : State} (hk : Keeps s0 s) : Keeps s0 (State.setDm d f v s) := by
  unfold State.setDm
  repeat' first
    | (with_reducible assumption)
    | (with_reducible apply State.setF_keeps)

theorem State.goDom_keeps {s0 : State} {d : Dom} {st : ℕ} {hr : ℕ} {s : State} (hk : Keeps s0 s) : Keeps s0 (State.goDom d st hr s) := by
  unfold State.goDom
  repeat' first
    | (with_reducible assumption)
    | (with_reducible apply State.setDm_keeps)

theorem State.setPend_keeps {s0 : State} {d : Dom} {v : Option ℤ} {s : State} (hk : Keeps s0 s) : Keeps s0 (State.setPend d v s) := by
  unfold State.setPend
  repeat' first
    | (with_reducible assumption)
    | (with_reducible apply State.modDom_keeps)
    | (with_reducible apply State.setB_keeps)
    | (with_reducible apply State.setDmPair_keeps)

theorem State.resume_keeps {s0 : State} {d : Dom} {st : ℕ} {s : State} (hk : Keeps s0 s) : Keeps s0 (State.resume d st s) := by
  unfold State.resume
  repeat' first
    | (with_reducible assumption)
    | (with_reducible apply State.goDom_keeps)
    | (with_reducible apply State.modDom_keeps)

theorem State.installMap_keeps {s0 : State} {d : Dom} {m : DomMap} {s : State} (hk : Keeps s0 s) : Keeps s0 (State.installMap d m s) := by
  unfold State.installMap
  repeat' first
    | (with_reducible exact keeps_mk (by assumption) ..)

theorem State.applySample_keeps {s0 : State} {d : Dom} {o : ℤ} {s : State} (hk : Keeps s0 s) : Keeps s0 (State.applySample d o s) := by
  unfold State.applySample
  repeat' first
    | (intro x)
    | (lift_lets; intro x)
    | (with_reducible apply State.installMap_keeps)
    | (with_reducible apply State.modDom_keeps)
    | (with_reducible apply State.goDom_keeps)
    | (with_reducible exact keeps_mk (by assumption) ..)
    | split

theorem State.checkEnd_keeps {s0 : State} {d : Dom} {mpd : ℤ} {s : State} (hk : Keeps s0 s) : Keeps s0 (State.checkEnd d mpd s) := by
  unfold State.checkEnd
  repeat' first
    | (with_reducible assumption)
    | (intro x; refine keeps_cut (x := x) ?_ (fun hx => ?_))
    | (intro x)
    | (lift_lets; intro x)
    | (with_reducible apply State.modDom_keeps)
    | (with_reducible apply State.setDmPair_keeps)
    | (with_reducible apply State.raiseDm_keeps)
    | (with_reducible apply State.goDom_keeps)
    | (with_reducible apply State.setPend_keeps)
    | (with_reducible apply State.resume_keeps)
    | (with_reducible apply State.applySample_keeps)
    | split

theorem State.setTu_keeps {s0 : State} {s : State} {u : Unit16} {x : UnitSt} (hk : Keeps s0 s) : Keeps s0 (State.setTu s u x) := by
  unfold State.setTu
  repeat' first
    | (with_reducible exact keeps_mk (by assumption) ..)

theorem State.ovfRun_keeps {s0 : State} {n : Ch} {ended : Bool} {k : ℕ} {s : State} (hk : Keeps s0 s) : Keeps s0 (State.ovfRun n ended k s) := by
  unfold State.ovfRun
  repeat' first
    | (with_reducible assumption)
    | (with_reducible apply keeps_ite)
    | (with_reducible apply State.setF_keeps)
    | (with_reducible apply State.raise_keeps)

theorem State.pulseStl_keeps {s0 : State} {u : ℕ} {start : ℕ} {s : State} (hk : Keeps s0 s) : Keeps s0 (State.pulseStl u start s) := by
  unfold State.pulseStl
  repeat' first
    | (with_reducible apply keeps_ite)
    | (with_reducible refine State.forAll_keeps (fun a s hs => ?_) ?_)
    | (with_reducible exact keeps_mk (by assumption) ..)

theorem State.pulseOut_keeps {s0 : State} {u : ℕ} {func : ℕ} {start : ℕ} {s : State} (hk : Keeps s0 s) : Keeps s0 (State.pulseOut u func start s) := by
  unfold State.pulseOut
  repeat' first
    | (with_reducible apply keeps_ite)
    | (with_reducible refine State.forAll_keeps (fun a s hs => ?_) ?_)
    | (with_reducible exact keeps_mk (by assumption) ..)

theorem State.modTu_keeps {s0 : State} {s : State} {u : Unit16} {g : UnitSt → UnitSt} (hk : Keeps s0 s) : Keeps s0 (State.modTu s u g) := by
  unfold State.modTu
  repeat' first
    | (with_reducible assumption)
    | (with_reducible apply State.setTu_keeps)

theorem State.checkClosed_keeps {s0 : State} {u : Unit16} {s : State} (hk : Keeps s0 s) : Keeps s0 (State.checkClosed u s) := by
  unfold State.checkClosed
  repeat' first
    | (with_reducible assumption)
    | (with_reducible refine State.forAll_keeps (fun a s hs => ?_) ?_)
    | (with_reducible apply State.pulseOut_keeps)
    | (with_reducible apply State.setF_keeps)
    | (with_reducible apply State.modTu_keeps)
    | (with_reducible apply State.ovfRun_keeps)
    | split

theorem State.breakIdle_keeps {s0 : State} {n : Ch} {s : State} (hk : Keeps s0 s) : Keeps s0 (State.breakIdle n s) := by
  unfold State.breakIdle
  repeat' first
    | (with_reducible assumption)
    | (with_reducible apply keeps_ite)
    | (with_reducible apply State.abandonThrOf_keeps)

theorem State.openGate_keeps {s0 : State} {n : Ch} {t : ℕ} {s : State} (hk : Keeps s0 s) : Keeps s0 (State.openGate n t s) := by
  unfold State.openGate
  repeat' first
    | (with_reducible assumption)
    | (with_reducible apply State.breakIdle_keeps)
    | (with_reducible apply State.setChan_keeps)

theorem State.startGating_keeps {s0 : State} {n : Ch} {t : ℕ} {s : State} (hk : Keeps s0 s) : Keeps s0 (State.startGating n t s) := by
  unfold State.startGating
  repeat' first
    | (with_reducible assumption)
    | (with_reducible apply keeps_ite)
    | (with_reducible apply State.openGate_keeps)

theorem State.forceWord_keeps {s0 : State} {n : Ch} {off : ℕ} {w : Word} {s : State} (hk : Keeps s0 s) : Keeps s0 (State.forceWord n off w s) := by
  unfold State.forceWord
  repeat' first
    | (with_reducible assumption)
    | (with_reducible apply State.setW_keeps)

theorem State.abandonHandover_keeps {s0 : State} {n : Ch} {s : State} (hk : Keeps s0 s) : Keeps s0 (State.abandonHandover n s) := by
  unfold State.abandonHandover
  repeat' first
    | (with_reducible assumption)
    | (with_reducible apply keeps_ite)
    | (with_reducible apply State.abandonThr_keeps)
    | (with_reducible apply State.spareEnds_keeps)
    | (with_reducible apply State.setSpare_keeps)
    | (with_reducible apply State.setF_keeps)
    | (with_reducible apply State.raise_keeps)

theorem State.writeBlind_keeps {s0 : State} {n : Ch} {b : BlindSt} {s : State} (hk : Keeps s0 s) : Keeps s0 (State.writeBlind n b s) := by
  unfold State.writeBlind
  repeat' first
    | (with_reducible assumption)
    | (with_reducible apply State.modChan_keeps)
    | (with_reducible apply State.setF_keeps)
    | (with_reducible apply State.raise_keeps)

theorem State.cutBlind_keeps {s0 : State} {n : Ch} {s : State} (hk : Keeps s0 s) : Keeps s0 (State.cutBlind n s) := by
  unfold State.cutBlind
  repeat' first
    | (with_reducible assumption)
    | (with_reducible apply State.writeBlind_keeps)
    | split

theorem State.closeRecords_keeps {s0 : State} {n : Ch} {cause : CloseCause} {s : State} (hk : Keeps s0 s) : Keeps s0 (State.closeRecords n cause s) := by
  unfold State.closeRecords
  repeat' first
    | (with_reducible assumption)
    | (with_reducible apply keeps_ite)
    | (with_reducible refine State.forAll_keeps (fun a s hs => ?_) ?_)
    | (with_reducible apply State.checkClosed_keeps)
    | (with_reducible apply State.modTu_keeps)

theorem State.endGate_keeps {s0 : State} {n : Ch} {t : ℕ} {cut : Bool} {early : Bool} {s : State} (hk : Keeps s0 s) : Keeps s0 (State.endGate n t cut early s) := by
  unfold State.endGate
  repeat' first
    | (with_reducible assumption)
    | (intro x)
    | (lift_lets; intro x)
    | (with_reducible apply State.count_keeps)
    | (with_reducible apply State.setF_keeps)
    | (with_reducible apply State.setChan_keeps)
    | (with_reducible apply State.modChan_keeps)
    | split

theorem State.modFe_keeps {s0 : State} {s : State} {f : FrontEnd} {g : FeSt → FeSt} (hk : Keeps s0 s) : Keeps s0 (State.modFe s f g) := by
  unfold State.modFe
  repeat' first
    | (with_reducible assumption)
    | (with_reducible apply State.setFe_keeps)

theorem State.park_keeps {s0 : State} {n : Ch} {s : State} (hk : Keeps s0 s) : Keeps s0 (State.park n s) := by
  unfold State.park
  repeat' first
    | (with_reducible assumption)
    | (with_reducible apply keeps_ite)
    | (with_reducible refine State.forAll_keeps (fun a s hs => ?_) ?_)
    | (with_reducible apply State.abandonHandover_keeps)
    | (with_reducible apply State.modChan_keeps)
    | (with_reducible apply State.cutBlind_keeps)
    | (with_reducible apply State.closeRecords_keeps)
    | (with_reducible apply State.endGate_keeps)
    | (with_reducible apply State.modFe_keeps)
    | (with_reducible apply State.setF_keeps)

theorem State.startBlind_keeps {s0 : State} {n : Ch} {start : BlindStart} {c : Causes} {count : ℕ} {endBy : ℕ} {ovf : Bool} {test : Bool} {s : State} (hk : Keeps s0 s) : Keeps s0 (State.startBlind n start c count endBy ovf test s) := by
  unfold State.startBlind
  repeat' first
    | (with_reducible assumption)
    | (with_reducible apply State.modChan_keeps)

theorem State.modeChange_keeps {s0 : State} {n : Ch} {t : ℕ} {s : State} (hk : Keeps s0 s) : Keeps s0 (State.modeChange n t s) := by
  unfold State.modeChange
  repeat' first
    | (with_reducible assumption)
    | (intro x)
    | (lift_lets; intro x)
    | (with_reducible apply State.setChan_keeps)
    | (with_reducible apply State.setF_keeps)
    | (with_reducible apply State.startBlind_keeps)
    | (with_reducible apply State.setSpare_keeps)
    | split

theorem State.zeroLake_keeps {s0 : State} {lo hi : ℕ} {s : State} (hk : Keeps s0 s) : Keeps s0 (State.zeroLake lo hi s) :=
  keeps_lake hk fun d => wf_filter _ d.lake

theorem State.clearLake_keeps {s0 : State} {lo : ℕ} {hi : ℕ} {s : State} (hk : Keeps s0 s) : Keeps s0 (State.clearLake lo hi s) := by
  unfold State.clearLake
  repeat' first
    | (with_reducible assumption)
    | (intro x)
    | (lift_lets; intro x)
    | (with_reducible refine State.forAll_keeps (fun a s hs => ?_) ?_)
    | (with_reducible apply State.zeroLake_keeps)
    | split

theorem State.clearHist_keeps {s0 : State} {n : Ch} {s : State} (hk : Keeps s0 s) : Keeps s0 (State.clearHist n s) := by
  unfold State.clearHist
  repeat' first
    | (with_reducible assumption)
    | (with_reducible apply State.modChan_keeps)
    | (with_reducible apply State.setF_keeps)
    | (with_reducible apply State.setPair_keeps)
    | (with_reducible apply State.clearLake_keeps)

theorem State.ltEnd_keeps {s0 : State} {n : Ch} {s : State} (hk : Keeps s0 s) : Keeps s0 (State.ltEnd n s) := by
  unfold State.ltEnd
  repeat' first
    | (with_reducible exact keeps_mk (by assumption) ..)

theorem State.applyShadows_keeps {s0 : State} {n : Ch} {t : ℕ} {s : State} (hk : Keeps s0 s) : Keeps s0 (State.applyShadows n t s) := by
  unfold State.applyShadows
  repeat' first
    | (with_reducible assumption)
    | (with_reducible apply keeps_ite)
    | (with_reducible refine State.forAll_keeps (fun a s hs => ?_) ?_)
    | (with_reducible apply State.raise_keeps)
    | (with_reducible apply State.forceWord_keeps)
    | (with_reducible apply State.modChan_keeps)
    | (with_reducible apply State.park_keeps)
    | (with_reducible apply State.modeChange_keeps)
    | (with_reducible apply State.clearHist_keeps)
    | (with_reducible apply State.ltEnd_keeps)

theorem State.closeGateAt_keeps {s0 : State} {n : Ch} {t : ℕ} {cut : Bool} {s : State} (hk : Keeps s0 s) : Keeps s0 (State.closeGateAt n t cut s) := by
  unfold State.closeGateAt
  repeat' first
    | (with_reducible assumption)
    | (with_reducible apply State.startGating_keeps)
    | (with_reducible apply State.applyShadows_keeps)
    | (with_reducible apply State.endGate_keeps)

theorem State.tuGates_keeps {s0 : State} {u : ℕ} {t : ℕ} {s : State} (hk : Keeps s0 s) : Keeps s0 (State.tuGates u t s) := by
  unfold State.tuGates
  repeat' first
    | (with_reducible assumption)
    | (with_reducible apply keeps_ite)
    | (with_reducible refine State.forAll_keeps (fun a s hs => ?_) ?_)
    | (with_reducible apply State.closeGateAt_keeps)
    | (with_reducible apply State.openGate_keeps)

theorem State.makeEvent_keeps {s0 : State} {u : Unit16} {src : ℕ} {sample : ℕ} {value : BitVec 64} {s : State} (hk : Keeps s0 s) : Keeps s0 (State.makeEvent u src sample value s) := by
  unfold State.makeEvent
  repeat' first
    | (with_reducible assumption)
    | (with_reducible refine State.forAll_keeps (fun a s hs => ?_) ?_)
    | (with_reducible apply State.setTu_keeps)
    | (with_reducible apply State.setF_keeps)
    | (with_reducible apply State.setW_keeps)
    | (with_reducible apply State.ovfRun_keeps)
    | (with_reducible apply State.pulseStl_keeps)
    | (with_reducible apply State.pulseOut_keeps)
    | (with_reducible apply State.checkClosed_keeps)
    | (with_reducible apply State.tuGates_keeps)
    | split

theorem State.nextWindow_keeps {s0 : State} {l : Link} {s : State} (hk : Keeps s0 s) : Keeps s0 (State.nextWindow l s) := by
  unfold State.nextWindow
  repeat' first
    | (with_reducible assumption)
    | (with_reducible apply State.modLink_keeps)
    | (with_reducible apply State.reach_keeps)

theorem State.countVat_keeps {s0 : State} {ce : ℕ} {ue : ℕ} {s : State} (hk : Keeps s0 s) : Keeps s0 (State.countVat ce ue s) := by
  unfold State.countVat
  repeat' first
    | (with_reducible assumption)
    | (with_reducible apply keeps_ite)
    | (with_reducible apply State.raise_keeps)
    | (with_reducible apply State.count_keeps)

theorem State.closeBlock_keeps {s0 : State} {p : Fin 32} {n : Ch} {s : State} (hk : Keeps s0 s) : Keeps s0 (State.closeBlock p n s) := by
  unfold State.closeBlock
  repeat' first
    | (intro x; refine keeps_cut (x := x) ?_ (fun hx => ?_))
    | (intro x)
    | (lift_lets; intro x)
    | (with_reducible apply State.countVat_keeps)
    | (with_reducible apply State.send_keeps)
    | (with_reducible exact keeps_mk (by assumption) ..)
    | split

theorem State.writeVp_keeps {s0 : State} {p : Fin 32} {w : Word} {s : State} (hk : Keeps s0 s) : Keeps s0 (State.writeVp p w s) := by
  unfold State.writeVp
  repeat' first
    | (with_reducible assumption)
    | (with_reducible apply keeps_ite)
    | (with_reducible refine State.forAll_keeps (fun a s hs => ?_) ?_)
    | (with_reducible apply State.raise_keeps)
    | (with_reducible apply State.closeBlock_keeps)
    | (with_reducible apply State.setW_keeps)
    | (with_reducible apply State.modChan_keeps)
    | (with_reducible apply State.breakIdle_keeps)

theorem State.fresh_keeps {s0 : State} {s : State} (hk : Keeps s0 s) : Keeps s0 (State.fresh s).2 := by
  unfold State.fresh
  repeat' first
    | (with_reducible exact keeps_mk (by assumption) ..)

theorem State.readyMs_keeps {s0 : State} {s : State} (hk : Keeps s0 s) : Keeps s0 (State.readyMs s).2 := by
  unfold State.readyMs
  repeat' first
    | (with_reducible assumption)
    | (with_reducible apply keeps_iteP)
    | (with_reducible apply State.fresh_keeps)

theorem State.odWaits_keeps {s0 : State} {c : OdCmd} {s : State} (hk : Keeps s0 s) : Keeps s0 (State.odWaits c s).2 := by
  unfold State.odWaits
  repeat' first
    | (with_reducible assumption)
    | (with_reducible apply keeps_iteP)
    | (with_reducible apply State.readyMs_keeps)
    | (with_reducible apply State.fresh_keeps)

theorem State.showGen_keeps {s0 : State} {n : Ch} {s : State} (hk : Keeps s0 s) : Keeps s0 (State.showGen n s) := by
  unfold State.showGen
  repeat' first
    | (with_reducible assumption)
    | (with_reducible apply State.setF_keeps)

theorem State.mordOut_keeps {s0 : State} {n : Ch} {o : MOut} {s : State} (hk : Keeps s0 s) : Keeps s0 (State.mordOut n o s) := by
  unfold State.mordOut
  repeat' first
    | (with_reducible assumption)
    | (with_reducible refine State.forAll_keeps (fun a s hs => ?_) ?_)
    | (with_reducible apply State.send_keeps)
    | (with_reducible apply State.commitHit_keeps)
    | (with_reducible apply State.count_keeps)
    | (with_reducible apply State.raise_keeps)
    | (with_reducible apply State.modChan_keeps)
    | split

theorem State.mordSet_keeps {s0 : State} {n : Ch} {r : Mord × List MOut} {s : State} (hk : Keeps s0 s) : Keeps s0 (State.mordSet n r s) := by
  unfold State.mordSet
  repeat' first
    | (with_reducible assumption)
    | (with_reducible refine State.forAll_keeps (fun a s hs => ?_) ?_)
    | (with_reducible apply State.showGen_keeps)
    | (with_reducible apply State.mordOut_keeps)
    | (with_reducible apply State.modChan_keeps)

theorem State.runMord_keeps {s0 : State} {n : Ch} {op : MdCfg → Mord → Mord × List MOut} {s : State} (hk : Keeps s0 s) : Keeps s0 (State.runMord n op s) := by
  unfold State.runMord
  repeat' first
    | (with_reducible assumption)
    | (with_reducible apply keeps_ite)
    | (with_reducible apply State.mordSet_keeps)

theorem State.materialise_keeps {s0 : State} {n : Ch} {s : State} (hk : Keeps s0 s) : Keeps s0 (State.materialise n s) := by
  unfold State.materialise
  repeat' first
    | (with_reducible assumption)
    | (with_reducible apply State.runMord_keeps)

theorem State.modIndigo_keeps {s0 : State} {g : Indigo → Indigo} {s : State} (hk : Keeps s0 s) : Keeps s0 (State.modIndigo g s) := by
  unfold State.modIndigo
  repeat' first
    | (with_reducible exact keeps_mk (by assumption) ..)

theorem State.queueCall_keeps {s0 : State} {id : ℕ} {params : List Byte} {auto : Bool} {s : State} (hk : Keeps s0 s) : Keeps s0 (State.queueCall id params auto s).2 := by
  unfold State.queueCall
  repeat' first
    | (with_reducible assumption)
    | (with_reducible apply keeps_iteP)
    | (with_reducible apply State.modIndigo_keeps)

theorem State.autoStore_keeps {s0 : State} {s : State} (hk : Keeps s0 s) : Keeps s0 (State.autoStore s) := by
  unfold State.autoStore
  repeat' first
    | (with_reducible assumption)
    | (with_reducible apply State.raise_keeps)
    | (with_reducible apply State.queueCall_keeps)
    | (rename_i heq; have hx := congrArg Prod.snd heq; dsimp only at hx; subst hx)
    | split

theorem State.setTb_keeps {s0 : State} {x : TbEng} {s : State} (hk : Keeps s0 s) : Keeps s0 (State.setTb x s) := by
  unfold State.setTb
  repeat' first
    | (with_reducible exact keeps_mk (by assumption) ..)

theorem State.avsRequest_keeps {s0 : State} {mV : ℕ} {s : State} (hk : Keeps s0 s) : Keeps s0 (State.avsRequest mV s) := by
  unfold State.avsRequest
  repeat' first
    | (with_reducible assumption)
    | (with_reducible apply State.setTb_keeps)
    | (with_reducible apply State.setF_keeps)

theorem State.loadTdac_keeps {s0 : State} {n : Ch} {f : FrontEnd} {s : State} (hk : Keeps s0 s) : Keeps s0 (State.loadTdac n f s) := by
  unfold State.loadTdac
  repeat' first
    | (with_reducible assumption)
    | (with_reducible apply State.modFe_keeps)

theorem State.applyTdac_keeps {s0 : State} {n : Ch} {t : ℕ} {code : Option (BitVec 18)} {s : State} (hk : Keeps s0 s) : Keeps s0 (State.applyTdac n t code s) := by
  unfold State.applyTdac
  repeat' first
    | (with_reducible assumption)
    | (with_reducible apply keeps_ite)
    | (with_reducible refine State.forAll_keeps (fun a s hs => ?_) ?_)
    | (with_reducible apply State.modChan_keeps)
    | (with_reducible apply State.setW_keeps)
    | (with_reducible apply State.modeChange_keeps)
    | (with_reducible apply State.loadTdac_keeps)
    | (with_reducible apply State.setF_keeps)

theorem State.arrayStrobe_keeps {s0 : State} {t : ℕ} {s : State} (hk : Keeps s0 s) : Keeps s0 (State.arrayStrobe t s) := by
  unfold State.arrayStrobe
  repeat' first
    | (with_reducible apply keeps_ite)
    | (with_reducible refine State.forAll_keeps (fun a s hs => ?_) ?_)
    | (with_reducible apply State.countSat_keeps)
    | (with_reducible apply State.applyTdac_keeps)
    | (with_reducible exact keeps_mk (by assumption) ..)

theorem State.writeArray_keeps {s0 : State} {r : RegRow} {w : Word} {s : State} (hk : Keeps s0 s) : Keeps s0 (State.writeArray r w s) := by
  unfold State.writeArray
  repeat' first
    | (with_reducible assumption)
    | (with_reducible apply keeps_ite)
    | (with_reducible apply State.plain_keeps)
    | (with_reducible apply State.setF_keeps)
    | (with_reducible apply State.arrayStrobe_keeps)

theorem State.ownBoundary_keeps {s0 : State} {n : Ch} {t : ℕ} {s : State} (hk : Keeps s0 s) : Keeps s0 (State.ownBoundary n t s) := by
  unfold State.ownBoundary
  repeat' first
    | (with_reducible assumption)
    | (with_reducible apply State.modChan_keeps)
    | (with_reducible apply State.closeGateAt_keeps)

theorem State.gateDue_keeps {s0 : State} {n : Ch} {s : State} (hk : Keeps s0 s) : Keeps s0 (State.gateDue n s) := by
  unfold State.gateDue
  repeat' first
    | (with_reducible assumption)
    | (with_reducible apply State.closeGateAt_keeps)
    | (with_reducible apply State.reach_keeps)
    | (with_reducible apply State.ownBoundary_keeps)
    | split

theorem State.overlapEnd_keeps {s0 : State} {p : Spare} {o : Overlap} {s : State} (hk : Keeps s0 s) : Keeps s0 (State.overlapEnd p o s) := by
  unfold State.overlapEnd
  repeat' first
    | (with_reducible assumption)
    | (with_reducible apply keeps_ite)
    | (with_reducible apply State.reach_keeps)

theorem State.takeContent_keeps {s0 : State} {l : Link} {c : FClass} {n : ℕ} {s : State} (hk : Keeps s0 s) : Keeps s0 (State.takeContent l c n s) := by
  unfold State.takeContent
  repeat' first
    | (with_reducible assumption)
    | (with_reducible apply State.setLink_keeps)

theorem State.accFault_keeps {s0 : State} {p : Path} {cause : ℕ} {a : ℕ} {s : State} (hk : Keeps s0 s) : Keeps s0 (State.accFault p cause a s) := by
  unfold State.accFault
  repeat' first
    | (with_reducible assumption)
    | (with_reducible apply State.raise_keeps)
    | (with_reducible apply State.setW_keeps)

theorem State.preWrite_keeps {s0 : State} {r : RegRow} {s : State} (hk : Keeps s0 s) : Keeps s0 (State.preWrite r s) := by
  unfold State.preWrite
  repeat' first
    | (with_reducible assumption)
    | (with_reducible apply keeps_ite)
    | (with_reducible apply State.raise_keeps)

theorem State.modPath_keeps {s0 : State} {p : Path} {g : PathSt → PathSt} {s : State} (hk : Keeps s0 s) : Keeps s0 (State.modPath p g s) := by
  unfold State.modPath
  repeat' first
    | (with_reducible exact keeps_mk (by assumption) ..)

theorem State.stage_keeps {s0 : State} {p : Path} {a : ℕ} {w : Word} {s : State} (hk : Keeps s0 s) : Keeps s0 (State.stage p a w s) := by
  unfold State.stage
  repeat' first
    | (with_reducible assumption)
    | (with_reducible apply State.modPath_keeps)

theorem State.unstage_keeps {s0 : State} {p : Path} {a : ℕ} {s : State} (hk : Keeps s0 s) : Keeps s0 (State.unstage p a s) := by
  unfold State.unstage
  repeat' first
    | (with_reducible assumption)
    | (with_reducible apply State.modPath_keeps)

theorem State.shadowWritten_keeps {s0 : State} {n : Ch} {off : ℕ} {s : State} (hk : Keeps s0 s) : Keeps s0 (State.shadowWritten n off s) := by
  unfold State.shadowWritten
  repeat' first
    | (with_reducible assumption)
    | (with_reducible apply keeps_ite)
    | (with_reducible apply State.modChan_keeps)
    | (with_reducible apply State.reach_keeps)
    | (with_reducible apply State.startGating_keeps)
    | (with_reducible apply State.applyShadows_keeps)

theorem State.putShadow_keeps {s0 : State} {n : Ch} {off : ℕ} {w : Word} {s : State} (hk : Keeps s0 s) : Keeps s0 (State.putShadow n off w s) := by
  unfold State.putShadow
  repeat' first
    | (with_reducible assumption)
    | (with_reducible apply State.shadowWritten_keeps)
    | (with_reducible apply State.setW_keeps)
    | (with_reducible apply State.setChan_keeps)

theorem State.putPair_keeps {s0 : State} {p : Path} {n : Ch} {off : ℕ} {v : ℕ} {s : State} (hk : Keeps s0 s) : Keeps s0 (State.putPair p n off v s) := by
  unfold State.putPair
  repeat' first
    | (with_reducible assumption)
    | (with_reducible apply keeps_ite)
    | (with_reducible apply State.unstage_keeps)
    | (with_reducible apply State.putShadow_keeps)
    | (with_reducible apply State.modChan_keeps)
    | (with_reducible apply State.setW_keeps)

theorem State.writeTdac_keeps {s0 : State} {n : Ch} {w : Word} {s : State} (hk : Keeps s0 s) : Keeps s0 (State.writeTdac n w s) := by
  unfold State.writeTdac
  repeat' first
    | (with_reducible assumption)
    | (with_reducible apply keeps_ite)
    | (with_reducible apply State.applyTdac_keeps)
    | (with_reducible apply State.reach_keeps)
    | (with_reducible apply State.modChan_keeps)
    | (with_reducible apply State.setW_keeps)

theorem State.pushCode_keeps {s0 : State} {n : Ch} {code : BitVec 18} {s : State} (hk : Keeps s0 s) : Keeps s0 (State.pushCode n code s) := by
  unfold State.pushCode
  repeat' first
    | (with_reducible assumption)
    | (with_reducible apply keeps_ite)
    | (with_reducible apply State.raise_keeps)
    | (with_reducible apply State.modChan_keeps)

theorem State.pinTest_keeps {s0 : State} {n : Ch} {s : State} (hk : Keeps s0 s) : Keeps s0 (State.pinTest n s) := by
  unfold State.pinTest
  repeat' first
    | (with_reducible assumption)
    | (with_reducible apply keeps_ite)
    | (with_reducible apply State.raise_keeps)
    | (with_reducible apply State.breakIdle_keeps)
    | (with_reducible apply State.setF_keeps)
    | (with_reducible apply State.modChan_keeps)
    | (with_reducible apply State.startBlind_keeps)

theorem State.writePart_keeps {s0 : State} {n : Ch} {w : Word} {s : State} (hk : Keeps s0 s) : Keeps s0 (State.writePart n w s) := by
  unfold State.writePart
  repeat' first
    | (with_reducible assumption)
    | (with_reducible apply keeps_ite)
    | (with_reducible apply State.raise_keeps)
    | (with_reducible apply State.putShadow_keeps)

theorem State.adevClr_keeps {s0 : State} {n : Ch} {s : State} (hk : Keeps s0 s) : Keeps s0 (State.adevClr n s) := by
  unfold State.adevClr
  repeat' first
    | (with_reducible assumption)
    | (with_reducible apply State.modChan_keeps)

theorem State.tieRst_keeps {s0 : State} {n : Ch} {t : ℕ} {s : State} (hk : Keeps s0 s) : Keeps s0 (State.tieRst n t s) := by
  unfold State.tieRst
  repeat' first
    | (with_reducible assumption)
    | (with_reducible apply State.modChan_keeps)

theorem State.adevDumpCmd_keeps {s0 : State} {n : Ch} {s : State} (hk : Keeps s0 s) : Keeps s0 (State.adevDumpCmd n s) := by
  unfold State.adevDumpCmd
  repeat' first
    | (with_reducible assumption)
    | (with_reducible apply State.modChan_keeps)

theorem State.gateStop_keeps {s0 : State} {n : Ch} {t : ℕ} {s : State} (hk : Keeps s0 s) : Keeps s0 (State.gateStop n t s) := by
  unfold State.gateStop
  repeat' first
    | (with_reducible assumption)
    | (with_reducible apply State.closeGateAt_keeps)
    | split

theorem State.applyNow_keeps {s0 : State} {n : Ch} {t : ℕ} {s : State} (hk : Keeps s0 s) : Keeps s0 (State.applyNow n t s) := by
  unfold State.applyNow
  repeat' first
    | (with_reducible assumption)
    | (with_reducible apply State.startGating_keeps)
    | (with_reducible apply State.applyShadows_keeps)
    | (with_reducible apply State.ownBoundary_keeps)
    | (with_reducible apply State.closeGateAt_keeps)
    | split

theorem State.gateStart_keeps {s0 : State} {n : Ch} {t : ℕ} {s : State} (hk : Keeps s0 s) : Keeps s0 (State.gateStart n t s) := by
  unfold State.gateStart
  repeat' first
    | (with_reducible assumption)
    | (with_reducible apply keeps_ite)
    | (with_reducible apply State.openGate_keeps)

theorem State.chCmd_keeps {s0 : State} {n : Ch} {w : Word} {s : State} (hk : Keeps s0 s) : Keeps s0 (State.chCmd n w s) := by
  unfold State.chCmd
  repeat' first
    | (with_reducible assumption)
    | (with_reducible apply keeps_ite)
    | (with_reducible apply State.reach_keeps)
    | (with_reducible apply State.adevClr_keeps)
    | (with_reducible apply State.tieRst_keeps)
    | (with_reducible apply State.adevDumpCmd_keeps)
    | (with_reducible apply State.gateStop_keeps)
    | (with_reducible apply State.applyNow_keeps)
    | (with_reducible apply State.gateStart_keeps)

theorem State.flushMord_keeps {s0 : State} {n : Ch} {s : State} (hk : Keeps s0 s) : Keeps s0 (State.flushMord n s) := by
  unfold State.flushMord
  repeat' first
    | (with_reducible assumption)
    | (with_reducible apply State.mordSet_keeps)

theorem State.writeMdCtl_keeps {s0 : State} {n : Ch} {w : Word} {s : State} (hk : Keeps s0 s) : Keeps s0 (State.writeMdCtl n w s) := by
  unfold State.writeMdCtl
  repeat' first
    | (with_reducible assumption)
    | (with_reducible apply keeps_ite)
    | (with_reducible apply State.setW_keeps)
    | (with_reducible apply State.raise_keeps)
    | (with_reducible apply State.setF_keeps)
    | (with_reducible apply State.breakIdle_keeps)
    | (with_reducible apply State.showGen_keeps)
    | (with_reducible apply State.modChan_keeps)
    | (with_reducible apply State.flushMord_keeps)

theorem State.writeMdH_keeps {s0 : State} {n : Ch} {w : Word} {s : State} (hk : Keeps s0 s) : Keeps s0 (State.writeMdH n w s) := by
  unfold State.writeMdH
  repeat' first
    | (with_reducible assumption)
    | (with_reducible apply keeps_ite)
    | (with_reducible apply State.raise_keeps)
    | (with_reducible apply State.setF_keeps)

theorem State.polReset_keeps {s0 : State} {n : Ch} {s : State} (hk : Keeps s0 s) : Keeps s0 (State.polReset n s) := by
  unfold State.polReset
  repeat' first
    | (with_reducible assumption)
    | (with_reducible apply State.modChan_keeps)

theorem State.dclr_keeps {s0 : State} {n : Ch} {s : State} (hk : Keeps s0 s) : Keeps s0 (State.dclr n s) := by
  unfold State.dclr
  repeat' first
    | (with_reducible assumption)
    | (with_reducible apply State.modChan_keeps)
    | (with_reducible apply State.setF_keeps)
    | (with_reducible apply State.setPair_keeps)

theorem State.writeMdCmd_keeps {s0 : State} {n : Ch} {w : Word} {s : State} (hk : Keeps s0 s) : Keeps s0 (State.writeMdCmd n w s) := by
  unfold State.writeMdCmd
  repeat' first
    | (with_reducible assumption)
    | (with_reducible apply keeps_ite)
    | (with_reducible apply State.flushMord_keeps)
    | (with_reducible apply State.polReset_keeps)
    | (with_reducible apply State.dclr_keeps)

theorem State.writeHg_keeps {s0 : State} {n : Ch} {off : ℕ} {w : Word} {s : State} (hk : Keeps s0 s) : Keeps s0 (State.writeHg n off w s) := by
  unfold State.writeHg
  repeat' first
    | (with_reducible assumption)
    | (with_reducible apply keeps_ite)
    | (with_reducible apply State.putShadow_keeps)
    | (with_reducible apply State.raise_keeps)

theorem State.hgClr_keeps {s0 : State} {n : Ch} {s : State} (hk : Keeps s0 s) : Keeps s0 (State.hgClr n s) := by
  unfold State.hgClr
  repeat' first
    | (with_reducible assumption)
    | (with_reducible apply keeps_ite)
    | (with_reducible apply State.raise_keeps)
    | (with_reducible apply State.clearHist_keeps)

theorem State.hgSnap_keeps {s0 : State} {n : Ch} {s : State} (hk : Keeps s0 s) : Keeps s0 (State.hgSnap n s) := by
  unfold State.hgSnap
  repeat' first
    | (with_reducible assumption)
    | (with_reducible apply keeps_ite)
    | (with_reducible apply State.raise_keeps)
    | (with_reducible apply State.modChan_keeps)
    | (with_reducible apply State.setF_keeps)
    | (with_reducible apply State.clearLake_keeps)

theorem State.writeChan_keeps {s0 : State} {p : Path} {n : Ch} {off : ℕ} {r : RegRow} {w : Word} {s : State} (hk : Keeps s0 s) : Keeps s0 (State.writeChan p n off r w s) := by
  unfold State.writeChan
  repeat' first
    | (with_reducible assumption)
    | (with_reducible apply keeps_ite)
    | (with_reducible apply State.raise_keeps)
    | (with_reducible apply State.stage_keeps)
    | (with_reducible apply State.unstage_keeps)
    | (with_reducible apply State.putPair_keeps)
    | (with_reducible apply State.putShadow_keeps)
    | (with_reducible apply State.breakIdle_keeps)
    | (with_reducible apply State.writeTdac_keeps)
    | (with_reducible apply State.pushCode_keeps)
    | (with_reducible apply State.setW_keeps)
    | (with_reducible apply State.pinTest_keeps)
    | (with_reducible apply State.modChan_keeps)
    | (with_reducible apply State.writePart_keeps)
    | (with_reducible apply State.chCmd_keeps)
    | (with_reducible apply State.writeMdCtl_keeps)
    | (with_reducible apply State.writeMdH_keeps)
    | (with_reducible apply State.writeMdCmd_keeps)
    | (with_reducible apply State.writeHg_keeps)
    | (with_reducible apply State.reach_keeps)
    | (with_reducible apply State.hgClr_keeps)
    | (with_reducible apply State.hgSnap_keeps)

theorem State.sameCycle_keeps {s0 : State} {α : Type} {l : List α} {g : α → State → State} {s : State}
    (hg : ∀ a s, Keeps s0 s → Keeps s0 (g a s)) (hk : Keeps s0 s) : Keeps s0 (s.sameCycle l g) := by
  unfold State.sameCycle
  dsimp only
  exact keeps_mk (foldlF_keeps (fun a r hr => hg a _ (keeps_mk hr ..)) hk) ..

theorem State.writeAperture_keeps {s0 : State} {p : Path} {l : Loc} {w : Word} {s : State} (hk : Keeps s0 s) :
    Keeps s0 (State.writeAperture p l w s) := by
  unfold State.writeAperture
  split
  · split
    · exact State.sameCycle_keeps (fun n s hs => State.writeChan_keeps hs) (State.preWrite_keeps hk)
    · exact hk
  · exact hk

theorem State.guard_keeps {s0 : State} {p : Path} {s : State} (hk : Keeps s0 s) : Keeps s0 (State.guard p s).2 := by
  unfold State.guard
  repeat' first
    | (with_reducible apply State.raise_keeps)
    | (with_reducible exact keeps_mk (by assumption) ..)
    | split

theorem State.setNext_keeps {s0 : State} {u : Unit16} {s : State} (hk : Keeps s0 s) : Keeps s0 (State.setNext u s) := by
  unfold State.setNext
  repeat' first
    | (with_reducible assumption)
    | (with_reducible apply State.setW_keeps)
    | split

theorem State.freeRecord_keeps {s0 : State} {u : Unit16} {ch : Ch} {number : BitVec 32} {s : State} (hk : Keeps s0 s) : Keeps s0 (State.freeRecord u ch number s) := by
  unfold State.freeRecord
  repeat' first
    | (with_reducible assumption)
    | (with_reducible apply State.modTu_keeps)

theorem State.loseRecord_keeps {s0 : State} {u : Unit16} {r : Record} {s : State} (hk : Keeps s0 s) : Keeps s0 (State.loseRecord u r s) := by
  unfold State.loseRecord
  repeat' first
    | (with_reducible assumption)
    | (with_reducible apply State.raise_keeps)
    | (with_reducible apply State.countSat_keeps)
    | (with_reducible apply State.freeRecord_keeps)
    | (with_reducible apply State.countVat_keeps)

end Sys2Proof.Machine
end

