-- ==== Sys2Proof/Laws/Keeps2.lean ====
section
/-!
SUPPORT. What the operations keep, part 2 of 4: one lemma for each operation on State (the queue of
waiting commands and the fuses stand, canonical stores stay canonical), callees before callers.
-/

namespace Sys2Proof.Machine

theorem State.pushRecord_keeps {s0 : State} {u : Unit16} {r : Record} {onClose : Bool} {s : State} (hk : Keeps s0 s) : Keeps s0 (State.pushRecord u r onClose s) := by
  unfold State.pushRecord
  repeat' first
    | (with_reducible assumption)
    | (with_reducible apply keeps_ite)
    | (with_reducible apply State.loseRecord_keeps)
    | (with_reducible apply State.countVat_keeps)
    | (with_reducible apply State.send_keeps)
    | (with_reducible apply State.modTu_keeps)

theorem State.readRecord_keeps {s0 : State} {u : Unit16} {r : Record} {s : State} (hk : Keeps s0 s) : Keeps s0 (State.readRecord u r s) := by
  unfold State.readRecord
  repeat' first
    | (with_reducible assumption)
    | (with_reducible apply State.setNext_keeps)
    | (with_reducible apply State.pushRecord_keeps)

theorem State.releaseRecord_keeps {s0 : State} {u : Unit16} {r : Record} {s : State} (hk : Keeps s0 s) : Keeps s0 (State.releaseRecord u r s) := by
  unfold State.releaseRecord
  repeat' first
    | (with_reducible assumption)
    | (with_reducible apply State.setNext_keeps)
    | (with_reducible apply State.freeRecord_keeps)

theorem State.enterIdle_keeps {s0 : State} {u : Unit16} {s : State} (hk : Keeps s0 s) : Keeps s0 (State.enterIdle u s) := by
  unfold State.enterIdle
  repeat' first
    | (with_reducible assumption)
    | (with_reducible apply State.setF_keeps)
    | (with_reducible apply State.modTu_keeps)

theorem State.putVat_keeps {s0 : State} {s : State} {a : ℕ} {w : Word} (hk : Keeps s0 s) : Keeps s0 (State.putVat s a w) :=
  keeps_vat hk fun d => wf_put _ _ d.vat

theorem State.putHeader_keeps {s0 : State} {r : Record} {s : State} (hk : Keeps s0 s) : Keeps s0 (State.putHeader r s) := by
  unfold State.putHeader
  repeat' first
    | (with_reducible assumption)
    | (with_reducible refine State.forAll_keeps (fun a s hs => ?_) ?_)
    | (with_reducible apply State.putVat_keeps)

theorem State.writeRecords_keeps {s0 : State} {u : Unit16} {s : State} (hk : Keeps s0 s) : Keeps s0 (State.writeRecords u s) := by
  unfold State.writeRecords
  repeat' first
    | (with_reducible assumption)
    | (lift_lets; intro x)
    | (with_reducible refine State.forAll_keeps (fun a s hs => ?_) ?_)
    | (with_reducible apply State.putHeader_keeps)
    | (with_reducible apply State.setTu_keeps)
    | (with_reducible apply State.raise_keeps)
    | (with_reducible apply State.pushRecord_keeps)
    | (with_reducible apply State.setNext_keeps)
    | split

theorem State.endUnit_keeps {s0 : State} {u : Unit16} {s : State} (hk : Keeps s0 s) : Keeps s0 (State.endUnit u s) := by
  unfold State.endUnit
  repeat' first
    | (with_reducible assumption)
    | (with_reducible apply keeps_ite)
    | (with_reducible apply State.enterIdle_keeps)
    | (with_reducible apply State.writeRecords_keeps)

theorem State.closeUnit_keeps {s0 : State} {u : Unit16} {cause : CloseCause} {at_ : ℕ} {s : State} (hk : Keeps s0 s) : Keeps s0 (State.closeUnit u cause at_ s) := by
  unfold State.closeUnit
  repeat' first
    | (with_reducible assumption)
    | (with_reducible apply keeps_ite)
    | (with_reducible apply State.checkClosed_keeps)
    | (with_reducible apply State.modTu_keeps)

theorem State.missSource_keeps {s0 : State} {u : Unit16} {s : State} (hk : Keeps s0 s) : Keeps s0 (State.missSource u s) := by
  unfold State.missSource
  repeat' first
    | (with_reducible assumption)
    | (with_reducible apply State.raise_keeps)
    | (with_reducible apply State.countSat_keeps)
    | (with_reducible apply State.modTu_keeps)

theorem State.source_keeps {s0 : State} {u : Unit16} {src : ℕ} {sample : ℕ} {value : BitVec 64} {s : State} (hk : Keeps s0 s) : Keeps s0 (State.source u src sample value s) := by
  unfold State.source
  repeat' first
    | (with_reducible assumption)
    | (intro x)
    | (lift_lets; intro x)
    | (with_reducible apply State.endUnit_keeps)
    | (with_reducible apply State.closeUnit_keeps)
    | (with_reducible apply State.makeEvent_keeps)
    | (with_reducible apply State.setF_keeps)
    | (with_reducible apply State.modTu_keeps)
    | (with_reducible apply State.raise_keeps)
    | (with_reducible apply State.countSat_keeps)
    | (with_reducible apply State.setTu_keeps)
    | (with_reducible apply State.missSource_keeps)
    | split

theorem State.forceSource_keeps {s0 : State} {u : Unit16} {t : ℕ} {s : State} (hk : Keeps s0 s) : Keeps s0 (State.forceSource u t s) := by
  unfold State.forceSource
  repeat' first
    | (with_reducible assumption)
    | (with_reducible apply State.source_keeps)

theorem State.applyTu_keeps {s0 : State} {u : Unit16} {s : State} (hk : Keeps s0 s) : Keeps s0 (State.applyTu u s) := by
  unfold State.applyTu
  repeat' first
    | (with_reducible assumption)
    | (with_reducible refine State.forAll_keeps (fun a s hs => ?_) ?_)
    | (with_reducible apply State.setW_keeps)

theorem State.overwrite_keeps {s0 : State} {u : Unit16} {n : Ch} {s : State} (hk : Keeps s0 s) : Keeps s0 (State.overwrite u n s) := by
  unfold State.overwrite
  repeat' first
    | (with_reducible assumption)
    | (lift_lets; intro x)
    | (with_reducible apply State.raise_keeps)
    | (with_reducible apply State.countSat_keeps)
    | (with_reducible apply State.freeRecord_keeps)
    | split

theorem State.makeRoom_keeps {s0 : State} {u : Unit16} {s : State} (hk : Keeps s0 s) : Keeps s0 (State.makeRoom u s) := by
  unfold State.makeRoom
  repeat' first
    | (with_reducible assumption)
    | (with_reducible apply keeps_ite)
    | (with_reducible refine State.forAll_keeps (fun a s hs => ?_) ?_)
    | (with_reducible apply State.overwrite_keeps)

theorem State.waitFull_keeps {s0 : State} {u : Unit16} {s : State} (hk : Keeps s0 s) : Keeps s0 (State.waitFull u s) := by
  unfold State.waitFull
  repeat' first
    | (with_reducible assumption)
    | (with_reducible apply State.setF_keeps)

theorem State.enterArmed_keeps {s0 : State} {u : Unit16} {t : ℕ} {dead : ℕ} {s : State} (hk : Keeps s0 s) : Keeps s0 (State.enterArmed u t dead s) := by
  unfold State.enterArmed
  repeat' first
    | (with_reducible assumption)
    | (with_reducible apply keeps_ite)
    | (with_reducible refine State.forAll_keeps (fun a s hs => ?_) ?_)
    | (with_reducible apply State.makeRoom_keeps)
    | (with_reducible apply State.waitFull_keeps)
    | (with_reducible apply State.setTu_keeps)
    | (with_reducible apply State.modChan_keeps)
    | (with_reducible apply State.setNext_keeps)
    | (with_reducible apply State.setF_keeps)

theorem State.arm_keeps {s0 : State} {u : Unit16} {s : State} (hk : Keeps s0 s) : Keeps s0 (State.arm u s) := by
  unfold State.arm
  repeat' first
    | (with_reducible assumption)
    | (with_reducible apply keeps_ite)
    | (with_reducible refine State.forAll_keeps (fun a s hs => ?_) ?_)
    | (with_reducible apply State.raise_keeps)
    | (with_reducible apply State.applyTu_keeps)
    | (with_reducible apply State.breakIdle_keeps)
    | (with_reducible apply State.enterArmed_keeps)
    | (with_reducible apply State.modTu_keeps)

theorem State.disarm_keeps {s0 : State} {u : Unit16} {s : State} (hk : Keeps s0 s) : Keeps s0 (State.disarm u s) := by
  unfold State.disarm
  repeat' first
    | (with_reducible assumption)
    | (with_reducible apply keeps_ite)
    | (with_reducible apply State.setF_keeps)
    | (with_reducible apply State.modTu_keeps)
    | (with_reducible apply State.endUnit_keeps)
    | (with_reducible apply State.closeUnit_keeps)
    | (with_reducible apply State.enterIdle_keeps)

theorem State.tuCmd_keeps {s0 : State} {u : Unit16} {w : Word} {s : State} (hk : Keeps s0 s) : Keeps s0 (State.tuCmd u w s) := by
  unfold State.tuCmd
  repeat' first
    | (with_reducible assumption)
    | (with_reducible apply keeps_ite)
    | (with_reducible apply State.reach_keeps)
    | (with_reducible apply State.readRecord_keeps)
    | (with_reducible apply State.releaseRecord_keeps)
    | (with_reducible apply State.forceSource_keeps)
    | (with_reducible apply State.arm_keeps)
    | (with_reducible apply State.disarm_keeps)
    | split

theorem State.writeTu_keeps {s0 : State} {p : Path} {u : Unit16} {off : ℕ} {r : RegRow} {w : Word} {s : State} (hk : Keeps s0 s) : Keeps s0 (State.writeTu p u off r w s) := by
  unfold State.writeTu
  repeat' first
    | (with_reducible assumption)
    | (with_reducible apply keeps_ite)
    | (with_reducible apply State.tuCmd_keeps)
    | (with_reducible apply State.stage_keeps)
    | (with_reducible apply State.setPair_keeps)
    | (with_reducible apply State.unstage_keeps)
    | (with_reducible apply State.setW_keeps)

theorem State.lnkEn_keeps {s0 : State} {l : Link} {en : Bool} {s : State} (hk : Keeps s0 s) : Keeps s0 (State.lnkEn l en s) := by
  unfold State.lnkEn
  repeat' first
    | (with_reducible assumption)
    | (with_reducible apply keeps_ite)
    | (with_reducible apply State.setLnk_keeps)
    | (with_reducible apply State.leaveActive_keeps)
    | (with_reducible apply State.goLnk_keeps)
    | (with_reducible apply State.modLink_keeps)

theorem State.rejoin_keeps {s0 : State} {l : Link} {s : State} (hk : Keeps s0 s) : Keeps s0 (State.rejoin l s) := by
  unfold State.rejoin
  repeat' first
    | (with_reducible assumption)
    | (with_reducible refine State.forAll_keeps (fun a s hs => ?_) ?_)
    | (with_reducible apply State.modLink_keeps)
    | (with_reducible apply State.setLnk_keeps)

theorem State.lnkRetrain_keeps {s0 : State} {l : Link} {reset : Bool} {s : State} (hk : Keeps s0 s) : Keeps s0 (State.lnkRetrain l reset s) := by
  unfold State.lnkRetrain
  repeat' first
    | (with_reducible assumption)
    | (with_reducible apply keeps_ite)
    | (with_reducible apply State.modLink_keeps)
    | (with_reducible apply State.retrain_keeps)

theorem State.exitTest_keeps {s0 : State} {l : Link} {s : State} (hk : Keeps s0 s) : Keeps s0 (State.exitTest l s) := by
  unfold State.exitTest
  repeat' first
    | (with_reducible assumption)
    | (with_reducible apply keeps_ite)
    | (with_reducible apply State.goLnk_keeps)

theorem State.lnkCmd_keeps {s0 : State} {l : Link} {w : Word} {s : State} (hk : Keeps s0 s) : Keeps s0 (State.lnkCmd l w s) := by
  unfold State.lnkCmd
  repeat' first
    | (with_reducible assumption)
    | (with_reducible apply keeps_ite)
    | (with_reducible apply State.rejoin_keeps)
    | (with_reducible apply State.lnkRetrain_keeps)
    | (with_reducible apply State.enterTest_keeps)
    | (with_reducible apply State.exitTest_keeps)

theorem State.writeTest_keeps {s0 : State} {l : Link} {w : Word} {s : State} (hk : Keeps s0 s) : Keeps s0 (State.writeTest l w s) := by
  unfold State.writeTest
  repeat' first
    | (with_reducible assumption)
    | (with_reducible apply keeps_ite)
    | (with_reducible refine State.forAll_keeps (fun a s hs => ?_) ?_)
    | (with_reducible apply State.setW_keeps)
    | (with_reducible apply State.setLnk_keeps)
    | (with_reducible apply State.setPair_keeps)

theorem State.writeLink_keeps {s0 : State} {l : Link} {off : ℕ} {r : RegRow} {w : Word} {s : State} (hk : Keeps s0 s) : Keeps s0 (State.writeLink l off r w s) := by
  unfold State.writeLink
  repeat' first
    | (with_reducible assumption)
    | (with_reducible apply keeps_ite)
    | (with_reducible apply State.setW_keeps)
    | (with_reducible apply State.lnkEn_keeps)
    | (with_reducible apply State.lnkCmd_keeps)
    | (with_reducible apply State.writeTest_keeps)

theorem State.startDom_keeps {s0 : State} {d : Dom} {s : State} (hk : Keeps s0 s) : Keeps s0 (State.startDom d s) := by
  unfold State.startDom
  repeat' first
    | (with_reducible assumption)
    | (with_reducible apply keeps_ite)
    | (with_reducible apply State.goDom_keeps)

theorem State.stopDom_keeps {s0 : State} {d : Dom} {s : State} (hk : Keeps s0 s) : Keeps s0 (State.stopDom d s) := by
  unfold State.stopDom
  repeat' first
    | (intro x; refine keeps_cut (x := x) ?_ (fun hx => ?_))
    | (lift_lets; intro x)
    | (with_reducible apply State.goDom_keeps)
    | (with_reducible apply State.setDom_keeps)
    | (with_reducible apply State.setPend_keeps)
    | (with_reducible apply State.setDm_keeps)
    | (with_reducible exact keeps_mk (by assumption) ..)

theorem State.writePtpCfg_keeps {s0 : State} {d : Dom} {w : Word} {s : State} (hk : Keeps s0 s) : Keeps s0 (State.writePtpCfg d w s) := by
  unfold State.writePtpCfg
  repeat' first
    | (with_reducible assumption)
    | (with_reducible apply keeps_ite)
    | (with_reducible apply State.setW_keeps)
    | (with_reducible apply State.startDom_keeps)
    | (with_reducible apply State.stopDom_keeps)

theorem State.acceptStep_keeps {s0 : State} {d : Dom} {s : State} (hk : Keeps s0 s) : Keeps s0 (State.acceptStep d s) := by
  unfold State.acceptStep
  repeat' first
    | (with_reducible assumption)
    | (with_reducible apply State.modDom_keeps)
    | split

theorem State.ptpAccept_keeps {s0 : State} {d : Dom} {s : State} (hk : Keeps s0 s) : Keeps s0 (State.ptpAccept d s) := by
  unfold State.ptpAccept
  repeat' first
    | (with_reducible assumption)
    | (with_reducible apply keeps_ite)
    | (with_reducible apply State.acceptStep_keeps)
    | (with_reducible apply State.raiseDm_keeps)

theorem State.ptpAbsorb_keeps {s0 : State} {d : Dom} {s : State} (hk : Keeps s0 s) : Keeps s0 (State.ptpAbsorb d s) := by
  unfold State.ptpAbsorb
  repeat' first
    | (with_reducible assumption)
    | (with_reducible apply keeps_ite)
    | (with_reducible apply State.setDmPair_keeps)
    | (with_reducible apply State.resume_keeps)
    | (with_reducible apply State.modDom_keeps)
    | (with_reducible apply State.setPend_keeps)
    | (with_reducible apply State.raiseDm_keeps)

theorem State.ptpReject_keeps {s0 : State} {d : Dom} {s : State} (hk : Keeps s0 s) : Keeps s0 (State.ptpReject d s) := by
  unfold State.ptpReject
  repeat' first
    | (with_reducible assumption)
    | (with_reducible apply keeps_ite)
    | (with_reducible apply State.goDom_keeps)
    | (with_reducible apply State.modDom_keeps)
    | (with_reducible apply State.setPend_keeps)
    | (with_reducible apply State.raiseDm_keeps)

theorem State.ptpCmd_keeps {s0 : State} {d : Dom} {w : Word} {s : State} (hk : Keeps s0 s) : Keeps s0 (State.ptpCmd d w s) := by
  unfold State.ptpCmd
  repeat' first
    | (with_reducible assumption)
    | (with_reducible apply keeps_ite)
    | (with_reducible apply State.ptpAccept_keeps)
    | (with_reducible apply State.ptpAbsorb_keeps)
    | (with_reducible apply State.ptpReject_keeps)

theorem State.writeDom_keeps {s0 : State} {p : Path} {d : Dom} {off : ℕ} {r : RegRow} {w : Word} {s : State} (hk : Keeps s0 s) : Keeps s0 (State.writeDom p d off r w s) := by
  unfold State.writeDom
  repeat' first
    | (with_reducible assumption)
    | (with_reducible apply keeps_ite)
    | (with_reducible apply State.writePtpCfg_keeps)
    | (with_reducible apply State.setW_keeps)
    | (with_reducible apply State.ptpCmd_keeps)
    | (with_reducible apply State.stage_keeps)
    | (with_reducible apply State.setPair_keeps)
    | (with_reducible apply State.unstage_keeps)

theorem State.spCount_keeps {s0 : State} {s : State} (hk : Keeps s0 s) : Keeps s0 (State.spCount s) := by
  unfold State.spCount
  dsimp only
  exact State.setB_keeps (State.setF_keeps (keeps_wear hk fun d => d.wear))

theorem State.wearWrite_keeps {s0 : State} {s : State} (hk : Keeps s0 s) : Keeps s0 (State.wearWrite s) :=
  keeps_wear hk fun d => d.erases

theorem State.showFuses_keeps {s0 : State} {s : State} (hk : Keeps s0 s) : Keeps s0 (State.showFuses s) := by
  unfold State.showFuses
  repeat' first
    | (with_reducible assumption)
    | (with_reducible refine State.forAll_keeps (fun a s hs => ?_) ?_)
    | (with_reducible apply State.setW_keeps)
    | (with_reducible apply State.setF_keeps)

theorem State.softReset_keeps {s0 : State} {s : State} (hk : Keeps s0 s) : Keeps s0 (State.softReset s) := by
  have h := State.wearWrite_keeps hk
  have h5 : ∀ r : State, Keeps s0 r → ∀ b c d e, Keeps s0 ((((((r.setW R.PRT_STAT b).setF 0 F.CAL_STAT_BOOT_DONE c).setB 0
      F.DEV_CFG_STAT_STORE_BUSY d).setF 0 F.DEV_CFG_STAT_NOFLASH e).forAll allSpares fun (p : Spare) r =>
        r.setF 0 (F.DEV_LK_SPMAP_DONE.at 4 p.val) (s.wearWrite.f 0 (F.DEV_LK_SPMAP_DONE.at 4 p.val)))) := fun r hr b c d e =>
    State.forAll_keeps (fun a s hs => State.setF_keeps hs)
      (State.setF_keeps (State.setB_keeps (State.setF_keeps (State.setW_keeps hr))))
  unfold State.softReset
  dsimp only
  refine State.spCount_keeps ?_
  split
  · refine State.showFuses_keeps (h5 _ ?_ _ _ _ _)
    exact ⟨h.pending, h.fuses, fun c => have d := h.canon c
      ⟨wf_filter _ d.regs, wf_filter _ d.tv, d.cal, d.flash, d.vat, d.lake, d.erases, d.wear, d.rows⟩⟩
  · refine h5 _ ?_ _ _ _ _
    exact ⟨h.pending, h.fuses, fun c => have d := h.canon c
      ⟨wf_filter _ d.regs, wf_filter _ d.tv, d.cal, d.flash, d.vat, d.lake, d.erases, d.wear, d.rows⟩⟩

theorem State.writePacer_keeps {s0 : State} {k : Fin 8} {w : Word} {s : State} (hk : Keeps s0 s) : Keeps s0 (State.writePacer k w s) := by
  unfold State.writePacer
  repeat' first
    | (intro x; refine keeps_cut (x := x) ?_ (fun hx => ?_))
    | (intro x)
    | (lift_lets; intro x)
    | (with_reducible apply State.setW_keeps)
    | (with_reducible exact keeps_mk (by assumption) ..)

theorem State.writeSpmap_keeps {s0 : State} {p : Spare} {w : Word} {s : State} (hk : Keeps s0 s) : Keeps s0 (State.writeSpmap p w s) := by
  unfold State.writeSpmap
  repeat' first
    | (with_reducible assumption)
    | (with_reducible apply keeps_ite)
    | (with_reducible apply State.raise_keeps)
    | (with_reducible apply State.spCount_keeps)
    | (with_reducible apply State.setF_keeps)
    | (with_reducible apply State.setTv_keeps)

theorem State.writeOdmCtl_keeps {s0 : State} {p : Path} {r : RegRow} {w : Word} {s : State} (hk : Keeps s0 s) : Keeps s0 (State.writeOdmCtl p r w s) := by
  unfold State.writeOdmCtl
  repeat' first
    | (with_reducible assumption)
    | (with_reducible apply keeps_ite)
    | (with_reducible apply State.plain_keeps)
    | (with_reducible apply State.raise_keeps)
    | (with_reducible apply State.setF_keeps)
    | (with_reducible refine keeps_mk ?_ ..)

theorem State.raiseRef_keeps {s0 : State} {s : State} (hk : Keeps s0 s) : Keeps s0 (State.raiseRef s) := by
  unfold State.raiseRef
  repeat' first
    | (with_reducible assumption)
    | (with_reducible refine State.forAll_keeps (fun a s hs => ?_) ?_)
    | (with_reducible apply State.raiseCal_keeps)

theorem State.markRefchg_keeps {s0 : State} {s : State} (hk : Keeps s0 s) : Keeps s0 (State.markRefchg s) := by
  unfold State.markRefchg
  repeat' first
    | (with_reducible exact keeps_mk (by assumption) ..)

theorem State.switched_keeps {s0 : State} {active : ℕ} {s : State} (hk : Keeps s0 s) : Keeps s0 (State.switched active s) := by
  unfold State.switched
  repeat' first
    | (with_reducible assumption)
    | (with_reducible apply State.raise_keeps)
    | (with_reducible apply State.setF_keeps)
    | (with_reducible apply State.raiseRef_keeps)
    | (with_reducible apply State.markRefchg_keeps)
    | (with_reducible apply State.countSat_keeps)

theorem State.holdover_keeps {s0 : State} {s : State} (hk : Keeps s0 s) : Keeps s0 (State.holdover s) := by
  unfold State.holdover
  repeat' first
    | (with_reducible assumption)
    | (with_reducible apply keeps_ite)
    | (with_reducible apply State.raiseRef_keeps)
    | (with_reducible apply State.markRefchg_keeps)
    | (with_reducible apply State.setF_keeps)
    | (with_reducible apply State.raise_keeps)

theorem State.toRefin_keeps {s0 : State} {s : State} (hk : Keeps s0 s) : Keeps s0 (State.toRefin s) := by
  unfold State.toRefin
  repeat' first
    | (with_reducible assumption)
    | (with_reducible apply State.setTb_keeps)
    | (with_reducible apply State.switched_keeps)

theorem State.writeTbSrc_keeps {s0 : State} {w : Word} {s : State} (hk : Keeps s0 s) : Keeps s0 (State.writeTbSrc w s) := by
  unfold State.writeTbSrc
  repeat' first
    | (with_reducible assumption)
    | (with_reducible apply keeps_ite)
    | (with_reducible apply State.setTv_keeps)
    | (with_reducible apply State.switched_keeps)
    | (with_reducible apply State.setTb_keeps)
    | (with_reducible apply State.raiseRef_keeps)
    | (with_reducible apply State.holdover_keeps)
    | (with_reducible apply State.toRefin_keeps)

theorem State.snapshot_keeps {s0 : State} {s : State} (hk : Keeps s0 s) : Keeps s0 (State.snapshot s) := by
  unfold State.snapshot
  repeat' first
    | (with_reducible assumption)
    | (with_reducible refine State.forAll_keeps (fun a s hs => ?_) ?_)
    | (with_reducible apply State.setPair_keeps)
    | (with_reducible apply State.setW_keeps)
    | (with_reducible apply State.setF_keeps)
    | (with_reducible apply State.setB_keeps)
    | split

theorem State.paceMaxClr_keeps {s0 : State} {s : State} (hk : Keeps s0 s) : Keeps s0 (State.paceMaxClr s) := by
  unfold State.paceMaxClr
  repeat' first
    | (with_reducible assumption)
    | (with_reducible apply State.setTb_keeps)
    | (with_reducible apply State.setF_keeps)

theorem State.writeAvs_keeps {s0 : State} {m : Word} {w : Word} {s : State} (hk : Keeps s0 s) : Keeps s0 (State.writeAvs m w s) := by
  unfold State.writeAvs
  repeat' first
    | (with_reducible assumption)
    | (with_reducible apply keeps_ite)
    | (with_reducible apply State.raise_keeps)
    | (with_reducible apply State.setW_keeps)
    | (with_reducible apply State.setTb_keeps)
    | (with_reducible apply State.setF_keeps)

theorem State.writeVsm_keeps {s0 : State} {p : Fin 32} {k : ℕ} {w : Word} {s : State} (hk : Keeps s0 s) : Keeps s0 (State.writeVsm p k w s) := by
  unfold State.writeVsm
  repeat' first
    | (with_reducible assumption)
    | (with_reducible refine State.forAll_keeps (fun a s hs => ?_) ?_)
    | (with_reducible apply State.setW_keeps)
    | (with_reducible apply State.closeBlock_keeps)
    | (with_reducible apply State.modChan_keeps)
    | (with_reducible apply State.breakIdle_keeps)

theorem State.calCmd_keeps {s0 : State} {w : Word} {s : State} (hk : Keeps s0 s) : Keeps s0 (State.calCmd w s) := by
  unfold State.calCmd
  repeat' first
    | (with_reducible assumption)
    | (with_reducible apply keeps_ite)
    | (with_reducible refine State.forAll_keeps (fun a s hs => ?_) ?_)
    | (with_reducible apply State.calAbandon_keeps)
    | (with_reducible apply State.startHandBack_keeps)
    | (with_reducible apply State.raise_keeps)
    | (with_reducible apply State.raiseCal_keeps)

theorem State.vaStep_keeps {s0 : State} {s : State} (hk : Keeps s0 s) : Keeps s0 (State.vaStep s) := by
  unfold State.vaStep
  repeat' first
    | (with_reducible assumption)
    | (with_reducible apply keeps_ite)
    | (with_reducible apply State.setF_keeps)

theorem State.writeCalVd_keeps {s0 : State} {w : Word} {s : State} (hk : Keeps s0 s) : Keeps s0 (State.writeCalVd w s) := by
  unfold State.writeCalVd
  repeat' first
    | (with_reducible assumption)
    | (with_reducible apply keeps_ite)
    | (with_reducible apply State.vaStep_keeps)
    | (with_reducible apply State.setCal_keeps)
    | (with_reducible apply State.calAbandon_keeps)
    | (with_reducible apply State.raise_keeps)

theorem State.setPort_keeps {s0 : State} {p : Port} {x : PortSt} {s : State} (hk : Keeps s0 s) : Keeps s0 (State.setPort p x s) := by
  unfold State.setPort
  repeat' first
    | (with_reducible exact keeps_mk (by assumption) ..)

theorem State.netDrop_keeps {s0 : State} {k : ℕ} {s : State} (hk : Keeps s0 s) : Keeps s0 (State.netDrop k s) := by
  unfold State.netDrop
  repeat' first
    | (with_reducible assumption)
    | (with_reducible apply keeps_ite)
    | (with_reducible apply State.raise_keeps)
    | (with_reducible apply State.count_keeps)

theorem State.linkDown_keeps {s0 : State} {p : Port} {s : State} (hk : Keeps s0 s) : Keeps s0 (State.linkDown p s) := by
  unfold State.linkDown
  repeat' first
    | (with_reducible assumption)
    | (with_reducible apply State.setW_keeps)
    | (with_reducible apply State.setF_keeps)
    | (with_reducible apply State.setPort_keeps)
    | (with_reducible apply State.netDrop_keeps)

theorem State.writeNetCfg_keeps {s0 : State} {w : Word} {s : State} (hk : Keeps s0 s) : Keeps s0 (State.writeNetCfg w s) := by
  unfold State.writeNetCfg
  repeat' first
    | (with_reducible assumption)
    | (with_reducible apply keeps_ite)
    | (with_reducible apply State.setW_keeps)
    | (with_reducible apply State.linkDown_keeps)
    | (with_reducible apply State.setF_keeps)

theorem State.setFnLock_keeps {s0 : State} {s : State} (hk : Keeps s0 s) : Keeps s0 (State.setFnLock s) := by
  unfold State.setFnLock
  repeat' first
    | (with_reducible assumption)
    | (with_reducible apply State.setTv_keeps)

theorem State.writeKey_keeps {s0 : State} {p : Path} {key : BitVec 16} {s : State} (hk : Keeps s0 s) : Keeps s0 (State.writeKey p key s) := by
  unfold State.writeKey
  repeat' first
    | (lift_lets; intro x)
    | (with_reducible apply State.raise_keeps)
    | (with_reducible apply State.setF_keeps)
    | (with_reducible exact keeps_mk (by assumption) ..)
    | split

theorem State.mpStep_keeps {s0 : State} {s : State} (hk : Keeps s0 s) : Keeps s0 (State.mpStep s) := by
  unfold State.mpStep
  repeat' first
    | (with_reducible assumption)
    | (with_reducible apply keeps_ite)
    | (with_reducible apply State.setF_keeps)

theorem State.putLake_keeps {s0 : State} {a : ℕ} {w : Word} {s : State} (hk : Keeps s0 s) : Keeps s0 (State.putLake a w s) := by
  unfold State.putLake
  repeat' first
    | (with_reducible assumption)
    | (with_reducible apply State.putLakeAt_keeps)
    | split

theorem State.mpWrite_keeps {s0 : State} {w : Word} {s : State} (hk : Keeps s0 s) : Keeps s0 (State.mpWrite w s) := by
  unfold State.mpWrite
  repeat' first
    | (with_reducible assumption)
    | (with_reducible apply keeps_ite)
    | (with_reducible apply State.raise_keeps)
    | (with_reducible apply State.mpStep_keeps)
    | (with_reducible apply State.putVat_keeps)
    | (with_reducible apply State.putLake_keeps)
    | (with_reducible apply State.putLakeAt_keeps)

theorem State.writeDev_keeps {s0 : State} {p : Path} {a : ℕ} {r : RegRow} {m : Word} {w : Word} {s : State} (hk : Keeps s0 s) : Keeps s0 (State.writeDev p a r m w s) := by
  unfold State.writeDev
  repeat' first
    | (with_reducible assumption)
    | (with_reducible apply keeps_ite)
    | (with_reducible apply State.setTv_keeps)
    | (with_reducible apply State.modPath_keeps)
    | (with_reducible apply State.softReset_keeps)
    | (with_reducible apply State.writeArray_keeps)
    | (with_reducible apply State.writePacer_keeps)
    | (with_reducible apply State.writeSpmap_keeps)
    | (with_reducible apply State.writeOdmCtl_keeps)
    | (with_reducible apply State.setW_keeps)
    | (with_reducible apply State.writeTbSrc_keeps)
    | (with_reducible apply State.setTb_keeps)
    | (with_reducible apply State.snapshot_keeps)
    | (with_reducible apply State.paceMaxClr_keeps)
    | (with_reducible apply State.writeAvs_keeps)
    | (with_reducible apply State.writeVp_keeps)
    | (with_reducible apply State.writeVsm_keeps)
    | (with_reducible apply State.calCmd_keeps)
    | (with_reducible apply State.writeCalVd_keeps)
    | (with_reducible apply State.writeNetCfg_keeps)
    | (with_reducible apply State.setFnLock_keeps)
    | (with_reducible apply State.writeKey_keeps)
    | (with_reducible apply State.mpWrite_keeps)

theorem State.writeOwn_keeps {s0 : State} {p : Path} {l : Loc} {a : ℕ} {r : RegRow} {m : Word} {w : Word} {s : State} (hk : Keeps s0 s) : Keeps s0 (State.writeOwn p l a r m w s) := by
  unfold State.writeOwn
  repeat' first
    | (with_reducible assumption)
    | (with_reducible apply State.writeChan_keeps)
    | (with_reducible apply State.writeSpare_keeps)
    | (with_reducible apply State.writeTu_keeps)
    | (with_reducible apply State.writeLink_keeps)
    | (with_reducible apply State.writeDom_keeps)
    | (with_reducible apply State.writeDev_keeps)
    | split

theorem State.writeAt_keeps {s0 : State} {p : Path} {a : ℕ} {be : BitVec 4} {w : Word} {s : State} (hk : Keeps s0 s) : Keeps s0 (State.writeAt p a be w s).2 := by
  unfold State.writeAt
  repeat' first
    | (with_reducible assumption)
    | (intro x)
    | (lift_lets; intro x)
    | (with_reducible apply State.accFault_keeps)
    | (with_reducible apply State.writeAperture_keeps)
    | (with_reducible apply State.guard_keeps)
    | (with_reducible apply State.writeOwn_keeps)
    | (with_reducible apply State.preWrite_keeps)
    | (rename_i heq; have hx := congrArg Prod.snd heq; dsimp only at hx; subst hx)
    | split

theorem State.stepIa_keeps {s0 : State} {p : Path} {s : State} (hk : Keeps s0 s) : Keeps s0 (State.stepIa p s) := by
  unfold State.stepIa
  repeat' first
    | (with_reducible assumption)
    | (with_reducible apply State.modPath_keeps)

theorem State.writeReg_keeps {s0 : State} {p : Path} {a : ℕ} {be : BitVec 4} {w : Word} {s : State} (hk : Keeps s0 s) : Keeps s0 (State.writeReg p a be w s).2 := by
  unfold State.writeReg
  repeat' first
    | (with_reducible assumption)
    | (with_reducible apply State.accFault_keeps)
    | (with_reducible apply State.writeAt_keeps)
    | (with_reducible apply State.stepIa_keeps)
    | (with_reducible apply State.modPath_keeps)
    | (rename_i heq; have hx := congrArg Prod.snd heq; dsimp only at hx; subst hx)
    | split

theorem State.modOd_keeps {s0 : State} {g : OdSt → OdSt} {s : State} (hk : Keeps s0 s) : Keeps s0 (State.modOd g s) := by
  unfold State.modOd
  repeat' first
    | (with_reducible exact keeps_mk (by assumption) ..)

theorem State.readLake_keeps {s0 : State} {a : ℕ} {s : State} (hk : Keeps s0 s) : Keeps s0 (State.readLake a s).2 := by
  unfold State.readLake
  repeat' first
    | (with_reducible assumption)
    | (with_reducible apply State.readLakeAt_keeps)

theorem State.histBytes_keeps {s0 : State} {n : Ch} {first count : ℕ} {s : State} (hk : Keeps s0 s) :
    Keeps s0 (State.histBytes n first count s).2 := by
  unfold State.histBytes
  dsimp only
  exact foldlP_keeps (fun a r hr => State.readLake_keeps hr) hk

theorem State.skipLost_keeps {s0 : State} {u : Unit16} {k : ℕ} {s : State} (hk : Keeps s0 s) : Keeps s0 (State.skipLost u k s) := by
  induction k generalizing s with
  | zero => exact hk
  | succ k ih =>
    rw [State.skipLost]
    split
    · split
      · exact ih (State.loseRecord_keeps hk)
      · exact hk
    · exact hk

theorem State.atOldest_keeps {s0 : State} {s : State} {u : Unit16} (hk : Keeps s0 s) : Keeps s0 (State.atOldest s u) := by
  unfold State.atOldest
  repeat' first
    | (with_reducible assumption)
    | (with_reducible apply State.skipLost_keeps)

theorem State.odValue_keeps {s0 : State} {index : ℕ} {e : OdEntry} {t : Tgt} {s : State} (hk : Keeps s0 s) : Keeps s0 (State.odValue index e t s).2 := by
  unfold State.odValue
  repeat' first
    | (with_reducible assumption)
    | (with_reducible apply State.readyMs_keeps)
    | (with_reducible apply State.histBytes_keeps)
    | (with_reducible apply State.setNext_keeps)
    | (with_reducible apply State.atOldest_keeps)
    | (with_reducible apply State.countVat_keeps)
    | split

theorem State.odRead_keeps {s0 : State} {index : ℕ} {sub : ℕ} {data : List Byte} {s : State} (hk : Keeps s0 s) : Keeps s0 (State.odRead index sub data s).2 := by
  unfold State.odRead
  repeat' first
    | (with_reducible assumption)
    | (with_reducible apply State.odValue_keeps)
    | split

theorem State.stageCmd_keeps {s0 : State} {x : Txn} {c : OdCmd} {s : State} (hk : Keeps s0 s) : Keeps s0 (State.stageCmd x c s).2 := by
  unfold State.stageCmd
  repeat' first
    | (with_reducible assumption)
    | (with_reducible apply State.modOd_keeps)

theorem State.odPut_keeps {s0 : State} {a : ℕ} {ws : List Word} {s : State} (hk : Keeps s0 s) : Keeps s0 (State.odPut a ws s) := by
  unfold State.odPut
  repeat' first
    | (with_reducible assumption)
    | (with_reducible refine State.forAll_keeps (fun a s hs => ?_) ?_)
    | (with_reducible apply State.writeAt_keeps)

theorem State.odPutChecked_keeps {s0 : State} {flag : Option (ℕ × Fld)} {a : ℕ} {ws : List Word} {s : State} (hk : Keeps s0 s) : Keeps s0 (State.odPutChecked flag a ws s).2 := by
  unfold State.odPutChecked
  repeat' first
    | (with_reducible assumption)
    | (with_reducible apply State.odPut_keeps)
    | (with_reducible apply State.setF_keeps)
    | split

theorem State.odMember_keeps {s0 : State} {index : ℕ} {off : ℕ} {t : Tgt} {ws : List Word} {s : State} (hk : Keeps s0 s) : Keeps s0 (State.odMember index off t ws s).2 := by
  unfold State.odMember
  repeat' first
    | (with_reducible assumption)
    | (with_reducible apply keeps_iteP)
    | (with_reducible apply State.odPutChecked_keeps)

theorem State.odGroup_keeps {s0 : State} {index off : ℕ} {e : OdEntry} {t : Tgt} {ws : List Word} {s : State} (hk : Keeps s0 s) :
    Keeps s0 (State.odGroup index off e t ws s).2 := by
  unfold State.odGroup
  dsimp only
  split
  · exact keeps_mk (foldlF_keeps (fun a r hr => State.odMember_keeps (keeps_mk hr ..)) hk) ..
  · exact keeps_mk (foldlF_keeps (fun a r hr => State.odMember_keeps (keeps_mk hr ..)) hk) ..

theorem State.loadCal_keeps {s0 : State} {ws : List Word} {s : State} (hk : Keeps s0 s) : Keeps s0 (State.loadCal ws s) := by
  unfold State.loadCal
  dsimp only
  exact State.setCalList_keeps (keeps_cal (State.forAll_keeps (fun a s hs => State.calAbandon_keeps hs) hk) fun _ => wf_nil _)

theorem State.flashErase_keeps {s0 : State} {a n : ℕ} {s : State} (hk : Keeps s0 s) : Keeps s0 (State.flashErase a n s) :=
  keeps_flash hk fun d => wf_filter _ d.flash

theorem State.lifeTest_keeps {s0 : State} {s : State} (hk : Keeps s0 s) : Keeps s0 (State.lifeTest s) := by
  unfold State.lifeTest
  repeat' first
    | (with_reducible assumption)
    | (with_reducible apply keeps_ite)
    | (with_reducible apply State.setW_keeps)
    | (with_reducible apply State.raise_keeps)

theorem State.flashWrite_keeps {s0 : State} {a : ℕ} {bs : List Byte} {s : State} (hk : Keeps s0 s) : Keeps s0 (State.flashWrite a bs s) :=
  keeps_flash hk fun d => wf_putList _ _ d.flash

theorem State.beginStore_keeps {s0 : State} {s : State} (hk : Keeps s0 s) : Keeps s0 (State.beginStore s) := by
  unfold State.beginStore
  split
  · exact State.setF_keeps hk
  · dsimp only
    split
    · exact State.lifeTest_keeps (keeps_erases (State.flashWrite_keeps (State.flashErase_keeps (State.setF_keeps hk)))
        fun d => wf_put _ _ d.erases)
    · exact State.setF_keeps hk

theorem State.queueStore_keeps {s0 : State} {x : FlashStore} {s : State} (hk : Keeps s0 s) : Keeps s0 (State.queueStore x s) := by
  unfold State.queueStore
  dsimp only
  split
  · exact State.beginStore_keeps (keeps_mk hk ..)
  · exact keeps_mk hk ..

theorem State.storeConfig_keeps {s0 : State} {bytes : List Byte} {s : State} (hk : Keeps s0 s) : Keeps s0 (State.storeConfig bytes s) := by
  unfold State.storeConfig
  repeat' first
    | (with_reducible apply keeps_ite)
    | (with_reducible apply State.queueStore_keeps)
    | (with_reducible exact keeps_mk (by assumption) ..)

theorem State.dropStore_keeps {s0 : State} {h : ℕ} {s : State} (hk : Keeps s0 s) : Keeps s0 (State.dropStore h s) := by
  unfold State.dropStore
  repeat' first
    | (with_reducible apply State.beginStore_keeps)
    | (with_reducible exact keeps_mk (by assumption) ..)
    | split

theorem State.putHg_keeps {s0 : State} {n : Ch} {o : ℕ} {w : Word} {s : State} (hk : Keeps s0 s) : Keeps s0 (State.putHg n o w s) := by
  unfold State.putHg
  repeat' first
    | (with_reducible assumption)
    | (with_reducible apply State.modChan_keeps)
    | (with_reducible apply State.setW_keeps)

theorem State.svcTdac_keeps {s0 : State} {n : Ch} {w : Word} {s : State} (hk : Keeps s0 s) : Keeps s0 (State.svcTdac n w s) := by
  unfold State.svcTdac
  repeat' first
    | (with_reducible assumption)
    | (with_reducible apply State.breakIdle_keeps)
    | (with_reducible apply State.setW_keeps)
    | (with_reducible apply State.applyTdac_keeps)
    | (with_reducible apply State.modChan_keeps)

theorem State.svcWrite_keeps {s0 : State} {n : Ch} {o : ℕ} {w : Word} {s : State} (hk : Keeps s0 s) : Keeps s0 (State.svcWrite n o w s) := by
  unfold State.svcWrite
  repeat' first
    | (with_reducible assumption)
    | (with_reducible apply State.putShadow_keeps)

theorem State.releaseClaim_keeps {s0 : State} {n : Ch} {saved : List (ℕ × Word)} {s : State} (hk : Keeps s0 s) : Keeps s0 (State.releaseClaim n saved s) := by
  unfold State.releaseClaim
  repeat' first
    | (with_reducible assumption)
    | (with_reducible apply keeps_ite)
    | (with_reducible refine State.forAll_keeps (fun a s hs => ?_) ?_)
    | (with_reducible apply State.putHg_keeps)
    | (with_reducible apply State.svcTdac_keeps)
    | (with_reducible apply State.svcWrite_keeps)
    | (with_reducible apply State.setF_keeps)

theorem State.modCall_keeps {s0 : State} {h : ℕ} {g : Call → Call} {s : State} (hk : Keeps s0 s) : Keeps s0 (State.modCall h g s) := by
  unfold State.modCall
  repeat' first
    | (with_reducible assumption)
    | (with_reducible apply State.modIndigo_keeps)

theorem State.swapFree_keeps {s0 : State} {s : State} (hk : Keeps s0 s) : Keeps s0 (State.swapFree s) := by
  unfold State.swapFree
  repeat' first
    | (with_reducible assumption)
    | (with_reducible apply State.modIndigo_keeps)
    | split

theorem State.finishCall_keeps {s0 : State} {h : ℕ} {st : CallState} {body : List Byte} {s : State} (hk : Keeps s0 s) : Keeps s0 (State.finishCall h st body s) := by
  unfold State.finishCall
  repeat' first
    | (with_reducible assumption)
    | (with_reducible apply keeps_ite)
    | (with_reducible refine State.forAll_keeps (fun a s hs => ?_) ?_)
    | (with_reducible apply State.dropStore_keeps)
    | (with_reducible apply State.releaseClaim_keeps)
    | (with_reducible apply State.modCall_keeps)
    | (with_reducible apply State.modIndigo_keeps)
    | (with_reducible apply State.raise_keeps)
    | (with_reducible apply State.swapFree_keeps)
    | split

theorem State.abortCall_keeps {s0 : State} {h : ℕ} {s : State} (hk : Keeps s0 s) : ∀ t, State.abortCall h s = some t → Keeps s0 t := by
  intro t ht
  unfold State.abortCall at ht
  split at ht
  · split at ht
    · cases ht; exact State.finishCall_keeps (keeps_mk hk ..)
    · cases ht
  · cases ht

theorem State.liveUpdate_keeps {s0 : State} {drain : ℕ} {s : State} (hk : Keeps s0 s) : Keeps s0 (State.liveUpdate drain s).2 := by
  unfold State.liveUpdate
  repeat' first
    | (with_reducible assumption)
    | (with_reducible apply keeps_iteP)
    | (with_reducible apply State.swapFree_keeps)
    | (with_reducible apply State.modIndigo_keeps)

theorem State.writeImage_keeps {s0 : State} {img : List Byte} {s : State} (hk : Keeps s0 s) : Keeps s0 (State.writeImage img s).2 := by
  unfold State.writeImage
  repeat' first
    | (with_reducible assumption)
    | (with_reducible apply keeps_iteP)
    | (with_reducible apply State.modIndigo_keeps)
    | (with_reducible apply State.queueStore_keeps)

theorem State.odNativeWrite_keeps {s0 : State} {index : ℕ} {t : Tgt} {data : List Byte} {s : State} (hk : Keeps s0 s) :
    Keeps s0 (State.odNativeWrite index t data s).2 := by
  unfold State.odNativeWrite
  dsimp only
  split
  · split
    · exact hk
    · exact State.storeConfig_keeps hk
  · exact State.loadCal_keeps hk
  · split
    · exact State.odPut_keeps hk
    · exact hk
  · split
    · rename_i h; exact State.abortCall_keeps hk _ h
    · exact hk
  · exact State.writeImage_keeps hk
  · exact State.liveUpdate_keeps hk
  · have h := State.queueCall_keeps (id := index - 0x7100) (params := data) (auto := false) hk
    split
    · rename_i e; rw [e] at h; exact h
    · rename_i e; rw [e] at h; exact h

theorem State.odApply_keeps {s0 : State} {index : ℕ} {e : OdEntry} {t : Tgt} {data : List Byte} {s : State} (hk : Keeps s0 s) :
    Keeps s0 (State.odApply index e t data s).2 := by
  unfold State.odApply
  dsimp only
  split
  · exact State.odNativeWrite_keeps hk
  · exact State.odPutChecked_keeps hk
  · split
    · exact State.odGroup_keeps hk
    · exact State.odMember_keeps hk
  · split
    · exact State.odGroup_keeps hk
    · exact State.odMember_keeps hk
  · split
    · exact State.odGroup_keeps hk
    · exact State.odMember_keeps hk
  · exact hk

theorem State.odGuard_keeps {s0 : State} {src : OdSrc} {index : ℕ} {s : State} (hk : Keeps s0 s) : Keeps s0 (State.odGuard src index s).2 := by
  unfold State.odGuard
  repeat' first
    | (with_reducible assumption)
    | (with_reducible apply State.raise_keeps)
    | (with_reducible apply State.guard_keeps)
    | split

theorem State.odWriteNow_keeps {s0 : State} {src : OdSrc} {index sub : ℕ} {data : List Byte} {s : State} (hk : Keeps s0 s) :
    Keeps s0 (State.odWriteNow src index sub data s).2 := by
  unfold State.odWriteNow
  split
  · exact hk
  · split
    · have h := State.odGuard_keeps (src := src) (index := index) hk
      split
      · rename_i e; rw [e] at h; exact State.odApply_keeps h
      · rename_i e; rw [e] at h; exact h
    · exact State.odApply_keeps hk

theorem State.closeSession_keeps {s0 : State} {src : OdSrc} {index : BitVec 16} {sub : Byte} {s : State} (hk : Keeps s0 s) : Keeps s0 (State.closeSession src index sub s) := by
  unfold State.closeSession
  repeat' first
    | (with_reducible assumption)
    | (with_reducible apply State.modOd_keeps)

theorem State.putSession_keeps {s0 : State} {x : Session} {s : State} (hk : Keeps s0 s) : Keeps s0 (State.putSession x s) := by
  unfold State.putSession
  repeat' first
    | (with_reducible assumption)
    | (with_reducible apply State.modOd_keeps)
    | (with_reducible apply State.closeSession_keeps)

theorem State.liveSegment_keeps {s0 : State} {index : ℕ} {e : OdEntry} {t : Tgt} {off : ℕ} {s : State} (hk : Keeps s0 s) : Keeps s0 (State.liveSegment index e t off s).2 := by
  unfold State.liveSegment
  repeat' first
    | (with_reducible assumption)
    | (with_reducible apply State.histBytes_keeps)
    | (with_reducible apply State.odValue_keeps)
    | split

theorem State.segRead_keeps {s0 : State} {src : OdSrc} {index : BitVec 16} {sub : Byte} {data : List Byte} {s : State} (hk : Keeps s0 s) : Keeps s0 (State.segRead src index sub data s).2 := by
  unfold State.segRead
  repeat' first
    | (with_reducible assumption)
    | (intro x; refine keeps_cut (x := x) ?_ (fun hx => ?_))
    | (lift_lets; intro x)
    | (with_reducible apply keeps_ite)
    | (with_reducible apply State.closeSession_keeps)
    | (with_reducible apply State.putSession_keeps)
    | (with_reducible apply State.odValue_keeps)
    | (with_reducible apply State.liveSegment_keeps)
    | split

theorem State.segWrite_keeps {s0 : State} {src : OdSrc} {index : BitVec 16} {sub : Byte} {data : List Byte} {s : State} (hk : Keeps s0 s) : Keeps s0 (State.segWrite src index sub data s).2 := by
  unfold State.segWrite
  repeat' first
    | (with_reducible assumption)
    | (intro x)
    | (lift_lets; intro x)
    | (with_reducible apply keeps_ite)
    | (with_reducible apply State.closeSession_keeps)
    | (with_reducible apply State.putSession_keeps)
    | (with_reducible apply State.odWriteNow_keeps)
    | split

theorem State.txnBegin_keeps {s0 : State} {src : OdSrc} {xid : BitVec 16} {s : State} (hk : Keeps s0 s) : Keeps s0 (State.txnBegin src xid s).2 := by
  unfold State.txnBegin
  repeat' first
    | (with_reducible assumption)
    | (with_reducible apply keeps_iteP)
    | (with_reducible apply State.modOd_keeps)

theorem State.dropTxn_keeps {s0 : State} {src : OdSrc} {s : State} (hk : Keeps s0 s) : Keeps s0 (State.dropTxn src s) := by
  unfold State.dropTxn
  repeat' first
    | (with_reducible assumption)
    | (with_reducible apply State.modOd_keeps)

theorem State.applyStream_keeps {s0 : State} {ws : List StagedWrite} {s : State} (hk : Keeps s0 s) :
    ∀ t, State.applyStream ws s = some t → Keeps s0 t := by
  have hf : ∀ (c : Clock) (l : List StagedWrite) (r : Option (State × ℕ)), (∀ x, r = some x → Keeps s0 x.1) → ∀ x,
      l.foldl (fun (r : Option (State × ℕ)) w =>
        match r, odFind w.index.toNat w.sub.toNat with
        | some (s, t), .ok (e, tg) =>
          let x := ({ s with clk := c } : State).odApply w.index.toNat e tg w.data
          if x.1.1 = odBusy then none else some (x.2, max t x.2.now)
        | _, _ => r) r = some x → Keeps s0 x.1 := by
    intro c l
    induction l with
    | nil => exact fun r h x hx => h x hx
    | cons w t ih =>
      intro r h x hx
      rw [List.foldl_cons] at hx
      refine ih _ (fun y hy => ?_) x hx
      split at hy
      · dsimp only at hy
        split at hy
        · cases hy
        · cases hy
          exact State.odApply_keeps (keeps_mk (h _ rfl) ..)
      · exact h y hy
  intro t ht
  unfold State.applyStream at ht
  dsimp only at ht
  rw [Option.map_eq_some_iff] at ht
  obtain ⟨x, hx, rfl⟩ := ht
  exact keeps_mk (hf s.clk ws _ (fun y hy => by cases hy; exact hk) x hx) ..

theorem State.commitMay_keeps {s0 : State} {src : OdSrc} {ws : List StagedWrite} {s : State} (hk : Keeps s0 s) :
    Keeps s0 (State.commitMay src ws s).2 := by
  unfold State.commitMay
  dsimp only
  split
  · split
    · exact hk
    · exact State.raise_keeps hk
  · split
    · exact hk
    · exact State.guard_keeps hk

theorem State.commit_keeps {s0 : State} {x : Txn} {check : ℕ} {s : State} (hk : Keeps s0 s) : Keeps s0 (State.commit x check s).2 := by
  have h1 := State.dropTxn_keeps (src := x.src) hk
  have hg : ∀ (g : Bool × State) (ws : List StagedWrite), Keeps s0 g.2 → Keeps s0 (if !g.1 then (odFail odLocked, g.2)
      else match g.2.applyStream ws with
        | some s' => ((odOk, bytesBE 4 x.cmds.length), s')
        | none => (odBusyUnknown, g.2)).2 := by
    intro g ws h
    split
    · exact h
    · split
      · rename_i e; exact State.applyStream_keeps h _ e
      · exact h
  unfold State.commit
  dsimp only
  split
  · exact h1
  · split
    · exact h1
    · exact hg _ _ (State.commitMay_keeps h1)

theorem State.txnCommit_keeps {s0 : State} {src : OdSrc} {xid : BitVec 16} {check : ℕ} {s : State} (hk : Keeps s0 s) : Keeps s0 (State.txnCommit src xid check s).2 := by
  unfold State.txnCommit
  repeat' first
    | (with_reducible assumption)
    | (with_reducible apply State.commit_keeps)
    | split

theorem State.txnAbort_keeps {s0 : State} {src : OdSrc} {xid : BitVec 16} {s : State} (hk : Keeps s0 s) : Keeps s0 (State.txnAbort src xid s).2 := by
  unfold State.txnAbort
  repeat' first
    | (with_reducible assumption)
    | (with_reducible apply State.dropTxn_keeps)
    | split

theorem State.txn_keeps {s0 : State} {src : OdSrc} {data : List Byte} {s : State} (hk : Keeps s0 s) : Keeps s0 (State.txn src data s).2 := by
  unfold State.txn
  repeat' first
    | (with_reducible assumption)
    | (with_reducible apply State.txnBegin_keeps)
    | (with_reducible apply State.txnCommit_keeps)
    | (with_reducible apply State.txnAbort_keeps)
    | split

theorem State.odDo_keeps {s0 : State} {src : OdSrc} {c : OdCmd} {s : State} (hk : Keeps s0 s) : Keeps s0 (State.odDo src c s).2 := by
  unfold State.odDo
  repeat' first
    | (with_reducible assumption)
    | (intro x)
    | (lift_lets; intro x)
    | (with_reducible apply State.odRead_keeps)
    | (with_reducible apply State.stageCmd_keeps)
    | (with_reducible apply State.odWriteNow_keeps)
    | (with_reducible apply State.segRead_keeps)
    | (with_reducible apply State.segWrite_keeps)
    | (with_reducible apply State.txn_keeps)
    | split

theorem State.odRun_keeps {s0 : State} {src : OdSrc} {c : OdCmd} {s : State} (hk : Keeps s0 s) : Keeps s0 (State.odRun src c s).2 := by
  unfold State.odRun
  have h := State.odWaits_keeps (c := c) hk
  split
  · rename_i e; rw [e] at h; exact h
  · rename_i e; rw [e] at h; exact State.odDo_keeps h

theorem State.odCmds_keeps {s0 : State} {src : OdSrc} {b : Bool} {l : List OdCmd} {s : State} (hk : Keeps s0 s) :
    Keeps s0 (State.odCmds src b l s).2 := by
  induction l generalizing b s with
  | nil => cases b <;> exact hk
  | cons c t ih =>
    cases b
    · exact ih (State.modOd_keeps (State.odRun_keeps hk))
    · exact ih hk

theorem State.keep_keeps {s0 : State} {src : OdSrc} {tid : BitVec 16} {resp : List Byte} {s : State} (hk : Keeps s0 s) : Keeps s0 (State.keep src tid resp s) := by
  unfold State.keep
  repeat' first
    | (with_reducible assumption)
    | (with_reducible apply State.modOd_keeps)

theorem State.uldRun_keeps {s0 : State} {src : OdSrc} {q : UldReq} {answered : Bool} {s : State} (hk : Keeps s0 s) : Keeps s0 (State.uldRun src q answered s).2 := by
  unfold State.uldRun
  repeat' first
    | (with_reducible assumption)
    | (with_reducible apply State.raise_keeps)
    | (with_reducible apply State.odCmds_keeps)
    | (with_reducible apply State.keep_keeps)
    | split

theorem State.putMailbox_keeps {s0 : State} {b : List Byte} {s : State} (hk : Keeps s0 s) : Keeps s0 (State.putMailbox b s) := by
  unfold State.putMailbox
  repeat' first
    | (with_reducible assumption)
    | (with_reducible refine State.forAll_keeps (fun a s hs => ?_) ?_)
    | (with_reducible apply State.setW_keeps)

theorem State.serveMailbox_keeps {s0 : State} {s : State} (hk : Keeps s0 s) : Keeps s0 (State.serveMailbox s) := by
  unfold State.serveMailbox
  repeat' first
    | (with_reducible assumption)
    | (with_reducible apply State.modOd_keeps)
    | (with_reducible apply State.uldRun_keeps)
    | (with_reducible apply State.putMailbox_keeps)
    | (with_reducible apply State.raise_keeps)
    | (with_reducible apply State.setF_keeps)
    | split
    | (with_reducible refine keeps_mk ?_ ..)

theorem State.pathWrite_keeps {s0 : State} {p : Path} {a : ℕ} {be : BitVec 4} {w : Word} {s : State} (hk : Keeps s0 s) : Keeps s0 (State.pathWrite p a be w s).2 := by
  unfold State.pathWrite
  repeat' first
    | (with_reducible assumption)
    | (with_reducible apply State.writeReg_keeps)
    | (with_reducible apply State.serveMailbox_keeps)

theorem State.regWrites_keeps {s0 : State} {be : BitVec 4} {step a : ℕ} {l : List Word} {d : RegDone} {s : State} (hk : Keeps s0 s) :
    Keeps s0 (State.regWrites be step l a d s).2 := by
  induction l generalizing a d s with
  | nil => exact hk
  | cons w t ih =>
    rw [State.regWrites]
    have h := State.pathWrite_keeps (p := .host) (a := a) (be := be) (w := w) hk
    split
    · rename_i e; rw [e] at h; exact ih h
    · rename_i e; rw [e] at h; exact h

theorem State.readCalVd_keeps {s0 : State} {s : State} (hk : Keeps s0 s) : Keeps s0 (State.readCalVd s).2 := by
  unfold State.readCalVd
  repeat' first
    | (with_reducible assumption)
    | (with_reducible apply keeps_iteP)
    | (with_reducible apply State.vaStep_keeps)
    | (with_reducible apply State.raise_keeps)

theorem State.mpRead_keeps {s0 : State} {s : State} (hk : Keeps s0 s) : Keeps s0 (State.mpRead s).2 := by
  unfold State.mpRead
  repeat' first
    | (with_reducible assumption)
    | (with_reducible apply keeps_ite)
    | (with_reducible apply keeps_iteP)
    | (with_reducible apply State.mpStep_keeps)
    | (with_reducible apply State.raise_keeps)
    | (with_reducible apply State.countVat_keeps)
    | (with_reducible apply State.readLakeAt_keeps)

theorem State.readDev_keeps {s0 : State} {p : Path} {a : ℕ} {r : RegRow} {s : State} (hk : Keeps s0 s) : Keeps s0 (State.readDev p a r s).2 := by
  unfold State.readDev
  repeat' first
    | (with_reducible assumption)
    | (with_reducible apply keeps_iteP)
    | (with_reducible apply State.readCalVd_keeps)
    | (with_reducible apply State.mpRead_keeps)

end Sys2Proof.Machine
end

