-- ==== Sys2Proof/Laws/Keeps3.lean ====
section
/-!
SUPPORT. What the operations keep, part 3 of 4: one lemma for each operation on State (the queue of
waiting commands and the fuses stand, canonical stores stay canonical), callees before callers.
-/

namespace Sys2Proof.Machine

theorem State.readOwn_keeps {s0 : State} {p : Path} {l : Loc} {a : ℕ} {r : RegRow} {s : State} (hk : Keeps s0 s) : Keeps s0 (State.readOwn p l a r s).2 := by
  unfold State.readOwn
  repeat' first
    | (with_reducible assumption)
    | (with_reducible apply State.readDev_keeps)
    | split

theorem State.readAt_keeps {s0 : State} {p : Path} {a : ℕ} {be : BitVec 4} {s : State} (hk : Keeps s0 s) : Keeps s0 (State.readAt p a be s).2.2 := by
  unfold State.readAt
  repeat' first
    | (with_reducible assumption)
    | (lift_lets; intro x)
    | (with_reducible apply State.accFault_keeps)
    | (with_reducible apply State.readOwn_keeps)
    | split

theorem State.readReg_keeps {s0 : State} {p : Path} {a : ℕ} {be : BitVec 4} {s : State} (hk : Keeps s0 s) : Keeps s0 (State.readReg p a be s).2.2 := by
  unfold State.readReg
  repeat' first
    | (with_reducible assumption)
    | (with_reducible apply State.accFault_keeps)
    | (with_reducible apply State.readAt_keeps)
    | (with_reducible apply State.stepIa_keeps)
    | (with_reducible apply State.modPath_keeps)
    | (rename_i heq; have hx := congrArg (fun x => x.2.2) heq; dsimp only at hx; subst hx)
    | split

theorem State.pathRead_keeps {s0 : State} {p : Path} {a : ℕ} {be : BitVec 4} {s : State} (hk : Keeps s0 s) : Keeps s0 (State.pathRead p a be s).2.2 := by
  unfold State.pathRead
  repeat' first
    | (with_reducible assumption)
    | (with_reducible apply State.readReg_keeps)

theorem State.regReads_keeps {s0 : State} {be : BitVec 4} {step n a : ℕ} {d : RegDone} {s : State} (hk : Keeps s0 s) :
    Keeps s0 (State.regReads be step n a d s).2 := by
  induction n generalizing a d s with
  | zero => exact hk
  | succ n ih =>
    rw [State.regReads]
    have h := State.pathRead_keeps (p := .host) (a := a) (be := be) hk
    split
    · rename_i e; rw [e] at h; exact ih h
    · rename_i e; rw [e] at h; exact h

theorem State.answerBadOps_keeps {s0 : State} {n : ℕ} {s : State} (hk : Keeps s0 s) : Keeps s0 (State.answerBadOps n s) := by
  induction n generalizing s with
  | zero => exact hk
  | succ n ih =>
    rw [State.answerBadOps]
    split
    · exact ih (State.send_keeps (State.takeContent_keeps hk))
    · exact hk

theorem State.refuseBadOps_keeps {s0 : State} {s : State} (hk : Keeps s0 s) : Keeps s0 (State.refuseBadOps s) := by
  unfold State.refuseBadOps
  repeat' first
    | (with_reducible assumption)
    | (with_reducible apply State.answerBadOps_keeps)

theorem State.regServe_keeps {s0 : State} {m : RegMsg} {s : State} (hk : Keeps s0 s) : Keeps s0 (State.regServe m s) := by
  unfold State.regServe
  repeat' first
    | (with_reducible assumption)
    | (with_reducible apply keeps_ite)
    | (with_reducible apply keeps_iteP)
    | (with_reducible apply State.takeContent_keeps)
    | (with_reducible apply State.accFault_keeps)
    | (with_reducible apply State.regWrites_keeps)
    | (with_reducible apply State.regReads_keeps)
    | (with_reducible apply State.refuseBadOps_keeps)
    | (with_reducible apply State.send_keeps)

theorem State.limitVerdict_keeps {s0 : State} {n : Ch} {g : GateRec} {q : GateSet} {f : Flags0} {s : State} (hk : Keeps s0 s) : Keeps s0 (State.limitVerdict n g q f s) := by
  unfold State.limitVerdict
  repeat' first
    | (with_reducible assumption)
    | (with_reducible apply keeps_ite)
    | (with_reducible apply State.send_keeps)
    | (with_reducible apply State.count_keeps)

theorem State.markSpare_keeps {s0 : State} {n : Ch} {s : State} (hk : Keeps s0 s) : Keeps s0 (State.markSpare n s) := by
  unfold State.markSpare
  repeat' first
    | (lift_lets; intro x; refine keeps_cut (x := x) ?_ (fun hx => ?_))
    | (with_reducible apply State.modChan_keeps)
    | (with_reducible exact keeps_mk (by assumption) ..)

theorem State.calDone_keeps {s0 : State} {f : FrontEnd} {s : State} (hk : Keeps s0 s) : Keeps s0 (State.calDone f s) := by
  unfold State.calDone
  repeat' first
    | (with_reducible assumption)
    | (with_reducible apply keeps_ite)
    | (with_reducible apply State.setFe_keeps)
    | (with_reducible apply State.setPhase_keeps)
    | (with_reducible apply State.count_keeps)
    | (with_reducible apply State.setF_keeps)

theorem State.moveStream_keeps {s0 : State} {p : Spare} {s : State} (hk : Keeps s0 s) : Keeps s0 (State.moveStream p s) := by
  unfold State.moveStream
  repeat' first
    | (with_reducible assumption)
    | (intro x; refine keeps_cut (x := x) ?_ (fun hx => ?_))
    | (intro x; clear_value x)
    | (lift_lets; intro x; clear_value x)
    | (with_reducible apply State.setSpare_keeps)
    | (with_reducible apply State.markSpare_keeps)
    | (with_reducible apply State.setF_keeps)
    | (with_reducible apply State.raise_keeps)
    | (with_reducible apply State.raiseSpare_keeps)
    | (with_reducible apply State.spareEnds_keeps)
    | (with_reducible apply State.calDone_keeps)
    | (with_reducible apply State.startHandover_keeps)
    | split

theorem State.handoverForce_keeps {s0 : State} {p : Spare} {s : State} (hk : Keeps s0 s) : Keeps s0 (State.handoverForce p s) := by
  unfold State.handoverForce
  repeat' first
    | (with_reducible assumption)
    | (with_reducible apply keeps_ite)
    | (with_reducible apply State.reach_keeps)
    | (with_reducible apply State.startBlind_keeps)
    | (with_reducible apply State.raise_keeps)
    | (with_reducible apply State.moveStream_keeps)

theorem State.mdReject_keeps {s0 : State} {n : Ch} {f : Fld} {s : State} (hk : Keeps s0 s) : Keeps s0 (State.mdReject n f s) := by
  unfold State.mdReject
  repeat' first
    | (with_reducible assumption)
    | (with_reducible apply State.raise_keeps)
    | (with_reducible apply State.count_keeps)

theorem State.ethStart_keeps {s0 : State} {s : State} (hk : Keeps s0 s) : Keeps s0 (State.ethStart s) := by
  unfold State.ethStart
  repeat' first
    | (with_reducible apply keeps_ite)
    | (with_reducible apply State.setF_keeps)
    | (with_reducible exact keeps_mk (by assumption) ..)

theorem State.finishUnits_keeps {s0 : State} {n : Ch} {s : State} (hk : Keeps s0 s) : Keeps s0 (State.finishUnits n s) := by
  unfold State.finishUnits
  repeat' first
    | (with_reducible assumption)
    | (with_reducible apply keeps_ite)
    | (with_reducible refine State.forAll_keeps (fun a s hs => ?_) ?_)
    | (with_reducible apply State.endUnit_keeps)
    | (with_reducible apply State.checkClosed_keeps)

theorem State.sendEntry_keeps {s0 : State} {e : Entry} {s : State} (hk : Keeps s0 s) : Keeps s0 (State.sendEntry e s) := by
  unfold State.sendEntry
  repeat' first
    | (with_reducible assumption)
    | (with_reducible apply State.send_keeps)

theorem State.valueSource_keeps {s0 : State} {n : Ch} {scope : ℕ} {v : BitVec 64} {t : ℤ} {s : State} (hk : Keeps s0 s) : Keeps s0 (State.valueSource n scope v t s) := by
  unfold State.valueSource
  repeat' first
    | (with_reducible assumption)
    | (with_reducible apply keeps_ite)
    | (with_reducible refine State.forAll_keeps (fun a s hs => ?_) ?_)
    | (with_reducible apply State.source_keeps)

theorem State.histMeas_keeps {s0 : State} {n : Ch} {fn : ℕ} {m : Meas} {s : State} (hk : Keeps s0 s) : Keeps s0 (State.histMeas n fn m s) := by
  unfold State.histMeas
  repeat' first
    | (with_reducible assumption)
    | (with_reducible apply keeps_ite)
    | (with_reducible apply State.histUpdate_keeps)

theorem State.ltTake_keeps {s0 : State} {n : Ch} {p : PhaseIn} {s : State} (hk : Keeps s0 s) : Keeps s0 (State.ltTake n p s) := by
  unfold State.ltTake
  repeat' first
    | (with_reducible exact keeps_mk (by assumption) ..)

theorem State.adevAfter_keeps {s0 : State} {n : Ch} {g : GateRec} {sets : List GateSet} {f : Flags0} {sums : List (ℚ × ℕ)} {s : State} (hk : Keeps s0 s) : Keeps s0 (State.adevAfter n g sets f sums s) := by
  unfold State.adevAfter
  repeat' first
    | (with_reducible assumption)
    | (with_reducible refine State.forAll_keeps (fun a s hs => ?_) ?_)
    | (with_reducible apply State.modChan_keeps)
    | (with_reducible apply State.sendEntry_keeps)
    | split

theorem State.redOut_keeps {s0 : State} {n : Ch} {g : GateRec} {o : RedOut} {s : State} (hk : Keeps s0 s) : Keeps s0 (State.redOut n g o s) := by
  unfold State.redOut
  repeat' first
    | (with_reducible assumption)
    | (with_reducible apply keeps_ite)
    | (with_reducible refine State.forAll_keeps (fun a s hs => ?_) ?_)
    | (with_reducible apply State.sendEntry_keeps)
    | (with_reducible apply State.valueSource_keeps)
    | (with_reducible apply State.histMeas_keeps)
    | (with_reducible apply State.raise_keeps)
    | (with_reducible apply State.count_keeps)
    | (with_reducible apply State.ltTake_keeps)
    | (with_reducible apply State.adevAfter_keeps)
    | (with_reducible apply State.limitVerdict_keeps)
    | (with_reducible apply State.ovfRun_keeps)
    | split

theorem State.drive_keeps {s0 : State} {n : Ch} {s : State} (hk : Keeps s0 s) : Keeps s0 (State.drive n s) := by
  unfold State.drive
  repeat' first
    | (with_reducible assumption)
    | (with_reducible refine State.forAll_keeps (fun a s hs => ?_) ?_)
    | (with_reducible apply State.setChan_keeps)
    | (with_reducible apply State.redOut_keeps)

theorem State.driveAll_keeps {s0 : State} {n : Ch} {owners : List Ch} {s : State} (hk : Keeps s0 s) : Keeps s0 (State.driveAll n owners s) := by
  unfold State.driveAll
  repeat' first
    | (with_reducible assumption)
    | (with_reducible refine State.forAll_keeps (fun a s hs => ?_) ?_)
    | (with_reducible apply State.drive_keeps)

theorem State.edgeSource_keeps {s0 : State} {n : Ch} {t16 : ℤ} {rising : Bool} {s : State} (hk : Keeps s0 s) : Keeps s0 (State.edgeSource n t16 rising s) := by
  unfold State.edgeSource
  repeat' first
    | (with_reducible assumption)
    | (with_reducible apply keeps_ite)
    | (with_reducible refine State.forAll_keeps (fun a s hs => ?_) ?_)
    | (with_reducible apply State.source_keeps)
    | (with_reducible apply State.modTu_keeps)

theorem State.feedMordant_keeps {s0 : State} {n : Ch} {i : MIn} {s : State} (hk : Keeps s0 s) : Keeps s0 (State.feedMordant n i s) := by
  unfold State.feedMordant
  repeat' first
    | (with_reducible assumption)
    | (with_reducible apply keeps_ite)
    | (with_reducible apply State.modChan_keeps)

theorem State.feed_keeps {s0 : State} {n : Ch} {i : SItem} {s : State} (hk : Keeps s0 s) : Keeps s0 (State.feed n i s) := by
  unfold State.feed
  repeat' first
    | (with_reducible assumption)
    | (with_reducible refine State.forAll_keeps (fun a s hs => ?_) ?_)
    | (with_reducible apply State.modChan_keeps)

theorem State.readEntry_keeps {s0 : State} {n : Ch} {e : FEntry} {s : State} (hk : Keeps s0 s) : Keeps s0 (State.readEntry n e s) := by
  unfold State.readEntry
  repeat' first
    | (with_reducible assumption)
    | (with_reducible apply keeps_ite)
    | (with_reducible apply State.modChan_keeps)
    | (with_reducible apply State.toVat_keeps)
    | (with_reducible apply State.edgeSource_keeps)
    | (with_reducible apply State.feedMordant_keeps)
    | (with_reducible apply State.feed_keeps)
    | (with_reducible apply State.vatMarker_keeps)
    | (with_reducible apply State.count_keeps)
    | split

theorem State.putRing_keeps {s0 : State} {base size pos : ℕ} {l : List Word} {s : State} (hk : Keeps s0 s) :
    Keeps s0 (State.putRing base size pos l s) := by
  induction l generalizing pos s with
  | nil => exact hk
  | cons w t ih => exact ih (State.putVat_keeps hk)

theorem State.unitItem_keeps {s0 : State} {u : Unit16} {n : Ch} {it : VItem} {s : State} (hk : Keeps s0 s) : Keeps s0 (State.unitItem u n it s) := by
  unfold State.unitItem
  repeat' first
    | (with_reducible assumption)
    | (intro x)
    | (lift_lets; intro x)
    | (with_reducible apply keeps_ite)
    | (with_reducible apply State.setTu_keeps)
    | (with_reducible apply State.putRing_keeps)
    | (with_reducible apply State.checkClosed_keeps)
    | (with_reducible apply State.ovfRun_keeps)
    | split

theorem State.blockItem_keeps {s0 : State} {p : Fin 32} {n : Ch} {it : VItem} {s : State} (hk : Keeps s0 s) : Keeps s0 (State.blockItem p n it s) := by
  unfold State.blockItem
  repeat' first
    | (intro x; refine keeps_cut (x := x) ?_ (fun hx => ?_))
    | (lift_lets; intro x)
    | (with_reducible apply keeps_ite)
    | (with_reducible apply State.closeBlock_keeps)
    | (with_reducible apply State.putRing_keeps)
    | (with_reducible exact keeps_mk (by assumption) ..)

theorem State.writeItem_keeps {s0 : State} {n : Ch} {it : VItem} {s : State} (hk : Keeps s0 s) : Keeps s0 (State.writeItem n it s) := by
  unfold State.writeItem
  repeat' first
    | (with_reducible assumption)
    | (lift_lets; intro x; refine keeps_cut (x := x) ?_ (fun hx => ?_))
    | (with_reducible refine State.forAll_keeps (fun a s hs => ?_) ?_)
    | (with_reducible apply State.unitItem_keeps)
    | (with_reducible apply State.blockItem_keeps)
    | split

theorem State.passEntry_keeps {s0 : State} {n : Ch} {e : FEntry} {s : State} (hk : Keeps s0 s) : Keeps s0 (State.passEntry n e s) := by
  unfold State.passEntry
  repeat' first
    | (with_reducible assumption)
    | (with_reducible refine State.forAll_keeps (fun a s hs => ?_) ?_)
    | (with_reducible apply State.finishUnits_keeps)
    | (with_reducible apply State.driveAll_keeps)
    | (with_reducible apply State.readEntry_keeps)
    | (with_reducible apply State.writeItem_keeps)

theorem State.passFront_keeps {s0 : State} {n : Ch} {s : State} (hk : Keeps s0 s) : Keeps s0 (State.passFront n s) := by
  unfold State.passFront
  extract_lets c
  split
  · exact hk
  · extract_lets k
    exact keeps_ite hk (State.passEntry_keeps (State.setChan_keeps hk))

theorem State.passUpTo_keeps {s0 : State} {n : Ch} {k : ℕ} {s : State} (hk : Keeps s0 s) : Keeps s0 (State.passUpTo n k s) := by
  induction k generalizing s with
  | zero => exact hk
  | succ k ih => rw [State.passUpTo]; exact ih (State.passFront_keeps hk)

theorem State.released_keeps {s0 : State} {i : TxItem} {s : State} (hk : Keeps s0 s) : Keeps s0 (State.released i s) := by
  unfold State.released
  repeat' first
    | (with_reducible apply State.setNext_keeps)
    | (with_reducible apply State.freeRecord_keeps)
    | (with_reducible exact keeps_mk (by assumption) ..)
    | split

theorem State.tryEndBlind_keeps {s0 : State} {n : Ch} {s : State} (hk : Keeps s0 s) : Keeps s0 (State.tryEndBlind n s) := by
  unfold State.tryEndBlind
  repeat' first
    | (with_reducible assumption)
    | (lift_lets; intro x)
    | (with_reducible apply State.writeBlind_keeps)
    | split

theorem State.crowdDrop_keeps {s0 : State} {n : Ch} {raw : ℕ} {cap : Cap} {ownEntry : Bool} {rising : Bool} {s : State} (hk : Keeps s0 s) : Keeps s0 (State.crowdDrop n raw cap ownEntry rising s) := by
  unfold State.crowdDrop
  repeat' first
    | (with_reducible assumption)
    | (with_reducible apply State.modChan_keeps)
    | (with_reducible apply State.raise_keeps)
    | (with_reducible apply State.count_keeps)

theorem State.writeEdge_keeps {s0 : State} {n : Ch} {raw : ℕ} {cap : Cap} {s : State} (hk : Keeps s0 s) : Keeps s0 (State.writeEdge n raw cap s) := by
  unfold State.writeEdge
  repeat' first
    | (with_reducible assumption)
    | (with_reducible apply keeps_ite)
    | (with_reducible apply State.count_keeps)
    | (with_reducible apply State.setChan_keeps)
    | (with_reducible apply State.setF_keeps)
    | (with_reducible apply State.raise_keeps)
    | (with_reducible apply State.startBlind_keeps)

theorem State.qualify.pass_keeps {s0 : State} {n : Ch} {raw : ℕ} {cap : Cap} {s : State} (hk : Keeps s0 s) : Keeps s0 (State.qualify.pass n raw cap s) := by
  unfold State.qualify.pass
  repeat' first
    | (with_reducible assumption)
    | (with_reducible apply keeps_ite)
    | (with_reducible apply State.modChan_keeps)
    | (with_reducible apply State.writeEdge_keeps)

theorem State.qualify_keeps {s0 : State} {n : Ch} {raw : ℕ} {cap : Cap} {s : State} (hk : Keeps s0 s) : Keeps s0 (State.qualify n raw cap s) := by
  unfold State.qualify
  repeat' first
    | (with_reducible assumption)
    | (lift_lets; intro x)
    | (with_reducible apply State.crowdDrop_keeps)
    | (with_reducible apply State.qualify.pass_keeps)
    | (with_reducible apply State.setChan_keeps)
    | split

theorem State.capture_keeps {s0 : State} {n : Ch} {pinRising : Bool} {taps : BitVec 256} {s : State} (hk : Keeps s0 s) : Keeps s0 (State.capture n pinRising taps s) := by
  unfold State.capture
  repeat' first
    | (with_reducible assumption)
    | (intro x)
    | (lift_lets; intro x)
    | (with_reducible apply State.modChan_keeps)
    | (with_reducible apply State.qualify_keeps)
    | split

theorem State.noChannel_keeps {s0 : State} {s : State} (hk : Keeps s0 s) : Keeps s0 (State.noChannel s) := by
  unfold State.noChannel
  repeat' first
    | (with_reducible assumption)
    | (with_reducible apply State.raise_keeps)
    | (with_reducible apply State.count_keeps)

theorem State.control_keeps {s0 : State} {ch : BitVec 8} {gen : BitVec 4} {act : Ch → State → State} {s : State}
    (ha : ∀ n s, Keeps s0 s → Keeps s0 (act n s)) (hk : Keeps s0 s) : Keeps s0 (State.control ch gen act s) := by
  have h := State.takeContent_keeps (l := .pattern) (c := .msg) (n := 16) hk
  unfold State.control
  split
  · extract_lets n
    split
    · exact State.raise_keeps h
    · split
      · exact State.raise_keeps h
      · exact keeps_ite hk (ha _ _ h)
  · exact State.noChannel_keeps h

theorem State.sealMsg_keeps {s0 : State} {ch : BitVec 8} {seq : BitVec 24} {elem : BitVec 16} {gen : BitVec 4} {s : State}
    (hk : Keeps s0 s) : Keeps s0 (State.sealMsg ch seq elem gen s) :=
  State.control_keeps (fun _ _ h => State.mordSet_keeps h) hk

theorem State.svcMaxTime_keeps {s0 : State} {h : ℕ} {s : State} (hk : Keeps s0 s) : Keeps s0 (State.svcMaxTime h s) := by
  unfold State.svcMaxTime
  repeat' first
    | (with_reducible assumption)
    | (with_reducible apply State.finishCall_keeps)
    | (with_reducible apply State.reach_keeps)
    | split

theorem State.trimSide_keeps {s0 : State} {f : FrontEnd} {sd : Side} {ns : List ℕ} {s : State} (hk : Keeps s0 s) : Keeps s0 (State.trimSide f sd ns s) := by
  unfold State.trimSide
  repeat' first
    | (with_reducible assumption)
    | (with_reducible apply keeps_ite)
    | (with_reducible apply State.setCalList_keeps)
    | (with_reducible apply State.raise_keeps)

theorem State.sideDone_keeps {s0 : State} {f : FrontEnd} {sd : Side} {s : State} (hk : Keeps s0 s) : Keeps s0 (State.sideDone f sd s) := by
  unfold State.sideDone
  repeat' first
    | (with_reducible assumption)
    | (with_reducible apply State.modFe_keeps)

theorem State.bootCollect_keeps {s0 : State} {f : FrontEnd} {sd : Side} {n : ℕ} {a b : Bool} {l : List (List ℕ)} {s : State}
    (hk : Keeps s0 s) : ∀ t, State.bootCollect f sd n a b l s = some t → Keeps s0 t := by
  induction l generalizing n a b s with
  | nil => intro t ht; cases ht
  | cons ns rest ih =>
    intro t ht
    rw [State.bootCollect] at ht
    dsimp only at ht
    split at ht
    · split at ht
      · exact ih hk t ht
      · split at ht
        · cases ht
        · exact ih hk t ht
    · split at ht
      · exact ih hk t ht
      · split at ht
        · split at ht
          · cases ht
          · exact ih hk t ht
        · split at ht
          · exact ih (State.trimSide_keeps hk) t ht
          · cases ht; exact State.sideDone_keeps (State.tableSide_keeps hk)

theorem State.rowCounts_keeps {s0 : State} {s : State} (hk : Keeps s0 s) : Keeps s0 (State.rowCounts s) := by
  unfold State.rowCounts
  repeat' first
    | (with_reducible assumption)
    | (with_reducible apply State.setF_keeps)

theorem State.showWear_keeps {s0 : State} {s : State} (hk : Keeps s0 s) : Keeps s0 (State.showWear s) := by
  unfold State.showWear
  repeat' first
    | (with_reducible assumption)
    | (with_reducible apply State.setPair_keeps)
    | (with_reducible apply State.lifeTest_keeps)
    | (with_reducible apply State.setW_keeps)

theorem rowsByMacro_wf (rows : List (ℕ × ℕ)) : Memory.wf (fun _ => 0) (rowsByMacro rows) = true := by
  have h : ∀ (l : List (ℕ × ℕ)) (m : Sparse ℕ), Memory.wf (fun _ => 0) m = true →
      Memory.wf (fun _ => 0) (l.foldl (fun m r => sparsePut (fun _ => 0) m r.1 (sparseGet (fun _ => 0) m r.1 + 1)) m) = true := by
    intro l
    induction l with
    | nil => exact fun _ h => h
    | cons a t ih => exact fun m h => ih _ (wf_put _ _ h)
  exact h rows [] (wf_nil _)

theorem State.wearLoad_keeps {s0 : State} {s : State} (hk : Keeps s0 s) : Keeps s0 (State.wearLoad s) := by
  unfold State.wearLoad
  split
  · exact hk
  · dsimp only
    exact State.showWear_keeps (State.rowCounts_keeps (State.spCount_keeps
      (State.forAll_keeps (fun a s hs => State.setF_keeps (State.setTv_keeps hs))
        (keeps_mk (keeps_rows (keeps_erases hk fun d => d.wear) fun _ => rowsByMacro_wf _) ..))))

theorem State.returnCredit_keeps {s0 : State} {n : Ch} {s : State} (hk : Keeps s0 s) : Keeps s0 (State.returnCredit n s) := by
  unfold State.returnCredit
  repeat' first
    | (with_reducible assumption)
    | (with_reducible apply State.mordOut_keeps)

theorem State.abortRunning_keeps {s0 : State} {s : State} (hk : Keeps s0 s) : Keeps s0 (State.abortRunning s) := by
  unfold State.abortRunning
  repeat' first
    | (with_reducible assumption)
    | (with_reducible refine State.forAll_keeps (fun a s hs => ?_) ?_)
    | (with_reducible apply State.finishCall_keeps)

theorem State.linkAdmit_keeps {s0 : State} {l : Link} {s : State} (hk : Keeps s0 s) : Keeps s0 (State.linkAdmit l s) := by
  unfold State.linkAdmit
  repeat' first
    | (with_reducible assumption)
    | (with_reducible apply keeps_ite)
    | (with_reducible apply State.goLnk_keeps)
    | (with_reducible apply State.setLnk_keeps)

theorem State.runSlot_keeps {s0 : State} {slot : ℕ} {s : State} (hk : Keeps s0 s) : Keeps s0 (State.runSlot slot s) := by
  unfold State.runSlot
  repeat' first
    | (with_reducible assumption)
    | (with_reducible apply State.setF_keeps)

theorem State.restart_keeps {s0 : State} {core : Option (Fin 8)} {s : State} (hk : Keeps s0 s) : Keeps s0 (State.restart core s) := by
  unfold State.restart
  repeat' first
    | (with_reducible assumption)
    | (with_reducible apply keeps_ite)
    | (with_reducible apply State.modIndigo_keeps)
    | (with_reducible apply State.raise_keeps)
    | (with_reducible apply State.abortRunning_keeps)
    | (with_reducible apply State.runSlot_keeps)

theorem State.stopTimeout_keeps {s0 : State} {core : Fin 8} {s : State} (hk : Keeps s0 s) : Keeps s0 (State.stopTimeout core s) := by
  unfold State.stopTimeout
  repeat' first
    | (with_reducible assumption)
    | (with_reducible apply keeps_ite)
    | (with_reducible apply State.restart_keeps)

theorem State.stepApply_keeps {s0 : State} {d : Dom} {s : State} (hk : Keeps s0 s) : Keeps s0 (State.stepApply d s) := by
  unfold State.stepApply
  repeat' first
    | (with_reducible assumption)
    | (with_reducible apply State.reach_keeps)
    | (with_reducible apply State.installMap_keeps)
    | (with_reducible apply State.resume_keeps)
    | (with_reducible apply State.modDom_keeps)
    | (with_reducible apply State.setPend_keeps)
    | (with_reducible apply State.raiseDm_keeps)
    | split

theorem State.pinSample_keeps {s0 : State} {pos : ℕ} {s : State} (hk : Keeps s0 s) : Keeps s0 (State.pinSample pos s).2 := by
  unfold State.pinSample
  repeat' first
    | (with_reducible assumption)
    | (with_reducible apply keeps_iteP)
    | (with_reducible apply State.fresh_keeps)

theorem State.trigIn_keeps {s0 : State} {pin : Fin 4} {rising : Bool} {pos : ℕ} {after : ℕ} {s : State} (hk : Keeps s0 s) : Keeps s0 (State.trigIn pin rising pos after s) := by
  unfold State.trigIn
  repeat' first
    | (with_reducible apply keeps_ite)
    | (with_reducible refine State.forAll_keeps (fun a s hs => ?_) ?_)
    | (with_reducible apply State.pinSample_keeps)
    | (with_reducible apply State.source_keeps)
    | (with_reducible exact keeps_mk (by assumption) ..)

theorem State.spareCopied_keeps {s0 : State} {p : Spare} {s : State} (hk : Keeps s0 s) : Keeps s0 (State.spareCopied p s) := by
  unfold State.spareCopied
  split
  · dsimp only
    exact State.spCount_keeps (State.setF_keeps (keeps_lake hk fun d => wf_foldPut _ _ _ (wf_filter _ d.lake)))
  · exact hk

theorem State.lcpBegin_keeps {s0 : State} {s : State} (hk : Keeps s0 s) : Keeps s0 (State.lcpBegin s).2 := by
  unfold State.lcpBegin
  repeat' first
    | (with_reducible exact keeps_mk (by assumption) ..)

theorem State.lcpReads_keeps {s0 : State} {step n a : ℕ} {s : State} (hk : Keeps s0 s) : Keeps s0 (State.lcpReads step n a s).2 := by
  induction n generalizing a s with
  | zero => exact hk
  | succ n ih =>
    rw [State.lcpReads]
    have h := State.pathRead_keeps (p := .lcp) (a := a) (be := 0xF#4) hk
    split
    · rename_i e; rw [e] at h; exact ih h
    · rename_i e; rw [e] at h; exact keeps_mk h ..

theorem State.lcpRead_keeps {s0 : State} {step : ℕ} {a : ℕ} {n : ℕ} {s : State} (hk : Keeps s0 s) : Keeps s0 (State.lcpRead step a n s) := by
  unfold State.lcpRead
  repeat' first
    | (with_reducible assumption)
    | (with_reducible apply keeps_ite)
    | (with_reducible apply State.lcpBegin_keeps)
    | (with_reducible apply State.lcpReads_keeps)
    | (with_reducible refine keeps_mk ?_ ..)

theorem State.paceUpdate_keeps {s0 : State} {rings : List (List ℕ)} {s : State} (hk : Keeps s0 s) : Keeps s0 (State.paceUpdate rings s) := by
  unfold State.paceUpdate
  repeat' first
    | (with_reducible assumption)
    | (with_reducible apply keeps_ite)
    | (with_reducible apply State.setF_keeps)
    | (with_reducible apply State.raise_keeps)

theorem State.sessionTimeout_keeps {s0 : State} {k : ℕ} {s : State} (hk : Keeps s0 s) : Keeps s0 (State.sessionTimeout k s) := by
  unfold State.sessionTimeout
  repeat' first
    | (with_reducible assumption)
    | (with_reducible apply State.modOd_keeps)
    | (with_reducible apply State.reach_keeps)
    | split

theorem State.discardRest_keeps {s0 : State} {s : State} (hk : Keeps s0 s) : Keeps s0 (State.discardRest s) := by
  unfold State.discardRest
  repeat' first
    | (with_reducible assumption)
    | (intro x; refine keeps_cut (x := x) ?_ (fun hx => ?_))
    | (lift_lets; intro x)
    | (with_reducible apply State.takeContent_keeps)
    | split

theorem State.unknownMsg_keeps {s0 : State} {w0 : BitVec 64} {s : State} (hk : Keeps s0 s) : Keeps s0 (State.unknownMsg w0 s) := by
  unfold State.unknownMsg
  repeat' first
    | (with_reducible assumption)
    | (lift_lets; intro x; refine keeps_cut (x := x) ?_ (fun hx => ?_))
    | (with_reducible apply State.discardRest_keeps)
    | (with_reducible apply State.mdReject_keeps)
    | (with_reducible apply State.noChannel_keeps)
    | split

theorem State.emit_keeps {s0 : State} {l : Link} {ftype : ℕ} {seq : ℕ} {nak : Bool} {rsnd : Bool} {payload : List Byte} {s : State} (hk : Keeps s0 s) : Keeps s0 (State.emit l ftype seq nak rsnd payload s) := by
  unfold State.emit
  repeat' first
    | (with_reducible assumption)
    | (with_reducible apply State.setLink_keeps)

theorem State.sendCtrl_keeps {s0 : State} {l : Link} {s : State} (hk : Keeps s0 s) : Keeps s0 (State.sendCtrl l s) := by
  unfold State.sendCtrl
  repeat' first
    | (with_reducible assumption)
    | (with_reducible apply State.modLink_keeps)
    | (with_reducible apply State.emit_keeps)

theorem State.ackInterval_keeps {s0 : State} {l : Link} {s : State} (hk : Keeps s0 s) : Keeps s0 (State.ackInterval l s) := by
  unfold State.ackInterval
  repeat' first
    | (with_reducible assumption)
    | (with_reducible apply State.sendCtrl_keeps)
    | (with_reducible apply State.reach_keeps)
    | split

theorem State.dropLane_keeps {s0 : State} {l : Link} {k : Lane} {s : State} (hk : Keeps s0 s) : Keeps s0 (State.dropLane l k s) := by
  unfold State.dropLane
  repeat' first
    | (with_reducible assumption)
    | (with_reducible apply keeps_ite)
    | (with_reducible apply State.raiseLnk_keeps)
    | (with_reducible apply State.countSat_keeps)
    | (with_reducible apply State.modLink_keeps)
    | (with_reducible apply State.setLnk_keeps)

theorem State.pdelayDone_keeps {s0 : State} {p : Port} {seq : BitVec 16} {delay : ℕ} {s : State} (hk : Keeps s0 s) : Keeps s0 (State.pdelayDone p seq delay s) := by
  unfold State.pdelayDone
  repeat' first
    | (with_reducible assumption)
    | (lift_lets; intro x)
    | (with_reducible refine State.forAll_keeps (fun a s hs => ?_) ?_)
    | (with_reducible apply State.setW_keeps)
    | (with_reducible apply State.setPort_keeps)
    | (with_reducible apply State.checkEnd_keeps)
    | split

theorem State.storeDone_keeps {s0 : State} {ok : Bool} {s : State} (hk : Keeps s0 s) : Keeps s0 (State.storeDone ok s) := by
  unfold State.storeDone
  split
  · exact hk
  · extract_lets ok1 s1 s2
    have h1 : Keeps s0 s1 := by
      show Keeps s0 (if _ then _ else _)
      split
      · exact State.flashWrite_keeps hk
      · exact State.raise_keeps hk
    have h2 : Keeps s0 s2 := by
      dsimp only [s2]
      split
      · split
        · exact keeps_mk h1 ..
        · exact State.raise_keeps (keeps_mk h1 ..)
      · split
        · exact State.modIndigo_keeps h1
        · exact State.raise_keeps h1
      · split
        · split
          · exact h1
          · split
            · exact State.finishCall_keeps h1
            · exact State.finishCall_keeps h1
        · exact h1
    exact State.beginStore_keeps (keeps_mk h2 ..)

theorem State.liveDrain_keeps {s0 : State} {s : State} (hk : Keeps s0 s) : Keeps s0 (State.liveDrain s) := by
  unfold State.liveDrain
  repeat' first
    | (with_reducible assumption)
    | (with_reducible apply State.swapFree_keeps)
    | (with_reducible apply State.abortRunning_keeps)
    | (with_reducible apply State.reach_keeps)
    | split

theorem State.trained_keeps {s0 : State} {l : Link} {k : Lane} {locked : Bool} {joining : Bool} {s : State} (hk : Keeps s0 s) : Keeps s0 (State.trained l k locked joining s) := by
  unfold State.trained
  repeat' first
    | (with_reducible assumption)
    | (with_reducible apply State.setLnk_keeps)
    | (with_reducible apply State.modLink_keeps)

theorem State.avsNoAck_keeps {s0 : State} {s : State} (hk : Keeps s0 s) : Keeps s0 (State.avsNoAck s) := by
  unfold State.avsNoAck
  repeat' first
    | (with_reducible assumption)
    | (with_reducible apply keeps_ite)
    | (with_reducible apply State.setTb_keeps)
    | (with_reducible apply State.setF_keeps)
    | (with_reducible apply State.raise_keeps)

theorem State.endSettling_keeps {s0 : State} {n : Ch} {s : State} (hk : Keeps s0 s) : Keeps s0 (State.endSettling n s) := by
  unfold State.endSettling
  repeat' first
    | (with_reducible assumption)
    | (with_reducible apply State.setF_keeps)
    | (with_reducible apply State.reach_keeps)

theorem State.svcSetup_keeps {s0 : State} {k : Call} {n : Ch} {s : State} (hk : Keeps s0 s) : Keeps s0 (State.svcSetup k n s) := by
  unfold State.svcSetup
  repeat' first
    | (with_reducible assumption)
    | (with_reducible apply State.svcWrite_keeps)
    | (with_reducible apply State.svcTdac_keeps)
    | (with_reducible apply State.putHg_keeps)
    | split

theorem State.outEnd_keeps {s0 : State} {k : Fin 2} {s : State} (hk : Keeps s0 s) : Keeps s0 (State.outEnd k s) := by
  unfold State.outEnd
  repeat' first
    | (lift_lets; intro x; refine keeps_cut (x := x) ?_ (fun hx => ?_))
    | (with_reducible apply State.reach_keeps)
    | (with_reducible exact keeps_mk (by assumption) ..)
    | split

theorem State.stlEnd_keeps {s0 : State} {k : Fin 8} {s : State} (hk : Keeps s0 s) : Keeps s0 (State.stlEnd k s) := by
  unfold State.stlEnd
  repeat' first
    | (lift_lets; intro x; refine keeps_cut (x := x) ?_ (fun hx => ?_))
    | (with_reducible apply State.reach_keeps)
    | (with_reducible exact keeps_mk (by assumption) ..)
    | split

theorem State.pulseEnd_keeps {s0 : State} {out : Fin 10} {s : State} (hk : Keeps s0 s) : Keeps s0 (State.pulseEnd out s) := by
  unfold State.pulseEnd
  repeat' first
    | (with_reducible assumption)
    | (with_reducible apply keeps_ite)
    | (with_reducible apply State.outEnd_keeps)
    | (with_reducible apply State.stlEnd_keeps)

theorem State.pacedApply_keeps {s0 : State} {n : Ch} {t : ℕ} {clk : ℕ} {s : State} (hk : Keeps s0 s) : Keeps s0 (State.pacedApply n t clk s) := by
  unfold State.pacedApply
  repeat' first
    | (with_reducible assumption)
    | (with_reducible apply State.raise_keeps)
    | (with_reducible apply State.applyTdac_keeps)
    | (with_reducible apply State.modChan_keeps)
    | split

theorem State.dropOutside_keeps {s0 : State} {l : Link} {m : ℕ} {s : State} (hk : Keeps s0 s) : Keeps s0 (State.dropOutside l m s) := by
  unfold State.dropOutside
  repeat' first
    | (with_reducible assumption)
    | (with_reducible refine State.forAll_keeps (fun a s hs => ?_) ?_)
    | (with_reducible apply State.dropLane_keeps)

theorem State.trainSeen_keeps {s0 : State} {l : Link} {s : State} (hk : Keeps s0 s) : Keeps s0 (State.trainSeen l s) := by
  unfold State.trainSeen
  repeat' first
    | (with_reducible assumption)
    | (with_reducible apply keeps_ite)
    | (with_reducible apply State.goLnk_keeps)
    | (with_reducible apply State.setLnk_keeps)

theorem State.calLoadCall_keeps {s0 : State} {h : ℕ} {b : ℕ} {s : State} (hk : Keeps s0 s) : Keeps s0 (State.calLoadCall h b s) := by
  unfold State.calLoadCall
  repeat' first
    | (with_reducible assumption)
    | (with_reducible apply State.finishCall_keeps)
    | (with_reducible apply State.setF_keeps)
    | (with_reducible apply State.loadCal_keeps)
    | (with_reducible apply State.raise_keeps)
    | split

theorem State.bootSide_keeps {s0 : State} {r : BootSide} {s : State} (hk : Keeps s0 s) : Keeps s0 (State.bootSide r s) := by
  unfold State.bootSide
  refine keeps_ite hk ?_
  extract_lets k s'
  have h : Keeps s0 s' := State.setCal_keeps (State.setCal_keeps hk)
  cases hb : s'.bootCollect r.fe r.side 3 false false r.collections with
  | none => exact State.raise_keeps hk
  | some t => exact State.bootCollect_keeps h t hb

theorem State.putThr_keeps {s0 : State} {f : FrontEnd} {v : ThrVals} {s : State} (hk : Keeps s0 s) : Keeps s0 (State.putThr f v s) := by
  unfold State.putThr
  repeat' first
    | (with_reducible assumption)
    | (with_reducible apply keeps_ite)
    | (with_reducible apply State.setCalList_keeps)
    | (with_reducible apply State.setF_keeps)
    | (with_reducible apply State.setFe_keeps)

theorem State.bootCal_keeps {s0 : State} {sides : List BootSide} {thrs : List (FrontEnd × ThrVals)} {s : State} (hk : Keeps s0 s) : Keeps s0 (State.bootCal sides thrs s) := by
  unfold State.bootCal
  repeat' first
    | (with_reducible assumption)
    | (with_reducible apply keeps_ite)
    | (with_reducible refine State.forAll_keeps (fun a s hs => ?_) ?_)
    | (with_reducible apply State.bootSide_keeps)
    | (with_reducible apply State.putThr_keeps)
    | (with_reducible apply State.raise_keeps)

theorem State.bootCalEnd_keeps {s0 : State} {sides : List BootSide} {thrs : List (FrontEnd × ThrVals)} {s : State} (hk : Keeps s0 s) : Keeps s0 (State.bootCalEnd sides thrs s) := by
  unfold State.bootCalEnd
  repeat' first
    | (lift_lets; intro x; refine keeps_cut (x := x) ?_ (fun hx => ?_))
    | (with_reducible apply keeps_ite)
    | (with_reducible apply State.bootCal_keeps)
    | (with_reducible apply State.autoStore_keeps)
    | (with_reducible exact keeps_mk (by assumption) ..)

theorem State.pinTestDone_keeps {s0 : State} {n : Ch} {pp : ℕ} {pn : ℕ} {joined : Bool} {s : State} (hk : Keeps s0 s) : Keeps s0 (State.pinTestDone n pp pn joined s) := by
  unfold State.pinTestDone
  repeat' first
    | (with_reducible assumption)
    | (with_reducible apply State.reach_keeps)
    | (with_reducible apply State.modChan_keeps)
    | (with_reducible apply State.raise_keeps)
    | (with_reducible apply State.setB_keeps)
    | (with_reducible apply State.setF_keeps)
    | split

theorem State.odWhole_keeps {s0 : State} {src : OdSrc} {index : BitVec 16} {sub : Byte} {data : List Byte} {s : State} (hk : Keeps s0 s) :
    Keeps s0 (State.odWhole src index sub data s) := by
  unfold State.odWhole
  split
  · exact hk
  · dsimp only
    refine State.modOd_keeps ?_
    have h := State.odWaits_keeps (c := { cmd := 4#8, index := index, sub := sub, data := data }) hk
    split
    · rename_i e; rw [e] at h; exact h
    · rename_i e; rw [e] at h; exact State.odWriteNow_keeps h

theorem State.applyWindow_keeps {s0 : State} {l : Link} {s : State} (hk : Keeps s0 s) : Keeps s0 (State.applyWindow l s) := by
  unfold State.applyWindow
  repeat' first
    | (with_reducible assumption)
    | (with_reducible apply keeps_ite)
    | (with_reducible apply State.setW_keeps)
    | (with_reducible apply State.setF_keeps)
    | (with_reducible apply State.raiseLnk_keeps)
    | (with_reducible apply State.modLink_keeps)
    | (with_reducible apply State.retrain_keeps)
    | (with_reducible apply State.setInsvc_keeps)

theorem State.putLine_keeps {s0 : State} {l : Link} {o : List LineOut} {s : State} (hk : Keeps s0 s) : Keeps s0 (State.putLine l o s) := by
  unfold State.putLine
  repeat' first
    | (with_reducible assumption)
    | (with_reducible apply State.modLink_keeps)

theorem State.window_keeps {s0 : State} {l : Link} {s : State} (hk : Keeps s0 s) : Keeps s0 (State.window l s) := by
  unfold State.window
  repeat' first
    | (with_reducible assumption)
    | (with_reducible apply keeps_ite)
    | (with_reducible apply State.nextWindow_keeps)
    | (with_reducible apply State.modLink_keeps)
    | (with_reducible apply State.applyWindow_keeps)
    | (with_reducible apply State.putLine_keeps)

theorem State.storeCal_keeps {s0 : State} {handle : ℕ} {s : State} (hk : Keeps s0 s) : Keeps s0 (State.storeCal handle s) := by
  unfold State.storeCal
  repeat' first
    | (with_reducible assumption)
    | (with_reducible apply State.queueStore_keeps)

theorem State.uldDrop_keeps {s0 : State} {flag : Option Fld} {s : State} (hk : Keeps s0 s) : Keeps s0 (State.uldDrop flag s) := by
  unfold State.uldDrop
  repeat' first
    | (with_reducible assumption)
    | (with_reducible apply State.count_keeps)
    | (with_reducible apply State.raise_keeps)
    | split

theorem State.refinReturn_keeps {s0 : State} {s : State} (hk : Keeps s0 s) : Keeps s0 (State.refinReturn s) := by
  unfold State.refinReturn
  repeat' first
    | (with_reducible assumption)
    | (with_reducible apply keeps_ite)
    | (with_reducible apply State.toRefin_keeps)

theorem State.calIdle_keeps {s0 : State} {f : FrontEnd} {s : State} (hk : Keeps s0 s) : Keeps s0 (State.calIdle f s) := by
  unfold State.calIdle
  repeat' first
    | (with_reducible assumption)
    | (lift_lets; intro x)
    | (with_reducible apply State.setF_keeps)
    | (with_reducible apply State.setPhase_keeps)
    | (with_reducible apply State.setFe_keeps)
    | (with_reducible apply State.startBlind_keeps)
    | split

theorem State.replay_keeps {s0 : State} {l : Link} {s : State} (hk : Keeps s0 s) : Keeps s0 (State.replay l s) := by
  unfold State.replay
  repeat' first
    | (with_reducible assumption)
    | (with_reducible apply keeps_ite)
    | (with_reducible apply State.retrain_keeps)
    | (with_reducible apply State.modLink_keeps)
    | (with_reducible apply State.setLink_keeps)
    | (with_reducible apply State.count_keeps)

theorem State.strobeMsg_keeps {s0 : State} {s : State} (hk : Keeps s0 s) : Keeps s0 (State.strobeMsg s) := by
  unfold State.strobeMsg
  repeat' first
    | (with_reducible assumption)
    | (with_reducible apply keeps_ite)
    | (with_reducible apply State.takeContent_keeps)
    | (with_reducible apply State.arrayStrobe_keeps)

theorem State.imageBoot_keeps {s0 : State} {s : State} (hk : Keeps s0 s) : Keeps s0 (State.imageBoot s) := by
  unfold State.imageBoot
  repeat' first
    | (with_reducible assumption)
    | (with_reducible apply keeps_ite)
    | (with_reducible apply State.runSlot_keeps)

theorem State.transparent_keeps {s0 : State} {p : Port} {f : EthFrame} {residence : ℕ} {s : State} (hk : Keeps s0 s) : Keeps s0 (State.transparent p f residence s).2 := by
  unfold State.transparent
  repeat' first
    | (with_reducible assumption)
    | (with_reducible apply State.raise_keeps)
    | (with_reducible apply State.count_keeps)
    | split

theorem State.toWire_keeps {s0 : State} {p : Port} {f : WireFrame} {s : State} (hk : Keeps s0 s) : Keeps s0 (State.toWire p f s) := by
  unfold State.toWire
  repeat' first
    | (with_reducible assumption)
    | (with_reducible apply State.setPort_keeps)

theorem State.egress_keeps {s0 : State} {p : Port} {f : EthFrame} {s : State} (hk : Keeps s0 s) : Keeps s0 (State.egress p f s) := by
  unfold State.egress
  repeat' first
    | (with_reducible assumption)
    | (with_reducible apply keeps_ite)
    | (with_reducible apply State.count_keeps)
    | (with_reducible apply State.toWire_keeps)
    | (with_reducible apply State.setPort_keeps)
    | (with_reducible apply State.netDrop_keeps)

theorem State.forwardFrame_keeps {s0 : State} {p : Port} {f : EthFrame} {residence : ℕ} {s : State} (hk : Keeps s0 s) : Keeps s0 (State.forwardFrame p f residence s) := by
  unfold State.forwardFrame
  repeat' first
    | (with_reducible assumption)
    | (with_reducible apply keeps_ite)
    | (with_reducible apply State.raise_keeps)
    | (with_reducible apply State.count_keeps)
    | (with_reducible apply State.transparent_keeps)
    | (with_reducible apply State.egress_keeps)
    | (with_reducible apply State.netDrop_keeps)

theorem State.cfgRead_keeps {s0 : State} {s : State} (hk : Keeps s0 s) : Keeps s0 (State.cfgRead s) := by
  unfold State.cfgRead
  repeat' first
    | (with_reducible assumption)
    | (with_reducible apply keeps_ite)
    | (with_reducible apply State.raise_keeps)
    | (with_reducible refine keeps_mk ?_ ..)

theorem State.dropHandover_keeps {s0 : State} {p : Spare} {s : State} (hk : Keeps s0 s) : Keeps s0 (State.dropHandover p s) := by
  unfold State.dropHandover
  repeat' first
    | (with_reducible assumption)
    | (with_reducible apply State.setSpare_keeps)
    | (with_reducible apply State.spareEnds_keeps)
    | (with_reducible apply State.setF_keeps)

theorem State.countLnk_keeps {s0 : State} {l : Link} {a : ℕ} {s : State} (hk : Keeps s0 s) : Keeps s0 (State.countLnk l a s) := by
  unfold State.countLnk
  repeat' first
    | (with_reducible assumption)
    | (with_reducible apply State.count_keeps)

theorem State.sendNak_keeps {s0 : State} {l : Link} {s : State} (hk : Keeps s0 s) : Keeps s0 (State.sendNak l s) := by
  unfold State.sendNak
  repeat' first
    | (with_reducible assumption)
    | (with_reducible apply State.countLnk_keeps)
    | (with_reducible apply State.modLink_keeps)

theorem State.restripe_keeps {s0 : State} {l : Link} {m : ℕ} {answer : List LineOut} {s : State} (hk : Keeps s0 s) : Keeps s0 (State.restripe l m answer s) := by
  unfold State.restripe
  repeat' first
    | (with_reducible assumption)
    | (with_reducible apply keeps_ite)
    | (with_reducible apply State.retrain_keeps)
    | (with_reducible apply State.putLine_keeps)
    | (with_reducible apply State.goLnk_keeps)
    | (with_reducible apply State.setInsvc_keeps)
    | (with_reducible apply State.sendNak_keeps)
    | (with_reducible apply State.modLink_keeps)

theorem State.degradeIn_keeps {s0 : State} {l : Link} {mask : BitVec 16} {s : State} (hk : Keeps s0 s) : Keeps s0 (State.degradeIn l mask s) := by
  unfold State.degradeIn
  repeat' first
    | (with_reducible assumption)
    | (with_reducible apply keeps_ite)
    | (with_reducible apply State.restripe_keeps)
    | (with_reducible apply State.dropOutside_keeps)

theorem State.startSampler_keeps {s0 : State} {f : FrontEnd} {s : State} (hk : Keeps s0 s) : Keeps s0 (State.startSampler f s) := by
  unfold State.startSampler
  repeat' first
    | (with_reducible assumption)
    | (with_reducible apply State.setFe_keeps)
    | (with_reducible apply State.setPhase_keeps)

theorem State.delayResp_keeps {s0 : State} {d : Dom} {mpd : ℤ} {logInt : ℤ} {s : State} (hk : Keeps s0 s) : Keeps s0 (State.delayResp d mpd logInt s) := by
  unfold State.delayResp
  repeat' first
    | (with_reducible assumption)
    | (with_reducible apply keeps_ite)
    | (with_reducible apply State.modDom_keeps)
    | (with_reducible apply State.checkEnd_keeps)
    | (with_reducible apply State.setDmPair_keeps)

theorem State.sendOwn_keeps {s0 : State} {p : Port} {f : OwnFrame} {s : State} (hk : Keeps s0 s) : Keeps s0 (State.sendOwn p f s) := by
  unfold State.sendOwn
  repeat' first
    | (with_reducible assumption)
    | (with_reducible apply keeps_ite)
    | (with_reducible apply State.toWire_keeps)
    | (with_reducible apply State.setPort_keeps)

theorem State.crystalSelect_keeps {s0 : State} {s : State} (hk : Keeps s0 s) : Keeps s0 (State.crystalSelect s) := by
  unfold State.crystalSelect
  repeat' first
    | (with_reducible assumption)
    | (with_reducible apply State.switched_keeps)
    | (with_reducible apply State.setTb_keeps)
    | (with_reducible apply State.reach_keeps)
    | split

theorem State.alignEnd_keeps {s0 : State} {l : Link} {linv : BitVec 16} {nums : Vector (BitVec 4) 16} {s : State} (hk : Keeps s0 s) : Keeps s0 (State.alignEnd l linv nums s) := by
  unfold State.alignEnd
  repeat' first
    | (with_reducible assumption)
    | (with_reducible apply keeps_ite)
    | (with_reducible refine State.forAll_keeps (fun a s hs => ?_) ?_)
    | (with_reducible apply State.setLnk_keeps)
    | (with_reducible apply State.setB_keeps)
    | (with_reducible apply State.goLnk_keeps)
    | (with_reducible apply State.modLink_keeps)
    | (with_reducible apply State.raiseLnk_keeps)

theorem State.wearUpdate_keeps {s0 : State} {t : ℤ} {s : State} (hk : Keeps s0 s) : Keeps s0 (State.wearUpdate t s) := by
  unfold State.wearUpdate
  repeat' first
    | (with_reducible apply State.showWear_keeps)
    | (with_reducible exact keeps_mk (by assumption) ..)

theorem State.policyRequest_keeps {s0 : State} {p : Spare} {src : Fin 16} {s : State} (hk : Keeps s0 s) :
    Keeps s0 (State.policyRequest p src s) := by
  unfold State.policyRequest
  dsimp only
  split
  · rename_i h
    split at h
    · cases h
    · exact State.countSat_keeps (State.setTv_keeps (State.repairRequest_keeps hk _ h))
  · exact State.raise_keeps hk

theorem State.calTime_keeps {s0 : State} {f : FrontEnd} {s : State} (hk : Keeps s0 s) : Keeps s0 (State.calTime f s) := by
  unfold State.calTime
  repeat' first
    | (with_reducible assumption)
    | (lift_lets; intro x)
    | (with_reducible apply State.reach_keeps)
    | (with_reducible apply State.raiseCal_keeps)
    | split

theorem State.acked_keeps {s0 : State} {l : Link} {seq : BitVec 12} {s : State} (hk : Keeps s0 s) : Keeps s0 (State.acked l seq s) := by
  unfold State.acked
  repeat' first
    | (with_reducible assumption)
    | (with_reducible apply keeps_ite)
    | (with_reducible refine State.forAll_keeps (fun a s hs => ?_) ?_)
    | (with_reducible apply State.setLink_keeps)
    | (with_reducible apply State.released_keeps)

theorem State.ackIn_keeps {s0 : State} {l : Link} {w0 : ℕ} {s : State} (hk : Keeps s0 s) : Keeps s0 (State.ackIn l w0 s) := by
  unfold State.ackIn
  repeat' first
    | (with_reducible assumption)
    | (with_reducible apply keeps_ite)
    | (with_reducible apply State.acked_keeps)

theorem State.sendSeq_keeps {s0 : State} {l : Link} {c : FClass} {items : List TxItem} {payload : List Byte} {rsnd : Bool} {s : State} (hk : Keeps s0 s) : Keeps s0 (State.sendSeq l c items payload rsnd s) := by
  unfold State.sendSeq
  repeat' first
    | (with_reducible assumption)
    | (with_reducible apply State.setLink_keeps)
    | (with_reducible apply State.countLnk_keeps)
    | (with_reducible apply State.emit_keeps)

theorem State.sendClass_keeps {s0 : State} {l : Link} {c : FClass} {s : State} (hk : Keeps s0 s) : Keeps s0 (State.sendClass l c s) := by
  unfold State.sendClass
  dsimp only
  split
  · exact hk
  · exact State.sendSeq_keeps (State.setLink_keeps hk)
  · exact State.sendSeq_keeps (State.setLink_keeps hk)

theorem State.frameSend_keeps {s0 : State} {l : Link} {s : State} (hk : Keeps s0 s) : Keeps s0 (State.frameSend l s) := by
  unfold State.frameSend
  repeat' first
    | (with_reducible assumption)
    | (lift_lets; intro x)
    | (with_reducible apply State.sendCtrl_keeps)
    | (with_reducible apply State.sendSeq_keeps)
    | (with_reducible apply State.setLink_keeps)
    | (with_reducible apply State.sendClass_keeps)
    | split

theorem State.holdExpiry_keeps {s0 : State} {l : Link} {s : State} (hk : Keeps s0 s) : Keeps s0 (State.holdExpiry l s) := by
  unfold State.holdExpiry
  repeat' first
    | (with_reducible assumption)
    | (intro x; clear_value x)
    | (lift_lets; intro x; clear_value x)
    | (with_reducible apply State.frameSend_keeps)
    | (with_reducible apply State.sendClass_keeps)
    | (with_reducible apply State.reach_keeps)
    | split

theorem State.powerOnReset_keeps {s0 : State} {s : State} (hk : Keeps s0 s) : Keeps s0 (State.powerOnReset s) :=
  ⟨hk.pending, hk.fuses, fun c => have d := hk.canon c
    ⟨wf_nil _, wf_nil _, wf_nil _, d.flash, wf_nil _, wf_nil _, wf_nil _, d.wear, wf_nil _⟩⟩

theorem State.firstMap_keeps {s0 : State} {d : Dom} {t1 : ℤ} {mpd : ℤ} {s : State} (hk : Keeps s0 s) : Keeps s0 (State.firstMap d t1 mpd s) := by
  unfold State.firstMap
  repeat' first
    | (with_reducible assumption)
    | (with_reducible apply State.setDmPair_keeps)
    | (with_reducible apply State.setDm_keeps)
    | (with_reducible apply State.installMap_keeps)
    | (with_reducible apply State.goDom_keeps)
    | (with_reducible apply State.modDom_keeps)

theorem State.pendSample_keeps {s0 : State} {d : Dom} {o : ℤ} {last : ℤ} {s : State} (hk : Keeps s0 s) : Keeps s0 (State.pendSample d o last s) := by
  unfold State.pendSample
  repeat' first
    | (with_reducible assumption)
    | (intro x)
    | (lift_lets; intro x)
    | (with_reducible apply State.applySample_keeps)
    | (with_reducible apply State.resume_keeps)
    | (with_reducible apply State.setPend_keeps)
    | (with_reducible apply State.goDom_keeps)
    | (with_reducible apply State.modDom_keeps)
    | (with_reducible apply State.setDmPair_keeps)
    | (with_reducible apply State.raiseDm_keeps)
    | (with_reducible apply State.acceptStep_keeps)
    | split

theorem State.depart_keeps {s0 : State} {d : Dom} {p : Port} {t1 : ℤ} {s : State} (hk : Keeps s0 s) : Keeps s0 (State.depart d p t1 s) := by
  unfold State.depart
  repeat' first
    | (with_reducible assumption)
    | (with_reducible apply State.goDom_keeps)
    | (with_reducible apply State.modDom_keeps)

theorem State.judge_keeps {s0 : State} {d : Dom} {p : Port} {t1 : ℤ} {o : ℤ} {s : State} (hk : Keeps s0 s) : Keeps s0 (State.judge d p t1 o s) := by
  unfold State.judge
  repeat' first
    | (with_reducible assumption)
    | (intro x)
    | (lift_lets; intro x)
    | (with_reducible apply State.pendSample_keeps)
    | (with_reducible apply State.applySample_keeps)
    | (with_reducible apply State.resume_keeps)
    | (with_reducible apply State.modDom_keeps)
    | (with_reducible apply State.depart_keeps)
    | split

end Sys2Proof.Machine
end

