-- ==== Sys2Proof/Laws/Keeps4.lean ====
section
/-!
SUPPORT. What the operations keep, part 4 of 4: one lemma for each operation on State (the queue of
waiting commands and the fuses stand, canonical stores stay canonical), callees before callers.
-/

namespace Sys2Proof.Machine

theorem State.syncIn_keeps {s0 : State} {d : Dom} {p : Port} {master : BitVec 64} {t1 : ℤ} {s : State} (hk : Keeps s0 s) :
    Keeps s0 (State.syncIn d p master t1 s) := by
  unfold State.syncIn
  dsimp only
  split
  · exact hk
  · split
    · exact hk
    · exact State.firstMap_keeps hk
    · refine State.judge_keeps (State.setDmPair_keeps ?_)
      split
      · exact State.setDmPair_keeps hk
      · exact hk

theorem State.admission_keeps {s0 : State} {l : Link} {credits : Vector ℕ 6} {s : State} (hk : Keeps s0 s) : Keeps s0 (State.admission l credits s) := by
  unfold State.admission
  repeat' first
    | (with_reducible assumption)
    | (with_reducible apply keeps_ite)
    | (with_reducible refine State.forAll_keeps (fun a s hs => ?_) ?_)
    | (with_reducible apply State.raiseLnk_keeps)
    | (with_reducible apply State.flushMord_keeps)
    | (with_reducible apply State.setLink_keeps)
    | (with_reducible refine keeps_mk ?_ ..)

theorem State.txnTimeout_keeps {s0 : State} {src : OdSrc} {s : State} (hk : Keeps s0 s) : Keeps s0 (State.txnTimeout src s) := by
  unfold State.txnTimeout
  repeat' first
    | (with_reducible assumption)
    | (with_reducible apply State.dropTxn_keeps)
    | (with_reducible apply State.reach_keeps)
    | split

theorem State.applyStrobe_keeps {s0 : State} {n : Ch} {s : State} (hk : Keeps s0 s) : Keeps s0 (State.applyStrobe n s) := by
  unfold State.applyStrobe
  repeat' first
    | (with_reducible assumption)
    | (with_reducible apply State.applyTdac_keeps)
    | (with_reducible apply State.modChan_keeps)
    | (with_reducible apply State.reach_keeps)
    | split

theorem State.svcBins_keeps {s0 : State} {n : Ch} {ws : List Word} {s : State} (hk : Keeps s0 s) : Keeps s0 (State.svcBins n ws s) := by
  unfold State.svcBins
  repeat' first
    | (with_reducible assumption)
    | (with_reducible refine State.forAll_keeps (fun a s hs => ?_) ?_)
    | (with_reducible apply State.putLake_keeps)

theorem State.pacerTick_keeps {s0 : State} {k : Fin 8} {s : State} (hk : Keeps s0 s) : Keeps s0 (State.pacerTick k s) := by
  unfold State.pacerTick
  repeat' first
    | (lift_lets; intro x; refine keeps_cut (x := x) ?_ (fun hx => ?_))
    | (with_reducible refine State.forAll_keeps (fun a s hs => ?_) ?_)
    | (with_reducible apply State.reach_keeps)
    | (with_reducible apply State.pacedApply_keeps)
    | (with_reducible exact keeps_mk (by assumption) ..)
    | split

theorem State.holdoverExpiry_keeps {s0 : State} {d : Dom} {s : State} (hk : Keeps s0 s) : Keeps s0 (State.holdoverExpiry d s) := by
  unfold State.holdoverExpiry
  repeat' first
    | (with_reducible assumption)
    | (with_reducible apply State.goDom_keeps)
    | (with_reducible apply State.reach_keeps)
    | split

theorem State.stlEdge_keeps {s0 : State} {k : Fin 8} {pos : ℕ} {after : ℕ} {held : BitVec 8} {s : State} (hk : Keeps s0 s) : Keeps s0 (State.stlEdge k pos after held s) := by
  unfold State.stlEdge
  repeat' first
    | (lift_lets; intro x; refine keeps_cut (x := x) ?_ (fun hx => ?_))
    | (with_reducible apply keeps_ite)
    | (with_reducible refine State.forAll_keeps (fun a s hs => ?_) ?_)
    | (with_reducible apply State.pinSample_keeps)
    | (with_reducible apply State.source_keeps)
    | (with_reducible exact keeps_mk (by assumption) ..)

theorem State.startThreshold_keeps {s0 : State} {f : FrontEnd} {s : State} (hk : Keeps s0 s) : Keeps s0 (State.startThreshold f s) := by
  unfold State.startThreshold
  repeat' first
    | (with_reducible assumption)
    | (intro x)
    | (lift_lets; intro x)
    | (with_reducible apply State.setF_keeps)
    | (with_reducible apply State.setPhase_keeps)
    | (with_reducible apply State.setFe_keeps)
    | (with_reducible apply State.startHandover_keeps)
    | split

theorem State.afterSampler_keeps {s0 : State} {f : FrontEnd} {s : State} (hk : Keeps s0 s) : Keeps s0 (State.afterSampler f s) := by
  unfold State.afterSampler
  repeat' first
    | (with_reducible assumption)
    | (with_reducible apply keeps_ite)
    | (with_reducible apply State.setFe_keeps)
    | (with_reducible apply State.startThreshold_keeps)
    | (with_reducible apply State.calDone_keeps)

theorem State.calFail_keeps {s0 : State} {f : FrontEnd} {autoSpare : FrontEnd → State → State} {s : State}
    (ha : ∀ f s, Keeps s0 s → Keeps s0 (autoSpare f s)) (hk : Keeps s0 s) : Keeps s0 (State.calFail f autoSpare s) :=
  ha _ _ (State.afterSampler_keeps (State.raise_keeps hk))

theorem State.calOverlap_keeps {s0 : State} {f : FrontEnd} {o : Overlap} {autoSpare : FrontEnd → State → State} {s : State} (ha : ∀ f s, Keeps s0 s → Keeps s0 (autoSpare f s)) (hk : Keeps s0 s) : Keeps s0 (State.calOverlap f o autoSpare s) := by
  unfold State.calOverlap
  repeat' first
    | (with_reducible assumption)
    | (with_reducible apply keeps_ite)
    | (with_reducible apply State.raise_keeps)
    | (with_reducible apply State.setPhase_keeps)
    | (with_reducible apply State.sideDone_keeps)
    | (with_reducible apply State.setFe_keeps)
    | (with_reducible apply State.calFail_keeps)

theorem State.rowFixed_keeps {s0 : State} {s : State} (hk : Keeps s0 s) : Keeps s0 (State.rowFixed s) := by
  unfold State.rowFixed
  dsimp only
  split
  · exact keeps_mk hk ..
  · exact keeps_mk hk ..
  · exact keeps_mk hk ..

theorem State.rowRepaired_keeps {s0 : State} {s : State} (hk : Keeps s0 s) : Keeps s0 (State.rowRepaired s) := by
  unfold State.rowRepaired
  split
  · exact hk
  · rename_i m r _
    extract_lets s1 s2
    have h1 : Keeps s0 s1 := State.rowFixed_keeps hk
    refine State.rowCounts_keeps (Keeps.trans h1 ⟨rfl, rfl, fun d => ?_⟩)
    have h : Memory.wf (fun _ => 0) (sparsePut (fun _ => 0) s1.rowsUsed m (sparseGet (fun _ => 0) s1.rowsUsed m + 1)) = true :=
      wf_put _ _ d.rows
    exact ⟨d.regs, d.tv, d.cal, d.flash, d.vat, d.lake, d.erases, d.wear, h⟩

theorem State.wr_keeps {s0 : State} {p : Path} {a : ℕ} {w : Word} {s : State} (hk : Keeps s0 s) : Keeps s0 (State.wr p a w s) := by
  unfold State.wr
  repeat' first
    | (with_reducible assumption)
    | (with_reducible apply State.pathWrite_keeps)

theorem State.wrCmd_keeps {s0 : State} {a : ℕ} {f : Fld} {s : State} (hk : Keeps s0 s) : Keeps s0 (State.wrCmd a f s) := by
  unfold State.wrCmd
  repeat' first
    | (with_reducible assumption)
    | (with_reducible apply State.wr_keeps)
    | split

theorem State.odCommand_keeps {s0 : State} {src : OdSrc} {c : OdCmd} {s : State} (hk : Keeps s0 s) : Keeps s0 (State.odCommand src c s) := by
  unfold State.odCommand
  repeat' first
    | (with_reducible assumption)
    | (with_reducible apply keeps_ite)
    | (with_reducible apply State.odRun_keeps)
    | (with_reducible apply State.modOd_keeps)

theorem State.toDither_keeps {s0 : State} {f : FrontEnd} {dsrc : ℕ} {s : State} (hk : Keeps s0 s) : Keeps s0 (State.toDither f dsrc s) := by
  unfold State.toDither
  repeat' first
    | (with_reducible assumption)
    | (with_reducible apply State.setFe_keeps)

theorem State.responderStart_keeps {s0 : State} {s : State} (hk : Keeps s0 s) : Keeps s0 (State.responderStart s) := by
  unfold State.responderStart
  repeat' first
    | (with_reducible apply keeps_ite)
    | (with_reducible apply State.modIndigo_keeps)
    | (with_reducible exact keeps_mk (by assumption) ..)

theorem State.postTime_keeps {s0 : State} {u : Unit16} {s : State} (hk : Keeps s0 s) : Keeps s0 (State.postTime u s) := by
  unfold State.postTime
  repeat' first
    | (with_reducible assumption)
    | (lift_lets; intro x)
    | (with_reducible apply State.closeUnit_keeps)
    | (with_reducible apply State.reach_keeps)
    | split

theorem State.laneLoss_keeps {s0 : State} {l : Link} {k : Lane} {s : State} (hk : Keeps s0 s) : Keeps s0 (State.laneLoss l k s) := by
  unfold State.laneLoss
  repeat' first
    | (with_reducible assumption)
    | (with_reducible apply keeps_ite)
    | (with_reducible apply State.dropLane_keeps)
    | (with_reducible apply State.retrain_keeps)
    | (with_reducible apply State.modLink_keeps)
    | (with_reducible apply State.goLnk_keeps)
    | (with_reducible apply State.setInsvc_keeps)

theorem State.railExcursion_keeps {s0 : State} {ns : ℕ} {s : State} (hk : Keeps s0 s) : Keeps s0 (State.railExcursion ns s) := by
  unfold State.railExcursion
  repeat' first
    | (with_reducible assumption)
    | (with_reducible apply keeps_ite)
    | (with_reducible apply State.powerOnReset_keeps)

theorem State.handoverFailed_keeps {s0 : State} {p : Spare} {s : State} (hk : Keeps s0 s) : Keeps s0 (State.handoverFailed p s) := by
  unfold State.handoverFailed
  repeat' first
    | (with_reducible assumption)
    | (with_reducible apply keeps_ite)
    | (with_reducible apply State.raise_keeps)
    | (with_reducible apply State.setSpare_keeps)
    | (with_reducible apply State.setF_keeps)
    | (with_reducible apply State.abandonThr_keeps)
    | (with_reducible apply State.spareEnds_keeps)

theorem State.blockTime_keeps {s0 : State} {p : Fin 32} {n : Ch} {s : State} (hk : Keeps s0 s) : Keeps s0 (State.blockTime p n s) := by
  unfold State.blockTime
  repeat' first
    | (with_reducible assumption)
    | (with_reducible apply State.closeBlock_keeps)
    | (with_reducible apply State.reach_keeps)
    | split

theorem State.commitRecord_keeps {s0 : State} {a : ℕ} {w : Word} {s : State} (hk : Keeps s0 s) : Keeps s0 (State.commitRecord a w s) := by
  unfold State.commitRecord
  dsimp only
  split
  · split
    · split
      · exact State.sameCycle_keeps (fun n s hs => State.writeChan_keeps hs) hk
      · exact hk
    · exact hk
  · split
    · exact hk
    · split
      · exact hk
      · split
        · exact State.writeOwn_keeps hk
        · exact hk

theorem State.configCommit_keeps {s0 : State} {s : State} (hk : Keeps s0 s) : Keeps s0 (State.configCommit s) := by
  unfold State.configCommit
  split
  · exact hk
  · split
    · exact hk
    · extract_lets b
      clear_value b
      split
      · exact State.raise_keeps (State.setF_keeps hk)
      · exact State.setF_keeps (State.setW_keeps (State.setF_keeps (State.sameCycle_keeps (fun r s hs => State.commitRecord_keeps hs) hk)))

theorem State.calLiveTimeout_keeps {s0 : State} {f : FrontEnd} {s : State} (hk : Keeps s0 s) : Keeps s0 (State.calLiveTimeout f s) := by
  unfold State.calLiveTimeout
  repeat' first
    | (with_reducible assumption)
    | (with_reducible apply keeps_ite)
    | (with_reducible apply State.toDither_keeps)
    | (with_reducible apply State.reach_keeps)

theorem State.markRelease_keeps {s0 : State} {u : Unit16} {s : State} (hk : Keeps s0 s) : Keeps s0 (State.markRelease u s) := by
  unfold State.markRelease
  repeat' first
    | (with_reducible assumption)
    | (with_reducible apply State.reach_keeps)
    | (with_reducible apply State.source_keeps)
    | (with_reducible apply State.modTu_keeps)
    | split

theorem State.liveSwap_keeps {s0 : State} {core : Fin 8} {s : State} (hk : Keeps s0 s) : Keeps s0 (State.liveSwap core s) := by
  unfold State.liveSwap
  repeat' first
    | (with_reducible assumption)
    | (with_reducible apply State.modIndigo_keeps)
    | (with_reducible apply State.reach_keeps)
    | (with_reducible apply State.runSlot_keeps)
    | split

theorem State.checkFailed_keeps {s0 : State} {p : Spare} {s : State} (hk : Keeps s0 s) : Keeps s0 (State.checkFailed p s) := by
  unfold State.checkFailed
  repeat' first
    | (with_reducible assumption)
    | (with_reducible apply keeps_ite)
    | (with_reducible apply State.handoverFailed_keeps)
    | (with_reducible apply State.raise_keeps)
    | (with_reducible apply State.setSpare_keeps)

theorem State.pdelayAnswer_keeps {s0 : State} {p : Port} {domain : BitVec 8} {seq : BitVec 16} {requester : BitVec 80} {turnaround : ℕ} {s : State} (hk : Keeps s0 s) : Keeps s0 (State.pdelayAnswer p domain seq requester turnaround s) := by
  unfold State.pdelayAnswer
  repeat' first
    | (with_reducible assumption)
    | (with_reducible apply keeps_ite)
    | (with_reducible apply State.sendOwn_keeps)

theorem State.heartbeat_keeps {s0 : State} {core : Fin 8} {s : State} (hk : Keeps s0 s) : Keeps s0 (State.heartbeat core s) := by
  unfold State.heartbeat
  repeat' first
    | (with_reducible assumption)
    | (with_reducible apply State.restart_keeps)
    | split

theorem State.restartDone_keeps {s0 : State} {s : State} (hk : Keeps s0 s) : Keeps s0 (State.restartDone s) := by
  unfold State.restartDone
  repeat' first
    | (with_reducible assumption)
    | (with_reducible apply keeps_ite)
    | (with_reducible apply State.reach_keeps)
    | (with_reducible apply State.modIndigo_keeps)
    | split

theorem State.becomeReady_keeps {s0 : State} {s : State} (hk : Keeps s0 s) : Keeps s0 (State.becomeReady s) := by
  unfold State.becomeReady
  repeat' first
    | (lift_lets; intro x; refine keeps_cut (x := x) ?_ (fun hx => ?_))
    | (with_reducible apply keeps_ite)
    | (with_reducible refine State.forAll_keeps (fun a s hs => ?_) ?_)
    | (with_reducible apply State.setF_keeps)
    | (with_reducible apply State.reach_keeps)
    | (with_reducible apply State.countSat_keeps)
    | (with_reducible apply State.applyTdac_keeps)
    | (with_reducible apply State.modChan_keeps)
    | (with_reducible apply State.startGating_keeps)
    | (with_reducible apply State.startDom_keeps)
    | (with_reducible exact keeps_mk (by assumption) ..)

theorem State.autoStoreDue_keeps {s0 : State} {s : State} (hk : Keeps s0 s) : Keeps s0 (State.autoStoreDue s) := by
  unfold State.autoStoreDue
  repeat' first
    | (intro x; refine keeps_cut (x := x) ?_ (fun hx => ?_))
    | (lift_lets; intro x)
    | (with_reducible apply State.reach_keeps)
    | (with_reducible apply State.autoStore_keeps)
    | (with_reducible exact keeps_mk (by assumption) ..)
    | split

theorem State.calTemps_keeps {s0 : State} {temps : List ℤ} {s : State} (hk : Keeps s0 s) : Keeps s0 (State.calTemps temps s) := by
  unfold State.calTemps
  repeat' first
    | (with_reducible apply keeps_ite)
    | (with_reducible refine State.forAll_keeps (fun a s hs => ?_) ?_)
    | (with_reducible apply State.setB_keeps)
    | (with_reducible apply State.raiseCal_keeps)
    | (with_reducible exact keeps_mk (by assumption) ..)

theorem State.passTaken_keeps {s0 : State} {n : Ch} {s : State} (hk : Keeps s0 s) : Keeps s0 (State.passTaken n s) := by
  unfold State.passTaken
  repeat' first
    | (with_reducible assumption)
    | (with_reducible apply keeps_ite)
    | (with_reducible apply State.passUpTo_keeps)
    | (with_reducible apply State.modChan_keeps)

theorem State.takeEntry_keeps {s0 : State} {n : Ch} {s : State} (hk : Keeps s0 s) : Keeps s0 (State.takeEntry n s) := by
  unfold State.takeEntry
  repeat' first
    | (with_reducible assumption)
    | (lift_lets; intro x)
    | (with_reducible apply State.setChan_keeps)
    | split

theorem State.handshake_keeps {s0 : State} {n : Ch} {s : State} (hk : Keeps s0 s) : Keeps s0 (State.handshake n s) := by
  unfold State.handshake
  repeat' first
    | (with_reducible assumption)
    | (with_reducible apply State.driveAll_keeps)
    | (with_reducible apply State.passTaken_keeps)
    | (with_reducible apply State.takeEntry_keeps)
    | (with_reducible apply State.modChan_keeps)

theorem State.calThreshold_keeps {s0 : State} {f : FrontEnd} {v : ThrVals} {s : State} (hk : Keeps s0 s) : Keeps s0 (State.calThreshold f v s) := by
  unfold State.calThreshold
  repeat' first
    | (with_reducible assumption)
    | (lift_lets; intro x)
    | (with_reducible apply State.setFe_keeps)
    | (with_reducible apply State.putThr_keeps)
    | (with_reducible apply State.tryEndBlind_keeps)
    | (with_reducible apply State.modChan_keeps)
    | (with_reducible apply State.calDone_keeps)
    | (with_reducible apply State.startHandBack_keeps)
    | (with_reducible apply State.calAbandon_keeps)
    | split

theorem State.markUnit_keeps {s0 : State} {u : Unit16} {t : ℤ} {s : State} (hk : Keeps s0 s) : Keeps s0 (State.markUnit u t s) := by
  unfold State.markUnit
  repeat' first
    | (with_reducible assumption)
    | (with_reducible apply keeps_ite)
    | (with_reducible apply State.setTu_keeps)
    | (with_reducible apply State.raise_keeps)
    | (with_reducible apply State.source_keeps)

theorem State.paramDone_keeps {s0 : State} {l : Link} {mask : BitVec 16} {credits : Vector ℕ 6} {keep : Bool} {s : State} (hk : Keeps s0 s) : Keeps s0 (State.paramDone l mask credits keep s) := by
  unfold State.paramDone
  repeat' first
    | (with_reducible assumption)
    | (with_reducible apply keeps_ite)
    | (with_reducible apply State.retrain_keeps)
    | (with_reducible apply State.goLnk_keeps)
    | (with_reducible apply State.setInsvc_keeps)
    | (with_reducible apply State.modLink_keeps)
    | (with_reducible apply State.admission_keeps)

theorem State.restoreSide_keeps {s0 : State} {f : FrontEnd} {s : State} (hk : Keeps s0 s) : Keeps s0 (State.restoreSide f s) := by
  unfold State.restoreSide
  repeat' first
    | (with_reducible assumption)
    | (with_reducible apply State.modFe_keeps)
    | (with_reducible apply State.setDsrc_keeps)
    | (with_reducible apply State.setCalList_keeps)
    | split

theorem State.calCollect_keeps {s0 : State} {f : FrontEnd} {ns : List ℕ} {autoSpare : FrontEnd → State → State} {s : State} (ha : ∀ f s, Keeps s0 s → Keeps s0 (autoSpare f s)) (hk : Keeps s0 s) : Keeps s0 (State.calCollect f ns autoSpare s) := by
  unfold State.calCollect
  repeat' first
    | (with_reducible assumption)
    | (with_reducible apply State.toDither_keeps)
    | (with_reducible apply State.calFail_keeps)
    | (with_reducible apply State.restoreSide_keeps)
    | (with_reducible apply State.setFe_keeps)
    | (with_reducible apply State.setPhase_keeps)
    | (with_reducible apply State.trimSide_keeps)
    | (with_reducible apply State.tableSide_keeps)
    | split
    | (with_reducible refine keeps_mk ?_ ..)

theorem State.rearm_keeps {s0 : State} {u : Unit16} {s : State} (hk : Keeps s0 s) : Keeps s0 (State.rearm u s) := by
  unfold State.rearm
  repeat' first
    | (with_reducible assumption)
    | (with_reducible apply keeps_ite)
    | (with_reducible apply State.reach_keeps)
    | (with_reducible apply State.writeRecords_keeps)
    | (with_reducible apply State.makeRoom_keeps)
    | (with_reducible apply State.waitFull_keeps)
    | (with_reducible apply State.enterIdle_keeps)
    | (with_reducible apply State.applyTu_keeps)
    | (with_reducible apply State.raise_keeps)
    | (with_reducible apply State.enterArmed_keeps)

theorem State.badFrame_keeps {s0 : State} {l : Link} {s : State} (hk : Keeps s0 s) : Keeps s0 (State.badFrame l s) := by
  unfold State.badFrame
  repeat' first
    | (with_reducible assumption)
    | (with_reducible apply keeps_ite)
    | (with_reducible apply State.sendNak_keeps)
    | (with_reducible apply State.modLink_keeps)

theorem State.adapt_keeps {s0 : State} {l : Link} {k : Lane} {moves : List ℤ} {quiet : Bool} {s : State} (hk : Keeps s0 s) : Keeps s0 (State.adapt l k moves quiet s) := by
  unfold State.adapt
  repeat' first
    | (with_reducible assumption)
    | (with_reducible apply keeps_ite)
    | (with_reducible apply State.setLnk_keeps)
    | (with_reducible apply State.modLink_keeps)
    | (with_reducible apply State.raiseLnk_keeps)

theorem State.calStarve_keeps {s0 : State} {f : FrontEnd} {s : State} (hk : Keeps s0 s) : Keeps s0 (State.calStarve f s) := by
  unfold State.calStarve
  repeat' first
    | (with_reducible assumption)
    | (with_reducible apply State.reach_keeps)
    | (with_reducible apply State.raise_keeps)
    | (with_reducible apply State.count_keeps)
    | (with_reducible apply State.setFe_keeps)
    | split

theorem State.ovfUnmask_keeps {s0 : State} {n : Ch} {s : State} (hk : Keeps s0 s) : Keeps s0 (State.ovfUnmask n s) := by
  unfold State.ovfUnmask
  repeat' first
    | (with_reducible assumption)
    | (lift_lets; intro x)
    | (with_reducible apply State.tryEndBlind_keeps)
    | (with_reducible apply State.setChan_keeps)
    | split

theorem State.scrubHit_keeps {s0 : State} {site : SramSite} {macroNo row : ℕ} {ce ue : List ℕ} {s : State} (hk : Keeps s0 s) :
    Keeps s0 (State.scrubHit site macroNo row ce ue s) := by
  unfold State.scrubHit
  extract_lets s1 s2 s3 s4 s5 free
  have h1 : Keeps s0 s1 := State.count_keeps (State.count_keeps hk)
  have h2 : Keeps s0 s2 := keeps_ite h1 (State.raise_keeps h1)
  have h3 : Keeps s0 s3 := keeps_ite h2 (State.raise_keeps h2)
  have h4 : Keeps s0 s4 := by
    dsimp only [s4]
    cases site
    · exact keeps_mk h3 ..
    · exact keeps_mk h3 ..
    · exact h3
  have h5 : Keeps s0 s5 := State.raise_keeps (State.raise_keeps h4)
  clear_value free
  clear_value s5
  clear_value s4
  refine keeps_ite h4 (keeps_ite (keeps_ite (keeps_mk h4 ..) h4) ?_)
  cases site
  · exact keeps_mk h5 ..
  · cases free with
    | none => exact h5
    | some p => exact keeps_ite (State.countSat_keeps (State.writeSpmap_keeps h5)) h5
  · exact h5

theorem State.unlockLapse_keeps {s0 : State} {i : Fin 2} {s : State} (hk : Keeps s0 s) : Keeps s0 (State.unlockLapse i s) := by
  unfold State.unlockLapse
  repeat' first
    | (lift_lets; intro x; refine keeps_cut (x := x) ?_ (fun hx => ?_))
    | (with_reducible apply State.reach_keeps)
    | (with_reducible exact keeps_mk (by assumption) ..)
    | split

theorem State.pathLapse_keeps {s0 : State} {p : Path} {s : State} (hk : Keeps s0 s) : Keeps s0 (State.pathLapse p s) := by
  unfold State.pathLapse
  repeat' first
    | (with_reducible assumption)
    | (with_reducible apply State.unlockLapse_keeps)
    | split

theorem State.content_keeps {s0 : State} {l : Link} {c : Option FClass} {payload : List Byte} {credits : ℕ} {s : State} (hk : Keeps s0 s) : Keeps s0 (State.content l c payload credits s) := by
  unfold State.content
  repeat' first
    | (with_reducible assumption)
    | (lift_lets; intro x)
    | (with_reducible apply State.count_keeps)
    | (with_reducible apply State.modLink_keeps)
    | (with_reducible apply State.refuseBadOps_keeps)
    | (with_reducible apply State.raiseLnk_keeps)
    | (with_reducible apply State.countLnk_keeps)
    | split

theorem State.handoverSettle_keeps {s0 : State} {p : Spare} {s : State} (hk : Keeps s0 s) : Keeps s0 (State.handoverSettle p s) := by
  unfold State.handoverSettle
  repeat' first
    | (with_reducible assumption)
    | (with_reducible apply keeps_ite)
    | (with_reducible apply State.setSpare_keeps)
    | (with_reducible apply State.reach_keeps)

theorem State.again_keeps {s0 : State} {s : State} {last : Option ℕ} {interval : ℕ} (hk : Keeps s0 s) : Keeps s0 (State.again s last interval) := by
  unfold State.again
  repeat' first
    | (with_reducible assumption)
    | (with_reducible apply State.reach_keeps)
    | split

theorem State.calChoose_keeps {s0 : State} {s : State} (hk : Keeps s0 s) : Keeps s0 (State.calChoose s) := by
  unfold State.calChoose
  repeat' first
    | (intro x; refine keeps_cut (x := x) ?_ (fun hx => ?_))
    | (intro x; clear_value x)
    | (lift_lets; intro x; clear_value x)
    | (with_reducible apply State.raise_keeps)
    | (with_reducible apply State.setF_keeps)
    | (with_reducible apply State.loadCal_keeps)
    | (with_reducible exact keeps_mk (by assumption) ..)
    | split

theorem State.tick_keeps {s0 : State} {s : State} (hk : Keeps s0 s) : Keeps s0 (State.tick s) := by
  unfold State.tick
  repeat' first
    | (with_reducible apply keeps_ite)
    | (with_reducible exact keeps_mk (by assumption) ..)

theorem State.svcDone_keeps {s0 : State} {h : ℕ} {seen : SvcSeen} {failed taken : List (ℕ × ℕ)} {s : State} (hk : Keeps s0 s) :
    Keeps s0 (State.svcDone h seen failed taken s) := by
  unfold State.svcDone
  repeat' first
    | (with_reducible assumption)
    | (with_reducible apply keeps_ite)
    | (with_reducible refine State.forAll_keeps (fun a s hs => ?_) ?_)
    | (with_reducible apply State.finishCall_keeps)
    | (with_reducible apply State.reach_keeps)
    | (with_reducible apply State.svcBins_keeps)
    | (with_reducible apply State.calLoadCall_keeps)
    | (with_reducible apply State.raise_keeps)
    | split

theorem State.headerIn_keeps {s0 : State} {l : Link} {w0 : ℕ} {s : State} (hk : Keeps s0 s) : Keeps s0 (State.headerIn l w0 s) := by
  unfold State.headerIn
  repeat' first
    | (with_reducible assumption)
    | (with_reducible apply keeps_ite)
    | (with_reducible apply State.ackIn_keeps)
    | (with_reducible apply State.modLink_keeps)

theorem State.seqFrame_keeps {s0 : State} {l : Link} {afterCtl : Bool} {w0 : ℕ} {payload : List Byte} {s : State} (hk : Keeps s0 s) : Keeps s0 (State.seqFrame l afterCtl w0 payload s) := by
  unfold State.seqFrame
  repeat' first
    | (with_reducible assumption)
    | (with_reducible apply keeps_ite)
    | (with_reducible apply State.badFrame_keeps)
    | (with_reducible apply State.raiseLnk_keeps)
    | (with_reducible apply State.setLink_keeps)
    | (with_reducible apply State.content_keeps)
    | (with_reducible apply State.countLnk_keeps)
    | (with_reducible apply State.headerIn_keeps)
    | (with_reducible apply State.modLink_keeps)
    | (with_reducible apply State.ackIn_keeps)
    | (with_reducible apply State.sendNak_keeps)

theorem State.frameIn_keeps {s0 : State} {l : Link} {afterCtl : Bool} {bytes : List Byte} {s : State} (hk : Keeps s0 s) : Keeps s0 (State.frameIn l afterCtl bytes s) := by
  unfold State.frameIn
  repeat' first
    | (with_reducible assumption)
    | (with_reducible apply keeps_ite)
    | (with_reducible apply State.modLink_keeps)
    | (with_reducible apply State.badFrame_keeps)
    | (with_reducible apply State.raiseLnk_keeps)
    | (with_reducible apply State.countLnk_keeps)
    | (with_reducible apply State.headerIn_keeps)
    | (with_reducible apply State.seqFrame_keeps)

theorem State.firstLock_keeps {s0 : State} {s : State} (hk : Keeps s0 s) : Keeps s0 (State.firstLock s) := by
  unfold State.firstLock
  repeat' first
    | (with_reducible assumption)
    | (with_reducible apply keeps_ite)
    | (with_reducible apply State.fresh_keeps)
    | (with_reducible apply State.setW_keeps)
    | (with_reducible apply State.setF_keeps)
    | (with_reducible refine keeps_mk ?_ ..)

theorem State.mark_keeps {s0 : State} {marker : Fin 16} {time48 : BitVec 48} {s : State} (hk : Keeps s0 s) : Keeps s0 (State.mark marker time48 s) := by
  unfold State.mark
  repeat' first
    | (with_reducible assumption)
    | (with_reducible apply keeps_ite)
    | (with_reducible refine State.forAll_keeps (fun a s hs => ?_) ?_)
    | (with_reducible apply State.markUnit_keeps)
    | (with_reducible apply State.takeContent_keeps)

theorem State.avsEvaluate_keeps {s0 : State} {mV : ℕ} {s : State} (hk : Keeps s0 s) : Keeps s0 (State.avsEvaluate mV s) := by
  unfold State.avsEvaluate
  repeat' first
    | (with_reducible assumption)
    | (with_reducible apply keeps_ite)
    | (with_reducible apply State.setTb_keeps)
    | (with_reducible apply State.setF_keeps)
    | (with_reducible apply State.avsRequest_keeps)

theorem State.pdelayReq_keeps {s0 : State} {p : Port} {s : State} (hk : Keeps s0 s) : Keeps s0 (State.pdelayReq p s) := by
  unfold State.pdelayReq
  repeat' first
    | (with_reducible assumption)
    | (with_reducible apply keeps_ite)
    | (with_reducible apply State.again_keeps)
    | (with_reducible apply State.sendOwn_keeps)
    | (with_reducible apply State.setPort_keeps)

theorem State.checkTimeout_keeps {s0 : State} {d : Dom} {s : State} (hk : Keeps s0 s) : Keeps s0 (State.checkTimeout d s) := by
  unfold State.checkTimeout
  repeat' first
    | (with_reducible assumption)
    | (with_reducible apply State.reach_keeps)
    | (with_reducible apply State.checkEnd_keeps)
    | split

theorem State.endPark_keeps {s0 : State} {n : Ch} {s : State} (hk : Keeps s0 s) : Keeps s0 (State.endPark n s) := by
  unfold State.endPark
  repeat' first
    | (with_reducible assumption)
    | (with_reducible apply State.breakFree_keeps)
    | (with_reducible apply State.reach_keeps)
    | (with_reducible apply State.setF_keeps)
    | (with_reducible apply State.modChan_keeps)
    | (with_reducible apply State.startGating_keeps)
    | split

theorem State.lcpWrites_keeps {s0 : State} {step a : ℕ} {l : List Word} {s : State} (hk : Keeps s0 s) :
    Keeps s0 (State.lcpWrites step l a s) := by
  induction l generalizing a s with
  | nil => exact hk
  | cons w t ih =>
    rw [State.lcpWrites]
    have h := State.pathWrite_keeps (p := .lcp) (a := a) (be := 0xF#4) (w := w) hk
    split
    · rename_i e; rw [e] at h; exact ih h
    · rename_i e; rw [e] at h; exact keeps_mk h ..

theorem State.lcpWrite_keeps {s0 : State} {step : ℕ} {a : ℕ} {data : List Word} {s : State} (hk : Keeps s0 s) : Keeps s0 (State.lcpWrite step a data s) := by
  unfold State.lcpWrite
  repeat' first
    | (with_reducible assumption)
    | (with_reducible apply keeps_ite)
    | (with_reducible apply State.lcpBegin_keeps)
    | (with_reducible apply State.lcpWrites_keeps)
    | (with_reducible refine keeps_mk ?_ ..)

theorem State.retryDone_keeps {s0 : State} {p : Spare} {s : State} (hk : Keeps s0 s) : Keeps s0 (State.retryDone p s) := by
  unfold State.retryDone
  repeat' first
    | (with_reducible assumption)
    | (with_reducible apply keeps_ite)
    | (with_reducible apply State.setSpare_keeps)

theorem State.handoverCut_keeps {s0 : State} {p : Spare} {s : State} (hk : Keeps s0 s) : Keeps s0 (State.handoverCut p s) := by
  unfold State.handoverCut
  repeat' first
    | (with_reducible assumption)
    | (with_reducible apply State.retryDone_keeps)
    | (with_reducible apply State.handoverForce_keeps)

theorem State.indirect_keeps {s0 : State} {p : Path} {write : Bool} {w : Word} {s : State} (hk : Keeps s0 s) : Keeps s0 (State.indirect p write w s) := by
  unfold State.indirect
  repeat' first
    | (with_reducible assumption)
    | (with_reducible apply keeps_ite)
    | (with_reducible apply State.wr_keeps)
    | (with_reducible apply State.pathRead_keeps)

theorem State.refinLost_keeps {s0 : State} {s : State} (hk : Keeps s0 s) : Keeps s0 (State.refinLost s) := by
  unfold State.refinLost
  repeat' first
    | (with_reducible assumption)
    | (with_reducible apply keeps_ite)
    | (with_reducible apply State.setTb_keeps)
    | (with_reducible apply State.setF_keeps)
    | (with_reducible apply State.holdover_keeps)
    | (with_reducible apply State.raise_keeps)
    | (with_reducible apply State.raiseRef_keeps)

theorem State.delayReq_keeps {s0 : State} {d : Dom} {s : State} (hk : Keeps s0 s) : Keeps s0 (State.delayReq d s) := by
  unfold State.delayReq
  repeat' first
    | (with_reducible assumption)
    | (with_reducible apply keeps_ite)
    | (with_reducible refine State.forAll_keeps (fun a s hs => ?_) ?_)
    | (with_reducible apply State.again_keeps)
    | (with_reducible apply State.modDom_keeps)
    | (with_reducible apply State.sendOwn_keeps)

theorem State.egressFree_keeps {s0 : State} {p : Port} {s : State} (hk : Keeps s0 s) : Keeps s0 (State.egressFree p s) := by
  unfold State.egressFree
  repeat' first
    | (with_reducible assumption)
    | (lift_lets; intro x)
    | (with_reducible apply State.setPort_keeps)
    | split

theorem State.linkUp_keeps {s0 : State} {p : Port} {s : State} (hk : Keeps s0 s) : Keeps s0 (State.linkUp p s) := by
  unfold State.linkUp
  repeat' first
    | (with_reducible assumption)
    | (with_reducible apply keeps_ite)
    | (with_reducible apply State.setW_keeps)
    | (with_reducible apply State.setF_keeps)

theorem State.tvScrub_keeps {s0 : State} {s : State} (hk : Keeps s0 s) : Keeps s0 (State.tvScrub s) := by
  unfold State.tvScrub
  extract_lets n fix s1
  have h1 : Keeps s0 s1 := keeps_cal (keeps_tv hk fun d => wf_foldPut _ _ _ d.tv) fun d => wf_foldPut _ _ _ d.cal
  exact keeps_ite h1 (State.raise_keeps (State.countSat_keeps h1))

theorem State.liveCheck_keeps {s0 : State} {ok : Bool} {s : State} (hk : Keeps s0 s) : Keeps s0 (State.liveCheck ok s) := by
  unfold State.liveCheck
  repeat' first
    | (with_reducible assumption)
    | (with_reducible apply State.modIndigo_keeps)
    | (with_reducible apply State.raise_keeps)
    | (with_reducible apply State.swapFree_keeps)
    | split

theorem State.selectMaster_keeps {s0 : State} {d : Dom} {s : State} (hk : Keeps s0 s) : Keeps s0 (State.selectMaster d s) := by
  unfold State.selectMaster
  repeat' first
    | (with_reducible assumption)
    | (intro x; clear_value x)
    | (lift_lets; intro x; refine keeps_cut (x := x) ?_ (fun hx => ?_))
    | (lift_lets; intro x; clear_value x)
    | (with_reducible apply State.modDom_keeps)
    | (with_reducible apply State.setDmPair_keeps)
    | (with_reducible apply State.raiseDm_keeps)
    | (with_reducible apply State.goDom_keeps)
    | (with_reducible apply State.setPend_keeps)
    | split

theorem State.announce_keeps {s0 : State} {d : Dom} {p : Port} {m : MasterData} {interval : ℕ} {s : State} (hk : Keeps s0 s) : Keeps s0 (State.announce d p m interval s) := by
  unfold State.announce
  repeat' first
    | (with_reducible assumption)
    | (with_reducible apply keeps_ite)
    | (with_reducible apply State.selectMaster_keeps)
    | (with_reducible apply State.modDom_keeps)

theorem State.handoverMove_keeps {s0 : State} {p : Spare} {s : State} (hk : Keeps s0 s) : Keeps s0 (State.handoverMove p s) := by
  unfold State.handoverMove
  repeat' first
    | (with_reducible assumption)
    | (with_reducible apply keeps_ite)
    | (with_reducible apply State.moveStream_keeps)

theorem State.suppliesValid_keeps {s0 : State} {straps : BitVec 6} {s : State} (hk : Keeps s0 s) : Keeps s0 (State.suppliesValid straps s) := by
  unfold State.suppliesValid
  repeat' first
    | (with_reducible apply keeps_ite)
    | (with_reducible apply State.setF_keeps)
    | (with_reducible exact keeps_mk (by assumption) ..)

theorem State.lcpStatus_keeps {s0 : State} {s : State} (hk : Keeps s0 s) : Keeps s0 (State.lcpStatus s) := by
  unfold State.lcpStatus
  repeat' first
    | (lift_lets; intro x; refine keeps_cutP (x := x) ?_ (fun hx => ?_))
    | (with_reducible apply keeps_ite)
    | (with_reducible apply State.lcpBegin_keeps)
    | (with_reducible exact keeps_mk (by assumption) ..)

theorem State.pairTimeout_keeps {s0 : State} {n : Ch} {s : State} (hk : Keeps s0 s) : Keeps s0 (State.pairTimeout n s) := by
  unfold State.pairTimeout
  extract_lets c
  split
  · extract_lets limit s1 stops q
    have h1 : Keeps s0 s1 := State.reach_keeps hk
    split
    · exact h1
    · exact State.forAll_keeps (fun o s hs => State.redOut_keeps hs) (State.setChan_keeps h1)
  · exact hk

theorem State.handoverLoad_keeps {s0 : State} {p : Spare} {s : State} (hk : Keeps s0 s) : Keeps s0 (State.handoverLoad p s) := by
  unfold State.handoverLoad
  repeat' first
    | (with_reducible assumption)
    | (with_reducible apply keeps_ite)
    | (with_reducible apply State.setSpare_keeps)
    | (with_reducible apply State.reach_keeps)
    | (with_reducible apply State.loadTdac_keeps)

theorem State.reverify_keeps {s0 : State} {l : Link} {k : Lane} {errors : ℕ} {s : State} (hk : Keeps s0 s) : Keeps s0 (State.reverify l k errors s) := by
  unfold State.reverify
  repeat' first
    | (with_reducible assumption)
    | (with_reducible apply keeps_ite)
    | (with_reducible apply State.setLnk_keeps)
    | (with_reducible apply State.modLink_keeps)
    | (with_reducible apply State.countSat_keeps)

theorem State.grant_keeps {s0 : State} {n : Ch} {words : ℕ} {s : State} (hk : Keeps s0 s) : Keeps s0 (State.grant n words s) := by
  unfold State.grant
  repeat' first
    | (with_reducible assumption)
    | (with_reducible apply keeps_ite)
    | (with_reducible apply State.passTaken_keeps)
    | (with_reducible apply State.modChan_keeps)

theorem State.svcStart_keeps {s0 : State} {s : State} (hk : Keeps s0 s) : Keeps s0 (State.svcStart s) := by
  unfold State.svcStart
  repeat' first
    | (with_reducible assumption)
    | (lift_lets; intro x; refine keeps_cut (x := x) ?_ (fun hx => ?_))
    | (with_reducible refine State.forAll_keeps (fun a s hs => ?_) ?_)
    | (with_reducible apply State.finishCall_keeps)
    | (with_reducible apply State.modCall_keeps)
    | (with_reducible apply State.svcSetup_keeps)
    | (with_reducible apply State.setF_keeps)
    | (with_reducible apply State.storeCal_keeps)
    | split

theorem State.uldFrame_keeps {s0 : State} {p : Port} {f : EthFrame} {s : State} (hk : Keeps s0 s) : Keeps s0 (State.uldFrame p f s) := by
  unfold State.uldFrame
  repeat' first
    | (with_reducible assumption)
    | (lift_lets; intro x)
    | (with_reducible apply State.uldDrop_keeps)
    | (with_reducible apply State.count_keeps)
    | (with_reducible apply State.uldRun_keeps)
    | (with_reducible apply State.sendOwn_keeps)
    | split

theorem State.handoverMoved_keeps {s0 : State} {p : Spare} {s : State} (hk : Keeps s0 s) : Keeps s0 (State.handoverMoved p s) := by
  unfold State.handoverMoved
  repeat' first
    | (with_reducible assumption)
    | (with_reducible apply State.retryDone_keeps)
    | (with_reducible apply State.handoverMove_keeps)

theorem State.calSwap_keeps {s0 : State} {f : FrontEnd} {s : State} (hk : Keeps s0 s) : Keeps s0 (State.calSwap f s) := by
  unfold State.calSwap
  repeat' first
    | (with_reducible assumption)
    | (with_reducible apply keeps_ite)
    | (with_reducible apply State.afterSampler_keeps)
    | (with_reducible apply State.count_keeps)
    | (with_reducible apply State.setFe_keeps)

theorem State.backgroundLock_keeps {s0 : State} {l : Link} {k : Lane} {s : State} (hk : Keeps s0 s) : Keeps s0 (State.backgroundLock l k s) := by
  unfold State.backgroundLock
  repeat' first
    | (with_reducible assumption)
    | (with_reducible apply keeps_ite)
    | (with_reducible apply State.trained_keeps)

theorem State.xtalReturn_keeps {s0 : State} {s : State} (hk : Keeps s0 s) : Keeps s0 (State.xtalReturn s) := by
  unfold State.xtalReturn
  repeat' first
    | (with_reducible assumption)
    | (with_reducible apply keeps_ite)
    | (with_reducible apply State.setF_keeps)

theorem State.lockTimeout_keeps {s0 : State} {s : State} (hk : Keeps s0 s) : Keeps s0 (State.lockTimeout s) := by
  unfold State.lockTimeout
  repeat' first
    | (with_reducible assumption)
    | (with_reducible apply keeps_ite)
    | (with_reducible apply State.setTb_keeps)

theorem State.repairRetry_keeps {s0 : State} {p : Spare} {s : State} (hk : Keeps s0 s) : Keeps s0 (State.repairRetry p s) := by
  unfold State.repairRetry
  repeat' first
    | (with_reducible assumption)
    | (with_reducible apply State.reach_keeps)
    | (with_reducible apply State.policyRequest_keeps)
    | (with_reducible apply State.setSpare_keeps)
    | split

theorem State.blindEnd_keeps {s0 : State} {n : Ch} {s : State} (hk : Keeps s0 s) : Keeps s0 (State.blindEnd n s) := by
  unfold State.blindEnd
  repeat' first
    | (with_reducible assumption)
    | (with_reducible apply State.tryEndBlind_keeps)
    | (with_reducible apply State.reach_keeps)
    | split

theorem State.replayTimeout_keeps {s0 : State} {l : Link} {s : State} (hk : Keeps s0 s) : Keeps s0 (State.replayTimeout l s) := by
  unfold State.replayTimeout
  repeat' first
    | (with_reducible assumption)
    | (intro x; clear_value x)
    | (lift_lets; intro x; clear_value x)
    | (with_reducible apply State.sendNak_keeps)
    | (with_reducible apply State.reach_keeps)
    | (with_reducible apply State.replay_keeps)
    | split

theorem State.loadEdge_keeps {s0 : State} {s : State} (hk : Keeps s0 s) : Keeps s0 (State.loadEdge s) := by
  unfold State.loadEdge
  repeat' first
    | (with_reducible assumption)
    | (with_reducible apply keeps_ite)
    | (with_reducible apply State.countSat_keeps)
    | (with_reducible apply State.arrayStrobe_keeps)

theorem State.degradeAck_keeps {s0 : State} {l : Link} {mask : BitVec 16} {s : State} (hk : Keeps s0 s) : Keeps s0 (State.degradeAck l mask s) := by
  unfold State.degradeAck
  repeat' first
    | (with_reducible assumption)
    | (with_reducible apply keeps_ite)
    | (with_reducible apply State.restripe_keeps)
    | (with_reducible apply State.dropOutside_keeps)

theorem State.lcpEnable_keeps {s0 : State} {ident : Bool} {xtal : Bool} {s : State} (hk : Keeps s0 s) : Keeps s0 (State.lcpEnable ident xtal s) := by
  unfold State.lcpEnable
  repeat' first
    | (with_reducible apply keeps_ite)
    | (with_reducible apply State.setF_keeps)
    | (with_reducible apply State.raise_keeps)
    | (with_reducible exact keeps_mk (by assumption) ..)

theorem State.noSource_keeps {s0 : State} {s : State} (hk : Keeps s0 s) : Keeps s0 (State.noSource s) := by
  unfold State.noSource
  repeat' first
    | (with_reducible apply keeps_ite)
    | (with_reducible apply State.raise_keeps)
    | (with_reducible exact keeps_mk (by assumption) ..)

theorem State.refinWindow_keeps {s0 : State} {missing : Bool} {toggles : Bool} {f : ℕ} {s : State} (hk : Keeps s0 s) : Keeps s0 (State.refinWindow missing toggles f s) := by
  unfold State.refinWindow
  repeat' first
    | (with_reducible assumption)
    | (lift_lets; intro x)
    | (with_reducible apply State.raise_keeps)
    | (with_reducible apply State.setB_keeps)
    | (with_reducible apply State.setF_keeps)
    | split
    | (with_reducible refine keeps_mk ?_ ..)

theorem State.regRequest_keeps {s0 : State} {m : RegMsg} {s : State} (hk : Keeps s0 s) : Keeps s0 (State.regRequest m s) := by
  unfold State.regRequest
  repeat' first
    | (with_reducible assumption)
    | (with_reducible apply keeps_ite)
    | (with_reducible apply State.regServe_keeps)

theorem State.calOffset_keeps {s0 : State} {f : FrontEnd} {r : ℤ} {fl : ℤ} {s : State} (hk : Keeps s0 s) : Keeps s0 (State.calOffset f r fl s) := by
  unfold State.calOffset
  repeat' first
    | (with_reducible assumption)
    | (with_reducible apply keeps_ite)
    | (with_reducible apply State.setCal_keeps)
    | (with_reducible apply State.setPhase_keeps)
    | (with_reducible apply State.modFe_keeps)

theorem State.handoverPassed_keeps {s0 : State} {p : Spare} {o : Overlap} {s : State} (hk : Keeps s0 s) : Keeps s0 (State.handoverPassed p o s) := by
  unfold State.handoverPassed
  repeat' first
    | (with_reducible assumption)
    | (with_reducible apply keeps_ite)
    | (with_reducible apply State.setSpare_keeps)
    | (with_reducible apply State.raise_keeps)

theorem State.handoverChecked_keeps {s0 : State} {p : Spare} {o : Overlap} {s : State} (hk : Keeps s0 s) : Keeps s0 (State.handoverChecked p o s) := by
  unfold State.handoverChecked
  repeat' first
    | (with_reducible assumption)
    | (with_reducible apply keeps_ite)
    | (with_reducible apply State.overlapEnd_keeps)
    | (with_reducible apply State.handoverPassed_keeps)
    | (with_reducible apply State.checkFailed_keeps)

theorem State.retractMsg_keeps {s0 : State} {ch : BitVec 8} {seq : BitVec 24} {elem : BitVec 16} {gen : BitVec 4} {s : State}
    (hk : Keeps s0 s) : Keeps s0 (State.retractMsg ch seq elem gen s) := by
  refine State.control_keeps (fun n s h => ?_) hk
  dsimp only
  split
  · exact State.raise_keeps (State.mordSet_keeps h)
  · exact State.mordSet_keeps h

theorem State.eidleEnter_keeps {s0 : State} {l : Link} {s : State} (hk : Keeps s0 s) : Keeps s0 (State.eidleEnter l s) := by
  unfold State.eidleEnter
  repeat' first
    | (with_reducible assumption)
    | (with_reducible apply keeps_ite)
    | (with_reducible refine State.forAll_keeps (fun a s hs => ?_) ?_)
    | (with_reducible apply State.putLine_keeps)
    | (with_reducible apply State.goLnk_keeps)
    | (with_reducible apply State.reach_keeps)
    | (with_reducible apply State.setLnk_keeps)

theorem State.masterLost_keeps {s0 : State} {d : Dom} {s : State} (hk : Keeps s0 s) : Keeps s0 (State.masterLost d s) := by
  unfold State.masterLost
  repeat' first
    | (with_reducible assumption)
    | (lift_lets; intro x)
    | (with_reducible apply State.raiseDm_keeps)
    | (with_reducible apply State.setDom_keeps)
    | (with_reducible apply State.setDmPair_keeps)
    | (with_reducible apply State.goDom_keeps)
    | (with_reducible apply State.selectMaster_keeps)
    | split

theorem State.fastEnd_keeps {s0 : State} {l : Link} {k : Lane} {moves : List ℤ} {s : State} (hk : Keeps s0 s) : Keeps s0 (State.fastEnd l k moves s) := by
  unfold State.fastEnd
  repeat' first
    | (with_reducible assumption)
    | (with_reducible apply keeps_ite)
    | (with_reducible apply State.modLink_keeps)
    | (with_reducible apply State.raiseLnk_keeps)

theorem State.holdoverEnd_keeps {s0 : State} {src : TbSource} {s : State} (hk : Keeps s0 s) : Keeps s0 (State.holdoverEnd src s) := by
  unfold State.holdoverEnd
  repeat' first
    | (with_reducible assumption)
    | (with_reducible apply State.toRefin_keeps)
    | (with_reducible apply State.switched_keeps)
    | (with_reducible apply State.setTb_keeps)
    | split

theorem State.descriptor_keeps {s0 : State} {ch : BitVec 8} {d : Desc} {s : State} (hk : Keeps s0 s) : Keeps s0 (State.descriptor ch d s) := by
  unfold State.descriptor
  repeat' first
    | (with_reducible assumption)
    | (intro x)
    | (lift_lets; intro x)
    | (with_reducible apply State.takeContent_keeps)
    | (with_reducible apply State.returnCredit_keeps)
    | (with_reducible apply State.mdReject_keeps)
    | (with_reducible apply State.modChan_keeps)
    | (with_reducible apply State.raise_keeps)
    | (with_reducible apply State.noChannel_keeps)
    | split

theorem State.orderRetry_keeps {s0 : State} {l : Link} {s : State} (hk : Keeps s0 s) : Keeps s0 (State.orderRetry l s) := by
  unfold State.orderRetry
  repeat' first
    | (with_reducible assumption)
    | (with_reducible apply keeps_ite)
    | (with_reducible apply State.goLnk_keeps)
    | (with_reducible apply State.modLink_keeps)

theorem State.nakReceived_keeps {s0 : State} {l : Link} {seq : BitVec 12} {s : State} (hk : Keeps s0 s) : Keeps s0 (State.nakReceived l seq s) := by
  unfold State.nakReceived
  repeat' first
    | (with_reducible assumption)
    | (with_reducible apply keeps_ite)
    | (with_reducible apply State.replay_keeps)
    | (with_reducible apply State.acked_keeps)

theorem State.baselineCapture_keeps {s0 : State} {mean : ℤ} {s : State} (hk : Keeps s0 s) : Keeps s0 (State.baselineCapture mean s) := by
  unfold State.baselineCapture
  repeat' first
    | (with_reducible assumption)
    | (with_reducible apply State.setTb_keeps)
    | (with_reducible apply State.reach_keeps)
    | (with_reducible apply State.setF_keeps)
    | (with_reducible apply State.setW_keeps)
    | split

theorem State.crystalLost_keeps {s0 : State} {s : State} (hk : Keeps s0 s) : Keeps s0 (State.crystalLost s) := by
  unfold State.crystalLost
  repeat' first
    | (with_reducible assumption)
    | (with_reducible apply keeps_ite)
    | (with_reducible apply State.setF_keeps)
    | (with_reducible apply State.raise_keeps)
    | (with_reducible apply State.setTb_keeps)
    | (with_reducible apply State.toRefin_keeps)
    | (with_reducible apply State.raiseRef_keeps)
    | (with_reducible apply State.holdover_keeps)

theorem State.autoSpare_keeps {s0 : State} {f : FrontEnd} {s : State} (hk : Keeps s0 s) : Keeps s0 (State.autoSpare f s) := by
  unfold State.autoSpare
  repeat' first
    | (with_reducible assumption)
    | (with_reducible apply keeps_ite)
    | (with_reducible apply State.raise_keeps)
    | (with_reducible apply State.policyRequest_keeps)
    | (with_reducible apply State.dropHandover_keeps)

theorem State.watermark_keeps {s0 : State} {n : Ch} {s : State} (hk : Keeps s0 s) : Keeps s0 (State.watermark n s) := by
  unfold State.watermark
  repeat' first
    | (with_reducible assumption)
    | (with_reducible apply keeps_ite)
    | (with_reducible apply State.feedMordant_keeps)
    | (with_reducible apply State.setChan_keeps)

theorem State.calStart_keeps {s0 : State} {f : FrontEnd} {s : State} (hk : Keeps s0 s) : Keeps s0 (State.calStart f s) := by
  unfold State.calStart
  repeat' first
    | (with_reducible assumption)
    | (with_reducible apply keeps_ite)
    | (with_reducible apply State.startThreshold_keeps)
    | (with_reducible apply State.setFe_keeps)
    | (with_reducible apply State.startSampler_keeps)
    | (with_reducible apply State.afterSampler_keeps)

theorem State.eidleWake_keeps {s0 : State} {l : Link} {relocked : BitVec 16} {s : State} (hk : Keeps s0 s) : Keeps s0 (State.eidleWake l relocked s) := by
  unfold State.eidleWake
  repeat' first
    | (with_reducible assumption)
    | (with_reducible apply keeps_ite)
    | (with_reducible refine State.forAll_keeps (fun a s hs => ?_) ?_)
    | (with_reducible apply State.goLnk_keeps)
    | (with_reducible apply State.reach_keeps)
    | (with_reducible apply State.applyWindow_keeps)
    | (with_reducible apply State.modLink_keeps)
    | (with_reducible apply State.putLine_keeps)
    | (with_reducible apply State.laneLoss_keeps)

theorem State.thermal_keeps {s0 : State} {raw : List ℤ} {s : State} (hk : Keeps s0 s) : Keeps s0 (State.thermal raw s) := by
  unfold State.thermal
  repeat' first
    | (with_reducible assumption)
    | (with_reducible apply keeps_ite)
    | (with_reducible apply State.raise_keeps)
    | (with_reducible apply State.setF_keeps)
    | (with_reducible apply State.calTemps_keeps)
    | (with_reducible refine keeps_mk ?_ ..)

theorem State.fuseLoad_keeps {s0 : State} {s : State} (hk : Keeps s0 s) : Keeps s0 (State.fuseLoad s) := by
  unfold State.fuseLoad
  dsimp only
  split
  · exact hk
  · have h : Keeps s0 (State.showFuses { s with boot := { s.boot with fused := true }, tv := [] }) :=
      State.showFuses_keeps (keeps_mk (keeps_tv hk fun _ => wf_nil _) ..)
    exact keeps_ite (State.setTv_keeps h) h

theorem State.lockEnd_keeps {s0 : State} {l : Link} {locked : BitVec 16} {s : State} (hk : Keeps s0 s) : Keeps s0 (State.lockEnd l locked s) := by
  unfold State.lockEnd
  repeat' first
    | (with_reducible assumption)
    | (with_reducible apply keeps_ite)
    | (with_reducible refine State.forAll_keeps (fun a s hs => ?_) ?_)
    | (with_reducible apply State.goLnk_keeps)
    | (with_reducible apply State.trained_keeps)
    | (with_reducible apply State.raiseLnk_keeps)
    | (with_reducible apply State.setLnk_keeps)

theorem State.loadPin_keeps {s0 : State} {ns : ℕ} {s : State} (hk : Keeps s0 s) : Keeps s0 (State.loadPin ns s) := by
  unfold State.loadPin
  repeat' first
    | (with_reducible assumption)
    | (with_reducible apply keeps_ite)
    | (with_reducible apply State.loadEdge_keeps)

theorem State.driftUpdate_keeps {s0 : State} {offs : ℤ} {s : State} (hk : Keeps s0 s) : Keeps s0 (State.driftUpdate offs s) := by
  unfold State.driftUpdate
  repeat' first
    | (with_reducible assumption)
    | (with_reducible apply keeps_ite)
    | (with_reducible apply State.setW_keeps)
    | (with_reducible apply State.setTb_keeps)
    | (with_reducible apply State.raise_keeps)
    | (with_reducible apply State.switched_keeps)

end Sys2Proof.Machine
end

