-- ==== Sys2Proof/Laws/State.lean ====
section
/-!
SUPPORT. What each named update of the state leaves and what it changes: one lemma for each field and
update, true by unfolding, and the reads of registers, fields, instants and parts after them. No later
proof need unfold a record update.
-/

namespace Sys2Proof.Machine

variable (s : State)

/-! ### setW -/

@[simp] theorem State.setW_pending (a : Nat) (v : Word) : (s.setW a v).pending = s.pending := rfl
@[simp] theorem State.setW_free (a : Nat) (v : Word) : (s.setW a v).free = s.free := rfl
@[simp] theorem State.setW_clk (a : Nat) (v : Word) : (s.setW a v).clk = s.clk := rfl
@[simp] theorem State.setW_tv (a : Nat) (v : Word) : (s.setW a v).tv = s.tv := rfl
@[simp] theorem State.setW_cal (a : Nat) (v : Word) : (s.setW a v).cal = s.cal := rfl
@[simp] theorem State.setW_boots (a : Nat) (v : Word) : (s.setW a v).boots = s.boots := rfl
@[simp] theorem State.setW_fuses (a : Nat) (v : Word) : (s.setW a v).fuses = s.fuses := rfl
@[simp] theorem State.setW_flash (a : Nat) (v : Word) : (s.setW a v).flash = s.flash := rfl
@[simp] theorem State.setW_wear (a : Nat) (v : Word) : (s.setW a v).wear = s.wear := rfl
@[simp] theorem State.setW_boot (a : Nat) (v : Word) : (s.setW a v).boot = s.boot := rfl
@[simp] theorem State.setW_stores (a : Nat) (v : Word) : (s.setW a v).stores = s.stores := rfl
@[simp] theorem State.setW_storeOutcome (a : Nat) (v : Word) : (s.setW a v).storeOutcome = s.storeOutcome := rfl
@[simp] theorem State.setW_eqs (a : Nat) (v : Word) : (s.setW a v).eqs = s.eqs := rfl
@[simp] theorem State.setW_erases (a : Nat) (v : Word) : (s.setW a v).erases = s.erases := rfl
@[simp] theorem State.setW_temps (a : Nat) (v : Word) : (s.setW a v).temps = s.temps := rfl
@[simp] theorem State.setW_hotMs (a : Nat) (v : Word) : (s.setW a v).hotMs = s.hotMs := rfl
@[simp] theorem State.setW_rowsUsed (a : Nat) (v : Word) : (s.setW a v).rowsUsed = s.rowsUsed := rfl
@[simp] theorem State.setW_repairing (a : Nat) (v : Word) : (s.setW a v).repairing = s.repairing := rfl
@[simp] theorem State.setW_repairFix (a : Nat) (v : Word) : (s.setW a v).repairFix = s.repairFix := rfl
@[simp] theorem State.setW_vatExh (a : Nat) (v : Word) : (s.setW a v).vatExh = s.vatExh := rfl
@[simp] theorem State.setW_tb (a : Nat) (v : Word) : (s.setW a v).tb = s.tb := rfl
@[simp] theorem State.setW_maps (a : Nat) (v : Word) : (s.setW a v).maps = s.maps := rfl
@[simp] theorem State.setW_mapLogs (a : Nat) (v : Word) : (s.setW a v).mapLogs = s.mapLogs := rfl
@[simp] theorem State.setW_mapLost (a : Nat) (v : Word) : (s.setW a v).mapLost = s.mapLost := rfl
@[simp] theorem State.setW_paths (a : Nat) (v : Word) : (s.setW a v).paths = s.paths := rfl
@[simp] theorem State.setW_lcp (a : Nat) (v : Word) : (s.setW a v).lcp = s.lcp := rfl
@[simp] theorem State.setW_unlockBy (a : Nat) (v : Word) : (s.setW a v).unlockBy = s.unlockBy := rfl
@[simp] theorem State.setW_chans (a : Nat) (v : Word) : (s.setW a v).chans = s.chans := rfl
@[simp] theorem State.setW_spares (a : Nat) (v : Word) : (s.setW a v).spares = s.spares := rfl
@[simp] theorem State.setW_fes (a : Nat) (v : Word) : (s.setW a v).fes = s.fes := rfl
@[simp] theorem State.setW_pacers (a : Nat) (v : Word) : (s.setW a v).pacers = s.pacers := rfl
@[simp] theorem State.setW_lastStrobe (a : Nat) (v : Word) : (s.setW a v).lastStrobe = s.lastStrobe := rfl
@[simp] theorem State.setW_units (a : Nat) (v : Word) : (s.setW a v).units = s.units := rfl
@[simp] theorem State.setW_outPulse (a : Nat) (v : Word) : (s.setW a v).outPulse = s.outPulse := rfl
@[simp] theorem State.setW_stlPulse (a : Nat) (v : Word) : (s.setW a v).stlPulse = s.stlPulse := rfl
@[simp] theorem State.setW_stlIn (a : Nat) (v : Word) : (s.setW a v).stlIn = s.stlIn := rfl
@[simp] theorem State.setW_pinLast (a : Nat) (v : Word) : (s.setW a v).pinLast = s.pinLast := rfl
@[simp] theorem State.setW_blocks (a : Nat) (v : Word) : (s.setW a v).blocks = s.blocks := rfl
@[simp] theorem State.setW_vat (a : Nat) (v : Word) : (s.setW a v).vat = s.vat := rfl
@[simp] theorem State.setW_vatCE (a : Nat) (v : Word) : (s.setW a v).vatCE = s.vatCE := rfl
@[simp] theorem State.setW_vatUE (a : Nat) (v : Word) : (s.setW a v).vatUE = s.vatUE := rfl
@[simp] theorem State.setW_lake (a : Nat) (v : Word) : (s.setW a v).lake = s.lake := rfl
@[simp] theorem State.setW_lakeZero (a : Nat) (v : Word) : (s.setW a v).lakeZero = s.lakeZero := rfl
@[simp] theorem State.setW_lakeCE (a : Nat) (v : Word) : (s.setW a v).lakeCE = s.lakeCE := rfl
@[simp] theorem State.setW_lakeUE (a : Nat) (v : Word) : (s.setW a v).lakeUE = s.lakeUE := rfl
@[simp] theorem State.setW_indigo (a : Nat) (v : Word) : (s.setW a v).indigo = s.indigo := rfl
@[simp] theorem State.setW_link0 (a : Nat) (v : Word) : (s.setW a v).link0 = s.link0 := rfl
@[simp] theorem State.setW_link1 (a : Nat) (v : Word) : (s.setW a v).link1 = s.link1 := rfl
@[simp] theorem State.setW_net (a : Nat) (v : Word) : (s.setW a v).net = s.net := rfl
@[simp] theorem State.setW_od (a : Nat) (v : Word) : (s.setW a v).od = s.od := rfl

/-! ### setF -/

@[simp] theorem State.setF_pending (b : Nat) (f : Fld) (v : Nat) : (s.setF b f v).pending = s.pending := rfl
@[simp] theorem State.setF_free (b : Nat) (f : Fld) (v : Nat) : (s.setF b f v).free = s.free := rfl
@[simp] theorem State.setF_clk (b : Nat) (f : Fld) (v : Nat) : (s.setF b f v).clk = s.clk := rfl
@[simp] theorem State.setF_tv (b : Nat) (f : Fld) (v : Nat) : (s.setF b f v).tv = s.tv := rfl
@[simp] theorem State.setF_cal (b : Nat) (f : Fld) (v : Nat) : (s.setF b f v).cal = s.cal := rfl
@[simp] theorem State.setF_boots (b : Nat) (f : Fld) (v : Nat) : (s.setF b f v).boots = s.boots := rfl
@[simp] theorem State.setF_fuses (b : Nat) (f : Fld) (v : Nat) : (s.setF b f v).fuses = s.fuses := rfl
@[simp] theorem State.setF_flash (b : Nat) (f : Fld) (v : Nat) : (s.setF b f v).flash = s.flash := rfl
@[simp] theorem State.setF_wear (b : Nat) (f : Fld) (v : Nat) : (s.setF b f v).wear = s.wear := rfl
@[simp] theorem State.setF_boot (b : Nat) (f : Fld) (v : Nat) : (s.setF b f v).boot = s.boot := rfl
@[simp] theorem State.setF_stores (b : Nat) (f : Fld) (v : Nat) : (s.setF b f v).stores = s.stores := rfl
@[simp] theorem State.setF_storeOutcome (b : Nat) (f : Fld) (v : Nat) : (s.setF b f v).storeOutcome = s.storeOutcome := rfl
@[simp] theorem State.setF_eqs (b : Nat) (f : Fld) (v : Nat) : (s.setF b f v).eqs = s.eqs := rfl
@[simp] theorem State.setF_erases (b : Nat) (f : Fld) (v : Nat) : (s.setF b f v).erases = s.erases := rfl
@[simp] theorem State.setF_temps (b : Nat) (f : Fld) (v : Nat) : (s.setF b f v).temps = s.temps := rfl
@[simp] theorem State.setF_hotMs (b : Nat) (f : Fld) (v : Nat) : (s.setF b f v).hotMs = s.hotMs := rfl
@[simp] theorem State.setF_rowsUsed (b : Nat) (f : Fld) (v : Nat) : (s.setF b f v).rowsUsed = s.rowsUsed := rfl
@[simp] theorem State.setF_repairing (b : Nat) (f : Fld) (v : Nat) : (s.setF b f v).repairing = s.repairing := rfl
@[simp] theorem State.setF_repairFix (b : Nat) (f : Fld) (v : Nat) : (s.setF b f v).repairFix = s.repairFix := rfl
@[simp] theorem State.setF_vatExh (b : Nat) (f : Fld) (v : Nat) : (s.setF b f v).vatExh = s.vatExh := rfl
@[simp] theorem State.setF_tb (b : Nat) (f : Fld) (v : Nat) : (s.setF b f v).tb = s.tb := rfl
@[simp] theorem State.setF_maps (b : Nat) (f : Fld) (v : Nat) : (s.setF b f v).maps = s.maps := rfl
@[simp] theorem State.setF_mapLogs (b : Nat) (f : Fld) (v : Nat) : (s.setF b f v).mapLogs = s.mapLogs := rfl
@[simp] theorem State.setF_mapLost (b : Nat) (f : Fld) (v : Nat) : (s.setF b f v).mapLost = s.mapLost := rfl
@[simp] theorem State.setF_paths (b : Nat) (f : Fld) (v : Nat) : (s.setF b f v).paths = s.paths := rfl
@[simp] theorem State.setF_lcp (b : Nat) (f : Fld) (v : Nat) : (s.setF b f v).lcp = s.lcp := rfl
@[simp] theorem State.setF_unlockBy (b : Nat) (f : Fld) (v : Nat) : (s.setF b f v).unlockBy = s.unlockBy := rfl
@[simp] theorem State.setF_chans (b : Nat) (f : Fld) (v : Nat) : (s.setF b f v).chans = s.chans := rfl
@[simp] theorem State.setF_spares (b : Nat) (f : Fld) (v : Nat) : (s.setF b f v).spares = s.spares := rfl
@[simp] theorem State.setF_fes (b : Nat) (f : Fld) (v : Nat) : (s.setF b f v).fes = s.fes := rfl
@[simp] theorem State.setF_pacers (b : Nat) (f : Fld) (v : Nat) : (s.setF b f v).pacers = s.pacers := rfl
@[simp] theorem State.setF_lastStrobe (b : Nat) (f : Fld) (v : Nat) : (s.setF b f v).lastStrobe = s.lastStrobe := rfl
@[simp] theorem State.setF_units (b : Nat) (f : Fld) (v : Nat) : (s.setF b f v).units = s.units := rfl
@[simp] theorem State.setF_outPulse (b : Nat) (f : Fld) (v : Nat) : (s.setF b f v).outPulse = s.outPulse := rfl
@[simp] theorem State.setF_stlPulse (b : Nat) (f : Fld) (v : Nat) : (s.setF b f v).stlPulse = s.stlPulse := rfl
@[simp] theorem State.setF_stlIn (b : Nat) (f : Fld) (v : Nat) : (s.setF b f v).stlIn = s.stlIn := rfl
@[simp] theorem State.setF_pinLast (b : Nat) (f : Fld) (v : Nat) : (s.setF b f v).pinLast = s.pinLast := rfl
@[simp] theorem State.setF_blocks (b : Nat) (f : Fld) (v : Nat) : (s.setF b f v).blocks = s.blocks := rfl
@[simp] theorem State.setF_vat (b : Nat) (f : Fld) (v : Nat) : (s.setF b f v).vat = s.vat := rfl
@[simp] theorem State.setF_vatCE (b : Nat) (f : Fld) (v : Nat) : (s.setF b f v).vatCE = s.vatCE := rfl
@[simp] theorem State.setF_vatUE (b : Nat) (f : Fld) (v : Nat) : (s.setF b f v).vatUE = s.vatUE := rfl
@[simp] theorem State.setF_lake (b : Nat) (f : Fld) (v : Nat) : (s.setF b f v).lake = s.lake := rfl
@[simp] theorem State.setF_lakeZero (b : Nat) (f : Fld) (v : Nat) : (s.setF b f v).lakeZero = s.lakeZero := rfl
@[simp] theorem State.setF_lakeCE (b : Nat) (f : Fld) (v : Nat) : (s.setF b f v).lakeCE = s.lakeCE := rfl
@[simp] theorem State.setF_lakeUE (b : Nat) (f : Fld) (v : Nat) : (s.setF b f v).lakeUE = s.lakeUE := rfl
@[simp] theorem State.setF_indigo (b : Nat) (f : Fld) (v : Nat) : (s.setF b f v).indigo = s.indigo := rfl
@[simp] theorem State.setF_link0 (b : Nat) (f : Fld) (v : Nat) : (s.setF b f v).link0 = s.link0 := rfl
@[simp] theorem State.setF_link1 (b : Nat) (f : Fld) (v : Nat) : (s.setF b f v).link1 = s.link1 := rfl
@[simp] theorem State.setF_net (b : Nat) (f : Fld) (v : Nat) : (s.setF b f v).net = s.net := rfl
@[simp] theorem State.setF_od (b : Nat) (f : Fld) (v : Nat) : (s.setF b f v).od = s.od := rfl

/-! ### raise -/

@[simp] theorem State.raise_pending (b : Nat) (f : Fld) : (s.raise b f).pending = s.pending := rfl
@[simp] theorem State.raise_free (b : Nat) (f : Fld) : (s.raise b f).free = s.free := rfl
@[simp] theorem State.raise_clk (b : Nat) (f : Fld) : (s.raise b f).clk = s.clk := rfl
@[simp] theorem State.raise_tv (b : Nat) (f : Fld) : (s.raise b f).tv = s.tv := rfl
@[simp] theorem State.raise_cal (b : Nat) (f : Fld) : (s.raise b f).cal = s.cal := rfl
@[simp] theorem State.raise_boots (b : Nat) (f : Fld) : (s.raise b f).boots = s.boots := rfl
@[simp] theorem State.raise_fuses (b : Nat) (f : Fld) : (s.raise b f).fuses = s.fuses := rfl
@[simp] theorem State.raise_flash (b : Nat) (f : Fld) : (s.raise b f).flash = s.flash := rfl
@[simp] theorem State.raise_wear (b : Nat) (f : Fld) : (s.raise b f).wear = s.wear := rfl
@[simp] theorem State.raise_boot (b : Nat) (f : Fld) : (s.raise b f).boot = s.boot := rfl
@[simp] theorem State.raise_stores (b : Nat) (f : Fld) : (s.raise b f).stores = s.stores := rfl
@[simp] theorem State.raise_storeOutcome (b : Nat) (f : Fld) : (s.raise b f).storeOutcome = s.storeOutcome := rfl
@[simp] theorem State.raise_eqs (b : Nat) (f : Fld) : (s.raise b f).eqs = s.eqs := rfl
@[simp] theorem State.raise_erases (b : Nat) (f : Fld) : (s.raise b f).erases = s.erases := rfl
@[simp] theorem State.raise_temps (b : Nat) (f : Fld) : (s.raise b f).temps = s.temps := rfl
@[simp] theorem State.raise_hotMs (b : Nat) (f : Fld) : (s.raise b f).hotMs = s.hotMs := rfl
@[simp] theorem State.raise_rowsUsed (b : Nat) (f : Fld) : (s.raise b f).rowsUsed = s.rowsUsed := rfl
@[simp] theorem State.raise_repairing (b : Nat) (f : Fld) : (s.raise b f).repairing = s.repairing := rfl
@[simp] theorem State.raise_repairFix (b : Nat) (f : Fld) : (s.raise b f).repairFix = s.repairFix := rfl
@[simp] theorem State.raise_vatExh (b : Nat) (f : Fld) : (s.raise b f).vatExh = s.vatExh := rfl
@[simp] theorem State.raise_tb (b : Nat) (f : Fld) : (s.raise b f).tb = s.tb := rfl
@[simp] theorem State.raise_maps (b : Nat) (f : Fld) : (s.raise b f).maps = s.maps := rfl
@[simp] theorem State.raise_mapLogs (b : Nat) (f : Fld) : (s.raise b f).mapLogs = s.mapLogs := rfl
@[simp] theorem State.raise_mapLost (b : Nat) (f : Fld) : (s.raise b f).mapLost = s.mapLost := rfl
@[simp] theorem State.raise_paths (b : Nat) (f : Fld) : (s.raise b f).paths = s.paths := rfl
@[simp] theorem State.raise_lcp (b : Nat) (f : Fld) : (s.raise b f).lcp = s.lcp := rfl
@[simp] theorem State.raise_unlockBy (b : Nat) (f : Fld) : (s.raise b f).unlockBy = s.unlockBy := rfl
@[simp] theorem State.raise_chans (b : Nat) (f : Fld) : (s.raise b f).chans = s.chans := rfl
@[simp] theorem State.raise_spares (b : Nat) (f : Fld) : (s.raise b f).spares = s.spares := rfl
@[simp] theorem State.raise_fes (b : Nat) (f : Fld) : (s.raise b f).fes = s.fes := rfl
@[simp] theorem State.raise_pacers (b : Nat) (f : Fld) : (s.raise b f).pacers = s.pacers := rfl
@[simp] theorem State.raise_lastStrobe (b : Nat) (f : Fld) : (s.raise b f).lastStrobe = s.lastStrobe := rfl
@[simp] theorem State.raise_units (b : Nat) (f : Fld) : (s.raise b f).units = s.units := rfl
@[simp] theorem State.raise_outPulse (b : Nat) (f : Fld) : (s.raise b f).outPulse = s.outPulse := rfl
@[simp] theorem State.raise_stlPulse (b : Nat) (f : Fld) : (s.raise b f).stlPulse = s.stlPulse := rfl
@[simp] theorem State.raise_stlIn (b : Nat) (f : Fld) : (s.raise b f).stlIn = s.stlIn := rfl
@[simp] theorem State.raise_pinLast (b : Nat) (f : Fld) : (s.raise b f).pinLast = s.pinLast := rfl
@[simp] theorem State.raise_blocks (b : Nat) (f : Fld) : (s.raise b f).blocks = s.blocks := rfl
@[simp] theorem State.raise_vat (b : Nat) (f : Fld) : (s.raise b f).vat = s.vat := rfl
@[simp] theorem State.raise_vatCE (b : Nat) (f : Fld) : (s.raise b f).vatCE = s.vatCE := rfl
@[simp] theorem State.raise_vatUE (b : Nat) (f : Fld) : (s.raise b f).vatUE = s.vatUE := rfl
@[simp] theorem State.raise_lake (b : Nat) (f : Fld) : (s.raise b f).lake = s.lake := rfl
@[simp] theorem State.raise_lakeZero (b : Nat) (f : Fld) : (s.raise b f).lakeZero = s.lakeZero := rfl
@[simp] theorem State.raise_lakeCE (b : Nat) (f : Fld) : (s.raise b f).lakeCE = s.lakeCE := rfl
@[simp] theorem State.raise_lakeUE (b : Nat) (f : Fld) : (s.raise b f).lakeUE = s.lakeUE := rfl
@[simp] theorem State.raise_indigo (b : Nat) (f : Fld) : (s.raise b f).indigo = s.indigo := rfl
@[simp] theorem State.raise_link0 (b : Nat) (f : Fld) : (s.raise b f).link0 = s.link0 := rfl
@[simp] theorem State.raise_link1 (b : Nat) (f : Fld) : (s.raise b f).link1 = s.link1 := rfl
@[simp] theorem State.raise_net (b : Nat) (f : Fld) : (s.raise b f).net = s.net := rfl
@[simp] theorem State.raise_od (b : Nat) (f : Fld) : (s.raise b f).od = s.od := rfl

/-! ### setB -/

@[simp] theorem State.setB_pending (b : Nat) (f : Fld) (v : Bool) : (s.setB b f v).pending = s.pending := rfl
@[simp] theorem State.setB_free (b : Nat) (f : Fld) (v : Bool) : (s.setB b f v).free = s.free := rfl
@[simp] theorem State.setB_clk (b : Nat) (f : Fld) (v : Bool) : (s.setB b f v).clk = s.clk := rfl
@[simp] theorem State.setB_tv (b : Nat) (f : Fld) (v : Bool) : (s.setB b f v).tv = s.tv := rfl
@[simp] theorem State.setB_cal (b : Nat) (f : Fld) (v : Bool) : (s.setB b f v).cal = s.cal := rfl
@[simp] theorem State.setB_boots (b : Nat) (f : Fld) (v : Bool) : (s.setB b f v).boots = s.boots := rfl
@[simp] theorem State.setB_fuses (b : Nat) (f : Fld) (v : Bool) : (s.setB b f v).fuses = s.fuses := rfl
@[simp] theorem State.setB_flash (b : Nat) (f : Fld) (v : Bool) : (s.setB b f v).flash = s.flash := rfl
@[simp] theorem State.setB_wear (b : Nat) (f : Fld) (v : Bool) : (s.setB b f v).wear = s.wear := rfl
@[simp] theorem State.setB_boot (b : Nat) (f : Fld) (v : Bool) : (s.setB b f v).boot = s.boot := rfl
@[simp] theorem State.setB_stores (b : Nat) (f : Fld) (v : Bool) : (s.setB b f v).stores = s.stores := rfl
@[simp] theorem State.setB_storeOutcome (b : Nat) (f : Fld) (v : Bool) : (s.setB b f v).storeOutcome = s.storeOutcome := rfl
@[simp] theorem State.setB_eqs (b : Nat) (f : Fld) (v : Bool) : (s.setB b f v).eqs = s.eqs := rfl
@[simp] theorem State.setB_erases (b : Nat) (f : Fld) (v : Bool) : (s.setB b f v).erases = s.erases := rfl
@[simp] theorem State.setB_temps (b : Nat) (f : Fld) (v : Bool) : (s.setB b f v).temps = s.temps := rfl
@[simp] theorem State.setB_hotMs (b : Nat) (f : Fld) (v : Bool) : (s.setB b f v).hotMs = s.hotMs := rfl
@[simp] theorem State.setB_rowsUsed (b : Nat) (f : Fld) (v : Bool) : (s.setB b f v).rowsUsed = s.rowsUsed := rfl
@[simp] theorem State.setB_repairing (b : Nat) (f : Fld) (v : Bool) : (s.setB b f v).repairing = s.repairing := rfl
@[simp] theorem State.setB_repairFix (b : Nat) (f : Fld) (v : Bool) : (s.setB b f v).repairFix = s.repairFix := rfl
@[simp] theorem State.setB_vatExh (b : Nat) (f : Fld) (v : Bool) : (s.setB b f v).vatExh = s.vatExh := rfl
@[simp] theorem State.setB_tb (b : Nat) (f : Fld) (v : Bool) : (s.setB b f v).tb = s.tb := rfl
@[simp] theorem State.setB_maps (b : Nat) (f : Fld) (v : Bool) : (s.setB b f v).maps = s.maps := rfl
@[simp] theorem State.setB_mapLogs (b : Nat) (f : Fld) (v : Bool) : (s.setB b f v).mapLogs = s.mapLogs := rfl
@[simp] theorem State.setB_mapLost (b : Nat) (f : Fld) (v : Bool) : (s.setB b f v).mapLost = s.mapLost := rfl
@[simp] theorem State.setB_paths (b : Nat) (f : Fld) (v : Bool) : (s.setB b f v).paths = s.paths := rfl
@[simp] theorem State.setB_lcp (b : Nat) (f : Fld) (v : Bool) : (s.setB b f v).lcp = s.lcp := rfl
@[simp] theorem State.setB_unlockBy (b : Nat) (f : Fld) (v : Bool) : (s.setB b f v).unlockBy = s.unlockBy := rfl
@[simp] theorem State.setB_chans (b : Nat) (f : Fld) (v : Bool) : (s.setB b f v).chans = s.chans := rfl
@[simp] theorem State.setB_spares (b : Nat) (f : Fld) (v : Bool) : (s.setB b f v).spares = s.spares := rfl
@[simp] theorem State.setB_fes (b : Nat) (f : Fld) (v : Bool) : (s.setB b f v).fes = s.fes := rfl
@[simp] theorem State.setB_pacers (b : Nat) (f : Fld) (v : Bool) : (s.setB b f v).pacers = s.pacers := rfl
@[simp] theorem State.setB_lastStrobe (b : Nat) (f : Fld) (v : Bool) : (s.setB b f v).lastStrobe = s.lastStrobe := rfl
@[simp] theorem State.setB_units (b : Nat) (f : Fld) (v : Bool) : (s.setB b f v).units = s.units := rfl
@[simp] theorem State.setB_outPulse (b : Nat) (f : Fld) (v : Bool) : (s.setB b f v).outPulse = s.outPulse := rfl
@[simp] theorem State.setB_stlPulse (b : Nat) (f : Fld) (v : Bool) : (s.setB b f v).stlPulse = s.stlPulse := rfl
@[simp] theorem State.setB_stlIn (b : Nat) (f : Fld) (v : Bool) : (s.setB b f v).stlIn = s.stlIn := rfl
@[simp] theorem State.setB_pinLast (b : Nat) (f : Fld) (v : Bool) : (s.setB b f v).pinLast = s.pinLast := rfl
@[simp] theorem State.setB_blocks (b : Nat) (f : Fld) (v : Bool) : (s.setB b f v).blocks = s.blocks := rfl
@[simp] theorem State.setB_vat (b : Nat) (f : Fld) (v : Bool) : (s.setB b f v).vat = s.vat := rfl
@[simp] theorem State.setB_vatCE (b : Nat) (f : Fld) (v : Bool) : (s.setB b f v).vatCE = s.vatCE := rfl
@[simp] theorem State.setB_vatUE (b : Nat) (f : Fld) (v : Bool) : (s.setB b f v).vatUE = s.vatUE := rfl
@[simp] theorem State.setB_lake (b : Nat) (f : Fld) (v : Bool) : (s.setB b f v).lake = s.lake := rfl
@[simp] theorem State.setB_lakeZero (b : Nat) (f : Fld) (v : Bool) : (s.setB b f v).lakeZero = s.lakeZero := rfl
@[simp] theorem State.setB_lakeCE (b : Nat) (f : Fld) (v : Bool) : (s.setB b f v).lakeCE = s.lakeCE := rfl
@[simp] theorem State.setB_lakeUE (b : Nat) (f : Fld) (v : Bool) : (s.setB b f v).lakeUE = s.lakeUE := rfl
@[simp] theorem State.setB_indigo (b : Nat) (f : Fld) (v : Bool) : (s.setB b f v).indigo = s.indigo := rfl
@[simp] theorem State.setB_link0 (b : Nat) (f : Fld) (v : Bool) : (s.setB b f v).link0 = s.link0 := rfl
@[simp] theorem State.setB_link1 (b : Nat) (f : Fld) (v : Bool) : (s.setB b f v).link1 = s.link1 := rfl
@[simp] theorem State.setB_net (b : Nat) (f : Fld) (v : Bool) : (s.setB b f v).net = s.net := rfl
@[simp] theorem State.setB_od (b : Nat) (f : Fld) (v : Bool) : (s.setB b f v).od = s.od := rfl

/-! ### setPair -/

@[simp] theorem State.setPair_pending (a v : Nat) : (s.setPair a v).pending = s.pending := by rw [State.setPair, State.setW_pending, State.setW_pending]
@[simp] theorem State.setPair_free (a v : Nat) : (s.setPair a v).free = s.free := by rw [State.setPair, State.setW_free, State.setW_free]
@[simp] theorem State.setPair_clk (a v : Nat) : (s.setPair a v).clk = s.clk := by rw [State.setPair, State.setW_clk, State.setW_clk]
@[simp] theorem State.setPair_tv (a v : Nat) : (s.setPair a v).tv = s.tv := by rw [State.setPair, State.setW_tv, State.setW_tv]
@[simp] theorem State.setPair_cal (a v : Nat) : (s.setPair a v).cal = s.cal := by rw [State.setPair, State.setW_cal, State.setW_cal]
@[simp] theorem State.setPair_boots (a v : Nat) : (s.setPair a v).boots = s.boots := by rw [State.setPair, State.setW_boots, State.setW_boots]
@[simp] theorem State.setPair_fuses (a v : Nat) : (s.setPair a v).fuses = s.fuses := by rw [State.setPair, State.setW_fuses, State.setW_fuses]
@[simp] theorem State.setPair_flash (a v : Nat) : (s.setPair a v).flash = s.flash := by rw [State.setPair, State.setW_flash, State.setW_flash]
@[simp] theorem State.setPair_wear (a v : Nat) : (s.setPair a v).wear = s.wear := by rw [State.setPair, State.setW_wear, State.setW_wear]
@[simp] theorem State.setPair_boot (a v : Nat) : (s.setPair a v).boot = s.boot := by rw [State.setPair, State.setW_boot, State.setW_boot]
@[simp] theorem State.setPair_stores (a v : Nat) : (s.setPair a v).stores = s.stores := by rw [State.setPair, State.setW_stores, State.setW_stores]
@[simp] theorem State.setPair_storeOutcome (a v : Nat) : (s.setPair a v).storeOutcome = s.storeOutcome := by rw [State.setPair, State.setW_storeOutcome, State.setW_storeOutcome]
@[simp] theorem State.setPair_eqs (a v : Nat) : (s.setPair a v).eqs = s.eqs := by rw [State.setPair, State.setW_eqs, State.setW_eqs]
@[simp] theorem State.setPair_erases (a v : Nat) : (s.setPair a v).erases = s.erases := by rw [State.setPair, State.setW_erases, State.setW_erases]
@[simp] theorem State.setPair_temps (a v : Nat) : (s.setPair a v).temps = s.temps := by rw [State.setPair, State.setW_temps, State.setW_temps]
@[simp] theorem State.setPair_hotMs (a v : Nat) : (s.setPair a v).hotMs = s.hotMs := by rw [State.setPair, State.setW_hotMs, State.setW_hotMs]
@[simp] theorem State.setPair_rowsUsed (a v : Nat) : (s.setPair a v).rowsUsed = s.rowsUsed := by rw [State.setPair, State.setW_rowsUsed, State.setW_rowsUsed]
@[simp] theorem State.setPair_repairing (a v : Nat) : (s.setPair a v).repairing = s.repairing := by rw [State.setPair, State.setW_repairing, State.setW_repairing]
@[simp] theorem State.setPair_repairFix (a v : Nat) : (s.setPair a v).repairFix = s.repairFix := by rw [State.setPair, State.setW_repairFix, State.setW_repairFix]
@[simp] theorem State.setPair_vatExh (a v : Nat) : (s.setPair a v).vatExh = s.vatExh := by rw [State.setPair, State.setW_vatExh, State.setW_vatExh]
@[simp] theorem State.setPair_tb (a v : Nat) : (s.setPair a v).tb = s.tb := by rw [State.setPair, State.setW_tb, State.setW_tb]
@[simp] theorem State.setPair_maps (a v : Nat) : (s.setPair a v).maps = s.maps := by rw [State.setPair, State.setW_maps, State.setW_maps]
@[simp] theorem State.setPair_mapLogs (a v : Nat) : (s.setPair a v).mapLogs = s.mapLogs := by rw [State.setPair, State.setW_mapLogs, State.setW_mapLogs]
@[simp] theorem State.setPair_mapLost (a v : Nat) : (s.setPair a v).mapLost = s.mapLost := by rw [State.setPair, State.setW_mapLost, State.setW_mapLost]
@[simp] theorem State.setPair_paths (a v : Nat) : (s.setPair a v).paths = s.paths := by rw [State.setPair, State.setW_paths, State.setW_paths]
@[simp] theorem State.setPair_lcp (a v : Nat) : (s.setPair a v).lcp = s.lcp := by rw [State.setPair, State.setW_lcp, State.setW_lcp]
@[simp] theorem State.setPair_unlockBy (a v : Nat) : (s.setPair a v).unlockBy = s.unlockBy := by rw [State.setPair, State.setW_unlockBy, State.setW_unlockBy]
@[simp] theorem State.setPair_chans (a v : Nat) : (s.setPair a v).chans = s.chans := by rw [State.setPair, State.setW_chans, State.setW_chans]
@[simp] theorem State.setPair_spares (a v : Nat) : (s.setPair a v).spares = s.spares := by rw [State.setPair, State.setW_spares, State.setW_spares]
@[simp] theorem State.setPair_fes (a v : Nat) : (s.setPair a v).fes = s.fes := by rw [State.setPair, State.setW_fes, State.setW_fes]
@[simp] theorem State.setPair_pacers (a v : Nat) : (s.setPair a v).pacers = s.pacers := by rw [State.setPair, State.setW_pacers, State.setW_pacers]
@[simp] theorem State.setPair_lastStrobe (a v : Nat) : (s.setPair a v).lastStrobe = s.lastStrobe := by rw [State.setPair, State.setW_lastStrobe, State.setW_lastStrobe]
@[simp] theorem State.setPair_units (a v : Nat) : (s.setPair a v).units = s.units := by rw [State.setPair, State.setW_units, State.setW_units]
@[simp] theorem State.setPair_outPulse (a v : Nat) : (s.setPair a v).outPulse = s.outPulse := by rw [State.setPair, State.setW_outPulse, State.setW_outPulse]
@[simp] theorem State.setPair_stlPulse (a v : Nat) : (s.setPair a v).stlPulse = s.stlPulse := by rw [State.setPair, State.setW_stlPulse, State.setW_stlPulse]
@[simp] theorem State.setPair_stlIn (a v : Nat) : (s.setPair a v).stlIn = s.stlIn := by rw [State.setPair, State.setW_stlIn, State.setW_stlIn]
@[simp] theorem State.setPair_pinLast (a v : Nat) : (s.setPair a v).pinLast = s.pinLast := by rw [State.setPair, State.setW_pinLast, State.setW_pinLast]
@[simp] theorem State.setPair_blocks (a v : Nat) : (s.setPair a v).blocks = s.blocks := by rw [State.setPair, State.setW_blocks, State.setW_blocks]
@[simp] theorem State.setPair_vat (a v : Nat) : (s.setPair a v).vat = s.vat := by rw [State.setPair, State.setW_vat, State.setW_vat]
@[simp] theorem State.setPair_vatCE (a v : Nat) : (s.setPair a v).vatCE = s.vatCE := by rw [State.setPair, State.setW_vatCE, State.setW_vatCE]
@[simp] theorem State.setPair_vatUE (a v : Nat) : (s.setPair a v).vatUE = s.vatUE := by rw [State.setPair, State.setW_vatUE, State.setW_vatUE]
@[simp] theorem State.setPair_lake (a v : Nat) : (s.setPair a v).lake = s.lake := by rw [State.setPair, State.setW_lake, State.setW_lake]
@[simp] theorem State.setPair_lakeZero (a v : Nat) : (s.setPair a v).lakeZero = s.lakeZero := by rw [State.setPair, State.setW_lakeZero, State.setW_lakeZero]
@[simp] theorem State.setPair_lakeCE (a v : Nat) : (s.setPair a v).lakeCE = s.lakeCE := by rw [State.setPair, State.setW_lakeCE, State.setW_lakeCE]
@[simp] theorem State.setPair_lakeUE (a v : Nat) : (s.setPair a v).lakeUE = s.lakeUE := by rw [State.setPair, State.setW_lakeUE, State.setW_lakeUE]
@[simp] theorem State.setPair_indigo (a v : Nat) : (s.setPair a v).indigo = s.indigo := by rw [State.setPair, State.setW_indigo, State.setW_indigo]
@[simp] theorem State.setPair_link0 (a v : Nat) : (s.setPair a v).link0 = s.link0 := by rw [State.setPair, State.setW_link0, State.setW_link0]
@[simp] theorem State.setPair_link1 (a v : Nat) : (s.setPair a v).link1 = s.link1 := by rw [State.setPair, State.setW_link1, State.setW_link1]
@[simp] theorem State.setPair_net (a v : Nat) : (s.setPair a v).net = s.net := by rw [State.setPair, State.setW_net, State.setW_net]
@[simp] theorem State.setPair_od (a v : Nat) : (s.setPair a v).od = s.od := by rw [State.setPair, State.setW_od, State.setW_od]

/-! ### count -/

@[simp] theorem State.count_pending (a n : Nat) : (s.count a n).pending = s.pending := by rw [State.count, State.setPair_pending]
@[simp] theorem State.count_free (a n : Nat) : (s.count a n).free = s.free := by rw [State.count, State.setPair_free]
@[simp] theorem State.count_clk (a n : Nat) : (s.count a n).clk = s.clk := by rw [State.count, State.setPair_clk]
@[simp] theorem State.count_tv (a n : Nat) : (s.count a n).tv = s.tv := by rw [State.count, State.setPair_tv]
@[simp] theorem State.count_cal (a n : Nat) : (s.count a n).cal = s.cal := by rw [State.count, State.setPair_cal]
@[simp] theorem State.count_boots (a n : Nat) : (s.count a n).boots = s.boots := by rw [State.count, State.setPair_boots]
@[simp] theorem State.count_fuses (a n : Nat) : (s.count a n).fuses = s.fuses := by rw [State.count, State.setPair_fuses]
@[simp] theorem State.count_flash (a n : Nat) : (s.count a n).flash = s.flash := by rw [State.count, State.setPair_flash]
@[simp] theorem State.count_wear (a n : Nat) : (s.count a n).wear = s.wear := by rw [State.count, State.setPair_wear]
@[simp] theorem State.count_boot (a n : Nat) : (s.count a n).boot = s.boot := by rw [State.count, State.setPair_boot]
@[simp] theorem State.count_stores (a n : Nat) : (s.count a n).stores = s.stores := by rw [State.count, State.setPair_stores]
@[simp] theorem State.count_storeOutcome (a n : Nat) : (s.count a n).storeOutcome = s.storeOutcome := by rw [State.count, State.setPair_storeOutcome]
@[simp] theorem State.count_eqs (a n : Nat) : (s.count a n).eqs = s.eqs := by rw [State.count, State.setPair_eqs]
@[simp] theorem State.count_erases (a n : Nat) : (s.count a n).erases = s.erases := by rw [State.count, State.setPair_erases]
@[simp] theorem State.count_temps (a n : Nat) : (s.count a n).temps = s.temps := by rw [State.count, State.setPair_temps]
@[simp] theorem State.count_hotMs (a n : Nat) : (s.count a n).hotMs = s.hotMs := by rw [State.count, State.setPair_hotMs]
@[simp] theorem State.count_rowsUsed (a n : Nat) : (s.count a n).rowsUsed = s.rowsUsed := by rw [State.count, State.setPair_rowsUsed]
@[simp] theorem State.count_repairing (a n : Nat) : (s.count a n).repairing = s.repairing := by rw [State.count, State.setPair_repairing]
@[simp] theorem State.count_repairFix (a n : Nat) : (s.count a n).repairFix = s.repairFix := by rw [State.count, State.setPair_repairFix]
@[simp] theorem State.count_vatExh (a n : Nat) : (s.count a n).vatExh = s.vatExh := by rw [State.count, State.setPair_vatExh]
@[simp] theorem State.count_tb (a n : Nat) : (s.count a n).tb = s.tb := by rw [State.count, State.setPair_tb]
@[simp] theorem State.count_maps (a n : Nat) : (s.count a n).maps = s.maps := by rw [State.count, State.setPair_maps]
@[simp] theorem State.count_mapLogs (a n : Nat) : (s.count a n).mapLogs = s.mapLogs := by rw [State.count, State.setPair_mapLogs]
@[simp] theorem State.count_mapLost (a n : Nat) : (s.count a n).mapLost = s.mapLost := by rw [State.count, State.setPair_mapLost]
@[simp] theorem State.count_paths (a n : Nat) : (s.count a n).paths = s.paths := by rw [State.count, State.setPair_paths]
@[simp] theorem State.count_lcp (a n : Nat) : (s.count a n).lcp = s.lcp := by rw [State.count, State.setPair_lcp]
@[simp] theorem State.count_unlockBy (a n : Nat) : (s.count a n).unlockBy = s.unlockBy := by rw [State.count, State.setPair_unlockBy]
@[simp] theorem State.count_chans (a n : Nat) : (s.count a n).chans = s.chans := by rw [State.count, State.setPair_chans]
@[simp] theorem State.count_spares (a n : Nat) : (s.count a n).spares = s.spares := by rw [State.count, State.setPair_spares]
@[simp] theorem State.count_fes (a n : Nat) : (s.count a n).fes = s.fes := by rw [State.count, State.setPair_fes]
@[simp] theorem State.count_pacers (a n : Nat) : (s.count a n).pacers = s.pacers := by rw [State.count, State.setPair_pacers]
@[simp] theorem State.count_lastStrobe (a n : Nat) : (s.count a n).lastStrobe = s.lastStrobe := by rw [State.count, State.setPair_lastStrobe]
@[simp] theorem State.count_units (a n : Nat) : (s.count a n).units = s.units := by rw [State.count, State.setPair_units]
@[simp] theorem State.count_outPulse (a n : Nat) : (s.count a n).outPulse = s.outPulse := by rw [State.count, State.setPair_outPulse]
@[simp] theorem State.count_stlPulse (a n : Nat) : (s.count a n).stlPulse = s.stlPulse := by rw [State.count, State.setPair_stlPulse]
@[simp] theorem State.count_stlIn (a n : Nat) : (s.count a n).stlIn = s.stlIn := by rw [State.count, State.setPair_stlIn]
@[simp] theorem State.count_pinLast (a n : Nat) : (s.count a n).pinLast = s.pinLast := by rw [State.count, State.setPair_pinLast]
@[simp] theorem State.count_blocks (a n : Nat) : (s.count a n).blocks = s.blocks := by rw [State.count, State.setPair_blocks]
@[simp] theorem State.count_vat (a n : Nat) : (s.count a n).vat = s.vat := by rw [State.count, State.setPair_vat]
@[simp] theorem State.count_vatCE (a n : Nat) : (s.count a n).vatCE = s.vatCE := by rw [State.count, State.setPair_vatCE]
@[simp] theorem State.count_vatUE (a n : Nat) : (s.count a n).vatUE = s.vatUE := by rw [State.count, State.setPair_vatUE]
@[simp] theorem State.count_lake (a n : Nat) : (s.count a n).lake = s.lake := by rw [State.count, State.setPair_lake]
@[simp] theorem State.count_lakeZero (a n : Nat) : (s.count a n).lakeZero = s.lakeZero := by rw [State.count, State.setPair_lakeZero]
@[simp] theorem State.count_lakeCE (a n : Nat) : (s.count a n).lakeCE = s.lakeCE := by rw [State.count, State.setPair_lakeCE]
@[simp] theorem State.count_lakeUE (a n : Nat) : (s.count a n).lakeUE = s.lakeUE := by rw [State.count, State.setPair_lakeUE]
@[simp] theorem State.count_indigo (a n : Nat) : (s.count a n).indigo = s.indigo := by rw [State.count, State.setPair_indigo]
@[simp] theorem State.count_link0 (a n : Nat) : (s.count a n).link0 = s.link0 := by rw [State.count, State.setPair_link0]
@[simp] theorem State.count_link1 (a n : Nat) : (s.count a n).link1 = s.link1 := by rw [State.count, State.setPair_link1]
@[simp] theorem State.count_net (a n : Nat) : (s.count a n).net = s.net := by rw [State.count, State.setPair_net]
@[simp] theorem State.count_od (a n : Nat) : (s.count a n).od = s.od := by rw [State.count, State.setPair_od]

/-! ### countSat -/

@[simp] theorem State.countSat_pending (b : Nat) (f : Fld) (n : Nat) : (s.countSat b f n).pending = s.pending := by rw [State.countSat, State.setF_pending]
@[simp] theorem State.countSat_free (b : Nat) (f : Fld) (n : Nat) : (s.countSat b f n).free = s.free := by rw [State.countSat, State.setF_free]
@[simp] theorem State.countSat_clk (b : Nat) (f : Fld) (n : Nat) : (s.countSat b f n).clk = s.clk := by rw [State.countSat, State.setF_clk]
@[simp] theorem State.countSat_tv (b : Nat) (f : Fld) (n : Nat) : (s.countSat b f n).tv = s.tv := by rw [State.countSat, State.setF_tv]
@[simp] theorem State.countSat_cal (b : Nat) (f : Fld) (n : Nat) : (s.countSat b f n).cal = s.cal := by rw [State.countSat, State.setF_cal]
@[simp] theorem State.countSat_boots (b : Nat) (f : Fld) (n : Nat) : (s.countSat b f n).boots = s.boots := by rw [State.countSat, State.setF_boots]
@[simp] theorem State.countSat_fuses (b : Nat) (f : Fld) (n : Nat) : (s.countSat b f n).fuses = s.fuses := by rw [State.countSat, State.setF_fuses]
@[simp] theorem State.countSat_flash (b : Nat) (f : Fld) (n : Nat) : (s.countSat b f n).flash = s.flash := by rw [State.countSat, State.setF_flash]
@[simp] theorem State.countSat_wear (b : Nat) (f : Fld) (n : Nat) : (s.countSat b f n).wear = s.wear := by rw [State.countSat, State.setF_wear]
@[simp] theorem State.countSat_boot (b : Nat) (f : Fld) (n : Nat) : (s.countSat b f n).boot = s.boot := by rw [State.countSat, State.setF_boot]
@[simp] theorem State.countSat_stores (b : Nat) (f : Fld) (n : Nat) : (s.countSat b f n).stores = s.stores := by rw [State.countSat, State.setF_stores]
@[simp] theorem State.countSat_storeOutcome (b : Nat) (f : Fld) (n : Nat) : (s.countSat b f n).storeOutcome = s.storeOutcome := by rw [State.countSat, State.setF_storeOutcome]
@[simp] theorem State.countSat_eqs (b : Nat) (f : Fld) (n : Nat) : (s.countSat b f n).eqs = s.eqs := by rw [State.countSat, State.setF_eqs]
@[simp] theorem State.countSat_erases (b : Nat) (f : Fld) (n : Nat) : (s.countSat b f n).erases = s.erases := by rw [State.countSat, State.setF_erases]
@[simp] theorem State.countSat_temps (b : Nat) (f : Fld) (n : Nat) : (s.countSat b f n).temps = s.temps := by rw [State.countSat, State.setF_temps]
@[simp] theorem State.countSat_hotMs (b : Nat) (f : Fld) (n : Nat) : (s.countSat b f n).hotMs = s.hotMs := by rw [State.countSat, State.setF_hotMs]
@[simp] theorem State.countSat_rowsUsed (b : Nat) (f : Fld) (n : Nat) : (s.countSat b f n).rowsUsed = s.rowsUsed := by rw [State.countSat, State.setF_rowsUsed]
@[simp] theorem State.countSat_repairing (b : Nat) (f : Fld) (n : Nat) : (s.countSat b f n).repairing = s.repairing := by rw [State.countSat, State.setF_repairing]
@[simp] theorem State.countSat_repairFix (b : Nat) (f : Fld) (n : Nat) : (s.countSat b f n).repairFix = s.repairFix := by rw [State.countSat, State.setF_repairFix]
@[simp] theorem State.countSat_vatExh (b : Nat) (f : Fld) (n : Nat) : (s.countSat b f n).vatExh = s.vatExh := by rw [State.countSat, State.setF_vatExh]
@[simp] theorem State.countSat_tb (b : Nat) (f : Fld) (n : Nat) : (s.countSat b f n).tb = s.tb := by rw [State.countSat, State.setF_tb]
@[simp] theorem State.countSat_maps (b : Nat) (f : Fld) (n : Nat) : (s.countSat b f n).maps = s.maps := by rw [State.countSat, State.setF_maps]
@[simp] theorem State.countSat_mapLogs (b : Nat) (f : Fld) (n : Nat) : (s.countSat b f n).mapLogs = s.mapLogs := by rw [State.countSat, State.setF_mapLogs]
@[simp] theorem State.countSat_mapLost (b : Nat) (f : Fld) (n : Nat) : (s.countSat b f n).mapLost = s.mapLost := by rw [State.countSat, State.setF_mapLost]
@[simp] theorem State.countSat_paths (b : Nat) (f : Fld) (n : Nat) : (s.countSat b f n).paths = s.paths := by rw [State.countSat, State.setF_paths]
@[simp] theorem State.countSat_lcp (b : Nat) (f : Fld) (n : Nat) : (s.countSat b f n).lcp = s.lcp := by rw [State.countSat, State.setF_lcp]
@[simp] theorem State.countSat_unlockBy (b : Nat) (f : Fld) (n : Nat) : (s.countSat b f n).unlockBy = s.unlockBy := by rw [State.countSat, State.setF_unlockBy]
@[simp] theorem State.countSat_chans (b : Nat) (f : Fld) (n : Nat) : (s.countSat b f n).chans = s.chans := by rw [State.countSat, State.setF_chans]
@[simp] theorem State.countSat_spares (b : Nat) (f : Fld) (n : Nat) : (s.countSat b f n).spares = s.spares := by rw [State.countSat, State.setF_spares]
@[simp] theorem State.countSat_fes (b : Nat) (f : Fld) (n : Nat) : (s.countSat b f n).fes = s.fes := by rw [State.countSat, State.setF_fes]
@[simp] theorem State.countSat_pacers (b : Nat) (f : Fld) (n : Nat) : (s.countSat b f n).pacers = s.pacers := by rw [State.countSat, State.setF_pacers]
@[simp] theorem State.countSat_lastStrobe (b : Nat) (f : Fld) (n : Nat) : (s.countSat b f n).lastStrobe = s.lastStrobe := by rw [State.countSat, State.setF_lastStrobe]
@[simp] theorem State.countSat_units (b : Nat) (f : Fld) (n : Nat) : (s.countSat b f n).units = s.units := by rw [State.countSat, State.setF_units]
@[simp] theorem State.countSat_outPulse (b : Nat) (f : Fld) (n : Nat) : (s.countSat b f n).outPulse = s.outPulse := by rw [State.countSat, State.setF_outPulse]
@[simp] theorem State.countSat_stlPulse (b : Nat) (f : Fld) (n : Nat) : (s.countSat b f n).stlPulse = s.stlPulse := by rw [State.countSat, State.setF_stlPulse]
@[simp] theorem State.countSat_stlIn (b : Nat) (f : Fld) (n : Nat) : (s.countSat b f n).stlIn = s.stlIn := by rw [State.countSat, State.setF_stlIn]
@[simp] theorem State.countSat_pinLast (b : Nat) (f : Fld) (n : Nat) : (s.countSat b f n).pinLast = s.pinLast := by rw [State.countSat, State.setF_pinLast]
@[simp] theorem State.countSat_blocks (b : Nat) (f : Fld) (n : Nat) : (s.countSat b f n).blocks = s.blocks := by rw [State.countSat, State.setF_blocks]
@[simp] theorem State.countSat_vat (b : Nat) (f : Fld) (n : Nat) : (s.countSat b f n).vat = s.vat := by rw [State.countSat, State.setF_vat]
@[simp] theorem State.countSat_vatCE (b : Nat) (f : Fld) (n : Nat) : (s.countSat b f n).vatCE = s.vatCE := by rw [State.countSat, State.setF_vatCE]
@[simp] theorem State.countSat_vatUE (b : Nat) (f : Fld) (n : Nat) : (s.countSat b f n).vatUE = s.vatUE := by rw [State.countSat, State.setF_vatUE]
@[simp] theorem State.countSat_lake (b : Nat) (f : Fld) (n : Nat) : (s.countSat b f n).lake = s.lake := by rw [State.countSat, State.setF_lake]
@[simp] theorem State.countSat_lakeZero (b : Nat) (f : Fld) (n : Nat) : (s.countSat b f n).lakeZero = s.lakeZero := by rw [State.countSat, State.setF_lakeZero]
@[simp] theorem State.countSat_lakeCE (b : Nat) (f : Fld) (n : Nat) : (s.countSat b f n).lakeCE = s.lakeCE := by rw [State.countSat, State.setF_lakeCE]
@[simp] theorem State.countSat_lakeUE (b : Nat) (f : Fld) (n : Nat) : (s.countSat b f n).lakeUE = s.lakeUE := by rw [State.countSat, State.setF_lakeUE]
@[simp] theorem State.countSat_indigo (b : Nat) (f : Fld) (n : Nat) : (s.countSat b f n).indigo = s.indigo := by rw [State.countSat, State.setF_indigo]
@[simp] theorem State.countSat_link0 (b : Nat) (f : Fld) (n : Nat) : (s.countSat b f n).link0 = s.link0 := by rw [State.countSat, State.setF_link0]
@[simp] theorem State.countSat_link1 (b : Nat) (f : Fld) (n : Nat) : (s.countSat b f n).link1 = s.link1 := by rw [State.countSat, State.setF_link1]
@[simp] theorem State.countSat_net (b : Nat) (f : Fld) (n : Nat) : (s.countSat b f n).net = s.net := by rw [State.countSat, State.setF_net]
@[simp] theorem State.countSat_od (b : Nat) (f : Fld) (n : Nat) : (s.countSat b f n).od = s.od := by rw [State.countSat, State.setF_od]

/-! ### setTv -/

@[simp] theorem State.setTv_pending (a : Nat) (v : Word) : (s.setTv a v).pending = s.pending := rfl
@[simp] theorem State.setTv_free (a : Nat) (v : Word) : (s.setTv a v).free = s.free := rfl
@[simp] theorem State.setTv_clk (a : Nat) (v : Word) : (s.setTv a v).clk = s.clk := rfl
@[simp] theorem State.setTv_regs (a : Nat) (v : Word) : (s.setTv a v).regs = s.regs := rfl
@[simp] theorem State.setTv_cal (a : Nat) (v : Word) : (s.setTv a v).cal = s.cal := rfl
@[simp] theorem State.setTv_boots (a : Nat) (v : Word) : (s.setTv a v).boots = s.boots := rfl
@[simp] theorem State.setTv_fuses (a : Nat) (v : Word) : (s.setTv a v).fuses = s.fuses := rfl
@[simp] theorem State.setTv_flash (a : Nat) (v : Word) : (s.setTv a v).flash = s.flash := rfl
@[simp] theorem State.setTv_wear (a : Nat) (v : Word) : (s.setTv a v).wear = s.wear := rfl
@[simp] theorem State.setTv_boot (a : Nat) (v : Word) : (s.setTv a v).boot = s.boot := rfl
@[simp] theorem State.setTv_stores (a : Nat) (v : Word) : (s.setTv a v).stores = s.stores := rfl
@[simp] theorem State.setTv_storeOutcome (a : Nat) (v : Word) : (s.setTv a v).storeOutcome = s.storeOutcome := rfl
@[simp] theorem State.setTv_eqs (a : Nat) (v : Word) : (s.setTv a v).eqs = s.eqs := rfl
@[simp] theorem State.setTv_erases (a : Nat) (v : Word) : (s.setTv a v).erases = s.erases := rfl
@[simp] theorem State.setTv_temps (a : Nat) (v : Word) : (s.setTv a v).temps = s.temps := rfl
@[simp] theorem State.setTv_hotMs (a : Nat) (v : Word) : (s.setTv a v).hotMs = s.hotMs := rfl
@[simp] theorem State.setTv_rowsUsed (a : Nat) (v : Word) : (s.setTv a v).rowsUsed = s.rowsUsed := rfl
@[simp] theorem State.setTv_repairing (a : Nat) (v : Word) : (s.setTv a v).repairing = s.repairing := rfl
@[simp] theorem State.setTv_repairFix (a : Nat) (v : Word) : (s.setTv a v).repairFix = s.repairFix := rfl
@[simp] theorem State.setTv_vatExh (a : Nat) (v : Word) : (s.setTv a v).vatExh = s.vatExh := rfl
@[simp] theorem State.setTv_tb (a : Nat) (v : Word) : (s.setTv a v).tb = s.tb := rfl
@[simp] theorem State.setTv_maps (a : Nat) (v : Word) : (s.setTv a v).maps = s.maps := rfl
@[simp] theorem State.setTv_mapLogs (a : Nat) (v : Word) : (s.setTv a v).mapLogs = s.mapLogs := rfl
@[simp] theorem State.setTv_mapLost (a : Nat) (v : Word) : (s.setTv a v).mapLost = s.mapLost := rfl
@[simp] theorem State.setTv_paths (a : Nat) (v : Word) : (s.setTv a v).paths = s.paths := rfl
@[simp] theorem State.setTv_lcp (a : Nat) (v : Word) : (s.setTv a v).lcp = s.lcp := rfl
@[simp] theorem State.setTv_unlockBy (a : Nat) (v : Word) : (s.setTv a v).unlockBy = s.unlockBy := rfl
@[simp] theorem State.setTv_chans (a : Nat) (v : Word) : (s.setTv a v).chans = s.chans := rfl
@[simp] theorem State.setTv_spares (a : Nat) (v : Word) : (s.setTv a v).spares = s.spares := rfl
@[simp] theorem State.setTv_fes (a : Nat) (v : Word) : (s.setTv a v).fes = s.fes := rfl
@[simp] theorem State.setTv_pacers (a : Nat) (v : Word) : (s.setTv a v).pacers = s.pacers := rfl
@[simp] theorem State.setTv_lastStrobe (a : Nat) (v : Word) : (s.setTv a v).lastStrobe = s.lastStrobe := rfl
@[simp] theorem State.setTv_units (a : Nat) (v : Word) : (s.setTv a v).units = s.units := rfl
@[simp] theorem State.setTv_outPulse (a : Nat) (v : Word) : (s.setTv a v).outPulse = s.outPulse := rfl
@[simp] theorem State.setTv_stlPulse (a : Nat) (v : Word) : (s.setTv a v).stlPulse = s.stlPulse := rfl
@[simp] theorem State.setTv_stlIn (a : Nat) (v : Word) : (s.setTv a v).stlIn = s.stlIn := rfl
@[simp] theorem State.setTv_pinLast (a : Nat) (v : Word) : (s.setTv a v).pinLast = s.pinLast := rfl
@[simp] theorem State.setTv_blocks (a : Nat) (v : Word) : (s.setTv a v).blocks = s.blocks := rfl
@[simp] theorem State.setTv_vat (a : Nat) (v : Word) : (s.setTv a v).vat = s.vat := rfl
@[simp] theorem State.setTv_vatCE (a : Nat) (v : Word) : (s.setTv a v).vatCE = s.vatCE := rfl
@[simp] theorem State.setTv_vatUE (a : Nat) (v : Word) : (s.setTv a v).vatUE = s.vatUE := rfl
@[simp] theorem State.setTv_lake (a : Nat) (v : Word) : (s.setTv a v).lake = s.lake := rfl
@[simp] theorem State.setTv_lakeZero (a : Nat) (v : Word) : (s.setTv a v).lakeZero = s.lakeZero := rfl
@[simp] theorem State.setTv_lakeCE (a : Nat) (v : Word) : (s.setTv a v).lakeCE = s.lakeCE := rfl
@[simp] theorem State.setTv_lakeUE (a : Nat) (v : Word) : (s.setTv a v).lakeUE = s.lakeUE := rfl
@[simp] theorem State.setTv_indigo (a : Nat) (v : Word) : (s.setTv a v).indigo = s.indigo := rfl
@[simp] theorem State.setTv_link0 (a : Nat) (v : Word) : (s.setTv a v).link0 = s.link0 := rfl
@[simp] theorem State.setTv_link1 (a : Nat) (v : Word) : (s.setTv a v).link1 = s.link1 := rfl
@[simp] theorem State.setTv_net (a : Nat) (v : Word) : (s.setTv a v).net = s.net := rfl
@[simp] theorem State.setTv_od (a : Nat) (v : Word) : (s.setTv a v).od = s.od := rfl

/-! ### setCal -/

@[simp] theorem State.setCal_pending (k : Nat) (v : Word) : (s.setCal k v).pending = s.pending := rfl
@[simp] theorem State.setCal_free (k : Nat) (v : Word) : (s.setCal k v).free = s.free := rfl
@[simp] theorem State.setCal_clk (k : Nat) (v : Word) : (s.setCal k v).clk = s.clk := rfl
@[simp] theorem State.setCal_regs (k : Nat) (v : Word) : (s.setCal k v).regs = s.regs := rfl
@[simp] theorem State.setCal_tv (k : Nat) (v : Word) : (s.setCal k v).tv = s.tv := rfl
@[simp] theorem State.setCal_boots (k : Nat) (v : Word) : (s.setCal k v).boots = s.boots := rfl
@[simp] theorem State.setCal_fuses (k : Nat) (v : Word) : (s.setCal k v).fuses = s.fuses := rfl
@[simp] theorem State.setCal_flash (k : Nat) (v : Word) : (s.setCal k v).flash = s.flash := rfl
@[simp] theorem State.setCal_wear (k : Nat) (v : Word) : (s.setCal k v).wear = s.wear := rfl
@[simp] theorem State.setCal_boot (k : Nat) (v : Word) : (s.setCal k v).boot = s.boot := rfl
@[simp] theorem State.setCal_stores (k : Nat) (v : Word) : (s.setCal k v).stores = s.stores := rfl
@[simp] theorem State.setCal_storeOutcome (k : Nat) (v : Word) : (s.setCal k v).storeOutcome = s.storeOutcome := rfl
@[simp] theorem State.setCal_eqs (k : Nat) (v : Word) : (s.setCal k v).eqs = s.eqs := rfl
@[simp] theorem State.setCal_erases (k : Nat) (v : Word) : (s.setCal k v).erases = s.erases := rfl
@[simp] theorem State.setCal_temps (k : Nat) (v : Word) : (s.setCal k v).temps = s.temps := rfl
@[simp] theorem State.setCal_hotMs (k : Nat) (v : Word) : (s.setCal k v).hotMs = s.hotMs := rfl
@[simp] theorem State.setCal_rowsUsed (k : Nat) (v : Word) : (s.setCal k v).rowsUsed = s.rowsUsed := rfl
@[simp] theorem State.setCal_repairing (k : Nat) (v : Word) : (s.setCal k v).repairing = s.repairing := rfl
@[simp] theorem State.setCal_repairFix (k : Nat) (v : Word) : (s.setCal k v).repairFix = s.repairFix := rfl
@[simp] theorem State.setCal_vatExh (k : Nat) (v : Word) : (s.setCal k v).vatExh = s.vatExh := rfl
@[simp] theorem State.setCal_tb (k : Nat) (v : Word) : (s.setCal k v).tb = s.tb := rfl
@[simp] theorem State.setCal_maps (k : Nat) (v : Word) : (s.setCal k v).maps = s.maps := rfl
@[simp] theorem State.setCal_mapLogs (k : Nat) (v : Word) : (s.setCal k v).mapLogs = s.mapLogs := rfl
@[simp] theorem State.setCal_mapLost (k : Nat) (v : Word) : (s.setCal k v).mapLost = s.mapLost := rfl
@[simp] theorem State.setCal_paths (k : Nat) (v : Word) : (s.setCal k v).paths = s.paths := rfl
@[simp] theorem State.setCal_lcp (k : Nat) (v : Word) : (s.setCal k v).lcp = s.lcp := rfl
@[simp] theorem State.setCal_unlockBy (k : Nat) (v : Word) : (s.setCal k v).unlockBy = s.unlockBy := rfl
@[simp] theorem State.setCal_chans (k : Nat) (v : Word) : (s.setCal k v).chans = s.chans := rfl
@[simp] theorem State.setCal_spares (k : Nat) (v : Word) : (s.setCal k v).spares = s.spares := rfl
@[simp] theorem State.setCal_fes (k : Nat) (v : Word) : (s.setCal k v).fes = s.fes := rfl
@[simp] theorem State.setCal_pacers (k : Nat) (v : Word) : (s.setCal k v).pacers = s.pacers := rfl
@[simp] theorem State.setCal_lastStrobe (k : Nat) (v : Word) : (s.setCal k v).lastStrobe = s.lastStrobe := rfl
@[simp] theorem State.setCal_units (k : Nat) (v : Word) : (s.setCal k v).units = s.units := rfl
@[simp] theorem State.setCal_outPulse (k : Nat) (v : Word) : (s.setCal k v).outPulse = s.outPulse := rfl
@[simp] theorem State.setCal_stlPulse (k : Nat) (v : Word) : (s.setCal k v).stlPulse = s.stlPulse := rfl
@[simp] theorem State.setCal_stlIn (k : Nat) (v : Word) : (s.setCal k v).stlIn = s.stlIn := rfl
@[simp] theorem State.setCal_pinLast (k : Nat) (v : Word) : (s.setCal k v).pinLast = s.pinLast := rfl
@[simp] theorem State.setCal_blocks (k : Nat) (v : Word) : (s.setCal k v).blocks = s.blocks := rfl
@[simp] theorem State.setCal_vat (k : Nat) (v : Word) : (s.setCal k v).vat = s.vat := rfl
@[simp] theorem State.setCal_vatCE (k : Nat) (v : Word) : (s.setCal k v).vatCE = s.vatCE := rfl
@[simp] theorem State.setCal_vatUE (k : Nat) (v : Word) : (s.setCal k v).vatUE = s.vatUE := rfl
@[simp] theorem State.setCal_lake (k : Nat) (v : Word) : (s.setCal k v).lake = s.lake := rfl
@[simp] theorem State.setCal_lakeZero (k : Nat) (v : Word) : (s.setCal k v).lakeZero = s.lakeZero := rfl
@[simp] theorem State.setCal_lakeCE (k : Nat) (v : Word) : (s.setCal k v).lakeCE = s.lakeCE := rfl
@[simp] theorem State.setCal_lakeUE (k : Nat) (v : Word) : (s.setCal k v).lakeUE = s.lakeUE := rfl
@[simp] theorem State.setCal_indigo (k : Nat) (v : Word) : (s.setCal k v).indigo = s.indigo := rfl
@[simp] theorem State.setCal_link0 (k : Nat) (v : Word) : (s.setCal k v).link0 = s.link0 := rfl
@[simp] theorem State.setCal_link1 (k : Nat) (v : Word) : (s.setCal k v).link1 = s.link1 := rfl
@[simp] theorem State.setCal_net (k : Nat) (v : Word) : (s.setCal k v).net = s.net := rfl
@[simp] theorem State.setCal_od (k : Nat) (v : Word) : (s.setCal k v).od = s.od := rfl

/-! ### setChan -/

@[simp] theorem State.setChan_pending (n : Ch) (c : Chan) : (s.setChan n c).pending = s.pending := rfl
@[simp] theorem State.setChan_free (n : Ch) (c : Chan) : (s.setChan n c).free = s.free := rfl
@[simp] theorem State.setChan_clk (n : Ch) (c : Chan) : (s.setChan n c).clk = s.clk := rfl
@[simp] theorem State.setChan_regs (n : Ch) (c : Chan) : (s.setChan n c).regs = s.regs := rfl
@[simp] theorem State.setChan_tv (n : Ch) (c : Chan) : (s.setChan n c).tv = s.tv := rfl
@[simp] theorem State.setChan_cal (n : Ch) (c : Chan) : (s.setChan n c).cal = s.cal := rfl
@[simp] theorem State.setChan_boots (n : Ch) (c : Chan) : (s.setChan n c).boots = s.boots := rfl
@[simp] theorem State.setChan_fuses (n : Ch) (c : Chan) : (s.setChan n c).fuses = s.fuses := rfl
@[simp] theorem State.setChan_flash (n : Ch) (c : Chan) : (s.setChan n c).flash = s.flash := rfl
@[simp] theorem State.setChan_wear (n : Ch) (c : Chan) : (s.setChan n c).wear = s.wear := rfl
@[simp] theorem State.setChan_boot (n : Ch) (c : Chan) : (s.setChan n c).boot = s.boot := rfl
@[simp] theorem State.setChan_stores (n : Ch) (c : Chan) : (s.setChan n c).stores = s.stores := rfl
@[simp] theorem State.setChan_storeOutcome (n : Ch) (c : Chan) : (s.setChan n c).storeOutcome = s.storeOutcome := rfl
@[simp] theorem State.setChan_eqs (n : Ch) (c : Chan) : (s.setChan n c).eqs = s.eqs := rfl
@[simp] theorem State.setChan_erases (n : Ch) (c : Chan) : (s.setChan n c).erases = s.erases := rfl
@[simp] theorem State.setChan_temps (n : Ch) (c : Chan) : (s.setChan n c).temps = s.temps := rfl
@[simp] theorem State.setChan_hotMs (n : Ch) (c : Chan) : (s.setChan n c).hotMs = s.hotMs := rfl
@[simp] theorem State.setChan_rowsUsed (n : Ch) (c : Chan) : (s.setChan n c).rowsUsed = s.rowsUsed := rfl
@[simp] theorem State.setChan_repairing (n : Ch) (c : Chan) : (s.setChan n c).repairing = s.repairing := rfl
@[simp] theorem State.setChan_repairFix (n : Ch) (c : Chan) : (s.setChan n c).repairFix = s.repairFix := rfl
@[simp] theorem State.setChan_vatExh (n : Ch) (c : Chan) : (s.setChan n c).vatExh = s.vatExh := rfl
@[simp] theorem State.setChan_tb (n : Ch) (c : Chan) : (s.setChan n c).tb = s.tb := rfl
@[simp] theorem State.setChan_maps (n : Ch) (c : Chan) : (s.setChan n c).maps = s.maps := rfl
@[simp] theorem State.setChan_mapLogs (n : Ch) (c : Chan) : (s.setChan n c).mapLogs = s.mapLogs := rfl
@[simp] theorem State.setChan_mapLost (n : Ch) (c : Chan) : (s.setChan n c).mapLost = s.mapLost := rfl
@[simp] theorem State.setChan_paths (n : Ch) (c : Chan) : (s.setChan n c).paths = s.paths := rfl
@[simp] theorem State.setChan_lcp (n : Ch) (c : Chan) : (s.setChan n c).lcp = s.lcp := rfl
@[simp] theorem State.setChan_unlockBy (n : Ch) (c : Chan) : (s.setChan n c).unlockBy = s.unlockBy := rfl
@[simp] theorem State.setChan_spares (n : Ch) (c : Chan) : (s.setChan n c).spares = s.spares := rfl
@[simp] theorem State.setChan_fes (n : Ch) (c : Chan) : (s.setChan n c).fes = s.fes := rfl
@[simp] theorem State.setChan_pacers (n : Ch) (c : Chan) : (s.setChan n c).pacers = s.pacers := rfl
@[simp] theorem State.setChan_lastStrobe (n : Ch) (c : Chan) : (s.setChan n c).lastStrobe = s.lastStrobe := rfl
@[simp] theorem State.setChan_units (n : Ch) (c : Chan) : (s.setChan n c).units = s.units := rfl
@[simp] theorem State.setChan_outPulse (n : Ch) (c : Chan) : (s.setChan n c).outPulse = s.outPulse := rfl
@[simp] theorem State.setChan_stlPulse (n : Ch) (c : Chan) : (s.setChan n c).stlPulse = s.stlPulse := rfl
@[simp] theorem State.setChan_stlIn (n : Ch) (c : Chan) : (s.setChan n c).stlIn = s.stlIn := rfl
@[simp] theorem State.setChan_pinLast (n : Ch) (c : Chan) : (s.setChan n c).pinLast = s.pinLast := rfl
@[simp] theorem State.setChan_blocks (n : Ch) (c : Chan) : (s.setChan n c).blocks = s.blocks := rfl
@[simp] theorem State.setChan_vat (n : Ch) (c : Chan) : (s.setChan n c).vat = s.vat := rfl
@[simp] theorem State.setChan_vatCE (n : Ch) (c : Chan) : (s.setChan n c).vatCE = s.vatCE := rfl
@[simp] theorem State.setChan_vatUE (n : Ch) (c : Chan) : (s.setChan n c).vatUE = s.vatUE := rfl
@[simp] theorem State.setChan_lake (n : Ch) (c : Chan) : (s.setChan n c).lake = s.lake := rfl
@[simp] theorem State.setChan_lakeZero (n : Ch) (c : Chan) : (s.setChan n c).lakeZero = s.lakeZero := rfl
@[simp] theorem State.setChan_lakeCE (n : Ch) (c : Chan) : (s.setChan n c).lakeCE = s.lakeCE := rfl
@[simp] theorem State.setChan_lakeUE (n : Ch) (c : Chan) : (s.setChan n c).lakeUE = s.lakeUE := rfl
@[simp] theorem State.setChan_indigo (n : Ch) (c : Chan) : (s.setChan n c).indigo = s.indigo := rfl
@[simp] theorem State.setChan_link0 (n : Ch) (c : Chan) : (s.setChan n c).link0 = s.link0 := rfl
@[simp] theorem State.setChan_link1 (n : Ch) (c : Chan) : (s.setChan n c).link1 = s.link1 := rfl
@[simp] theorem State.setChan_net (n : Ch) (c : Chan) : (s.setChan n c).net = s.net := rfl
@[simp] theorem State.setChan_od (n : Ch) (c : Chan) : (s.setChan n c).od = s.od := rfl

/-! ### setSpare -/

@[simp] theorem State.setSpare_pending (p : Spare) (x : SpareSt) : (s.setSpare p x).pending = s.pending := rfl
@[simp] theorem State.setSpare_free (p : Spare) (x : SpareSt) : (s.setSpare p x).free = s.free := rfl
@[simp] theorem State.setSpare_clk (p : Spare) (x : SpareSt) : (s.setSpare p x).clk = s.clk := rfl
@[simp] theorem State.setSpare_regs (p : Spare) (x : SpareSt) : (s.setSpare p x).regs = s.regs := rfl
@[simp] theorem State.setSpare_tv (p : Spare) (x : SpareSt) : (s.setSpare p x).tv = s.tv := rfl
@[simp] theorem State.setSpare_cal (p : Spare) (x : SpareSt) : (s.setSpare p x).cal = s.cal := rfl
@[simp] theorem State.setSpare_boots (p : Spare) (x : SpareSt) : (s.setSpare p x).boots = s.boots := rfl
@[simp] theorem State.setSpare_fuses (p : Spare) (x : SpareSt) : (s.setSpare p x).fuses = s.fuses := rfl
@[simp] theorem State.setSpare_flash (p : Spare) (x : SpareSt) : (s.setSpare p x).flash = s.flash := rfl
@[simp] theorem State.setSpare_wear (p : Spare) (x : SpareSt) : (s.setSpare p x).wear = s.wear := rfl
@[simp] theorem State.setSpare_boot (p : Spare) (x : SpareSt) : (s.setSpare p x).boot = s.boot := rfl
@[simp] theorem State.setSpare_stores (p : Spare) (x : SpareSt) : (s.setSpare p x).stores = s.stores := rfl
@[simp] theorem State.setSpare_storeOutcome (p : Spare) (x : SpareSt) : (s.setSpare p x).storeOutcome = s.storeOutcome := rfl
@[simp] theorem State.setSpare_eqs (p : Spare) (x : SpareSt) : (s.setSpare p x).eqs = s.eqs := rfl
@[simp] theorem State.setSpare_erases (p : Spare) (x : SpareSt) : (s.setSpare p x).erases = s.erases := rfl
@[simp] theorem State.setSpare_temps (p : Spare) (x : SpareSt) : (s.setSpare p x).temps = s.temps := rfl
@[simp] theorem State.setSpare_hotMs (p : Spare) (x : SpareSt) : (s.setSpare p x).hotMs = s.hotMs := rfl
@[simp] theorem State.setSpare_rowsUsed (p : Spare) (x : SpareSt) : (s.setSpare p x).rowsUsed = s.rowsUsed := rfl
@[simp] theorem State.setSpare_repairing (p : Spare) (x : SpareSt) : (s.setSpare p x).repairing = s.repairing := rfl
@[simp] theorem State.setSpare_repairFix (p : Spare) (x : SpareSt) : (s.setSpare p x).repairFix = s.repairFix := rfl
@[simp] theorem State.setSpare_vatExh (p : Spare) (x : SpareSt) : (s.setSpare p x).vatExh = s.vatExh := rfl
@[simp] theorem State.setSpare_tb (p : Spare) (x : SpareSt) : (s.setSpare p x).tb = s.tb := rfl
@[simp] theorem State.setSpare_maps (p : Spare) (x : SpareSt) : (s.setSpare p x).maps = s.maps := rfl
@[simp] theorem State.setSpare_mapLogs (p : Spare) (x : SpareSt) : (s.setSpare p x).mapLogs = s.mapLogs := rfl
@[simp] theorem State.setSpare_mapLost (p : Spare) (x : SpareSt) : (s.setSpare p x).mapLost = s.mapLost := rfl
@[simp] theorem State.setSpare_paths (p : Spare) (x : SpareSt) : (s.setSpare p x).paths = s.paths := rfl
@[simp] theorem State.setSpare_lcp (p : Spare) (x : SpareSt) : (s.setSpare p x).lcp = s.lcp := rfl
@[simp] theorem State.setSpare_unlockBy (p : Spare) (x : SpareSt) : (s.setSpare p x).unlockBy = s.unlockBy := rfl
@[simp] theorem State.setSpare_chans (p : Spare) (x : SpareSt) : (s.setSpare p x).chans = s.chans := rfl
@[simp] theorem State.setSpare_fes (p : Spare) (x : SpareSt) : (s.setSpare p x).fes = s.fes := rfl
@[simp] theorem State.setSpare_pacers (p : Spare) (x : SpareSt) : (s.setSpare p x).pacers = s.pacers := rfl
@[simp] theorem State.setSpare_lastStrobe (p : Spare) (x : SpareSt) : (s.setSpare p x).lastStrobe = s.lastStrobe := rfl
@[simp] theorem State.setSpare_units (p : Spare) (x : SpareSt) : (s.setSpare p x).units = s.units := rfl
@[simp] theorem State.setSpare_outPulse (p : Spare) (x : SpareSt) : (s.setSpare p x).outPulse = s.outPulse := rfl
@[simp] theorem State.setSpare_stlPulse (p : Spare) (x : SpareSt) : (s.setSpare p x).stlPulse = s.stlPulse := rfl
@[simp] theorem State.setSpare_stlIn (p : Spare) (x : SpareSt) : (s.setSpare p x).stlIn = s.stlIn := rfl
@[simp] theorem State.setSpare_pinLast (p : Spare) (x : SpareSt) : (s.setSpare p x).pinLast = s.pinLast := rfl
@[simp] theorem State.setSpare_blocks (p : Spare) (x : SpareSt) : (s.setSpare p x).blocks = s.blocks := rfl
@[simp] theorem State.setSpare_vat (p : Spare) (x : SpareSt) : (s.setSpare p x).vat = s.vat := rfl
@[simp] theorem State.setSpare_vatCE (p : Spare) (x : SpareSt) : (s.setSpare p x).vatCE = s.vatCE := rfl
@[simp] theorem State.setSpare_vatUE (p : Spare) (x : SpareSt) : (s.setSpare p x).vatUE = s.vatUE := rfl
@[simp] theorem State.setSpare_lake (p : Spare) (x : SpareSt) : (s.setSpare p x).lake = s.lake := rfl
@[simp] theorem State.setSpare_lakeZero (p : Spare) (x : SpareSt) : (s.setSpare p x).lakeZero = s.lakeZero := rfl
@[simp] theorem State.setSpare_lakeCE (p : Spare) (x : SpareSt) : (s.setSpare p x).lakeCE = s.lakeCE := rfl
@[simp] theorem State.setSpare_lakeUE (p : Spare) (x : SpareSt) : (s.setSpare p x).lakeUE = s.lakeUE := rfl
@[simp] theorem State.setSpare_indigo (p : Spare) (x : SpareSt) : (s.setSpare p x).indigo = s.indigo := rfl
@[simp] theorem State.setSpare_link0 (p : Spare) (x : SpareSt) : (s.setSpare p x).link0 = s.link0 := rfl
@[simp] theorem State.setSpare_link1 (p : Spare) (x : SpareSt) : (s.setSpare p x).link1 = s.link1 := rfl
@[simp] theorem State.setSpare_net (p : Spare) (x : SpareSt) : (s.setSpare p x).net = s.net := rfl
@[simp] theorem State.setSpare_od (p : Spare) (x : SpareSt) : (s.setSpare p x).od = s.od := rfl

/-! ### setFe -/

@[simp] theorem State.setFe_pending (f : FrontEnd) (x : FeSt) : (s.setFe f x).pending = s.pending := rfl
@[simp] theorem State.setFe_free (f : FrontEnd) (x : FeSt) : (s.setFe f x).free = s.free := rfl
@[simp] theorem State.setFe_clk (f : FrontEnd) (x : FeSt) : (s.setFe f x).clk = s.clk := rfl
@[simp] theorem State.setFe_regs (f : FrontEnd) (x : FeSt) : (s.setFe f x).regs = s.regs := rfl
@[simp] theorem State.setFe_tv (f : FrontEnd) (x : FeSt) : (s.setFe f x).tv = s.tv := rfl
@[simp] theorem State.setFe_cal (f : FrontEnd) (x : FeSt) : (s.setFe f x).cal = s.cal := rfl
@[simp] theorem State.setFe_boots (f : FrontEnd) (x : FeSt) : (s.setFe f x).boots = s.boots := rfl
@[simp] theorem State.setFe_fuses (f : FrontEnd) (x : FeSt) : (s.setFe f x).fuses = s.fuses := rfl
@[simp] theorem State.setFe_flash (f : FrontEnd) (x : FeSt) : (s.setFe f x).flash = s.flash := rfl
@[simp] theorem State.setFe_wear (f : FrontEnd) (x : FeSt) : (s.setFe f x).wear = s.wear := rfl
@[simp] theorem State.setFe_boot (f : FrontEnd) (x : FeSt) : (s.setFe f x).boot = s.boot := rfl
@[simp] theorem State.setFe_stores (f : FrontEnd) (x : FeSt) : (s.setFe f x).stores = s.stores := rfl
@[simp] theorem State.setFe_storeOutcome (f : FrontEnd) (x : FeSt) : (s.setFe f x).storeOutcome = s.storeOutcome := rfl
@[simp] theorem State.setFe_eqs (f : FrontEnd) (x : FeSt) : (s.setFe f x).eqs = s.eqs := rfl
@[simp] theorem State.setFe_erases (f : FrontEnd) (x : FeSt) : (s.setFe f x).erases = s.erases := rfl
@[simp] theorem State.setFe_temps (f : FrontEnd) (x : FeSt) : (s.setFe f x).temps = s.temps := rfl
@[simp] theorem State.setFe_hotMs (f : FrontEnd) (x : FeSt) : (s.setFe f x).hotMs = s.hotMs := rfl
@[simp] theorem State.setFe_rowsUsed (f : FrontEnd) (x : FeSt) : (s.setFe f x).rowsUsed = s.rowsUsed := rfl
@[simp] theorem State.setFe_repairing (f : FrontEnd) (x : FeSt) : (s.setFe f x).repairing = s.repairing := rfl
@[simp] theorem State.setFe_repairFix (f : FrontEnd) (x : FeSt) : (s.setFe f x).repairFix = s.repairFix := rfl
@[simp] theorem State.setFe_vatExh (f : FrontEnd) (x : FeSt) : (s.setFe f x).vatExh = s.vatExh := rfl
@[simp] theorem State.setFe_tb (f : FrontEnd) (x : FeSt) : (s.setFe f x).tb = s.tb := rfl
@[simp] theorem State.setFe_maps (f : FrontEnd) (x : FeSt) : (s.setFe f x).maps = s.maps := rfl
@[simp] theorem State.setFe_mapLogs (f : FrontEnd) (x : FeSt) : (s.setFe f x).mapLogs = s.mapLogs := rfl
@[simp] theorem State.setFe_mapLost (f : FrontEnd) (x : FeSt) : (s.setFe f x).mapLost = s.mapLost := rfl
@[simp] theorem State.setFe_paths (f : FrontEnd) (x : FeSt) : (s.setFe f x).paths = s.paths := rfl
@[simp] theorem State.setFe_lcp (f : FrontEnd) (x : FeSt) : (s.setFe f x).lcp = s.lcp := rfl
@[simp] theorem State.setFe_unlockBy (f : FrontEnd) (x : FeSt) : (s.setFe f x).unlockBy = s.unlockBy := rfl
@[simp] theorem State.setFe_chans (f : FrontEnd) (x : FeSt) : (s.setFe f x).chans = s.chans := rfl
@[simp] theorem State.setFe_spares (f : FrontEnd) (x : FeSt) : (s.setFe f x).spares = s.spares := rfl
@[simp] theorem State.setFe_pacers (f : FrontEnd) (x : FeSt) : (s.setFe f x).pacers = s.pacers := rfl
@[simp] theorem State.setFe_lastStrobe (f : FrontEnd) (x : FeSt) : (s.setFe f x).lastStrobe = s.lastStrobe := rfl
@[simp] theorem State.setFe_units (f : FrontEnd) (x : FeSt) : (s.setFe f x).units = s.units := rfl
@[simp] theorem State.setFe_outPulse (f : FrontEnd) (x : FeSt) : (s.setFe f x).outPulse = s.outPulse := rfl
@[simp] theorem State.setFe_stlPulse (f : FrontEnd) (x : FeSt) : (s.setFe f x).stlPulse = s.stlPulse := rfl
@[simp] theorem State.setFe_stlIn (f : FrontEnd) (x : FeSt) : (s.setFe f x).stlIn = s.stlIn := rfl
@[simp] theorem State.setFe_pinLast (f : FrontEnd) (x : FeSt) : (s.setFe f x).pinLast = s.pinLast := rfl
@[simp] theorem State.setFe_blocks (f : FrontEnd) (x : FeSt) : (s.setFe f x).blocks = s.blocks := rfl
@[simp] theorem State.setFe_vat (f : FrontEnd) (x : FeSt) : (s.setFe f x).vat = s.vat := rfl
@[simp] theorem State.setFe_vatCE (f : FrontEnd) (x : FeSt) : (s.setFe f x).vatCE = s.vatCE := rfl
@[simp] theorem State.setFe_vatUE (f : FrontEnd) (x : FeSt) : (s.setFe f x).vatUE = s.vatUE := rfl
@[simp] theorem State.setFe_lake (f : FrontEnd) (x : FeSt) : (s.setFe f x).lake = s.lake := rfl
@[simp] theorem State.setFe_lakeZero (f : FrontEnd) (x : FeSt) : (s.setFe f x).lakeZero = s.lakeZero := rfl
@[simp] theorem State.setFe_lakeCE (f : FrontEnd) (x : FeSt) : (s.setFe f x).lakeCE = s.lakeCE := rfl
@[simp] theorem State.setFe_lakeUE (f : FrontEnd) (x : FeSt) : (s.setFe f x).lakeUE = s.lakeUE := rfl
@[simp] theorem State.setFe_indigo (f : FrontEnd) (x : FeSt) : (s.setFe f x).indigo = s.indigo := rfl
@[simp] theorem State.setFe_link0 (f : FrontEnd) (x : FeSt) : (s.setFe f x).link0 = s.link0 := rfl
@[simp] theorem State.setFe_link1 (f : FrontEnd) (x : FeSt) : (s.setFe f x).link1 = s.link1 := rfl
@[simp] theorem State.setFe_net (f : FrontEnd) (x : FeSt) : (s.setFe f x).net = s.net := rfl
@[simp] theorem State.setFe_od (f : FrontEnd) (x : FeSt) : (s.setFe f x).od = s.od := rfl

/-! ### setTu -/

@[simp] theorem State.setTu_pending (u : Unit16) (x : UnitSt) : (s.setTu u x).pending = s.pending := rfl
@[simp] theorem State.setTu_free (u : Unit16) (x : UnitSt) : (s.setTu u x).free = s.free := rfl
@[simp] theorem State.setTu_clk (u : Unit16) (x : UnitSt) : (s.setTu u x).clk = s.clk := rfl
@[simp] theorem State.setTu_regs (u : Unit16) (x : UnitSt) : (s.setTu u x).regs = s.regs := rfl
@[simp] theorem State.setTu_tv (u : Unit16) (x : UnitSt) : (s.setTu u x).tv = s.tv := rfl
@[simp] theorem State.setTu_cal (u : Unit16) (x : UnitSt) : (s.setTu u x).cal = s.cal := rfl
@[simp] theorem State.setTu_boots (u : Unit16) (x : UnitSt) : (s.setTu u x).boots = s.boots := rfl
@[simp] theorem State.setTu_fuses (u : Unit16) (x : UnitSt) : (s.setTu u x).fuses = s.fuses := rfl
@[simp] theorem State.setTu_flash (u : Unit16) (x : UnitSt) : (s.setTu u x).flash = s.flash := rfl
@[simp] theorem State.setTu_wear (u : Unit16) (x : UnitSt) : (s.setTu u x).wear = s.wear := rfl
@[simp] theorem State.setTu_boot (u : Unit16) (x : UnitSt) : (s.setTu u x).boot = s.boot := rfl
@[simp] theorem State.setTu_stores (u : Unit16) (x : UnitSt) : (s.setTu u x).stores = s.stores := rfl
@[simp] theorem State.setTu_storeOutcome (u : Unit16) (x : UnitSt) : (s.setTu u x).storeOutcome = s.storeOutcome := rfl
@[simp] theorem State.setTu_eqs (u : Unit16) (x : UnitSt) : (s.setTu u x).eqs = s.eqs := rfl
@[simp] theorem State.setTu_erases (u : Unit16) (x : UnitSt) : (s.setTu u x).erases = s.erases := rfl
@[simp] theorem State.setTu_temps (u : Unit16) (x : UnitSt) : (s.setTu u x).temps = s.temps := rfl
@[simp] theorem State.setTu_hotMs (u : Unit16) (x : UnitSt) : (s.setTu u x).hotMs = s.hotMs := rfl
@[simp] theorem State.setTu_rowsUsed (u : Unit16) (x : UnitSt) : (s.setTu u x).rowsUsed = s.rowsUsed := rfl
@[simp] theorem State.setTu_repairing (u : Unit16) (x : UnitSt) : (s.setTu u x).repairing = s.repairing := rfl
@[simp] theorem State.setTu_repairFix (u : Unit16) (x : UnitSt) : (s.setTu u x).repairFix = s.repairFix := rfl
@[simp] theorem State.setTu_vatExh (u : Unit16) (x : UnitSt) : (s.setTu u x).vatExh = s.vatExh := rfl
@[simp] theorem State.setTu_tb (u : Unit16) (x : UnitSt) : (s.setTu u x).tb = s.tb := rfl
@[simp] theorem State.setTu_maps (u : Unit16) (x : UnitSt) : (s.setTu u x).maps = s.maps := rfl
@[simp] theorem State.setTu_mapLogs (u : Unit16) (x : UnitSt) : (s.setTu u x).mapLogs = s.mapLogs := rfl
@[simp] theorem State.setTu_mapLost (u : Unit16) (x : UnitSt) : (s.setTu u x).mapLost = s.mapLost := rfl
@[simp] theorem State.setTu_paths (u : Unit16) (x : UnitSt) : (s.setTu u x).paths = s.paths := rfl
@[simp] theorem State.setTu_lcp (u : Unit16) (x : UnitSt) : (s.setTu u x).lcp = s.lcp := rfl
@[simp] theorem State.setTu_unlockBy (u : Unit16) (x : UnitSt) : (s.setTu u x).unlockBy = s.unlockBy := rfl
@[simp] theorem State.setTu_chans (u : Unit16) (x : UnitSt) : (s.setTu u x).chans = s.chans := rfl
@[simp] theorem State.setTu_spares (u : Unit16) (x : UnitSt) : (s.setTu u x).spares = s.spares := rfl
@[simp] theorem State.setTu_fes (u : Unit16) (x : UnitSt) : (s.setTu u x).fes = s.fes := rfl
@[simp] theorem State.setTu_pacers (u : Unit16) (x : UnitSt) : (s.setTu u x).pacers = s.pacers := rfl
@[simp] theorem State.setTu_lastStrobe (u : Unit16) (x : UnitSt) : (s.setTu u x).lastStrobe = s.lastStrobe := rfl
@[simp] theorem State.setTu_outPulse (u : Unit16) (x : UnitSt) : (s.setTu u x).outPulse = s.outPulse := rfl
@[simp] theorem State.setTu_stlPulse (u : Unit16) (x : UnitSt) : (s.setTu u x).stlPulse = s.stlPulse := rfl
@[simp] theorem State.setTu_stlIn (u : Unit16) (x : UnitSt) : (s.setTu u x).stlIn = s.stlIn := rfl
@[simp] theorem State.setTu_pinLast (u : Unit16) (x : UnitSt) : (s.setTu u x).pinLast = s.pinLast := rfl
@[simp] theorem State.setTu_blocks (u : Unit16) (x : UnitSt) : (s.setTu u x).blocks = s.blocks := rfl
@[simp] theorem State.setTu_vat (u : Unit16) (x : UnitSt) : (s.setTu u x).vat = s.vat := rfl
@[simp] theorem State.setTu_vatCE (u : Unit16) (x : UnitSt) : (s.setTu u x).vatCE = s.vatCE := rfl
@[simp] theorem State.setTu_vatUE (u : Unit16) (x : UnitSt) : (s.setTu u x).vatUE = s.vatUE := rfl
@[simp] theorem State.setTu_lake (u : Unit16) (x : UnitSt) : (s.setTu u x).lake = s.lake := rfl
@[simp] theorem State.setTu_lakeZero (u : Unit16) (x : UnitSt) : (s.setTu u x).lakeZero = s.lakeZero := rfl
@[simp] theorem State.setTu_lakeCE (u : Unit16) (x : UnitSt) : (s.setTu u x).lakeCE = s.lakeCE := rfl
@[simp] theorem State.setTu_lakeUE (u : Unit16) (x : UnitSt) : (s.setTu u x).lakeUE = s.lakeUE := rfl
@[simp] theorem State.setTu_indigo (u : Unit16) (x : UnitSt) : (s.setTu u x).indigo = s.indigo := rfl
@[simp] theorem State.setTu_link0 (u : Unit16) (x : UnitSt) : (s.setTu u x).link0 = s.link0 := rfl
@[simp] theorem State.setTu_link1 (u : Unit16) (x : UnitSt) : (s.setTu u x).link1 = s.link1 := rfl
@[simp] theorem State.setTu_net (u : Unit16) (x : UnitSt) : (s.setTu u x).net = s.net := rfl
@[simp] theorem State.setTu_od (u : Unit16) (x : UnitSt) : (s.setTu u x).od = s.od := rfl

@[simp] theorem State.reach_pending (t : Nat) : (s.reach t).pending = s.pending := by unfold State.reach; split <;> rfl
@[simp] theorem State.reach_free (t : Nat) : (s.reach t).free = s.free := by unfold State.reach; split <;> rfl
@[simp] theorem State.reach_regs (t : Nat) : (s.reach t).regs = s.regs := by unfold State.reach; split <;> rfl
@[simp] theorem State.reach_tv (t : Nat) : (s.reach t).tv = s.tv := by unfold State.reach; split <;> rfl
@[simp] theorem State.reach_cal (t : Nat) : (s.reach t).cal = s.cal := by unfold State.reach; split <;> rfl
@[simp] theorem State.reach_boots (t : Nat) : (s.reach t).boots = s.boots := by unfold State.reach; split <;> rfl
@[simp] theorem State.reach_fuses (t : Nat) : (s.reach t).fuses = s.fuses := by unfold State.reach; split <;> rfl
@[simp] theorem State.reach_flash (t : Nat) : (s.reach t).flash = s.flash := by unfold State.reach; split <;> rfl
@[simp] theorem State.reach_wear (t : Nat) : (s.reach t).wear = s.wear := by unfold State.reach; split <;> rfl
@[simp] theorem State.reach_boot (t : Nat) : (s.reach t).boot = s.boot := by unfold State.reach; split <;> rfl
@[simp] theorem State.reach_stores (t : Nat) : (s.reach t).stores = s.stores := by unfold State.reach; split <;> rfl
@[simp] theorem State.reach_storeOutcome (t : Nat) : (s.reach t).storeOutcome = s.storeOutcome := by unfold State.reach; split <;> rfl
@[simp] theorem State.reach_eqs (t : Nat) : (s.reach t).eqs = s.eqs := by unfold State.reach; split <;> rfl
@[simp] theorem State.reach_erases (t : Nat) : (s.reach t).erases = s.erases := by unfold State.reach; split <;> rfl
@[simp] theorem State.reach_temps (t : Nat) : (s.reach t).temps = s.temps := by unfold State.reach; split <;> rfl
@[simp] theorem State.reach_hotMs (t : Nat) : (s.reach t).hotMs = s.hotMs := by unfold State.reach; split <;> rfl
@[simp] theorem State.reach_rowsUsed (t : Nat) : (s.reach t).rowsUsed = s.rowsUsed := by unfold State.reach; split <;> rfl
@[simp] theorem State.reach_repairing (t : Nat) : (s.reach t).repairing = s.repairing := by unfold State.reach; split <;> rfl
@[simp] theorem State.reach_repairFix (t : Nat) : (s.reach t).repairFix = s.repairFix := by unfold State.reach; split <;> rfl
@[simp] theorem State.reach_vatExh (t : Nat) : (s.reach t).vatExh = s.vatExh := by unfold State.reach; split <;> rfl
@[simp] theorem State.reach_tb (t : Nat) : (s.reach t).tb = s.tb := by unfold State.reach; split <;> rfl
@[simp] theorem State.reach_maps (t : Nat) : (s.reach t).maps = s.maps := by unfold State.reach; split <;> rfl
@[simp] theorem State.reach_mapLogs (t : Nat) : (s.reach t).mapLogs = s.mapLogs := by unfold State.reach; split <;> rfl
@[simp] theorem State.reach_mapLost (t : Nat) : (s.reach t).mapLost = s.mapLost := by unfold State.reach; split <;> rfl
@[simp] theorem State.reach_paths (t : Nat) : (s.reach t).paths = s.paths := by unfold State.reach; split <;> rfl
@[simp] theorem State.reach_lcp (t : Nat) : (s.reach t).lcp = s.lcp := by unfold State.reach; split <;> rfl
@[simp] theorem State.reach_unlockBy (t : Nat) : (s.reach t).unlockBy = s.unlockBy := by unfold State.reach; split <;> rfl
@[simp] theorem State.reach_chans (t : Nat) : (s.reach t).chans = s.chans := by unfold State.reach; split <;> rfl
@[simp] theorem State.reach_spares (t : Nat) : (s.reach t).spares = s.spares := by unfold State.reach; split <;> rfl
@[simp] theorem State.reach_fes (t : Nat) : (s.reach t).fes = s.fes := by unfold State.reach; split <;> rfl
@[simp] theorem State.reach_pacers (t : Nat) : (s.reach t).pacers = s.pacers := by unfold State.reach; split <;> rfl
@[simp] theorem State.reach_lastStrobe (t : Nat) : (s.reach t).lastStrobe = s.lastStrobe := by unfold State.reach; split <;> rfl
@[simp] theorem State.reach_units (t : Nat) : (s.reach t).units = s.units := by unfold State.reach; split <;> rfl
@[simp] theorem State.reach_outPulse (t : Nat) : (s.reach t).outPulse = s.outPulse := by unfold State.reach; split <;> rfl
@[simp] theorem State.reach_stlPulse (t : Nat) : (s.reach t).stlPulse = s.stlPulse := by unfold State.reach; split <;> rfl
@[simp] theorem State.reach_stlIn (t : Nat) : (s.reach t).stlIn = s.stlIn := by unfold State.reach; split <;> rfl
@[simp] theorem State.reach_pinLast (t : Nat) : (s.reach t).pinLast = s.pinLast := by unfold State.reach; split <;> rfl
@[simp] theorem State.reach_blocks (t : Nat) : (s.reach t).blocks = s.blocks := by unfold State.reach; split <;> rfl
@[simp] theorem State.reach_vat (t : Nat) : (s.reach t).vat = s.vat := by unfold State.reach; split <;> rfl
@[simp] theorem State.reach_vatCE (t : Nat) : (s.reach t).vatCE = s.vatCE := by unfold State.reach; split <;> rfl
@[simp] theorem State.reach_vatUE (t : Nat) : (s.reach t).vatUE = s.vatUE := by unfold State.reach; split <;> rfl
@[simp] theorem State.reach_lake (t : Nat) : (s.reach t).lake = s.lake := by unfold State.reach; split <;> rfl
@[simp] theorem State.reach_lakeZero (t : Nat) : (s.reach t).lakeZero = s.lakeZero := by unfold State.reach; split <;> rfl
@[simp] theorem State.reach_lakeCE (t : Nat) : (s.reach t).lakeCE = s.lakeCE := by unfold State.reach; split <;> rfl
@[simp] theorem State.reach_lakeUE (t : Nat) : (s.reach t).lakeUE = s.lakeUE := by unfold State.reach; split <;> rfl
@[simp] theorem State.reach_indigo (t : Nat) : (s.reach t).indigo = s.indigo := by unfold State.reach; split <;> rfl
@[simp] theorem State.reach_link0 (t : Nat) : (s.reach t).link0 = s.link0 := by unfold State.reach; split <;> rfl
@[simp] theorem State.reach_link1 (t : Nat) : (s.reach t).link1 = s.link1 := by unfold State.reach; split <;> rfl
@[simp] theorem State.reach_net (t : Nat) : (s.reach t).net = s.net := by unfold State.reach; split <;> rfl
@[simp] theorem State.reach_od (t : Nat) : (s.reach t).od = s.od := by unfold State.reach; split <;> rfl
@[simp] theorem State.tick_pending : s.tick.pending = s.pending := by unfold State.tick; split <;> rfl
@[simp] theorem State.tick_free : s.tick.free = s.free := by unfold State.tick; split <;> rfl
@[simp] theorem State.tick_regs : s.tick.regs = s.regs := by unfold State.tick; split <;> rfl
@[simp] theorem State.tick_tv : s.tick.tv = s.tv := by unfold State.tick; split <;> rfl
@[simp] theorem State.tick_cal : s.tick.cal = s.cal := by unfold State.tick; split <;> rfl
@[simp] theorem State.tick_boots : s.tick.boots = s.boots := by unfold State.tick; split <;> rfl
@[simp] theorem State.tick_fuses : s.tick.fuses = s.fuses := by unfold State.tick; split <;> rfl
@[simp] theorem State.tick_flash : s.tick.flash = s.flash := by unfold State.tick; split <;> rfl
@[simp] theorem State.tick_wear : s.tick.wear = s.wear := by unfold State.tick; split <;> rfl
@[simp] theorem State.tick_boot : s.tick.boot = s.boot := by unfold State.tick; split <;> rfl
@[simp] theorem State.tick_stores : s.tick.stores = s.stores := by unfold State.tick; split <;> rfl
@[simp] theorem State.tick_storeOutcome : s.tick.storeOutcome = s.storeOutcome := by unfold State.tick; split <;> rfl
@[simp] theorem State.tick_eqs : s.tick.eqs = s.eqs := by unfold State.tick; split <;> rfl
@[simp] theorem State.tick_erases : s.tick.erases = s.erases := by unfold State.tick; split <;> rfl
@[simp] theorem State.tick_temps : s.tick.temps = s.temps := by unfold State.tick; split <;> rfl
@[simp] theorem State.tick_hotMs : s.tick.hotMs = s.hotMs := by unfold State.tick; split <;> rfl
@[simp] theorem State.tick_rowsUsed : s.tick.rowsUsed = s.rowsUsed := by unfold State.tick; split <;> rfl
@[simp] theorem State.tick_repairing : s.tick.repairing = s.repairing := by unfold State.tick; split <;> rfl
@[simp] theorem State.tick_repairFix : s.tick.repairFix = s.repairFix := by unfold State.tick; split <;> rfl
@[simp] theorem State.tick_vatExh : s.tick.vatExh = s.vatExh := by unfold State.tick; split <;> rfl
@[simp] theorem State.tick_tb : s.tick.tb = s.tb := by unfold State.tick; split <;> rfl
@[simp] theorem State.tick_maps : s.tick.maps = s.maps := by unfold State.tick; split <;> rfl
@[simp] theorem State.tick_mapLogs : s.tick.mapLogs = s.mapLogs := by unfold State.tick; split <;> rfl
@[simp] theorem State.tick_mapLost : s.tick.mapLost = s.mapLost := by unfold State.tick; split <;> rfl
@[simp] theorem State.tick_paths : s.tick.paths = s.paths := by unfold State.tick; split <;> rfl
@[simp] theorem State.tick_lcp : s.tick.lcp = s.lcp := by unfold State.tick; split <;> rfl
@[simp] theorem State.tick_unlockBy : s.tick.unlockBy = s.unlockBy := by unfold State.tick; split <;> rfl
@[simp] theorem State.tick_chans : s.tick.chans = s.chans := by unfold State.tick; split <;> rfl
@[simp] theorem State.tick_spares : s.tick.spares = s.spares := by unfold State.tick; split <;> rfl
@[simp] theorem State.tick_fes : s.tick.fes = s.fes := by unfold State.tick; split <;> rfl
@[simp] theorem State.tick_pacers : s.tick.pacers = s.pacers := by unfold State.tick; split <;> rfl
@[simp] theorem State.tick_lastStrobe : s.tick.lastStrobe = s.lastStrobe := by unfold State.tick; split <;> rfl
@[simp] theorem State.tick_units : s.tick.units = s.units := by unfold State.tick; split <;> rfl
@[simp] theorem State.tick_outPulse : s.tick.outPulse = s.outPulse := by unfold State.tick; split <;> rfl
@[simp] theorem State.tick_stlPulse : s.tick.stlPulse = s.stlPulse := by unfold State.tick; split <;> rfl
@[simp] theorem State.tick_stlIn : s.tick.stlIn = s.stlIn := by unfold State.tick; split <;> rfl
@[simp] theorem State.tick_pinLast : s.tick.pinLast = s.pinLast := by unfold State.tick; split <;> rfl
@[simp] theorem State.tick_blocks : s.tick.blocks = s.blocks := by unfold State.tick; split <;> rfl
@[simp] theorem State.tick_vat : s.tick.vat = s.vat := by unfold State.tick; split <;> rfl
@[simp] theorem State.tick_vatCE : s.tick.vatCE = s.vatCE := by unfold State.tick; split <;> rfl
@[simp] theorem State.tick_vatUE : s.tick.vatUE = s.vatUE := by unfold State.tick; split <;> rfl
@[simp] theorem State.tick_lake : s.tick.lake = s.lake := by unfold State.tick; split <;> rfl
@[simp] theorem State.tick_lakeZero : s.tick.lakeZero = s.lakeZero := by unfold State.tick; split <;> rfl
@[simp] theorem State.tick_lakeCE : s.tick.lakeCE = s.lakeCE := by unfold State.tick; split <;> rfl
@[simp] theorem State.tick_lakeUE : s.tick.lakeUE = s.lakeUE := by unfold State.tick; split <;> rfl
@[simp] theorem State.tick_indigo : s.tick.indigo = s.indigo := by unfold State.tick; split <;> rfl
@[simp] theorem State.tick_link0 : s.tick.link0 = s.link0 := by unfold State.tick; split <;> rfl
@[simp] theorem State.tick_link1 : s.tick.link1 = s.link1 := by unfold State.tick; split <;> rfl
@[simp] theorem State.tick_net : s.tick.net = s.net := by unfold State.tick; split <;> rfl
@[simp] theorem State.tick_od : s.tick.od = s.od := by unfold State.tick; split <;> rfl

/-! ### Fields of a word -/

/-- The bits of a mask. -/
theorem maskAt_getLsbD (lo len i : Nat) (h : lo + len ≤ 32) :
    (maskAt lo len).getLsbD i = (decide (lo ≤ i) && decide (i < lo + len)) := by
  unfold maskAt
  rw [BitVec.getLsbD_shiftLeft, BitVec.getLsbD_ofNat, Nat.testBit_two_pow_sub_one]
  rcases Nat.lt_or_ge i lo with h1 | h1
  · simp [h1, Nat.not_le.mpr h1]
  · rcases Nat.lt_or_ge i (lo + len) with h2 | h2
    · have : i < 32 := by omega
      simp [h1, h2, this, Nat.not_lt.mpr h1]; omega
    · simp [h1, Nat.not_lt.mpr h2, Nat.not_lt.mpr h1]; omega

/-- A field reads back what was put there. -/
theorem Fld.of_into (f : Fld) (w : Word) (v : Nat) (h : f.lo + f.len ≤ 32) : f.of (f.into w v) = v % 2 ^ f.len := by
  have key : (bitsSet w f.lo f.len v).extractLsb' f.lo f.len = BitVec.ofNat f.len v := by
    apply BitVec.eq_of_getLsbD_eq
    intro i hi
    have h4 : f.lo + i < 32 := by omega
    have h5 : i < 32 := by omega
    rw [BitVec.getLsbD_extractLsb']
    unfold bitsSet
    rw [BitVec.getLsbD_or, BitVec.getLsbD_and, BitVec.getLsbD_and, BitVec.getLsbD_not, BitVec.getLsbD_shiftLeft,
      maskAt_getLsbD _ _ _ h, BitVec.getLsbD_ofNat, BitVec.getLsbD_ofNat, Nat.add_sub_cancel_left]
    simp [hi, h4, h5]
  simp only [Fld.of, Fld.into, bitsGet, key, BitVec.toNat_ofNat]

/-- A field apart from the one put reads as before. -/
theorem Fld.of_into_apart (f g : Fld) (w : Word) (v : Nat) (hf : f.lo + f.len ≤ 32) (hg : g.lo + g.len ≤ 32)
    (h : f.lo + f.len ≤ g.lo ∨ g.lo + g.len ≤ f.lo) : f.of (g.into w v) = f.of w := by
  have key : (bitsSet w g.lo g.len v).extractLsb' f.lo f.len = w.extractLsb' f.lo f.len := by
    apply BitVec.eq_of_getLsbD_eq
    intro i hi
    have h4 : f.lo + i < 32 := by omega
    have h5 : (decide (g.lo ≤ f.lo + i) && decide (f.lo + i < g.lo + g.len)) = false := by
      rcases h with h | h <;> simp <;> omega
    rw [BitVec.getLsbD_extractLsb', BitVec.getLsbD_extractLsb']
    unfold bitsSet
    rw [BitVec.getLsbD_or, BitVec.getLsbD_and, BitVec.getLsbD_and, BitVec.getLsbD_not, maskAt_getLsbD _ _ _ hg, h5]
    simp [h4]
  simp only [Fld.of, Fld.into, bitsGet, key]

theorem Fld.of_lt (f : Fld) (w : Word) : f.of w < 2 ^ f.len := (w.extractLsb' f.lo f.len).isLt

/-! ### Registers -/

theorem State.w_setW (a b : Nat) (v : Word) : (s.setW a v).w b = if a = b then v else s.w b :=
  sparseGet_put resetWord s.regs a b v

@[simp] theorem State.w_setW_same (a : Nat) (v : Word) : (s.setW a v).w a = v := by rw [State.w_setW, if_pos rfl]

theorem State.w_setW_other {a b : Nat} (v : Word) (h : a ≠ b) : (s.setW a v).w b = s.w b := by
  rw [State.w_setW, if_neg h]

theorem State.w_setF (b : Nat) (f : Fld) (v a : Nat) :
    (s.setF b f v).w a = if b + f.addr = a then f.into (s.w a) v else s.w a := by
  unfold State.setF
  rw [State.w_setW]
  split
  · rename_i h; rw [h]
  · rfl

theorem State.w_setF_other {b : Nat} {f : Fld} {v a : Nat} (h : b + f.addr ≠ a) : (s.setF b f v).w a = s.w a := by
  rw [State.w_setF, if_neg h]

theorem State.w_raise (b : Nat) (f : Fld) (a : Nat) :
    (s.raise b f).w a = if b + f.addr = a then f.into (s.w a) 1 else s.w a := State.w_setF s b f 1 a

theorem State.w_setB (b : Nat) (f : Fld) (v : Bool) (a : Nat) :
    (s.setB b f v).w a = if b + f.addr = a then f.into (s.w a) (bit v) else s.w a := State.w_setF s b f _ a

theorem State.w_setPair (a v b : Nat) :
    (s.setPair a v).w b = if a + 4 = b then BitVec.ofNat 32 v else if a = b then BitVec.ofNat 32 (v / 2 ^ 32) else s.w b := by
  unfold State.setPair
  rw [State.w_setW, State.w_setW]

theorem State.w_count (a n b : Nat) :
    (s.count a n).w b = if a + 4 = b then BitVec.ofNat 32 (s.pair a + n)
      else if a = b then BitVec.ofNat 32 ((s.pair a + n) / 2 ^ 32) else s.w b := State.w_setPair s a _ b

theorem State.w_countSat (b : Nat) (f : Fld) (n a : Nat) :
    (s.countSat b f n).w a = if b + f.addr = a then f.into (s.w a) (min (s.f b f + n) (2 ^ f.len - 1)) else s.w a :=
  State.w_setF s b f _ a

/-- A field put reads back. -/
theorem State.f_setF (b : Nat) (f : Fld) (v : Nat) (h : f.lo + f.len ≤ 32) : (s.setF b f v).f b f = v % 2 ^ f.len := by
  unfold State.f
  rw [State.w_setF, if_pos rfl, Fld.of_into _ _ _ h]

/-- A field of another register reads as before. -/
theorem State.f_setF_other {b c : Nat} {f g : Fld} (v : Nat) (h : c + g.addr ≠ b + f.addr) :
    (s.setF c g v).f b f = s.f b f := by
  unfold State.f
  rw [State.w_setF, if_neg h]

/-- A field of the same register apart from the one put reads as before. -/
theorem State.f_setF_apart {b : Nat} {f g : Fld} (v : Nat) (ha : g.addr = f.addr) (hf : f.lo + f.len ≤ 32)
    (hg : g.lo + g.len ≤ 32) (h : f.lo + f.len ≤ g.lo ∨ g.lo + g.len ≤ f.lo) : (s.setF b g v).f b f = s.f b f := by
  unfold State.f
  rw [State.w_setF, if_pos (by rw [ha]), Fld.of_into_apart f g _ _ hf hg h]

theorem State.f_setW (a : Nat) (v : Word) (b : Nat) (f : Fld) :
    (s.setW a v).f b f = if a = b + f.addr then f.of v else s.f b f := by
  unfold State.f
  rw [State.w_setW]
  split <;> rfl

/-! ### Registers are left by updates of other parts -/

@[simp] theorem State.w_setTv (a : Nat) (v : Word) (b : Nat) : (s.setTv a v).w b = s.w b := rfl
@[simp] theorem State.w_setCal (k : Nat) (v : Word) (b : Nat) : (s.setCal k v).w b = s.w b := rfl
@[simp] theorem State.w_setChan (n : Ch) (c : Chan) (b : Nat) : (s.setChan n c).w b = s.w b := rfl
@[simp] theorem State.w_modChan (n : Ch) (g : Chan → Chan) (b : Nat) : (s.modChan n g).w b = s.w b := rfl
@[simp] theorem State.w_setSpare (p : Spare) (x : SpareSt) (b : Nat) : (s.setSpare p x).w b = s.w b := rfl
@[simp] theorem State.w_setFe (f : FrontEnd) (x : FeSt) (b : Nat) : (s.setFe f x).w b = s.w b := rfl
@[simp] theorem State.w_modFe (f : FrontEnd) (g : FeSt → FeSt) (b : Nat) : (s.modFe f g).w b = s.w b := rfl
@[simp] theorem State.w_setTu (u : Unit16) (x : UnitSt) (b : Nat) : (s.setTu u x).w b = s.w b := rfl
@[simp] theorem State.w_modTu (u : Unit16) (g : UnitSt → UnitSt) (b : Nat) : (s.modTu u g).w b = s.w b := rfl
@[simp] theorem State.w_modPath (p : Path) (g : PathSt → PathSt) (b : Nat) : (s.modPath p g).w b = s.w b := rfl
@[simp] theorem State.w_reach (t b : Nat) : (s.reach t).w b = s.w b := by simp only [State.w, State.reach_regs]
@[simp] theorem State.w_tick (b : Nat) : s.tick.w b = s.w b := by simp only [State.w, State.tick_regs]
@[simp] theorem State.f_reach (t b : Nat) (f : Fld) : (s.reach t).f b f = s.f b f := by simp only [State.f, State.w_reach]
@[simp] theorem State.fb_reach (t b : Nat) (f : Fld) : (s.reach t).fb b f = s.fb b f := by simp only [State.fb, State.f_reach]
@[simp] theorem State.f_setChan (n : Ch) (c : Chan) (b : Nat) (f : Fld) : (s.setChan n c).f b f = s.f b f := rfl
@[simp] theorem State.f_modChan (n : Ch) (g : Chan → Chan) (b : Nat) (f : Fld) : (s.modChan n g).f b f = s.f b f := rfl
@[simp] theorem State.f_setTu (u : Unit16) (x : UnitSt) (b : Nat) (f : Fld) : (s.setTu u x).f b f = s.f b f := rfl
@[simp] theorem State.f_setSpare (p : Spare) (x : SpareSt) (b : Nat) (f : Fld) : (s.setSpare p x).f b f = s.f b f := rfl
@[simp] theorem State.f_setFe (k : FrontEnd) (x : FeSt) (b : Nat) (f : Fld) : (s.setFe k x).f b f = s.f b f := rfl
@[simp] theorem State.f_modPath (p : Path) (g : PathSt → PathSt) (b : Nat) (f : Fld) : (s.modPath p g).f b f = s.f b f := rfl

/-! ### Triplicated words -/

@[simp] theorem TvWord.vote_all (w : Word) : (TvWord.all w).vote = w := by
  simp [TvWord.vote, TvWord.all]

theorem State.tvW_setTv (a b : Nat) (v : Word) : (s.setTv a v).tvW b = if a = b then v else s.tvW b := by
  unfold State.tvW State.setTv
  simp only [sparseGet_put]
  split
  · exact TvWord.vote_all v
  · rfl

theorem State.calW_setCal (a b : Nat) (v : Word) : (s.setCal a v).calW b = if a = b then v else s.calW b := by
  unfold State.calW State.setCal
  simp only [sparseGet_put]
  split
  · exact TvWord.vote_all v
  · rfl

/-! ### Parts -/

@[simp] theorem State.chan_setChan_same (n : Ch) (c : Chan) : (s.setChan n c).chan n = c := by
  simp [State.chan, State.setChan]
theorem State.chan_setChan_other {n m : Ch} (c : Chan) (h : n ≠ m) : (s.setChan n c).chan m = s.chan m := by
  simp only [State.chan, State.setChan, Fin.getElem_fin]
  rw [Vector.getElem_set_ne _ _ (fun e => h (Fin.ext e))]
@[simp] theorem State.chan_modChan_same (n : Ch) (g : Chan → Chan) : (s.modChan n g).chan n = g (s.chan n) := by
  simp [State.modChan]
theorem State.chan_modChan_other {n m : Ch} (g : Chan → Chan) (h : n ≠ m) : (s.modChan n g).chan m = s.chan m := by
  rw [State.modChan, State.chan_setChan_other _ _ h]
@[simp] theorem State.spare_setSpare_same (p : Spare) (x : SpareSt) : (s.setSpare p x).spare p = x := by
  simp [State.spare, State.setSpare]
@[simp] theorem State.fe_setFe_same (f : FrontEnd) (x : FeSt) : (s.setFe f x).fe f = x := by
  simp [State.fe, State.setFe]
@[simp] theorem State.fe_modFe_same (f : FrontEnd) (g : FeSt → FeSt) : (s.modFe f g).fe f = g (s.fe f) := by
  simp [State.modFe]
@[simp] theorem State.tu_setTu_same (u : Unit16) (x : UnitSt) : (s.setTu u x).tu u = x := by
  simp [State.tu, State.setTu]
@[simp] theorem State.tu_modTu_same (u : Unit16) (g : UnitSt → UnitSt) : (s.modTu u g).tu u = g (s.tu u) := by
  simp [State.modTu]
@[simp] theorem State.path_modPath_same (p : Path) (g : PathSt → PathSt) : (s.modPath p g).path p = g (s.path p) := by
  simp [State.path, State.modPath]
@[simp] theorem State.chan_setW (a : Nat) (v : Word) (n : Ch) : (s.setW a v).chan n = s.chan n := rfl
@[simp] theorem State.chan_setF (b : Nat) (f : Fld) (v : Nat) (n : Ch) : (s.setF b f v).chan n = s.chan n := rfl
@[simp] theorem State.chan_raise (b : Nat) (f : Fld) (n : Ch) : (s.raise b f).chan n = s.chan n := rfl
@[simp] theorem State.chan_reach (t : Nat) (n : Ch) : (s.reach t).chan n = s.chan n := by simp only [State.chan, State.reach_chans]
@[simp] theorem State.tu_reach (t : Nat) (u : Unit16) : (s.reach t).tu u = s.tu u := by simp only [State.tu, State.reach_units]
@[simp] theorem State.spare_reach (t : Nat) (p : Spare) : (s.reach t).spare p = s.spare p := by
  simp only [State.spare, State.reach_spares]
@[simp] theorem State.fe_reach (t : Nat) (f : FrontEnd) : (s.reach t).fe f = s.fe f := by simp only [State.fe, State.reach_fes]

/-! ### Device time -/

/-- The clock at an instant reads that instant, within 96 bits. -/
theorem Clock.at_now (c : Clock) (t : Nat) (h : t < 2 ^ 96) :
    (c.at t).epx.toNat * 2 ^ 64 + (c.at t).ets.toNat = t := by
  simp only [Clock.at, BitVec.toNat_ofNat]
  have h1 : t / 2 ^ 64 < 2 ^ 32 := Nat.div_lt_of_lt_mul (by omega)
  omega

/-- Before the first lock device time stands. -/
theorem State.reach_stopped {s : State} (t : Nat) (h : s.clk.running = false) : s.reach t = s := by
  simp [State.reach, h]

/-- Device time never goes back. -/
theorem State.reach_past {s : State} {t : Nat} (h : t ≤ s.now) : s.reach t = s := by
  simp [State.reach, Nat.not_lt.mpr h]

/-- A later instant is reached, rounded up to a timebase period. -/
theorem State.reach_now {s : State} {t : Nat} (hr : s.clk.running = true) (h : s.now < t) (hb : t + 255 < 2 ^ 96) :
    (s.reach t).now = (t + 255) / 256 * 256 := by
  have e : s.reach t = { s with clk := s.clk.at ((t + 255) / 256 * 256) } := by simp [State.reach, hr, h]
  rw [e]
  exact Clock.at_now _ _ (by omega)

end Sys2Proof.Machine
end

