-- ==== Sys2Proof/Laws/Registers.lean ====
section
/-!
SUPPORT. What a register write does once every check has passed: it is the register's own write, the
path's answer is 0, and a mailbox request is served. Where each block lies, and the frames of the
named updates.
-/

namespace Sys2Proof.Machine

variable {s : State} {p : Path} {a : Nat} {w : Word} {r : RegRow}

theorem State.serveMailbox_none (h : s.od.mailbox = none) : s.serveMailbox = s := by
  unfold State.serveMailbox
  rw [h]

theorem State.preWrite_done (h : s.cfgDone = true) : s.preWrite r = s := by simp [State.preWrite, h]

theorem beMask_full : beMask 0xF#4 = 0xFFFFFFFF#32 := by decide

/-- An unguarded full-word write (R279, R285, R302). -/
theorem State.wr_own (h4 : a % 4 = 0) (hid : a ≠ R.ID) (hmp : a ≠ R.MP_DATA)
    (hp : s.Writes p ∨ a = R.PRT_UNLOCK ∨ a = R.PRT_LOCK) (hs : (locate a).space ≠ .bcast ∧ (locate a).space ≠ .group ∧ (locate a).space ≠ .active)
    (hr : rowAt a = some r) (hg : (r.guarded && !(a = R.PRT_LOCK && F.PRT_LOCK_FN_LOCK.of w = 1)) = false)
    (hc : s.cfgDone = true) :
    s.wr p a w = ((s.writeOwn p (locate a) a r 0xFFFFFFFF#32 w).modPath p fun x => { x with resp := 0 }).serveMailbox := by
  have h1 : beAligned a 0xF#4 = true := by simp [beAligned, h4]
  have h2 : (p = .lcp && !s.tvB 0 F.DEV_MODE_LCP_WR && a ≠ R.PRT_UNLOCK && a ≠ R.PRT_LOCK) = false := by
    rcases hp with hp | hp | hp
    · cases p <;> first | (simp; done) | (have := hp rfl; simp [this])
    · simp [hp]
    · simp [hp]
  have h3 : s.writeAt p a 0xF#4 w = (.ok, s.writeOwn p (locate a) a r 0xFFFFFFFF#32 w) := by
    unfold State.writeAt
    rw [h1, hr]
    simp only [beMask_full, Bool.not_true, Bool.false_eq_true, ite_false, hs.1, hs.2.1, hs.2.2, or_self, beq_self_eq_true, Bool.false_and,
      hmp, decide_false, hg, ite_true, State.preWrite_done hc]
    simp at h2 ⊢
    exact h2
  unfold State.wr State.pathWrite State.writeReg
  simp only [hid, ite_false, h3]
  rfl

/-- The state in which a guarded write of a path is performed: its unlock is consumed (R291). -/
def State.consumed (s : State) (p : Path) : State :=
  match lockOf p with
  | none => s
  | some i => { s with unlockBy := s.unlockBy.set i none }

theorem State.guard_unlocked (hc : s.cfgDone = true) (hu : s.Unlocked p) : s.guard p = (true, s.consumed p) := by
  unfold State.guard State.consumed
  unfold State.Unlocked at hu
  split <;> simp_all

/-- A guarded full-word write that its path's unlock admits (R291, R292). -/
theorem State.wr_guarded (h4 : a % 4 = 0) (hid : a ≠ R.ID) (hmp : a ≠ R.MP_DATA)
    (hp : s.Writes p) (hs : (locate a).space ≠ .bcast ∧ (locate a).space ≠ .group ∧ (locate a).space ≠ .active)
    (hr : rowAt a = some r) (hg : r.guarded = true) (hl : a ≠ R.PRT_LOCK) (hc : s.cfgDone = true) (hu : s.Unlocked p) :
    s.wr p a w = (((s.consumed p).writeOwn p (locate a) a r 0xFFFFFFFF#32 w).modPath p fun x => { x with resp := 0 }).serveMailbox := by
  have h1 : beAligned a 0xF#4 = true := by simp [beAligned, h4]
  have h2 : (p = .lcp && !s.tvB 0 F.DEV_MODE_LCP_WR && a ≠ R.PRT_UNLOCK && a ≠ R.PRT_LOCK) = false := by
    cases p <;> first | (simp; done) | (have := hp rfl; simp [this])
  have h3 : s.writeAt p a 0xF#4 w = (.ok, (s.consumed p).writeOwn p (locate a) a r 0xFFFFFFFF#32 w) := by
    unfold State.writeAt
    rw [h1, hr]
    simp only [beMask_full, Bool.not_true, Bool.false_eq_true, ite_false, hs.1, hs.2.1, hs.2.2, or_self, beq_self_eq_true, Bool.false_and,
      hmp, decide_false, hg, hl, ite_true, State.guard_unlocked hc hu]
    simp at h2 ⊢
    exact h2
  unfold State.wr State.pathWrite State.writeReg
  simp only [hid, ite_false, h3]
  rfl

/-! ### Where the blocks lie -/

theorem locate_chan {n off : Nat} (hn : n < 128) (ho : off < 0x800) : locate (chBase n + off) = ⟨.chan, n, off⟩ := by
  have e1 : (chBase n + off) % 0x1000 = off := by unfold chBase; omega
  have e2 : (chBase n + off - 0x100000) / 0x1000 = n := by unfold chBase; omega
  unfold locate
  rw [if_pos (by unfold chBase; omega)]
  simp only [e1, e2, ho, if_true]

theorem locate_spare {n off : Nat} (hn : n < 8) (ho : off < 0x1000) : locate (spBase n + off) = ⟨.spare, n, off⟩ := by
  have e1 : (spBase n + off) % 0x1000 = off := by unfold spBase; omega
  have e2 : (spBase n + off - 0x180000) / 0x1000 = n := by unfold spBase; omega
  unfold locate
  rw [if_neg (by unfold spBase; omega), if_pos (by unfold spBase; omega)]
  simp only [e1, e2]

theorem locate_tu {n off : Nat} (hn : n < 16) (ho : off < 0x80) : locate (tuBase n + off) = ⟨.tu, n, off⟩ := by
  have e1 : (tuBase n + off) % 0x80 = off := by unfold tuBase; omega
  have e2 : (tuBase n + off - 0x2000) / 0x80 = n := by unfold tuBase; omega
  unfold locate
  rw [if_neg (by unfold tuBase; omega), if_neg (by unfold tuBase; omega), if_neg (by unfold tuBase; omega),
    if_neg (by unfold tuBase; omega), if_pos (by unfold tuBase; omega)]
  simp only [e1, e2]

theorem locate_link {n off : Nat} (hn : n < 2) (ho : off < 0x200) : locate (lkBase n + off) = ⟨.link, n, off⟩ := by
  have e1 : (lkBase n + off) % 0x200 = off := by unfold lkBase; omega
  have e2 : (lkBase n + off - 0x4000) / 0x200 = n := by unfold lkBase; omega
  unfold locate
  rw [if_neg (by unfold lkBase; omega), if_neg (by unfold lkBase; omega), if_neg (by unfold lkBase; omega),
    if_neg (by unfold lkBase; omega), if_neg (by unfold lkBase; omega), if_pos (by unfold lkBase; omega)]
  simp only [e1, e2]

theorem locate_dom {n off : Nat} (hn : n < 4) (ho : off < 0x40) : locate (dmBase n + off) = ⟨.dom, n, off⟩ := by
  have e1 : (dmBase n + off - 0x5100) % 0x40 = off := by unfold dmBase; omega
  have e3 : (dmBase n + off) % 0x40 = off := by unfold dmBase; omega
  have e2 : (dmBase n + off - 0x5100) / 0x40 = n := by unfold dmBase; omega
  unfold locate
  rw [if_neg (by unfold dmBase; omega), if_neg (by unfold dmBase; omega), if_neg (by unfold dmBase; omega),
    if_neg (by unfold dmBase; omega), if_neg (by unfold dmBase; omega), if_neg (by unfold dmBase; omega),
    if_pos (by unfold dmBase; omega)]
  simp only [e3, e2]

theorem rowAt_chan {n off : Nat} (hn : n < 128) (ho : off < 0x800) :
    rowAt (chBase n + off) = chanRows.find? fun r => r.covers off := by
  unfold rowAt
  rw [locate_chan hn ho]
  rfl

theorem rowAt_spare {n off : Nat} (hn : n < 8) (ho : off < 0x1000) :
    rowAt (spBase n + off) = spareRows.find? fun r => r.covers off := by
  unfold rowAt
  rw [locate_spare hn ho]
  rfl

theorem rowAt_tu {n off : Nat} (hn : n < 16) (ho : off < 0x80) :
    rowAt (tuBase n + off) = tuRows.find? fun r => r.covers off := by
  unfold rowAt
  rw [locate_tu hn ho]
  rfl

theorem rowAt_link {n off : Nat} (hn : n < 2) (ho : off < 0x200) :
    rowAt (lkBase n + off) = linkRows.find? fun r => r.covers off := by
  unfold rowAt
  rw [locate_link hn ho]
  rfl

theorem rowAt_dom {n off : Nat} (hn : n < 4) (ho : off < 0x40) :
    rowAt (dmBase n + off) = domRows.find? fun r => r.covers off := by
  unfold rowAt
  rw [locate_dom hn ho]
  rfl

/-! ### Frames of the named updates -/

theorem State.OnlyRegs.refl (s : State) (l : List Nat) : s.OnlyRegs s l := ⟨rfl, fun _ _ => rfl⟩

theorem State.OnlyRegs.trans {s t u : State} {l : List Nat} (h : s.OnlyRegs t l) (g : t.OnlyRegs u l) : s.OnlyRegs u l :=
  ⟨by rw [g.1, h.1], fun a ha => (g.2 a ha).trans (h.2 a ha)⟩

theorem State.OnlyRegs.setW {s t : State} {l : List Nat} (h : s.OnlyRegs t l) {a : Nat} (v : Word) (ha : a ∈ l) :
    s.OnlyRegs (t.setW a v) l :=
  h.trans ⟨rfl, fun b hb => State.w_setW_other t v (fun e => hb (e ▸ ha))⟩

theorem State.OnlyRegs.setF {s t : State} {l : List Nat} (h : s.OnlyRegs t l) {b : Nat} {f : Fld} (v : Nat)
    (ha : b + f.addr ∈ l) : s.OnlyRegs (t.setF b f v) l := h.setW _ ha

theorem State.OnlyRegs.raise {s t : State} {l : List Nat} (h : s.OnlyRegs t l) {b : Nat} {f : Fld}
    (ha : b + f.addr ∈ l) : s.OnlyRegs (t.raise b f) l := h.setW _ ha

theorem State.OnlyRegs.setPair {s t : State} {l : List Nat} (h : s.OnlyRegs t l) {a : Nat} (v : Nat)
    (ha : a ∈ l) (hb : a + 4 ∈ l) : s.OnlyRegs (t.setPair a v) l := (h.setW _ ha).setW _ hb

theorem State.OnlyRegs.count {s t : State} {l : List Nat} (h : s.OnlyRegs t l) {a : Nat} (n : Nat)
    (ha : a ∈ l) (hb : a + 4 ∈ l) : s.OnlyRegs (t.count a n) l := h.setPair _ ha hb

theorem State.OnlyRegs.memory {s t : State} {l : List Nat} (h : s.OnlyRegs t l) : s.SameMemory t := by
  rw [h.1]
  exact ⟨fun _ => rfl, fun _ => rfl, rfl, fun _ => rfl, fun _ => rfl⟩

end Sys2Proof.Machine
end

