-- ==== Sys2Proof/Laws/Rows.lean ====
section
/-!
SUPPORT. The registers that rows of the command table write: that each is in the map, whether a field
of it is guarded, and which of its bits a write stores or clears (R3).
-/

namespace Sys2Proof.Machine

theorem row_DEV_CMD : ∃ r, rowAt R.DEV_CMD = some r ∧ r.guarded = true ∧ r.rw = 0x0#32 ∧ r.w1c = 0x0#32 := ⟨_, rfl, by decide, by decide, by decide⟩

theorem row_TB_SRC : ∃ r, rowAt R.TB_SRC = some r ∧ r.guarded = true ∧ r.rw = 0x37#32 ∧ r.w1c = 0x0#32 := ⟨_, rfl, by decide, by decide, by decide⟩

theorem row_TB_DRIFT : ∃ r, rowAt R.TB_DRIFT = some r ∧ r.guarded = false ∧ r.rw = 0x1ffff#32 ∧ r.w1c = 0x0#32 := ⟨_, rfl, by decide, by decide, by decide⟩

theorem row_TB_SNAP_CTL : ∃ r, rowAt R.TB_SNAP_CTL = some r ∧ r.guarded = false ∧ r.rw = 0x0#32 ∧ r.w1c = 0x0#32 := ⟨_, rfl, by decide, by decide, by decide⟩

theorem row_TB_PACE_MAX : ∃ r, rowAt R.TB_PACE_MAX = some r ∧ r.guarded = false ∧ r.rw = 0x0#32 ∧ r.w1c = 0x0#32 := ⟨_, rfl, by decide, by decide, by decide⟩

theorem row_TB_AVS_CTL : ∃ r, rowAt R.TB_AVS_CTL = some r ∧ r.guarded = false ∧ r.rw = 0xc00fffff#32 ∧ r.w1c = 0x0#32 := ⟨_, rfl, by decide, by decide, by decide⟩

theorem row_DEV_TDAC_ARR : ∃ r, rowAt R.DEV_TDAC_ARR = some r ∧ r.guarded = false ∧ r.rw = 0x3#32 ∧ r.w1c = 0x0#32 := ⟨_, rfl, by decide, by decide, by decide⟩

theorem row_DEV_AMON : ∃ r, rowAt R.DEV_AMON = some r ∧ r.guarded = false ∧ r.rw = 0x80000fff#32 ∧ r.w1c = 0x0#32 := ⟨_, rfl, by decide, by decide, by decide⟩

theorem row_CAL_CMD : ∃ r, rowAt R.CAL_CMD = some r ∧ r.guarded = false ∧ r.rw = 0x0#32 ∧ r.w1c = 0x0#32 := ⟨_, rfl, by decide, by decide, by decide⟩

theorem row_CAL_VD : ∃ r, rowAt R.CAL_VD = some r ∧ r.guarded = true ∧ r.rw = 0xffffffff#32 ∧ r.w1c = 0x0#32 := ⟨_, rfl, by decide, by decide, by decide⟩

theorem row_NET_CFG : ∃ r, rowAt R.NET_CFG = some r ∧ r.guarded = false ∧ r.rw = 0xfc000000#32 ∧ r.w1c = 0x0#32 := ⟨_, rfl, by decide, by decide, by decide⟩

theorem row_PRT_UNLOCK : ∃ r, rowAt R.PRT_UNLOCK = some r ∧ r.guarded = false ∧ r.rw = 0x0#32 ∧ r.w1c = 0x0#32 := ⟨_, rfl, by decide, by decide, by decide⟩

theorem row_PRT_LOCK : ∃ r, rowAt R.PRT_LOCK = some r ∧ r.guarded = true ∧ r.rw = 0x80000000#32 ∧ r.w1c = 0x0#32 := ⟨_, rfl, by decide, by decide, by decide⟩

theorem row_DEV_ODM_CTL : ∃ r, rowAt R.DEV_ODM_CTL = some r ∧ r.guarded = false ∧ r.rw = 0x0#32 ∧ r.w1c = 0x30000000#32 := ⟨_, rfl, by decide, by decide, by decide⟩

theorem row_MP_DATA : ∃ r, rowAt R.MP_DATA = some r ∧ r.guarded = false ∧ r.rw = 0xffffffff#32 ∧ r.w1c = 0x0#32 := ⟨_, rfl, by decide, by decide, by decide⟩

theorem row_DEV_MODE : ∃ r, rowAt R.DEV_MODE = some r ∧ r.guarded = true ∧ r.rw = 0xe0000000#32 ∧ r.w1c = 0x0#32 := ⟨_, rfl, by decide, by decide, by decide⟩

theorem row_CH_CFG : ∃ r, (chanRows.find? fun r => r.covers R.CH_CFG) = some r ∧ r.guarded = false ∧ r.rw = 0x9330#32 ∧ r.w1c = 0x0#32 :=
  ⟨_, rfl, by decide, by decide, by decide⟩

theorem row_CH_TDAC : ∃ r, (chanRows.find? fun r => r.covers R.CH_TDAC) = some r ∧ r.guarded = false ∧ r.rw = 0xffffff#32 ∧ r.w1c = 0x0#32 :=
  ⟨_, rfl, by decide, by decide, by decide⟩

theorem row_CH_TDAC_Q : ∃ r, (chanRows.find? fun r => r.covers R.CH_TDAC_Q) = some r ∧ r.guarded = false ∧ r.rw = 0x0#32 ∧ r.w1c = 0x0#32 :=
  ⟨_, rfl, by decide, by decide, by decide⟩

theorem row_CH_PIN : ∃ r, (chanRows.find? fun r => r.covers R.CH_PIN) = some r ∧ r.guarded = false ∧ r.rw = 0x0#32 ∧ r.w1c = 0xf00#32 :=
  ⟨_, rfl, by decide, by decide, by decide⟩

theorem row_CH_DEC : ∃ r, (chanRows.find? fun r => r.covers R.CH_DEC) = some r ∧ r.guarded = false ∧ r.rw = 0x4003ffff#32 ∧ r.w1c = 0x0#32 :=
  ⟨_, rfl, by decide, by decide, by decide⟩

theorem row_CH_FUNC : ∃ r, (chanRows.find? fun r => r.covers R.CH_FUNC) = some r ∧ r.guarded = false ∧ r.rw = 0xffffcfff#32 ∧ r.w1c = 0x0#32 :=
  ⟨_, rfl, by decide, by decide, by decide⟩

theorem row_CH_PART : ∃ r, (chanRows.find? fun r => r.covers R.CH_PART) = some r ∧ r.guarded = false ∧ r.rw = 0x8000007f#32 ∧ r.w1c = 0x0#32 :=
  ⟨_, rfl, by decide, by decide, by decide⟩

theorem row_CH_CMD : ∃ r, (chanRows.find? fun r => r.covers R.CH_CMD) = some r ∧ r.guarded = false ∧ r.rw = 0x0#32 ∧ r.w1c = 0x0#32 :=
  ⟨_, rfl, by decide, by decide, by decide⟩

theorem row_CH_MD_CTL : ∃ r, (chanRows.find? fun r => r.covers R.CH_MD_CTL) = some r ∧ r.guarded = false ∧ r.rw = 0xf8000000#32 ∧ r.w1c = 0x0#32 :=
  ⟨_, rfl, by decide, by decide, by decide⟩

theorem row_CH_MD_H : ∃ r, (chanRows.find? fun r => r.covers R.CH_MD_H) = some r ∧ r.guarded = false ∧ r.rw = 0xffffff#32 ∧ r.w1c = 0x0#32 :=
  ⟨_, rfl, by decide, by decide, by decide⟩

theorem row_CH_MD_CMD : ∃ r, (chanRows.find? fun r => r.covers R.CH_MD_CMD) = some r ∧ r.guarded = false ∧ r.rw = 0x0#32 ∧ r.w1c = 0x0#32 :=
  ⟨_, rfl, by decide, by decide, by decide⟩

theorem row_CH_HG_CTL : ∃ r, (chanRows.find? fun r => r.covers R.CH_HG_CTL) = some r ∧ r.guarded = false ∧ r.rw = 0xe7ffff80#32 ∧ r.w1c = 0x0#32 :=
  ⟨_, rfl, by decide, by decide, by decide⟩

theorem row_CH_HG_NB : ∃ r, (chanRows.find? fun r => r.covers R.CH_HG_NB) = some r ∧ r.guarded = false ∧ r.rw = 0x3fffff#32 ∧ r.w1c = 0x0#32 :=
  ⟨_, rfl, by decide, by decide, by decide⟩

theorem row_CH_HG_LO_H : ∃ r, (chanRows.find? fun r => r.covers R.CH_HG_LO_H) = some r ∧ r.guarded = false ∧ r.rw = 0xffffffff#32 ∧ r.w1c = 0x0#32 :=
  ⟨_, rfl, by decide, by decide, by decide⟩

theorem row_CH_HG_LO_L : ∃ r, (chanRows.find? fun r => r.covers R.CH_HG_LO_L) = some r ∧ r.guarded = false ∧ r.rw = 0xffffffff#32 ∧ r.w1c = 0x0#32 :=
  ⟨_, rfl, by decide, by decide, by decide⟩

theorem row_CH_HG_CMD : ∃ r, (chanRows.find? fun r => r.covers R.CH_HG_CMD) = some r ∧ r.guarded = false ∧ r.rw = 0x0#32 ∧ r.w1c = 0x0#32 :=
  ⟨_, rfl, by decide, by decide, by decide⟩

theorem row_SP_ROUTE : ∃ r, (spareRows.find? fun r => r.covers R.SP_ROUTE) = some r ∧ r.guarded = true ∧ r.rw = 0xcf#32 ∧ r.w1c = 0x0#32 :=
  ⟨_, rfl, by decide, by decide, by decide⟩

theorem row_TRG_TU_CMD : ∃ r, (tuRows.find? fun r => r.covers R.TRG_TU_CMD) = some r ∧ r.guarded = false ∧ r.rw = 0x0#32 ∧ r.w1c = 0x0#32 :=
  ⟨_, rfl, by decide, by decide, by decide⟩

theorem row_LNK_CFG : ∃ r, (linkRows.find? fun r => r.covers R.LNK_CFG) = some r ∧ r.guarded = false ∧ r.rw = 0xf8fff000#32 ∧ r.w1c = 0x0#32 :=
  ⟨_, rfl, by decide, by decide, by decide⟩

theorem row_LNK_CMD : ∃ r, (linkRows.find? fun r => r.covers R.LNK_CMD) = some r ∧ r.guarded = false ∧ r.rw = 0x0#32 ∧ r.w1c = 0x0#32 :=
  ⟨_, rfl, by decide, by decide, by decide⟩

theorem row_LNK_TEST : ∃ r, (linkRows.find? fun r => r.covers R.LNK_TEST) = some r ∧ r.guarded = false ∧ r.rw = 0xf800ffff#32 ∧ r.w1c = 0x0#32 :=
  ⟨_, rfl, by decide, by decide, by decide⟩

theorem row_PTP_CFG : ∃ r, (domRows.find? fun r => r.covers R.PTP_CFG) = some r ∧ r.guarded = false ∧ r.rw = 0xf8ff00ff#32 ∧ r.w1c = 0x0#32 :=
  ⟨_, rfl, by decide, by decide, by decide⟩

theorem row_PTP_CMD : ∃ r, (domRows.find? fun r => r.covers R.PTP_CMD) = some r ∧ r.guarded = false ∧ r.rw = 0x0#32 ∧ r.w1c = 0x0#32 :=
  ⟨_, rfl, by decide, by decide, by decide⟩

theorem row_DEV_TPACE : ∃ r, (∀ k : Fin 8, rowAt (R.DEV_TPACE + 4 * k.val) = some r) ∧ r.guarded = false ∧ r.rw = 0x80003fff#32 ∧ r.w1c = 0x0#32 :=
  ⟨(rowAt R.DEV_TPACE).get (by decide), by decide, by decide, by decide, by decide⟩

theorem row_DEV_LK_SPMAP : ∃ r, (∀ k : Fin 8, rowAt (R.DEV_LK_SPMAP + 4 * k.val) = some r) ∧ r.guarded = true ∧ r.rw = 0x8000007f#32 ∧ r.w1c = 0x0#32 :=
  ⟨(rowAt R.DEV_LK_SPMAP).get (by decide), by decide, by decide, by decide, by decide⟩

theorem row_TRG_VP : ∃ r, (∀ k : Fin 32, rowAt (R.TRG_VP + 4 * k.val) = some r) ∧ r.guarded = false ∧ r.rw = 0xe00fffff#32 ∧ r.w1c = 0x0#32 :=
  ⟨(rowAt R.TRG_VP).get (by decide), by decide, by decide, by decide, by decide⟩

end Sys2Proof.Machine
end

