-- ==== Sys2Proof/Tests/Slice0.lean ====
section
/-!
SUPPORT. Tests: the worked examples and layouts that the spec writes out, an ill-formed command for each
check of `Instr.wf`, and, for each statement that has hypotheses, states and operands that meet all the
hypotheses of a clause together. Expected values are the spec's, never the model's own answers.
-/

namespace Sys2Proof

/-! ### Ill-formed commands -/

/-- A collection has 256 bins. -/
theorem test_wf_refuses_bootCalDone : Instr.wf (.bootCalDone [{ fe := 0, side := .a, ofssR := 0, ofssF := 0, collections := [[1, 2]] }] []) = false := by decide +kernel

/-- Twelve sensors with their monitors. -/
theorem test_wf_refuses_paceUpdate_sensors : Instr.wf (.paceUpdate [[1]]) = false := by decide +kernel

/-- A grant moves at least one word. -/
theorem test_wf_refuses_vatGrant : Instr.wf (.vatGrant 3 0) = false := by decide +kernel

/-- A sample has 256 tk. -/
theorem test_wf_refuses_trigInEdge : Instr.wf (.trigInEdge 0 true ⟨256, 640⟩) = false := by decide +kernel

/-- A sample has 256 tk. -/
theorem test_wf_refuses_stlAssert : Instr.wf (.stlAssert 0 ⟨256, 640⟩ 0#8) = false := by decide +kernel

/-- Handle 0 is no call. -/
theorem test_wf_refuses_serviceDone : Instr.wf (.serviceDone 0 .loaded [] []) = false := by decide +kernel

/-- Handles end at 65,535. -/
theorem test_wf_refuses_serviceMaxtime : Instr.wf (.serviceMaxtime 65536) = false := by decide +kernel

/-- Twelve sensors. -/
theorem test_wf_refuses_thermalRead : Instr.wf (.thermalRead [4000]) = false := by decide +kernel

/-- 256 bins. -/
theorem test_wf_refuses_calCollectDone : Instr.wf (.calCollectDone 9 [1]) = false := by decide +kernel

/-- Six taps. -/
theorem test_wf_refuses_adaptWindow : Instr.wf (.adaptWindow .host 0 [1] false) = false := by decide +kernel

/-- Six taps. -/
theorem test_wf_refuses_fastAdaptEnd : Instr.wf (.fastAdaptEnd .host 0 [1]) = false := by decide +kernel

/-- COUNT + 1 data words. -/
theorem test_wf_refuses_regWrite : Instr.wf (.regWrite 0#12 1#6 0xF#4 0#2 0#24 [0#32]) = false := by decide +kernel

/-- COUNT + 1 data words. -/
theorem test_wf_refuses_writeAck : Instr.wf (.writeAck 0#12 1#6 0xF#4 0#2 0#24 [0#32]) = false := by decide +kernel

/-- COUNT + 1 data words. -/
theorem test_wf_refuses_directWrite : Instr.wf (.directWrite 0#12 0#6 0xF#4 0#2 0#24 []) = false := by decide +kernel

/-- 1,024 data bytes. -/
theorem test_wf_refuses_uldWrite : Instr.wf (.uldWrite (.node 5) 0x2010#16 0#8 (List.replicate 1025 0#8)) = false := by decide +kernel

/-- 1,020 data bytes. -/
theorem test_wf_refuses_segWrite : Instr.wf (.segWrite (.node 5) 0x2010#16 0#8 0#32 (List.replicate 1021 0#8)) = false := by decide +kernel

/-- Eight sessions. -/
theorem test_wf_refuses_sessionTimeout : Instr.wf (.sessionTimeout 8) = false := by decide +kernel

/-- At least one word. -/
theorem test_wf_refuses_lcpRead : Instr.wf (.lcpRead 0#2 0x1000#24 0) = false := by decide +kernel

/-- At least one word. -/
theorem test_wf_refuses_lcpWrite : Instr.wf (.lcpWrite 0#2 0x1000#24 []) = false := by decide +kernel

end Sys2Proof

namespace Sys2Proof.Machine

set_option Elab.async false

/-! ### States -/

/-- Supplies valid, nothing else yet. -/
def tReleased : State := { State.reset with boot := { Boot.reset with released := true, straps := 5#6 } }

/-- The same with BOOT_LOCK fused. -/
def tLockFuse : State := { tReleased with fuses := { Fuses.shipped with bootLock := true } }

/-- Start-up has reached the boot responder; device time runs. -/
def tBase : State :=
  { State.reset with
    boot := { Boot.reset with released := true, fused := true, lcp := true, eth := true, responder := true, flashOk := true,
                              choice := some .defaults, calChosen := true },
    clk := { epx := 0#32, ets := 1024000#64, running := true }, temps := List.replicate 12 4000,
    indigo := { Indigo.reset with serving := true } }

/-- CFG_DONE, locked to REFIN with the crystal running, calibrated, a service image running. -/
def tAlmost : State :=
  ((((((tBase.setF 0 F.DEV_STAT_CFG_DONE 1).setF 0 F.TB_STAT_ACTIVE 1).setF 0 F.TB_STAT_LOCKED 1).setF 0 F.TB_STAT_REF_QUAL 1).setF 0
    F.TB_STAT_XTAL_OK 1).setF 0 F.CAL_STAT_BOOT_DONE 1).setF 0 F.DEV_SVC_STAT_SLOT 1

/-- READY. -/
def tUp : State := tAlmost.setF 0 F.DEV_STAT_READY 1

/-- READY, and the host link and the LCP hold an unlock. -/
def tUnlocked : State := { tUp with unlockBy := Vector.replicate 2 (some 2000000) }

/-- The LCP is served and the slots are unread. -/
def tUnread : State := { tBase with boot := { tBase.boot with choice := none } }

/-- A configuration is chosen and not committed. -/
def tLoaded (c : CfgChoice) : State := { tBase with boot := { tBase.boot with choice := some c } }

/-- The configuration is committed and no calibration slot chosen. -/
def tCalFree : State :=
  { tBase.setF 0 F.DEV_STAT_CFG_DONE 1 with boot := { tBase.boot with calChosen := false } }

/-- A configuration image of one record: its CRC-32 and the record. -/
def tRecord : List Byte := [0x10#8, 0x10#8, 0x00#8, 0x00#8, 0x00#8, 0x00#8, 0x80#8, 0x00#8]
def tImage : List Byte := bytesBE 4 (crc32 tRecord).toNat ++ tRecord

/-- A configuration store in progress. -/
def tStore : FlashStore := { kind := .config, base := 0, header := List.replicate 4 0x53#8, body := tRecord }
def tStoring : State := { tUp with stores := [tStore] }

/-- Row repair on. -/
def tAutoRow : State := tUp.setF 0 F.DEV_REP_CTL_AUTO_ROW 1

/-- A spare whose handover failed once. -/
def tRetry : State :=
  tUp.setSpare 2 { SpareSt.reset with retryAt := some 2000000 }

/-- The crystal is active. -/
def tCrystal : State := tUp.setF 0 F.TB_STAT_ACTIVE 2

/-- The governor is enabled between 700 and 900 mV. -/
def tAvs (first : Bool) : State :=
  { ((tUp.setF 0 F.TB_AVS_CTL_EN 1).setF 0 F.TB_AVS_CTL_VMIN 700).setF 0 F.TB_AVS_CTL_VMAX 900 with
    tb := { TbEng.reset with avsFirst := first } }

/-- Channel 3 is enabled and unparked; its function is off. -/
def tChan : State :=
  ((tUp.setF (chBase 3) F.CH_CFG_EN 1).setF (chBase 3 + 0x800) F.CH_CFG_EN 1).setF (chBase 3) F.CH_PIN_PARKED 0

/-- The same, parked. -/
def tParked : State := tChan.setF (chBase 3) F.CH_PIN_PARKED 1

/-- Channel 3 measures frequency in a gate of 1 ms. -/
def tGate : State := (((tChan.setF (chBase 3 + 0x800) F.CH_FUNC_FEN 1).setF (chBase 3) F.CH_FUNC_FEN 1).setF (chBase 3 + 0x800)
  F.CH_GATE_L_G 640000000).openGate 3 1024000

/-- Channel 3 takes array strobes from every source. -/
def tArray : State :=
  (((tChan.setF (chBase 3) F.CH_TDAC_MODE 2).setF (chBase 3) F.CH_TDAC_CODE 1234).setF 0 F.DEV_TDAC_ARR_EN_LOAD 1).setF 0
    F.DEV_TDAC_ARR_EN_MSG 1

/-- Spare 2 at a stage of a handover for channel 35, with a state and an owner. -/
def tHand (stage state owner : Nat) : State :=
  (((tUp.setF (spBase 2) F.SP_STAT_STATE state).setF (spBase 2) F.SP_STAT_OWNER owner).setF (spBase 2) F.SP_STAT_CUR 3).setSpare 2
    { SpareSt.reset with stage := stage, startAt := 1024000 }

/-- Channel 3 is blind until 1024100. -/
def tBlind : State := { tChan with chans := tChan.chans.set 3 { tChan.chan 3 with
  blind := some { start := { raw := 1000000, edge := none }, causes := Causes.none, count := 2, endBy := 1024100, ovfWait := false, testWait := false } } }

/-- Channel 3 is blind from an overflow, with n entries in its FIFO. -/
def tBlindOvf (n : Nat) : State := { tChan with chans := tChan.chans.set 3 { tChan.chan 3 with
  fifo := List.replicate n .abs,
  blind := some { start := { raw := 1000000, edge := none }, causes := { Causes.none with ovf := true }, count := 2, endBy := 0,
                  ovfWait := true, testWait := false } } }

/-- An entry of channel 3 waits for the Vat's grant. -/
def tWaiting : State := { tChan with chans := tChan.chans.set 3 { tChan.chan 3 with
  vwait := [.edge 1024000 { side := .a, spare := false, rising := true }] } }

/-- Stream partition 0 carries channel 3, whose block is open and whose next entry waits. -/
def tStreaming : State :=
  { ((tWaiting.setW R.TRG_VP (F.TRG_VP_EN.into (F.TRG_VP_MODE.into (F.TRG_VP_SIZE.into 0#32 4) 2) 1)).setW R.TRG_VSM 8#32) with
    blocks := (Vector.replicate 32 []).set 0
      [{ ch := 3, items := [{ words := [9#32], time := 1023000, refBefore := 0, kind := .abs }], startAt := 1023000, spare := false, refchg := false, seq := 5#32, out := 0 }] }

def gDefault : GateRec :=
  { openAt := 0, closeAt := none, ended := false, seq := 0#32, resOpen := 0, cut := false, cutEnd := false, early := false, refchg := none,
    spare := none, fresh := false, adevClr := false, tieAt := none,
    cfg := { func := 0#32, dec := 0#32, part := 0#32, partDec := 0#32, tito := 0, gate := 0, nom := 0 } }

/-- Channel 3's function runs in single mode, and in external mode with a gate open. -/
def tSingle : State :=
  ((tChan.setF (chBase 3 + 0x800) F.CH_FUNC_FEN 1).setF (chBase 3 + 0x800) F.CH_FUNC_GMODE 1).setF (chBase 3 + 0x800) F.CH_GATE_L_G 640000000
def tExternal : State :=
  ((tChan.setF (chBase 3 + 0x800) F.CH_FUNC_FEN 1).setF (chBase 3 + 0x800) F.CH_FUNC_GMODE 2).openGate 3 1024000

/-- Channel 3 measures in a gate that opened earlier, and its gate length has been rewritten. -/
def tDirty : State :=
  { ((((tChan.setF (chBase 3 + 0x800) F.CH_FUNC_FEN 1).setF (chBase 3) F.CH_FUNC_FEN 1).setF (chBase 3 + 0x800) F.CH_GATE_L_G
      640000000).openGate 3 1000000).setF (chBase 3) F.CH_GATE_L_G 1280000 with }.modChan 3 fun c => { c with dirty := [R.CH_GATE_L] }

/-- A start of channel 3's time interval is pending. -/
def tPending : State :=
  (((((tChan.setF (chBase 3 + 0x800) F.CH_FUNC_FEN 1).setF (chBase 3 + 0x800) F.CH_FUNC_FUNC 1).setF (chBase 3 + 0x800) F.CH_TITO_L_T
    6400).setF (chBase 3 + 0x800) F.CH_GATE_L_G 640000000).openGate 3 1024000).modChan 3 fun c =>
      { c with red := { c.red with carry := { c.red.carry with pend := some (16384000, true) } } }

/-- A descriptor head for a rising edge 10 us ahead. -/
def hGood : DescHead := { seq := 5#24, tag := 9#32, pol := 1#2, action := 0#3, profile := 2#4, texp := 0x70AA00#48 }

/-- Mordant is enabled on channel 3. -/
def tMord : State := tChan.setF (chBase 3) F.CH_MD_CTL_EN 1
def tMordWith (m : Mord) : State := tMord.modChan 3 fun c => { c with mord := m }
def tMordAt (seq : Nat) : State := tMordWith { Mord.reset with expSeq := some (BitVec.ofNat 24 seq) }
def tMordFull : State :=
  tMordWith { Mord.reset with queue := List.replicate 64 { d := hGood.desc .exp1, left := [0], covered := [], done := 0 } }

def eWatch : Exp :=
  { id := 0, seq := 7#24, elem := 0, pol := 1#2, action := 0#3, tag := 1#32, gen := 0, texp := 1024000, ws := 1023000, we := 1025000, st := .watch,
    edge := none, extras := [], blind := false, crowd := false, opp := false, covered := false, closed := false }

/-- Two expectations and a queued train. -/
def tMordQ : State := tMordWith { Mord.reset with front := 16400000, exps := [eWatch, { eWatch with id := 1, elem := 1, we := 9000000 }],
                                                  queue := [{ d := { hGood.desc (.run 0x1000000#48 5#16 false) with seq := 8#24 }, left := [0, 1], covered := [], done := 0 }] }
def tMordQ0 : State := tMordWith { Mord.reset with queue := [{ d := hGood.desc (.run 0x1000000#48 5#16 false), left := [0, 1], covered := [], done := 0 }] }
def tMordQ1 : State := tMordWith { Mord.reset with queue := [{ d := hGood.desc .exp1, left := [0], covered := [], done := 0 }] }
def tMordTable : State := tMordWith { Mord.reset with exps := List.replicate 512 eWatch, queue := [{ d := hGood.desc .exp1, left := [0], covered := [], done := 0 }] }
def tMordWatch : State := tMordWith { Mord.reset with exps := [eWatch], input := [.edge 16385000 true] }
def tMordIn : State := tMordWith { Mord.reset with input := [.edge 16385000 true] }

/-- The first expectations of the queued train and of the queued EXP1. -/
def hQ0 : Exp := (hGood.desc (.run 0x1000000#48 5#16 false)).expect 0 tMordQ0.now 0 0 (tMordQ0.mdProfile 3 2).1 (tMordQ0.mdProfile 3 2).2
def hQ1 : Exp := (hGood.desc .exp1).expect 0 tMordQ1.now 0 0 (tMordQ1.mdProfile 3 2).1 (tMordQ1.mdProfile 3 2).2

/-- An expectation that is due, unbound or bound. -/
def eDue (x : Option (Int × Bool)) : Exp := { eWatch with st := if x.isSome then .bound else .watch, edge := x, closed := true }
def tMordDue (x : Option (Int × Bool)) : State := tMordWith { Mord.reset with exps := [eDue x], front := 400000000 }
def tMordFree : State := tMordWith { Mord.reset with free := [(16385000, true)], front := 400000000 }

/-- Channel 3's Mordant owes n credits. -/
def tOwed (n : Nat) : State := tMordWith { Mord.reset with owed := n, owedSince := some 1024000 }

/-- Unit 2 captures channel 3 into partition 0 and is ARMED with the sources of the mask. -/
def ringOne : Ring :=
  { ch := 3, items := [], written := 0, pos := 0, seg := 0, start := 0, pre := [], post := [], closed := none, short := false, spare := none,
    refchg := none }
def tArmable : State :=
  ((((tChan.setW R.TRG_VP (F.TRG_VP_MODE.into (F.TRG_VP_SIZE.into 0#32 4) 1)).setF (tuBase 2) F.TRG_TU_PRE_PRE 100).setF (tuBase 2)
    F.TRG_TU_POST_POST 100).setW (tuBase 2 + R.TRG_TU_CHM) 8#32)
def tArmed (src : Nat) : State :=
  ((((tArmable.applyTu 2).setF (forceBase + tuBase 2) F.TRG_TU_SRC_SRC_EN src).setF (tuBase 2) F.TRG_TU_STAT_STATE tuArmed).modTu 2
    fun x => { x with armAt := 1000000, rings := [ringOne] })

/-- The same in POST, with FORCE enabled. -/
def eTrig : TrigEvent := { sample := 1023744, src := 1#16, number := 4#32, value := 0#64, era := none, domh := false, missed := 0, dead := 0 }
def tPost : State := ((tArmed 0x8000).setF (tuBase 2) F.TRG_TU_STAT_STATE tuPost).modTu 2 fun x => { x with event := some eTrig }

/-- The same in REARM with its record closed, in single mode; and in continuous mode with the headers written. -/
def ringDone : Ring :=
  { ringOne with closed := some (.postTime, 1023900), pre := [{ words := [5#32], time := 1023700, refBefore := 0, kind := .edge 16379200 true }],
                 pos := 1 }
def tRearm (mode : Nat) : State :=
  (((tPost.setF (tuBase 2) F.TRG_TU_STAT_STATE tuRearm).setF (forceBase + tuBase 2) F.TRG_TU_CFG_MODE mode).setF (forceBase + tuBase 2) F.TRG_TU_CFG_PUSH 0).modTu 2 fun x =>
    { x with rings := [ringDone], closeAt := 1023900 }
def tRearmed : State := (tRearm 1).modTu 2 fun x => { x with hdrDone := true }

/-- Unit 2 holds a record. -/
def recOne : Record :=
  { ch := 3, number := 4#32, seg := 0, header := List.replicate 8 7#64,
    items := [{ words := [5#32], time := 1023700, refBefore := 0, kind := .edge 16379200 true }], base := 0, size := 200, start := 0, pushed := false }
def tRecords : State := tUp.modTu 2 fun x => { x with records := [recOne] }

/-- Channel 3 is claimed by a service call. -/
def tOwned : State := tChan.setF (chBase 3) F.CH_HG_STAT_SVC_OWN 1

/-- Channel 3 counts into a double-buffered histogram of bank 5. -/
def tBins : State :=
  { ((((tChan.setF (chBase 3 + 0x800) F.CH_HG_CTL_SRC 1).setF (chBase 3 + 0x800) F.CH_HG_CTL_BASE 5).setF (chBase 3 + 0x800)
    F.CH_HG_CTL_DBUF 1).setF (chBase 3 + 0x800) F.CH_HG_NB_NB 10) with
    lake := [(81920, some 4#32), (81950, some 7#32)], lakeZero := [(81920, 82000)] }

/-- Spare bank 2 stands for bank 9, its copy done or not. -/
def tSpared (done : Bool) : State :=
  { (tUnlocked.setTv (spmapA 2) (F.DEV_LK_SPMAP_VALID.into (F.DEV_LK_SPMAP_BANK.into 0#32 9) 1)).setF 0 (F.DEV_LK_SPMAP_DONE.at 4 2) (bit done) with
    lake := [(147456, some 4#32)], lakeZero := [(147456, 163840)] }

/-- Calls of LEVEL on channel 3 and of SELFTEST, and states that hold one. -/
def callOne : Call :=
  { handle := 1, id := 1, params := List.replicate 11 0#8 ++ [8#8] ++ List.replicate 18 0#8 ++ [0#8, 5#8], st := .queued, core := none,
    claims := [], result := [], startAt := 1024000, maxTime := 0, auto := false, lt := [] }
def callSelf : Call := { callOne with id := 6, params := List.replicate 8 0#8 }
def tWithCall (s : State) (k : Call) : State := { s with indigo := { s.indigo with calls := [k], nextHandle := 2 } }
def tCall (k : Call) : State := tWithCall tChan k
def tNoImage : State := tWithCall ((tUp.setF 0 F.DEV_SVC_STAT_NOIMG 1).setF 0 F.DEV_SVC_STAT_SLOT 0) callOne
def tRunning : State := tWithCall tUp { callSelf with st := .running, core := some 0 }
def tClaimed : State := tWithCall tOwned { callOne with st := .running, core := some 0, claims := [(3, tChan.saveClaim 3)] }
def callStore : Call := { callOne with id := 5, params := List.replicate 12 0#8 }
def callLoad : Call := { callOne with id := 5, params := List.replicate 8 0#8 ++ [2#8, 0#8, 0#8, 0#8] }
def callShmoo : Call :=
  { callOne with id := 2, st := .running, core := some 0, claims := [(3, tChan.saveClaim 3)],
                 params := List.replicate 8 0#8 ++ [3#8, 0#8, 0#8, 0#8, 0#8, 4#8, 0#8, 1#8] ++ List.replicate 8 0#8 ++ [0#8, 0#8, 0#8, 64#8] ++
                           List.replicate 8 0#8 ++ [0#8, 1#8, 0#8, 0#8] }
def callJit : Call :=
  { callOne with id := 3, st := .running, core := some 0, params := List.replicate 8 0#8 ++ [3#8] ++ List.replicate 6 0#8 ++ [1#8] ++ List.replicate 16 0#8 }
/-- A calibration store of a call is in progress. -/
def tStoringCal : State :=
  { tWithCall tUp { callStore with st := .running, core := some 0 } with stores := [{ kind := .cal 1, base := calSlot 0, header := [], body := [] }] }
def tQueueFull : State :=
  { tUp with indigo := { tUp.indigo with calls := List.replicate 16 callSelf, nextHandle := 2 } }

/-- A live update to slot 2 in which n cores have moved. -/
def tLive (n : Nat) : State :=
  { tUp with indigo := { tUp.indigo with
      prevSlot := 1, live := some { target := 2, drain := 5, drainBy := 4224000, swapped := (List.finRange 8).take n, back := false } } }

/-- The calibration slot is chosen and the first full calibration runs. -/
def tCalChosen : State := tAlmost.setF 0 F.CAL_STAT_BOOT_DONE 0
def thrVals : ThrVals :=
  { compOfs := -100, g1 := 1073741824, o1 := 5, g2 := 1073741000, o2 := -6, cd := (1, -2, 3, -4), spareSkew := 12, pairSkew := -13 }

/-- Front end 9 (or another) stands in a phase of its event. -/
def tPhaseOf (ph : Nat) (f : FrontEnd) : State := (tUp.setPhase f ph).modFe f fun x => { x with running := true, slot := true, needS := true }
def tPhase (ph : Nat) : State := tPhaseOf ph 9

/-- Front end 9's side A has a table of 40 degC; calibration is enabled. -/
def tAged : State :=
  ((tUp.setF 0 F.CAL_CTL_EN 1).setCal (samplerBlock 9 .a + infoAt) (BitVec.ofNat 32 (4000 * 65536 + 7))).modFe 9 fun x => { x with lastA := some 1024000 }

/-- CAL_MASK selects front ends 9 and 10, of which 10 is held; and front end 9 runs. -/
def tMasked : State := (tUp.setW R.CAL_MASK 0x600#32).setF (feBase 10) F.CH_CAL_CTL_HOLD 1
def tAborting : State := (tMasked.setPhase 9 2).modFe 9 fun x => { x with running := true, slot := true, needS := true, needT := true }

/-- Front end 9's event is next. -/
def tPendCal : State := tUp.raiseCal 9 causeCmd true true

/-- Channel 3 is idle and its threshold part waits. -/
def tIdle : State := { (tChan.setPhase 3 7).modFe 3 (fun x => { x with running := true, needT := true }) with clk := { tChan.clk with ets := 100000000#64 } }

/-- The pattern link in a training state, its lanes locked. -/
def tLnk (st : Nat) : State :=
  (tUp.setF (lnkBase .pattern) F.LNK_STAT_STATE st).modLink .pattern fun x => { x with lanes := Vector.replicate 16 { LaneSt.reset with locked := true } }

/-- The pattern link in a state that follows training, all lanes in service. -/
def tLnkUp (st : Nat) : State :=
  ((allLanes.foldl (fun s k => s.setLnk .pattern (lstat F.LNK_LSTAT_LPOS k) k.val) (tLnk st)).setInsvc .pattern 0xFFFF).modLink .pattern
    fun x => { x with fresh := false, txCred := Vector.replicate 6 64, rxCred := grants .pattern }

def tLnkWith (st : Nat) (g : LinkSt → LinkSt) : State := (tLnkUp st).modLink .pattern g

/-- A verdict that waits for the pattern link. -/
def iMsg : TxItem := { cls := .msg, bytes := List.replicate 16 1#8, tag := .none, since := 1000000, off := 0, rsnd := false }

/-- A sent frame of it. -/
def uMsg (n : Nat) : UFrame := { seq := BitVec.ofNat 12 n, cls := .msg, items := [iMsg], payload := iMsg.bytes, rsnd := false }

/-- A frame of a message to the pattern link. -/
def bMsg (cls seq : Nat) : List Byte := frameBytes cls seq 0 false false false 0 0 (List.replicate 16 0x31#8)

/-- The host link in ACTIVE with the partner's credit. -/
def tHost : State := (tUp.setF (lnkBase .host) F.LNK_STAT_STATE lnkActive).modLink .host
  fun x => { x with txCred := Vector.replicate 6 64, rxCred := grants .host }

/-- A register request of n bytes has arrived on the host link. -/
def tReq (n : Nat) : State := tHost.modLink .host fun x => { x with rx := [{ cls := .reg, bytes := List.replicate n 0x10#8, credits := 1 }] }

/-- Both Ethernet links are up. -/
def tNet : State := (((tUp.setW R.NET_CFG 0xC8000000#32).setF 0 F.NET_STAT_BYPASS 0).setF 0 F.NET_STAT_LINK0 1).setF 0 F.NET_STAT_LINK1 1

/-- A frame that is no PTP message and not the device's. -/
def fPlain : EthFrame := { bytes := List.replicate 60 0x22#8, fcsOk := true }

/-- A PTP Sync on layer 2. -/
def fSync : EthFrame :=
  { bytes := List.replicate 12 0x22#8 ++ [0x88#8, 0xF7#8, 0x10#8, 0x02#8] ++ List.replicate 42 0#8, fcsOk := true }

/-- A Pdelay_Req, a PTP frame of version 1, and a Sync over UDP. -/
def fPdelay : EthFrame := { fSync with bytes := setBytes fSync.bytes 14 [0x12#8] }
def fOld : EthFrame := { fSync with bytes := setBytes fSync.bytes 15 [0x01#8] }
def fSyncUdp : EthFrame :=
  { bytes := List.replicate 12 0x22#8 ++ [0x08#8, 0x00#8, 0x45#8] ++ List.replicate 8 0#8 ++ [17#8] ++ List.replicate 12 0#8 ++
      [0x01#8, 0x3F#8] ++ List.replicate 2 0#8 ++ [0x55#8, 0x66#8] ++ [0x10#8, 0x02#8] ++ List.replicate 42 0#8, fcsOk := true }

/-- Port e1 is busy, with frames in its buffer. -/
def tNetBusy (n : Nat) : State := tNet.setPort .e1 { PortSt.reset with busy := true, buf := List.replicate n { fPlain with bytes := List.replicate 4000 1#8 } }

/-- Peer-to-peer mode. -/
def tP2p : State := tNet.setW R.NET_CFG 0xCC000000#32

/-- Domain 2 listens on port 0, end to end, or a state of it. -/
def tDom (st hr : Nat) : State := ((tNet.setW (dmBase 2 + R.PTP_CFG) 0x88000005#32).setDm 2 F.PTP_STAT_STATE st).setDm 2 F.PTP_STAT_HREASON hr

def mOne : MasterData := { id := 0x77#64, port := 1#16, prio1 := 128#8, cls := 6#8, acc := 0x21#8, var := 0x4E5D#16, prio2 := 128#8, gm := 0x77#64, steps := 0#16 }

/-- With a master, a map and the last offset 0. -/
def tDomOn (st hr : Nat) (g : DomSt → DomSt) : State :=
  ((tDom st hr).installMap 2 { anchor := 1024000, s := 104857600, rate := 0, era := 3#16 }).modDom 2
    fun x => g { x with masters := [{ data := mOne, last := 900000, before := some 800000, interval := 640000000 }], selected := some mOne, lastO := some 0 }

def cOne : Check := { since := 1024000, port := .e0, latest := (1024000, -1000000000) }

/-- A step of 1 ms is pending. -/
def tDomPend (acc : Option (Int × Int)) : State :=
  ((tDomOn domHoldover hrStep fun x => { x with pend := some { sum := -65536000000, count := 1 }, accepted := acc }).setDmPair 2 R.PTP_PEND_H 65536000000).setDm 2
    F.PTP_STAT_PEND 1

/-- A better master is one Announce from being qualified. -/
def mTwo : MasterData := { mOne with id := 0x88#64, gm := 0x88#64, prio1 := 1#8 }
def tTwoMasters (g : DomSt → DomSt) : State :=
  (tDomOn domSlave 0 fun x => g { x with masters := x.masters ++ [{ data := mTwo, last := 1023000, before := none, interval := 640 }] })

/-- A check waits for the link delay of port 0. -/
def tPdCheck : State :=
  ((tDomOn domHoldover hrCheck fun x => { x with check := some cOne, before := 3 }).setW R.NET_CFG 0xCC000000#32).setDm 2 F.PTP_CFG_P2P 1
    |>.setPort .e0 { PortSt.reset with pdSeq := 5#16, pdOpen := true }

/-- The row of the register at an address. -/
def rowOf (a : Nat) : RegRow := (rowAt a).getD { addr := 0, count := 0, stride := 0, fields := [] }

/-- A session of node 5 on OD 0x1040, two bytes received. -/
def xWrite : Session := { src := .node 5, index := 0x1040#16, sub := 0#8, write := true, live := false, data := [1#8, 2#8], last := 1020000 }
def xRead : Session := { src := .node 5, index := 0x3030#16, sub := 0#8, write := false, live := false, data := List.replicate 3000 7#8, last := 1020000 }
def tSessions : State := tUp.modOd fun o => { o with sessions := [xWrite, xRead] }

/-- A transaction of node 5 with one staged write. -/
def cGrp : OdCmd := { cmd := 2#8, index := 0x8042#16, sub := 0#8, data := [0#8, 0#8, 0#8, 9#8] }
def xTxn : Txn := { src := .node 5, xid := 7#16, cmds := [cGrp], stream := cGrp.stream, failed := none, last := 1020000 }
def xEmpty : Txn := { xTxn with cmds := [], stream := [] }
def cSrc : OdCmd := { cmd := 2#8, index := 0x2010#16, sub := 0#8, data := [0#8, 0#8, 0#8, 1#8] }
def xSrc : Txn := { xTxn with cmds := [cSrc], stream := cSrc.stream }
def cTdac : OdCmd := { cmd := 2#8, index := 0x4011#16, sub := 3#8, data := [0#8, 0#8, 0#8, 1#8] }
def xTdac : Txn := { xTxn with cmds := [cTdac], stream := cTdac.stream }
def tTxn (x : Txn) : State := tUp.modOd fun o => { o with txns := [x] }

def cIdent : OdCmd := { cmd := 6#8, index := 0#16, sub := 0#8, data := [] }

/-- Ulidjaif data of an IDENT request from node 5 to node `dst`. -/
def bIdent (dst : Nat) : List Byte :=
  bytesBE 2 dst ++ [0#8, 5#8, 0x14#8, 1#8, 0#8, 9#8, 0#8, 8#8, 0#8, 0#8] ++ [6#8, 0#8, 0#8, 0#8, 0#8, 0#8, 0#8, 0#8]
def qIdent (dst : Nat) : UldReq := { dst := dst, src := 5, ackreq := true, tid := 9#16, cmds := [cIdent] }

/-- The network carries frames, and this node is 0x40. -/
def tNode : State := (tNet.setF 0 F.NET_NODE_NODE_ID 0x40).setF 0 F.NET_ID_ETYPE 0x88B5
def fIdent : EthFrame := { bytes := List.replicate 12 0x22#8 ++ [0x88#8, 0xB5#8] ++ bIdent 0x40 ++ List.replicate 26 0#8, fcsOk := true }

/-- The IDENT request is for all nodes. -/
def fAll : EthFrame := { fIdent with bytes := setBytes fIdent.bytes 14 [0xFF#8, 0xFF#8] }

/-- An IDENT request stands in the mailbox. -/
def tMail : State := tUp.putMailbox (bIdent 0)

/-- A triplicated word with one copy wrong, and a calibration word so. -/
def tSplit : State :=
  { tUp with tv := [(R.DEV_MODE, { a := 1#32, b := 0x40000000#32, c := 0x40000000#32 })], cal := [(7, { a := 9#32, b := 9#32, c := 8#32 })] }

/-- The LCP may write. -/
def tLcp : State := tUp.setTv R.DEV_MODE 0xFFFFFFFF#32

/-- The memory port stands at a Vat word. -/
def tPort : State := tLcp.setW R.MP_ADDR 0x1234#32

/-- Channel 3's threshold part holds a loan of its spare in a state. -/
def tLoan (st : Nat) : State :=
  ((((tIdle.setPhase 3 6).modFe 3 fun x => { x with slot := true }).setF (spBase (Ch.spareOf 3)) F.SP_STAT_STATE st).setF (spBase (Ch.spareOf 3))
    F.SP_STAT_OWNER 2).setF (spBase (Ch.spareOf 3)) F.SP_STAT_CUR 3

/-! ### Worked examples and layouts of the spec -/

/-- 02_timebase, the example of R43: a 48-bit time just before a wrap of its low bits. -/
theorem test_resolve_across_wrap : resolveTime 48 0x0003000000001000 0xFFFFFFFFF000 = 0x0002FFFFFFFFF000 := by decide

/-- 02_timebase, the example of R45: one second through a map of +2.5 ppm. -/
theorem test_map_conversion :
    ({ anchor := 2 ^ 40, s := 1700000000250000000 * 65536, rate := 180143985095, era := 0 } : DomMap).at (2 ^ 40 + 640000000000) =
      1700000001250002500 * 65536 := by decide +kernel

/-- 04_edge_capture, the example of R79: t16 = 4,096,000,577 reads 256,000,036 tk. -/
theorem test_whole_ticks : wholeTk 4096000577 = 256000036 := by decide

/-- 07_triggers_and_records, the example of R145: a rising edge 800 tk and a falling edge 160 tk after the reference. -/
theorem test_edge_words :
    (edgeWords (some 1000) 1800 true).2 = [0x80000320#32] ∧ (edgeWords (some 1000) 1160 false).2 = [0x000000A0#32] := by decide

/-- 07_triggers_and_records, the same example: a CROWD marker of three dropped edges, the first falling, E = 1. -/
theorem test_crowd_word : markerWord false 2 (2 ^ 25 + 3) = 0x4A000003#32 := by decide

/-- 10_serial_links, the example of R225: word 0 of a RESULT frame. -/
theorem test_frame_word : (frameBytes 4 0x2A5 0x013 true false false 0 0 (List.replicate 32 0#8)).take 8 =
    bytesBE 8 0x142A501380000020 := by decide +kernel

/-- 03_inputs_and_thresholds, the example of R58: code 0x2_1C72 lies within half a step of 0.475 V. -/
theorem test_threshold_code : tdacVolts false 0x21C72 - 19 / 40 < 1 / 582542 ∧ 19 / 40 < tdacVolts false 0x21C72 := by decide +kernel

/-- 00_scope, the example of R2: CH037's block starts at 0x12_5000 and its active view at 0x12_5800. -/
theorem test_channel_block : chBase 37 = 0x125000 ∧ locate 0x125800 = ⟨.active, 37, 0⟩ := by decide

/-- 11_field_network_and_time, the example of R244: READ of 0x2020:00 from node 0x0100. -/
theorem test_uld_request :
    parseUld [0x0A#8, 0x07#8, 0x01#8, 0x00#8, 0x10#8, 0x01#8, 0x00#8, 0x42#8, 0x00#8, 0x08#8, 0x00#8, 0x00#8,
              0x01#8, 0x00#8, 0x20#8, 0x20#8, 0x00#8, 0x00#8, 0x00#8, 0x00#8] =
      some { dst := 0x0A07, src := 0x0100, ackreq := false, tid := 0x0042#16,
             cmds := [{ cmd := 1#8, index := 0x2020#16, sub := 0#8, data := [] }] } := by decide +kernel

/-- R117: an EXP1 on CH012, rising, ACTION 0, profile 3, T_EXP 0x7D_C130. -/
theorem test_exp1_layout :
    mordantMessage [0x00#8, 0x0A#8, 0x11#8, 0x0C#8, 0xDE#8, 0xAD#8, 0xBE#8, 0xEF#8,
                    0x41#8, 0x80#8, 0x00#8, 0x00#8, 0x00#8, 0x7D#8, 0xC1#8, 0x30#8] =
      some (.exp1 12#8 { seq := 0xA11#24, tag := 0xDEADBEEF#32, pol := 1#2, action := 0#3, profile := 3#4, texp := 0x7DC130#48 }) := by
  decide +kernel

/-- R117: a RETRACT from (0x00_0A10, element 4) of generation 5 on CH012. -/
theorem test_retract_layout :
    mordantMessage [0x00#8, 0x0A#8, 0x10#8, 0x0C#8, 0x00#8, 0x04#8, 0x00#8, 0x05#8,
                    0x00#8, 0x10#8, 0x00#8, 0x00#8, 0x00#8, 0x00#8, 0x00#8, 0x00#8] =
      some (.retract 12#8 0xA10#24 4#16 5#4) := by decide +kernel

/-- R231: an array STROBE and MARK 5. -/
theorem test_event_layout :
    eventMessage (bytesBE 8 (2 ^ 60) ++ bytesBE 8 0) = some .strobe ∧
    eventMessage (bytesBE 8 (2 * 2 ^ 60 + 5 * 2 ^ 48 + 0x123456) ++ bytesBE 8 0) = some (.mark 5 0x123456#48) := by decide +kernel

/-- R233: a REG read of two words from 0x10_0000 with all byte enables, and a write of one. -/
theorem test_reg_layout :
    regMessage (bytesBE 8 (2 ^ 60 + 0x123 * 2 ^ 48 + 1 * 2 ^ 42 + 0xF * 2 ^ 38 + 0x100000)) =
      some (.regRead 0x123#12 1#6 0xF#4 0#2 0x100000#24) ∧
    regMessage (bytesBE 8 (2 * 2 ^ 60 + 0xF * 2 ^ 38 + 0x6004) ++ bytesBE 4 0x5A3C) =
      some (.regWrite 0#12 0#6 0xF#4 0#2 0x6004#24 [0x5A3C#32]) := by decide +kernel

/-- The outcome's state, or the state given. -/
def after (o : Host.Outcome State Fault Refusal) (d : State) : State := match o with | .next t => t | _ => d

/-- 13_registers, the example of R305: the last SDO word of the driver's STATUS transaction. -/
theorem test_lcp_status :
    (after (exec .lcpStatus { tUp with lcp := { err := true, code := 2#2, addr := 0x1000#24, sdo := [] } }) tUp).lcp.sdo = [0xE0001000#32] := by
  decide +kernel

/-- The table gives its rows no bits, so a word spells no command and the queue stays as it is. -/
theorem test_rows_give_no_bits : decodeTableWord 32 0 = none ∧ State.withFetchWord State.reset 32 0 = State.reset := ⟨rfl, rfl⟩

/-- A step takes the command at the front of the queue. -/
theorem test_step_takes_the_front :
    (after (step { tUp with pending := [.bypSet, .bypClr] }) tUp).pending = [.bypClr] := by decide +kernel

/-! ### Witnesses that need an argument of their own -/

/-- The pattern link holds one verdict more than there is room for, and no credit. -/
def tStalled : State := tMord.modLink .pattern fun x => { x with tx := List.replicate (Config.txRoom 2 + 1) iMsg }

theorem tStalled_stalls : tStalled.mordantStalls 3 = true := by
  have hv : tStalled.verdictLinks 3 = [.pattern] := by decide +kernel
  have he : tStalled.fb (chBase 3) F.CH_MD_CTL_EN = true := by decide +kernel
  have ht : (tStalled.link .pattern).tx = List.replicate (Config.txRoom 2 + 1) iMsg := rfl
  have hc : (tStalled.link .pattern).txCred.toList.getD FClass.msg.code 0 < frameCredits iMsg.bytes.length := by decide +kernel
  have hf : (List.replicate (Config.txRoom 2 + 1) iMsg).filter (fun i => decide (i.cls = FClass.msg)) =
      iMsg :: List.replicate (Config.txRoom 2) iMsg := by
    rw [List.filter_replicate]; simp [show iMsg.cls = FClass.msg from rfl, List.replicate_succ]
  simp only [State.mordantStalls, hv, List.any_cons, List.any_nil, Bool.or_false, State.classStalls, ht, hf]
  rw [List.length_replicate, show FClass.msg.code = 2 from rfl]
  exact Bool.and_eq_true_iff.mpr ⟨he, Bool.and_eq_true_iff.mpr ⟨decide_eq_true hc, decide_eq_true (Nat.le_succ _)⟩⟩

/-- The witness of the clauses of `MordantBindsSealsAndAges` and `ControlMessagesMeetTheGeneration` about a stalled
channel. -/
theorem witness_stalled : ∃ (s : State) (n : Ch) (ch : BitVec 8) (gen : BitVec 4), ch.toNat = n.val ∧
    gen.toNat = (s.chan n).mord.gen ∧ s.mordantStalls n = true :=
  ⟨tStalled, 3, 3#8, 0#4, by decide, by decide +kernel, tStalled_stalls⟩

/-- The witness of the clause of `ReadersTakeEntriesInOrder` about a stalled channel. -/
theorem witness_stalled_reader : ∃ (s : State) (ch : Ch), s.stalls ch = true ∧ (s.chan ch).gates = [] ∧ (s.chan ch).red.ownQ = [] ∧
    (s.chan ch).red.partQ = [] ∧ (s.chan ch).settle s.now = s.chan ch ∧ s.consumers ch = [] :=
  ⟨tStalled, 3, by simp [State.stalls, tStalled_stalls], by decide +kernel, by decide +kernel, by decide +kernel, by decide +kernel,
    by decide +kernel⟩

/-- The host link holds as many responses as there is room for, and no credit. -/
def tStalledReg : State :=
  tUp.modLink .host fun x => { x with tx := List.replicate (Config.txRoom 1 + 1) { iMsg with cls := .reg }, txCred := Vector.replicate 6 0 }

/-- The witness of the clauses of `RegisterRequestsRunInOrder` about a held REG class. -/
theorem witness_stalled_requests : ∃ s : State, s.classStalls .host .reg = true := by
  refine ⟨tStalledReg, ?_⟩
  have ht : (tStalledReg.link .host).tx = List.replicate (Config.txRoom 1 + 1) { iMsg with cls := .reg } := rfl
  have hc : (tStalledReg.link .host).txCred.toList.getD FClass.reg.code 0 < frameCredits iMsg.bytes.length := by decide +kernel
  have hf : (List.replicate (Config.txRoom 1 + 1) { iMsg with cls := .reg }).filter (fun i => decide (i.cls = FClass.reg)) =
      { iMsg with cls := .reg } :: List.replicate (Config.txRoom 1) { iMsg with cls := .reg } := by
    rw [List.filter_replicate]; simp [List.replicate_succ]
  simp only [State.classStalls, ht, hf]
  rw [List.length_replicate, show FClass.reg.code = 1 from rfl]
  exact Bool.and_eq_true_iff.mpr ⟨decide_eq_true hc, decide_eq_true (Nat.le_succ _)⟩

/-- The hypotheses of `EveryStepKeepsTheStoresCanonical`, met by the step from reset. -/
theorem witness_canonical : ∃ s t : State, s.Canonical ∧ step s = .next t :=
  ⟨State.reset, State.reset.tick, ⟨rfl, rfl, rfl, rfl, rfl, rfl, rfl, rfl, rfl⟩, rfl⟩

/-- The hypothesis of `CommandsLeaveTheQueueAndTheFuses`, met by a command. -/
theorem witness_any_command : ∃ (c : Instr) (s t : State), exec c s = .next t := ⟨.bypSet, State.reset, _, rfl⟩

/-! ### Witnesses of the statements -/

/-- Witnesses of `StartUpRowsTakeEffect`. -/
theorem witness_StartUpRowsTakeEffect :
    (∃ (s : State), s.boot.released = false) ∧
    (∃ (s : State), s.boot.released = true ∧ s.boot.fused = false) ∧
    (∃ (s : State), s.boot.released = true ∧ s.boot.lcp = false) ∧
    (∃ (s : State), s.boot.released = true ∧ s.boot.eth = false) ∧
    (∃ (s : State), s.boot.released = true ∧ s.boot.responder = false ∧ s.od.mailbox = none) :=
  ⟨⟨State.reset, by decide +kernel⟩,
   ⟨tReleased, by decide +kernel⟩,
   ⟨tReleased, by decide +kernel⟩,
   ⟨tReleased, by decide +kernel⟩,
   ⟨tReleased, by decide +kernel⟩⟩

/-- Witnesses of `ResetsRestoreTheirReach`. -/
theorem witness_ResetsRestoreTheirReach :
    (∃ (s : State) (p : Path), s.cfgDone = true ∧ s.Writes p ∧ s.Unlocked p) :=
  ⟨tUp, .indigo, by delta State.Writes State.Unlocked; dsimp only [lockOf]; decide +kernel⟩

/-- Witnesses of `ConfigurationIsChosenAndCommitted`. -/
theorem witness_ConfigurationIsChosenAndCommitted :
    (∃ (s : State), s.boot.lcp = true ∧ s.boot.choice = none) ∧
    (∃ (s : State) (c : CfgChoice), s.cfgDone = false ∧ s.boot.choice = some c) ∧
    (∃ (s : State), s.cfgDone = true ∧ s.boot.calChosen = false) ∧
    (∃ (s : State), s.boot.responder = true ∧ s.imageRuns = false) ∧
    (∃ (s : State), s.ready = false ∧ s.cfgDone = true ∧ s.fb 0 F.TB_STAT_LOCKED = true ∧ s.fb 0 F.CAL_STAT_BOOT_DONE
      = true) :=
  ⟨⟨tUnread, by decide +kernel⟩,
   ⟨(tLoaded .defaults), .defaults, by decide +kernel⟩,
   ⟨tCalFree, by decide +kernel⟩,
   ⟨tBase, by decide +kernel⟩,
   ⟨tAlmost, by decide +kernel⟩⟩

/-- Witnesses of `FlashStoresRunInOrder`. -/
theorem witness_FlashStoresRunInOrder :
    (∃ (s : State) (bytes : List Byte), s.OdServes ∧ (s.stores.any fun x => x.kind == .config) = false ∧ 4 ≤
      bytes.length ∧ cfgLenOk (bytes.drop 4).length = true ∧ (crc32 (bytes.drop 4)).toNat = field bytes 0 4 ∧
      recordsOk (wordsOf (bytes.drop 4)) = true) ∧
    (∃ (s : State) (bytes : List Byte), s.OdServes ∧ (s.stores.any fun x => x.kind == .config) = false ∧ 4 ≤
      bytes.length ∧ cfgLenOk (bytes.drop 4).length = true ∧ (crc32 (bytes.drop 4)).toNat ≠ field bytes 0 4) ∧
    (∃ (s : State) (x : FlashStore), s.stores = [x] ∧ x.kind = .config ∧ s.boot.flashOk = true) ∧
    (∃ (s : State) (x : FlashStore) (rest : List FlashStore), s.stores = x :: rest) :=
  ⟨⟨tUp, tImage, by delta State.OdServes; decide +kernel⟩,
   ⟨tUp, (List.replicate 12 0#8), by delta State.OdServes; decide +kernel⟩,
   ⟨tStoring, tStore, by decide +kernel⟩,
   ⟨tStoring, tStore, [], by decide +kernel⟩⟩

/-- Witnesses of `WearAndRepairAreKept`. -/
theorem witness_WearAndRepairAreKept :
    (∃ (s : State), s.boot.released = true) ∧
    (∃ (tj : Int), goodTj tj = true) ∧
    (∃ (s : State) (macroNo : Nat), s.fb 0 F.DEV_REP_CTL_AUTO_ROW = true ∧ s.repairing = none ∧ sparseGet (fun _ => 0)
      s.rowsUsed macroNo < 8) ∧
    (∃ (s : State), s.fb 0 F.DEV_REP_CTL_AUTO_ROW = false) ∧
    (∃ (s : State) (m : Nat) (r : Nat), s.repairing = some (m, r)) ∧
    (∃ (s : State) (p : Spare) (at_ : Nat), (s.spare p).retryAt = some at_ ∧ s.spareBad p = false ∧ s.spState p = 0 ∧
      s.fuses.grade.getLsbD p.val = true) :=
  ⟨⟨tReleased, by decide +kernel⟩,
   ⟨9500, by decide +kernel⟩,
   ⟨tAutoRow, 9, by decide +kernel⟩,
   ⟨(tUp.setF 0 F.DEV_REP_CTL_AUTO_ROW 0), by decide +kernel⟩,
   ⟨({ tUp with repairing := some (9, 17) }), 9, 17, by decide +kernel⟩,
   ⟨tRetry, 2, 2000000, by decide +kernel⟩⟩

/-- Witnesses of `SourcesQualifyAndFirstLock`. -/
theorem witness_SourcesQualifyAndFirstLock :
    (∃ (s : State), s.tbActive ≠ actRefin) ∧
    (∃ (s : State), s.tbActive = actRefin) ∧
    (∃ (s : State), s.clk.running = false ∧ s.refQual = false ∧ s.boot.released = true) ∧
    (∃ (s : State), s.clk.running = false ∧ s.boot.released = true ∧ ((s.refQual = true ∧ F.TB_SRC_XTAL_ONLY.of (s.tvW
      R.TB_SRC) = 0) ∨ ((s.tb.timedOut = true ∨ F.TB_SRC_XTAL_ONLY.of (s.tvW R.TB_SRC) = 1) ∧ s.xtalOk = true))) ∧
    (∃ (s : State), s.clk.running = false ∧ s.refQual = false ∧ s.xtalOk = false ∧ s.boot.released = true) ∧
    (∃ (s : State), s.boot.lcp = true) :=
  ⟨⟨tCrystal, by decide +kernel⟩,
   ⟨tUp, by decide +kernel⟩,
   ⟨tReleased, by decide +kernel⟩,
   ⟨(tReleased.setF 0 F.TB_STAT_REF_QUAL 1), by decide +kernel⟩,
   ⟨tReleased, by decide +kernel⟩,
   ⟨tBase, by decide +kernel⟩⟩

/-- Witnesses of `SourceChangesAreMarked`. -/
theorem witness_SourceChangesAreMarked :
    (∃ (s : State), s.tbActive = actRefin) ∧
    (∃ (s : State), s.tbActive ≠ actRefin) ∧
    (∃ (s : State) (at_ : Nat), s.tb.lostAt = some at_ ∧ s.tbActive = actHoldover ∧ s.xtalOk = true) ∧
    (∃ (s : State), s.tbActive = actCrystal ∧ s.returnOpen = true ∧ F.TB_SRC_REVERT.of (s.tvW R.TB_SRC) = 1 ∧
      F.TB_SRC_XTAL_ONLY.of (s.tvW R.TB_SRC) = 0) ∧
    (∃ (s : State) (src : TbSource), s.tbActive = actHoldover ∧ (src = TbSource.refin → s.refQual = true ∧
      F.TB_SRC_XTAL_ONLY.of (s.tvW R.TB_SRC) = 0) ∧ (src = TbSource.crystal → s.xtalOk = true)) ∧
    (∃ (s : State) (p : Path), s.Serves ∧ s.Writes p ∧ s.Unlocked p) :=
  ⟨⟨tUp, by decide +kernel⟩,
   ⟨tCrystal, by decide +kernel⟩,
   ⟨({ tUp.setF 0 F.TB_STAT_ACTIVE 3 with tb := { TbEng.reset with lostAt := some 1024000 } }), 1024000, by decide +kernel⟩,
   ⟨(tCrystal.setTv R.TB_SRC (F.TB_SRC_REVERT.into 0#32 1)), by decide +kernel⟩,
   ⟨(tUp.setF 0 F.TB_STAT_ACTIVE 3), .refin, by decide +kernel⟩,
   ⟨tUp, .indigo, by delta State.Serves State.Writes State.Unlocked; dsimp only [lockOf]; decide +kernel⟩⟩

/-- Witnesses of `DriftBaselineAndSnapshots`. -/
theorem witness_DriftBaselineAndSnapshots :
    (∃ (s : State), s.tbActive = actRefin ∧ s.xtalOk = true) ∧
    (∃ (s : State) (at_ : Nat), s.tb.baseDue = some at_ ∧ s.tbActive = actRefin ∧ s.xtalOk = true) ∧
    (∃ (s : State), s.Serves) ∧
    (∃ (s : State), s.clk.running = true) ∧
    (∃ (s : State), s.Serves) :=
  ⟨⟨tUp, by decide +kernel⟩,
   ⟨({ tUp with tb := { TbEng.reset with baseDue := some 2000000 } }), 2000000, by decide +kernel⟩,
   ⟨tUp, by delta State.Serves; decide +kernel⟩,
   ⟨tUp, by decide +kernel⟩,
   ⟨({ tUp with maps := Vector.ofFn fun d => if d.val = 2 then some { anchor := 1000, s := 65536000000000, rate := 0, era := 3#16 } else none }), by delta State.Serves; decide +kernel⟩⟩

/-- Witnesses of `PaceAndSupplyGovernor`. -/
theorem witness_PaceAndSupplyGovernor :
    (∃ (counts : List (List Nat)), (Instr.paceUpdate counts).wf = true) ∧
    (∃ (s : State), s.Serves) ∧
    (∃ (s : State), s.Serves) ∧
    (∃ (s : State), s.fb 0 F.TB_AVS_CTL_EN = true ∧ s.fb 0 F.TB_AVS_CTL_HOLD = false ∧ s.ready = true ∧
      s.tb.avsSuspended = false) ∧
    (∃ (s : State), s.fb 0 F.TB_AVS_STAT_ACT = true) :=
  ⟨⟨(List.replicate 12 (List.replicate 16 512)), by decide +kernel⟩,
   ⟨((tUp.setF 0 F.TB_PACE_PACE 700).setF 0 F.TB_PACE_MAX_MAX 900), by delta State.Serves; decide +kernel⟩,
   ⟨tUp, by delta State.Serves; decide +kernel⟩,
   ⟨(tAvs true), by decide +kernel⟩,
   ⟨((tAvs false).setF 0 F.TB_AVS_STAT_ACT 1), by decide +kernel⟩⟩

/-- Witnesses of `ThresholdCodesApply`. -/
theorem witness_ThresholdCodesApply :
    (∃ (s : State) (n : Ch) (at_ : Nat) (rest : List Nat), (s.chan n).strobes = at_ :: rest ∧ s.ready = true ∧
      s.fusedOff n = false) ∧
    (∃ (s : State) (n : Ch) (at_ : Nat) (rest : List Nat), (s.chan n).strobes = at_ :: rest ∧ (s.ready = false ∨
      s.fusedOff n = true)) ∧
    (∃ (s : State) (n : Ch), s.Serves ∧ s.fb (chBase n) F.CH_HG_STAT_SVC_OWN = false) ∧
    (∃ (s : State) (n : Ch) (at_ : Nat), (s.chan n).parkEnd = some at_) ∧
    (∃ (s : State), s.Serves) ∧
    (∃ (s : State) (n : Ch), s.Serves ∧ s.fb (chBase n) F.CH_HG_STAT_SVC_OWN = false) :=
  ⟨⟨({ tChan.setF (chBase 3) F.CH_TDAC_CODE 777 with chans := tChan.chans.set 3 { tChan.chan 3 with strobes := [1100000] } }), 3, 1100000, [], by decide +kernel⟩,
   ⟨({ tBase with chans := tBase.chans.set 3 { tBase.chan 3 with strobes := [1100000] } }), 3, 1100000, [], by decide +kernel⟩,
   ⟨tChan, 3, by delta State.Serves; decide +kernel⟩,
   ⟨({ tParked with chans := tParked.chans.set 3 { tParked.chan 3 with parkEnd := some 2000000 } }), 3, 2000000, by decide +kernel⟩,
   ⟨tChan, by delta State.Serves; decide +kernel⟩,
   ⟨({ tChan with chans := tChan.chans.set 3 { tChan.chan 3 with decCount := 9 } }), 3, by delta State.Serves; decide +kernel⟩⟩

/-- Witnesses of `StrobesAndPacersApply`. -/
theorem witness_StrobesAndPacersApply :
    (∃ (s : State) (ns : Nat), s.fb 0 F.DEV_TDAC_ARR_EN_LOAD = true ∧ 5 ≤ ns) ∧
    (∃ (s : State) (ns : Nat), (s.fb 0 F.DEV_TDAC_ARR_EN_LOAD = false ∨ ns < 5)) ∧
    (∃ (s : State), s.Serves ∧ s.lastStrobe ≠ some s.strobeAt) ∧
    (∃ (s : State), s.Serves ∧ s.lastStrobe = some s.strobeAt) ∧
    (∃ (s : State), s.fb 0 F.DEV_TDAC_ARR_EN_MSG = true ∧ s.lastStrobe ≠ some s.clockAfter) ∧
    (∃ (s : State), (s.fb 0 F.DEV_TDAC_ARR_EN_MSG = false ∨ s.lastStrobe = some s.clockAfter)) ∧
    (∃ (s : State), s.Serves) ∧
    (∃ (s : State), s.Serves) ∧
    (∃ (s : State) (k : Fin 8) (at_ : Nat), s.pacers[k] = some at_) :=
  ⟨⟨tArray, 5, by decide +kernel⟩,
   ⟨tArray, 4, by decide +kernel⟩,
   ⟨tArray, by delta State.Serves; decide +kernel⟩,
   ⟨({ tArray with lastStrobe := some 1028096 }), by delta State.Serves; decide +kernel⟩,
   ⟨tArray, by decide +kernel⟩,
   ⟨tUp, by decide +kernel⟩,
   ⟨(tArray.setF 0 F.DEV_TDAC_ARR_IGN 44), by delta State.Serves; decide +kernel⟩,
   ⟨tUp, by delta State.Serves; decide +kernel⟩,
   ⟨({ tChan.setF (chBase 3) F.CH_TDAC_MODE 1 with pacers := Vector.replicate 8 (some 2000000), chans := tChan.chans.set 3 { tChan.chan 3 with tdacQ := [(1024000, 5#18), (1999000, 6#18)] } }), 0, 2000000, by decide +kernel⟩⟩

/-- Witnesses of `SpareHandoversFollowTheirRows`. -/
theorem witness_SpareHandoversFollowTheirRows :
    (∃ (s : State) (p : Path), s.Serves ∧ s.Writes p ∧ s.Unlocked p) ∧
    (∃ (s : State) (sp : Spare), (s.spare sp).stage = 1) ∧
    (∃ (s : State) (sp : Spare), (s.spare sp).stage = 2) ∧
    (∃ (s : State) (sp : Spare), (s.spare sp).stage = 3) ∧
    (∃ (s : State) (sp : Spare), (s.spare sp).stage = 4 ∧ s.spState sp = 1 ∧ s.gapNow (s.spCh sp) = true) ∧
    (∃ (s : State) (sp : Spare), (s.spare sp).stage = 4 ∧ s.spState sp = 3 ∧ (s.spare sp).next = none ∧ s.gapNow
      (s.spCh sp) = true) ∧
    (∃ (s : State) (sp : Spare) (src : Fin 16), (s.spare sp).stage = 4 ∧ s.spState sp = 3 ∧ (s.spare sp).next = some
      src ∧ s.gapNow (s.spCh sp) = true) ∧
    (∃ (s : State) (sp : Spare), (s.spare sp).stage = 4 ∧ (s.spState sp = 1 ∨ s.spState sp = 3) ∧ s.gapNow (s.spCh sp)
      = false) ∧
    (∃ (s : State) (sp : Spare), (s.spare sp).stage = 4 ∧ s.spState sp = 1 ∧ (s.chan (s.spCh sp)).blind = none) ∧
    (∃ (s : State) (sp : Spare), (s.spare sp).stage = 4 ∧ s.spState sp = 3 ∧ (s.spare sp).next = none ∧ (s.chan
      (s.spCh sp)).blind = none) ∧
    (∃ (s : State) (sp : Spare), (s.spare sp).stage = 4 ∧ (s.spState sp = 1 ∨ s.spState sp = 3) ∧ (s.chan (s.spCh
      sp)).blind.isSome = true) :=
  ⟨⟨(tHand 0 2 1), .indigo, by delta State.Serves State.Writes State.Unlocked; dsimp only [lockOf]; decide +kernel⟩,
   ⟨(tHand 1 1 1), 2, by decide +kernel⟩,
   ⟨(tHand 2 1 1), 2, by decide +kernel⟩,
   ⟨(tHand 3 1 1), 2, by decide +kernel⟩,
   ⟨(tHand 4 1 1), 2, by decide +kernel⟩,
   ⟨(tHand 4 3 1), 2, by decide +kernel⟩,
   ⟨((tHand 4 3 2).setSpare 2 { SpareSt.reset with stage := 4, next := some 9 }), 2, 9, by decide +kernel⟩,
   ⟨((tHand 4 1 1).modChan 35 fun c => { c with lastAcc := some (1023900, { side := .a, spare := false, rising := true }, true) }), 2, by decide +kernel⟩,
   ⟨(tHand 4 1 1), 2, by decide +kernel⟩,
   ⟨(tHand 4 3 1), 2, by decide +kernel⟩,
   ⟨((tHand 4 1 1).modChan 35 fun c => { c with blind := some { start := { raw := 1000000, edge := none }, causes := Causes.none, count := 2, endBy := 1024100, ovfWait := false, testWait := false } }), 2, by decide +kernel⟩⟩

/-- Witnesses of `PinTestAndMonitor`. -/
theorem witness_PinTestAndMonitor :
    (∃ (s : State) (n : Ch), s.Serves ∧ (s.chan n).testing = none) ∧
    (∃ (s : State) (n : Ch), s.Serves ∧ (s.chan n).testing.isSome = true) ∧
    (∃ (s : State) (n : Ch) (at_ : Nat), (s.chan n).testing = some at_) ∧
    (∃ (s : State), s.Serves) :=
  ⟨⟨tChan, 3, by delta State.Serves; decide +kernel⟩,
   ⟨({ tChan with chans := tChan.chans.set 3 { tChan.chan 3 with testing := some 1000000 } }), 3, by delta State.Serves; decide +kernel⟩,
   ⟨({ tChan with chans := tChan.chans.set 3 { tChan.chan 3 with testing := some 1000000 } }), 3, 1000000, by decide +kernel⟩,
   ⟨tUp, by delta State.Serves; decide +kernel⟩⟩

/-- Witnesses of `QualifierWritesOrDropsEachEdge`. -/
theorem witness_QualifierWritesOrDropsEachEdge :
    (∃ (s : State) (ch : Ch), (s.live ch = false ∨ s.clk.running = false ∨ s.offPin ch = true)) ∧
    (∃ (s : State) (ch : Ch) (taps : BitVec 256) (b : BlindSt), s.live ch = true ∧ s.clk.running = true ∧ s.offPin ch
      = false ∧ s.blindAt ch (s.now + tapIndex taps) = some b) ∧
    (∃ (s : State) (ch : Ch) (taps : BitVec 256) (r0 : Nat) (cap0 : Cap) (own : Bool), s.live ch = true ∧
      s.clk.running = true ∧ s.offPin ch = false ∧ s.blindAt ch (s.now + tapIndex taps) = none ∧ (s.chan ch).lastAcc =
      some (r0, cap0, own) ∧ s.now + tapIndex taps < r0 + 160) ∧
    (∃ (s : State) (ch : Ch) (rising : Bool) (taps : BitVec 256), s.live ch = true ∧ s.clk.running = true ∧ s.offPin
      ch = false ∧ s.blindAt ch (s.now + tapIndex taps) = none ∧ (s.chan ch).windowOpen (s.now + tapIndex taps) =
      false ∧ decPasses (s.act ch F.CH_DEC_POL) (rising != s.actB ch F.CH_CFG_INV) = false) ∧
    (∃ (s : State) (ch : Ch) (rising : Bool) (taps : BitVec 256), s.live ch = true ∧ s.clk.running = true ∧ s.offPin
      ch = false ∧ s.blindAt ch (s.now + tapIndex taps) = none ∧ (s.chan ch).windowOpen (s.now + tapIndex taps) =
      false ∧ decPasses (s.act ch F.CH_DEC_POL) (rising != s.actB ch F.CH_CFG_INV) = true ∧ (s.chan ch).decCount <
      s.act ch F.CH_DEC_DM1) ∧
    (∃ (s : State) (ch : Ch) (rising : Bool) (taps : BitVec 256), s.live ch = true ∧ s.clk.running = true ∧ s.offPin
      ch = false ∧ s.blindAt ch (s.now + tapIndex taps) = none ∧ (s.chan ch).windowOpen (s.now + tapIndex taps) =
      false ∧ decPasses (s.act ch F.CH_DEC_POL) (rising != s.actB ch F.CH_CFG_INV) = true ∧ s.act ch F.CH_DEC_DM1 ≤
      (s.chan ch).decCount ∧ ((s.chan ch).settle (s.now + tapIndex taps)).held = [] ∧ ((s.chan ch).settle (s.now +
      tapIndex taps)).fifo.length < 256) ∧
    (∃ (s : State) (ch : Ch) (rising : Bool) (taps : BitVec 256), s.live ch = true ∧ s.clk.running = true ∧ s.offPin
      ch = false ∧ s.blindAt ch (s.now + tapIndex taps) = none ∧ (s.chan ch).windowOpen (s.now + tapIndex taps) =
      false ∧ decPasses (s.act ch F.CH_DEC_POL) (rising != s.actB ch F.CH_CFG_INV) = true ∧ s.act ch F.CH_DEC_DM1 ≤
      (s.chan ch).decCount ∧ (((s.chan ch).settle (s.now + tapIndex taps)).held ≠ [] ∨ 256 ≤ ((s.chan ch).settle
      (s.now + tapIndex taps)).fifo.length)) ∧
    (∃ (s : State) (ch : Ch), s.Serves ∧ s.fb (chBase ch) F.CH_HG_STAT_SVC_OWN = false) ∧
    (∃ (s : State) (ch : Ch), s.Serves ∧ s.fb (chBase ch) F.CH_HG_STAT_SVC_OWN = true) :=
  ⟨⟨tParked, 3, by decide +kernel⟩,
   ⟨tBlind, 3, 7#256, ({ start := { raw := 1000000, edge := none }, causes := Causes.none, count := 2, endBy := 1024100, ovfWait := false, testWait := false }), by decide +kernel⟩,
   ⟨({ tChan with chans := tChan.chans.set 3 { tChan.chan 3 with lastAcc := some (1024000, { side := .a, spare := false, rising := true }, true) } }), 3, 7#256, 1024000, ({ side := .a, spare := false, rising := true }), true, by decide +kernel⟩,
   ⟨(tChan.setF (chBase 3 + 0x800) F.CH_DEC_POL 2), 3, true, 7#256, by decide +kernel⟩,
   ⟨(tChan.setF (chBase 3 + 0x800) F.CH_DEC_DM1 1), 3, true, 7#256, by decide +kernel⟩,
   ⟨tChan, 3, true, 7#256, by decide +kernel⟩,
   ⟨(tChan.modChan 3 (fun c => { c with fifo := List.replicate 256 .abs })), 3, true, 7#256, by decide +kernel⟩,
   ⟨tGate, 3, by delta State.Serves; decide +kernel⟩,
   ⟨tOwned, 3, by delta State.Serves; decide +kernel⟩⟩

/-- Witnesses of `DeferredMarkersKeepTheirOrder`. -/
theorem witness_DeferredMarkersKeepTheirOrder :
    (∃ (s : State) (ch : Ch) (b : BlindSt), (s.chan ch).blind = some b ∧ b.ovfWait = true ∧ (s.chan ch).fifo.length ≤
      64 ∧ s.MayEndBlind ch b) ∧
    (∃ (s : State) (ch : Ch) (b : BlindSt), (s.chan ch).blind = some b ∧ b.ovfWait = true ∧ (s.chan ch).fifo.length ≤
      64 ∧ ¬ s.MayEndBlind ch b) ∧
    (∃ (s : State) (ch : Ch), (64 < (s.chan ch).fifo.length ∨ (s.chan ch).blind.all (fun (b : BlindSt) => !b.ovfWait)
      = true)) ∧
    (∃ (s : State) (ch : Ch) (b : BlindSt), (s.chan ch).blind = some b ∧ b.ovfWait = false ∧ (s.setChan ch (s.chan
      ch).flushHeld).MayEndBlind ch b) ∧
    (∃ (s : State) (ch : Ch), (∀ b ∈ (s.chan ch).blind, b.ovfWait = true ∨ ¬ (s.setChan ch (s.chan
      ch).flushHeld).MayEndBlind ch b)) ∧
    (∃ (s : State) (ch : Ch) (b : BlindSt), (s.chan ch).blind = some b ∧ b.ovfWait = false ∧ (s.reach
      b.endBy).MayEndBlind ch b) ∧
    (∃ (s : State) (ch : Ch) (b : BlindSt), (s.chan ch).blind = some b ∧ (b.ovfWait = true ∨ ¬ (s.reach
      b.endBy).MayEndBlind ch b)) ∧
    (∃ (s : State) (ch : Ch), (s.chan ch).blind = none) :=
  ⟨⟨(tBlindOvf 64), 3, ({ start := { raw := 1000000, edge := none }, causes := { Causes.none with ovf := true }, count := 2, endBy := 0, ovfWait := true, testWait := false }), by delta State.MayEndBlind; decide +kernel⟩,
   ⟨((tBlindOvf 64).modChan 3 (fun c => { c with blind := c.blind.map fun b => { b with testWait := true } })), 3, ({ start := { raw := 1000000, edge := none }, causes := { Causes.none with ovf := true }, count := 2, endBy := 0, ovfWait := true, testWait := true }), by delta State.MayEndBlind; decide +kernel⟩,
   ⟨(tBlindOvf 65), 3, by decide +kernel⟩,
   ⟨({ tBlind with chans := tBlind.chans.set 3 { tBlind.chan 3 with held := [.abs], blind := (tBlind.chan 3).blind.map fun b => { b with endBy := 1 } } }), 3, ({ start := { raw := 1000000, edge := none }, causes := Causes.none, count := 2, endBy := 1, ovfWait := false, testWait := false }), by delta State.MayEndBlind; decide +kernel⟩,
   ⟨tBlind, 3, by delta State.MayEndBlind; decide +kernel⟩,
   ⟨tBlind, 3, ({ start := { raw := 1000000, edge := none }, causes := Causes.none, count := 2, endBy := 1024100, ovfWait := false, testWait := false }), by delta State.MayEndBlind; decide +kernel⟩,
   ⟨(tBlindOvf 3), 3, ({ start := { raw := 1000000, edge := none }, causes := { Causes.none with ovf := true }, count := 2, endBy := 0, ovfWait := true, testWait := false }), by delta State.MayEndBlind; decide +kernel⟩,
   ⟨tChan, 3, by decide +kernel⟩⟩

/-- Witnesses of `ReadersTakeEntriesInOrder`. -/
theorem witness_ReadersTakeEntriesInOrder :
    (∃ (s : State) (ch : Ch) (raw : Nat) (cap : Cap), (s.chan ch).fifo = [.edge raw cap] ∧ (s.chan ch).vwait = [] ∧
      (s.chan ch).gates = [] ∧ (s.chan ch).red.ownQ = [] ∧ (s.chan ch).red.partQ = [] ∧ (s.chan ch).settle s.now =
      s.chan ch ∧ s.consumers ch = [] ∧ s.captured ch = false ∧ s.stalls ch = false ∧ (∀ u : Unit16, s.srcEn u 14 =
      false)) ∧
    (∃ (s : State) (ch : Ch) (r1 : Nat) (r2 : Nat) (c1 : Cap) (c2 : Cap) (rest : List FEntry), (s.chan ch).fifo =
      .edge r1 c1 :: .edge r2 c2 :: rest ∧ (s.chan ch).vwait = [] ∧ (s.chan ch).gates = [] ∧ (s.chan ch).red.ownQ = []
      ∧ (s.chan ch).red.partQ = [] ∧ (s.chan ch).settle s.now = s.chan ch ∧ s.consumers ch = [] ∧ s.captured ch =
      false ∧ s.stalls ch = false ∧ (∀ u : Unit16, s.srcEn u 14 = false)) ∧
    (∃ (s : State) (ch : Ch) (e1 : FEntry) (e2 : FEntry) (rest : List FEntry), (s.chan ch).fifo = e1 :: e2 :: rest ∧
      (s.chan ch).vwait = [] ∧ (s.chan ch).gates = [] ∧ (s.chan ch).red.ownQ = [] ∧ (s.chan ch).red.partQ = [] ∧
      (s.chan ch).settle s.now = s.chan ch ∧ s.consumers ch = [] ∧ s.stalls ch = false ∧ (s.chan ch).balance <
      s.vatCost ch e1 ∧ e1.isWatermark = false ∧ e2.isWatermark = false) ∧
    (∃ (s : State) (ch : Ch) (e : FEntry) (rest : List FEntry), (s.chan ch).vwait = e :: rest ∧ 2 ≤ (s.chan ch).taken
      ∧ (s.chan ch).balance < s.vatCost ch e ∧ (s.chan ch).gates = [] ∧ (s.chan ch).red.ownQ = [] ∧ (s.chan
      ch).red.partQ = [] ∧ (s.chan ch).settle s.now = s.chan ch ∧ s.consumers ch = []) ∧
    (∃ (s : State) (ch : Ch), s.vatWaits ch = false) ∧
    (∃ (s : State) (ch : Ch), s.vatWaits ch = true ∧ (s.chan ch).vwait = []) ∧
    (∃ (s : State) (ch : Ch) (n : Nat) (e : FEntry) (rest : List FEntry), s.vatWaits ch = true ∧ (s.chan ch).vwait = e
      :: rest ∧ (s.stalls ch = true ∨ min 8 ((s.chan ch).balance + n) < s.vatCost ch e ∨ (s.vatCost ch e ≠ 0 ∧
      s.blockFull ch = true))) ∧
    (∃ (s : State) (ch : Ch) (n : Nat) (raw : Nat) (cap : Cap) (i : VItem) (p : Fin 32) (b : Block), (s.chan ch).vwait
      = [.edge raw cap] ∧ s.vatItems ch (.edge raw cap) = [i] ∧ i.words.length ≤ min 8 ((s.chan ch).balance + n) ∧
      s.stalls ch = false ∧ (∀ u : Unit16, (s.tu u).rings = [] ∧ s.srcEn u 14 = false) ∧ s.streamOf ch = some p ∧
      s.blockFull ch = false ∧ (s.chan ch).gates = [] ∧ (s.chan ch).red.ownQ = [] ∧ (s.chan ch).red.partQ = [] ∧
      s.consumers ch = [] ∧ (s.blocks[p]).find? (fun (x : Block) => x.ch = ch) = some b ∧ itemWords b.items +
      i.words.length < 4096 ∧ b.items ≠ []) ∧
    (∃ (s : State) (ch : Ch), (s.chan ch).fifo = [] ∧ (s.chan ch).blind = none ∧ s.clk.running = true ∧ (s.chan
      ch).vwait = []) ∧
    (∃ (s : State) (ch : Ch), (s.chan ch).fifo = [] ∧ (s.chan ch).blind = none ∧ s.clk.running = true ∧ (s.chan
      ch).vwait ≠ []) ∧
    (∃ (s : State) (ch : Ch), ((s.chan ch).fifo ≠ [] ∨ (s.chan ch).blind ≠ none ∨ s.clk.running = false)) :=
  ⟨⟨({ tChan with chans := tChan.chans.set 3 { tChan.chan 3 with fifo := [.edge 1024007 { side := .a, spare := false, rising := true }] } }), 3, 1024007, ({ side := .a, spare := false, rising := true }), by decide +kernel⟩,
   ⟨({ tChan.setF (chBase 3) F.CH_MD_CTL_EN 1 with chans := tChan.chans.set 3 { tChan.chan 3 with fifo := [.edge 1024007 { side := .b, spare := true, rising := false }, .edge 1024307 { side := .b, spare := true, rising := true }, .abs] } }), 3, 1024007, 1024307, ({ side := .b, spare := true, rising := false }), ({ side := .b, spare := true, rising := true }), [.abs], by decide +kernel⟩,
   ⟨(tStreaming.modChan 3 (fun c => { c with vwait := [], fifo := [.edge 1024000 { side := .a, spare := false, rising := true }, .abs, .abs] })), 3, (.edge 1024000 { side := .a, spare := false, rising := true }), .abs, [.abs], by decide +kernel⟩,
   ⟨(tStreaming.modChan 3 (fun c => { c with vwait := c.vwait ++ [.abs], fifo := [.abs] })), 3, (.edge 1024000 { side := .a, spare := false, rising := true }), [.abs], by decide +kernel⟩,
   ⟨tChan, 3, by decide +kernel⟩,
   ⟨(tStreaming.modChan 3 (fun c => { c with vwait := [], fifo := [.abs] })), 3, by decide +kernel⟩,
   ⟨tStreaming, 3, 1, (.edge 1024000 { side := .a, spare := false, rising := true }), [], by decide +kernel⟩,
   ⟨(tStreaming.modChan 3 (fun c => { c with vref := some 1023900 })), 3, 2, 1024000, ({ side := .a, spare := false, rising := true }), ({ words := [0x80000065#32], time := 1024001, refBefore := 0, kind := .edge 16384008 true }), 0, ({ ch := 3, items := [{ words := [9#32], time := 1023000, refBefore := 0, kind := .abs }], startAt := 1023000, spare := false, refchg := false, seq := 5#32, out := 0 }), by decide +kernel⟩,
   ⟨(tChan.setF (chBase 3) F.CH_MD_CTL_EN 1), 3, by decide +kernel⟩,
   ⟨tWaiting, 3, by decide +kernel⟩,
   ⟨tBlind, 3, by decide +kernel⟩⟩

/-- Witnesses of `GatesOpenAndCloseAtTheirInstants`. -/
theorem witness_GatesOpenAndCloseAtTheirInstants :
    (∃ (s : State) (ch : Ch) (g : GateRec), (s.chan ch).openGate? = some g) ∧
    (∃ (s : State) (ch : Ch) (g : GateRec), (s.chan ch).openGate? = some g ∧ (s.chan ch).dirty = []) ∧
    (∃ (s : State) (ch : Ch), (s.chan ch).openGate? = none) ∧
    (∃ (s : State) (ch : Ch), s.Serves ∧ s.gatesRun ch = true ∧ (s.chan ch).openGate? = none ∧ s.act ch
      F.CH_FUNC_GMODE % 3 ≠ 0) ∧
    (∃ (s : State) (ch : Ch), s.Serves ∧ (s.gatesRun ch = false ∨ (s.chan ch).openGate?.isSome = true ∨ s.act ch
      F.CH_FUNC_GMODE % 3 = 0)) ∧
    (∃ (s : State) (ch : Ch) (g : GateRec), s.Serves ∧ (s.chan ch).openGate? = some g ∧ g.cfg.gmode = 2) ∧
    (∃ (s : State) (ch : Ch), s.Serves ∧ (s.chan ch).openGate?.all (fun (g : GateRec) => g.cfg.gmode != 2) = true) ∧
    (∃ (s : State) (ch : Ch) (g : GateRec), s.Serves ∧ (s.chan ch).openGate? = some g ∧ (g.cfg.gmode = 2 ∨ s.mclkNext
      < g.closeAt.getD (s.mclkNext + 1)) ∧ (g.cfg.gmode % 3 ≠ 0 ∨ s.closedItself ch s.mclkNext = false) ∧ (∀ l ∈
      (s.chan ch).late, l.2.1 ≤ s.mclkNext)) ∧
    (∃ (s : State) (ch : Ch) (g : GateRec), s.Serves ∧ (s.chan ch).openGate? = some g ∧ g.cfg.gmode ≠ 2 ∧
      g.closeAt.getD (s.mclkNext + 1) ≤ s.mclkNext) ∧
    (∃ (s : State) (ch : Ch) (g : GateRec), s.Serves ∧ (s.chan ch).openGate? = some g ∧ g.cfg.gmode % 3 = 0 ∧
      s.mclkNext < g.closeAt.getD (s.mclkNext + 1) ∧ s.closedItself ch s.mclkNext = true) ∧
    (∃ (s : State) (ch : Ch), s.Serves ∧ (s.chan ch).openGate? = none ∧ (∀ l ∈ (s.chan ch).late, l.2.1 ≤ s.mclkNext)) :=
  ⟨⟨tGate, 3, ((tGate.chan 3).openGate?.getD gDefault), by decide +kernel⟩,
   ⟨tGate, 3, ((tGate.chan 3).openGate?.getD gDefault), by decide +kernel⟩,
   ⟨tChan, 3, by decide +kernel⟩,
   ⟨tSingle, 3, by delta State.Serves; decide +kernel⟩,
   ⟨tGate, 3, by delta State.Serves; decide +kernel⟩,
   ⟨tExternal, 3, ((tExternal.chan 3).openGate?.getD gDefault), by delta State.Serves; decide +kernel⟩,
   ⟨tGate, 3, by delta State.Serves; decide +kernel⟩,
   ⟨tDirty, 3, ((tDirty.chan 3).openGate?.getD gDefault), by delta State.Serves; decide +kernel⟩,
   ⟨(tGate.modChan 3 (fun c => { c with gates := c.gates.map fun g => { g with closeAt := some 1024512 } })), 3, (((tGate.modChan 3 (fun c => { c with gates := c.gates.map fun g => { g with closeAt := some 1024512 } })).chan 3).openGate?.getD gDefault), by delta State.Serves; decide +kernel⟩,
   ⟨(tGate.modChan 3 (fun c => { c with ownClose := some 1024000 })), 3, (((tGate.modChan 3 (fun c => { c with ownClose := some 1024000 })).chan 3).openGate?.getD gDefault), by delta State.Serves; decide +kernel⟩,
   ⟨((tSingle.setF (chBase 3) F.CH_TITO_L_T 77).modChan 3 (fun c => { c with dirty := [R.CH_TITO_L] })), 3, by delta State.Serves; decide +kernel⟩⟩

/-- Witnesses of `FunctionCommandsTouchOnlyTheReducer`. -/
theorem witness_FunctionCommandsTouchOnlyTheReducer :
    (∃ (s : State), s.Serves) ∧
    (∃ (s : State), s.Serves) ∧
    (∃ (s : State), s.Serves) ∧
    (∃ (s : State) (ch : Ch) (g : GateRec) (rest : List GateRec) (p : Int × Bool), (s.chan ch).gates = g :: rest ∧
      (s.chan ch).red.carry.pend.toList ++ (s.chan ch).red.carry.npend = [p] ∧ ((s.chan ch).red.carry.pend = none →
      (s.chan ch).red.carry.stops.find? (fun (x : Int × Bool) => decide (x.1 < p.1) && decide (p.1 - x.1 ≤ Int.ofNat
      g.cfg.tito * 16) && stopFits g p x) = none) ∧ (if g.cfg.usesPartner ch then (s.chan ch).red.partQ else (s.chan
      ch).red.ownQ) = [] ∧ g.holds (p.1 + 16 * Int.ofNat g.cfg.tito + 1) = false ∧ passed ((s.reach (((p.1 + 16 *
      Int.ofNat g.cfg.tito) / 16).toNat + 4096)).frontOf (if g.cfg.usesPartner ch then chOf g.cfg.pch else ch)) (p.1 +
      16 * Int.ofNat g.cfg.tito) = true) ∧
    (∃ (s : State) (ch : Ch) (g : GateRec) (rest : List GateRec) (p : Int × Bool) (l : Int × Bool), (s.chan ch).gates
      = g :: rest ∧ (s.chan ch).red.carry.pend = none ∧ (s.chan ch).red.carry.npend = [p] ∧ (s.chan
      ch).red.carry.stops.find? (fun (x : Int × Bool) => decide (x.1 < p.1) && decide (p.1 - x.1 ≤ Int.ofNat
      g.cfg.tito * 16) && stopFits g p x) = some l ∧ (if g.cfg.usesPartner ch then (s.chan ch).red.partQ else (s.chan
      ch).red.ownQ) = [] ∧ g.holds (p.1 + 16 * Int.ofNat g.cfg.tito + 1) = false ∧ passed ((s.reach (((p.1 + 16 *
      Int.ofNat g.cfg.tito) / 16).toNat + 4096)).frontOf (if g.cfg.usesPartner ch then chOf g.cfg.pch else ch)) (p.1 +
      16 * Int.ofNat g.cfg.tito) = true ∧ (∀ u : Unit16, s.srcEn u 13 = false)) ∧
    (∃ (s : State) (ch : Ch), ((s.chan ch).gates = [] ∨ (s.chan ch).red.carry.firstPending = none)) ∧
    (∃ (s : State) (ch : Ch) (g : GateRec) (rest : List GateRec) (p : Int × Bool), (s.chan ch).gates = g :: rest ∧
      (s.chan ch).red.carry.firstPending = some p ∧ (g.holds (p.1 + 16 * Int.ofNat g.cfg.tito + 1) = true ∨ (if
      g.cfg.usesPartner ch then (s.chan ch).red.partQ else (s.chan ch).red.ownQ) ≠ [] ∨ passed ((s.reach (((p.1 + 16 *
      Int.ofNat g.cfg.tito) / 16).toNat + 4096)).frontOf (if g.cfg.usesPartner ch then chOf g.cfg.pch else ch)) (p.1 +
      16 * Int.ofNat g.cfg.tito) = false)) :=
  ⟨⟨tGate, by delta State.Serves; decide +kernel⟩,
   ⟨tGate, by delta State.Serves; decide +kernel⟩,
   ⟨({ tGate with chans := tGate.chans.set 3 { tGate.chan 3 with red := { RedSt.reset with carry := { Carry.start with adHist := [1] } } } }), by delta State.Serves; decide +kernel⟩,
   ⟨tPending, 3, ((tPending.chan 3).openGate?.getD gDefault), [], ((16384000, true)), by decide +kernel⟩,
   ⟨(tPending.modChan 3 (fun c => { c with red := { c.red with carry := { c.red.carry with pend := none, npend := [(16384000, true)], stops := [(16380000, true)] } } })), 3, ((tPending.chan 3).openGate?.getD gDefault), [], ((16384000, true)), ((16380000, true)), by decide +kernel⟩,
   ⟨tGate, 3, by decide +kernel⟩,
   ⟨(tPending.modChan 3 (fun c => { c with fifo := [.abs] })), 3, ((tPending.chan 3).openGate?.getD gDefault), [], ((16384000, true)), by decide +kernel⟩⟩

/-- Witnesses of `DescriptorsQueueOrCountAsBad`. -/
theorem witness_DescriptorsQueueOrCountAsBad :
    (∃ (n : Ch) (ch : BitVec 8), ch.toNat = n.val) ∧
    (∃ (ch : BitVec 8), 128 ≤ ch.toNat) ∧
    (∃ (n : Ch) (ch : BitVec 8), ch.toNat = n.val) ∧
    (∃ (ch : BitVec 8), 128 ≤ ch.toNat) ∧
    (∃ (n : Ch) (ch : BitVec 8), ch.toNat = n.val) ∧
    (∃ (ch : BitVec 8), 128 ≤ ch.toNat) ∧
    (∃ (w0 : BitVec 64) (n : Ch), (w0.extractLsb' 32 8).toNat = n.val) ∧
    (∃ (w0 : BitVec 64), 128 ≤ (w0.extractLsb' 32 8).toNat) :=
  ⟨⟨3, 3#8, by decide +kernel⟩,
   ⟨200#8, by decide +kernel⟩,
   ⟨3, 3#8, by decide +kernel⟩,
   ⟨128#8, by decide +kernel⟩,
   ⟨3, 3#8, by decide +kernel⟩,
   ⟨255#8, by decide +kernel⟩,
   ⟨0xF00000030000FFFF#64, 3, by decide +kernel⟩,
   ⟨0xF00000830000FFFF#64, by decide +kernel⟩⟩

/-- Witnesses of `ControlMessagesMeetTheGeneration`. -/
theorem witness_ControlMessagesMeetTheGeneration :
    (∃ (s : State) (n : Ch) (ch : BitVec 8) (gen : BitVec 4), ch.toNat = n.val ∧ s.fb (chBase n) F.CH_MD_CTL_EN = true
      ∧ gen.toNat = (s.chan n).mord.gen ∧ s.mordantStalls n = false) ∧
    (∃ (s : State) (n : Ch) (ch : BitVec 8) (gen : BitVec 4), ch.toNat = n.val ∧ s.fb (chBase n) F.CH_MD_CTL_EN = true
      ∧ gen.toNat = (s.chan n).mord.gen ∧ s.mordantStalls n = false) ∧
    (∃ (s : State) (n : Ch) (ch : BitVec 8) (gen : BitVec 4), ch.toNat = n.val ∧ (s.fb (chBase n) F.CH_MD_CTL_EN =
      false ∨ gen.toNat ≠ (s.chan n).mord.gen)) ∧
    (∃ (s : State) (n : Ch) (ch : BitVec 8) (gen : BitVec 4), ch.toNat = n.val ∧ (s.fb (chBase n) F.CH_MD_CTL_EN =
      false ∨ gen.toNat ≠ (s.chan n).mord.gen)) ∧
    (∃ (ch : BitVec 8), 128 ≤ ch.toNat) ∧
    (∃ (ch : BitVec 8), 128 ≤ ch.toNat) ∧
    (∃ (s : State) (ch : Ch) (since : Nat), (s.chan ch).mord.owedSince = some since ∧ (s.chan ch).mord.owed ≠ 0) ∧
    (∃ (s : State) (ch : Ch), ((s.chan ch).mord.owed = 0 ∨ (s.chan ch).mord.owedSince = none)) :=
  ⟨⟨tMordQ, 3, 3#8, 0#4, by decide +kernel⟩,
   ⟨tMordQ, 3, 3#8, 0#4, by decide +kernel⟩,
   ⟨tChan, 3, 3#8, 0#4, by decide +kernel⟩,
   ⟨tChan, 3, 3#8, 0#4, by decide +kernel⟩,
   ⟨200#8, by decide +kernel⟩,
   ⟨128#8, by decide +kernel⟩,
   ⟨(tOwed 3), 3, 1024000, by decide +kernel⟩,
   ⟨tMord, 3, by decide +kernel⟩⟩

/-- Witnesses of `MordantBindsSealsAndAges`. -/
theorem witness_MordantBindsSealsAndAges :
    (∃ (s : State) (ch : Ch) (q : QDesc) (rest : List QDesc) (i : Nat) (left : List Nat), s.fb (chBase ch)
      F.CH_MD_CTL_EN = true ∧ s.mordantStalls ch = false ∧ (s.chan ch).mord.queue = q :: rest ∧ q.left = i :: left ∧
      (s.chan ch).mord.tableLen < 512) ∧
    (∃ (s : State) (ch : Ch) (q : QDesc) (rest : List QDesc) (i : Nat) (left : List Nat) (e : Exp), s.fb (chBase ch)
      F.CH_MD_CTL_EN = true ∧ s.mordantStalls ch = false ∧ (s.chan ch).mord.queue = q :: rest ∧ q.left = i :: left ∧
      (s.chan ch).mord.exps = [] ∧ (s.chan ch).mord.free = [] ∧ e = q.d.expect (s.chan ch).mord.gen s.now i q.done
      (s.mdProfile ch q.d.profile.toNat).1 (s.mdProfile ch q.d.profile.toNat).2) ∧
    (∃ (s : State) (ch : Ch) (q : QDesc) (rest : List QDesc), s.fb (chBase ch) F.CH_MD_CTL_EN = true ∧ s.mordantStalls
      ch = false ∧ (s.chan ch).mord.queue = q :: rest ∧ q.left = []) ∧
    (∃ (s : State) (ch : Ch), s.fb (chBase ch) F.CH_MD_CTL_EN = true ∧ s.mordantStalls ch = false ∧ ((s.chan
      ch).mord.queue = [] ∨ (512 ≤ (s.chan ch).mord.tableLen ∧ (s.chan ch).mord.queue.head?.all (fun (q : QDesc) =>
      !q.left.isEmpty) = true))) ∧
    (∃ (s : State) (ch : Ch) (i : MIn) (rest : List MIn), s.fb (chBase ch) F.CH_MD_CTL_EN = true ∧ s.mordantStalls ch
      = false ∧ (s.chan ch).mord.input = i :: rest) ∧
    (∃ (s : State) (ch : Ch) (x : Int) (r : Bool) (rest : List MIn) (e : Exp), s.fb (chBase ch) F.CH_MD_CTL_EN = true
      ∧ s.mordantStalls ch = false ∧ (s.chan ch).mord.input = .edge x r :: rest ∧ (s.chan ch).mord.exps = [e] ∧
      (s.chan ch).mord.free = [] ∧ e.st = .watch ∧ e.closed = false ∧ e.edge = none ∧ e.contains x = true ∧ e.matches
      r = true ∧ (s.chan ch).mord.front ≤ x ∧ Exp.due (s.f (chBase ch) F.CH_MD_H_H) (s.chan ch).mord.front e = false) ∧
    (∃ (s : State) (ch : Ch) (x : Int) (r : Bool) (rest : List MIn), s.fb (chBase ch) F.CH_MD_CTL_EN = true ∧
      s.mordantStalls ch = false ∧ (s.chan ch).mord.input = .edge x r :: rest ∧ (s.chan ch).mord.exps = [] ∧ (s.chan
      ch).mord.free = []) ∧
    (∃ (s : State) (ch : Ch), s.fb (chBase ch) F.CH_MD_CTL_EN = true ∧ s.mordantStalls ch = false ∧ (s.chan
      ch).mord.input = []) ∧
    (∃ (s : State) (ch : Ch) (e : Exp), s.fb (chBase ch) F.CH_MD_CTL_EN = true ∧ s.mordantStalls ch = false ∧ (s.chan
      ch).mord.exps.find? (Exp.due (s.f (chBase ch) F.CH_MD_H_H) (s.chan ch).mord.front) = some e) ∧
    (∃ (s : State) (ch : Ch), s.fb (chBase ch) F.CH_MD_CTL_EN = true ∧ s.mordantStalls ch = false ∧ (s.chan
      ch).mord.exps.find? (Exp.due (s.f (chBase ch) F.CH_MD_H_H) (s.chan ch).mord.front) = none) ∧
    (∃ (s : State) (ch : Ch) (x : Int × Bool), s.fb (chBase ch) F.CH_MD_CTL_EN = true ∧ s.mordantStalls ch = false ∧
      (s.chan ch).mord.free.find? (edgeDue (s.f (chBase ch) F.CH_MD_H_H) (s.chan ch).mord.front) = some x) ∧
    (∃ (s : State) (ch : Ch), s.fb (chBase ch) F.CH_MD_CTL_EN = true ∧ s.mordantStalls ch = false ∧ (s.chan
      ch).mord.exps.any (Exp.due (s.f (chBase ch) F.CH_MD_H_H) (s.chan ch).mord.front) = false ∧ (s.chan
      ch).mord.free.any (edgeDue (s.f (chBase ch) F.CH_MD_H_H) (s.chan ch).mord.front) = false) ∧
    (∃ (s : State) (ch : Ch), s.fb (chBase ch) F.CH_MD_CTL_EN = false) ∧
    (∃ (s : State) (ch : Ch), s.fb (chBase ch) F.CH_MD_CTL_EN = false) ∧
    (∃ (s : State) (ch : Ch), s.fb (chBase ch) F.CH_MD_CTL_EN = false) ∧
    (∃ (s : State) (ch : Ch), s.fb (chBase ch) F.CH_MD_CTL_EN = false) :=
  ⟨⟨tMordQ, 3, ({ d := { hGood.desc (.run 0x1000000#48 5#16 false) with seq := 8#24 }, left := [0, 1], covered := [], done := 0 }), [], 0, [1], by decide +kernel⟩,
   ⟨tMordQ0, 3, ({ d := hGood.desc (.run 0x1000000#48 5#16 false), left := [0, 1], covered := [], done := 0 }), [], 0, [1], hQ0, by decide +kernel⟩,
   ⟨(tMordWith { Mord.reset with queue := [{ d := hGood.desc (.mask1k 40960#32 0#1024), left := [], covered := [], done := 0 }] }), 3, ({ d := hGood.desc (.mask1k 40960#32 0#1024), left := [], covered := [], done := 0 }), [], by decide +kernel⟩,
   ⟨tMordTable, 3, by decide +kernel⟩,
   ⟨(tMordWith { Mord.reset with exps := [eWatch], input := [.blind 5 16385000, .crowd 7] }), 3, (.blind 5 16385000), ([.crowd 7]), by decide +kernel⟩,
   ⟨tMordWatch, 3, 16385000, true, [], eWatch, by decide +kernel⟩,
   ⟨tMordIn, 3, 16385000, true, [], by decide +kernel⟩,
   ⟨tMord, 3, by decide +kernel⟩,
   ⟨(tMordDue none), 3, (eDue none), by decide +kernel⟩,
   ⟨tMordWatch, 3, by decide +kernel⟩,
   ⟨tMordFree, 3, ((16385000, true)), by decide +kernel⟩,
   ⟨tMordWatch, 3, by decide +kernel⟩,
   ⟨(tMordIn.setF (chBase 3) F.CH_MD_CTL_EN 0), 3, by decide +kernel⟩,
   ⟨(tMordIn.setF (chBase 3) F.CH_MD_CTL_EN 0), 3, by decide +kernel⟩,
   ⟨(tMordIn.setF (chBase 3) F.CH_MD_CTL_EN 0), 3, by decide +kernel⟩,
   ⟨(tMordIn.setF (chBase 3) F.CH_MD_CTL_EN 0), 3, by decide +kernel⟩⟩

/-- Witnesses of `MordantEnablesFlushesAndClears`. -/
theorem witness_MordantEnablesFlushesAndClears :
    (∃ (s : State), s.Serves) ∧
    (∃ (s : State), s.Serves) ∧
    (∃ (s : State), s.Serves) ∧
    (∃ (s : State), s.Serves) ∧
    (∃ (s : State), s.Serves) ∧
    (∃ (s : State), s.Serves) :=
  ⟨⟨tChan, by delta State.Serves; decide +kernel⟩,
   ⟨tMordQ, by delta State.Serves; decide +kernel⟩,
   ⟨tMordQ, by delta State.Serves; decide +kernel⟩,
   ⟨tMordQ, by delta State.Serves; decide +kernel⟩,
   ⟨tMordQ, by delta State.Serves; decide +kernel⟩,
   ⟨tChan, by delta State.Serves; decide +kernel⟩⟩

/-- Witnesses of `SourcesMakeEventsInArmedUnits`. -/
theorem witness_SourcesMakeEventsInArmedUnits :
    (∃ (s : State) (pin : Fin 4) (rising : Bool) (pos : Nat) (after : Nat) (u : Unit16), s.clk.running = true ∧ 64 <
      pos ∧ pos < 192 ∧ s.pinSeen (tinPin pin) (s.now + pos) after = true ∧ s.srcEn u pin.val = true ∧ (s.tuA u
      F.TRG_TU_SRC_TIN_FALL).testBit pin.val = !rising ∧ (s.tu u).armAt ≤ s.now / 256 * 256) ∧
    (∃ (s : State) (pin : Fin 4) (rising : Bool) (pos : Nat) (after : Nat) (u : Unit16), s.clk.running = true ∧ (pos ≤
      64 ∨ 192 ≤ pos) ∧ s.pinSeen (tinPin pin) (s.now + pos) after = true ∧ s.tuState u = tuArmed ∧ s.tuA u
      F.TRG_TU_CFG_FULLPRE ≠ 1 ∧ s.srcEn u pin.val = true ∧ (s.tuA u F.TRG_TU_SRC_TIN_FALL).testBit pin.val = !rising
      ∧ (s.tu u).armAt ≤ s.now / 256 * 256 - 256) ∧
    (∃ (s : State) (pin : Fin 4) (pos : Nat) (after : Nat), s.clk.running = true ∧ s.pinSeen (tinPin pin) (s.now +
      pos) after = false) ∧
    (∃ (s : State), s.clk.running = false) ∧
    (∃ (s : State) (line : Fin 8) (pos : Nat) (after : Nat) (u : Unit16), s.clk.running = true ∧ 64 < pos ∧ pos < 192
      ∧ s.pinSeen (stlPin line) (s.now + pos) after = true ∧ s.srcEn u (4 + line.val) = true ∧ s.ownDrive u line =
      false ∧ (s.tu u).armAt ≤ s.now / 256 * 256 ∧ (∀ v : Unit16, v ≠ u → s.srcEn v (4 + line.val) = false)) ∧
    (∃ (s : State) (line : Fin 8) (pos : Nat) (after : Nat) (u : Unit16), s.clk.running = true ∧ s.pinSeen (stlPin
      line) (s.now + pos) after = true ∧ s.tuState u = tuArmed ∧ s.tuA u F.TRG_TU_CFG_FULLPRE ≠ 1 ∧ s.srcEn u (4 +
      line.val) = true ∧ s.ownDrive u line = false ∧ (s.tu u).armAt ≤ s.now / 256 * 256 - 256 ∧ (∀ v : Unit16, v ≠ u →
      s.srcEn v (4 + line.val) = false)) ∧
    (∃ (s : State) (line : Fin 8) (pos : Nat) (after : Nat), s.clk.running = true ∧ 64 < pos ∧ pos < 192 ∧ (s.pinSeen
      (stlPin line) (s.now + pos) after = false ∨ (∀ u : Unit16, s.srcEn u (4 + line.val) = true → s.ownDrive u line =
      true))) ∧
    (∃ (s : State), s.clk.running = false) ∧
    (∃ (s : State) (time48 : BitVec 48), Int.ofNat s.now < (resolveTime 48 s.now time48.toNat).fdiv 256 * 256) ∧
    (∃ (s : State) (marker : Fin 16) (time48 : BitVec 48) (u : Unit16), (resolveTime 48 s.now time48.toNat).fdiv 256 *
      256 ≤ Int.ofNat s.now ∧ s.srcEn u 12 = true ∧ (s.tuA u F.TRG_TU_MARK_MASK).testBit marker.val = true ∧ (s.tu
      u).armAt ≤ ((resolveTime 48 s.now time48.toNat).fdiv 256 * 256).toNat) ∧
    (∃ (s : State) (marker : Fin 16) (time48 : BitVec 48) (u : Unit16), (resolveTime 48 s.now time48.toNat).fdiv 256 *
      256 ≤ Int.ofNat s.now ∧ s.srcEn u 12 = true ∧ (s.tuA u F.TRG_TU_MARK_MASK).testBit marker.val = true ∧ s.tuState
      u ≠ tuIdle ∧ resolveTime 48 s.now time48.toNat < Int.ofNat (s.tu u).armAt) ∧
    (∃ (s : State) (u : Unit16) (m : Int) (rest : List Int), (s.tu u).marks = m :: rest ∧ s.srcEn u 12 = true ∧ (s.tu
      u).armAt ≤ sampleOf (rest.foldl min m)) ∧
    (∃ (s : State) (u : Unit16) (m : Int) (rest : List Int), (s.tu u).marks = m :: rest ∧ (s.srcEn u 12 = false ∨
      sampleOf (rest.foldl min m) < (s.tu u).armAt)) ∧
    (∃ (s : State) (u : Unit16), (s.tu u).marks = []) ∧
    (∃ (s : State) (u : Unit16), s.Serves ∧ s.srcEn u 15 = true ∧ (s.tu u).armAt ≤ s.mclkNext / 256 * 256 ∧ s.tuState
      u ≠ tuIdle) ∧
    (∃ (s : State) (u : Unit16) (e : TrigEvent), s.Serves ∧ s.tuState u = tuPost ∧ s.srcEn u 15 = true ∧ (s.tu
      u).armAt ≤ e.sample ∧ (s.tu u).event = some e ∧ e.sample = s.mclkNext / 256 * 256 ∧ (s.tu u).rings.any (fun (r :
      Ring) => r.closed.isNone) = true) ∧
    (∃ (s : State) (u : Unit16), s.Serves ∧ (s.tuState u = tuIdle ∨ s.srcEn u 15 = false ∨ s.mclkNext / 256 * 256 <
      (s.tu u).armAt)) :=
  ⟨⟨(tArmed 1), 0, true, 100, 640, 2, by decide +kernel⟩,
   ⟨(tArmed 1), 0, true, 64, 640, 2, by decide +kernel⟩,
   ⟨(tArmed 1), 0, 100, 639, by decide +kernel⟩,
   ⟨tReleased, by decide +kernel⟩,
   ⟨(tArmed 0x10), 0, 100, 700, 2, by decide +kernel⟩,
   ⟨(tArmed 0x10), 0, 5, 700, 2, by decide +kernel⟩,
   ⟨(tArmed 0x10), 0, 100, 600, by decide +kernel⟩,
   ⟨tReleased, by decide +kernel⟩,
   ⟨((tArmed 0x1000).setF (forceBase + tuBase 2) F.TRG_TU_MARK_MASK 8), 0x70AA00#48, by decide +kernel⟩,
   ⟨((tArmed 0x1000).setF (forceBase + tuBase 2) F.TRG_TU_MARK_MASK 8), 3, 0xFA000#48, 2, by decide +kernel⟩,
   ⟨((tArmed 0x1000).setF (forceBase + tuBase 2) F.TRG_TU_MARK_MASK 8), 3, 999999#48, 2, by decide +kernel⟩,
   ⟨((tArmed 0x1000).modTu 2 (fun x => { x with marks := [1024512, 1024256] })), 2, 1024512, [1024256], by decide +kernel⟩,
   ⟨(tUp.modTu 2 (fun x => { x with marks := [1024256] })), 2, 1024256, [], by decide +kernel⟩,
   ⟨tUp, 2, by decide +kernel⟩,
   ⟨(tArmed 0x8000), 2, by delta State.Serves; decide +kernel⟩,
   ⟨(tPost.modTu 2 (fun x => { x with event := some { eTrig with sample := 1026048 } })), 2, ({ eTrig with sample := 1026048 }), by delta State.Serves; decide +kernel⟩,
   ⟨tUp, 2, by delta State.Serves; decide +kernel⟩⟩

/-- Witnesses of `UnitsArmCloseAndRearm`. -/
theorem witness_UnitsArmCloseAndRearm :
    (∃ (s : State) (u : Unit16), s.Serves ∧ s.tuState u = tuIdle) ∧
    (∃ (s : State) (u : Unit16), s.Serves ∧ s.tuState u ≠ tuIdle) ∧
    (∃ (s : State) (u : Unit16), s.Serves ∧ s.tuState u = tuArmed) ∧
    (∃ (s : State) (u : Unit16), s.Serves ∧ s.tuState u = tuPost) ∧
    (∃ (s : State) (u : Unit16), s.Serves ∧ s.tuState u = tuRearm) ∧
    (∃ (s : State) (u : Unit16), s.Serves ∧ s.tuState u = tuIdle) ∧
    (∃ (s : State) (u : Unit16) (e : TrigEvent) (due : Nat), s.tuState u = tuPost ∧ (s.tu u).event = some e ∧
      s.postDue u e.sample = some due) ∧
    (∃ (s : State) (u : Unit16), (s.tuState u ≠ tuPost ∨ (s.tu u).event.all (fun (e : TrigEvent) => (s.postDue u
      e.sample).isNone) = true)) ∧
    (∃ (s : State) (u : Unit16) (e : TrigEvent) (r : Ring), s.tuState u = tuRearm ∧ (s.tu u).event = some e ∧ (s.tu
      u).rings = [r] ∧ (s.tu u).hdrDone = false ∧ (s.tuA u F.TRG_TU_CFG_MODE = 0 ∨ s.tuA u F.TRG_TU_CFG_MODE = 3) ∧
      s.tuA u F.TRG_TU_CFG_PUSH = 0 ∧ s.tuA u F.TRG_TU_CFG_OVERWRITE = 0) ∧
    (∃ (s : State) (u : Unit16), s.tuState u = tuRearm ∧ (s.tu u).event.isSome = true ∧ (s.tu u).hdrDone = true ∧
      (s.tuA u F.TRG_TU_CFG_MODE = 0 ∨ s.tuA u F.TRG_TU_CFG_MODE = 3 ∨ (s.tuA u F.TRG_TU_CFG_MODE = 2 ∧ s.tuA u
      F.TRG_TU_CFG_NREC ≤ (s.tu u).count))) ∧
    (∃ (s : State) (u : Unit16), s.tuState u = tuRearm ∧ ((s.tu u).event = none ∨ (s.tu u).hdrDone = true) ∧ ((s.tu
      u).event = none ∨ s.tuA u F.TRG_TU_CFG_MODE = 1 ∨ (s.tuA u F.TRG_TU_CFG_MODE = 2 ∧ (s.tu u).count < s.tuA u
      F.TRG_TU_CFG_NREC))) ∧
    (∃ (s : State) (u : Unit16), s.tuState u ≠ tuRearm) :=
  ⟨⟨tArmable, 2, by delta State.Serves; decide +kernel⟩,
   ⟨(tArmed 1), 2, by delta State.Serves; decide +kernel⟩,
   ⟨(tArmed 1), 2, by delta State.Serves; decide +kernel⟩,
   ⟨tPost, 2, by delta State.Serves; decide +kernel⟩,
   ⟨(tRearm 0), 2, by delta State.Serves; decide +kernel⟩,
   ⟨tUp, 2, by delta State.Serves; decide +kernel⟩,
   ⟨(tPost.setF (forceBase + tuBase 2) F.TRG_TU_POSTT_L_POST_T 6400), 2, eTrig, 1030144, by decide +kernel⟩,
   ⟨tPost, 2, by decide +kernel⟩,
   ⟨(tRearm 0), 2, eTrig, ringDone, by decide +kernel⟩,
   ⟨((tRearm 0).modTu 2 (fun x => { x with hdrDone := true })), 2, by decide +kernel⟩,
   ⟨tRearmed, 2, by decide +kernel⟩,
   ⟨tPost, 2, by decide +kernel⟩⟩

/-- Witnesses of `RecordsAndBlocksLeave`. -/
theorem witness_RecordsAndBlocksLeave :
    (∃ (s : State) (u : Unit16) (r : Record), s.Serves ∧ (s.tu u).oldest = some r ∧ s.headerLost r = false) ∧
    (∃ (s : State) (u : Unit16) (r : Record), s.Serves ∧ (s.tu u).oldest = some r ∧ s.headerLost r = true) ∧
    (∃ (s : State) (u : Unit16) (r : Record), s.Serves ∧ (s.tu u).oldest = some r) ∧
    (∃ (s : State) (u : Unit16), s.Serves ∧ (s.tu u).oldest = none) ∧
    (∃ (s : State) (u : Unit16), s.Serves ∧ (s.tu u).oldest = none) ∧
    (∃ (s : State) (part : Fin 32) (ch : Ch) (b : Block), (s.blocks[part]).find? (fun (x : Block) => x.ch = ch) = some
      b ∧ b.items ≠ []) ∧
    (∃ (s : State) (part : Fin 32) (ch : Ch), ((s.blocks[part]).find? (fun (x : Block) => x.ch = ch)).all (fun (x :
      Block) => x.items.isEmpty) = true) ∧
    (∃ (s : State), s.Serves) ∧
    (∃ (s : State) (out : Fin 10) (k : Fin 2) (a : Nat) (e : Nat), out.val = k.val ∧ s.outPulse[k] = some (a, e)) ∧
    (∃ (s : State) (out : Fin 10) (k : Fin 2), out.val = k.val ∧ s.outPulse[k] = none) ∧
    (∃ (s : State) (out : Fin 10) (k : Fin 8) (a : Nat) (e : Nat), out.val = k.val + 2 ∧ s.stlPulse[k] = some (a, e)) ∧
    (∃ (s : State) (out : Fin 10) (k : Fin 8), out.val = k.val + 2 ∧ s.stlPulse[k] = none) :=
  ⟨⟨tRecords, 2, recOne, by delta State.Serves; decide +kernel⟩,
   ⟨({ tRecords with vatUE := [3, 17] }), 2, recOne, by delta State.Serves; decide +kernel⟩,
   ⟨tRecords, 2, recOne, by delta State.Serves; decide +kernel⟩,
   ⟨tUp, 2, by delta State.Serves; decide +kernel⟩,
   ⟨tUp, 2, by delta State.Serves; decide +kernel⟩,
   ⟨tStreaming, 0, 3, ({ ch := 3, items := [{ words := [9#32], time := 1023000, refBefore := 0, kind := .abs }], startAt := 1023000, spare := false, refchg := false, seq := 5#32, out := 0 }), by decide +kernel⟩,
   ⟨tStreaming, 0, 4, by decide +kernel⟩,
   ⟨tUp, by delta State.Serves; decide +kernel⟩,
   ⟨({ tUp with outPulse := tUp.outPulse.set 1 (some (1024000, 1032192)) }), 1, 1, 1024000, 1032192, by decide +kernel⟩,
   ⟨tUp, 1, 1, by decide +kernel⟩,
   ⟨({ tUp with stlPulse := tUp.stlPulse.set 7 (some (1024000, 1032192)) }), 9, 7, 1024000, 1032192, by decide +kernel⟩,
   ⟨tUp, 9, 7, by decide +kernel⟩⟩

/-- Witnesses of `HistogramsClearFlipAndTakeSettings`. -/
theorem witness_HistogramsClearFlipAndTakeSettings :
    (∃ (s : State) (ch : Ch) (w : Word), s.Serves ∧ s.fb (chBase ch) F.CH_HG_STAT_SVC_OWN = false ∧ s.hgFits ch
      (hgGeom w (s.w (chBase ch + R.CH_HG_NB))) = false) ∧
    (∃ (s : State) (ch : Ch) (w : Word), s.Serves ∧ s.fb (chBase ch) F.CH_HG_STAT_SVC_OWN = false ∧ s.hgFits ch
      (hgGeom w (s.w (chBase ch + R.CH_HG_NB))) = true) ∧
    (∃ (s : State) (ch : Ch), s.Serves ∧ s.fb (chBase ch) F.CH_HG_STAT_SVC_OWN = false) ∧
    (∃ (s : State) (ch : Ch), s.Serves ∧ s.fb (chBase ch) F.CH_HG_STAT_SVC_OWN = false) ∧
    (∃ (s : State) (ch : Ch) (h : Word), s.Serves ∧ s.fb (chBase ch) F.CH_HG_STAT_SVC_OWN = false ∧ s.staged? .host
      (chBase ch + R.CH_HG_LO_H) = some h) ∧
    (∃ (s : State) (ch : Ch), s.Serves ∧ s.fb (chBase ch) F.CH_HG_STAT_SVC_OWN = false ∧ s.staged? .host (chBase ch +
      R.CH_HG_LO_H) = none ∧ s.hgLoFits ch = true) ∧
    (∃ (s : State) (ch : Ch), s.Serves ∧ s.fb (chBase ch) F.CH_HG_STAT_SVC_OWN = true) ∧
    (∃ (s : State) (ch : Ch), s.Serves ∧ s.fb (chBase ch) F.CH_HG_STAT_SVC_OWN = false) ∧
    (∃ (s : State) (ch : Ch), s.Serves ∧ s.fb (chBase ch) F.CH_HG_STAT_SVC_OWN = false ∧ s.actB ch F.CH_HG_CTL_DBUF =
      true) ∧
    (∃ (s : State) (ch : Ch), s.Serves ∧ (s.fb (chBase ch) F.CH_HG_STAT_SVC_OWN = true ∨ s.actB ch F.CH_HG_CTL_DBUF =
      false)) ∧
    (∃ (s : State) (ch : Ch), s.Serves ∧ s.fb (chBase ch) F.CH_HG_STAT_SVC_OWN = true) :=
  ⟨⟨tUp, 3, (F.CH_HG_CTL_NBM1.into (F.CH_HG_CTL_BASE.into (F.CH_HG_CTL_SRC.into 0#32 1) 127) 3), by delta State.Serves; decide +kernel⟩,
   ⟨tGate, 3, (F.CH_HG_CTL_WSH.into (F.CH_HG_CTL_BASE.into (F.CH_HG_CTL_SRC.into 0#32 1) 3) 60), by delta State.Serves; decide +kernel⟩,
   ⟨tGate, 3, by delta State.Serves; decide +kernel⟩,
   ⟨tGate, 3, by delta State.Serves; decide +kernel⟩,
   ⟨(tGate.stage .host (chBase 3 + R.CH_HG_LO_H) 5#32), 3, 5#32, by delta State.Serves; decide +kernel⟩,
   ⟨tGate, 3, by delta State.Serves; decide +kernel⟩,
   ⟨tOwned, 3, by delta State.Serves; decide +kernel⟩,
   ⟨tBins, 3, by delta State.Serves; decide +kernel⟩,
   ⟨tBins, 3, by delta State.Serves; decide +kernel⟩,
   ⟨tUp, 3, by delta State.Serves; decide +kernel⟩,
   ⟨tOwned, 3, by delta State.Serves; decide +kernel⟩⟩

/-- Witnesses of `LakeSparesStandIn`. -/
theorem witness_LakeSparesStandIn :
    (∃ (s : State) (path : Path), s.Serves ∧ s.Writes path ∧ s.Unlocked path) ∧
    (∃ (s : State) (sp : Spare), s.spValid sp.val = true ∧ s.spDone sp.val = false ∧ Memory.wf vatNone s.lake = true ∧
      (∀ q : Spare, q ≠ sp → s.spValid q.val = false ∨ s.spBank q.val ≠ s.spBank sp.val)) ∧
    (∃ (s : State) (sp : Spare), (s.spValid sp.val = false ∨ s.spDone sp.val = true)) :=
  ⟨⟨tUnlocked, .host, by delta State.Serves State.Writes State.Unlocked; dsimp only [lockOf]; decide +kernel⟩,
   ⟨(tSpared false), 2, by decide +kernel⟩,
   ⟨tUp, 2, by decide +kernel⟩⟩

/-- Witnesses of `ServiceCallsQueueInOrder`. -/
theorem witness_ServiceCallsQueueInOrder :
    (∃ (s : State) (src : OdSrc), s.OdServes ∧ (s.txnOf src).isSome = false) ∧
    (∃ (s : State) (src : OdSrc), s.OdServes ∧ (s.txnOf src).isSome = false) ∧
    (∃ (s : State) (src : OdSrc), s.OdServes ∧ (s.txnOf src).isSome = false) ∧
    (∃ (s : State) (src : OdSrc), s.OdServes ∧ (s.txnOf src).isSome = false) ∧
    (∃ (s : State) (src : OdSrc), s.OdServes ∧ (s.txnOf src).isSome = false) ∧
    (∃ (s : State) (src : OdSrc), s.OdServes ∧ (s.txnOf src).isSome = false) :=
  ⟨⟨tUp, (.node 0x0012#16), by delta State.OdServes; decide +kernel⟩,
   ⟨tUp, (.node 0x0012#16), by delta State.OdServes; decide +kernel⟩,
   ⟨tUp, (.node 0x0012#16), by delta State.OdServes; decide +kernel⟩,
   ⟨tUp, (.node 0x0012#16), by delta State.OdServes; decide +kernel⟩,
   ⟨tUp, (.node 0x0012#16), by delta State.OdServes; decide +kernel⟩,
   ⟨tUp, (.node 0x0012#16), by delta State.OdServes; decide +kernel⟩⟩

/-- Witnesses of `CallsRunFinishAndAbort`. -/
theorem witness_CallsRunFinishAndAbort :
    (∃ (s : State) (k : Call), s.fb 0 F.DEV_SVC_STAT_NOIMG = true ∧ s.nextCall = some k) ∧
    (∃ (s : State) (k : Call) (core : Fin 8), s.fb 0 F.DEV_SVC_STAT_NOIMG = false ∧ s.svcOpen = true ∧ s.nextCall =
      some k ∧ s.freeCore = some core ∧ (s.modCall k.handle fun q =>
      { q with st := .running, core := some core, startAt := s.now }).svcFails k = none) ∧
    (∃ (s : State) (k : Call) (core : Fin 8) (c : Nat), s.fb 0 F.DEV_SVC_STAT_NOIMG = false ∧ s.svcOpen = true ∧
      s.nextCall = some k ∧ s.freeCore = some core ∧ (s.modCall k.handle fun q =>
      { q with st := .running, core := some core, startAt := s.now }).svcFails k = some c) ∧
    (∃ (s : State), (s.nextCall = none ∨ (s.fb 0 F.DEV_SVC_STAT_NOIMG = false ∧ (s.svcOpen = false ∨ s.freeCore =
      none)))) ∧
    (∃ (s : State) (handle : Nat) (k : Call), s.call? handle = some k ∧ k.st = .running ∧ k.id = 1) ∧
    (∃ (s : State) (handle : Nat) (k : Call), s.call? handle = some k ∧ k.st = .running ∧ k.id = 2) ∧
    (∃ (s : State) (handle : Nat) (k : Call), s.call? handle = some k ∧ k.st = .running ∧ k.id = 3) ∧
    (∃ (s : State) (handle : Nat) (k : Call), s.call? handle = some k ∧ k.st = .running ∧ k.id = 5) ∧
    (∃ (s : State) (handle : Nat) (k : Call), s.call? handle = some k ∧ k.st = .running ∧ k.id = 6) ∧
    (∃ (s : State) (handle : Nat) (seen : SvcSeen), ((s.call? handle).all fun (k : Call) => k.st != CallState.running
      || k.id != seen.service) = true) ∧
    (∃ (s : State) (handle : Nat) (k : Call) (ms : Nat), s.call? handle = some k ∧ k.st = .running ∧ k.limit = some
      ms) ∧
    (∃ (s : State) (handle : Nat), ((s.call? handle).all fun (k : Call) => k.st != CallState.running || k.limit ==
      none) = true) ∧
    (∃ (s : State) (handle : Word) (k : Call), s.OdServes ∧ s.call? handle.toNat = some k ∧ k.active = true) ∧
    (∃ (s : State) (handle : Word), s.OdServes ∧ ((s.call? handle.toNat).all fun (k : Call) => !k.active) = true) :=
  ⟨⟨tNoImage, callOne, by decide +kernel⟩,
   ⟨(tCall callOne), callOne, 0, by decide +kernel⟩,
   ⟨(tCall { callOne with params := List.replicate 32 1#8 }), ({ callOne with params := List.replicate 32 1#8 }), 0, 1, by decide +kernel⟩,
   ⟨tUp, by decide +kernel⟩,
   ⟨tClaimed, 1, ({ callOne with st := .running, core := some 0, claims := [(3, tChan.saveClaim 3)] }), by decide +kernel⟩,
   ⟨(tWithCall tOwned callShmoo), 1, callShmoo, by decide +kernel⟩,
   ⟨(tWithCall tOwned callJit), 1, callJit, by decide +kernel⟩,
   ⟨(tWithCall tUp { callLoad with st := .running, core := some 0 }), 1, ({ callLoad with st := .running, core := some 0 }), by decide +kernel⟩,
   ⟨tRunning, 1, ({ callSelf with st := .running, core := some 0 }), by decide +kernel⟩,
   ⟨tRunning, 1, (.level []), by decide +kernel⟩,
   ⟨tRunning, 1, ({ callSelf with st := .running, core := some 0 }), 1000, by decide +kernel⟩,
   ⟨tUp, 1, by decide +kernel⟩,
   ⟨tRunning, 1#32, ({ callSelf with st := .running, core := some 0 }), by delta State.OdServes; decide +kernel⟩,
   ⟨tRunning, 2#32, by delta State.OdServes; decide +kernel⟩⟩

/-- Witnesses of `ImagesAndLiveUpdatesProceed`. -/
theorem witness_ImagesAndLiveUpdatesProceed :
    (∃ (s : State), s.indigo.serving = true ∧ s.ready = true) ∧
    (∃ (s : State), s.indigo.serving = true ∧ s.ready = true) ∧
    (∃ (s : State) (u : LiveUpdate), s.indigo.live = some u ∧ (u.swapped.length < 6 ∨ s.now < u.drainBy)) ∧
    (∃ (s : State), (s.indigo.live.all fun (u : LiveUpdate) => decide (6 ≤ u.swapped.length) && decide (u.drainBy ≤
      s.now)) = true) ∧
    (∃ (s : State) (u : LiveUpdate), s.indigo.live = some u ∧ u.swapped.length = 6) ∧
    (∃ (s : State) (u : LiveUpdate), s.indigo.live = some u ∧ u.swapped.length = 7) ∧
    (∃ (s : State) (core : Fin 8), (s.indigo.live.all fun (u : LiveUpdate) => !(core.val == 6 && u.swapped.length ==
      6) && !(core.val == 7 && u.swapped.length == 7)) = true) ∧
    (∃ (s : State) (u : LiveUpdate), s.indigo.live = some u ∧ u.back = false) ∧
    (∃ (s : State), (s.indigo.live.all fun (u : LiveUpdate) => u.back) = true) :=
  ⟨⟨tUp, by decide +kernel⟩,
   ⟨({ tUp with indigo := { tUp.indigo with imgReady := true } }), by decide +kernel⟩,
   ⟨(tLive 3), ({ target := 2, drain := 5, drainBy := 4224000, swapped := [0, 1, 2], back := false }), by decide +kernel⟩,
   ⟨tUp, by decide +kernel⟩,
   ⟨(tLive 6), ({ target := 2, drain := 5, drainBy := 4224000, swapped := [0, 1, 2, 3, 4, 5], back := false }), by decide +kernel⟩,
   ⟨(tLive 7), ({ target := 2, drain := 5, drainBy := 4224000, swapped := [0, 1, 2, 3, 4, 5, 6], back := false }), by decide +kernel⟩,
   ⟨(tLive 6), 7, by decide +kernel⟩,
   ⟨(tLive 8), ({ target := 2, drain := 5, drainBy := 4224000, swapped := [0, 1, 2, 3, 4, 5, 6, 7], back := false }), by decide +kernel⟩,
   ⟨tUp, by decide +kernel⟩⟩

/-- Witnesses of `WatchdogRestartsIndigo`. -/
theorem witness_WatchdogRestartsIndigo :
    (∃ (s : State) (core : Fin 8), 6 ≤ core.val ∧ s.indigo.restarting = none ∧ s.thirdRestart = false) ∧
    (∃ (s : State) (core : Fin 8), 6 ≤ core.val ∧ ((s.indigo.restarting = none ∧ s.thirdRestart = true) ∨
      ((s.indigo.restarting.bind id).any fun c => c != core) = true)) ∧
    (∃ (s : State) (core : Fin 8), (core.val < 6 ∨ s.indigo.restarting = some (some core) ∨ s.indigo.restarting = some
      none)) ∧
    (∃ (s : State) (core : Fin 8), core.val < 6 ∧ s.indigo.restarting ≠ some none) ∧
    (∃ (s : State) (core : Fin 8), (6 ≤ core.val ∨ s.indigo.restarting = some none)) ∧
    (∃ (s : State) (r : Option (Fin 8)), s.indigo.restarting = some r ∧ s.od.mailbox = none) ∧
    (∃ (s : State) (r : Option (Fin 8)), s.indigo.restarting = some r ∧ s.od.mailbox.isSome = true) ∧
    (∃ (s : State), s.indigo.restarting = none) :=
  ⟨⟨(tUp.setF 0 F.DEV_REP_CTL_AUTO_ISLOT 0), 6, by decide +kernel⟩,
   ⟨({ tRunning with indigo := { tRunning.indigo with restarting := some (some 6) } }), 7, by decide +kernel⟩,
   ⟨tUp, 5, by decide +kernel⟩,
   ⟨tRunning, 0, by decide +kernel⟩,
   ⟨(tUp.setF 0 F.DEV_REP_CTL_AUTO_ISLOT 0), 6, by decide +kernel⟩,
   ⟨({ tUp with indigo := { tUp.indigo with restarting := some (some 6), restarts := [1024000] } }), (some 6), by decide +kernel⟩,
   ⟨({ tMail with indigo := { tUp.indigo with restarting := some (some 6), restarts := [1024000] }, od := { tMail.od with mailbox := some .host } }), (some 6), by decide +kernel⟩,
   ⟨tUp, by decide +kernel⟩⟩

/-- Witnesses of `CalibrationCausesAreRaised`. -/
theorem witness_CalibrationCausesAreRaised :
    (∃ (s : State), s.fb 0 F.CAL_STAT_BOOT_DONE = false ∧ s.boot.calChosen = true ∧ s.clk.running = true) ∧
    (∃ (s : State) (f : FrontEnd), s.fb 0 F.CAL_STAT_BOOT_DONE = false ∧ s.boot.calChosen = true ∧ s.clk.running =
      true ∧ s.feFused f = false) ∧
    (∃ (s : State) (r : BootSide), s.fb 0 F.CAL_STAT_BOOT_DONE = false ∧ s.boot.calChosen = true ∧ s.clk.running =
      true ∧ s.feFused r.fe = false) ∧
    (∃ (s : State), (s.fb 0 F.CAL_STAT_BOOT_DONE = true ∨ s.boot.calChosen = false ∨ s.clk.running = false)) ∧
    (∃ (s : State) (fe : FrontEnd), ((s.fe fe).lastA ≠ none ∨ (s.fe fe).lastB ≠ none) ∧ s.fb 0 F.CAL_CTL_EN = true ∧
      s.feFused fe = false ∧ s.calHold fe = false) ∧
    (∃ (s : State), s.Serves) ∧
    (∃ (s : State), s.Serves) ∧
    (∃ (s : State) (fe : FrontEnd), s.calNext fe = true ∧ s.calSlots < 16 ∧ (s.fe fe).needS = true ∧ s.f (feBase fe)
      (failFld (s.standby fe)) = 0) ∧
    (∃ (s : State) (fe : FrontEnd), s.calNext fe = true ∧ s.calSlots < 16 ∧ ((s.fe fe).needS = false ∨ s.f (feBase fe)
      (failFld (s.standby fe)) ≠ 0)) ∧
    (∃ (s : State) (fe : FrontEnd), (s.fe fe).running = true ∧ (s.fe fe).needT = true ∧ (s.fe fe).needS = false ∧
      s.calPhase fe = phWait) ∧
    (∃ (s : State) (fe : FrontEnd), ((s.fe fe).running = false ∨ (s.fe fe).needT = false ∨ (s.fe fe).needS = true ∨
      s.calPhase fe ≠ phWait) ∧ (s.calNext fe = false ∨ 16 ≤ s.calSlots)) ∧
    (∃ (s : State) (e : Nat) (last : Nat), s.f 0 F.CAL_CTL_ASTORE ≠ 0 ∧ s.boot.calEnd = some (e, last)) ∧
    (∃ (s : State), (s.f 0 F.CAL_CTL_ASTORE = 0 ∨ s.boot.calEnd = none)) :=
  ⟨⟨tCalChosen, by decide +kernel⟩,
   ⟨tCalChosen, 9, by decide +kernel⟩,
   ⟨tCalChosen, ({ fe := 9, side := .a, ofssR := 5, ofssF := -5, collections := [] }), by decide +kernel⟩,
   ⟨tUp, by decide +kernel⟩,
   ⟨tAged, 9, by decide +kernel⟩,
   ⟨tMasked, by delta State.Serves; decide +kernel⟩,
   ⟨tAborting, by delta State.Serves; decide +kernel⟩,
   ⟨tPendCal, 9, by decide +kernel⟩,
   ⟨(tPendCal.setF (feBase 9) F.CH_CAL_STAT_FAIL_B 1), 9, by decide +kernel⟩,
   ⟨tIdle, 3, by decide +kernel⟩,
   ⟨tUp, 9, by decide +kernel⟩,
   ⟨({ tUp.setF 0 F.CAL_CTL_ASTORE 6 with boot := { tUp.boot with calEnd := some (1000, 1000) } }), 1000, 1000, by decide +kernel⟩,
   ⟨(tAlmost.setF 0 F.CAL_CTL_ASTORE 0), by decide +kernel⟩⟩

/-- Witnesses of `SamplerCalibrationRunsItsCourse`. -/
theorem witness_SamplerCalibrationRunsItsCourse :
    (∃ (s : State) (fe : FrontEnd), s.calPhase fe = phOffset) ∧
    (∃ (s : State) (fe : FrontEnd), s.calPhase fe ≠ phOffset) ∧
    (∃ (s : State) (fe : FrontEnd) (counts : List Nat), (s.calPhase fe = phCollect ∨ s.calPhase fe = phTrim) ∧
      counts.length = 256 ∧ counts.sum = 65536 ∧ (s.fe fe).tested = false ∧ s.liveInTime fe = true) ∧
    (∃ (s : State) (fe : FrontEnd) (counts : List Nat), (s.calPhase fe = phCollect ∨ s.calPhase fe = phTrim) ∧
      counts.length = 256 ∧ counts.sum = 1048576 ∧ (s.fe fe).tested = true ∧ s.liveInTime fe = true) ∧
    (∃ (s : State) (fe : FrontEnd) (counts : List Nat), ((s.calPhase fe ≠ phCollect ∧ s.calPhase fe ≠ phTrim) ∨
      counts.length ≠ 256 ∨ s.liveInTime fe = false ∨ (counts.sum ≠ 65536 ∧ counts.sum ≠ 1048576) ∨ (counts.sum =
      65536 ∧ (s.fe fe).tested = true) ∨ (counts.sum = 1048576 ∧ (s.fe fe).tested = false))) ∧
    (∃ (s : State) (fe : FrontEnd), (s.fe fe).src = CalSrc.live ∧ (s.calPhase fe = phCollect ∨ s.calPhase fe =
      phTrim)) ∧
    (∃ (s : State) (fe : FrontEnd), ((s.fe fe).src = CalSrc.dither ∨ (s.calPhase fe ≠ phCollect ∧ s.calPhase fe ≠
      phTrim))) ∧
    (∃ (s : State) (fe : FrontEnd), s.calPhase fe = phOverlap) ∧
    (∃ (s : State) (fe : FrontEnd), s.calPhase fe ≠ phOverlap) ∧
    (∃ (s : State) (fe : FrontEnd), s.calPhase fe = phSwap ∧ (s.fe fe).tested = true ∧ ((s.feChannel fe).all fun n =>
      s.edgeGap n || s.closesNow n || !s.live n) = true) ∧
    (∃ (s : State) (fe : FrontEnd), (s.calPhase fe ≠ phSwap ∨ (s.fe fe).tested = false ∨ ((s.feChannel fe).any fun n
      => !s.edgeGap n && !s.closesNow n && s.live n) = true)) ∧
    (∃ (s : State) (fe : FrontEnd), s.calPhase fe = phSwap) ∧
    (∃ (s : State) (fe : FrontEnd), s.calPhase fe ≠ phSwap) :=
  ⟨⟨(tPhase 1), 9, by decide +kernel⟩,
   ⟨tUp, 9, by decide +kernel⟩,
   ⟨(tPhase 2), 9, (List.replicate 256 256), by decide +kernel⟩,
   ⟨((tPhase 2).modFe 9 (fun x => { x with tested := true })), 9, (List.replicate 256 4096), by decide +kernel⟩,
   ⟨(tPhase 2), 9, (List.replicate 256 4096), by decide +kernel⟩,
   ⟨((tPhase 2).modFe 9 (fun x => { x with src := .live })), 9, by decide +kernel⟩,
   ⟨(tPhase 2), 9, by decide +kernel⟩,
   ⟨(tPhase 4), 9, by decide +kernel⟩,
   ⟨((tPhase 5).modFe 9 (fun x => { x with starved := true })), 9, by decide +kernel⟩,
   ⟨((tPhaseOf 5 130).modFe 130 (fun x => { x with tested := true })), 130, by decide +kernel⟩,
   ⟨({ (((tPhaseOf 5 3).setF (chBase 3) F.CH_PIN_PARKED 0).setF (chBase 3 + 0x800) F.CH_CFG_EN 1) with chans := (tBlind.modChan 3 fun c => { c with lastAcc := some (1023000, { side := .a, spare := false, rising := true }, true) }).chans }), 3, by decide +kernel⟩,
   ⟨(tPhase 5), 9, by decide +kernel⟩,
   ⟨tUp, 9, by decide +kernel⟩⟩

/-- Witnesses of `ThresholdCalibrationAndTheSet`. -/
theorem witness_ThresholdCalibrationAndTheSet :
    (∃ (s : State) (fe : FrontEnd) (n : Ch), s.feChannel fe = some n ∧ s.idleRouteMay fe n = true) ∧
    (∃ (s : State) (fe : FrontEnd), ((s.feChannel fe).all fun n => !s.idleRouteMay fe n) = true) ∧
    (∃ (s : State) (fe : FrontEnd), s.calPhase fe = phThreshold ∧ (s.fe fe).slot = true ∧ (s.fe fe).idleRoute = false
      ∧ s.loanOf fe = none ∧ s.routeFree fe = true) ∧
    (∃ (s : State) (fe : FrontEnd), s.calPhase fe = phThreshold ∧ (s.fe fe).slot = true ∧ (s.fe fe).idleRoute = true) ∧
    (∃ (s : State) (fe : FrontEnd) (n : Ch), s.calPhase fe = phThreshold ∧ (s.fe fe).slot = true ∧ (s.fe fe).idleRoute
      = false ∧ s.loanOf fe = some n) ∧
    (∃ (s : State) (fe : FrontEnd), s.calPhase fe = phThreshold ∧ (s.fe fe).slot = true ∧ (s.fe fe).idleRoute = false
      ∧ s.loanOf fe = none ∧ s.routeFree fe = false ∧ (s.fe fe).running = true) ∧
    (∃ (s : State) (fe : FrontEnd), (s.calPhase fe ≠ phThreshold ∨ (s.fe fe).slot = false)) ∧
    (∃ (s : State) (path : Path), s.Serves ∧ s.Writes path ∧ s.Unlocked path) :=
  ⟨⟨(tIdle.setF (feBase 3) F.CH_CAL_CTL_NOLOAN 1), 3, 3, by decide +kernel⟩,
   ⟨tUp, 3, by decide +kernel⟩,
   ⟨((tPhase 6).modFe 9 (fun x => { x with slot := true, running := true, needT := true })), 9, by decide +kernel⟩,
   ⟨(((tIdle.setF (feBase 3) F.CH_CAL_CTL_NOLOAN 1).calIdle 3)), 3, by decide +kernel⟩,
   ⟨(tLoan 2), 3, 3, by decide +kernel⟩,
   ⟨(((tIdle.setPhase 3 6).modFe 3 fun x => { x with slot := true })), 3, by decide +kernel⟩,
   ⟨tUp, 9, by decide +kernel⟩,
   ⟨(tUnlocked.setF 0 F.CAL_VA_ADDR 772), .host, by delta State.Serves State.Writes State.Unlocked; dsimp only [lockOf]; decide +kernel⟩⟩

/-- Witnesses of `LinksTrainStepByStep`. -/
theorem witness_LinksTrainStepByStep :
    (∃ (s : State) (l : Link), s.lnkState l = lnkHeld) ∧
    (∃ (s : State) (l : Link), s.lnkState l ≠ lnkHeld) ∧
    (∃ (s : State) (l : Link), s.lnkState l = lnkDetect) ∧
    (∃ (s : State) (l : Link), s.lnkState l ≠ lnkDetect) ∧
    (∃ (s : State) (l : Link) (locked : BitVec 16), s.lnkState l = lnkLock ∧ s.minw l ≤ allLanes.countP (fun (k :
      Lane) => locked.getLsbD k.val)) ∧
    (∃ (s : State) (l : Link) (locked : BitVec 16), s.lnkState l = lnkLock ∧ allLanes.countP (fun (k : Lane) =>
      locked.getLsbD k.val) < s.minw l) ∧
    (∃ (s : State) (l : Link), s.lnkState l ≠ lnkLock) ∧
    (∃ (s : State) (l : Link) (nums : Vector (BitVec 4) 16), s.lnkState l = lnkAlign ∧ (∀ k : Lane, (s.link
      l).lanes[k].locked = true → nums[k].toNat = k.val)) ∧
    (∃ (s : State) (l : Link) (nums : Vector (BitVec 4) 16), s.lnkState l = lnkAlign ∧ (∀ k : Lane, (s.link
      l).lanes[k].locked = true → nums[k].toNat = 15 - k.val) ∧ (∃ k : Lane, (s.link l).lanes[k].locked = true)) ∧
    (∃ (s : State) (l : Link) (nums : Vector (BitVec 4) 16), s.lnkState l = lnkAlign ∧ (∃ k : Lane, (s.link
      l).lanes[k].locked = true ∧ nums[k].toNat ≠ k.val) ∧ (∃ k : Lane, (s.link l).lanes[k].locked = true ∧
      nums[k].toNat ≠ 15 - k.val)) ∧
    (∃ (s : State) (l : Link), s.lnkState l ≠ lnkAlign) ∧
    (∃ (s : State) (l : Link) (mask : BitVec 16), s.lnkState l = lnkParam ∧ s.minw l ≤ maskCount (s.agreed l mask) ∧
      (!(s.link l).fresh && (s.link l).leftAt.any fun (d : Nat) => decide (s.now < d + 10 * tkMs)) = true) ∧
    (∃ (s : State) (l : Link) (mask : BitVec 16) (keep : Bool), s.lnkState l = lnkParam ∧ s.minw l ≤ maskCount
      (s.agreed l mask) ∧ (keep && !(s.link l).fresh && (s.link l).leftAt.any fun (d : Nat) => decide (s.now < d + 10
      * tkMs)) = false) ∧
    (∃ (s : State) (l : Link) (mask : BitVec 16), s.lnkState l = lnkParam ∧ maskCount (s.agreed l mask) < s.minw l) ∧
    (∃ (s : State) (l : Link), s.lnkState l ≠ lnkParam) ∧
    (∃ (s : State) (l : Link), s.lnkState l = lnkAlign ∧ (s.link l).orderErr = true) ∧
    (∃ (s : State) (l : Link), (s.lnkState l ≠ lnkAlign ∨ (s.link l).orderErr = false)) :=
  ⟨⟨tBase, Link.host, by decide +kernel⟩,
   ⟨(tLnk lnkLock), Link.pattern, by decide +kernel⟩,
   ⟨((tLnk lnkDetect).setF (lnkBase .pattern) F.LNK_CFG_RATE 1), Link.pattern, by decide +kernel⟩,
   ⟨(tLnk lnkHeld), Link.pattern, by decide +kernel⟩,
   ⟨(tLnk lnkLock), Link.pattern, 0x8001#16, by decide +kernel⟩,
   ⟨(tLnk lnkLock), Link.pattern, 0#16, by decide +kernel⟩,
   ⟨(tLnk lnkDetect), Link.pattern, by decide +kernel⟩,
   ⟨(tLnk lnkAlign), Link.pattern, (Vector.ofFn (fun (i : Fin 16) => BitVec.ofNat 4 i.val)), by decide +kernel⟩,
   ⟨(tLnk lnkAlign), Link.pattern, (Vector.ofFn (fun (i : Fin 16) => BitVec.ofNat 4 (15 - i.val))), by decide +kernel⟩,
   ⟨(tLnk lnkAlign), Link.pattern, (Vector.replicate 16 3#4), by decide +kernel⟩,
   ⟨(tLnk lnkLock), Link.pattern, by decide +kernel⟩,
   ⟨(tLnkWith lnkParam (fun x => { x with leftAt := some 1000000, txSeq := 5#12, unacked := [uMsg 4] })), Link.pattern, 0xFFFE#16, by decide +kernel⟩,
   ⟨(tLnkWith lnkParam (fun x => { x with leftAt := some 1000000, txSeq := 5#12, unacked := [uMsg 4] })), Link.pattern, 0xFFFE#16, false, by decide +kernel⟩,
   ⟨(tLnkUp lnkParam), Link.pattern, 0#16, by decide +kernel⟩,
   ⟨(tLnk lnkAlign), Link.pattern, by decide +kernel⟩,
   ⟨((tLnk lnkAlign).modLink .pattern (fun x => { x with orderErr := true })), Link.pattern, by decide +kernel⟩,
   ⟨(tLnk lnkAlign), Link.pattern, by decide +kernel⟩⟩

/-- Witnesses of `LinksTakeTheirCommands`. -/
theorem witness_LinksTakeTheirCommands :
    (∃ (s : State) (l : Link), s.Serves ∧ s.lnkState l ≠ lnkHeld) ∧
    (∃ (s : State) (l : Link), s.Serves ∧ (s.lnkState l = lnkDisabled ∨ (s.lnkState l ≠ lnkHeld ∧ s.lnk l F.LNK_CFG_EN
      = 0))) ∧
    (∃ (s : State) (l : Link) (en : Bool), s.Serves ∧ (s.lnkState l = lnkHeld ∨ (s.lnkState l ≠ lnkDisabled ∧ en =
      true ∧ s.lnk l F.LNK_CFG_EN = 1))) ∧
    (∃ (s : State) (l : Link), s.Serves ∧ s.lnkState l ∉ [lnkDisabled, lnkHeld, lnkTest]) ∧
    (∃ (s : State) (l : Link), s.Serves ∧ s.lnkState l ∈ [lnkDisabled, lnkHeld, lnkTest]) ∧
    (∃ (s : State), s.Serves) ∧
    (∃ (s : State), s.Serves) ∧
    (∃ (s : State) (l : Link), s.Serves ∧ s.lnkState l ∉ [lnkDisabled, lnkHeld]) ∧
    (∃ (s : State) (l : Link), s.Serves ∧ s.lnkState l ∈ [lnkDisabled, lnkHeld]) ∧
    (∃ (s : State) (l : Link), s.Serves ∧ s.lnkState l = lnkTest) ∧
    (∃ (s : State) (l : Link), s.Serves ∧ s.lnkState l ≠ lnkTest) ∧
    (∃ (s : State), s.Serves) ∧
    (∃ (s : State) (l : Link), s.lnkState l = lnkEidle) ∧
    (∃ (s : State) (l : Link), s.lnkState l ≠ lnkEidle) ∧
    (∃ (s : State) (l : Link), s.lnkState l = lnkActive ∧ (s.minw l ≤ (List.range 16).countP (s.windowLane l) ∨
      ((List.range 16).all fun i => s.windowLane l i == (s.insvc l).testBit i) = true)) ∧
    (∃ (s : State) (l : Link), s.lnkState l = lnkActive ∧ (List.range 16).countP (s.windowLane l) < s.minw l ∧
      ((List.range 16).any fun i => s.windowLane l i != (s.insvc l).testBit i) = true) :=
  ⟨⟨(tLnkUp lnkActive), Link.pattern, by delta State.Serves; decide +kernel⟩,
   ⟨((tLnk lnkDisabled).setF (lnkBase .pattern) F.LNK_CFG_EN 0), Link.pattern, by delta State.Serves; decide +kernel⟩,
   ⟨(tLnk lnkHeld), Link.pattern, false, by delta State.Serves; decide +kernel⟩,
   ⟨(tLnkUp lnkActive), Link.pattern, by delta State.Serves; decide +kernel⟩,
   ⟨(tLnk lnkHeld), Link.pattern, by delta State.Serves; decide +kernel⟩,
   ⟨(tLnkUp lnkActive), by delta State.Serves; decide +kernel⟩,
   ⟨((tLnkUp lnkActive).setLnk .pattern (lstat F.LNK_LSTAT_RETIRED 3) 1), by delta State.Serves; decide +kernel⟩,
   ⟨(tLnkUp lnkActive), Link.pattern, by delta State.Serves; decide +kernel⟩,
   ⟨(tLnk lnkHeld), Link.pattern, by delta State.Serves; decide +kernel⟩,
   ⟨(tLnk lnkTest), Link.pattern, by delta State.Serves; decide +kernel⟩,
   ⟨(tLnkUp lnkActive), Link.pattern, by delta State.Serves; decide +kernel⟩,
   ⟨(((tLnkUp lnkActive).setPair (lnkBase .pattern + R.LNK_PRBS_H) 77).setPair (lnkBase .pattern + R.LNK_PRBS_H + 8) 78), by delta State.Serves; decide +kernel⟩,
   ⟨(tLnkUp lnkEidle), Link.pattern, by decide +kernel⟩,
   ⟨(((tLnkUp lnkActive).setLnk .pattern F.LNK_CFG_HOLD 9).setLnk .pattern F.LNK_LANES_EN 0xFFF0), Link.pattern, by decide +kernel⟩,
   ⟨((tLnkUp lnkActive).setLnk .pattern F.LNK_LANES_EN 0xFFF0), Link.pattern, by decide +kernel⟩,
   ⟨(((tLnkUp lnkActive).setLnk .pattern F.LNK_LANES_EN 0xFFF0).setLnk .pattern F.LNK_CFG_MINWM1 15), Link.pattern, by decide +kernel⟩⟩

/-- Witnesses of `FramesAreAcknowledgedOrRefused`. -/
theorem witness_FramesAreAcknowledgedOrRefused :
    (∃ (s : State) (l : Link), s.lnkState l ≠ lnkActive) ∧
    (∃ (s : State) (l : Link) (b : List Byte), s.lnkState l = lnkActive ∧ ¬ frameGood b) ∧
    (∃ (s : State) (l : Link) (ctl : Bool) (b : List Byte), s.lnkState l = lnkActive ∧ frameGood b ∧ (s.link
      l).discarding = true ∧ (frameType b = 0 ∨ ctl = false ∨ frameSeq b ≠ (s.link l).rxSeq)) ∧
    (∃ (s : State) (l : Link) (b : List Byte), s.lnkState l = lnkActive ∧ frameGood b ∧ (s.link l).discarding = false
      ∧ frameType b = 0) ∧
    (∃ (s : State) (ctl : Bool) (b : List Byte), s.lnkState .pattern = lnkActive ∧ frameGood b ∧ frameType b = 2 ∧
      frameSeq b = s.link1.rxSeq ∧ (s.link1.discarding = false ∨ ctl = true) ∧ frameCredits (b.length - 16) ≤
      s.link1.rxCred[2] ∧ rxOk s.link0.rx) ∧
    (∃ (s : State) (ctl : Bool) (b : List Byte), s.lnkState .pattern = lnkActive ∧ frameGood b ∧ frameType b = 3 ∧
      frameSeq b = s.link1.rxSeq ∧ (s.link1.discarding = false ∨ ctl = true) ∧ frameCredits (b.length - 16) ≤
      s.link1.rxCred[3] ∧ rxOk s.link0.rx) ∧
    (∃ (s : State) (ctl : Bool) (b : List Byte), s.lnkState .host = lnkActive ∧ frameGood b ∧ frameType b = 1 ∧
      frameSeq b = s.link0.rxSeq ∧ (s.link0.discarding = false ∨ ctl = true) ∧ frameCredits (b.length - 16) ≤
      s.link0.rxCred[1] ∧ rxOk (s.link0.rx ++ [RxFrame.mk FClass.reg (b.drop 16) (frameCredits (b.length - 16))])) ∧
    (∃ (s : State) (ctl : Bool) (b : List Byte), s.lnkState .host = lnkActive ∧ frameGood b ∧ frameType b = 1 ∧
      b.length = 24 ∧ frameSeq b = s.link0.rxSeq ∧ (s.link0.discarding = false ∨ ctl = true) ∧ 1 ≤ s.link0.rxCred[1] ∧
      s.link0.rx = [] ∧ badOp (ofBytesBE (b.drop 16)) = true) ∧
    (∃ (s : State) (l : Link) (ctl : Bool) (b : List Byte), s.lnkState l = lnkActive ∧ frameGood b ∧ frameType b ≠ 0 ∧
      (l = .host → frameType b ≠ 1) ∧ (l = .pattern → frameType b ≠ 2 ∧ frameType b ≠ 3) ∧ frameSeq b = (s.link
      l).rxSeq ∧ ((s.link l).discarding = false ∨ ctl = true)) ∧
    (∃ (s : State) (l : Link) (b : List Byte), s.lnkState l = lnkActive ∧ frameGood b ∧ frameType b ≠ 0 ∧ (s.link
      l).discarding = false ∧ frameSeq b ≠ (s.link l).rxSeq ∧ ((s.link l).rxSeq - frameSeq b).toNat ≤ 2048) ∧
    (∃ (s : State) (l : Link) (b : List Byte), s.lnkState l = lnkActive ∧ frameGood b ∧ frameType b ≠ 0 ∧ (s.link
      l).discarding = false ∧ 2048 < ((s.link l).rxSeq - frameSeq b).toNat) ∧
    (∃ (s : State) (l : Link) (ctl : Bool) (b : List Byte) (c : Fin 6), s.lnkState l = lnkActive ∧ frameGood b ∧
      frameType b = c.val ∧ ((l = .host ∧ c = 1) ∨ (l = .pattern ∧ (c = 2 ∨ c = 3))) ∧ ((s.link l).discarding = false
      ∨ ctl = true) ∧ frameSeq b = (s.link l).rxSeq ∧ (s.link l).rxCred[c] < frameCredits (b.length - 16)) ∧
    (∃ (s : State) (l : Link), (s.lnkState l ≠ lnkActive ∨ (s.link l).unacked = [])) ∧
    (∃ (s : State) (l : Link) (seq : BitVec 12), s.lnkState l = lnkActive ∧ ((s.link l).unacked.any fun (f : UFrame)
      => f.seq == seq) = true) ∧
    (∃ (s : State) (l : Link) (seq : BitVec 12), s.lnkState l = lnkActive ∧ (s.link l).unacked ≠ [] ∧ ((s.link
      l).unacked.any fun (f : UFrame) => f.seq == seq) = false) :=
  ⟨⟨(tLnk lnkParam), Link.pattern, by decide +kernel⟩,
   ⟨(tLnkUp lnkActive), Link.pattern, ([1#8, 2#8]), by delta frameGood; decide +kernel⟩,
   ⟨(tLnkWith lnkActive (fun x => { x with discarding := true, rxSeq := 6#12 })), Link.pattern, false, (bMsg 2 6), by delta frameGood; decide +kernel⟩,
   ⟨(tLnkWith lnkActive (fun x => { x with unacked := [uMsg 4, uMsg 5], txSeq := 6#12 })), Link.pattern, (frameBytes 0 0 4 true false false 7 2 []), by delta frameGood; decide +kernel⟩,
   ⟨(tLnkUp lnkActive), false, (bMsg 2 0), by delta frameGood rxOk; decide +kernel⟩,
   ⟨(tLnkUp lnkActive), false, (frameBytes 3 0 0 false false false 0 0 (List.replicate 16 0x10#8)), by delta frameGood rxOk; decide +kernel⟩,
   ⟨tHost, false, (bMsg 1 0), by delta frameGood rxOk; decide +kernel⟩,
   ⟨tHost, false, (frameBytes 1 0 0 false false false 0 0 (List.replicate 8 0x70#8)), by delta frameGood; decide +kernel⟩,
   ⟨(tLnkUp lnkActive), Link.pattern, false, (bMsg 5 0), by delta frameGood; decide +kernel⟩,
   ⟨(tLnkWith lnkActive (fun x => { x with rxSeq := 6#12 })), Link.pattern, (bMsg 2 5), by delta frameGood; decide +kernel⟩,
   ⟨(tLnkWith lnkActive (fun x => { x with rxSeq := 6#12 })), Link.pattern, (bMsg 2 2053), by delta frameGood; decide +kernel⟩,
   ⟨(tLnkWith lnkActive (fun x => { x with rxCred := Vector.replicate 6 0 })), Link.pattern, false, (bMsg 2 0), 2, by delta frameGood; decide +kernel⟩,
   ⟨(tLnkUp lnkActive), Link.pattern, by decide +kernel⟩,
   ⟨(tLnkWith lnkActive (fun x => { x with unacked := [uMsg 3, uMsg 4, uMsg 5], metas := [⟨1, 0, 0⟩, ⟨2, 5, 2⟩, ⟨3, 0, 0⟩], replays := 2 })), Link.pattern, 3#12, by decide +kernel⟩,
   ⟨(tLnkWith lnkActive (fun x => { x with unacked := [uMsg 3, uMsg 4, uMsg 5], metas := [⟨1, 0, 0⟩, ⟨2, 5, 2⟩, ⟨3, 0, 0⟩], replays := 3 })), Link.pattern, 2#12, by decide +kernel⟩⟩

/-- Witnesses of `FramesLeaveInTheirOrder`. -/
theorem witness_FramesLeaveInTheirOrder :
    (∃ (s : State) (l : Link), s.lnkState l ≠ lnkActive) ∧
    (∃ (s : State) (l : Link), s.lnkState l = lnkActive ∧ (s.link l).nakDue = true) ∧
    (∃ (s : State) (l : Link) (f : UFrame) (rest : List UFrame), s.lnkState l = lnkActive ∧ (s.link l).nakDue = false
      ∧ (s.link l).resend = f :: rest) ∧
    (∃ (s : State) (l : Link), s.lnkState l = lnkActive ∧ (s.link l).nakDue = false ∧ (s.link l).resend = []) ∧
    (∃ (s : State) (l : Link) (i : TxItem), s.lnkState l = lnkActive ∧ (s.link l).nakDue = false ∧ (s.link l).resend =
      [] ∧ (s.link l).tx = [i] ∧ i.cls = FClass.msg ∧ i.bytes.length ≤ 256 ∧ (s.link l).mayGo FClass.msg
      i.bytes.length = true ∧ i.since + s.holdTk l FClass.msg ≤ s.now) ∧
    (∃ (s : State) (l : Link), s.lnkState l = lnkActive ∧ (s.link l).nakDue = false ∧ (s.link l).resend = []) ∧
    (∃ (s : State) (l : Link), s.lnkState l = lnkActive ∧ (s.link l).nakDue = true) ∧
    (∃ (s : State) (l : Link) (f : UFrame) (rest : List UFrame), s.lnkState l = lnkActive ∧ (s.link l).nakDue = false
      ∧ (s.link l).resend = f :: rest) ∧
    (∃ (s : State) (l : Link), s.lnkState l ≠ lnkActive) ∧
    (∃ (s : State) (l : Link) (d : Nat), s.lnkState l = lnkActive ∧ (s.link l).ackAt = some d) ∧
    (∃ (s : State) (l : Link), (s.lnkState l ≠ lnkActive ∨ (s.link l).ackAt = none)) ∧
    (∃ (s : State) (l : Link) (d : Nat), s.lnkState l = lnkActive ∧ (s.link l).nakAt = some d ∧ ((s.link l).unacked =
      [] ∨ d ≤ (s.link l).oldestAt)) ∧
    (∃ (s : State) (l : Link), s.lnkState l = lnkActive ∧ (s.link l).unacked ≠ [] ∧ ((s.link l).nakAt.all fun (d :
      Nat) => decide ((s.link l).oldestAt < d)) = true) ∧
    (∃ (s : State) (l : Link), (s.lnkState l ≠ lnkActive ∨ ((s.link l).unacked = [] ∧ (s.link l).nakAt = none))) :=
  ⟨⟨(tLnkUp lnkEidle), Link.pattern, by decide +kernel⟩,
   ⟨(tLnkWith lnkActive (fun x => { x with nakDue := true, rxSeq := 9#12, rxAny := true, tx := [iMsg], credOwed := #v[0, 0, 5000, 0, 0, 0] })), Link.pattern, by decide +kernel⟩,
   ⟨(tLnkWith lnkActive (fun x => { x with resend := [uMsg 700, uMsg 701], tx := [iMsg], txSeq := 4095#12, credOwed := #v[0, 0, 5, 0, 0, 0] })), Link.pattern, (uMsg 700), ([uMsg 701]), by decide +kernel⟩,
   ⟨(tLnkWith lnkActive (fun x => { x with tx := [iMsg] })), Link.pattern, by decide +kernel⟩,
   ⟨(tLnkWith lnkActive (fun x => { x with tx := [iMsg] })), Link.pattern, iMsg, by decide +kernel⟩,
   ⟨((tLnkWith lnkActive (fun x => { x with tx := [iMsg] })).setF (forceBase + lnkBase .pattern) F.LNK_CFG_HOLD 100), Link.pattern, by decide +kernel⟩,
   ⟨(tLnkWith lnkActive (fun x => { x with nakDue := true, tx := [iMsg] })), Link.pattern, by decide +kernel⟩,
   ⟨(tLnkWith lnkActive (fun x => { x with resend := [uMsg 700, uMsg 701], tx := [iMsg] })), Link.pattern, (uMsg 700), ([uMsg 701]), by decide +kernel⟩,
   ⟨(tLnkUp lnkEidle), Link.pattern, by decide +kernel⟩,
   ⟨(tLnkWith lnkActive (fun x => { x with ackAt := some 1020000, rxSeq := 9#12, rxAny := true })), Link.pattern, 1020000, by decide +kernel⟩,
   ⟨(tLnkUp lnkActive), Link.pattern, by decide +kernel⟩,
   ⟨(tLnkWith lnkActive (fun x => { x with nakAt := some 1020000 })), Link.pattern, 1020000, by decide +kernel⟩,
   ⟨(tLnkWith lnkActive (fun x => { x with unacked := [uMsg 1, uMsg 2], metas := [⟨1, 0, 0⟩, ⟨2, 5, 2⟩], oldestAt := 1020000 })), Link.pattern, by decide +kernel⟩,
   ⟨(tLnkUp lnkActive), Link.pattern, by decide +kernel⟩⟩

/-- Witnesses of `LanesAdaptLeaveAndReturn`. -/
theorem witness_LanesAdaptLeaveAndReturn :
    (∃ (s : State) (l : Link), s.lnkState l = lnkActive ∧ s.lkA l.idx F.LNK_CFG_EIDLE = 1 ∧ (s.link l).tx = [] ∧
      (s.link l).resend = [] ∧ (s.link l).nakDue = false ∧ (s.link l).ackAt = none) ∧
    (∃ (s : State) (l : Link), (s.lnkState l ≠ lnkActive ∨ s.lkA l.idx F.LNK_CFG_EIDLE = 0 ∨ (s.link l).tx ≠ [] ∨
      (s.link l).resend ≠ [] ∨ (s.link l).nakDue = true ∨ (s.link l).ackAt ≠ none)) ∧
    (∃ (s : State) (l : Link) (relocked : BitVec 16), s.lnkState l = lnkEidle ∧ (s.link l).windowDue = false ∧ (∀ k :
      Lane, s.lnk l (lstat F.LNK_LSTAT_INSVC k) = 1 → relocked.getLsbD k.val = true)) ∧
    (∃ (s : State) (l : Link) (relocked : BitVec 16), s.lnkState l = lnkEidle ∧ (s.link l).windowDue = false ∧ (∃ k :
      Lane, s.lnk l (lstat F.LNK_LSTAT_INSVC k) = 1 ∧ relocked.getLsbD k.val = false)) ∧
    (∃ (s : State) (l : Link), s.lnkState l = lnkEidle ∧ (s.link l).windowDue = true) ∧
    (∃ (s : State) (l : Link), s.lnkState l ≠ lnkEidle) ∧
    (∃ (s : State) (l : Link) (k : Lane), s.lnkState l = lnkActive ∧ s.lnk l (lstat F.LNK_LSTAT_INSVC k) ≠ 0 ∧ s.lnk l
      (lstat F.LNK_LSTAT_FROZEN k) ≠ 1) ∧
    (∃ (s : State) (l : Link) (k : Lane), s.lnkState l = lnkActive ∧ s.lnk l (lstat F.LNK_LSTAT_INSVC k) ≠ 0) ∧
    (∃ (s : State) (l : Link) (k : Lane) (quiet : Bool), (s.lnkState l ≠ lnkActive ∨ s.lnk l (lstat F.LNK_LSTAT_INSVC
      k) = 0 ∨ (quiet = false ∧ s.lnk l (lstat F.LNK_LSTAT_FROZEN k) = 1))) ∧
    (∃ (s : State) (l : Link) (k : Lane), s.lnk l (lstat F.LNK_LSTAT_FROZEN k) ≠ 0) ∧
    (∃ (s : State) (l : Link) (k : Lane), s.lnk l (lstat F.LNK_LSTAT_FROZEN k) = 0) ∧
    (∃ (s : State) (l : Link) (k : Lane), (s.link l).lanes[k].fast = true) ∧
    (∃ (s : State) (l : Link) (k : Lane), (s.link l).lanes[k].fast = false) ∧
    (∃ (s : State) (l : Link) (k : Lane), s.lnkState l ∈ [lnkActive, lnkDegrade, lnkEidle] ∧ s.lnk l (lstat
      F.LNK_LSTAT_INSVC k) ≠ 0) ∧
    (∃ (s : State) (l : Link) (k : Lane), (s.lnkState l ∉ [lnkActive, lnkDegrade, lnkEidle] ∨ s.lnk l (lstat
      F.LNK_LSTAT_INSVC k) = 0)) ∧
    (∃ (s : State) (l : Link), (s.lnkState l = lnkActive ∨ s.lnkState l = lnkDegrade)) ∧
    (∃ (s : State) (l : Link), s.lnkState l ≠ lnkActive ∧ s.lnkState l ≠ lnkDegrade) ∧
    (∃ (s : State) (l : Link), s.lnkState l = lnkDegrade) ∧
    (∃ (s : State) (l : Link), s.lnkState l ≠ lnkDegrade) ∧
    (∃ (s : State) (l : Link), s.lnkState l = lnkDegrade) ∧
    (∃ (s : State) (l : Link), s.lnkState l ≠ lnkDegrade) ∧
    (∃ (s : State) (l : Link) (k : Lane), s.lnkState l = lnkActive ∧ s.lnk l (lstat F.LNK_LSTAT_RETIRED k) = 0 ∧ s.lnk
      l (lstat F.LNK_LSTAT_INSVC k) = 0) ∧
    (∃ (s : State) (l : Link) (k : Lane), (s.lnkState l ≠ lnkActive ∨ s.lnk l (lstat F.LNK_LSTAT_RETIRED k) ≠ 0 ∨
      s.lnk l (lstat F.LNK_LSTAT_INSVC k) ≠ 0)) :=
  ⟨⟨((tLnkUp lnkActive).setF (forceBase + lnkBase .pattern) F.LNK_CFG_EIDLE 1), Link.pattern, by decide +kernel⟩,
   ⟨(tLnkUp lnkActive), Link.pattern, by decide +kernel⟩,
   ⟨((tLnkUp lnkEidle).setLnk .pattern F.LNK_STAT_RATE_ACT 1), Link.pattern, 0xFFFF#16, by decide +kernel⟩,
   ⟨(tLnkUp lnkEidle), Link.pattern, 0xFF7E#16, by decide +kernel⟩,
   ⟨((tLnkWith lnkEidle fun x => { x with windowDue := true }).setLnk .pattern F.LNK_LANES_EN 0xFFF0), Link.pattern, by decide +kernel⟩,
   ⟨(tLnkUp lnkActive), Link.pattern, by decide +kernel⟩,
   ⟨(tLnkUp lnkActive), Link.pattern, 3, by decide +kernel⟩,
   ⟨(tLnkUp lnkActive), Link.pattern, 3, by decide +kernel⟩,
   ⟨((tLnkUp lnkActive).setLnk .pattern (lstat F.LNK_LSTAT_FROZEN 3) 1), Link.pattern, 3, false, by decide +kernel⟩,
   ⟨((tLnkUp lnkActive).setLnk .pattern (lstat F.LNK_LSTAT_FROZEN 3) 1), Link.pattern, 3, by decide +kernel⟩,
   ⟨(tLnkUp lnkActive), Link.pattern, 3, by decide +kernel⟩,
   ⟨(tLnkWith lnkActive (fun x => x.modLane 3 fun y => { y with fast := true, taps := [6, -6, 0, 1, 2, 3] })), Link.pattern, 3, by decide +kernel⟩,
   ⟨(tLnkUp lnkActive), Link.pattern, 3, by decide +kernel⟩,
   ⟨(tLnkUp lnkActive), Link.pattern, 5, by decide +kernel⟩,
   ⟨(tLnk lnkDetect), Link.pattern, 5, by decide +kernel⟩,
   ⟨(tLnkUp lnkActive), Link.pattern, by decide +kernel⟩,
   ⟨(tLnk lnkDetect), Link.pattern, by decide +kernel⟩,
   ⟨(tLnkWith lnkDegrade (fun x => { x with proposed := 0xFFDF#16 })), Link.pattern, by decide +kernel⟩,
   ⟨(tLnkUp lnkActive), Link.pattern, by decide +kernel⟩,
   ⟨(tLnkWith lnkDegrade (fun x => { x with degradeBy := 1030000 })), Link.pattern, by decide +kernel⟩,
   ⟨(tLnkUp lnkActive), Link.pattern, by decide +kernel⟩,
   ⟨((tLnkUp lnkActive).setInsvc .pattern 0xFFDF), Link.pattern, 5, by decide +kernel⟩,
   ⟨((tLnkUp lnkActive).setLnk .pattern (lstat F.LNK_LSTAT_RETIRED 5) 1), Link.pattern, 5, by decide +kernel⟩⟩

/-- Witnesses of `RegisterRequestsRunInOrder`. -/
theorem witness_RegisterRequestsRunInOrder :
    (∃ (s : State) (count : BitVec 6) (be : BitVec 4) (r : List RxFrame) (c : Nat), s.classStalls .host .reg = false ∧
      takeRx .reg 8 s.link0.rx = (r, c) ∧ rxOk r ∧ (62 < count.toNat + 1 ∨ (count = 0#6 ∧ be ∉ [0xF#4, 0x3#4, 0xC#4,
      1#4, 2#4, 4#4, 8#4, 6#4]) ∨ (count ≠ 0#6 ∧ be ≠ 0xF#4))) ∧
    (∃ (s : State) (tag : BitVec 12) (count : BitVec 6) (be : BitVec 4) (step : BitVec 2) (addr : BitVec 24) (d :
      RegDone) (u : State), s.classStalls .host .reg = false ∧
      ({ op := 1#4, tag := tag, count := count, be := be, step := step, addr := addr, data := [] } : RegMsg).bad =
      false ∧ (s.takeContent .host .reg 8).regReads be step.toNat (count.toNat + 1) addr.toNat
      { done := 0, data := [], status := 0, faddr := 0 } = (d, u)) ∧
    (∃ (s : State) (count : BitVec 6) (be : BitVec 4) (r : List RxFrame) (c : Nat), s.classStalls .host .reg = false ∧
      takeRx .reg (12 + 4 * count.toNat) s.link0.rx = (r, c) ∧ rxOk r ∧ (62 < count.toNat + 1 ∨ (count = 0#6 ∧ be ∉
      [0xF#4, 0x3#4, 0xC#4, 1#4, 2#4, 4#4, 8#4, 6#4]) ∨ (count ≠ 0#6 ∧ be ≠ 0xF#4))) ∧
    (∃ (s : State) (tag : BitVec 12) (count : BitVec 6) (be : BitVec 4) (step : BitVec 2) (addr : BitVec 24) (data :
      List Word) (d : RegDone) (u : State), s.classStalls .host .reg = false ∧
      ({ op := 2#4, tag := tag, count := count, be := be, step := step, addr := addr, data := data } : RegMsg).bad =
      false ∧ (s.takeContent .host .reg (12 + 4 * count.toNat)).regWrites be step.toNat (data.take (count.toNat + 1))
      addr.toNat { done := 0, data := [], status := 0, faddr := 0 } = (d, u)) ∧
    (∃ (s : State) (count : BitVec 6) (be : BitVec 4) (r : List RxFrame) (c : Nat), s.classStalls .host .reg = false ∧
      takeRx .reg (12 + 4 * count.toNat) s.link0.rx = (r, c) ∧ rxOk r ∧ (62 < count.toNat + 1 ∨ (count = 0#6 ∧ be ∉
      [0xF#4, 0x3#4, 0xC#4, 1#4, 2#4, 4#4, 8#4, 6#4]) ∨ (count ≠ 0#6 ∧ be ≠ 0xF#4))) ∧
    (∃ (s : State) (tag : BitVec 12) (count : BitVec 6) (be : BitVec 4) (step : BitVec 2) (addr : BitVec 24) (data :
      List Word) (d : RegDone) (u : State), s.classStalls .host .reg = false ∧
      ({ op := 3#4, tag := tag, count := count, be := be, step := step, addr := addr, data := data } : RegMsg).bad =
      false ∧ (s.takeContent .host .reg (12 + 4 * count.toNat)).regWrites be step.toNat (data.take (count.toNat + 1))
      addr.toNat { done := 0, data := [], status := 0, faddr := 0 } = (d, u)) ∧
    (∃ (s : State) (count : BitVec 6) (be : BitVec 4) (r : List RxFrame) (c : Nat), s.classStalls .host .reg = false ∧
      takeRx .reg 8 s.link0.rx = (r, c) ∧ rxOk r ∧ (62 < count.toNat + 1 ∨ (count = 0#6 ∧ be ∉ [0xF#4, 0x3#4, 0xC#4,
      1#4, 2#4, 4#4, 8#4, 6#4]) ∨ (count ≠ 0#6 ∧ be ≠ 0xF#4) ∨ count ≠ 0#6)) ∧
    (∃ (s : State) (tag : BitVec 12) (count : BitVec 6) (be : BitVec 4) (step : BitVec 2) (addr : BitVec 24) (d :
      RegDone) (u : State), s.classStalls .host .reg = false ∧ s.tvB 0 F.DEV_MODE_DIRECT_EN = true ∧
      ({ op := 4#4, tag := tag, count := count, be := be, step := step, addr := addr, data := [] } : RegMsg).bad =
      false ∧ (s.takeContent .host .reg 8).regReads be step.toNat (count.toNat + 1) addr.toNat
      { done := 0, data := [], status := 0, faddr := 0 } = (d, u)) ∧
    (∃ (s : State) (count : BitVec 6) (be : BitVec 4) (r : List RxFrame) (c : Nat), s.classStalls .host .reg = false ∧
      takeRx .reg (12 + 4 * count.toNat) s.link0.rx = (r, c) ∧ rxOk r ∧ (62 < count.toNat + 1 ∨ (count = 0#6 ∧ be ∉
      [0xF#4, 0x3#4, 0xC#4, 1#4, 2#4, 4#4, 8#4, 6#4]) ∨ (count ≠ 0#6 ∧ be ≠ 0xF#4) ∨ count ≠ 0#6)) ∧
    (∃ (s : State) (tag : BitVec 12) (count : BitVec 6) (be : BitVec 4) (step : BitVec 2) (addr : BitVec 24) (data :
      List Word) (d : RegDone) (u : State), s.classStalls .host .reg = false ∧ s.tvB 0 F.DEV_MODE_DIRECT_EN = true ∧
      ({ op := 5#4, tag := tag, count := count, be := be, step := step, addr := addr, data := data } : RegMsg).bad =
      false ∧ (s.takeContent .host .reg (12 + 4 * count.toNat)).regWrites be step.toNat (data.take (count.toNat + 1))
      addr.toNat { done := 0, data := [], status := 0, faddr := 0 } = (d, u)) ∧
    (∃ (s : State) (addr : BitVec 24) (g : Fin 16) (j : Fin 4) (r : List RxFrame) (c : Nat), s.classStalls .host .reg
      = false ∧ takeRx .reg 8 s.link0.rx = (r, c) ∧ rxOk r ∧ addr.toNat = R.UG_MASK + 0x20 * g.val + 4 * j.val) ∧
    (∃ (s : State) (addr : BitVec 24) (g : Fin 16) (j : Fin 3) (r : List RxFrame) (c : Nat), s.classStalls .host .reg
      = false ∧ takeRx .reg 8 s.link0.rx = (r, c) ∧ rxOk r ∧ addr.toNat = R.UG_MASK + 0x20 * g.val + 4 * j.val) ∧
    (∃ (s : State) (be : BitVec 4) (addr : BitVec 24) (r : List RxFrame) (c : Nat), s.classStalls .host .reg = false ∧
      takeRx .reg 8 s.link0.rx = (r, c) ∧ rxOk r ∧ be ∈ [0xF#4, 0x3#4, 0xC#4, 1#4, 2#4, 4#4, 8#4] ∧ addr.toNat % 4 ≠
      0) ∧
    (∃ (s : State) (addr : BitVec 24) (g : Fin 16) (j : Fin 4) (r : List RxFrame) (c : Nat), s.Serves ∧ s.classStalls
      .host .reg = false ∧ takeRx .reg 12 s.link0.rx = (r, c) ∧ rxOk r ∧ addr.toNat = R.UG_MASK + 0x20 * g.val + 4 *
      j.val) ∧
    (∃ (s : State) (addr : BitVec 24) (r : List RxFrame) (c : Nat), addr.toNat = R.TB_SRC ∧ s.armed 0 = false ∧
      s.classStalls .host .reg = false ∧ takeRx .reg 12 s.link0.rx = (r, c) ∧ rxOk r ∧ s.od.mailbox = none) ∧
    (∃ (s : State) (addr : BitVec 24) (g : Fin 16) (j : Fin 4) (r : List RxFrame) (c : Nat), s.Serves ∧ s.classStalls
      .host .reg = false ∧ takeRx .reg 12 s.link0.rx = (r, c) ∧ rxOk r ∧ addr.toNat = R.UG_MASK + 0x20 * g.val + 4 *
      j.val) ∧
    (∃ (s : State) (addr : BitVec 24) (g : Fin 16) (j : Fin 4) (r : List RxFrame) (c : Nat), s.tvB 0
      F.DEV_MODE_DIRECT_EN = true ∧ s.classStalls .host .reg = false ∧ takeRx .reg 8 s.link0.rx = (r, c) ∧ rxOk r ∧
      addr.toNat = R.UG_MASK + 0x20 * g.val + 4 * j.val) ∧
    (∃ (s : State) (be : BitVec 4) (r : List RxFrame) (c : Nat), s.tvB 0 F.DEV_MODE_DIRECT_EN = false ∧ be ∈ [0xF#4,
      0x3#4, 0xC#4, 1#4, 2#4, 4#4, 8#4, 6#4] ∧ s.classStalls .host .reg = false ∧ takeRx .reg 8 s.link0.rx = (r, c) ∧
      rxOk r) ∧
    (∃ (s : State) (be : BitVec 4) (r : List RxFrame) (c : Nat), s.tvB 0 F.DEV_MODE_DIRECT_EN = false ∧ be ∈ [0xF#4,
      0x3#4, 0xC#4, 1#4, 2#4, 4#4, 8#4, 6#4] ∧ s.classStalls .host .reg = false ∧ takeRx .reg 12 s.link0.rx = (r, c) ∧
      rxOk r) ∧
    (∃ (s : State) (addr : BitVec 24) (g : Fin 16) (j : Fin 4) (r : List RxFrame) (c : Nat), s.Serves ∧ s.tvB 0
      F.DEV_MODE_DIRECT_EN = true ∧ s.classStalls .host .reg = false ∧ takeRx .reg 12 s.link0.rx = (r, c) ∧ rxOk r ∧
      addr.toNat = R.UG_MASK + 0x20 * g.val + 4 * j.val) :=
  ⟨⟨(tReq 8), 62#6, 0xF#4, [], 1, by delta rxOk; decide +kernel⟩,
   ⟨(tReq 8), 7#12, 0#6, 0xF#4, 0#2, 0x52C#24, ((((tReq 8).takeContent .host .reg 8).regReads 0xF#4 0 1 0x52C { done := 0, data := [], status := 0, faddr := 0 }).1), ((((tReq 8).takeContent .host .reg 8).regReads 0xF#4 0 1 0x52C { done := 0, data := [], status := 0, faddr := 0 }).2), by decide +kernel⟩,
   ⟨(tReq 260), 62#6, 0xF#4, [], 1, by delta rxOk; decide +kernel⟩,
   ⟨(tReq 12), 7#12, 0#6, 0xF#4, 0#2, 0x52C#24, [9#32], ((((tReq 12).takeContent .host .reg 12).regWrites 0xF#4 0 [9#32] 0x52C { done := 0, data := [], status := 0, faddr := 0 }).1), ((((tReq 12).takeContent .host .reg 12).regWrites 0xF#4 0 [9#32] 0x52C { done := 0, data := [], status := 0, faddr := 0 }).2), by decide +kernel⟩,
   ⟨(tReq 260), 62#6, 0xF#4, [], 1, by delta rxOk; decide +kernel⟩,
   ⟨(tReq 12), 7#12, 0#6, 0xF#4, 0#2, 0x52C#24, [9#32], ((((tReq 12).takeContent .host .reg 12).regWrites 0xF#4 0 [9#32] 0x52C { done := 0, data := [], status := 0, faddr := 0 }).1), ((((tReq 12).takeContent .host .reg 12).regWrites 0xF#4 0 [9#32] 0x52C { done := 0, data := [], status := 0, faddr := 0 }).2), by decide +kernel⟩,
   ⟨(tReq 8), 62#6, 0xF#4, [], 1, by delta rxOk; decide +kernel⟩,
   ⟨((tReq 8).setTv R.DEV_MODE 0xFFFFFFFF#32), 7#12, 0#6, 0xF#4, 0#2, 0x52C#24, (((((tReq 8).setTv R.DEV_MODE 0xFFFFFFFF#32).takeContent .host .reg 8).regReads 0xF#4 0 1 0x52C { done := 0, data := [], status := 0, faddr := 0 }).1), (((((tReq 8).setTv R.DEV_MODE 0xFFFFFFFF#32).takeContent .host .reg 8).regReads 0xF#4 0 1 0x52C { done := 0, data := [], status := 0, faddr := 0 }).2), by decide +kernel⟩,
   ⟨(tReq 260), 62#6, 0xF#4, [], 1, by delta rxOk; decide +kernel⟩,
   ⟨((tReq 12).setTv R.DEV_MODE 0xFFFFFFFF#32), 7#12, 0#6, 0xF#4, 0#2, 0x52C#24, [9#32], (((((tReq 12).setTv R.DEV_MODE 0xFFFFFFFF#32).takeContent .host .reg 12).regWrites 0xF#4 0 [9#32] 0x52C { done := 0, data := [], status := 0, faddr := 0 }).1), (((((tReq 12).setTv R.DEV_MODE 0xFFFFFFFF#32).takeContent .host .reg 12).regWrites 0xF#4 0 [9#32] 0x52C { done := 0, data := [], status := 0, faddr := 0 }).2), by decide +kernel⟩,
   ⟨((tReq 8).setW (R.UG_MASK + 0x2C) 0x1234#32), 0x52C#24, 1, 3, [], 1, by delta rxOk; decide +kernel⟩,
   ⟨((tReq 8).setW (R.UG_MASK + 0x28) 0x1234#32), 0x528#24, 1, 2, [], 1, by delta rxOk; decide +kernel⟩,
   ⟨(tReq 8), 0xC#4, 0x501#24, [], 1, by delta rxOk; decide +kernel⟩,
   ⟨(tReq 12), 0x52C#24, 1, 3, [], 1, by delta State.Serves rxOk; decide +kernel⟩,
   ⟨(tReq 12), (BitVec.ofNat 24 R.TB_SRC), [], 1, by delta rxOk; decide +kernel⟩,
   ⟨(tReq 12), 0x52C#24, 1, 3, [], 1, by delta State.Serves rxOk; decide +kernel⟩,
   ⟨((tReq 8).setTv R.DEV_MODE 0xFFFFFFFF#32), 0x52C#24, 1, 3, [], 1, by delta rxOk; decide +kernel⟩,
   ⟨((tReq 8).setTv R.DEV_MODE 0#32), 0xC#4, [], 1, by delta rxOk; decide +kernel⟩,
   ⟨((tReq 12).setTv R.DEV_MODE 0#32), 0xC#4, [], 1, by delta rxOk; decide +kernel⟩,
   ⟨((tReq 12).setTv R.DEV_MODE 0xFFFFFFFF#32), 0x52C#24, 1, 3, [], 1, by delta State.Serves rxOk; decide +kernel⟩⟩

/-- Witnesses of `EthernetForwardsAndDrops`. -/
theorem witness_EthernetForwardsAndDrops :
    (∃ (s : State) (p : Port) (f : EthFrame), (s.portUp p = false ∨ ethAccepted f.bytes = false ∨ (ethType f.bytes).1
      = 0x8808 ∨ s.uldDst f.bytes = some s.nodeId ∨ (s.p2p = true ∧ isPdelay f.bytes = true))) ∧
    (∃ (s : State) (p : Port) (f : EthFrame), s.portUp p = true ∧ ethAccepted f.bytes = true ∧ (ethType f.bytes).1 ≠
      0x8808 ∧ s.uldDst f.bytes ≠ some s.nodeId ∧ (s.fb 0 F.NET_CFG_TC_EN = false ∨ ptpClass f.bytes = PtpClass.notPtp
      ∨ ptpClass f.bytes = PtpClass.general)) ∧
    (∃ (s : State) (p : Port) (f : EthFrame), s.portUp p = true ∧ ethAccepted f.bytes = true ∧ (ethType f.bytes).1 ≠
      0x8808 ∧ s.uldDst f.bytes ≠ some s.nodeId ∧ s.fb 0 F.NET_CFG_TC_EN = true ∧ ptpClass f.bytes =
      PtpClass.uncorrected) ∧
    (∃ (s : State) (p : Port) (f : EthFrame) (m : Nat) (off : Nat) (cs : Option Nat), s.portUp p = true ∧ ethAccepted
      f.bytes = true ∧ (ethType f.bytes).1 ≠ 0x8808 ∧ s.uldDst f.bytes ≠ some s.nodeId ∧ ptpClass f.bytes =
      PtpClass.event m off cs ∧ s.fb 0 F.NET_CFG_TC_EN = true ∧ s.fb 0 F.NET_CFG_TC_P2P = false) ∧
    (∃ (s : State) (p : Port) (f : EthFrame) (m : Nat) (off : Nat) (cs : Option Nat), s.portUp p = true ∧ ethAccepted
      f.bytes = true ∧ (ethType f.bytes).1 ≠ 0x8808 ∧ s.uldDst f.bytes ≠ some s.nodeId ∧ ptpClass f.bytes =
      PtpClass.event m off cs ∧ s.p2p = true ∧ m ≠ 2 ∧ m ≠ 3 ∧ m ≠ 10) ∧
    (∃ (s : State) (p : Port), s.boot.eth = true ∧ s.fb 0 (portEn p) = true) ∧
    (∃ (s : State) (p : Port), (s.boot.eth = false ∨ s.fb 0 (portEn p) = false)) ∧
    (∃ (s : State), s.Serves) ∧
    (∃ (s : State), s.Serves) ∧
    (∃ (s : State), s.Serves) :=
  ⟨⟨tUp, Port.e0, fPlain, by decide +kernel⟩,
   ⟨tNet, Port.e0, fPlain, by decide +kernel⟩,
   ⟨tNet, Port.e0, fOld, by decide +kernel⟩,
   ⟨tNet, Port.e0, fSync, 0, 14, none, by decide +kernel⟩,
   ⟨tP2p, Port.e0, fSync, 0, 14, none, by decide +kernel⟩,
   ⟨(tNet.setF 0 F.NET_STAT_LINK1 0), Port.e1, by decide +kernel⟩,
   ⟨tReleased, Port.e1, by decide +kernel⟩,
   ⟨(tNetBusy 2), by delta State.Serves; decide +kernel⟩,
   ⟨(tNetBusy 2), by delta State.Serves; decide +kernel⟩,
   ⟨(tNet.setF 0 F.NET_STAT_BYPASS 1), by delta State.Serves; decide +kernel⟩⟩

/-- Witnesses of `DelaysAreMeasured`. -/
theorem witness_DelaysAreMeasured :
    (∃ (s : State) (p : Port), s.p2p = true ∧ s.portUp p = true) ∧
    (∃ (s : State) (p : Port), (s.p2p = false ∨ s.portUp p = false)) ∧
    (∃ (s : State) (p : Port), s.p2p = true ∧ s.portUp p = true) ∧
    (∃ (s : State) (p : Port), (s.p2p = false ∨ s.portUp p = false)) ∧
    (∃ (s : State) (p : Port) (seq : BitVec 16), s.p2p = true ∧ s.portUp p = true ∧ (s.port p).pdOpen = true ∧ seq =
      (s.port p).pdSeq - 1#16) ∧
    (∃ (s : State) (p : Port) (seq : BitVec 16) (d : Dom) (c : Check) (mp : DomMap), s.p2p = true ∧ s.portUp p = true
      ∧ (s.port p).pdOpen = true ∧ seq = (s.port p).pdSeq - 1#16 ∧ (s.dom d).check = some c ∧ c.port = p ∧ s.dm d
      F.PTP_CFG_P2P = 1 ∧ s.domMap d = some mp ∧ (∀ e : Dom, e ≠ d → (s.dom e).check = none)) ∧
    (∃ (s : State) (p : Port) (seq : BitVec 16), (s.p2p = false ∨ s.portUp p = false ∨ (s.port p).pdOpen = false ∨ seq
      ≠ (s.port p).pdSeq - 1#16)) ∧
    (∃ (s : State) (d : Dom) (m : MasterData), s.domState d ≠ domDisabled ∧ s.dm d F.PTP_CFG_P2P = 0 ∧ (s.dom
      d).selected = some m) ∧
    (∃ (s : State) (d : Dom), (s.domState d = domDisabled ∨ s.dm d F.PTP_CFG_P2P = 1 ∨ (s.dom d).selected = none)) ∧
    (∃ (s : State) (d : Dom), s.domState d ≠ domDisabled ∧ s.dm d F.PTP_CFG_P2P = 0 ∧ (s.dom d).check = none) ∧
    (∃ (s : State) (d : Dom) (c : Check) (mp : DomMap), s.domState d ≠ domDisabled ∧ s.dm d F.PTP_CFG_P2P = 0 ∧ (s.dom
      d).check = some c ∧ s.domMap d = some mp) ∧
    (∃ (s : State) (d : Dom) (c : Check), s.domState d ≠ domDisabled ∧ s.dm d F.PTP_CFG_P2P = 0 ∧ (s.dom d).check =
      some c ∧ s.domMap d = none) ∧
    (∃ (s : State) (d : Dom), (s.domState d = domDisabled ∨ s.dm d F.PTP_CFG_P2P = 1)) :=
  ⟨⟨tP2p, Port.e0, by decide +kernel⟩,
   ⟨tNet, Port.e0, by decide +kernel⟩,
   ⟨tP2p, Port.e0, by decide +kernel⟩,
   ⟨tNet, Port.e0, by decide +kernel⟩,
   ⟨(tP2p.setPort .e0 { PortSt.reset with pdSeq := 5#16, pdOpen := true }), Port.e0, 4#16, by decide +kernel⟩,
   ⟨tPdCheck, Port.e0, 4#16, 2, cOne, ({ anchor := 1024000, s := 104857600, rate := 0, era := 3#16 }), by decide +kernel⟩,
   ⟨(tP2p.setPort .e0 { PortSt.reset with pdSeq := 5#16, pdOpen := true }), Port.e0, 3#16, by decide +kernel⟩,
   ⟨(tDomOn domSlave 0 id), 2, mOne, by decide +kernel⟩,
   ⟨(tDom domListening 0), 2, by decide +kernel⟩,
   ⟨(tDomOn domSlave 0 id), 2, by decide +kernel⟩,
   ⟨(tDomOn domHoldover hrCheck (fun x => { x with check := some cOne, before := 3 })), 2, cOne, ({ anchor := 1024000, s := 104857600, rate := 0, era := 3#16 }), by decide +kernel⟩,
   ⟨((tDom domHoldover hrCheck).modDom 2 (fun x => { x with check := some cOne })), 2, cOne, by decide +kernel⟩,
   ⟨tUp, 2, by decide +kernel⟩⟩

/-- Witnesses of `DomainsFollowTheirMaster`. -/
theorem witness_DomainsFollowTheirMaster :
    (∃ (s : State), s.Serves) ∧
    (∃ (s : State) (d : Dom) (p : Port) (m : MasterData) (iv : Nat), s.domState d ≠ domDisabled ∧ s.listens d p = true
      ∧ bestMaster s.now (heard s.now m iv (s.dom d).masters) = none) ∧
    (∃ (s : State) (d : Dom) (p : Port) (m : MasterData) (b : MasterData) (iv : Nat), s.domState d ≠ domDisabled ∧
      s.listens d p = true ∧ bestMaster s.now (heard s.now m iv (s.dom d).masters) = some b ∧ (∀ o ∈ (s.dom
      d).selected, o.id = b.id)) ∧
    (∃ (s : State) (d : Dom) (p : Port) (m : MasterData) (b : MasterData) (o : MasterData) (iv : Nat), s.domState d ≠
      domDisabled ∧ s.listens d p = true ∧ bestMaster s.now (heard s.now m iv (s.dom d).masters) = some b ∧ (s.dom
      d).selected = some o ∧ o.id ≠ b.id) ∧
    (∃ (s : State) (d : Dom) (p : Port), (s.domState d = domDisabled ∨ s.listens d p = false)) ∧
    (∃ (s : State) (d : Dom) (p : Port) (id : BitVec 64), (s.domState d = domDisabled ∨ s.listens d p = false ∨ (∀ m ∈
      (s.dom d).selected, m.id ≠ id) ∨ s.mpdOf d p = none)) ∧
    (∃ (s : State) (d : Dom) (p : Port) (m : MasterData) (mpd : Int), s.domState d ≠ domDisabled ∧ s.listens d p =
      true ∧ (s.dom d).selected = some m ∧ s.mpdOf d p = some mpd ∧ s.domMap d = none) ∧
    (∃ (s : State) (d : Dom) (p : Port) (m : MasterData) (mp : DomMap) (t1 : Int) (mpd : Int), s.domState d ≠
      domDisabled ∧ s.listens d p = true ∧ (s.dom d).selected = some m ∧ s.mpdOf d p = some mpd ∧ s.domMap d = some mp
      ∧ (s.dom d).pend = none ∧ s.near d (s.syncOffset d mp t1 mpd) = true) ∧
    (∃ (s : State) (d : Dom) (p : Port) (m : MasterData) (mp : DomMap) (t1 : Int) (mpd : Int), s.domState d ≠
      domDisabled ∧ s.listens d p = true ∧ (s.dom d).selected = some m ∧ s.mpdOf d p = some mpd ∧ s.domMap d = some mp
      ∧ (s.dom d).pend = none ∧ s.near d (s.syncOffset d mp t1 mpd) = false) ∧
    (∃ (s : State) (d : Dom) (p : Port) (m : MasterData) (mp : DomMap) (q : PendSt) (mpd : Int), s.domState d ≠
      domDisabled ∧ s.listens d p = true ∧ (s.dom d).selected = some m ∧ s.mpdOf d p = some mpd ∧ s.domMap d = some mp
      ∧ (s.dom d).pend = some q) ∧
    (∃ (s : State) (d : Dom) (m : MasterData), (s.dom d).selected = some m) ∧
    (∃ (s : State) (d : Dom), (s.dom d).selected = none) ∧
    (∃ (s : State) (d : Dom) (lost : Nat), (s.dom d).lostAt = some lost ∧ s.domState d = domHoldover) ∧
    (∃ (s : State) (d : Dom), (s.domState d ≠ domHoldover ∨ (s.dom d).lostAt = none)) ∧
    (∃ (s : State) (d : Dom) (c : Check) (mp : DomMap), (s.dom d).check = some c ∧ s.domMap d = some mp) ∧
    (∃ (s : State) (d : Dom) (c : Check), (s.dom d).check = some c ∧ s.domMap d = none) ∧
    (∃ (s : State) (d : Dom), (s.dom d).check = none) :=
  ⟨⟨tUp, by delta State.Serves; decide +kernel⟩,
   ⟨(tDom domListening 0), 2, Port.e0, mOne, 640, by decide +kernel⟩,
   ⟨((tDom domListening 0).modDom 2 (fun x => { x with masters := [{ data := mOne, last := 1021440, before := none, interval := 640 }] })), 2, Port.e0, mOne, mOne, 640, by decide +kernel⟩,
   ⟨(tTwoMasters id), 2, Port.e0, mTwo, mTwo, mOne, 640, by decide +kernel⟩,
   ⟨(tDom domListening 0), 2, Port.e1, by decide +kernel⟩,
   ⟨(tDomOn domSlave 0 id), 2, Port.e0, 0x78#64, by decide +kernel⟩,
   ⟨((tDom domListening 0).modDom 2 (fun x => { x with selected := some mOne })), 2, Port.e0, mOne, 0, by decide +kernel⟩,
   ⟨(tDomOn domSlave 0 id), 2, Port.e0, mOne, ({ anchor := 1024000, s := 104857600, rate := 0, era := 3#16 }), 104857600, 0, by decide +kernel⟩,
   ⟨(tDomOn domSlave 0 id), 2, Port.e0, mOne, ({ anchor := 1024000, s := 104857600, rate := 0, era := 3#16 }), 204857600000, 0, by decide +kernel⟩,
   ⟨(tDomPend (some (5, 65536000000000))), 2, Port.e0, mOne, ({ anchor := 1024000, s := 104857600, rate := 0, era := 3#16 }), ({ sum := -65536000000, count := 1 }), 0, by decide +kernel⟩,
   ⟨(tDomOn domSlave 0 id), 2, mOne, by decide +kernel⟩,
   ⟨(tDom domListening 0), 2, by decide +kernel⟩,
   ⟨(tDomOn domHoldover hrMaster (fun x => { x with lostAt := some 1000000 })), 2, 1000000, by decide +kernel⟩,
   ⟨(tDom domListening 0), 2, by decide +kernel⟩,
   ⟨(tDomOn domHoldover hrCheck (fun x => { x with check := some cOne })), 2, cOne, ({ anchor := 1024000, s := 104857600, rate := 0, era := 3#16 }), by decide +kernel⟩,
   ⟨((tDom domHoldover hrCheck).modDom 2 (fun x => { x with check := some cOne })), 2, cOne, by decide +kernel⟩,
   ⟨(tDom domListening 0), 2, by decide +kernel⟩⟩

/-- Witnesses of `StepsWaitForTheirCommand`. -/
theorem witness_StepsWaitForTheirCommand :
    (∃ (s : State) (d : Dom) (mp : DomMap), s.Serves ∧ s.pending? d = true ∧ (s.dom d).accepted = none ∧ s.domMap d =
      some mp) ∧
    (∃ (s : State) (d : Dom), s.Serves ∧ s.pending? d = true ∧ (s.dom d).accepted = none ∧ s.domMap d = none) ∧
    (∃ (s : State) (d : Dom), s.Serves ∧ (s.pending? d = false ∨ (s.dom d).accepted.isSome = true)) ∧
    (∃ (s : State) (d : Dom), s.Serves ∧ s.pending? d = true) ∧
    (∃ (s : State) (d : Dom), s.Serves ∧ s.pending? d = false) ∧
    (∃ (s : State) (d : Dom), s.Serves ∧ s.pending? d = true) ∧
    (∃ (s : State) (d : Dom), s.Serves ∧ s.pending? d = false) ∧
    (∃ (s : State) (d : Dom) (mp : DomMap) (v : Int) (sec : Int), (s.dom d).accepted = some (v, sec) ∧ s.domMap d =
      some mp) ∧
    (∃ (s : State) (d : Dom), ((s.dom d).accepted = none ∨ s.domMap d = none)) :=
  ⟨⟨(tDomPend none), 2, ({ anchor := 1024000, s := 104857600, rate := 0, era := 3#16 }), by delta State.Serves; decide +kernel⟩,
   ⟨((tDom domHoldover hrStep).setDm 2 F.PTP_STAT_PEND 1), 2, by delta State.Serves; decide +kernel⟩,
   ⟨(tDomOn domSlave 0 id), 2, by delta State.Serves; decide +kernel⟩,
   ⟨(tDomPend none), 2, by delta State.Serves; decide +kernel⟩,
   ⟨(tDomOn domSlave 0 id), 2, by delta State.Serves; decide +kernel⟩,
   ⟨(tDomPend none), 2, by delta State.Serves; decide +kernel⟩,
   ⟨(tDomOn domSlave 0 id), 2, by delta State.Serves; decide +kernel⟩,
   ⟨(tDomPend (some (65536000000, 65536000000000))), 2, ({ anchor := 1024000, s := 104857600, rate := 0, era := 3#16 }), 65536000000, 65536000000000, by decide +kernel⟩,
   ⟨(tDomOn domSlave 0 id), 2, by decide +kernel⟩⟩

/-- Witnesses of `EntriesAreReadAndWritten`. -/
theorem witness_EntriesAreReadAndWritten :
    (∃ (s : State) (index : BitVec 16) (sub : Byte) (e : OdEntry) (tg : Tgt), s.OdOpen true index.toNat ∧ odFind
      index.toNat sub.toNat = .ok (e, tg) ∧ e.acc ≠ .wo ∧ tg.many = false ∧ s.odLen index.toNat e tg ≤ 1024) ∧
    (∃ (s : State) (index : BitVec 16) (sub : Byte) (st : Nat), s.OdOpen true index.toNat ∧ odFind index.toNat
      sub.toNat = .error st) ∧
    (∃ (s : State) (index : BitVec 16) (sub : Byte) (e : OdEntry) (tg : Tgt), s.OdOpen true index.toNat ∧ odFind
      index.toNat sub.toNat = .ok (e, tg) ∧ (e.acc = .wo ∨ tg.many = true ∨ 1024 < s.odLen index.toNat e tg)) ∧
    (∃ (s : State) (index : BitVec 16), s.indigo.serving = true ∧ ¬s.OdOpen true index.toNat) ∧
    (∃ (s : State), s.indigo.serving = false) ∧
    (∃ (s : State) (src : OdSrc), s.OdServes ∧ s.cfgDone = true ∧ s.txnOf src = none) ∧
    (∃ (s : State) (src : OdSrc) (index : BitVec 16) (sub : Byte) (st : Nat), s.OdOpen false index.toNat ∧ s.txnOf src
      = none ∧ odFind index.toNat sub.toNat = .error st) ∧
    (∃ (s : State) (src : OdSrc) (index : BitVec 16) (sub : Byte) (data : List Byte) (e : OdEntry) (tg : Tgt),
      s.OdOpen false index.toNat ∧ s.txnOf src = none ∧ odFind index.toNat sub.toNat = .ok (e, tg) ∧ (e.acc = .ro ∨
      index = 0x3030#16 ∨ ∃ n ∈ e.len, data.length ≠ n ∨ 1024 < n)) ∧
    (∃ (s : State) (src : OdSrc) (index : BitVec 16) (sub : Byte) (data : List Byte) (e : OdEntry) (tg : Tgt),
      s.OdOpen false index.toNat ∧ s.txnOf src = none ∧ odFind index.toNat sub.toNat = .ok (e, tg) ∧ e.acc ≠ .ro ∧
      index ≠ 0x3030#16 ∧ (∀ n ∈ e.len, data.length = n ∧ n ≤ 1024)) ∧
    (∃ (s : State) (n : BitVec 16) (data : List Byte), s.OdServes ∧ s.txnOf (.node n) = none ∧ data.length = 4 ∧
      (s.tvB 0 F.PRT_LOCK_FN_LOCK = true ∨ s.fuses.weMask.getLsbD 2 = false)) ∧
    (∃ (s : State) (src : OdSrc) (index : BitVec 16) (x : Txn), s.OdOpen false index.toNat ∧ s.txnOf src = some x) ∧
    (∃ (s : State) (index : BitVec 16), s.indigo.serving = true ∧ ¬s.OdOpen false index.toNat) ∧
    (∃ (s : State), s.indigo.serving = false) ∧
    (∃ (s : State), s.indigo.serving = true) ∧
    (∃ (s : State), s.indigo.serving = false) :=
  ⟨⟨tUp, 0x8042#16, 0#8, (odReg .rw R.NET_NODE), (Tgt.idx 0), by delta State.OdOpen; decide +kernel⟩,
   ⟨tUp, 0x8043#16, 0#8, 2, by delta State.OdOpen; decide +kernel⟩,
   ⟨tUp, 0x2204#16, 1#8, (odU32 .wo (.upTo 4) (.reg (dmBase 0 + R.PTP_CMD) 0x40)), (Tgt.idx 1), by delta State.OdOpen; decide +kernel⟩,
   ⟨tAlmost, 0x8042#16, by delta State.OdOpen; decide +kernel⟩,
   ⟨tReleased, by decide +kernel⟩,
   ⟨tUp, (OdSrc.node 5), by delta State.OdServes; decide +kernel⟩,
   ⟨tUp, (OdSrc.node 5), 0x8043#16, 0#8, 2, by delta State.OdOpen; decide +kernel⟩,
   ⟨tUp, (OdSrc.node 5), 0x9011#16, 0#8, [1#8], (odReg .ro R.PRT_STAT), (Tgt.idx 0), by delta State.OdOpen; decide +kernel⟩,
   ⟨tUp, (OdSrc.node 5), 0x8042#16, 0#8, ([1#8, 2#8, 3#8, 4#8]), (odReg .rw R.NET_NODE), (Tgt.idx 0), by delta State.OdOpen; decide +kernel⟩,
   ⟨tUp.setFnLock, 5#16, ([0#8, 0#8, 0#8, 1#8]), by delta State.OdServes; decide +kernel⟩,
   ⟨(tTxn xTxn), (OdSrc.node 5), 0x8042#16, xTxn, by delta State.OdOpen; decide +kernel⟩,
   ⟨tAlmost, 0x8042#16, by delta State.OdOpen; decide +kernel⟩,
   ⟨tReleased, by decide +kernel⟩,
   ⟨tBase, by decide +kernel⟩,
   ⟨tReleased, by decide +kernel⟩⟩

/-- Witnesses of `SegmentsFollowTheirSession`. -/
theorem witness_SegmentsFollowTheirSession :
    (∃ (s : State) (src : OdSrc) (index : BitVec 16) (sub : Byte) (e : OdEntry) (tg : Tgt) (c : State), s.OdOpen true
      index.toNat ∧ odListed index.toNat = some true ∧ odFind index.toNat sub.toNat = .ok (e, tg) ∧ e.acc ≠ .wo ∧
      tg.many = false ∧ c = s.closeSession src index sub) ∧
    (∃ (s : State) (src : OdSrc), s.OdServes ∧ (s.closeSession src 0x3030#16 0#8).od.room 222976 = true) ∧
    (∃ (s : State) (src : OdSrc) (index : BitVec 16) (sub : Byte) (off : Word) (e : OdEntry) (tg : Tgt) (x : Session),
      s.OdOpen true index.toNat ∧ odListed index.toNat = some true ∧ odFind index.toNat sub.toNat = .ok (e, tg) ∧
      e.acc ≠ .wo ∧ tg.many = false ∧ off ≠ 0#32 ∧ s.od.sessions.find? (fun (y : Session) => y.on src index sub &&
      !y.write) = some x) ∧
    (∃ (s : State) (src : OdSrc) (index : BitVec 16) (sub : Byte) (off : Word) (e : OdEntry) (tg : Tgt), s.OdOpen true
      index.toNat ∧ odListed index.toNat = some true ∧ odFind index.toNat sub.toNat = .ok (e, tg) ∧ e.acc ≠ .wo ∧
      tg.many = false ∧ off ≠ 0#32 ∧ s.od.sessions.find? (fun (y : Session) => y.on src index sub && !y.write) = none) ∧
    (∃ (s : State) (index : BitVec 16) (sub : Byte) (e : OdEntry) (tg : Tgt), s.OdOpen true index.toNat ∧ odListed
      index.toNat ≠ some false ∧ odFind index.toNat sub.toNat = .ok (e, tg) ∧ (e.acc = .wo ∨ tg.many = true)) ∧
    (∃ (s : State) (index : BitVec 16) (sub : Byte) (st : Nat), s.OdOpen true index.toNat ∧ odListed index.toNat ≠
      some false ∧ odFind index.toNat sub.toNat = .error st) ∧
    (∃ (s : State) (index : BitVec 16), s.OdOpen true index.toNat ∧ odListed index.toNat = some false) ∧
    (∃ (s : State) (index : BitVec 16), s.indigo.serving = true ∧ ¬s.OdOpen true index.toNat) ∧
    (∃ (s : State), s.indigo.serving = false) ∧
    (∃ (s : State) (src : OdSrc) (index : BitVec 16) (sub : Byte) (off : Word) (e : OdEntry) (tg : Tgt), s.OdOpen
      false index.toNat ∧ s.txnOf src = none ∧ odListed index.toNat = some true ∧ odFind index.toNat sub.toNat = .ok
      (e, tg) ∧ e.acc ≠ .ro ∧ (off = 0#32 → (s.closeSession src index sub).od.room (e.len.getD 0) = true)) ∧
    (∃ (s : State) (src : OdSrc) (data : List Byte), s.OdServes ∧ s.txnOf src = none ∧ data ≠ [] ∧ (s.closeSession src
      0x1040#16 0#8).od.room 0 = true) ∧
    (∃ (s : State) (src : OdSrc) (x : Session) (off : Word) (data : List Byte), s.OdServes ∧ s.txnOf src = none ∧ data
      ≠ [] ∧ off ≠ 0#32 ∧ s.od.sessions.find? (fun (y : Session) => y.on src 0x1040#16 0#8 && y.write) = some x ∧
      off.toNat = x.data.length) ∧
    (∃ (s : State) (src : OdSrc) (index : BitVec 16) (sub : Byte) (off : Word) (e : OdEntry) (tg : Tgt), s.OdOpen
      false index.toNat ∧ s.txnOf src = none ∧ odListed index.toNat = some true ∧ odFind index.toNat sub.toNat = .ok
      (e, tg) ∧ e.acc ≠ .ro ∧ off ≠ 0#32 ∧ (∀ x ∈ s.od.sessions.find? (fun (y : Session) => y.on src index sub &&
      y.write), off.toNat ≠ x.data.length)) ∧
    (∃ (s : State) (src : OdSrc) (index : BitVec 16) (sub : Byte) (e : OdEntry) (tg : Tgt), s.OdOpen false index.toNat
      ∧ s.txnOf src = none ∧ odListed index.toNat = some true ∧ odFind index.toNat sub.toNat = .ok (e, tg) ∧ e.acc ≠
      .ro ∧ (s.closeSession src index sub).od.room (e.len.getD 0) = false) ∧
    (∃ (s : State) (src : OdSrc) (index : BitVec 16) (x : Txn), s.OdOpen false index.toNat ∧ s.txnOf src = some x ∧
      odListed index.toNat ≠ some false) ∧
    (∃ (s : State) (src : OdSrc) (index : BitVec 16) (sub : Byte) (e : OdEntry) (tg : Tgt), s.OdOpen false index.toNat
      ∧ s.txnOf src = none ∧ odListed index.toNat ≠ some false ∧ odFind index.toNat sub.toNat = .ok (e, tg) ∧ e.acc =
      .ro) ∧
    (∃ (s : State) (src : OdSrc) (index : BitVec 16) (sub : Byte) (st : Nat), s.OdOpen false index.toNat ∧ s.txnOf src
      = none ∧ odListed index.toNat ≠ some false ∧ odFind index.toNat sub.toNat = .error st) ∧
    (∃ (s : State) (index : BitVec 16), s.OdOpen false index.toNat ∧ odListed index.toNat = some false) ∧
    (∃ (s : State) (index : BitVec 16), s.indigo.serving = true ∧ ¬s.OdOpen false index.toNat) ∧
    (∃ (s : State), s.indigo.serving = false) ∧
    (∃ (s : State) (k : Nat) (x : Session), s.od.sessions[k]? = some x) ∧
    (∃ (s : State) (k : Nat), s.od.sessions.length ≤ k) :=
  ⟨⟨tSessions, (OdSrc.node 5), 0x3030#16, 0#8, (odBlob .guarded (some 222976) (.upTo 1) .native), (Tgt.idx 0), (tSessions.closeSession (OdSrc.node 5) 0x3030#16 0#8), by delta State.OdOpen; decide +kernel⟩,
   ⟨tSessions, (OdSrc.node 5), by delta State.OdServes; decide +kernel⟩,
   ⟨tSessions, (OdSrc.node 5), 0x3030#16, 0#8, 1020#32, (odBlob .guarded (some 222976) (.upTo 1) .native), (Tgt.idx 0), xRead, by delta State.OdOpen; decide +kernel⟩,
   ⟨tUp, (OdSrc.node 5), 0x3030#16, 0#8, 1020#32, (odBlob .guarded (some 222976) (.upTo 1) .native), (Tgt.idx 0), by delta State.OdOpen; decide +kernel⟩,
   ⟨tUp, 0x7101#16, 0#8, (odBlob .wo (some 32) .all .native), (Tgt.idx 0), by delta State.OdOpen; decide +kernel⟩,
   ⟨tUp, 0x8043#16, 0#8, 2, by delta State.OdOpen; decide +kernel⟩,
   ⟨tUp, 0x8042#16, by delta State.OdOpen; decide +kernel⟩,
   ⟨tAlmost, 0x3030#16, by delta State.OdOpen; decide +kernel⟩,
   ⟨tReleased, by decide +kernel⟩,
   ⟨tSessions, (OdSrc.node 5), 0x1040#16, 0#8, 2#32, (odBlob .wo none (.upTo 1) .native), (Tgt.idx 0), by delta State.OdOpen; decide +kernel⟩,
   ⟨tSessions, (OdSrc.node 5), [9#8], by delta State.OdServes; decide +kernel⟩,
   ⟨tSessions, (OdSrc.node 5), xWrite, 2#32, [9#8], by delta State.OdServes; decide +kernel⟩,
   ⟨tSessions, (OdSrc.node 5), 0x1040#16, 0#8, 3#32, (odBlob .wo none (.upTo 1) .native), (Tgt.idx 0), by delta State.OdOpen; decide +kernel⟩,
   ⟨(tUp.modOd (fun o => { o with sessions := (List.range 8).map (fun k => { xWrite with src := .node (BitVec.ofNat 16 k) }) })), (OdSrc.node 9), 0x1040#16, 0#8, (odBlob .wo none (.upTo 1) .native), (Tgt.idx 0), by delta State.OdOpen; decide +kernel⟩,
   ⟨(tTxn xTxn), (OdSrc.node 5), 0x1040#16, xTxn, by delta State.OdOpen; decide +kernel⟩,
   ⟨tUp, (OdSrc.node 5), 0x1007#16, 0#8, (odBlob .ro (some 20) (.upTo 1) .native), (Tgt.idx 0), by delta State.OdOpen; decide +kernel⟩,
   ⟨tUp, (OdSrc.node 5), 0x8043#16, 0#8, 2, by delta State.OdOpen; decide +kernel⟩,
   ⟨tUp, 0x8042#16, by delta State.OdOpen; decide +kernel⟩,
   ⟨tAlmost, 0x3030#16, by delta State.OdOpen; decide +kernel⟩,
   ⟨tReleased, by decide +kernel⟩,
   ⟨tSessions, 1, xRead, by decide +kernel⟩,
   ⟨tSessions, 2, by decide +kernel⟩⟩

/-- Witnesses of `TransactionsCommitAsAWhole`. -/
theorem witness_TransactionsCommitAsAWhole :
    (∃ (s : State) (src : OdSrc), s.indigo.serving = true ∧ s.ready = true ∧ s.txnOf src = none ∧ s.od.txns.length <
      2) ∧
    (∃ (s : State) (src : OdSrc), s.indigo.serving = true ∧ s.ready = true ∧ ((s.txnOf src).isSome = true ∨ 2 ≤
      s.od.txns.length)) ∧
    (∃ (s : State), s.indigo.serving = true ∧ s.ready = false) ∧
    (∃ (s : State), s.indigo.serving = false) ∧
    (∃ (s : State) (src : OdSrc) (xid : BitVec 16), s.indigo.serving = true ∧ s.ready = true ∧ (∀ x ∈ s.txnOf src,
      x.xid ≠ xid)) ∧
    (∃ (s : State) (src : OdSrc) (x : Txn) (check : Word), s.indigo.serving = true ∧ s.ready = true ∧ s.txnOf src =
      some x ∧ crc32 x.stream ≠ check) ∧
    (∃ (s : State) (src : OdSrc) (x : Txn) (st : Nat), s.indigo.serving = true ∧ s.ready = true ∧ s.txnOf src = some x
      ∧ x.failed = some st) ∧
    (∃ (s : State) (src : OdSrc) (x : Txn) (ws : List StagedWrite), s.indigo.serving = true ∧ s.ready = true ∧ s.txnOf
      src = some x ∧ x.failed = none ∧ ws = (stagedWrites x.cmds).1) ∧
    (∃ (s : State) (n : BitVec 16) (x : Txn) (b0 : Byte) (b1 : Byte) (b2 : Byte) (b3 : Byte), s.OdServes ∧ s.cfgDone =
      true ∧ s.txnOf (.node n) = some x ∧ x.failed = none ∧ x.cmds = [OdCmd.mk 2#8 0x8042#16 0#8 [b0, b1, b2, b3]]) ∧
    (∃ (s : State), s.indigo.serving = true ∧ s.ready = false) ∧
    (∃ (s : State), s.indigo.serving = false) ∧
    (∃ (s : State) (src : OdSrc) (x : Txn), s.indigo.serving = true ∧ s.ready = true ∧ s.txnOf src = some x) ∧
    (∃ (s : State) (src : OdSrc) (xid : BitVec 16), s.indigo.serving = true ∧ s.ready = true ∧ (∀ x ∈ s.txnOf src,
      x.xid ≠ xid)) ∧
    (∃ (s : State), s.indigo.serving = true ∧ s.ready = false) ∧
    (∃ (s : State), s.indigo.serving = false) ∧
    (∃ (s : State) (src : OdSrc) (x : Txn), s.txnOf src = some x) ∧
    (∃ (s : State) (src : OdSrc), s.txnOf src = none) :=
  ⟨⟨(tTxn xTxn), (OdSrc.mailbox .host), by decide +kernel⟩,
   ⟨(tTxn xTxn), (OdSrc.node 5), by decide +kernel⟩,
   ⟨tAlmost, by decide +kernel⟩,
   ⟨tReleased, by decide +kernel⟩,
   ⟨tUp, (OdSrc.node 5), 7#16, by decide +kernel⟩,
   ⟨(tTxn xTxn), (OdSrc.node 5), xTxn, 0#32, by decide +kernel⟩,
   ⟨(tTxn { xTxn with failed := some 6 }), (OdSrc.node 5), ({ xTxn with failed := some 6 }), 6, by decide +kernel⟩,
   ⟨(tTxn xTxn), (OdSrc.node 5), xTxn, ((stagedWrites xTxn.cmds).1), by decide +kernel⟩,
   ⟨(tTxn xTxn), 5#16, xTxn, 0#8, 0#8, 0#8, 9#8, by delta State.OdServes; decide +kernel⟩,
   ⟨tAlmost, by decide +kernel⟩,
   ⟨tReleased, by decide +kernel⟩,
   ⟨(tTxn xTxn), (OdSrc.node 5), xTxn, by decide +kernel⟩,
   ⟨(tTxn xTxn), (OdSrc.node 5), 8#16, by decide +kernel⟩,
   ⟨tAlmost, by decide +kernel⟩,
   ⟨tReleased, by decide +kernel⟩,
   ⟨(tTxn xTxn), (OdSrc.node 5), xTxn, by decide +kernel⟩,
   ⟨(tTxn xTxn), (OdSrc.node 6), by decide +kernel⟩⟩

/-- Witnesses of `FramesAndMailboxesAreAnswered`. -/
theorem witness_FramesAndMailboxesAreAnswered :
    (∃ (s : State) (p : Port) (f : EthFrame), (s.portUp p = false ∨ ethAccepted f.bytes = false ∨ s.uldDst f.bytes =
      none ∨ ∀ d ∈ s.uldDst f.bytes, s.dstHere d = none)) ∧
    (∃ (s : State) (p : Port) (f : EthFrame) (d : Nat) (alone : Bool), s.portUp p = true ∧ ethAccepted f.bytes = true
      ∧ s.uldDst f.bytes = some d ∧ s.dstHere d = some alone ∧ (f.fcsOk = false ∨ s.boot.responder = false ∨
      s.indigo.serving = false ∨ parseUld (f.bytes.drop (ethType f.bytes).2) = none ∨ ∀ q ∈ parseUld (f.bytes.drop
      (ethType f.bytes).2), 0xFF00 ≤ q.src)) ∧
    (∃ (s : State) (p : Port) (f : EthFrame) (d : Nat) (alone : Bool) (q : UldReq) (c : State) (r : List Byte ×
      State), s.portUp p = true ∧ ethAccepted f.bytes = true ∧ s.uldDst f.bytes = some d ∧ s.dstHere d = some alone ∧
      f.fcsOk = true ∧ s.boot.responder = true ∧ s.indigo.serving = true ∧ parseUld (f.bytes.drop (ethType f.bytes).2)
      = some q ∧ q.src < 0xFF00 ∧ s.keptFor (.node (BitVec.ofNat 16 q.src)) q.tid = none ∧ c = s.count R.NET_ULDRX_H 1
      ∧ r = State.odCmds (.node (BitVec.ofNat 16 q.src)) false q.cmds c) ∧
    (∃ (s : State) (p : Port) (f : EthFrame) (d : Nat) (q : UldReq), s.portUp p = true ∧ ethAccepted f.bytes = true ∧
      s.uldDst f.bytes = some d ∧ s.dstHere d = some true ∧ f.fcsOk = true ∧ s.boot.responder = true ∧
      s.indigo.serving = true ∧ parseUld (f.bytes.drop (ethType f.bytes).2) = some q ∧ q.src < 0xFF00 ∧ q.cmds =
      [OdCmd.mk 6#8 0#16 0#8 []] ∧ s.keptFor (.node (BitVec.ofNat 16 q.src)) q.tid = none) ∧
    (∃ (s : State) (p : Port) (f : EthFrame) (d : Nat) (alone : Bool) (q : UldReq) (kp : Kept), s.portUp p = true ∧
      ethAccepted f.bytes = true ∧ s.uldDst f.bytes = some d ∧ s.dstHere d = some alone ∧ f.fcsOk = true ∧
      s.boot.responder = true ∧ s.indigo.serving = true ∧ parseUld (f.bytes.drop (ethType f.bytes).2) = some q ∧ q.src
      < 0xFF00 ∧ s.keptFor (.node (BitVec.ofNat 16 q.src)) q.tid = some kp) ∧
    (∃ (s : State) (p : Path), s.Writes p ∧ s.od.mailbox = none ∧ s.fb 0 F.DEV_ODM_CTL_BUSY = false ∧ s.indigo.serving
      = false) ∧
    (∃ (s : State) (p : Path), s.Writes p ∧ (s.od.mailbox = none ∨ s.indigo.serving = false) ∧ s.fb 0
      F.DEV_ODM_CTL_BUSY = true) ∧
    (∃ (s : State) (p : Path), s.Writes p ∧ s.od.mailbox = none ∧ s.fb 0 F.DEV_ODM_CTL_BUSY = false ∧ s.indigo.serving
      = true ∧ parseUld s.mailboxBytes = none) ∧
    (∃ (s : State) (p : Path) (q : UldReq) (c : State) (r : List Byte × State), s.Writes p ∧ s.od.mailbox = none ∧
      s.fb 0 F.DEV_ODM_CTL_BUSY = false ∧ s.indigo.serving = true ∧ parseUld s.mailboxBytes = some q ∧ s.keptFor
      (.mailbox p) q.tid = none ∧ c = (s.setF 0 F.DEV_ODM_CTL_BUSY 1).modPath p (fun x => { x with resp := 0 }) ∧ r =
      State.odCmds (.mailbox p) false q.cmds c) ∧
    (∃ (s : State) (p : Path) (q : UldReq) (kp : Kept), s.Writes p ∧ s.od.mailbox = none ∧ s.fb 0 F.DEV_ODM_CTL_BUSY =
      false ∧ s.indigo.serving = true ∧ parseUld s.mailboxBytes = some q ∧ s.keptFor (.mailbox p) q.tid = some kp) ∧
    (∃ (s : State) (p : Path) (q : UldReq), s.Writes p ∧ s.Serves ∧ s.fb 0 F.DEV_ODM_CTL_BUSY = false ∧
      s.indigo.serving = true ∧ parseUld s.mailboxBytes = some q ∧ q.cmds = [OdCmd.mk 6#8 0#16 0#8 []] ∧ s.keptFor
      (.mailbox p) q.tid = none) :=
  ⟨⟨tNode, Port.e0, fPlain, by decide +kernel⟩,
   ⟨tNode, Port.e0, ({ fIdent with fcsOk := false }), 0x40, true, by decide +kernel⟩,
   ⟨tNode, Port.e0, fIdent, 0x40, true, (qIdent 0x40), (tNode.count R.NET_ULDRX_H 1), (State.odCmds (.node 5) false (qIdent 0x40).cmds (tNode.count R.NET_ULDRX_H 1)), by decide +kernel⟩,
   ⟨tNode, Port.e0, fIdent, 0x40, (qIdent 0x40), by decide +kernel⟩,
   ⟨(tNode.modOd (fun o => { o with kept := [{ src := .node 5, tid := 9, resp := [1#8], at_ := 1000000 }] })), Port.e0, fIdent, 0x40, true, (qIdent 0x40), ({ src := .node 5, tid := 9, resp := [1#8], at_ := 1000000 }), by decide +kernel⟩,
   ⟨({ tMail with indigo := { tMail.indigo with serving := false } }), Path.host, by delta State.Writes; decide +kernel⟩,
   ⟨(tMail.setF 0 F.DEV_ODM_CTL_BUSY 1), Path.host, by delta State.Writes; decide +kernel⟩,
   ⟨tUp, Path.host, by delta State.Writes; decide +kernel⟩,
   ⟨tMail, Path.host, (qIdent 0), ((tMail.setF 0 F.DEV_ODM_CTL_BUSY 1).modPath .host (fun x => { x with resp := 0 })), (State.odCmds (.mailbox .host) false (qIdent 0).cmds ((tMail.setF 0 F.DEV_ODM_CTL_BUSY 1).modPath .host (fun x => { x with resp := 0 }))), by delta State.Writes; decide +kernel⟩,
   ⟨(tMail.modOd (fun o => { o with kept := [{ src := .mailbox .host, tid := 9, resp := [1#8, 2#8, 3#8, 4#8], at_ := 1000000 }] })), Path.host, (qIdent 0), ({ src := .mailbox .host, tid := 9, resp := [1#8, 2#8, 3#8, 4#8], at_ := 1000000 }), by delta State.Writes; decide +kernel⟩,
   ⟨tMail, Path.host, (qIdent 0), by delta State.Serves State.Writes; decide +kernel⟩⟩

/-- Witnesses of `AccessesFollowTheRegisterRules`. -/
theorem witness_AccessesFollowTheRegisterRules :
    (∃ (s : State) (p : Path) (addr : BitVec 24) (g : Fin 16) (j : Fin 4), s.Serves ∧ s.Writes p ∧ addr.toNat =
      R.UG_MASK + 0x20 * g.val + 4 * j.val) ∧
    (∃ (s : State) (p : Path) (addr : BitVec 24) (g : Fin 16) (j : Fin 4), s.Serves ∧ s.Writes p ∧ s.staged? p
      addr.toNat = none ∧ addr.toNat = R.UG_MASK + 0x20 * g.val + 4 * j.val) ∧
    (∃ (s : State) (p : Path), s.Serves ∧ s.Writes p) ∧
    (∃ (s : State) (p : Path) (addr : BitVec 24) (be : BitVec 4) (w : Word) (r : RegRow), s.od.mailbox = none ∧
      s.Writes p ∧ beAligned addr.toNat be = true ∧ addr.toNat ≠ R.ID ∧ (addr.toNat = R.DEV_ODM_CTL →
      F.DEV_ODM_CTL_GO.of w = 0) ∧ (locate addr.toNat).space ∉ [Space.bcast, Space.group, Space.active] ∧ rowAt
      addr.toNat = some r ∧ (be = 0xF#4 ∨ r.wide = false) ∧ (addr.toNat = R.MP_DATA → s.mpInside = true) ∧ r.guarded =
      false) ∧
    (∃ (s : State) (p : Path) (addr : BitVec 24) (be : BitVec 4) (w : Word) (r : RegRow), s.od.mailbox = none ∧
      s.Writes p ∧ beAligned addr.toNat be = true ∧ addr.toNat ≠ R.ID ∧ (locate addr.toNat).space ∉ [Space.bcast,
      Space.group, Space.active] ∧ rowAt addr.toNat = some r ∧ (be = 0xF#4 ∨ r.wide = false) ∧ (addr.toNat = R.MP_DATA
      → s.mpInside = true) ∧ r.guarded = true ∧ (addr.toNat ≠ R.PRT_LOCK ∨ F.PRT_LOCK_FN_LOCK.of w = 0)) ∧
    (∃ (s : State) (p : Path) (i : Fin 2), s.Serves ∧ s.Writes p ∧ s.Unlocked p ∧ lockOf p = some i) ∧
    (∃ (s : State) (addr : BitVec 24) (be : BitVec 4), s.od.mailbox = none ∧ beAligned addr.toNat be = false ∧
      addr.toNat ≠ R.ID) ∧
    (∃ (s : State) (addr : BitVec 24) (be : BitVec 4), s.od.mailbox = none ∧ beAligned addr.toNat be = true ∧
      addr.toNat ∉ [R.ID, R.PRT_UNLOCK, R.PRT_LOCK] ∧ s.tvB 0 F.DEV_MODE_LCP_WR = false) ∧
    (∃ (s : State) (p : Path) (addr : BitVec 24) (be : BitVec 4), s.od.mailbox = none ∧ s.Writes p ∧ beAligned
      addr.toNat be = true ∧ be ≠ 0xF#4 ∧ addr.toNat ≠ R.ID ∧ (locate addr.toNat).space ≠ Space.active ∧ ((locate
      addr.toNat).space = Space.bcast ∨ (locate addr.toNat).space = Space.group ∨ ∃ r ∈ rowAt addr.toNat, r.wide =
      true)) ∧
    (∃ (s : State) (p : Path) (addr : BitVec 24) (be : BitVec 4), s.od.mailbox = none ∧ s.Writes p ∧ beAligned
      addr.toNat be = true ∧ addr.toNat ≠ R.ID ∧ (locate addr.toNat).space ≠ Space.bcast ∧ (locate addr.toNat).space ≠
      Space.group ∧ ((locate addr.toNat).space = Space.active ∨ rowAt addr.toNat = none)) ∧
    (∃ (s : State) (p : Path), s.od.mailbox = none ∧ s.Writes p ∧ s.mpInside = false) ∧
    (∃ (s : State) (p : Path) (addr : BitVec 24), s.od.mailbox = none ∧ s.Writes p ∧ addr.toNat % 4 = 0 ∧ ((locate
      addr.toNat).space = Space.bcast ∨ (locate addr.toNat).space = Space.group) ∧ addr.toNat ≠ R.ID) ∧
    (∃ (s : State) (p : Path), s.Serves ∧ s.Writes p) ∧
    (∃ (s : State) (p : Path) (off : BitVec 12), s.od.mailbox = none ∧ s.Writes p ∧ off.toNat % 4 = 0) ∧
    (∃ (s : State), s.od.mailbox = none) ∧
    (∃ (s : State) (p : Path) (g : Fin 16) (j : Fin 4), s.Serves ∧ s.Writes p ∧ F.IA_ADDR.of (s.path p).ia = R.UG_MASK
      + 0x20 * g.val + 4 * j.val) ∧
    (∃ (s : State) (p : Path) (g : Fin 16) (j : Fin 4), F.IA_ADDR.of (s.path p).ia = R.UG_MASK + 0x20 * g.val + 4 *
      j.val) ∧
    (∃ (s : State) (p : Path) (w : Word) (a : Nat) (u : State), s.od.mailbox = none ∧ a = F.IA_ADDR.of (s.path p).ia ∧
      a ≠ R.IA ∧ a ≠ R.ID ∧ (a = R.DEV_ODM_CTL → F.DEV_ODM_CTL_GO.of w = 0) ∧ u = (s.pathWrite p a 0xF#4 w).2) ∧
    (∃ (s : State) (p : Path) (a : Nat), a = F.IA_ADDR.of (s.path p).ia ∧ a ≠ R.IA ∧ a ≠ R.ID) ∧
    (∃ (s : State) (p : Path), s.od.mailbox = none ∧ (F.IA_ADDR.of (s.path p).ia = R.IA ∨ F.IA_ADDR.of (s.path p).ia =
      R.ID)) ∧
    (∃ (s : State), s.Serves) :=
  ⟨⟨tUp, Path.host, 0x52C#24, 1, 3, by delta State.Serves State.Writes; decide +kernel⟩,
   ⟨(tUp.setW 0x52C 0xAAAABBBB#32), Path.host, 0x52C#24, 1, 3, by delta State.Serves State.Writes; decide +kernel⟩,
   ⟨(tUp.setW R.NET_STAT 0xE00000FE#32), Path.host, by delta State.Serves State.Writes; decide +kernel⟩,
   ⟨tUp, Path.host, 0x52C#24, 0xC#4, 0x12345678#32, (rowOf 0x52C), by delta State.Writes; decide +kernel⟩,
   ⟨tUp, Path.host, (BitVec.ofNat 24 R.TB_SRC), 0xF#4, 1#32, (rowOf R.TB_SRC), by delta State.Writes; decide +kernel⟩,
   ⟨tUnlocked, Path.host, 0, by delta State.Serves State.Writes State.Unlocked; dsimp only [lockOf]; decide +kernel⟩,
   ⟨tUp, 0x52E#24, 0xF#4, by decide +kernel⟩,
   ⟨(tUp.setTv R.DEV_MODE 0#32), 0x52C#24, 0xF#4, by decide +kernel⟩,
   ⟨(tLnkUp lnkActive), Path.host, (BitVec.ofNat 24 (lnkBase .pattern + R.LNK_CMD)), 0xC#4, by delta State.Writes; decide +kernel⟩,
   ⟨tUp, Path.host, 0x200000#24, 0xF#4, by delta State.Writes; decide +kernel⟩,
   ⟨(tPort.setW R.MP_ADDR 12582912#32), Path.host, by delta State.Writes; decide +kernel⟩,
   ⟨tUp, Path.host, 0x1C0080#24, by delta State.Writes; decide +kernel⟩,
   ⟨tUp, Path.host, by delta State.Serves State.Writes; decide +kernel⟩,
   ⟨tUp, Path.host, 0x80#12, by delta State.Writes; decide +kernel⟩,
   ⟨(tUp.setTv R.DEV_MODE 0#32), by decide +kernel⟩,
   ⟨(tUp.modPath .host (fun x => { x with ia := F.IA_STEP.into (F.IA_ADDR.into 0#32 0x52C) 1 })), Path.host, 1, 3, by delta State.Serves State.Writes; decide +kernel⟩,
   ⟨((tUp.setW 0x52C 77#32).modPath .lcp (fun x => { x with ia := F.IA_STEP.into (F.IA_ADDR.into 0#32 0x52C) 3 })), Path.lcp, 1, 3, by decide +kernel⟩,
   ⟨(tUp.modPath .host (fun x => { x with ia := F.IA_STEP.into (F.IA_ADDR.into 0#32 0x52C) 1 })), Path.host, 0x55#32, 0x52C, (((tUp.modPath .host (fun x => { x with ia := F.IA_STEP.into (F.IA_ADDR.into 0#32 0x52C) 1 })).pathWrite .host 0x52C 0xF#4 0x55#32).2), by decide +kernel⟩,
   ⟨((tUp.setW 0x52C 77#32).modPath .lcp (fun x => { x with ia := F.IA_STEP.into (F.IA_ADDR.into 0#32 0x52C) 3 })), Path.lcp, 0x52C, by decide +kernel⟩,
   ⟨(tUp.modPath .host (fun x => { x with ia := F.IA_ADDR.into 0#32 R.ID })), Path.host, by decide +kernel⟩,
   ⟨tUp, by delta State.Serves; decide +kernel⟩⟩

/-- Witnesses of `TheLcpAndTheMemoryPortServe`. -/
theorem witness_TheLcpAndTheMemoryPortServe :
    (∃ (s : State) (addr : BitVec 24) (g : Fin 16) (j : Fin 4), s.boot.lcp = true ∧ addr.toNat = R.UG_MASK + 0x20 *
      g.val + 4 * j.val) ∧
    (∃ (s : State) (step : BitVec 2) (addr : BitVec 24) (n : Nat) (r : List Word × State), s.boot.lcp = true ∧ r =
      State.lcpReads step.toNat n addr.toNat { s with lcp := LcpSt.reset }) ∧
    (∃ (s : State) (addr : BitVec 24) (n : Nat), s.boot.lcp = true ∧ addr.toNat % 4 ≠ 0 ∧ addr.toNat ≠ R.ID ∧ 0 < n) ∧
    (∃ (s : State), s.boot.lcp = false) ∧
    (∃ (s : State) (addr : BitVec 24) (g : Fin 16) (j : Fin 3), s.boot.lcp = true ∧ s.Serves ∧ s.tvB 0
      F.DEV_MODE_LCP_WR = true ∧ addr.toNat = R.UG_MASK + 0x20 * g.val + 4 * j.val) ∧
    (∃ (s : State) (step : BitVec 2) (addr : BitVec 24) (ws : List Word) (u : State), s.boot.lcp = true ∧ u =
      State.lcpWrites step.toNat ws addr.toNat { s with lcp := LcpSt.reset }) ∧
    (∃ (s : State), s.boot.lcp = false) ∧
    (∃ (s : State) (addr : BitVec 24), s.boot.lcp = true ∧ s.od.mailbox = none ∧ s.tvB 0 F.DEV_MODE_LCP_WR = false ∧
      addr.toNat % 4 = 0 ∧ addr.toNat ∉ [R.ID, R.PRT_UNLOCK, R.PRT_LOCK]) ∧
    (∃ (s : State), s.boot.lcp = true) ∧
    (∃ (s : State), s.boot.lcp = false) ∧
    (∃ (s : State), s.boot.lcp = true) ∧
    (∃ (s : State) (incomplete : Bool), (incomplete = false ∨ s.boot.lcp = false)) ∧
    (∃ (s : State), s.f 0 F.MP_CTL_SPACE % 3 = 0 ∧ s.f 0 F.MP_ADDR_ADDR < 12582912 ∧ s.vatUE.contains (s.f 0
      F.MP_ADDR_ADDR) = false ∧ s.vatCE.contains (s.f 0 F.MP_ADDR_ADDR) = false) ∧
    (∃ (s : State), s.f 0 F.MP_CTL_SPACE % 3 = 0 ∧ s.f 0 F.MP_ADDR_ADDR < 12582912 ∧ (s.vatUE.contains (s.f 0
      F.MP_ADDR_ADDR) = true ∨ s.vatCE.contains (s.f 0 F.MP_ADDR_ADDR) = true)) ∧
    (∃ (s : State), s.f 0 F.MP_CTL_SPACE % 3 ≠ 0 ∧ s.mpInside = true) ∧
    (∃ (s : State), s.mpInside = false) ∧
    (∃ (s : State) (p : Path), s.Serves ∧ s.Writes p ∧ s.f 0 F.MP_CTL_SPACE % 3 = 0 ∧ s.f 0 F.MP_ADDR_ADDR < 12582912
      ∧ s.mpRefused = false) ∧
    (∃ (s : State) (p : Path), s.Serves ∧ s.Writes p ∧ s.f 0 F.MP_CTL_SPACE % 3 ≠ 0 ∧ s.mpInside = true ∧ s.mpRefused
      = false) ∧
    (∃ (s : State) (p : Path), s.Serves ∧ s.Writes p ∧ s.mpInside = true ∧ s.mpRefused = true) ∧
    (∃ (s : State), s.od.mailbox = none) :=
  ⟨⟨(tUp.setW 0x52C 77#32), 0x52C#24, 1, 3, by decide +kernel⟩,
   ⟨(tUp.setW 0x52C 77#32), 1#2, 0x52C#24, 3, (State.lcpReads 1 3 0x52C { tUp.setW 0x52C 77#32 with lcp := LcpSt.reset }), by decide +kernel⟩,
   ⟨tUp, 0x52D#24, 2, by decide +kernel⟩,
   ⟨tReleased, by decide +kernel⟩,
   ⟨tLcp, 0x528#24, 1, 2, by delta State.Serves; decide +kernel⟩,
   ⟨tLcp, 1#2, 0x528#24, ([77#32, 78#32]), (State.lcpWrites 1 [77#32, 78#32] 0x528 { tLcp with lcp := LcpSt.reset }), by decide +kernel⟩,
   ⟨tReleased, by decide +kernel⟩,
   ⟨(tUp.setTv R.DEV_MODE 0#32), 0x528#24, by decide +kernel⟩,
   ⟨({ tUp with lcp := { err := true, code := 1#2, addr := 0x528#24, sdo := [] } }), by decide +kernel⟩,
   ⟨tReleased, by decide +kernel⟩,
   ⟨tUp, by decide +kernel⟩,
   ⟨tUp, false, by decide +kernel⟩,
   ⟨({ tPort with vat := [(0x1234, some 5#32)] }), by decide +kernel⟩,
   ⟨({ tPort with vatUE := [0x1234] }), by decide +kernel⟩,
   ⟨(tPort.setF 0 F.MP_CTL_SPACE 1), by decide +kernel⟩,
   ⟨(tPort.setW R.MP_ADDR 12582912#32), by decide +kernel⟩,
   ⟨tPort, Path.host, by delta State.Serves State.Writes; decide +kernel⟩,
   ⟨(tPort.setF 0 F.MP_CTL_SPACE 1), Path.host, by delta State.Serves State.Writes; decide +kernel⟩,
   ⟨(tPort.setTv R.DEV_MODE 0#32), Path.host, by delta State.Serves State.Writes; decide +kernel⟩,
   ⟨(tPort.setW R.MP_ADDR 12582912#32), by decide +kernel⟩⟩

/-- Witnesses of `UnlocksAndTheScrubProtect`. -/
theorem witness_UnlocksAndTheScrubProtect :
    (∃ (s : State) (p : Path) (i : Fin 2), s.Serves ∧ lockOf p = some i ∧ s.fb 0 F.PRT_STAT_UNLK_DIS = false) ∧
    (∃ (s : State) (p : Path) (i : Fin 2) (key : BitVec 16), s.Serves ∧ lockOf p = some i ∧ s.fb 0 F.PRT_STAT_UNLK_DIS
      = false ∧ key ≠ s.fuses.key) ∧
    (∃ (s : State) (p : Path), s.Serves ∧ (s.fb 0 F.PRT_STAT_UNLK_DIS = true ∨ p = .indigo)) ∧
    (∃ (s : State) (p : Path) (i : Fin 2) (d : Nat), lockOf p = some i ∧ s.unlockBy[i] = some d) ∧
    (∃ (s : State) (p : Path), (∀ i ∈ lockOf p, s.unlockBy[i] = none)) ∧
    (∃ (s : State), Memory.wf tvDefault s.tv = true ∧ Memory.wf calFactory s.cal = true) ∧
    (∃ (s : State) (p : Path) (i : Fin 2), s.od.mailbox = none ∧ s.Writes p ∧ lockOf p = some i ∧ (s.armed i = false ∨
      s.cfgDone = false ∨ s.fb 0 F.PRT_STAT_UNLK_DIS = true)) ∧
    (∃ (s : State), s.od.mailbox = none ∧ s.tvB 0 F.DEV_MODE_LCP_WR = false) ∧
    (∃ (s : State) (p : Path) (i : Fin 2), s.od.mailbox = none ∧ s.Writes p ∧ lockOf p = some i ∧ (s.armed i = false ∨
      s.cfgDone = false ∨ s.fb 0 F.PRT_STAT_UNLK_DIS = true)) ∧
    (∃ (s : State), s.od.mailbox = none ∧ s.tvB 0 F.DEV_MODE_LCP_WR = false) ∧
    (∃ (s : State) (p : Path) (i : Fin 2), s.od.mailbox = none ∧ s.Writes p ∧ lockOf p = some i ∧ (s.armed i = false ∨
      s.cfgDone = false ∨ s.fb 0 F.PRT_STAT_UNLK_DIS = true)) ∧
    (∃ (s : State), s.od.mailbox = none ∧ s.tvB 0 F.DEV_MODE_LCP_WR = false) ∧
    (∃ (s : State) (p : Path) (i : Fin 2), s.od.mailbox = none ∧ s.Writes p ∧ lockOf p = some i ∧ (s.armed i = false ∨
      s.cfgDone = false ∨ s.fb 0 F.PRT_STAT_UNLK_DIS = true)) ∧
    (∃ (s : State), s.od.mailbox = none ∧ s.tvB 0 F.DEV_MODE_LCP_WR = false) ∧
    (∃ (s : State) (p : Path) (i : Fin 2), s.od.mailbox = none ∧ s.Writes p ∧ lockOf p = some i ∧ (s.armed i = false ∨
      s.cfgDone = false ∨ s.fb 0 F.PRT_STAT_UNLK_DIS = true)) ∧
    (∃ (s : State), s.od.mailbox = none ∧ s.tvB 0 F.DEV_MODE_LCP_WR = false) :=
  ⟨⟨tUp, Path.lcp, 1, by delta State.Serves; decide +kernel⟩,
   ⟨tUp, Path.host, 0, (tUp.fuses.key + 1), by delta State.Serves; decide +kernel⟩,
   ⟨(tUp.setF 0 F.PRT_STAT_UNLK_DIS 1), Path.host, by delta State.Serves; decide +kernel⟩,
   ⟨tUnlocked, Path.lcp, 1, 2000000, by decide +kernel⟩,
   ⟨tUp, Path.host, by decide +kernel⟩,
   ⟨tSplit, by decide +kernel⟩,
   ⟨tUp, Path.host, 0, by delta State.Writes; decide +kernel⟩,
   ⟨(tUp.setTv R.DEV_MODE 0#32), by decide +kernel⟩,
   ⟨tUp, Path.host, 0, by delta State.Writes; decide +kernel⟩,
   ⟨(tUp.setTv R.DEV_MODE 0#32), by decide +kernel⟩,
   ⟨tUp, Path.host, 0, by delta State.Writes; decide +kernel⟩,
   ⟨(tUp.setTv R.DEV_MODE 0#32), by decide +kernel⟩,
   ⟨tUp, Path.host, 0, by delta State.Writes; decide +kernel⟩,
   ⟨(tUp.setTv R.DEV_MODE 0#32), by decide +kernel⟩,
   ⟨tUp, Path.host, 0, by delta State.Writes; decide +kernel⟩,
   ⟨(tUp.setTv R.DEV_MODE 0#32), by decide +kernel⟩⟩

/-- Witnesses of `StepRunsTheFrontCommand`. -/
theorem witness_StepRunsTheFrontCommand :
    (∃ (s : State) (c : Instr) (rest : List Instr), s.pending = c :: rest) :=
  ⟨({ tUp with pending := [.rebase, .bypSet] }), Instr.rebase, [.bypSet], by decide +kernel⟩

/-- Witnesses of `EmptyQueueLetsAPeriodPass`. -/
theorem witness_EmptyQueueLetsAPeriodPass :
    (∃ (s : State), s.pending = [] ∧ s.clk.running = true) ∧
    (∃ (s : State), s.pending = [] ∧ s.clk.running = false) :=
  ⟨⟨tUp, by decide +kernel⟩,
   ⟨tReleased, by decide +kernel⟩⟩

/-- Witnesses of `NearestLimitsAreStored`. -/
theorem witness_NearestLimitsAreStored :
    (∃ (s : State) (p : Path), s.Serves ∧ s.Writes p) :=
  ⟨tUp, Path.host, by delta State.Serves State.Writes; decide +kernel⟩

/-- Witnesses of `CreditMessagesAreLaidOut`. -/
theorem witness_CreditMessagesAreLaidOut :
    (∃ (s : State) (ch : Ch) (since : Nat), (s.chan ch).mord.owedSince = some since ∧ (s.chan ch).mord.owed ≠ 0) :=
  ⟨(tOwed 3), 3, 1024000, by decide +kernel⟩

end Sys2Proof.Machine
end

section
/-!
SUPPORT. What a register's own write leaves alone: the dictionary server, but for a soft reset and the
mailbox's GO. One lemma for each operation that a register write reaches, callees before callers.

The lemmas rewrite with `-implicitDefEqProofs`: a step taken by definition would have the kernel compare
two whole states, register stores and all.
-/

namespace Sys2Proof.Machine

/-- What every member's operation leaves, their sequence leaves. -/
theorem State.forAll_frame {α β : Type} (part : State → β) {g : α → State → State} (h : ∀ a s, part (g a s) = part s) (l : List α) (s : State) :
    part (s.forAll l g) = part s := by
  unfold State.forAll
  induction l generalizing s with
  | nil => rfl
  | cons a t ih => exact (ih (g a s)).trans (h a s)

theorem State.forAll_od {α : Type} {l : List α} {g : α → State → State} (h : ∀ a s, (g a s).od = s.od) (s : State) :
    (s.forAll l g).od = s.od := s.forAll_frame State.od h l

/-- The dictionary server of a choice of states. -/
theorem State.od_ite (c : Prop) [Decidable c] (a b : State) : (if c then a else b).od = if c then a.od else b.od := apply_ite State.od c a b

variable (s : State)

/-! ### Paths, and the idle route -/

@[simp] theorem State.modPath_od (p : Path) (g : PathSt → PathSt) : (s.modPath p g).od = s.od := rfl

@[simp] theorem State.stage_od (p : Path) (a : Nat) (w : Word) : (s.stage p a w).od = s.od := by
  simp -implicitDefEqProofs only [State.stage, State.modPath_od]

@[simp] theorem State.unstage_od (p : Path) (a : Nat) : (s.unstage p a).od = s.od := by
  simp -implicitDefEqProofs only [State.unstage, State.modPath_od]

@[simp] theorem State.modChan_od (n : Ch) (g : Chan → Chan) : (s.modChan n g).od = s.od := by
  simp -implicitDefEqProofs only [State.modChan, State.setChan_od]

@[simp] theorem State.abandonThrOf_od (f : FrontEnd) (n : Ch) : (s.abandonThrOf f n).od = s.od := by
  simp -implicitDefEqProofs only [State.abandonThrOf, State.modChan_od, State.setF_od, State.setFe_od, State.raise_od, State.od_ite,
    ite_self]

@[simp] theorem State.breakIdle_od (n : Ch) : (s.breakIdle n).od = s.od := by
  simp -implicitDefEqProofs only [State.breakIdle, State.abandonThrOf_od, State.od_ite, ite_self]

/-! ### Gates, blind intervals and records of a channel -/

@[simp] theorem State.openGate_od (n : Ch) (t : Nat) : (s.openGate n t).od = s.od := by
  simp -implicitDefEqProofs only [State.openGate, State.setChan_od, State.breakIdle_od]

@[simp] theorem State.startGating_od (n : Ch) (t : Nat) : (s.startGating n t).od = s.od := by
  simp -implicitDefEqProofs only [State.startGating, State.openGate_od, State.od_ite, ite_self]

@[simp] theorem State.forceWord_od (n : Ch) (off : Nat) (w : Word) : (s.forceWord n off w).od = s.od := by
  simp -implicitDefEqProofs only [State.forceWord, State.setW_od]

@[simp] theorem State.abandonThr_od (n : Ch) : (s.abandonThr n).od = s.od := by
  simp -implicitDefEqProofs only [State.abandonThr, State.abandonThrOf_od]

@[simp] theorem State.spareEnds_od (n : Ch) : (s.spareEnds n).od = s.od := rfl

@[simp] theorem State.abandonHandover_od (n : Ch) : (s.abandonHandover n).od = s.od := by
  simp -implicitDefEqProofs only [State.abandonHandover, State.setSpare_od, State.setF_od, State.spareEnds_od, State.raise_od,
    State.abandonThr_od, State.od_ite, ite_self]

@[simp] theorem State.writeBlind_od (n : Ch) (b : BlindSt) : (s.writeBlind n b).od = s.od := by
  simp -implicitDefEqProofs only [State.writeBlind, State.modChan_od, State.setF_od, State.raise_od]

@[simp] theorem State.cutBlind_od (n : Ch) : (s.cutBlind n).od = s.od := by
  unfold State.cutBlind
  split <;> simp -implicitDefEqProofs only [State.writeBlind_od]

@[simp] theorem State.pulseOut_od (u func start : Nat) : (s.pulseOut u func start).od = s.od := by
  simp -implicitDefEqProofs only [State.pulseOut, State.forAll_od, implies_true, State.od_ite, ite_self]

@[simp] theorem State.modTu_od (u : Unit16) (g : UnitSt → UnitSt) : (s.modTu u g).od = s.od := by
  simp -implicitDefEqProofs only [State.modTu, State.setTu_od]

@[simp] theorem State.ovfRun_od (n : Ch) (ended : Bool) (k : Nat) : (s.ovfRun n ended k).od = s.od := by
  simp -implicitDefEqProofs only [State.ovfRun, State.setF_od, State.raise_od, State.od_ite, ite_self]

@[simp] theorem State.checkClosed_od (u : Unit16) : (s.checkClosed u).od = s.od := by
  unfold State.checkClosed
  dsimp only
  split
  · refine (State.forAll_od (fun r s => ?_) _).trans (by rw [State.pulseOut_od, State.setF_od, State.modTu_od])
    split
    · exact s.ovfRun_od ..
    · rfl
  · rfl

@[simp] theorem State.closeRecords_od (n : Ch) (cause : CloseCause) : (s.closeRecords n cause).od = s.od := by
  simp -implicitDefEqProofs only [State.closeRecords, State.checkClosed_od, State.modTu_od, State.forAll_od, implies_true, State.od_ite,
    ite_self]

@[simp] theorem State.endGate_od (n : Ch) (t : Nat) (cut early : Bool) : (s.endGate n t cut early).od = s.od := by
  unfold State.endGate
  dsimp only
  split <;> simp -implicitDefEqProofs only [State.modChan_od, State.setF_od, State.setChan_od, State.count_od, State.od_ite,
    ite_self]

@[simp] theorem State.modFe_od (f : FrontEnd) (g : FeSt → FeSt) : (s.modFe f g).od = s.od := by
  simp -implicitDefEqProofs only [State.modFe, State.setFe_od]

@[simp] theorem State.park_od (n : Ch) : (s.park n).od = s.od := by
  simp -implicitDefEqProofs only [State.park, State.closeRecords_od, State.abandonHandover_od, State.modChan_od, State.setF_od,
    State.modFe_od, State.cutBlind_od, State.endGate_od, State.forAll_od, implies_true, State.od_ite, ite_self]

@[simp] theorem State.startBlind_od (n : Ch) (start : BlindStart) (c : Causes) (count endBy : Nat) (ovf test : Bool) :
    (s.startBlind n start c count endBy ovf test).od = s.od := by
  simp -implicitDefEqProofs only [State.startBlind, State.modChan_od]

@[simp] theorem State.modeChange_od (n : Ch) (t : Nat) : (s.modeChange n t).od = s.od := by
  cases h : (s.chan n).parkEnd <;>
    simp -implicitDefEqProofs only [State.modeChange, h, State.startBlind_od, State.setSpare_od, State.setF_od, State.setChan_od,
      State.od_ite, ite_self]

/-! ### Histograms and settings of a channel -/

@[simp] theorem State.zeroLake_od (lo hi : Nat) : (s.zeroLake lo hi).od = s.od := rfl

@[simp] theorem State.clearLake_od (lo hi : Nat) : (s.clearLake lo hi).od = s.od := by
  refine State.forAll_od (fun b s => ?_) s
  dsimp only
  split
  · split <;> simp -implicitDefEqProofs only [State.zeroLake_od]
  · rfl

@[simp] theorem State.clearHist_od (n : Ch) : (s.clearHist n).od = s.od := by
  simp -implicitDefEqProofs only [State.clearHist, State.modChan_od, State.setF_od, State.clearLake_od, State.setPair_od]

@[simp] theorem State.ltEnd_od (n : Ch) : (s.ltEnd n).od = s.od := rfl

@[simp] theorem State.applyShadows_od (n : Ch) (t : Nat) : (s.applyShadows n t).od = s.od := by
  simp -implicitDefEqProofs only [State.applyShadows, State.modeChange_od, State.clearHist_od, State.modChan_od, State.ltEnd_od,
    State.raise_od, State.park_od, State.forceWord_od, State.forAll_od, implies_true, State.od_ite, ite_self]

@[simp] theorem State.shadowWritten_od (n : Ch) (off : Nat) : (s.shadowWritten n off).od = s.od := by
  simp -implicitDefEqProofs only [State.shadowWritten, State.modChan_od, State.startGating_od, State.applyShadows_od, State.reach_od,
    State.od_ite, ite_self]

@[simp] theorem State.putShadow_od (n : Ch) (off : Nat) (w : Word) : (s.putShadow n off w).od = s.od := by
  simp -implicitDefEqProofs only [State.putShadow, State.shadowWritten_od, State.setChan_od, State.setW_od]

@[simp] theorem State.putPair_od (p : Path) (n : Ch) (off v : Nat) : (s.putPair p n off v).od = s.od := by
  simp -implicitDefEqProofs only [State.putPair, State.modChan_od, State.setW_od, State.putShadow_od, State.unstage_od, State.od_ite,
    ite_self]

@[simp] theorem State.loadTdac_od (n : Ch) (f : FrontEnd) : (s.loadTdac n f).od = s.od := by
  simp -implicitDefEqProofs only [State.loadTdac, State.modFe_od]

@[simp] theorem State.applyTdac_od (n : Ch) (t : Nat) (code : Option (BitVec 18)) : (s.applyTdac n t code).od = s.od := by
  simp -implicitDefEqProofs only [State.applyTdac, State.modeChange_od, State.modChan_od, State.setF_od, State.loadTdac_od,
    State.setW_od, State.forAll_od, implies_true, State.od_ite, ite_self]

@[simp] theorem State.writeTdac_od (n : Ch) (w : Word) : (s.writeTdac n w).od = s.od := by
  simp -implicitDefEqProofs only [State.writeTdac, State.modChan_od, State.applyTdac_od, State.setW_od, State.reach_od, State.od_ite,
    ite_self]

@[simp] theorem State.pushCode_od (n : Ch) (code : BitVec 18) : (s.pushCode n code).od = s.od := by
  simp -implicitDefEqProofs only [State.pushCode, State.modChan_od, State.raise_od, State.od_ite, ite_self]

@[simp] theorem State.pinTest_od (n : Ch) : (s.pinTest n).od = s.od := by
  simp -implicitDefEqProofs only [State.pinTest, State.startBlind_od, State.modChan_od, State.setF_od, State.breakIdle_od,
    State.raise_od, State.od_ite, ite_self]

@[simp] theorem State.writePart_od (n : Ch) (w : Word) : (s.writePart n w).od = s.od := by
  simp -implicitDefEqProofs only [State.writePart, State.raise_od, State.putShadow_od, State.od_ite, ite_self]

@[simp] theorem State.adevClr_od (n : Ch) : (s.adevClr n).od = s.od := by
  simp -implicitDefEqProofs only [State.adevClr, State.modChan_od]

@[simp] theorem State.tieRst_od (n : Ch) (t : Nat) : (s.tieRst n t).od = s.od := by
  simp -implicitDefEqProofs only [State.tieRst, State.modChan_od]

@[simp] theorem State.adevDumpCmd_od (n : Ch) : (s.adevDumpCmd n).od = s.od := by
  simp -implicitDefEqProofs only [State.adevDumpCmd, State.modChan_od]

@[simp] theorem State.closeGateAt_od (n : Ch) (t : Nat) (cut : Bool) : (s.closeGateAt n t cut).od = s.od := by
  simp -implicitDefEqProofs only [State.closeGateAt, State.startGating_od, State.applyShadows_od, State.endGate_od]

@[simp] theorem State.gateStop_od (n : Ch) (t : Nat) : (s.gateStop n t).od = s.od := by
  unfold State.gateStop
  split <;> simp -implicitDefEqProofs only [State.closeGateAt_od, State.od_ite, ite_self]

@[simp] theorem State.ownBoundary_od (n : Ch) (t : Nat) : (s.ownBoundary n t).od = s.od := by
  simp -implicitDefEqProofs only [State.ownBoundary, State.modChan_od, State.closeGateAt_od]

@[simp] theorem State.applyNow_od (n : Ch) (t : Nat) : (s.applyNow n t).od = s.od := by
  unfold State.applyNow
  split <;> simp -implicitDefEqProofs only [State.ownBoundary_od, State.startGating_od, State.applyShadows_od,
    State.closeGateAt_od, State.od_ite, ite_self]

@[simp] theorem State.gateStart_od (n : Ch) (t : Nat) : (s.gateStart n t).od = s.od := by
  simp -implicitDefEqProofs only [State.gateStart, State.openGate_od, State.od_ite, ite_self]

@[simp] theorem State.chCmd_od (n : Ch) (w : Word) : (s.chCmd n w).od = s.od := by
  simp -implicitDefEqProofs only [State.chCmd, State.gateStart_od, State.adevDumpCmd_od, State.reach_od, State.applyNow_od,
    State.gateStop_od, State.tieRst_od, State.adevClr_od, State.od_ite, ite_self]

/-! ### Links and Mordant -/

@[simp] theorem State.showGen_od (n : Ch) : (s.showGen n).od = s.od := by
  simp -implicitDefEqProofs only [State.showGen, State.setF_od]

@[simp] theorem State.setLink_od (l : Link) (x : LinkSt) : (s.setLink l x).od = s.od := by
  cases l <;> rfl

@[simp] theorem State.send_od (l : Link) (c : FClass) (bytes : List Byte) (tag : TxTag) : (s.send l c bytes tag).od = s.od := by
  simp -implicitDefEqProofs only [State.send, State.setLink_od]

@[simp] theorem State.addPair_od (a : Nat) (d : Int) : (s.addPair a d).od = s.od := by
  simp -implicitDefEqProofs only [State.addPair, State.setPair_od]

@[simp] theorem State.putLakeAt_od (p : Nat) (w : Word) : (s.putLakeAt p w).od = s.od := rfl

@[simp] theorem State.bumpBin_od (n : Ch) (a : Nat) : (s.bumpBin n a).od = s.od := by
  unfold State.bumpBin
  dsimp only
  split
  · rw [State.raise_od, State.count_od]
  · split
    · rw [State.raise_od]
    · split
      · rw [State.putLakeAt_od]
      · rfl

@[simp] theorem State.histUpdate_od (n : Ch) (v t : Int) : (s.histUpdate n v t).od = s.od := by
  simp -implicitDefEqProofs only [State.histUpdate, State.bumpBin_od, State.count_od, State.od_ite, ite_self]

@[simp] theorem State.commitHit_od (n : Ch) (dev edge : Int) (lake : Bool) (extras : Nat) : (s.commitHit n dev edge lake extras).od = s.od := by
  simp -implicitDefEqProofs only [State.commitHit, State.histUpdate_od, State.modChan_od, State.setF_od, State.addPair_od,
    State.raise_od, State.count_od, State.setPair_od, State.od_ite, ite_self]

@[simp] theorem State.mordOut_od (n : Ch) (o : MOut) : (s.mordOut n o).od = s.od := by
  unfold State.mordOut
  dsimp only
  split <;> simp -implicitDefEqProofs only [State.modChan_od, State.commitHit_od, State.raise_od, State.count_od, State.send_od,
    State.forAll_od, implies_true]

@[simp] theorem State.mordSet_od (n : Ch) (r : Mord × List MOut) : (s.mordSet n r).od = s.od := by
  simp -implicitDefEqProofs only [State.mordSet, State.mordOut_od, State.modChan_od, State.showGen_od, State.forAll_od, implies_true]

@[simp] theorem State.flushMord_od (n : Ch) : (s.flushMord n).od = s.od := by
  simp -implicitDefEqProofs only [State.flushMord, State.mordSet_od]

@[simp] theorem State.writeMdCtl_od (n : Ch) (w : Word) : (s.writeMdCtl n w).od = s.od := by
  simp -implicitDefEqProofs only [State.writeMdCtl, State.modChan_od, State.flushMord_od, State.setF_od, State.showGen_od,
    State.breakIdle_od, State.raise_od, State.setW_od, State.od_ite, ite_self]

@[simp] theorem State.writeMdH_od (n : Ch) (w : Word) : (s.writeMdH n w).od = s.od := by
  simp -implicitDefEqProofs only [State.writeMdH, State.setF_od, State.raise_od, State.od_ite, ite_self]

@[simp] theorem State.polReset_od (n : Ch) : (s.polReset n).od = s.od := by
  simp -implicitDefEqProofs only [State.polReset, State.modChan_od]

@[simp] theorem State.dclr_od (n : Ch) : (s.dclr n).od = s.od := by
  simp -implicitDefEqProofs only [State.dclr, State.modChan_od, State.setF_od, State.setPair_od]

@[simp] theorem State.writeMdCmd_od (n : Ch) (w : Word) : (s.writeMdCmd n w).od = s.od := by
  simp -implicitDefEqProofs only [State.writeMdCmd, State.dclr_od, State.polReset_od, State.flushMord_od, State.od_ite, ite_self]

@[simp] theorem State.writeHg_od (n : Ch) (off : Nat) (w : Word) : (s.writeHg n off w).od = s.od := by
  simp -implicitDefEqProofs only [State.writeHg, State.raise_od, State.putShadow_od, State.od_ite, ite_self]

@[simp] theorem State.hgClr_od (n : Ch) : (s.hgClr n).od = s.od := by
  simp -implicitDefEqProofs only [State.hgClr, State.clearHist_od, State.raise_od, State.od_ite, ite_self]

@[simp] theorem State.hgSnap_od (n : Ch) : (s.hgSnap n).od = s.od := by
  simp -implicitDefEqProofs only [State.hgSnap, State.modChan_od, State.setF_od, State.raise_od, State.clearLake_od, State.od_ite,
    ite_self]

/-! ### A channel register -/

@[simp] theorem State.writeChan_od (p : Path) (n : Ch) (off : Nat) (r : RegRow) (w : Word) : (s.writeChan p n off r w).od = s.od := by
  simp -implicitDefEqProofs only [State.writeChan, State.pinTest_od, State.modChan_od, State.stage_od, State.hgSnap_od, State.hgClr_od,
    State.breakIdle_od, State.writeMdH_od, State.writeHg_od, State.raise_od, State.writePart_od, State.pushCode_od, State.writeMdCtl_od,
    State.setW_od, State.putPair_od, State.reach_od, State.chCmd_od, State.putShadow_od, State.unstage_od, State.writeTdac_od,
    State.writeMdCmd_od, State.od_ite, ite_self]

/-! ### Spares -/

@[simp] theorem State.startHandBack_od (p : Spare) (next : Option (Fin 16)) : (s.startHandBack p next).od = s.od := by
  simp -implicitDefEqProofs only [State.startHandBack, State.setSpare_od, State.setF_od]

@[simp] theorem State.endLoan_od (f : FrontEnd) : (s.endLoan f).od = s.od := by
  unfold State.endLoan
  split <;> simp -implicitDefEqProofs only [State.setSpare_od, State.startHandBack_od, State.setF_od, State.spareEnds_od,
    State.raise_od, State.od_ite, ite_self]

@[simp] theorem State.setPhase_od (f : FrontEnd) (p : Nat) : (s.setPhase f p).od = s.od := by
  simp -implicitDefEqProofs only [State.setPhase, State.setF_od]

@[simp] theorem State.calAbandon_od (f : FrontEnd) (again : Bool) : (s.calAbandon f again).od = s.od := by
  simp -implicitDefEqProofs only [State.calAbandon, State.modChan_od, State.setF_od, State.setFe_od, State.raise_od, State.setPhase_od,
    State.endLoan_od, State.od_ite, ite_self]

@[simp] theorem State.breakFree_od (f : FrontEnd) : (s.breakFree f).od = s.od := by
  simp -implicitDefEqProofs only [State.breakFree, State.calAbandon_od, State.od_ite, ite_self]

@[simp] theorem State.spareBegins_od (n : Ch) : (s.spareBegins n).od = s.od := rfl

@[simp] theorem State.startHandover_od (p : Spare) (src : Fin 16) (owner : Nat) : (s.startHandover p src owner).od = s.od := by
  simp -implicitDefEqProofs only [State.startHandover, State.setSpare_od, State.spareBegins_od, State.setF_od, State.breakFree_od]

@[simp] theorem State.raiseCal_od (f : FrontEnd) (cause : Nat) (sampler threshold : Bool) : (s.raiseCal f cause sampler threshold).od = s.od := by
  simp -implicitDefEqProofs only [State.raiseCal, State.setF_od, State.setFe_od, State.setPhase_od, State.od_ite, ite_self]

@[simp] theorem State.raiseSpare_od (p : Spare) : (s.raiseSpare p).od = s.od := by
  simp -implicitDefEqProofs only [State.raiseSpare, State.raiseCal_od, State.od_ite, ite_self]

/-- Where a repair request is taken up, it leaves the dictionary server. -/
theorem State.repairRequest_od (p : Spare) (src : Fin 16) {t : State} (h : s.repairRequest p src = some t) : t.od = s.od := by
  unfold State.repairRequest at h
  dsimp only at h
  split at h
  · cases h
  · split at h
    · cases h
      exact s.startHandover_od ..
    · split at h <;> cases h <;>
        simp -implicitDefEqProofs only [State.raiseSpare_od, State.startHandBack_od, State.raise_od, State.setF_od, State.abandonThr_od]
    · cases h

@[simp] theorem State.writeRoute_od (p : Spare) (w : Word) : (s.writeRoute p w).od = s.od := by
  unfold State.writeRoute
  dsimp only
  split
  · split
    · rw [State.startHandBack_od, State.breakFree_od, State.setTv_od]
    · exact s.raise_od ..
    · exact s.raise_od ..
    · exact s.setTv_od ..
  · split
    · next h => rw [State.setTv_od, State.repairRequest_od s p _ h]
    · exact s.raise_od ..
  · exact s.raise_od ..

@[simp] theorem State.plain_od (r : RegRow) (a : Nat) (w : Word) : (s.plain r a w).od = s.od := by
  simp -implicitDefEqProofs only [State.plain, State.setW_od]

@[simp] theorem State.writeSpare_od (p : Spare) (off : Nat) (r : RegRow) (w : Word) : (s.writeSpare p off r w).od = s.od := by
  simp -implicitDefEqProofs only [State.writeSpare, State.writeRoute_od, State.plain_od, State.setW_od, State.od_ite, ite_self]

/-! ### Trigger units -/

@[simp] theorem State.setNext_od (u : Unit16) : (s.setNext u).od = s.od := by
  unfold State.setNext
  split <;> simp -implicitDefEqProofs only [State.setW_od]

@[simp] theorem State.freeRecord_od (u : Unit16) (ch : Ch) (number : BitVec 32) : (s.freeRecord u ch number).od = s.od := by
  simp -implicitDefEqProofs only [State.freeRecord, State.modTu_od]

@[simp] theorem State.countVat_od (ce ue : Nat) : (s.countVat ce ue).od = s.od := by
  simp -implicitDefEqProofs only [State.countVat, State.raise_od, State.count_od, State.od_ite, ite_self]

@[simp] theorem State.loseRecord_od (u : Unit16) (r : Record) : (s.loseRecord u r).od = s.od := by
  simp -implicitDefEqProofs only [State.loseRecord, State.countSat_od, State.raise_od, State.freeRecord_od, State.countVat_od]

@[simp] theorem State.pushRecord_od (u : Unit16) (r : Record) (onClose : Bool) : (s.pushRecord u r onClose).od = s.od := by
  simp -implicitDefEqProofs only [State.pushRecord, State.loseRecord_od, State.modTu_od, State.send_od, State.countVat_od, State.od_ite,
    ite_self]

@[simp] theorem State.readRecord_od (u : Unit16) (r : Record) : (s.readRecord u r).od = s.od := by
  simp -implicitDefEqProofs only [State.readRecord, State.pushRecord_od, State.setNext_od]

@[simp] theorem State.releaseRecord_od (u : Unit16) (r : Record) : (s.releaseRecord u r).od = s.od := by
  simp -implicitDefEqProofs only [State.releaseRecord, State.setNext_od, State.freeRecord_od]

@[simp] theorem State.enterIdle_od (u : Unit16) : (s.enterIdle u).od = s.od := by
  simp -implicitDefEqProofs only [State.enterIdle, State.setF_od, State.modTu_od]

@[simp] theorem State.putVat_od (a : Nat) (w : Word) : (s.putVat a w).od = s.od := rfl

@[simp] theorem State.putHeader_od (r : Record) : (s.putHeader r).od = s.od := by
  simp -implicitDefEqProofs only [State.putHeader, State.putVat_od, State.forAll_od, implies_true]

@[simp] theorem State.writeRecords_od (u : Unit16) : (s.writeRecords u).od = s.od := by
  unfold State.writeRecords
  dsimp only
  split <;> simp -implicitDefEqProofs only [State.pushRecord_od, State.putHeader_od, State.setTu_od, State.raise_od,
    State.setNext_od, State.forAll_od, implies_true, State.od_ite, ite_self]

@[simp] theorem State.endUnit_od (u : Unit16) : (s.endUnit u).od = s.od := by
  simp -implicitDefEqProofs only [State.endUnit, State.enterIdle_od, State.writeRecords_od, State.od_ite, ite_self]

@[simp] theorem State.closeUnit_od (u : Unit16) (cause : CloseCause) (at_ : Nat) : (s.closeUnit u cause at_).od = s.od := by
  simp -implicitDefEqProofs only [State.closeUnit, State.checkClosed_od, State.modTu_od, State.od_ite, ite_self]

@[simp] theorem State.pulseStl_od (u start : Nat) : (s.pulseStl u start).od = s.od := by
  simp -implicitDefEqProofs only [State.pulseStl, State.forAll_od, implies_true, State.od_ite, ite_self]

@[simp] theorem State.tuGates_od (u t : Nat) : (s.tuGates u t).od = s.od := by
  simp -implicitDefEqProofs only [State.tuGates, State.openGate_od, State.closeGateAt_od, State.forAll_od, implies_true, State.od_ite,
    ite_self]

@[simp] theorem State.makeEvent_od (u : Unit16) (src sample : Nat) (value : BitVec 64) : (s.makeEvent u src sample value).od = s.od := by
  unfold State.makeEvent
  simp -implicitDefEqProofs only [State.checkClosed_od, State.tuGates_od, State.pulseStl_od, State.pulseOut_od]
  refine (State.forAll_od (fun r s => ?_) _).trans (by rw [State.setF_od, State.setW_od, State.setTu_od])
  split
  · exact s.ovfRun_od ..
  · exact s.ovfRun_od ..
  · rfl

@[simp] theorem State.missSource_od (u : Unit16) : (s.missSource u).od = s.od := by
  simp -implicitDefEqProofs only [State.missSource, State.countSat_od, State.raise_od, State.modTu_od]

@[simp] theorem State.source_od (u : Unit16) (src sample : Nat) (value : BitVec 64) : (s.source u src sample value).od = s.od := by
  cases hg : (s.tu u).ghost <;> cases he : (s.tu u).event <;>
    simp -implicitDefEqProofs only [State.source, hg, he, State.makeEvent_od, State.closeUnit_od, State.endUnit_od, State.missSource_od,
      State.modTu_od, State.setF_od, State.setTu_od, State.raise_od, State.countSat_od, State.od_ite, ite_self]

@[simp] theorem State.forceSource_od (u : Unit16) (t : Nat) : (s.forceSource u t).od = s.od := by
  simp -implicitDefEqProofs only [State.forceSource, State.source_od]

@[simp] theorem State.applyTu_od (u : Unit16) : (s.applyTu u).od = s.od := by
  simp -implicitDefEqProofs only [State.applyTu, State.setW_od, State.forAll_od, implies_true]

@[simp] theorem State.overwrite_od (u : Unit16) (n : Ch) : (s.overwrite u n).od = s.od := by
  unfold State.overwrite
  dsimp only
  split <;> simp -implicitDefEqProofs only [State.countSat_od, State.raise_od, State.freeRecord_od]

@[simp] theorem State.makeRoom_od (u : Unit16) : (s.makeRoom u).od = s.od := by
  simp -implicitDefEqProofs only [State.makeRoom, State.overwrite_od, State.forAll_od, implies_true, State.od_ite, ite_self]

@[simp] theorem State.waitFull_od (u : Unit16) : (s.waitFull u).od = s.od := by
  simp -implicitDefEqProofs only [State.waitFull, State.setF_od]

@[simp] theorem State.enterArmed_od (u : Unit16) (t dead : Nat) : (s.enterArmed u t dead).od = s.od := by
  simp -implicitDefEqProofs only [State.enterArmed, State.modChan_od, State.setF_od, State.makeRoom_od, State.waitFull_od,
    State.setTu_od, State.setNext_od, State.forAll_od, implies_true, State.od_ite, ite_self]

@[simp] theorem State.arm_od (u : Unit16) : (s.arm u).od = s.od := by
  simp -implicitDefEqProofs only [State.arm, State.enterArmed_od, State.breakIdle_od, State.raise_od, State.modTu_od, State.applyTu_od,
    State.forAll_od, implies_true, State.od_ite, ite_self]

@[simp] theorem State.disarm_od (u : Unit16) : (s.disarm u).od = s.od := by
  simp -implicitDefEqProofs only [State.disarm, State.closeUnit_od, State.setF_od, State.enterIdle_od, State.endUnit_od, State.modTu_od,
    State.od_ite, ite_self]

@[simp] theorem State.tuCmd_od (u : Unit16) (w : Word) : (s.tuCmd u w).od = s.od := by
  cases h : (s.tu u).oldest <;>
    simp -implicitDefEqProofs only [State.tuCmd, h, State.reach_od, State.readRecord_od, State.releaseRecord_od, State.forceSource_od,
      State.arm_od, State.disarm_od, State.od_ite, ite_self]

@[simp] theorem State.writeTu_od (p : Path) (u : Unit16) (off : Nat) (r : RegRow) (w : Word) : (s.writeTu p u off r w).od = s.od := by
  simp -implicitDefEqProofs only [State.writeTu, State.tuCmd_od, State.stage_od, State.setW_od, State.unstage_od, State.setPair_od,
    State.od_ite, ite_self]

/-! ### Links -/

@[simp] theorem State.setLnk_od (l : Link) (f : Fld) (v : Nat) : (s.setLnk l f v).od = s.od := by
  simp -implicitDefEqProofs only [State.setLnk, State.setF_od]

@[simp] theorem State.modLink_od (l : Link) (g : LinkSt → LinkSt) : (s.modLink l g).od = s.od := by
  simp -implicitDefEqProofs only [State.modLink, State.setLink_od]

@[simp] theorem State.goLnk_od (l : Link) (v : Nat) : (s.goLnk l v).od = s.od := by
  simp -implicitDefEqProofs only [State.goLnk, State.setLnk_od]

@[simp] theorem State.setInsvc_od (l : Link) (m : Nat) : (s.setInsvc l m).od = s.od := by
  simp -implicitDefEqProofs only [State.setInsvc, State.setB_od, State.setLnk_od, State.forAll_od, implies_true]

@[simp] theorem State.leaveActive_od (l : Link) (st : Nat) : (s.leaveActive l st).od = s.od := by
  simp -implicitDefEqProofs only [State.leaveActive, State.modLink_od, State.goLnk_od, State.setInsvc_od, State.od_ite, ite_self]

@[simp] theorem State.lnkEn_od (l : Link) (en : Bool) : (s.lnkEn l en).od = s.od := by
  simp -implicitDefEqProofs only [State.lnkEn, State.modLink_od, State.setLnk_od, State.goLnk_od, State.leaveActive_od, State.od_ite,
    ite_self]

@[simp] theorem State.rejoin_od (l : Link) : (s.rejoin l).od = s.od := by
  simp -implicitDefEqProofs only [State.rejoin, State.modLink_od, State.setLnk_od, State.forAll_od, implies_true]

@[simp] theorem State.raiseLnk_od (l : Link) (f : Fld) : (s.raiseLnk l f).od = s.od := by
  simp -implicitDefEqProofs only [State.raiseLnk, State.raise_od]

@[simp] theorem State.retrain_od (l : Link) : (s.retrain l).od = s.od := by
  simp -implicitDefEqProofs only [State.retrain, State.raiseLnk_od, State.leaveActive_od]

@[simp] theorem State.lnkRetrain_od (l : Link) (reset : Bool) : (s.lnkRetrain l reset).od = s.od := by
  simp -implicitDefEqProofs only [State.lnkRetrain, State.modLink_od, State.retrain_od, State.od_ite, ite_self]

@[simp] theorem State.enterTest_od (l : Link) : (s.enterTest l).od = s.od := by
  simp -implicitDefEqProofs only [State.enterTest, State.leaveActive_od, State.od_ite, ite_self]

@[simp] theorem State.exitTest_od (l : Link) : (s.exitTest l).od = s.od := by
  simp -implicitDefEqProofs only [State.exitTest, State.goLnk_od, State.od_ite, ite_self]

@[simp] theorem State.lnkCmd_od (l : Link) (w : Word) : (s.lnkCmd l w).od = s.od := by
  simp -implicitDefEqProofs only [State.lnkCmd, State.lnkRetrain_od, State.rejoin_od, State.exitTest_od, State.enterTest_od,
    State.od_ite, ite_self]

@[simp] theorem State.writeTest_od (l : Link) (w : Word) : (s.writeTest l w).od = s.od := by
  simp -implicitDefEqProofs only [State.writeTest, State.setLnk_od, State.setW_od, State.setPair_od, State.forAll_od, implies_true,
    State.od_ite, ite_self]

@[simp] theorem State.writeLink_od (l : Link) (off : Nat) (r : RegRow) (w : Word) : (s.writeLink l off r w).od = s.od := by
  simp -implicitDefEqProofs only [State.writeLink, State.lnkEn_od, State.lnkCmd_od, State.setW_od, State.writeTest_od, State.od_ite,
    ite_self]

/-! ### Time domains -/

@[simp] theorem State.setDm_od (d : Dom) (f : Fld) (v : Nat) : (s.setDm d f v).od = s.od := by
  simp -implicitDefEqProofs only [State.setDm, State.setF_od]

@[simp] theorem State.goDom_od (d : Dom) (st hr : Nat) : (s.goDom d st hr).od = s.od := by
  simp -implicitDefEqProofs only [State.goDom, State.setDm_od]

@[simp] theorem State.startDom_od (d : Dom) : (s.startDom d).od = s.od := by
  simp -implicitDefEqProofs only [State.startDom, State.goDom_od, State.od_ite, ite_self]

@[simp] theorem State.setDom_od (d : Dom) (x : DomSt) : (s.setDom d x).od = s.od := rfl

@[simp] theorem State.modDom_od (d : Dom) (g : DomSt → DomSt) : (s.modDom d g).od = s.od := by
  simp -implicitDefEqProofs only [State.modDom, State.setDom_od]

@[simp] theorem State.setDmPair_od (d : Dom) (a : Nat) (v : Int) : (s.setDmPair d a v).od = s.od := by
  simp -implicitDefEqProofs only [State.setDmPair, State.setPair_od]

@[simp] theorem State.setPend_od (d : Dom) (v : Option Int) : (s.setPend d v).od = s.od := by
  simp -implicitDefEqProofs only [State.setPend, State.setB_od, State.setDmPair_od, State.modDom_od]

@[simp] theorem State.stopDom_od (d : Dom) : (s.stopDom d).od = s.od := by
  simp -implicitDefEqProofs only [State.stopDom, State.setDm_od, State.setPend_od, State.setDom_od, State.goDom_od]

@[simp] theorem State.writePtpCfg_od (d : Dom) (w : Word) : (s.writePtpCfg d w).od = s.od := by
  simp -implicitDefEqProofs only [State.writePtpCfg, State.startDom_od, State.setW_od, State.stopDom_od, State.od_ite, ite_self]

@[simp] theorem State.acceptStep_od (d : Dom) : (s.acceptStep d).od = s.od := by
  unfold State.acceptStep
  split <;> simp -implicitDefEqProofs only [State.modDom_od]

@[simp] theorem State.raiseDm_od (d : Dom) (f : Fld) : (s.raiseDm d f).od = s.od := by
  simp -implicitDefEqProofs only [State.raiseDm, State.raise_od]

@[simp] theorem State.ptpAccept_od (d : Dom) : (s.ptpAccept d).od = s.od := by
  simp -implicitDefEqProofs only [State.ptpAccept, State.acceptStep_od, State.raiseDm_od, State.od_ite, ite_self]

@[simp] theorem State.resume_od (d : Dom) (st : Nat) : (s.resume d st).od = s.od := by
  simp -implicitDefEqProofs only [State.resume, State.modDom_od, State.goDom_od]

@[simp] theorem State.ptpAbsorb_od (d : Dom) : (s.ptpAbsorb d).od = s.od := by
  simp -implicitDefEqProofs only [State.ptpAbsorb, State.setDmPair_od, State.resume_od, State.setPend_od, State.modDom_od,
    State.raiseDm_od, State.od_ite, ite_self]

@[simp] theorem State.ptpReject_od (d : Dom) : (s.ptpReject d).od = s.od := by
  simp -implicitDefEqProofs only [State.ptpReject, State.setPend_od, State.modDom_od, State.goDom_od, State.raiseDm_od, State.od_ite,
    ite_self]

@[simp] theorem State.ptpCmd_od (d : Dom) (w : Word) : (s.ptpCmd d w).od = s.od := by
  simp -implicitDefEqProofs only [State.ptpCmd, State.ptpAccept_od, State.ptpAbsorb_od, State.ptpReject_od, State.od_ite, ite_self]

@[simp] theorem State.writeDom_od (p : Path) (d : Dom) (off : Nat) (r : RegRow) (w : Word) : (s.writeDom p d off r w).od = s.od := by
  simp -implicitDefEqProofs only [State.writeDom, State.stage_od, State.writePtpCfg_od, State.ptpCmd_od, State.setW_od,
    State.unstage_od, State.setPair_od, State.od_ite, ite_self]

/-! ### Device-wide registers -/

@[simp] theorem State.spCount_od : s.spCount.od = s.od := by
  simp -implicitDefEqProofs only [State.spCount, State.setB_od, State.setF_od]

@[simp] theorem State.showFuses_od : s.showFuses.od = s.od := by
  simp -implicitDefEqProofs only [State.showFuses, State.setF_od, State.setW_od, State.forAll_od, implies_true]

@[simp] theorem State.arrayStrobe_od (t : Nat) : (s.arrayStrobe t).od = s.od := by
  simp -implicitDefEqProofs only [State.arrayStrobe, State.countSat_od, State.applyTdac_od, State.forAll_od, implies_true, State.od_ite,
    ite_self]

@[simp] theorem State.writeArray_od (r : RegRow) (w : Word) : (s.writeArray r w).od = s.od := by
  simp -implicitDefEqProofs only [State.writeArray, State.setF_od, State.arrayStrobe_od, State.plain_od, State.od_ite, ite_self]

@[simp] theorem State.writePacer_od (k : Fin 8) (w : Word) : (s.writePacer k w).od = s.od := by
  simp -implicitDefEqProofs only [State.writePacer, State.setW_od]

@[simp] theorem State.writeSpmap_od (p : Spare) (w : Word) : (s.writeSpmap p w).od = s.od := by
  simp -implicitDefEqProofs only [State.writeSpmap, State.spCount_od, State.setF_od, State.raise_od, State.setTv_od, State.od_ite,
    ite_self]

@[simp] theorem State.raiseRef_od : s.raiseRef.od = s.od := by
  simp -implicitDefEqProofs only [State.raiseRef, State.raiseCal_od, State.forAll_od, implies_true]

@[simp] theorem State.markRefchg_od : s.markRefchg.od = s.od := rfl

@[simp] theorem State.switched_od (active : Nat) : (s.switched active).od = s.od := by
  simp -implicitDefEqProofs only [State.switched, State.markRefchg_od, State.countSat_od, State.setF_od, State.raise_od,
    State.raiseRef_od]

@[simp] theorem State.setTb_od (x : TbEng) : (s.setTb x).od = s.od := rfl

@[simp] theorem State.holdover_od : s.holdover.od = s.od := by
  simp -implicitDefEqProofs only [State.holdover, State.markRefchg_od, State.setF_od, State.raise_od, State.raiseRef_od, State.od_ite,
    ite_self]

@[simp] theorem State.toRefin_od : s.toRefin.od = s.od := by
  simp -implicitDefEqProofs only [State.toRefin, State.setTb_od, State.switched_od]

@[simp] theorem State.writeTbSrc_od (w : Word) : (s.writeTbSrc w).od = s.od := by
  simp -implicitDefEqProofs only [State.writeTbSrc, State.setTb_od, State.holdover_od, State.switched_od, State.toRefin_od,
    State.setTv_od, State.od_ite, ite_self]

@[simp] theorem State.snapshot_od : s.snapshot.od = s.od := by
  unfold State.snapshot
  refine (State.forAll_od (fun d s => ?_) _).trans (by rw [State.setPair_od, State.setW_od])
  dsimp only
  split <;> simp -implicitDefEqProofs only [State.setW_od, State.setF_od, State.setB_od]

@[simp] theorem State.paceMaxClr_od : s.paceMaxClr.od = s.od := by
  simp -implicitDefEqProofs only [State.paceMaxClr, State.setTb_od, State.setF_od]

@[simp] theorem State.writeAvs_od (m w : Word) : (s.writeAvs m w).od = s.od := by
  simp -implicitDefEqProofs only [State.writeAvs, State.setTb_od, State.setF_od, State.raise_od, State.setW_od, State.od_ite, ite_self]

@[simp] theorem State.closeBlock_od (p : Fin 32) (n : Ch) : (s.closeBlock p n).od = s.od := by
  unfold State.closeBlock
  dsimp only
  split <;> simp -implicitDefEqProofs only [State.send_od, State.countVat_od, State.od_ite, ite_self]

@[simp] theorem State.writeVp_od (p : Fin 32) (w : Word) : (s.writeVp p w).od = s.od := by
  simp -implicitDefEqProofs only [State.writeVp, State.modChan_od, State.breakIdle_od, State.raise_od, State.setW_od,
    State.closeBlock_od, State.forAll_od, implies_true, State.od_ite, ite_self]

@[simp] theorem State.writeVsm_od (p : Fin 32) (k : Nat) (w : Word) : (s.writeVsm p k w).od = s.od := by
  simp -implicitDefEqProofs only [State.writeVsm, State.modChan_od, State.breakIdle_od, State.setW_od, State.closeBlock_od,
    State.forAll_od, implies_true]

@[simp] theorem State.calCmd_od (w : Word) : (s.calCmd w).od = s.od := by
  simp -implicitDefEqProofs only [State.calCmd, State.calAbandon_od, State.raise_od, State.raiseCal_od, State.forAll_od, implies_true,
    State.od_ite, ite_self]

@[simp] theorem State.vaStep_od : s.vaStep.od = s.od := by
  simp -implicitDefEqProofs only [State.vaStep, State.setF_od, State.od_ite, ite_self]

@[simp] theorem State.writeCalVd_od (w : Word) : (s.writeCalVd w).od = s.od := by
  simp -implicitDefEqProofs only [State.writeCalVd, State.calAbandon_od, State.raise_od, State.setCal_od, State.vaStep_od, State.od_ite,
    ite_self]

@[simp] theorem State.setPort_od (p : Port) (x : PortSt) : (s.setPort p x).od = s.od := rfl

@[simp] theorem State.netDrop_od (k : Nat) : (s.netDrop k).od = s.od := by
  simp -implicitDefEqProofs only [State.netDrop, State.raise_od, State.count_od, State.od_ite, ite_self]

@[simp] theorem State.linkDown_od (p : Port) : (s.linkDown p).od = s.od := by
  simp -implicitDefEqProofs only [State.linkDown, State.setPort_od, State.setF_od, State.netDrop_od, State.setW_od]

@[simp] theorem State.writeNetCfg_od (w : Word) : (s.writeNetCfg w).od = s.od := by
  simp -implicitDefEqProofs only [State.writeNetCfg, State.linkDown_od, State.setF_od, State.setW_od, State.od_ite, ite_self]

@[simp] theorem State.setFnLock_od : s.setFnLock.od = s.od := by
  simp -implicitDefEqProofs only [State.setFnLock, State.setTv_od]

@[simp] theorem State.writeKey_od (p : Path) (key : BitVec 16) : (s.writeKey p key).od = s.od := by
  unfold State.writeKey
  dsimp only
  split <;> simp -implicitDefEqProofs only [State.setF_od, State.raise_od, State.od_ite, ite_self]

@[simp] theorem State.mpStep_od : s.mpStep.od = s.od := by
  simp -implicitDefEqProofs only [State.mpStep, State.setF_od, State.od_ite, ite_self]

@[simp] theorem State.putLake_od (a : Nat) (w : Word) : (s.putLake a w).od = s.od := by
  unfold State.putLake
  dsimp only
  split <;> simp -implicitDefEqProofs only [State.putLakeAt_od]

@[simp] theorem State.mpWrite_od (w : Word) : (s.mpWrite w).od = s.od := by
  simp -implicitDefEqProofs only [State.mpWrite, State.mpStep_od, State.putLake_od, State.putVat_od, State.raise_od, State.putLakeAt_od,
    State.od_ite, ite_self]

/-- A soft reset starts the dictionary server anew (R308). -/
theorem State.softReset_od : s.softReset.od = OdSt.reset := by
  unfold State.softReset
  simp -implicitDefEqProofs only [State.spCount_od, State.od_ite, State.showFuses_od, ite_self, State.forAll_od, implies_true, State.setF_od,
    State.setB_od, State.setW_od]
  rfl

/-- Only GO gives the dictionary server a mailbox request (R268). -/
theorem State.writeOdmCtl_od {w : Word} (p : Path) (r : RegRow) (h : F.DEV_ODM_CTL_GO.of w = 0) : (s.writeOdmCtl p r w).od = s.od := by
  simp -implicitDefEqProofs only [State.writeOdmCtl, h, if_true, State.plain_od]

theorem State.writeDev_od {a : Nat} {w : Word} (p : Path) (r : RegRow) (m : Word) (hc : a ≠ R.DEV_CMD)
    (hg : a = R.DEV_ODM_CTL → F.DEV_ODM_CTL_GO.of w = 0) : (s.writeDev p a r m w).od = s.od := by
  have ho : (if a = R.DEV_ODM_CTL then (s.writeOdmCtl p r w).od else s.od) = s.od := by
    split
    · next h => exact s.writeOdmCtl_od p r (hg h)
    · rfl
  simp -implicitDefEqProofs only [State.writeDev, hc, if_false, State.od_ite, State.setTv_od, State.modPath_od, State.writeArray_od,
    State.writePacer_od, State.writeSpmap_od, State.setW_od, State.writeTbSrc_od, State.setTb_od, State.snapshot_od, State.paceMaxClr_od,
    State.writeAvs_od, State.writeVp_od, State.writeVsm_od, State.calCmd_od, State.writeCalVd_od, State.writeNetCfg_od, State.setFnLock_od,
    State.writeKey_od, State.mpWrite_od, ite_self, ho]

/-- A register's own write leaves the dictionary server, but for a soft reset and the mailbox's GO. -/
theorem State.writeOwn_od {l : Loc} {a : Nat} {w : Word} (p : Path) (r : RegRow) (m : Word)
    (h : l.space = .dev → a ≠ R.DEV_CMD ∧ (a = R.DEV_ODM_CTL → F.DEV_ODM_CTL_GO.of w = 0)) : (s.writeOwn p l a r m w).od = s.od := by
  unfold State.writeOwn
  split
  · exact s.writeChan_od ..
  · exact s.writeSpare_od ..
  · exact s.writeTu_od ..
  · exact s.writeLink_od ..
  · exact s.writeDom_od ..
  · next hl => exact s.writeDev_od p r m (h hl).1 (h hl).2
  · rfl

/-- No register's own write but the mailbox's GO leaves a request for the dictionary server. -/
theorem State.writeOwn_mailbox {s : State} {l : Loc} {a : Nat} {w : Word} (p : Path) (r : RegRow) (m : Word) (hm : s.od.mailbox = none)
    (hg : a = R.DEV_ODM_CTL → F.DEV_ODM_CTL_GO.of w = 0) : (s.writeOwn p l a r m w).od.mailbox = none := by
  by_cases hc : l.space = .dev ∧ a = R.DEV_CMD
  · obtain ⟨hl, rfl⟩ := hc
    have e : s.writeOwn p l R.DEV_CMD r m w = if F.DEV_CMD_SRST.of w = 1 then s.softReset else s := by
      simp only [State.writeOwn, hl]
      rfl
    rw [e]
    split
    · rw [State.softReset_od]; rfl
    · exact hm
  · rw [s.writeOwn_od p r m fun hl => ⟨fun ha => hc ⟨hl, ha⟩, hg⟩, hm]

end Sys2Proof.Machine
end

section
/-!
SUPPORT. A write at an address, check by check (R279, R283, R285, R291): what refuses it, what a guarded
write needs, and that no write but the mailbox's GO leaves a request to serve.
-/

namespace Sys2Proof.Machine

variable {s t : State} {p : Path} {a : Nat} {be : BitVec 4} {w : Word} {r : RegRow}

/-! ### A path's part -/

@[simp] theorem State.path_modPath_other {p q : Path} (s : State) (g : PathSt → PathSt) (h : q ≠ p) : (s.modPath p g).path q = s.path q := by
  unfold State.path State.modPath
  cases p <;> cases q <;> simp_all [pathIdx, State.path]

theorem State.modPath_modPath (s : State) (g k : PathSt → PathSt) : (s.modPath p g).modPath p k = s.modPath p fun x => k (g x) := by
  cases p <;> simp [State.modPath, State.path, pathIdx]

/-- An update of registers and of the path's own part is a write by that path. -/
theorem State.OnlyRegs.modPath {l : List Nat} (h : s.OnlyRegs t l) (p : Path) (g : PathSt → PathSt) : s.OnlyRegsOf p (t.modPath p g) l := by
  obtain ⟨ht, hw⟩ := h
  refine ⟨?_, hw, fun q hq => ?_⟩
  · rw [ht]; rfl
  · rw [State.path_modPath_other t g hq, ht]; rfl

/-! ### Refused accesses (R279) -/

theorem State.accFault_onlyRegs (s : State) (p : Path) (c a : Nat) : s.OnlyRegs (s.accFault p c a) [R.PRT_STAT, R.PRT_FAULTA] :=
  ((State.OnlyRegs.refl s _).setW _ (by simp)).raise (by simp)

theorem State.accFault_od (s : State) (p : Path) (c a : Nat) : (s.accFault p c a).od = s.od := by
  rw [State.accFault, State.raise_od, State.setW_od]

theorem State.accFault_fields (s : State) (p : Path) {c : Nat} (hc : c < 4) (ha : a < 2 ^ 24) :
    (s.accFault p c a).fb 0 F.PRT_STAT_ACC_FAULT = true ∧ (s.accFault p c a).f 0 F.PRT_FAULTA_ADDR = a ∧
    (s.accFault p c a).f 0 F.PRT_FAULTA_CAUSE = c ∧ (s.accFault p c a).f 0 F.PRT_FAULTA_PATH = p.idx := by
  have hp : p.idx < 4 := by cases p <;> decide
  refine ⟨?_, ?_, ?_, ?_⟩
  · unfold State.accFault State.fb State.raise
    rw [State.f_setF _ _ _ _ (by decide)]
    rfl
  all_goals
    unfold State.accFault State.raise
    rw [State.f_setF_other _ _ (by decide), State.f_setW, if_pos (by decide)]
  · rw [Fld.of_into_apart _ _ _ _ (by decide) (by decide) (by decide), Fld.of_into_apart _ _ _ _ (by decide) (by decide) (by decide),
      Fld.of_into _ _ _ (by decide), Nat.mod_eq_of_lt ha]
  · rw [Fld.of_into_apart _ _ _ _ (by decide) (by decide) (by decide), Fld.of_into _ _ _ (by decide)]
    exact Nat.mod_eq_of_lt hc
  · rw [Fld.of_into _ _ _ (by decide)]
    exact Nat.mod_eq_of_lt hp

/-- ACC_FAULT with an answer of 1 is what a refused access leaves. -/
theorem State.accFault_refused (s : State) {c : Nat} {g : PathSt → PathSt} (hc : c < 4) (ha : a < 2 ^ 24) (hg : ∀ x, (g x).resp = 1) :
    s.AccessRefused p c a ((s.accFault p c a).modPath p g) := by
  obtain ⟨h1, h2, h3, h4⟩ := s.accFault_fields p hc ha
  exact ⟨h1, h2, h3, h4, by rw [State.path_modPath_same]; exact hg _, (s.accFault_onlyRegs p c a).modPath p g⟩

/-! ### A write at an address, check by check (R279, R283, R285, R291) -/

/-- A write to an implemented register whose path may write: the checks of the register, then its own write. -/
def State.writeRow (p : Path) (a : Nat) (be : BitVec 4) (w : Word) (r : RegRow) (s : State) : Resp × State :=
  if be ≠ 0xF#4 ∧ r.wide = true then (.refused, s.accFault p causeWidth a)
  else if a = R.MP_DATA ∧ s.mpInside = false then (.refused, s.accFault p causePlace a)
  else if r.guarded = true ∧ ¬(a = R.PRT_LOCK ∧ F.PRT_LOCK_FN_LOCK.of w = 1) then
    if (s.guard p).1 = true then (.ok, (s.guard p).2.writeOwn p (locate a) a r (beMask be) (s.written p a be w))
    else (.guarded, (s.guard p).2)
  else (.ok, (s.preWrite r).writeOwn p (locate a) a r (beMask be) (s.written p a be w))

theorem State.writeAt_misaligned (h : beAligned a be = false) : s.writeAt p a be w = (.refused, s.accFault p causeAlign a) := by
  simp [State.writeAt, h]

theorem State.writeAt_blocked (h : beAligned a be = true) (hl : s.tvB 0 F.DEV_MODE_LCP_WR = false) (hu : a ≠ R.PRT_UNLOCK)
    (hk : a ≠ R.PRT_LOCK) : s.writeAt .lcp a be w = (.refused, s.accFault .lcp causePath a) := by
  simp [State.writeAt, h, hl, hu, hk]

/-- A path that may write, or one of the two registers that the LCP always may (R285). -/
def State.Admits (s : State) (p : Path) (a : Nat) : Prop := s.Writes p ∨ a = R.PRT_UNLOCK ∨ a = R.PRT_LOCK

theorem State.Admits.notBlocked (h : s.Admits p a) :
    (p = .lcp && !s.tvB 0 F.DEV_MODE_LCP_WR && a ≠ R.PRT_UNLOCK && a ≠ R.PRT_LOCK) = false := by
  rcases h with h | h | h
  · by_cases hp : p = .lcp
    · simp [h hp]
    · simp [hp]
  · simp [h]
  · simp [h]

section Admitted
variable (ha : beAligned a be = true) (hp : s.Admits p a)
include ha hp

theorem State.writeAt_aperture (hs : (locate a).space = .bcast ∨ (locate a).space = .group) :
    s.writeAt p a be w = if be = 0xF#4 then (.ok, s.writeAperture p (locate a) w) else (.refused, s.accFault p causeWidth a) := by
  unfold State.writeAt
  rw [hp.notBlocked]
  simp [ha, hs]

theorem State.writeAt_unmapped (hb : (locate a).space ≠ .bcast) (hg : (locate a).space ≠ .group)
    (h : (locate a).space = .active ∨ rowAt a = none) : s.writeAt p a be w = (.ok, s) := by
  unfold State.writeAt
  rw [hp.notBlocked]
  rcases h with h | h
  · simp [ha, h]
  · simp [ha, hb, hg, h]

theorem State.writeAt_row (hs : (locate a).space ∉ [Space.bcast, .group, .active]) (hr : rowAt a = some r) :
    s.writeAt p a be w = s.writeRow p a be w r := by
  unfold State.writeAt State.writeRow State.written
  rw [hp.notBlocked, hr]
  simp only [List.mem_cons, List.not_mem_nil, or_false, not_or] at hs
  obtain ⟨hb, hg, hact⟩ := hs
  simp only [ha, hb, hg, hact, Bool.not_true, Bool.false_eq_true, if_false, or_self]
  have hv : (if (be == 0xF#4) = true then w else (s.mergeBase p a &&& ~~~beMask be) ||| (w &&& beMask be)) =
      if be = 0xF#4 then w else (s.mergeBase p a &&& ~~~beMask be) ||| (w &&& beMask be) := by simp
  refine ite_congr (by simp) (fun _ => rfl) fun _ => ite_congr (by simp) (fun _ => rfl) fun _ => ite_congr ?_ (fun _ => ?_) fun _ => ?_
  · simp [imp_iff_not_or]
  · rw [hv]
    rcases s.guard p with ⟨_ | _, u⟩ <;> rfl
  · rw [hv]
end Admitted

/-! ### What a guarded write needs (R291, R292, R302) -/

theorem State.guard_od (s : State) (p : Path) : (s.guard p).2.od = s.od := by
  unfold State.guard
  split
  · rfl
  · split
    · rfl
    · exact s.raise_od ..

theorem State.guard_admits (s : State) (p : Path) : (s.guard p).1 = true ↔ lockOf p = none ∨ (s.Unlocked p ∧ s.cfgDone = true) := by
  unfold State.guard State.Unlocked
  cases lockOf p with
  | none => simp
  | some i =>
    simp only [reduceCtorEq, false_or]
    split
    · next h =>
      simp only [Bool.and_eq_true, Bool.not_eq_true'] at h
      obtain ⟨⟨hc, ha⟩, hd⟩ := h
      exact iff_of_true rfl ⟨⟨ha, hd⟩, hc⟩
    · next h =>
      refine iff_of_false Bool.false_ne_true ?_
      rintro ⟨⟨ha, hd⟩, hc⟩
      exact h (by simp [ha, hd, hc])

/-- A guarded write that is not admitted sets GUARD_REJ (R291). -/
theorem State.guard_rejects (h : (s.guard p).1 = false) : (s.guard p).2 = s.raise 0 F.PRT_STAT_GUARD_REJ := by
  unfold State.guard at h ⊢
  split at h
  · cases h
  · split at h
    · cases h
    · next hc => simp only [hc]; rfl

/-! ### A mailbox request comes of GO alone -/

theorem State.preWrite_od (s : State) (r : RegRow) : (s.preWrite r).od = s.od := by
  unfold State.preWrite
  split
  · exact s.raise_od ..
  · rfl

theorem State.sameCycle_od {α : Type} {g : α → State → State} (h : ∀ x s, (g x s).od = s.od) (l : List α) (s : State) :
    (s.sameCycle l g).od = s.od := by
  unfold State.sameCycle
  dsimp only
  generalize hr : (s, s.now) = r
  have e : r.1.od = s.od := by rw [← hr]
  clear hr
  induction l generalizing r with
  | nil => exact e
  | cons x l ih => exact ih _ ((h x _).trans e)

theorem State.writeAperture_od (s : State) (p : Path) (l : Loc) (w : Word) : (s.writeAperture p l w).od = s.od := by
  unfold State.writeAperture
  split
  · split
    · rw [State.sameCycle_od (fun n x => x.writeChan_od ..), State.preWrite_od]
    · rfl
  · rfl

theorem rowAt_DEV_ODM_CTL_wide (h : rowAt R.DEV_ODM_CTL = some r) : r.wide = true ∧ r.guarded = false := by
  obtain rfl : (rowAt R.DEV_ODM_CTL).get (by decide) = r := by simp [h]
  decide

theorem State.writeRow_mailbox (hm : s.od.mailbox = none) (hr : rowAt a = some r) (hg : a = R.DEV_ODM_CTL → F.DEV_ODM_CTL_GO.of w = 0) :
    (s.writeRow p a be w r).2.od.mailbox = none := by
  unfold State.writeRow
  split
  · rw [State.accFault_od, hm]
  next hwide =>
  have hv : a = R.DEV_ODM_CTL → F.DEV_ODM_CTL_GO.of (s.written p a be w) = 0 := by
    rintro rfl
    have hb : be = 0xF#4 := by
      by_contra hb
      exact hwide ⟨hb, (rowAt_DEV_ODM_CTL_wide hr).1⟩
    simpa [State.written, hb] using hg rfl
  split
  · rw [State.accFault_od, hm]
  · split
    · split
      · exact State.writeOwn_mailbox p r _ (by rw [State.guard_od, hm]) hv
      · rw [State.guard_od, hm]
    · exact State.writeOwn_mailbox p r _ (by rw [State.preWrite_od, hm]) hv

/-- A write at an address brings no mailbox request but by GO (R268). -/
theorem State.writeAt_mailbox (hm : s.od.mailbox = none) (hg : a = R.DEV_ODM_CTL → F.DEV_ODM_CTL_GO.of w = 0) :
    (s.writeAt p a be w).2.od.mailbox = none := by
  cases ha : beAligned a be with
  | false => rw [State.writeAt_misaligned ha, State.accFault_od, hm]
  | true =>
    by_cases hp : s.Admits p a
    · by_cases hs : (locate a).space = .bcast ∨ (locate a).space = .group
      · rw [State.writeAt_aperture ha hp hs]
        split
        · rw [State.writeAperture_od, hm]
        · rw [State.accFault_od, hm]
      · obtain ⟨hb, hgr⟩ := not_or.1 hs
        by_cases hu : (locate a).space = .active ∨ rowAt a = none
        · rw [State.writeAt_unmapped ha hp hb hgr hu]
          exact hm
        · obtain ⟨hact, hrow⟩ := not_or.1 hu
          obtain ⟨r, hr⟩ := Option.ne_none_iff_exists'.1 hrow
          rw [State.writeAt_row ha hp (by simp [hb, hgr, hact]) hr]
          exact State.writeRow_mailbox hm hr hg
    · simp only [State.Admits, State.Writes, not_or, Classical.not_imp, Bool.not_eq_true] at hp
      obtain ⟨⟨rfl, hl⟩, hu, hk⟩ := hp
      rw [State.writeAt_blocked ha hl hu hk, State.accFault_od, hm]

/-! ### The answer of an access -/

/-- The path's answer of the write at an address, with no mailbox request to serve. -/
theorem State.pathWrite_at (hid : a ≠ R.ID) (hm : s.od.mailbox = none) (hg : a = R.DEV_ODM_CTL → F.DEV_ODM_CTL_GO.of w = 0) :
    (s.pathWrite p a be w).2 = (s.writeAt p a be w).2.modPath p fun x => { x with resp := (s.writeAt p a be w).1.code } := by
  unfold State.pathWrite State.writeReg
  rw [if_neg hid]
  exact State.serveMailbox_none (State.writeAt_mailbox hm hg)

theorem exec_registerWrite (s : State) (p : Path) (addr : BitVec 24) (be : BitVec 4) (w : Word) :
    exec (.registerWrite p addr be w) s = .next (s.pathWrite p addr.toNat be w).2 := rfl

theorem exec_apertureWrite (s : State) (p : Path) (g : Option (Fin 16)) (off : BitVec 12) (be : BitVec 4) (w : Word) :
    exec (.apertureWrite p g off be w) s = .next (s.pathWrite p (apertureAt g off) be w).2 := rfl

theorem exec_indirectAccess (s : State) (p : Path) (b : Bool) (w : Word) : exec (.indirectAccess p b w) s = .next (s.indirect p b w) := rfl

theorem exec_fnLockSet (s : State) (p : Path) : exec (.fnLockSet p) s = .next (s.wr p R.PRT_LOCK (F.PRT_LOCK_FN_LOCK.into 0#32 1)) := rfl

end Sys2Proof.Machine
end

section
/-!
PROOFS. REGISTER_WRITE and APERTURE_WRITE (R279, R283, R291): registers that store what is written, guarded
registers, refused writes, and the members of an aperture.
-/

namespace Sys2Proof.Machine

variable {s t : State} {p : Path} {a : Nat} {be : BitVec 4} {w : Word} {r : RegRow}

/-! ### Registers that store what is written: the group masks -/

/-- Where the device-wide blocks below the trigger units lie. -/
theorem locate_dev (h : a < 0x2000) : locate a = ⟨.dev, 0, a⟩ := by
  unfold locate
  rw [if_neg (by omega), if_neg (by omega), if_neg (by omega), if_neg (by omega), if_neg (by omega), if_neg (by omega), if_neg (by omega),
    if_pos (by omega)]

/-- The row of each group mask: every bit is written and read as it is stored, unguarded and at any width. -/
theorem row_UG_MASK (g : Fin 16) (j : Fin 4) :
    ∃ r, rowAt (R.UG_MASK + 0x20 * g.val + 4 * j.val) = some r ∧ r.guarded = false ∧ r.wide = false ∧ r.rw = 0xFFFFFFFF#32 ∧ r.w1c = 0#32 ∧
      r.tvs = 0#32 := by
  have h : ∀ (g : Fin 16) (j : Fin 4), (rowAt (R.UG_MASK + 0x20 * g.val + 4 * j.val)).any (fun r => !r.guarded && !r.wide &&
      r.rw == 0xFFFFFFFF#32 && r.w1c == 0#32 && r.tvs == 0#32) = true := by decide +kernel
  obtain ⟨r, hr, hp⟩ := (Option.any_eq_true ..).1 (h g j)
  simp only [Bool.and_eq_true, Bool.not_eq_true', beq_iff_eq] at hp
  obtain ⟨⟨⟨⟨hg, hw⟩, hrw⟩, hc⟩, ht⟩ := hp
  exact ⟨r, hr, hg, hw, hrw, hc, ht⟩

/-- A register all of whose bits are written stores the word. -/
theorem RegRow.stored_full (hrw : r.rw = 0xFFFFFFFF#32) (hc : r.w1c = 0#32) (old w : Word) : r.stored old w = w := by
  unfold RegRow.stored
  rw [hrw, hc]
  simp only [show 0xFFFFFFFF#32 = BitVec.allOnes 32 from rfl, BitVec.not_allOnes, BitVec.and_zero, BitVec.zero_or, BitVec.not_zero,
    BitVec.and_allOnes]

/-- No register from 0x500 up to 0x700 has a write of its own: those addresses hold the group masks. -/
theorem State.writeDev_mask (h : 0x500 ≤ a) (h' : a < 0x700) (s : State) (p : Path) (r : RegRow) (m w : Word) :
    s.writeDev p a r m w = s.setW a (r.stored (s.w a) w) := by
  have hne : ∀ k, (k < 0x500 ∨ 0x700 ≤ k) → (a = k) = False := fun k hk => eq_false (by omega)
  have hrange : ∀ k n, (k + n ≤ 0x500 ∨ 0x700 ≤ k) → (k ≤ a ∧ a < k + n) = False := fun k n hk => eq_false (by omega)
  simp (disch := decide) only [State.writeDev, hne, hrange, or_self, if_false]

theorem State.readDev_mask (h : 0x500 ≤ a) (h' : a < 0x700) (s : State) (p : Path) (r : RegRow) :
    s.readDev p a r = (((s.tvW a &&& r.tvs) ||| (s.w a &&& ~~~r.tvs)), s) := by
  have hne : ∀ k, (k < 0x500 ∨ 0x700 ≤ k) → (a = k) = False := fun k hk => eq_false (by omega)
  simp (disch := decide) only [State.readDev, hne, if_false]

theorem mask_address (g : Fin 16) (j : Fin 4) (ha : a = R.UG_MASK + 0x20 * g.val + 4 * j.val) : 0x500 ≤ a ∧ a < 0x700 ∧ a % 4 = 0 := by
  have : R.UG_MASK = 0x500 := rfl
  omega

/-- A group mask takes the word written. -/
theorem State.writeAt_mask {g : Fin 16} {j : Fin 4} (hs : s.Serves) (hp : s.Writes p) (ha : a = R.UG_MASK + 0x20 * g.val + 4 * j.val)
    (hb : be ≠ 0x6#4) (w : Word) : s.writeAt p a be w = (.ok, s.setW a (s.written p a be w)) := by
  obtain ⟨hlo, hhi, h4⟩ := mask_address g j ha
  obtain ⟨r, hr, hg, hw, hrw, hc, -⟩ := row_UG_MASK g j
  rw [← ha] at hr
  have hl := locate_dev (a := a) (by omega)
  have hmp : a ≠ R.MP_DATA := by rintro rfl; exact absurd hhi (by decide)
  rw [State.writeAt_row (by simp [beAligned, h4, hb]) (.inl hp) (by simp [hl]) hr, State.writeRow, if_neg (by simp [hw]),
    if_neg (by simp [hmp]), if_neg (by simp [hg]), State.preWrite_done hs.1, State.writeOwn, hl]
  simp only [State.writeDev_mask hlo hhi, RegRow.stored_full hrw hc]

theorem mask_ne_odmCtl {g : Fin 16} {j : Fin 4} (ha : a = R.UG_MASK + 0x20 * g.val + 4 * j.val) : a ≠ R.DEV_ODM_CTL := by
  obtain ⟨hlo, -, -⟩ := mask_address g j ha
  rintro rfl
  exact absurd hlo (by decide)

theorem mask_ne_id {g : Fin 16} {j : Fin 4} (ha : a = R.UG_MASK + 0x20 * g.val + 4 * j.val) : a ≠ R.IA ∧ a ≠ R.ID := by
  obtain ⟨hlo, -, -⟩ := mask_address g j ha
  constructor <;> (rintro rfl; exact absurd hlo (by decide))

theorem State.pathWrite_mask {g : Fin 16} {j : Fin 4} (hs : s.Serves) (hp : s.Writes p) (ha : a = R.UG_MASK + 0x20 * g.val + 4 * j.val)
    (hb : be ≠ 0x6#4) (w : Word) :
    (s.pathWrite p a be w).2 = (s.setW a (s.written p a be w)).modPath p fun x => { x with resp := 0 } := by
  rw [State.pathWrite_at (mask_ne_id ha).2 hs.2 fun h => absurd h (mask_ne_odmCtl ha), State.writeAt_mask hs hp ha hb]
  rfl

theorem State.written_full (s : State) (p : Path) (a : Nat) (w : Word) : s.written p a 0xF#4 w = w := by simp [State.written]

/-- REGISTER_WRITE of a group mask stores the word. -/
theorem registerWrite_mask {addr : BitVec 24} {g : Fin 16} {j : Fin 4} (hs : s.Serves) (hp : s.Writes p)
    (ha : addr.toNat = R.UG_MASK + 0x20 * g.val + 4 * j.val) (w : Word) :
    ∃ t, exec (.registerWrite p addr 0xF#4 w) s = .next t ∧ t.w addr.toNat = w ∧ (t.path p).resp = 0 ∧ s.OnlyRegsOf p t [addr.toNat] := by
  refine ⟨_, exec_registerWrite .., ?_⟩
  rw [State.pathWrite_mask hs hp ha (by decide), State.written_full]
  exact ⟨State.w_setW_same s _ w, by simp, ((State.OnlyRegs.refl s _).setW w (by simp)).modPath p _⟩

/-- A half-word write of a group mask merges its byte lanes. -/
theorem registerWrite_mask_upper {addr : BitVec 24} {g : Fin 16} {j : Fin 4} (hs : s.Serves) (hp : s.Writes p)
    (hst : s.staged? p addr.toNat = none) (ha : addr.toNat = R.UG_MASK + 0x20 * g.val + 4 * j.val) (w : Word) :
    ∃ t, exec (.registerWrite p addr 0xC#4 w) s = .next t ∧ t.w addr.toNat = (s.w addr.toNat &&& 0x0000FFFF#32) ||| (w &&& 0xFFFF0000#32) ∧
      s.OnlyRegsOf p t [addr.toNat] := by
  have hm : beMask 0xC#4 = 0xFFFF0000#32 := by decide
  have hw : s.written p addr.toNat 0xC#4 w = (s.w addr.toNat &&& 0x0000FFFF#32) ||| (w &&& 0xFFFF0000#32) := by
    rw [State.written, if_neg (by decide), State.mergeBase, if_neg (mask_ne_id ha).1, hst, hm]
    rfl
  refine ⟨_, exec_registerWrite .., ?_⟩
  rw [State.pathWrite_mask hs hp ha (by decide), hw]
  exact ⟨State.w_setW_same s _ _, ((State.OnlyRegs.refl s _).setW _ (by simp)).modPath p _⟩

/-! ### NET_STAT and PRT_LOCK -/

theorem row_NET_STAT : ∃ r, rowAt R.NET_STAT = some r ∧ r.guarded = false ∧ r.rw = 0#32 ∧ r.w1c = 0xFE#32 := ⟨_, rfl, by decide, by decide, by decide⟩

theorem writeOwn_NET_STAT (s : State) (p : Path) (r : RegRow) (m w : Word) :
    s.writeOwn p (locate R.NET_STAT) R.NET_STAT r m w = s.setW R.NET_STAT (r.stored (s.w R.NET_STAT) w) := rfl

theorem writeOwn_PRT_LOCK (s : State) (p : Path) (r : RegRow) (m w : Word) :
    s.writeOwn p (locate R.PRT_LOCK) R.PRT_LOCK r m w = if F.PRT_LOCK_FN_LOCK.of w = 1 then s.setFnLock else s := rfl

/-- NET_STAT's flags are cleared by a 1 written, and its other fields are not written (R3). -/
theorem registerWrite_NET_STAT (hs : s.Serves) (hp : s.Writes p) (w : Word) :
    ∃ t, exec (.registerWrite p (BitVec.ofNat 24 R.NET_STAT) 0xF#4 w) s = .next t ∧ t.w R.NET_STAT = s.w R.NET_STAT &&& ~~~(w &&& 0xFE#32) ∧
      s.OnlyRegsOf p t [R.NET_STAT] := by
  obtain ⟨r, hr, hg, hrw, hc⟩ := row_NET_STAT
  have hst : r.stored (s.w R.NET_STAT) w = s.w R.NET_STAT &&& ~~~(w &&& 0xFE#32) := by
    simp only [RegRow.stored, hrw, hc, BitVec.and_zero, BitVec.or_zero]
    rw [show ~~~(0#32) = BitVec.allOnes 32 from rfl, BitVec.and_allOnes]
  refine ⟨_, exec_registerWrite .., ?_⟩
  change (s.wr p R.NET_STAT w).w R.NET_STAT = _ ∧ s.OnlyRegsOf p (s.wr p R.NET_STAT w) _
  rw [State.wr_own (by decide) (by decide) (by decide) (.inl hp) (by decide) hr (by simp [hg]) hs.1, writeOwn_NET_STAT, hst,
    State.serveMailbox_none (by exact hs.2)]
  exact ⟨State.w_setW_same s _ _, ((State.OnlyRegs.refl s _).setW _ (by simp)).modPath p _⟩

/-! ### What a register's own checks leave (R279, R291) -/

/-- An accepted write of an unguarded register is that register's own write. -/
theorem registerWrite_unguarded {addr : BitVec 24} (hm : s.od.mailbox = none) (hp : s.Writes p) (ha : beAligned addr.toNat be = true)
    (hid : addr.toNat ≠ R.ID) (hgo : addr.toNat = R.DEV_ODM_CTL → F.DEV_ODM_CTL_GO.of w = 0)
    (hs : (locate addr.toNat).space ∉ [Space.bcast, .group, .active]) (hr : rowAt addr.toNat = some r) (hb : be = 0xF#4 ∨ r.wide = false)
    (hmp : addr.toNat = R.MP_DATA → s.mpInside = true) (hg : r.guarded = false) :
    ∃ t, exec (.registerWrite p addr be w) s = .next t ∧ (t.path p).resp = 0 ∧
      t = ((s.preWrite r).writeOwn p (locate addr.toNat) addr.toNat r (beMask be) (s.written p addr.toNat be w)).modPath p
        fun x => { x with resp := 0 } := by
  have hw : s.writeRow p addr.toNat be w r =
      (.ok, (s.preWrite r).writeOwn p (locate addr.toNat) addr.toNat r (beMask be) (s.written p addr.toNat be w)) := by
    rw [State.writeRow, if_neg (by rintro ⟨h1, h2⟩; simp [h1, h2] at hb), if_neg (by rintro ⟨h1, h2⟩; simp [hmp h1] at h2),
      if_neg (by simp [hg])]
  refine ⟨_, exec_registerWrite .., ?_⟩
  rw [State.pathWrite_at hid hm hgo, State.writeAt_row ha (.inl hp) hs hr, hw]
  exact ⟨by simp [Resp.code], rfl⟩

/-- A guarded register's write takes place where the guard lets it, and else sets GUARD_REJ. -/
theorem registerWrite_guarded {addr : BitVec 24} (hm : s.od.mailbox = none) (hp : s.Writes p) (ha : beAligned addr.toNat be = true)
    (hid : addr.toNat ≠ R.ID) (hs : (locate addr.toNat).space ∉ [Space.bcast, .group, .active]) (hr : rowAt addr.toNat = some r)
    (hb : be = 0xF#4 ∨ r.wide = false) (hmp : addr.toNat = R.MP_DATA → s.mpInside = true) (hg : r.guarded = true)
    (hl : addr.toNat ≠ R.PRT_LOCK ∨ F.PRT_LOCK_FN_LOCK.of w = 0) :
    ∃ t, exec (.registerWrite p addr be w) s = .next t ∧
      ((s.guard p).1 = true → (t.path p).resp = 0 ∧
        t = ((s.guard p).2.writeOwn p (locate addr.toNat) addr.toNat r (beMask be) (s.written p addr.toNat be w)).modPath p
          fun x => { x with resp := 0 }) ∧
      ((s.guard p).1 = false → t.fb 0 F.PRT_STAT_GUARD_REJ = true ∧ (t.path p).resp = 2 ∧ s.OnlyRegsOf p t [R.PRT_STAT]) ∧
      ((s.guard p).1 = true ↔ lockOf p = none ∨ (s.Unlocked p ∧ s.cfgDone = true)) := by
  have hgo : addr.toNat = R.DEV_ODM_CTL → F.DEV_ODM_CTL_GO.of w = 0 := fun h => by
    rw [h] at hr
    simp [(rowAt_DEV_ODM_CTL_wide hr).2] at hg
  have hw : s.writeRow p addr.toNat be w r = if (s.guard p).1 = true then
      (.ok, (s.guard p).2.writeOwn p (locate addr.toNat) addr.toNat r (beMask be) (s.written p addr.toNat be w)) else (.guarded, (s.guard p).2) := by
    rw [State.writeRow, if_neg (by rintro ⟨h1, h2⟩; simp [h1, h2] at hb), if_neg (by rintro ⟨h1, h2⟩; simp [hmp h1] at h2),
      if_pos ⟨hg, by rintro ⟨h1, h2⟩; simp [h1, h2] at hl⟩]
  refine ⟨_, exec_registerWrite .., ?_⟩
  rw [State.pathWrite_at hid hm hgo, State.writeAt_row ha (.inl hp) hs hr, hw]
  refine ⟨fun h => ?_, fun h => ?_, s.guard_admits p⟩
  · rw [if_pos h]
    exact ⟨by simp [Resp.code], rfl⟩
  · rw [if_neg (by simp [h]), State.guard_rejects h]
    refine ⟨?_, by simp [Resp.code], ((State.OnlyRegs.refl s _).raise (by simp)).modPath p _⟩
    show decide ((s.raise 0 F.PRT_STAT_GUARD_REJ).f 0 F.PRT_STAT_GUARD_REJ = 1) = true
    rw [State.raise, State.f_setF _ _ _ _ (by decide)]
    rfl

/-- A guarded write consumes the path's unlock, and none else (R291). -/
theorem registerWrite_consumes {i : Fin 2} (hs : s.Serves) (hp : s.Writes p) (hu : s.Unlocked p) (hi : lockOf p = some i) :
    ∃ t, exec (.registerWrite p (BitVec.ofNat 24 R.PRT_LOCK) 0xF#4 0#32) s = .next t ∧ t.unlockBy[i] = none ∧ (t.path p).resp = 0 ∧
      (∀ j : Fin 2, j ≠ i → t.unlockBy[j] = s.unlockBy[j]) ∧ t = { s with unlockBy := t.unlockBy, paths := t.paths } := by
  obtain ⟨r, hr, hg, -, -⟩ := row_PRT_LOCK
  obtain ⟨t, ht, hok, -, -⟩ := registerWrite_guarded (addr := BitVec.ofNat 24 R.PRT_LOCK) (w := 0#32) hs.2 hp (be := 0xF#4) (by decide)
    (by decide) (by decide) hr (.inl rfl) (fun h => absurd h (by decide)) hg (.inr (by decide))
  have hc := State.guard_unlocked hs.1 hu
  obtain ⟨hresp, rfl⟩ := hok (by rw [hc])
  refine ⟨_, ht, ?_⟩
  have e : ((s.guard p).2.writeOwn p (locate (BitVec.ofNat 24 R.PRT_LOCK).toNat) (BitVec.ofNat 24 R.PRT_LOCK).toNat r (beMask 0xF#4)
      (s.written p (BitVec.ofNat 24 R.PRT_LOCK).toNat 0xF#4 0#32)) = { s with unlockBy := s.unlockBy.set i none } := by
    rw [State.written_full, hc, State.consumed, hi]
    rfl
  rw [e] at hresp ⊢
  refine ⟨?_, hresp, fun j hj => ?_, rfl⟩
  · simp [State.modPath]
  · have : j.val ≠ i.val := fun h => hj (Fin.ext h)
    simp [State.modPath, Vector.getElem_set_ne, this.symm]

/-! ### Refused writes (R279, R285, R297) -/

/-- A write that the checks at its address refuse for a cause leaves ACC_FAULT alone. -/
theorem pathWrite_refused {c : Nat} (hm : s.od.mailbox = none) (hid : a ≠ R.ID) (hc : c < 4) (ha : a < 2 ^ 24)
    (h : s.writeAt p a be w = (.refused, s.accFault p c a)) : s.AccessRefused p c a (s.pathWrite p a be w).2 := by
  have e : (s.pathWrite p a be w).2 = (s.accFault p c a).modPath p fun x => { x with resp := 1 } := by
    unfold State.pathWrite State.writeReg
    rw [if_neg hid, h]
    exact State.serveMailbox_none (by rw [State.modPath_od, State.accFault_od, hm])
  rw [e]
  exact s.accFault_refused hc ha fun _ => rfl

section Refused
variable {addr : BitVec 24} (hm : s.od.mailbox = none) (hid : addr.toNat ≠ R.ID)
include hm hid

theorem registerWrite_misaligned (ha : beAligned addr.toNat be = false) :
    ∃ t, exec (.registerWrite p addr be w) s = .next t ∧ s.AccessRefused p causeAlign addr.toNat t :=
  ⟨_, exec_registerWrite .., pathWrite_refused hm hid (by decide) addr.isLt (State.writeAt_misaligned ha)⟩

theorem registerWrite_lcp_blocked (ha : beAligned addr.toNat be = true) (hu : addr.toNat ∉ [R.ID, R.PRT_UNLOCK, R.PRT_LOCK])
    (hl : s.tvB 0 F.DEV_MODE_LCP_WR = false) :
    ∃ t, exec (.registerWrite .lcp addr be w) s = .next t ∧ s.AccessRefused .lcp causePath addr.toNat t := by
  simp only [List.mem_cons, List.not_mem_nil, or_false, not_or] at hu
  exact ⟨_, exec_registerWrite .., pathWrite_refused hm hid (by decide) addr.isLt (State.writeAt_blocked ha hl hu.2.1 hu.2.2)⟩

theorem registerWrite_narrow (hp : s.Writes p) (ha : beAligned addr.toNat be = true) (hb : be ≠ 0xF#4) (hact : (locate addr.toNat).space ≠ .active)
    (h : (locate addr.toNat).space = .bcast ∨ (locate addr.toNat).space = .group ∨ ∃ r ∈ rowAt addr.toNat, r.wide = true) :
    ∃ t, exec (.registerWrite p addr be w) s = .next t ∧ s.AccessRefused p causeWidth addr.toNat t := by
  refine ⟨_, exec_registerWrite .., pathWrite_refused hm hid (by decide) addr.isLt ?_⟩
  by_cases hs : (locate addr.toNat).space = .bcast ∨ (locate addr.toNat).space = .group
  · rw [State.writeAt_aperture ha (.inl hp) hs, if_neg hb]
  · obtain ⟨hbc, hgr⟩ := not_or.1 hs
    obtain ⟨r, hr, hw⟩ := (h.resolve_left hbc).resolve_left hgr
    rw [State.writeAt_row ha (.inl hp) (by simp [hbc, hgr, hact]) hr, State.writeRow, if_pos ⟨hb, hw⟩]

end Refused

/-- MP_DATA beyond the store is refused (R296). -/
theorem registerWrite_mpOutside (hm : s.od.mailbox = none) (hp : s.Writes p) (ho : s.mpInside = false) :
    ∃ t, exec (.registerWrite p (BitVec.ofNat 24 R.MP_DATA) 0xF#4 w) s = .next t ∧ s.AccessRefused p causePlace R.MP_DATA t := by
  obtain ⟨r, hr, -⟩ := row_MP_DATA
  refine ⟨_, exec_registerWrite .., pathWrite_refused (a := R.MP_DATA) hm (by decide) (by decide) (by decide) ?_⟩
  rw [State.writeAt_row (by decide) (.inl hp) (by decide) hr, State.writeRow, if_neg (by simp), if_pos ⟨rfl, ho⟩]

/-- Unmapped addresses and the active view take no write (R279, R282). -/
theorem registerWrite_unmapped {addr : BitVec 24} (hm : s.od.mailbox = none) (hp : s.Writes p) (ha : beAligned addr.toNat be = true)
    (hid : addr.toNat ≠ R.ID) (hb : (locate addr.toNat).space ≠ .bcast) (hg : (locate addr.toNat).space ≠ .group)
    (h : (locate addr.toNat).space = .active ∨ rowAt addr.toNat = none) :
    ∃ t, exec (.registerWrite p addr be w) s = .next t ∧ (t.path p).resp = 0 ∧ s.OnlyRegsOf p t [] := by
  have hw : s.writeAt p addr.toNat be w = (.ok, s) := State.writeAt_unmapped ha (.inl hp) hb hg h
  refine ⟨_, exec_registerWrite .., ?_⟩
  have e : (s.pathWrite p addr.toNat be w).2 = s.modPath p fun x => { x with resp := 0 } := by
    unfold State.pathWrite State.writeReg
    rw [if_neg hid, hw]
    exact State.serveMailbox_none (by rw [State.modPath_od, hm])
  rw [e]
  exact ⟨by simp, (State.OnlyRegs.refl s []).modPath p _⟩

/-! ### Apertures (R283) -/

/-- A full-word write to an aperture reaches its members. -/
theorem pathWrite_aperture (hm : s.od.mailbox = none) (hp : s.Writes p) (h4 : a % 4 = 0)
    (hs : (locate a).space = .bcast ∨ (locate a).space = .group) (hid : a ≠ R.ID) :
    (s.pathWrite p a 0xF#4 w).2 = (s.writeAperture p (locate a) w).modPath p fun x => { x with resp := 0 } := by
  have hodm : a ≠ R.DEV_ODM_CTL := by
    rintro rfl
    exact absurd hs (by decide)
  rw [State.pathWrite_at hid hm fun h => absurd h hodm, State.writeAt_aperture (by simp [beAligned, h4]) (.inl hp) hs, if_pos rfl]
  rfl

theorem registerWrite_aperture {addr : BitVec 24} (hm : s.od.mailbox = none) (hp : s.Writes p) (h4 : addr.toNat % 4 = 0)
    (hs : (locate addr.toNat).space = .bcast ∨ (locate addr.toNat).space = .group) (hid : addr.toNat ≠ R.ID) :
    ∃ t, exec (.registerWrite p addr 0xF#4 w) s = .next t ∧
      t = (s.writeAperture p (locate addr.toNat) w).modPath p fun x => { x with resp := 0 } :=
  ⟨_, exec_registerWrite .., pathWrite_aperture hm hp h4 hs hid⟩

theorem locate_apertureAt_none (off : BitVec 12) : locate (apertureAt none off) = ⟨.bcast, 0, off.toNat⟩ := by
  have := off.isLt
  unfold locate apertureAt
  dsimp only
  rw [if_neg (by omega), if_neg (by omega), if_pos (by omega)]
  simp only [Loc.mk.injEq, true_and]
  omega

theorem locate_apertureAt_some (g : Fin 16) (off : BitVec 12) : locate (apertureAt (some g) off) = ⟨.group, g.val, off.toNat⟩ := by
  have := off.isLt
  unfold locate apertureAt
  dsimp only
  rw [if_neg (by omega), if_neg (by omega), if_neg (by omega), if_pos (by omega)]
  simp only [Loc.mk.injEq, true_and]
  omega

theorem locate_apertureAt_space (g : Option (Fin 16)) (off : BitVec 12) :
    (locate (apertureAt g off)).space = .bcast ∨ (locate (apertureAt g off)).space = .group := by
  cases g with
  | none => exact .inl (by rw [locate_apertureAt_none])
  | some g => exact .inr (by rw [locate_apertureAt_some])

theorem locate_apertureAt_off (g : Option (Fin 16)) (off : BitVec 12) : (locate (apertureAt g off)).off = off.toNat := by
  cases g with
  | none => rw [locate_apertureAt_none]
  | some g => rw [locate_apertureAt_some]

/-- The apertures lie above every block of single registers, in the 24-bit space, at whole words for whole offsets. -/
theorem apertureAt_place (g : Option (Fin 16)) (off : BitVec 12) :
    0x1C0000 ≤ apertureAt g off ∧ apertureAt g off < 2 ^ 24 ∧ apertureAt g off % 4 = off.toNat % 4 := by
  have := off.isLt
  cases g <;> simp only [apertureAt] <;> omega

theorem apertureAt_ne {k : Nat} (hk : k < 0x1C0000) (g : Option (Fin 16)) (off : BitVec 12) : apertureAt g off ≠ k := by
  obtain ⟨h, -, -⟩ := apertureAt_place g off
  omega

theorem beAligned_apertureAt (g : Option (Fin 16)) (off : BitVec 12) (be : BitVec 4) :
    beAligned (apertureAt g off) be = beAligned off.toNat be := by
  obtain ⟨-, -, h⟩ := apertureAt_place g off
  rw [beAligned, beAligned, h]

/-- The members of an aperture are the channels that are not fused off, and of a group those in its mask. -/
theorem mem_members_apertureAt (s : State) (g : Option (Fin 16)) (off : BitVec 12) (n : Ch) :
    n ∈ s.members (locate (apertureAt g off)) ↔ s.fusedOff n = false ∧
      ∀ i ∈ g, (s.w (R.UG_MASK + 0x20 * i.val + 4 * (n.val / 32))).getLsbD (n.val % 32) = true := by
  cases g with
  | none => simp [State.members, locate_apertureAt_none, allCh]
  | some g => simp [State.members, locate_apertureAt_some, allCh]

theorem pathWrite_apertureAt (hm : s.od.mailbox = none) (hp : s.Writes p) (g : Option (Fin 16)) {off : BitVec 12} (h4 : off.toNat % 4 = 0)
    (w : Word) : (s.pathWrite p (apertureAt g off) 0xF#4 w).2 =
      (s.writeAperture p (locate (apertureAt g off)) w).modPath p fun x => { x with resp := 0 } :=
  pathWrite_aperture hm hp ((apertureAt_place g off).2.2.trans h4) (locate_apertureAt_space g off) (apertureAt_ne (by decide) g off)

/-- An aperture write is a write of the register at its offset in every member, in one cycle. -/
theorem apertureWrite_members (hm : s.od.mailbox = none) (hp : s.Writes p) (g : Option (Fin 16)) {off : BitVec 12} (h4 : off.toNat % 4 = 0)
    (w : Word) :
    ∃ t, exec (.apertureWrite p g off 0xF#4 w) s = .next t ∧ (t.path p).resp = 0 ∧
      (∀ r ∈ chanRows.find? (fun (x : RegRow) => x.covers off.toNat), off.toNat < 0x800 →
        t = ((s.preWrite r).sameCycle (s.members (locate (apertureAt g off))) (fun n x => x.writeChan p n off.toNat r w)).modPath p
          (fun x => { x with resp := 0 })) ∧
      ((chanRows.find? (fun (x : RegRow) => x.covers off.toNat) = none ∨ 0x800 ≤ off.toNat) → s.OnlyRegsOf p t []) := by
  refine ⟨_, exec_apertureWrite .., ?_⟩
  rw [pathWrite_apertureAt hm hp g h4]
  refine ⟨by simp, fun r hr hlt => ?_, fun h => ?_⟩
  · rw [Option.mem_def] at hr
    simp only [State.writeAperture, locate_apertureAt_off, hr, hlt, if_true]
  · have e : s.writeAperture p (locate (apertureAt g off)) w = s := by
      unfold State.writeAperture
      rw [locate_apertureAt_off]
      split
      · next hr => rw [if_neg (by simpa [hr] using h)]
      · rfl
    rw [e]
    exact (State.OnlyRegs.refl s []).modPath p _

theorem apertureWrite_refused (hm : s.od.mailbox = none) (p : Path) (g : Option (Fin 16)) (off : BitVec 12) (be : BitVec 4) (w : Word) :
    ∃ t, exec (.apertureWrite p g off be w) s = .next t ∧
      (beAligned off.toNat be = false → s.AccessRefused p causeAlign (apertureAt g off) t) ∧
      (beAligned off.toNat be = true → p = .lcp → s.tvB 0 F.DEV_MODE_LCP_WR = false → s.AccessRefused p causePath (apertureAt g off) t) ∧
      (beAligned off.toNat be = true → be ≠ 0xF#4 → (p ≠ .lcp ∨ s.tvB 0 F.DEV_MODE_LCP_WR = true) →
        s.AccessRefused p causeWidth (apertureAt g off) t) := by
  have hlt := (apertureAt_place g off).2.1
  have hne {k : Nat} (hk : k < 0x1C0000) := apertureAt_ne hk g off
  rw [← beAligned_apertureAt g off be]
  refine ⟨_, exec_apertureWrite .., fun ha => ?_, fun ha hl hw => ?_, fun ha hb hp => ?_⟩
  · exact pathWrite_refused hm (hne (by decide)) (by decide) hlt (State.writeAt_misaligned ha)
  · subst hl
    exact pathWrite_refused hm (hne (by decide)) (by decide) hlt (State.writeAt_blocked ha hw (hne (by decide)) (hne (by decide)))
  · have hp : s.Writes p := fun h => hp.resolve_left (not_not_intro h)
    refine pathWrite_refused hm (hne (by decide)) (by decide) hlt ?_
    rw [State.writeAt_aperture ha (.inl hp) (locate_apertureAt_space g off), if_neg hb]

end Sys2Proof.Machine
end

section
/-!
PROOFS. An aperture's write of CH_MD_WP in one cycle (R283), INDIRECT_ACCESS (R284) and FN_LOCK_SET (R294).
-/

namespace Sys2Proof.Machine

variable {s t : State} {p : Path} {a : Nat} {be : BitVec 4} {w : Word} {r : RegRow}

/-! ### One cycle of writes that take no time -/

/-- The clock at its own instant is that clock. -/
theorem Clock.at_self (c : Clock) : c.at (c.epx.toNat * 2 ^ 64 + c.ets.toNat) = c := by
  have h := c.ets.isLt
  have e1 : (c.epx.toNat * 2 ^ 64 + c.ets.toNat) / 2 ^ 64 = c.epx.toNat := by omega
  have e2 : BitVec.ofNat 64 (c.epx.toNat * 2 ^ 64 + c.ets.toNat) = c.ets := by
    apply BitVec.eq_of_toNat_eq
    rw [BitVec.toNat_ofNat]
    omega
  simp only [Clock.at, e1, e2, BitVec.ofNat_toNat, BitVec.setWidth_eq]

/-- Effects of one cycle that take no time are those effects in order. -/
theorem State.sameCycle_eq_forAll {α : Type} {g : α → State → State} (h : ∀ x s, (g x s).clk = s.clk) (l : List α) (s : State) :
    s.sameCycle l g = s.forAll l g := by
  have key : ∀ (l : List α) (u : State), u.clk = s.clk →
      l.foldl (fun (r : State × Nat) x => let t := g x { r.1 with clk := s.clk }; (t, max r.2 t.now)) (u, s.now) = (u.forAll l g, s.now) ∧
      (u.forAll l g).clk = s.clk := by
    intro l
    induction l with
    | nil => exact fun u hu => ⟨rfl, hu⟩
    | cons x l ih =>
      intro u hu
      have e : { u with clk := s.clk } = u := by rw [← hu]
      have hc : (g x u).clk = s.clk := (h x u).trans hu
      have hn : max s.now (g x u).now = s.now := by simp only [State.now, hc, max_self]
      rw [List.foldl_cons]
      dsimp only
      rw [e, hn]
      exact ih _ hc
  obtain ⟨hf, hc⟩ := key l s rfl
  unfold State.sameCycle
  dsimp only
  rw [hf]
  dsimp only
  rw [hc, State.now, Clock.at_self, ← hc]

/-- A word written to one register for each member of a list stands there. -/
theorem State.w_forAll_setW {α : Type} {l : List α} {x : α} (hx : x ∈ l) (k : α → Nat) (w : Word) (s : State) :
    (s.forAll l fun x u => u.setW (k x) w).w (k x) = w := by
  induction l using List.reverseRecOn with
  | nil => cases hx
  | append_singleton l y ih =>
    rw [State.forAll, List.foldl_append, List.foldl_cons, List.foldl_nil, State.w_setW]
    split
    · rfl
    · next hk =>
      rcases List.mem_append.1 hx with hl | hy
      · exact ih hl
      · exact absurd (congrArg k (List.mem_singleton.1 hy).symm) hk

theorem State.w_forAll_setW_other {α : Type} {l : List α} {k : α → Nat} {a : Nat} (ha : ∀ x ∈ l, k x ≠ a) (w : Word) (s : State) :
    (s.forAll l fun x u => u.setW (k x) w).w a = s.w a := by
  induction l generalizing s with
  | nil => rfl
  | cons x l ih =>
    exact (ih (fun y hy => ha y (List.mem_cons_of_mem _ hy)) _).trans (State.w_setW_other s w (ha x List.mem_cons_self))

theorem State.forAll_setW_regs {α : Type} (l : List α) (k : α → Nat) (w : Word) (s : State) :
    ∃ m, (s.forAll l fun x u => u.setW (k x) w) = { s with regs := m } := by
  induction l generalizing s with
  | nil => exact ⟨_, rfl⟩
  | cons x l ih => exact ih (s.setW (k x) w)

/-! ### CH_MD_WP through an aperture (R283) -/

theorem row_CH_MD_WP : ∃ r, (∀ k : Fin 16, (chanRows.find? fun (x : RegRow) => x.covers (R.CH_MD_WP + 4 * k.val)) = some r) ∧
    r.rw = 0xFFFFFFFF#32 ∧ r.w1c = 0#32 :=
  ⟨(chanRows.find? fun (x : RegRow) => x.covers R.CH_MD_WP).get (by decide), by decide, by decide, by decide⟩

/-- A claim does not hold CH_MD_WP, and no pair lies there. -/
theorem wp_unclaimed (k : Fin 16) : claimOffs.contains (R.CH_MD_WP + 4 * k.val) = false ∧ pairHigh .chan (R.CH_MD_WP + 4 * k.val) = false ∧
    pairLow .chan (R.CH_MD_WP + 4 * k.val) = false := by
  revert k
  decide

/-- CH_MD_WP stores the word written. -/
theorem State.writeChan_wp (hrw : r.rw = 0xFFFFFFFF#32) (hc : r.w1c = 0#32) (s : State) (p : Path) (n : Ch) (k : Fin 16) (w : Word) :
    s.writeChan p n (R.CH_MD_WP + 4 * k.val) r w = s.setW (chBase n + R.CH_MD_WP + 4 * k.val) w := by
  obtain ⟨hcl, hph, hpl⟩ := wp_unclaimed k
  have hk : 0x80 ≤ R.CH_MD_WP + 4 * k.val ∧ R.CH_MD_WP + 4 * k.val < 0xC0 := by
    have : R.CH_MD_WP = 0x80 := rfl
    omega
  have hne : ∀ o, (o < 0x80 ∨ 0xC0 ≤ o) → (R.CH_MD_WP + 4 * k.val = o) = False := fun o ho => eq_false (by omega)
  unfold State.writeChan
  dsimp only
  rw [hcl, hph, hpl, RegRow.stored_full hrw hc, Bool.and_false, Nat.add_assoc]
  simp (disch := decide) only [hne, Bool.false_eq_true, if_false, decide_false, Bool.or_self]

theorem wp_address_inj {n m : Ch} {k : Fin 16} (h : chBase n + R.CH_MD_WP + 4 * k.val = chBase m + R.CH_MD_WP + 4 * k.val) : n = m := by
  unfold chBase at h
  exact Fin.ext (by omega)

theorem apertureWrite_wp (hs : s.Serves) (hp : s.Writes p) (g : Option (Fin 16)) (w : Word) (k : Fin 16) :
    ∃ t, exec (.apertureWrite p g (BitVec.ofNat 12 (R.CH_MD_WP + 4 * k.val)) 0xF#4 w) s = .next t ∧
      (∀ n : Ch, s.fusedOff n = false → (∀ i ∈ g, (s.w (R.UG_MASK + 0x20 * i.val + 4 * (n.val / 32))).getLsbD (n.val % 32) = true) →
        t.w (chBase n + R.CH_MD_WP + 4 * k.val) = w) ∧
      (∀ n : Ch, (s.fusedOff n = true ∨ ∃ i ∈ g, (s.w (R.UG_MASK + 0x20 * i.val + 4 * (n.val / 32))).getLsbD (n.val % 32) = false) →
        t.w (chBase n + R.CH_MD_WP + 4 * k.val) = s.w (chBase n + R.CH_MD_WP + 4 * k.val)) ∧
      (∀ a, (∀ n : Ch, a ≠ chBase n + R.CH_MD_WP + 4 * k.val) → t.w a = s.w a) ∧ t = { s with regs := t.regs, paths := t.paths } := by
  set off := BitVec.ofNat 12 (R.CH_MD_WP + 4 * k.val) with hoff
  have ho : off.toNat = R.CH_MD_WP + 4 * k.val := by
    rw [hoff, BitVec.toNat_ofNat]
    exact Nat.mod_eq_of_lt (by have : R.CH_MD_WP = 0x80 := rfl; omega)
  have hlo : off.toNat < 0x800 ∧ off.toNat % 4 = 0 := by
    have : R.CH_MD_WP = 0x80 := rfl
    omega
  obtain ⟨r, hr, hrw, hc⟩ := row_CH_MD_WP
  obtain ⟨t, ht, -, hmem, -⟩ := apertureWrite_members hs.2 hp g hlo.2 w
  have key (n : Ch) := mem_members_apertureAt s g off n
  set l := s.members (locate (apertureAt g off))
  have e : t = (s.forAll l fun n u => u.setW (chBase n + R.CH_MD_WP + 4 * k.val) w).modPath p fun x => { x with resp := 0 } := by
    rw [hmem r (by rw [ho]; exact hr k) hlo.1, State.preWrite_done hs.1, ho]
    simp only [State.writeChan_wp hrw hc]
    rw [State.sameCycle_eq_forAll fun (n : Ch) u => u.setW_clk (chBase n + R.CH_MD_WP + 4 * k.val) w]
  have hother (a : Nat) (ha : ∀ n ∈ l, chBase n + R.CH_MD_WP + 4 * k.val ≠ a) : t.w a = s.w a := by
    rw [e, State.w_modPath]
    exact State.w_forAll_setW_other ha w s
  refine ⟨t, ht, fun n hf hg => ?_, fun n h => hother _ fun m hm hmn => ?_, fun a ha => hother a fun n _ hn => ha n hn.symm, ?_⟩
  · rw [e, State.w_modPath]
    exact State.w_forAll_setW ((key n).2 ⟨hf, hg⟩) (fun n : Ch => chBase n + R.CH_MD_WP + 4 * k.val) w s
  · obtain rfl := wp_address_inj hmn
    obtain ⟨hf, hg⟩ := (key m).1 hm
    rcases h with h | ⟨i, hi, h⟩
    · simp [hf] at h
    · simp [hg i hi] at h
  · obtain ⟨m, hm⟩ := State.forAll_setW_regs l (fun n => chBase n + R.CH_MD_WP + 4 * k.val) w s
    rw [e, hm]
    rfl

/-! ### Indirect access (R284) -/

theorem State.idRefused_none (h1 : F.IA_ADDR.of (s.path p).ia ≠ R.IA) (h2 : F.IA_ADDR.of (s.path p).ia ≠ R.ID) :
    s.idRefused p 0xF#4 = none := by
  simp [State.idRefused, h1, h2]

theorem State.idRefused_self (h : F.IA_ADDR.of (s.path p).ia = R.IA ∨ F.IA_ADDR.of (s.path p).ia = R.ID) :
    s.idRefused p 0xF#4 = some (causePlace, F.IA_ADDR.of (s.path p).ia) := by
  simp [State.idRefused, h]

/-- A write through ID is the write at IA.ADDR, after which an accepted one steps IA. -/
theorem State.indirect_write (hm : s.od.mailbox = none) (ha : a = F.IA_ADDR.of (s.path p).ia) (h1 : a ≠ R.IA) (h2 : a ≠ R.ID)
    (hg : a = R.DEV_ODM_CTL → F.DEV_ODM_CTL_GO.of w = 0) :
    s.indirect p true w = (if (s.writeAt p a 0xF#4 w).1 = .ok then (s.writeAt p a 0xF#4 w).2.stepIa p else (s.writeAt p a 0xF#4 w).2).modPath p
      fun x => { x with resp := (s.writeAt p a 0xF#4 w).1.code } := by
  have hb := State.writeAt_mailbox (p := p) (be := 0xF#4) hm hg
  subst ha
  unfold State.indirect State.wr State.pathWrite State.writeReg
  rw [if_pos rfl, if_pos rfl, State.idRefused_none h1 h2]
  dsimp only
  rcases h : s.writeAt p (F.IA_ADDR.of (s.path p).ia) 0xF#4 w with ⟨_ | _ | _, u⟩ <;> rw [h] at hb <;> exact State.serveMailbox_none hb

/-- A read through ID is the read at IA.ADDR, after which an accepted one steps IA. -/
theorem State.indirect_read (ha : a = F.IA_ADDR.of (s.path p).ia) (h1 : a ≠ R.IA) (h2 : a ≠ R.ID) (w : Word) :
    s.indirect p false w = (if (s.readAt p a 0xF#4).1 = .ok then (s.readAt p a 0xF#4).2.2.stepIa p else (s.readAt p a 0xF#4).2.2).modPath p
      fun x => { x with data := (s.readAt p a 0xF#4).2.1, resp := (s.readAt p a 0xF#4).1.code } := by
  subst ha
  unfold State.indirect State.pathRead State.readReg
  rw [if_neg Bool.false_ne_true, if_pos rfl, State.idRefused_none h1 h2]
  dsimp only
  rcases s.readAt p (F.IA_ADDR.of (s.path p).ia) 0xF#4 with ⟨_ | _ | _, v, u⟩ <;> rfl

/-- An access through ID to IA or ID is refused. -/
theorem State.indirect_refused (hm : s.od.mailbox = none) (h : F.IA_ADDR.of (s.path p).ia = R.IA ∨ F.IA_ADDR.of (s.path p).ia = R.ID)
    (b : Bool) (w : Word) : ∃ g : PathSt → PathSt, (∀ x, (g x).resp = 1 ∧ (g x).ia = x.ia) ∧
      s.indirect p b w = (s.accFault p causePlace (F.IA_ADDR.of (s.path p).ia)).modPath p g := by
  cases b with
  | true =>
    refine ⟨fun x => { x with resp := 1 }, fun x => ⟨rfl, rfl⟩, ?_⟩
    unfold State.indirect State.wr State.pathWrite State.writeReg
    rw [if_pos rfl, if_pos rfl, State.idRefused_self h]
    exact State.serveMailbox_none (by rw [State.modPath_od, State.accFault_od, hm])
  | false =>
    refine ⟨fun x => { x with data := 0#32, resp := 1 }, fun x => ⟨rfl, rfl⟩, ?_⟩
    unfold State.indirect State.pathRead State.readReg
    rw [if_neg Bool.false_ne_true, if_pos rfl, State.idRefused_self h]
    rfl

/-- The step of IA: its address moves, its STEP stands. -/
theorem ia_step (x : Word) (v : Nat) (hv : v < 2 ^ 24) :
    F.IA_ADDR.of (F.IA_ADDR.into x v) = v ∧ F.IA_STEP.of (F.IA_ADDR.into x v) = F.IA_STEP.of x :=
  ⟨(Fld.of_into _ _ _ (by decide)).trans (Nat.mod_eq_of_lt hv), Fld.of_into_apart _ _ _ _ (by decide) (by decide) (by decide)⟩

theorem stepAddr_lt (step a : Nat) : stepAddr step a < 2 ^ 24 := Nat.mod_lt _ (by decide)

/-! ### Reads leave the paths -/

theorem State.readLakeAt_paths (s : State) (a q : Nat) : (s.readLakeAt a q).2.paths = s.paths := by
  have hsnd (w : Word) (u : State) : (w, u).2.paths = u.paths := rfl
  unfold State.readLakeAt
  dsimp only
  split
  · rw [hsnd, State.forAll_frame State.paths fun n u => u.raise_paths _ _, State.raise_paths, State.count_paths]
  · split
    · rw [hsnd, State.raise_paths, State.count_paths]
    · rfl

theorem State.mpStep_paths (s : State) : s.mpStep.paths = s.paths := by
  unfold State.mpStep
  split
  · exact s.setF_paths ..
  · rfl

theorem State.countVat_paths (s : State) (ce ue : Nat) : (s.countVat ce ue).paths = s.paths := by
  unfold State.countVat
  by_cases hc : ce = 0 <;> by_cases hu : ue = 0 <;> simp -implicitDefEqProofs only [hc, hu, if_true, if_false, State.raise_paths, State.count_paths]

theorem State.mpRead_paths (s : State) : s.mpRead.2.paths = s.paths := by
  unfold State.mpRead
  dsimp only
  split
  · split
    · rw [State.mpStep_paths, State.raise_paths, State.countVat_paths]
    · split
      · rw [State.mpStep_paths, State.countVat_paths]
      · exact s.mpStep_paths
  · rw [State.mpStep_paths]
    split
    · rw [State.raise_paths, State.readLakeAt_paths]
    · exact s.readLakeAt_paths ..

theorem State.readCalVd_paths (s : State) : s.readCalVd.2.paths = s.paths := by
  unfold State.readCalVd State.vaStep
  split
  · dsimp only
    split
    · exact s.setF_paths ..
    · rfl
  · exact s.raise_paths ..

theorem State.readDev_paths (s : State) (p : Path) (a : Nat) (r : RegRow) : (s.readDev p a r).2.paths = s.paths := by
  simp only [State.readDev, apply_ite Prod.snd, apply_ite State.paths, State.readCalVd_paths, State.mpRead_paths, ite_self]

theorem State.readOwn_paths (s : State) (p : Path) (l : Loc) (a : Nat) (r : RegRow) : (s.readOwn p l a r).2.paths = s.paths := by
  unfold State.readOwn
  split
  case h_7 => exact s.readDev_paths ..
  case h_3 => dsimp only; split_ifs <;> rfl
  all_goals rfl

theorem State.accFault_paths (s : State) (p : Path) (c a : Nat) : (s.accFault p c a).paths = s.paths := by
  rw [State.accFault, State.raise_paths, State.setW_paths]

/-- A read at an address leaves every path's own part to the access that made it. -/
theorem State.readAt_paths (s : State) (p : Path) (a : Nat) (be : BitVec 4) : (s.readAt p a be).2.2.paths = s.paths := by
  unfold State.readAt
  split
  · exact s.accFault_paths ..
  · dsimp only
    split
    · exact s.accFault_paths ..
    · split
      · rfl
      · split
        · exact s.accFault_paths ..
        · exact s.readOwn_paths ..

theorem State.readAt_path (s : State) (p q : Path) (a : Nat) (be : BitVec 4) : (s.readAt p a be).2.2.path q = s.path q := by
  rw [State.path, State.readAt_paths, State.path]

/-- A group mask reads as it is stored. -/
theorem State.readAt_mask {g : Fin 16} {j : Fin 4} (s : State) (p : Path) (ha : a = R.UG_MASK + 0x20 * g.val + 4 * j.val) :
    s.readAt p a 0xF#4 = (.ok, s.w a, s) := by
  obtain ⟨hlo, hhi, h4⟩ := mask_address g j ha
  obtain ⟨r, hr, -, -, -, -, ht⟩ := row_UG_MASK g j
  rw [← ha] at hr
  have hl := locate_dev (a := a) (by omega)
  have hmp : a ≠ R.MP_DATA := by rintro rfl; exact absurd hhi (by decide)
  have hal : beAligned a 0xF#4 = true := by simp [beAligned, h4]
  unfold State.readAt
  rw [hal, hr, hl]
  simp only [Bool.not_true, Bool.false_eq_true, if_false, reduceCtorEq, or_self, hmp, decide_false, Bool.false_and, State.readOwn,
    State.readDev_mask hlo hhi, ht, beMask_full, BitVec.and_zero, BitVec.zero_or, show ~~~(0#32) = BitVec.allOnes 32 from rfl,
    show 0xFFFFFFFF#32 = BitVec.allOnes 32 from rfl, BitVec.and_allOnes]

/-! ### INDIRECT_ACCESS, and FN_LOCK -/

/-- The path's part after an accepted access through ID. -/
theorem path_stepIa (t : State) (p : Path) (f : PathSt → PathSt) (hf : ∀ x, (f x).ia = x.ia) :
    F.IA_ADDR.of (((t.stepIa p).modPath p f).path p).ia = stepAddr (F.IA_STEP.of (t.path p).ia) (F.IA_ADDR.of (t.path p).ia) ∧
    F.IA_STEP.of (((t.stepIa p).modPath p f).path p).ia = F.IA_STEP.of (t.path p).ia := by
  rw [State.path_modPath_same, hf, State.stepIa, State.path_modPath_same]
  exact ia_step _ _ (stepAddr_lt _ _)

/-- An access through ID changes, of a path's part, that of its own path alone. -/
theorem modPath_stepIa (t : State) (p : Path) (f : PathSt → PathSt) : ∃ g : PathSt → PathSt, (t.stepIa p).modPath p f = t.modPath p g :=
  ⟨_, State.modPath_modPath t _ f⟩

theorem indirectAccess_write_mask {g : Fin 16} {j : Fin 4} (hs : s.Serves) (hp : s.Writes p)
    (ha : F.IA_ADDR.of (s.path p).ia = R.UG_MASK + 0x20 * g.val + 4 * j.val) (w : Word) :
    ∃ t, exec (.indirectAccess p true w) s = .next t ∧ t.w (R.UG_MASK + 0x20 * g.val + 4 * j.val) = w ∧
      F.IA_ADDR.of (t.path p).ia = stepAddr (F.IA_STEP.of (s.path p).ia) (R.UG_MASK + 0x20 * g.val + 4 * j.val) ∧
      F.IA_STEP.of (t.path p).ia = F.IA_STEP.of (s.path p).ia ∧ s.OnlyRegsOf p t [R.UG_MASK + 0x20 * g.val + 4 * j.val] := by
  obtain ⟨h1, h2⟩ := mask_ne_id ha
  rw [← ha]
  set a := F.IA_ADDR.of (s.path p).ia
  refine ⟨_, exec_indirectAccess .., ?_⟩
  rw [State.indirect_write hs.2 rfl h1 h2 fun h => absurd h (mask_ne_odmCtl ha), State.writeAt_mask hs hp ha (by decide), State.written_full,
    if_pos rfl]
  obtain ⟨hia, hst⟩ := path_stepIa (s.setW a w) p (fun x => { x with resp := Resp.ok.code }) fun _ => rfl
  obtain ⟨k, hk⟩ := modPath_stepIa (s.setW a w) p fun x => { x with resp := Resp.ok.code }
  refine ⟨?_, hia, hst, ?_⟩
  · rw [hk, State.w_modPath, State.w_setW_same]
  · rw [hk]
    exact ((State.OnlyRegs.refl s _).setW w (by simp)).modPath p k

/-- A write through ID is the path's write at IA.ADDR; where that was accepted, IA is stepped. -/
theorem indirectAccess_write {u : State} (hm : s.od.mailbox = none) (ha : a = F.IA_ADDR.of (s.path p).ia) (h1 : a ≠ R.IA) (h2 : a ≠ R.ID)
    (hg : a = R.DEV_ODM_CTL → F.DEV_ODM_CTL_GO.of w = 0) (hu : u = (s.pathWrite p a 0xF#4 w).2) :
    ∃ t, exec (.indirectAccess p true w) s = .next t ∧ t = if (u.path p).resp = 0 then u.stepIa p else u := by
  refine ⟨_, exec_indirectAccess .., ?_⟩
  rw [State.indirect_write hm ha h1 h2 hg, hu, State.pathWrite_at h2 hm hg, State.path_modPath_same]
  rcases s.writeAt p a 0xF#4 w with ⟨_ | _ | _, v⟩
  · simp only [if_true, Resp.code, State.stepIa, State.modPath_modPath]
  · rfl
  · rfl

theorem indirectAccess_read (ha : a = F.IA_ADDR.of (s.path p).ia) (h1 : a ≠ R.IA) (h2 : a ≠ R.ID) (w : Word) :
    ∃ t, exec (.indirectAccess p false w) s = .next t ∧ (t.path p).data = (s.readAt p a 0xF#4).2.1 ∧
      (t.path p).resp = (s.readAt p a 0xF#4).1.code ∧
      F.IA_ADDR.of (t.path p).ia = (if (s.readAt p a 0xF#4).1 = Resp.ok then stepAddr (F.IA_STEP.of (s.path p).ia) a else a) ∧
      (∀ q : Path, q ≠ p → t.path q = (s.readAt p a 0xF#4).2.2.path q) ∧ t = { (s.readAt p a 0xF#4).2.2 with paths := t.paths } := by
  have hpath := s.readAt_path p p a 0xF#4
  refine ⟨_, exec_indirectAccess .., ?_⟩
  rw [State.indirect_read ha h1 h2]
  rcases hx : s.readAt p a 0xF#4 with ⟨c, v, u⟩
  rw [hx] at hpath
  dsimp only at hpath ⊢
  by_cases hc : c = .ok
  · obtain ⟨hia, -⟩ := path_stepIa u p (fun x => { x with data := v, resp := c.code }) fun _ => rfl
    rw [if_pos hc, if_pos hc]
    refine ⟨by rw [State.path_modPath_same], by rw [State.path_modPath_same], ?_, fun q hq => ?_, rfl⟩
    · rw [hia, hpath, ← ha]
    · rw [State.path_modPath_other _ _ hq, State.stepIa, State.path_modPath_other _ _ hq]
  · rw [if_neg hc, if_neg hc]
    refine ⟨by rw [State.path_modPath_same], by rw [State.path_modPath_same], ?_, fun q hq => State.path_modPath_other _ _ hq, rfl⟩
    rw [State.path_modPath_same, hpath, ← ha]

theorem indirectAccess_read_mask {g : Fin 16} {j : Fin 4} (ha : F.IA_ADDR.of (s.path p).ia = R.UG_MASK + 0x20 * g.val + 4 * j.val) (w : Word) :
    ∃ t, exec (.indirectAccess p false w) s = .next t ∧ (t.path p).data = s.w (R.UG_MASK + 0x20 * g.val + 4 * j.val) ∧ (t.path p).resp = 0 ∧
      F.IA_ADDR.of (t.path p).ia = stepAddr (F.IA_STEP.of (s.path p).ia) (R.UG_MASK + 0x20 * g.val + 4 * j.val) ∧
      (∀ q : Path, q ≠ p → t.path q = s.path q) ∧ t = { s with paths := t.paths } := by
  obtain ⟨h1, h2⟩ := mask_ne_id ha
  have hread := indirectAccess_read rfl h1 h2 w
  rwa [s.readAt_mask p ha, ha] at hread

theorem indirectAccess_refused (hm : s.od.mailbox = none) (h : F.IA_ADDR.of (s.path p).ia = R.IA ∨ F.IA_ADDR.of (s.path p).ia = R.ID)
    (b : Bool) (w : Word) :
    ∃ t, exec (.indirectAccess p b w) s = .next t ∧ t.fb 0 F.PRT_STAT_ACC_FAULT = true ∧ t.f 0 F.PRT_FAULTA_CAUSE = causePlace ∧
      (t.path p).ia = (s.path p).ia ∧ (t.path p).resp = 1 ∧ s.OnlyRegsOf p t [R.PRT_STAT, R.PRT_FAULTA] := by
  obtain ⟨g, hg, e⟩ := State.indirect_refused hm h b w
  obtain ⟨hf, -, hc, -, hr, ho⟩ := s.accFault_refused (p := p) (c := causePlace) (a := F.IA_ADDR.of (s.path p).ia) (by decide)
    (Fld.of_lt _ _) fun x => (hg x).1
  refine ⟨_, exec_indirectAccess .., ?_⟩
  rw [e]
  refine ⟨hf, hc, ?_, hr, ho⟩
  rw [State.path_modPath_same, (hg _).2, State.path, State.accFault_paths, State.path]

/-- FN_LOCK is set from every path, with no unlock (R294). -/
theorem fnLockSet_sets (hs : s.Serves) (p : Path) :
    ∃ t, exec (.fnLockSet p) s = .next t ∧ t.tvB 0 F.PRT_LOCK_FN_LOCK = true ∧ t.regs = s.regs ∧ t.unlockBy = s.unlockBy ∧
      (∀ a, a ≠ R.PRT_LOCK → t.tvW a = s.tvW a) ∧ t = { s with tv := t.tv, paths := t.paths } := by
  obtain ⟨r, hr, -⟩ := row_PRT_LOCK
  have hw : F.PRT_LOCK_FN_LOCK.of (F.PRT_LOCK_FN_LOCK.into 0#32 1) = 1 := by decide
  refine ⟨_, exec_fnLockSet .., ?_⟩
  rw [State.wr_own (by decide) (by decide) (by decide) (.inr (.inr rfl)) (by decide) hr (by rw [hw]; simp) hs.1, writeOwn_PRT_LOCK, if_pos hw,
    State.serveMailbox_none (by exact hs.2)]
  refine ⟨?_, rfl, rfl, fun a ha => ?_, rfl⟩
  · show decide (F.PRT_LOCK_FN_LOCK.of (s.setFnLock.tvW R.PRT_LOCK) = 1) = true
    rw [State.setFnLock, State.tvW_setTv, if_pos rfl, Fld.of_into _ _ _ (by decide)]
    rfl
  · show s.setFnLock.tvW a = s.tvW a
    rw [State.setFnLock, State.tvW_setTv, if_neg ha.symm]

end Sys2Proof.Machine
end

section
/-!
PROOFS. The statements: accesses by the register rules, and the passing of time on an empty queue.
-/

namespace Sys2Proof.Machine

/-- Settles O58: each clause is the lemma of its command and case above. -/
theorem accessesFollowTheRegisterRules : Obligations.AccessesFollowTheRegisterRules := by
  unfold Obligations.AccessesFollowTheRegisterRules
  refine ⟨?_, ?_, ?_, ?_, ?_, ?_, ?_, ?_, ?_, ?_, ?_, ?_, ?_, ?_, ?_, ?_, ?_, ?_, ?_, ?_, ?_⟩
  · exact fun s p addr w g j hs hp ha => registerWrite_mask hs hp ha w
  · exact fun s p addr w g j hs hp hst ha => registerWrite_mask_upper hs hp hst ha w
  · exact fun s p w hs hp => registerWrite_NET_STAT hs hp w
  · exact fun s p addr be w r hm hp ha hid hgo hs hr hb hmp hg => registerWrite_unguarded hm hp ha hid hgo hs hr hb hmp hg
  · exact fun s p addr be w r hm hp ha hid hs hr hb hmp hg hl => registerWrite_guarded hm hp ha hid hs hr hb hmp hg hl
  · exact fun s p i hs hp hu hi => registerWrite_consumes hs hp hu hi
  · exact fun s p addr be w hm ha hid => registerWrite_misaligned hm hid ha
  · exact fun s addr be w hm ha hu hl => registerWrite_lcp_blocked hm (fun h => hu (by simp [h])) ha hu hl
  · exact fun s p addr be w hm hp ha hb hid hact h => registerWrite_narrow hm hid hp ha hb hact h
  · exact fun s p addr be w hm hp ha hid hb hg h => registerWrite_unmapped hm hp ha hid hb hg h
  · exact fun s p w hm hp ho => registerWrite_mpOutside hm hp ho
  · exact fun s p addr w hm hp h4 hs hid => registerWrite_aperture hm hp h4 hs hid
  · exact fun s p g w k hs hp => apertureWrite_wp hs hp g w k
  · exact fun s p g off w hm hp h4 => apertureWrite_members hm hp g h4 w
  · exact fun s p g off be w hm => apertureWrite_refused hm p g off be w
  · exact fun s p w g j hs hp ha => indirectAccess_write_mask hs hp ha w
  · exact fun s p w g j ha => indirectAccess_read_mask ha w
  · exact fun s p w a u hm ha h1 h2 hg hu => indirectAccess_write hm ha h1 h2 hg hu
  · exact fun s p w a ha h1 h2 => indirectAccess_read ha h1 h2 w
  · exact fun s p b w hm h => indirectAccess_refused hm h b w
  · exact fun s p hs => fnLockSet_sets hs p

/-! ### The passing of time (R41) -/

/-- A period after an instant, ETS64 has advanced by 256 and carries into EPX32. -/
theorem Clock.at_period (c : Clock) : c.at (c.epx.toNat * 2 ^ 64 + c.ets.toNat + 256) =
    { c with ets := c.ets + 256#64, epx := if 2 ^ 64 ≤ c.ets.toNat + 256 then c.epx + 1#32 else c.epx } := by
  have h := c.ets.isLt
  have hets : BitVec.ofNat 64 (c.epx.toNat * 2 ^ 64 + c.ets.toNat + 256) = c.ets + 256#64 := by
    apply BitVec.eq_of_toNat_eq
    simp only [BitVec.toNat_ofNat, BitVec.toNat_add]
    omega
  have hepx : BitVec.ofNat 32 ((c.epx.toNat * 2 ^ 64 + c.ets.toNat + 256) / 2 ^ 64) =
      if 2 ^ 64 ≤ c.ets.toNat + 256 then c.epx + 1#32 else c.epx := by
    apply BitVec.eq_of_toNat_eq
    split <;> simp only [BitVec.toNat_ofNat, BitVec.toNat_add] <;> omega
  simp only [Clock.at, hets, hepx]

theorem step_of_empty {s : State} (h : s.pending = []) : step s = .next s.tick := by simp only [step, h]

/-- Settles O2: a step on an empty queue is one tick, whose carry is `Clock.at_period`. -/
theorem emptyQueueLetsAPeriodPass : Obligations.EmptyQueueLetsAPeriodPass := by
  unfold Obligations.EmptyQueueLetsAPeriodPass
  refine ⟨fun s hq hr => ?_, fun s hq hr => ?_⟩
  · have ht : s.tick = { s with clk := s.clk.at (s.now + 256) } := by rw [State.tick, if_pos hr]
    refine ⟨s.tick, step_of_empty hq, ?_⟩
    rw [ht, State.now, Clock.at_period]
    exact ⟨rfl, rfl, hr, rfl⟩
  · rw [step_of_empty hq, State.tick, if_neg (by simp [hr])]

end Sys2Proof.Machine
end

section
/-!
PROOFS. TB_PACE_TARGET (R19): the fields that a register stores, and those that it holds within limits.
-/

namespace Sys2Proof.Machine

variable {s t : State} {p : Path} {a : Nat} {w : Word} {r : RegRow}

/-! ### Fields of a stored word -/

/-- A field whose bits are all written, and none of them cleared by a 1, stores what is written (R3). -/
theorem RegRow.of_stored {f : Fld} (h : r.rw.extractLsb' f.lo f.len = BitVec.allOnes f.len) (hc : r.w1c = 0#32) (old w : Word) :
    f.of (r.stored old w) = f.of w := by
  have key : (r.stored old w).extractLsb' f.lo f.len = w.extractLsb' f.lo f.len := by
    apply BitVec.eq_of_getLsbD_eq
    intro i hi
    have hrw : r.rw.getLsbD (f.lo + i) = true := by
      have := congrArg (·.getLsbD i) h
      simpa [hi] using this
    have hlt : f.lo + i < 32 := by
      by_contra hge
      rw [BitVec.getLsbD_of_ge _ _ (by omega)] at hrw
      cases hrw
    have hst : r.stored old w = (old &&& ~~~r.rw) ||| (w &&& r.rw) := by
      rw [RegRow.stored, hc, BitVec.and_zero, show ~~~(0#32) = BitVec.allOnes 32 from rfl, BitVec.and_allOnes]
    rw [BitVec.getLsbD_extractLsb', BitVec.getLsbD_extractLsb', hst, BitVec.getLsbD_or, BitVec.getLsbD_and, BitVec.getLsbD_and,
      BitVec.getLsbD_not, hrw]
    simp
  simp only [Fld.of, bitsGet, key]

/-- A field held within limits that it can represent. -/
theorem Fld.of_hold (f : Fld) (w : Word) {lo hi : Nat} (hf : f.lo + f.len ≤ 32) (hl : lo < 2 ^ f.len) (hh : hi < 2 ^ f.len) :
    f.of (f.hold lo hi w) = clampNat lo hi (f.of w) := by
  have hc : clampNat lo hi (f.of w) < 2 ^ f.len := by unfold clampNat; omega
  rw [Fld.hold, Fld.of_into _ _ _ hf, Nat.mod_eq_of_lt hc]

/-- Holding a field leaves those apart from it. -/
theorem Fld.of_hold_apart (f g : Fld) (w : Word) (lo hi : Nat) (hf : f.lo + f.len ≤ 32) (hg : g.lo + g.len ≤ 32)
    (h : f.lo + f.len ≤ g.lo ∨ g.lo + g.len ≤ f.lo) : f.of (g.hold lo hi w) = f.of w :=
  Fld.of_into_apart f g w _ hf hg h

/-! ### TB_PACE_TARGET (R19) -/

theorem row_TB_PACE_TARGET : ∃ r, rowAt R.TB_PACE_TARGET = some r ∧ r.guarded = false ∧ r.rw = 0xFFFFFF#32 ∧ r.w1c = 0#32 ∧ r.tvs = 0#32 :=
  ⟨_, rfl, by decide, by decide, by decide, by decide⟩

theorem writeOwn_TB_PACE_TARGET (s : State) (p : Path) (r : RegRow) (m w : Word) :
    s.writeOwn p (locate R.TB_PACE_TARGET) R.TB_PACE_TARGET r m w = s.setW R.TB_PACE_TARGET
      (F.TB_PACE_TARGET_TARGET.hold 550 1200 (F.TB_PACE_TARGET_BAND.hold 10 255 (r.stored (s.w R.TB_PACE_TARGET) w))) := rfl

theorem readOwn_TB_PACE_TARGET (s : State) (p : Path) (r : RegRow) :
    s.readOwn p (locate R.TB_PACE_TARGET) R.TB_PACE_TARGET r =
      (((s.tvW R.TB_PACE_TARGET &&& r.tvs) ||| (s.w R.TB_PACE_TARGET &&& ~~~r.tvs)), s) := rfl

/-- Every path reads the stored word. -/
theorem pathRead_TB_PACE_TARGET (s : State) (q : Path) :
    (s.pathRead q R.TB_PACE_TARGET 0xF#4).1 = .ok ∧ (s.pathRead q R.TB_PACE_TARGET 0xF#4).2.1 = s.w R.TB_PACE_TARGET := by
  obtain ⟨r, hr, -, -, -, htv⟩ := row_TB_PACE_TARGET
  have hread : s.readAt q R.TB_PACE_TARGET 0xF#4 = (.ok, s.w R.TB_PACE_TARGET, s) := by
    unfold State.readAt
    rw [if_neg (by decide), if_neg (by decide), hr]
    dsimp only
    rw [if_neg (by simp), readOwn_TB_PACE_TARGET, htv, beMask_full]
    simp only [BitVec.and_zero, BitVec.zero_or, show ~~~(0#32) = BitVec.allOnes 32 from rfl, show 0xFFFFFFFF#32 = BitVec.allOnes 32 from rfl,
      BitVec.and_allOnes]
  unfold State.pathRead State.readReg
  rw [if_neg (by decide), hread]
  exact ⟨rfl, rfl⟩

/-- Settles O8: the register's own write holds each field within its limits, and its row stores both fields whole. -/
theorem nearestLimitsAreStored : Obligations.NearestLimitsAreStored := by
  unfold Obligations.NearestLimitsAreStored
  intro s p w hs hp
  obtain ⟨r, hr, hg, hrw, hc, -⟩ := row_TB_PACE_TARGET
  obtain ⟨t, ht, hresp, rfl⟩ := registerWrite_unguarded (addr := BitVec.ofNat 24 R.TB_PACE_TARGET) (be := 0xF#4) (w := w) hs.2 hp (by decide)
    (by decide) (fun h => absurd h (by decide)) (by decide) hr (.inl rfl) (fun h => absurd h (by decide)) hg
  refine ⟨_, ht, ?_, ?_, fun q => pathRead_TB_PACE_TARGET _ q, hresp, ?_⟩
  all_goals
    rw [State.preWrite_done hs.1, State.written_full, show (BitVec.ofNat 24 R.TB_PACE_TARGET).toNat = R.TB_PACE_TARGET from rfl,
      writeOwn_TB_PACE_TARGET]
  · rw [State.f_modPath, State.f_setW, if_pos (by decide), Fld.of_hold _ _ (by decide) (by decide) (by decide),
      Fld.of_hold_apart _ _ _ _ _ (by decide) (by decide) (by decide), RegRow.of_stored (by rw [hrw]; decide) hc]
    rfl
  · rw [State.f_modPath, State.f_setW, if_pos (by decide), Fld.of_hold_apart _ _ _ _ _ (by decide) (by decide) (by decide),
      Fld.of_hold _ _ (by decide) (by decide) (by decide), RegRow.of_stored (by rw [hrw]; decide) hc]
    rfl
  · exact ((State.OnlyRegs.refl s _).setW _ (by simp)).modPath p _

end Sys2Proof.Machine
end

section
/-!
PROOFS. PACE (R15-R18) and the AVSBus governor (R20).
-/

namespace Sys2Proof.Machine

variable {s t : State} {p : Path} {a : Nat} {w : Word} {r : RegRow}

/-! ### A register's own write, and a command's write of its register -/

/-- A full-word write of an unguarded register is that register's own write, with the path's answer. -/
theorem State.wr_unguarded (hs : s.Serves) (hp : s.Writes p) (h4 : a % 4 = 0) (hid : a ≠ R.ID) (hmp : a ≠ R.MP_DATA) (hodm : a ≠ R.DEV_ODM_CTL)
    (hsp : (locate a).space ≠ .bcast ∧ (locate a).space ≠ .group ∧ (locate a).space ≠ .active) (hr : rowAt a = some r) (hg : r.guarded = false)
    (w : Word) : s.wr p a w = (s.writeOwn p (locate a) a r 0xFFFFFFFF#32 w).modPath p fun x => { x with resp := 0 } := by
  rw [State.wr_own h4 hid hmp (.inl hp) hsp hr (by simp [hg]) hs.1]
  exact State.serveMailbox_none (State.writeOwn_mailbox p r _ hs.2 fun h => absurd h hodm)

theorem State.writes_host (s : State) : s.Writes .host := fun h => by cases h

/-- The host's write of a command bit, where the register's other bits are not stored. -/
theorem State.wrCmd_unguarded {f : Fld} (hs : s.Serves) (h4 : a % 4 = 0) (hid : a ≠ R.ID) (hmp : a ≠ R.MP_DATA) (hodm : a ≠ R.DEV_ODM_CTL)
    (hsp : (locate a).space ≠ .bcast ∧ (locate a).space ≠ .group ∧ (locate a).space ≠ .active) (hr : rowAt a = some r) (hg : r.guarded = false)
    (hrw : r.rw = 0#32) :
    s.wrCmd a f = (s.writeOwn .host (locate a) a r 0xFFFFFFFF#32 (f.into 0#32 1)).modPath .host fun x => { x with resp := 0 } := by
  unfold State.wrCmd
  rw [hr]
  dsimp only
  rw [hrw, BitVec.and_zero]
  exact State.wr_unguarded hs s.writes_host h4 hid hmp hodm hsp hr hg _

/-! ### Updates of registers and of the timebase -/

@[simp] theorem State.w_setTb (s : State) (x : TbEng) (a : Nat) : (s.setTb x).w a = s.w a := rfl
@[simp] theorem State.f_setTb (s : State) (x : TbEng) (b : Nat) (f : Fld) : (s.setTb x).f b f = s.f b f := rfl

/-- Registers at the listed addresses and the timebase's engine may differ, and nothing else. -/
def State.OnlyRegsTb (s t : State) (l : List Nat) : Prop := t = { s with regs := t.regs, tb := t.tb } ∧ ∀ a, a ∉ l → t.w a = s.w a

namespace State.OnlyRegsTb

variable {l : List Nat}

theorem refl (s : State) (l : List Nat) : s.OnlyRegsTb s l := ⟨rfl, fun _ _ => rfl⟩

theorem setW (h : s.OnlyRegsTb t l) (v : Word) (ha : a ∈ l) : s.OnlyRegsTb (t.setW a v) l :=
  ⟨by rw [h.1]; rfl, fun b hb => (State.w_setW_other t v (ne_of_mem_of_not_mem ha hb)).trans (h.2 b hb)⟩

theorem setF (h : s.OnlyRegsTb t l) {b : Nat} {f : Fld} (v : Nat) (ha : b + f.addr ∈ l) : s.OnlyRegsTb (t.setF b f v) l := h.setW _ ha

theorem setTb (h : s.OnlyRegsTb t l) (x : TbEng) : s.OnlyRegsTb (t.setTb x) l := ⟨by rw [h.1]; rfl, h.2⟩

theorem w_eq (h : s.OnlyRegsTb t [a]) {b : Nat} (hb : b ≠ a) : t.w b = s.w b := h.2 b (by simpa using hb)

/-- With the answer of the writing path. -/
theorem modPath (h : s.OnlyRegsTb t l) (p : Path) (g : PathSt → PathSt) :
    t.modPath p g = { s with regs := (t.modPath p g).regs, tb := (t.modPath p g).tb, paths := (t.modPath p g).paths } := by
  obtain ⟨ht, -⟩ := h
  rw [ht]
  rfl

end State.OnlyRegsTb

/-! ### PACE (R15-R18) -/

/-- PACE of the twelve monitors' counts. -/
def paceOf (counts : List (List Nat)) : Nat := min 65535 (ratMax (counts.map meanPeriod)).ceil.toNat

/-- What an update keeps as MAX: with CLR in its MCLK cycle the new PACE alone. -/
def State.paceTop (s : State) (pace : Nat) : Nat :=
  if s.tb.paceClrAt = some s.mclkNow then pace else max (s.f 0 F.TB_PACE_MAX_MAX) pace

/-- The registers of an update, before PACE_SLOW. -/
def State.showPace (pace src : Nat) (s : State) : State :=
  ((s.setF 0 F.TB_PACE_PACE pace).setF 0 F.TB_PACE_PACE_SRC src).setF 0 F.TB_PACE_MAX_MAX (s.paceTop pace)

theorem State.paceUpdate_eq (s : State) (counts : List (List Nat)) :
    ∃ src, s.paceUpdate counts =
      if 1200 < paceOf counts then (s.showPace (paceOf counts) src).raise 0 F.DEV_FLT_PACE_SLOW else s.showPace (paceOf counts) src := by
  have hmax (v src : Nat) : ((s.setF 0 F.TB_PACE_PACE v).setF 0 F.TB_PACE_PACE_SRC src).f 0 F.TB_PACE_MAX_MAX = s.f 0 F.TB_PACE_MAX_MAX := by
    rw [State.f_setF_other _ _ (by decide), State.f_setF_other _ _ (by decide)]
  refine ⟨(counts.map meanPeriod).findIdx fun t => t = ratMax (counts.map meanPeriod), ?_⟩
  unfold State.paceUpdate
  dsimp only
  rw [hmax]
  rfl

theorem paceOf_lt (counts : List (List Nat)) : paceOf counts < 2 ^ 16 := by
  unfold paceOf
  omega

theorem State.paceTop_lt (s : State) {pace : Nat} (h : pace < 2 ^ 16) : s.paceTop pace < 2 ^ 16 := by
  have : s.f 0 F.TB_PACE_MAX_MAX < 2 ^ 16 := Fld.of_lt _ _
  unfold State.paceTop
  split <;> omega

section ShowPace
variable {pace src : Nat} (h : pace < 2 ^ 16)

include h in
theorem State.showPace_pace (s : State) : (s.showPace pace src).f 0 F.TB_PACE_PACE = pace := by
  simp (disch := decide) only [State.showPace, State.f_setF_other, State.f_setF_apart, State.f_setF]
  exact Nat.mod_eq_of_lt h

include h in
theorem State.showPace_max (s : State) : (s.showPace pace src).f 0 F.TB_PACE_MAX_MAX = s.paceTop pace := by
  rw [State.showPace, State.f_setF _ _ _ _ (by decide), Nat.mod_eq_of_lt (s.paceTop_lt h)]

theorem State.showPace_onlyRegs (s : State) : s.OnlyRegs (s.showPace pace src) [R.TB_PACE, R.TB_PACE_MAX, R.DEV_FLT] :=
  (((State.OnlyRegs.refl s _).setF _ (by decide)).setF _ (by decide)).setF _ (by decide)

theorem State.showPace_flt (s : State) : (s.showPace pace src).w R.DEV_FLT = s.w R.DEV_FLT := by
  rw [State.showPace, State.w_setF_other _ (by decide), State.w_setF_other _ (by decide), State.w_setF_other _ (by decide)]

end ShowPace

/-- PACE_UPDATE. -/
theorem paceUpdate_shows (s : State) (counts : List (List Nat)) :
    ∃ t, exec (.paceUpdate counts) s = .next t ∧ t.f 0 F.TB_PACE_PACE = paceOf counts ∧ t.f 0 F.TB_PACE_MAX_MAX = s.paceTop (paceOf counts) ∧
      (1200 < paceOf counts → t.fb 0 F.DEV_FLT_PACE_SLOW = true) ∧ (paceOf counts ≤ 1200 → t.w R.DEV_FLT = s.w R.DEV_FLT) ∧
      s.OnlyRegs t [R.TB_PACE, R.TB_PACE_MAX, R.DEV_FLT] := by
  obtain ⟨src, e⟩ := s.paceUpdate_eq counts
  have hp := paceOf_lt counts
  refine ⟨_, rfl, ?_⟩
  rw [e]
  split
  next hslow =>
    refine ⟨?_, ?_, fun _ => ?_, fun h => absurd h (by omega), s.showPace_onlyRegs.raise (by decide)⟩
    · rw [State.raise, State.f_setF_other _ _ (by decide), State.showPace_pace hp]
    · rw [State.raise, State.f_setF_other _ _ (by decide), State.showPace_max hp]
    · rw [State.fb, State.raise, State.f_setF _ _ _ _ (by decide)]; rfl
  next hfast =>
    exact ⟨s.showPace_pace hp, s.showPace_max hp, fun h => absurd h hfast, fun _ => s.showPace_flt, s.showPace_onlyRegs⟩

theorem writeOwn_TB_PACE_MAX (s : State) (p : Path) (r : RegRow) (m w : Word) :
    s.writeOwn p (locate R.TB_PACE_MAX) R.TB_PACE_MAX r m w = if F.TB_PACE_MAX_CLR.of w = 1 then s.paceMaxClr else s := rfl

theorem State.paceMaxClr_max (s : State) : s.paceMaxClr.f 0 F.TB_PACE_MAX_MAX = s.f 0 F.TB_PACE_PACE := by
  have : s.f 0 F.TB_PACE_PACE < 2 ^ 16 := Fld.of_lt _ _
  simp (disch := decide) only [State.paceMaxClr, State.f_setTb, State.f_setF_apart, State.f_setF]
  exact Nat.mod_eq_of_lt this

theorem State.paceMaxClr_onlyRegs (s : State) : s.OnlyRegsTb s.paceMaxClr [R.TB_PACE_MAX] :=
  (((State.OnlyRegsTb.refl s _).setF _ (by decide)).setF _ (by decide)).setTb _

/-- PACE_MAX_CLR (R18). -/
theorem paceMaxClr_loads (hs : s.Serves) :
    ∃ t, exec .paceMaxClr s = .next t ∧ t.f 0 F.TB_PACE_MAX_MAX = s.f 0 F.TB_PACE_PACE ∧
      t.tb = { s.tb with paceClrAt := some (s.now / 2048 * 2048) } ∧ (∀ a, a ≠ R.TB_PACE_MAX → t.w a = s.w a) ∧
      t = { s with regs := t.regs, tb := t.tb, paths := t.paths } := by
  obtain ⟨r, hr, hg, hrw, -⟩ := row_TB_PACE_MAX
  refine ⟨_, rfl, ?_⟩
  rw [State.wrCmd_unguarded hs (by decide) (by decide) (by decide) (by decide) (by decide) hr hg hrw, writeOwn_TB_PACE_MAX, if_pos (by decide)]
  exact ⟨s.paceMaxClr_max, rfl, fun a ha => s.paceMaxClr_onlyRegs.w_eq ha, s.paceMaxClr_onlyRegs.modPath _ _⟩

/-! ### TB_AVS_CTL (R20) -/

theorem writeOwn_TB_AVS_CTL (s : State) (p : Path) (r : RegRow) (m w : Word) :
    s.writeOwn p (locate R.TB_AVS_CTL) R.TB_AVS_CTL r m w = s.writeAvs m (w &&& r.rw) := rfl

/-- A field within a mask reads as before under it. -/
theorem Fld.of_and {f : Fld} {m : Word} (h : m.extractLsb' f.lo f.len = BitVec.allOnes f.len) (w : Word) : f.of (w &&& m) = f.of w := by
  simp only [Fld.of, bitsGet, BitVec.extractLsb'_and, h, BitVec.and_allOnes]

/-- The limits that a TB_AVS_CTL word must keep. -/
def avsConsistent (w : Word) : Prop := 650 ≤ F.TB_AVS_CTL_VMIN.of w ∧ F.TB_AVS_CTL_VMAX.of w ≤ 950 ∧ F.TB_AVS_CTL_VMIN.of w ≤ F.TB_AVS_CTL_VMAX.of w

theorem State.writeAvs_refused (h : ¬avsConsistent w) (s : State) (m : Word) : s.writeAvs m w = s.raise 0 F.TB_AVS_STAT_CFG_ERR := by
  unfold State.writeAvs
  dsimp only
  rw [if_pos]
  unfold avsConsistent at h
  simp only [Bool.or_eq_true, decide_eq_true_eq]
  omega

/-- The timebase's engine after EN is written with 1 where it was `was` before; a written 1 ends a suspension. -/
def TbEng.enabled (was : Bool) (x : TbEng) : TbEng :=
  { x with avsFirst := x.avsFirst || !was || x.avsSuspended, avsSuspended := false, avsBelow := x.avsBelow && was, avsRetried := x.avsRetried && was }

theorem State.writeAvs_off (h : avsConsistent w) (he : F.TB_AVS_CTL_EN.of w = 0) (s : State) (m : Word) :
    s.writeAvs m w = (s.setW R.TB_AVS_CTL w).setF 0 F.TB_AVS_STAT_ACT 0 := by
  unfold State.writeAvs
  unfold avsConsistent at h
  dsimp only
  rw [if_neg (by simp only [Bool.or_eq_true, decide_eq_true_eq]; omega), if_neg (by omega)]

theorem State.writeAvs_on (h : avsConsistent w) (he : F.TB_AVS_CTL_EN.of w = 1) (s : State) :
    s.writeAvs 0xFFFFFFFF#32 w =
      let u := (s.setW R.TB_AVS_CTL w).setTb (s.tb.enabled (s.fb 0 F.TB_AVS_CTL_EN))
      if F.TB_AVS_CTL_HOLD.of w = 1 then u.setF 0 F.TB_AVS_STAT_ACT 0 else u := by
  have hm : decide (F.TB_AVS_CTL_EN.of 0xFFFFFFFF#32 = 1) = true := by decide
  unfold State.writeAvs
  unfold avsConsistent at h
  dsimp only
  rw [if_neg (by simp only [Bool.or_eq_true, decide_eq_true_eq]; omega), if_pos he, hm]
  simp only [State.setW_tb, Bool.and_true, Bool.and_not_self, TbEng.enabled]

/-- An accepted write stores the word. -/
theorem State.writeAvs_stores (h : avsConsistent w) (s : State) :
    (s.writeAvs 0xFFFFFFFF#32 w).w R.TB_AVS_CTL = w ∧ s.OnlyRegsTb (s.writeAvs 0xFFFFFFFF#32 w) [R.TB_AVS_CTL, R.TB_AVS_STAT] ∧
      (F.TB_AVS_CTL_EN.of w = 1 → (s.writeAvs 0xFFFFFFFF#32 w).tb = s.tb.enabled (s.fb 0 F.TB_AVS_CTL_EN)) ∧
      (F.TB_AVS_CTL_EN.of w = 0 → (s.writeAvs 0xFFFFFFFF#32 w).fb 0 F.TB_AVS_STAT_ACT = false ∧ (s.writeAvs 0xFFFFFFFF#32 w).tb = s.tb) := by
  have hstored := (State.OnlyRegsTb.refl s [R.TB_AVS_CTL, R.TB_AVS_STAT]).setW (a := R.TB_AVS_CTL) w (by decide)
  have hen : F.TB_AVS_CTL_EN.of w = 0 ∨ F.TB_AVS_CTL_EN.of w = 1 := by
    have : F.TB_AVS_CTL_EN.of w < 2 ^ 1 := Fld.of_lt _ _
    omega
  rcases hen with he | he
  · rw [State.writeAvs_off h he]
    refine ⟨?_, hstored.setF _ (by decide), by simp [he], fun _ => ⟨?_, rfl⟩⟩
    · rw [State.w_setF_other _ (by decide), State.w_setW_same]
    · rw [State.fb, State.f_setF _ _ _ _ (by decide)]; rfl
  · rw [State.writeAvs_on h he]
    dsimp only
    split
    · refine ⟨?_, (hstored.setTb _).setF _ (by decide), fun _ => rfl, by simp [he]⟩
      rw [State.w_setF_other _ (by decide), State.w_setTb, State.w_setW_same]
    · exact ⟨by rw [State.w_setTb, State.w_setW_same], hstored.setTb _, fun _ => rfl, by simp [he]⟩

/-- AVS_CTL_WRITE. -/
theorem avsCtlWrite_judges (hs : s.Serves) (w : Word) :
    ∃ t, exec (.avsCtlWrite w) s = .next t ∧
      (¬avsConsistent w → t.fb 0 F.TB_AVS_STAT_CFG_ERR = true ∧ s.OnlyRegsOf .host t [R.TB_AVS_STAT]) ∧
      (avsConsistent w →
        t.w R.TB_AVS_CTL = w &&& 0xC00FFFFF#32 ∧ (∀ a, a ∉ [R.TB_AVS_CTL, R.TB_AVS_STAT] → t.w a = s.w a) ∧
        (F.TB_AVS_CTL_EN.of w = 1 → t.tb.avsSuspended = false ∧ (s.tb.avsSuspended = true → t.tb.avsFirst = true)) ∧
        (F.TB_AVS_CTL_EN.of w = 0 → t.fb 0 F.TB_AVS_STAT_ACT = false ∧ t.tb = s.tb) ∧
        t = { s with regs := t.regs, tb := t.tb, paths := t.paths }) := by
  obtain ⟨r, hr, hg, hrw, -⟩ := row_TB_AVS_CTL
  have hvmin : F.TB_AVS_CTL_VMIN.of (w &&& 0xC00FFFFF#32) = F.TB_AVS_CTL_VMIN.of w := Fld.of_and (by decide) w
  have hvmax : F.TB_AVS_CTL_VMAX.of (w &&& 0xC00FFFFF#32) = F.TB_AVS_CTL_VMAX.of w := Fld.of_and (by decide) w
  have hen : F.TB_AVS_CTL_EN.of (w &&& 0xC00FFFFF#32) = F.TB_AVS_CTL_EN.of w := Fld.of_and (by decide) w
  have hlim : avsConsistent (w &&& 0xC00FFFFF#32) ↔ avsConsistent w := by rw [avsConsistent, hvmin, hvmax, avsConsistent]
  have e : s.wr .host R.TB_AVS_CTL w = (s.writeAvs 0xFFFFFFFF#32 (w &&& 0xC00FFFFF#32)).modPath .host fun x => { x with resp := 0 } := by
    rw [State.wr_unguarded hs s.writes_host (by decide) (by decide) (by decide) (by decide) (by decide) hr hg, writeOwn_TB_AVS_CTL, hrw]
  refine ⟨_, rfl, ?_⟩
  rw [e]
  refine ⟨fun h => ?_, fun h => ?_⟩
  · rw [State.writeAvs_refused (fun hc => h (hlim.1 hc))]
    refine ⟨?_, ((State.OnlyRegs.refl s _).raise (by decide)).modPath _ _⟩
    show decide ((s.raise 0 F.TB_AVS_STAT_CFG_ERR).f 0 F.TB_AVS_STAT_CFG_ERR = 1) = true
    rw [State.raise, State.f_setF _ _ _ _ (by decide)]
    rfl
  · obtain ⟨hw, hframe, hon, hoff⟩ := State.writeAvs_stores (hlim.2 h) s
    rw [hen] at hon hoff
    exact ⟨hw, hframe.2, fun h1 => ⟨congrArg TbEng.avsSuspended (hon h1), fun hsus => (congrArg TbEng.avsFirst (hon h1)).trans
      (by simp [TbEng.enabled, hsus])⟩, hoff, hframe.modPath _ _⟩

/-! ### Evaluations (R20) -/

/-- An evaluation's start: the two limit flags fall, and whether PACE is below the band is kept. -/
def State.avsBegin (s : State) : State :=
  ((s.setF 0 F.TB_AVS_STAT_AT_CEIL 0).setF 0 F.TB_AVS_STAT_AT_FLOOR 0).setTb { s.tb with
    avsBelow := decide (s.f 0 F.TB_PACE_PACE + s.f 0 F.TB_PACE_TARGET_BAND < s.f 0 F.TB_PACE_TARGET_TARGET), avsFirst := false }

theorem State.avsBegin_frame (s : State) : s.OnlyRegsTb s.avsBegin [R.TB_AVS_STAT] :=
  (((State.OnlyRegsTb.refl s _).setF _ (by decide)).setF _ (by decide)).setTb _

theorem State.avsBegin_vreq (s : State) : s.avsBegin.f 0 F.TB_AVS_STAT_VREQ = s.f 0 F.TB_AVS_STAT_VREQ := by
  simp (disch := decide) only [State.avsBegin, State.f_setTb, State.f_setF_apart]

theorem State.avsBegin_ceil (s : State) : s.avsBegin.f 0 F.TB_AVS_STAT_AT_CEIL = 0 := by
  simp (disch := decide) only [State.avsBegin, State.f_setTb, State.f_setF_apart, State.f_setF, Nat.zero_mod]

/-- A request shows its voltage and sets ACT. -/
theorem State.avsRequest_shows (t : State) {mV : Nat} (h : mV < 2 ^ 10) :
    (t.avsRequest mV).f 0 F.TB_AVS_STAT_VREQ = mV ∧ (t.avsRequest mV).fb 0 F.TB_AVS_STAT_ACT = true ∧
      (t.avsRequest mV).f 0 F.TB_AVS_STAT_AT_CEIL = t.f 0 F.TB_AVS_STAT_AT_CEIL := by
  refine ⟨?_, ?_, ?_⟩
  · simp (disch := decide) only [State.avsRequest, State.f_setTb, State.f_setF_apart, State.f_setF]
    exact Nat.mod_eq_of_lt h
  · rw [State.fb, State.avsRequest, State.f_setTb, State.f_setF _ _ _ _ (by decide)]
    rfl
  · simp (disch := decide) only [State.avsRequest, State.f_setTb, State.f_setF_apart]

theorem State.OnlyRegsTb.avsRequest (h : s.OnlyRegsTb t [R.TB_AVS_STAT]) (mV : Nat) : s.OnlyRegsTb (t.avsRequest mV) [R.TB_AVS_STAT] :=
  ((h.setF _ (by decide)).setF _ (by decide)).setTb _

/-- What an evaluation of a running governor comes to. -/
theorem State.avsEvaluate_runs (he : s.fb 0 F.TB_AVS_CTL_EN = true) (hh : s.fb 0 F.TB_AVS_CTL_HOLD = false) (hr : s.ready = true)
    (hs : s.tb.avsSuspended = false) (mV : Nat) : s.avsEvaluate mV =
      if s.tb.avsFirst then s.avsBegin.avsRequest (clampNat (s.f 0 F.TB_AVS_CTL_VMIN) (s.f 0 F.TB_AVS_CTL_VMAX) ((mV * 2 + 5) / 10 * 5))
      else if s.f 0 F.TB_PACE_PACE > s.f 0 F.TB_PACE_TARGET_TARGET then
        if s.f 0 F.TB_AVS_STAT_VREQ < s.f 0 F.TB_AVS_CTL_VMAX then
          s.avsBegin.avsRequest (min (s.f 0 F.TB_AVS_CTL_VMAX) (s.f 0 F.TB_AVS_STAT_VREQ + 5))
        else s.avsBegin.setF 0 F.TB_AVS_STAT_AT_CEIL 1
      else if decide (s.f 0 F.TB_PACE_PACE + s.f 0 F.TB_PACE_TARGET_BAND < s.f 0 F.TB_PACE_TARGET_TARGET) then
        if s.f 0 F.TB_AVS_STAT_VREQ ≤ s.f 0 F.TB_AVS_CTL_VMIN then s.avsBegin.setF 0 F.TB_AVS_STAT_AT_FLOOR 1
        else if s.tb.avsBelow then s.avsBegin.avsRequest (max (s.f 0 F.TB_AVS_CTL_VMIN) (s.f 0 F.TB_AVS_STAT_VREQ - 5)) else s.avsBegin
      else s.avsBegin := by
  unfold State.avsEvaluate
  rw [if_neg (by simp [he, hh, hr, hs])]
  rfl

/-- What every evaluation leaves: only TB_AVS_STAT and the engine change, and the next one is no first one. -/
def State.AvsEvaluated (s t : State) : Prop := t.tb.avsFirst = false ∧ s.OnlyRegsTb t [R.TB_AVS_STAT]

theorem State.avsBegin_evaluated (s : State) : s.AvsEvaluated s.avsBegin := ⟨rfl, s.avsBegin_frame⟩

theorem State.AvsEvaluated.request (h : s.AvsEvaluated t) (mV : Nat) : s.AvsEvaluated (t.avsRequest mV) := ⟨h.1, h.2.avsRequest mV⟩

theorem State.AvsEvaluated.setF (h : s.AvsEvaluated t) {f : Fld} (v : Nat) (hf : f.addr = R.TB_AVS_STAT) : s.AvsEvaluated (t.setF 0 f v) :=
  ⟨h.1, h.2.setF v (by simp [hf])⟩

theorem State.avsEvaluate_evaluated (he : s.fb 0 F.TB_AVS_CTL_EN = true) (hh : s.fb 0 F.TB_AVS_CTL_HOLD = false) (hr : s.ready = true)
    (hs : s.tb.avsSuspended = false) (mV : Nat) : s.AvsEvaluated (s.avsEvaluate mV) := by
  have h0 := s.avsBegin_evaluated
  rw [State.avsEvaluate_runs he hh hr hs]
  split_ifs
  · exact h0.request _
  · exact h0.request _
  · exact h0.setF 1 rfl
  · exact h0.setF 1 rfl
  · exact h0.request _
  · exact h0
  · exact h0

/-- A limit flag that an evaluation sets stands beside the voltage requested before. -/
theorem State.avsBegin_flag (s : State) {f : Fld} (hf : f.addr = R.TB_AVS_STAT) (hlen : f.len = 1) (hlo : 10 ≤ f.lo ∧ f.lo < 32) :
    (s.avsBegin.setF 0 f 1).fb 0 f = true ∧ (s.avsBegin.setF 0 f 1).f 0 F.TB_AVS_STAT_VREQ = s.f 0 F.TB_AVS_STAT_VREQ := by
  constructor
  · rw [State.fb, State.f_setF _ _ _ _ (by omega), hlen]
    rfl
  · rw [State.f_setF_apart _ _ hf (by decide) (by omega) (.inl (by simpa using hlo.1)), State.avsBegin_vreq]

/-- AVS_EVALUATION. -/
theorem avsEvaluation_steps (he : s.fb 0 F.TB_AVS_CTL_EN = true) (hh : s.fb 0 F.TB_AVS_CTL_HOLD = false) (hr : s.ready = true)
    (hs : s.tb.avsSuspended = false) (mV : Nat) :
    ∃ t, exec (.avsEvaluation mV) s = .next t ∧ t.tb.avsFirst = false ∧
      (s.tb.avsFirst = true → t.f 0 F.TB_AVS_STAT_VREQ =
          clampNat (s.f 0 F.TB_AVS_CTL_VMIN) (s.f 0 F.TB_AVS_CTL_VMAX) ((mV * 2 + 5) / 10 * 5) ∧ t.fb 0 F.TB_AVS_STAT_ACT = true) ∧
      (s.tb.avsFirst = false → s.f 0 F.TB_PACE_TARGET_TARGET < s.f 0 F.TB_PACE_PACE →
        (s.f 0 F.TB_AVS_STAT_VREQ < s.f 0 F.TB_AVS_CTL_VMAX →
          t.f 0 F.TB_AVS_STAT_VREQ = min (s.f 0 F.TB_AVS_CTL_VMAX) (s.f 0 F.TB_AVS_STAT_VREQ + 5) ∧ t.fb 0 F.TB_AVS_STAT_ACT = true ∧
            t.fb 0 F.TB_AVS_STAT_AT_CEIL = false) ∧
        (s.f 0 F.TB_AVS_CTL_VMAX ≤ s.f 0 F.TB_AVS_STAT_VREQ → t.fb 0 F.TB_AVS_STAT_AT_CEIL = true ∧
          t.f 0 F.TB_AVS_STAT_VREQ = s.f 0 F.TB_AVS_STAT_VREQ)) ∧
      (s.tb.avsFirst = false → s.f 0 F.TB_PACE_PACE + s.f 0 F.TB_PACE_TARGET_BAND < s.f 0 F.TB_PACE_TARGET_TARGET →
        (s.f 0 F.TB_AVS_STAT_VREQ ≤ s.f 0 F.TB_AVS_CTL_VMIN → t.fb 0 F.TB_AVS_STAT_AT_FLOOR = true ∧
          t.f 0 F.TB_AVS_STAT_VREQ = s.f 0 F.TB_AVS_STAT_VREQ) ∧
        (s.f 0 F.TB_AVS_CTL_VMIN < s.f 0 F.TB_AVS_STAT_VREQ → s.tb.avsBelow = true →
          t.f 0 F.TB_AVS_STAT_VREQ = max (s.f 0 F.TB_AVS_CTL_VMIN) (s.f 0 F.TB_AVS_STAT_VREQ - 5) ∧ t.fb 0 F.TB_AVS_STAT_ACT = true) ∧
        (s.f 0 F.TB_AVS_CTL_VMIN < s.f 0 F.TB_AVS_STAT_VREQ → s.tb.avsBelow = false →
          t.f 0 F.TB_AVS_STAT_VREQ = s.f 0 F.TB_AVS_STAT_VREQ ∧ t.tb.avsBelow = true)) ∧
      (∀ a, a ≠ R.TB_AVS_STAT → t.w a = s.w a) ∧ t = { s with regs := t.regs, tb := t.tb } := by
  obtain ⟨hfirst, hframe⟩ := State.avsEvaluate_evaluated he hh hr hs mV
  have hmin : s.f 0 F.TB_AVS_CTL_VMIN < 2 ^ 10 := Fld.of_lt _ _
  have hmax : s.f 0 F.TB_AVS_CTL_VMAX < 2 ^ 10 := Fld.of_lt _ _
  have hreq : s.f 0 F.TB_AVS_STAT_VREQ < 2 ^ 10 := Fld.of_lt _ _
  have e := State.avsEvaluate_runs he hh hr hs mV
  refine ⟨_, rfl, hfirst, fun h1 => ?_, fun h1 hup => ⟨fun hv => ?_, fun hv => ?_⟩, fun h1 hdown => ⟨fun hv => ?_, fun hv hb => ?_, fun hv hb => ?_⟩,
    fun a ha => hframe.w_eq ha, hframe.1⟩
  · rw [e, if_pos h1]
    have hlim : clampNat (s.f 0 F.TB_AVS_CTL_VMIN) (s.f 0 F.TB_AVS_CTL_VMAX) ((mV * 2 + 5) / 10 * 5) < 2 ^ 10 := by unfold clampNat; omega
    obtain ⟨hvreq, hact, -⟩ := State.avsRequest_shows s.avsBegin hlim
    exact ⟨hvreq, hact⟩
  · rw [e, if_neg (by simp [h1]), if_pos hup, if_pos hv]
    obtain ⟨hvreq, hact, hceil⟩ := State.avsRequest_shows s.avsBegin (mV := min (s.f 0 F.TB_AVS_CTL_VMAX) (s.f 0 F.TB_AVS_STAT_VREQ + 5)) (by omega)
    exact ⟨hvreq, hact, by rw [State.fb, hceil, State.avsBegin_ceil]; rfl⟩
  · rw [e, if_neg (by simp [h1]), if_pos hup, if_neg (by omega)]
    exact State.avsBegin_flag s rfl rfl (by decide)
  · rw [e, if_neg (by simp [h1]), if_neg (by omega), if_pos (by simpa using hdown), if_pos hv]
    exact State.avsBegin_flag s rfl rfl (by decide)
  · rw [e, if_neg (by simp [h1]), if_neg (by omega), if_pos (by simpa using hdown), if_neg (by omega), if_pos hb]
    obtain ⟨hvreq, hact, -⟩ := State.avsRequest_shows s.avsBegin (mV := max (s.f 0 F.TB_AVS_CTL_VMIN) (s.f 0 F.TB_AVS_STAT_VREQ - 5)) (by omega)
    exact ⟨hvreq, hact⟩
  · rw [e, if_neg (by simp [h1]), if_neg (by omega), if_pos (by simpa using hdown), if_neg (by omega), if_neg (by simp [hb])]
    exact ⟨s.avsBegin_vreq, decide_eq_true hdown⟩

/-! ### A regulator that does not acknowledge (R20) -/

/-- AVS_ACK_TIMEOUT. -/
theorem avsAckTimeout_retries (ha : s.fb 0 F.TB_AVS_STAT_ACT = true) :
    ∃ t, exec .avsAckTimeout s = .next t ∧
      (s.tb.avsRetried = false → t = { s with tb := { s.tb with avsRetried := true } }) ∧
      (s.tb.avsRetried = true → t.fb 0 F.TB_AVS_STAT_NO_ACK = true ∧ t.fb 0 F.TB_AVS_STAT_ACT = false ∧
        t.tb = { s.tb with avsSuspended := true, avsRetried := false } ∧ (∀ a, a ≠ R.TB_AVS_STAT → t.w a = s.w a)) := by
  have e : s.avsNoAck = if s.tb.avsRetried then
      ((s.raise 0 F.TB_AVS_STAT_NO_ACK).setF 0 F.TB_AVS_STAT_ACT 0).setTb { s.tb with avsSuspended := true, avsRetried := false }
    else s.setTb { s.tb with avsRetried := true } := by
    rw [State.avsNoAck, if_neg (by simp [ha])]
  refine ⟨s.avsNoAck, rfl, fun h => ?_, fun h => ?_⟩
  · rw [e, if_neg (by simp [h])]
    rfl
  · rw [e, if_pos h]
    have hframe := (((State.OnlyRegsTb.refl s [R.TB_AVS_STAT]).setF (b := 0) (f := F.TB_AVS_STAT_NO_ACK) 1 (by decide)).setF (b := 0)
      (f := F.TB_AVS_STAT_ACT) 0 (by decide)).setTb { s.tb with avsSuspended := true, avsRetried := false }
    refine ⟨?_, ?_, rfl, fun a ha => hframe.w_eq ha⟩
    · simp (disch := decide) only [State.fb, State.raise, State.f_setTb, State.f_setF_apart, State.f_setF]
      decide
    · rw [State.fb, State.f_setTb, State.f_setF _ _ _ _ (by decide)]
      rfl

/-- Settles O18: each clause is the lemma of its command above. -/
theorem paceAndSupplyGovernor : Obligations.PaceAndSupplyGovernor := by
  unfold Obligations.PaceAndSupplyGovernor
  refine ⟨fun s counts _ => ?_, fun s hs => paceMaxClr_loads hs, fun s w hs => ?_,
    fun s mV he hh hr hs => avsEvaluation_steps he hh hr hs mV, fun s ha => avsAckTimeout_retries ha⟩
  · obtain ⟨t, ht, hpace, hmax, hslow, hfast, hframe⟩ := paceUpdate_shows s counts
    refine ⟨t, ht, hpace, fun h => ?_, fun h => ?_, ?_, ?_, hframe⟩
    · rw [hmax, hpace, State.paceTop, if_neg (show s.tb.paceClrAt ≠ some s.mclkNow from h)]
    · rw [hmax, hpace, State.paceTop, if_pos (show s.tb.paceClrAt = some s.mclkNow from h)]
    · rw [hpace]; exact hslow
    · rw [hpace]; exact hfast
  · obtain ⟨t, ht, hbad, hgood⟩ := avsCtlWrite_judges hs w
    refine ⟨t, ht, fun h => hbad ?_, fun h1 h2 h3 => hgood ⟨h1, h2, h3⟩⟩
    unfold avsConsistent
    omega

end Sys2Proof.Machine
end

section
/-!
PROOFS. The reducer's reading of the input FIFO (R85): what a handshake does where no gate is open and no other
channel reads the stream.
-/

namespace Sys2Proof.Machine

variable {s : State} {n : Ch} {c : Chan}

/-! ### Updates of one channel -/

@[simp] theorem State.setChan_self (s : State) (n : Ch) : s.setChan n (s.chan n) = s := by
  simp [State.setChan, State.chan]

@[simp] theorem State.setChan_setChan (s : State) (n : Ch) (c d : Chan) : (s.setChan n c).setChan n d = s.setChan n d := by
  simp [State.setChan]

/-- An operation that changes no member's state changes nothing. -/
theorem State.forAll_id {α : Type} {l : List α} {g : α → State → State} (h : ∀ a ∈ l, g a s = s) : s.forAll l g = s := by
  unfold State.forAll
  induction l with
  | nil => rfl
  | cons a t ih =>
    rw [List.foldl_cons, h a (by simp)]
    exact ih fun b hb => h b (by simp [hb])

/-- A channel's partners are those of the other channels' gates. -/
@[simp] theorem State.consumers_setChan (s : State) (n : Ch) (c : Chan) : (s.setChan n c).consumers n = s.consumers n := by
  unfold State.consumers
  refine List.filter_congr fun m _ => ?_
  by_cases h : m = n
  · simp [h]
  · rw [State.chan_setChan_other s c (Ne.symm h)]

@[simp] theorem State.captured_setChan (s : State) (n m : Ch) (c : Chan) : (s.setChan n c).captured m = s.captured m := rfl
@[simp] theorem State.blockFull_setChan (s : State) (n m : Ch) (c : Chan) : (s.setChan n c).blockFull m = s.blockFull m := rfl

/-- What stalls a channel lies, but for its gates, outside the channel's state. -/
theorem State.stalls_setChan (hg : c.gates = (s.chan n).gates) : (s.setChan n c).stalls n = s.stalls n := by
  have h1 : (s.setChan n c).outputStalls n = s.outputStalls n := by
    unfold State.outputStalls
    rw [State.chan_setChan_same, hg]
    rfl
  unfold State.stalls
  rw [h1]
  rfl

theorem State.stalls_modChan {f : Chan → Chan} (hf : (f (s.chan n)).gates = (s.chan n).gates) : (s.modChan n f).stalls n = s.stalls n :=
  State.stalls_setChan hf

/-- What an entry costs depends, of the channel, on its reference and its last edge alone. -/
theorem State.vatItems_setChan (h1 : c.vref = (s.chan n).vref) (h2 : c.lastEdge = (s.chan n).lastEdge) (e : FEntry) :
    (s.setChan n c).vatItems n e = s.vatItems n e := by
  unfold State.vatItems
  rw [State.chan_setChan_same, h1, h2]
  rfl

theorem State.vatCost_setChan (h1 : c.vref = (s.chan n).vref) (h2 : c.lastEdge = (s.chan n).lastEdge) (e : FEntry) :
    (s.setChan n c).vatCost n e = s.vatCost n e := by
  unfold State.vatCost
  rw [State.vatItems_setChan h1 h2]
  rfl

/-! ### A reducer with no gate -/

/-- No gate is open on the channel, its queues are empty, and no other channel's gate takes its stream. -/
structure State.Ungated (s : State) (n : Ch) : Prop where
  gates : (s.chan n).gates = []
  own : (s.chan n).red.ownQ = []
  part : (s.chan n).red.partQ = []
  consumers : s.consumers n = []

theorem State.Ungated.setChan (h : s.Ungated n) (hg : c.gates = []) (ho : c.red.ownQ = []) (hp : c.red.partQ = []) :
    (s.setChan n c).Ungated n :=
  ⟨by rw [State.chan_setChan_same, hg], by rw [State.chan_setChan_same, ho], by rw [State.chan_setChan_same, hp],
    by rw [State.consumers_setChan, h.consumers]⟩

/-- An update of the FIFO, of what has been taken and of the balance leaves the channel without a gate. -/
theorem State.Ungated.setQueues (h : s.Ungated n) (fifo vwait : List FEntry) (balance : Nat) :
    (s.setChan n { s.chan n with fifo := fifo, vwait := vwait, balance := balance }).Ungated n :=
  h.setChan h.gates h.own h.part

/-- What a drive with nothing queued writes back is what stands there. -/
theorem Chan.ungated_self (hg : c.gates = []) (ho : c.red.ownQ = []) (hp : c.red.partQ = []) :
    ({ c with gates := [], red := { c.red with ownQ := [], partQ := [] } } : Chan) = c := by
  have e : ({ c with gates := c.gates, red := { c.red with ownQ := c.red.ownQ, partQ := c.red.partQ } } : Chan) = c := rfl
  rwa [hg, ho, hp] at e

/-- With no gate and nothing queued there is nothing to reduce. -/
theorem State.Ungated.drive_eq (h : s.Ungated n) : s.drive n = s := by
  have hrun (of : Option Int) (k : Nat) (r : Reduce) (hr : r.gates = []) : Reduce.run n.val of none k r = r := by
    cases k with
    | zero => rfl
    | succ k => simp [Reduce.run, Reduce.step, hr]
  unfold State.drive
  simp only [h.gates]
  rw [hrun _ _ _ rfl]
  simp only [List.isEmpty_nil, if_true, h.own, Chan.outside]
  exact (congrArg (s.setChan n) (Chan.ungated_self h.gates h.own h.part)).trans (s.setChan_self n)

theorem State.Ungated.driveAll_eq (h : s.Ungated n) : s.driveAll n [] = s := by
  unfold State.driveAll
  rw [h.consumers]
  simp [State.forAll, h.drive_eq]

/-- No unit listens to edges of the channel. -/
theorem State.edgeSource_none (h : ∀ u : Unit16, s.srcEn u 14 = false) (n : Ch) (t : Int) (r : Bool) : s.edgeSource n t r = s :=
  State.forAll_id fun u _ => by simp [h u]

/-- Nothing of the channel is on its way into a record. -/
theorem State.finishUnits_none (h : ∀ u : Unit16, s.tuState u = tuPost → (s.tu u).rings.any (fun r => decide (r.ch = n)) = false) :
    s.finishUnits n = s :=
  State.forAll_id fun u _ => by
    rw [if_neg]
    rintro hc
    simp only [Bool.and_eq_true, decide_eq_true_eq] at hc
    rw [h u hc.1] at hc
    exact Bool.false_ne_true hc.2

/-! ### An edge that passes on -/

theorem State.modChan_modChan (s : State) (n : Ch) (f g : Chan → Chan) : (s.modChan n f).modChan n g = s.modChan n fun c => g (f c) := by
  simp [State.modChan]

/-- An update of one channel that keeps it without a gate. -/
theorem State.Ungated.modChan (h : s.Ungated n) {f : Chan → Chan} (hf : ∀ c, (f c).gates = c.gates ∧ (f c).red.ownQ = c.red.ownQ ∧
    (f c).red.partQ = c.red.partQ) : (s.modChan n f).Ungated n := by
  obtain ⟨hg, ho, hp⟩ := hf (s.chan n)
  exact h.setChan (hg.trans h.gates) (ho.trans h.own) (hp.trans h.part)

/-- Without a gate an item lies outside every gate (R96). -/
theorem State.Ungated.feed_eq (h : s.Ungated n) (i : SItem) : s.feed n i = s.modChan n fun c => c.outside n (s.gateCfg n) [i] := by
  have hc (f : Chan → Chan) : (s.modChan n f).consumers n = [] := by rw [State.modChan, State.consumers_setChan, h.consumers]
  unfold State.feed
  dsimp only
  rw [hc]
  simp [State.forAll, State.modChan, h.gates]

/-- What Mordant, where it is enabled, takes of the stream (R115). -/
def Chan.toMordant (on : Bool) (i : MIn) (c : Chan) : Chan :=
  { c with mord := if on then { c.mord with input := c.mord.input ++ [i] } else c.mord }

theorem State.feedMordant_eq (s : State) (n : Ch) (i : MIn) :
    s.feedMordant n i = s.modChan n (Chan.toMordant (s.fb (chBase n) F.CH_MD_CTL_EN) i) := by
  unfold State.feedMordant
  split
  · next h => rw [h]; rfl
  · next h =>
    rw [Bool.not_eq_true] at h
    rw [h]
    exact (s.setChan_self n).symm

/-- An edge becomes the channel's last, and the reference unless it lies before the arming of a unit (R143, R153). -/
def Chan.markEdge (early : Bool) (t : Int) (c : Chan) : Chan := { c with vref := (if early then c.vref else some t), lastEdge := some t }

/-- Outside a gate the reducer's carried state alone takes an item, and anchors the TIE line. -/
theorem Chan.outside_one (c : Chan) (ch : Nat) (cfg : GateCfg) (i : SItem) :
    ∃ k, c.outside ch cfg [i] = { c with tieAt := none, red := { c.red with carry := k } } := ⟨_, rfl⟩

/-- What an edge that passes through a reducer with no gate makes of the channel: it is the last edge, may anchor the TIE
line, and reaches an enabled Mordant (R78, R108, R115). -/
@[irreducible] def State.passEdge (s : State) (n : Ch) (raw : Nat) (cap : Cap) (c : Chan) : Chan :=
  ((c.markEdge (s.beforeArm n (wholeTk (s.t16 n raw cap))) (wholeTk (s.t16 n raw cap))).outside n (s.gateCfg n)
    [.edge (s.t16 n raw cap) cap.rising]).toMordant (s.fb (chBase n) F.CH_MD_CTL_EN) (.edge (s.t16 n raw cap) cap.rising)

theorem State.readEntry_edge (s : State) (n : Ch) (raw : Nat) (cap : Cap) : s.readEntry n (.edge raw cap) =
    (((s.modChan n (Chan.markEdge (s.beforeArm n (wholeTk (s.t16 n raw cap))) (wholeTk (s.t16 n raw cap)))).feed n
      (.edge (s.t16 n raw cap) cap.rising)).feedMordant n (.edge (s.t16 n raw cap) cap.rising)).edgeSource n (s.t16 n raw cap) cap.rising := rfl

theorem State.Ungated.readEntry_edge (h : s.Ungated n) (hs : ∀ u : Unit16, s.srcEn u 14 = false) (raw : Nat) (cap : Cap) :
    s.readEntry n (.edge raw cap) = s.modChan n (s.passEdge n raw cap) := by
  have h1 := h.modChan (f := Chan.markEdge (s.beforeArm n (wholeTk (s.t16 n raw cap))) (wholeTk (s.t16 n raw cap))) fun _ => ⟨rfl, rfl, rfl⟩
  rw [State.readEntry_edge, State.feedMordant_eq, h1.feed_eq, State.modChan_modChan, State.modChan_modChan]
  unfold State.passEdge
  exact State.edgeSource_none (by exact hs) ..

section PassEdge
variable (s : State) (n : Ch) (raw : Nat) (cap : Cap) (c : Chan)

/-- Of the channel, the reference, the last edge, the TIE line with the reducer's carried state, and Mordant change. -/
theorem State.passEdge_eq : ∃ k, s.passEdge n raw cap c = { c with
    vref := (if s.beforeArm n (wholeTk (s.t16 n raw cap)) then c.vref else some (wholeTk (s.t16 n raw cap))),
    lastEdge := some (wholeTk (s.t16 n raw cap)), tieAt := none, red := { c.red with carry := k },
    mord := (if s.fb (chBase n) F.CH_MD_CTL_EN then
      { c.mord with input := c.mord.input ++ [.edge (s.t16 n raw cap) cap.rising] } else c.mord) } := by
  obtain ⟨k, hk⟩ := (c.markEdge (s.beforeArm n (wholeTk (s.t16 n raw cap))) (wholeTk (s.t16 n raw cap))).outside_one n (s.gateCfg n)
    (.edge (s.t16 n raw cap) cap.rising)
  refine ⟨k, ?_⟩
  rw [State.passEdge, hk]
  rfl

/-- It depends, beside the channel's own state, on nothing of a channel. -/
theorem State.passEdge_setChan (d : Chan) : (s.setChan n d).passEdge n raw cap = s.passEdge n raw cap := by
  unfold State.passEdge
  rfl

/-- The FIFO, what has been taken and the balance stand. -/
theorem State.passEdge_queues : (s.passEdge n raw cap c).fifo = c.fifo ∧ (s.passEdge n raw cap c).vwait = c.vwait ∧
    (s.passEdge n raw cap c).balance = c.balance := by
  obtain ⟨k, e⟩ := s.passEdge_eq n raw cap c
  rw [e]
  exact ⟨rfl, rfl, rfl⟩

/-- The gates stand, and the reducer's queues. -/
theorem State.passEdge_red : (s.passEdge n raw cap c).gates = c.gates ∧ (s.passEdge n raw cap c).red.ownQ = c.red.ownQ ∧
    (s.passEdge n raw cap c).red.partQ = c.red.partQ := by
  obtain ⟨k, e⟩ := s.passEdge_eq n raw cap c
  rw [e]
  exact ⟨rfl, rfl, rfl⟩

theorem State.passEdge_lastEdge : (s.passEdge n raw cap c).lastEdge = some (wholeTk (s.t16 n raw cap)) := by
  obtain ⟨k, e⟩ := s.passEdge_eq n raw cap c
  rw [e]

theorem State.passEdge_vref (h : s.beforeArm n (wholeTk (s.t16 n raw cap)) = false) :
    (s.passEdge n raw cap c).vref = some (wholeTk (s.t16 n raw cap)) := by
  obtain ⟨k, e⟩ := s.passEdge_eq n raw cap c
  rw [e, h]
  rfl

theorem State.passEdge_mord : (s.passEdge n raw cap c).mord = if s.fb (chBase n) F.CH_MD_CTL_EN then
    { c.mord with input := c.mord.input ++ [.edge (s.t16 n raw cap) cap.rising] } else c.mord := by
  obtain ⟨k, e⟩ := s.passEdge_eq n raw cap c
  rw [e]

end PassEdge

/-- On a channel that no unit captures, no entry lies before an arming, and none completes a record. -/
theorem State.beforeArm_uncaptured (h : s.captured n = false) (t : Int) : s.beforeArm n t = false := by
  simp only [State.captured, Bool.or_eq_false_iff, List.any_eq_false] at h
  simp only [State.beforeArm, List.any_eq_false]
  intro u hu hc
  simp only [Bool.and_eq_true] at hc
  exact h.1 u hu (by simp [hc.1.1, hc.1.2])

theorem State.finishUnits_uncaptured (h : s.captured n = false) : s.finishUnits n = s := by
  simp only [State.captured, Bool.or_eq_false_iff, List.any_eq_false] at h
  refine State.finishUnits_none fun u hu => Bool.eq_false_iff.2 fun hc => h.1 u (List.mem_finRange u) ?_
  simp [hu, hc]

/-! ### What the reducer has taken -/

theorem State.vatCost_uncaptured (h : s.captured n = false) (e : FEntry) : s.vatCost n e = 0 := by simp [State.vatCost, h]

/-- An edge that needs no grant passes on at once. -/
theorem State.Ungated.passFront_edge {raw : Nat} {cap : Cap} {rest : List FEntry} (h : s.Ungated n) (hcap : s.captured n = false)
    (hst : s.stalls n = false) (hs : ∀ u : Unit16, s.srcEn u 14 = false) (hw : (s.chan n).vwait = .edge raw cap :: rest) :
    s.passFront n = s.modChan n fun c => s.passEdge n raw cap { c with vwait := rest } := by
  have h1 : (s.setChan n { s.chan n with vwait := rest }).Ungated n := h.setQueues _ rest _
  have h2 := h1.modChan (f := (s.setChan n { s.chan n with vwait := rest }).passEdge n raw cap) fun c => State.passEdge_red ..
  unfold State.passFront
  simp only [hw, hst, State.vatCost_uncaptured hcap]
  rw [if_neg (by simp)]
  unfold State.passEntry
  simp only [Nat.sub_zero, State.captured_setChan, hcap, Bool.false_eq_true, if_false, State.forAll, List.foldl_nil]
  rw [h1.readEntry_edge hs, h2.driveAll_eq, State.finishUnits_uncaptured (by exact hcap), State.modChan, State.chan_setChan_same,
    State.setChan_setChan, State.passEdge_setChan]
  rfl

/-- An entry waits while something stalls the channel or the balance does not cover it (R14). -/
theorem State.passFront_waits {e : FEntry} {rest : List FEntry} (hw : (s.chan n).vwait = e :: rest)
    (h : s.stalls n = true ∨ (s.chan n).balance < s.vatCost n e ∨ (s.vatCost n e ≠ 0 ∧ s.blockFull n = true)) : s.passFront n = s := by
  unfold State.passFront
  simp only [hw]
  rw [if_pos]
  simp only [Bool.or_eq_true, Bool.and_eq_true, decide_eq_true_eq]
  rcases h with h | h | ⟨h, hb⟩
  · exact .inl h
  · exact .inr ⟨by omega, .inl h⟩
  · exact .inr ⟨h, .inr hb⟩

theorem State.passFront_nil (hw : (s.chan n).vwait = []) : s.passFront n = s := by
  unfold State.passFront
  simp only [hw]

theorem State.passUpTo_waits (h : s.passFront n = s) (k : Nat) : State.passUpTo n k s = s := by
  induction k with
  | zero => rfl
  | succ k ih => rw [State.passUpTo, h, ih]

theorem State.passTaken_of {t : State} {k : Nat} (hk : (s.chan n).vwait.length = k) (ht : State.passUpTo n k s = t) :
    s.passTaken n = if t.vatWaits n then t else t.setChan n { t.chan n with balance := 0 } := by
  unfold State.passTaken
  rw [hk, ht]
  rfl

/-- With its front waiting, the channel keeps its balance if it waits for the port. -/
theorem State.passTaken_waits (h : s.passFront n = s) :
    s.passTaken n = s.setChan n { s.chan n with balance := if s.vatWaits n then (s.chan n).balance else 0 } := by
  rw [State.passTaken_of rfl (State.passUpTo_waits h _)]
  split
  · exact (s.setChan_self n).symm
  · rfl

theorem State.takeEntry_nil (hf : (s.chan n).fifo = []) : s.takeEntry n = s := by
  unfold State.takeEntry
  simp only [hf]

/-- Nothing is read while something stalls the channel or two entries wait (R85). -/
theorem State.takeEntry_waits (h : s.stalls n = true ∨ 2 ≤ (s.chan n).taken) : s.takeEntry n = s := by
  unfold State.takeEntry
  dsimp only
  split
  · rfl
  · rw [if_pos (by simpa using h)]

theorem State.takeEntry_cons {e : FEntry} {rest : List FEntry} (hf : (s.chan n).fifo = e :: rest) (hst : s.stalls n = false)
    (ht : (s.chan n).taken < 2) : s.takeEntry n = s.setChan n { s.chan n with fifo := rest, vwait := (s.chan n).vwait ++ [e] } := by
  unfold State.takeEntry
  simp only [hf]
  rw [if_neg (by simp [hst, ht])]

/-- A handshake of a channel whose qualifier holds nothing back. -/
theorem State.handshake_settled (h : (s.chan n).settle s.now = s.chan n) :
    s.handshake n = (((s.takeEntry n).takeEntry n).passTaken n).driveAll n [] := by
  have e : (s.modChan n fun c => c.settle s.now) = s := by rw [State.modChan, h, State.setChan_self]
  unfold State.handshake
  rw [e]

theorem State.vatWaits_uncaptured (h : s.captured n = false) : s.vatWaits n = false := by simp [State.vatWaits, h]

end Sys2Proof.Machine
end

section
/-!
PROOFS. REDUCER_HANDSHAKE (R78, R85), VAT_GRANT (R14, R143, R145, R164) and WATERMARK (R115).
-/

namespace Sys2Proof.Machine

variable {s : State} {ch : Ch}

theorem exec_reducerHandshake (s : State) (ch : Ch) : exec (.reducerHandshake ch) s = .next (s.handshake ch) := rfl
theorem exec_vatGrant (s : State) (ch : Ch) (k : Nat) : exec (.vatGrant ch k) s = .next (s.grant ch k) := rfl
theorem exec_watermark (s : State) (ch : Ch) : exec (.watermark ch) s = .next (s.watermark ch) := rfl

/-! ### Handshakes that pass edges on -/

/-- A channel on which nothing waits reads two entries, if nothing stalls it. -/
theorem State.takeEntry_twice {e1 e2 : FEntry} {rest : List FEntry} (hf : (s.chan ch).fifo = e1 :: e2 :: rest)
    (hw : (s.chan ch).vwait = []) (hst : s.stalls ch = false) :
    (s.takeEntry ch).takeEntry ch = s.setChan ch { s.chan ch with fifo := rest, vwait := [e1, e2] } := by
  have hlen (l : List FEntry) (c : Chan) : ({ c with vwait := l } : Chan).taken ≤ l.length := List.countP_le_length
  rw [State.takeEntry_cons hf hst (by simp [Chan.taken, hw]), hw, List.nil_append]
  have hst1 : (s.setChan ch { s.chan ch with fifo := e2 :: rest, vwait := [e1] }).stalls ch = false :=
    (State.stalls_setChan (by exact rfl)).trans hst
  rw [State.takeEntry_cons (by rw [State.chan_setChan_same]) hst1, State.chan_setChan_same, State.setChan_setChan]
  · rfl
  · rw [State.chan_setChan_same]
    exact Nat.lt_of_le_of_lt (hlen [e1] { s.chan ch with fifo := e2 :: rest }) (by simp)

section Passing
variable (h : s.Ungated ch) (hw : (s.chan ch).vwait = []) (hset : (s.chan ch).settle s.now = s.chan ch) (hcap : s.captured ch = false)
  (hst : s.stalls ch = false) (hs : ∀ u : Unit16, s.srcEn u 14 = false)
include h hcap hst hs

/-- A taken edge that needs no grant passes on. -/
theorem State.Ungated.passTaken_one {raw : Nat} {cap : Cap} (hw : (s.chan ch).vwait = [.edge raw cap]) :
    s.passTaken ch = s.modChan ch fun c => { s.passEdge ch raw cap { c with vwait := [] } with balance := 0 } := by
  rw [State.passTaken_of (k := 1) (by rw [hw]; rfl) (h.passFront_edge hcap hst hs hw), if_neg, State.modChan, State.chan_setChan_same,
    State.setChan_setChan]
  · rfl
  · rw [State.vatWaits_uncaptured (by exact hcap)]
    exact Bool.false_ne_true

/-- Two taken edges that need no grant pass on, in order. -/
theorem State.Ungated.passTaken_two {r1 r2 : Nat} {c1 c2 : Cap} (hw : (s.chan ch).vwait = [.edge r1 c1, .edge r2 c2]) :
    s.passTaken ch = s.modChan ch fun c =>
      { s.passEdge ch r2 c2 { s.passEdge ch r1 c1 { c with vwait := [.edge r2 c2] } with vwait := [] } with balance := 0 } := by
  obtain ⟨u, hu⟩ : ∃ u, u = s.modChan ch fun c => s.passEdge ch r1 c1 { c with vwait := [.edge r2 c2] } := ⟨_, rfl⟩
  have hgates (c : Chan) : (s.passEdge ch r1 c1 { c with vwait := [.edge r2 c2] }).gates = c.gates := (s.passEdge_red ch r1 c1 { c with vwait := [.edge r2 c2] }).1
  have hU : u.Ungated ch := by
    rw [hu]
    exact h.modChan fun c => s.passEdge_red ch r1 c1 { c with vwait := [.edge r2 c2] }
  have hvw : (u.chan ch).vwait = [.edge r2 c2] := by rw [hu, State.chan_modChan_same, (State.passEdge_queues ..).2.1]
  have hUst : u.stalls ch = false := by rw [hu, State.stalls_modChan (hgates _), hst]
  have hUcap : u.captured ch = false := by rw [hu]; exact hcap
  have hUs : ∀ v : Unit16, u.srcEn v 14 = false := by rw [hu]; exact hs
  have h2 : State.passUpTo ch 2 s = u.modChan ch fun c => u.passEdge ch r2 c2 { c with vwait := [] } := by
    show (s.passFront ch).passFront ch = _
    rw [h.passFront_edge hcap hst hs hw, ← hu, hU.passFront_edge hUcap hUst hUs hvw]
  have hpe : u.passEdge ch r2 c2 = s.passEdge ch r2 c2 := by rw [hu, State.modChan, State.passEdge_setChan]
  rw [State.passTaken_of (k := 2) (by rw [hw]; rfl) h2, if_neg, hpe, hu, State.modChan_modChan, State.modChan, State.chan_setChan_same,
    State.setChan_setChan]
  · rfl
  · rw [State.vatWaits_uncaptured (by exact hUcap)]
    exact Bool.false_ne_true

include hw hset

/-- One edge in the FIFO: it passes on. -/
theorem reducerHandshake_one (raw : Nat) (cap : Cap) (hf : (s.chan ch).fifo = [.edge raw cap]) :
    ∃ t, exec (.reducerHandshake ch) s = .next t ∧ (t.chan ch).fifo = [] ∧ (t.chan ch).vwait = [] ∧ (t.chan ch).balance = 0 ∧
      (t.chan ch).lastEdge = some (wholeTk (s.t16 ch raw cap)) ∧ (t.chan ch).vref = some (wholeTk (s.t16 ch raw cap)) ∧
      (s.fb (chBase ch) F.CH_MD_CTL_EN = true → (t.chan ch).mord = { (s.chan ch).mord with
        input := (s.chan ch).mord.input ++ [MIn.edge (s.t16 ch raw cap) cap.rising] }) ∧
      (s.fb (chBase ch) F.CH_MD_CTL_EN = false → (t.chan ch).mord = (s.chan ch).mord) ∧
      (∀ m : Ch, m ≠ ch → t.chan m = s.chan m) ∧ t = { s with chans := t.chans } := by
  have htake : (s.takeEntry ch).takeEntry ch = s.setChan ch { s.chan ch with fifo := [], vwait := [.edge raw cap] } := by
    rw [State.takeEntry_cons hf hst (by simp [Chan.taken, hw]), hw]
    exact State.takeEntry_nil (by simp)
  have hq : (s.setChan ch { s.chan ch with fifo := [], vwait := [.edge raw cap] }).Ungated ch := h.setQueues _ _ _
  have hpass := hq.passTaken_one hcap ((State.stalls_setChan (by exact rfl)).trans hst) hs (raw := raw) (cap := cap) (by simp)
  have e : s.handshake ch = s.setChan ch { s.passEdge ch raw cap { s.chan ch with fifo := [], vwait := [] } with balance := 0 } := by
    rw [State.handshake_settled hset, htake, hpass, State.Ungated.driveAll_eq, State.modChan, State.chan_setChan_same, State.setChan_setChan]
    · rw [State.passEdge_setChan]
    · exact hq.modChan fun c => State.passEdge_red ..
  have hedge := s.passEdge_lastEdge ch raw cap { s.chan ch with fifo := [], vwait := [] }
  obtain ⟨hfifo, hvw, -⟩ := s.passEdge_queues ch raw cap { s.chan ch with fifo := [], vwait := [] }
  have hmord := s.passEdge_mord ch raw cap { s.chan ch with fifo := [], vwait := [] }
  have hvref := s.passEdge_vref ch raw cap { s.chan ch with fifo := [], vwait := [] } (State.beforeArm_uncaptured hcap _)
  refine ⟨_, exec_reducerHandshake .., ?_⟩
  rw [e, State.chan_setChan_same]
  refine ⟨hfifo, hvw, rfl, hedge, hvref, fun hon => ?_, fun hoff => ?_, fun m hm => State.chan_setChan_other s _ hm.symm, rfl⟩
  · exact hmord.trans (if_pos hon)
  · exact hmord.trans (if_neg (by simp [hoff]))

/-- Two edges in the FIFO: both pass on, the older first. -/
theorem reducerHandshake_two (r1 r2 : Nat) (c1 c2 : Cap) (rest : List FEntry) (hf : (s.chan ch).fifo = .edge r1 c1 :: .edge r2 c2 :: rest) :
    ∃ t, exec (.reducerHandshake ch) s = .next t ∧ (t.chan ch).fifo = rest ∧ (t.chan ch).vwait = [] ∧ (t.chan ch).balance = 0 ∧
      (t.chan ch).lastEdge = some (wholeTk (s.t16 ch r2 c2)) ∧
      (s.fb (chBase ch) F.CH_MD_CTL_EN = true → (t.chan ch).mord.input =
        (s.chan ch).mord.input ++ [MIn.edge (s.t16 ch r1 c1) c1.rising, MIn.edge (s.t16 ch r2 c2) c2.rising]) ∧
      (s.fb (chBase ch) F.CH_MD_CTL_EN = false → (t.chan ch).mord = (s.chan ch).mord) ∧
      (∀ m : Ch, m ≠ ch → t.chan m = s.chan m) ∧ t = { s with chans := t.chans } := by
  have hq : (s.setChan ch { s.chan ch with fifo := rest, vwait := [.edge r1 c1, .edge r2 c2] }).Ungated ch := h.setQueues _ _ _
  have hpass := hq.passTaken_two hcap ((State.stalls_setChan (by exact rfl)).trans hst) hs (r1 := r1) (r2 := r2) (c1 := c1)
    (c2 := c2) (by simp)
  obtain ⟨x, hx⟩ : ∃ x, x = s.passEdge ch r1 c1 { s.chan ch with fifo := rest, vwait := [.edge r2 c2] } := ⟨_, rfl⟩
  have e : s.handshake ch = s.setChan ch { s.passEdge ch r2 c2 { x with vwait := [] } with balance := 0 } := by
    rw [State.handshake_settled hset, State.takeEntry_twice hf hw hst, hpass, State.Ungated.driveAll_eq, State.modChan, State.chan_setChan_same,
      State.setChan_setChan, hx]
    · rw [State.passEdge_setChan, State.passEdge_setChan]
    · refine hq.modChan fun c => ?_
      rw [State.passEdge_setChan, State.passEdge_setChan]
      obtain ⟨g1, o1, p1⟩ := s.passEdge_red ch r1 c1 { c with vwait := [.edge r2 c2] }
      obtain ⟨g2, o2, p2⟩ := s.passEdge_red ch r2 c2 { s.passEdge ch r1 c1 { c with vwait := [.edge r2 c2] } with vwait := [] }
      exact ⟨g2.trans g1, o2.trans o1, p2.trans p1⟩
  obtain ⟨hf1, -, -⟩ := s.passEdge_queues ch r1 c1 { s.chan ch with fifo := rest, vwait := [.edge r2 c2] }
  obtain ⟨hf2, hv2, -⟩ := s.passEdge_queues ch r2 c2 { x with vwait := [] }
  have hm1 := s.passEdge_mord ch r1 c1 { s.chan ch with fifo := rest, vwait := [.edge r2 c2] }
  have hm2 := s.passEdge_mord ch r2 c2 { x with vwait := [] }
  have hedge := s.passEdge_lastEdge ch r2 c2 { x with vwait := [] }
  rw [← hx] at hf1 hm1
  refine ⟨_, exec_reducerHandshake .., ?_⟩
  rw [e, State.chan_setChan_same]
  refine ⟨hf2.trans hf1, hv2, rfl, hedge, fun hon => ?_, fun hoff => ?_, fun m hm => State.chan_setChan_other s _ hm.symm, rfl⟩
  · rw [if_pos hon] at hm1 hm2
    rw [hm2]
    show x.mord.input ++ _ = _
    rw [hm1]
    simp
  · rw [if_neg (by simp [hoff])] at hm1 hm2
    exact hm2.trans hm1

end Passing

/-! ### Handshakes that pass nothing on -/

/-- With the oldest of two new entries uncovered, both wait. -/
theorem reducerHandshake_uncovered {e1 e2 : FEntry} {rest : List FEntry} (h : s.Ungated ch) (hf : (s.chan ch).fifo = e1 :: e2 :: rest)
    (hw : (s.chan ch).vwait = []) (hset : (s.chan ch).settle s.now = s.chan ch) (hst : s.stalls ch = false)
    (hb : (s.chan ch).balance < s.vatCost ch e1) :
    ∃ t, exec (.reducerHandshake ch) s = .next t ∧ t = s.setChan ch { s.chan ch with fifo := rest, vwait := [e1, e2] } := by
  refine ⟨_, exec_reducerHandshake .., ?_⟩
  rw [State.handshake_settled hset, State.takeEntry_twice hf hw hst]
  obtain ⟨u, hu⟩ : ∃ u, u = s.setChan ch { s.chan ch with fifo := rest, vwait := [e1, e2] } := ⟨_, rfl⟩
  have hc : u.chan ch = { s.chan ch with fifo := rest, vwait := [e1, e2] } := by rw [hu, State.chan_setChan_same]
  have hcost : u.vatCost ch e1 = s.vatCost ch e1 := by rw [hu]; exact State.vatCost_setChan (by exact rfl) (by exact rfl) e1
  have hcap : s.captured ch = true := by
    by_contra hn
    rw [State.vatCost_uncaptured (Bool.eq_false_iff.2 hn)] at hb
    omega
  have hwaits : u.vatWaits ch = true := by
    have : u.captured ch = true := by rw [hu]; exact hcap
    simp [State.vatWaits, this, hc]
  have hu1 : u.Ungated ch := by rw [hu]; exact h.setQueues _ _ _
  have hfront : u.passFront ch = u := State.passFront_waits (by rw [hc]) (.inr (.inl (by rw [hc, hcost]; exact hb)))
  rw [← hu, State.passTaken_waits hfront, hwaits, if_pos rfl]
  rw [State.setChan_self, hu1.driveAll_eq]

/-- What a channel that reads nothing and passes nothing on leaves: its balance only while it waits for the port. -/
theorem State.Ungated.handshake_waits (h : s.Ungated ch) (hset : (s.chan ch).settle s.now = s.chan ch) (ht : s.takeEntry ch = s)
    (hp : s.passFront ch = s) :
    s.handshake ch = s.setChan ch { s.chan ch with balance := if s.vatWaits ch then (s.chan ch).balance else 0 } := by
  have h1 : (s.setChan ch { s.chan ch with balance := if s.vatWaits ch then (s.chan ch).balance else 0 }).Ungated ch :=
    h.setQueues _ _ _
  rw [State.handshake_settled hset, ht, ht, State.passTaken_waits hp, h1.driveAll_eq]

/-- With two entries waiting and the older uncovered, nothing is read. -/
theorem reducerHandshake_full {e : FEntry} {rest : List FEntry} (h : s.Ungated ch) (hw : (s.chan ch).vwait = e :: rest)
    (ht : 2 ≤ (s.chan ch).taken) (hb : (s.chan ch).balance < s.vatCost ch e) (hset : (s.chan ch).settle s.now = s.chan ch) :
    ∃ t, exec (.reducerHandshake ch) s = .next t ∧ t = s := by
  have hcap : s.captured ch = true := by
    by_contra hn
    rw [State.vatCost_uncaptured (Bool.eq_false_iff.2 hn)] at hb
    omega
  refine ⟨_, exec_reducerHandshake .., ?_⟩
  rw [h.handshake_waits hset (State.takeEntry_waits (.inr ht)) (State.passFront_waits hw (.inr (.inl hb))), if_pos]
  · exact s.setChan_self ch
  · simp [State.vatWaits, hcap, hw]

/-- A stalled channel reads nothing and passes nothing on (R139, R228). -/
theorem reducerHandshake_stalled (h : s.Ungated ch) (hst : s.stalls ch = true) (hset : (s.chan ch).settle s.now = s.chan ch) :
    ∃ t, exec (.reducerHandshake ch) s = .next t ∧
      t = s.setChan ch { s.chan ch with balance := if s.vatWaits ch then (s.chan ch).balance else 0 } := by
  refine ⟨_, exec_reducerHandshake .., h.handshake_waits hset (State.takeEntry_waits (.inl hst)) ?_⟩
  cases hw : (s.chan ch).vwait with
  | nil => exact State.passFront_nil hw
  | cons e rest => exact State.passFront_waits hw (.inl hst)

/-! ### VAT_GRANT (R14) -/

/-- Without demand a grant does nothing. -/
theorem vatGrant_idle (h : s.vatWaits ch = false) (k : Nat) : ∃ t, exec (.vatGrant ch k) s = .next t ∧ t = s :=
  ⟨_, exec_vatGrant .., by simp [State.grant, h]⟩

/-- The channel's state with k words granted. -/
def Chan.granted (k : Nat) (c : Chan) : Chan := { c with balance := min 8 (c.balance + k) }

theorem State.grant_eq (h : s.vatWaits ch = true) (k : Nat) : s.grant ch k = (s.setChan ch ((s.chan ch).granted k)).passTaken ch := if_pos h

theorem State.vatWaits_granted (s : State) (ch : Ch) (k : Nat) : (s.setChan ch ((s.chan ch).granted k)).vatWaits ch = s.vatWaits ch := by
  simp [State.vatWaits, Chan.granted]

/-- Where the front still waits, the grant is kept. -/
theorem State.grant_waits (h : s.vatWaits ch = true) {k : Nat}
    (hp : (s.setChan ch ((s.chan ch).granted k)).passFront ch = s.setChan ch ((s.chan ch).granted k)) :
    s.grant ch k = s.setChan ch { s.chan ch with balance := min 8 ((s.chan ch).balance + k) } := by
  rw [State.grant_eq h, State.passTaken_waits hp, State.vatWaits_granted, h, if_pos rfl, State.setChan_self]
  rfl

theorem vatGrant_unread (h : s.vatWaits ch = true) (hw : (s.chan ch).vwait = []) (k : Nat) :
    ∃ t, exec (.vatGrant ch k) s = .next t ∧ t = s.setChan ch { s.chan ch with balance := min 8 ((s.chan ch).balance + k) } :=
  ⟨_, exec_vatGrant .., State.grant_waits h (State.passFront_nil (by rw [State.chan_setChan_same]; exact hw))⟩

/-- A stalled channel, one whose balance still does not cover the front, and one without a free block keep the grant. -/
theorem vatGrant_uncovered {k : Nat} {e : FEntry} {rest : List FEntry} (h : s.vatWaits ch = true) (hw : (s.chan ch).vwait = e :: rest)
    (hb : s.stalls ch = true ∨ min 8 ((s.chan ch).balance + k) < s.vatCost ch e ∨ (s.vatCost ch e ≠ 0 ∧ s.blockFull ch = true)) :
    ∃ t, exec (.vatGrant ch k) s = .next t ∧ t = s.setChan ch { s.chan ch with balance := min 8 ((s.chan ch).balance + k) } := by
  refine ⟨_, exec_vatGrant .., State.grant_waits h (State.passFront_waits (e := e) (rest := rest) (by rw [State.chan_setChan_same]; exact hw) ?_)⟩
  have hst : (s.setChan ch ((s.chan ch).granted k)).stalls ch = s.stalls ch := State.stalls_setChan (by exact rfl)
  have hcost : (s.setChan ch ((s.chan ch).granted k)).vatCost ch e = s.vatCost ch e :=
    State.vatCost_setChan (by exact rfl) (by exact rfl) e
  rw [hst, hcost, State.blockFull_setChan, State.chan_setChan_same]
  exact hb

/-! ### WATERMARK (R115) -/

theorem watermark_direct (hf : (s.chan ch).fifo = []) (hb : (s.chan ch).blind = none) (hr : s.clk.running = true) (hw : (s.chan ch).vwait = []) :
    ∃ t, exec (.watermark ch) s = .next t ∧
      (s.fb (chBase ch) F.CH_MD_CTL_EN = true → t = s.setChan ch { s.chan ch with mord := { (s.chan ch).mord with
        input := (s.chan ch).mord.input ++ [MIn.watermark (16 * (Int.ofNat s.now - 4096))] } }) ∧
      (s.fb (chBase ch) F.CH_MD_CTL_EN = false → t = s) := by
  have e : s.watermark ch = s.feedMordant ch (.watermark (16 * (Int.ofNat s.now - 4096))) := by
    unfold State.watermark
    simp [hf, hb, hr, hw]
  refine ⟨_, exec_watermark .., fun hon => ?_, fun hoff => ?_⟩
  · rw [e, State.feedMordant, if_pos hon]
    rfl
  · rw [e, State.feedMordant, if_neg (by simp [hoff])]

/-- A watermark put behind other entries is the last, and no FIFO entry. -/
theorem putWatermark_last (t : Int) (l : List FEntry) : (putWatermark t l).getLast? = some (.watermark t) := by
  fun_induction putWatermark t l with
  | case1 => rfl
  | case2 => rfl
  | case3 e l hne ih =>
    rw [List.getLast?_cons, ih]
    rfl

/-- Not a watermark. -/
theorem putWatermark_taken (t : Int) (c : Chan) : ({ c with vwait := putWatermark t c.vwait } : Chan).taken = c.taken := by
  have key (l : List FEntry) : (putWatermark t l).countP (fun e => match e with | .watermark _ => false | _ => true) =
      l.countP fun e => match e with | .watermark _ => false | _ => true := by
    fun_induction putWatermark t l with
    | case1 => rfl
    | case2 => rfl
    | case3 e l hne ih => rw [List.countP_cons, List.countP_cons, ih]
  exact key c.vwait

theorem watermark_behind (hf : (s.chan ch).fifo = []) (hb : (s.chan ch).blind = none) (hr : s.clk.running = true)
    (hw : (s.chan ch).vwait ≠ []) :
    ∃ t, exec (.watermark ch) s = .next t ∧ (t.chan ch).vwait.getLast? = some (FEntry.watermark (16 * (Int.ofNat s.now - 4096))) ∧
      (t.chan ch).taken = (s.chan ch).taken ∧ t = s.setChan ch { s.chan ch with vwait := (t.chan ch).vwait } := by
  have e : s.watermark ch = s.setChan ch { s.chan ch with vwait := putWatermark (16 * (Int.ofNat s.now - 4096)) (s.chan ch).vwait } := by
    unfold State.watermark
    dsimp only
    rw [if_pos (by simp [hf, hb, hr]), if_neg (by simpa using hw)]
  refine ⟨_, exec_watermark .., ?_⟩
  rw [e, State.chan_setChan_same]
  exact ⟨putWatermark_last _ _, putWatermark_taken _ _, rfl⟩

theorem watermark_none (h : (s.chan ch).fifo ≠ [] ∨ (s.chan ch).blind ≠ none ∨ s.clk.running = false) :
    ∃ t, exec (.watermark ch) s = .next t ∧ t = s := by
  refine ⟨_, exec_watermark .., ?_⟩
  unfold State.watermark
  dsimp only
  rw [if_neg]
  rintro hc
  simp only [Bool.and_eq_true, List.isEmpty_iff, Option.isNone_iff_eq_none] at hc
  obtain ⟨⟨hf, hb⟩, hr⟩ := hc
  rcases h with h | h | h
  · exact h hf
  · exact h hb
  · rw [hr] at h
    cases h

end Sys2Proof.Machine
end

section
/-!
PROOFS. Words of the Vat (R143, R161, R164): what they read after one is put, and after an item's words have been
put round a ring.
-/

namespace Sys2Proof.Machine

variable {s t : State}

/-- The Vat's words and their error marks may differ, and nothing else. -/
def State.OnlyVat (s t : State) : Prop := t = { s with vat := t.vat, vatCE := t.vatCE, vatUE := t.vatUE }

theorem State.OnlyVat.refl (s : State) : s.OnlyVat s := rfl

theorem State.OnlyVat.putVat (h : s.OnlyVat t) (a : Nat) (w : Word) : s.OnlyVat (t.putVat a w) := by
  unfold State.OnlyVat at h ⊢
  rw [h]
  rfl

theorem State.OnlyVat.putRing (h : s.OnlyVat t) (base size pos : Nat) (ws : List Word) : s.OnlyVat (State.putRing base size pos ws t) := by
  induction ws generalizing pos t with
  | nil => exact h
  | cons w ws ih => exact ih (h.putVat _ w) _

theorem State.vatVal_putVat (s : State) (a b : Nat) (w : Word) : (s.putVat a w).vatVal b = if a = b then w else s.vatVal b := by
  unfold State.vatVal State.putVat
  rw [sparseGet_put]
  by_cases h : a = b
  · rw [if_pos h, if_pos h]
  · rw [if_neg h, if_neg h]

/-- Words put within one round of a ring stand one behind the other; every other word stands. -/
theorem State.vatVal_putRing (base size : Nat) (ws : List Word) (pos : Nat) (h : pos + ws.length ≤ size) (s : State) (a : Nat) :
    (State.putRing base size pos ws s).vatVal a =
      if base + 32 + pos ≤ a ∧ a < base + 32 + pos + ws.length then ws.getD (a - (base + 32 + pos)) 0#32 else s.vatVal a := by
  induction ws generalizing pos s with
  | nil => rw [if_neg (by simp)]; rfl
  | cons w ws ih =>
    rw [List.length_cons] at h ⊢
    have hmod : pos % max 1 size = pos := Nat.mod_eq_of_lt (by omega)
    rw [State.putRing, ih (pos + 1) (by omega), State.vatVal_putVat, hmod]
    by_cases ha : base + 32 + pos = a
    · rw [if_neg (by omega), if_pos ha, if_pos (by omega), show a - (base + 32 + pos) = 0 by omega]
      rfl
    · rw [if_neg ha]
      by_cases hin : base + 32 + (pos + 1) ≤ a ∧ a < base + 32 + (pos + 1) + ws.length
      · rw [if_pos hin, if_pos (by omega), show a - (base + 32 + pos) = a - (base + 32 + (pos + 1)) + 1 by omega]
        rfl
      · rw [if_neg hin, if_neg (by omega)]

end Sys2Proof.Machine
end

section
/-!
PROOFS. VAT_GRANT (R14) into the open stream block of a channel (R164), and the statement of the readers.
-/

namespace Sys2Proof.Machine

variable {s : State} {ch : Ch}

/-! ### Stream blocks (R164) -/

/-- The open block after item `i`. -/
def Block.with (b : Block) (i : VItem) (spare : Bool) : Block := { b with items := i :: b.items, spare := b.spare || spare }

/-- An item that leaves room joins the open block, and its words are put behind those that stand there. -/
theorem State.blockItem_open {p : Fin 32} {b : Block} {i : VItem} (hb : (s.blocks[p]).find? (fun (x : Block) => x.ch = ch) = some b)
    (hlen : itemWords b.items + i.words.length < 4096) (hne : b.items ≠ []) (hk : i.kind ≠ .ovf) :
    s.blockItem p ch i = State.putRing (s.blockBase p ch b.seq) 4096 (itemWords b.items) i.words
      { s with blocks := s.blocks.set p (b.with i (s.fb (chBase ch) F.CH_STAT_SPARE) :: (s.blocks[p]).filter fun x => x.ch ≠ ch) } := by
  have hw : itemWords (i :: b.items) = itemWords b.items + i.words.length := by simp [itemWords, Nat.add_comm]
  have hroom : ¬itemWords b.items + i.words.length > 4096 := by omega
  have hstays : (decide (i.kind = .ovf) || decide (itemWords (i :: b.items) ≥ 4096)) = false := by
    rw [hw]
    simp only [Bool.or_eq_false_iff, decide_eq_false_iff_not]
    exact ⟨hk, by omega⟩
  unfold State.blockItem
  simp only [hb, Option.getD_some, hroom, if_false, hstays, Bool.false_eq_true, List.isEmpty_iff, hne]
  rfl

/-- With no ring anywhere, an item of a streamed channel goes to its block alone. -/
theorem State.writeItem_streamed {p : Fin 32} (hr : ∀ u : Unit16, (s.tu u).rings = []) (hp : s.streamOf ch = some p) (i : VItem) :
    s.writeItem ch i = s.blockItem p ch i := by
  have hunits : (s.forAll allUnits fun u s => s.unitItem u ch i) = s := State.forAll_id fun u _ => by simp [State.unitItem, hr u]
  unfold State.writeItem
  simp only [hunits, hp]

/-- What an item written to the open block leaves: registers, channels, units and time stand, the block holds the item, and
the Vat its words behind those of the block. -/
structure State.BlockTook (p : Fin 32) (ch : Ch) (b : Block) (i : VItem) (s t : State) : Prop where
  stands : t = { s with blocks := t.blocks, vat := t.vat, vatCE := t.vatCE, vatUE := t.vatUE }
  block : (t.blocks[p]).find? (fun (x : Block) => x.ch = ch) = some (b.with i (s.fb (chBase ch) F.CH_STAT_SPARE))
  words : ∀ a, t.vatVal a = if s.blockBase p ch b.seq + 32 + itemWords b.items ≤ a ∧
      a < s.blockBase p ch b.seq + 32 + itemWords b.items + i.words.length then
    i.words.getD (a - (s.blockBase p ch b.seq + 32 + itemWords b.items)) 0#32 else s.vatVal a

theorem State.writeItem_took {p : Fin 32} {b : Block} {i : VItem} (hr : ∀ u : Unit16, (s.tu u).rings = []) (hp : s.streamOf ch = some p)
    (hb : (s.blocks[p]).find? (fun (x : Block) => x.ch = ch) = some b) (hlen : itemWords b.items + i.words.length < 4096)
    (hne : b.items ≠ []) (hk : i.kind ≠ .ovf) : s.BlockTook p ch b i (s.writeItem ch i) := by
  rw [State.writeItem_streamed hr hp, State.blockItem_open hb hlen hne hk]
  obtain ⟨v, hv⟩ : ∃ v : State, v = { s with blocks := s.blocks.set p (b.with i (s.fb (chBase ch) F.CH_STAT_SPARE) ::
    (s.blocks[p]).filter fun x => x.ch ≠ ch) } := ⟨_, rfl⟩
  have honly := (State.OnlyVat.refl v).putRing (s.blockBase p ch b.seq) 4096 (itemWords b.items) i.words
  have hch : b.ch = ch := by simpa using List.find?_some hb
  rw [← hv]
  refine ⟨?_, ?_, fun a => ?_⟩
  · rw [honly, hv]
  · rw [honly, hv]
    simp [Block.with, hch]
  · rw [State.vatVal_putRing _ _ _ _ (by omega), hv]
    rfl

/-! ### A covered entry is written and passes on (R14) -/

theorem State.Ungated.of_chans {t : State} (h : s.Ungated ch) (e : t.chans = s.chans) : t.Ungated ch := by
  obtain ⟨hg, ho, hp, hc⟩ := h
  unfold State.consumers State.chan at *
  rw [← e] at hg ho hp hc
  exact ⟨hg, ho, hp, hc⟩

/-- An edge that carries no ABS marker is one item, of its own kind. -/
theorem State.vatItems_edge_kind {raw : Nat} {cap : Cap} {i : VItem} (h : s.vatItems ch (.edge raw cap) = [i]) : i.kind ≠ .ovf := by
  have hlast : i ∈ s.vatItems ch (.edge raw cap) := by rw [h]; exact List.mem_singleton_self i
  simp only [State.vatItems, List.mem_append, List.mem_ite_nil_left, List.mem_singleton] at hlast
  rcases hlast with ⟨-, rfl⟩ | rfl
  · simp
  · simp

theorem State.beforeArm_noRings (hr : ∀ u : Unit16, (s.tu u).rings = []) (t : Int) : s.beforeArm ch t = false := by
  simp [State.beforeArm, hr]

/-- An edge passes the same way whatever stands in the channels, the blocks and the Vat. -/
theorem State.BlockTook.passEdge {p : Fin 32} {b : Block} {i : VItem} {v : State} (h : s.BlockTook p ch b i v) (raw : Nat) (cap : Cap) :
    v.passEdge ch raw cap = s.passEdge ch raw cap := by
  rw [h.stands]
  unfold State.passEdge
  rfl

/-- The front edge of a streamed channel that its balance covers is written, and only then passes on. -/
theorem State.Ungated.passFront_written {raw : Nat} {cap : Cap} {i : VItem} {p : Fin 32} {b : Block} (h : s.Ungated ch)
    (hst : s.stalls ch = false) (hr : ∀ u : Unit16, (s.tu u).rings = []) (he : ∀ u : Unit16, s.srcEn u 14 = false)
    (hp : s.streamOf ch = some p) (hfull : s.blockFull ch = false) (hw : (s.chan ch).vwait = [.edge raw cap])
    (hi : s.vatItems ch (.edge raw cap) = [i]) (hbal : i.words.length ≤ (s.chan ch).balance)
    (hb : (s.blocks[p]).find? (fun (x : Block) => x.ch = ch) = some b) (hlen : itemWords b.items + i.words.length < 4096) (hne : b.items ≠ []) :
    ∃ v : State, (s.setChan ch { s.chan ch with vwait := [], balance := (s.chan ch).balance - i.words.length }).BlockTook p ch b i v ∧
      s.passFront ch = v.modChan ch (s.passEdge ch raw cap) := by
  have hcap : s.captured ch = true := by simp [State.captured, hp]
  have hcost : s.vatCost ch (.edge raw cap) = i.words.length := by
    simp [State.vatCost, hcap, hi, State.beforeArm_noRings hr, itemWords]
  obtain ⟨x, hx⟩ : ∃ x, x = s.setChan ch { s.chan ch with vwait := [], balance := (s.chan ch).balance - i.words.length } := ⟨_, rfl⟩
  have hxU : x.Ungated ch := by rw [hx]; exact h.setQueues _ _ _
  have hxi : x.vatItems ch (.edge raw cap) = [i] := by
    rw [hx]
    exact (State.vatItems_setChan (by exact rfl) (by exact rfl) _).trans hi
  have hxr : ∀ u : Unit16, (x.tu u).rings = [] := by rw [hx]; exact hr
  have htook : x.BlockTook p ch b i (x.writeItem ch i) :=
    State.writeItem_took hxr (by rw [hx]; exact hp) (by rw [hx]; exact hb) hlen hne (State.vatItems_edge_kind hi)
  have hitems : (x.vatItems ch (.edge raw cap)).filter (fun i => !x.beforeArm ch i.time) = [i] := by
    rw [hxi]
    simp [State.beforeArm_noRings hxr]
  have hxcap : x.captured ch = true := by rw [hx]; exact hcap
  obtain ⟨v, hv⟩ : ∃ v, v = x.writeItem ch i := ⟨_, rfl⟩
  rw [← hv] at htook
  have hvU : v.Ungated ch := hxU.of_chans (by rw [htook.stands])
  have hvs : ∀ u : Unit16, v.srcEn u 14 = false := by rw [htook.stands, hx]; exact he
  have hpe : v.passEdge ch raw cap = s.passEdge ch raw cap := by rw [htook.passEdge, hx, State.passEdge_setChan]
  have hdone : (v.modChan ch (s.passEdge ch raw cap)).finishUnits ch = v.modChan ch (s.passEdge ch raw cap) := by
    refine State.finishUnits_none fun u _ => ?_
    have : (v.modChan ch (s.passEdge ch raw cap)).tu u = x.tu u := by rw [htook.stands]; rfl
    rw [this, hxr u]
    rfl
  refine ⟨v, by rw [← hx]; exact htook, ?_⟩
  unfold State.passFront
  simp only [hw, hst, hcost, hfull, Bool.or_false, Bool.false_or]
  rw [if_neg (by simp; omega), ← hx]
  unfold State.passEntry
  simp only [hxcap, if_true, hitems, State.forAll, List.foldl_cons, List.foldl_nil]
  rw [← hv, hvU.readEntry_edge hvs, hpe, (hvU.modChan fun c => State.passEdge_red ..).driveAll_eq, hdone]

/-- A grant that covers the waiting edge of a streamed channel writes it and passes it on; the balance falls to 0 when
nothing waits. -/
theorem State.Ungated.grant_written {k raw : Nat} {cap : Cap} {i : VItem} {p : Fin 32} {b : Block} (h : s.Ungated ch)
    (hw : (s.chan ch).vwait = [.edge raw cap]) (hi : s.vatItems ch (.edge raw cap) = [i])
    (hbal : i.words.length ≤ min 8 ((s.chan ch).balance + k)) (hst : s.stalls ch = false) (hr : ∀ u : Unit16, (s.tu u).rings = [])
    (he : ∀ u : Unit16, s.srcEn u 14 = false) (hp : s.streamOf ch = some p) (hfull : s.blockFull ch = false)
    (hb : (s.blocks[p]).find? (fun (x : Block) => x.ch = ch) = some b) (hlen : itemWords b.items + i.words.length < 4096) (hne : b.items ≠ []) :
    ∃ v : State, (s.setChan ch { s.chan ch with vwait := [], balance := min 8 ((s.chan ch).balance + k) - i.words.length }).BlockTook p ch b i v ∧
      s.grant ch k = v.modChan ch fun c => { s.passEdge ch raw cap c with
        balance := if (s.chan ch).fifo = [] then 0 else min 8 ((s.chan ch).balance + k) - i.words.length } := by
  have hcap : s.captured ch = true := by simp [State.captured, hp]
  have hwaits : s.vatWaits ch = true := by simp [State.vatWaits, hcap, hw]
  obtain ⟨g, hg⟩ : ∃ g, g = s.setChan ch ((s.chan ch).granted k) := ⟨_, rfl⟩
  have hgc : g.chan ch = (s.chan ch).granted k := by rw [hg, State.chan_setChan_same]
  have hgU : g.Ungated ch := by rw [hg]; exact h.setQueues _ _ _
  have hgst : g.stalls ch = false := by rw [hg]; exact (State.stalls_setChan (by exact rfl)).trans hst
  have hgi : g.vatItems ch (.edge raw cap) = [i] := by
    rw [hg]
    exact (State.vatItems_setChan (by exact rfl) (by exact rfl) _).trans hi
  obtain ⟨v, hv, hpass⟩ := hgU.passFront_written hgst (by rw [hg]; exact hr) (by rw [hg]; exact he)
    (by rw [hg]; exact hp) (by rw [hg]; exact hfull) (by rw [hgc]; exact hw) hgi (by rw [hgc]; exact hbal) (by rw [hg]; exact hb) hlen hne
  have hpe : g.passEdge ch raw cap = s.passEdge ch raw cap := by rw [hg, State.passEdge_setChan]
  rw [hgc, hg, State.setChan_setChan] at hv
  rw [hpe] at hpass
  obtain ⟨hfifo, hvwait, hbalance⟩ := s.passEdge_queues ch raw cap (v.chan ch)
  have hvc : v.chan ch = { s.chan ch with vwait := [], balance := min 8 ((s.chan ch).balance + k) - i.words.length } := by
    rw [hv.stands]
    exact State.chan_setChan_same ..
  refine ⟨v, hv, ?_⟩
  obtain ⟨w, hwdef⟩ : ∃ w, w = v.modChan ch (s.passEdge ch raw cap) := ⟨_, rfl⟩
  have hwc : w.chan ch = s.passEdge ch raw cap (v.chan ch) := by rw [hwdef, State.chan_modChan_same]
  have hww : w.vatWaits ch = !(s.chan ch).fifo.isEmpty := by
    have hwcap : w.captured ch = true := by rw [hwdef, hv.stands]; exact hcap
    have hwv : (w.chan ch).vwait = [] := by rw [hwc, hvwait, hvc]
    have hwf : (w.chan ch).fifo = (s.chan ch).fifo := by rw [hwc, hfifo, hvc]
    simp [State.vatWaits, hwcap, hwv, hwf]
  rw [State.grant_eq hwaits, ← hg, State.passTaken_of (k := 1) (by rw [hgc]; exact congrArg List.length hw) hpass, ← hwdef, hww, State.modChan]
  by_cases hf : (s.chan ch).fifo = []
  · rw [if_neg (by simp [hf]), if_pos hf, hwc, hwdef, State.modChan, State.setChan_setChan]
  · have hkeep : min 8 ((s.chan ch).balance + k) - i.words.length = (s.passEdge ch raw cap (v.chan ch)).balance := by rw [hbalance, hvc]
    rw [if_pos (by simpa using hf), if_neg hf, hkeep, hwdef]
    rfl

/-- The words of the block as the item leaves them: its own in order, and those of before. -/
theorem State.BlockTook.vat {p : Fin 32} {b : Block} {i : VItem} {v : State} (h : s.BlockTook p ch b i v) :
    (∀ k, k < i.words.length → v.vatVal (s.blockBase p ch b.seq + 32 + (itemWords b.items + k)) = i.words.getD k 0#32) ∧
    (∀ a, (∀ j < i.words.length, a ≠ s.blockBase p ch b.seq + 32 + (itemWords b.items + j)) → v.vatVal a = s.vatVal a) := by
  refine ⟨fun k hk => ?_, fun a ha => ?_⟩
  · rw [h.words, if_pos (by omega)]
    congr 1
    omega
  · rw [h.words, if_neg]
    rintro ⟨h1, h2⟩
    exact ha (a - (s.blockBase p ch b.seq + 32 + itemWords b.items)) (by omega) (by omega)

/-- VAT_GRANT that covers the waiting edge of a streamed channel. -/
theorem vatGrant_written {k raw : Nat} {cap : Cap} {i : VItem} {p : Fin 32} {b : Block} (h : s.Ungated ch)
    (hw : (s.chan ch).vwait = [.edge raw cap]) (hi : s.vatItems ch (.edge raw cap) = [i])
    (hbal : i.words.length ≤ min 8 ((s.chan ch).balance + k)) (hst : s.stalls ch = false)
    (hu : ∀ u : Unit16, (s.tu u).rings = [] ∧ s.srcEn u 14 = false) (hp : s.streamOf ch = some p) (hfull : s.blockFull ch = false)
    (hb : (s.blocks[p]).find? (fun (x : Block) => x.ch = ch) = some b) (hlen : itemWords b.items + i.words.length < 4096) (hne : b.items ≠ []) :
    ∃ t, exec (.vatGrant ch k) s = .next t ∧ (t.chan ch).vwait = [] ∧
      (t.chan ch).balance = (if (s.chan ch).fifo = [] then 0 else min 8 ((s.chan ch).balance + k) - i.words.length) ∧
      (t.chan ch).lastEdge = some (wholeTk (s.t16 ch raw cap)) ∧
      (t.blocks[p]).find? (fun (x : Block) => x.ch = ch) =
        some { b with items := i :: b.items, spare := b.spare || s.fb (chBase ch) F.CH_STAT_SPARE } ∧
      (∀ k, k < i.words.length → t.vatVal (s.blockBase p ch b.seq + 32 + (itemWords b.items + k)) = i.words.getD k 0#32) ∧
      (∀ a, (∀ j < i.words.length, a ≠ s.blockBase p ch b.seq + 32 + (itemWords b.items + j)) → t.vatVal a = s.vatVal a) ∧
      t.clk = s.clk ∧ t.regs = s.regs ∧ t.lake = s.lake ∧ (∀ m : Ch, m ≠ ch → t.chan m = s.chan m) := by
  obtain ⟨v, hv, e⟩ := h.grant_written hw hi hbal hst (fun u => (hu u).1) (fun u => (hu u).2) hp hfull hb hlen hne
  obtain ⟨-, hvwait, -⟩ := s.passEdge_queues ch raw cap (v.chan ch)
  have hedge := s.passEdge_lastEdge ch raw cap (v.chan ch)
  obtain ⟨hin, hout⟩ := hv.vat
  have hchan (m : Ch) : v.chan m =
      (s.setChan ch { s.chan ch with vwait := [], balance := min 8 ((s.chan ch).balance + k) - i.words.length }).chan m := by
    rw [hv.stands]
    rfl
  have hclk : v.clk = s.clk := by rw [hv.stands]; rfl
  have hregs : v.regs = s.regs := by rw [hv.stands]; rfl
  have hlake : v.lake = s.lake := by rw [hv.stands]; rfl
  refine ⟨_, exec_vatGrant .., ?_⟩
  rw [e, State.chan_modChan_same]
  refine ⟨?_, rfl, hedge, hv.block, hin, hout, hclk, hregs, hlake, fun m hm => ?_⟩
  · exact hvwait.trans (by rw [hchan, State.chan_setChan_same])
  · rw [State.chan_modChan_other _ _ hm.symm, hchan, State.chan_setChan_other _ _ hm.symm]

/-- Settles O25: each clause is the lemma of its command and case above. -/
theorem readersTakeEntriesInOrder : Obligations.ReadersTakeEntriesInOrder := by
  unfold Obligations.ReadersTakeEntriesInOrder
  refine ⟨?_, ?_, ?_, ?_, ?_, ?_, ?_, ?_, ?_, ?_, ?_, ?_⟩
  · exact fun s ch raw cap hf hw hg ho hp hset hc hcap hst hs => reducerHandshake_one ⟨hg, ho, hp, hc⟩ hw hset hcap hst hs raw cap hf
  · exact fun s ch r1 r2 c1 c2 rest hf hw hg ho hp hset hc hcap hst hs =>
      reducerHandshake_two ⟨hg, ho, hp, hc⟩ hw hset hcap hst hs r1 r2 c1 c2 rest hf
  · exact fun s ch e1 e2 rest hf hw hg ho hp hset hc hst hb _ _ => reducerHandshake_uncovered ⟨hg, ho, hp, hc⟩ hf hw hset hst hb
  · exact fun s ch e rest hw ht hb hg ho hp hset hc => reducerHandshake_full ⟨hg, ho, hp, hc⟩ hw ht hb hset
  · exact fun s ch hst hg ho hp hset hc => reducerHandshake_stalled ⟨hg, ho, hp, hc⟩ hst hset
  · exact fun s ch k h => vatGrant_idle h k
  · exact fun s ch k h hw => vatGrant_unread h hw k
  · exact fun s ch k e rest h hw hb => vatGrant_uncovered h hw hb
  · exact fun s ch k raw cap i p b hw hi hbal hst hu hp hfull hg ho hpq hc hb hlen hne =>
      vatGrant_written ⟨hg, ho, hpq, hc⟩ hw hi hbal hst hu hp hfull hb hlen hne
  · exact fun s ch hf hb hr hw => watermark_direct hf hb hr hw
  · exact fun s ch hf hb hr hw => watermark_behind hf hb hr hw
  · exact fun s ch h => watermark_none h

end Sys2Proof.Machine
end

section
/-!
PROOFS. A trigger unit's operations (R152-R157): what each may change, the settings in force that it leaves, and the
STATE and FULL that it shows.
-/

namespace Sys2Proof.Machine

variable {s t r : State} {u v : Unit16} {l : List Nat}

/-! ### Units -/

theorem State.tu_setTu_other (s : State) (x : UnitSt) (h : v ≠ u) : (s.setTu u x).tu v = s.tu v := by
  simp only [State.tu, State.setTu, Fin.getElem_fin]
  rw [Vector.getElem_set_ne _ _ (fun e => h (Fin.ext e).symm)]

@[simp] theorem State.tu_setF (s : State) (b : Nat) (f : Fld) (n : Nat) (v : Unit16) : (s.setF b f n).tu v = s.tu v := by
  unfold State.tu
  rw [State.setF_units]

/-- Only the clock moves to a later instant. -/
theorem State.reach_stands (s : State) (n : Nat) : s.reach n = { s with clk := (s.reach n).clk } := by
  unfold State.reach
  split <;> rfl

/-- A relation that composes, and that every member's operation keeps to, holds of their sequence. -/
theorem State.forAll_rel {α : Type} {rel : State → State → Prop} (hr : ∀ s, rel s s) (ht : ∀ {a b c}, rel a b → rel b c → rel a c)
    {l : List α} {g : α → State → State} (hg : ∀ a ∈ l, ∀ s, rel s (g a s)) (s : State) : rel s (s.forAll l g) := by
  unfold State.forAll
  induction l generalizing s with
  | nil => exact hr s
  | cons a l ih => exact ht (hg a (by simp) s) (ih (fun b hb => hg b (by simp [hb])) (g a s))

/-! ### The settings in force -/

/-- Addresses of what a unit's record geometry depends on: the values in force and the partitions' words. -/
def Setup (a : Nat) : Prop := forceBase ≤ a ∨ (R.TRG_VP ≤ a ∧ a < R.TRG_VP + 128)

def State.SameSetup (s t : State) : Prop := ∀ a, Setup a → t.w a = s.w a

section SameSetup
variable (h : s.SameSetup t)

include h in
theorem State.SameSetup.forced (a : Nat) : t.w (forceBase + a) = s.w (forceBase + a) := h _ (.inl (Nat.le_add_right _ _))

include h in
theorem State.SameSetup.tuA (u : Nat) (f : Fld) : t.tuA u f = s.tuA u f := by
  unfold State.tuA State.f
  rw [Nat.add_assoc, h.forced]

include h in
theorem State.SameSetup.partition (u : Nat) :
    t.w (R.TRG_VP + 4 * s.tuA u F.TRG_TU_CFG_PART) = s.w (R.TRG_VP + 4 * s.tuA u F.TRG_TU_CFG_PART) := by
  have hlt : s.tuA u F.TRG_TU_CFG_PART < 2 ^ 5 := Fld.of_lt _ _
  exact h _ (.inr (by omega))

include h in
theorem State.SameSetup.ringWords (u : Nat) : t.ringWords u = s.ringWords u := by
  unfold State.ringWords
  rw [h.tuA, h.tuA]

include h in
theorem State.SameSetup.tuChs (u : Nat) : t.tuChs u = s.tuChs u := by
  unfold State.tuChs
  simp only [Nat.add_assoc, h.forced]

include h in
theorem State.SameSetup.nseg (u : Nat) : t.nseg u = s.nseg u := by
  unfold State.nseg
  rw [h.tuChs, h.ringWords, h.tuA, h.partition]

include h in
/-- With the same records the same channels lack a segment. -/
theorem State.SameSetup.lacksSeg (hrec : (t.tu u).records = (s.tu u).records) : t.lacksSeg u = s.lacksSeg u := by
  unfold State.lacksSeg UnitSt.freeSeg
  rw [h.tuChs, h.nseg, hrec]

end SameSetup

theorem State.SameSetup.trans (h : s.SameSetup t) (g : t.SameSetup r) : s.SameSetup r := fun a ha => (g a ha).trans (h a ha)

/-- A unit's own registers are no settings in force. -/
theorem not_setup_tu (u : Unit16) {o : Nat} (h : o < 0x80) : ¬ Setup (tuBase u + o) := by
  have := u.isLt
  unfold Setup tuBase forceBase R.TRG_VP
  omega

/-! ### What an operation of one unit may change -/

/-- One unit and registers at the listed addresses may differ, and nothing else. -/
structure State.OnlyUnit (u : Unit16) (l : List Nat) (s t : State) : Prop where
  stands : t = { s with regs := t.regs, units := t.units }
  others : ∀ v : Unit16, v ≠ u → t.tu v = s.tu v
  words : ∀ a, a ∉ l → t.w a = s.w a

namespace State.OnlyUnit

theorem refl (u : Unit16) (l : List Nat) (s : State) : s.OnlyUnit u l s := ⟨rfl, fun _ _ => rfl, fun _ _ => rfl⟩

theorem trans (h : OnlyUnit u l s t) (g : OnlyUnit u l t r) : OnlyUnit u l s r :=
  ⟨by rw [g.stands, h.stands], fun v hv => (g.others v hv).trans (h.others v hv), fun a ha => (g.words a ha).trans (h.words a ha)⟩

theorem mono {l' : List Nat} (h : OnlyUnit u l s t) (hl : l ⊆ l') : OnlyUnit u l' s t :=
  ⟨h.stands, h.others, fun a ha => h.words a fun hm => ha (hl hm)⟩

theorem ofRegs (u : Unit16) (h : s.OnlyRegs t l) : OnlyUnit u l s t := by
  refine ⟨?_, fun v _ => ?_, h.2⟩
  · rw [h.1]
  · rw [h.1]; rfl

theorem setW (h : OnlyUnit u l s t) {a : Nat} (w : Word) (ha : a ∈ l) : OnlyUnit u l s (t.setW a w) :=
  h.trans (ofRegs u ((State.OnlyRegs.refl t l).setW w ha))

theorem setF (h : OnlyUnit u l s t) {b : Nat} {f : Fld} (n : Nat) (ha : b + f.addr ∈ l) : OnlyUnit u l s (t.setF b f n) := h.setW _ ha

theorem setTu (h : OnlyUnit u l s t) (x : UnitSt) : OnlyUnit u l s (t.setTu u x) :=
  h.trans ⟨rfl, fun _ hv => t.tu_setTu_other x hv, fun _ _ => rfl⟩

theorem modTu (h : OnlyUnit u l s t) (g : UnitSt → UnitSt) : OnlyUnit u l s (t.modTu u g) := h.setTu _

theorem sameSetup (h : OnlyUnit u l s t) (hl : ∀ a ∈ l, ¬ Setup a) : s.SameSetup t := fun a ha => h.words a fun hm => hl a hm ha

/-- At an instant of a command that the host wrote. -/
theorem stands_at {n : Nat} (h : OnlyUnit u l (s.reach n) t) : t = { s with regs := t.regs, units := t.units, clk := (s.reach n).clk } := by
  rw [h.stands]
  exact congrArg (fun x : State => { x with regs := t.regs, units := t.units }) (s.reach_stands n)

theorem memory (h : OnlyUnit u l s t) : s.SameMemory t := by
  rw [h.stands]
  exact ⟨fun _ => rfl, fun _ => rfl, rfl, fun _ => rfl, fun _ => rfl⟩

end State.OnlyUnit

/-- The registers that the operations below write in their unit's own block. -/
def tuWords (u : Unit16) : List Nat := [tuBase u + R.TRG_TU_STAT, tuBase u + R.TRG_TU_NEXT, tuBase u + R.TRG_TU_LOSTC]

theorem not_setup_of_mem_tuWords {a : Nat} (h : a ∈ tuWords u) : ¬ Setup a := by
  simp only [tuWords, List.mem_cons, List.not_mem_nil, or_false] at h
  rcases h with rfl | rfl | rfl <;> exact not_setup_tu u (by decide)

theorem State.setNext_onlyUnit (s : State) (u : Unit16) : s.OnlyUnit u [tuBase u + R.TRG_TU_NEXT] (s.setNext u) := by
  unfold State.setNext
  split <;> exact (State.OnlyUnit.refl u _ s).setW _ (by simp)

@[simp] theorem State.tu_setNext (s : State) (u v : Unit16) : (s.setNext u).tu v = s.tu v := by
  unfold State.setNext State.tu
  split <;> rw [State.setW_units]

/-! ### STATE and FULL -/

theorem State.waitFull_onlyUnit (s : State) (u : Unit16) : s.OnlyUnit u [tuBase u + R.TRG_TU_STAT] (s.waitFull u) :=
  ((State.OnlyUnit.refl u _ s).setF _ (by simp)).setF _ (by simp)

@[simp] theorem State.tu_waitFull (s : State) (u v : Unit16) : (s.waitFull u).tu v = s.tu v := by
  rw [State.waitFull, State.tu_setF, State.tu_setF]

theorem State.enterIdle_onlyUnit (s : State) (u : Unit16) : s.OnlyUnit u [tuBase u + R.TRG_TU_STAT] (s.enterIdle u) :=
  (((State.OnlyUnit.refl u _ s).modTu _).setF _ (by simp)).setF _ (by simp)

@[simp] theorem State.tu_enterIdle (s : State) (u : Unit16) :
    (s.enterIdle u).tu u = { s.tu u with rings := [], event := none, ghost := none, ending := false } := by
  rw [State.enterIdle, State.tu_setF, State.tu_setF, State.tu_modTu_same]

/-- STATE and FULL put together read back. -/
theorem State.tuState_shown (s : State) (u : Unit16) {k full : Nat} (hk : k < 4) (hf : full < 2) :
    ((s.setF (tuBase u) F.TRG_TU_STAT_STATE k).setF (tuBase u) F.TRG_TU_STAT_FULL full).tuState u = k ∧
      ((s.setF (tuBase u) F.TRG_TU_STAT_STATE k).setF (tuBase u) F.TRG_TU_STAT_FULL full).f (tuBase u) F.TRG_TU_STAT_FULL = full := by
  unfold State.tuState
  rw [State.f_setF _ _ _ _ (by decide), State.f_setF_apart _ _ (by decide) (by decide) (by decide) (by decide), State.f_setF _ _ _ _ (by decide)]
  exact ⟨Nat.mod_eq_of_lt hk, Nat.mod_eq_of_lt hf⟩

theorem State.waitFull_shows (s : State) (u : Unit16) :
    (s.waitFull u).tuState u = tuRearm ∧ (s.waitFull u).fb (tuBase u) F.TRG_TU_STAT_FULL = true := by
  obtain ⟨hst, hfull⟩ := s.tuState_shown u (k := tuRearm) (full := 1) (by decide) (by decide)
  exact ⟨hst, decide_eq_true hfull⟩

/-- IDLE with FULL cleared. -/
theorem State.idle_shown (s : State) (u : Unit16) :
    ((s.setF (tuBase u) F.TRG_TU_STAT_STATE tuIdle).setF (tuBase u) F.TRG_TU_STAT_FULL 0).tuState u = tuIdle ∧
      ((s.setF (tuBase u) F.TRG_TU_STAT_STATE tuIdle).setF (tuBase u) F.TRG_TU_STAT_FULL 0).fb (tuBase u) F.TRG_TU_STAT_FULL = false := by
  obtain ⟨hst, hfull⟩ := s.tuState_shown u (k := tuIdle) (full := 0) (by decide) (by decide)
  exact ⟨hst, decide_eq_false fun h => absurd (hfull.symm.trans h) (by decide)⟩

theorem State.enterIdle_shows (s : State) (u : Unit16) :
    (s.enterIdle u).tuState u = tuIdle ∧ (s.enterIdle u).fb (tuBase u) F.TRG_TU_STAT_FULL = false := State.idle_shown _ u

/-- CFG_REJ leaves STATE. -/
theorem State.raise_cfgRej (s : State) (u : Unit16) :
    (s.raise (tuBase u) F.TRG_TU_STAT_CFG_REJ).tuState u = s.tuState u ∧
      (s.raise (tuBase u) F.TRG_TU_STAT_CFG_REJ).fb (tuBase u) F.TRG_TU_STAT_CFG_REJ = true := by
  refine ⟨State.f_setF_apart _ _ (by decide) (by decide) (by decide) (by decide), decide_eq_true ?_⟩
  rw [State.raise, State.f_setF _ _ _ _ (by decide)]
  decide

/-! ### TRG_TU_CMD -/

/-- A write of TRG_TU_CMD is the unit's command. -/
theorem State.writeOwn_tuCmd {o : Loc} {n : Nat} (s : State) (p : Path) (h : o = ⟨.tu, n, R.TRG_TU_CMD⟩) (a : Nat) (row : RegRow) (m w : Word) :
    s.writeOwn p o a row m w = s.tuCmd (unitOf n) w := by
  rw [h, State.writeOwn]
  dsimp only
  rw [State.writeTu, if_pos (by decide)]

/-- The host's write of one command bit of a unit. -/
theorem State.wrCmd_tu (hs : s.Serves) (u : Unit16) (f : Fld) :
    s.wrCmd (tuBase u + R.TRG_TU_CMD) f = (s.tuCmd u (f.into 0#32 1)).modPath .host fun x => { x with resp := 0 } := by
  obtain ⟨row, hr, hg, hrw, -⟩ := row_TRG_TU_CMD
  have hl : locate (tuBase u + R.TRG_TU_CMD) = ⟨.tu, u, R.TRG_TU_CMD⟩ := locate_tu u.isLt (by decide)
  have hu := u.isLt
  have h4 : (tuBase u + R.TRG_TU_CMD) % 4 = 0 := by unfold tuBase R.TRG_TU_CMD; omega
  have hne {c : Nat} (hc : (locate c).space ≠ .tu) : tuBase u + R.TRG_TU_CMD ≠ c := by
    rintro rfl
    exact hc (by rw [hl])
  have hunit : unitOf u = u := Fin.ext (Nat.mod_eq_of_lt hu)
  rw [State.wrCmd_unguarded hs h4 (hne (by decide)) (hne (by decide)) (hne (by decide)) (by rw [hl]; exact ⟨nofun, nofun, nofun⟩)
    ((rowAt_tu hu (by decide)).trans hr) hg hrw, State.writeOwn_tuCmd _ _ hl, hunit]

/-- The bits of TRG_TU_CMD in a word with ARM or DISARM alone. -/
theorem tuCmd_bits : (∀ f ∈ [F.TRG_TU_CMD_DISARM, F.TRG_TU_CMD_FORCE, F.TRG_TU_CMD_REL, F.TRG_TU_CMD_RD], f.of (F.TRG_TU_CMD_ARM.into 0#32 1) = 0) ∧
    (∀ f ∈ [F.TRG_TU_CMD_ARM, F.TRG_TU_CMD_FORCE, F.TRG_TU_CMD_REL, F.TRG_TU_CMD_RD], f.of (F.TRG_TU_CMD_DISARM.into 0#32 1) = 0) ∧
    F.TRG_TU_CMD_ARM.of (F.TRG_TU_CMD_ARM.into 0#32 1) = 1 ∧ F.TRG_TU_CMD_DISARM.of (F.TRG_TU_CMD_DISARM.into 0#32 1) = 1 := by
  decide

/-- A word of TRG_TU_CMD that orders nothing but ARM and DISARM. -/
theorem State.tuCmd_arming {w : Word} (hf : F.TRG_TU_CMD_FORCE.of w = 0) (hrel : F.TRG_TU_CMD_REL.of w = 0) (hrd : F.TRG_TU_CMD_RD.of w = 0)
    (ho : F.TRG_TU_CMD_ARM.of w = 1 ∨ F.TRG_TU_CMD_DISARM.of w = 1) (s : State) (u : Unit16) :
    s.tuCmd u w = if s.tuState u = tuIdle then (if F.TRG_TU_CMD_ARM.of w = 1 then (s.reach s.mclkNext).arm u else s.reach s.mclkNext)
      else if F.TRG_TU_CMD_DISARM.of w = 1 then (s.reach s.mclkNext).disarm u else s.reach s.mclkNext := by
  have hreach : (decide (F.TRG_TU_CMD_ARM.of w = 1) || decide (F.TRG_TU_CMD_DISARM.of w = 1) || decide (F.TRG_TU_CMD_FORCE.of w = 1)) = true := by
    rcases ho with h | h <;> simp [h]
  unfold State.tuCmd
  dsimp only
  rw [if_pos hreach]
  simp only [hf, hrel, hrd, Nat.zero_ne_one, decide_false, Bool.false_and, Bool.false_eq_true, if_false, decide_eq_true_eq]
  cases (s.tu u).oldest <;> rfl

/-- ARM alone, at the next MCLK cycle (R94). -/
theorem State.tuCmd_arm (s : State) (u : Unit16) :
    s.tuCmd u (F.TRG_TU_CMD_ARM.into 0#32 1) = if s.tuState u = tuIdle then (s.reach s.mclkNext).arm u else s.reach s.mclkNext := by
  obtain ⟨h, -, hon, -⟩ := tuCmd_bits
  rw [State.tuCmd_arming (h _ (by simp)) (h _ (by simp)) (h _ (by simp)) (.inl hon), if_pos hon, h F.TRG_TU_CMD_DISARM (by simp), if_neg Nat.zero_ne_one]

/-- DISARM alone. -/
theorem State.tuCmd_disarm (s : State) (u : Unit16) :
    s.tuCmd u (F.TRG_TU_CMD_DISARM.into 0#32 1) = if s.tuState u = tuIdle then s.reach s.mclkNext else (s.reach s.mclkNext).disarm u := by
  obtain ⟨-, h, -, hon⟩ := tuCmd_bits
  rw [State.tuCmd_arming (h _ (by simp)) (h _ (by simp)) (h _ (by simp)) (.inr hon), if_pos hon, h F.TRG_TU_CMD_ARM (by simp), if_neg Nat.zero_ne_one]

theorem exec_arm (hs : s.Serves) (u : Unit16) :
    exec (.arm u) s = .next ((if s.tuState u = tuIdle then (s.reach s.mclkNext).arm u else s.reach s.mclkNext).modPath .host
      fun x => { x with resp := 0 }) := by
  rw [← State.tuCmd_arm, ← State.wrCmd_tu hs]
  rfl

theorem exec_disarm (hs : s.Serves) (u : Unit16) :
    exec (.disarm u) s = .next ((if s.tuState u = tuIdle then s.reach s.mclkNext else (s.reach s.mclkNext).disarm u).modPath .host
      fun x => { x with resp := 0 }) := by
  rw [← State.tuCmd_disarm, ← State.wrCmd_tu hs]
  rfl

end Sys2Proof.Machine
end

section
/-!
PROOFS. Records close by STOP and by time, and units leave POST and REARM (R155-R157).
-/

namespace Sys2Proof.Machine

variable {s t : State} {u v : Unit16}

theorem State.tu_modPath (s : State) (p : Path) (g : PathSt → PathSt) (v : Unit16) : (s.modPath p g).tu v = s.tu v := rfl

theorem State.tuState_modPath (s : State) (p : Path) (g : PathSt → PathSt) (u : Nat) : (s.modPath p g).tuState u = s.tuState u := rfl

theorem State.fb_modPath (s : State) (p : Path) (g : PathSt → PathSt) (b : Nat) (f : Fld) : (s.modPath p g).fb b f = s.fb b f := rfl

/-- The clock and the path's answer of a command that the host wrote. -/
theorem State.reach_modPath (s : State) (n : Nat) (p : Path) (g : PathSt → PathSt) :
    (s.reach n).modPath p g = { s with clk := (s.reach n).clk, paths := ((s.reach n).modPath p g).paths } := by
  rw [s.reach_stands n]
  rfl

/-- ARM of a unit that is not IDLE. -/
theorem arm_elsewhere (hs : s.Serves) (h : s.tuState u ≠ tuIdle) :
    ∃ t, exec (.arm u) s = .next t ∧ t = { s with clk := (s.reach s.mclkNext).clk, paths := t.paths } := by
  refine ⟨_, exec_arm hs u, ?_⟩
  rw [if_neg h]
  exact s.reach_modPath _ _ _

/-- DISARM of an IDLE unit. -/
theorem disarm_idle (hs : s.Serves) (h : s.tuState u = tuIdle) :
    ∃ t, exec (.disarm u) s = .next t ∧ t = { s with clk := (s.reach s.mclkNext).clk, paths := t.paths } := by
  refine ⟨_, exec_disarm hs u, ?_⟩
  rw [if_pos h]
  exact s.reach_modPath _ _ _

/-- What an operation of a unit comes to, with the path's answer, at the command's instant. -/
theorem State.OnlyUnit.answered {l : List Nat} {n : Nat} (h : State.OnlyUnit u l (s.reach n) t) (p : Path) (g : PathSt → PathSt) :
    (∀ v : Unit16, v ≠ u → (t.modPath p g).tu v = s.tu v) ∧ (∀ a, a ∉ l → (t.modPath p g).w a = s.w a) ∧
      t.modPath p g = { s with regs := t.regs, units := t.units, clk := (s.reach n).clk, paths := (t.modPath p g).paths } := by
  refine ⟨fun v hv => (h.others v hv).trans (s.tu_reach n v), fun a ha => (h.words a ha).trans (s.w_reach n a), ?_⟩
  rw [h.stands_at]
  rfl

/-- DISARM of an ARMED unit, whose rings stay. -/
def State.leaveArmed (u : Unit16) (s : State) : State :=
  ((s.modTu u fun x => { x with ghost := some s.now }).setF (tuBase u) F.TRG_TU_STAT_STATE tuIdle).setF (tuBase u) F.TRG_TU_STAT_FULL 0

theorem State.leaveArmed_onlyUnit (s : State) (u : Unit16) : s.OnlyUnit u [tuBase u + R.TRG_TU_STAT] (s.leaveArmed u) :=
  (((State.OnlyUnit.refl u _ s).modTu _).setF _ (by simp)).setF _ (by simp)

theorem State.tuState_reach (s : State) (n : Nat) (u : Unit16) : (s.reach n).tuState u = s.tuState u := State.f_reach ..

theorem State.disarm_armed (h : s.tuState u = tuArmed) : s.disarm u = s.leaveArmed u := by
  unfold State.disarm
  dsimp only
  rw [if_neg (by rw [h]; decide), if_pos h]
  rfl

theorem State.disarm_rearm (h : s.tuState u = tuRearm) : s.disarm u = s.enterIdle u := by
  unfold State.disarm
  dsimp only
  rw [if_neg (by rw [h]; decide), if_neg (by rw [h]; decide), if_neg (by rw [h]; decide)]

theorem State.disarm_post (h : s.tuState u = tuPost) :
    s.disarm u = ((s.modTu u fun x => { x with ending := true }).closeUnit u .stop s.now).endUnit u := by
  unfold State.disarm
  dsimp only
  rw [if_neg (by rw [h]; decide), if_neg (by rw [h]; decide), if_pos h]

/-- DISARM of an ARMED unit. -/
theorem disarm_armed (hs : s.Serves) (h : s.tuState u = tuArmed) :
    ∃ t, exec (.disarm u) s = .next t ∧ t.tuState u = tuIdle ∧ t.fb (tuBase u) F.TRG_TU_STAT_FULL = false ∧
      t.tu u = { s.tu u with ghost := some (s.reach s.mclkNext).now } ∧ (∀ v : Unit16, v ≠ u → t.tu v = s.tu v) ∧
      (∀ a, a ≠ tuBase u + R.TRG_TU_STAT → t.w a = s.w a) ∧
      t = { s with regs := t.regs, units := t.units, clk := (s.reach s.mclkNext).clk, paths := t.paths } := by
  refine ⟨_, exec_disarm hs u, ?_⟩
  rw [if_neg (by rw [h]; decide), State.disarm_armed ((s.tuState_reach _ u).trans h)]
  obtain ⟨hothers, hwords, hstands⟩ := ((s.reach s.mclkNext).leaveArmed_onlyUnit u).answered .host fun x => { x with resp := 0 }
  obtain ⟨hst, hfull⟩ := State.idle_shown ((s.reach s.mclkNext).modTu u fun x => { x with ghost := some (s.reach s.mclkNext).now }) u
  rw [State.tuState_modPath, State.fb_modPath]
  refine ⟨hst, hfull, ?_, hothers, fun a ha => hwords a (by simpa using ha), hstands⟩
  rw [State.tu_modPath, State.leaveArmed, State.tu_setF, State.tu_setF, State.tu_modTu_same, State.tu_reach]

/-- DISARM of a unit in REARM. -/
theorem disarm_rearm (hs : s.Serves) (h : s.tuState u = tuRearm) :
    ∃ t, exec (.disarm u) s = .next t ∧ t.tuState u = tuIdle ∧ t.fb (tuBase u) F.TRG_TU_STAT_FULL = false ∧
      (t.tu u).rings = [] ∧ (t.tu u).event = none ∧ (t.tu u).records = (s.tu u).records ∧ (∀ v : Unit16, v ≠ u → t.tu v = s.tu v) ∧
      (∀ a, a ≠ tuBase u + R.TRG_TU_STAT → t.w a = s.w a) ∧
      t = { s with regs := t.regs, units := t.units, clk := (s.reach s.mclkNext).clk, paths := t.paths } := by
  refine ⟨_, exec_disarm hs u, ?_⟩
  rw [if_neg (by rw [h]; decide), State.disarm_rearm ((s.tuState_reach _ u).trans h)]
  obtain ⟨hothers, hwords, hstands⟩ := ((s.reach s.mclkNext).enterIdle_onlyUnit u).answered .host fun x => { x with resp := 0 }
  obtain ⟨hst, hfull⟩ := (s.reach s.mclkNext).enterIdle_shows u
  have hu := (s.reach s.mclkNext).tu_enterIdle u
  rw [State.tuState_modPath, State.fb_modPath]
  refine ⟨hst, hfull, ?_, ?_, ?_, hothers, fun a ha => hwords a (by simpa using ha), hstands⟩
  · rw [State.tu_modPath, hu]
  · rw [State.tu_modPath, hu]
  · rw [State.tu_modPath, hu, State.tu_reach]

end Sys2Proof.Machine
end

section
/-!
PROOFS. A unit in POST: its records close (R155), and once nothing earlier is on its way to them the unit enters REARM (R8).
-/

namespace Sys2Proof.Machine

variable {s t r : State} {u v : Unit16} {l : List Nat}

/-! ### What the close of an event may change -/

/-- One unit, registers at the listed addresses and the trigger pins' pulses may differ, and nothing else. -/
structure State.OnlyClose (u : Unit16) (l : List Nat) (s t : State) : Prop where
  stands : t = { s with regs := t.regs, units := t.units, outPulse := t.outPulse }
  others : ∀ v : Unit16, v ≠ u → t.tu v = s.tu v
  words : ∀ a, a ∉ l → t.w a = s.w a

namespace State.OnlyClose

theorem trans (h : OnlyClose u l s t) (g : OnlyClose u l t r) : OnlyClose u l s r :=
  ⟨by rw [g.stands, h.stands], fun v hv => (g.others v hv).trans (h.others v hv), fun a ha => (g.words a ha).trans (h.words a ha)⟩

theorem ofUnit (h : s.OnlyUnit u l t) : OnlyClose u l s t := by
  refine ⟨?_, h.others, h.words⟩
  rw [h.stands]

theorem stands_at {n : Nat} (h : OnlyClose u l (s.reach n) t) :
    t = { s with regs := t.regs, units := t.units, clk := (s.reach n).clk, outPulse := t.outPulse } := by
  rw [h.stands]
  exact congrArg (fun x : State => { x with regs := t.regs, units := t.units, outPulse := t.outPulse }) (s.reach_stands n)

end State.OnlyClose

theorem State.pulseOut_stands (s : State) (u func start : Nat) : s.pulseOut u func start = { s with outPulse := (s.pulseOut u func start).outPulse } := by
  unfold State.pulseOut
  refine State.forAll_rel (rel := fun a b => b = { a with outPulse := b.outPulse }) (fun _ => rfl) (fun {a b c} h g => ?_) (fun k _ s => ?_) s
  · rw [g, h]
  · dsimp only
    split <;> rfl

/-! ### Records that close -/

/-- The records of an event as they stand once the open ones have closed. -/
def closeRings (cause : CloseCause) (n : Nat) (rs : List Ring) : List Ring :=
  rs.map fun (r : Ring) => if r.closed.isNone then { r with closed := some (cause, n) } else r

/-- What the unit is once its open records have closed. -/
def State.closing (u : Unit16) (cause : CloseCause) (n : Nat) (s : State) : State :=
  s.modTu u fun x => { x with rings := closeRings cause n x.rings }

theorem State.closeUnit_post (h : s.tuState u = tuPost) (cause : CloseCause) (n : Nat) :
    s.closeUnit u cause n = (s.closing u cause n).checkClosed u := by
  unfold State.closeUnit
  rw [if_pos h]
  rfl

/-- Whether entries are on their way to a channel's reducer is no matter of the units. -/
theorem State.pendingBefore_setTu (s : State) (x : UnitSt) (n : Ch) (k : Nat) : (s.setTu u x).pendingBefore n k = s.pendingBefore n k := rfl

theorem State.pendingBefore_reach (s : State) (m : Nat) (n : Ch) (k : Nat) : (s.reach m).pendingBefore n k = s.pendingBefore n k := by
  rw [s.reach_stands m]
  rfl

/-- Records that were all open settle where nothing earlier is on its way. -/
theorem State.unitSettled_closing {cause : CloseCause} (hc : cause = .postTime ∨ cause = .stop) (n : Nat)
    (h : ∀ r ∈ (s.tu u).rings, r.closed = none ∧ s.pendingBefore r.ch n = false) : (s.closing u cause n).unitSettled u = true := by
  unfold State.unitSettled
  rw [State.closing, State.tu_modTu_same]
  simp only [closeRings, List.all_map, List.all_eq_true, Function.comp_apply]
  intro r hr
  obtain ⟨hnone, hpend⟩ := h r hr
  rw [if_pos (by simp [hnone])]
  rcases hc with rfl | rfl <;> exact congrArg (!·) ((s.pendingBefore_setTu _ r.ch n).trans hpend)

/-! ### The unit's close -/

/-- The unit's own part and STATE once its event has closed. -/
def State.closed (u : Unit16) (s : State) : State :=
  ((s.modTu u fun x => { x with closeAt := x.lastClose, hdrDone := false }).setF (tuBase u) F.TRG_TU_STAT_STATE tuRearm).pulseOut u.val 2
    ((s.tu u).lastClose + 4096)

/-- A record that closed at the time limit ends its channel's run of overflows (R89). -/
def State.endRun (r : Ring) (s : State) : State :=
  match r.closed with
  | some (.postTime, _) => s.ovfRun r.ch false 1
  | _ => s

theorem State.checkClosed_waits (h : s.tuState u ≠ tuPost ∨ s.unitSettled u = false) : s.checkClosed u = s := by
  unfold State.checkClosed
  dsimp only
  rw [if_neg]
  rcases h with h | h <;> simp [h]

theorem State.checkClosed_closes (h : s.tuState u = tuPost) (hset : s.unitSettled u = true) :
    s.checkClosed u = (s.closed u).forAll (s.tu u).rings State.endRun := by
  unfold State.checkClosed
  dsimp only
  rw [if_pos (by simp [h, hset])]
  rfl

theorem State.endRun_cases (s : State) (r : Ring) : s.endRun r = s ∨ s.endRun r = s.setF (chBase r.ch) F.CH_STAT_OVF_RUN 0 := by
  unfold State.endRun
  split
  · exact .inr rfl
  · exact .inl rfl

/-- The CH_STAT words of the channels of a unit's records. -/
def runWords (rs : List Ring) : List Nat := rs.map fun r => chBase r.ch + R.CH_STAT

theorem State.endRuns_onlyRegs (s : State) (rs : List Ring) : s.OnlyRegs (s.forAll rs State.endRun) (runWords rs) := by
  refine State.forAll_rel (rel := fun a b => a.OnlyRegs b (runWords rs)) (fun x => .refl x _) (fun h g => h.trans g) (fun r hr x => ?_) s
  rcases x.endRun_cases r with e | e
  · rw [e]
    exact .refl x _
  · rw [e]
    exact (State.OnlyRegs.refl x _).setF 0 (List.mem_map_of_mem hr)

theorem chBase_inj {n m : Nat} (h : chBase n + R.CH_STAT = chBase m + R.CH_STAT) : n = m := by
  unfold chBase at h
  omega

/-- The run of every channel whose record closed at the time limit is 0. -/
theorem State.endRuns_zero (rs : List Ring) (hc : ∀ r ∈ rs, ∃ k, r.closed = some (.postTime, k)) (n : Ch) (s : State)
    (h : s.f (chBase n) F.CH_STAT_OVF_RUN = 0 ∨ ∃ r ∈ rs, r.ch = n) : (s.forAll rs State.endRun).f (chBase n) F.CH_STAT_OVF_RUN = 0 := by
  induction rs generalizing s with
  | nil =>
    rcases h with h | ⟨x, hx, -⟩
    · exact h
    · cases hx
  | cons r rs ih =>
    refine ih (fun x hx => hc x (by simp [hx])) (s.endRun r) ?_
    obtain ⟨k, hk⟩ := hc r (by simp)
    have e : s.endRun r = s.setF (chBase r.ch) F.CH_STAT_OVF_RUN 0 := by
      unfold State.endRun
      rw [hk]
      rfl
    by_cases hn : r.ch = n
    · left
      rw [e, hn, State.f_setF _ _ _ _ (by decide)]
      rfl
    · rcases h with h | ⟨x, hx, hxn⟩
      · left
        rw [e, State.f_setF_other _ _ fun he => hn (Fin.ext (chBase_inj he)), h]
      · rcases List.mem_cons.1 hx with rfl | hx
        · exact absurd hxn hn
        · exact .inr ⟨x, hx, hxn⟩

/-- A unit's STAT is no CH_STAT. -/
theorem stat_not_mem_runWords (u : Unit16) (rs : List Ring) : tuBase u + R.TRG_TU_STAT ∉ runWords rs := by
  unfold runWords
  rw [List.mem_map]
  rintro ⟨r, -, h⟩
  have := u.isLt
  unfold chBase tuBase R.CH_STAT R.TRG_TU_STAT at h
  omega

theorem State.closed_onlyClose (s : State) (u : Unit16) : s.OnlyClose u [tuBase u + R.TRG_TU_STAT] (s.closed u) := by
  obtain ⟨x, hx⟩ : ∃ x, x = (s.modTu u fun x => { x with closeAt := x.lastClose, hdrDone := false }).setF (tuBase u) F.TRG_TU_STAT_STATE tuRearm :=
    ⟨_, rfl⟩
  have hunit : s.OnlyUnit u [tuBase u + R.TRG_TU_STAT] x := by
    rw [hx]
    exact ((State.OnlyUnit.refl u _ s).modTu _).setF _ (by simp)
  refine (State.OnlyClose.ofUnit hunit).trans ?_
  rw [State.closed, ← hx, x.pulseOut_stands]
  exact ⟨rfl, fun _ _ => rfl, fun _ _ => rfl⟩

theorem State.tu_pulseOut (s : State) (n func start : Nat) (v : Unit16) : (s.pulseOut n func start).tu v = s.tu v := by
  rw [s.pulseOut_stands]
  rfl

theorem State.f_pulseOut (s : State) (n func start b : Nat) (f : Fld) : (s.pulseOut n func start).f b f = s.f b f := by
  rw [s.pulseOut_stands]
  rfl

theorem State.tu_closed (s : State) (u : Unit16) : (s.closed u).tu u = { s.tu u with closeAt := (s.tu u).lastClose, hdrDone := false } := by
  rw [State.closed, State.tu_pulseOut, State.tu_setF, State.tu_modTu_same]

theorem State.tuState_closed (s : State) (u : Unit16) : (s.closed u).tuState u = tuRearm := by
  rw [State.tuState, State.closed, State.f_pulseOut, State.f_setF _ _ _ _ (by decide)]
  rfl

/-- What the close of a unit's event comes to. -/
structure State.Closed (u : Unit16) (s t : State) : Prop where
  frame : s.OnlyClose u ((tuBase u + R.TRG_TU_STAT) :: runWords (s.tu u).rings) t
  state : t.tuState u = tuRearm
  unit : t.tu u = { s.tu u with closeAt := (s.tu u).lastClose, hdrDone := false }

theorem State.checkClosed_closed (h : s.tuState u = tuPost) (hset : s.unitSettled u = true) : s.Closed u (s.checkClosed u) := by
  rw [State.checkClosed_closes h hset]
  have hruns := (s.closed u).endRuns_onlyRegs (s.tu u).rings
  have hone := s.closed_onlyClose u
  refine ⟨?_, ?_, ?_⟩
  · refine .trans (t := s.closed u) ⟨hone.stands, hone.others, fun a ha => hone.words a ?_⟩ (.ofUnit ((State.OnlyUnit.ofRegs u hruns).mono (by simp)))
    simpa using fun e => ha (by simp [e])
  · rw [State.tuState, State.f, hruns.2 _ (stat_not_mem_runWords u _)]
    exact s.tuState_closed u
  · rw [State.tu, hruns.1]
    exact s.tu_closed u

/-! ### RECORD_POST_TIME -/

theorem State.postTime_due {e : TrigEvent} {due : Nat} (hst : s.tuState u = tuPost) (he : (s.tu u).event = some e)
    (hd : s.postDue u e.sample = some due) : s.postTime u = (s.reach due).closeUnit u .postTime due := by
  unfold State.postDue at hd
  dsimp only at hd
  split at hd
  next => cases hd
  next hlim =>
    unfold State.postTime
    simp only [he]
    rw [if_pos (by rw [decide_eq_true hst, decide_eq_true hlim]; rfl), Option.some.inj hd]

theorem State.postTime_idle (h : s.tuState u ≠ tuPost ∨ (s.tu u).event.all (fun e => (s.postDue u e.sample).isNone) = true) : s.postTime u = s := by
  unfold State.postTime
  dsimp only
  cases he : (s.tu u).event with
  | none => rfl
  | some e =>
    dsimp only
    rw [if_neg]
    rcases h with h | h
    · simp [h]
    · rw [he, Option.all_some, State.postDue] at h
      split at h
      next hlim => rw [decide_eq_false (not_not.2 hlim), Bool.and_false]; exact Bool.false_ne_true
      next => cases h

/-- A close of the unit's open records leaves it in POST, or closes the event. -/
theorem State.closeUnit_cases (h : s.tuState u = tuPost) (cause : CloseCause) (n : Nat) :
    (s.closeUnit u cause n = s.closing u cause n ∧ (s.closing u cause n).unitSettled u = false) ∨
      (s.closing u cause n).Closed u (s.closeUnit u cause n) := by
  rw [State.closeUnit_post h]
  cases hset : (s.closing u cause n).unitSettled u with
  | false => exact .inl ⟨State.checkClosed_waits (.inr hset), rfl⟩
  | true => exact .inr (State.checkClosed_closed h hset)

theorem State.closing_onlyUnit (s : State) (cause : CloseCause) (n : Nat) : s.OnlyUnit u [] (s.closing u cause n) := (State.OnlyUnit.refl u _ s).modTu _

theorem State.tu_closing (s : State) (cause : CloseCause) (n : Nat) :
    (s.closing u cause n).tu u = { s.tu u with rings := closeRings cause n (s.tu u).rings } := s.tu_modTu_same u _

theorem runWords_closeRings (cause : CloseCause) (n : Nat) (rs : List Ring) : runWords (closeRings cause n rs) = runWords rs := by
  unfold runWords closeRings
  rw [List.map_map]
  refine List.map_congr_left fun r _ => ?_
  dsimp only [Function.comp_apply]
  split <;> rfl

theorem State.closeUnit_onlyClose (h : s.tuState u = tuPost) (cause : CloseCause) (n : Nat) :
    s.OnlyClose u ((tuBase u + R.TRG_TU_STAT) :: runWords (s.tu u).rings) (s.closeUnit u cause n) := by
  have hclosing := State.OnlyClose.ofUnit ((s.closing_onlyUnit (u := u) cause n).mono
    (List.nil_subset ((tuBase u + R.TRG_TU_STAT) :: runWords (s.tu u).rings)))
  rcases State.closeUnit_cases h cause n with ⟨e, -⟩ | hc
  · rw [e]
    exact hclosing
  · have hframe := hc.frame
    rw [State.tu_closing, runWords_closeRings] at hframe
    exact hclosing.trans hframe

theorem State.closeUnit_rings (h : s.tuState u = tuPost) (cause : CloseCause) (n : Nat) :
    ((s.closeUnit u cause n).tu u).rings = closeRings cause n (s.tu u).rings := by
  rcases State.closeUnit_cases h cause n with ⟨e, -⟩ | hc
  · rw [e, State.tu_closing]
  · rw [hc.unit, State.tu_closing]

/-- RECORD_POST_TIME of an event with a limit. -/
theorem recordPostTime_closes {e : TrigEvent} {due : Nat} (hst : s.tuState u = tuPost) (he : (s.tu u).event = some e)
    (hd : s.postDue u e.sample = some due) :
    ∃ t, exec (.recordPostTime u) s = .next t ∧ t.clk = (s.reach due).clk ∧
      (t.tu u).rings = closeRings .postTime due (s.tu u).rings ∧
      ((∀ r ∈ (s.tu u).rings, r.closed = none ∧ s.pendingBefore r.ch due = false) → t.tuState u = tuRearm ∧
        (∀ r ∈ (s.tu u).rings, t.f (chBase r.ch) F.CH_STAT_OVF_RUN = 0)) ∧
      (t.tuState u = tuPost → t.regs = s.regs) ∧ (t.tuState u = tuPost ∨ t.tuState u = tuRearm) ∧
      (∀ a, a ≠ tuBase u + R.TRG_TU_STAT → (∀ r ∈ (s.tu u).rings, a ≠ chBase r.ch + R.CH_STAT) → t.w a = s.w a) ∧
      (∀ v : Unit16, v ≠ u → t.tu v = s.tu v) ∧ t = { s with regs := t.regs, units := t.units, clk := t.clk, outPulse := t.outPulse } := by
  have hst' : (s.reach due).tuState u = tuPost := (s.tuState_reach due u).trans hst
  have htu : (s.reach due).tu u = s.tu u := s.tu_reach due u
  have hframe := State.closeUnit_onlyClose hst' .postTime due
  have hrings := State.closeUnit_rings hst' .postTime due
  have hcases := State.closeUnit_cases hst' .postTime due
  have hopen (h : ∀ r ∈ (s.tu u).rings, r.closed = none ∧ s.pendingBefore r.ch due = false) :
      ((s.reach due).closing u .postTime due).unitSettled u = true :=
    State.unitSettled_closing (.inl rfl) due fun r hr => by
      rw [State.pendingBefore_reach]
      exact h r (by rwa [htu] at hr)
  have hzero (h : ∀ r ∈ (s.tu u).rings, r.closed = none ∧ s.pendingBefore r.ch due = false) :
      ∀ r ∈ (s.tu u).rings, ((s.reach due).closeUnit u .postTime due).f (chBase r.ch) F.CH_STAT_OVF_RUN = 0 := fun r hr => by
    rw [State.closeUnit_post hst', State.checkClosed_closes (s := (s.reach due).closing u .postTime due) hst' (hopen h)]
    refine State.endRuns_zero _ (fun x hx => ?_) r.ch _ (.inr ?_)
    · rw [State.tu_closing, htu] at hx
      obtain ⟨y, hy, rfl⟩ := List.mem_map.1 hx
      exact ⟨due, by rw [if_pos (by simp [(h y hy).1])]⟩
    · rw [State.tu_closing, htu]
      refine ⟨_, List.mem_map_of_mem hr, ?_⟩
      split <;> rfl
  refine ⟨_, rfl, ?_⟩
  obtain ⟨t, ht⟩ : ∃ t, t = (s.reach due).closeUnit u .postTime due := ⟨_, rfl⟩
  rw [State.postTime_due hst he hd, ← ht]
  rw [← ht] at hframe hrings hzero hcases
  rw [htu] at hframe hrings
  have hstands := hframe.stands_at
  have hclk : t.clk = (s.reach due).clk := by rw [hstands]
  have hrearm (hc : ((s.reach due).closing u .postTime due).Closed u t) : ¬ t.tuState u = tuPost := by
    rw [hc.state]
    decide
  refine ⟨hclk, hrings, fun h => ⟨?_, hzero h⟩, fun hp => ?_, ?_, fun a ha hr => ?_, fun v hv => (hframe.others v hv).trans (s.tu_reach due v), ?_⟩
  · rcases hcases with ⟨-, hset⟩ | hc
    · rw [hopen h] at hset
      cases hset
    · exact hc.state
  · rcases hcases with ⟨e, -⟩ | hc
    · rw [e]
      exact s.reach_regs due
    · exact absurd hp (hrearm hc)
  · rcases hcases with ⟨e, -⟩ | hc
    · left
      rw [e]
      exact hst'
    · exact .inr hc.state
  · refine (hframe.words a ?_).trans (s.w_reach due a)
    rw [List.mem_cons, runWords, List.mem_map, not_or]
    exact ⟨ha, fun ⟨r, hmem, h⟩ => hr r hmem h.symm⟩
  · rw [hclk]
    exact hstands

end Sys2Proof.Machine
end

section
/-!
PROOFS. Segments and ARMED (R152, R156): what OVERWRITE frees, and a unit that enters ARMED or waits in REARM.
-/

namespace Sys2Proof.Machine

variable {s t r : State} {u v : Unit16}

/-! ### Room for a record -/

/-- Records of one unit may leave, and its registers change with them. -/
structure State.FreesRecords (u : Unit16) (s t : State) : Prop where
  frame : s.OnlyUnit u (tuWords u) t
  unit : ∃ rs, t.tu u = { s.tu u with records := rs } ∧ rs.Sublist (s.tu u).records

theorem State.FreesRecords.refl (u : Unit16) (s : State) : s.FreesRecords u s := ⟨.refl u _ s, (s.tu u).records, rfl, List.Sublist.refl _⟩

theorem State.FreesRecords.trans (h : s.FreesRecords u t) (g : t.FreesRecords u r) : s.FreesRecords u r := by
  obtain ⟨rs, hrs, hsub⟩ := h.unit
  obtain ⟨qs, hqs, hsub'⟩ := g.unit
  rw [hrs] at hqs hsub'
  exact ⟨h.frame.trans g.frame, qs, hqs, hsub'.trans hsub⟩

theorem State.FreesRecords.sameSetup (h : s.FreesRecords u t) : s.SameSetup t := h.frame.sameSetup fun _ => not_setup_of_mem_tuWords

theorem State.overwrite_frees (s : State) (u : Unit16) (n : Ch) : s.FreesRecords u (s.overwrite u n) := by
  unfold State.overwrite
  dsimp only
  split
  next x _ =>
    refine ⟨(((State.OnlyUnit.refl u _ s).modTu _).setF _ (by simp [tuWords])).setF _ (by simp [tuWords]),
      (s.tu u).records.filter fun y => !(y.ch == n && y.number == x.number), ?_, List.filter_sublist⟩
    rw [State.raise, State.tu_setF, State.countSat, State.tu_setF, State.freeRecord, State.tu_modTu_same]
  next => exact .refl u s

theorem State.makeRoom_frees (s : State) (u : Unit16) : s.FreesRecords u (s.makeRoom u) := by
  unfold State.makeRoom
  split
  · refine State.forAll_rel (State.FreesRecords.refl u) (fun h g => h.trans g) (fun n _ x => ?_) s
    split
    · exact x.overwrite_frees u n
    · exact .refl u x
  · exact .refl u s

theorem State.makeRoom_kept (h : s.tuA u F.TRG_TU_CFG_OVERWRITE = 0) : s.makeRoom u = s := by
  unfold State.makeRoom
  rw [if_neg (by rw [h]; decide)]

/-! ### REARM without another record -/

/-- The end of single mode and of the last record of count mode (R156). -/
def State.leaveOrWait (u : Unit16) (s : State) : State :=
  if (s.makeRoom u).lacksSeg u then (s.makeRoom u).waitFull u else (s.makeRoom u).enterIdle u

theorem not_setup_stat {a : Nat} (h : a ∈ [tuBase u + R.TRG_TU_STAT]) : ¬ Setup a := by
  rw [List.mem_singleton.1 h]
  exact not_setup_tu u (by decide)

theorem State.lacksSeg_waitFull (s : State) (u : Unit16) : (s.waitFull u).lacksSeg u = s.lacksSeg u :=
  ((s.waitFull_onlyUnit u).sameSetup fun _ => not_setup_stat).lacksSeg (by rw [State.tu_waitFull])

theorem State.lacksSeg_enterIdle (s : State) (u : Unit16) : (s.enterIdle u).lacksSeg u = s.lacksSeg u :=
  ((s.enterIdle_onlyUnit u).sameSetup fun _ => not_setup_stat).lacksSeg (by rw [State.tu_enterIdle])

theorem stat_subset_tuWords : [tuBase u + R.TRG_TU_STAT] ⊆ tuWords u := by simp [tuWords]

/-- What the end of an event without another record comes to. -/
structure State.LeftOrWaits (u : Unit16) (s t : State) : Prop where
  frame : s.OnlyUnit u (tuWords u) t
  left : t.lacksSeg u = false → t.tuState u = tuIdle ∧ (t.tu u).rings = [] ∧ (t.tu u).event = none
  waits : t.lacksSeg u = true → t.tuState u = tuRearm ∧ t.fb (tuBase u) F.TRG_TU_STAT_FULL = true
  hdrDone : (t.tu u).hdrDone = (s.tu u).hdrDone
  kept : s.tuA u F.TRG_TU_CFG_OVERWRITE = 0 → (t.tu u).records = (s.tu u).records

theorem State.leaveOrWait_leftOrWaits (s : State) (u : Unit16) : s.LeftOrWaits u (s.leaveOrWait u) := by
  obtain ⟨x, hx⟩ : ∃ x, x = s.makeRoom u := ⟨_, rfl⟩
  have hroom : s.FreesRecords u x := hx ▸ s.makeRoom_frees u
  have hkept (h : s.tuA u F.TRG_TU_CFG_OVERWRITE = 0) : (x.tu u).records = (s.tu u).records := by rw [hx, State.makeRoom_kept h]
  obtain ⟨rs, hunit, -⟩ := hroom.unit
  unfold State.leaveOrWait
  rw [← hx]
  split
  next hl =>
    refine ⟨hroom.frame.trans ((x.waitFull_onlyUnit u).mono stat_subset_tuWords), fun h => ?_, fun _ => x.waitFull_shows u, ?_, fun h => ?_⟩
    · rw [State.lacksSeg_waitFull, hl] at h
      cases h
    · rw [State.tu_waitFull, hunit]
    · rw [State.tu_waitFull, hkept h]
  next hl =>
    refine ⟨hroom.frame.trans ((x.enterIdle_onlyUnit u).mono stat_subset_tuWords), fun _ => ⟨(x.enterIdle_shows u).1, ?_, ?_⟩, fun h => ?_, ?_, fun h => ?_⟩
    · rw [State.tu_enterIdle]
    · rw [State.tu_enterIdle]
    · rw [State.lacksSeg_enterIdle] at h
      exact absurd h hl
    · rw [State.tu_enterIdle, hunit]
    · rw [State.tu_enterIdle, ← hkept h]

/-! ### ARMED -/

/-- What may change where a unit is armed: the unit itself, registers, and the references and thresholds of its channels. -/
structure State.OnlyArming (u : Unit16) (s t : State) : Prop where
  stands : t = { s with regs := t.regs, units := t.units, chans := t.chans, fes := t.fes }
  others : ∀ v : Unit16, v ≠ u → t.tu v = s.tu v

namespace State.OnlyArming

theorem refl (u : Unit16) (s : State) : OnlyArming u s s := ⟨rfl, fun _ _ => rfl⟩

theorem trans (h : OnlyArming u s t) (g : OnlyArming u t r) : OnlyArming u s r :=
  ⟨by rw [g.stands, h.stands], fun v hv => (g.others v hv).trans (h.others v hv)⟩

theorem ofUnit {l : List Nat} (h : s.OnlyUnit u l t) : OnlyArming u s t := by
  refine ⟨?_, h.others⟩
  rw [h.stands]

theorem memory (h : OnlyArming u s t) : s.SameMemory t := by
  rw [h.stands]
  exact ⟨fun _ => rfl, fun _ => rfl, rfl, fun _ => rfl, fun _ => rfl⟩

theorem clk (h : OnlyArming u s t) : t.clk = s.clk := by rw [h.stands]

end State.OnlyArming

/-- Fresh rings for the unit's channels. -/
def State.freshRings (u : Unit16) (n : Nat) (s : State) : List Ring :=
  (s.tuChs u).map fun c =>
    { ch := c, items := [], written := 0, pos := 0, seg := ((s.tu u).freeSeg (s.nseg u) c).getD 0, start := 0, pre := [], post := [],
      closed := none, short := false, refchg := none, spare := if s.fb (chBase c) F.CH_STAT_SPARE || s.handoverOf c then some (n, none) else none : Ring }

/-- The unit's own part as it enters ARMED. -/
def State.armedUnit (u : Unit16) (n dead : Nat) (s : State) : UnitSt :=
  { s.tu u with armAt := n, ghost := none, rings := s.freshRings u n, event := none, dead := dead, hdrDone := false, ending := false, edgeSeen := false }

/-- The channels' references start anew with their rings. -/
def State.dropRefs (cs : List Ch) (s : State) : State := s.forAll cs fun c s => s.modChan c fun c => { c with vref := none }

theorem State.dropRefs_stands (s : State) (cs : List Ch) : s.dropRefs cs = { s with chans := (s.dropRefs cs).chans } :=
  State.forAll_rel (rel := fun a b => b = { a with chans := b.chans }) (fun _ => rfl) (fun {a b c} h g => by rw [g, h]) (fun _ _ _ => rfl) s

/-- A unit in ARMED with fresh rings. -/
def State.nowArmed (u : Unit16) (n dead : Nat) (s : State) : State :=
  (((((s.setTu u (s.armedUnit u n dead)).dropRefs (s.tuChs u)).setF (tuBase u) F.TRG_TU_STAT_STATE tuArmed).setF (tuBase u) F.TRG_TU_STAT_FULL 0).setNext u)

theorem State.enterArmed_eq (s : State) (u : Unit16) (n dead : Nat) :
    s.enterArmed u n dead = if (s.makeRoom u).lacksSeg u then (s.makeRoom u).waitFull u else (s.makeRoom u).nowArmed u n dead := by
  have hchs : s.tuChs u = (s.makeRoom u).tuChs u := ((s.makeRoom_frees u).sameSetup.tuChs u).symm
  unfold State.enterArmed
  dsimp only
  rw [hchs]
  rfl

theorem next_subset_tuWords : [tuBase u + R.TRG_TU_NEXT] ⊆ tuWords u := by simp [tuWords]

/-- The unit with its channels' references dropped. -/
theorem State.rearmed_eq (s : State) (u : Unit16) (n dead : Nat) :
    ∃ cs, (s.setTu u (s.armedUnit u n dead)).dropRefs (s.tuChs u) = { s.setTu u (s.armedUnit u n dead) with chans := cs } := ⟨_, State.dropRefs_stands _ _⟩

theorem State.nowArmed_onlyArming (s : State) (u : Unit16) (n dead : Nat) :
    s.OnlyArming u (s.nowArmed u n dead) ∧ s.SameSetup (s.nowArmed u n dead) := by
  obtain ⟨cs, hcs⟩ := s.rearmed_eq u n dead
  obtain ⟨x, hx⟩ : ∃ x, x = (s.setTu u (s.armedUnit u n dead)).dropRefs (s.tuChs u) := ⟨_, rfl⟩
  have hstart : s.OnlyArming u x := by
    rw [hx, hcs]
    exact ⟨rfl, fun v hv => s.tu_setTu_other _ hv⟩
  have hsame : s.SameSetup x := by
    rw [hx, hcs]
    exact fun _ _ => rfl
  have hunit : x.OnlyUnit u (tuWords u) (s.nowArmed u n dead) := by
    rw [State.nowArmed, ← hx]
    exact (((State.OnlyUnit.refl u _ x).setF _ (by simp [tuWords])).setF _ (by simp [tuWords])).trans ((State.setNext_onlyUnit _ u).mono next_subset_tuWords)
  exact ⟨hstart.trans (.ofUnit hunit), hsame.trans (hunit.sameSetup fun _ => not_setup_of_mem_tuWords)⟩

theorem State.tu_nowArmed (s : State) (u : Unit16) (n dead : Nat) : (s.nowArmed u n dead).tu u = s.armedUnit u n dead := by
  obtain ⟨cs, hcs⟩ := s.rearmed_eq u n dead
  rw [State.nowArmed, State.tu_setNext, State.tu_setF, State.tu_setF, hcs]
  exact s.tu_setTu_same u _

theorem State.tuState_setNext (s : State) (u : Unit16) : (s.setNext u).tuState u = s.tuState u := by
  unfold State.tuState State.f
  rw [(s.setNext_onlyUnit u).words _ (by simp [R.TRG_TU_NEXT])]

theorem State.tuState_nowArmed (s : State) (u : Unit16) (n dead : Nat) : (s.nowArmed u n dead).tuState u = tuArmed := by
  rw [State.nowArmed, State.tuState_setNext]
  exact (State.tuState_shown _ u (by decide) (by decide)).1

/-- What an attempt to enter ARMED comes to. -/
structure State.ArmedOrWaits (u : Unit16) (n : Nat) (s t : State) : Prop where
  frame : s.OnlyArming u t
  armed : t.lacksSeg u = false → t.tuState u = tuArmed ∧ (t.tu u).event = none ∧ (t.tu u).armAt = n ∧
    (t.tu u).rings.map Ring.ch = s.tuChs u ∧ ∀ r ∈ (t.tu u).rings, r.items = [] ∧ r.closed = none
  waits : t.lacksSeg u = true → t.tuState u = tuRearm ∧ t.fb (tuBase u) F.TRG_TU_STAT_FULL = true
  missed : (t.tu u).missed = (s.tu u).missed
  count : (t.tu u).count = (s.tu u).count
  records : (s.tu u).records = [] → (t.tu u).records = []

theorem State.enterArmed_armedOrWaits (s : State) (u : Unit16) (n dead : Nat) : s.ArmedOrWaits u n (s.enterArmed u n dead) := by
  obtain ⟨x, hx⟩ : ∃ x, x = s.makeRoom u := ⟨_, rfl⟩
  have hroom : s.FreesRecords u x := hx ▸ s.makeRoom_frees u
  obtain ⟨rs, hunit, hsub⟩ := hroom.unit
  have hrecords (h : (s.tu u).records = []) : (x.tu u).records = [] := by
    rw [hunit]
    rw [h] at hsub
    exact List.sublist_nil.1 hsub
  rw [State.enterArmed_eq, ← hx]
  split
  next hl =>
    refine ⟨.ofUnit (hroom.frame.trans ((x.waitFull_onlyUnit u).mono stat_subset_tuWords)), fun h => ?_, fun _ => x.waitFull_shows u, ?_, ?_, fun h => ?_⟩
    · rw [State.lacksSeg_waitFull, hl] at h
      cases h
    · rw [State.tu_waitFull, hunit]
    · rw [State.tu_waitFull, hunit]
    · rw [State.tu_waitFull, hrecords h]
  next hl =>
    obtain ⟨harm, hsame⟩ := x.nowArmed_onlyArming u n dead
    have htu := x.tu_nowArmed u n dead
    refine ⟨(State.OnlyArming.ofUnit hroom.frame).trans harm, fun _ => ⟨x.tuState_nowArmed u n dead, ?_, ?_, ?_, fun r hr => ?_⟩, fun h => ?_, ?_, ?_, fun h => ?_⟩
    · rw [htu]; rfl
    · rw [htu]; rfl
    · rw [htu, State.armedUnit, State.freshRings, List.map_map, ← hroom.sameSetup.tuChs]
      exact List.map_id _
    · rw [htu, State.armedUnit, State.freshRings] at hr
      obtain ⟨c, -, rfl⟩ := List.mem_map.1 hr
      exact ⟨rfl, rfl⟩
    · rw [hsame.lacksSeg (by rw [htu]; rfl)] at h
      exact absurd h hl
    · rw [htu, State.armedUnit, hunit]
    · rw [htu, State.armedUnit, hunit]
    · rw [htu]
      exact hrecords h

end Sys2Proof.Machine
end

section
/-!
PROOFS. Records are stored (R158, R161), and a unit leaves REARM (R156).
-/

namespace Sys2Proof.Machine

variable {s t r : State} {u v : Unit16}

theorem State.forAll_singleton {α : Type} (a : α) (g : α → State → State) (s : State) : s.forAll [a] g = g a s := rfl

/-! ### The two header copies -/

/-- Words put one behind the other; every other word stands. -/
theorem State.vatVal_putList (ws : List Word) (base k : Nat) (s : State) (a : Nat) :
    (s.forAll (ws.zipIdx k) fun p s => s.putVat (base + p.2) p.1).vatVal a =
      if base + k ≤ a ∧ a < base + k + ws.length then ws.getD (a - (base + k)) 0#32 else s.vatVal a := by
  induction ws generalizing k s with
  | nil => rw [if_neg (by simp)]; rfl
  | cons w ws ih =>
    rw [List.zipIdx_cons, List.length_cons]
    refine (ih (k + 1) (s.putVat (base + k) w)).trans ?_
    rw [State.vatVal_putVat]
    by_cases ha : base + k = a
    · rw [if_neg (by omega), if_pos ha, if_pos (by omega), show a - (base + k) = 0 by omega]
      rfl
    · rw [if_neg ha]
      by_cases hin : base + (k + 1) ≤ a ∧ a < base + (k + 1) + ws.length
      · rw [if_pos hin, if_pos (by omega), show a - (base + k) = a - (base + (k + 1)) + 1 by omega]
        rfl
      · rw [if_neg hin, if_neg (by omega)]

/-- The 32-bit words of a header, the upper half of each word first. -/
def headerHalves (h : List (BitVec 64)) : List Word := (h.map fun w => [w.extractLsb' 32 32, w.extractLsb' 0 32]).flatten

theorem length_headerHalves (h : List (BitVec 64)) : (headerHalves h).length = 2 * h.length := by
  induction h with
  | nil => rfl
  | cons w h ih =>
    rw [headerHalves, List.map_cons, List.flatten_cons, List.length_append, ← headerHalves, ih, List.length_cons, List.length_cons, List.length_cons,
      List.length_nil]
    omega

theorem headerHalves_getD (h : List (BitVec 64)) (k : Nat) :
    (headerHalves h).getD (2 * k) 0#32 = (h.getD k 0#64).extractLsb' 32 32 ∧
      (headerHalves h).getD (2 * k + 1) 0#32 = (h.getD k 0#64).extractLsb' 0 32 := by
  induction h generalizing k with
  | nil => exact ⟨by simp [headerHalves], by simp [headerHalves]⟩
  | cons w h ih =>
    cases k with
    | zero => exact ⟨rfl, rfl⟩
    | succ k => exact ih k

theorem State.putHeader_onlyVat (s : State) (x : Record) : s.OnlyVat (s.putHeader x) := by
  refine State.forAll_rel (rel := State.OnlyVat) State.OnlyVat.refl (fun {a b c} h g => ?_) (fun p _ y => (State.OnlyVat.refl y).putVat _ _) s
  unfold State.OnlyVat at h g ⊢
  rw [g, h]

theorem State.OnlyVat.sameSetup (h : s.OnlyVat t) : s.SameSetup t := by
  unfold State.OnlyVat at h
  intro a _
  rw [h]
  rfl

/-- A header's words stand twice ahead of the body; every other word stands. -/
theorem State.vatVal_putHeader (s : State) (x : Record) (a : Nat) :
    (s.putHeader x).vatVal a = if x.base ≤ a ∧ a < x.base + 4 * x.header.length
      then (headerHalves x.header ++ headerHalves x.header).getD (a - x.base) 0#32 else s.vatVal a := by
  have h := State.vatVal_putList (headerHalves x.header ++ headerHalves x.header) x.base 0 s a
  rw [List.length_append, length_headerHalves, Nat.add_zero, ← Nat.two_mul, ← Nat.mul_assoc] at h
  exact h

/-- Word k of either copy. -/
theorem State.putHeader_copies (s : State) (x : Record) (h8 : x.header.length = 8) {k : Nat} (hk : k < 16) :
    (s.putHeader x).vatVal (x.base + k) = (headerHalves x.header).getD k 0#32 ∧
      (s.putHeader x).vatVal (x.base + 16 + k) = (headerHalves x.header).getD k 0#32 := by
  have hl : (headerHalves x.header).length = 16 := by rw [length_headerHalves, h8]
  rw [State.vatVal_putHeader, State.vatVal_putHeader, h8, if_pos (by omega), if_pos (by omega), show x.base + k - x.base = k by omega,
    show x.base + 16 + k - x.base = 16 + k by omega, List.getD_append _ _ _ _ (by omega), List.getD_append_right _ _ _ _ (by omega), hl,
    show 16 + k - 16 = k by omega]
  exact ⟨rfl, rfl⟩

/-! ### The records of an event -/

/-- What a write of records may change. -/
structure State.OnlyRecords (u : Unit16) (s t : State) : Prop where
  stands : t = { s with regs := t.regs, units := t.units, vat := t.vat, vatCE := t.vatCE, vatUE := t.vatUE, link0 := t.link0 }
  others : ∀ v : Unit16, v ≠ u → t.tu v = s.tu v

namespace State.OnlyRecords

theorem refl (u : Unit16) (s : State) : OnlyRecords u s s := ⟨rfl, fun _ _ => rfl⟩

theorem trans (h : OnlyRecords u s t) (g : OnlyRecords u t r) : OnlyRecords u s r :=
  ⟨by rw [g.stands, h.stands], fun v hv => (g.others v hv).trans (h.others v hv)⟩

theorem ofUnit {l : List Nat} (h : s.OnlyUnit u l t) : OnlyRecords u s t := by
  refine ⟨?_, h.others⟩
  rw [h.stands]

theorem ofRegs {l : List Nat} (h : s.OnlyRegs t l) : OnlyRecords u s t := ofUnit (.ofRegs u h)

theorem ofVat (h : s.OnlyVat t) : OnlyRecords u s t := by
  unfold State.OnlyVat at h
  refine ⟨?_, fun v _ => ?_⟩
  · rw [h]
  · rw [h]; rfl

end State.OnlyRecords

theorem State.countVat_onlyRegs (s : State) (ce ue : Nat) :
    s.OnlyRegs (s.countVat ce ue) [R.TRG_VAT_CE_H, R.TRG_VAT_CE_H + 4, R.TRG_VAT_UE_H, R.TRG_VAT_UE_H + 4, R.TRG_VAT_STAT] := by
  have hcount (x : State) (c n : Nat) (f : Fld) (hc : c = R.TRG_VAT_CE_H ∨ c = R.TRG_VAT_UE_H) (hf : 0 + f.addr = R.TRG_VAT_STAT) :
      x.OnlyRegs (if n = 0 then x else (x.count c n).raise 0 f)
        [R.TRG_VAT_CE_H, R.TRG_VAT_CE_H + 4, R.TRG_VAT_UE_H, R.TRG_VAT_UE_H + 4, R.TRG_VAT_STAT] := by
    split
    · exact .refl x _
    · refine ((State.OnlyRegs.refl x _).count n ?_ ?_).raise (by rw [hf]; simp)
      · rcases hc with rfl | rfl <;> simp
      · rcases hc with rfl | rfl <;> simp
  exact (hcount s _ ce F.TRG_VAT_STAT_CE (.inl rfl) (by decide)).trans (hcount _ _ ue F.TRG_VAT_STAT_UE (.inr rfl) (by decide))

theorem State.send_onlyRecords (s : State) (u : Unit16) (c : FClass) (b : List Byte) (tag : TxTag) : s.OnlyRecords u (s.send .host c b tag) :=
  ⟨rfl, fun _ _ => rfl⟩

theorem State.loseRecord_onlyRecords (s : State) (u : Unit16) (x : Record) : s.OnlyRecords u (s.loseRecord u x) := by
  unfold State.loseRecord State.freeRecord
  exact (State.OnlyRecords.ofRegs (s.countVat_onlyRegs _ _)).trans
    (.ofUnit ((((State.OnlyUnit.refl u (tuWords u) _).modTu _).setF _ (by simp [tuWords])).setF _ (by simp [tuWords])))

theorem State.pushRecord_onlyRecords (s : State) (u : Unit16) (x : Record) (onClose : Bool) : s.OnlyRecords u (s.pushRecord u x onClose) := by
  unfold State.pushRecord
  split
  · exact s.loseRecord_onlyRecords u x
  · dsimp only
    split
    · exact (State.OnlyRecords.ofRegs (s.countVat_onlyRegs _ _)).trans (State.send_onlyRecords ..)
    · exact ((State.OnlyRecords.ofRegs (s.countVat_onlyRegs _ _)).trans (State.send_onlyRecords ..)).trans
        (.ofUnit ((State.OnlyUnit.refl u [] _).modTu _))

/-- The records of an event, one a channel. -/
def State.eventRecords (s : State) (u : Unit16) (e : TrigEvent) : List Record :=
  (s.tu u).rings.mapIdx fun i r => s.mkRecord u i (s.tu u).rings.length e r

/-- The unit once the records of its event are stored. -/
def State.keepRecords (u : Unit16) (rs : List Record) (x : UnitSt) (s : State) : State :=
  s.setTu u { x with records := x.records ++ rs, hdrDone := true, count := x.count + 1 }

/-- PRE_SHORT of a record with less than its pre-trigger words (R154). -/
def State.markShort (u : Unit16) (x : UnitSt) (s : State) : State :=
  if x.rings.any (·.short) then s.raise (tuBase u) F.TRG_TU_STAT_PRE_SHORT else s

/-- With PUSH = 1 the records of a closed event leave at once. -/
def State.pushRecords (u : Unit16) (rs : List Record) (s : State) : State :=
  if s.tuA u F.TRG_TU_CFG_PUSH = 1 then s.forAll rs fun r s => s.pushRecord u r true else s

theorem State.writeRecords_event {e : TrigEvent} (he : (s.tu u).event = some e) :
    s.writeRecords u = ((((s.forAll (s.eventRecords u e) fun r s => s.putHeader r).keepRecords u (s.eventRecords u e) (s.tu u)).markShort u (s.tu u)).pushRecords u
      (s.eventRecords u e)).setNext u := by
  unfold State.writeRecords
  simp only [he, State.eventRecords, State.keepRecords, State.markShort, State.pushRecords]

theorem State.writeRecords_none (he : (s.tu u).event = none) : s.writeRecords u = s := by
  unfold State.writeRecords
  dsimp only
  rw [he]

theorem State.keepRecords_onlyUnit (s : State) (u : Unit16) (rs : List Record) (x : UnitSt) : s.OnlyUnit u (tuWords u) (s.keepRecords u rs x) :=
  (State.OnlyUnit.refl u _ s).setTu _

theorem State.markShort_onlyUnit (s : State) (u : Unit16) (x : UnitSt) : s.OnlyUnit u (tuWords u) (s.markShort u x) := by
  unfold State.markShort
  split
  · exact (State.OnlyUnit.refl u _ s).setF _ (by simp [tuWords])
  · exact .refl u _ s

theorem State.tu_markShort (s : State) (u : Unit16) (x : UnitSt) (v : Unit16) : (s.markShort u x).tu v = s.tu v := by
  unfold State.markShort
  split
  · rw [State.raise, State.tu_setF]
  · rfl

theorem State.pushRecords_onlyRecords (s : State) (u : Unit16) (rs : List Record) : s.OnlyRecords u (s.pushRecords u rs) := by
  unfold State.pushRecords
  split
  · exact State.forAll_rel (State.OnlyRecords.refl u) (fun h g => h.trans g) (fun r _ x => x.pushRecord_onlyRecords u r true) s
  · exact .refl u s

/-- A write of records leaves the other units and every memory but the Vat. -/
theorem State.writeRecords_onlyRecords (s : State) (u : Unit16) : s.OnlyRecords u (s.writeRecords u) := by
  cases he : (s.tu u).event with
  | none =>
    rw [State.writeRecords_none he]
    exact .refl u s
  | some e =>
    rw [State.writeRecords_event he]
    have hput := State.forAll_rel (State.OnlyRecords.refl u) (fun h g => h.trans g) (g := fun r s => s.putHeader r)
      (fun x (_ : x ∈ s.eventRecords u e) y => State.OnlyRecords.ofVat (y.putHeader_onlyVat x)) s
    exact (((hput.trans (.ofUnit (State.keepRecords_onlyUnit _ u _ _))).trans (.ofUnit (State.markShort_onlyUnit _ u _))).trans
      (State.pushRecords_onlyRecords _ u _)).trans (.ofUnit (State.setNext_onlyUnit _ u))

/-- Without PUSH the one record of an event is kept, its header stored. -/
theorem State.writeRecords_kept {e : TrigEvent} {x : Ring} (he : (s.tu u).event = some e) (hr : (s.tu u).rings = [x])
    (hp : s.tuA u F.TRG_TU_CFG_PUSH = 0) :
    (s.putHeader (s.mkRecord u 0 1 e x)).OnlyUnit u (tuWords u) (s.writeRecords u) ∧
      (s.writeRecords u).tu u = { s.tu u with records := (s.tu u).records ++ [s.mkRecord u 0 1 e x], hdrDone := true, count := (s.tu u).count + 1 } := by
  have hrecs : s.eventRecords u e = [s.mkRecord u 0 1 e x] := by
    rw [State.eventRecords, hr]
    rfl
  obtain ⟨y, hy⟩ : ∃ y, y = ((s.putHeader (s.mkRecord u 0 1 e x)).keepRecords u [s.mkRecord u 0 1 e x] (s.tu u)).markShort u (s.tu u) := ⟨_, rfl⟩
  have hframe : (s.putHeader (s.mkRecord u 0 1 e x)).OnlyUnit u (tuWords u) y := by
    rw [hy]
    exact (State.keepRecords_onlyUnit _ u _ _).trans (State.markShort_onlyUnit _ u _)
  have hpush : y.tuA u F.TRG_TU_CFG_PUSH ≠ 1 := by
    rw [(hframe.sameSetup fun _ => not_setup_of_mem_tuWords).tuA]
    rw [(s.putHeader_onlyVat (s.mkRecord u 0 1 e x)).sameSetup.tuA, hp]
    decide
  have hw : s.writeRecords u = y.setNext u := by
    rw [State.writeRecords_event he, hrecs, State.forAll_singleton, ← hy, State.pushRecords, if_neg hpush]
  rw [hw]
  refine ⟨hframe.trans ((y.setNext_onlyUnit u).mono next_subset_tuWords), ?_⟩
  rw [State.tu_setNext, hy, State.tu_markShort, State.keepRecords, State.tu_setTu_same]

end Sys2Proof.Machine
end

section
/-!
PROOFS. REARM_DONE, DISARM in POST and ARM (R152, R156, R157), from the operations of the unit.
-/

namespace Sys2Proof.Machine

variable {s t r : State} {u v : Unit16}

/-! ### REARM_DONE -/

/-- The instant at which a unit that closed at `n` leaves REARM (R156). -/
def rearmDue (n : Nat) : Nat := n + 20480

/-- The re-arm instant (R156): the unit close's, or the present where that is a timebase period past. -/
def State.rearmAt (s : State) (u : Unit16) : Nat :=
  if s.now < rearmDue (s.tu u).closeAt + 256 then rearmDue (s.tu u).closeAt else s.now

/-- The headers of the event are stored once. -/
def State.storeOnce (u : Unit16) (s : State) : State := if (s.tu u).hdrDone || (s.tu u).event.isNone then s else s.writeRecords u

/-- Whether no further record follows: single mode, or the last record of count mode. -/
def State.lastRecord (s : State) (u : Unit16) : Bool :=
  (decide (s.tuA u F.TRG_TU_CFG_MODE = 0 ∨ s.tuA u F.TRG_TU_CFG_MODE = 3) ||
    (decide (s.tuA u F.TRG_TU_CFG_MODE = 2) && decide ((s.tu u).count ≥ s.tuA u F.TRG_TU_CFG_NREC))) && (s.tu u).event.isSome

/-- The next arming, with the shadows put into force. -/
def State.armAgain (u : Unit16) (n : Nat) (s : State) : State :=
  if (s.applyTu u).tuRejects u then ((s.applyTu u).enterIdle u).raise (tuBase u) F.TRG_TU_STAT_CFG_REJ
  else (s.applyTu u).enterArmed u n (if ((s.applyTu u).tu u).event.isSome then n - ((s.applyTu u).tu u).closeAt else 0)

theorem State.rearm_eq (h : s.tuState u = tuRearm) : s.rearm u =
    if ((s.reach (rearmDue (s.tu u).closeAt)).storeOnce u).lastRecord u then ((s.reach (rearmDue (s.tu u).closeAt)).storeOnce u).leaveOrWait u
    else ((s.reach (rearmDue (s.tu u).closeAt)).storeOnce u).armAgain u (s.rearmAt u) := by
  unfold State.rearm
  rw [if_neg (not_not.2 h)]
  rfl

theorem State.rearm_elsewhere (h : s.tuState u ≠ tuRearm) : s.rearm u = s := if_pos h

theorem State.SameMemory.trans (h : s.SameMemory t) (g : t.SameMemory r) : s.SameMemory r := by
  obtain ⟨hvat, hlake, hzero, hflash, hcal⟩ := h
  obtain ⟨gvat, glake, gzero, gflash, gcal⟩ := g
  exact ⟨fun a => (gvat a).trans (hvat a), fun a => (glake a).trans (hlake a), gzero.trans hzero, fun a => (gflash a).trans (hflash a),
    fun k => (gcal k).trans (hcal k)⟩

theorem State.sameMemory_reach (s : State) (n : Nat) : s.SameMemory (s.reach n) := by
  rw [s.reach_stands]
  exact ⟨fun _ => rfl, fun _ => rfl, rfl, fun _ => rfl, fun _ => rfl⟩

theorem State.sameSetup_reach (s : State) (n : Nat) : s.SameSetup (s.reach n) := fun a _ => s.w_reach n a

theorem State.storeOnce_done (h : (s.tu u).event = none ∨ (s.tu u).hdrDone = true) : s.storeOnce u = s := by
  unfold State.storeOnce
  rw [if_pos]
  rcases h with h | h <;> simp [h]

/-! ### The shadows' way into force -/

theorem State.applyTu_onlyRegs (s : State) (u : Unit16) : s.OnlyRegs (s.applyTu u) (tuShadows.map fun o => forceBase + tuBase u + o) :=
  State.forAll_rel (rel := fun a b => a.OnlyRegs b (tuShadows.map fun o => forceBase + tuBase u + o)) (fun x => .refl x _) (fun h g => h.trans g)
    (fun _ ho x => (State.OnlyRegs.refl x _).setW _ (List.mem_map_of_mem ho)) s

/-- A unit's STAT is no value in force. -/
theorem State.tuState_applyTu (s : State) (u : Unit16) : (s.applyTu u).tuState u = s.tuState u := by
  unfold State.tuState State.f
  rw [(s.applyTu_onlyRegs u).2]
  rw [List.mem_map]
  rintro ⟨o, -, h⟩
  have := u.isLt
  unfold forceBase tuBase at h
  dsimp only at h
  omega

theorem State.tu_applyTu (s : State) (u v : Unit16) : (s.applyTu u).tu v = s.tu v := by
  unfold State.tu
  rw [(s.applyTu_onlyRegs u).1]

theorem State.applyTu_onlyArming (s : State) (u : Unit16) : s.OnlyArming u (s.applyTu u) := .ofUnit (.ofRegs u (s.applyTu_onlyRegs u))

/-- The end of an arming that R152 refuses. -/
theorem State.refused_shows (s : State) (u : Unit16) :
    s.OnlyUnit u [tuBase u + R.TRG_TU_STAT] ((s.enterIdle u).raise (tuBase u) F.TRG_TU_STAT_CFG_REJ) ∧
      ((s.enterIdle u).raise (tuBase u) F.TRG_TU_STAT_CFG_REJ).tuState u = tuIdle ∧
      ((s.enterIdle u).raise (tuBase u) F.TRG_TU_STAT_CFG_REJ).fb (tuBase u) F.TRG_TU_STAT_CFG_REJ = true :=
  ⟨(s.enterIdle_onlyUnit u).setF _ (by simp), ((s.enterIdle u).raise_cfgRej u).1.trans (s.enterIdle_shows u).1, ((s.enterIdle u).raise_cfgRej u).2⟩

/-! ### REARM_DONE's cases -/

/-- REARM_DONE of an event whose headers are stored, without another record. -/
theorem rearmDone_last (hst : s.tuState u = tuRearm) (he : (s.tu u).event.isSome = true) (hd : (s.tu u).hdrDone = true)
    (hm : s.tuA u F.TRG_TU_CFG_MODE = 0 ∨ s.tuA u F.TRG_TU_CFG_MODE = 3 ∨
      (s.tuA u F.TRG_TU_CFG_MODE = 2 ∧ s.tuA u F.TRG_TU_CFG_NREC ≤ (s.tu u).count)) :
    ∃ t, exec (.rearmDone u) s = .next t ∧ t.clk = (s.reach (rearmDue (s.tu u).closeAt)).clk ∧
      (t.lacksSeg u = false → t.tuState u = tuIdle ∧ (t.tu u).rings = [] ∧ (t.tu u).event = none) ∧
      (t.lacksSeg u = true → t.tuState u = tuRearm ∧ t.fb (tuBase u) F.TRG_TU_STAT_FULL = true) ∧
      (s.tuA u F.TRG_TU_CFG_OVERWRITE = 0 → (t.tu u).records = (s.tu u).records) ∧ t.chans = s.chans ∧ s.SameMemory t := by
  obtain ⟨x, hx⟩ : ∃ x, x = s.reach (rearmDue (s.tu u).closeAt) := ⟨_, rfl⟩
  have hsame : s.SameSetup x := hx ▸ s.sameSetup_reach _
  have htu : x.tu u = s.tu u := hx ▸ s.tu_reach _ u
  have hlast : x.lastRecord u = true := by
    unfold State.lastRecord
    rw [hsame.tuA, hsame.tuA, htu, he, Bool.and_true, Bool.or_eq_true, Bool.and_eq_true, decide_eq_true_eq, decide_eq_true_eq, decide_eq_true_eq, or_assoc]
    exact hm
  have h := x.leaveOrWait_leftOrWaits u
  have hmem : s.SameMemory x := hx ▸ s.sameMemory_reach _
  refine ⟨_, rfl, ?_⟩
  rw [State.rearm_eq hst, ← hx, State.storeOnce_done (.inr (htu ▸ hd)), if_pos hlast]
  refine ⟨?_, h.left, h.waits, fun ho => ?_, ?_, hmem.trans h.frame.memory⟩
  · rw [h.frame.stands]
  · rw [h.kept (by rw [hsame.tuA, ho]), htu]
  · rw [h.frame.stands, hx]
    exact s.reach_chans _

/-- REARM_DONE with another record to follow, or after an arming that waited. -/
theorem rearmDone_again (hst : s.tuState u = tuRearm) (hd : (s.tu u).event = none ∨ (s.tu u).hdrDone = true)
    (hm : (s.tu u).event = none ∨ s.tuA u F.TRG_TU_CFG_MODE = 1 ∨ (s.tuA u F.TRG_TU_CFG_MODE = 2 ∧ (s.tu u).count < s.tuA u F.TRG_TU_CFG_NREC)) :
    ∃ t, exec (.rearmDone u) s = .next t ∧ t.clk = (s.reach (rearmDue (s.tu u).closeAt)).clk ∧
      (((s.reach (rearmDue (s.tu u).closeAt)).applyTu u).tuRejects u = true →
        t.tuState u = tuIdle ∧ t.fb (tuBase u) F.TRG_TU_STAT_CFG_REJ = true) ∧
      (((s.reach (rearmDue (s.tu u).closeAt)).applyTu u).tuRejects u = false → t.lacksSeg u = true →
        t.tuState u = tuRearm ∧ t.fb (tuBase u) F.TRG_TU_STAT_FULL = true) ∧
      (((s.reach (rearmDue (s.tu u).closeAt)).applyTu u).tuRejects u = false → t.lacksSeg u = false →
        t.tuState u = tuArmed ∧ (t.tu u).event = none ∧ (t.tu u).armAt = s.rearmAt u ∧
        (∀ r ∈ (t.tu u).rings, r.items = [] ∧ r.closed = none)) ∧ s.SameMemory t := by
  obtain ⟨x, hx⟩ : ∃ x, x = s.reach (rearmDue (s.tu u).closeAt) := ⟨_, rfl⟩
  have hsame : s.SameSetup x := hx ▸ s.sameSetup_reach _
  have htu : x.tu u = s.tu u := hx ▸ s.tu_reach _ u
  have hlast : x.lastRecord u = false := by
    unfold State.lastRecord
    rw [hsame.tuA, hsame.tuA, htu]
    rcases hm with h | h | ⟨h, hc⟩
    · rw [h, Option.isSome_none, Bool.and_false]
    · rw [h]
      rfl
    · rw [h, decide_eq_false (by omega : ¬ (s.tu u).count ≥ s.tuA u F.TRG_TU_CFG_NREC), Bool.and_false]
      rfl
  have hmem : s.SameMemory x := hx ▸ s.sameMemory_reach _
  have happly := x.applyTu_onlyArming u
  refine ⟨_, rfl, ?_⟩
  rw [State.rearm_eq hst, ← hx, State.storeOnce_done (by rw [htu]; exact hd), hlast, if_neg Bool.false_ne_true, State.armAgain]
  obtain ⟨y, hy⟩ : ∃ y, y = x.applyTu u := ⟨_, rfl⟩
  rw [← hy] at happly ⊢
  cases hrej : y.tuRejects u with
  | true =>
    obtain ⟨hframe, hstate, hflag⟩ := y.refused_shows u
    rw [if_pos rfl]
    have hone := happly.trans (.ofUnit hframe)
    exact ⟨hone.clk, fun _ => ⟨hstate, hflag⟩, nofun, nofun, hmem.trans hone.memory⟩
  | false =>
    rw [if_neg Bool.false_ne_true]
    have harm := y.enterArmed_armedOrWaits u (s.rearmAt u) (if (y.tu u).event.isSome then s.rearmAt u - (y.tu u).closeAt else 0)
    have hone := happly.trans harm.frame
    refine ⟨hone.clk, nofun, fun _ h => harm.waits h, fun _ h => ?_, hmem.trans hone.memory⟩
    obtain ⟨hstate, hevent, hat, -, hrings⟩ := harm.armed h
    exact ⟨hstate, hevent, hat, hrings⟩

theorem State.mkRecord_reach (s : State) (n : Nat) (u : Unit16) (i k : Nat) (e : TrigEvent) (x : Ring) :
    (s.reach n).mkRecord u i k e x = s.mkRecord u i k e x := by
  rw [s.reach_stands]
  rfl

theorem State.vatVal_onlyUnit {l : List Nat} (h : s.OnlyUnit u l t) (a : Nat) : t.vatVal a = s.vatVal a := h.memory.1 a

/-- REARM_DONE of the first event of single mode: the record is stored, header first and twice. -/
theorem rearmDone_stores {e : TrigEvent} {x : Ring} (hst : s.tuState u = tuRearm) (he : (s.tu u).event = some e) (hr : (s.tu u).rings = [x])
    (hd : (s.tu u).hdrDone = false) (hm : s.tuA u F.TRG_TU_CFG_MODE = 0 ∨ s.tuA u F.TRG_TU_CFG_MODE = 3) (hp : s.tuA u F.TRG_TU_CFG_PUSH = 0)
    (ho : s.tuA u F.TRG_TU_CFG_OVERWRITE = 0) :
    ∃ t, exec (.rearmDone u) s = .next t ∧ t.clk = (s.reach (rearmDue (s.tu u).closeAt)).clk ∧
      (t.tu u).records = (s.tu u).records ++ [s.mkRecord u 0 1 e x] ∧
      (t.lacksSeg u = false → t.tuState u = tuIdle ∧ (t.tu u).rings = [] ∧ (t.tu u).event = none) ∧
      (t.lacksSeg u = true → t.tuState u = tuRearm ∧ t.fb (tuBase u) F.TRG_TU_STAT_FULL = true ∧ (t.tu u).hdrDone = true) ∧
      (∀ k, k < 16 → t.vatVal (s.segBase u 0 1 x.seg + k) = t.vatVal (s.segBase u 0 1 x.seg + 16 + k)) ∧
      (∀ k, k < 8 → t.vatVal (s.segBase u 0 1 x.seg + 2 * k) =
          ((s.mkRecord u 0 1 e x).header.getD k 0#64).extractLsb' 32 32 ∧
        t.vatVal (s.segBase u 0 1 x.seg + 2 * k + 1) = ((s.mkRecord u 0 1 e x).header.getD k 0#64).extractLsb' 0 32) ∧
      (∀ a, (a < s.segBase u 0 1 x.seg ∨ s.segBase u 0 1 x.seg + 32 ≤ a) → t.vatVal a = s.vatVal a) ∧
      (∀ v : Unit16, v ≠ u → t.tu v = s.tu v) ∧ t.lake = s.lake ∧ t.chans = s.chans := by
  obtain ⟨y, hy⟩ : ∃ y, y = s.reach (rearmDue (s.tu u).closeAt) := ⟨_, rfl⟩
  have hsame : s.SameSetup y := hy ▸ s.sameSetup_reach _
  have htu (v : Unit16) : y.tu v = s.tu v := hy ▸ s.tu_reach _ v
  have hmk : y.mkRecord u 0 1 e x = s.mkRecord u 0 1 e x := hy ▸ s.mkRecord_reach _ u 0 1 e x
  obtain ⟨c, hc⟩ : ∃ c, c = s.mkRecord u 0 1 e x := ⟨_, rfl⟩
  have hbase : c.base = s.segBase u 0 1 x.seg := by rw [hc]; rfl
  have h8 : c.header.length = 8 := by rw [hc]; rfl
  obtain ⟨hkeep, hunit⟩ := State.writeRecords_kept (s := y) ((htu u).symm ▸ he) ((htu u).symm ▸ hr) (by rw [hsame.tuA, hp])
  rw [hmk, ← hc] at hkeep hunit
  have hput := y.putHeader_onlyVat c
  have hcfg : s.SameSetup (y.writeRecords u) := (hsame.trans hput.sameSetup).trans (hkeep.sameSetup fun _ => not_setup_of_mem_tuWords)
  have hstore : y.storeOnce u = y.writeRecords u := by
    unfold State.storeOnce
    rw [if_neg (by rw [htu, hd, he]; exact Bool.false_ne_true)]
  have hlast : (y.writeRecords u).lastRecord u = true := by
    unfold State.lastRecord
    rw [hcfg.tuA, decide_eq_true hm, Bool.true_or, Bool.true_and, hunit, htu, he]
    rfl
  obtain ⟨t, ht⟩ : ∃ t, t = (y.writeRecords u).leaveOrWait u := ⟨_, rfl⟩
  have h : (y.writeRecords u).LeftOrWaits u t := ht ▸ (y.writeRecords u).leaveOrWait_leftOrWaits u
  have hframe := hkeep.trans h.frame
  have hvat (a : Nat) : t.vatVal a = (y.putHeader c).vatVal a := State.vatVal_onlyUnit hframe a
  have hcopies {k : Nat} (hk : k < 16) := y.putHeader_copies c h8 hk
  have hstands : t.clk = y.clk ∧ t.lake = y.lake ∧ t.chans = y.chans ∧ ∀ v : Unit16, v ≠ u → t.tu v = y.tu v := by
    have hothers := hframe.others
    unfold State.OnlyVat at hput
    rw [hframe.stands, hput]
    refine ⟨rfl, rfl, rfl, fun v hv => (hothers v hv).trans ?_⟩
    rw [hput]
    rfl
  obtain ⟨hclk, hlake, hchans, hothers⟩ := hstands
  refine ⟨_, rfl, ?_⟩
  rw [State.rearm_eq hst, ← hy, hstore, if_pos hlast, ← ht, ← hbase, ← hc]
  refine ⟨hclk, ?_, h.left, fun hl => ⟨(h.waits hl).1, (h.waits hl).2, ?_⟩, fun k hk => ?_, fun k hk => ⟨?_, ?_⟩, fun a ha => ?_,
    fun v hv => (hothers v hv).trans (htu v), ?_, ?_⟩
  · rw [h.kept (by rw [hcfg.tuA, ho]), hunit, htu]
  · rw [h.hdrDone, hunit]
  · rw [hvat, hvat, (hcopies hk).1, (hcopies hk).2]
  · rw [hvat, (hcopies (by omega)).1, (headerHalves_getD c.header k).1]
  · rw [hvat, Nat.add_assoc, (hcopies (by omega)).1, (headerHalves_getD c.header k).2]
  · rw [hvat, State.vatVal_putHeader, h8, if_neg (by omega), hy]
    exact (s.sameMemory_reach _).1 a
  · rw [hlake, hy, s.reach_stands]
  · rw [hchans, hy]
    exact s.reach_chans _

/-! ### DISARM in POST -/

/-- A unit that was disarmed is IDLE once its event has closed. -/
theorem State.endUnit_cases (s : State) (u : Unit16) (he : (s.tu u).ending = true) :
    (s.endUnit u = s ∧ s.tuState u ≠ tuRearm) ∨ (s.endUnit u = (s.writeRecords u).enterIdle u ∧ s.tuState u = tuRearm) := by
  unfold State.endUnit
  by_cases h : s.tuState u = tuRearm
  · exact .inr ⟨if_pos (by rw [he, decide_eq_true h]; rfl), h⟩
  · exact .inl ⟨if_neg (by rw [he, decide_eq_false h]; exact Bool.false_ne_true), h⟩

/-- DISARM of a unit in POST. -/
theorem disarm_post (hs : s.Serves) (hst : s.tuState u = tuPost) :
    ∃ t, exec (.disarm u) s = .next t ∧ t.clk = (s.reach s.mclkNext).clk ∧
      ((∀ r ∈ (s.tu u).rings, r.closed = none ∧ s.pendingBefore r.ch (s.reach s.mclkNext).now = false) →
        t.tuState u = tuIdle ∧ (t.tu u).rings = [] ∧ (t.tu u).event = none) ∧
      (t.tuState u ≠ tuIdle → t.tuState u = tuPost ∧ (t.tu u).ending = true ∧
        (t.tu u).rings = closeRings .stop (s.reach s.mclkNext).now (s.tu u).rings) ∧
      (∀ v : Unit16, v ≠ u → t.tu v = s.tu v) ∧ t.lake = s.lake ∧ t.flash = s.flash := by
  obtain ⟨y, hy⟩ : ∃ y, y = s.reach s.mclkNext := ⟨_, rfl⟩
  have htu (v : Unit16) : y.tu v = s.tu v := hy ▸ s.tu_reach _ v
  have hyst : y.tuState u = tuPost := hy ▸ (s.tuState_reach _ u).trans hst
  obtain ⟨x, hx⟩ : ∃ x, x = y.modTu u fun x => { x with ending := true } := ⟨_, rfl⟩
  have hxu : x.tu u = { s.tu u with ending := true } := by rw [hx, State.tu_modTu_same, htu]
  have hxframe : y.OnlyUnit u [] x := hx ▸ (State.OnlyUnit.refl u _ y).modTu _
  have hxst : x.tuState u = tuPost := by rw [hx]; exact hyst
  have hpend (n : Ch) : x.pendingBefore n y.now = s.pendingBefore n y.now := by
    rw [hx, State.modTu, State.pendingBefore_setTu, hy, State.pendingBefore_reach]
  obtain ⟨c, hc⟩ : ∃ c, c = x.closeUnit u .stop y.now := ⟨_, rfl⟩
  have hcframe := hc ▸ State.closeUnit_onlyClose hxst .stop y.now
  have hcases := hc ▸ State.closeUnit_cases hxst .stop y.now
  have hcu : (c.tu u).ending = true ∧ (c.tu u).rings = closeRings .stop y.now (s.tu u).rings := by
    rcases hcases with ⟨e, -⟩ | hcl
    · rw [e, State.tu_closing, hxu]
      exact ⟨rfl, rfl⟩
    · rw [hcl.unit, State.tu_closing, hxu]
      exact ⟨rfl, rfl⟩
  have hothers (v : Unit16) (hv : v ≠ u) : c.tu v = s.tu v := (hcframe.others v hv).trans ((hxframe.others v hv).trans (htu v))
  have hparts : c.clk = y.clk ∧ c.lake = s.lake ∧ c.flash = s.flash := by
    rw [hcframe.stands, hxframe.stands, hy, s.reach_stands]
    exact ⟨rfl, rfl, rfl⟩
  obtain ⟨hclk, hlake, hflash⟩ := hparts
  refine ⟨_, exec_disarm hs u, ?_⟩
  rw [if_neg (by rw [hst]; decide), ← hy, State.disarm_post hyst, ← hx, ← hc, State.tuState_modPath]
  rcases c.endUnit_cases u hcu.1 with ⟨e, hwait⟩ | ⟨e, -⟩
  · rw [e]
    rcases hcases with ⟨hcl, hset⟩ | hcl
    · have hpost : c.tuState u = tuPost := by rw [hcl]; exact hxst
      refine ⟨hclk, fun hr => ?_, fun _ => ⟨hpost, hcu⟩, hothers, hlake, hflash⟩
      rw [State.unitSettled_closing (.inr rfl) y.now fun r hmem => ?_] at hset
      · cases hset
      · rw [hpend]
        rw [hxu] at hmem
        exact hr r hmem
    · exact absurd hcl.state hwait
  · rw [e]
    obtain ⟨w, hw⟩ : ∃ w, w = c.writeRecords u := ⟨_, rfl⟩
    have hwframe : c.OnlyRecords u w := hw ▸ c.writeRecords_onlyRecords u
    obtain ⟨d, hd⟩ : ∃ d, d = w.enterIdle u := ⟨_, rfl⟩
    have hone : c.OnlyRecords u d := hwframe.trans (.ofUnit (hd ▸ w.enterIdle_onlyUnit u))
    have hidle : d.tuState u = tuIdle := hd ▸ (w.enterIdle_shows u).1
    have hunit := w.tu_enterIdle u
    rw [← hd] at hunit
    have hlast : d.clk = c.clk ∧ d.lake = c.lake ∧ d.flash = c.flash := by
      rw [hone.stands]
      exact ⟨rfl, rfl, rfl⟩
    obtain ⟨hclk', hlake', hflash'⟩ := hlast
    rw [← hw, ← hd, State.tu_modPath, hunit]
    exact ⟨hclk'.trans hclk, fun _ => ⟨hidle, rfl, rfl⟩, fun h => absurd hidle h, fun v hv => (hone.others v hv).trans (hothers v hv),
      hlake'.trans hlake, hflash'.trans hflash⟩

end Sys2Proof.Machine
end

section
/-!
PROOFS. ARM (R152, R300), and the whole of the statement about units that arm, close and re-arm.
-/

namespace Sys2Proof.Machine

variable {s t r : State} {u v : Unit16}

/-! ### Idle conditions that an arming breaks (R205) -/

/-- Channels, front ends and registers that no setting in force depends on may differ, and nothing else. -/
structure State.OnlyFront (s t : State) : Prop where
  stands : t = { s with regs := t.regs, chans := t.chans, fes := t.fes }
  setup : s.SameSetup t

theorem State.OnlyFront.refl (s : State) : s.OnlyFront s := ⟨rfl, fun _ _ => rfl⟩

theorem State.OnlyFront.trans (h : s.OnlyFront t) (g : t.OnlyFront r) : s.OnlyFront r :=
  ⟨by rw [g.stands, h.stands], h.setup.trans g.setup⟩

theorem State.OnlyFront.units (h : s.OnlyFront t) : t.units = s.units := by rw [h.stands]

theorem State.OnlyFront.now (h : s.OnlyFront t) : t.now = s.now := by
  rw [h.stands]
  rfl

theorem State.OnlyFront.arming (h : s.OnlyFront t) (u : Unit16) : s.OnlyArming u t := by
  refine ⟨?_, fun v _ => ?_⟩
  · rw [h.stands]
  · rw [State.tu, h.units]
    rfl

/-- A front end's registers are no settings in force of a unit. -/
theorem not_setup_fe (f : FrontEnd) : ¬ Setup (feBase f + R.CH_CAL_STAT) := by
  have := f.isLt
  unfold Setup feBase chBase spBase forceBase R.TRG_VP R.CH_CAL_STAT
  split <;> omega

theorem State.setF_calStat_onlyFront (s : State) (f : FrontEnd) {g : Fld} (hg : g.addr = R.CH_CAL_STAT) (n : Nat) : s.OnlyFront (s.setF (feBase f) g n) :=
  ⟨rfl, fun _ ha => s.w_setF_other fun e => not_setup_fe f (by rwa [← hg, e])⟩

theorem State.modChan_onlyFront (s : State) (n : Ch) (g : Chan → Chan) : s.OnlyFront (s.modChan n g) := ⟨rfl, fun _ _ => rfl⟩

theorem State.abandonThrOf_onlyFront (s : State) (f : FrontEnd) (n : Ch) : s.OnlyFront (s.abandonThrOf f n) := by
  unfold State.abandonThrOf
  dsimp only
  obtain ⟨x, hx⟩ : ∃ x, x = s.setFe f { s.fe f with idleRoute := false, slot := false, running := false } := ⟨_, rfl⟩
  have hstart : s.OnlyFront x := by
    rw [hx]
    exact ⟨rfl, fun _ _ => rfl⟩
  rw [← hx]
  obtain ⟨y, hy⟩ : ∃ y, y = (x.raise (feBase f) F.CH_CAL_STAT_ABORTED).setF (feBase f) F.CH_CAL_STAT_PHASE 7 := ⟨_, rfl⟩
  have hflags : s.OnlyFront y := by
    rw [hy]
    exact (hstart.trans (x.setF_calStat_onlyFront f (by rfl) 1)).trans (State.setF_calStat_onlyFront _ f (by rfl) 7)
  rw [← hy]
  split
  · exact hflags.trans (y.modChan_onlyFront n _)
  · exact hflags

theorem State.breakIdle_onlyFront (s : State) (n : Ch) : s.OnlyFront (s.breakIdle n) := by
  unfold State.breakIdle
  dsimp only
  split
  · exact s.abandonThrOf_onlyFront _ n
  · exact .refl s

/-! ### ARM -/

/-- The unit's channels break their idle conditions, and the unit starts a new run. -/
def State.startRun (u : Unit16) (s : State) : State :=
  (s.forAll (s.tuChs u) fun n s => s.breakIdle n).modTu u fun x => { x with missed := 0, count := 0, event := none }

/-- The unit as a run starts with it. -/
structure State.RunStarted (u : Unit16) (s t : State) : Prop where
  frame : s.OnlyArming u t
  setup : s.SameSetup t
  unit : t.tu u = { s.tu u with missed := 0, count := 0, event := none }

theorem State.startRun_started (s : State) (u : Unit16) : s.RunStarted u (s.startRun u) := by
  obtain ⟨x, hx⟩ : ∃ x, x = s.forAll (s.tuChs u) fun n s => s.breakIdle n := ⟨_, rfl⟩
  have hfront : s.OnlyFront x := hx ▸ State.forAll_rel State.OnlyFront.refl (fun h g => h.trans g) (fun n _ y => y.breakIdle_onlyFront n) s
  have htu : x.tu u = s.tu u := by rw [State.tu, hfront.units]; rfl
  rw [State.startRun, ← hx]
  refine ⟨(hfront.arming u).trans (.ofUnit ((State.OnlyUnit.refl u [] x).modTu _)), hfront.setup.trans fun _ _ => rfl, ?_⟩
  rw [State.tu_modTu_same, htu]

theorem State.arm_refused (hst : s.tuState u = tuIdle) (h : s.ready = false) : s.arm u = s.raise (tuBase u) F.TRG_TU_STAT_CFG_REJ := by
  unfold State.arm
  rw [if_neg (not_not.2 hst), if_pos (by rw [h]; rfl)]

theorem State.arm_ready (hst : s.tuState u = tuIdle) (h : s.ready = true) :
    s.arm u = if (s.applyTu u).tuRejects u then (s.applyTu u).raise (tuBase u) F.TRG_TU_STAT_CFG_REJ
      else ((s.applyTu u).startRun u).enterArmed u s.now 0 := by
  have hnow : ((s.applyTu u).forAll ((s.applyTu u).tuChs u) fun n s => s.breakIdle n).now = s.now := by
    have hfront := State.forAll_rel State.OnlyFront.refl (fun h g => h.trans g) (fun n (_ : n ∈ (s.applyTu u).tuChs u) y => y.breakIdle_onlyFront n)
      (s.applyTu u)
    refine hfront.now.trans ?_
    unfold State.now
    rw [(s.applyTu_onlyArming u).clk]
  unfold State.arm
  rw [if_neg (not_not.2 hst), if_neg (by rw [h]; exact Bool.false_ne_true)]
  dsimp only
  rw [hnow]
  rfl

theorem State.raise_cfgRej_onlyUnit (s : State) (u : Unit16) : s.OnlyUnit u [tuBase u + R.TRG_TU_STAT] (s.raise (tuBase u) F.TRG_TU_STAT_CFG_REJ) :=
  (State.OnlyUnit.refl u _ s).setF _ (by simp)

theorem State.ready_reach (s : State) (n : Nat) : (s.reach n).ready = s.ready := State.fb_reach ..

/-- ARM of an IDLE unit. -/
theorem arm_idle (hs : s.Serves) (hst : s.tuState u = tuIdle) :
    ∃ t, exec (.arm u) s = .next t ∧ t.clk = (s.reach s.mclkNext).clk ∧
      (s.ready = false → t.fb (tuBase u) F.TRG_TU_STAT_CFG_REJ = true ∧ t.units = s.units) ∧
      (s.ready = true → ((s.reach s.mclkNext).applyTu u).tuRejects u = true →
        t.fb (tuBase u) F.TRG_TU_STAT_CFG_REJ = true ∧ t.tuState u = tuIdle ∧ t.units = s.units) ∧
      (s.ready = true → ((s.reach s.mclkNext).applyTu u).tuRejects u = false → t.lacksSeg u = false →
        t.tuState u = tuArmed ∧ (t.tu u).armAt = (s.reach s.mclkNext).now ∧
        (t.tu u).rings.map Ring.ch = ((s.reach s.mclkNext).applyTu u).tuChs u ∧
        (∀ r ∈ (t.tu u).rings, r.items = [] ∧ r.closed = none) ∧ (t.tu u).missed = 0 ∧ (t.tu u).count = 0) ∧
      (s.ready = true → ((s.reach s.mclkNext).applyTu u).tuRejects u = false → t.lacksSeg u = true →
        t.tuState u = tuRearm ∧ t.fb (tuBase u) F.TRG_TU_STAT_FULL = true) ∧
      ((s.tu u).records = [] → (t.tu u).records = []) ∧
      (∀ v : Unit16, v ≠ u → t.tu v = s.tu v) ∧ s.SameMemory t := by
  obtain ⟨x, hx⟩ : ∃ x, x = s.reach s.mclkNext := ⟨_, rfl⟩
  have hxst : x.tuState u = tuIdle := hx ▸ (s.tuState_reach _ u).trans hst
  have hxready : x.ready = s.ready := hx ▸ s.ready_reach _
  have hxtu (v : Unit16) : x.tu v = s.tu v := hx ▸ s.tu_reach _ v
  have hxunits : x.units = s.units := hx ▸ s.reach_units _
  have hxmem : s.SameMemory x := hx ▸ s.sameMemory_reach _
  obtain ⟨y, hy⟩ : ∃ y, y = x.applyTu u := ⟨_, rfl⟩
  have hyarm : x.OnlyArming u y := hy ▸ x.applyTu_onlyArming u
  have hytu (v : Unit16) : y.tu v = s.tu v := (hy ▸ x.tu_applyTu u v).trans (hxtu v)
  have hyunits : y.units = s.units := by
    rw [hy, (x.applyTu_onlyRegs u).1]
    exact hxunits
  obtain ⟨d, hd⟩ : ∃ d, d = x.arm u := ⟨_, rfl⟩
  refine ⟨_, exec_arm hs u, ?_⟩
  rw [if_pos hst, ← hx, ← hy, ← hd, State.tuState_modPath, State.fb_modPath, State.fb_modPath, State.tu_modPath]
  cases hready : s.ready with
  | false =>
    have hdeq : d = x.raise (tuBase u) F.TRG_TU_STAT_CFG_REJ := hd.trans (State.arm_refused hxst (hxready.trans hready))
    have hframe : x.OnlyArming u d := hdeq ▸ .ofUnit (x.raise_cfgRej_onlyUnit u)
    have hdunits : d.units = s.units := hdeq ▸ (x.raise_units _ _).trans hxunits
    have hflag : d.fb (tuBase u) F.TRG_TU_STAT_CFG_REJ = true := hdeq ▸ (x.raise_cfgRej u).2
    refine ⟨hframe.clk, fun _ => ⟨hflag, hdunits⟩, nofun, nofun, nofun, fun h => ?_, fun v hv => (hframe.others v hv).trans (hxtu v),
      hxmem.trans hframe.memory⟩
    rw [State.tu, hdunits]
    exact h
  | true =>
    have hdeq := hd.trans (State.arm_ready hxst (hxready.trans hready))
    rw [← hy] at hdeq
    cases hrej : y.tuRejects u with
    | true =>
      rw [hrej, if_pos rfl] at hdeq
      have hframe : x.OnlyArming u d := hyarm.trans (hdeq ▸ .ofUnit (y.raise_cfgRej_onlyUnit u))
      have hdunits : d.units = s.units := hdeq ▸ (y.raise_units _ _).trans hyunits
      have hflag : d.fb (tuBase u) F.TRG_TU_STAT_CFG_REJ = true := hdeq ▸ (y.raise_cfgRej u).2
      have hstate : d.tuState u = tuIdle := hdeq ▸ (y.raise_cfgRej u).1.trans (hy ▸ (x.tuState_applyTu u).trans hxst)
      refine ⟨hframe.clk, nofun, fun _ _ => ⟨hflag, hstate, hdunits⟩, nofun, nofun, fun h => ?_, fun v hv => (hframe.others v hv).trans (hxtu v),
        hxmem.trans hframe.memory⟩
      rw [State.tu, hdunits]
      exact h
    | false =>
      rw [hrej, if_neg Bool.false_ne_true] at hdeq
      have hrun := y.startRun_started u
      have harm := (y.startRun u).enterArmed_armedOrWaits u x.now 0
      rw [← hdeq] at harm
      have hframe := (hyarm.trans hrun.frame).trans harm.frame
      refine ⟨hframe.clk, nofun, nofun, fun _ _ hl => ?_, fun _ _ hl => harm.waits hl, fun h => harm.records ?_,
        fun v hv => (hframe.others v hv).trans (hxtu v), hxmem.trans hframe.memory⟩
      · obtain ⟨hstate, -, hat, hchs, hrings⟩ := harm.armed hl
        refine ⟨hstate, hat, hchs.trans (hrun.setup.tuChs u), hrings, ?_, ?_⟩
        · rw [harm.missed, hrun.unit]
        · rw [harm.count, hrun.unit]
      · rw [hrun.unit, hytu]
        exact h

/-- Settles O33: each clause is the lemma of its command and state above. -/
theorem unitsArmCloseAndRearm : Obligations.UnitsArmCloseAndRearm := by
  unfold Obligations.UnitsArmCloseAndRearm
  refine ⟨?_, ?_, ?_, ?_, ?_, ?_, ?_, ?_, ?_, ?_, ?_, ?_⟩
  · exact fun s u hs h => arm_idle hs h
  · exact fun s u hs h => arm_elsewhere hs h
  · exact fun s u hs h => disarm_armed hs h
  · exact fun s u hs h => disarm_post hs h
  · exact fun s u hs h => disarm_rearm hs h
  · exact fun s u hs h => disarm_idle hs h
  · exact fun s u e due hst he hd => recordPostTime_closes hst he hd
  · exact fun s u h => ⟨_, rfl, State.postTime_idle h⟩
  · exact fun s u e r hst he hr hd hm hp ho => rearmDone_stores hst he hr hd hm hp ho
  · exact fun s u hst he hd hm => rearmDone_last hst he hd hm
  · exact fun s u hst hd hm => rearmDone_again hst hd hm
  · exact fun s u h => ⟨_, rfl, State.rearm_elsewhere h⟩

end Sys2Proof.Machine
end

section
/-!
SUPPORT. A time domain's parts: its registers, its engine beside them and its map, and what each of its updates shows
and leaves (R46, R47, R254-R257).
-/

namespace Sys2Proof.Machine

variable {s t : State} {d e : Dom} {l : List Nat} {f g : Fld}

/-! ### Reads of a domain's registers -/

/-- A field of another register of the same block reads as before. -/
theorem State.f_setF_reg (s : State) (b v : Nat) (h : g.addr ≠ f.addr) : (s.setF b g v).f b f = s.f b f :=
  State.f_setF_other _ _ (by omega)

@[simp] theorem State.f_setDom (s : State) (d : Dom) (x : DomSt) (b : Nat) (f : Fld) : (s.setDom d x).f b f = s.f b f := rfl
@[simp] theorem State.f_modDom (s : State) (d : Dom) (g : DomSt → DomSt) (b : Nat) (f : Fld) : (s.modDom d g).f b f = s.f b f := rfl
@[simp] theorem State.w_modDom (s : State) (d : Dom) (g : DomSt → DomSt) (a : Nat) : (s.modDom d g).w a = s.w a := rfl
@[simp] theorem State.pair_modDom (s : State) (d : Dom) (g : DomSt → DomSt) (a : Nat) : (s.modDom d g).pair a = s.pair a := rfl

theorem State.f_setPair (s : State) {a : Nat} (v : Nat) {b : Nat} (h : a ≠ b + f.addr) (h' : a + 4 ≠ b + f.addr) : (s.setPair a v).f b f = s.f b f := by
  rw [State.f, State.w_setPair, if_neg h', if_neg h, State.f]

/-- A pair reads back what was put there, within 64 bits. -/
theorem State.pair_setPair (s : State) (a : Nat) {v : Nat} (h : v < 2 ^ 64) : (s.setPair a v).pair a = v := by
  rw [State.pair, State.w_setPair, State.w_setPair, if_neg (by omega), if_pos rfl, if_pos rfl, BitVec.toNat_ofNat, BitVec.toNat_ofNat]
  omega

/-- A pair apart from the one put reads as before. -/
theorem State.pair_setPair_apart (s : State) {a b : Nat} (v : Nat) (h : a + 4 < b ∨ b + 4 < a) : (s.setPair a v).pair b = s.pair b := by
  rw [State.pair, State.w_setPair, State.w_setPair, if_neg (by omega), if_neg (by omega), if_neg (by omega), if_neg (by omega), State.pair]

/-- A pair reads as before where a field of another register is put. -/
theorem State.pair_setF (s : State) {a b v : Nat} (h : b + f.addr ≠ a) (h' : b + f.addr ≠ a + 4) : (s.setF b f v).pair a = s.pair a := by
  rw [State.pair, State.w_setF_other _ h, State.w_setF_other _ h', State.pair]

/-! ### A domain's engine -/

@[simp] theorem State.dom_setDom (s : State) (d : Dom) (x : DomSt) : (s.setDom d x).dom d = x := by simp [State.dom, State.setDom]

theorem State.dom_setDom_other (s : State) (x : DomSt) (h : e ≠ d) : (s.setDom d x).dom e = s.dom e := by
  simp only [State.dom, State.setDom, Fin.getElem_fin]
  rw [Vector.getElem_set_ne _ _ fun k => h (Fin.ext k).symm]

@[simp] theorem State.dom_modDom (s : State) (d : Dom) (g : DomSt → DomSt) : (s.modDom d g).dom d = g (s.dom d) := s.dom_setDom d _

@[simp] theorem State.dom_setF (s : State) (b : Nat) (f : Fld) (v : Nat) (d : Dom) : (s.setF b f v).dom d = s.dom d := rfl
@[simp] theorem State.dom_setPair (s : State) (a v : Nat) (d : Dom) : (s.setPair a v).dom d = s.dom d := rfl
@[simp] theorem State.domMap_setF (s : State) (b : Nat) (f : Fld) (v : Nat) (d : Dom) : (s.setF b f v).domMap d = s.domMap d := rfl

/-! ### What updates leave alone -/

/-- Domain d's engine and registers at the listed addresses may differ, and nothing else. -/
structure State.OnlyDom (d : Dom) (l : List Nat) (s t : State) : Prop where
  stands : t = { s with regs := t.regs, net := t.net }
  others : ∀ e : Dom, e ≠ d → t.dom e = s.dom e
  words : ∀ a, a ∉ l → t.w a = s.w a

namespace State.OnlyDom

theorem refl (d : Dom) (l : List Nat) (s : State) : s.OnlyDom d l s := ⟨rfl, fun _ _ => rfl, fun _ _ => rfl⟩

theorem setF (h : s.OnlyDom d l t) {b : Nat} (v : Nat) (ha : b + f.addr ∈ l) : s.OnlyDom d l (t.setF b f v) :=
  ⟨by rw [h.stands]; rfl, h.others, fun a hl => (State.w_setF_other t (ne_of_mem_of_not_mem ha hl)).trans (h.words a hl)⟩

theorem setDmPair (h : s.OnlyDom d l t) {a : Nat} (v : Int) (ha : dmBase d.val + a ∈ l) (hb : dmBase d.val + a + 4 ∈ l) :
    s.OnlyDom d l (t.setDmPair d a v) := by
  refine ⟨by rw [h.stands]; rfl, h.others, fun b hl => ?_⟩
  rw [State.setDmPair, State.w_setPair, if_neg (ne_of_mem_of_not_mem hb hl), if_neg (ne_of_mem_of_not_mem ha hl), h.words b hl]

theorem modDom (h : s.OnlyDom d l t) (g : DomSt → DomSt) : s.OnlyDom d l (t.modDom d g) :=
  ⟨by rw [h.stands]; rfl, fun e he => (State.dom_setDom_other t _ he).trans (h.others e he), h.words⟩

theorem domMap (h : s.OnlyDom d l t) (e : Dom) : t.domMap e = s.domMap e := by rw [h.stands]; rfl

/-- With the answer of the writing path. -/
theorem modPath (h : s.OnlyDom d l t) (p : Path) (g : PathSt → PathSt) :
    (t.modPath p g).domMap d = s.domMap d ∧ (∀ e : Dom, e ≠ d → (t.modPath p g).dom e = s.dom e) ∧
      (∀ a, a ∉ l → (t.modPath p g).w a = s.w a) ∧
      t.modPath p g = { s with regs := (t.modPath p g).regs, net := (t.modPath p g).net, paths := (t.modPath p g).paths } :=
  ⟨h.domMap d, h.others, h.words, by rw [h.stands]; rfl⟩

end State.OnlyDom

end Sys2Proof.Machine
end

section
/-!
PROOFS. ACCEPT, ABSORB and REJECT of a pending step, and the second at which an accepted one applies (R47, R256, R257).
-/

namespace Sys2Proof.Machine

variable {s t : State} {d e : Dom} {l : List Nat} {f g : Fld}

/-! ### STATE, HREASON and the pending step -/

theorem State.goDom_shows (s : State) (d : Dom) {st hr : Nat} (hst : st < 2 ^ 4) (hhr : hr < 2 ^ 3) :
    (s.goDom d st hr).domState d = st ∧ (s.goDom d st hr).dm d F.PTP_STAT_HREASON = hr := by
  simp (disch := decide) only [State.goDom, State.domState, State.dm, State.setDm, State.f_setF_apart, State.f_setF]
  exact ⟨Nat.mod_eq_of_lt hst, Nat.mod_eq_of_lt hhr⟩

/-- Fields of one register that lie apart. -/
abbrev Fld.Apart (f g : Fld) : Prop := g.addr = f.addr ∧ f.lo + f.len ≤ 32 ∧ g.lo + g.len ≤ 32 ∧ (f.lo + f.len ≤ g.lo ∨ g.lo + g.len ≤ f.lo)

theorem State.f_setF_of_apart (s : State) (b v : Nat) (h : f.Apart g) : (s.setF b g v).f b f = s.f b f := by
  obtain ⟨ha, hf, hg, h⟩ := h
  exact State.f_setF_apart s v ha hf hg h

theorem State.dm_setF_of_apart (s : State) (d : Dom) (v : Nat) (h : f.Apart g) : (s.setF (dmBase d.val) g v).dm d f = s.dm d f :=
  s.f_setF_of_apart _ v h

/-- The flags of PTP_STAT below HREASON stand where STATE changes. -/
theorem State.dm_goDom (s : State) (d : Dom) (st hr : Nat) (ha : f.addr = R.PTP_STAT) (hf : f.lo + f.len ≤ 25) :
    (s.goDom d st hr).dm d f = s.dm d f := by
  unfold State.goDom State.dm State.setDm
  rw [State.f_setF_apart _ _ ha.symm (by omega) (by decide) (.inl hf), State.f_setF_apart _ _ ha.symm (by omega) (by decide) (.inl (by simp; omega))]

@[simp] theorem State.dom_modPath (s : State) (p : Path) (g : PathSt → PathSt) (d : Dom) : (s.modPath p g).dom d = s.dom d := rfl

@[simp] theorem State.pair_modPath (s : State) (p : Path) (g : PathSt → PathSt) (a : Nat) : (s.modPath p g).pair a = s.pair a := by
  rw [State.pair, State.w_modPath, State.w_modPath, State.pair]

theorem State.modDom_modDom (s : State) (d : Dom) (g k : DomSt → DomSt) : (s.modDom d g).modDom d k = s.modDom d fun x => k (g x) := by
  simp only [State.modDom, State.dom_setDom]
  simp [State.setDom]

@[simp] theorem State.dm_modDom (s : State) (d e : Dom) (g : DomSt → DomSt) (f : Fld) : (s.modDom d g).dm e f = s.dm e f := rfl
@[simp] theorem State.dmPair_modDom (s : State) (d e : Dom) (g : DomSt → DomSt) (a : Nat) : (s.modDom d g).dmPair e a = s.dmPair e a := rfl

/-- A pair of a domain's block lies apart from PTP_STAT. -/
theorem State.pair_setStat (s : State) (d : Dom) {a v : Nat} (ha : f.addr = R.PTP_STAT) (h : R.PTP_PEND_H ≤ a) :
    (s.setF (dmBase d.val) f v).pair (dmBase d.val + a) = s.pair (dmBase d.val + a) := by
  have hstat : f.addr < R.PTP_PEND_H := by rw [ha]; decide
  exact State.pair_setF s (by omega) (by omega)

theorem State.dmPair_goDom (s : State) (d : Dom) (st hr : Nat) {a : Nat} (h : R.PTP_PEND_H ≤ a) :
    (s.goDom d st hr).dmPair d a = s.dmPair d a := by
  rw [State.dmPair, State.goDom, State.setDm, State.setDm, State.pair_setStat _ _ rfl h, State.pair_setStat _ _ rfl h, State.dmPair]

theorem State.pair_setDmPair (s : State) (d : Dom) (a : Nat) (v : Int) :
    (s.setDmPair d a v).pair (dmBase d.val + a) = (v % (2 ^ 64 : Int)).toNat :=
  State.pair_setPair _ _ (by omega)

/-- Without a pending step PTP_PEND reads 0 and PEND is clear. -/
theorem State.setPend_none (s : State) (d : Dom) :
    (s.setPend d none).dom d = { s.dom d with pend := none } ∧ (s.setPend d none).dmPair d R.PTP_PEND_H = 0 ∧
      (s.setPend d none).dm d F.PTP_STAT_PEND = 0 := by
  unfold State.setPend
  refine ⟨?_, ?_, ?_⟩
  · rw [State.setB, State.dom_setF, State.setDmPair, State.dom_setPair, State.dom_modDom]
    rfl
  · rw [State.dmPair, State.setB, State.pair_setStat _ _ rfl (by decide), State.pair_setDmPair]
    rfl
  · rw [State.dm, State.setB, State.f_setF _ _ _ _ (by decide)]
    rfl

theorem State.OnlyDom.setPend (h : s.OnlyDom d l t) (v : Option Int) (hs : dmBase d.val + R.PTP_STAT ∈ l) (hp : dmBase d.val + R.PTP_PEND_H ∈ l)
    (hq : dmBase d.val + R.PTP_PEND_H + 4 ∈ l) : s.OnlyDom d l (t.setPend d v) :=
  ((h.modDom _).setDmPair _ hp hq).setF _ hs

theorem State.OnlyDom.goDom (h : s.OnlyDom d l t) (st hr : Nat) (hs : dmBase d.val + R.PTP_STAT ∈ l) : s.OnlyDom d l (t.goDom d st hr) :=
  (h.setF _ hs).setF _ hs

/-- The step is dropped, accepted or not, and nothing is measured with it: what ABSORB, REJECT and its application share. -/
structure State.StepDropped (d : Dom) (st hr : Nat) (t : State) : Prop where
  pend : t.dm d F.PTP_STAT_PEND = 0
  pair : t.dmPair d R.PTP_PEND_H = 0
  state : t.domState d = st
  reason : t.dm d F.PTP_STAT_HREASON = hr

theorem State.StepDropped.goDom (g : DomSt → DomSt) {st hr : Nat} (hst : st < 2 ^ 4) (hhr : hr < 2 ^ 3)
    (hpend : s.dm d F.PTP_STAT_PEND = 0) (hpair : s.dmPair d R.PTP_PEND_H = 0) : State.StepDropped d st hr ((s.modDom d g).goDom d st hr) := by
  obtain ⟨hstate, hreason⟩ := (s.modDom d g).goDom_shows d hst hhr
  refine ⟨?_, ?_, hstate, hreason⟩
  · rw [State.dm_goDom _ d st hr rfl (by decide), State.dm_modDom, hpend]
  · rw [State.dmPair_goDom _ d st hr (by decide), State.dmPair_modDom, hpair]

theorem State.StepDropped.modPath {st hr : Nat} (h : State.StepDropped d st hr t) (p : Path) (g : PathSt → PathSt) :
    State.StepDropped d st hr (t.modPath p g) := ⟨h.pend, h.pair, h.state, h.reason⟩

/-- Going back to ACQUIRE without the pending step: where ABSORB and the application of a step end. -/
def State.measureAgain (d : Dom) (s : State) : State :=
  ((s.setPend d none).modDom d fun x => { x with accepted := none, check := none, good := 0 }).goDom d domAcquire hrNone

theorem State.resume_dropped (s : State) (d : Dom) :
    ((s.setPend d none).modDom d fun x => { x with accepted := none }).resume d domAcquire = s.measureAgain d := by
  rw [State.resume, State.modDom_modDom]
  rfl

theorem State.measureAgain_dropped (s : State) (d : Dom) : State.StepDropped d domAcquire hrNone (s.measureAgain d) := by
  obtain ⟨-, hpair, hpend⟩ := s.setPend_none d
  exact .goDom _ (by decide) (by decide) hpend hpair

theorem State.dom_goDom (s : State) (d e : Dom) (st hr : Nat) : (s.goDom d st hr).dom e = s.dom e := by
  rw [State.goDom, State.setDm, State.setDm, State.dom_setF, State.dom_setF]

theorem State.dom_measureAgain (s : State) (d : Dom) :
    (s.measureAgain d).dom d = { s.dom d with pend := none, accepted := none, check := none, good := 0 } := by
  rw [State.measureAgain, State.dom_goDom, State.dom_modDom, (s.setPend_none d).1]

theorem State.OnlyDom.measureAgain (h : s.OnlyDom d l t) (hs : dmBase d.val + R.PTP_STAT ∈ l) (hp : dmBase d.val + R.PTP_PEND_H ∈ l)
    (hq : dmBase d.val + R.PTP_PEND_H + 4 ∈ l) : s.OnlyDom d l (t.measureAgain d) :=
  ((h.setPend none hs hp hq).modDom _).goDom _ _ hs

/-! ### PTP_CMD -/

/-- The host's write of a bit of PTP_CMD is that command, with the path's answer. -/
theorem State.wrCmd_ptp (hs : s.Serves) (d : Dom) (f : Fld) :
    s.wrCmd (dmBase d.val + R.PTP_CMD) f = (s.ptpCmd d (f.into 0#32 1)).modPath .host fun x => { x with resp := 0 } := by
  obtain ⟨r, hr, hg, hrw, -⟩ := row_PTP_CMD
  have hl := locate_dom d.isLt (off := R.PTP_CMD) (by decide)
  have hd : domOf d.val = d := Fin.ext (Nat.mod_eq_of_lt d.isLt)
  have hne (k : Nat) (hk : k < 0x5100 ∨ 0x5200 ≤ k) : dmBase d.val + R.PTP_CMD ≠ k := by
    have := d.isLt
    have : R.PTP_CMD = 0x14 := rfl
    unfold dmBase
    omega
  have h4 : (dmBase d.val + R.PTP_CMD) % 4 = 0 := by
    have : R.PTP_CMD = 0x14 := rfl
    unfold dmBase
    omega
  rw [State.wrCmd_unguarded hs h4 (hne _ (by decide)) (hne _ (by decide)) (hne _ (by decide)) (by simp [hl])
    ((rowAt_dom d.isLt (by decide)).trans hr) hg hrw]
  simp only [State.writeOwn, hl, hd]
  rfl

/-- A refused command sets CMD_REJ. -/
theorem State.cmdRejected (s : State) (d : Dom) (g : PathSt → PathSt) :
    ((s.raiseDm d F.PTP_STAT_CMD_REJ).modPath .host g).dm d F.PTP_STAT_CMD_REJ = 1 ∧
      s.OnlyRegsOf .host ((s.raiseDm d F.PTP_STAT_CMD_REJ).modPath .host g) [dmBase d.val + R.PTP_STAT] := by
  refine ⟨?_, ((State.OnlyRegs.refl s _).raise (by simp)).modPath _ _⟩
  rw [State.dm, State.f_modPath, State.raiseDm, State.raise, State.f_setF _ _ _ _ (by decide)]
  rfl

theorem State.ptpCmd_accept (s : State) (d : Dom) : s.ptpCmd d (F.PTP_CMD_ACCEPT.into 0#32 1) = s.ptpAccept d := by
  rw [State.ptpCmd, if_neg (by decide), if_neg (by decide), if_pos (by decide)]

theorem State.ptpCmd_absorb (s : State) (d : Dom) : s.ptpCmd d (F.PTP_CMD_ABSORB.into 0#32 1) = s.ptpAbsorb d := by
  rw [State.ptpCmd, if_neg (by decide), if_pos (by decide), if_neg (by decide)]

theorem State.ptpCmd_reject (s : State) (d : Dom) : s.ptpCmd d (F.PTP_CMD_REJECT.into 0#32 1) = s.ptpReject d := by
  rw [State.ptpCmd, if_pos (by decide), if_neg (by decide), if_neg (by decide)]

theorem accept_fixes {mp : DomMap} (hs : s.Serves) (hp : s.pending? d = true) (ha : (s.dom d).accepted = none) (hm : s.domMap d = some mp) :
    ∃ t, exec (.accept d) s = .next t ∧
      t.dom d = { s.dom d with accepted := some (s.dmPair d R.PTP_PEND_H, ((mp.at s.now).fdiv domSec + 1) * domSec) } ∧
      t.domMap d = some mp ∧ (∀ e : Dom, e ≠ d → t.dom e = s.dom e) ∧ t = { s with net := t.net, paths := t.paths } := by
  refine ⟨_, rfl, ?_⟩
  have e : s.ptpCmd d (F.PTP_CMD_ACCEPT.into 0#32 1) = s.modDom d fun x =>
      { x with accepted := some (s.dmPair d R.PTP_PEND_H, ((mp.at s.now).fdiv domSec + 1) * domSec) } := by
    rw [State.ptpCmd_accept, State.ptpAccept, if_pos (by simp [hp, ha]), State.acceptStep, hm]
  rw [State.wrCmd_ptp hs, e]
  refine ⟨?_, hm, fun e he => State.dom_setDom_other s _ he, rfl⟩
  rw [State.dom_modPath, State.dom_modDom]

/-- Without a map there is no domain second to wait for. -/
theorem accept_unmapped (hs : s.Serves) (hp : s.pending? d = true) (ha : (s.dom d).accepted = none) (hm : s.domMap d = none) :
    ∃ t, exec (.accept d) s = .next t ∧ s.OnlyRegsOf .host t [] := by
  refine ⟨_, rfl, ?_⟩
  rw [State.wrCmd_ptp hs, State.ptpCmd_accept, State.ptpAccept, if_pos (by simp [hp, ha]), State.acceptStep, hm]
  exact (State.OnlyRegs.refl s []).modPath _ _

theorem accept_refused (hs : s.Serves) (h : s.pending? d = false ∨ (s.dom d).accepted.isSome = true) :
    ∃ t, exec (.accept d) s = .next t ∧ t.dm d F.PTP_STAT_CMD_REJ = 1 ∧ s.OnlyRegsOf .host t [dmBase d.val + R.PTP_STAT] := by
  have hno : ¬(s.pending? d && (s.dom d).accepted.isNone) = true := by
    rcases h with h | h
    · simp [h]
    · simp [Option.isSome_iff_ne_none.1 h]
  refine ⟨_, rfl, ?_⟩
  rw [State.wrCmd_ptp hs, State.ptpCmd_accept, State.ptpAccept, if_neg hno]
  exact s.cmdRejected d _

/-! ### ABSORB and REJECT -/

/-- The pending step as asymmetry (R257). -/
def State.absorbed (d : Dom) (s : State) : State :=
  (s.setDmPair d R.PTP_ASYM_H (s.dmPair d R.PTP_ASYM_H - s.dmPair d R.PTP_PEND_H)).measureAgain d

theorem State.ptpAbsorb_pending (h : s.pending? d = true) : s.ptpAbsorb d = s.absorbed d := by
  rw [State.ptpAbsorb, if_pos h, State.absorbed, ← State.resume_dropped]

/-- The pairs of a domain's block at PTP_ASYM and beyond stand where a step is dropped. -/
theorem State.pair_measureAgain (s : State) (d : Dom) {a : Nat} (h : R.PTP_PEND_H + 4 < a) :
    (s.measureAgain d).pair (dmBase d.val + a) = s.pair (dmBase d.val + a) := by
  have hp : R.PTP_PEND_H ≤ a := by omega
  unfold State.measureAgain State.goDom State.setDm State.setPend State.setB State.setDmPair
  dsimp only
  rw [State.pair_setStat _ _ rfl hp, State.pair_setStat _ _ rfl hp, State.pair_modDom, State.pair_setStat _ _ rfl hp,
    State.pair_setPair_apart _ _ (by omega), State.pair_modDom]

theorem absorb_pending (hs : s.Serves) (hp : s.pending? d = true) :
    ∃ t, exec (.absorb d) s = .next t ∧
      t.pair (dmBase d.val + R.PTP_ASYM_H) = ((s.dmPair d R.PTP_ASYM_H - s.dmPair d R.PTP_PEND_H) % (2 ^ 64 : Int)).toNat ∧
      t.dmPair d R.PTP_PEND_H = 0 ∧ t.dm d F.PTP_STAT_PEND = 0 ∧ t.domState d = domAcquire ∧ t.dm d F.PTP_STAT_HREASON = hrNone ∧
      t.dom d = { s.dom d with pend := none, accepted := none, check := none, good := 0 } ∧
      t.domMap d = s.domMap d ∧ (∀ e : Dom, e ≠ d → t.dom e = s.dom e) ∧
      (∀ a, a ∉ [dmBase d.val + R.PTP_STAT, dmBase d.val + R.PTP_ASYM_H, dmBase d.val + R.PTP_ASYM_H + 4, dmBase d.val + R.PTP_PEND_H,
        dmBase d.val + R.PTP_PEND_H + 4] → t.w a = s.w a) ∧ t = { s with regs := t.regs, net := t.net, paths := t.paths } := by
  have hasym : (s.absorbed d).pair (dmBase d.val + R.PTP_ASYM_H) =
      ((s.dmPair d R.PTP_ASYM_H - s.dmPair d R.PTP_PEND_H) % (2 ^ 64 : Int)).toNat := by
    rw [State.absorbed, State.pair_measureAgain _ d (by decide), State.pair_setDmPair]
  have hdom : (s.absorbed d).dom d = { s.dom d with pend := none, accepted := none, check := none, good := 0 } := by
    rw [State.absorbed, State.dom_measureAgain, State.setDmPair, State.dom_setPair]
  have hframe : s.OnlyDom d [dmBase d.val + R.PTP_STAT, dmBase d.val + R.PTP_ASYM_H, dmBase d.val + R.PTP_ASYM_H + 4, dmBase d.val + R.PTP_PEND_H,
      dmBase d.val + R.PTP_PEND_H + 4] (s.absorbed d) :=
    ((State.OnlyDom.refl d _ s).setDmPair _ (by simp) (by simp)).measureAgain (by simp) (by simp) (by simp)
  have hdrop : State.StepDropped d domAcquire hrNone (s.absorbed d) := State.measureAgain_dropped _ d
  refine ⟨_, rfl, ?_⟩
  rw [State.wrCmd_ptp hs, State.ptpCmd_absorb, State.ptpAbsorb_pending hp]
  obtain ⟨hpend, hpair, hstate, hreason⟩ := hdrop.modPath .host fun x => { x with resp := 0 }
  exact ⟨(State.pair_modPath ..).trans hasym, hpair, hpend, hstate, hreason, (State.dom_modPath ..).trans hdom, hframe.modPath _ _⟩

theorem absorb_refused (hs : s.Serves) (hp : s.pending? d = false) :
    ∃ t, exec (.absorb d) s = .next t ∧ t.dm d F.PTP_STAT_CMD_REJ = 1 ∧ s.OnlyRegsOf .host t [dmBase d.val + R.PTP_STAT] := by
  refine ⟨_, rfl, ?_⟩
  rw [State.wrCmd_ptp hs, State.ptpCmd_absorb, State.ptpAbsorb, if_neg (by simp [hp])]
  exact s.cmdRejected d _

/-- The pending step dropped, in holdover (R257). -/
def State.rejected (d : Dom) (s : State) : State :=
  ((s.setPend d none).modDom d fun x => { x with accepted := none, check := none }).goDom d domHoldover hrRejected

theorem reject_pending (hs : s.Serves) (hp : s.pending? d = true) :
    ∃ t, exec (.reject d) s = .next t ∧ t.dmPair d R.PTP_PEND_H = 0 ∧ t.dm d F.PTP_STAT_PEND = 0 ∧ t.domState d = domHoldover ∧
      t.dm d F.PTP_STAT_HREASON = hrRejected ∧ t.dom d = { s.dom d with pend := none, accepted := none, check := none } ∧ t.domMap d = s.domMap d ∧
      (∀ e : Dom, e ≠ d → t.dom e = s.dom e) ∧
      (∀ a, a ∉ [dmBase d.val + R.PTP_STAT, dmBase d.val + R.PTP_PEND_H, dmBase d.val + R.PTP_PEND_H + 4] → t.w a = s.w a) ∧
      t = { s with regs := t.regs, net := t.net, paths := t.paths } := by
  obtain ⟨hsame, hpair, hpend⟩ := s.setPend_none d
  have hdrop : State.StepDropped d domHoldover hrRejected (s.rejected d) := .goDom _ (by decide) (by decide) hpend hpair
  have hdom : (s.rejected d).dom d = { s.dom d with pend := none, accepted := none, check := none } := by
    rw [State.rejected, State.dom_goDom, State.dom_modDom, hsame]
  have hframe : s.OnlyDom d [dmBase d.val + R.PTP_STAT, dmBase d.val + R.PTP_PEND_H, dmBase d.val + R.PTP_PEND_H + 4] (s.rejected d) :=
    (((State.OnlyDom.refl d _ s).setPend none (by simp) (by simp) (by simp)).modDom _).goDom _ _ (by simp)
  have e : s.ptpReject d = s.rejected d := if_pos hp
  refine ⟨_, rfl, ?_⟩
  rw [State.wrCmd_ptp hs, State.ptpCmd_reject, e]
  obtain ⟨hpend, hpair, hstate, hreason⟩ := hdrop.modPath .host fun x => { x with resp := 0 }
  exact ⟨hpair, hpend, hstate, hreason, (State.dom_modPath ..).trans hdom, hframe.modPath _ _⟩

theorem reject_refused (hs : s.Serves) (hp : s.pending? d = false) :
    ∃ t, exec (.reject d) s = .next t ∧ t.dm d F.PTP_STAT_CMD_REJ = 1 ∧ s.OnlyRegsOf .host t [dmBase d.val + R.PTP_STAT] := by
  refine ⟨_, rfl, ?_⟩
  rw [State.wrCmd_ptp hs, State.ptpCmd_reject, State.ptpReject, if_neg (by simp [hp])]
  exact s.cmdRejected d _

/-! ### The second at which an accepted step applies (R47) -/

/-- A map put into force stands, and heads its log; the other domains' maps stand. -/
theorem State.installMap_shows (s : State) (d : Dom) (m : DomMap) :
    (s.installMap d m).domMap d = some m ∧ (s.installMap d m).mapLogs[d].head? = some m ∧
      ∀ e : Dom, e ≠ d → (s.installMap d m).domMap e = s.domMap e := by
  refine ⟨?_, ?_, fun e he => ?_⟩
  · simp [State.installMap, State.domMap]
  · simp [State.installMap]
  · simp only [State.installMap, State.domMap, Fin.getElem_fin]
    rw [Vector.getElem_set_ne _ _ fun k => he (Fin.ext k).symm]

/-- The map of an accepted step of v at the domain second sec: moved by the step there, and one era on (R47). -/
def DomMap.stepped (m : DomMap) (v sec : Int) : DomMap := ⟨m.reaches sec, sec + v, m.rate, m.era + 1#16⟩

/-- Measuring again with STEP_APPLIED set. -/
def State.stepMade (d : Dom) (s : State) : State := (s.measureAgain d).raiseDm d F.PTP_STAT_STEP_APPLIED

theorem State.stepMade_shows (s : State) (d : Dom) :
    State.StepDropped d domAcquire hrNone (s.stepMade d) ∧ (s.stepMade d).dm d F.PTP_STAT_STEP_APPLIED = 1 ∧
      (s.stepMade d).dom d = { s.dom d with pend := none, accepted := none, check := none, good := 0 } := by
  obtain ⟨hpend, hpair, hstate, hreason⟩ := s.measureAgain_dropped d
  unfold State.stepMade State.raiseDm State.raise
  refine ⟨⟨?_, ?_, ?_, ?_⟩, ?_, ?_⟩
  · rw [State.dm_setF_of_apart _ _ _ (by decide)]
    exact hpend
  · rw [State.dmPair, State.pair_setStat _ _ rfl (by decide)]
    exact hpair
  · rw [State.domState, State.dm_setF_of_apart _ _ _ (by decide)]
    exact hstate
  · rw [State.dm_setF_of_apart _ _ _ (by decide)]
    exact hreason
  · rw [State.dm, State.f_setF _ _ _ _ (by decide)]
    rfl
  · rw [State.dom_setF, State.dom_measureAgain]

theorem State.stepMade_onlyDom (s : State) (d : Dom) :
    s.OnlyDom d [dmBase d.val + R.PTP_STAT, dmBase d.val + R.PTP_PEND_H, dmBase d.val + R.PTP_PEND_H + 4] (s.stepMade d) :=
  ((State.OnlyDom.refl d _ s).measureAgain (by simp) (by simp) (by simp)).setF _ (by simp)

theorem State.stepApply_accepted {mp : DomMap} {v sec : Int} (ha : (s.dom d).accepted = some (v, sec)) (hm : s.domMap d = some mp) :
    s.stepApply d = ((s.reach (mp.reaches sec)).installMap d (mp.stepped v sec)).stepMade d := by
  rw [State.stepApply, ha, hm]
  dsimp only
  rw [State.resume_dropped]
  rfl

@[simp] theorem State.dom_installMap (s : State) (d : Dom) (m : DomMap) (e : Dom) : (s.installMap d m).dom e = s.dom e := rfl

theorem State.dom_reach (s : State) (n : Nat) (d : Dom) : (s.reach n).dom d = s.dom d := by rw [State.dom, State.reach_net, State.dom]

theorem State.domMap_reach (s : State) (n : Nat) (d : Dom) : (s.reach n).domMap d = s.domMap d := by
  rw [State.domMap, State.reach_maps, State.domMap]

theorem State.installMap_stands (s : State) (d : Dom) (m : DomMap) (n : Nat) :
    (s.reach n).installMap d m = { s with
      clk := (s.reach n).clk
      maps := ((s.reach n).installMap d m).maps
      mapLogs := ((s.reach n).installMap d m).mapLogs
      mapLost := ((s.reach n).installMap d m).mapLost } := by
  rw [s.reach_stands n]
  rfl

theorem stepApply_moves {mp : DomMap} {v sec : Int} (ha : (s.dom d).accepted = some (v, sec)) (hm : s.domMap d = some mp) :
    ∃ t, exec (.stepApply d) s = .next t ∧ t.clk = (s.reach (mp.reaches sec)).clk ∧
      t.domMap d = some (mp.stepped v sec) ∧ t.mapLogs[d].head? = t.domMap d ∧
      t.dm d F.PTP_STAT_STEP_APPLIED = 1 ∧ t.dm d F.PTP_STAT_PEND = 0 ∧ t.dmPair d R.PTP_PEND_H = 0 ∧ t.domState d = domAcquire ∧
      t.dm d F.PTP_STAT_HREASON = hrNone ∧ t.dom d = { s.dom d with pend := none, accepted := none, check := none, good := 0 } ∧
      (∀ e : Dom, e ≠ d → t.dom e = s.dom e ∧ t.domMap e = s.domMap e) ∧
      t = { s with regs := t.regs, net := t.net, maps := t.maps, mapLogs := t.mapLogs, mapLost := t.mapLost, clk := t.clk } := by
  refine ⟨s.stepApply d, rfl, ?_⟩
  rw [State.stepApply_accepted ha hm]
  obtain ⟨hmap, hlog, hmaps⟩ := (s.reach (mp.reaches sec)).installMap_shows d (mp.stepped v sec)
  have hmoved := s.installMap_stands d (mp.stepped v sec) (mp.reaches sec)
  have hdoms (e : Dom) : ((s.reach (mp.reaches sec)).installMap d (mp.stepped v sec)).dom e = s.dom e := by
    rw [State.dom_installMap, State.dom_reach]
  simp only [State.domMap_reach] at hmaps
  generalize (s.reach (mp.reaches sec)).installMap d (mp.stepped v sec) = u at *
  obtain ⟨⟨hpend, hpair, hstate, hreason⟩, hflag, hdom⟩ := u.stepMade_shows d
  have hframe := u.stepMade_onlyDom d
  generalize u.stepMade d = t at *
  have hmaps' : t.maps = u.maps := by rw [hframe.stands]
  have hlogs : t.mapLogs = u.mapLogs := by rw [hframe.stands]
  refine ⟨?_, (hframe.domMap d).trans hmap, ?_, hflag, hpend, hpair, hstate, hreason, ?_, fun e he => ⟨?_, ?_⟩, ?_⟩
  · rw [hframe.stands, hmoved]
  · rw [hlogs, hlog, hframe.domMap, hmap]
  · rw [hdom, hdoms]
  · rw [hframe.others e he, hdoms]
  · rw [hframe.domMap, hmaps e he]
  · rw [hframe.stands, hmoved]

/-- Without an accepted step, or a map to move, nothing happens. -/
theorem State.stepApply_waits (h : (s.dom d).accepted = none ∨ s.domMap d = none) : s.stepApply d = s := by
  unfold State.stepApply
  split
  · next ha hm => simp [ha, hm] at h
  · rfl

/-- Settles O53: each clause is the lemma of its command and state above. -/
theorem stepsWaitForTheirCommand : Obligations.StepsWaitForTheirCommand := by
  unfold Obligations.StepsWaitForTheirCommand
  refine ⟨?_, ?_, ?_, ?_, ?_, ?_, ?_, ?_, ?_⟩
  · exact fun s d mp hs hp ha hm => accept_fixes hs hp ha hm
  · exact fun s d hs hp ha hm => accept_unmapped hs hp ha hm
  · exact fun s d hs h => accept_refused hs h
  · exact fun s d hs hp => absorb_pending hs hp
  · exact fun s d hs hp => absorb_refused hs hp
  · exact fun s d hs hp => reject_pending hs hp
  · exact fun s d hs hp => reject_refused hs hp
  · exact fun s d mp v sec ha hm => stepApply_moves ha hm
  · exact fun s d h => ⟨_, rfl, State.stepApply_waits h⟩

end Sys2Proof.Machine
end

section
/-!
PROOFS. Announce and Sync of a time domain (R253-R256): the statement fails in a state whose PEND flag is clear while
a step is pending.
-/

namespace Sys2Proof.Machine

/-- A master whose Sync messages agree with the domain's map. -/
def steadyMaster : MasterData :=
  { id := 0x77#64, port := 1#16, prio1 := 128#8, cls := 6#8, acc := 0x21#8, var := 0x4E5D#16, prio2 := 128#8, gm := 0x77#64, steps := 0#16 }

def zeroMap : DomMap := { anchor := 0, s := 0, rate := 0, era := 0#16 }

/-- A sample whose offset stays far from the last applied one is counted into this step. -/
def pendingOnce : PendSt := { sum := 0, count := 1 }

/-- Domain 0 in holdover with a pending step whose PEND flag is clear: the last applied offset was 1 s, and Sync messages
now agree with the step that PTP_PEND gives. -/
def unflaggedStep : State :=
  ((State.reset.setDm 0 F.PTP_STAT_STATE domHoldover).installMap 0 zeroMap).modDom 0 fun x =>
    { x with selected := some steadyMaster, lastO := some domSec, pend := some pendingOnce }

/-- The Sync is counted into the pending step, and PEND stays clear. -/
theorem unflaggedStep_sync : (unflaggedStep.syncIn 0 .e0 steadyMaster.id 0).dm 0 F.PTP_STAT_PEND = 0 := by decide +kernel

/-- Refutes O52: its SYNC clause for a pending step claims PEND = 1 afterwards, and asks nothing of PEND before. A sample that
is consistent with the pending step leaves PEND as it stands, so in `unflaggedStep` it reads 0. -/
theorem not_domainsFollowTheirMaster : ¬ Obligations.DomainsFollowTheirMaster := by
  unfold Obligations.DomainsFollowTheirMaster
  rintro ⟨-, -, -, -, -, -, -, -, -, hsync, -⟩
  obtain ⟨t, ht, -, -, -, -, hstands, -⟩ := hsync unflaggedStep 0 .e0 steadyMaster zeroMap pendingOnce 0 0 (by decide +kernel)
    (by decide +kernel) (by decide +kernel) (by decide +kernel) (by decide +kernel) (by decide +kernel)
  obtain rfl : unflaggedStep.syncIn 0 .e0 steadyMaster.id 0 = t := Host.Outcome.next.inj ht
  obtain ⟨-, -, hpend, -⟩ := hstands (by decide +kernel) (by decide +kernel)
  rw [unflaggedStep_sync] at hpend
  cases hpend

end Sys2Proof.Machine
end

section
/-!
PROOFS. The qualification of REFIN by windows (R31), and the first lock (R32, R41, R42, R301).
-/

namespace Sys2Proof.Machine

variable {s t : State} {missing toggles : Bool} {f : Nat}

/-! ### Flags -/

/-- A flag of one bit that is raised reads true. -/
theorem State.fb_raise (s : State) (b : Nat) {g : Fld} (h1 : g.len = 1) (h : g.lo < 32) : (s.raise b g).fb b g = true := by
  rw [State.fb, State.raise, State.f_setF _ _ _ _ (by omega), h1]
  rfl

theorem State.fb_setF_of_apart (s : State) (b v : Nat) {g k : Fld} (h : k.Apart g) : (s.setF b g v).fb b k = s.fb b k := by
  rw [State.fb, State.f_setF_of_apart s b v h, State.fb]

theorem State.fb_raise_of_apart (s : State) (b : Nat) {g k : Fld} (h : k.Apart g) : (s.raise b g).fb b k = s.fb b k :=
  s.fb_setF_of_apart b 1 h

theorem State.fb_setF_other (s : State) {b c v : Nat} {g k : Fld} (h : c + g.addr ≠ b + k.addr) : (s.setF c g v).fb b k = s.fb b k := by
  rw [State.fb, State.f_setF_other _ _ h, State.fb]

theorem State.OnlyRegsTb.raise {l : List Nat} (h : s.OnlyRegsTb t l) {b : Nat} {g : Fld} (ha : b + g.addr ∈ l) : s.OnlyRegsTb (t.raise b g) l :=
  h.setF 1 ha

/-! ### Windows of REFIN (R31) -/

/-- The nominals that REFIN may have. -/
def State.refNominals (s : State) : List Nat := nominals (F.TB_SRC_REF_FREQ.of (s.tvW R.TB_SRC))

/-- Whether a window's frequency fits one of them. -/
def State.fitsNominal (s : State) (f : Nat) : Bool := s.refNominals.any fun x => freqFits s.xtalOk f x

/-- The windows kept after one that passes. -/
def State.keptWindows (s : State) (f : Nat) : List Nat := (f :: s.tb.wins).take 3

/-- A window's frequency among those since REF_DRIFT was cleared. -/
def State.freshWindows (s : State) (f : Nat) : List Nat := if s.fb 0 F.TB_STAT_REF_DRIFT then [] else (f :: s.tb.afresh).take 3

/-- A window that does not pass ends the run and clears REF_QUAL. -/
theorem State.refinWindow_fails (ha : s.tbActive ≠ actRefin) (h : missing = true ∨ toggles = false ∨ s.fitsNominal f = false) :
    s.refinWindow missing toggles f =
      (if toggles && !s.fitsNominal f then (s.setTb { s.tb with wins := [], afresh := [] }).raise 0 F.TB_STAT_REF_BADFREQ
        else s.setTb { s.tb with wins := [], afresh := [] }).setF 0 F.TB_STAT_REF_QUAL 0 := by
  have hpass : ((toggles && s.fitsNominal f) && !missing) = false := by
    rcases h with h | h | h <;> simp [h]
  have hbad : (toggles && !(toggles && s.fitsNominal f)) = (toggles && !s.fitsNominal f) := by cases toggles <;> rfl
  unfold State.fitsNominal State.refNominals at *
  unfold State.refinWindow
  rw [if_neg ha]
  dsimp only
  rw [hpass, hbad]
  rfl

/-- A window that passes joins the run. -/
theorem State.refinWindow_passes (ha : s.tbActive ≠ actRefin) (hm : missing = false) (ht : toggles = true) (hf : s.fitsNominal f = true) :
    s.refinWindow missing toggles f =
      match windowsQualify s.xtalOk s.refNominals (s.keptWindows f) with
      | some nom =>
        let u := s.setTb { s.tb with wins := s.keptWindows f, afresh := s.freshWindows f,
                                     baseDue := if s.refQual then s.tb.baseDue else some (s.now + tkSec) }
        ((if !s.xtalOk && !s.refQual then u.raise 0 F.TB_STAT_XTAL_FAIL else u).setF 0 F.TB_STAT_REF_QUAL 1).setB 0 F.TB_STAT_REF_NOM
          (decide (nom = 100000000000))
      | none =>
        let u := s.setTb { s.tb with wins := s.keptWindows f, afresh := s.freshWindows f }
        if s.refQual && decide ((s.keptWindows f).length < 3) then u else u.setF 0 F.TB_STAT_REF_QUAL 0 := by
  subst hm ht
  unfold State.fitsNominal State.refNominals at hf
  unfold State.refinWindow
  rw [if_neg ha]
  dsimp only
  rw [hf]
  have hfresh : (if !s.fb 0 F.TB_STAT_REF_DRIFT then (f :: s.tb.afresh).take 3 else []) = s.freshWindows f := by
    unfold State.freshWindows
    cases s.fb 0 F.TB_STAT_REF_DRIFT <;> rfl
  simp only [Bool.not_false, Bool.and_self, Bool.true_and, Bool.not_true, if_true, Bool.false_eq_true, if_false, hfresh]
  rfl

theorem State.refinWindow_onlyRegsTb (s : State) (missing toggles : Bool) (f : Nat) :
    s.OnlyRegsTb (s.refinWindow missing toggles f) [R.TB_STAT] := by
  have hstart (x : TbEng) : s.OnlyRegsTb (s.setTb x) [R.TB_STAT] := (State.OnlyRegsTb.refl s _).setTb x
  by_cases ha : s.tbActive = actRefin
  · rw [State.refinWindow, if_pos ha]
    exact .refl s _
  by_cases hp : missing = true ∨ toggles = false ∨ s.fitsNominal f = false
  · rw [State.refinWindow_fails ha hp]
    split
    · exact ((hstart _).raise (by decide)).setF _ (by decide)
    · exact (hstart _).setF _ (by decide)
  · simp only [not_or, Bool.not_eq_true, Bool.not_eq_false] at hp
    obtain ⟨hm, ht, hf⟩ := hp
    rw [State.refinWindow_passes ha hm ht hf]
    split
    · dsimp only
      split
      · exact (((hstart _).raise (by decide)).setF _ (by decide)).setF _ (by decide)
      · exact ((hstart _).setF _ (by decide)).setF _ (by decide)
    · dsimp only
      split
      · exact hstart _
      · exact (hstart _).setF _ (by decide)

/-- A toggling REFIN that fits no nominal sets REF_BADFREQ. -/
theorem State.refinWindow_badFreq (ha : s.tbActive ≠ actRefin) (ht : toggles = true) (hf : s.fitsNominal f = false) :
    (s.refinWindow missing toggles f).fb 0 F.TB_STAT_REF_BADFREQ = true := by
  rw [State.refinWindow_fails ha (.inr (.inr hf)), if_pos (by simp [ht, hf]), State.fb_setF_of_apart _ _ _ (by decide),
    State.fb_raise _ _ rfl (by decide)]

theorem State.refinWindow_failed (ha : s.tbActive ≠ actRefin) (h : missing = true ∨ toggles = false ∨ s.fitsNominal f = false) :
    (s.refinWindow missing toggles f).tb.wins = [] ∧ (s.refinWindow missing toggles f).refQual = false := by
  rw [State.refinWindow_fails ha h]
  refine ⟨?_, ?_⟩
  · rw [State.setF_tb]
    split <;> rfl
  · rw [State.refQual, State.fb, State.f_setF _ _ _ _ (by decide)]
    rfl

theorem State.refinWindow_kept (ha : s.tbActive ≠ actRefin) (hm : missing = false) (ht : toggles = true) (hf : s.fitsNominal f = true) :
    (s.refinWindow missing toggles f).tb.wins = s.keptWindows f := by
  rw [State.refinWindow_passes ha hm ht hf]
  split
  · rw [State.setB, State.setF_tb, State.setF_tb]
    split <;> rfl
  · dsimp only
    split <;> rfl

/-- Three windows that agree qualify REFIN at their nominal; without a crystal that is reported. -/
theorem State.refinWindow_qualifies (ha : s.tbActive ≠ actRefin) (hm : missing = false) (ht : toggles = true) (hf : s.fitsNominal f = true)
    {nom : Nat} (hq : windowsQualify s.xtalOk s.refNominals (s.keptWindows f) = some nom) :
    (s.refinWindow missing toggles f).refQual = true ∧
      (s.refinWindow missing toggles f).f 0 F.TB_STAT_REF_NOM = bit (decide (nom = 100000000000)) ∧
      (s.xtalOk = false → s.refQual = false → (s.refinWindow missing toggles f).fb 0 F.TB_STAT_XTAL_FAIL = true) := by
  rw [State.refinWindow_passes ha hm ht hf, hq]
  dsimp only
  refine ⟨?_, ?_, fun hx hr => ?_⟩
  · rw [State.refQual, State.setB, State.fb_setF_of_apart _ _ _ (by decide), State.fb, State.f_setF _ _ _ _ (by decide)]
    rfl
  · rw [State.setB, State.f_setF _ _ _ _ (by decide)]
    cases decide (nom = 100000000000) <;> rfl
  · rw [State.setB, State.fb_setF_of_apart _ _ _ (by decide), State.fb_setF_of_apart _ _ _ (by decide), if_pos (by simp [hx, hr]),
      State.fb_raise _ _ rfl (by decide)]

theorem State.refinWindow_disagrees (ha : s.tbActive ≠ actRefin) (hm : missing = false) (ht : toggles = true) (hf : s.fitsNominal f = true)
    (hq : windowsQualify s.xtalOk s.refNominals (s.keptWindows f) = none) (hl : 2 ≤ s.tb.wins.length) :
    (s.refinWindow missing toggles f).refQual = false := by
  have h3 : ¬(s.keptWindows f).length < 3 := by simp [State.keptWindows]; omega
  rw [State.refinWindow_passes ha hm ht hf, hq]
  dsimp only
  rw [if_neg (by simp [h3]), State.refQual, State.fb, State.f_setF _ _ _ _ (by decide)]
  rfl

/-! ### The first lock (R32, R41, R42) -/

/-- Where the 20 ms have passed or XTAL_ONLY is set, a running crystal gives the first lock. -/
theorem State.lockSource_crystal (h : s.tb.timedOut = true ∨ F.TB_SRC_XTAL_ONLY.of (s.tvW R.TB_SRC) = 1) (hx : s.xtalOk = true) :
    s.lockSource = actCrystal := by
  unfold State.lockSource
  rw [if_pos (by simpa [hx] using h)]

/-- A qualified REFIN gives it otherwise. -/
theorem State.lockSource_refin (hr : s.refQual = true) (ho : F.TB_SRC_XTAL_ONLY.of (s.tvW R.TB_SRC) = 0)
    (h : s.tb.timedOut = false ∨ s.xtalOk = false) : s.lockSource = actRefin := by
  unfold State.lockSource
  rw [if_neg (by rcases h with h | h <;> simp [h, ho]), if_pos (by simp [hr, ho])]

/-- With a usable source there is one to lock to: the crystal where it may be and runs, and REFIN elsewhere. -/
theorem State.lockSource_usable (h : (s.refQual = true ∧ F.TB_SRC_XTAL_ONLY.of (s.tvW R.TB_SRC) = 0) ∨
      ((s.tb.timedOut = true ∨ F.TB_SRC_XTAL_ONLY.of (s.tvW R.TB_SRC) = 1) ∧ s.xtalOk = true)) :
    s.lockSource ≠ actNone ∧ s.lockSource < 4 ∧
      (s.tb.timedOut = false → F.TB_SRC_XTAL_ONLY.of (s.tvW R.TB_SRC) = 0 → s.lockSource = actRefin) ∧
      (s.xtalOk = false → s.lockSource = actRefin) ∧
      ((s.tb.timedOut = true ∨ F.TB_SRC_XTAL_ONLY.of (s.tvW R.TB_SRC) = 1) → s.xtalOk = true → s.lockSource = actCrystal) := by
  by_cases hc : (s.tb.timedOut = true ∨ F.TB_SRC_XTAL_ONLY.of (s.tvW R.TB_SRC) = 1) ∧ s.xtalOk = true
  · obtain ⟨hmay, hx⟩ := hc
    rw [State.lockSource_crystal hmay hx]
    refine ⟨by decide, by decide, fun ht ho => ?_, fun hx' => ?_, fun _ _ => rfl⟩
    · simp [ht, ho] at hmay
    · simp [hx] at hx'
  · obtain ⟨hr, ho⟩ := h.resolve_right hc
    have hno : s.tb.timedOut = false ∨ s.xtalOk = false := by
      by_contra hboth
      simp only [not_or, Bool.not_eq_false] at hboth
      exact hc ⟨.inl hboth.1, hboth.2⟩
    rw [State.lockSource_refin hr ho hno]
    exact ⟨by decide, by decide, fun _ _ => rfl, fun _ => rfl, fun h1 h2 => absurd ⟨h1, h2⟩ hc⟩

/-- Device time starts, with a run identifier drawn, and the source is locked. -/
def State.locked (src : Nat) (s : State) : State :=
  (((({ s with free := s.free + 1, clk := { epx := 0#32, ets := 0#64, running := true }, boot := { s.boot with faulted := false } } : State).setW
    R.TB_RUN_ID (BitVec.ofNat 32 (1 + (Config.entropy s.free).toNat % (2 ^ 32 - 1)))).setF 0 F.TB_STAT_ACTIVE src).setF 0 F.TB_STAT_LOCKED 1)

theorem State.firstLock_locks (hrun : s.clk.running = false) (hb : s.boot.released = true) (h : s.lockSource ≠ actNone) :
    s.firstLock = s.locked s.lockSource := by
  unfold State.firstLock
  rw [if_neg (by simp [hrun, hb])]
  dsimp only
  rw [if_neg h]
  rfl

/-- The run identifier drawn is no 0. -/
theorem runId_ne_zero (k : Nat) : BitVec.ofNat 32 (1 + k % (2 ^ 32 - 1)) ≠ 0#32 := by
  intro h
  have := congrArg BitVec.toNat h
  simp only [BitVec.toNat_ofNat] at this
  omega

theorem State.locked_shows (s : State) {src : Nat} (h : src < 4) :
    (s.locked src).clk = ({ epx := 0#32, ets := 0#64, running := true } : Clock) ∧ (s.locked src).now = 0 ∧
      (s.locked src).w R.TB_RUN_ID ≠ 0#32 ∧ (s.locked src).fb 0 F.TB_STAT_LOCKED = true ∧ (s.locked src).tbActive = src ∧
      (∀ a, a ∉ [R.TB_RUN_ID, R.TB_STAT] → (s.locked src).w a = s.w a) ∧
      s.locked src = { s with
        regs := (s.locked src).regs
        clk := (s.locked src).clk
        free := (s.locked src).free
        boot := { s.boot with faulted := false } } := by
  have hclk : (s.locked src).clk = ({ epx := 0#32, ets := 0#64, running := true } : Clock) := rfl
  refine ⟨hclk, ?_, ?_, ?_, ?_, fun a ha => ?_, rfl⟩
  · rw [State.now, hclk]
    simp
  · rw [State.locked, State.w_setF_other _ (by decide), State.w_setF_other _ (by decide), State.w_setW_same]
    exact runId_ne_zero _
  · rw [State.locked, State.fb, State.f_setF _ _ _ _ (by decide)]
    rfl
  · rw [State.tbActive, State.locked, State.f_setF_of_apart _ _ _ (by decide), State.f_setF _ _ _ _ (by decide)]
    exact Nat.mod_eq_of_lt h
  · simp only [List.mem_cons, List.not_mem_nil, or_false, not_or] at ha
    rw [State.locked, State.w_setF_other _ (Ne.symm ha.2), State.w_setF_other _ (Ne.symm ha.2), State.w_setW_other _ _ (Ne.symm ha.1)]
    rfl

/-- Settles O15: the windows by whether they pass and qualify, the first lock by its source. -/
theorem sourcesQualifyAndFirstLock : Obligations.SourcesQualifyAndFirstLock := by
  unfold Obligations.SourcesQualifyAndFirstLock
  refine ⟨fun s missing toggles f ha => ?_, fun s missing toggles f ha => ⟨_, rfl, if_pos ha⟩, fun s hrun hq hb => ⟨_, rfl, ?_⟩,
    fun s hrun hb hsrc => ?_, fun s hrun hq hx hb => ?_, fun s hl => ?_⟩
  · have hframe := s.refinWindow_onlyRegsTb missing toggles f
    refine ⟨_, rfl, fun ht hf => State.refinWindow_badFreq ha ht hf, fun h => State.refinWindow_failed ha h,
      fun hm ht hf => ⟨State.refinWindow_kept ha hm ht hf, fun h => ?_, fun hq => ?_, fun hq => ?_, fun hq hl => ?_⟩,
      fun a h => hframe.w_eq h, hframe.1⟩
    · obtain ⟨nom, hq⟩ := Option.isSome_iff_exists.1 h
      obtain ⟨hqual, -, hfail⟩ := State.refinWindow_qualifies ha hm ht hf hq
      exact ⟨hqual, hfail⟩
    · exact (State.refinWindow_qualifies ha hm ht hf hq).2.1
    · exact (State.refinWindow_qualifies ha hm ht hf hq).2.1
    · exact State.refinWindow_disagrees ha hm ht hf hq hl
  · rw [State.lockTimeout, if_neg (by simp [hrun, hq, hb])]
    rfl
  · obtain ⟨hne, hlt, hrefin, hdead, hcrystal⟩ := State.lockSource_usable hsrc
    obtain ⟨hclk, hnow, hid, hlocked, hact, hwords, hstands⟩ := s.locked_shows hlt
    rw [← State.firstLock_locks hrun hb hne] at *
    exact ⟨_, rfl, hclk, hnow, hid, hlocked, fun h1 h2 => hact.trans (hrefin h1 h2), fun h => hact.trans (hdead h),
      fun h1 h2 => hact.trans (hcrystal h1 h2), hwords, hstands⟩
  · have e : s.noSource = ({ s with boot := { s.boot with faulted := true } } : State).raise 0 F.DEV_FLT_NOSRC := by
      rw [State.noSource, if_neg (by simp [hrun, hq, hx, hb])]
    refine ⟨_, rfl, ?_⟩
    rw [e]
    exact ⟨State.fb_raise _ _ rfl (by decide), rfl, fun a ha => State.w_setF_other _ (Ne.symm ha), rfl⟩
  · have e : s.xtalReturn = s.raise 0 F.TB_STAT_XTAL_OK := by
      rw [State.xtalReturn, if_pos hl]
      rfl
    refine ⟨_, rfl, ?_⟩
    rw [e]
    exact ⟨State.fb_raise _ _ rfl (by decide), (State.OnlyRegs.refl s _).raise (by decide)⟩

end Sys2Proof.Machine
end

section
/-!
SUPPORT. A change of the timebase's source (R36-R38): the calibration it requests of every front end (R207), the source that
takes over, and holdover.
-/

namespace Sys2Proof.Machine

variable {s t u : State} {f g : FrontEnd} {k : Fld}

/-! ### A calibration request of a front end (R207, R209) -/

theorem feBase_ge (f : FrontEnd) : 0x100000 ≤ feBase f := by
  unfold feBase chBase spBase
  split <;> omega

theorem feBase_mod (f : FrontEnd) : feBase f % 0x1000 = 0 := by
  unfold feBase chBase spBase
  split <;> omega

theorem calCtl_ne_calStat (f e : FrontEnd) : feBase f + F.CH_CAL_CTL_HOLD.addr ≠ feBase e + R.CH_CAL_STAT := by
  have hc : F.CH_CAL_CTL_HOLD.addr = 0xE0 := rfl
  have hs : R.CH_CAL_STAT = 0xE4 := rfl
  have hf := feBase_mod f
  have he := feBase_mod e
  omega

/-- Whether the front end has a REF calibration requested. -/
def State.asksRef (s : State) (f : FrontEnd) : Prop := (s.f (feBase f) F.CH_CAL_STAT_CAUSE).testBit causeRef = true

/-- Calibration states and front ends may differ, and nothing else; a REF calibration requested stays so. -/
structure State.OnlyAsks (s t : State) : Prop where
  stands : t = { s with regs := t.regs, fes := t.fes }
  words : ∀ a, (∀ f : FrontEnd, a ≠ feBase f + R.CH_CAL_STAT) → t.w a = s.w a
  kept : ∀ f, s.asksRef f → t.asksRef f

theorem State.OnlyAsks.refl (s : State) : s.OnlyAsks s := ⟨rfl, fun _ _ => rfl, fun _ h => h⟩

theorem State.OnlyAsks.trans {r : State} (h : s.OnlyAsks t) (k : t.OnlyAsks r) : s.OnlyAsks r :=
  ⟨by rw [k.stands, h.stands], fun a ha => (k.words a ha).trans (h.words a ha), fun f hf => k.kept f (h.kept f hf)⟩

theorem State.OnlyAsks.setFe (h : s.OnlyAsks t) (f : FrontEnd) (x : FeSt) : s.OnlyAsks (t.setFe f x) :=
  ⟨by rw [h.stands]; rfl, h.words, h.kept⟩

theorem State.OnlyAsks.setPhase (h : s.OnlyAsks t) (f : FrontEnd) (p : Nat) : s.OnlyAsks (t.setPhase f p) := by
  refine ⟨by rw [h.stands]; rfl, fun a ha => ?_, fun e he => ?_⟩
  · exact (State.w_setF_other t (Ne.symm (ha f))).trans (h.words a ha)
  · have hsame : (t.setPhase f p).f (feBase e) F.CH_CAL_STAT_CAUSE = t.f (feBase e) F.CH_CAL_STAT_CAUSE := by
      rw [State.setPhase]
      by_cases hb : feBase f = feBase e
      · rw [hb, State.f_setF_of_apart _ _ _ (by decide)]
      · exact State.f_setF_other _ _ (by simp; omega)
    rw [State.asksRef, hsame]
    exact h.kept e he

/-- A cause joins those of a front end. -/
def State.addCause (f : FrontEnd) (cause : Nat) (s : State) : State :=
  s.setF (feBase f) F.CH_CAL_STAT_CAUSE (s.f (feBase f) F.CH_CAL_STAT_CAUSE ||| 2 ^ cause)

/-- A request adds its cause, with the front end's own state and PHASE. -/
theorem State.raiseCal_asks (hf : s.feFused f = false) (hh : s.calHold f = false) (cause : Nat) (sampler threshold : Bool) :
    (∃ x, s.raiseCal f cause sampler threshold = (s.addCause f cause).setFe f x) ∨
      ∃ x p, s.raiseCal f cause sampler threshold = ((s.addCause f cause).setFe f x).setPhase f p := by
  unfold State.raiseCal
  rw [if_neg (by simp [hf, hh])]
  dsimp only
  split
  · exact .inr ⟨_, phOffset, rfl⟩
  · split
    · exact .inl ⟨_, rfl⟩
    · exact .inr ⟨_, phWait, rfl⟩

theorem testBit_ref_lor (n m : Nat) : ((n ||| m) % 2 ^ 5).testBit causeRef = (n.testBit causeRef || m.testBit causeRef) := by
  rw [Nat.testBit_mod_two_pow, Nat.testBit_or]
  rfl

theorem State.addCause_onlyAsks (s : State) (f : FrontEnd) (cause : Nat) : s.OnlyAsks (s.addCause f cause) := by
  refine ⟨rfl, fun a ha => State.w_setF_other s (Ne.symm (ha f)), fun e he => ?_⟩
  unfold State.asksRef State.addCause at *
  by_cases hb : feBase f = feBase e
  · rw [hb, State.f_setF _ _ _ _ (by decide), testBit_ref_lor, he, Bool.true_or]
  · rw [State.f_setF_other _ _ (by simp; omega)]
    exact he

theorem State.addCause_asksRef (s : State) (f : FrontEnd) : (s.addCause f causeRef).asksRef f := by
  rw [State.asksRef, State.addCause, State.f_setF _ _ _ _ (by decide), testBit_ref_lor]
  simp

theorem State.raiseCal_onlyAsks (s : State) (f : FrontEnd) (cause : Nat) (sampler threshold : Bool) :
    s.OnlyAsks (s.raiseCal f cause sampler threshold) := by
  by_cases h : (s.feFused f || s.calHold f) = true
  · rw [State.raiseCal, if_pos h]
    exact .refl s
  · simp only [Bool.or_eq_true, not_or, Bool.not_eq_true] at h
    obtain ⟨x, e⟩ | ⟨x, p, e⟩ := State.raiseCal_asks h.1 h.2 cause sampler threshold
    · rw [e]
      exact (s.addCause_onlyAsks f cause).setFe f x
    · rw [e]
      exact ((s.addCause_onlyAsks f cause).setFe f x).setPhase f p

/-- A front end that is neither fused off nor held has its REF calibration requested. -/
theorem State.raiseCal_asksRef (hf : s.feFused f = false) (hh : s.calHold f = false) (sampler threshold : Bool) :
    (s.raiseCal f causeRef sampler threshold).asksRef f := by
  have hadded := s.addCause_asksRef f
  obtain ⟨x, e⟩ | ⟨x, p, e⟩ := State.raiseCal_asks hf hh causeRef sampler threshold
  · rw [e]
    exact ((State.OnlyAsks.refl _).setFe f x).kept f hadded
  · rw [e]
    exact (((State.OnlyAsks.refl _).setFe f x).setPhase f p).kept f hadded

/-! ### The request of every front end (R36, R38) -/

theorem State.forAll_append {α : Type} (l m : List α) (g : α → State → State) (s : State) : s.forAll (l ++ m) g = (s.forAll l g).forAll m g :=
  List.foldl_append

theorem State.raiseCals_onlyAsks (s : State) (l : List FrontEnd) : s.OnlyAsks (s.forAll l fun f s => s.raiseCal f causeRef true false) :=
  State.forAll_rel State.OnlyAsks.refl (fun h k => h.trans k) (fun f _ s => s.raiseCal_onlyAsks f causeRef true false) s

theorem State.raiseRef_onlyAsks (s : State) : s.OnlyAsks s.raiseRef := s.raiseCals_onlyAsks allFe

/-- Whether a front end is fused off or held is no part of a request. -/
theorem State.OnlyAsks.feFused (h : s.OnlyAsks t) (f : FrontEnd) : t.feFused f = s.feFused f := by rw [h.stands]; rfl

theorem State.OnlyAsks.calHold (h : s.OnlyAsks t) (f : FrontEnd) : t.calHold f = s.calHold f := by
  unfold State.calHold State.fb State.f
  rw [h.words _ fun e => calCtl_ne_calStat f e]

theorem State.raiseRef_asks (hf : s.feFused f = false) (hh : s.calHold f = false) : s.raiseRef.asksRef f := by
  obtain ⟨l, m, hl⟩ := List.append_of_mem (List.mem_finRange f)
  have hbefore := s.raiseCals_onlyAsks l
  rw [State.raiseRef, allFe, hl, State.forAll_append]
  refine (State.raiseCals_onlyAsks _ m).kept f ?_
  exact State.raiseCal_asksRef ((hbefore.feFused f).trans hf) ((hbefore.calHold f).trans hh) true false

/-! ### The source that takes over, and holdover (R36-R38) -/

@[simp] theorem State.w_markRefchg (s : State) (a : Nat) : s.markRefchg.w a = s.w a := rfl
@[simp] theorem State.f_markRefchg (s : State) (b : Nat) (k : Fld) : s.markRefchg.f b k = s.f b k := rfl

/-- Registers below the channels' blocks are no front end's. -/
theorem State.w_raiseRef (s : State) {a : Nat} (h : a < 0x100000) : s.raiseRef.w a = s.w a :=
  s.raiseRef_onlyAsks.words a fun f => by
    have := feBase_ge f
    omega

theorem State.f_raiseRef (s : State) {k : Fld} (h : k.addr < 0x100000) : s.raiseRef.f 0 k = s.f 0 k := by
  rw [State.f, State.w_raiseRef s (by omega), State.f]

/-- Nothing that a calibration request looks at differs. -/
def State.SameAsked (s t : State) : Prop := t.fuses = s.fuses ∧ ∀ a, 0x100000 ≤ a → t.w a = s.w a

theorem State.SameAsked.asks (h : s.SameAsked t) {f : FrontEnd} (hf : s.feFused f = false) (hh : s.calHold f = false) : t.raiseRef.asksRef f := by
  refine State.raiseRef_asks ?_ ?_
  · rw [State.feFused, h.1]
    exact hf
  · have := feBase_ge f
    unfold State.calHold State.fb State.f at *
    rw [h.2 _ (by omega)]
    exact hh

theorem State.SameAsked.refl (s : State) : s.SameAsked s := ⟨rfl, fun _ _ => rfl⟩

theorem State.SameAsked.setF (h : s.SameAsked t) {k : Fld} (v : Nat) (hk : k.addr < 0x100000) : s.SameAsked (t.setF 0 k v) :=
  ⟨h.1, fun a ha => (State.w_setF_other t (by omega)).trans (h.2 a ha)⟩

theorem State.SameAsked.setW (h : s.SameAsked t) {a : Nat} (v : Word) (ha : a < 0x100000) : s.SameAsked (t.setW a v) :=
  ⟨h.1, fun b hb => (State.w_setW_other t v (by omega)).trans (h.2 b hb)⟩

theorem State.SameAsked.raise (h : s.SameAsked t) {k : Fld} (hk : k.addr < 0x100000) : s.SameAsked (t.raise 0 k) := h.setF 1 hk

theorem State.SameAsked.setTb (h : s.SameAsked t) (x : TbEng) : s.SameAsked (t.setTb x) := h

theorem State.SameAsked.setTv (h : s.SameAsked t) (a : Nat) (w : Word) : s.SameAsked (t.setTv a w) := h

theorem State.SameAsked.reach (h : s.SameAsked t) (n : Nat) : s.SameAsked (t.reach n) :=
  ⟨(State.reach_fuses _ n).trans h.1, fun a ha => (State.w_reach _ n a).trans (h.2 a ha)⟩

theorem State.SameAsked.markRefchg (h : s.SameAsked t) : s.SameAsked t.markRefchg := h

/-- A taken-over source stays so where only the engine beside the registers, or a path's answer, changes. -/
theorem State.SwitchedTo.setTb {active : Nat} (h : State.SwitchedTo active s t) (x : TbEng) : State.SwitchedTo active s (t.setTb x) := h

theorem State.SwitchedTo.modPath {active : Nat} (h : State.SwitchedTo active s t) (p : Path) (g : PathSt → PathSt) :
    State.SwitchedTo active s (t.modPath p g) := h

theorem State.InHoldover.setTb (h : s.InHoldover t) (x : TbEng) : s.InHoldover (t.setTb x) := h

theorem State.InHoldover.modPath (h : s.InHoldover t) (p : Path) (g : PathSt → PathSt) : s.InHoldover (t.modPath p g) := h

/-- A switchover before the calibrations it requests. -/
def State.tookOver (active : Nat) (s : State) : State :=
  ((((s.setF 0 F.TB_STAT_ACTIVE active).setF 0 F.TB_STAT_LOCKED 1).raise 0 F.TB_STAT_SWITCHED).countSat 0 F.TB_SWITCH_CNT_VALUE 1).markRefchg

theorem State.switched_eq (s : State) (active : Nat) : s.switched active = (s.tookOver active).raiseRef := rfl

theorem State.f_tookOver_cnt (s : State) (active : Nat) :
    (s.tookOver active).f 0 F.TB_SWITCH_CNT_VALUE = min (s.f 0 F.TB_SWITCH_CNT_VALUE + 1) (2 ^ F.TB_SWITCH_CNT_VALUE.len - 1) := by
  rw [State.tookOver, State.f_markRefchg, State.countSat, State.f_setF _ _ _ _ (by decide), State.raise, State.f_setF_other _ _ (by decide),
    State.f_setF_other _ _ (by decide), State.f_setF_other _ _ (by decide), Nat.mod_eq_of_lt (by simp)]

/-- The flags of TB_STAT that a switchover leaves. -/
theorem State.f_switched (s : State) (active : Nat) (h1 : k.Apart F.TB_STAT_ACTIVE) (h2 : k.Apart F.TB_STAT_LOCKED)
    (h3 : k.Apart F.TB_STAT_SWITCHED) : (s.switched active).f 0 k = s.f 0 k := by
  have ha : k.addr = 0x1004 := h1.1.symm
  rw [State.switched_eq, State.f_raiseRef _ (by omega), State.tookOver, State.f_markRefchg, State.countSat,
    State.f_setF_other _ _ (by simp [ha]), State.raise, State.f_setF_of_apart _ _ _ h3, State.f_setF_of_apart _ _ _ h2,
    State.f_setF_of_apart _ _ _ h1]

/-- A switchover, where the calibrations asked and the count follow a state before it. -/
theorem State.SameAsked.switched {active : Nat} (h : s.SameAsked t) (hc : t.f 0 F.TB_SWITCH_CNT_VALUE = s.f 0 F.TB_SWITCH_CNT_VALUE) (ha : active < 4) :
    State.SwitchedTo active s (t.switched active) := by
  have hasked : s.SameAsked (t.tookOver active) :=
    ((((h.setF _ (by decide)).setF _ (by decide)).raise (by decide)).setF _ (by decide)).markRefchg
  rw [State.switched_eq]
  refine ⟨?_, ?_, ?_, ?_, fun f hf hh => hasked.asks hf hh⟩
  · rw [State.tbActive, State.f_raiseRef _ (by decide), State.tookOver, State.f_markRefchg, State.countSat, State.f_setF_other _ _ (by decide),
      State.raise, State.f_setF_of_apart _ _ _ (by decide), State.f_setF_of_apart _ _ _ (by decide), State.f_setF _ _ _ _ (by decide)]
    exact Nat.mod_eq_of_lt ha
  · rw [State.fb, State.f_raiseRef _ (by decide), State.tookOver, State.f_markRefchg, State.countSat, State.f_setF_other _ _ (by decide),
      State.raise, State.f_setF_of_apart _ _ _ (by decide), State.f_setF _ _ _ _ (by decide)]
    rfl
  · rw [State.fb, State.f_raiseRef _ (by decide), State.tookOver, State.f_markRefchg, State.countSat, State.f_setF_other _ _ (by decide),
      State.raise, State.f_setF _ _ _ _ (by decide)]
    rfl
  · rw [State.f_raiseRef _ (by decide), State.f_tookOver_cnt, hc]

/-- Holdover before the flag of no source. -/
def State.unlocked (s : State) : State := ((s.setF 0 F.TB_STAT_ACTIVE actHoldover).setF 0 F.TB_STAT_LOCKED 0).markRefchg.raiseRef

theorem State.holdover_eq (s : State) :
    s.holdover = if s.unlocked.refQual || s.unlocked.xtalOk then s.unlocked else s.unlocked.raise 0 F.DEV_FLT_NOSRC := rfl

/-- The flags of TB_STAT that holdover leaves. -/
theorem State.f_holdover (s : State) (h1 : k.Apart F.TB_STAT_ACTIVE) (h2 : k.Apart F.TB_STAT_LOCKED) : s.holdover.f 0 k = s.f 0 k := by
  have ha : k.addr = 0x1004 := h1.1.symm
  have hu : s.unlocked.f 0 k = s.f 0 k := by
    rw [State.unlocked, State.f_raiseRef _ (by omega), State.f_markRefchg, State.f_setF_of_apart _ _ _ h2, State.f_setF_of_apart _ _ _ h1]
  rw [State.holdover_eq]
  split
  · exact hu
  · rw [State.raise, State.f_setF_other _ _ (by simp [ha]), hu]

theorem State.asksRef_raise (s : State) {k : Fld} (hk : k.addr < 0x100000) (h : s.asksRef f) : (s.raise 0 k).asksRef f := by
  have := feBase_ge f
  rw [State.asksRef, State.raise, State.f_setF_other _ _ (by omega)]
  exact h

theorem State.SameAsked.holdover (h : s.SameAsked t) : s.InHoldover t.holdover := by
  have hasked : s.SameAsked ((t.setF 0 F.TB_STAT_ACTIVE actHoldover).setF 0 F.TB_STAT_LOCKED 0).markRefchg :=
    ((h.setF _ (by decide)).setF _ (by decide)).markRefchg
  have hact : t.unlocked.tbActive = actHoldover := by
    rw [State.tbActive, State.unlocked, State.f_raiseRef _ (by decide), State.f_markRefchg, State.f_setF_of_apart _ _ _ (by decide),
      State.f_setF _ _ _ _ (by decide)]
    rfl
  have hlock : t.unlocked.fb 0 F.TB_STAT_LOCKED = false := by
    rw [State.fb, State.unlocked, State.f_raiseRef _ (by decide), State.f_markRefchg, State.f_setF _ _ _ _ (by decide)]
    rfl
  have hasks (f : FrontEnd) (hf : s.feFused f = false) (hh : s.calHold f = false) : t.unlocked.asksRef f := hasked.asks hf hh
  rw [State.holdover_eq]
  split
  next hsrc =>
    refine ⟨hact, hlock, fun hq hx => ?_, hasks⟩
    simp [hq, hx] at hsrc
  next =>
    refine ⟨?_, ?_, fun _ _ => State.fb_raise _ _ rfl (by decide), fun f hf hh => State.asksRef_raise _ (by decide) (hasks f hf hh)⟩
    · rw [State.tbActive, State.raise, State.f_setF_other _ _ (by decide)]
      exact hact
    · rw [State.raise, State.fb_setF_other _ (by decide)]
      exact hlock

/-! ### What a change of source leaves alone -/

/-- Registers, the timebase's engine, marks of a reference change and calibration requests may differ, and nothing else. -/
def State.OnlySource (s t : State) : Prop :=
  t = { s with regs := t.regs, tb := t.tb, chans := t.chans, units := t.units, blocks := t.blocks, fes := t.fes }

namespace State.OnlySource

theorem refl (s : State) : s.OnlySource s := rfl

theorem trans {r : State} (h : s.OnlySource t) (k : t.OnlySource r) : s.OnlySource r := by
  rw [State.OnlySource] at *
  rw [k, h]

theorem setF (h : s.OnlySource t) (b : Nat) (k : Fld) (v : Nat) : s.OnlySource (t.setF b k v) := h.trans rfl

theorem setW (h : s.OnlySource t) (a : Nat) (v : Word) : s.OnlySource (t.setW a v) := h.trans rfl

theorem setTb (h : s.OnlySource t) (x : TbEng) : s.OnlySource (t.setTb x) := h.trans rfl

theorem markRefchg (h : s.OnlySource t) : s.OnlySource t.markRefchg := h.trans rfl

theorem raiseRef (h : s.OnlySource t) : s.OnlySource t.raiseRef := by
  refine h.trans ?_
  rw [State.OnlySource, t.raiseRef_onlyAsks.stands]

theorem switched (h : s.OnlySource t) (active : Nat) : s.OnlySource (t.switched active) :=
  (((((h.setF _ _ _).setF _ _ _).setF _ _ _).setF _ _ _).markRefchg).raiseRef

theorem holdover (h : s.OnlySource t) : s.OnlySource t.holdover := by
  have hu : s.OnlySource t.unlocked := (((h.setF _ _ _).setF _ _ _).markRefchg).raiseRef
  rw [State.holdover_eq]
  split
  · exact hu
  · exact hu.setF _ _ _

theorem toRefin (h : s.OnlySource t) : s.OnlySource t.toRefin := (h.setTb _).switched _

theorem clk (h : s.OnlySource t) : t.clk = s.clk := by rw [h]

theorem tvW (h : s.OnlySource t) (a : Nat) : t.tvW a = s.tvW a := by rw [h]; rfl

theorem memory (h : s.OnlySource t) : s.SameMemory t := by
  rw [h]
  exact ⟨fun _ => rfl, fun _ => rfl, rfl, fun _ => rfl, fun _ => rfl⟩

end State.OnlySource

end Sys2Proof.Machine
end

section
/-!
PROOFS. Losses, switchovers and returns of the timebase's sources (R35, R36, R38, R40), and the TB_SRC write (R291).
-/

namespace Sys2Proof.Machine

variable {s t u : State} {p : Path} {w : Word}

/-! ### The timebase's engine in a change of source -/

theorem State.raiseRef_tb (s : State) : s.raiseRef.tb = s.tb := by rw [s.raiseRef_onlyAsks.stands]

theorem State.switched_tb (s : State) (active : Nat) : (s.switched active).tb = s.tb := by
  rw [State.switched_eq, State.raiseRef_tb]
  rfl

theorem State.holdover_tb (s : State) : s.holdover.tb = s.tb := by
  have hu : s.unlocked.tb = s.tb := by
    rw [State.unlocked, State.raiseRef_tb]
    rfl
  rw [State.holdover_eq]
  split
  · exact hu
  · rw [State.raise_tb, hu]

/-- The engine after a return to REFIN; after DRIFT_ACT's move a baseline is due (R40). -/
def State.refinEngine (s : State) : TbEng :=
  { s.tb with driftMoved := false, driftOver := false, lostAt := none,
              baseDue := if s.tb.driftMoved then some (s.now + tkSec) else s.tb.baseDue }

theorem State.toRefin_eq (s : State) : s.toRefin = (s.setTb s.refinEngine).switched actRefin := rfl

theorem State.toRefin_tb (s : State) : s.toRefin.tb = s.refinEngine := by
  rw [State.toRefin_eq, State.switched_tb]
  rfl

theorem State.SameAsked.toRefin (h : s.SameAsked t) (hc : t.f 0 F.TB_SWITCH_CNT_VALUE = s.f 0 F.TB_SWITCH_CNT_VALUE) :
    State.SwitchedTo actRefin s t.toRefin := by
  rw [State.toRefin_eq]
  exact (h.setTb _).switched hc (by decide)

/-! ### REFIN is lost (R35, R36) -/

/-- REFIN is no longer qualified, and its windows start anew. -/
def State.refinGone (s : State) : State := (s.setF 0 F.TB_STAT_REF_QUAL 0).setTb { s.tb with wins := [], afresh := [] }

/-- What the loss of the active REFIN enters. -/
def State.lossHoldover (s : State) : State := (s.refinGone.raise 0 F.TB_STAT_REF_LOST).holdover

theorem State.refinGone_refQual (s : State) : s.refinGone.refQual = false := by
  rw [State.refQual, State.fb, State.refinGone, State.f_setTb, State.f_setF _ _ _ _ (by decide)]
  rfl

theorem State.f_refinGone (s : State) {k : Fld} (h : k.Apart F.TB_STAT_REF_QUAL) : s.refinGone.f 0 k = s.f 0 k := by
  rw [State.refinGone, State.f_setTb, State.f_setF_of_apart _ _ _ h]

theorem State.refinLost_elsewhere (h : s.tbActive ≠ actRefin) : s.refinLost = s.refinGone := by
  have hact : s.refinGone.tbActive ≠ actRefin := by rwa [State.tbActive, State.f_refinGone s (by decide)]
  rw [State.refinLost]
  exact if_neg hact

theorem State.lossHoldover_flags (s : State) :
    s.lossHoldover.refQual = false ∧ s.lossHoldover.xtalOk = s.xtalOk ∧ s.lossHoldover.fb 0 F.TB_STAT_REF_LOST = true := by
  refine ⟨?_, ?_, ?_⟩
  · rw [State.refQual, State.fb, State.lossHoldover, State.f_holdover _ (by decide) (by decide), State.raise,
      State.f_setF_of_apart _ _ _ (by decide)]
    exact s.refinGone_refQual
  · rw [State.xtalOk, State.fb, State.lossHoldover, State.f_holdover _ (by decide) (by decide), State.raise,
      State.f_setF_of_apart _ _ _ (by decide), State.f_refinGone s (by decide)]
    rfl
  · rw [State.fb, State.lossHoldover, State.f_holdover _ (by decide) (by decide), State.raise, State.f_setF _ _ _ _ (by decide)]
    rfl

theorem State.lossHoldover_onlySource (s : State) : s.OnlySource s.lossHoldover :=
  ((((State.OnlySource.refl s).setF _ _ _).setTb _).setF _ _ _).holdover

theorem State.refinLost_active (h : s.tbActive = actRefin) :
    s.refinLost = s.lossHoldover.setTb { s.tb with wins := [], afresh := [], lostAt := if s.xtalOk then some s.now else none, baseDue := none,
                                                   driftOver := false } := by
  have hact : s.refinGone.tbActive = actRefin := by rwa [State.tbActive, State.f_refinGone s (by decide)]
  obtain ⟨-, hx, -⟩ := s.lossHoldover_flags
  have htb : s.lossHoldover.tb = { s.tb with wins := [], afresh := [] } := by
    rw [State.lossHoldover, State.holdover_tb]
    rfl
  have hnow : s.lossHoldover.now = s.now := by rw [State.now, s.lossHoldover_onlySource.clk, State.now]
  have e : s.refinLost = if s.lossHoldover.xtalOk then
        s.lossHoldover.setTb { s.lossHoldover.tb with lostAt := some s.lossHoldover.now, baseDue := none, driftOver := false }
      else s.lossHoldover.setTb { s.lossHoldover.tb with lostAt := none, baseDue := none, driftOver := false } := by
    rw [State.refinLost]
    exact if_pos hact
  rw [e, hx, htb, hnow]
  cases s.xtalOk <;> rfl

theorem refinLost_active (h : s.tbActive = actRefin) :
    ∃ t, exec .refinLost s = .next t ∧ s.InHoldover t ∧ t.refQual = false ∧ t.xtalOk = s.xtalOk ∧
      t.fb 0 F.TB_STAT_REF_LOST = true ∧ t.tb.wins = [] ∧ (s.xtalOk = true → t.tb.lostAt = some s.now) ∧
      (s.xtalOk = false → t.tb.lostAt = none ∧ t.fb 0 F.DEV_FLT_NOSRC = true) ∧ t.clk = s.clk ∧ s.SameMemory t := by
  obtain ⟨hq, hx, hlost⟩ := s.lossHoldover_flags
  have hframe := s.lossHoldover_onlySource
  have hasked : s.SameAsked (s.refinGone.raise 0 F.TB_STAT_REF_LOST) :=
    (((State.SameAsked.refl s).setF 0 (by decide)).setTb _).raise (by decide)
  have hhold : s.InHoldover s.lossHoldover := hasked.holdover
  refine ⟨_, rfl, ?_⟩
  rw [State.refinLost_active h]
  generalize s.lossHoldover = v at *
  have hsrc : s.xtalOk = false → v.fb 0 F.DEV_FLT_NOSRC = true := fun h => hhold.2.2.1 hq (hx.trans h)
  exact ⟨hhold.setTb _, hq, hx, hlost, rfl, fun h => by simp [State.setTb, h], fun h => ⟨by simp [State.setTb, h], hsrc h⟩, hframe.clk,
    (hframe.setTb _).memory⟩

theorem refinLost_elsewhere (h : s.tbActive ≠ actRefin) :
    ∃ t, exec .refinLost s = .next t ∧ t.refQual = false ∧ t.tbActive = s.tbActive ∧ t.tb = { s.tb with wins := [], afresh := [] } ∧
      (∀ a, a ≠ R.TB_STAT → t.w a = s.w a) ∧ t = { s with regs := t.regs, tb := t.tb } := by
  refine ⟨_, rfl, ?_⟩
  rw [State.refinLost_elsewhere h]
  exact ⟨s.refinGone_refQual, s.f_refinGone (by decide), rfl, fun a ha => State.w_setF_other s (Ne.symm ha), rfl⟩

/-! ### The crystal takes over, and REFIN returns (R36, R38, R40) -/

/-- The crystal takes over, with REFIN's windows dropped. -/
def State.toCrystal (s : State) : State := (s.setTb { s.tb with lostAt := none, wins := [] }).switched actCrystal

theorem State.SameAsked.toCrystal (h : s.SameAsked t) (hc : t.f 0 F.TB_SWITCH_CNT_VALUE = s.f 0 F.TB_SWITCH_CNT_VALUE) :
    State.SwitchedTo actCrystal s t.toCrystal := (h.setTb _).switched hc (by decide)

theorem State.toCrystal_lostAt (s : State) : s.toCrystal.tb.lostAt = none := by
  rw [State.toCrystal, State.switched_tb]
  rfl

theorem State.OnlySource.toCrystal (h : s.OnlySource t) : s.OnlySource t.toCrystal := (h.setTb _).switched _

theorem crystalSelect_takesOver {n : Nat} (hl : s.tb.lostAt = some n) (ha : s.tbActive = actHoldover) (hx : s.xtalOk = true) :
    ∃ t, exec .crystalSelect s = .next t ∧ State.SwitchedTo actCrystal s t ∧ t.tb.lostAt = none ∧ t.clk = (s.reach (n + tkUs)).clk ∧
      s.SameMemory t := by
  have e : s.crystalSelect = (s.reach (n + tkUs)).toCrystal := by
    rw [State.crystalSelect, hl]
    dsimp only
    rw [if_pos (by simp [ha, hx]), State.toCrystal, State.reach_tb]
  have hframe : (s.reach (n + tkUs)).OnlySource (s.reach (n + tkUs)).toCrystal := (State.OnlySource.refl _).toCrystal
  refine ⟨_, rfl, ?_⟩
  rw [e]
  exact ⟨((State.SameAsked.refl s).reach _).toCrystal (State.f_reach ..), State.toCrystal_lostAt _, hframe.clk,
    (s.sameMemory_reach _).trans hframe.memory⟩

theorem refinReturn_returns (ha : s.tbActive = actCrystal) (ho : s.returnOpen = true) (hr : F.TB_SRC_REVERT.of (s.tvW R.TB_SRC) = 1)
    (hx : F.TB_SRC_XTAL_ONLY.of (s.tvW R.TB_SRC) = 0) :
    ∃ t, exec .refinReturn s = .next t ∧ State.SwitchedTo actRefin s t ∧ t.tb.driftMoved = false ∧
      (s.tb.driftMoved = true → t.tb.baseDue = some (s.now + tkSec)) ∧ t.clk = s.clk ∧ s.SameMemory t := by
  have e : s.refinReturn = s.toRefin := if_pos (by simp [ha, ho, hr, hx])
  have hframe := (State.OnlySource.refl s).toRefin
  refine ⟨_, rfl, ?_⟩
  rw [e]
  refine ⟨(State.SameAsked.refl s).toRefin rfl, ?_, fun h => ?_, hframe.clk, hframe.memory⟩
  · rw [State.toRefin_tb]
    rfl
  · rw [State.toRefin_tb, State.refinEngine, h]
    rfl

/-! ### The crystal is lost (R31, R38) -/

/-- The crystal no longer runs. -/
def State.crystalGone (s : State) : State :=
  ((s.raise 0 F.TB_STAT_XTAL_FAIL).setF 0 F.TB_STAT_XTAL_OK 0).setTb { s.tb with lostAt := none, driftOver := false, baseDue := none }

theorem State.crystalGone_flags (s : State) : s.crystalGone.fb 0 F.TB_STAT_XTAL_FAIL = true ∧ s.crystalGone.xtalOk = false := by
  unfold State.crystalGone
  refine ⟨?_, ?_⟩
  · rw [State.fb, State.f_setTb, State.f_setF_of_apart _ _ _ (by decide), State.raise, State.f_setF _ _ _ _ (by decide)]
    rfl
  · rw [State.xtalOk, State.fb, State.f_setTb, State.f_setF _ _ _ _ (by decide)]
    rfl

theorem State.f_crystalGone (s : State) {k : Fld} (h1 : k.Apart F.TB_STAT_XTAL_FAIL) (h2 : k.Apart F.TB_STAT_XTAL_OK) :
    s.crystalGone.f 0 k = s.f 0 k := by
  rw [State.crystalGone, State.f_setTb, State.f_setF_of_apart _ _ _ h2, State.raise, State.f_setF_of_apart _ _ _ h1]

theorem State.crystalGone_asked (s : State) : s.SameAsked s.crystalGone :=
  (((State.SameAsked.refl s).raise (by decide)).setF 0 (by decide)).setTb _

theorem State.crystalGone_cnt (s : State) : s.crystalGone.f 0 F.TB_SWITCH_CNT_VALUE = s.f 0 F.TB_SWITCH_CNT_VALUE := by
  rw [State.crystalGone, State.f_setTb, State.f_setF_other _ _ (by decide), State.raise, State.f_setF_other _ _ (by decide)]

theorem State.crystalGone_onlySource (s : State) : s.OnlySource s.crystalGone := (((State.OnlySource.refl s).setF _ _ _).setF _ _ _).setTb _

theorem State.crystalLost_eq (s : State) :
    s.crystalLost = if s.tbActive = actCrystal then if s.refQual then s.crystalGone.toRefin else s.crystalGone.holdover else s.crystalGone := by
  have ha : s.crystalGone.tbActive = s.tbActive := s.f_crystalGone (by decide) (by decide)
  have hq : s.crystalGone.refQual = s.refQual := by rw [State.refQual, State.fb, s.f_crystalGone (by decide) (by decide)]; rfl
  rw [← ha, ← hq]
  rfl

theorem crystalLost_moves (s : State) :
    ∃ t, exec .crystalLost s = .next t ∧ t.fb 0 F.TB_STAT_XTAL_FAIL = true ∧ t.xtalOk = false ∧
      (s.tbActive = actCrystal → s.refQual = true → State.SwitchedTo actRefin s t) ∧
      (s.tbActive = actCrystal → s.refQual = false → s.InHoldover t ∧ t.fb 0 F.DEV_FLT_NOSRC = true) ∧
      (s.tbActive ≠ actCrystal → t.tbActive = s.tbActive ∧ (∀ a, a ≠ R.TB_STAT → t.w a = s.w a)) ∧ t.clk = s.clk ∧ s.SameMemory t := by
  obtain ⟨hfail, hx⟩ := s.crystalGone_flags
  refine ⟨_, rfl, ?_⟩
  rw [State.crystalLost_eq]
  by_cases ha : s.tbActive = actCrystal
  · rw [if_pos ha]
    cases hq : s.refQual with
    | true =>
      rw [if_pos rfl]
      have hframe := s.crystalGone_onlySource.toRefin
      refine ⟨?_, ?_, fun _ _ => s.crystalGone_asked.toRefin s.crystalGone_cnt, nofun, fun h => absurd ha h, hframe.clk, hframe.memory⟩
      · rw [State.fb, State.toRefin_eq, State.f_switched _ _ (by decide) (by decide) (by decide)]
        exact hfail
      · rw [State.xtalOk, State.fb, State.toRefin_eq, State.f_switched _ _ (by decide) (by decide) (by decide)]
        exact hx
    | false =>
      rw [if_neg Bool.false_ne_true]
      have hframe := s.crystalGone_onlySource.holdover
      have hhold := s.crystalGone_asked.holdover
      have hfl {k : Fld} (h1 : k.Apart F.TB_STAT_ACTIVE) (h2 : k.Apart F.TB_STAT_LOCKED) :
          s.crystalGone.holdover.fb 0 k = s.crystalGone.fb 0 k := by rw [State.fb, State.f_holdover _ h1 h2, State.fb]
      have hx' : s.crystalGone.holdover.xtalOk = false := (hfl (by decide) (by decide)).trans hx
      have hq' : s.crystalGone.holdover.refQual = false := by
        rw [State.refQual, hfl (by decide) (by decide), State.fb, s.f_crystalGone (by decide) (by decide)]
        exact hq
      exact ⟨(hfl (by decide) (by decide)).trans hfail, hx', nofun, fun _ _ => ⟨hhold, hhold.2.2.1 hq' hx'⟩, fun h => absurd ha h,
        hframe.clk, hframe.memory⟩
  · rw [if_neg ha]
    have hframe := s.crystalGone_onlySource
    refine ⟨hfail, hx, fun h => absurd h ha, fun h => absurd h ha, fun _ => ⟨s.f_crystalGone (by decide) (by decide), fun a h => ?_⟩,
      hframe.clk, hframe.memory⟩
    rw [State.crystalGone, State.w_setTb, State.w_setF_other _ (Ne.symm h), State.raise, State.w_setF_other _ (Ne.symm h)]

/-! ### The end of holdover (R38) -/

theorem holdoverEnd_joins (src : TbSource) (ha : s.tbActive = actHoldover)
    (hr : src = TbSource.refin → s.refQual = true ∧ F.TB_SRC_XTAL_ONLY.of (s.tvW R.TB_SRC) = 0) (hx : src = TbSource.crystal → s.xtalOk = true) :
    ∃ t, exec (.holdoverEnd src) s = .next t ∧ (src = TbSource.refin → State.SwitchedTo actRefin s t) ∧
      (src = TbSource.crystal → State.SwitchedTo actCrystal s t) ∧ t.tb.lostAt = none ∧ t.clk = s.clk ∧ s.SameMemory t := by
  refine ⟨_, rfl, ?_⟩
  unfold State.holdoverEnd
  rw [if_neg (not_not.2 ha)]
  cases src with
  | refin =>
    obtain ⟨hq, ho⟩ := hr rfl
    have hframe := (State.OnlySource.refl s).toRefin
    dsimp only
    rw [if_pos (by simp [hq, ho])]
    refine ⟨fun _ => (State.SameAsked.refl s).toRefin rfl, nofun, ?_, hframe.clk, hframe.memory⟩
    rw [State.toRefin_tb]
    rfl
  | crystal =>
    have hframe := (State.OnlySource.refl s).toCrystal
    dsimp only
    rw [if_pos (hx rfl)]
    exact ⟨nofun, fun _ => (State.SameAsked.refl s).toCrystal rfl, s.toCrystal_lostAt, hframe.clk, hframe.memory⟩

/-! ### TB_SRC (R38, R291) -/

theorem writeOwn_TB_SRC (s : State) (p : Path) (r : RegRow) (m w : Word) :
    s.writeOwn p (locate R.TB_SRC) R.TB_SRC r m w = s.writeTbSrc (w &&& r.rw) := rfl

/-- Clearing a field and masking commute. -/
theorem Fld.into_zero_and (f : Fld) (w m : Word) : f.into (w &&& m) 0 = f.into w 0 &&& m := by
  simp only [Fld.into, bitsSet]
  rw [show BitVec.ofNat 32 0 <<< f.lo = 0#32 by simp, BitVec.zero_and, BitVec.or_zero, BitVec.or_zero, BitVec.and_assoc, BitVec.and_comm m,
    ← BitVec.and_assoc]

theorem tbSrcWord_eq (w : Word) :
    (if F.TB_SRC_REF_FREQ.of (w &&& 0x37#32) = 3 then F.TB_SRC_REF_FREQ.into (w &&& 0x37#32) 0 else w &&& 0x37#32) = tbSrcWord w := by
  rw [Fld.of_and (by decide), Fld.into_zero_and, tbSrcWord]

/-- The bits apart from REF_FREQ are stored as written. -/
theorem of_tbSrcWord {f : Fld} (h : f.Apart F.TB_SRC_REF_FREQ) (hm : (0x37#32 : Word).extractLsb' f.lo f.len = BitVec.allOnes f.len) (w : Word) :
    f.of (tbSrcWord w) = f.of w := by
  obtain ⟨-, hf, hg, h⟩ := h
  unfold tbSrcWord
  split
  · rw [Fld.of_and hm, Fld.of_into_apart _ _ _ _ hf hg h]
  · rw [Fld.of_and hm]

/-- Without DRIFT_ACT's move a qualified REFIN may return. -/
theorem State.returnOpen_of_qual (hq : s.refQual = true) (hm : s.tb.driftMoved = false) : s.returnOpen = true := by
  simp [State.returnOpen, hq, hm]

/-- What a TB_SRC write that its guard has admitted comes to. -/
def State.TbSrcWritten (s : State) (w : Word) (t : State) : Prop :=
  t.tvW R.TB_SRC = tbSrcWord w ∧ (∀ a, a ≠ R.TB_SRC → t.tvW a = s.tvW a) ∧
    (F.TB_SRC_XTAL_ONLY.of (s.tvW R.TB_SRC) = 0 → F.TB_SRC_XTAL_ONLY.of w = 1 → s.tbActive = actRefin → s.xtalOk = true →
      State.SwitchedTo actCrystal s t) ∧
    (F.TB_SRC_XTAL_ONLY.of (s.tvW R.TB_SRC) = 0 → F.TB_SRC_XTAL_ONLY.of w = 1 → s.tbActive = actRefin → s.xtalOk = false → s.InHoldover t) ∧
    (F.TB_SRC_XTAL_ONLY.of (s.tvW R.TB_SRC) = 1 → F.TB_SRC_XTAL_ONLY.of w = 0 → (s.tbActive = actCrystal ∨ s.tbActive = actHoldover) →
      s.refQual = true → s.tb.driftMoved = false → State.SwitchedTo actRefin s t) ∧
    (F.TB_SRC_XTAL_ONLY.of w = 0 → F.TB_SRC_REVERT.of w = 1 → s.tbActive = actCrystal → s.refQual = true → s.tb.driftMoved = false →
      State.SwitchedTo actRefin s t) ∧
    (F.TB_SRC_XTAL_ONLY.of (s.tvW R.TB_SRC) = F.TB_SRC_XTAL_ONLY.of w → (s.tbActive ≠ actCrystal ∨ F.TB_SRC_REVERT.of w = 0) →
      t.regs = s.regs) ∧ t.clk = s.clk ∧ s.SameMemory t

/-- The source that a TB_SRC write moves to, of the state with the word stored. -/
theorem State.writeTbSrc_eq (s : State) (w : Word) :
    s.writeTbSrc (w &&& 0x37#32) =
      if F.TB_SRC_XTAL_ONLY.of (s.tvW R.TB_SRC) = 0 ∧ F.TB_SRC_XTAL_ONLY.of w = 1 ∧ s.tbActive = actRefin then
        if s.xtalOk then ((s.setTv R.TB_SRC (tbSrcWord w)).setTb { s.tb with wins := [] }).switched actCrystal
        else (s.setTv R.TB_SRC (tbSrcWord w)).holdover
      else if (F.TB_SRC_XTAL_ONLY.of (s.tvW R.TB_SRC) = 1 ∧ F.TB_SRC_XTAL_ONLY.of w = 0 ∧ (s.tbActive = actCrystal ∨ s.tbActive = actHoldover) ∨
          F.TB_SRC_XTAL_ONLY.of w = 0 ∧ F.TB_SRC_REVERT.of w = 1 ∧ s.tbActive = actCrystal) ∧ (s.setTv R.TB_SRC (tbSrcWord w)).returnOpen = true then
        (s.setTv R.TB_SRC (tbSrcWord w)).toRefin
      else s.setTv R.TB_SRC (tbSrcWord w) := by
  have honly : F.TB_SRC_XTAL_ONLY.of (tbSrcWord w) = F.TB_SRC_XTAL_ONLY.of w := of_tbSrcWord (by decide) (by decide) w
  have hrev : F.TB_SRC_REVERT.of (tbSrcWord w) = F.TB_SRC_REVERT.of w := of_tbSrcWord (by decide) (by decide) w
  have hact : (s.setTv R.TB_SRC (tbSrcWord w)).tbActive = s.tbActive := rfl
  unfold State.writeTbSrc
  dsimp only
  rw [tbSrcWord_eq, honly, hrev, hact]
  refine ite_congr (by simp [and_assoc]) (fun _ => rfl) fun _ => ?_
  rw [← ite_or]
  refine if_congr ?_ rfl rfl
  simp only [Bool.and_eq_true, Bool.or_eq_true, decide_eq_true_eq, or_and_right, and_assoc]

theorem State.writeTbSrc_written (s : State) (w : Word) : s.TbSrcWritten w (s.writeTbSrc (w &&& 0x37#32)) := by
  obtain ⟨u, hu⟩ : ∃ u, u = s.setTv R.TB_SRC (tbSrcWord w) := ⟨_, rfl⟩
  have hstored : u.tvW R.TB_SRC = tbSrcWord w := by rw [hu, State.tvW_setTv, if_pos rfl]
  have hothers (a : Nat) (ha : a ≠ R.TB_SRC) : u.tvW a = s.tvW a := by rw [hu, State.tvW_setTv, if_neg (Ne.symm ha)]
  have hasked : s.SameAsked u := hu ▸ (State.SameAsked.refl s).setTv _ _
  have hcnt : u.f 0 F.TB_SWITCH_CNT_VALUE = s.f 0 F.TB_SWITCH_CNT_VALUE := by rw [hu]; rfl
  have hopen : s.refQual = true → s.tb.driftMoved = false → u.returnOpen = true := fun hq hm => by
    rw [hu]
    exact State.returnOpen_of_qual hq hm
  have hclk : u.clk = s.clk := by rw [hu]; rfl
  have hmem : s.SameMemory u := by
    rw [hu]
    exact ⟨fun _ => rfl, fun _ => rfl, rfl, fun _ => rfl, fun _ => rfl⟩
  have hregs : u.regs = s.regs := by rw [hu]; rfl
  have ht := s.writeTbSrc_eq w
  rw [← hu] at ht
  clear hu
  generalize s.writeTbSrc (w &&& 0x37#32) = t at *
  have hframe : u.OnlySource t := by
    rw [ht]
    split_ifs
    · exact ((State.OnlySource.refl u).setTb _).switched _
    · exact (State.OnlySource.refl u).holdover
    · exact (State.OnlySource.refl u).toRefin
    · exact .refl u
  refine ⟨(hframe.tvW _).trans hstored, fun a h => (hframe.tvW a).trans (hothers a h), fun hold hnew ha hx => ?_, fun hold hnew ha hx => ?_,
    fun hold hnew ha hq hm => ?_, fun hnew hrev ha hq hm => ?_, fun heq h => ?_, hframe.clk.trans hclk, hmem.trans hframe.memory⟩
  · rw [ht, if_pos ⟨hold, hnew, ha⟩, if_pos hx]
    exact (hasked.setTb _).switched hcnt (by decide)
  · rw [ht, if_pos ⟨hold, hnew, ha⟩, if_neg (by simp [hx])]
    exact hasked.holdover
  · rw [ht, if_neg (by simp [hold]), if_pos ⟨.inl ⟨hold, hnew, ha⟩, hopen hq hm⟩]
    exact hasked.toRefin hcnt
  · rw [ht, if_neg (by simp [hnew]), if_pos ⟨.inr ⟨hnew, hrev, ha⟩, hopen hq hm⟩]
    exact hasked.toRefin hcnt
  · rw [ht, if_neg (by omega), if_neg ?_, hregs]
    rintro ⟨⟨hold, hnew, -⟩ | ⟨-, hrev, ha⟩, -⟩
    · omega
    · rcases h with h | h
      · exact h ha
      · omega

/-- The unlock that the write consumes is no part of it. -/
theorem State.TbSrcWritten.ofConsumed {x : Vector (Option Nat) 2} (h : State.TbSrcWritten { s with unlockBy := x } w t) : s.TbSrcWritten w t := h

theorem State.TbSrcWritten.modPath (h : s.TbSrcWritten w t) (p : Path) (g : PathSt → PathSt) : s.TbSrcWritten w (t.modPath p g) := h

theorem State.consumed_stands (s : State) (p : Path) : s.consumed p = { s with unlockBy := (s.consumed p).unlockBy } := by
  unfold State.consumed
  split <;> rfl

theorem tbSrcWrite_moves (hs : s.Serves) (hp : s.Writes p) (hu : s.Unlocked p) (w : Word) :
    ∃ t, exec (.tbSrcWrite p w) s = .next t ∧ s.TbSrcWritten w t := by
  obtain ⟨r, hr, hg, hrw, -⟩ := row_TB_SRC
  have hown : (s.consumed p).TbSrcWritten w ((s.consumed p).writeTbSrc (w &&& 0x37#32)) := (s.consumed p).writeTbSrc_written w
  have hod : (((s.consumed p).writeTbSrc (w &&& 0x37#32)).modPath p fun x => { x with resp := 0 }).od.mailbox = none := by
    rw [State.modPath_od, State.writeTbSrc_od, s.consumed_stands p]
    exact hs.2
  refine ⟨_, rfl, ?_⟩
  rw [State.wr_guarded (by decide) (by decide) (by decide) hp (by decide) hr hg (by decide) hs.1 hu, writeOwn_TB_SRC, hrw,
    State.serveMailbox_none hod]
  generalize (s.consumed p).writeTbSrc (w &&& 0x37#32) = t at *
  rw [s.consumed_stands p] at hown
  exact hown.ofConsumed.modPath _ _

/-- Settles O16: each clause is the lemma of its command and state above. -/
theorem sourceChangesAreMarked : Obligations.SourceChangesAreMarked := by
  unfold Obligations.SourceChangesAreMarked
  refine ⟨?_, ?_, ?_, ?_, ?_, ?_, ?_⟩
  · exact fun s h => refinLost_active h
  · exact fun s h => refinLost_elsewhere h
  · exact fun s n hl ha hx => crystalSelect_takesOver hl ha hx
  · exact fun s ha ho hr hx => refinReturn_returns ha ho hr hx
  · exact fun s => crystalLost_moves s
  · exact fun s src ha hr hx => holdoverEnd_joins src ha hr hx
  · exact fun s p w hs hp hu => tbSrcWrite_moves hs hp hu w

end Sys2Proof.Machine
end

section
/-!
PROOFS. Drift supervision (R39, R40), the wrap of ETS64 (R41) and the time snapshot (R44, R48).
-/

namespace Sys2Proof.Machine

variable {s t : State} {d e : Dom} {w : Word}

/-! ### Drift (R39, R40) -/

/-- A signed number of 32 bits reads back as it was put. -/
theorem signExt_i32Word {v : Int} (hl : -2147483648 ≤ v) (hu : v < 2147483648) : signExt 32 (i32Word v).toNat = v := by
  have hc : max (-2147483648 : Int) (min 2147483647 v) = v := by omega
  unfold i32Word satSigned signExt
  norm_num [hc]
  omega

/-- The offset leaves the limit about the baseline. -/
abbrev State.beyondLimit (s : State) (offs : Int) : Prop :=
  s.f 0 F.TB_DRIFT_LIM * 1000 < (signExt 32 (i32Word offs).toNat - signExt 32 (s.w R.TB_REF_BASE).toNat).natAbs

/-- The offset is stored, and whether it lies beyond the limit is kept. -/
def State.offsetTaken (offs : Int) (out : Bool) (s : State) : State :=
  (s.setW R.TB_REF_OFFS (i32Word offs)).setTb { s.tb with driftOver := out }

/-- DRIFT_ACT's move to the crystal (R40). -/
def State.driftMove (s : State) : State :=
  (s.setTb { s.tb with driftMoved := true, wins := [], afresh := [], baseDue := none }).switched actCrystal

theorem State.driftUpdate_eq (ha : s.tbActive = actRefin) (hx : s.xtalOk = true) (offs : Int) (out : Bool) (hout : out = true ↔ s.beyondLimit offs) :
    s.driftUpdate offs =
      if out = true ∧ s.tb.driftOver = false then
        if F.TB_SRC_DRIFT_ACT.of (s.tvW R.TB_SRC) = 1 then ((s.offsetTaken offs out).raise 0 F.TB_STAT_REF_DRIFT).driftMove
        else (s.offsetTaken offs out).raise 0 F.TB_STAT_REF_DRIFT
      else s.offsetTaken offs out := by
  have hbase : (s.setW R.TB_REF_OFFS (i32Word offs)).w R.TB_REF_BASE = s.w R.TB_REF_BASE := State.w_setW_other s _ (by decide)
  have hlim : (s.setW R.TB_REF_OFFS (i32Word offs)).f 0 F.TB_DRIFT_LIM = s.f 0 F.TB_DRIFT_LIM := by
    rw [State.f_setW, if_neg (by decide)]
  have hdec : decide (s.beyondLimit offs) = out := by
    cases out <;> simp_all
  unfold State.driftUpdate
  rw [if_neg (by simp [ha, hx])]
  dsimp only
  rw [State.w_setW_same, hbase, hlim]
  change (if (decide (s.beyondLimit offs) && !s.tb.driftOver) = true then _ else _) = _
  rw [hdec]
  refine if_congr (by simp) rfl rfl

theorem State.offsetTaken_asked (s : State) (offs : Int) (out : Bool) : s.SameAsked (s.offsetTaken offs out) :=
  ((State.SameAsked.refl s).setW _ (by decide)).setTb _

theorem State.w_driftMove (s : State) {a : Nat} (h : a < 0x100000) (h1 : a ≠ R.TB_STAT) (h2 : a ≠ R.TB_SWITCH_CNT) : s.driftMove.w a = s.w a := by
  have hs (x : Nat) (ha : x = R.TB_STAT) : 0 + x ≠ a := by omega
  rw [State.driftMove, State.switched_eq, State.w_raiseRef _ h, State.tookOver, State.w_markRefchg, State.countSat,
    State.w_setF_other _ (by simpa using Ne.symm h2), State.raise, State.w_setF_other _ (hs _ rfl), State.w_setF_other _ (hs _ rfl),
    State.w_setF_other _ (hs _ rfl), State.w_setTb]

theorem driftUpdate_supervises (ha : s.tbActive = actRefin) (hx : s.xtalOk = true) (offs : Int) :
    ∃ t, exec (.driftUpdate offs) s = .next t ∧ t.w R.TB_REF_OFFS = i32Word offs ∧
      (s.beyondLimit offs → s.tb.driftOver = false → t.fb 0 F.TB_STAT_REF_DRIFT = true ∧
        (F.TB_SRC_DRIFT_ACT.of (s.tvW R.TB_SRC) = 1 → State.SwitchedTo actCrystal s t ∧ t.tb.driftMoved = true)) ∧
      (s.beyondLimit offs → s.tb.driftOver = true → s.OnlyRegs t [R.TB_REF_OFFS]) ∧
      (¬s.beyondLimit offs → t.tb = { s.tb with driftOver := false } ∧ (∀ a, a ≠ R.TB_REF_OFFS → t.w a = s.w a)) ∧ t.clk = s.clk ∧
      s.SameMemory t := by
  have htaken (out : Bool) : s.OnlySource (s.offsetTaken offs out) := ((State.OnlySource.refl s).setW _ _).setTb _
  have hoffs (out : Bool) : (s.offsetTaken offs out).w R.TB_REF_OFFS = i32Word offs := State.w_setW_same s _ _
  have hothers (out : Bool) (a : Nat) (h : a ≠ R.TB_REF_OFFS) : (s.offsetTaken offs out).w a = s.w a := State.w_setW_other s _ (Ne.symm h)
  refine ⟨_, rfl, ?_⟩
  by_cases hb : s.beyondLimit offs
  · rw [State.driftUpdate_eq ha hx offs true (by simp [hb])]
    cases hd : s.tb.driftOver with
    | true =>
      rw [if_neg (by simp)]
      refine ⟨hoffs true, nofun, fun _ _ => ⟨?_, fun a h => hothers true a (by simpa using h)⟩, fun h => absurd hb h, (htaken true).clk, (htaken true).memory⟩
      have htb : { s.tb with driftOver := true } = s.tb := by rw [← hd]
      rw [State.offsetTaken, htb]
      rfl
    | false =>
      rw [if_pos ⟨rfl, rfl⟩]
      have hraised := (htaken true).setF 0 F.TB_STAT_REF_DRIFT 1
      have hflag : ((s.offsetTaken offs true).raise 0 F.TB_STAT_REF_DRIFT).fb 0 F.TB_STAT_REF_DRIFT = true := State.fb_raise _ _ rfl (by decide)
      have hw : ((s.offsetTaken offs true).raise 0 F.TB_STAT_REF_DRIFT).w R.TB_REF_OFFS = i32Word offs :=
        (State.w_setF_other _ (by decide)).trans (hoffs true)
      by_cases hact : F.TB_SRC_DRIFT_ACT.of (s.tvW R.TB_SRC) = 1
      · rw [if_pos hact]
        have hasked := ((s.offsetTaken_asked offs true).raise (k := F.TB_STAT_REF_DRIFT) (by decide))
        have hcnt : ((s.offsetTaken offs true).raise 0 F.TB_STAT_REF_DRIFT).f 0 F.TB_SWITCH_CNT_VALUE = s.f 0 F.TB_SWITCH_CNT_VALUE := by
          rw [State.raise, State.f_setF_other _ _ (by decide), State.offsetTaken, State.f_setTb, State.f_setW, if_neg (by decide)]
        have hframe := (hraised.setTb { (s.offsetTaken offs true).tb with driftMoved := true, wins := [], afresh := [], baseDue := none }).switched
          actCrystal
        refine ⟨?_, fun _ _ => ⟨?_, fun _ => ⟨?_, ?_⟩⟩, nofun, fun h => absurd hb h, hframe.clk, hframe.memory⟩
        · rw [State.w_driftMove _ (by decide) (by decide) (by decide), hw]
        · rw [State.fb, State.driftMove, State.f_switched _ _ (by decide) (by decide) (by decide)]
          exact hflag
        · exact (hasked.setTb _).switched hcnt (by decide)
        · rw [State.driftMove, State.switched_tb]
          rfl
      · rw [if_neg hact]
        exact ⟨hw, fun _ _ => ⟨hflag, fun h => absurd h hact⟩, nofun, fun h => absurd hb h, hraised.clk, hraised.memory⟩
  · rw [State.driftUpdate_eq ha hx offs false (by simp [hb]), if_neg (by simp)]
    exact ⟨hoffs false, fun h => absurd h hb, fun h => absurd h hb, fun _ => ⟨rfl, hothers false⟩, (htaken false).clk, (htaken false).memory⟩

/-! ### The baseline (R39) -/

theorem baselineCapture_stores {n : Nat} (hd : s.tb.baseDue = some n) (ha : s.tbActive = actRefin) (hx : s.xtalOk = true) (mean : Int) :
    ∃ t, exec (.baselineCapture mean) s = .next t ∧ t.w R.TB_REF_BASE = i32Word mean ∧ t.f 0 F.TB_DRIFT_REBASE = 0 ∧
      t.clk = (s.reach n).clk ∧ t.tb = { s.tb with baseDue := none } ∧
      (∀ a, a ∉ [R.TB_REF_BASE, R.TB_DRIFT] → t.w a = s.w a) ∧ t = { s with regs := t.regs, clk := t.clk, tb := t.tb } := by
  have e : s.baselineCapture mean =
      (((s.reach n).setTb { s.tb with baseDue := none }).setW R.TB_REF_BASE (i32Word mean)).setF 0 F.TB_DRIFT_REBASE 0 := by
    rw [State.baselineCapture, hd]
    dsimp only
    rw [if_pos (by simp [ha, hx])]
  have hframe : (s.reach n).OnlyRegsTb (s.baselineCapture mean) [R.TB_REF_BASE, R.TB_DRIFT] := by
    rw [e]
    exact (((State.OnlyRegsTb.refl _ _).setTb _).setW _ (by decide)).setF 0 (by decide)
  refine ⟨s.baselineCapture mean, rfl, ?_, ?_, ?_, ?_, fun a h => (hframe.2 a h).trans (s.w_reach n a), ?_⟩
  · rw [e, State.w_setF_other _ (by decide), State.w_setW_same]
  · rw [e, State.f_setF _ _ _ _ (by decide)]
    rfl
  · rw [hframe.1]
  · rw [e, State.setF_tb, State.setW_tb]
    rfl
  · rw [hframe.1, s.reach_stands n]

theorem writeOwn_TB_DRIFT (s : State) (p : Path) (r : RegRow) (m w : Word) :
    s.writeOwn p (locate R.TB_DRIFT) R.TB_DRIFT r m w =
      if F.TB_DRIFT_REBASE.of w = 1 then
        (s.setW R.TB_DRIFT (F.TB_DRIFT_LIM.hold 10 100000 (r.stored (s.w R.TB_DRIFT) w))).setTb { s.tb with baseDue := some (s.now + tkSec) }
      else s.setW R.TB_DRIFT (F.TB_DRIFT_LIM.hold 10 100000 (r.stored (s.w R.TB_DRIFT) w)) := rfl

theorem rebase_asks (hs : s.Serves) :
    ∃ t, exec .rebase s = .next t ∧ t.tb = { s.tb with baseDue := some (s.now + tkSec) } ∧
      (∀ a, a ≠ R.TB_DRIFT → t.w a = s.w a) ∧
      (10 ≤ s.f 0 F.TB_DRIFT_LIM → s.f 0 F.TB_DRIFT_LIM ≤ 100000 → t.f 0 F.TB_DRIFT_LIM = s.f 0 F.TB_DRIFT_LIM) ∧
      t = { s with regs := t.regs, tb := t.tb, paths := t.paths } := by
  obtain ⟨r, hr, hg, hrw, hc⟩ := row_TB_DRIFT
  have hlim : F.TB_DRIFT_LIM.of (r.stored (s.w R.TB_DRIFT) (F.TB_DRIFT_REBASE.into (s.w R.TB_DRIFT &&& r.rw) 1)) = s.f 0 F.TB_DRIFT_LIM := by
    rw [RegRow.of_stored (by rw [hrw]; decide) hc, Fld.of_into_apart _ _ _ _ (by decide) (by decide) (by decide), hrw, Fld.of_and (by decide)]
    rfl
  have hbit : F.TB_DRIFT_REBASE.of (F.TB_DRIFT_REBASE.into (s.w R.TB_DRIFT &&& r.rw) 1) = 1 := Fld.of_into _ _ _ (by decide)
  have e : s.wrCmd R.TB_DRIFT F.TB_DRIFT_REBASE = ((s.setW R.TB_DRIFT (F.TB_DRIFT_LIM.hold 10 100000
      (r.stored (s.w R.TB_DRIFT) (F.TB_DRIFT_REBASE.into (s.w R.TB_DRIFT &&& r.rw) 1)))).setTb { s.tb with baseDue := some (s.now + tkSec) }).modPath
        .host fun x => { x with resp := 0 } := by
    rw [State.wrCmd, hr]
    dsimp only
    rw [State.wr_unguarded hs s.writes_host (by decide) (by decide) (by decide) (by decide) (by decide) hr hg, writeOwn_TB_DRIFT, if_pos hbit]
  refine ⟨_, rfl, ?_⟩
  rw [e]
  refine ⟨rfl, fun a ha => State.w_setW_other s _ (Ne.symm ha), fun hlo hhi => ?_, rfl⟩
  rw [State.f_modPath, State.f_setTb, State.f_setW, if_pos (by decide), Fld.of_hold _ _ (by decide) (by decide) (by decide), hlim, clampNat]
  omega

/-! ### The wrap of ETS64 (R41) -/

theorem ets64Wrap_wraps (hr : s.clk.running = true) :
    ∃ t, exec .ets64Wrap s = .next t ∧ t = { s with clk := { epx := s.clk.epx + 1#32, ets := 0#64, running := true } } := by
  have hlt : s.now < (s.clk.epx.toNat + 1) * 2 ^ 64 := by
    have := s.clk.ets.isLt
    unfold State.now
    omega
  have hround : ((s.clk.epx.toNat + 1) * 2 ^ 64 + 255) / 256 * 256 = (s.clk.epx.toNat + 1) * 2 ^ 64 := by omega
  have hclk : s.clk.at ((s.clk.epx.toNat + 1) * 2 ^ 64) = { epx := s.clk.epx + 1#32, ets := 0#64, running := true } := by
    have hets : BitVec.ofNat 64 ((s.clk.epx.toNat + 1) * 2 ^ 64) = 0#64 := by
      apply BitVec.eq_of_toNat_eq
      simp
    have hepx : BitVec.ofNat 32 ((s.clk.epx.toNat + 1) * 2 ^ 64 / 2 ^ 64) = s.clk.epx + 1#32 := by
      apply BitVec.eq_of_toNat_eq
      simp only [BitVec.toNat_ofNat, BitVec.toNat_add]
      omega
    rw [Clock.at, hets, hepx, hr]
  refine ⟨_, rfl, ?_⟩
  rw [State.reach, if_pos (by simp only [hr, hlt, decide_true, Bool.and_self]), hround, hclk]

/-! ### Bits of a field -/

/-- A bit of a word with a field put. -/
theorem Fld.getLsbD_into (f : Fld) (w : Word) (v i : Nat) (h : f.lo + f.len ≤ 32) :
    (f.into w v).getLsbD i = if f.lo ≤ i ∧ i < f.lo + f.len then v.testBit (i - f.lo) else w.getLsbD i := by
  unfold Fld.into bitsSet
  rw [BitVec.getLsbD_or, BitVec.getLsbD_and, BitVec.getLsbD_and, BitVec.getLsbD_not, BitVec.getLsbD_shiftLeft, maskAt_getLsbD _ _ _ h,
    BitVec.getLsbD_ofNat]
  by_cases hi : f.lo ≤ i ∧ i < f.lo + f.len
  · have h32 : i < 32 := by omega
    have h32' : i - f.lo < 32 := by omega
    simp [hi, h32, h32']
  · rw [if_neg hi]
    have hm : (decide (f.lo ≤ i) && decide (i < f.lo + f.len)) = false := by simpa using hi
    rw [hm]
    by_cases h32 : i < 32
    · simp [h32]
    · rw [BitVec.getLsbD_of_ge _ _ (by omega)]
      simp

/-- A bit of a field's value is a bit of its word. -/
theorem Fld.testBit_of (f : Fld) (w : Word) {i : Nat} (h : i < f.len) : (f.of w).testBit i = w.getLsbD (f.lo + i) := by
  have hx : (w.extractLsb' f.lo f.len).getLsbD i = w.getLsbD (f.lo + i) := by
    rw [BitVec.getLsbD_extractLsb']
    simp [h]
  exact hx

/-! ### The snapshot (R44, R48) -/

/-- The first word of a domain's snapshot. -/
def snapAt (d : Dom) : Nat := R.TB_SNAP_TD_0 + 16 * d.val

/-- The four words of a domain's snapshot. -/
def State.snapWords (d : Dom) (w0 w1 w2 w3 : Word) (s : State) : State :=
  (((s.setW (snapAt d) w0).setW (snapAt d + 4) w1).setW (snapAt d + 8) w2).setW (snapAt d + 12) w3

/-- The bit of TD_VALID of a domain. -/
def validOf (d : Dom) : Fld := { F.TB_SNAP_CTL_TD_VALID with lo := 16 + d.val, len := 1 }

/-- The snapshot of one domain's time at device time n. -/
def State.snapDom (n : Nat) (d : Dom) (s : State) : State :=
  match s.maps[d] with
  | some m =>
    let u := s.snapWords d (BitVec.ofNat 32 (m.era.toNat * 65536 + (domParts (m.at n)).1 / 2 ^ 32)) (BitVec.ofNat 32 (domParts (m.at n)).1)
      (BitVec.ofNat 32 (domParts (m.at n)).2.1) (BitVec.ofNat 32 (domParts (m.at n)).2.2)
    u.setF 0 F.TB_SNAP_CTL_TD_VALID (u.f 0 F.TB_SNAP_CTL_TD_VALID ||| 2 ^ d.val)
  | none => (s.snapWords d 0#32 0#32 0#32 0#32).setF 0 (validOf d) 0

/-- DT96, before the domains. -/
def State.snapDevice (s : State) : State := (s.setW R.TB_SNAP_EPX s.clk.epx).setPair R.TB_SNAP_ETS_H s.clk.ets.toNat

theorem State.snapshot_eq (s : State) : s.snapshot = s.snapDevice.forAll (List.finRange 4) (State.snapDom s.now) := by
  unfold State.snapshot
  refine congrArg (fun g => s.snapDevice.forAll (List.finRange 4) g) (funext fun d => funext fun u => ?_)
  unfold State.snapDom
  cases u.maps[d] <;> rfl

/-- The validity of a domain's snapshot. -/
def State.snapValid (s : State) (d : Dom) : Bool := (s.f 0 F.TB_SNAP_CTL_TD_VALID).testBit d.val

theorem State.snapValid_eq (s : State) (d : Dom) : s.snapValid d = (s.w R.TB_SNAP_CTL).getLsbD (16 + d.val) :=
  Fld.testBit_of F.TB_SNAP_CTL_TD_VALID _ d.isLt

theorem State.w_snapWords (s : State) (d : Dom) (w0 w1 w2 w3 : Word) {a : Nat} (h : a < snapAt d ∨ snapAt d + 16 ≤ a) :
    (s.snapWords d w0 w1 w2 w3).w a = s.w a := by
  rw [State.snapWords, State.w_setW_other _ _ (by omega), State.w_setW_other _ _ (by omega), State.w_setW_other _ _ (by omega),
    State.w_setW_other _ _ (by omega)]

theorem snapCtl_lt (d : Dom) : R.TB_SNAP_CTL < snapAt d := by
  have : snapAt d = 0x1100 + 16 * d.val := rfl
  have : R.TB_SNAP_CTL = 0x1024 := rfl
  omega

theorem snapTd_le (d : Dom) : R.TB_SNAP_TD_0 ≤ snapAt d := Nat.le_add_right _ _

theorem State.snapValid_snapWords (s : State) (d e : Dom) (w0 w1 w2 w3 : Word) : (s.snapWords d w0 w1 w2 w3).snapValid e = s.snapValid e := by
  rw [State.snapValid_eq, State.snapValid_eq, State.w_snapWords _ _ _ _ _ _ (.inl (snapCtl_lt d))]

/-- A bit added to TD_VALID. -/
theorem State.snapValid_add (s : State) (d e : Dom) :
    (s.setF 0 F.TB_SNAP_CTL_TD_VALID (s.f 0 F.TB_SNAP_CTL_TD_VALID ||| 2 ^ d.val)).snapValid e = (s.snapValid e || decide (d = e)) := by
  have := e.isLt
  rw [State.snapValid, State.f_setF _ _ _ _ (by decide), Nat.testBit_mod_two_pow, Nat.testBit_or, Nat.testBit_two_pow, State.snapValid]
  simp [this, Fin.ext_iff]

/-- A bit taken from TD_VALID. -/
theorem State.snapValid_clear (s : State) (d e : Dom) : (s.setF 0 (validOf d) 0).snapValid e = (s.snapValid e && !decide (d = e)) := by
  have hd := d.isLt
  have hlo : (validOf d).lo = 16 + d.val := rfl
  have hlen : (validOf d).len = 1 := rfl
  rw [State.snapValid_eq, State.snapValid_eq, State.w_setF, if_pos (show 0 + (validOf d).addr = R.TB_SNAP_CTL from rfl), Fld.getLsbD_into _ _ _ _ (by omega), hlo, hlen]
  by_cases h : d = e
  · subst h
    simp
  · have hne : d.val ≠ e.val := fun hv => h (Fin.ext hv)
    rw [if_neg (by omega)]
    simp [h]

/-- A domain's snapshot is valid where the domain has a map. -/
theorem State.snapValid_snapDom (s : State) (n : Nat) (d : Dom) : (s.snapDom n d).snapValid d = s.maps[d].isSome := by
  unfold State.snapDom
  cases s.maps[d] with
  | some m =>
    dsimp only
    rw [State.snapValid_add]
    simp
  | none =>
    dsimp only
    rw [State.snapValid_clear]
    simp

theorem State.snapDom_none {n : Nat} (h : s.maps[d] = none) : (s.snapDom n d).w (snapAt d) = 0#32 ∧ (s.snapDom n d).w (snapAt d + 12) = 0#32 := by
  have hctl := snapCtl_lt d
  have ha : (validOf d).addr = R.TB_SNAP_CTL := rfl
  unfold State.snapDom
  rw [h]
  dsimp only
  rw [State.w_setF_other _ (by omega), State.w_setF_other _ (by omega)]
  unfold State.snapWords
  rw [State.w_setW_same, State.w_setW_other _ _ (by omega), State.w_setW_other _ _ (by omega), State.w_setW_other _ _ (by omega),
    State.w_setW_same]
  exact ⟨rfl, rfl⟩

theorem State.setF_stands (h : t = { s with regs := t.regs }) (f : Fld) (v : Nat) : t.setF 0 f v = { s with regs := (t.setF 0 f v).regs } := by
  rw [h]
  rfl

theorem State.setW_stands (h : t = { s with regs := t.regs }) (a : Nat) (v : Word) : t.setW a v = { s with regs := (t.setW a v).regs } := by
  rw [h]
  rfl

theorem State.snapWords_stands (s : State) (d : Dom) (w0 w1 w2 w3 : Word) :
    s.snapWords d w0 w1 w2 w3 = { s with regs := (s.snapWords d w0 w1 w2 w3).regs } := by
  unfold State.snapWords
  exact State.setW_stands (State.setW_stands (State.setW_stands (State.setW_stands rfl _ _) _ _) _ _) _ _

theorem State.snapDom_stands (s : State) (n : Nat) (d : Dom) : s.snapDom n d = { s with regs := (s.snapDom n d).regs } := by
  unfold State.snapDom
  cases s.maps[d] with
  | some m => exact State.setF_stands (s.snapWords_stands d _ _ _ _) _ _
  | none => exact State.setF_stands (s.snapWords_stands d _ _ _ _) _ _

/-- The snapshots of other domains than d may differ, and nothing else. -/
structure State.SnapsOthers (d : Dom) (s t : State) : Prop where
  stands : t = { s with regs := t.regs }
  words : ∀ a, snapAt d ≤ a → a < snapAt d + 16 → t.w a = s.w a
  valid : t.snapValid d = s.snapValid d

theorem State.SnapsOthers.trans {r : State} (h : s.SnapsOthers d t) (k : t.SnapsOthers d r) : s.SnapsOthers d r :=
  ⟨by rw [k.stands, h.stands], fun a ha hb => (k.words a ha hb).trans (h.words a ha hb), k.valid.trans h.valid⟩

/-- A domain's snapshot writes its own four words and TB_SNAP_CTL. -/
theorem State.w_snapDom (s : State) (n : Nat) {a : Nat} (h : a < snapAt d ∨ snapAt d + 16 ≤ a) (hc : a ≠ R.TB_SNAP_CTL) :
    (s.snapDom n d).w a = s.w a := by
  have hv : F.TB_SNAP_CTL_TD_VALID.addr = R.TB_SNAP_CTL := rfl
  have hv' : (validOf d).addr = R.TB_SNAP_CTL := rfl
  unfold State.snapDom
  cases s.maps[d] with
  | some m =>
    dsimp only
    rw [State.w_setF_other _ (by omega), State.w_snapWords _ _ _ _ _ _ h]
  | none =>
    dsimp only
    rw [State.w_setF_other _ (by omega), State.w_snapWords _ _ _ _ _ _ h]

/-- A domain's snapshot keeps the validity of the others'. -/
theorem State.snapValid_snapDom_other (h : e ≠ d) (n : Nat) (s : State) : (s.snapDom n e).snapValid d = s.snapValid d := by
  unfold State.snapDom
  cases s.maps[e] with
  | some m =>
    dsimp only
    rw [State.snapValid_add, State.snapValid_snapWords]
    simp [h]
  | none =>
    dsimp only
    rw [State.snapValid_clear, State.snapValid_snapWords]
    simp [h]

theorem State.snapDom_others (h : e ≠ d) (n : Nat) (s : State) : s.SnapsOthers d (s.snapDom n e) where
  stands := s.snapDom_stands n e
  words a ha hb := by
    have hne : e.val ≠ d.val := fun hv => h (Fin.ext hv)
    have hctl := snapCtl_lt d
    refine s.w_snapDom n ?_ (by omega)
    unfold snapAt at *
    omega
  valid := State.snapValid_snapDom_other h n s

/-- The snapshots of a list of domains. -/
def State.snapDoms (n : Nat) (l : List Dom) (s : State) : State := s.forAll l (State.snapDom n)

theorem State.snapDoms_stands (s : State) (n : Nat) (l : List Dom) : s.snapDoms n l = { s with regs := (s.snapDoms n l).regs } :=
  State.forAll_rel (rel := fun a b => b = { a with regs := b.regs }) (fun _ => rfl) (fun h k => by rw [k, h]) (fun d _ u => u.snapDom_stands n d) s

theorem State.snapDoms_device (s : State) (n : Nat) (l : List Dom) {a : Nat} (h : a < R.TB_SNAP_TD_0) (hc : a ≠ R.TB_SNAP_CTL) :
    (s.snapDoms n l).w a = s.w a :=
  s.forAll_frame (fun u => u.w a) (fun d u => u.w_snapDom n (.inl (h.trans_le (snapTd_le d))) hc) l

/-- A domain's snapshot of a list without repetition is its own. -/
theorem State.snapDoms_at (s : State) (n : Nat) {l : List Dom} (hn : l.Nodup) (hd : d ∈ l) :
    (s.snapDoms n l).snapValid d = s.maps[d].isSome ∧
      (s.maps[d] = none → (s.snapDoms n l).w (snapAt d) = 0#32 ∧ (s.snapDoms n l).w (snapAt d + 12) = 0#32) := by
  obtain ⟨l₁, l₂, rfl⟩ := List.append_of_mem hd
  have hnot : d ∉ l₂ := (List.nodup_cons.1 (List.nodup_append.1 hn).2.1).1
  have e : s.snapDoms n (l₁ ++ d :: l₂) = ((s.snapDoms n l₁).snapDom n d).snapDoms n l₂ := State.forAll_append ..
  have hmaps : (s.snapDoms n l₁).maps = s.maps := by rw [s.snapDoms_stands n l₁]
  have hafter : ((s.snapDoms n l₁).snapDom n d).SnapsOthers d (((s.snapDoms n l₁).snapDom n d).snapDoms n l₂) :=
    State.forAll_rel (rel := State.SnapsOthers d) (fun u => ⟨rfl, fun _ _ _ => rfl, rfl⟩) State.SnapsOthers.trans
      (fun c hc u => State.snapDom_others (ne_of_mem_of_not_mem hc hnot) n u) _
  rw [e]
  refine ⟨?_, fun h => ?_⟩
  · rw [hafter.valid, State.snapValid_snapDom, hmaps]
  · rw [hafter.words _ (by omega) (by omega), hafter.words _ (by omega) (by omega)]
    exact State.snapDom_none (by rw [hmaps, h])

theorem writeOwn_TB_SNAP_CTL (s : State) (p : Path) (r : RegRow) (m w : Word) :
    s.writeOwn p (locate R.TB_SNAP_CTL) R.TB_SNAP_CTL r m w = if F.TB_SNAP_CTL_CAPTURE.of w = 1 then s.snapshot else s := rfl

/-- What a snapshot of the state s leaves in the state t (R44, R48). -/
structure State.Latched (s t : State) : Prop where
  epx : t.w R.TB_SNAP_EPX = s.clk.epx
  ets : t.pair R.TB_SNAP_ETS_H = s.clk.ets.toNat
  valid : ∀ d : Dom, t.snapValid d = s.maps[d].isSome
  zero : ∀ d : Dom, s.maps[d] = none → t.w (snapAt d) = 0#32 ∧ t.w (snapAt d + 12) = 0#32
  stands : t = { s with regs := t.regs, paths := t.paths }

theorem State.Latched.modPath (h : s.Latched t) (p : Path) (g : PathSt → PathSt) : s.Latched (t.modPath p g) where
  epx := (t.w_modPath p g _).trans h.epx
  ets := (t.pair_modPath p g _).trans h.ets
  valid d := by rw [State.snapValid, State.f_modPath, ← State.snapValid, h.valid]
  zero d hd := by
    rw [State.w_modPath, State.w_modPath]
    exact h.zero d hd
  stands := by
    rw [h.stands]
    rfl

theorem State.snapDevice_stands (s : State) : s.snapDevice = { s with regs := s.snapDevice.regs } := rfl

theorem State.snapshot_latched (s : State) : s.Latched s.snapshot := by
  have hat (d : Dom) := s.snapDevice.snapDoms_at s.now (List.nodup_finRange 4) (List.mem_finRange d)
  have hlow (a : Nat) (h : a < R.TB_SNAP_TD_0) (hc : a ≠ R.TB_SNAP_CTL) := s.snapDevice.snapDoms_device s.now (List.finRange 4) h hc
  have hmaps : s.snapDevice.maps = s.maps := by rw [s.snapDevice_stands]
  have e : s.snapshot = s.snapDevice.snapDoms s.now (List.finRange 4) := s.snapshot_eq
  rw [hmaps] at hat
  rw [e]
  refine ⟨?_, ?_, fun d => (hat d).1, fun d => (hat d).2, ?_⟩
  · rw [hlow _ (by decide) (by decide), State.snapDevice, State.w_setPair, if_neg (by decide), if_neg (by decide), State.w_setW_same]
  · rw [State.pair, hlow _ (by decide) (by decide), hlow _ (by decide) (by decide), ← State.pair, State.snapDevice,
      State.pair_setPair _ _ s.clk.ets.isLt]
  · rw [s.snapDevice.snapDoms_stands, s.snapDevice_stands]

theorem snapCapture_latches (hs : s.Serves) : ∃ t, exec .snapCapture s = .next t ∧ s.Latched t := by
  obtain ⟨r, hr, hg, hrw, -⟩ := row_TB_SNAP_CTL
  refine ⟨_, rfl, ?_⟩
  rw [State.wrCmd_unguarded hs (by decide) (by decide) (by decide) (by decide) (by decide) hr hg hrw, writeOwn_TB_SNAP_CTL, if_pos (by decide)]
  exact s.snapshot_latched.modPath _ _

/-- Settles O17: each clause is the lemma of its command above. -/
theorem driftBaselineAndSnapshots : Obligations.DriftBaselineAndSnapshots := by
  unfold Obligations.DriftBaselineAndSnapshots
  refine ⟨fun s offs ha hx => ?_, fun s mean n hd ha hx => baselineCapture_stores hd ha hx mean, fun s hs => rebase_asks hs,
    fun s hr => ets64Wrap_wraps hr, fun s hs => ?_⟩
  · obtain ⟨t, ht, hw, hraise, hagain, hwithin, hclk, hmem⟩ := driftUpdate_supervises ha hx offs
    refine ⟨t, ht, hw, fun hl hu => ?_, hraise, hagain, fun h => hwithin (not_lt.2 h), hclk, hmem⟩
    rw [hw, signExt_i32Word hl hu]
  · obtain ⟨t, ht, hepx, hets, hvalid, hzero, hstands⟩ := snapCapture_latches hs
    exact ⟨t, ht, hepx, hets, hvalid, hzero, hstands⟩

end Sys2Proof.Machine
end

section
/-!
SUPPORT. The host's write of a channel register (R279), and what the write of each threshold register comes to (R62, R64,
R73, R83).
-/

namespace Sys2Proof.Machine

variable {s t : State} {n : Ch} {off : Nat} {r : RegRow} {w : Word}

/-! ### A write of a channel's register -/

theorem chBase_ge (n : Nat) : 0x100000 ≤ chBase n := by
  unfold chBase
  omega

theorem chBase_mod (n : Nat) : chBase n % 0x1000 = 0 := by
  unfold chBase
  omega

theorem State.writeOwn_chan (s : State) (p : Path) (n : Ch) (ho : off < 0x800) (r : RegRow) (m w : Word) :
    s.writeOwn p (locate (chBase n + off)) (chBase n + off) r m w = s.writeChan p n off r w := by
  have hn : chOf n = n := Fin.ext (Nat.mod_eq_of_lt n.isLt)
  rw [locate_chan n.isLt ho, State.writeOwn]
  dsimp only
  rw [hn]

section Host
variable (hs : s.Serves) (n : Ch) (ho : off < 0x800) (h4 : off % 4 = 0) (hr : (chanRows.find? fun r => r.covers off) = some r)
  (hg : r.guarded = false)
include hs ho h4 hr hg

theorem State.wr_chan (w : Word) : s.wr .host (chBase n + off) w = (s.writeChan .host n off r w).modPath .host fun x => { x with resp := 0 } := by
  have hmod := chBase_mod n
  have hne {c : Nat} (hc : c < 0x100000) : chBase n + off ≠ c := by
    have := chBase_ge n
    omega
  rw [State.wr_unguarded hs s.writes_host (by omega) (hne (by decide)) (hne (by decide)) (hne (by decide))
    (by rw [locate_chan n.isLt ho]; exact ⟨nofun, nofun, nofun⟩) ((rowAt_chan n.isLt ho).trans hr) hg, State.writeOwn_chan s _ n ho]

theorem State.wrCmd_chan (f : Fld) : s.wrCmd (chBase n + off) f =
    (s.writeChan .host n off r (f.into (s.w (chBase n + off) &&& r.rw) 1)).modPath .host fun x => { x with resp := 0 } := by
  unfold State.wrCmd
  rw [(rowAt_chan n.isLt ho).trans hr]
  exact State.wr_chan hs n ho h4 hr hg _

end Host

/-- A register of which the word writes and clears no bit stores what it held. -/
theorem RegRow.stored_none (hrw : r.rw = 0#32) (hw : w &&& r.w1c = 0#32) (old : Word) : r.stored old w = old := by
  rw [RegRow.stored, hw, hrw, BitVec.and_zero, BitVec.or_zero, show ~~~(0#32) = BitVec.allOnes 32 from rfl, BitVec.and_allOnes, BitVec.and_allOnes]

/-! ### The threshold registers -/

/-- No claim holds CH_PIN. -/
theorem State.writeChan_pin (s : State) (p : Path) (n : Ch) (r : RegRow) (w : Word) :
    s.writeChan p n R.CH_PIN r w = if F.CH_PIN_TEST.of w = 1 then (s.setW (chBase n + R.CH_PIN) (r.stored (s.w (chBase n + R.CH_PIN)) w)).pinTest n
      else s.setW (chBase n + R.CH_PIN) (r.stored (s.w (chBase n + R.CH_PIN)) w) := by
  unfold State.writeChan
  dsimp only
  rw [show claimOffs.contains R.CH_PIN = false from rfl, Bool.and_false, if_neg Bool.false_ne_true, if_neg (by decide), if_neg (by decide),
    if_neg (by decide), if_neg (by decide), if_neg (by decide), if_pos rfl]

/-- No claim holds CH_TDAC_Q. -/
theorem State.writeChan_tdacQ (s : State) (p : Path) (n : Ch) (r : RegRow) (w : Word) :
    s.writeChan p n R.CH_TDAC_Q r w = s.pushCode n (w.setWidth 18) := by
  unfold State.writeChan
  dsimp only
  rw [show claimOffs.contains R.CH_TDAC_Q = false from rfl, Bool.and_false, if_neg Bool.false_ne_true, if_neg (by decide), if_neg (by decide),
    if_neg (by decide), if_neg (by decide), if_pos rfl]

theorem State.writeChan_tdac (h : s.fb (chBase n) F.CH_HG_STAT_SVC_OWN = false) (p : Path) (r : RegRow) (w : Word) :
    s.writeChan p n R.CH_TDAC r w = (s.breakIdle n).writeTdac n (r.stored (s.w (chBase n + R.CH_TDAC)) w) := by
  unfold State.writeChan
  dsimp only
  rw [h, Bool.false_and, if_neg Bool.false_ne_true, if_neg (by decide), if_neg (by decide), if_neg (by decide), if_pos rfl]

theorem State.writeChan_dec (h : s.fb (chBase n) F.CH_HG_STAT_SVC_OWN = false) (p : Path) (r : RegRow) (w : Word) :
    s.writeChan p n R.CH_DEC r w =
      (if F.CH_DEC_RESYNC.of w = 1 then s.modChan n fun c => { c with decCount := 0 } else s).putShadow n R.CH_DEC
        (r.stored (s.w (chBase n + R.CH_DEC)) w) := by
  unfold State.writeChan
  dsimp only
  rw [h, Bool.false_and, if_neg Bool.false_ne_true, if_neg (by decide), if_neg (by decide), if_neg (by decide), if_neg (by decide),
    if_neg (by decide), if_neg (by decide), if_pos rfl]

end Sys2Proof.Machine
end

section
/-!
SUPPORT. Front ends, their calibration states and the spares: what an abandoned or ended calibration event may change
(R205, R207-R209), and the fields of a spare's and a channel's registers.
-/

namespace Sys2Proof.Machine

variable {s t r : State} {n m : Ch} {p q : Spare} {f g : Fld} {e : FrontEnd} {a b : Nat}

/-! ### Registers that a calibration event writes -/

/-- The calibration state of a front end, or the count of events. -/
def CalWord (a : Nat) : Prop := (∃ e : FrontEnd, a = feBase e + R.CH_CAL_STAT) ∨ a = R.CAL_EVT_H ∨ a = R.CAL_EVT_H + 4

/-- The other registers of a channel's or a spare's block are none of them. -/
theorem not_calWord (hb : b % 0x1000 = 0) (hge : 0x100000 ≤ b) (h : a < 0x1000 ∧ a ≠ R.CH_CAL_STAT) : ¬ CalWord (b + a) := by
  unfold R.CH_CAL_STAT at h
  rintro (⟨e, he⟩ | he | he)
  · have := feBase_mod e
    unfold R.CH_CAL_STAT at he
    omega
  · unfold R.CAL_EVT_H at he
    omega
  · unfold R.CAL_EVT_H at he
    omega

theorem not_calWord_chan (n : Nat) (h : a < 0x1000 ∧ a ≠ R.CH_CAL_STAT) : ¬ CalWord (chBase n + a) := not_calWord (chBase_mod n) (chBase_ge n) h

theorem not_calWord_spare (p : Nat) (h : a < 0x1000 ∧ a ≠ R.CH_CAL_STAT) : ¬ CalWord (spBase p + a) := by
  refine not_calWord ?_ ?_ h <;> unfold spBase <;> omega

/-- A spare's block and a channel's lie apart. -/
theorem spBase_ne_chBase (p : Spare) (n : Ch) (ha : a < 0x1000) (hb : b < 0x1000) : spBase p + a ≠ chBase n + b := by
  have := n.isLt
  unfold spBase chBase
  omega

/-! ### Calibration events that end (R205, R207-R209) -/

/-- Calibration states and front ends may differ, and nothing else. -/
structure State.OnlyCal (s t : State) : Prop where
  stands : t = { s with regs := t.regs, fes := t.fes }
  words : ∀ a, ¬ CalWord a → t.w a = s.w a

namespace State.OnlyCal

theorem refl (s : State) : s.OnlyCal s := ⟨rfl, fun _ _ => rfl⟩

theorem trans (h : s.OnlyCal t) (k : t.OnlyCal r) : s.OnlyCal r := ⟨by rw [k.stands, h.stands], fun a ha => (k.words a ha).trans (h.words a ha)⟩

theorem setFe (h : s.OnlyCal t) (e : FrontEnd) (x : FeSt) : s.OnlyCal (t.setFe e x) := h.trans ⟨rfl, fun _ _ => rfl⟩

theorem setW (h : s.OnlyCal t) (w : Word) (ha : CalWord a) : s.OnlyCal (t.setW a w) :=
  h.trans ⟨rfl, fun _ hb => t.w_setW_other w fun k => hb (k ▸ ha)⟩

theorem setF (h : s.OnlyCal t) (e : FrontEnd) (v : Nat) (hf : f.addr = R.CH_CAL_STAT) : s.OnlyCal (t.setF (feBase e) f v) :=
  h.setW _ (.inl ⟨e, by rw [hf]⟩)

theorem setPhase (h : s.OnlyCal t) (e : FrontEnd) (v : Nat) : s.OnlyCal (t.setPhase e v) := h.setF e v rfl

theorem countEvent (h : s.OnlyCal t) : s.OnlyCal (t.count R.CAL_EVT_H 1) :=
  .setW (.setW h _ (.inr (.inl rfl))) _ (.inr (.inr rfl))

theorem raiseCal (h : s.OnlyCal t) (e : FrontEnd) (cause : Nat) (sampler threshold : Bool) : s.OnlyCal (t.raiseCal e cause sampler threshold) := by
  have hasks := t.raiseCal_onlyAsks e cause sampler threshold
  exact h.trans ⟨hasks.stands, fun a ha => hasks.words a fun k hk => ha (.inl ⟨k, hk⟩)⟩

theorem raiseSpare (h : s.OnlyCal t) (p : Spare) : s.OnlyCal (t.raiseSpare p) := by
  unfold State.raiseSpare
  split
  · exact h.raiseCal ..
  · exact h

theorem calDone (h : s.OnlyCal t) (e : FrontEnd) : s.OnlyCal (t.calDone e) := by
  unfold State.calDone
  dsimp only
  split
  · exact .setPhase (.setFe h e _) e _
  · exact .countEvent (.setF (.setPhase (.setFe h e _) e _) e 0 rfl)

theorem field (h : s.OnlyCal t) (ha : ¬ CalWord (b + f.addr)) : t.f b f = s.f b f := by rw [State.f, h.words _ ha, State.f]

theorem now (h : s.OnlyCal t) : t.now = s.now := by rw [h.stands]; rfl

theorem clk (h : s.OnlyCal t) : t.clk = s.clk := by rw [h.stands]

theorem chans (h : s.OnlyCal t) : t.chans = s.chans := by rw [h.stands]

theorem spares (h : s.OnlyCal t) : t.spares = s.spares := by rw [h.stands]

theorem loanOf (h : s.OnlyCal t) (e : FrontEnd) : t.loanOf e = s.loanOf e := by
  have hst (p : Spare) : t.spState p = s.spState p := h.field (not_calWord_spare p (by decide))
  have how (p : Spare) : t.spOwner p = s.spOwner p := h.field (not_calWord_spare p (by decide))
  have hch (p : Spare) : t.spCh p = s.spCh p := by rw [State.spCh, h.field (not_calWord_spare p (by decide)), State.spCh]
  unfold State.loanOf
  simp only [hst, how, hch]

end State.OnlyCal

/-- A loan ends with its event, and there is none to end. -/
theorem State.endLoan_none (h : s.loanOf e = none) : s.endLoan e = s := by
  unfold State.endLoan
  rw [h]

theorem State.aborted_onlyCal (s : State) (e : FrontEnd) (x : FeSt) : s.OnlyCal ((s.setFe e x).raise (feBase e) F.CH_CAL_STAT_ABORTED) :=
  .setF (.setFe (.refl s) e x) e 1 rfl

/-- What breaks a part that ran without a route touches calibration states and front ends alone (R199). -/
theorem State.breakFree_onlyCal (s : State) (e : FrontEnd) : s.OnlyCal (s.breakFree e) := by
  unfold State.breakFree
  dsimp only
  split
  next h =>
    simp only [Bool.and_eq_true, Bool.not_eq_true', decide_eq_true_eq, Option.isNone_iff_eq_none] at h
    obtain ⟨⟨⟨hrun, hroute⟩, -⟩, hloan⟩ := h
    unfold State.calAbandon
    dsimp only
    rw [hrun, hroute, if_neg (by simp), if_pos rfl, if_neg Bool.false_ne_true]
    rw [State.endLoan_none (((s.aborted_onlyCal e _).loanOf e).trans hloan)]
    exact (s.aborted_onlyCal e _).setPhase e _
  next => exact .refl s

/-! ### The idle route is broken (R205) -/

/-- Calibration states, front ends and channel n's blind interval may differ, and nothing else. -/
structure State.OnlyIdle (n : Ch) (s t : State) : Prop where
  stands : t = { s with regs := t.regs, chans := t.chans, fes := t.fes }
  words : ∀ a, ¬ CalWord a → t.w a = s.w a
  chan : ∃ x, t.chan n = { s.chan n with blind := x }
  others : ∀ m : Ch, m ≠ n → t.chan m = s.chan m

theorem State.OnlyCal.idle (h : s.OnlyCal t) (n : Ch) : s.OnlyIdle n t := by
  have hchan (m : Ch) : t.chan m = s.chan m := by rw [State.chan, h.chans, State.chan]
  exact ⟨by rw [h.stands], h.words, ⟨(s.chan n).blind, hchan n⟩, fun m _ => hchan m⟩

theorem State.OnlyIdle.field (h : s.OnlyIdle n t) (ha : ¬ CalWord (b + f.addr)) : t.f b f = s.f b f := by rw [State.f, h.words _ ha, State.f]

theorem State.abandonThrOf_onlyIdle (s : State) (e : FrontEnd) (n : Ch) : s.OnlyIdle n (s.abandonThrOf e n) := by
  unfold State.abandonThrOf
  dsimp only
  have hcal : s.OnlyCal (((s.setFe e { s.fe e with idleRoute := false, slot := false, running := false }).raise (feBase e)
      F.CH_CAL_STAT_ABORTED).setF (feBase e) F.CH_CAL_STAT_PHASE 7) := (s.aborted_onlyCal e _).setF e 7 rfl
  generalize ((s.setFe e { s.fe e with idleRoute := false, slot := false, running := false }).raise (feBase e)
      F.CH_CAL_STAT_ABORTED).setF (feBase e) F.CH_CAL_STAT_PHASE 7 = t at *
  have hchan (m : Ch) : t.chan m = s.chan m := by rw [State.chan, hcal.chans, State.chan]
  split
  · refine ⟨by rw [hcal.stands]; rfl, hcal.words, ⟨_, by rw [State.chan_modChan_same, hchan]⟩, fun m hm => ?_⟩
    rw [State.chan_modChan_other _ _ (Ne.symm hm), hchan]
  · exact hcal.idle n

theorem State.breakIdle_onlyIdle (s : State) (n : Ch) : s.OnlyIdle n (s.breakIdle n) := by
  unfold State.breakIdle
  dsimp only
  split
  · exact s.abandonThrOf_onlyIdle _ n
  · exact (State.OnlyCal.refl s).idle n

/-! ### What thresholds, spares and pin tests may change -/

/-- Registers, channels, front ends, spares and their marks in records and blocks may differ, and nothing else. -/
def State.OnlyFabric (s t : State) : Prop :=
  t = { s with regs := t.regs, tv := t.tv, chans := t.chans, spares := t.spares, fes := t.fes, units := t.units, blocks := t.blocks }

namespace State.OnlyFabric

theorem refl (s : State) : s.OnlyFabric s := rfl

theorem trans (h : s.OnlyFabric t) (k : t.OnlyFabric r) : s.OnlyFabric r := by
  rw [State.OnlyFabric] at *
  rw [k, h]

theorem setW (h : s.OnlyFabric t) (a : Nat) (w : Word) : s.OnlyFabric (t.setW a w) := h.trans rfl
theorem setF (h : s.OnlyFabric t) (b : Nat) (f : Fld) (v : Nat) : s.OnlyFabric (t.setF b f v) := h.trans rfl
theorem setTv (h : s.OnlyFabric t) (a : Nat) (w : Word) : s.OnlyFabric (t.setTv a w) := h.trans rfl
theorem setChan (h : s.OnlyFabric t) (n : Ch) (c : Chan) : s.OnlyFabric (t.setChan n c) := h.trans rfl
theorem modChan (h : s.OnlyFabric t) (n : Ch) (k : Chan → Chan) : s.OnlyFabric (t.modChan n k) := h.trans rfl
theorem setSpare (h : s.OnlyFabric t) (p : Spare) (x : SpareSt) : s.OnlyFabric (t.setSpare p x) := h.trans rfl
theorem spareBegins (h : s.OnlyFabric t) (n : Ch) : s.OnlyFabric (t.spareBegins n) := h.trans rfl
theorem spareEnds (h : s.OnlyFabric t) (n : Ch) : s.OnlyFabric (t.spareEnds n) := h.trans rfl
theorem markSpare (h : s.OnlyFabric t) (n : Ch) : s.OnlyFabric (t.markSpare n) := h.trans rfl

theorem cal (h : s.OnlyFabric t) (k : t.OnlyCal r) : s.OnlyFabric r := h.trans (by rw [State.OnlyFabric, k.stands])
theorem idle (h : s.OnlyFabric t) (k : t.OnlyIdle n r) : s.OnlyFabric r := h.trans (by rw [State.OnlyFabric, k.stands])

theorem clk (h : s.OnlyFabric t) : t.clk = s.clk := by rw [h]

theorem now (h : s.OnlyFabric t) : t.now = s.now := by rw [State.now, h.clk, State.now]

theorem memory (h : s.OnlyFabric t) : s.SameMemory t := by
  rw [h]
  exact ⟨fun _ => rfl, fun _ => rfl, rfl, fun _ => rfl, fun _ => rfl⟩

end State.OnlyFabric

end Sys2Proof.Machine
end

section
/-!
PROOFS. Held markers and the end of blind intervals (R60, R82, R83, R87, R88, R337).
-/

namespace Sys2Proof.Machine

variable {s t : State} {n : Ch} {c d : Chan} {b : BlindSt} {m : FEntry} {now : Nat}

/-! ### Markers into the FIFO (R82, R87, R337) -/

/-- Held markers that move keep their order behind the FIFO's entries. -/
theorem Chan.flushHeld_order (c : Chan) : c.flushHeld.fifo ++ c.flushHeld.held = c.fifo ++ c.held := by
  simp [Chan.flushHeld, List.append_assoc]

theorem Chan.flushHeld_held (h : c.fifo.length + c.held.length ≤ fifoDepth) : c.flushHeld.held = [] :=
  List.drop_eq_nil_of_le (by omega)

theorem Chan.pushMarker_order (m : FEntry) (c : Chan) :
    (c.pushMarker m).fifo ++ (c.pushMarker m).held = c.fifo ++ c.held ++ (if c.stampsMarker then [FEntry.abs] else []) ++ [m] := by
  rw [Chan.pushMarker, Chan.flushHeld_order]
  cases c.stampsMarker <;> simp

/-- A marker and its stamp find their entries where two are free. -/
theorem Chan.pushMarker_held (hh : c.held = []) (hf : c.fifo.length + 1 < fifoDepth) : (c.pushMarker m).held = [] := by
  refine Chan.flushHeld_held ?_
  cases c.stampsMarker <;> simp [hh] <;> omega

/-! ### The spacing window leaves the blind interval (R82) -/

/-- Whether an overflow is among the causes of the blind interval. -/
def Chan.ovfBlind (c : Chan) : Bool := match c.blind with | some b => b.causes.ovf | none => false

/-- The channel with another blind interval. -/
def Chan.reblind (x : Option BlindSt) (c : Chan) : Chan := { c with blind := x }

theorem Chan.pushMarker_reblind {x : Option BlindSt} (h : (c.reblind x).ovfBlind = c.ovfBlind) (m : FEntry) :
    (c.reblind x).pushMarker m = (c.pushMarker m).reblind x := by
  have hs : (c.reblind x).stampsMarker = c.stampsMarker := congrArg (fun o => c.stampDue && !o) h
  unfold Chan.pushMarker
  rw [hs]
  rfl

theorem Chan.foldMarkers_reblind {x : Option BlindSt} (l : List FEntry) (h : (c.reblind x).ovfBlind = c.ovfBlind) :
    l.foldl (fun (c : Chan) (m : FEntry) => c.pushMarker m) (c.reblind x) =
      (l.foldl (fun (c : Chan) (m : FEntry) => c.pushMarker m) c).reblind x := by
  induction l generalizing c with
  | nil => rfl
  | cons m l ih =>
    rw [List.foldl_cons, List.foldl_cons, Chan.pushMarker_reblind h]
    exact ih h

theorem Chan.settleAll_reblind {x : Option BlindSt} (h : (c.reblind x).ovfBlind = c.ovfBlind) :
    (c.reblind x).settleAll = c.settleAll.reblind x := by
  have key (e : Chan) (he : (e.reblind x).ovfBlind = e.ovfBlind) :
      (e.later.foldl (fun (c : Chan) (m : FEntry) => c.pushMarker m) { e.reblind x with later := [] }).flushHeld =
        (e.later.foldl (fun (c : Chan) (m : FEntry) => c.pushMarker m) { e with later := [] }).flushHeld.reblind x :=
    congrArg Chan.flushHeld (Chan.foldMarkers_reblind (c := { e with later := [] }) e.later he)
  obtain ⟨y, hy⟩ : ∃ y, y = c.crowd := ⟨_, rfl⟩
  unfold Chan.settleAll
  dsimp only
  rw [show (c.reblind x).crowd = c.crowd from rfl]
  cases c.crowd with
  | none => exact key c h
  | some k =>
    dsimp only
    rw [show ({ c.reblind x with crowd := none } : Chan) = ({ c with crowd := none } : Chan).reblind x from rfl,
      Chan.pushMarker_reblind (by exact h)]
    exact key _ h

theorem Chan.settle_reblind {x : Option BlindSt} (h : (c.reblind x).ovfBlind = c.ovfBlind) (now : Nat) :
    (c.reblind x).settle now = (c.settle now).reblind x := by
  unfold Chan.settle
  rw [Chan.settleAll_reblind h]
  exact (apply_ite (Chan.reblind x) _ _ _).symm

/-! ### What a marker may change of a channel -/

/-- The FIFO, what waits before it and the stamp may differ, and nothing else of the channel. -/
def Chan.OnlyMarks (c d : Chan) : Prop :=
  d = { c with fifo := d.fifo, held := d.held, later := d.later, crowd := d.crowd, stampDue := d.stampDue }

theorem Chan.OnlyMarks.trans {e : Chan} (h : c.OnlyMarks d) (k : d.OnlyMarks e) : c.OnlyMarks e := by
  rw [Chan.OnlyMarks] at *
  rw [k, h]

theorem Chan.pushMarker_onlyMarks (m : FEntry) (c : Chan) : c.OnlyMarks (c.pushMarker m) := rfl

theorem Chan.foldMarkers_onlyMarks (l : List FEntry) (c : Chan) : c.OnlyMarks (l.foldl (fun (c : Chan) (m : FEntry) => c.pushMarker m) c) := by
  induction l generalizing c with
  | nil => rfl
  | cons m l ih => exact (c.pushMarker_onlyMarks m).trans (ih _)

theorem Chan.settleAll_onlyMarks (c : Chan) : c.OnlyMarks c.settleAll := by
  have key (e : Chan) : e.OnlyMarks (e.later.foldl (fun (c : Chan) (m : FEntry) => c.pushMarker m) { e with later := [] }).flushHeld :=
    ((show e.OnlyMarks { e with later := [] } from rfl).trans (Chan.foldMarkers_onlyMarks _ _)).trans rfl
  unfold Chan.settleAll
  cases c.crowd with
  | none => exact key c
  | some k => exact ((show c.OnlyMarks { c with crowd := none } from rfl).trans (Chan.pushMarker_onlyMarks _ _)).trans (key _)

theorem Chan.settle_onlyMarks (now : Nat) (c : Chan) : c.OnlyMarks (c.settle now) := by
  unfold Chan.settle
  split
  · rfl
  · exact c.settleAll_onlyMarks

theorem Chan.OnlyMarks.windowOpen (h : c.OnlyMarks d) (now : Nat) : d.windowOpen now = c.windowOpen now := by rw [h]; rfl

theorem Chan.OnlyMarks.blind (h : c.OnlyMarks d) : d.blind = c.blind := by rw [h]

theorem Chan.marker_onlyMarks (now : Nat) (m : FEntry) (c : Chan) : c.OnlyMarks (c.marker now m) := by
  unfold Chan.marker
  dsimp only
  split
  · exact (c.settle_onlyMarks now).trans rfl
  · exact (c.settle_onlyMarks now).trans (Chan.pushMarker_onlyMarks m _)

/-- A marker is put behind the spacing window, or waits for it. -/
theorem Chan.marker_marked (now : Nat) (m : FEntry) (c : Chan) : c.Marked now m (c.marker now m) := by
  have hw := (c.settle_onlyMarks now).windowOpen now
  unfold Chan.Marked Chan.marker
  dsimp only
  rw [hw]
  refine ⟨fun ho => ?_, fun hc => ?_⟩
  · have hs : c.settle now = c := if_pos ho
    rw [if_pos ho, hs]
    exact ⟨rfl, rfl, rfl⟩
  · rw [if_neg (by simp [hc])]
    exact ⟨Chan.pushMarker_order .., Chan.pushMarker_held⟩

/-- Where a marker goes does not depend on the blind interval but for its overflow. -/
theorem Chan.Marked.of_reblind {x : Option BlindSt} (h : (c.reblind x).ovfBlind = c.ovfBlind) (hm : (c.reblind x).Marked now m d) : c.Marked now m d := by
  have hs : ((c.settle now).reblind x).stampsMarker = (c.settle now).stampsMarker := by
    refine congrArg (fun o => (c.settle now).stampDue && !o) ?_
    calc ((c.settle now).reblind x).ovfBlind = c.ovfBlind := h
      _ = (c.settle now).ovfBlind := by rw [Chan.ovfBlind, Chan.ovfBlind, (c.settle_onlyMarks now).blind]
  unfold Chan.Marked at *
  rw [Chan.settle_reblind h, hs] at hm
  exact hm

/-! ### Updates of registers and channels -/

/-- Registers and channels may differ, and nothing else. -/
def State.OnlyChans (s t : State) : Prop := t = { s with regs := t.regs, chans := t.chans }

theorem State.OnlyChans.refl (s : State) : s.OnlyChans s := rfl

theorem State.OnlyChans.trans {r : State} (h : s.OnlyChans t) (k : t.OnlyChans r) : s.OnlyChans r := by
  rw [State.OnlyChans] at *
  rw [k, h]

theorem State.OnlyChans.modChan (h : s.OnlyChans t) (n : Ch) (g : Chan → Chan) : s.OnlyChans (t.modChan n g) := h.trans rfl

theorem State.OnlyChans.setF (h : s.OnlyChans t) (b : Nat) (f : Fld) (v : Nat) : s.OnlyChans (t.setF b f v) := h.trans rfl

/-! ### The end of a blind interval (R60, R83) -/

/-- Interval b of channel n has ended, with its marker and its flags; registers and that channel may differ, and nothing else. -/
structure State.BlindWritten (n : Ch) (b : BlindSt) (s t : State) : Prop where
  ended : (s.chan n).BlindEnded s.now b (t.chan n)
  seen : t.fb (chBase n) F.CH_STAT_BLIND = true
  cleared : t.fb (chBase n) F.CH_STAT_OVF_BLIND = false
  words : ∀ a, a ∉ [chBase n + R.CH_STAT, chBase n + R.CH_PIN] → t.w a = s.w a
  others : ∀ m : Ch, m ≠ n → t.chan m = s.chan m
  stands : t = { s with regs := t.regs, chans := t.chans }

theorem State.writeBlind_ended (s : State) (n : Ch) (b : BlindSt) : (s.chan n).BlindEnded s.now b ((s.writeBlind n b).chan n) := by
  unfold State.writeBlind
  rw [State.chan_setF, State.chan_setF, State.chan_raise, State.chan_modChan_same]
  exact ⟨rfl, rfl, Chan.marker_marked ..⟩

theorem State.writeBlind_seen (s : State) (n : Ch) (b : BlindSt) : (s.writeBlind n b).fb (chBase n) F.CH_STAT_BLIND = true := by
  unfold State.writeBlind
  rw [State.fb_setF_other _ (by simp), State.fb_setF_of_apart _ _ _ (by decide), State.fb_raise _ _ rfl (by decide)]

theorem State.writeBlind_cleared (s : State) (n : Ch) (b : BlindSt) : (s.writeBlind n b).fb (chBase n) F.CH_STAT_OVF_BLIND = false := by
  unfold State.writeBlind
  rw [State.fb_setF_other _ (by simp), State.fb, State.f_setF _ _ _ _ (by decide)]
  rfl

theorem State.w_writeBlind (s : State) (n : Ch) (b : BlindSt) {a : Nat} (hstat : a ≠ chBase n + R.CH_STAT) (hpin : a ≠ chBase n + R.CH_PIN) :
    (s.writeBlind n b).w a = s.w a := by
  unfold State.writeBlind
  rw [State.w_setF_other _ (Ne.symm hpin), State.w_setF_other _ (Ne.symm hstat), State.raise, State.w_setF_other _ (Ne.symm hstat), State.w_modChan]

theorem State.chan_writeBlind_other (s : State) {n m : Ch} (b : BlindSt) (h : m ≠ n) : (s.writeBlind n b).chan m = s.chan m := by
  unfold State.writeBlind
  rw [State.chan_setF, State.chan_setF, State.chan_raise, State.chan_modChan_other _ _ (Ne.symm h)]

theorem State.writeBlind_onlyChans (s : State) (n : Ch) (b : BlindSt) : s.OnlyChans (s.writeBlind n b) := by
  unfold State.writeBlind
  exact ((((State.OnlyChans.refl s).modChan n _).setF _ _ _).setF _ _ _).setF _ _ _

theorem State.writeBlind_written (s : State) (n : Ch) (b : BlindSt) : s.BlindWritten n b (s.writeBlind n b) where
  ended := s.writeBlind_ended n b
  seen := s.writeBlind_seen n b
  cleared := s.writeBlind_cleared n b
  words a ha := by
    simp only [List.mem_cons, List.not_mem_nil, or_false, not_or] at ha
    exact s.w_writeBlind n b ha.1 ha.2
  others _ hm := s.chan_writeBlind_other b hm
  stands := s.writeBlind_onlyChans n b

theorem State.tryEndBlind_ends (hb : (s.chan n).blind = some b) (ho : b.ovfWait = false) (h : s.MayEndBlind n b) :
    s.tryEndBlind n = s.writeBlind n b := by
  obtain ⟨htest, hend, hheld, hfifo⟩ := h
  unfold State.tryEndBlind
  dsimp only
  rw [((s.chan n).settle_onlyMarks s.now).blind, hb]
  dsimp only
  rw [if_neg (by simp [ho, htest, hend]), if_pos (by simp [hheld, hfifo])]

theorem State.tryEndBlind_stays (hb : (s.chan n).blind = some b) (h : b.ovfWait = true ∨ ¬ s.MayEndBlind n b) : s.tryEndBlind n = s := by
  unfold State.tryEndBlind
  dsimp only
  rw [((s.chan n).settle_onlyMarks s.now).blind, hb]
  dsimp only
  split_ifs with hw hfree
  · rfl
  · simp only [Bool.or_eq_true, decide_eq_true_eq, not_or, Bool.not_eq_true, not_lt] at hw
    simp only [Bool.and_eq_true, List.isEmpty_iff, decide_eq_true_eq] at hfree
    obtain ⟨⟨howait, htest⟩, hend⟩ := hw
    rw [howait] at h
    exact absurd ⟨htest, hend, hfree.1, hfree.2⟩ (h.resolve_left (by simp))
  · rfl

theorem State.tryEndBlind_none (hb : (s.chan n).blind = none) : s.tryEndBlind n = s := by
  unfold State.tryEndBlind
  dsimp only
  rw [((s.chan n).settle_onlyMarks s.now).blind, hb]

/-! ### OVF_UNMASK (R88) -/

/-- The wait for an overflow ends. -/
def State.unwait (n : Ch) (b : BlindSt) (s : State) : State := s.setChan n ((s.chan n).reblind (some { b with ovfWait := false }))

theorem State.unwait_blind (s : State) : ((s.unwait n b).chan n).blind = some { b with ovfWait := false } := by
  rw [State.unwait, State.chan_setChan_same]
  rfl

theorem Chan.unwait_ovfBlind (hb : c.blind = some b) : (c.reblind (some { b with ovfWait := false })).ovfBlind = c.ovfBlind := by
  simp [Chan.ovfBlind, Chan.reblind, hb]

theorem State.mayEndBlind_unwait (hb : (s.chan n).blind = some b) :
    (s.unwait n b).MayEndBlind n { b with ovfWait := false } ↔ s.MayEndBlind n b := by
  unfold State.MayEndBlind
  rw [State.unwait, State.chan_setChan_same, Chan.settle_reblind (Chan.unwait_ovfBlind hb)]
  rfl

theorem State.ovfUnmask_low (hb : (s.chan n).blind = some b) (ho : b.ovfWait = true) (hf : (s.chan n).fifo.length ≤ 64) :
    s.ovfUnmask n = (s.unwait n b).tryEndBlind n := by
  unfold State.ovfUnmask
  dsimp only
  rw [hb]
  dsimp only
  rw [if_pos (by simp [ho, hf])]
  rfl

/-- The end of an interval that waited for its overflow is the end of the interval as it stood before. -/
theorem State.BlindWritten.of_unwait (hb : (s.chan n).blind = some b) (h : (s.unwait n b).BlindWritten n { b with ovfWait := false } t) :
    s.BlindWritten n b t where
  ended := by
    obtain ⟨hnone, hdec, hmark⟩ := h.ended
    rw [State.unwait, State.chan_setChan_same] at hmark
    exact ⟨hnone, hdec, Chan.Marked.of_reblind (Chan.unwait_ovfBlind hb) hmark⟩
  seen := h.seen
  cleared := h.cleared
  words := h.words
  others m hm := (h.others m hm).trans (s.chan_setChan_other _ (Ne.symm hm))
  stands := by rw [h.stands]; rfl

theorem ovfUnmask_ends (hb : (s.chan n).blind = some b) (ho : b.ovfWait = true) (hf : (s.chan n).fifo.length ≤ 64) (h : s.MayEndBlind n b) :
    ∃ t, exec (.ovfUnmask n) s = .next t ∧ s.BlindWritten n b t := by
  refine ⟨_, rfl, ?_⟩
  rw [State.ovfUnmask_low hb ho hf, State.tryEndBlind_ends s.unwait_blind rfl ((State.mayEndBlind_unwait hb).2 h)]
  exact (State.writeBlind_written _ n _).of_unwait hb

theorem ovfUnmask_waits (hb : (s.chan n).blind = some b) (ho : b.ovfWait = true) (hf : (s.chan n).fifo.length ≤ 64) (h : ¬ s.MayEndBlind n b) :
    ∃ t, exec (.ovfUnmask n) s = .next t ∧ t = s.unwait n b := by
  refine ⟨_, rfl, ?_⟩
  rw [State.ovfUnmask_low hb ho hf, State.tryEndBlind_stays s.unwait_blind (.inr (mt (State.mayEndBlind_unwait hb).1 h))]

theorem ovfUnmask_idle (h : 64 < (s.chan n).fifo.length ∨ (s.chan n).blind.all (fun (b : BlindSt) => !b.ovfWait) = true) :
    ∃ t, exec (.ovfUnmask n) s = .next t ∧ t = s := by
  refine ⟨_, rfl, ?_⟩
  unfold State.ovfUnmask
  dsimp only
  cases hb : (s.chan n).blind with
  | none => rfl
  | some b =>
    dsimp only
    rw [if_neg]
    rcases h with h | h
    · simp [h]
    · rw [hb] at h
      simp_all

/-! ### BLIND_MARKER_DEFERRED and BLIND_INTERVAL_END (R60, R337) -/

theorem blindMarkerDeferred_ends (hb : (s.chan n).blind = some b) (ho : b.ovfWait = false)
    (h : (s.setChan n (s.chan n).flushHeld).MayEndBlind n b) :
    ∃ t, exec (.blindMarkerDeferred n) s = .next t ∧ (s.setChan n (s.chan n).flushHeld).BlindWritten n b t := by
  have hb' : ((s.setChan n (s.chan n).flushHeld).chan n).blind = some b := by
    rw [State.chan_setChan_same]
    exact hb
  exact ⟨_, rfl, State.tryEndBlind_ends hb' ho h ▸ State.writeBlind_written _ n b⟩

theorem blindMarkerDeferred_waits (h : ∀ b ∈ (s.chan n).blind, b.ovfWait = true ∨ ¬ (s.setChan n (s.chan n).flushHeld).MayEndBlind n b) :
    ∃ t, exec (.blindMarkerDeferred n) s = .next t ∧ t = s.setChan n (s.chan n).flushHeld := by
  have hblind : ((s.setChan n (s.chan n).flushHeld).chan n).blind = (s.chan n).blind := by
    rw [State.chan_setChan_same]
    rfl
  refine ⟨_, rfl, ?_⟩
  cases hb : (s.chan n).blind with
  | none => exact State.tryEndBlind_none (hblind.trans hb)
  | some b => exact State.tryEndBlind_stays (hblind.trans hb) (h b hb)

theorem State.blindEnd_some (hb : (s.chan n).blind = some b) : s.blindEnd n = (s.reach b.endBy).tryEndBlind n := by
  unfold State.blindEnd
  rw [hb]

theorem State.blindEnd_none (hb : (s.chan n).blind = none) : s.blindEnd n = s := by
  unfold State.blindEnd
  rw [hb]

theorem blindIntervalEnd_ends (hb : (s.chan n).blind = some b) (ho : b.ovfWait = false) (h : (s.reach b.endBy).MayEndBlind n b) :
    ∃ t, exec (.blindIntervalEnd n) s = .next t ∧ (s.reach b.endBy).BlindWritten n b t := by
  refine ⟨_, rfl, ?_⟩
  rw [State.blindEnd_some hb, State.tryEndBlind_ends ((s.chan_reach _ n).symm ▸ hb) ho h]
  exact State.writeBlind_written _ n b

theorem blindIntervalEnd_waits (hb : (s.chan n).blind = some b) (h : b.ovfWait = true ∨ ¬ (s.reach b.endBy).MayEndBlind n b) :
    ∃ t, exec (.blindIntervalEnd n) s = .next t ∧ t = s.reach b.endBy := by
  refine ⟨_, rfl, ?_⟩
  rw [State.blindEnd_some hb]
  exact State.tryEndBlind_stays ((s.chan_reach _ n).symm ▸ hb) h

/-- Settles O24: each clause is the lemma of its command and case above. -/
theorem deferredMarkersKeepTheirOrder : Obligations.DeferredMarkersKeepTheirOrder := by
  unfold Obligations.DeferredMarkersKeepTheirOrder
  refine ⟨fun s n => ⟨_, rfl, rfl⟩, fun s n b hb ho hf h => ?_, fun s n b hb ho hf h => ovfUnmask_waits hb ho hf h, fun s n h => ovfUnmask_idle h,
    fun s n b hb ho h => ?_, fun s n h => blindMarkerDeferred_waits h, fun s n b hb ho h => ?_, fun s n b hb h => blindIntervalEnd_waits hb h,
    fun s n hb => ⟨_, rfl, State.blindEnd_none hb⟩⟩
  · obtain ⟨t, ht, hended, hseen, hcleared, hwords, hothers, hstands⟩ := ovfUnmask_ends hb ho hf h
    exact ⟨t, ht, hended, hseen, hcleared, hwords, hothers, hstands⟩
  · obtain ⟨t, ht, hended, hseen, hcleared, hwords, hothers, hstands⟩ := blindMarkerDeferred_ends hb ho h
    rw [State.chan_setChan_same] at hended
    exact ⟨t, ht, hended, hseen, hcleared, hwords, fun m hm => (hothers m hm).trans (s.chan_setChan_other _ (Ne.symm hm)), hstands⟩
  · obtain ⟨t, ht, hended, hseen, hcleared, hwords, hothers, hstands⟩ := blindIntervalEnd_ends hb ho h
    have hclk : t.clk = (s.reach b.endBy).clk := by rw [hstands]
    refine ⟨t, ht, hclk, ?_, hseen, hcleared, fun a ha => (hwords a ha).trans (s.w_reach _ a), fun m hm => (hothers m hm).trans (s.chan_reach _ m), ?_⟩
    · rw [show t.now = (s.reach b.endBy).now by rw [State.now, hclk]; rfl]
      rwa [State.chan_reach] at hended
    · rw [hclk, hstands, s.reach_stands]

end Sys2Proof.Machine
end

section
/-!
PROOFS. PIN_TEST while a test runs (R73): the write of CH_PIN that carries the command, and a register store that it
brings into the canonical form.
-/

namespace Sys2Proof.Machine

variable {s t : State} {n : Ch}

/-! ### The write of CH_PIN -/

/-- The command writes TEST alone, and CH_PIN stores what it held. -/
theorem State.wrCmd_pinTest (hs : s.Serves) (n : Ch) :
    s.wrCmd (chBase n + R.CH_PIN) F.CH_PIN_TEST =
      ((s.setW (chBase n + R.CH_PIN) (s.w (chBase n + R.CH_PIN))).pinTest n).modPath .host fun x => { x with resp := 0 } := by
  obtain ⟨r, hr, hg, hrw, hc⟩ := row_CH_PIN
  rw [State.wrCmd_chan hs n (by decide) (by decide) hr hg, State.writeChan_pin, hrw, BitVec.and_zero, if_pos (by decide),
    RegRow.stored_none hrw (by rw [hc]; decide)]

theorem State.pinTest_running (h : (s.chan n).testing.isSome = true) : s.pinTest n = s := if_pos h

/-- PIN_TEST while a test runs is the write of what CH_PIN holds, and nothing more. -/
theorem pinTest_running_regs (hs : s.Serves) (h : (s.chan n).testing.isSome = true) (ht : exec (.pinTest n) s = .next t) :
    t.regs = sparsePut resetWord s.regs (chBase n + R.CH_PIN) (sparseGet resetWord s.regs (chBase n + R.CH_PIN)) := by
  have hexec : exec (.pinTest n) s = .next (s.wrCmd (chBase n + R.CH_PIN) F.CH_PIN_TEST) := rfl
  rw [hexec, State.wrCmd_pinTest hs, State.pinTest_running (by exact h)] at ht
  rw [← Host.Outcome.next.inj ht]
  rfl

/-! ### In a canonical store the write changes nothing -/

section Sparse
variable {α : Type} {d : Nat → α} {m : Sparse α} {k : Nat}

theorem sparseErase_above (h : ∀ e ∈ m, k < e.1) : sparseErase k m = m := by
  induction m with
  | nil => rfl
  | cons e l ih =>
    have he := h e List.mem_cons_self
    rw [sparseErase, if_neg (by omega), ih fun e hm => h e (List.mem_cons_of_mem _ hm)]

theorem sparseInsert_above (h : ∀ e ∈ m, k < e.1) (v : α) : sparseInsert k v m = (k, v) :: m := by
  cases m with
  | nil => rfl
  | cons e l => rw [sparseInsert, if_pos (h e List.mem_cons_self)]

theorem sparseGet_above (h : ∀ e ∈ m, k < e.1) : sparseGet d m k = d k := by
  induction m with
  | nil => rfl
  | cons e l ih =>
    have he := h e List.mem_cons_self
    rw [sparseGet, if_neg (by omega), ih fun e hm => h e (List.mem_cons_of_mem _ hm)]

/-- A write of what a canonical store holds leaves it as it is. -/
theorem sparsePut_self [DecidableEq α] (h : Memory.wf d m = true) : sparsePut d m k (sparseGet d m k) = m := by
  induction m with
  | nil => exact if_pos rfl
  | cons e l ih =>
    obtain ⟨a, v⟩ := e
    obtain ⟨hv, habove, hl⟩ := wf_cons.1 h
    have ih := ih hl
    by_cases ha : a = k
    · subst ha
      rw [sparseGet, if_pos rfl, sparsePut, if_neg hv, sparseErase, if_pos rfl, sparseErase_above habove, sparseInsert_above habove]
    · rw [sparseGet, if_neg ha]
      unfold sparsePut at ih ⊢
      rw [sparseErase, if_neg ha]
      split at ih
      next hd => rw [if_pos hd, ih]
      next hd =>
        have hk : ¬ k < a := fun hk => hd (sparseGet_above fun e he => hk.trans (habove e he))
        rw [if_neg hd, sparseInsert, if_neg hk, ih]

end Sparse

/-- From a canonical state PIN_TEST during a test leaves the registers as they are. -/
theorem pinTest_running_canonical (hs : s.Serves) (hc : s.Canonical) (h : (s.chan n).testing.isSome = true) (ht : exec (.pinTest n) s = .next t) :
    t.regs = s.regs := (pinTest_running_regs hs h ht).trans (sparsePut_self hc.regs)

/-! ### A store that a write of what it holds changes -/

/-- An entry that equals what an unlisted key reads as does not outlast a write of its key. -/
theorem sparsePut_drops {α : Type} [DecidableEq α] {d : Nat → α} {m : Sparse α} {k : Nat} (hget : sparseGet d m k = d k) (hmem : (k, d k) ∈ m) :
    sparsePut d m k (sparseGet d m k) ≠ m := by
  intro h
  rw [sparsePut, if_pos hget] at h
  rw [← h] at hmem
  exact (mem_erase hmem).2 rfl

/-- CFG_DONE, channel 3 in a pin test, and CH_PIN of channel 3 listed at its reset value, which a canonical store leaves unlisted. -/
def pinListed : State :=
  { State.reset.modChan 3 fun c => { c with testing := some 0 } with
    regs := [(F.DEV_STAT_CFG_DONE.addr, F.DEV_STAT_CFG_DONE.into 0#32 1), (chBase 3 + R.CH_PIN, resetWord (chBase 3 + R.CH_PIN))] }

theorem pinListed_serves : pinListed.Serves := ⟨by decide, rfl⟩

theorem pinListed_testing : (pinListed.chan 3).testing.isSome = true := rfl

/-- CH_PIN reads its reset value. -/
theorem pinListed_reads : sparseGet resetWord pinListed.regs (chBase 3 + R.CH_PIN) = resetWord (chBase 3 + R.CH_PIN) := by
  simp [pinListed, sparseGet, chBase, R.CH_PIN]

theorem pinListed_lists : (chBase 3 + R.CH_PIN, resetWord (chBase 3 + R.CH_PIN)) ∈ pinListed.regs :=
  List.mem_cons_of_mem _ List.mem_cons_self

/-- Refutes O22: PIN_TEST during a test writes CH_PIN with what it holds, and where the register store lists CH_PIN at its
reset value (`pinListed`) the write drops the entry, so that `t.regs = s.regs` fails. The clause lacks the premise
`s.Canonical`, with which it is `pinTest_running_canonical`. -/
theorem not_pinTestAndMonitor : ¬ Obligations.PinTestAndMonitor := by
  unfold Obligations.PinTestAndMonitor
  rintro ⟨-, hrunning, -⟩
  obtain ⟨t, ht, -, hregs, -⟩ := hrunning pinListed 3 pinListed_serves pinListed_testing
  exact sparsePut_drops pinListed_reads pinListed_lists ((pinTest_running_regs pinListed_serves pinListed_testing ht).symm.trans hregs)

end Sys2Proof.Machine
end

section
/-!
PROOFS. The spares' handovers and hand-backs (R68-R72): the SP_ROUTE write, the rows of R70, the overlap check, and the move
of the stream.
-/

namespace Sys2Proof.Machine

variable {s t r : State} {n m : Ch} {p q : Spare} {f g : Fld} {src : Fin 16} {owner : Nat} {w : Word} {o : Overlap}

/-! ### Fields beside a spare's and a channel's registers -/

theorem State.f_setF_chan_spare (s : State) (n : Ch) (v : Nat) (p : Spare) (hf : f.addr < 0x1000) (hg : g.addr < 0x1000) :
    (s.setF (chBase n) g v).f (spBase p) f = s.f (spBase p) f := State.f_setF_other s v (spBase_ne_chBase p n hf hg).symm

theorem State.f_setF_spare_chan (s : State) (p : Spare) (v : Nat) (n : Ch) (hf : f.addr < 0x1000) (hg : g.addr < 0x1000) :
    (s.setF (spBase p) g v).f (chBase n) f = s.f (chBase n) f := State.f_setF_other s v (spBase_ne_chBase p n hg hf)

theorem State.f_spareBegins (s : State) (n : Ch) (b : Nat) (f : Fld) : (s.spareBegins n).f b f = s.f b f := rfl
theorem State.spare_spareBegins (s : State) (n : Ch) (p : Spare) : (s.spareBegins n).spare p = s.spare p := rfl
theorem State.chans_spareBegins (s : State) (n : Ch) : (s.spareBegins n).chans = s.chans := rfl
theorem State.f_spareEnds (s : State) (n : Ch) (b : Nat) (f : Fld) : (s.spareEnds n).f b f = s.f b f := rfl

theorem State.spare_setSpare_other (s : State) (x : SpareSt) (h : q ≠ p) : (s.setSpare p x).spare q = s.spare q := by
  simp only [State.spare, State.setSpare, Fin.getElem_fin]
  rw [Vector.getElem_set_ne _ _ fun k => h (Fin.ext k).symm]

/-- The fields of SP_STAT and of a channel's CH_STAT after a calibration event has been raised or has ended. -/
theorem State.OnlyCal.field_spare (h : s.OnlyCal t) (p : Spare) (hf : f.addr < 0x1000 ∧ f.addr ≠ R.CH_CAL_STAT) :
    t.f (spBase p) f = s.f (spBase p) f := h.field (not_calWord_spare p hf)

theorem State.OnlyCal.field_chan (h : s.OnlyCal t) (n : Ch) (hf : f.addr < 0x1000 ∧ f.addr ≠ R.CH_CAL_STAT) :
    t.f (chBase n) f = s.f (chBase n) f := h.field (not_calWord_chan n hf)

/-! ### Starts of a handover and of a hand-back (R70, R71) -/

/-- A handover to channel 16p + src has started for an owner. -/
structure State.HandoverStarted (p : Spare) (src : Fin 16) (owner : Nat) (s t : State) : Prop where
  frame : s.OnlyFabric t
  state : t.spState p = 1
  owner : t.spOwner p = owner
  cur : t.f (spBase p) F.SP_STAT_CUR = src.val
  row : (t.spare p).stage = 1
  start : (t.spare p).startAt = s.now
  chans : t.chans = s.chans
  chanField : ∀ (n : Ch) {f : Fld}, f.addr < 0x1000 → f.addr ≠ R.CH_CAL_STAT → t.f (chBase n) f = s.f (chBase n) f

theorem State.startHandover_started (s : State) (p : Spare) (src : Fin 16) (ho : owner < 4) :
    s.HandoverStarted p src owner (s.startHandover p src owner) := by
  have hcal := s.breakFree_onlyCal (spareFe p)
  have hsrc := src.isLt
  unfold State.startHandover
  dsimp only
  generalize s.breakFree (spareFe p) = x at *
  exact {
    frame := .spareBegins (.setSpare (.setF (.setF (.setF (.cal (.refl s) hcal) ..) ..) ..) ..) _
    state := by
      simp (disch := decide) only [State.spState, State.f_spareBegins, State.f_setSpare, State.f_setF_apart, State.f_setF]
      rfl
    owner := by
      simp (disch := decide) only [State.spOwner, State.f_spareBegins, State.f_setSpare, State.f_setF_apart, State.f_setF]
      exact Nat.mod_eq_of_lt ho
    cur := by
      simp (disch := decide) only [State.f_spareBegins, State.f_setSpare, State.f_setF]
      exact Nat.mod_eq_of_lt hsrc
    row := by rw [State.spare_spareBegins, State.spare_setSpare_same]
    start := by
      rw [State.spare_spareBegins, State.spare_setSpare_same]
      exact hcal.now
    chans := by rw [State.chans_spareBegins, State.setSpare_chans, State.setF_chans, State.setF_chans, State.setF_chans, hcal.chans]
    chanField := fun n f hf hc => by
      rw [State.f_spareBegins, State.f_setSpare, State.f_setF_spare_chan _ _ _ _ hf (by decide), State.f_setF_spare_chan _ _ _ _ hf (by decide),
        State.f_setF_spare_chan _ _ _ _ hf (by decide), hcal.field_chan n ⟨hf, hc⟩] }

/-- A hand-back has started, with a further stand-in to follow or without one. -/
structure State.HandBackStarted (p : Spare) (next : Option (Fin 16)) (s t : State) : Prop where
  frame : s.OnlyFabric t
  state : t.spState p = 3
  row : (t.spare p).stage = 1
  start : (t.spare p).startAt = s.now
  next : (t.spare p).next = next
  chans : t.chans = s.chans

theorem State.startHandBack_started (s : State) (p : Spare) (next : Option (Fin 16)) : s.HandBackStarted p next (s.startHandBack p next) where
  frame := .setSpare (.setF (.refl s) ..) ..
  state := by
    simp (disch := decide) only [State.startHandBack, State.spState, State.f_setSpare, State.f_setF]
    rfl
  row := by rw [State.startHandBack, State.spare_setSpare_same]
  start := by rw [State.startHandBack, State.spare_setSpare_same]
  next := by rw [State.startHandBack, State.spare_setSpare_same]
  chans := rfl

/-! ### A write of SP_ROUTE (R68, R69) -/

theorem chOf_row (p : Spare) {k : Nat} (h : k < 16) : (chOf (16 * p.val + k)).val = 16 * p.val + k :=
  Nat.mod_eq_of_lt (by omega)

theorem Ch.cluster_chOf (p : Spare) {k : Nat} (h : k < 16) : Ch.cluster (chOf (16 * p.val + k)) = p.val := by
  show (chOf (16 * p.val + k)).val / 16 = p.val
  rw [chOf_row p h]
  omega

/-- A repair request that takes a loan over abandons the loan's threshold part and defers it (R68). -/
theorem State.abandonLoan_fabric (s : State) (n : Ch) : s.OnlyFabric ((s.abandonThr n).setF (chBase n) F.CH_CAL_STAT_THR_DEFER 1) :=
  .setF (.idle (.refl s) (s.abandonThrOf_onlyIdle (Ch.fe n) n)) ..

theorem State.f_abandonLoan_spare (s : State) (n : Ch) (p : Spare) (hf : f.addr < 0x1000 ∧ f.addr ≠ R.CH_CAL_STAT) :
    ((s.abandonThr n).setF (chBase n) F.CH_CAL_STAT_THR_DEFER 1).f (spBase p) f = s.f (spBase p) f := by
  rw [State.f_setF_chan_spare _ _ _ _ hf.1 (by decide)]
  exact (s.abandonThrOf_onlyIdle (Ch.fe n) n).field (not_calWord_spare p hf)

/-- What a repair request may change. -/
theorem State.repairRequest_fabric (h : s.repairRequest p src = some t) : s.OnlyFabric t := by
  unfold State.repairRequest at h
  dsimp only at h
  split at h
  next => exact absurd h nofun
  next =>
    split at h
    · exact Option.some.inj h ▸ (s.startHandover_started p src (by decide)).frame
    · split at h
      · exact Option.some.inj h ▸ .cal (.setF (.setF (s.abandonLoan_fabric _) ..) ..) (State.OnlyCal.raiseSpare (.refl _) p)
      · exact Option.some.inj h ▸ (s.abandonLoan_fabric _).trans (State.startHandBack_started _ p _).frame
    · exact absurd h nofun

/-- What an admitted write of SP_ROUTE may change. -/
theorem State.writeRoute_fabric (s : State) (p : Spare) (w : Word) : s.OnlyFabric (s.writeRoute p w) := by
  unfold State.writeRoute
  dsimp only
  split
  · split
    · exact .trans (.cal (.setTv (.refl s) ..) (State.breakFree_onlyCal _ _)) (State.startHandBack_started _ p none).frame
    · exact .setF (.refl s) ..
    · exact .setF (.refl s) ..
    · exact .setTv (.refl s) ..
  · split
    next h => exact .setTv (State.repairRequest_fabric h) ..
    next => exact .setF (.refl s) ..
  · exact .setF (.refl s) ..

/-! The branches of the write. -/

theorem State.writeRoute_release (hreq : F.SP_ROUTE_REQ.of w = 0) (hst : s.spState p = 2) (how : s.spOwner p = 1) :
    s.writeRoute p w = ((s.setTv (spBase p + R.SP_ROUTE) w).breakFree (Ch.fe (s.spCh p))).startHandBack p none := by
  unfold State.writeRoute
  rw [hreq, hst, how]
  rfl

theorem State.writeRoute_stored (hreq : F.SP_ROUTE_REQ.of w = 0) (h : s.spState p = 0 ∨ (s.spState p = 2 ∧ s.spOwner p = 2)) :
    s.writeRoute p w = s.setTv (spBase p + R.SP_ROUTE) w := by
  unfold State.writeRoute
  rw [hreq]
  obtain hst | ⟨hst, how⟩ := h
  · rw [hst]
    rfl
  · rw [hst, how]
    rfl

theorem State.writeRoute_request {k : Nat} (hreq : F.SP_ROUTE_REQ.of w = 1) (hsrc : F.SP_ROUTE_SRC.of w = k) (hk : k < 16)
    (h : s.repairRequest p ⟨k, hk⟩ = some t) : s.writeRoute p w = t.setTv (spBase p + R.SP_ROUTE) w := by
  subst hsrc
  have hmod : (⟨F.SP_ROUTE_SRC.of w % 16, Nat.mod_lt _ (by decide)⟩ : Fin 16) = ⟨F.SP_ROUTE_SRC.of w, hk⟩ := Fin.ext (Nat.mod_eq_of_lt hk)
  unfold State.writeRoute
  dsimp only
  rw [hreq, hmod, h]
  rfl

theorem State.fusedOff_chOf (s : State) (p : Spare) {k : Nat} (hk : k < 16) : s.fusedOff (chOf (16 * p.val + k)) = !s.fuses.grade.getLsbD p.val := by
  rw [State.fusedOff, Ch.cluster_chOf p hk]

theorem State.repairRequest_idle (hgrade : s.fuses.grade.getLsbD p.val = true) (hst : s.spState p = 0) :
    s.repairRequest p src = some (s.startHandover p src 1) := by
  unfold State.repairRequest
  dsimp only
  rw [s.fusedOff_chOf p src.isLt, hgrade, hst]
  rfl

theorem State.repairRequest_loan (hgrade : s.fuses.grade.getLsbD p.val = true) (hst : s.spState p = 2) (how : s.spOwner p = 2) :
    s.repairRequest p src =
      if s.spCh p = chOf (16 * p.val + src.val) then
        some ((((((s.abandonThr (s.spCh p)).setF (chBase (s.spCh p)) F.CH_CAL_STAT_THR_DEFER 1).setF (spBase p) F.SP_STAT_OWNER 1).raise
          (spBase p) F.SP_STAT_HO_DONE)).raiseSpare p)
      else some (((s.abandonThr (s.spCh p)).setF (chBase (s.spCh p)) F.CH_CAL_STAT_THR_DEFER 1).startHandBack p (some src)) := by
  unfold State.repairRequest
  dsimp only
  rw [s.fusedOff_chOf p src.isLt, hgrade, hst, how]
  rfl

theorem State.repairRequest_refused
    (h : s.spState p = 1 ∨ s.spState p = 3 ∨ (s.spState p = 2 ∧ s.spOwner p = 1) ∨ s.fuses.grade.getLsbD p.val = false) :
    s.repairRequest p src = none := by
  unfold State.repairRequest
  dsimp only
  rw [s.fusedOff_chOf p src.isLt]
  split
  next => rfl
  next hf =>
    obtain h | h | ⟨h, how⟩ | h := h
    · rw [h]
      rfl
    · rw [h]
      rfl
    · rw [h, how]
      rfl
    · rw [h] at hf
      exact absurd rfl hf

theorem State.writeRoute_refused (h : 2 ≤ F.SP_ROUTE_REQ.of w ∨ s.spState p = 1 ∨ s.spState p = 3 ∨
      (F.SP_ROUTE_REQ.of w = 1 ∧ ((s.spState p = 2 ∧ s.spOwner p = 1) ∨ s.fuses.grade.getLsbD p.val = false))) :
    s.writeRoute p w = s.raise (spBase p) F.SP_STAT_BUSY_REJ := by
  unfold State.writeRoute
  dsimp only
  split
  next hreq =>
    rw [hreq] at h
    obtain h | h | h | ⟨h, -⟩ := h
    · exact absurd h (by decide)
    · rw [h]
      rfl
    · rw [h]
      rfl
    · exact absurd h (by decide)
  next hreq =>
    rw [hreq] at h
    rw [State.repairRequest_refused]
    obtain h | h | h | ⟨-, h⟩ := h
    · exact absurd h (by decide)
    · exact .inl h
    · exact .inr (.inl h)
    · exact .inr (.inr h)
  next => rfl

/-- What an admitted write of SP_ROUTE comes to. -/
def State.RouteWritten (p : Spare) (w : Word) (s t : State) : Prop :=
  (F.SP_ROUTE_REQ.of w = 1 → s.spState p = 0 → s.fuses.grade.getLsbD p.val = true →
    t.spState p = 1 ∧ t.spOwner p = 1 ∧ t.f (spBase p) F.SP_STAT_CUR = F.SP_ROUTE_SRC.of w ∧
    (t.spare p).stage = 1 ∧ (t.spare p).startAt = s.now ∧ t.tvW (spBase p + R.SP_ROUTE) = w &&& 0xCF#32 ∧
    t.chans = s.chans) ∧
  (F.SP_ROUTE_REQ.of w = 0 → s.spState p = 2 → s.spOwner p = 1 →
    t.spState p = 3 ∧ (t.spare p).stage = 1 ∧ (t.spare p).startAt = s.now ∧ (t.spare p).next = none ∧
    t.tvW (spBase p + R.SP_ROUTE) = w &&& 0xCF#32 ∧ t.chans = s.chans) ∧
  (F.SP_ROUTE_REQ.of w = 0 → (s.spState p = 0 ∨ (s.spState p = 2 ∧ s.spOwner p = 2)) →
    t.tvW (spBase p + R.SP_ROUTE) = w &&& 0xCF#32 ∧ t.regs = s.regs ∧ t.spares = s.spares ∧ t.chans = s.chans) ∧
  (F.SP_ROUTE_REQ.of w = 1 → s.spState p = 2 → s.spOwner p = 2 → s.fuses.grade.getLsbD p.val = true →
    (s.f (spBase p) F.SP_STAT_CUR = F.SP_ROUTE_SRC.of w → t.spState p = 2 ∧ t.spOwner p = 1 ∧ t.fb (spBase p) F.SP_STAT_HO_DONE = true) ∧
    (s.f (spBase p) F.SP_STAT_CUR ≠ F.SP_ROUTE_SRC.of w → t.spState p = 3 ∧ (t.spare p).stage = 1 ∧
      (t.spare p).next.map (fun (x : Fin 16) => x.val) = some (F.SP_ROUTE_SRC.of w))) ∧
  ((2 ≤ F.SP_ROUTE_REQ.of w ∨ s.spState p = 1 ∨ s.spState p = 3 ∨
      (F.SP_ROUTE_REQ.of w = 1 ∧ ((s.spState p = 2 ∧ s.spOwner p = 1) ∨ s.fuses.grade.getLsbD p.val = false))) →
    t.fb (spBase p) F.SP_STAT_BUSY_REJ = true ∧ t.tv = s.tv ∧ t.spares = s.spares ∧ t.chans = s.chans) ∧
  t.clk = s.clk ∧ s.SameMemory t

theorem State.tvW_setTv_same (s : State) (a : Nat) (v : Word) : (s.setTv a v).tvW a = v := by rw [State.tvW_setTv, if_pos rfl]

theorem State.spCh_eq_iff (s : State) (p : Spare) {k : Nat} (hk : k < 16) :
    s.spCh p = chOf (16 * p.val + k) ↔ s.f (spBase p) F.SP_STAT_CUR = k := by
  have hcur : s.f (spBase p) F.SP_STAT_CUR < 16 := Fld.of_lt _ _
  rw [State.spCh, Fin.ext_iff, chOf_row p hcur, chOf_row p hk, Nat.add_left_cancel_iff]

/-- The loan is taken over by repair on the same channel. -/
theorem State.takenOver (s : State) (p : Spare) (n : Ch) (hst : s.spState p = 2) {t : State}
    (ht : t = ((((s.abandonThr n).setF (chBase n) F.CH_CAL_STAT_THR_DEFER 1).setF (spBase p) F.SP_STAT_OWNER 1).raise (spBase p)
      F.SP_STAT_HO_DONE).raiseSpare p) :
    t.spState p = 2 ∧ t.spOwner p = 1 ∧ t.fb (spBase p) F.SP_STAT_HO_DONE = true := by
  have hf {f : Fld} (h : f.addr < 0x1000 ∧ f.addr ≠ R.CH_CAL_STAT) : ((s.abandonThr n).setF (chBase n) F.CH_CAL_STAT_THR_DEFER 1).f (spBase p) f =
      s.f (spBase p) f := s.f_abandonLoan_spare n p h
  generalize (s.abandonThr n).setF (chBase n) F.CH_CAL_STAT_THR_DEFER 1 = x at *
  have hcal : (((x.setF (spBase p) F.SP_STAT_OWNER 1).raise (spBase p) F.SP_STAT_HO_DONE)).OnlyCal t := ht ▸ State.OnlyCal.raiseSpare (.refl _) p
  have hdone := x.setF (spBase p) F.SP_STAT_OWNER 1 |>.fb_raise (spBase p) (g := F.SP_STAT_HO_DONE) rfl (by decide)
  refine ⟨?_, ?_, ?_⟩
  · rw [State.spState, hcal.field_spare p (by decide), State.raise, State.f_setF_of_apart _ _ _ (by decide), State.f_setF_of_apart _ _ _ (by decide),
      hf (by decide)]
    exact hst
  · rw [State.spOwner, hcal.field_spare p (by decide), State.raise, State.f_setF_of_apart _ _ _ (by decide), State.f_setF _ _ _ _ (by decide)]
    rfl
  · rw [State.fb, hcal.field_spare p (by decide)]
    exact hdone

theorem State.writeRoute_written (s : State) (p : Spare) (w : Word) : s.RouteWritten p w (s.writeRoute p (w &&& 0xCF#32)) := by
  have hreq : F.SP_ROUTE_REQ.of (w &&& 0xCF#32) = F.SP_ROUTE_REQ.of w := Fld.of_and (by decide) w
  have hsrc : F.SP_ROUTE_SRC.of (w &&& 0xCF#32) = F.SP_ROUTE_SRC.of w := Fld.of_and (by decide) w
  have hk : F.SP_ROUTE_SRC.of w < 16 := Fld.of_lt _ _
  have hframe := s.writeRoute_fabric p (w &&& 0xCF#32)
  refine ⟨fun hr hst hgrade => ?_, fun hr hst how => ?_, fun hr h => ?_, fun hr hst how hgrade => ⟨fun hcur => ?_, fun hcur => ?_⟩, fun h => ?_,
    hframe.clk, hframe.memory⟩
  · rw [State.writeRoute_request (hreq.trans hr) hsrc hk (State.repairRequest_idle hgrade hst)]
    have hstarted := s.startHandover_started p ⟨_, hk⟩ (owner := 1) (by decide)
    generalize s.startHandover p ⟨_, hk⟩ 1 = x at *
    obtain ⟨-, hstate, howner, hcur, hrow, hstart, hchans, -⟩ := hstarted
    exact ⟨hstate, howner, hcur, hrow, hstart, State.tvW_setTv_same .., hchans⟩
  · rw [State.writeRoute_release (hreq.trans hr) hst how]
    have hcal := (s.setTv (spBase p + R.SP_ROUTE) (w &&& 0xCF#32)).breakFree_onlyCal (Ch.fe (s.spCh p))
    generalize (s.setTv (spBase p + R.SP_ROUTE) (w &&& 0xCF#32)).breakFree (Ch.fe (s.spCh p)) = x at *
    obtain ⟨-, hstate, hrow, hstart, hnext, hchans⟩ := x.startHandBack_started p none
    refine ⟨hstate, hrow, hstart.trans hcal.now, hnext, ?_, hchans.trans hcal.chans⟩
    rw [show (x.startHandBack p none).tvW (spBase p + R.SP_ROUTE) = x.tvW (spBase p + R.SP_ROUTE) from rfl, hcal.stands]
    exact State.tvW_setTv_same ..
  · rw [State.writeRoute_stored (hreq.trans hr) h]
    exact ⟨State.tvW_setTv_same .., rfl, rfl, rfl⟩
  · rw [State.writeRoute_request (hreq.trans hr) hsrc hk ((State.repairRequest_loan hgrade hst how).trans (if_pos ((s.spCh_eq_iff p hk).mpr hcur)))]
    have htaken := s.takenOver p (s.spCh p) hst rfl
    generalize State.raiseSpare p _ = x at *
    exact htaken
  · rw [State.writeRoute_request (hreq.trans hr) hsrc hk ((State.repairRequest_loan hgrade hst how).trans (if_neg (mt (s.spCh_eq_iff p hk).mp hcur)))]
    have hstarted := State.startHandBack_started ((s.abandonThr (s.spCh p)).setF (chBase (s.spCh p)) F.CH_CAL_STAT_THR_DEFER 1) p (some ⟨_, hk⟩)
    generalize State.startHandBack p _ _ = x at *
    obtain ⟨-, hstate, hrow, -, hnext, -⟩ := hstarted
    exact ⟨hstate, hrow, congrArg (Option.map fun x : Fin 16 => x.val) hnext⟩
  · rw [State.writeRoute_refused (by rw [hreq]; exact h)]
    exact ⟨s.fb_raise _ rfl (by decide), rfl, rfl, rfl⟩

theorem State.RouteWritten.ofConsumed {x : Vector (Option Nat) 2} (h : State.RouteWritten p w { s with unlockBy := x } t) : s.RouteWritten p w t := h

theorem State.RouteWritten.modPath (h : s.RouteWritten p w t) (q : Path) (g : PathSt → PathSt) : s.RouteWritten p w (t.modPath q g) := h

theorem State.writeOwn_SP_ROUTE (s : State) (q : Path) (p : Spare) (r : RegRow) (m w : Word) :
    s.writeOwn q (locate (spBase p + R.SP_ROUTE)) (spBase p + R.SP_ROUTE) r m w = s.writeRoute p (w &&& r.rw) := by
  have hp : (⟨p.val % 8, Nat.mod_lt _ (by decide)⟩ : Spare) = p := Fin.ext (Nat.mod_eq_of_lt p.isLt)
  rw [locate_spare p.isLt (by decide), State.writeOwn]
  dsimp only
  rw [hp]
  rfl

theorem spRouteWrite_written (hs : s.Serves) {q : Path} (hq : s.Writes q) (hu : s.Unlocked q) (p : Spare) (w : Word) :
    ∃ t, exec (.spRouteWrite q p w) s = .next t ∧ s.RouteWritten p w t := by
  obtain ⟨r, hr, hg, hrw, -⟩ := row_SP_ROUTE
  have hlt := p.isLt
  have hne {a : Nat} (ha : a < 0x180000) : spBase p + R.SP_ROUTE ≠ a := by
    unfold spBase R.SP_ROUTE
    omega
  have hown : (s.consumed q).RouteWritten p w ((s.consumed q).writeRoute p (w &&& 0xCF#32)) := (s.consumed q).writeRoute_written p w
  have hod : (((s.consumed q).writeRoute p (w &&& 0xCF#32)).modPath q fun x => { x with resp := 0 }).od.mailbox = none := by
    rw [State.modPath_od, State.writeRoute_od, s.consumed_stands q]
    exact hs.2
  refine ⟨_, rfl, ?_⟩
  rw [State.wr_guarded (by unfold spBase R.SP_ROUTE; omega) (hne (by decide)) (hne (by decide)) hq
    (by rw [locate_spare hlt (by decide)]; exact ⟨nofun, nofun, nofun⟩)
    ((rowAt_spare hlt (by decide)).trans hr) hg (hne (by decide)) hs.1 hu, State.writeOwn_SP_ROUTE, hrw, State.serveMailbox_none hod]
  generalize (s.consumed q).writeRoute p (w &&& 0xCF#32) = t at *
  rw [s.consumed_stands q] at hown
  exact hown.ofConsumed.modPath _ _

/-! ### The rows of R70 -/

theorem State.spState_reach (s : State) (k : Nat) (p : Spare) : (s.reach k).spState p = s.spState p := State.f_reach ..
theorem State.spCh_reach (s : State) (k : Nat) (p : Spare) : (s.reach k).spCh p = s.spCh p := by rw [State.spCh, State.f_reach, State.spCh]

theorem spareFe_ne_chanFe (p : Spare) (n : Ch) : spareFe p ≠ Ch.fe n := fun h => by
  have := n.isLt
  have := congrArg Fin.val h
  simp only [spareFe, Ch.fe] at this
  omega

theorem State.fe_modFe_other (s : State) {e k : FrontEnd} (g : FeSt → FeSt) (h : e ≠ k) : (s.modFe e g).fe k = s.fe k := by
  simp only [State.fe, State.modFe, State.setFe, Fin.getElem_fin]
  exact Vector.getElem_set_ne _ _ fun x => h (Fin.ext x)

/-- Front ends other than one may not differ, and nothing else may. -/
theorem State.loadTdac_stands (s : State) (n : Ch) (e : FrontEnd) : s.loadTdac n e = { s with fes := (s.loadTdac n e).fes } := rfl

theorem State.loadTdac_other (s : State) (n : Ch) {e k : FrontEnd} (h : e ≠ k) : (s.loadTdac n e).fe k = s.fe k := s.fe_modFe_other _ h

theorem State.loadTdac_word (s : State) (n : Ch) (e : FrontEnd) :
    ((s.loadTdac n e).fe e).tdac.map (fun x => x.1) = some (BitVec.ofNat 32 (bitsGet (s.w (chBase n + 0x800 + R.CH_TDAC)) 0 22)) := by
  unfold State.loadTdac
  rw [State.fe_modFe_same]
  rfl

/-- The front end that takes the threshold in a handover, and in a hand-back. -/
def State.takingFe (s : State) (p : Spare) : FrontEnd := if s.spState p = 3 then Ch.fe (s.spCh p) else spareFe p

/-- Row 40 ns, with the spare's row passed. -/
theorem State.handoverLoad_eq (h : (s.spare p).stage = 1) :
    ∃ u, s.handoverLoad p = (if (s.fe (Ch.fe (s.spCh p))).tdac.isNone then u else u.loadTdac (s.spCh p) (s.takingFe p)) ∧
      u = { s with clk := (s.reach ((s.spare p).startAt + 25600)).clk, spares := u.spares } ∧ u.spare p = { s.spare p with stage := 2 } ∧
      ∀ q, q ≠ p → u.spare q = s.spare q := by
  refine ⟨(s.reach ((s.spare p).startAt + 25600)).setSpare p { s.spare p with stage := 2 }, ?_, ?_, State.spare_setSpare_same .., fun q hq => ?_⟩
  · unfold State.handoverLoad State.takingFe
    dsimp only
    rw [if_pos h, State.setSpare, s.reach_stands]
    rfl
  · rw [s.reach_stands]
    rfl
  · rw [State.spare_setSpare_other _ _ hq, State.spare_reach]

theorem handoverTdacLoad_row (h : (s.spare p).stage = 1) :
    ∃ t, exec (.handoverTdacLoad p) s = .next t ∧ t.spare p = { s.spare p with stage := 2 } ∧
      t.clk = (s.reach ((s.spare p).startAt + 25600)).clk ∧ (∀ q : Spare, q ≠ p → t.spare q = s.spare q) ∧
      (s.spState p ≠ 3 → (s.fe (Ch.fe (s.spCh p))).tdac.isSome = true → (t.fe (spareFe p)).tdac.map (fun (x : Word × Rat) => x.1) =
        some (BitVec.ofNat 32 (bitsGet (s.w (chBase (s.spCh p) + 0x800 + R.CH_TDAC)) 0 22))) ∧
      ((s.fe (Ch.fe (s.spCh p))).tdac = none → t.fes = s.fes) ∧
      (∀ f : FrontEnd, f ≠ spareFe p → f ≠ Ch.fe (s.spCh p) → t.fe f = s.fe f) ∧
      t = { s with clk := t.clk, spares := t.spares, fes := t.fes } := by
  obtain ⟨u, heq, hu, hrow, hothers⟩ := State.handoverLoad_eq h
  have hclk : u.clk = (s.reach ((s.spare p).startAt + 25600)).clk := by rw [hu]
  have hfes : u.fes = s.fes := by rw [hu]
  have hw (a : Nat) : u.w a = s.w a := by rw [hu]; rfl
  refine ⟨_, rfl, ?_⟩
  rw [heq]
  generalize s.reach ((s.spare p).startAt + 25600) = v at *
  cases hpark : (s.fe (Ch.fe (s.spCh p))).tdac with
  | none =>
    rw [Option.isNone_none, if_pos rfl]
    refine ⟨hrow, hclk, hothers, fun _ k => absurd k (by simp), fun _ => hfes, fun f _ _ => ?_, ?_⟩
    · rw [State.fe, hfes, State.fe]
    · rw [hu]
  | some y =>
    rw [if_neg (by simp)]
    refine ⟨hrow, hclk, hothers, fun hst _ => ?_, nofun, fun f hf hn => ?_, ?_⟩
    · rw [State.takingFe, if_neg hst, State.loadTdac_word, hw]
    · rw [State.loadTdac_other, State.fe, hfes, State.fe]
      unfold State.takingFe
      split
      · exact hn.symm
      · exact hf.symm
    · rw [State.loadTdac_stands, hu]

theorem handoverSettled_row (h : (s.spare p).stage = 2) :
    ∃ t, exec (.handoverSettled p) s = .next t ∧ t.spare p = { s.spare p with stage := 3 } ∧
      t.clk = (s.reach ((s.spare p).startAt + 1625600)).clk ∧ (∀ q : Spare, q ≠ p → t.spare q = s.spare q) ∧
      t = { s with clk := t.clk, spares := t.spares } := by
  have hexec : exec (.handoverSettled p) s = .next ((s.reach ((s.spare p).startAt + 1625600)).setSpare p { s.spare p with stage := 3 }) :=
    congrArg Host.Outcome.next (if_pos h)
  refine ⟨_, hexec, State.spare_setSpare_same .., rfl, fun q hq => ?_, ?_⟩
  · rw [State.spare_setSpare_other _ _ hq, State.spare_reach]
  · rw [s.reach_stands]
    rfl

/-! ### The overlap check (R72) -/

theorem State.overlapEnd_stands (s : State) (p : Spare) (o : Overlap) : s.overlapEnd p o = { s with clk := (s.overlapEnd p o).clk } := by
  unfold State.overlapEnd
  dsimp only
  split
  · exact s.reach_stands _
  · rfl

theorem State.overlapEnd_clk_short (h : o.pairs < 1024) :
    (s.overlapEnd p o).clk = (s.reach ((s.spare p).startAt + 1625600 + tkMs)).clk := by rw [State.overlapEnd, if_pos h]

theorem State.overlapEnd_clk_full (h : 1024 ≤ o.pairs) : (s.overlapEnd p o).clk = s.clk := by rw [State.overlapEnd, if_neg (by omega)]

/-- The check passes: the handover waits for a gap. -/
structure State.CheckPassed (p : Spare) (o : Overlap) (s t : State) : Prop where
  stage : (t.spare p).stage = 4
  short : o.pairs < 1024 → (t.spare p).checkedAt = (s.spare p).startAt + 1625600 + tkMs
  full : 1024 ≤ o.pairs → (t.spare p).checkedAt = min s.now ((s.spare p).startAt + 1625600 + tkMs)
  unchecked : o.pairs = 0 → t.fb (spBase p) F.SP_STAT_UNCHECKED = true
  regs : 0 < o.pairs → t.regs = s.regs
  frame : s.OnlyFabric t

theorem State.handoverPassed_passed (s : State) (p : Spare) (o : Overlap) : s.CheckPassed p o (s.handoverPassed p o) := by
  have hspare (x : SpareSt) : (if o.pairs = 0 then (s.setSpare p x).raise (spBase p) F.SP_STAT_UNCHECKED else s.setSpare p x).spare p = x := by
    split
    · exact s.spare_setSpare_same p x
    · exact s.spare_setSpare_same p x
  unfold State.handoverPassed
  dsimp only
  exact {
    stage := by rw [hspare]
    short := fun h => by rw [hspare, if_pos h]
    full := fun h => by rw [hspare, if_neg (by omega)]
    unchecked := fun h => by
      rw [if_pos h]
      exact State.fb_raise _ _ rfl (by decide)
    regs := fun h => by
      rw [if_neg (by omega)]
      rfl
    frame := by
      split
      · exact .setF (.setSpare (.refl s) ..) ..
      · exact .setSpare (.refl s) .. }

/-- The check fails: a handover leaves the channel on its own front end, a hand-back leaves the spare standing in. -/
structure State.CheckFailed (p : Spare) (s t : State) : Prop where
  fail : t.fb (spBase p) F.SP_STAT_HO_FAIL = true
  stage : (t.spare p).stage = 0
  handBack : s.spState p = 3 → t.spState p = 2
  handover : s.spState p ≠ 3 → t.spState p = 0 ∧ t.spOwner p = 0
  frame : s.OnlyFabric t

theorem State.spareEnds_spare (s : State) (n : Ch) (p : Spare) : (s.spareEnds n).spare p = s.spare p := rfl

theorem State.OnlyIdle.spares (h : s.OnlyIdle n t) : t.spares = s.spares := by rw [h.stands]

theorem State.handoverFailed_failed (s : State) (p : Spare) : s.CheckFailed p (s.handoverFailed p) := by
  obtain ⟨u, hu⟩ : ∃ u, u = (s.raise (spBase p) F.SP_STAT_HO_FAIL).setSpare p
    { (s.raise (spBase p) F.SP_STAT_HO_FAIL).spare p with stage := 0, next := none } := ⟨_, rfl⟩
  have hframe : s.OnlyFabric u := hu ▸ .setSpare (.setF (.refl s) ..) ..
  have hstage : (u.spare p).stage = 0 := by rw [hu, State.spare_setSpare_same]
  have hfail : u.fb (spBase p) F.SP_STAT_HO_FAIL = true := hu ▸ s.fb_raise _ rfl (by decide)
  have hstate : u.spState p = s.spState p := hu ▸ s.f_setF_of_apart _ _ (by decide)
  unfold State.handoverFailed
  dsimp only
  rw [← hu]
  clear hu
  split
  next hst =>
    exact {
      fail := (State.fb_setF_of_apart _ _ _ (by decide)).trans hfail
      stage := hstage
      handBack := fun _ => State.f_setF _ _ _ _ (by decide)
      handover := fun h => absurd (hstate.symm.trans hst) h
      frame := .setF hframe .. }
  next hst =>
    have hidle : u.OnlyIdle (u.spCh p) (if u.spOwner p = 2 then u.abandonThr (u.spCh p) else u) := by
      split
      · exact u.abandonThrOf_onlyIdle _ _
      · exact (State.OnlyCal.refl u).idle _
    generalize (if u.spOwner p = 2 then u.abandonThr (u.spCh p) else u) = x at *
    have hspare : x.spare p = u.spare p := by rw [State.spare, hidle.spares, State.spare]
    exact {
      fail := by
        rw [State.fb, State.f_spareEnds, State.f_setF_of_apart _ _ _ (by decide), State.f_setF_of_apart _ _ _ (by decide),
          hidle.field (not_calWord_spare p (by decide))]
        exact hfail
      stage := by
        rw [State.spareEnds_spare]
        exact (congrArg SpareSt.stage hspare).trans hstage
      handBack := fun h => absurd (hstate.trans h) hst
      handover := fun _ => by
        simp (disch := decide) only [State.spState, State.spOwner, State.f_spareEnds, State.f_setF_apart, State.f_setF]
        exact ⟨rfl, rfl⟩
      frame := .spareEnds (.setF (.setF (.idle hframe hidle) ..) ..) _ }

/-- The policy's retry is no part of it. -/
theorem State.CheckFailed.retry (h : s.CheckFailed p t) {x : SpareSt} (hx : x.stage = 0) : s.CheckFailed p (t.setSpare p x) where
  fail := h.fail
  stage := by rw [State.spare_setSpare_same, hx]
  handBack := h.handBack
  handover := h.handover
  frame := .setSpare h.frame ..

theorem State.CheckFailed.faulted (h : s.CheckFailed p t) : s.CheckFailed p (t.raise 0 F.DEV_FLT_FE_FAULT) := by
  have hlow : 0 + F.DEV_FLT_FE_FAULT.addr < 0x180000 := by decide
  have hf {f : Fld} : (t.raise 0 F.DEV_FLT_FE_FAULT).f (spBase p) f = t.f (spBase p) f :=
    State.f_setF_other t 1 (by unfold spBase; omega)
  exact {
    fail := (congrArg (fun k => decide (k = 1)) hf).trans h.fail
    stage := h.stage
    handBack := fun k => hf.trans (h.handBack k)
    handover := fun k => ⟨hf.trans (h.handover k).1, hf.trans (h.handover k).2⟩
    frame := .setF h.frame .. }

theorem State.checkFailed_failed (s : State) (p : Spare) : s.CheckFailed p (s.checkFailed p) := by
  have h := s.handoverFailed_failed p
  unfold State.checkFailed
  dsimp only
  generalize s.handoverFailed p = t at *
  split
  · exact h
  · split
    · exact .faulted (.retry h h.stage)
    · exact .retry h h.stage

theorem handoverCheckDone_ends (o : Overlap) (h : (s.spare p).stage = 3) :
    ∃ t, exec (.handoverCheckDone p o) s = .next t ∧
      (o.handoverPass = true → (t.spare p).stage = 4 ∧
        (o.pairs < 1024 → (t.spare p).checkedAt = (s.spare p).startAt + 1625600 + tkMs) ∧
        (1024 ≤ o.pairs → (t.spare p).checkedAt = min s.now ((s.spare p).startAt + 1625600 + tkMs)) ∧
        (o.pairs = 0 → t.fb (spBase p) F.SP_STAT_UNCHECKED = true) ∧ (0 < o.pairs → t.regs = s.regs)) ∧
      (o.handoverPass = false → t.fb (spBase p) F.SP_STAT_HO_FAIL = true ∧ (t.spare p).stage = 0 ∧
        (s.spState p = 3 → t.spState p = 2) ∧ (s.spState p ≠ 3 → t.spState p = 0 ∧ t.spOwner p = 0)) ∧
      (o.pairs < 1024 → t.clk = (s.reach ((s.spare p).startAt + 1625600 + tkMs)).clk) ∧ (1024 ≤ o.pairs → t.clk = s.clk) ∧
      s.SameMemory t := by
  obtain ⟨u, hu⟩ : ∃ u, u = s.overlapEnd p o := ⟨_, rfl⟩
  have hstands := hu ▸ s.overlapEnd_stands p o
  have hshort : o.pairs < 1024 → u.clk = (s.reach ((s.spare p).startAt + 1625600 + tkMs)).clk := hu ▸ State.overlapEnd_clk_short
  have hfull : 1024 ≤ o.pairs → u.clk = s.clk := hu ▸ State.overlapEnd_clk_full
  have hspare : u.spare p = s.spare p := by rw [hstands]; rfl
  have hstate : u.spState p = s.spState p := by rw [hstands]; rfl
  have hregs : u.regs = s.regs := by rw [hstands]
  have hmem : s.SameMemory u := by
    rw [hstands]
    exact ⟨fun _ => rfl, fun _ => rfl, rfl, fun _ => rfl, fun _ => rfl⟩
  have hexec : exec (.handoverCheckDone p o) s = .next (if o.handoverPass then u.handoverPassed p o else u.checkFailed p) := by
    rw [hu]
    exact congrArg Host.Outcome.next (if_neg (not_not.mpr h))
  refine ⟨_, hexec, ?_⟩
  clear hexec hu hstands
  cases hpass : o.handoverPass
  · rw [if_neg Bool.false_ne_true]
    obtain ⟨hfail, hstage, hback, hover, hframe⟩ := u.checkFailed_failed p
    rw [hstate] at hback hover
    exact ⟨nofun, fun _ => ⟨hfail, hstage, hback, hover⟩, fun k => hframe.clk.trans (hshort k), fun k => hframe.clk.trans (hfull k),
      hmem.trans hframe.memory⟩
  · rw [if_pos rfl]
    obtain ⟨hstage, hearly, hlate, hun, hreg, hframe⟩ := u.handoverPassed_passed p o
    rw [hspare] at hearly hlate
    refine ⟨fun _ => ⟨hstage, hearly, fun k => ?_, hun, fun k => (hreg k).trans hregs⟩, nofun, fun k => hframe.clk.trans (hshort k),
      fun k => hframe.clk.trans (hfull k), hmem.trans hframe.memory⟩
    rw [hlate k, State.now, hfull k, State.now]

/-! ### The stream moves (R70-R72) -/

/-- The spare serves channel n. -/
structure State.SpareServes (p : Spare) (n : Ch) (t : State) : Prop where
  state : t.spState p = 2
  stage : (t.spare p).stage = 0
  done : t.fb (spBase p) F.SP_STAT_HO_DONE = true
  mark : t.fb (chBase n) F.CH_STAT_SPARE = true

/-- Channel n is on its own front end again, and the spare is idle. -/
structure State.SpareIdles (p : Spare) (n : Ch) (t : State) : Prop where
  state : t.spState p = 0
  owner : t.spOwner p = 0
  stage : (t.spare p).stage = 0
  done : t.fb (spBase p) F.SP_STAT_HO_DONE = true
  mark : t.fb (chBase n) F.CH_STAT_SPARE = false

/-- The spare has handed channel n back and starts a handover to another of its cluster. -/
structure State.SpareMovesOn (p : Spare) (n : Ch) (src : Fin 16) (now : Nat) (t : State) : Prop where
  state : t.spState p = 1
  owner : t.spOwner p = 1
  cur : t.f (spBase p) F.SP_STAT_CUR = src.val
  stage : (t.spare p).stage = 1
  start : (t.spare p).startAt = now
  mark : t.fb (chBase n) F.CH_STAT_SPARE = false

theorem State.SpareServes.raiseSpare (h : s.SpareServes p n) : (s.raiseSpare p).SpareServes p n := by
  have hcal : s.OnlyCal (s.raiseSpare p) := .raiseSpare (.refl s) p
  generalize s.raiseSpare p = t at *
  exact {
    state := (hcal.field_spare p (by decide)).trans h.state
    stage := by rw [State.spare, hcal.spares]; exact h.stage
    done := by rw [State.fb, hcal.field_spare p (by decide)]; exact h.done
    mark := by rw [State.fb, hcal.field_chan n (by decide)]; exact h.mark }

/-- A handover's end: the spare serves. -/
theorem State.moveStream_serves (h : s.spState p = 1) : (s.moveStream p).SpareServes p (s.spCh p) := by
  unfold State.moveStream
  dsimp only
  generalize hu : (s.markSpare (s.spCh p)).setSpare p _ = u
  have hstage : (u.spare p).stage = 0 := by rw [← hu, State.spare_setSpare_same]
  have hstate : u.spState p = 1 := hu ▸ h
  clear hu
  rw [if_pos hstate]
  have hserves : (((u.setF (spBase p) F.SP_STAT_STATE 2).raise (spBase p) F.SP_STAT_HO_DONE).setF (chBase (s.spCh p)) F.CH_STAT_SPARE 1).SpareServes p
      (s.spCh p) := {
    state := by
      rw [State.spState, State.f_setF_chan_spare _ _ _ _ (by decide) (by decide), State.raise, State.f_setF_of_apart _ _ _ (by decide),
        State.f_setF _ _ _ _ (by decide)]
      rfl
    stage := hstage
    done := by
      rw [State.fb, State.f_setF_chan_spare _ _ _ _ (by decide) (by decide)]
      exact State.fb_raise _ _ rfl (by decide)
    mark := State.fb_raise _ _ rfl (by decide) }
  generalize ((u.setF (spBase p) F.SP_STAT_STATE 2).raise (spBase p) F.SP_STAT_HO_DONE).setF (chBase (s.spCh p)) F.CH_STAT_SPARE 1 = v at *
  split
  · exact hserves.raiseSpare
  · exact hserves

/-- A hand-back's end: the channel is on its own front end, before HO_DONE or a further handover. -/
theorem State.moveStream_back (h : s.spState p ≠ 1) :
    ∃ u, s.moveStream p = (match (s.spare p).next with | some src => u.startHandover p src 1 | none => u.raise (spBase p) F.SP_STAT_HO_DONE) ∧
      u.spState p = 0 ∧ u.spOwner p = 0 ∧ (u.spare p).stage = 0 ∧ u.fb (chBase (s.spCh p)) F.CH_STAT_SPARE = false ∧ s.OnlyFabric u := by
  unfold State.moveStream
  dsimp only
  generalize hu : (s.markSpare (s.spCh p)).setSpare p _ = u
  have hstage : (u.spare p).stage = 0 := by rw [← hu, State.spare_setSpare_same]
  have hstate : u.spState p = s.spState p := hu ▸ rfl
  have hframe : s.OnlyFabric u := hu ▸ .setSpare (.markSpare (.refl s) _) ..
  clear hu
  rw [if_neg (hstate ▸ h)]
  generalize hv : (((u.setF (spBase p) F.SP_STAT_STATE 0).setF (spBase p) F.SP_STAT_OWNER 0).setF (chBase (s.spCh p)) F.CH_STAT_SPARE 0).spareEnds _ = v
  have hvstate : v.spState p = 0 := by
    rw [← hv, State.spState, State.f_spareEnds, State.f_setF_chan_spare _ _ _ _ (by decide) (by decide), State.f_setF_of_apart _ _ _ (by decide),
      State.f_setF _ _ _ _ (by decide)]
    rfl
  have hvowner : v.spOwner p = 0 := by
    rw [← hv, State.spOwner, State.f_spareEnds, State.f_setF_chan_spare _ _ _ _ (by decide) (by decide), State.f_setF _ _ _ _ (by decide)]
    rfl
  have hvmark : v.f (chBase (s.spCh p)) F.CH_STAT_SPARE = 0 := by
    rw [← hv, State.f_spareEnds, State.f_setF _ _ _ _ (by decide)]
    rfl
  have hvstage : (v.spare p).stage = 0 := by rw [← hv, State.spareEnds_spare]; exact hstage
  have hvframe : s.OnlyFabric v := hv ▸ .spareEnds (.setF (.setF (.setF hframe ..) ..) ..) _
  clear hv
  generalize decide (u.spOwner p = 2) = loan
  have hcal : v.OnlyCal (if (loan && (v.fe (Ch.fe (s.spCh p))).running) = true then v.calDone (Ch.fe (s.spCh p)) else v) := by
    split
    · exact .calDone (.refl v) _
    · exact .refl v
  refine ⟨_, rfl, ?_⟩
  generalize (if (loan && (v.fe (Ch.fe (s.spCh p))).running) = true then v.calDone (Ch.fe (s.spCh p)) else v) = r at *
  refine ⟨(hcal.field_spare p (by decide)).trans hvstate, (hcal.field_spare p (by decide)).trans hvowner, ?_, ?_, .cal hvframe hcal⟩
  · rw [State.spare, hcal.spares]
    exact hvstage
  · rw [State.fb, hcal.field_chan _ (by decide), hvmark]
    rfl

theorem State.moveStream_idles (h : s.spState p ≠ 1) (hnext : (s.spare p).next = none) : (s.moveStream p).SpareIdles p (s.spCh p) := by
  obtain ⟨u, heq, hstate, howner, hstage, hmark, -⟩ := State.moveStream_back h
  rw [heq, hnext]
  exact {
    state := (State.f_setF_of_apart _ _ _ (by decide)).trans hstate
    owner := (State.f_setF_of_apart _ _ _ (by decide)).trans howner
    stage := hstage
    done := State.fb_raise _ _ rfl (by decide)
    mark := by
      rw [State.fb, State.raise, State.f_setF_spare_chan _ _ _ _ (by decide) (by decide)]
      exact hmark }

theorem State.moveStream_movesOn (h : s.spState p ≠ 1) (hnext : (s.spare p).next = some src) :
    (s.moveStream p).SpareMovesOn p (s.spCh p) src s.now := by
  obtain ⟨u, heq, -, -, -, hmark, hframe⟩ := State.moveStream_back h
  have hstarted := u.startHandover_started p src (owner := 1) (by decide)
  rw [heq, hnext]
  dsimp only
  generalize u.startHandover p src 1 = t at *
  obtain ⟨-, hstate, howner, hcur, hrow, hstart, -, hfield⟩ := hstarted
  exact ⟨hstate, howner, hcur, hrow, hstart.trans hframe.now, by
    rw [State.fb, hfield _ (by decide) (by decide)]
    exact hmark⟩

theorem State.moveStream_fabric (s : State) (p : Spare) : s.OnlyFabric (s.moveStream p) := by
  by_cases h : s.spState p = 1
  · unfold State.moveStream
    dsimp only
    generalize hu : (s.markSpare (s.spCh p)).setSpare p _ = u
    have hstate : u.spState p = 1 := hu ▸ h
    have hframe : s.OnlyFabric u := hu ▸ .setSpare (.markSpare (.refl s) _) ..
    rw [if_pos hstate]
    split
    · exact .cal (.setF (.setF (.setF hframe ..) ..) ..) (State.OnlyCal.raiseSpare (.refl _) p)
    · exact .setF (.setF (.setF hframe ..) ..) ..
  · obtain ⟨u, heq, -, -, -, -, hframe⟩ := State.moveStream_back h
    rw [heq]
    split
    · exact hframe.trans (u.startHandover_started p _ (by decide)).frame
    · exact .setF hframe ..

/-! The policy's retry ends with a handover that has moved the stream (R311). -/

theorem State.retryDone_fabric (s : State) (p : Spare) : s.OnlyFabric (s.retryDone p) := by
  unfold State.retryDone
  split
  · exact .setSpare (.refl s) ..
  · exact .refl s

theorem State.retryDone_moving (h : s.spState p ≠ 2) : s.retryDone p = s := by
  rw [State.retryDone, if_neg (by simp [h])]

theorem State.SpareServes.retryDone (h : s.SpareServes p n) : (s.retryDone p).SpareServes p n := by
  unfold State.retryDone
  split
  · exact ⟨h.state, by rw [State.spare_setSpare_same]; exact h.stage, h.done, h.mark⟩
  · exact h

theorem State.retryDone_regs (s : State) (p : Spare) : (s.retryDone p).regs = s.regs := by
  unfold State.retryDone
  split
  · rfl
  · rfl

theorem State.retryDone_chans (s : State) (p : Spare) : (s.retryDone p).chans = s.chans := by
  unfold State.retryDone
  split
  · rfl
  · rfl

/-! #### In a gap -/

theorem State.handoverMoved_gap (h : (s.spare p).stage = 4) (hgap : s.gapNow (s.spCh p) = true) :
    s.handoverMoved p = (s.moveStream p).retryDone p := by
  rw [State.handoverMoved, State.handoverMove, if_pos (by rw [h, hgap]; rfl)]

theorem handoverStreamMove_serves (h : (s.spare p).stage = 4) (hst : s.spState p = 1) (hgap : s.gapNow (s.spCh p) = true) :
    ∃ t, exec (.handoverStreamMove p) s = .next t ∧ t.spState p = 2 ∧ (t.spare p).stage = 0 ∧
      t.fb (spBase p) F.SP_STAT_HO_DONE = true ∧ t.fb (chBase (s.spCh p)) F.CH_STAT_SPARE = true ∧ t.clk = s.clk ∧ s.SameMemory t := by
  have hserves := (State.moveStream_serves hst).retryDone
  have hframe := (s.moveStream_fabric p).trans (State.retryDone_fabric _ p)
  refine ⟨_, congrArg Host.Outcome.next (State.handoverMoved_gap h hgap), ?_⟩
  exact ⟨hserves.state, hserves.stage, hserves.done, hserves.mark, hframe.clk, hframe.memory⟩

theorem handoverStreamMove_idles (h : (s.spare p).stage = 4) (hst : s.spState p = 3) (hnext : (s.spare p).next = none)
    (hgap : s.gapNow (s.spCh p) = true) :
    ∃ t, exec (.handoverStreamMove p) s = .next t ∧ t.spState p = 0 ∧ t.spOwner p = 0 ∧ (t.spare p).stage = 0 ∧
      t.fb (spBase p) F.SP_STAT_HO_DONE = true ∧ t.fb (chBase (s.spCh p)) F.CH_STAT_SPARE = false ∧ t.clk = s.clk ∧ s.SameMemory t := by
  have hidles := State.moveStream_idles (by rw [hst]; decide) hnext
  have hframe := s.moveStream_fabric p
  have heq := State.handoverMoved_gap h hgap
  rw [State.retryDone_moving (by rw [hidles.state]; decide)] at heq
  refine ⟨_, congrArg Host.Outcome.next heq, ?_⟩
  exact ⟨hidles.state, hidles.owner, hidles.stage, hidles.done, hidles.mark, hframe.clk, hframe.memory⟩

theorem handoverStreamMove_movesOn (h : (s.spare p).stage = 4) (hst : s.spState p = 3) (hnext : (s.spare p).next = some src)
    (hgap : s.gapNow (s.spCh p) = true) :
    ∃ t, exec (.handoverStreamMove p) s = .next t ∧ t.spState p = 1 ∧ t.spOwner p = 1 ∧ t.f (spBase p) F.SP_STAT_CUR = src.val ∧
      (t.spare p).stage = 1 ∧ (t.spare p).startAt = s.now ∧ t.fb (chBase (s.spCh p)) F.CH_STAT_SPARE = false ∧ t.clk = s.clk ∧ s.SameMemory t := by
  have hon := State.moveStream_movesOn (by rw [hst]; decide) hnext
  have hframe := s.moveStream_fabric p
  have heq := State.handoverMoved_gap h hgap
  rw [State.retryDone_moving (by rw [hon.state]; decide)] at heq
  refine ⟨_, congrArg Host.Outcome.next heq, ?_⟩
  exact ⟨hon.state, hon.owner, hon.cur, hon.stage, hon.start, hon.mark, hframe.clk, hframe.memory⟩

theorem handoverStreamMove_waits (hst : s.spState p = 1 ∨ s.spState p = 3) (hgap : s.gapNow (s.spCh p) = false) :
    ∃ t, exec (.handoverStreamMove p) s = .next t ∧ t = s := by
  have hmove : s.handoverMove p = s := by rw [State.handoverMove, if_neg (by rw [hgap]; simp)]
  have heq : s.handoverMoved p = s := by
    rw [State.handoverMoved, hmove]
    exact State.retryDone_moving (by omega)
  exact ⟨_, congrArg Host.Outcome.next heq, rfl⟩

/-! #### Without one: the forced cut -/

theorem State.SpareServes.forced (h : s.SpareServes p n) : (s.raise (spBase p) F.SP_STAT_FORCED).SpareServes p n where
  state := (s.f_setF_of_apart _ _ (by decide)).trans h.state
  stage := h.stage
  done := (s.fb_setF_of_apart _ _ (by decide)).trans h.done
  mark := by
    rw [State.fb, State.raise, State.f_setF_spare_chan _ _ _ _ (by decide) (by decide)]
    exact h.mark

theorem State.SpareIdles.forced (h : s.SpareIdles p n) : (s.raise (spBase p) F.SP_STAT_FORCED).SpareIdles p n where
  state := (s.f_setF_of_apart _ _ (by decide)).trans h.state
  owner := (s.f_setF_of_apart _ _ (by decide)).trans h.owner
  stage := h.stage
  done := (s.fb_setF_of_apart _ _ (by decide)).trans h.done
  mark := by
    rw [State.fb, State.raise, State.f_setF_spare_chan _ _ _ _ (by decide) (by decide)]
    exact h.mark

/-- The time from which the cut may come. -/
def State.cutAt (s : State) (p : Spare) : Nat := (s.spare p).checkedAt + s.f (spBase p) F.SP_WAIT_WAIT * tkUs

/-- The blind interval of the cut. -/
def State.blindCut (s : State) (n : Ch) : State :=
  if s.live n then s.startBlind n { raw := s.now, edge := none } { Causes.none with spare := true } 0 (s.now + 1280) false false else s

theorem State.blindCut_stands (s : State) (n : Ch) : s.blindCut n = { s with chans := (s.blindCut n).chans } := by
  unfold State.blindCut
  split
  · rfl
  · rfl

theorem State.blindCut_blind (h : s.live n = true) : ((s.blindCut n).chan n).blind.isSome = true := by
  rw [State.blindCut, if_pos h, State.startBlind, State.chan_modChan_same]
  split
  · rfl
  · rfl

theorem State.handoverForce_cut (h : (s.spare p).stage = 4) (hb : (s.chan (s.spCh p)).blind = none) :
    s.handoverForce p = (((s.reach (s.cutAt p)).blindCut (s.spCh p)).moveStream p).raise (spBase p) F.SP_STAT_FORCED := by
  unfold State.handoverForce
  dsimp only
  rw [if_neg (not_not.mpr h), State.spCh_reach, State.chan_reach, hb, if_neg (by simp)]
  rfl

theorem State.handoverForce_waits (h : (s.spare p).stage = 4) (hb : (s.chan (s.spCh p)).blind.isSome = true) :
    s.handoverForce p = s.reach (s.cutAt p) := by
  unfold State.handoverForce
  dsimp only
  rw [if_neg (not_not.mpr h), State.spCh_reach, State.chan_reach, if_pos hb]
  rfl

/-- A handover's end marks the channel's open gate, and leaves its blind interval as it is. -/
theorem State.moveStream_blind (h : s.spState p = 1) : ((s.moveStream p).chan (s.spCh p)).blind = (s.chan (s.spCh p)).blind := by
  unfold State.moveStream
  dsimp only
  generalize hu : (s.markSpare (s.spCh p)).setSpare p _ = u
  have hstate : u.spState p = 1 := hu ▸ h
  have hblind : (u.chan (s.spCh p)).blind = (s.chan (s.spCh p)).blind := by
    rw [← hu, State.chan, State.setSpare_chans, ← State.chan, State.markSpare, State.chan_modChan_same]
  clear hu
  rw [if_pos hstate]
  split
  · rw [State.chan, (State.OnlyCal.raiseSpare (.refl _) p).chans]
    exact hblind
  · exact hblind

/-- The state in which a forced cut moves the stream. -/
structure State.CutStart (p : Spare) (s u : State) : Prop where
  stands : u = { s with clk := (s.reach (s.cutAt p)).clk, chans := u.chans }
  blind : s.live (s.spCh p) = true → (u.chan (s.spCh p)).blind.isSome = true
  force : s.handoverForce p = (u.moveStream p).raise (spBase p) F.SP_STAT_FORCED

theorem State.cutStart (h : (s.spare p).stage = 4) (hb : (s.chan (s.spCh p)).blind = none) : ∃ u, State.CutStart p s u := by
  refine ⟨(s.reach (s.cutAt p)).blindCut (s.spCh p), ?_, fun hlive => State.blindCut_blind ?_, State.handoverForce_cut h hb⟩
  · rw [State.blindCut_stands, s.reach_stands]
  · rw [s.reach_stands]
    exact hlive

namespace State.CutStart
variable {u : State} (h : State.CutStart p s u)
include h

theorem ch : u.spCh p = s.spCh p := by rw [h.stands]; rfl
theorem state : u.spState p = s.spState p := by rw [h.stands]; rfl
theorem spare : u.spare p = s.spare p := by rw [h.stands]; rfl
theorem clk : u.clk = (s.reach (s.cutAt p)).clk := by rw [h.stands]
theorem memory : s.SameMemory u := by
  rw [h.stands]
  exact ⟨fun _ => rfl, fun _ => rfl, rfl, fun _ => rfl, fun _ => rfl⟩

/-- What the cut may change from there on. -/
theorem frame : u.OnlyFabric (s.handoverCut p) := by
  rw [State.handoverCut, h.force]
  exact .trans (.setF (u.moveStream_fabric p) ..) (State.retryDone_fabric _ p)

theorem forced : (s.handoverCut p).fb (spBase p) F.SP_STAT_FORCED = true := by
  rw [State.handoverCut, State.fb, State.f, State.w, State.retryDone_regs, h.force]
  exact State.fb_raise _ _ rfl (by decide)

end State.CutStart

theorem handoverForcedCut_serves (h : (s.spare p).stage = 4) (hst : s.spState p = 1) (hb : (s.chan (s.spCh p)).blind = none) :
    ∃ t, exec (.handoverForcedCut p) s = .next t ∧ t.spState p = 2 ∧ (t.spare p).stage = 0 ∧
      t.fb (spBase p) F.SP_STAT_FORCED = true ∧ t.fb (spBase p) F.SP_STAT_HO_DONE = true ∧ t.fb (chBase (s.spCh p)) F.CH_STAT_SPARE = true ∧
      (s.live (s.spCh p) = true → (t.chan (s.spCh p)).blind.isSome = true) ∧
      t.clk = (s.reach ((s.spare p).checkedAt + s.f (spBase p) F.SP_WAIT_WAIT * tkUs)).clk ∧ s.SameMemory t := by
  obtain ⟨u, hcut⟩ := State.cutStart h hb
  have hstate : u.spState p = 1 := hcut.state.trans hst
  have hserves := (State.moveStream_serves hstate).forced.retryDone
  rw [hcut.ch, ← hcut.force] at hserves
  have hblind : ((s.handoverCut p).chan (s.spCh p)).blind = (u.chan (s.spCh p)).blind := by
    have hmove := State.moveStream_blind hstate
    rw [hcut.ch] at hmove
    rw [State.handoverCut, State.chan, State.retryDone_chans, hcut.force, State.raise_chans]
    exact hmove
  refine ⟨s.handoverCut p, rfl, hserves.state, hserves.stage, hcut.forced, hserves.done, hserves.mark, fun hlive => ?_,
    hcut.frame.clk.trans hcut.clk, hcut.memory.trans hcut.frame.memory⟩
  rw [hblind]
  exact hcut.blind hlive

theorem handoverForcedCut_idles (h : (s.spare p).stage = 4) (hst : s.spState p = 3) (hnext : (s.spare p).next = none)
    (hb : (s.chan (s.spCh p)).blind = none) :
    ∃ t, exec (.handoverForcedCut p) s = .next t ∧ t.spState p = 0 ∧ t.spOwner p = 0 ∧ (t.spare p).stage = 0 ∧
      t.fb (spBase p) F.SP_STAT_FORCED = true ∧ t.fb (spBase p) F.SP_STAT_HO_DONE = true ∧ t.fb (chBase (s.spCh p)) F.CH_STAT_SPARE = false ∧
      t.clk = (s.reach ((s.spare p).checkedAt + s.f (spBase p) F.SP_WAIT_WAIT * tkUs)).clk ∧ s.SameMemory t := by
  obtain ⟨u, hcut⟩ := State.cutStart h hb
  have hidles := (State.moveStream_idles (by rw [hcut.state, hst]; decide) (by rw [hcut.spare]; exact hnext)).forced
  rw [hcut.ch, ← hcut.force] at hidles
  have heq : s.handoverCut p = s.handoverForce p := State.retryDone_moving (by rw [hidles.state]; decide)
  rw [← heq] at hidles
  exact ⟨s.handoverCut p, rfl, hidles.state, hidles.owner, hidles.stage, hcut.forced, hidles.done, hidles.mark, hcut.frame.clk.trans hcut.clk,
    hcut.memory.trans hcut.frame.memory⟩

theorem handoverForcedCut_waits (h : (s.spare p).stage = 4) (hst : s.spState p = 1 ∨ s.spState p = 3)
    (hb : (s.chan (s.spCh p)).blind.isSome = true) :
    ∃ t, exec (.handoverForcedCut p) s = .next t ∧
      t.clk = (s.reach ((s.spare p).checkedAt + s.f (spBase p) F.SP_WAIT_WAIT * tkUs)).clk ∧ t = { s with clk := t.clk } := by
  have heq : s.handoverCut p = s.reach (s.cutAt p) := by
    rw [State.handoverCut, State.handoverForce_waits h hb]
    exact State.retryDone_moving (by rw [State.spState_reach]; omega)
  exact ⟨_, congrArg Host.Outcome.next heq, rfl, s.reach_stands _⟩

/-- Settles O21: each clause is the lemma of its command and row above. -/
theorem spareHandoversFollowTheirRows : Obligations.SpareHandoversFollowTheirRows := by
  unfold Obligations.SpareHandoversFollowTheirRows
  refine ⟨?_, ?_, ?_, ?_, ?_, ?_, ?_, ?_, ?_, ?_, ?_⟩
  · exact fun s q p w hs hq hu => spRouteWrite_written hs hq hu p w
  · exact fun s p h => handoverTdacLoad_row h
  · exact fun s p h => handoverSettled_row h
  · exact fun s p o h => handoverCheckDone_ends o h
  · exact fun s p h hst hgap => handoverStreamMove_serves h hst hgap
  · exact fun s p h hst hnext hgap => handoverStreamMove_idles h hst hnext hgap
  · exact fun s p src h hst hnext hgap => handoverStreamMove_movesOn h hst hnext hgap
  · exact fun s p _ hst hgap => handoverStreamMove_waits hst hgap
  · exact fun s p h hst hb => handoverForcedCut_serves h hst hb
  · exact fun s p h hst hnext hb => handoverForcedCut_idles h hst hnext hb
  · exact fun s p h hst hb => handoverForcedCut_waits h hst hb

end Sys2Proof.Machine
end

section
/-!
PROOFS. Threshold codes (R57-R62): the strobe that puts a shadow into force, the write of CH_TDAC, settling and parking,
the pacer's queue, and the restart of the decimation counter.
-/

namespace Sys2Proof.Machine

variable {s t r : State} {n m : Ch} {e : FrontEnd} {f : Fld} {w : Word} {now at_ : Nat} {rest : List Nat}

/-! ### What a strobe may change -/

/-- Behind the word in force: channel n's CH_PIN, its engine but for strobes and the pending mark, spares and front ends
may differ, and nothing else. -/
structure State.TdacMoved (n : Ch) (s t : State) : Prop where
  stands : t = { s with regs := t.regs, chans := t.chans, spares := t.spares, fes := t.fes }
  words : ∀ a, a ≠ chBase n + R.CH_PIN → t.w a = s.w a
  others : ∀ m : Ch, m ≠ n → t.chan m = s.chan m
  strobes : (t.chan n).strobes = (s.chan n).strobes
  pend : (t.chan n).tdacPend = (s.chan n).tdacPend

namespace State.TdacMoved

theorem refl (s : State) : s.TdacMoved n s := ⟨rfl, fun _ _ => rfl, fun _ _ => rfl, rfl, rfl⟩

theorem trans (h : s.TdacMoved n t) (k : t.TdacMoved n r) : s.TdacMoved n r where
  stands := by rw [k.stands, h.stands]
  words a ha := (k.words a ha).trans (h.words a ha)
  others m hm := (k.others m hm).trans (h.others m hm)
  strobes := k.strobes.trans h.strobes
  pend := k.pend.trans h.pend

theorem setChan (h : s.TdacMoved n t) {c : Chan} (hs : c.strobes = (t.chan n).strobes) (hp : c.tdacPend = (t.chan n).tdacPend) :
    s.TdacMoved n (t.setChan n c) :=
  h.trans ⟨rfl, fun _ _ => rfl, fun _ hm => State.chan_setChan_other _ c hm.symm, by rw [State.chan_setChan_same, hs], by rw [State.chan_setChan_same, hp]⟩

theorem modChan (h : s.TdacMoved n t) {k : Chan → Chan} (hs : ∀ c, (k c).strobes = c.strobes) (hp : ∀ c, (k c).tdacPend = c.tdacPend) :
    s.TdacMoved n (t.modChan n k) := .setChan h (hs _) (hp _)

theorem startBlind (h : s.TdacMoved n t) (start : BlindStart) (c : Causes) (count endBy : Nat) (ovf test : Bool) :
    s.TdacMoved n (t.startBlind n start c count endBy ovf test) := by
  refine .modChan h (fun x => ?_) fun x => ?_
  · split
    · rfl
    · rfl
  · split
    · rfl
    · rfl

theorem setF (h : s.TdacMoved n t) (v : Nat) (hf : f.addr = R.CH_PIN) : s.TdacMoved n (t.setF (chBase n) f v) :=
  h.trans ⟨rfl, fun a ha => State.w_setF_other _ (by rw [hf]; exact ha.symm), fun _ _ => rfl, rfl, rfl⟩

theorem setSpare (h : s.TdacMoved n t) (p : Spare) (x : SpareSt) : s.TdacMoved n (t.setSpare p x) :=
  h.trans ⟨rfl, fun _ _ => rfl, fun _ _ => rfl, rfl, rfl⟩

theorem modFe (h : s.TdacMoved n t) (e : FrontEnd) (k : FeSt → FeSt) : s.TdacMoved n (t.modFe e k) :=
  h.trans ⟨rfl, fun _ _ => rfl, fun _ _ => rfl, rfl, rfl⟩

theorem clk (h : s.TdacMoved n t) : t.clk = s.clk := by rw [h.stands]

theorem fabric (h : s.TdacMoved n t) : s.OnlyFabric t := by rw [State.OnlyFabric, h.stands]

end State.TdacMoved

/-! ### A change of mode (R59, R60) -/

theorem State.modeChange_moved (s : State) (n : Ch) (k : Nat) : s.TdacMoved n (s.modeChange n k) := by
  unfold State.modeChange
  dsimp only
  split
  · split
    · exact .setChan (.refl s) rfl rfl
    · exact .refl s
  · split
    · exact .setSpare (.setF (.startBlind (.refl s) ..) 1 rfl) ..
    · exact .setF (.startBlind (.refl s) ..) 1 rfl

/-! ### Front ends take the code (R70, R203) -/

theorem State.loadTdac_moved (s : State) (n : Ch) (e : FrontEnd) : s.TdacMoved n (s.loadTdac n e) := by
  unfold State.loadTdac
  exact .modFe (.refl s) e _

/-- The front ends of a channel's threshold take the word in force. -/
def State.loadAll (n : Ch) (s : State) : State := s.forAll (s.thresholdFes n) fun f s => s.loadTdac n f

theorem State.loadAll_moved (s : State) (n : Ch) : s.TdacMoved n (s.loadAll n) := by
  unfold State.loadAll
  generalize s.thresholdFes n = l
  induction l generalizing s with
  | nil => exact .refl s
  | cons e l ih => exact (s.loadTdac_moved n e).trans (ih _)

theorem State.loadAll_word (s : State) (n : Ch) :
    ((s.loadAll n).fe (Ch.fe n)).tdac.map (fun x => x.1) = some (BitVec.ofNat 32 (bitsGet (s.w (chBase n + 0x800 + R.CH_TDAC)) 0 22)) := by
  unfold State.loadAll State.thresholdFes
  dsimp only
  split
  · show (((s.loadTdac n (Ch.fe n)).loadTdac n (spareFe (Ch.spareOf n))).fe (Ch.fe n)).tdac.map _ = _
    rw [State.loadTdac_other _ _ (spareFe_ne_chanFe _ _)]
    exact s.loadTdac_word n (Ch.fe n)
  · exact s.loadTdac_word n (Ch.fe n)

/-! ### The strobe -/

/-- The word that a strobe puts into force. -/
def State.tdacNew (s : State) (n : Ch) (t : Nat) : Word :=
  bitsSet (s.w (chBase n + 0x800 + R.CH_TDAC)) 0 22 (bitsGet (s.tdacAt n t).1 0 22)

theorem State.tdacNew_code (s : State) (n : Ch) (t : Nat) : bitsGet (s.tdacNew n t) 0 22 = bitsGet (s.tdacAt n t).1 0 22 :=
  (Fld.of_into ⟨0, 0, 22⟩ _ _ (by decide)).trans (Nat.mod_eq_of_lt (BitVec.isLt _))

/-- The state in which the word is in force. -/
def State.tdacForced (s : State) (n : Ch) (t : Nat) : State :=
  (s.setW (chBase n + 0x800 + R.CH_TDAC) (s.tdacNew n t)).modChan n fun c => { c with tdacPend := c.tdacPend && (s.tdacAt n t).2.2 }

theorem State.tdacForced_word (s : State) (n : Ch) (t : Nat) : (s.tdacForced n t).w (chBase n + 0x800 + R.CH_TDAC) = s.tdacNew n t := by
  rw [State.tdacForced, State.w_modChan, State.w_setW_same]

theorem State.tdacForced_other (s : State) (n : Ch) (t : Nat) {a : Nat} (h : a ≠ chBase n + 0x800 + R.CH_TDAC) : (s.tdacForced n t).w a = s.w a := by
  rw [State.tdacForced, State.w_modChan, State.w_setW_other _ _ h.symm]

theorem State.tdacForced_chan (s : State) (n : Ch) (t : Nat) :
    (s.tdacForced n t).chan n = { s.chan n with tdacPend := (s.chan n).tdacPend && (s.tdacAt n t).2.2 } := by
  rw [State.tdacForced, State.chan_modChan_same, State.chan_setW]

theorem State.OnlyChans.setW (h : s.OnlyChans t) (a : Nat) (w : Word) : s.OnlyChans (t.setW a w) := h.trans rfl

theorem State.tdacForced_onlyChans (s : State) (n : Ch) (t : Nat) : s.OnlyChans (s.tdacForced n t) := by
  unfold State.tdacForced
  exact .modChan (.setW (.refl s) ..) ..

/-- The strobe unparks the channel. -/
def State.unparks (s : State) (n : Ch) (t : Nat) : Bool :=
  (s.tdacForced n t).fb (chBase n) F.CH_PIN_PARKED && ((s.tdacForced n t).chan n).parkEnd.isNone && (s.tdacAt n t).2.1

/-- What a strobe makes of park and input mode. -/
def State.tdacModed (s : State) (n : Ch) (t : Nat) : State :=
  if s.unparks n t then (s.tdacForced n t).modChan n fun c => { c with parkEnd := some (t + settlePark) }
  else if F.CH_TDAC_RANGE.of (s.w (chBase n + 0x800 + R.CH_TDAC)) ≠ F.CH_TDAC_RANGE.of (s.tdacNew n t) then (s.tdacForced n t).modeChange n t
  else s.tdacForced n t

/-- What a strobe makes of the front ends: a channel that stays parked gives them nothing. -/
def State.tdacLoaded (s : State) (n : Ch) (t : Nat) : State :=
  if (s.tdacForced n t).fb (chBase n) F.CH_PIN_PARKED && ((s.tdacModed n t).chan n).parkEnd.isNone then s.tdacModed n t
  else (s.tdacModed n t).loadAll n

/-- The settling of a code that moves. -/
def State.settles (n : Ch) (t : Nat) (s : State) : State :=
  (s.modChan n fun c => { c with settleBy := t + settleCode }).setF (chBase n) F.CH_PIN_SETTLING 1

theorem State.settles_moved (s : State) (n : Ch) (t : Nat) : s.TdacMoved n (s.settles n t) := by
  unfold State.settles
  have hmod : s.TdacMoved n (s.modChan n fun c => { c with settleBy := t + settleCode }) := .modChan (.refl s) (fun _ => rfl) fun _ => rfl
  exact .setF hmod 1 rfl

/-- A strobe before READY or on a fused-off channel (R58). -/
theorem State.applyTdac_kept (h : s.ready = false ∨ s.fusedOff n = true) (t : Nat) : s.applyTdac n t none = s := by
  rw [State.applyTdac, if_pos]
  obtain h | h := h
  · rw [h]
    rfl
  · rw [h, Bool.or_true]

/-- A strobe as its parts. -/
theorem State.applyTdac_eq (hr : s.ready = true) (hf : s.fusedOff n = false) (t : Nat) : s.applyTdac n t none =
    if !(s.tdacForced n t).actB n F.CH_CFG_EN then s.tdacForced n t
    else if s.unparks n t || decide (bitsGet (s.w (chBase n + 0x800 + R.CH_TDAC)) 0 22 ≠ bitsGet (s.tdacNew n t) 0 22) then
      (s.tdacLoaded n t).settles n t
    else s.tdacLoaded n t := by
  have hnew : s.tdacNew n t = bitsSet (s.w (chBase n + 0x800 + R.CH_TDAC)) 0 22 (bitsGet (s.tdacAt n t).1 0 22) := rfl
  have hforced : s.tdacForced n t = (s.setW (chBase n + 0x800 + R.CH_TDAC) (s.tdacNew n t)).modChan n fun c =>
    { c with tdacPend := c.tdacPend && (s.tdacAt n t).2.2 } := rfl
  unfold State.applyTdac State.tdacLoaded State.tdacModed State.unparks
  rw [if_neg (by rw [hr, hf]; decide)]
  generalize s.tdacAt n t = x at *
  obtain ⟨sh, written, waits⟩ := x
  dsimp only at *
  rw [← hnew, ← hforced, Option.isSome_none, Bool.or_false]
  rfl

theorem State.tdacModed_moved (s : State) (n : Ch) (t : Nat) : (s.tdacForced n t).TdacMoved n (s.tdacModed n t) := by
  unfold State.tdacModed
  generalize s.tdacForced n t = u
  split
  · exact .modChan (.refl u) (fun _ => rfl) fun _ => rfl
  · split
    · exact u.modeChange_moved n t
    · exact .refl u

theorem State.tdacLoaded_moved (s : State) (n : Ch) (t : Nat) : (s.tdacForced n t).TdacMoved n (s.tdacLoaded n t) := by
  unfold State.tdacLoaded
  split
  · exact s.tdacModed_moved n t
  · exact (s.tdacModed_moved n t).trans (State.loadAll_moved _ n)

theorem State.applyTdac_moved (hr : s.ready = true) (hf : s.fusedOff n = false) (t : Nat) : (s.tdacForced n t).TdacMoved n (s.applyTdac n t none) := by
  rw [State.applyTdac_eq hr hf]
  split
  · exact .refl _
  · split
    · exact (s.tdacLoaded_moved n t).trans (State.settles_moved _ n t)
    · exact s.tdacLoaded_moved n t

/-- What a strobe may change, READY or not. -/
theorem State.applyTdac_fabric (s : State) (n : Ch) (t : Nat) : s.OnlyFabric (s.applyTdac n t none) := by
  by_cases h : s.ready = false ∨ s.fusedOff n = true
  · rw [State.applyTdac_kept h]
    exact .refl s
  · rw [not_or, Bool.not_eq_false, Bool.not_eq_true] at h
    refine .trans ?_ (State.applyTdac_moved h.1 h.2 t).fabric
    rw [State.OnlyFabric, s.tdacForced_onlyChans n t]

theorem State.applyTdac_others (s : State) (t : Nat) (h : m ≠ n) : (s.applyTdac n t none).chan m = s.chan m := by
  by_cases hk : s.ready = false ∨ s.fusedOff n = true
  · rw [State.applyTdac_kept hk]
  · rw [not_or, Bool.not_eq_false, Bool.not_eq_true] at hk
    rw [(State.applyTdac_moved hk.1 hk.2 t).others m h, State.tdacForced, State.chan_modChan_other _ _ h.symm, State.chan_setW]

/-! #### The code reaches the front end -/

theorem State.loadAll_chan (s : State) (n m : Ch) : (s.loadAll n).chan m = s.chan m := by
  unfold State.loadAll
  generalize s.thresholdFes n = l
  induction l generalizing s with
  | nil => rfl
  | cons e l ih => exact ih (s.loadTdac n e)

/-- Front end e holds channel n's code of a strobe at t. -/
def State.HoldsCode (s : State) (n : Ch) (t : Nat) (u : State) : Prop :=
  (u.fe (Ch.fe n)).tdac.map (fun x => x.1) = some (BitVec.ofNat 32 (bitsGet (s.tdacAt n t).1 0 22))

theorem State.tdacLoaded_holds (s : State) (n : Ch) (t : Nat)
    (h : ((s.tdacForced n t).fb (chBase n) F.CH_PIN_PARKED && ((s.tdacModed n t).chan n).parkEnd.isNone) = false) :
    s.HoldsCode n t (s.tdacLoaded n t) := by
  have hword : (s.tdacModed n t).w (chBase n + 0x800 + R.CH_TDAC) = s.tdacNew n t :=
    ((s.tdacModed_moved n t).words _ (by unfold R.CH_TDAC R.CH_PIN; omega)).trans (s.tdacForced_word n t)
  rw [State.HoldsCode, State.tdacLoaded, if_neg (by rw [h]; decide), State.loadAll_word, hword, State.tdacNew_code]

theorem State.applyTdac_holds (hr : s.ready = true) (hf : s.fusedOff n = false) {t : Nat} (hen : (s.tdacForced n t).actB n F.CH_CFG_EN = true)
    (h : s.HoldsCode n t (s.tdacLoaded n t)) : s.HoldsCode n t (s.applyTdac n t none) := by
  rw [State.applyTdac_eq hr hf, hen, if_neg (by decide)]
  split
  · exact h
  · exact h

theorem State.tdacForced_fb (s : State) (n : Ch) (t : Nat) (h : f.addr ≠ R.CH_TDAC + 0x800) : (s.tdacForced n t).fb (chBase n) f = s.fb (chBase n) f := by
  rw [State.fb, State.f, s.tdacForced_other n t (by omega), State.fb, State.f]

theorem State.tdacForced_actB (s : State) (n : Ch) (t : Nat) (h : f.addr ≠ R.CH_TDAC) : (s.tdacForced n t).actB n f = s.actB n f := by
  rw [State.actB, State.act, State.f, s.tdacForced_other n t (by omega), State.actB, State.act, State.f]

/-- An enabled channel that is not parked. -/
theorem State.applyTdac_live (hr : s.ready = true) (hf : s.fusedOff n = false) (t : Nat) (hen : s.actB n F.CH_CFG_EN = true)
    (hp : s.fb (chBase n) F.CH_PIN_PARKED = false) : s.HoldsCode n t (s.applyTdac n t none) := by
  refine State.applyTdac_holds hr hf ((s.tdacForced_actB n t (by decide)).trans hen) (s.tdacLoaded_holds n t ?_)
  rw [s.tdacForced_fb n t (by decide), hp, Bool.false_and]

/-- The channel is unparked. -/
structure State.Unparked (s : State) (n : Ch) (t : Nat) (u : State) : Prop where
  parkEnd : (u.chan n).parkEnd = some (t + settlePark)
  settling : u.fb (chBase n) F.CH_PIN_SETTLING = true
  settleBy : (u.chan n).settleBy = t + settleCode
  code : s.HoldsCode n t u

theorem State.applyTdac_unparks (hr : s.ready = true) (hf : s.fusedOff n = false) (t : Nat) (hen : s.actB n F.CH_CFG_EN = true)
    (hp : s.fb (chBase n) F.CH_PIN_PARKED = true) (hend : (s.chan n).parkEnd = none) (hw : (s.tdacAt n t).2.1 = true) :
    s.Unparked n t (s.applyTdac n t none) := by
  have hun : s.unparks n t = true := by
    rw [State.unparks, s.tdacForced_fb n t (by decide), hp, State.tdacForced_chan, hend, hw]
    rfl
  have hpark : ((s.tdacModed n t).chan n).parkEnd = some (t + settlePark) := by rw [State.tdacModed, if_pos hun, State.chan_modChan_same]
  have hhold : s.HoldsCode n t (s.tdacLoaded n t) := s.tdacLoaded_holds n t (by rw [hpark, Option.isNone_some, Bool.and_false])
  have hchan : ((s.tdacLoaded n t).chan n).parkEnd = some (t + settlePark) := by
    rw [State.tdacLoaded, if_neg (by rw [hpark, Option.isNone_some, Bool.and_false]; decide), State.loadAll_chan, hpark]
  have henf := (s.tdacForced_actB n t (f := F.CH_CFG_EN) (by decide)).trans hen
  have heq : s.applyTdac n t none = (s.tdacLoaded n t).settles n t := by
    rw [State.applyTdac_eq hr hf, henf, hun, Bool.true_or, if_neg (by decide), if_pos rfl]
  have hcode := State.applyTdac_holds hr hf henf hhold
  rw [heq] at hcode ⊢
  generalize s.tdacLoaded n t = u at *
  exact {
    parkEnd := by rw [State.settles, State.chan_setF, State.chan_modChan_same]; exact hchan
    settling := State.fb_raise _ _ rfl (by decide)
    settleBy := by rw [State.settles, State.chan_setF, State.chan_modChan_same]
    code := hcode }

/-! ### TDAC_APPLY -/

/-- The state in which the strobe of an immediate write is taken. -/
def State.strobeTaken (s : State) (n : Ch) (t : Nat) (rest : List Nat) : State := (s.reach t).modChan n fun c => { c with strobes := rest }

theorem State.strobeTaken_onlyClk (s : State) (n : Ch) (t : Nat) (rest : List Nat) :
    s.strobeTaken n t rest = { s with clk := (s.reach t).clk, chans := (s.strobeTaken n t rest).chans } := by
  unfold State.strobeTaken
  rw [s.reach_stands]
  rfl

theorem State.strobeTaken_chan (s : State) (n : Ch) (t : Nat) (rest : List Nat) :
    (s.strobeTaken n t rest).chan n = { s.chan n with strobes := rest } := by
  rw [State.strobeTaken, State.chan_modChan_same, State.chan_reach]

theorem State.strobeTaken_others (s : State) (t : Nat) (rest : List Nat) (h : m ≠ n) : (s.strobeTaken n t rest).chan m = s.chan m := by
  rw [State.strobeTaken, State.chan_modChan_other _ _ h.symm, State.chan_reach]

theorem State.strobeTaken_tdacAt (s : State) (n : Ch) (t : Nat) (rest : List Nat) : (s.strobeTaken n t rest).tdacAt n t = s.tdacAt n t := by
  unfold State.tdacAt
  rw [State.strobeTaken_chan, State.strobeTaken_onlyClk]
  rfl

theorem State.tdacAt_settled (h : (s.chan n).tdacLate = none) (t : Nat) :
    s.tdacAt n t = (s.w (chBase n + R.CH_TDAC), (s.chan n).tdacWritten, false) := by rw [State.tdacAt, h]

theorem State.tdacAt_past {c : Nat × Word × Bool} (h : (s.chan n).tdacLate = some c) {t : Nat} (ht : c.1 + 2048 ≤ t) :
    s.tdacAt n t = (s.w (chBase n + R.CH_TDAC), (s.chan n).tdacWritten, false) := by
  rw [State.tdacAt, h]
  exact if_neg (by omega)

theorem State.tdacAt_late {c : Nat × Word × Bool} (h : (s.chan n).tdacLate = some c) {t : Nat} (ht : t < c.1 + 2048) :
    s.tdacAt n t = (c.2.1, c.2.2, true) := by
  rw [State.tdacAt, h]
  exact if_pos ht

theorem State.applyStrobe_eq (h : (s.chan n).strobes = at_ :: rest) : s.applyStrobe n = (s.strobeTaken n at_ rest).applyTdac n at_ none := by
  rw [State.applyStrobe, h]
  rfl

theorem tdacApply_kept (h : (s.chan n).strobes = at_ :: rest) (hk : s.ready = false ∨ s.fusedOff n = true) :
    ∃ t, exec (.tdacApply n) s = .next t ∧ t.chan n = { s.chan n with strobes := rest } ∧ (∀ m : Ch, m ≠ n → t.chan m = s.chan m) ∧
      t.clk = (s.reach at_).clk ∧ t = { s with clk := t.clk, chans := t.chans } := by
  have heq : s.applyStrobe n = s.strobeTaken n at_ rest := (State.applyStrobe_eq h).trans <| State.applyTdac_kept (by
    rw [State.strobeTaken_onlyClk]
    exact hk) at_
  exact ⟨_, congrArg Host.Outcome.next heq, s.strobeTaken_chan .., fun m hm => s.strobeTaken_others _ _ hm, rfl, s.strobeTaken_onlyClk ..⟩

theorem tdacApply_applies (h : (s.chan n).strobes = at_ :: rest) (hr : s.ready = true) (hf : s.fusedOff n = false) :
    ∃ t, exec (.tdacApply n) s = .next t ∧ (t.chan n).strobes = rest ∧ t.clk = (s.reach at_).clk ∧
      bitsGet (t.w (chBase n + 0x800 + R.CH_TDAC)) 0 22 = bitsGet (s.tdacAt n at_).1 0 22 ∧
      ((s.chan n).tdacLate = none → (s.tdacAt n at_).1 = s.w (chBase n + R.CH_TDAC) ∧ (t.chan n).tdacPend = false) ∧
      (∀ c : Nat × Word × Bool, (s.chan n).tdacLate = some c → c.1 + 2048 ≤ at_ →
        (s.tdacAt n at_).1 = s.w (chBase n + R.CH_TDAC) ∧ (t.chan n).tdacPend = false) ∧
      (∀ c : Nat × Word × Bool, (s.chan n).tdacLate = some c → at_ < c.1 + 2048 →
        (s.tdacAt n at_).1 = c.2.1 ∧ (t.chan n).tdacPend = (s.chan n).tdacPend) ∧
      t.w (chBase n + R.CH_TDAC) = s.w (chBase n + R.CH_TDAC) ∧
      (s.actB n F.CH_CFG_EN = true → s.fb (chBase n) F.CH_PIN_PARKED = false →
        (t.fe (Ch.fe n)).tdac.map (fun (x : Word × Rat) => x.1) = some (BitVec.ofNat 32 (bitsGet (s.tdacAt n at_).1 0 22))) ∧
      (s.actB n F.CH_CFG_EN = true → s.fb (chBase n) F.CH_PIN_PARKED = true → (s.chan n).parkEnd = none →
        (s.tdacAt n at_).2.1 = true →
        (t.chan n).parkEnd = some (at_ + settlePark) ∧ t.fb (chBase n) F.CH_PIN_SETTLING = true ∧
          (t.chan n).settleBy = at_ + settleCode ∧
          (t.fe (Ch.fe n)).tdac.map (fun (x : Word × Rat) => x.1) = some (BitVec.ofNat 32 (bitsGet (s.tdacAt n at_).1 0 22))) ∧
      (∀ m : Ch, m ≠ n → t.chan m = s.chan m) ∧ s.SameMemory t := by
  obtain ⟨u, hu⟩ : ∃ u, u = s.strobeTaken n at_ rest := ⟨_, rfl⟩
  have hstands : u = { s with clk := (s.reach at_).clk, chans := u.chans } := hu ▸ s.strobeTaken_onlyClk n at_ rest
  have hchan : u.chan n = { s.chan n with strobes := rest } := hu ▸ s.strobeTaken_chan n at_ rest
  have hothers (m : Ch) (hm : m ≠ n) : u.chan m = s.chan m := hu ▸ s.strobeTaken_others at_ rest hm
  have htdac : u.tdacAt n at_ = s.tdacAt n at_ := hu ▸ s.strobeTaken_tdacAt n at_ rest
  have heq : s.applyStrobe n = u.applyTdac n at_ none := hu ▸ State.applyStrobe_eq h
  clear hu
  have hclk : u.clk = (s.reach at_).clk := by rw [hstands]
  have hw (a : Nat) : u.w a = s.w a := by rw [hstands]; rfl
  have hfb (b : Nat) (f : Fld) : u.fb b f = s.fb b f := by rw [State.fb, State.f, hw, State.fb, State.f]
  have hru : u.ready = true := (hfb 0 F.DEV_STAT_READY).trans hr
  have hfu : u.fusedOff n = false := by rw [hstands]; exact hf
  have hen : u.actB n F.CH_CFG_EN = s.actB n F.CH_CFG_EN := hfb (chBase n + 0x800) F.CH_CFG_EN
  have hmem : s.SameMemory u := by
    rw [hstands]
    exact ⟨fun _ => rfl, fun _ => rfl, rfl, fun _ => rfl, fun _ => rfl⟩
  have hmoved := State.applyTdac_moved hru hfu at_
  have hword := (hmoved.words (chBase n + 0x800 + R.CH_TDAC) (by unfold R.CH_TDAC R.CH_PIN; omega)).trans (u.tdacForced_word n at_)
  have hshadow := (hmoved.words (chBase n + R.CH_TDAC) (by unfold R.CH_TDAC R.CH_PIN; omega)).trans (u.tdacForced_other n at_ (by omega))
  have hpend := hmoved.pend
  have hstrobes := hmoved.strobes
  rw [State.tdacForced_chan, hchan, htdac] at hpend
  rw [State.tdacForced_chan, hchan] at hstrobes
  have hframe := u.applyTdac_fabric n at_
  have hlive (h1 : s.actB n F.CH_CFG_EN = true) (h2 : s.fb (chBase n) F.CH_PIN_PARKED = false) : u.HoldsCode n at_ (u.applyTdac n at_ none) :=
    State.applyTdac_live hru hfu at_ (hen.trans h1) ((hfb _ _).trans h2)
  have hun (h1 : s.actB n F.CH_CFG_EN = true) (h2 : s.fb (chBase n) F.CH_PIN_PARKED = true) (h3 : (s.chan n).parkEnd = none)
      (h4 : (s.tdacAt n at_).2.1 = true) : u.Unparked n at_ (u.applyTdac n at_ none) :=
    State.applyTdac_unparks hru hfu at_ (hen.trans h1) ((hfb _ _).trans h2) (by rw [hchan]; exact h3) (by rw [htdac]; exact h4)
  have hrest (m : Ch) (hm : m ≠ n) := (u.applyTdac_others at_ hm).trans (hothers m hm)
  refine ⟨_, congrArg Host.Outcome.next heq, ?_⟩
  generalize u.applyTdac n at_ none = t at *
  refine ⟨hstrobes, hframe.clk.trans hclk, by rw [hword, State.tdacNew_code, htdac], fun hl => ?_, fun c hl hc => ?_, fun c hl hc => ?_,
    hshadow.trans (hw _), fun h1 h2 => ?_, fun h1 h2 h3 h4 => ?_, hrest, hmem.trans hframe.memory⟩
  · rw [hpend, State.tdacAt_settled hl]
    exact ⟨rfl, Bool.and_false _⟩
  · rw [hpend, State.tdacAt_past hl hc]
    exact ⟨rfl, Bool.and_false _⟩
  · rw [hpend, State.tdacAt_late hl hc]
    exact ⟨rfl, Bool.and_true _⟩
  · have hcode := hlive h1 h2
    rwa [State.HoldsCode, htdac] at hcode
  · obtain ⟨hpark, hset, hby, hcode⟩ := hun h1 h2 h3 h4
    rw [State.HoldsCode, htdac] at hcode
    exact ⟨hpark, hset, hby, hcode⟩

/-! ### TDAC_MODE_WRITE (R62) -/

/-- What a write of CH_TDAC that no claim refuses comes to, of the state behind the idle route. -/
structure State.TdacStored (n : Ch) (v : Word) (s t : State) : Prop where
  shadow : t.w (chBase n + R.CH_TDAC) = v
  mode : F.CH_TDAC_MODE.of (t.w (chBase n + 0x800 + R.CH_TDAC)) = F.CH_TDAC_MODE.of v
  pend : (t.chan n).tdacPend = true
  written : (t.chan n).tdacWritten = true
  strobes : (t.chan n).strobes = (if F.CH_TDAC_MODE.of (s.w (chBase n + R.CH_TDAC)) ≠ F.CH_TDAC_MODE.of v then [] else (s.chan n).strobes) ++
    (if immediateMode (F.CH_TDAC_MODE.of v) then [s.strobeAt] else [])
  others : ∀ m : Ch, m ≠ n → t.chan m = s.chan m
  memory : s.SameMemory t

/-- What a change of MODE does first: what is pending applies, and the strobes that have not come are dropped. -/
def State.modeLeft (n : Ch) (s : State) : State :=
  (if (s.chan n).tdacPend then (s.reach s.strobeAt).applyTdac n s.strobeAt none else s).modChan n fun c => { c with strobes := [] }

theorem State.modeLeft_memory (s : State) (n : Ch) : s.SameMemory (s.modeLeft n) := by
  have hpend : s.SameMemory (if (s.chan n).tdacPend then (s.reach s.strobeAt).applyTdac n s.strobeAt none else s) := by
    split
    · exact (s.sameMemory_reach _).trans (State.applyTdac_fabric _ n _).memory
    · exact (State.OnlyFabric.refl s).memory
  exact hpend

theorem State.modeLeft_others (s : State) (h : m ≠ n) : (s.modeLeft n).chan m = s.chan m := by
  rw [State.modeLeft, State.chan_modChan_other _ _ h.symm]
  split
  · rw [State.applyTdac_others _ _ h, State.chan_reach]
  · rfl

theorem State.writeTdac_stored (s : State) (n : Ch) (v : Word) : s.TdacStored n v (s.writeTdac n v) := by
  obtain ⟨u, hu⟩ : ∃ u, u = if F.CH_TDAC_MODE.of (s.w (chBase n + R.CH_TDAC)) ≠ F.CH_TDAC_MODE.of v then s.modeLeft n else s := ⟨_, rfl⟩
  have hstrobes : (u.chan n).strobes = if F.CH_TDAC_MODE.of (s.w (chBase n + R.CH_TDAC)) ≠ F.CH_TDAC_MODE.of v then [] else (s.chan n).strobes := by
    rw [hu]
    split
    · rw [State.modeLeft, State.chan_modChan_same]
    · rfl
  have hothers (m : Ch) (h : m ≠ n) : u.chan m = s.chan m := by
    rw [hu]
    split
    · exact s.modeLeft_others h
    · rfl
  have hmem : s.SameMemory u := by
    rw [hu]
    split
    · exact s.modeLeft_memory n
    · exact (State.OnlyFabric.refl s).memory
  unfold State.writeTdac
  dsimp only
  unfold State.modeLeft at hu
  rw [← hu]
  clear hu
  have hlt : F.CH_TDAC_MODE.of v < 4 := Fld.of_lt _ _
  generalize hx : (u.setW (chBase n + R.CH_TDAC) v).setW (chBase n + R.CH_TDAC + 0x800) _ = x
  have hxchan (m : Ch) : x.chan m = u.chan m := by rw [← hx, State.chan_setW, State.chan_setW]
  have hshadow : x.w (chBase n + R.CH_TDAC) = v := by rw [← hx, State.w_setW_other _ _ (by omega), State.w_setW_same]
  have hmode : F.CH_TDAC_MODE.of (x.w (chBase n + R.CH_TDAC + 0x800)) = F.CH_TDAC_MODE.of v := by
    rw [← hx, State.w_setW_same, Fld.of_into _ _ _ (by decide)]
    exact Nat.mod_eq_of_lt hlt
  have hxmem : s.SameMemory x := by
    rw [← hx]
    exact hmem.trans (State.OnlyFabric.setW (.setW (.refl u) ..) ..).memory
  clear hx
  exact {
    shadow := hshadow
    mode := by rw [Nat.add_right_comm]; exact hmode
    pend := by rw [State.chan_modChan_same]
    written := by rw [State.chan_modChan_same]
    strobes := by
      rw [State.chan_modChan_same, hxchan, ← hstrobes]
      dsimp only
      split
      · rfl
      · rw [List.append_nil]
    others := fun m h => by rw [State.chan_modChan_other _ _ h.symm, hxchan, hothers m h]
    memory := hxmem }

/-- The write keeps all bits it is given. -/
theorem RegRow.stored_and {r : RegRow} (hc : r.w1c = 0#32) (old w : Word) : r.stored old w &&& r.rw = w &&& r.rw := by
  rw [RegRow.stored, hc]
  ext i
  simp only [BitVec.getElem_and, BitVec.getElem_or, BitVec.getElem_not]
  cases r.rw[i]
  · simp
  · simp

theorem tdacModeWrite_stores (hs : s.Serves) (h : s.fb (chBase n) F.CH_HG_STAT_SVC_OWN = false) (w : Word) :
    ∃ t, exec (.tdacModeWrite n w) s = .next t ∧ t.w (chBase n + R.CH_TDAC) &&& 0xFFFFFF#32 = w &&& 0xFFFFFF#32 ∧
      F.CH_TDAC_MODE.of (t.w (chBase n + 0x800 + R.CH_TDAC)) = F.CH_TDAC_MODE.of w ∧
      (t.chan n).tdacPend = true ∧ (t.chan n).tdacWritten = true ∧
      (t.chan n).strobes = (if F.CH_TDAC_MODE.of (s.w (chBase n + R.CH_TDAC)) ≠ F.CH_TDAC_MODE.of w then [] else (s.chan n).strobes) ++
        (if immediateMode (F.CH_TDAC_MODE.of w) then [s.strobeAt] else []) ∧
      (∀ m : Ch, m ≠ n → t.chan m = s.chan m) ∧ s.SameMemory t := by
  obtain ⟨r, hr, hg, hrw, hc⟩ := row_CH_TDAC
  have hmode : F.CH_TDAC_MODE.of (r.stored (s.w (chBase n + R.CH_TDAC)) w) = F.CH_TDAC_MODE.of w := RegRow.of_stored (by rw [hrw]; decide) hc _ _
  have hbits : r.stored (s.w (chBase n + R.CH_TDAC)) w &&& 0xFFFFFF#32 = w &&& 0xFFFFFF#32 := hrw ▸ RegRow.stored_and hc _ _
  have heq : exec (.tdacModeWrite n w) s = .next (((s.breakIdle n).writeTdac n (r.stored (s.w (chBase n + R.CH_TDAC)) w)).modPath .host fun x =>
      { x with resp := 0 }) := by
    rw [← State.writeChan_tdac h .host, ← State.wr_chan hs n (by decide) (by decide) hr hg]
    rfl
  have hidle := s.breakIdle_onlyIdle n
  generalize r.stored (s.w (chBase n + R.CH_TDAC)) w = v at *
  generalize s.breakIdle n = u at *
  obtain ⟨hshadow, hforce, hpend, hwritten, hstrobes, hothers, hmem⟩ := u.writeTdac_stored n v
  have hold : u.w (chBase n + R.CH_TDAC) = s.w (chBase n + R.CH_TDAC) := hidle.words _ (not_calWord_chan n (by decide))
  have hat : u.strobeAt = s.strobeAt := by rw [hidle.stands]; rfl
  have hch : (u.chan n).strobes = (s.chan n).strobes := by
    obtain ⟨x, hx⟩ := hidle.chan
    rw [hx]
  rw [hold, hmode, hat, hch] at hstrobes
  refine ⟨_, heq, ?_⟩
  generalize u.writeTdac n v = t at *
  exact ⟨hshadow ▸ hbits, hforce.trans hmode, hpend, hwritten, hstrobes, fun m hm => (hothers m hm).trans (hidle.others m hm),
    (State.OnlyFabric.idle (.refl s) hidle).memory.trans hmem⟩

/-! ### SETTLING_END and TDAC_QUEUE_PUSH (R58, R64) -/

theorem settlingEnd_clears (s : State) (n : Ch) :
    ∃ t, exec (.settlingEnd n) s = .next t ∧ t.fb (chBase n) F.CH_PIN_SETTLING = false ∧
      t.clk = (s.reach (s.chan n).settleBy).clk ∧ (∀ a, a ≠ chBase n + R.CH_PIN → t.w a = s.w a) ∧
      t = { s with regs := t.regs, clk := t.clk } := by
  have heq : exec (.settlingEnd n) s = .next ((s.reach (s.chan n).settleBy).setF (chBase n) F.CH_PIN_SETTLING 0) := rfl
  refine ⟨_, heq, ?_, rfl, fun a ha => ?_, ?_⟩
  · rw [State.fb, State.f_setF _ _ _ _ (by decide)]
    rfl
  · rw [State.w_setF_other _ (Ne.symm ha), State.w_reach]
  · rw [s.reach_stands]
    rfl

theorem State.chan_modPath (s : State) (p : Path) (g : PathSt → PathSt) (n : Ch) : (s.modPath p g).chan n = s.chan n := rfl

theorem State.pushCode_room (h : (s.chan n).tdacQ.length < 64) (code : BitVec 18) :
    s.pushCode n code = s.modChan n fun c => { c with tdacQ := c.tdacQ ++ [(s.now, code)], tdacWritten := true } := if_neg (by omega)

theorem State.pushCode_full (h : 64 ≤ (s.chan n).tdacQ.length) (code : BitVec 18) : s.pushCode n code = s.raise (chBase n) F.CH_PIN_TQ_FULL :=
  if_pos h

theorem tdacQueuePush_queues (hs : s.Serves) (n : Ch) (code : BitVec 18) :
    ∃ t, exec (.tdacQueuePush n code) s = .next t ∧
      ((s.chan n).tdacQ.length < 64 → t.chan n = { s.chan n with tdacQ := (s.chan n).tdacQ ++ [(s.now, code)], tdacWritten := true } ∧
        t.regs = s.regs) ∧
      (64 ≤ (s.chan n).tdacQ.length → t.fb (chBase n) F.CH_PIN_TQ_FULL = true ∧ t.chan n = s.chan n) ∧
      (∀ m : Ch, m ≠ n → t.chan m = s.chan m) ∧ t = { s with regs := t.regs, chans := t.chans, paths := t.paths } := by
  obtain ⟨r, hr, hg, -, -⟩ := row_CH_TDAC_Q
  have hcode : (code.setWidth 32).setWidth 18 = code := by
    rw [BitVec.setWidth_setWidth_of_le _ (by decide), BitVec.setWidth_eq]
  have heq : exec (.tdacQueuePush n code) s = .next ((s.pushCode n code).modPath .host fun x => { x with resp := 0 }) := by
    rw [← hcode, ← State.writeChan_tdacQ s .host, ← State.wr_chan hs n (by decide) (by decide) hr hg, hcode]
    rfl
  refine ⟨_, heq, ?_⟩
  by_cases hroom : (s.chan n).tdacQ.length < 64
  · rw [State.pushCode_room hroom]
    refine ⟨fun _ => ⟨?_, rfl⟩, fun hfull => absurd hroom (by omega), fun m hm => ?_, rfl⟩
    · rw [State.chan_modPath, State.chan_modChan_same]
    · rw [State.chan_modPath, State.chan_modChan_other _ _ hm.symm]
  · rw [State.pushCode_full (by omega)]
    refine ⟨fun h => absurd h hroom, fun _ => ⟨?_, ?_⟩, fun m _ => ?_, rfl⟩
    · rw [State.fb_modPath, State.fb_raise _ _ rfl (by decide)]
    · rw [State.chan_modPath, State.chan_raise]
    · rw [State.chan_modPath, State.chan_raise]

/-! ### A gate starts (R92, R93) -/

/-- Calibration states, front ends and channel n's engine may differ: its park and its due stamp stand, and a decimation
counter at zero stays there. -/
structure State.GateStarted (n : Ch) (s t : State) : Prop where
  stands : t = { s with regs := t.regs, chans := t.chans, fes := t.fes }
  words : ∀ a, ¬ CalWord a → t.w a = s.w a
  others : ∀ m : Ch, m ≠ n → t.chan m = s.chan m
  parkEnd : (t.chan n).parkEnd = (s.chan n).parkEnd
  stampDue : (t.chan n).stampDue = (s.chan n).stampDue
  decCount : (s.chan n).decCount = 0 → (t.chan n).decCount = 0

theorem State.GateStarted.refl (s : State) (n : Ch) : s.GateStarted n s := ⟨rfl, fun _ _ => rfl, fun _ _ => rfl, rfl, rfl, id⟩

theorem State.OnlyIdle.gate (h : s.OnlyIdle n t) : s.GateStarted n t := by
  obtain ⟨b, hchan⟩ := h.chan
  exact ⟨h.stands, h.words, h.others, by rw [hchan], by rw [hchan], fun hz => by rw [hchan]; exact hz⟩

theorem State.GateStarted.setChan (h : s.GateStarted n t) {c : Chan} (hp : c.parkEnd = (t.chan n).parkEnd) (hd : c.stampDue = (t.chan n).stampDue)
    (hc : (t.chan n).decCount = 0 → c.decCount = 0) : s.GateStarted n (t.setChan n c) where
  stands := by rw [h.stands]; rfl
  words := h.words
  others := fun m hm => (State.chan_setChan_other _ _ hm.symm).trans (h.others m hm)
  parkEnd := by rw [State.chan_setChan_same, hp, h.parkEnd]
  stampDue := by rw [State.chan_setChan_same, hd, h.stampDue]
  decCount := fun hz => by rw [State.chan_setChan_same]; exact hc (h.decCount hz)

theorem State.openGate_started (s : State) (n : Ch) (k : Nat) : s.GateStarted n (s.openGate n k) := by
  unfold State.openGate
  extract_lets u c _ _ _ _ _ _ dec
  have hdec : c.decCount = 0 → dec = 0 := fun hz => by
    show (if u.actB n F.CH_DEC_GSYNC then 0 else c.decCount) = 0
    rw [hz, ite_self]
  exact .setChan (s.breakIdle_onlyIdle n).gate rfl rfl hdec

theorem State.startGating_started (s : State) (n : Ch) (k : Nat) : s.GateStarted n (s.startGating n k) := by
  unfold State.startGating
  split
  · exact s.openGate_started n k
  · exact .refl s n

theorem State.GateStarted.fabric (h : s.GateStarted n t) : s.OnlyFabric t := by rw [State.OnlyFabric, h.stands]

/-! ### PARK_END (R59) -/

theorem parkEnd_unmasks (h : (s.chan n).parkEnd = some at_) :
    ∃ t, exec (.parkEnd n) s = .next t ∧ t.fb (chBase n) F.CH_PIN_PARKED = false ∧ (t.chan n).parkEnd = none ∧
      (t.chan n).stampDue = true ∧ t.clk = (s.reach at_).clk ∧ (∀ m : Ch, m ≠ n → t.chan m = s.chan m) ∧ s.SameMemory t := by
  have heq : exec (.parkEnd n) s = .next (s.endPark n) := rfl
  refine ⟨_, heq, ?_⟩
  unfold State.endPark
  rw [h]
  dsimp only
  obtain ⟨u, hu⟩ : ∃ u, u = (s.reach at_).breakFree (s.serving n) := ⟨_, rfl⟩
  have hcal : (s.reach at_).OnlyCal u := hu ▸ State.breakFree_onlyCal _ _
  rw [← hu]
  have hchan (m : Ch) : u.chan m = s.chan m := by rw [State.chan, hcal.chans, ← State.chan, State.chan_reach]
  obtain ⟨v, hv⟩ : ∃ v, v = (u.modChan n fun c => { c with parkEnd := none, stampDue := true, decCount := 0, lastAcc := none }).setF
    (chBase n) F.CH_PIN_PARKED 0 := ⟨_, rfl⟩
  have hframe : (s.reach at_).OnlyFabric v := hv ▸ .setF (.modChan (.cal (.refl _) hcal) ..) ..
  have hmask : v.f (chBase n) F.CH_PIN_PARKED = 0 := by
    rw [hv, State.f_setF _ _ _ _ (by decide)]
    rfl
  have hown : (v.chan n).parkEnd = none ∧ (v.chan n).stampDue = true := by
    rw [hv, State.chan_setF, State.chan_modChan_same]
    exact ⟨rfl, rfl⟩
  have hothers (m : Ch) (hm : m ≠ n) : v.chan m = s.chan m := by rw [hv, State.chan_setF, State.chan_modChan_other _ _ hm.symm, hchan]
  rw [← hv]
  have hgate := v.startGating_started n v.now
  generalize v.startGating n v.now = t at *
  refine ⟨?_, hgate.parkEnd.trans hown.1, hgate.stampDue.trans hown.2, hgate.fabric.clk.trans hframe.clk,
    fun m hm => (hgate.others m hm).trans (hothers m hm), ((s.sameMemory_reach at_).trans hframe.memory).trans hgate.fabric.memory⟩
  rw [State.fb, State.f, hgate.words _ (not_calWord_chan n (by decide)), ← State.f, hmask]
  rfl

/-! ### What shadows that apply leave of the decimation counter -/

/-- A channel's decimation counter at zero stays there, and its CH_DEC as written stands. -/
structure State.DecKept (n : Ch) (s t : State) : Prop where
  count : (s.chan n).decCount = 0 → (t.chan n).decCount = 0
  word : t.w (chBase n + R.CH_DEC) = s.w (chBase n + R.CH_DEC)

theorem chBase_ne (m n : Nat) {a b : Nat} (ha : a < 0x1000) (hb : b < 0x1000) (h : a ≠ b) : chBase m + a ≠ chBase n + b := by
  unfold chBase
  omega

namespace State.DecKept

theorem refl (n : Ch) (s : State) : s.DecKept n s := ⟨id, rfl⟩

theorem trans (h : s.DecKept n t) (k : t.DecKept n r) : s.DecKept n r := ⟨fun hz => k.count (h.count hz), k.word.trans h.word⟩

/-- An operation on other parts. -/
theorem apart (h : s.DecKept n t) (hregs : r.regs = t.regs) (hchans : r.chans = t.chans) : s.DecKept n r :=
  h.trans ⟨fun hz => by rw [State.chan, hchans]; exact hz, by rw [State.w, hregs, State.w]⟩

theorem setChan (h : s.DecKept n t) {m : Ch} {c : Chan} (hc : (t.chan m).decCount = 0 → c.decCount = 0) : s.DecKept n (t.setChan m c) := by
  refine h.trans ⟨fun hz => ?_, rfl⟩
  by_cases hm : m = n
  · subst hm
    rw [State.chan_setChan_same]
    exact hc hz
  · rwa [State.chan_setChan_other _ _ hm]

theorem modChan (h : s.DecKept n t) {m : Ch} {k : Chan → Chan} (hk : ∀ c : Chan, c.decCount = 0 → (k c).decCount = 0) : s.DecKept n (t.modChan m k) :=
  .setChan h (hk _)

theorem setW (h : s.DecKept n t) {a : Nat} (w : Word) (ha : a ≠ chBase n + R.CH_DEC) : s.DecKept n (t.setW a w) :=
  h.trans ⟨id, State.w_setW_other _ _ ha⟩

theorem setF (h : s.DecKept n t) (m : Ch) (v : Nat) (hf : f.addr < 0x1000) (hd : f.addr ≠ R.CH_DEC) : s.DecKept n (t.setF (chBase m) f v) :=
  .setW h _ (chBase_ne m n hf (by decide) hd)

theorem setF_spare (h : s.DecKept n t) (p : Spare) (v : Nat) (hf : f.addr < 0x1000) : s.DecKept n (t.setF (spBase p) f v) :=
  .setW h _ (spBase_ne_chBase p n hf (by decide))

theorem setSpare (h : s.DecKept n t) (p : Spare) (x : SpareSt) : s.DecKept n (t.setSpare p x) := h.trans ⟨id, rfl⟩
theorem spareEnds (h : s.DecKept n t) (m : Ch) : s.DecKept n (t.spareEnds m) := h.trans ⟨id, rfl⟩
theorem modTu (h : s.DecKept n t) (u : Unit16) (k : UnitSt → UnitSt) : s.DecKept n (t.modTu u k) := h.trans ⟨id, rfl⟩
theorem ltEnd (h : s.DecKept n t) (m : Ch) : s.DecKept n (t.ltEnd m) := h.trans ⟨id, rfl⟩
theorem modFe (h : s.DecKept n t) (e : FrontEnd) (k : FeSt → FeSt) : s.DecKept n (t.modFe e k) := h.trans ⟨id, rfl⟩

theorem idle (h : s.DecKept n t) (k : t.OnlyIdle n r) : s.DecKept n r :=
  h.trans ⟨k.gate.decCount, k.words _ (not_calWord_chan n (by decide))⟩

theorem forAll {α : Type} (h : s.DecKept n t) (l : List α) {g : α → State → State} (hg : ∀ a (x : State), x.DecKept n (g a x)) :
    s.DecKept n (t.forAll l g) :=
  h.trans (State.forAll_rel (rel := State.DecKept n) (refl n) trans (fun a _ s => hg a s) t)

theorem setPair (h : s.DecKept n t) {a : Nat} (v : Nat) (ha : a ≠ chBase n + R.CH_DEC) (ha' : a + 4 ≠ chBase n + R.CH_DEC) :
    s.DecKept n (t.setPair a v) := .setW (.setW h _ ha) _ ha'

end State.DecKept

theorem Chan.OnlyMarks.decCount {c d : Chan} (h : c.OnlyMarks d) : d.decCount = c.decCount := by rw [h]

/-! #### Park -/

theorem State.abandonHandover_decKept (s : State) (n : Ch) : s.DecKept n (s.abandonHandover n) := by
  unfold State.abandonHandover
  split
  · dsimp only
    have habandon : s.DecKept n (if s.f (spBase (Ch.spareOf n)) F.SP_STAT_OWNER = 2 then s.abandonThr n else s) := by
      split
      · exact .idle (.refl n s) (s.abandonThrOf_onlyIdle (Ch.fe n) n)
      · exact .refl n s
    generalize (if s.f (spBase (Ch.spareOf n)) F.SP_STAT_OWNER = 2 then s.abandonThr n else s) = u at *
    have hfail : s.DecKept n (((u.setF (spBase (Ch.spareOf n)) F.SP_STAT_STATE 0).setF (spBase (Ch.spareOf n)) F.SP_STAT_OWNER 0).raise
        (spBase (Ch.spareOf n)) F.SP_STAT_HO_FAIL) :=
      .setF_spare (.setF_spare (.setF_spare habandon _ 0 (by decide)) _ 0 (by decide)) _ 1 (by decide)
    exact .spareEnds (.setSpare (.setF hfail n 0 (by decide) (by decide)) ..) n
  · exact .refl n s

theorem State.writeBlind_decKept (s : State) (n : Ch) (b : BlindSt) : s.DecKept n (s.writeBlind n b) where
  count := fun _ => by
    obtain ⟨-, hdec, -⟩ := s.writeBlind_ended n b
    exact hdec
  word := s.w_writeBlind n b (by unfold R.CH_DEC R.CH_STAT; omega) (by unfold R.CH_DEC R.CH_PIN; omega)

theorem State.cutBlind_decKept (s : State) (n : Ch) : s.DecKept n (s.cutBlind n) := by
  unfold State.cutBlind
  split
  · exact s.writeBlind_decKept n _
  · exact .refl n s

theorem State.endGate_decKept (s : State) (n : Ch) (k : Nat) (cut early : Bool) : s.DecKept n (s.endGate n k cut early) := by
  unfold State.endGate
  extract_lets c c1 c2 full ovfB blindB
  split
  · exact .refl n s
  · extract_lets c3 s1
    have hc2 : c2.decCount = c.decCount := (c1.settle_onlyMarks s.now).decCount
    have hc3 : c3.decCount = c2.decCount := by
      show (if full then _ else _ : Chan).decCount = _
      split
      · rfl
      · exact (Chan.marker_onlyMarks _ _ _).decCount
    have hclosed : s.DecKept n s1 :=
      .setPair (.setF (.setChan (.refl n s) fun hz => (hc3.trans hc2).trans hz) n _ (by decide) (by decide)) _
        (chBase_ne n n (by decide) (by decide) (by decide)) (chBase_ne n n (a := R.CH_GATES_H + 4) (by decide) (by decide) (by decide))
    split
    · exact .modChan hclosed fun p hz => (Chan.marker_onlyMarks _ _ p).decCount.trans hz
    · exact hclosed

theorem State.ovfRun_decKept (s : State) (n m : Ch) (ended : Bool) (k : Nat) : s.DecKept n (s.ovfRun m ended k) := by
  unfold State.ovfRun
  dsimp only
  split
  · split
    · exact .setF (.setF (.refl n s) m _ (by decide) (by decide)) m 1 (by decide) (by decide)
    · exact .setF (.refl n s) m _ (by decide) (by decide)
  · exact .setF (.refl n s) m _ (by decide) (by decide)

theorem State.pulseOut_decKept (s : State) (n : Ch) (u func k : Nat) : s.DecKept n (s.pulseOut u func k) := by
  refine .forAll (.refl n s) _ fun a x => ?_
  dsimp only
  split
  · exact ⟨id, rfl⟩
  · exact .refl n x

theorem State.checkClosed_decKept (s : State) (n : Ch) (u : Unit16) : s.DecKept n (s.checkClosed u) := by
  have htu {f : Fld} (hf : f.addr < 0x100) : tuBase u + f.addr ≠ chBase n + R.CH_DEC := by
    unfold tuBase chBase
    omega
  unfold State.checkClosed
  extract_lets x s1
  split
  · have hclosed : s.DecKept n s1 := .trans (.setW (.modTu (.refl n s) u _) _ (htu (by decide))) (State.pulseOut_decKept _ n _ _ _)
    refine .forAll hclosed _ fun r y => ?_
    split
    · exact y.ovfRun_decKept n _ _ _
    · exact .refl n y
  · exact .refl n s

theorem State.closeRecords_decKept (s : State) (n m : Ch) (cause : CloseCause) : s.DecKept n (s.closeRecords m cause) := by
  refine .forAll (.refl n s) _ fun u x => ?_
  split
  · exact (State.DecKept.modTu (.refl n x) u _).trans (State.checkClosed_decKept _ n u)
  · exact .refl n x

theorem State.park_decKept (s : State) (n : Ch) : s.DecKept n (s.park n) := by
  unfold State.park
  extract_lets s1 s2 s3 s4 s5 s6
  have h1 : s.DecKept n s1 := s.abandonHandover_decKept n
  split
  · exact h1
  · have h2 : s.DecKept n s2 := .modChan h1 fun c hz => c.settleAll_onlyMarks.decCount.trans hz
    have h3 : s.DecKept n s3 := h2.trans (s2.cutBlind_decKept n)
    have h4 : s.DecKept n s4 := (h3.trans (s3.endGate_decKept n s3.now true true)).trans (State.closeRecords_decKept _ n n .stop)
    have h5 : s.DecKept n s5 := .forAll h4 _ fun e x => .modFe (.refl n x) e _
    have h6 : s.DecKept n s6 := .modChan h5 fun c hz => hz
    exact .setF (.setF (.setF h6 n 1 (by decide) (by decide)) n 0 (by decide) (by decide)) n 0 (by decide) (by decide)

/-! #### The application -/

theorem State.modeChange_decKept (s : State) (n : Ch) (k : Nat) : s.DecKept n (s.modeChange n k) := by
  have hblind : s.DecKept n (s.startBlind n { raw := k, edge := none } { Causes.none with tdac := true } 0 (k + settlePark) false false) := by
    refine .modChan (.refl n s) fun c hz => ?_
    split
    · exact hz
    · exact hz
  unfold State.modeChange
  dsimp only
  split
  · split
    · exact .setChan (.refl n s) id
    · exact .refl n s
  · split
    · exact .setSpare (.setF hblind n 1 (by decide) (by decide)) _ _
    · exact .setF hblind n 1 (by decide) (by decide)

theorem State.clearLake_decKept (s : State) (n : Ch) (lo hi : Nat) : s.DecKept n (s.clearLake lo hi) := by
  refine .forAll (.refl n s) _ fun b x => ?_
  dsimp only
  split
  · split
    · exact ⟨id, rfl⟩
    · exact ⟨id, rfl⟩
  · exact .refl n x

theorem State.clearHist_decKept (s : State) (n : Ch) : s.DecKept n (s.clearHist n) := by
  unfold State.clearHist
  refine .modChan (.setF (.setPair (s.clearLake_decKept n _ _) _ ?_ ?_) n 1 (by decide) (by decide)) fun c hz => hz
  · exact chBase_ne n n (by decide) (by decide) (by decide)
  · exact chBase_ne n n (a := R.CH_HG_TOT_H + 4) (by decide) (by decide) (by decide)

theorem State.forceWord_decKept (s : State) (n : Ch) (o : Nat) (w : Word) : s.DecKept n (s.forceWord n o w) := by
  refine .setW (.refl n s) _ ?_
  unfold R.CH_DEC
  omega

theorem State.applyShadows_decKept (s : State) (n : Ch) (k : Nat) : s.DecKept n (s.applyShadows n k) := by
  unfold State.applyShadows
  extract_lets a late waits prev dec held s1 todo cfg0 fn0 dec0 part0 g0 s2 s3 cfg1 fn1 en0 en1 s4 s5 s6 s7 g1 restart adClr stream refn retie s8
  have h1 : s.DecKept n s1 := by
    show s.DecKept n (if held then s.raise a F.CH_MD_STAT_EN_REJ else s)
    split
    · exact .setF (.refl n s) n 1 (by decide) (by decide)
    · exact .refl n s
  split
  · exact h1
  have h2 : s.DecKept n s2 := .forAll h1 _ fun o x => x.forceWord_decKept n o _
  have h3 : s.DecKept n s3 := .modChan h2 fun c hz => hz
  have h4 : s.DecKept n s4 := by
    show s.DecKept n (if en1 = 0 && en0 = 1 then s3.park n else if inputMode cfg0 ≠ inputMode cfg1 then s3.modeChange n s3.now else s3)
    split
    · exact h3.trans (s3.park_decKept n)
    · split
      · exact h3.trans (s3.modeChange_decKept n _)
      · exact h3
  have h5 : s.DecKept n s5 := by
    show s.DecKept n (if en0 = 0 && en1 = 1 then s4.modChan n fun c => { c with decCount := 0, stampDue := true, lastEdge := none } else s4)
    split
    · exact .modChan h4 fun _ _ => rfl
    · exact h4
  have h6 : s.DecKept n s6 := by
    show s.DecKept n (if todo.contains R.CH_DEC then s5.modChan n fun c => { c with decCount := 0 } else s5)
    split
    · exact .modChan h5 fun _ _ => rfl
    · exact h5
  have h7 : s.DecKept n s7 := by
    show s.DecKept n (if _ then s6.clearHist n else s6)
    split
    · exact h6.trans (s6.clearHist_decKept n)
    · exact h6
  have h8 : s.DecKept n s8 := by
    show s.DecKept n (if _ then s7.ltEnd n else s7)
    split
    · exact .ltEnd h7 n
    · exact h7
  exact .modChan h8 fun c hz => hz

/-! ### DEC_RESYNC (R83, R279) -/

/-- A shadow of channel n is rewritten with what it holds: only what waits of it may differ. -/
structure State.ShadowNoted (n : Ch) (s t : State) : Prop where
  frame : s.OnlyFabric t
  words : ∀ a, t.w a = s.w a
  others : ∀ m : Ch, m ≠ n → t.chan m = s.chan m
  decCount : (t.chan n).decCount = (s.chan n).decCount
  gates : (t.chan n).gates = (s.chan n).gates

theorem State.ShadowNoted.trans (h : s.ShadowNoted n t) (k : t.ShadowNoted n r) : s.ShadowNoted n r where
  frame := h.frame.trans k.frame
  words a := (k.words a).trans (h.words a)
  others m hm := (k.others m hm).trans (h.others m hm)
  decCount := k.decCount.trans h.decCount
  gates := k.gates.trans h.gates

theorem State.shadowNoted_setChan (s : State) (n : Ch) {c : Chan} (hd : c.decCount = (s.chan n).decCount) (hg : c.gates = (s.chan n).gates) :
    s.ShadowNoted n (s.setChan n c) where
  frame := .setChan (.refl s) n c
  words _ := rfl
  others _ hm := State.chan_setChan_other _ _ hm.symm
  decCount := by rw [State.chan_setChan_same, hd]
  gates := by rw [State.chan_setChan_same, hg]

theorem State.shadowNoted_setW (s : State) (n : Ch) {a : Nat} (hw : s.w a = w) : s.ShadowNoted n (s.setW a w) where
  frame := .setW (.refl s) a w
  words b := by
    by_cases h : a = b
    · rw [← h, State.w_setW_same, hw]
    · exact s.w_setW_other w h
  others _ _ := rfl
  decCount := rfl
  gates := rfl

theorem State.ShadowNoted.decKept (h : s.ShadowNoted n t) : s.DecKept n t := ⟨fun hz => h.decCount.trans hz, h.words _⟩

/-- With a gate open the rewrite waits for the gate's end; with none it applies at once. -/
theorem State.putShadow_same (s : State) (n : Ch) {off : Nat} (hw : s.w (chBase n + off) = w) :
    ∃ v, s.ShadowNoted n v ∧ s.putShadow n off w =
      if (v.chan n).openGate?.isSome then v
      else ((v.reach v.mclkNext).applyShadows n (v.reach v.mclkNext).now).startGating n (v.reach v.mclkNext).now := by
  unfold State.putShadow State.shadowWritten
  extract_lets k c _ late v x
  have hlate : s.ShadowNoted n (s.setChan n { c with late := late }) := s.shadowNoted_setChan n rfl rfl
  exact ⟨v, (hlate.trans (State.shadowNoted_setW _ n hw)).trans (State.shadowNoted_setChan _ n rfl rfl), rfl⟩

theorem State.reach_decKept (s : State) (n : Ch) (k : Nat) : s.DecKept n (s.reach k) := .apart (.refl n s) (s.reach_regs k) (s.reach_chans k)

theorem State.GateStarted.decKept (h : s.GateStarted n t) : s.DecKept n t := ⟨h.decCount, h.words _ (not_calWord_chan n (by decide))⟩

theorem State.putShadow_decKept (s : State) (n : Ch) {off : Nat} (hw : s.w (chBase n + off) = w) : s.DecKept n (s.putShadow n off w) := by
  obtain ⟨v, hv, heq⟩ := s.putShadow_same n hw
  rw [heq]
  split
  · exact hv.decKept
  · exact ((hv.decKept.trans (v.reach_decKept n _)).trans (State.applyShadows_decKept _ n _)).trans (State.startGating_started _ n _).decKept

/-- The command writes RESYNC alone, and CH_DEC stores what it held. -/
theorem decResync_stored {r : RegRow} (hrw : r.rw = 0x4003ffff#32) (hc : r.w1c = 0#32) (old : Word) :
    r.stored old (F.CH_DEC_RESYNC.into (old &&& r.rw) 1) = old := by
  rw [RegRow.stored, hc, hrw, BitVec.and_zero, show ~~~(0#32) = BitVec.allOnes 32 from rfl, BitVec.and_allOnes]
  refine BitVec.eq_of_getLsbD_eq fun i hi => ?_
  rw [BitVec.getLsbD_or, BitVec.getLsbD_and, BitVec.getLsbD_and, BitVec.getLsbD_not, Fld.getLsbD_into _ _ _ _ (by decide), BitVec.getLsbD_and,
    decide_eq_true hi, Bool.true_and]
  split
  next h =>
    have h31 : i = 31 := by
      dsimp only at h
      omega
    subst h31
    rw [show (0x4003ffff#32).getLsbD 31 = false from rfl, Bool.and_false, Bool.or_false, Bool.not_false, Bool.and_true]
  next =>
    cases (0x4003ffff#32).getLsbD i
    · simp
    · simp

/-- DEC_RESYNC is the write of what CH_DEC holds behind the restarted counter. -/
theorem decResync_exec (hs : s.Serves) (h : s.fb (chBase n) F.CH_HG_STAT_SVC_OWN = false) :
    exec (.decResync n) s = .next (((s.modChan n fun c => { c with decCount := 0 }).putShadow n R.CH_DEC (s.w (chBase n + R.CH_DEC))).modPath .host
      fun x => { x with resp := 0 }) := by
  obtain ⟨r, hr, hg, hrw, hc⟩ := row_CH_DEC
  have hcmd : exec (.decResync n) s = .next (s.wrCmd (chBase n + R.CH_DEC) F.CH_DEC_RESYNC) := rfl
  have hone : F.CH_DEC_RESYNC.of (F.CH_DEC_RESYNC.into (s.w (chBase n + R.CH_DEC) &&& r.rw) 1) = 1 := Fld.of_into _ _ _ (by decide)
  rw [hcmd, State.wrCmd_chan hs n (by decide) (by decide) hr hg, State.writeChan_dec h, if_pos hone, decResync_stored hrw hc]

theorem Chan.openGate?_of_gates {c d : Chan} (h : d.gates = c.gates) : d.openGate? = c.openGate? := by rw [Chan.openGate?, h, Chan.openGate?]

theorem decResync_restarts (hs : s.Serves) (h : s.fb (chBase n) F.CH_HG_STAT_SVC_OWN = false) :
    ∃ t, exec (.decResync n) s = .next t ∧ (t.chan n).decCount = 0 ∧ t.w (chBase n + R.CH_DEC) = s.w (chBase n + R.CH_DEC) ∧
      ((s.chan n).openGate?.isSome = true → (∀ a, t.w a = s.w a) ∧ t.clk = s.clk ∧ (∀ m : Ch, m ≠ n → t.chan m = s.chan m) ∧
        s.SameMemory t) := by
  refine ⟨_, decResync_exec hs h, ?_⟩
  obtain ⟨u, hu⟩ : ∃ u, u = s.modChan n fun c => { c with decCount := 0 } := ⟨_, rfl⟩
  have hframe : s.OnlyFabric u := hu ▸ .modChan (.refl s) ..
  have hw (a : Nat) : u.w a = s.w a := by rw [hu, State.w_modChan]
  have hzero : (u.chan n).decCount = 0 := by rw [hu, State.chan_modChan_same]
  have hgates : (u.chan n).gates = (s.chan n).gates := by rw [hu, State.chan_modChan_same]
  have hothers (m : Ch) (hm : m ≠ n) : u.chan m = s.chan m := by rw [hu, State.chan_modChan_other _ _ hm.symm]
  rw [← hu]
  have hkept := u.putShadow_decKept n (hw (chBase n + R.CH_DEC))
  obtain ⟨v, hv, heq⟩ := u.putShadow_same n (hw (chBase n + R.CH_DEC))
  generalize u.putShadow n R.CH_DEC (s.w (chBase n + R.CH_DEC)) = t at *
  refine ⟨hkept.count hzero, hkept.word.trans (hw _), fun hopen => ?_⟩
  have hnoted : u.ShadowNoted n t := by
    rw [heq, if_pos (by rw [Chan.openGate?_of_gates (hv.gates.trans hgates)]; exact hopen)]
    exact hv
  exact ⟨fun a => (hnoted.words a).trans (hw a), hnoted.frame.clk.trans hframe.clk, fun m hm => (hnoted.others m hm).trans (hothers m hm),
    hframe.memory.trans hnoted.frame.memory⟩

/-- Settles O19: each clause is the lemma of its command above. -/
theorem thresholdCodesApply : Obligations.ThresholdCodesApply := by
  unfold Obligations.ThresholdCodesApply
  refine ⟨?_, ?_, ?_, ?_, ?_, ?_, ?_⟩
  · exact fun s n at_ rest h hr hf => tdacApply_applies h hr hf
  · exact fun s n at_ rest h hk => tdacApply_kept h hk
  · exact fun s n w hs h => tdacModeWrite_stores hs h w
  · exact fun s n => settlingEnd_clears s n
  · exact fun s n at_ h => parkEnd_unmasks h
  · exact fun s n code hs => tdacQueuePush_queues hs n code
  · exact fun s n hs h => decResync_restarts hs h

end Sys2Proof.Machine
end

section
/-!
PROOFS. An edge in the qualifier (R75-R84, R88, R90): dropped, deselected, written or overflowed.
-/

namespace Sys2Proof.Machine

variable {s t : State} {n : Ch} {rising : Bool} {taps : BitVec 256} {raw r0 now : Nat} {cap cap0 : Cap} {own : Bool} {b : BlindSt} {c d : Chan}

/-! ### Counters of 64 bits -/

/-- A counter pair wraps at 64 bits. -/
theorem State.pair_count (s : State) (a k : Nat) : (s.count a k).pair a = (s.pair a + k) % 2 ^ 64 := by
  rw [State.pair, State.w_count, State.w_count, if_neg (by omega), if_pos rfl, if_pos rfl, BitVec.toNat_ofNat, BitVec.toNat_ofNat]
  omega

theorem State.w_count_other (s : State) {a k x : Nat} (h : x ∉ [a, a + 4]) : (s.count a k).w x = s.w x := by
  simp only [List.mem_cons, List.not_mem_nil, or_false, not_or] at h
  rw [State.w_count, if_neg (Ne.symm h.2), if_neg (Ne.symm h.1)]

theorem State.fb_count (s : State) {a k base : Nat} {f : Fld} (h : base + f.addr ∉ [a, a + 4]) : (s.count a k).fb base f = s.fb base f := by
  rw [State.fb, State.f, s.w_count_other h, State.fb, State.f]

@[simp] theorem State.chan_count (s : State) (a k : Nat) (m : Ch) : (s.count a k).chan m = s.chan m := by
  rw [State.chan, State.count_chans, State.chan]

@[simp] theorem State.pair_setChan (s : State) (n : Ch) (c : Chan) (a : Nat) : (s.setChan n c).pair a = s.pair a := by
  rw [State.pair, State.w_setChan, State.w_setChan, State.pair]

@[simp] theorem State.fb_setChan (s : State) (n : Ch) (c : Chan) (base : Nat) (f : Fld) : (s.setChan n c).fb base f = s.fb base f := by
  rw [State.fb, State.f_setChan, State.fb]

theorem State.OnlyChans.setChan (h : s.OnlyChans t) (n : Ch) (c : Chan) : s.OnlyChans (t.setChan n c) := h.trans rfl

theorem State.OnlyChans.count (h : s.OnlyChans t) (a k : Nat) : s.OnlyChans (t.count a k) := .setW (.setW h ..) ..

/-! ### What the FIFO holds after the spacing window -/

/-- Markers that have moved leave nothing to move. -/
theorem Chan.flushHeld_flushHeld (c : Chan) : c.flushHeld.flushHeld = c.flushHeld := by
  by_cases h : c.held.length ≤ fifoDepth - c.fifo.length
  · simp [Chan.flushHeld, List.drop_eq_nil_of_le h]
  · have hroom : fifoDepth - (c.fifo ++ c.held.take (fifoDepth - c.fifo.length)).length = 0 := by
      rw [List.length_append, List.length_take]
      omega
    simp only [Chan.flushHeld, hroom, List.take_zero, List.append_nil, List.drop_zero]

theorem Chan.settle_open (h : c.windowOpen now = true) : c.settle now = c := if_pos h

theorem Chan.settle_closed (h : c.windowOpen now = false) : c.settle now = c.settleAll := if_neg (by simp [h])

theorem Chan.settleAll_flushed (c : Chan) : c.settleAll.flushHeld = c.settleAll := Chan.flushHeld_flushHeld _

theorem Chan.settle_flushed (h : c.windowOpen now = false) : (c.settle now).flushHeld = c.settle now := by
  rw [Chan.settle_closed h, Chan.settleAll_flushed]

theorem Chan.windowOpen_some (h : c.lastAcc = some (r0, cap, own)) : c.windowOpen now = decide (now < r0 + 160) := by rw [Chan.windowOpen, h]

/-! ### The sampler (R75, R77, R90) -/

@[simp] theorem State.capOf_rising (s : State) (n : Ch) (rising : Bool) : (s.capOf n rising).rising = rising := by
  unfold State.capOf
  split
  · rfl
  · rfl

theorem State.capture_none (h : s.live n = false ∨ s.clk.running = false ∨ s.offPin n = true) : s.capture n rising taps = s :=
  if_pos (by rcases h with h | h | h <;> simp [h])

section Sampled
variable (hl : s.live n = true) (hr : s.clk.running = true) (hp : s.offPin n = false)
include hl hr hp

theorem State.capture_blind (hb : s.blindAt n (s.now + tapIndex taps) = some b) :
    s.capture n rising taps = s.setChan n { s.chan n with blind := some { b with count := b.count + 1 } } := by
  obtain ⟨hb, hruns⟩ := Option.filter_eq_some_iff.1 hb
  unfold State.capture
  dsimp only
  rw [if_neg (by simp [hl, hr, hp]), hb]
  dsimp only
  rw [if_neg (fun h => by rw [h] at hruns; exact Bool.noConfusion hruns)]
  rfl

/-- Outside a blind interval an edge meets the qualifier's tests. -/
theorem State.capture_qualifies (hb : s.blindAt n (s.now + tapIndex taps) = none) :
    s.capture n rising taps = s.qualify n (s.now + tapIndex taps) (s.capOf n (rising != s.actB n F.CH_CFG_INV)) := by
  unfold State.capture
  dsimp only
  rw [if_neg (by simp [hl, hr, hp])]
  cases hx : (s.chan n).blind with
  | none => rfl
  | some x =>
    rw [State.blindAt, hx, Option.filter_eq_none_iff] at hb
    exact if_pos (by simpa using hb x rfl)

end Sampled

/-! ### The spacing window (R81, R82) -/

/-- What counts the drops behind the last accepted edge, after one more. -/
def Chan.crowdNext (raw : Nat) (cap : Cap) (own rising : Bool) (c : Chan) : CrowdSt := match c.crowd with
  | some k => { k with n := min 255 (k.n + 1) }
  | none => { n := 1, rising := rising, e := own, raw := raw, cap := cap }

theorem State.qualify_crowded (h : (s.chan n).lastAcc = some (r0, cap0, own)) (hw : raw < r0 + 160) :
    s.qualify n raw cap = s.crowdDrop n r0 cap0 own cap.rising := by
  unfold State.qualify
  dsimp only
  rw [h]
  exact if_pos hw

/-- An edge outside the window is accepted, behind what waited for the window. -/
theorem State.qualify_accepts (h : (s.chan n).windowOpen raw = false) :
    s.qualify n raw cap = State.qualify.pass n raw cap (s.setChan n ((s.chan n).settle raw)) := by
  unfold State.qualify
  dsimp only
  cases hl : (s.chan n).lastAcc with
  | none => rfl
  | some x =>
    rw [Chan.windowOpen_some hl] at h
    exact if_neg (by simpa using h)

theorem State.chan_crowdDrop (s : State) (n : Ch) (r0 : Nat) (cap0 : Cap) (own rising : Bool) :
    (s.crowdDrop n r0 cap0 own rising).chan n = { s.chan n with crowd := some ((s.chan n).crowdNext r0 cap0 own rising) } := by
  unfold State.crowdDrop Chan.crowdNext
  rw [State.chan_raise, State.chan_count, State.chan_modChan_same]
  cases (s.chan n).crowd with
  | none => rfl
  | some k => rfl

/-- A dropped edge counts and sets its flag; registers and the channel may differ, and nothing else. -/
structure State.EdgeDropped (n : Ch) (x : CrowdSt) (s t : State) : Prop where
  flag : t.fb (chBase n) F.CH_STAT_CROWD = true
  counted : t.pair (chBase n + R.CH_CROWD_H) = (s.pair (chBase n + R.CH_CROWD_H) + 1) % 2 ^ 64
  own : t.chan n = { s.chan n with crowd := some x }
  words : ∀ a, a ∉ [chBase n + R.CH_CROWD_H, chBase n + R.CH_CROWD_H + 4, chBase n + R.CH_STAT] → t.w a = s.w a
  others : ∀ m : Ch, m ≠ n → t.chan m = s.chan m
  stands : s.OnlyChans t

theorem State.crowdDrop_drops (s : State) (n : Ch) (r0 : Nat) (cap0 : Cap) (own rising : Bool) :
    s.EdgeDropped n ((s.chan n).crowdNext r0 cap0 own rising) (s.crowdDrop n r0 cap0 own rising) where
  flag := State.fb_raise _ _ rfl (by decide)
  counted := by
    unfold State.crowdDrop State.raise
    rw [State.pair_setF _ (by simp) (by simp), State.pair_count, State.modChan, State.pair_setChan]
  own := s.chan_crowdDrop ..
  words a ha := by
    simp only [List.mem_cons, List.not_mem_nil, or_false, not_or] at ha
    unfold State.crowdDrop State.raise
    rw [State.w_setF_other _ (Ne.symm ha.2.2), State.w_count_other _ (by simp [ha]), State.w_modChan]
  others m hm := by
    unfold State.crowdDrop
    rw [State.chan_raise, State.chan_count, State.chan_modChan_other _ _ hm.symm]
  stands := .setF (.count (.modChan (.refl s) ..) ..) ..

/-! ### Polarity and decimation (R83) -/

/-- The channel after an accepted edge that leaves no entry of its own. -/
def Chan.accept (raw : Nat) (cap : Cap) (dec : Nat) (c : Chan) : Chan :=
  { c with idleSince := raw, decCount := dec, lastAcc := some (raw, cap, false) }

theorem State.pass_deselected (h : decPasses (s.act n F.CH_DEC_POL) cap.rising = false) :
    State.qualify.pass n raw cap (s.setChan n c) = s.setChan n (c.accept raw cap c.decCount) := by
  have hpol : (!decPasses (s.act n F.CH_DEC_POL) cap.rising) = true := by rw [h]; rfl
  unfold State.qualify.pass
  refine (if_pos hpol).trans ?_
  simp [State.modChan, Chan.accept]

theorem State.pass_decimated (h : decPasses (s.act n F.CH_DEC_POL) cap.rising = true) (hd : c.decCount < s.act n F.CH_DEC_DM1) :
    State.qualify.pass n raw cap (s.setChan n c) = s.setChan n (c.accept raw cap (c.decCount + 1)) := by
  have hpol : ¬ (!decPasses (s.act n F.CH_DEC_POL) cap.rising) = true := by simp [h]
  unfold State.qualify.pass
  refine (if_neg hpol).trans ((if_pos ?_).trans ?_)
  · rw [State.chan_modChan_same, State.chan_setChan_same]
    exact Nat.succ_lt_succ hd
  · simp [State.modChan, Chan.accept]

/-- The edge that ends the count goes to the FIFO. -/
theorem State.pass_selected (h : decPasses (s.act n F.CH_DEC_POL) cap.rising = true) (hd : s.act n F.CH_DEC_DM1 ≤ c.decCount) :
    State.qualify.pass n raw cap (s.setChan n c) = (s.setChan n { c with idleSince := raw, decCount := 0 }).writeEdge n raw cap := by
  have hpol : ¬ (!decPasses (s.act n F.CH_DEC_POL) cap.rising) = true := by simp [h]
  unfold State.qualify.pass
  refine (if_neg hpol).trans ((if_neg ?_).trans ?_)
  · rw [State.chan_modChan_same, State.chan_setChan_same]
    exact fun hlt => absurd (Nat.lt_of_succ_lt_succ hlt) (Nat.not_lt.2 hd)
  · simp [State.modChan]

/-! ### The FIFO takes the edge (R84, R87) -/

/-- The channel with the edge's entry, behind its stamp where one is due. -/
def Chan.enter (raw : Nat) (cap : Cap) (c : Chan) : Chan :=
  { c with fifo := c.fifo ++ (if c.stampDue then [FEntry.abs] else []) ++ [FEntry.edge raw cap], stampDue := false, lastAcc := some (raw, cap, true) }

theorem State.writeEdge_free (hh : c.held = []) (hf : c.fifo.length < fifoMain) :
    (s.setChan n c).writeEdge n raw cap = (s.setChan n (c.enter raw cap)).count (chBase n + R.CH_ACC_H) 1 := by
  have hflush : c.flushHeld = c := by
    rw [Chan.flushHeld, hh, List.take_nil, List.drop_nil, List.append_nil, ← hh]
  unfold State.writeEdge
  rw [State.chan_setChan_same, hflush]
  dsimp only
  rw [if_pos (by simp [hh, hf]), State.setChan_setChan]
  cases hd : c.stampDue <;> simp [Chan.enter, hd]

/-- An edge that is written counts; the counter and the channel may differ, and nothing else. -/
structure State.EdgeWritten (n : Ch) (c : Chan) (s t : State) : Prop where
  own : t.chan n = c
  counted : t.pair (chBase n + R.CH_ACC_H) = (s.pair (chBase n + R.CH_ACC_H) + 1) % 2 ^ 64
  words : ∀ a, a ∉ [chBase n + R.CH_ACC_H, chBase n + R.CH_ACC_H + 4] → t.w a = s.w a
  others : ∀ m : Ch, m ≠ n → t.chan m = s.chan m
  stands : s.OnlyChans t

theorem State.edgeWritten_count (s : State) (n : Ch) (c : Chan) : s.EdgeWritten n c ((s.setChan n c).count (chBase n + R.CH_ACC_H) 1) where
  own := by rw [State.chan_count, State.chan_setChan_same]
  counted := by rw [State.pair_count, State.pair_setChan]
  words _ ha := by rw [State.w_count_other _ ha, State.w_setChan]
  others _ hm := by rw [State.chan_count, State.chan_setChan_other _ _ (Ne.symm hm)]
  stands := .count (.setChan (.refl s) n c) ..

/-! ### It overflows (R84, R88) -/

/-- The blind interval that an overflow of the edge at `raw` starts. -/
def ovfStart (raw : Nat) (cap : Cap) : BlindSt :=
  { start := { raw := raw, edge := some cap }, causes := { Causes.none with ovf := true }, count := 1, endBy := 0, ovfWait := true, testWait := false }

/-- An overflow counts and sets its flags, leaves its marker behind what is held and starts a blind interval; registers
and the channel may differ, and nothing else. -/
structure State.EdgeOverflowed (n : Ch) (raw : Nat) (cap : Cap) (c : Chan) (s t : State) : Prop where
  seen : t.fb (chBase n) F.CH_STAT_OVF = true
  blinds : t.fb (chBase n) F.CH_STAT_OVF_BLIND = true
  counted : t.pair (chBase n + R.CH_OVF_H) = (s.pair (chBase n + R.CH_OVF_H) + 1) % 2 ^ 64
  own : ∃ x, t.chan n = { c.pushOvf (.ovf raw cap) with lastAcc := some (raw, cap, false), blind := some x } ∧ (c.blind = none → x = ovfStart raw cap)
  words : ∀ a, a ∉ [chBase n + R.CH_OVF_H, chBase n + R.CH_OVF_H + 4, chBase n + R.CH_STAT] → t.w a = s.w a
  others : ∀ m : Ch, m ≠ n → t.chan m = s.chan m
  stands : s.OnlyChans t

/-- The state with the overflow's marker, flags and count. -/
def State.ovfCounted (n : Ch) (c : Chan) (s : State) : State :=
  (((s.setChan n c).raise (chBase n) F.CH_STAT_OVF).setF (chBase n) F.CH_STAT_OVF_BLIND 1).count (chBase n + R.CH_OVF_H) 1

theorem State.writeEdge_full (hflush : c.flushHeld = c) (hfull : c.held ≠ [] ∨ fifoMain ≤ c.fifo.length) :
    (s.setChan n c).writeEdge n raw cap = (s.ovfCounted n { c.pushOvf (.ovf raw cap) with lastAcc := some (raw, cap, false) }).startBlind n
      { raw := raw, edge := some cap } { Causes.none with ovf := true } 1 0 true false := by
  unfold State.writeEdge State.ovfCounted
  rw [State.chan_setChan_same, hflush]
  dsimp only
  rw [if_neg (by rcases hfull with h | h <;> simp [h]), State.setChan_setChan]

theorem State.ovfCounted_words (s : State) (n : Ch) (c : Chan) {a : Nat}
    (ha : a ∉ [chBase n + R.CH_OVF_H, chBase n + R.CH_OVF_H + 4, chBase n + R.CH_STAT]) : (s.ovfCounted n c).w a = s.w a := by
  simp only [List.mem_cons, List.not_mem_nil, or_false, not_or] at ha
  obtain ⟨hhigh, hlow, hstat⟩ := ha
  unfold State.ovfCounted State.raise
  rw [State.w_count_other _ (by simp [hhigh, hlow]), State.w_setF_other _ (Ne.symm hstat), State.w_setF_other _ (Ne.symm hstat), State.w_setChan]

theorem State.ovfCounted_pair (s : State) (n : Ch) (c : Chan) :
    (s.ovfCounted n c).pair (chBase n + R.CH_OVF_H) = (s.pair (chBase n + R.CH_OVF_H) + 1) % 2 ^ 64 := by
  unfold State.ovfCounted State.raise
  rw [State.pair_count, State.pair_setF _ (by simp) (by simp), State.pair_setF _ (by simp) (by simp), State.pair_setChan]

theorem State.ovfCounted_onlyChans (s : State) (n : Ch) (c : Chan) : s.OnlyChans (s.ovfCounted n c) := by
  unfold State.ovfCounted State.raise
  exact .count (.setF (.setF (.setChan (.refl s) n c) ..) ..) ..

theorem State.startBlind_blinds (s : State) (n : Ch) (start : BlindStart) (k : Causes) (count endBy : Nat) (ovf test : Bool) :
    ∃ x, s.startBlind n start k count endBy ovf test = s.setChan n { s.chan n with blind := some x } ∧ ((s.chan n).blind = none →
      x = { start := start, causes := k, count := count, endBy := endBy, ovfWait := ovf, testWait := test }) := by
  unfold State.startBlind State.modChan
  dsimp only
  cases h : (s.chan n).blind with
  | none => exact ⟨_, rfl, fun _ => rfl⟩
  | some b => exact ⟨_, rfl, nofun⟩

theorem State.writeEdge_overflows (hflush : c.flushHeld = c) (hfull : c.held ≠ [] ∨ fifoMain ≤ c.fifo.length) :
    s.EdgeOverflowed n raw cap c ((s.setChan n c).writeEdge n raw cap) := by
  rw [State.writeEdge_full hflush hfull]
  obtain ⟨d, hd⟩ : ∃ d : Chan, d = { c.pushOvf (.ovf raw cap) with lastAcc := some (raw, cap, false) } := ⟨_, rfl⟩
  rw [← hd]
  have hchan : (s.ovfCounted n d).chan n = d := by
    unfold State.ovfCounted
    rw [State.chan_count, State.chan_setF, State.chan_raise, State.chan_setChan_same]
  have hothers (m : Ch) (hm : m ≠ n) : (s.ovfCounted n d).chan m = s.chan m := by
    unfold State.ovfCounted
    rw [State.chan_count, State.chan_setF, State.chan_raise, State.chan_setChan_other _ _ (Ne.symm hm)]
  have hstands := s.ovfCounted_onlyChans n d
  have hcount := s.ovfCounted_pair n d
  have hwords {a : Nat} := s.ovfCounted_words n d (a := a)
  have hseen : (s.ovfCounted n d).fb (chBase n) F.CH_STAT_OVF = true := by
    unfold State.ovfCounted
    rw [State.fb_count _ (by simp), State.fb_setF_of_apart _ _ _ (by decide), State.fb_raise _ _ rfl (by decide)]
  have hblinds : (s.ovfCounted n d).fb (chBase n) F.CH_STAT_OVF_BLIND = true := by
    unfold State.ovfCounted
    rw [State.fb_count _ (by simp)]
    exact State.fb_raise _ _ rfl (by decide)
  generalize s.ovfCounted n d = u at *
  obtain ⟨x, hx, hnew⟩ := u.startBlind_blinds n { raw := raw, edge := some cap } { Causes.none with ovf := true } 1 0 true false
  rw [hchan] at hx hnew
  rw [hx]
  exact {
    seen := by rw [State.fb_setChan, hseen]
    blinds := by rw [State.fb_setChan, hblinds]
    counted := by rw [State.pair_setChan, hcount]
    own := ⟨x, by rw [State.chan_setChan_same, hd], fun hb => hnew (by rw [hd]; exact hb)⟩
    words := fun _ ha => by rw [State.w_setChan, hwords ha]
    others := fun m hm => by rw [State.chan_setChan_other _ _ (Ne.symm hm), hothers m hm]
    stands := .setChan hstands .. }

theorem Chan.pushOvf_order (m : FEntry) (c : Chan) : (c.pushOvf m).fifo ++ (c.pushOvf m).held = c.fifo ++ c.held ++ [m] := by
  rw [Chan.pushOvf, Chan.flushHeld_order, List.append_assoc]

theorem Chan.pushOvf_held {m : FEntry} (hh : c.held = []) (hf : c.fifo.length < fifoDepth) : (c.pushOvf m).held = [] :=
  Chan.flushHeld_held (by simp only [hh, List.nil_append, List.length_singleton]; omega)

end Sys2Proof.Machine
end

section
/-!
SUPPORT. A channel with no gate open: what parking, a change of mode and the application of shadows leave of its shadows, of
the number and the count of its gates, and of device time (R59-R61, R72, R97, R282).
-/

namespace Sys2Proof.Machine

variable {s t r : State} {n m : Ch} {f : Fld} {a o v : Nat} {w : Word} {c d : Chan}

/-! ### The words that stand while no gate is open -/

/-- The measurement shadows, and the number and the count of the closed gates. -/
def gateOffs : List Nat := gateShadows ++ [R.CH_GSEQ, R.CH_GATES_H, R.CH_GATES_H + 4]

/-- One of these words of channel n, as written or in force. -/
def GateWord (n : Ch) (a : Nat) : Prop := ∃ o ∈ gateOffs, a = chBase n + o ∨ a = chBase n + 0x800 + o

theorem gateOffs_lt (h : o ∈ gateOffs) : o < 0x800 := (by decide : ∀ o ∈ gateOffs, o < 0x800) o h

theorem gateWord_written (n : Ch) (h : o ∈ gateOffs) : GateWord n (chBase n + o) := ⟨o, h, .inl rfl⟩

theorem gateWord_forced (n : Ch) (h : o ∈ gateOffs) : GateWord n (chBase n + 0x800 + o) := ⟨o, h, .inr rfl⟩

theorem mem_gateOffs_of_shadow (h : gateShadows.contains o = true) : o ∈ gateOffs := List.mem_append_left _ (List.contains_iff_mem.1 h)

/-- Another register of a channel is none of them. -/
theorem not_gateWord_chan (m n : Ch) (h : a < 0x800 ∧ a ∉ gateOffs) : ¬ GateWord n (chBase m + a) := by
  rintro ⟨o, ho, he | he⟩
  · exact chBase_ne m n (by omega) (by have := gateOffs_lt ho; omega) (fun k => h.2 (by rwa [k])) he
  · rw [Nat.add_assoc] at he
    exact chBase_ne m n (by omega) (by have := gateOffs_lt ho; omega) (by omega) he

theorem not_gateWord_spare (p : Spare) (n : Ch) (h : a < 0x1000) : ¬ GateWord n (spBase p + a) := by
  rintro ⟨o, ho, he | he⟩
  · exact spBase_ne_chBase p n h (by have := gateOffs_lt ho; omega) he
  · rw [Nat.add_assoc] at he
    exact spBase_ne_chBase p n h (by have := gateOffs_lt ho; omega) he

theorem not_gateWord_low (n : Ch) (h : a < 0x100000) : ¬ GateWord n a := by
  have := chBase_ge n
  rintro ⟨o, -, he | he⟩
  · omega
  · omega

theorem GateWord.not_calWord (h : GateWord n a) : ¬ CalWord a := by
  obtain ⟨o, ho, rfl | rfl⟩ := h
  · exact not_calWord_chan n ((by decide : ∀ o ∈ gateOffs, o < 0x1000 ∧ o ≠ R.CH_CAL_STAT) o ho)
  · rw [Nat.add_assoc]
    exact not_calWord_chan n ((by decide : ∀ o ∈ gateOffs, 0x800 + o < 0x1000 ∧ 0x800 + o ≠ R.CH_CAL_STAT) o ho)

/-- Where no gate of channel n is open none opens, device time stands, and so do the words. -/
structure State.Gateless (n : Ch) (s t : State) : Prop where
  kept : (s.chan n).openGate? = none → (t.chan n).openGate? = none ∧ t.clk = s.clk ∧ ∀ a, GateWord n a → t.w a = s.w a

namespace State.Gateless

theorem refl (n : Ch) (s : State) : s.Gateless n s := ⟨fun h => ⟨h, rfl, fun _ _ => rfl⟩⟩

theorem trans (h : s.Gateless n t) (k : t.Gateless n r) : s.Gateless n r where
  kept hs := by
    obtain ⟨ht, hclk, hw⟩ := h.kept hs
    obtain ⟨hr, kclk, kw⟩ := k.kept ht
    exact ⟨hr, kclk.trans hclk, fun a ha => (kw a ha).trans (hw a ha)⟩

/-- An operation on other parts. -/
theorem apart (h : s.Gateless n t) (hregs : r.regs = t.regs) (hchans : r.chans = t.chans) (hclk : r.clk = t.clk) : s.Gateless n r :=
  h.trans ⟨fun hs => ⟨by rw [State.chan, hchans]; exact hs, hclk, fun a _ => by rw [State.w, hregs, State.w]⟩⟩

theorem setSpare (h : s.Gateless n t) (p : Spare) (x : SpareSt) : s.Gateless n (t.setSpare p x) := .apart h rfl rfl rfl
theorem spareEnds (h : s.Gateless n t) (m : Ch) : s.Gateless n (t.spareEnds m) := .apart h rfl rfl rfl
theorem modTu (h : s.Gateless n t) (u : Unit16) (k : UnitSt → UnitSt) : s.Gateless n (t.modTu u k) := .apart h rfl rfl rfl
theorem modFe (h : s.Gateless n t) (e : FrontEnd) (k : FeSt → FeSt) : s.Gateless n (t.modFe e k) := .apart h rfl rfl rfl
theorem ltEnd (h : s.Gateless n t) (m : Ch) : s.Gateless n (t.ltEnd m) := .apart h rfl rfl rfl
theorem zeroLake (h : s.Gateless n t) (lo hi : Nat) : s.Gateless n (t.zeroLake lo hi) := .apart h rfl rfl rfl

theorem setChan (h : s.Gateless n t) (hc : c.gates = (t.chan m).gates) : s.Gateless n (t.setChan m c) := by
  refine h.trans ⟨fun hs => ⟨?_, rfl, fun _ _ => rfl⟩⟩
  by_cases hm : m = n
  · subst hm
    rwa [State.chan_setChan_same, Chan.openGate?_of_gates hc]
  · rwa [State.chan_setChan_other _ _ hm]

theorem modChan (h : s.Gateless n t) {k : Chan → Chan} (hk : ∀ c : Chan, (k c).gates = c.gates) : s.Gateless n (t.modChan m k) := .setChan h (hk _)

theorem setW (h : s.Gateless n t) (w : Word) (ha : ¬ GateWord n a) : s.Gateless n (t.setW a w) :=
  h.trans ⟨fun hs => ⟨hs, rfl, fun _ hb => State.w_setW_other _ _ fun k => ha (k ▸ hb)⟩⟩

theorem setF (h : s.Gateless n t) (m : Ch) (v : Nat) (hf : f.addr < 0x800 ∧ f.addr ∉ gateOffs) : s.Gateless n (t.setF (chBase m) f v) :=
  .setW h _ (not_gateWord_chan m n hf)

theorem setF_spare (h : s.Gateless n t) (p : Spare) (v : Nat) (hf : f.addr < 0x1000) : s.Gateless n (t.setF (spBase p) f v) :=
  .setW h _ (not_gateWord_spare p n hf)

theorem idle (h : s.Gateless n t) (k : t.OnlyIdle n r) : s.Gateless n r := by
  obtain ⟨x, hchan⟩ := k.chan
  exact h.trans ⟨fun hs => ⟨(Chan.openGate?_of_gates (by rw [hchan])).trans hs, by rw [k.stands], fun a ha => k.words a ha.not_calWord⟩⟩

theorem forAll {α : Type} (h : s.Gateless n t) (l : List α) {g : α → State → State} (hg : ∀ a (x : State), x.Gateless n (g a x)) :
    s.Gateless n (t.forAll l g) :=
  h.trans (State.forAll_rel (rel := State.Gateless n) (refl n) trans (fun a _ s => hg a s) t)

theorem ite (p : Prop) [Decidable p] (h : s.Gateless n t) (k : s.Gateless n r) : s.Gateless n (if p then t else r) := by
  split
  · exact h
  · exact k

end State.Gateless

theorem Chan.OnlyMarks.gates (h : c.OnlyMarks d) : d.gates = c.gates := by rw [h]

@[simp] theorem Chan.gates_marker (c : Chan) (k : Nat) (x : FEntry) : (c.marker k x).gates = c.gates := (c.marker_onlyMarks k x).gates

/-! ### Park (R59, R61, R72) -/

theorem State.abandonHandover_gateless (s : State) (n : Ch) : s.Gateless n (s.abandonHandover n) := by
  unfold State.abandonHandover
  split
  · dsimp only
    have habandon : s.Gateless n (if s.f (spBase (Ch.spareOf n)) F.SP_STAT_OWNER = 2 then s.abandonThr n else s) := by
      split
      · exact .idle (.refl n s) (s.abandonThrOf_onlyIdle (Ch.fe n) n)
      · exact .refl n s
    generalize (if s.f (spBase (Ch.spareOf n)) F.SP_STAT_OWNER = 2 then s.abandonThr n else s) = u at *
    have hidles : s.Gateless n (((u.setF (spBase (Ch.spareOf n)) F.SP_STAT_STATE 0).setF (spBase (Ch.spareOf n)) F.SP_STAT_OWNER 0).raise
        (spBase (Ch.spareOf n)) F.SP_STAT_HO_FAIL) :=
      .setF_spare (.setF_spare (.setF_spare habandon _ 0 (by decide)) _ 0 (by decide)) _ 1 (by decide)
    exact .spareEnds (.setSpare (.setF hidles n 0 (by decide)) ..) n
  · exact .refl n s

theorem State.writeBlind_gateless (s : State) (n : Ch) (b : BlindSt) : s.Gateless n (s.writeBlind n b) := by
  have hmark : s.Gateless n (s.modChan n fun x => { (x.marker s.now (.blind b.start s.now b.causes b.count)) with blind := none, decCount := 0 }) :=
    .setChan (.refl n s) (Chan.gates_marker ..)
  unfold State.writeBlind
  dsimp only
  generalize (s.modChan n fun x => { (x.marker s.now (.blind b.start s.now b.causes b.count)) with blind := none, decCount := 0 }) = u at *
  exact .setF (.setF (.setF hmark n 1 (by decide)) n 0 (by decide)) n 0 (by decide)

theorem State.cutBlind_gateless (s : State) (n : Ch) : s.Gateless n (s.cutBlind n) := by
  unfold State.cutBlind
  split
  · exact s.writeBlind_gateless n _
  · exact .refl n s

/-- With no gate open there is none to close. -/
theorem State.endGate_none (h : (s.chan n).openGate? = none) (k : Nat) (cut early : Bool) : s.endGate n k cut early = s := by
  unfold State.endGate
  dsimp only
  rw [h]

theorem State.endGate_gateless (s : State) (n : Ch) (k : Nat) (cut early : Bool) : s.Gateless n (s.endGate n k cut early) where
  kept h := by
    rw [State.endGate_none h]
    exact ⟨h, rfl, fun _ _ => rfl⟩

theorem State.ovfRun_gateless (s : State) (n m : Ch) (ended : Bool) (k : Nat) : s.Gateless n (s.ovfRun m ended k) := by
  have hrun {v : Nat} : s.Gateless n (s.setF (chBase m) F.CH_STAT_OVF_RUN v) := .setF (.refl n s) m v (by decide)
  exact .ite _ (.ite _ (.setF hrun m 1 (by decide)) hrun) hrun

theorem State.pulseOut_gateless (s : State) (n : Ch) (u func k : Nat) : s.Gateless n (s.pulseOut u func k) :=
  .forAll (.refl n s) _ fun _ x => .ite _ (.apart (.refl n x) rfl rfl rfl) (.refl n x)

theorem State.checkClosed_gateless (s : State) (n : Ch) (u : Unit16) : s.Gateless n (s.checkClosed u) := by
  have hstate : ¬ GateWord n (tuBase u + F.TRG_TU_STAT_STATE.addr) := not_gateWord_low n (by dsimp only [tuBase, F.TRG_TU_STAT_STATE]; omega)
  unfold State.checkClosed
  extract_lets x s1
  split
  · have hclosed : s.Gateless n s1 := .trans (.setW (.modTu (.refl n s) u _) _ hstate) (State.pulseOut_gateless _ n _ _ _)
    refine .forAll hclosed _ fun r y => ?_
    split
    · exact y.ovfRun_gateless n _ _ _
    · exact .refl n y
  · exact .refl n s

theorem State.closeRecords_gateless (s : State) (n m : Ch) (cause : CloseCause) : s.Gateless n (s.closeRecords m cause) := by
  refine .forAll (.refl n s) _ fun u x => ?_
  split
  · exact (State.Gateless.modTu (.refl n x) u _).trans (State.checkClosed_gateless _ n u)
  · exact .refl n x

theorem State.park_gateless (s : State) (n : Ch) : s.Gateless n (s.park n) := by
  unfold State.park
  extract_lets s1 s2 s3 s4 s5 s6
  have h1 : s.Gateless n s1 := s.abandonHandover_gateless n
  have h2 : s.Gateless n s2 := .setChan h1 (by
    obtain ⟨c, hc⟩ : ∃ c, c = s1.chan n := ⟨_, rfl⟩
    rw [← hc]
    exact c.settleAll_onlyMarks.gates)
  have h3 : s.Gateless n s3 := h2.trans (s2.cutBlind_gateless n)
  have h4 : s.Gateless n s4 := (h3.trans (s3.endGate_gateless n s3.now true true)).trans (State.closeRecords_gateless _ n n .stop)
  have h6 : s.Gateless n s6 := .modChan (.forAll h4 _ fun e x => .modFe (.refl n x) e _) fun _ => rfl
  split
  · exact h1
  · exact (.setF (.setF (.setF h6 n 1 (by decide)) n 0 (by decide)) n 0 (by decide))

/-! ### A change of mode, and the histogram's clear (R59, R60, R169) -/

theorem State.modeChange_gateless (s : State) (n : Ch) (k : Nat) : s.Gateless n (s.modeChange n k) := by
  have hblind : s.Gateless n ((s.startBlind n { raw := k, edge := none } { Causes.none with tdac := true } 0 (k + settlePark) false false).setF
      (chBase n) F.CH_PIN_BLIND_T 1) := by
    refine .setF (.modChan (.refl n s) fun c => ?_) n 1 (by decide)
    split
    · rfl
    · rfl
  unfold State.modeChange
  dsimp only
  refine .ite _ ?_ (.ite _ (.setSpare hblind ..) hblind)
  split
  · exact .setChan (.refl n s) rfl
  · exact .refl n s

theorem State.clearLake_gateless (s : State) (n : Ch) (lo hi : Nat) : s.Gateless n (s.clearLake lo hi) := by
  refine .forAll (.refl n s) _ fun b x => .ite _ ?_ (.refl n x)
  split
  · exact .zeroLake (.zeroLake (.refl n x) ..) ..
  · exact .zeroLake (.refl n x) ..

theorem State.clearHist_gateless (s : State) (n : Ch) : s.Gateless n (s.clearHist n) := by
  unfold State.clearHist
  have hclear := s.clearLake_gateless n (s.hgSpan n).1 (s.hgSpan n).2
  have htot : s.Gateless n ((s.clearLake (s.hgSpan n).1 (s.hgSpan n).2).setPair (chBase n + R.CH_HG_TOT_H) 0) :=
    .setW (.setW hclear _ (not_gateWord_chan n n (by decide))) _ (not_gateWord_chan n n (a := R.CH_HG_TOT_H + 4) (by decide))
  exact .modChan (.setF htot n 1 (by decide)) fun _ => rfl

/-! ### Shadows come into force (R282) -/

theorem State.forceWord_masked (s : State) (n : Ch) (o : Nat) (w : Word) :
    (s.forceWord n o w).w (chBase n + 0x800 + o) &&& rwsMask o = w &&& rwsMask o := by
  unfold State.forceWord
  rw [State.w_setW_same]
  ext i
  simp only [BitVec.getElem_and, BitVec.getElem_or, BitVec.getElem_not]
  cases (rwsMask o)[i]
  · simp
  · simp

/-- The shadows of a list come into force one by one, each as written or as it stood before. -/
def State.forceAll (n : Ch) (prev : Nat → Option Word) (l : List Nat) (s : State) : State :=
  s.forAll l fun o s => s.forceWord n o ((prev o).getD (s.w (chBase n + o)))

variable {prev : Nat → Option Word} {l : List Nat}

theorem State.forceAll_cons (n : Ch) (prev : Nat → Option Word) (x : Nat) (l : List Nat) (s : State) :
    s.forceAll n prev (x :: l) = (s.forceWord n x ((prev x).getD (s.w (chBase n + x)))).forceAll n prev l := rfl

theorem State.forceAll_stands (n : Ch) (prev : Nat → Option Word) (l : List Nat) (s : State) :
    (s.forceAll n prev l).clk = s.clk ∧ (s.forceAll n prev l).chans = s.chans := by
  unfold State.forceAll
  constructor
  · exact State.forAll_frame State.clk (fun o u => State.setW_clk ..) l s
  · exact State.forAll_frame State.chans (fun o u => State.setW_chans ..) l s

theorem State.w_forceAll (s : State) (h : ∀ x ∈ l, chBase n + 0x800 + x ≠ a) : (s.forceAll n prev l).w a = s.w a := by
  induction l generalizing s with
  | nil => rfl
  | cons x l ih =>
    rw [State.forceAll_cons, ih _ fun y hy => h y (List.mem_cons_of_mem _ hy)]
    exact State.w_setW_other _ _ (h x List.mem_cons_self)

theorem State.w_forceAll_written (s : State) (ho : o < 0x800) : (s.forceAll n prev l).w (chBase n + o) = s.w (chBase n + o) :=
  s.w_forceAll fun x _ => by omega

/-- Each shadow of the list stands in force. -/
theorem State.forceAll_masked (s : State) (hl : ∀ x ∈ l, x < 0x800) (ho : o ∈ l) :
    (s.forceAll n prev l).w (chBase n + 0x800 + o) &&& rwsMask o = (prev o).getD (s.w (chBase n + o)) &&& rwsMask o := by
  induction l generalizing s with
  | nil => exact absurd ho List.not_mem_nil
  | cons x l ih =>
    rw [State.forceAll_cons]
    by_cases hin : o ∈ l
    · have hread : (s.forceWord n x ((prev x).getD (s.w (chBase n + x)))).w (chBase n + o) = s.w (chBase n + o) :=
        State.w_setW_other _ _ (by have := hl o ho; omega)
      rw [ih _ (fun y hy => hl y (List.mem_cons_of_mem _ hy)) hin, hread]
    · obtain rfl : o = x := (List.mem_cons.1 ho).resolve_right hin
      rw [State.w_forceAll _ fun y hy he => hin (by rwa [show o = y by omega]), State.forceWord_masked]

/-! ### The application of what has been written (R97, R282) -/

/-- Shadow o of channel n may apply: Mordant, where it is enabled, needs CH_DEC with D = 1 and both polarities (R125). -/
def State.ShadowFits (s : State) (n : Ch) (o : Nat) : Prop :=
  s.fb (chBase n) F.CH_MD_CTL_EN = false ∨ o ≠ R.CH_DEC ∨ decFull (s.w (chBase n + R.CH_DEC)) = true

/-- With no gate of channel n open, a boundary at instant `k` has applied its shadows: none opens, device time stands, and so
do the shadows and the number and count of gates; the shadows written before that MCLK cycle are in force. -/
structure State.ShadowsApplied (n : Ch) (k : Nat) (s t : State) : Prop where
  closed : (t.chan n).openGate? = none
  clk : t.clk = s.clk
  written : ∀ o ∈ gateOffs, t.w (chBase n + o) = s.w (chBase n + o)
  forced : (∀ l ∈ (s.chan n).late, l.2.1 ≤ k) → ∀ o ∈ (s.chan n).dirty, gateShadows.contains o = true → s.ShadowFits n o →
    t.w (chBase n + 0x800 + o) &&& rwsMask o = s.w (chBase n + o) &&& rwsMask o

theorem State.ShadowsApplied.trans {k : Nat} (h : s.ShadowsApplied n k t) (g : t.Gateless n r) : s.ShadowsApplied n k r := by
  obtain ⟨hclosed, hclk, hwords⟩ := g.kept h.closed
  exact ⟨hclosed, hclk.trans h.clk, fun o ho => (hwords _ (gateWord_written n ho)).trans (h.written o ho), fun hl o hd ho hf => by
    rw [hwords _ (gateWord_forced n (mem_gateOffs_of_shadow ho)), h.forced hl o hd ho hf]⟩

theorem State.applyShadows_applied (h : (s.chan n).openGate? = none) (k : Nat) : s.ShadowsApplied n k (s.applyShadows n k) := by
  unfold State.applyShadows
  extract_lets b late waits prev dec held s1 todo cfg0 fn0 dec0 part0 g0 s2 s3 cfg1 fn1 en0 en1 s4 s5 s6 s7 g1 restart adClr stream refn retie s8
  have h1 : s.Gateless n s1 := by
    show s.Gateless n (if held then s.raise b F.CH_MD_STAT_EN_REJ else s)
    split
    · exact .setF (.refl n s) n 1 (by decide)
    · exact .refl n s
  obtain ⟨hclosed, hclk, hwords⟩ := h1.kept h
  have hchan : s1.chan n = s.chan n := by
    show (if held then s.raise b F.CH_MD_STAT_EN_REJ else s).chan n = _
    split
    · exact State.chan_raise ..
    · rfl
  have hlt (x : Nat) (hx : x ∈ todo) : x < 0x800 := by
    simp only [todo, List.mem_filter, Bool.and_eq_true] at hx
    exact gateOffs_lt (mem_gateOffs_of_shadow hx.2.1.1)
  have hmem (hl : ∀ l ∈ (s.chan n).late, l.2.1 ≤ k) (o : Nat) (hd : o ∈ (s.chan n).dirty) (ho : gateShadows.contains o = true)
      (hf : s.ShadowFits n o) : o ∈ todo ∧ prev o = none := by
    have hlate : late = [] := List.filter_eq_nil_iff.2 fun l hin => by simpa using hl l hin
    have hwaits (x : Nat) : waits x = false := by simp only [waits, hlate, List.any_nil]
    have hprev (x : Nat) : prev x = none := by simp only [prev, hlate, List.find?_nil, Option.bind_none]
    have hheld : (held && o == R.CH_DEC) = false := by
      rcases hf with hen | hne | hfull
      · have : held = false := by
          show (s.fb b F.CH_MD_CTL_EN && _) = false
          rw [hen, Bool.false_and]
        rw [this, Bool.false_and]
      · rw [beq_false_of_ne hne, Bool.and_false]
      · have hdec : dec = none ∨ dec = some (s.w (chBase n + R.CH_DEC)) := by
          simp only [dec, hwaits]
          split
          · exact .inl rfl
          · exact .inr rfl
        have : held = false := by
          rcases hdec with hdec | hdec
          · simp only [held, hdec, Bool.and_false]
          · simp only [held, hdec, hfull, Bool.not_true, Bool.and_false]
        rw [this, Bool.false_and]
    refine ⟨List.mem_filter.2 ⟨hchan ▸ hd, ?_⟩, hprev o⟩
    rw [ho, hheld, hwaits]
    rfl
  split
  next hempty =>
    refine ⟨hclosed, hclk, fun o ho => hwords _ (gateWord_written n ho), fun hl o hd ho hf => ?_⟩
    rw [List.isEmpty_iff.1 hempty] at hmem
    exact absurd (hmem hl o hd ho hf).1 List.not_mem_nil
  next =>
    have h2 : s.ShadowsApplied n k s2 := by
      have hs2 : s2 = s1.forceAll n prev todo := rfl
      obtain ⟨kclk, kchans⟩ := s1.forceAll_stands n prev todo
      refine ⟨?_, by rw [hs2, kclk, hclk], fun o ho => ?_, fun hl o hd ho hf => ?_⟩
      · rwa [hs2, State.chan, kchans, ← State.chan]
      · rw [hs2, State.w_forceAll_written _ (gateOffs_lt ho), hwords _ (gateWord_written n ho)]
      · obtain ⟨hin, hnone⟩ := hmem hl o hd ho hf
        rw [hs2, State.forceAll_masked _ hlt hin, hnone, hwords _ (gateWord_written n (mem_gateOffs_of_shadow ho))]
        rfl
    refine h2.trans ?_
    have h3 : s2.Gateless n s3 := .modChan (.refl n s2) fun _ => rfl
    have h4 : s2.Gateless n s4 := by
      show s2.Gateless n (if en1 = 0 && en0 = 1 then s3.park n else if inputMode cfg0 ≠ inputMode cfg1 then s3.modeChange n s3.now else s3)
      split
      · exact h3.trans (s3.park_gateless n)
      · split
        · exact h3.trans (s3.modeChange_gateless n _)
        · exact h3
    have h5 : s2.Gateless n s5 := by
      show s2.Gateless n (if en0 = 0 && en1 = 1 then s4.modChan n fun c => { c with decCount := 0, stampDue := true, lastEdge := none } else s4)
      split
      · exact .modChan h4 fun _ => rfl
      · exact h4
    have h6 : s2.Gateless n s6 := by
      show s2.Gateless n (if todo.contains R.CH_DEC then s5.modChan n fun c => { c with decCount := 0 } else s5)
      split
      · exact .modChan h5 fun _ => rfl
      · exact h5
    have h7 : s2.Gateless n s7 := by
      show s2.Gateless n (if _ then s6.clearHist n else s6)
      split
      · exact h6.trans (s6.clearHist_gateless n)
      · exact h6
    have h8 : s2.Gateless n s8 := by
      show s2.Gateless n (if _ then s7.ltEnd n else s7)
      split
      · exact .ltEnd h7 n
      · exact h7
    exact .modChan h8 fun _ => rfl

end Sys2Proof.Machine
end

section
/-!
PROOFS. The write of CH_PART (R11, R12, R106, R279, R282), and the settling of the edge qualifier's statement.
-/

namespace Sys2Proof.Machine

variable {s t : State} {n : Ch} {off : Nat} {r : RegRow} {v w : Word}

/-! ### A shadow is written (R282, R288) -/

/-- Shadow `off` of channel n holds `w` and waits to apply; no gate has opened or closed, and other channels stand. -/
structure State.ShadowHeld (n : Ch) (off : Nat) (w : Word) (s t : State) : Prop where
  frame : s.OnlyFabric t
  stored : t.w (chBase n + off) = w
  others : ∀ m : Ch, m ≠ n → t.chan m = s.chan m
  gates : (t.chan n).gates = (s.chan n).gates

/-- With a gate open the shadow waits for the gate's end; with none it applies at once. -/
theorem State.putShadow_held (s : State) (n : Ch) (off : Nat) (w : Word) :
    ∃ v, s.ShadowHeld n off w v ∧ s.putShadow n off w =
      if (v.chan n).openGate?.isSome then v
      else ((v.reach v.mclkNext).applyShadows n (v.reach v.mclkNext).now).startGating n (v.reach v.mclkNext).now := by
  unfold State.putShadow State.shadowWritten
  extract_lets k c _ late v x
  refine ⟨v, ⟨.modChan (.setW (.setChan (.refl s) ..) ..) .., ?_, fun m hm => ?_, ?_⟩, rfl⟩
  · rw [State.w_modChan, State.w_setW_same]
  · rw [State.chan_modChan_other _ _ hm.symm, State.chan_setW, State.chan_setChan_other _ _ hm.symm]
  · rw [State.chan_modChan_same, State.chan_setW, State.chan_setChan_same]

/-- A measurement shadow holds what was written, whether it waits or has applied. -/
theorem State.putShadow_stored (s : State) (n : Ch) (w : Word) (ho : off ∈ gateOffs) : (s.putShadow n off w).w (chBase n + off) = w := by
  obtain ⟨v, hv, heq⟩ := s.putShadow_held n off w
  rw [heq]
  split
  next => exact hv.stored
  next hopen =>
    have hclosed : ((v.reach v.mclkNext).chan n).openGate? = none := by
      rw [State.chan_reach]
      exact Option.not_isSome_iff_eq_none.1 hopen
    have happlied := State.applyShadows_applied hclosed (v.reach v.mclkNext).now
    rw [(State.startGating_started _ n _).words _ (gateWord_written n ho).not_calWord, happlied.written _ ho, State.w_reach, hv.stored]

theorem State.putShadow_open (s : State) (n : Ch) (off : Nat) (w : Word) (h : (s.chan n).openGate?.isSome = true) :
    s.ShadowHeld n off w (s.putShadow n off w) := by
  obtain ⟨v, hv, heq⟩ := s.putShadow_held n off w
  rwa [heq, if_pos (by rw [Chan.openGate?_of_gates hv.gates]; exact h)]

/-! ### The words that the register takes -/

theorem partOf_congr (hpen : F.CH_PART_PEN.of v = F.CH_PART_PEN.of w) (hpch : F.CH_PART_PCH.of v = F.CH_PART_PCH.of w) (m : Ch) :
    partOf m v = partOf m w := by
  rw [partOf, partOf, hpen, hpch]

/-- Whether a write is refused rests on its two fields alone. -/
theorem State.partRefused_congr (s : State) (n : Ch) (hpen : F.CH_PART_PEN.of v = F.CH_PART_PEN.of w)
    (hpch : F.CH_PART_PCH.of v = F.CH_PART_PCH.of w) : s.partRefused n v = s.partRefused n w := by
  have hpairs : s.partPairs n v = s.partPairs n w := by
    unfold State.partPairs
    refine List.flatMap_congr fun m _ => ?_
    dsimp only
    by_cases hm : m = n
    · rw [if_pos hm, if_pos hm, partOf_congr hpen hpch]
    · rw [if_neg hm, if_neg hm]
  unfold State.partRefused
  rw [hpairs, partOf_congr hpen hpch, hpen, hpch]

/-! ### CH_PART_WRITE (R11) -/

theorem State.writeChan_claimed (h : s.fb (chBase n) F.CH_HG_STAT_SVC_OWN = true) (hoff : claimOffs.contains off = true) (p : Path) (r : RegRow) (w : Word) :
    s.writeChan p n off r w = s.raise 0 F.DEV_SVC_STAT_WR_REJ := by
  unfold State.writeChan
  dsimp only
  rw [h, hoff]
  exact if_pos rfl

theorem State.writeChan_part (h : s.fb (chBase n) F.CH_HG_STAT_SVC_OWN = false) (p : Path) (r : RegRow) (w : Word) :
    s.writeChan p n R.CH_PART r w = s.writePart n (r.stored (s.w (chBase n + R.CH_PART)) w) := by
  unfold State.writeChan
  dsimp only
  rw [h, Bool.false_and, if_neg Bool.false_ne_true, if_neg (by decide), if_neg (by decide), if_neg (by decide), if_neg (by decide),
    if_neg (by decide), if_neg (by decide), if_neg (by decide), if_neg (by decide), if_pos rfl]

theorem chPartWrite_exec (hs : s.Serves) (n : Ch) (w : Word) :
    ∃ r : RegRow, r.rw = 0x8000007f#32 ∧ r.w1c = 0#32 ∧
      exec (.chPartWrite n w) s = .next ((s.writeChan .host n R.CH_PART r w).modPath .host fun x => { x with resp := 0 }) := by
  obtain ⟨r, hr, hg, hrw, hc⟩ := row_CH_PART
  have hcmd : exec (.chPartWrite n w) s = .next (s.wr .host (chBase n + R.CH_PART) w) := rfl
  exact ⟨r, hrw, hc, by rw [hcmd, State.wr_chan hs n (by decide) (by decide) hr hg]⟩

theorem chPartWrite_claimed (hs : s.Serves) (h : s.fb (chBase n) F.CH_HG_STAT_SVC_OWN = true) (w : Word) :
    ∃ t, exec (.chPartWrite n w) s = .next t ∧ t.fb 0 F.DEV_SVC_STAT_WR_REJ = true ∧ s.OnlyRegsOf .host t [R.DEV_SVC_STAT] := by
  obtain ⟨r, -, -, hexec⟩ := chPartWrite_exec hs n w
  rw [State.writeChan_claimed h rfl] at hexec
  refine ⟨_, hexec, ?_, State.OnlyRegs.modPath (.raise (.refl s _) (by decide)) ..⟩
  rw [State.fb_modPath, State.fb_raise _ _ rfl (by decide)]

theorem chPartWrite_unclaimed (hs : s.Serves) (h : s.fb (chBase n) F.CH_HG_STAT_SVC_OWN = false) (w : Word) :
    ∃ t, exec (.chPartWrite n w) s = .next t ∧
      (s.partRefused n w = true → t.fb (chBase n) F.CH_STAT_PART_REJ = true ∧ s.OnlyRegsOf .host t [chBase n + R.CH_STAT]) ∧
      (s.partRefused n w = false → t.w (chBase n + R.CH_PART) &&& 0x8000007F#32 = w &&& 0x8000007F#32) ∧
      ((s.chan n).openGate?.isSome = true → t.clk = s.clk ∧ (∀ m : Ch, m ≠ n → t.chan m = s.chan m) ∧ s.SameMemory t) := by
  obtain ⟨r, hrw, hc, hexec⟩ := chPartWrite_exec hs n w
  refine ⟨_, hexec, ?_⟩
  obtain ⟨v, hv⟩ : ∃ v, v = r.stored (s.w (chBase n + R.CH_PART)) w := ⟨_, rfl⟩
  have hsame : s.partRefused n v = s.partRefused n w := by
    rw [hv]
    exact s.partRefused_congr n (RegRow.of_stored (by rw [hrw]; decide) hc _ w) (RegRow.of_stored (by rw [hrw]; decide) hc _ w)
  rw [State.writeChan_part h, ← hv, State.writePart, hsame]
  cases hrej : s.partRefused n w with
  | true =>
    have honly : s.OnlyRegs (s.raise (chBase n) F.CH_STAT_PART_REJ) [chBase n + R.CH_STAT] := .raise (.refl s _) List.mem_cons_self
    rw [if_pos rfl]
    refine ⟨fun _ => ⟨?_, honly.modPath ..⟩, nofun, fun _ => ⟨rfl, fun _ _ => rfl, honly.memory⟩⟩
    rw [State.fb_modPath, State.fb_raise _ _ rfl (by decide)]
  | false =>
    have hmask : v &&& 0x8000007F#32 = w &&& 0x8000007F#32 := by rw [hv, ← hrw, RegRow.stored_and hc]
    rw [if_neg Bool.false_ne_true]
    refine ⟨nofun, fun _ => ?_, fun hopen => ?_⟩
    · rw [State.w_modPath, State.putShadow_stored _ _ _ (by decide), hmask]
    · obtain ⟨hframe, -, hothers, -⟩ := s.putShadow_open n R.CH_PART v hopen
      exact ⟨hframe.clk, hothers, hframe.memory⟩

/-! ### EDGE_CAPTURE (R76) -/

/-- Settles O23: each clause is the lemma above of its command and of what becomes of the edge or of the word. -/
theorem qualifierWritesOrDropsEachEdge : Obligations.QualifierWritesOrDropsEachEdge := by
  unfold Obligations.QualifierWritesOrDropsEachEdge
  refine ⟨fun s n rising taps h => ⟨_, rfl, State.capture_none h⟩, fun s n rising taps b hl hr hp hb => ⟨_, rfl, State.capture_blind hl hr hp hb⟩,
    fun s n rising taps r0 cap0 own hl hr hp hb hlast hw => ⟨_, rfl, ?_⟩, fun s n rising taps hl hr hp hb hw hpol => ⟨_, rfl, ?_⟩,
    fun s n rising taps hl hr hp hb hw hpol hd => ⟨_, rfl, ?_⟩, fun s n rising taps hl hr hp hb hw hpol hd hheld hroom => ⟨_, rfl, ?_⟩,
    fun s n rising taps hl hr hp hb hw hpol hd hfull => ⟨_, rfl, ?_⟩, fun s n w hs h => chPartWrite_unclaimed hs h w,
    fun s n w hs h => chPartWrite_claimed hs h w⟩
  · rw [State.capture_qualifies hl hr hp hb, State.qualify_crowded hlast hw, State.capOf_rising]
    obtain ⟨hflag, hcount, hown, hwords, hothers, hstands⟩ := s.crowdDrop_drops n r0 cap0 own (rising != s.actB n F.CH_CFG_INV)
    exact ⟨hflag, hcount, hown, hwords, hothers, hstands⟩
  · rw [State.capture_qualifies hl hr hp hb, State.qualify_accepts hw, State.pass_deselected (by rw [State.capOf_rising, hpol])]
    rfl
  · have hdec : ((s.chan n).settle (s.now + tapIndex taps)).decCount = (s.chan n).decCount := (Chan.settle_onlyMarks _ _).decCount
    rw [State.capture_qualifies hl hr hp hb, State.qualify_accepts hw, State.pass_decimated (by rw [State.capOf_rising, hpol]) (hdec.symm ▸ hd), hdec]
    rfl
  · have hdec : ((s.chan n).settle (s.now + tapIndex taps)).decCount = (s.chan n).decCount := (Chan.settle_onlyMarks _ _).decCount
    rw [State.capture_qualifies hl hr hp hb, State.qualify_accepts hw, State.pass_selected (by rw [State.capOf_rising, hpol]) (hdec.symm ▸ hd),
      State.writeEdge_free (by exact hheld) (by exact hroom)]
    obtain ⟨hown, hcount, hwords, hothers, hstands⟩ := s.edgeWritten_count n _
    exact ⟨hown, hcount, hwords, hothers, hstands⟩
  · have hdec : ((s.chan n).settle (s.now + tapIndex taps)).decCount = (s.chan n).decCount := (Chan.settle_onlyMarks _ _).decCount
    have hblind : ((s.chan n).settle (s.now + tapIndex taps)).blind = (s.chan n).blind := (Chan.settle_onlyMarks _ _).blind
    have hflush := Chan.settle_flushed hw
    rw [State.capture_qualifies hl hr hp hb, State.qualify_accepts hw, State.pass_selected (by rw [State.capOf_rising, hpol]) (hdec.symm ▸ hd)]
    generalize s.capOf n (rising != s.actB n F.CH_CFG_INV) = cap at *
    generalize (s.chan n).settle (s.now + tapIndex taps) = c at *
    generalize s.now + tapIndex taps = raw at *
    obtain ⟨hseen, hblinds, hcount, ⟨x, hown, hnew⟩, hwords, hothers, hstands⟩ := State.writeEdge_overflows (s := s) (n := n) (raw := raw) (cap := cap)
      (c := { c with idleSince := raw, decCount := 0 }) (by exact congrArg (fun c : Chan => { c with idleSince := raw, decCount := 0 }) hflush) hfull
    refine ⟨?_, hseen, hblinds, hcount, ?_, fun hh hf => ?_, ?_, fun hb => ?_, hwords, hothers, hstands⟩
    · rw [hown]
      rfl
    · rw [hown]
      exact Chan.pushOvf_order ..
    · rw [hown]
      exact Chan.pushOvf_held hh hf
    · rw [hown]
    · rw [hown, hnew (hblind.trans hb)]
      rfl

end Sys2Proof.Machine
end

section
/-!
SUPPORT. The close of a gate in its channel's qualifier and FIFO (R82, R89, R97), and what its end changes of the state.
-/

namespace Sys2Proof.Machine

variable {s t r : State} {n m : Ch} {c d : Chan} {g x : GateRec} {gs : List GateRec} {cut early : Bool} {e : FEntry} {k j now a : Nat}

/-! ### Markers do not look at gates -/

/-- The channel with other gates, and another count of those without a marker. -/
def Chan.regate (gs : List GateRec) (k : Nat) (c : Chan) : Chan := { c with gates := gs, gateHeld := k }

theorem Chan.foldMarkers_regate (l : List FEntry) (c : Chan) :
    l.foldl (fun (c : Chan) (m : FEntry) => c.pushMarker m) (c.regate gs k) =
      (l.foldl (fun (c : Chan) (m : FEntry) => c.pushMarker m) c).regate gs k := by
  induction l generalizing c with
  | nil => rfl
  | cons m l ih => exact ih (c.pushMarker m)

theorem Chan.settleAll_regate (c : Chan) : (c.regate gs k).settleAll = c.settleAll.regate gs k := by
  have key (e : Chan) : (e.later.foldl (fun (c : Chan) (m : FEntry) => c.pushMarker m) { e.regate gs k with later := [] }).flushHeld =
      (e.later.foldl (fun (c : Chan) (m : FEntry) => c.pushMarker m) { e with later := [] }).flushHeld.regate gs k :=
    congrArg Chan.flushHeld (Chan.foldMarkers_regate e.later { e with later := [] })
  unfold Chan.settleAll
  rw [show (c.regate gs k).crowd = c.crowd from rfl]
  cases c.crowd with
  | none => exact key c
  | some x => exact key ({ c with crowd := none }.pushMarker (.crowd x.n x.rising x.e x.raw x.cap))

theorem Chan.settle_regate (c : Chan) (now : Nat) : (c.regate gs k).settle now = (c.settle now).regate gs k := by
  unfold Chan.settle
  rw [Chan.settleAll_regate]
  exact (apply_ite (Chan.regate gs k) _ _ _).symm

theorem Chan.marker_regate (c : Chan) (now : Nat) (e : FEntry) : (c.regate gs k).marker now e = (c.marker now e).regate gs k := by
  unfold Chan.marker
  dsimp only
  rw [Chan.settle_regate, show ((c.settle now).regate gs k).windowOpen now = (c.settle now).windowOpen now from rfl]
  cases (c.settle now).windowOpen now with
  | true => rfl
  | false => rfl

/-! ### What waited for the spacing window waits no more -/

theorem Chan.foldMarkers_waits (l : List FEntry) (c : Chan) :
    (l.foldl (fun (c : Chan) (m : FEntry) => c.pushMarker m) c).crowd = c.crowd ∧
      (l.foldl (fun (c : Chan) (m : FEntry) => c.pushMarker m) c).later = c.later := by
  induction l generalizing c with
  | nil => exact ⟨rfl, rfl⟩
  | cons m l ih => exact ih (c.pushMarker m)

theorem Chan.settleAll_waits (c : Chan) : c.settleAll.crowd = none ∧ c.settleAll.later = [] := by
  unfold Chan.settleAll
  cases hk : c.crowd with
  | none =>
    obtain ⟨hcrowd, hlater⟩ := Chan.foldMarkers_waits c.later { c with later := [] }
    exact ⟨hcrowd.trans hk, hlater⟩
  | some x => exact Chan.foldMarkers_waits _ _

theorem Chan.settleAll_idle (hcrowd : c.crowd = none) (hlater : c.later = []) : c.settleAll = c.flushHeld := by
  unfold Chan.settleAll
  rw [hcrowd]
  dsimp only
  rw [hlater, List.foldl_nil, ← hlater]

theorem Chan.settle_settle (c : Chan) (now : Nat) : (c.settle now).settle now = c.settle now := by
  cases hw : c.windowOpen now with
  | true => rw [Chan.settle_open hw, Chan.settle_open hw]
  | false =>
    obtain ⟨hcrowd, hlater⟩ := c.settleAll_waits
    rw [Chan.settle_closed (((c.settle_onlyMarks now).windowOpen now).trans hw), Chan.settle_closed hw, Chan.settleAll_idle hcrowd hlater,
      Chan.settleAll_flushed]

theorem Chan.marker_settle (c : Chan) (now : Nat) (e : FEntry) : (c.settle now).marker now e = c.marker now e := by
  unfold Chan.marker
  dsimp only
  rw [Chan.settle_settle]

/-! ### The gate's end in its channel (R89, R97) -/

/-- A gate that was open has ended at `k`. -/
def GateRec.endAt (k : Nat) (cut early : Bool) (x : GateRec) : GateRec :=
  if x.ended then x else { x with ended := true, closeAt := some k, cutEnd := cut, early := early }

theorem GateRec.endAt_ended (k : Nat) (cut early : Bool) (x : GateRec) : (x.endAt k cut early).ended = true := by
  unfold GateRec.endAt
  split
  · assumption
  · rfl

/-- The channel when its gate g ends: its marker is put into the FIFO, or the gate is counted for the next one. -/
def Chan.gateEnded (now k : Nat) (cut early : Bool) (g : GateRec) (c : Chan) : Chan :=
  if c.noEntry now then (c.settle now).regate (c.gates.map (GateRec.endAt k cut early)) (c.gateHeld + 1)
  else (c.marker now (c.endMarker k cut g)).regate (c.gates.map (GateRec.endAt k cut early)) 0

theorem Chan.gateEnded_gates (now k : Nat) (cut early : Bool) (g : GateRec) (c : Chan) :
    (c.gateEnded now k cut early g).gates = c.gates.map (GateRec.endAt k cut early) := by
  unfold Chan.gateEnded
  split
  · rfl
  · rfl

theorem Chan.gateEnded_closed (now k : Nat) (cut early : Bool) (g : GateRec) (c : Chan) : (c.gateEnded now k cut early g).openGate? = none := by
  rw [Chan.openGate?, Chan.gateEnded_gates, List.find?_map, Option.map_eq_none_iff, List.find?_eq_none]
  intro x _
  simp [GateRec.endAt_ended]

theorem Chan.gateEnded_shadows (now k : Nat) (cut early : Bool) (g : GateRec) (c : Chan) :
    (c.gateEnded now k cut early g).dirty = c.dirty ∧ (c.gateEnded now k cut early g).late = c.late := by
  unfold Chan.gateEnded
  split
  · have hmarks := c.settle_onlyMarks now
    rw [Chan.OnlyMarks] at hmarks
    rw [hmarks]
    exact ⟨rfl, rfl⟩
  · have hmarks := c.marker_onlyMarks now (c.endMarker k cut g)
    rw [Chan.OnlyMarks] at hmarks
    rw [hmarks]
    exact ⟨rfl, rfl⟩

theorem Chan.gateEnded_marked (h : c.noEntry now = false) :
    c.Marked now (c.endMarker k cut g) (c.gateEnded now k cut early g) ∧ (c.gateEnded now k cut early g).gateHeld = 0 := by
  rw [Chan.gateEnded, h]
  exact ⟨c.marker_marked now _, rfl⟩

theorem Chan.gateEnded_lost (h : c.noEntry now = true) :
    (c.gateEnded now k cut early g).fifo = (c.settle now).fifo ∧ (c.gateEnded now k cut early g).gateHeld = c.gateHeld + 1 := by
  rw [Chan.gateEnded, h]
  exact ⟨rfl, rfl⟩

/-! ### The gate's end in the state -/

/-- The closed gate is numbered and counted. -/
def State.countGate (n : Ch) (g : GateRec) (s : State) : State :=
  (s.setF (chBase n) F.CH_GSEQ_GSEQ g.seq.toNat).count (chBase n + R.CH_GATES_H) 1

theorem State.countGate_clk (n : Ch) (g : GateRec) (s : State) : (s.countGate n g).clk = s.clk := by
  rw [State.countGate, State.count_clk, State.setF_clk]

theorem State.chan_countGate (n : Ch) (g : GateRec) (s : State) (m : Ch) : (s.countGate n g).chan m = s.chan m := by
  rw [State.countGate, State.chan_count, State.chan_setF]

theorem State.w_countGate (s : State) (h : a ∉ [chBase n + R.CH_GSEQ, chBase n + R.CH_GATES_H, chBase n + R.CH_GATES_H + 4]) :
    (s.countGate n g).w a = s.w a := by
  simp only [List.mem_cons, List.not_mem_nil, or_false, not_or] at h
  obtain ⟨hseq, hhigh, hlow⟩ := h
  rw [State.countGate, State.w_count_other _ (by simp [hhigh, hlow]), State.w_setF_other _ (Ne.symm hseq)]

theorem State.countGate_counted (s : State) (n : Ch) (g : GateRec) : s.GateCounted n g (s.countGate n g) := by
  constructor
  · rw [State.countGate, State.f, State.w_count_other _ (by simp), ← State.f, State.f_setF _ _ _ _ (by decide)]
    exact Nat.mod_eq_of_lt g.seq.isLt
  · rw [State.countGate, State.pair_count, State.pair_setF _ (by simp) (by simp)]

theorem State.endGate_eq (h : (s.chan n).openGate? = some g) (k : Nat) (cut early : Bool) :
    s.endGate n k cut early =
      if g.cfg.usesPartner n && !(s.chan n).noEntry s.now then
        ((s.setChan n ((s.chan n).gateEnded s.now k cut early g)).countGate n g).modChan (chOf g.cfg.pch) fun p =>
          p.marker s.now (.foreign n k p.ovfBlind p.blind.isSome)
      else (s.setChan n ((s.chan n).gateEnded s.now k cut early g)).countGate n g := by
  unfold State.endGate
  extract_lets c c1 c2 full ovfB blindB
  split
  next hnone => exact absurd (hnone.symm.trans h) nofun
  next g' hg =>
    obtain rfl : g' = g := Option.some.inj (hg.symm.trans h)
    extract_lets c3 s1
    have hmarks := c.settle_onlyMarks s.now
    have hc2 : c2 = (c.settle s.now).regate (c.gates.map (GateRec.endAt k cut early)) c.gateHeld :=
      Chan.settle_regate (gs := c.gates.map (GateRec.endAt k cut early)) (k := c.gateHeld) c s.now
    have hfull : full = c.noEntry s.now := by
      simp only [full, hc2]
      rfl
    have hc3 : c3 = c.gateEnded s.now k cut early g' := by
      simp only [c3, hfull, ovfB, blindB, hc2]
      unfold Chan.gateEnded
      cases c.noEntry s.now with
      | true => rfl
      | false =>
        rw [if_neg Bool.false_ne_true, if_neg Bool.false_ne_true]
        show ((c.settle s.now).regate _ 0).marker s.now (.gateEnd k (g'.seq.setWidth 16) (c.settle s.now).decCount (g'.cut || cut)
          (min (c.gateHeld + 1) 255) (c.settle s.now).ovfBlind (c.settle s.now).blind.isSome) = _
        rw [Chan.marker_regate, Chan.marker_settle, Chan.ovfBlind, hmarks.decCount, hmarks.blind]
        rfl
    have hs1 : s1 = (s.setChan n (c.gateEnded s.now k cut early g')).countGate n g' := by rw [← hc3]; rfl
    have hnow : s1.now = s.now := by rw [hs1, State.now, State.countGate_clk, State.setChan_clk, ← State.now]
    rw [hnow, hfull, hs1]
    rfl

end Sys2Proof.Machine
end

section
/-!
PROOFS. Gates open and close (R89, R92-R97, R289): GATE_CLOSE, and the three commands of CH_CMD at the next MCLK cycle.
-/

namespace Sys2Proof.Machine

variable {s t r u : State} {n m : Ch} {c d : Chan} {g : GateRec} {cut early : Bool} {e : FEntry} {k now a o : Nat} {f : Fld}

/-! ### The gate's end -/

theorem chOf_pch_ne (h : g.cfg.usesPartner n = true) : chOf g.cfg.pch ≠ n := by
  simp only [GateCfg.usesPartner, Bool.and_eq_true, decide_eq_true_eq] at h
  have hlt : g.cfg.pch < 128 := (g.cfg.part.extractLsb' 0 7).isLt
  intro he
  have : g.cfg.pch % 128 = n.val := congrArg Fin.val he
  omega

/-- Gate g of channel n has ended at `k`, with its marker and a partner's; counters and these channels may differ, and nothing else. -/
structure State.GateEnded (n : Ch) (k : Nat) (cut early : Bool) (g : GateRec) (s t : State) : Prop where
  own : t.chan n = (s.chan n).gateEnded s.now k cut early g
  partner : g.cfg.usesPartner n = true → (s.chan n).noEntry s.now = false → (s.chan (chOf g.cfg.pch)).Marked s.now
    (.foreign n k (s.chan (chOf g.cfg.pch)).ovfBlind (s.chan (chOf g.cfg.pch)).blind.isSome) (t.chan (chOf g.cfg.pch))
  others : ∀ m : Ch, m ≠ n → (g.cfg.usesPartner n = true → m ≠ chOf g.cfg.pch) → t.chan m = s.chan m
  counted : s.GateCounted n g t
  words : ∀ o, o ∉ [R.CH_GSEQ, R.CH_GATES_H, R.CH_GATES_H + 4] → t.w (chBase n + o) = s.w (chBase n + o)
  stands : s.OnlyChans t

theorem State.endGate_ended (h : (s.chan n).openGate? = some g) (k : Nat) (cut early : Bool) :
    s.GateEnded n k cut early g (s.endGate n k cut early) := by
  rw [State.endGate_eq h]
  obtain ⟨v, hv⟩ : ∃ v, v = (s.setChan n ((s.chan n).gateEnded s.now k cut early g)).countGate n g := ⟨_, rfl⟩
  have hchan (m : Ch) : v.chan m = (s.setChan n ((s.chan n).gateEnded s.now k cut early g)).chan m := by rw [hv, State.chan_countGate]
  have hown : v.chan n = (s.chan n).gateEnded s.now k cut early g := by rw [hchan, State.chan_setChan_same]
  have hothers (m : Ch) (hm : m ≠ n) : v.chan m = s.chan m := by rw [hchan, State.chan_setChan_other _ _ hm.symm]
  have hcounted : s.GateCounted n g v := by
    obtain ⟨hseq, hpair⟩ := State.countGate_counted (s.setChan n ((s.chan n).gateEnded s.now k cut early g)) n g
    rw [← hv] at hseq hpair
    exact ⟨hseq, by rw [hpair, State.pair_setChan]⟩
  have hwords (o : Nat) (ho : o ∉ [R.CH_GSEQ, R.CH_GATES_H, R.CH_GATES_H + 4]) : v.w (chBase n + o) = s.w (chBase n + o) := by
    simp only [List.mem_cons, List.not_mem_nil, or_false, not_or] at ho
    rw [hv, State.w_countGate _ (by simp only [List.mem_cons, List.not_mem_nil, or_false, not_or]; omega), State.w_setChan]
  have hstands : s.OnlyChans v := by
    rw [hv, State.countGate]
    exact .count (.setF (.setChan (.refl s) ..) ..) ..
  rw [← hv]
  split
  next hp =>
    simp only [Bool.and_eq_true] at hp
    have hne := chOf_pch_ne hp.1
    exact {
      own := by rw [State.chan_modChan_other _ _ hne, hown]
      partner := fun _ _ => by
        rw [State.chan_modChan_same, hothers _ hne]
        exact Chan.marker_marked ..
      others := fun m hm hm' => by rw [State.chan_modChan_other _ _ (Ne.symm (hm' hp.1)), hothers m hm]
      counted := ⟨hcounted.1, by rw [State.modChan, State.pair_setChan, hcounted.2]⟩
      words := fun o ho => by rw [State.w_modChan, hwords o ho]
      stands := .modChan hstands .. }
  next hp =>
    refine ⟨hown, fun hu hn => absurd ?_ hp, fun m hm _ => hothers m hm, hcounted, hwords, hstands⟩
    rw [hu, hn]
    rfl

theorem State.OnlyChans.clk (h : s.OnlyChans t) : t.clk = s.clk := by rw [h]

theorem State.OnlyChans.fabric (h : s.OnlyChans t) : s.OnlyFabric t := by rw [State.OnlyFabric, h]

/-! ### A gate opens (R92, R93) -/

/-- What a gate's opening may change of its channel: its gates and reducer, what is due at its next gate, and the blind
interval whose calibration it abandons. -/
def Chan.OnlyGating (c d : Chan) : Prop :=
  d = { c with gates := d.gates, nextSeq := d.nextSeq, decCount := d.decCount, red := d.red, freshDue := d.freshDue, adClrDue := d.adClrDue,
               tieAt := d.tieAt, blind := d.blind }

theorem Chan.OnlyGating.fifo (h : c.OnlyGating d) : d.fifo = c.fifo := by rw [h]
theorem Chan.OnlyGating.gateHeld (h : c.OnlyGating d) : d.gateHeld = c.gateHeld := by rw [h]

/-- Where a marker stands does not depend on gates. -/
theorem Chan.Marked.gating (h : c.Marked now e d) {x : Chan} (k : d.OnlyGating x) : c.Marked now e x := by
  rw [Chan.OnlyGating] at k
  rw [k]
  exact h

/-- A gate has been opened at `k` on channel n. -/
structure State.GateOpened (n : Ch) (k : Nat) (s t : State) : Prop where
  opened : (s.chan n).openGate? = none → (t.chan n).openGate?.map GateRec.openAt = some k
  seq : (t.chan n).nextSeq = (s.chan n).nextSeq + 1#32
  gating : (s.chan n).OnlyGating (t.chan n)
  words : ∀ a, a ≠ feBase (s.serving n) + R.CH_CAL_STAT → t.w a = s.w a

theorem State.w_breakIdle (s : State) (n : Ch) (h : a ≠ feBase (s.serving n) + R.CH_CAL_STAT) : (s.breakIdle n).w a = s.w a := by
  have hword {v : State} {k : Fld} {x : Nat} (hk : k.addr = R.CH_CAL_STAT) : (v.setF (feBase (s.serving n)) k x).w a = v.w a :=
    State.w_setF_other _ (by rw [hk]; exact h.symm)
  unfold State.breakIdle State.abandonThrOf
  dsimp only
  split
  · split
    · rw [State.w_modChan, hword rfl, State.raise, hword rfl, State.w_setFe]
    · rw [hword rfl, State.raise, hword rfl, State.w_setFe]
  · rfl

theorem State.openGate_opened (s : State) (n : Ch) (k : Nat) : s.GateOpened n k (s.openGate n k) := by
  have hwords {a : Nat} := s.w_breakIdle n (a := a)
  obtain ⟨x, hx⟩ := (s.breakIdle_onlyIdle n).chan
  unfold State.openGate
  extract_lets v c fresh cfg len mode aligned close dec gate red
  have hc : c = { s.chan n with blind := x } := hx
  refine ⟨fun hnone => ?_, ?_, ?_, fun a ha => hwords ha⟩
  · rw [State.chan_setChan_same, Chan.openGate?, List.find?_append, ← Chan.openGate?, hc,
      Chan.openGate?_of_gates (c := s.chan n) (d := { s.chan n with blind := x }) rfl, hnone]
    rfl
  · rw [State.chan_setChan_same, hc]
  · rw [State.chan_setChan_same, Chan.OnlyGating, hc]

theorem State.startGating_gating (s : State) (n : Ch) (k : Nat) : (s.chan n).OnlyGating ((s.startGating n k).chan n) := by
  unfold State.startGating
  split
  · exact (s.openGate_opened n k).gating
  · rfl

theorem State.startGating_opens (h : (s.chan n).openGate? = none) (hr : s.gatesRun n = true) (hm : s.act n F.CH_FUNC_GMODE % 3 = 0) (k : Nat) :
    ((s.startGating n k).chan n).openGate?.map GateRec.openAt = some k := by
  unfold State.startGating
  rw [if_pos (by simp [h, hr, hm])]
  exact (s.openGate_opened n k).opened h

/-- Whether gates run rests on the channel's registers, the fuses and the mode in force. -/
theorem State.gatesRun_congr (hfunc : t.w (chBase n + 0x800 + R.CH_FUNC) = s.w (chBase n + 0x800 + R.CH_FUNC))
    (hcfg : t.w (chBase n + 0x800 + R.CH_CFG) = s.w (chBase n + 0x800 + R.CH_CFG)) (hpin : t.w (chBase n + R.CH_PIN) = s.w (chBase n + R.CH_PIN))
    (hfuses : t.fuses = s.fuses) : t.gatesRun n = s.gatesRun n ∧ t.act n F.CH_FUNC_GMODE = s.act n F.CH_FUNC_GMODE := by
  have hact {k : Fld} (hk : t.w (chBase n + 0x800 + k.addr) = s.w (chBase n + 0x800 + k.addr)) : t.act n k = s.act n k := by
    rw [State.act, State.f, hk, State.act, State.f]
  refine ⟨?_, hact hfunc⟩
  unfold State.gatesRun State.live State.actB State.fusedOff State.fb
  rw [hact hfunc, hact hcfg, hfuses, State.f, show t.w (chBase n + F.CH_PIN_PARKED.addr) = s.w (chBase n + F.CH_PIN_PARKED.addr) from hpin, State.f]

/-! ### A gate closes (R97) -/

theorem State.GateCounted.of_words (h : s.GateCounted n g t) (hw : ∀ o ∈ gateOffs, r.w (chBase n + o) = t.w (chBase n + o)) : s.GateCounted n g r := by
  obtain ⟨hseq, hpair⟩ := h
  constructor
  · rw [State.f, hw _ (by decide), ← State.f, hseq]
  · rw [State.pair, hw _ (by decide), Nat.add_assoc, hw _ (by decide), ← Nat.add_assoc, ← State.pair, hpair]

/-- What an application at `k` does to the shadows of channel n: those written before its MCLK cycle are in force and stand. -/
def State.InForce (n : Ch) (k : Nat) (s t : State) : Prop :=
  (∀ l ∈ (s.chan n).late, l.2.1 ≤ k) → ∀ o ∈ (s.chan n).dirty, gateShadows.contains o = true → s.ShadowFits n o →
    t.w (chBase n + 0x800 + o) &&& rwsMask o = s.w (chBase n + o) &&& rwsMask o ∧ t.w (chBase n + o) = s.w (chBase n + o)

/-- The application and the next continuous gate. -/
theorem State.applied_inForce (h : (s.chan n).openGate? = none) (k : Nat) :
    s.InForce n k ((s.applyShadows n k).startGating n k) ∧ ((s.applyShadows n k).startGating n k).clk = s.clk ∧
      ∀ o ∈ gateOffs, ((s.applyShadows n k).startGating n k).w (chBase n + o) = s.w (chBase n + o) := by
  have happlied := State.applyShadows_applied h k
  have hstart := (s.applyShadows n k).startGating_started n k
  have hwords {a : Nat} (ha : GateWord n a) := hstart.words a ha.not_calWord
  have hwritten (o : Nat) (ho : o ∈ gateOffs) := (hwords (gateWord_written n ho)).trans (happlied.written o ho)
  refine ⟨fun hl o hd ho hf => ⟨?_, hwritten o (mem_gateOffs_of_shadow ho)⟩, hstart.fabric.clk.trans happlied.clk, hwritten⟩
  rw [hwords (gateWord_forced n (mem_gateOffs_of_shadow ho)), happlied.forced hl o hd ho hf]

/-- With nothing written there is nothing to apply. -/
theorem State.applyShadows_clean (h : (s.chan n).dirty = []) (k : Nat) : s.applyShadows n k = s := by
  unfold State.applyShadows
  extract_lets b late waits prev dec held s1 todo
  have hdec : dec = none := if_pos (by rw [h]; rfl)
  have hheld : held = false := by simp only [held, hdec, Bool.and_false]
  have hs1 : s1 = s := if_neg (by rw [hheld]; exact Bool.false_ne_true)
  have htodo : todo = [] := by rw [show todo = (s1.chan n).dirty.filter _ from rfl, hs1, h, List.filter_nil]
  rw [if_pos (by rw [htodo]; rfl), hs1]

/-- Gate g of channel n has closed at `k`: it is counted, and the shadows are in force. -/
structure State.GateShut (n : Ch) (k : Nat) (g : GateRec) (s t : State) : Prop where
  clk : t.clk = s.clk
  counted : s.GateCounted n g t
  inForce : s.InForce n k t

theorem State.closeGateAt_shut (h : (s.chan n).openGate? = some g) (k : Nat) (cut : Bool) : s.GateShut n k g (s.closeGateAt n k cut) := by
  have hended := State.endGate_ended h k cut false
  unfold State.closeGateAt
  generalize s.endGate n k cut false = u at *
  have hclosed : (u.chan n).openGate? = none := by rw [hended.own, Chan.gateEnded_closed]
  obtain ⟨hforce, hclk, hwords⟩ := State.applied_inForce hclosed k
  refine ⟨hclk.trans hended.stands.clk, hended.counted.of_words hwords, fun hl o hd ho hf => ?_⟩
  obtain ⟨hdirty, hlate⟩ := (s.chan n).gateEnded_shadows s.now k cut false g
  have hsame {o : Nat} (ho : o ∉ [R.CH_GSEQ, R.CH_GATES_H, R.CH_GATES_H + 4]) := hended.words o ho
  have hfits : u.ShadowFits n o := by
    unfold State.ShadowFits State.fb State.f
    rw [hsame (by decide), hsame (by decide)]
    exact hf
  have hshadow : u.w (chBase n + o) = s.w (chBase n + o) :=
    hsame ((by decide : ∀ o ∈ gateShadows, o ∉ [R.CH_GSEQ, R.CH_GATES_H, R.CH_GATES_H + 4]) o (List.contains_iff_mem.1 ho))
  obtain ⟨hmask, hstand⟩ := hforce (by rw [hended.own, hlate]; exact hl) o (by rw [hended.own, hdirty]; exact hd) ho hfits
  exact ⟨by rw [hmask, hshadow], hstand.trans hshadow⟩

/-- The same with nothing written: the marker, the partner's, and the next gate. -/
structure State.GateShutClean (n : Ch) (k : Nat) (cut : Bool) (g : GateRec) (s t : State) : Prop where
  marked : (s.chan n).noEntry s.now = false → (s.chan n).Marked s.now ((s.chan n).endMarker k cut g) (t.chan n) ∧ (t.chan n).gateHeld = 0
  lost : (s.chan n).noEntry s.now = true → (t.chan n).fifo = ((s.chan n).settle s.now).fifo ∧ (t.chan n).gateHeld = (s.chan n).gateHeld + 1
  reopens : s.gatesRun n = true → s.act n F.CH_FUNC_GMODE % 3 = 0 → (t.chan n).openGate?.map GateRec.openAt = some k
  partner : g.cfg.usesPartner n = true → (s.chan n).noEntry s.now = false → (s.chan (chOf g.cfg.pch)).Marked s.now
    (.foreign n k (s.chan (chOf g.cfg.pch)).ovfBlind (s.chan (chOf g.cfg.pch)).blind.isSome) (t.chan (chOf g.cfg.pch))
  others : ∀ m : Ch, m ≠ n → (g.cfg.usesPartner n = true → m ≠ chOf g.cfg.pch) → t.chan m = s.chan m
  memory : s.SameMemory t

theorem State.closeGateAt_clean (h : (s.chan n).openGate? = some g) (hd : (s.chan n).dirty = []) (k : Nat) (cut : Bool) :
    s.GateShutClean n k cut g (s.closeGateAt n k cut) := by
  have hended := State.endGate_ended h k cut false
  unfold State.closeGateAt
  generalize s.endGate n k cut false = u at *
  have hdirty : (u.chan n).dirty = [] := by rw [hended.own, (Chan.gateEnded_shadows ..).1, hd]
  have hclosed : (u.chan n).openGate? = none := by rw [hended.own, Chan.gateEnded_closed]
  rw [State.applyShadows_clean hdirty]
  have hgating := u.startGating_gating n k
  have hstart := u.startGating_started n k
  have hrun := State.gatesRun_congr (s := s) (t := u) (n := n) (by rw [Nat.add_assoc, hended.words _ (by decide)])
    (by rw [Nat.add_assoc, hended.words _ (by decide)]) (hended.words _ (by decide)) (by rw [hended.stands])
  refine {
    marked := fun hn => ?_
    lost := fun hn => ?_
    reopens := fun hr hm => State.startGating_opens hclosed (hrun.1.trans hr) (by rw [hrun.2]; exact hm) k
    partner := fun hu hn => ?_
    others := fun m hm hm' => (hstart.others m hm).trans (hended.others m hm hm')
    memory := hended.stands.fabric.memory.trans hstart.fabric.memory }
  · obtain ⟨hmarked, hheld⟩ := Chan.gateEnded_marked (k := k) (cut := cut) (early := false) (g := g) hn
    rw [← hended.own] at hmarked hheld
    exact ⟨hmarked.gating hgating, hgating.gateHeld.trans hheld⟩
  · obtain ⟨hfifo, hheld⟩ := Chan.gateEnded_lost (k := k) (cut := cut) (early := false) (g := g) hn
    rw [← hended.own] at hfifo hheld
    exact ⟨hgating.fifo.trans hfifo, hgating.gateHeld.trans hheld⟩
  · rw [hstart.others _ (chOf_pch_ne hu)]
    exact hended.partner hu hn

/-- A gate that closes at its own boundary leaves that instant behind. -/
theorem State.ownBoundary_shut (h : (s.chan n).openGate? = some g) (k : Nat) : s.GateShut n k g (s.ownBoundary n k) := by
  have hshut := State.closeGateAt_shut h k false
  unfold State.ownBoundary
  generalize s.closeGateAt n k false = t at *
  obtain ⟨hclk, ⟨hseq, hpair⟩, hforce⟩ := hshut
  exact ⟨hclk, ⟨hseq, by rw [State.modChan, State.pair_setChan, hpair]⟩, hforce⟩

theorem State.ownBoundary_clean (h : (s.chan n).openGate? = some g) (hd : (s.chan n).dirty = []) (k : Nat) :
    s.GateShutClean n k false g (s.ownBoundary n k) := by
  have hclean := State.closeGateAt_clean h hd k false
  unfold State.ownBoundary
  generalize s.closeGateAt n k false = t at *
  have hown := t.chan_modChan_same n fun c => { c with ownClose := some k }
  have hothers (m : Ch) (hm : m ≠ n) := t.chan_modChan_other (fun c => { c with ownClose := some k }) (Ne.symm hm)
  obtain ⟨hmarked, hlost, hreopens, hpartner, hrest, hmem⟩ := hclean
  refine ⟨fun hn => ?_, fun hn => ?_, fun hr hm => ?_, fun hu hn => ?_, fun m hm hm' => (hothers m hm).trans (hrest m hm hm'), hmem⟩
  · rw [hown]
    exact hmarked hn
  · rw [hown]
    exact hlost hn
  · rw [hown]
    exact hreopens hr hm
  · rw [hothers _ (chOf_pch_ne hu)]
    exact hpartner hu hn

/-! ### The instant of the close -/

theorem State.pair_reach (s : State) (j a : Nat) : (s.reach j).pair a = s.pair a := by rw [State.pair, State.w_reach, State.w_reach, State.pair]

theorem State.inForce_reach {j : Nat} : (s.reach j).InForce n k t ↔ s.InForce n k t := by
  unfold State.InForce State.ShadowFits
  simp only [State.chan_reach, State.w_reach, State.fb_reach]

/-- Gate g closes at `k` once device time has reached `j`. -/
structure State.GateShutAt (n : Ch) (j k : Nat) (cut : Bool) (g : GateRec) (s t : State) : Prop where
  shut : (s.reach j).GateShut n k g t
  clean : (s.chan n).dirty = [] → (s.reach j).GateShutClean n k cut g t

namespace State.GateShutAt

variable {j : Nat} (h : s.GateShutAt n j k cut g t)
include h

theorem clk : t.clk = (s.reach j).clk := h.shut.clk

theorem counted : s.GateCounted n g t := by
  obtain ⟨hseq, hpair⟩ := h.shut.counted
  exact ⟨hseq, by rw [hpair, State.pair_reach]⟩

theorem marked (hd : (s.chan n).dirty = []) (hn : (s.chan n).noEntry t.now = false) :
    (s.chan n).Marked t.now ((s.chan n).endMarker k cut g) (t.chan n) ∧ (t.chan n).gateHeld = 0 := by
  have hnow : t.now = (s.reach j).now := by rw [State.now, h.clk, ← State.now]
  have hmarked := (h.clean hd).marked
  rw [State.chan_reach, ← hnow] at hmarked
  exact hmarked hn

theorem inForce : s.InForce n k t := State.inForce_reach.1 h.shut.inForce

theorem modPath (p : Path) (y : PathSt → PathSt) : s.GateShutAt n j k cut g (t.modPath p y) := by
  obtain ⟨⟨hclk, ⟨hseq, hpair⟩, hforce⟩, hclean⟩ := h
  refine ⟨⟨hclk, ⟨hseq, by rw [State.pair_modPath, hpair]⟩, hforce⟩, fun hd => ?_⟩
  obtain ⟨hmarked, hlost, hreopens, hpartner, hothers, hmem⟩ := hclean hd
  exact ⟨hmarked, hlost, hreopens, hpartner, hothers, hmem⟩

end State.GateShutAt

theorem State.reach_closeGateAt (h : (s.chan n).openGate? = some g) (j k : Nat) (cut : Bool) :
    s.GateShutAt n j k cut g ((s.reach j).closeGateAt n k cut) where
  shut := State.closeGateAt_shut (by rw [State.chan_reach, h]) k cut
  clean hd := State.closeGateAt_clean (by rw [State.chan_reach, h]) (by rw [State.chan_reach, hd]) k cut

theorem State.reach_ownBoundary (h : (s.chan n).openGate? = some g) (j k : Nat) : s.GateShutAt n j k false g ((s.reach j).ownBoundary n k) where
  shut := State.ownBoundary_shut (by rw [State.chan_reach, h]) k
  clean hd := State.ownBoundary_clean (by rw [State.chan_reach, h]) (by rw [State.chan_reach, hd]) k

/-! ### GATE_CLOSE (R92, R97) -/

/-- In external mode the limit closes the gate early. -/
theorem State.gateDue_closes (h : (s.chan n).openGate? = some g) :
    s.GateShutAt n (g.closeAt.getD s.now) (g.closeAt.getD s.now) (decide (g.cfg.gmode = 2)) g (s.gateDue n) := by
  unfold State.gateDue
  rw [h]
  dsimp only
  split
  next hm =>
    rw [decide_eq_true hm]
    exact State.reach_closeGateAt h ..
  next hm =>
    rw [decide_eq_false hm]
    exact State.reach_ownBoundary h ..

theorem State.gateDue_none (h : (s.chan n).openGate? = none) : s.gateDue n = s := by
  unfold State.gateDue
  rw [h]

/-! ### The commands of CH_CMD (R94, R279) -/

/-- No claim holds CH_CMD. -/
theorem State.writeChan_cmd (s : State) (p : Path) (n : Ch) (r : RegRow) (w : Word) : s.writeChan p n R.CH_CMD r w = s.chCmd n w := by
  unfold State.writeChan
  dsimp only
  rw [show claimOffs.contains R.CH_CMD = false from rfl, Bool.and_false, if_neg Bool.false_ne_true, if_neg (by decide), if_neg (by decide),
    if_neg (by decide), if_neg (by decide), if_neg (by decide), if_neg (by decide), if_neg (by decide), if_neg (by decide), if_neg (by decide),
    if_pos rfl]

/-- A command's word has its bit alone. -/
theorem State.wrCmd_gate (hs : s.Serves) (n : Ch) (f : Fld) :
    s.wrCmd (chBase n + R.CH_CMD) f = (s.chCmd n (f.into 0#32 1)).modPath .host fun x => { x with resp := 0 } := by
  obtain ⟨r, hr, hg, hrw, -⟩ := row_CH_CMD
  rw [State.wrCmd_chan hs n (by decide) (by decide) hr hg, State.writeChan_cmd, hrw, BitVec.and_zero]

/-- The commands of a word of CH_CMD. -/
def cmdFlds : List Fld :=
  [F.CH_CMD_APPLY_NOW, F.CH_CMD_START, F.CH_CMD_STOP, F.CH_CMD_ADEV_DUMP, F.CH_CMD_ADEV_CLR, F.CH_CMD_TIE_RST]

theorem cmdFlds_alone : ∀ f ∈ cmdFlds, ∀ k ∈ cmdFlds, decide (k.of (f.into 0#32 1) = 1) = decide (k = f) := by decide

/-- A word with one command's bit runs that command alone. -/
theorem State.chCmd_alone (hf : f ∈ cmdFlds) (s : State) (n : Ch) :
    s.chCmd n (f.into 0#32 1) =
      let t := s.mclkNext
      let open_ := (s.chan n).openGate?.isSome
      let timed := decide (F.CH_CMD_START = f) || decide (F.CH_CMD_STOP = f) || decide (F.CH_CMD_APPLY_NOW = f) || decide (F.CH_CMD_TIE_RST = f)
      let s := if timed then s.reach t else s
      let s := if F.CH_CMD_ADEV_CLR = f then s.adevClr n else s
      let s := if F.CH_CMD_TIE_RST = f then s.tieRst n t else s
      let s := if F.CH_CMD_ADEV_DUMP = f then s.adevDumpCmd n else s
      let s := if F.CH_CMD_STOP = f ∧ open_ = true then s.gateStop n t else s
      let s := if F.CH_CMD_APPLY_NOW = f then s.applyNow n t else s
      if F.CH_CMD_START = f ∧ open_ = false then s.gateStart n t else s := by
  have halone {k : Fld} (hk : k ∈ cmdFlds) := cmdFlds_alone f hf k hk
  unfold State.chCmd
  dsimp only
  simp only [halone (k := F.CH_CMD_START) (by decide), halone (k := F.CH_CMD_STOP) (by decide), halone (k := F.CH_CMD_APPLY_NOW) (by decide),
    halone (k := F.CH_CMD_TIE_RST) (by decide), halone (k := F.CH_CMD_ADEV_CLR) (by decide), halone (k := F.CH_CMD_ADEV_DUMP) (by decide),
    Bool.and_eq_true, decide_eq_true_eq, Bool.not_eq_true']

theorem State.chCmd_start (s : State) (n : Ch) :
    s.chCmd n (F.CH_CMD_START.into 0#32 1) =
      if (s.chan n).openGate?.isSome then s.reach s.mclkNext else (s.reach s.mclkNext).gateStart n s.mclkNext := by
  rw [State.chCmd_alone (by decide)]
  cases h : (s.chan n).openGate?.isSome with
  | true => simp
  | false => simp

theorem State.chCmd_stop (s : State) (n : Ch) :
    s.chCmd n (F.CH_CMD_STOP.into 0#32 1) =
      if (s.chan n).openGate?.isSome then (s.reach s.mclkNext).gateStop n s.mclkNext else s.reach s.mclkNext := by
  rw [State.chCmd_alone (by decide)]
  cases h : (s.chan n).openGate?.isSome with
  | true => simp
  | false => simp

theorem State.chCmd_applyNow (s : State) (n : Ch) :
    s.chCmd n (F.CH_CMD_APPLY_NOW.into 0#32 1) = (s.reach s.mclkNext).applyNow n s.mclkNext := by
  rw [State.chCmd_alone (by decide)]
  simp

theorem gateStart_exec (hs : s.Serves) (n : Ch) :
    exec (.gateStart n) s = .next ((s.chCmd n (F.CH_CMD_START.into 0#32 1)).modPath .host fun x => { x with resp := 0 }) := by
  rw [show exec (.gateStart n) s = .next (s.wrCmd (chBase n + R.CH_CMD) F.CH_CMD_START) from rfl, State.wrCmd_gate hs]

theorem gateStop_exec (hs : s.Serves) (n : Ch) :
    exec (.gateStop n) s = .next ((s.chCmd n (F.CH_CMD_STOP.into 0#32 1)).modPath .host fun x => { x with resp := 0 }) := by
  rw [show exec (.gateStop n) s = .next (s.wrCmd (chBase n + R.CH_CMD) F.CH_CMD_STOP) from rfl, State.wrCmd_gate hs]

theorem applyNow_exec (hs : s.Serves) (n : Ch) :
    exec (.applyNow n) s = .next (((s.reach s.mclkNext).applyNow n s.mclkNext).modPath .host fun x => { x with resp := 0 }) := by
  rw [show exec (.applyNow n) s = .next (s.wrCmd (chBase n + R.CH_CMD) F.CH_CMD_APPLY_NOW) from rfl, State.wrCmd_gate hs, State.chCmd_applyNow]

/-- A command that only lets time pass. -/
theorem State.reach_modPath_stands (s : State) (j : Nat) (p : Path) (y : PathSt → PathSt) :
    (s.reach j).modPath p y = { s with clk := (s.reach j).clk, paths := ((s.reach j).modPath p y).paths } :=
  congrArg (fun x : State => { x with paths := ((s.reach j).modPath p y).paths }) (s.reach_stands j)

/-! ### START (R92, R96) -/

theorem State.gatesRun_reach (s : State) (j : Nat) (n : Ch) :
    (s.reach j).gatesRun n = s.gatesRun n ∧ (s.reach j).act n F.CH_FUNC_GMODE = s.act n F.CH_FUNC_GMODE :=
  State.gatesRun_congr (s.w_reach ..) (s.w_reach ..) (s.w_reach ..) (s.reach_fuses j)

theorem gateStart_opens (hs : s.Serves) (hr : s.gatesRun n = true) (hnone : (s.chan n).openGate? = none) (hm : s.act n F.CH_FUNC_GMODE % 3 ≠ 0) :
    ∃ t, exec (.gateStart n) s = .next t ∧ t.clk = (s.reach s.mclkNext).clk ∧
      (t.chan n).openGate?.map GateRec.openAt = some s.mclkNext ∧ (t.chan n).nextSeq = (s.chan n).nextSeq + 1#32 ∧
      (t.chan n).fifo = (s.chan n).fifo ∧
      (∀ a, a ≠ feBase (s.serving n) + R.CH_CAL_STAT → t.w a = s.w a) ∧ (∀ m : Ch, m ≠ n → t.chan m = s.chan m) ∧ s.SameMemory t := by
  refine ⟨_, gateStart_exec hs n, ?_⟩
  obtain ⟨hrun, hmode⟩ := s.gatesRun_reach s.mclkNext n
  rw [State.chCmd_start, hnone, if_neg (by simp), State.gateStart, if_pos (by simp [hrun, hr, hnone, hmode, hm])]
  obtain ⟨hopened, hseq, hgating, hwords⟩ := (s.reach s.mclkNext).openGate_opened n s.mclkNext
  have hstart := (s.reach s.mclkNext).openGate_started n s.mclkNext
  have hserving : (s.reach s.mclkNext).serving n = s.serving n := by rw [State.serving, State.fb_reach, State.serving]
  rw [State.chan_reach] at hopened hseq hgating
  refine ⟨hstart.fabric.clk, hopened hnone, hseq, hgating.fifo, fun a ha => ?_, fun m hm => ?_, (s.sameMemory_reach _).trans hstart.fabric.memory⟩
  · rw [State.w_modPath, hwords a (by rwa [hserving]), State.w_reach]
  · exact (hstart.others m hm).trans (s.chan_reach _ m)

theorem gateStart_idle (hs : s.Serves) (h : s.gatesRun n = false ∨ (s.chan n).openGate?.isSome = true ∨ s.act n F.CH_FUNC_GMODE % 3 = 0) :
    ∃ t, exec (.gateStart n) s = .next t ∧ t = { s with clk := (s.reach s.mclkNext).clk, paths := t.paths } := by
  have hidle : s.chCmd n (F.CH_CMD_START.into 0#32 1) = s.reach s.mclkNext := by
    obtain ⟨hrun, hmode⟩ := s.gatesRun_reach s.mclkNext n
    rw [State.chCmd_start]
    split
    · rfl
    · refine if_neg ?_
      rw [hrun, hmode, State.chan_reach]
      rcases h with h | h | h <;> simp_all
  exact ⟨_, gateStart_exec hs n, by rw [hidle]; exact s.reach_modPath_stands _ _ _⟩

/-! ### STOP (R92, R96) -/

theorem gateStop_closes (hs : s.Serves) (h : (s.chan n).openGate? = some g) (hm : g.cfg.gmode = 2) :
    ∃ t, exec (.gateStop n) s = .next t ∧ s.GateShutAt n s.mclkNext s.mclkNext false g t := by
  refine ⟨_, gateStop_exec hs n, ?_⟩
  rw [State.chCmd_stop, h, Option.isSome_some, if_pos rfl, State.gateStop, State.chan_reach, h]
  dsimp only
  rw [if_pos hm]
  exact (State.reach_closeGateAt h ..).modPath ..

theorem gateStop_idle (hs : s.Serves) (h : (s.chan n).openGate?.all (fun (g : GateRec) => g.cfg.gmode != 2) = true) :
    ∃ t, exec (.gateStop n) s = .next t ∧ t = { s with clk := (s.reach s.mclkNext).clk, paths := t.paths } := by
  have hidle : s.chCmd n (F.CH_CMD_STOP.into 0#32 1) = s.reach s.mclkNext := by
    rw [State.chCmd_stop, State.gateStop, State.chan_reach]
    cases hg : (s.chan n).openGate? with
    | none => rfl
    | some g =>
      rw [hg] at h
      rw [Option.isSome_some, if_pos rfl]
      exact if_neg (by simpa using h)
  exact ⟨_, gateStop_exec hs n, by rw [hidle]; exact s.reach_modPath_stands _ _ _⟩

/-! ### APPLY_NOW (R97, R289) -/

/-- Device time does not move a gate's last close at its own boundary. -/
theorem State.closedItself_reach (s : State) (j : Nat) (n : Ch) (k : Nat) : (s.reach j).closedItself n k = s.closedItself n k := by
  rw [State.closedItself, State.chan_reach, State.closedItself]

theorem applyNow_cuts (hs : s.Serves) (h : (s.chan n).openGate? = some g)
    (hlater : g.cfg.gmode = 2 ∨ s.mclkNext < g.closeAt.getD (s.mclkNext + 1)) (hself : g.cfg.gmode % 3 ≠ 0 ∨ s.closedItself n s.mclkNext = false) :
    ∃ t, exec (.applyNow n) s = .next t ∧ s.GateShutAt n s.mclkNext s.mclkNext true g t := by
  refine ⟨_, applyNow_exec hs n, ?_⟩
  rw [State.applyNow, State.chan_reach, h]
  dsimp only
  rw [State.closedItself_reach, if_neg (by rcases hlater with h | h <;> simp [h]), if_neg (by rcases hself with h | h <;> simp [h])]
  exact (State.reach_closeGateAt h ..).modPath ..

theorem applyNow_atBoundary (hs : s.Serves) (h : (s.chan n).openGate? = some g) (hm : g.cfg.gmode ≠ 2)
    (hdue : g.closeAt.getD (s.mclkNext + 1) ≤ s.mclkNext) :
    ∃ t, exec (.applyNow n) s = .next t ∧ s.GateShutAt n s.mclkNext (g.closeAt.getD s.mclkNext) false g t := by
  refine ⟨_, applyNow_exec hs n, ?_⟩
  rw [State.applyNow, State.chan_reach, h]
  dsimp only
  rw [if_pos (by simp [hm, hdue])]
  exact (State.reach_ownBoundary h ..).modPath ..

theorem applyNow_afterBoundary (hs : s.Serves) (h : (s.chan n).openGate? = some g) (hm : g.cfg.gmode % 3 = 0)
    (hlater : s.mclkNext < g.closeAt.getD (s.mclkNext + 1)) (hself : s.closedItself n s.mclkNext = true) :
    ∃ t, exec (.applyNow n) s = .next t ∧ t = { s with clk := (s.reach s.mclkNext).clk, paths := t.paths } := by
  have hidle : (s.reach s.mclkNext).applyNow n s.mclkNext = s.reach s.mclkNext := by
    rw [State.applyNow, State.chan_reach, h]
    dsimp only
    rw [State.closedItself_reach, if_neg (by simp [hlater]), if_pos (by simp [hm, hself])]
  exact ⟨_, applyNow_exec hs n, by rw [hidle]; exact s.reach_modPath_stands _ _ _⟩

theorem applyNow_applies (hs : s.Serves) (h : (s.chan n).openGate? = none) :
    ∃ t, exec (.applyNow n) s = .next t ∧ t.clk = (s.reach s.mclkNext).clk ∧
      t.pair (chBase n + R.CH_GATES_H) = s.pair (chBase n + R.CH_GATES_H) ∧ s.InForce n s.mclkNext t := by
  refine ⟨_, applyNow_exec hs n, ?_⟩
  rw [State.applyNow, State.chan_reach, h]
  dsimp only
  obtain ⟨hforce, hclk, hwords⟩ := State.applied_inForce (s := s.reach s.mclkNext) (by rw [State.chan_reach, h]) s.mclkNext
  refine ⟨hclk, ?_, State.inForce_reach.1 hforce⟩
  rw [State.pair_modPath, State.pair, hwords _ (by decide), Nat.add_assoc, hwords _ (by decide), ← Nat.add_assoc, ← State.pair, State.pair_reach]

/-- Settles O26: each clause is the lemma of its command and of the gate's state above. -/
theorem gatesOpenAndCloseAtTheirInstants : Obligations.GatesOpenAndCloseAtTheirInstants := by
  unfold Obligations.GatesOpenAndCloseAtTheirInstants
  refine ⟨fun s n g h => ?_, fun s n g h hd => ?_, fun s n h => ⟨_, rfl, State.gateDue_none h⟩, fun s n hs hr hnone hm => gateStart_opens hs hr hnone hm,
    fun s n hs h => gateStart_idle hs h, fun s n g hs h hm => ?_, fun s n hs h => gateStop_idle hs h, fun s n g hs h hlater hself hlate => ?_,
    fun s n g hs h hm hdue => ?_, fun s n g hs h hm hlater hself => applyNow_afterBoundary hs h hm hlater hself, fun s n hs h hlate => ?_⟩
  · have hshut := State.gateDue_closes h
    exact ⟨_, rfl, hshut.clk, hshut.counted⟩
  · have hshut := State.gateDue_closes h
    have hnow : (s.gateDue n).now = (s.reach (g.closeAt.getD s.now)).now := by rw [State.now, hshut.clk, ← State.now]
    obtain ⟨-, hlost, hreopens, hpartner, hothers, hmem⟩ := hshut.clean hd
    obtain ⟨hrun, hmode⟩ := s.gatesRun_reach (g.closeAt.getD s.now) n
    rw [hrun, hmode] at hreopens
    rw [← hnow] at hlost hpartner
    simp only [State.chan_reach] at hlost hpartner hothers
    exact ⟨_, rfl, hshut.marked hd, hlost, hreopens, hpartner, hothers, (s.sameMemory_reach _).trans hmem⟩
  · obtain ⟨t, ht, hshut⟩ := gateStop_closes hs h hm
    exact ⟨t, ht, hshut.clk, hshut.counted, fun hd hn => (hshut.marked hd hn).1⟩
  · obtain ⟨t, ht, hshut⟩ := applyNow_cuts hs h hlater hself
    exact ⟨t, ht, hshut.clk, hshut.counted, fun hd hn => (hshut.marked hd hn).1, hshut.inForce hlate⟩
  · obtain ⟨t, ht, hshut⟩ := applyNow_atBoundary hs h hm hdue
    exact ⟨t, ht, hshut.clk, hshut.counted, fun hd hn => (hshut.marked hd hn).1⟩
  · obtain ⟨t, ht, hclk, hpair, hforce⟩ := applyNow_applies hs h
    exact ⟨t, ht, hclk, hpair, hforce hlate⟩

end Sys2Proof.Machine
end

section
/-!
SUPPORT. What a pending start becomes at the end of its T_to (R103, R104), and what a measurement changes of the state (R105, R170, R171).
-/

namespace Sys2Proof.Machine

variable {s t r : State} {n : Ch} {g : GateRec} {p l : Int × Bool} {w : RedWork} {k : Int}

/-! ### The end of a pending start's T_to -/

/-- The end of a start's T_to under gate g. -/
def GateRec.limit (g : GateRec) (p : Int × Bool) : Int := p.1 + 16 * Int.ofNat g.cfg.tito

/-- The latest unused stop before a start and within its T_to (R104). -/
def RedWork.earlierStop (g : GateRec) (p : Int × Bool) (w : RedWork) : Option (Int × Bool) :=
  w.carry.stops.find? fun (x : Int × Bool) => decide (x.1 < p.1) && decide (p.1 - x.1 ≤ Int.ofNat g.cfg.tito * 16) && stopFits g p x

/-- No start is pending any more. -/
def RedWork.unpended (w : RedWork) : RedWork := { w with carry := { w.carry with pend := none, npend := [] } }

/-- An unused stop has been used. -/
def RedWork.useStop (l : Int × Bool) (w : RedWork) : RedWork := { w with carry := { w.carry with stops := w.carry.stops.erase l } }

theorem RedWork.earlierStop_unpended (g : GateRec) (p : Int × Bool) (w : RedWork) : w.unpended.earlierStop g p = w.earlierStop g p := rfl

/-- Once no later stop can come, a start with no earlier one is dropped. -/
theorem RedWork.decideNear_drops (h : w.earlierStop g p = none) (ch : Nat) : (w.decideNear ch g false p none).1 = w.timeOut ch g p := by
  rw [RedWork.earlierStop] at h
  rw [RedWork.decideNear]
  simp only [h, Option.filter_none, if_neg Bool.false_ne_true]

/-- Once no later stop can come, a start with an earlier one is paired with it, which is used then. -/
theorem RedWork.decideNear_pairs (h : w.earlierStop g p = some l) (ch : Nat) :
    (w.decideNear ch g false p none).1 = (w.useStop l).pair ch g p l := by
  rw [RedWork.earlierStop] at h
  rw [RedWork.decideNear]
  simp only [h, Option.filter_none]
  rfl

theorem Carry.firstPending_of_only {c : Carry} (h : c.pend.toList ++ c.npend = [p]) : c.firstPending = some p := by
  rw [Carry.firstPending]
  cases hp : c.pend with
  | none =>
    rw [hp, Option.toList_none, List.nil_append] at h
    rw [h]
  | some q =>
    rw [hp, Option.toList_some, List.singleton_append, List.cons.injEq] at h
    rw [h.1]

theorem RedWork.expire_ordered (ho : w.carry.pend = some p) (hn : w.carry.npend = []) (hk : g.limit p < k) (ch : Nat) :
    w.expire ch g k = w.unpended.timeOut ch g p := by
  have hlt : p.1 + Int.ofNat g.cfg.tito * 16 < k := by rwa [Int.mul_comm, ← GateRec.limit]
  rw [RedWork.expire]
  simp only [ho, if_pos hlt, RedWork.timeOut, hn, List.filter_nil, List.foldl_nil, RedWork.unpended]

theorem RedWork.expire_near (ho : w.carry.pend = none) (hn : w.carry.npend = [p]) (hk : g.limit p < k) (ch : Nat) :
    w.expire ch g k = (w.unpended.decideNear ch g false p none).1 := by
  have hlt : p.1 + Int.ofNat g.cfg.tito * 16 < k := by rwa [Int.mul_comm, ← GateRec.limit]
  rw [RedWork.expire]
  simp only [ho, hn, List.filter_cons, hlt, decide_true, if_true, Bool.not_true, if_neg Bool.false_ne_true, List.filter_nil, List.foldl_cons,
    List.foldl_nil, RedWork.unpended]

/-- The only pending start, with no earlier stop to pair with, is dropped. -/
theorem RedWork.expire_drops (hp : w.carry.pend.toList ++ w.carry.npend = [p]) (hstop : w.carry.pend = none → w.earlierStop g p = none)
    (hk : g.limit p < k) (ch : Nat) :
    w.expire ch g k = w.unpended.timeOut ch g p := by
  cases ho : w.carry.pend with
  | none =>
    rw [ho, Option.toList_none, List.nil_append] at hp
    rw [RedWork.expire_near ho hp hk, RedWork.decideNear_drops (by rw [RedWork.earlierStop_unpended, hstop ho])]
  | some q =>
    rw [ho, Option.toList_some, List.singleton_append, List.cons.injEq] at hp
    obtain ⟨rfl, hn⟩ := hp
    exact RedWork.expire_ordered ho hn hk ch

/-- The start that is pending under nearness, with an earlier stop, is paired with it. -/
theorem RedWork.expire_pairs (ho : w.carry.pend = none) (hn : w.carry.npend = [p]) (hstop : w.earlierStop g p = some l)
    (hk : g.limit p < k) (ch : Nat) :
    w.expire ch g k = (w.unpended.useStop l).pair ch g p l := by
  rw [RedWork.expire_near ho hn hk, RedWork.decideNear_pairs (by rw [RedWork.earlierStop_unpended, hstop])]

/-- A decided pair uses nothing more of what the reducer carries, and makes no time-out. -/
theorem RedWork.pair_keeps (ch : Nat) (g : GateRec) (a b : Int × Bool) (w : RedWork) :
    (w.pair ch g a b).carry = w.carry ∧ (w.pair ch g a b).acc.timeouts = w.acc.timeouts := by
  unfold RedWork.pair RedWork.measure
  dsimp only
  split
  · exact ⟨rfl, rfl⟩
  · exact ⟨rfl, rfl⟩

/-- A decided pair puts out a measurement, after a coincidence where the two are equal. -/
theorem RedWork.pair_out (ch : Nat) (g : GateRec) (a b : Int × Bool) (hw : w.out = []) :
    ∀ o ∈ (w.pair ch g a b).out, o = .coinc ∨ ∃ m e, o = .meas m e := by
  unfold RedWork.pair RedWork.measure
  dsimp only
  split
  · simp [hw]
  · simp [hw]

/-! ### What a measurement changes -/

/-- The words that a measurement, or a coincidence, of channel n may change (R105, R171, R175). -/
def measWords (n : Ch) : List Nat :=
  [chBase n + R.CH_COINC_H, chBase n + R.CH_COINC_H + 4, chBase n + R.CH_STAT, chBase n + R.CH_HG_UEL_H, chBase n + R.CH_HG_UEL_H + 4,
    chBase n + R.CH_HG_STAT, chBase n + R.CH_HG_TOT_H, chBase n + R.CH_HG_TOT_H + 4]

/-- They are no settings in force of a unit. -/
theorem not_setup_of_mem_measWords {a : Nat} (h : a ∈ measWords n) : ¬ Setup a := by
  have := n.isLt
  simp only [measWords, List.mem_cons, List.not_mem_nil, or_false] at h
  unfold Setup forceBase R.TRG_VP
  unfold chBase R.CH_COINC_H R.CH_STAT R.CH_HG_UEL_H R.CH_HG_STAT R.CH_HG_TOT_H at h
  omega

theorem timeout_not_mem_measWords (n : Ch) :
    chBase n + R.CH_TIMEOUT_H ∉ measWords n ∧ chBase n + R.CH_TIMEOUT_H + 4 ∉ measWords n := by
  simp only [measWords, List.mem_cons, List.not_mem_nil, or_false]
  unfold R.CH_TIMEOUT_H R.CH_COINC_H R.CH_STAT R.CH_HG_UEL_H R.CH_HG_STAT R.CH_HG_TOT_H
  omega

/-- A measurement of channel n has left every channel and all but its words as they were. -/
structure State.Measured (n : Ch) (s t : State) : Prop where
  chans : t.chans = s.chans
  words : ∀ a, a ∉ measWords n → t.w a = s.w a

namespace State.Measured

theorem refl (n : Ch) (s : State) : s.Measured n s := ⟨rfl, fun _ _ => rfl⟩

theorem trans (h : s.Measured n t) (k : t.Measured n r) : s.Measured n r :=
  ⟨k.chans.trans h.chans, fun a ha => (k.words a ha).trans (h.words a ha)⟩

theorem apart (hchans : t.chans = s.chans) (hregs : t.regs = s.regs) : s.Measured n t :=
  ⟨hchans, fun a _ => by rw [State.w, hregs, State.w]⟩

theorem ofRegs (h : s.OnlyRegs t (measWords n)) : s.Measured n t := ⟨by rw [h.1], h.2⟩

theorem srcEn (h : s.Measured n t) (u k : Nat) : t.srcEn u k = s.srcEn u k := by
  have hsetup : s.SameSetup t := fun a ha => h.words a fun hm => not_setup_of_mem_measWords hm ha
  rw [State.srcEn, hsetup.tuA, State.srcEn]

theorem chan (h : s.Measured n t) (m : Ch) : t.chan m = s.chan m := by rw [State.chan, h.chans, State.chan]

/-- Time-outs are no measurements: their counter stands. -/
theorem pair_timeout (h : s.Measured n t) : t.pair (chBase n + R.CH_TIMEOUT_H) = s.pair (chBase n + R.CH_TIMEOUT_H) := by
  obtain ⟨hhigh, hlow⟩ := timeout_not_mem_measWords n
  rw [State.pair, h.words _ hhigh, h.words _ hlow, State.pair]

end State.Measured

theorem State.bumpBin_measured (s : State) (n : Ch) (a : Nat) : s.Measured n (s.bumpBin n a) := by
  unfold State.bumpBin
  dsimp only
  split
  · exact .ofRegs ((State.OnlyRegs.count (.refl _ _) 1 (by simp [measWords]) (by simp [measWords])).raise (by simp [measWords]))
  · split
    · exact .ofRegs (.raise (.refl _ _) (by simp [measWords]))
    · split
      · exact .apart rfl rfl
      · exact .apart rfl rfl

theorem State.histUpdate_measured (s : State) (n : Ch) (v t : Int) : s.Measured n (s.histUpdate n v t) := by
  unfold State.histUpdate
  dsimp only
  split
  · exact .refl n s
  · refine .trans ?_ (.ofRegs (.count (.refl _ _) 1 (by simp [measWords]) (by simp [measWords])))
    split
    · exact .refl n s
    · exact s.bumpBin_measured n _

theorem State.histMeas_measured (s : State) (n : Ch) (fn : Nat) (m : Meas) : s.Measured n (s.histMeas n fn m) := by
  unfold State.histMeas
  split
  · exact s.histUpdate_measured n _ _
  · exact .refl n s

/-- No unit listens to values. -/
theorem State.valueSource_none (h : ∀ u : Unit16, s.srcEn u 13 = false) (n : Ch) (scope : Nat) (v : BitVec 64) (t : Int) :
    s.valueSource n scope v t = s :=
  State.forAll_id fun u _ => by simp [h u]

theorem State.redOut_measured {o : RedOut} (h : ∀ u : Unit16, s.srcEn u 13 = false) (ho : o = .coinc ∨ ∃ m e, o = .meas m e)
    (n : Ch) (g : GateRec) : s.Measured n (s.redOut n g o) := by
  obtain rfl | ⟨m, e, rfl⟩ := ho
  · exact .ofRegs ((State.OnlyRegs.count (.refl _ _) 1 (by simp [measWords]) (by simp [measWords])).raise (by simp [measWords]))
  · have hsent : s.Measured n (if g.cfg.each then s.sendEntry e else s) := by
      split
      · exact .apart rfl rfl
      · exact .refl n s
    have hhist := hsent.trans (State.histMeas_measured _ n g.cfg.fn m)
    unfold State.redOut
    dsimp only
    rw [State.valueSource_none fun u => (hhist.srcEn u 13).trans (h u)]
    exact hhist

theorem State.redOuts_measured {os : List RedOut} (h : ∀ u : Unit16, s.srcEn u 13 = false) (hos : ∀ o ∈ os, o = .coinc ∨ ∃ m e, o = .meas m e)
    (n : Ch) (g : GateRec) : s.Measured n (s.forAll os (State.redOut n g)) :=
  State.forAll_rel (rel := fun a b => (∀ u : Unit16, a.srcEn u 13 = false) → a.Measured n b) (fun a _ => .refl n a)
    (fun hab hbc ha => (hab ha).trans (hbc fun u => ((hab ha).srcEn u 13).trans (ha u)))
    (fun o ho _ ha => State.redOut_measured ha (hos o ho) n g) s h

end Sys2Proof.Machine
end

section
/-!
PROOFS. The commands of a channel's reducer and its pairing time-outs (R103-R105, R108, R112).
-/

namespace Sys2Proof.Machine

variable {s : State} {n : Ch} {g : GateRec} {rest : List GateRec} {p l : Int × Bool}

/-! ### TIE_RST, ADEV_DUMP and ADEV_CLR (R108, R112) -/

theorem State.chCmd_tieRst (s : State) (n : Ch) : s.chCmd n (F.CH_CMD_TIE_RST.into 0#32 1) = (s.reach s.mclkNext).tieRst n s.mclkNext := by
  rw [State.chCmd_alone (by decide)]
  simp

theorem State.chCmd_adevDump (s : State) (n : Ch) : s.chCmd n (F.CH_CMD_ADEV_DUMP.into 0#32 1) = s.adevDumpCmd n := by
  rw [State.chCmd_alone (by decide)]
  simp

theorem State.chCmd_adevClr (s : State) (n : Ch) : s.chCmd n (F.CH_CMD_ADEV_CLR.into 0#32 1) = s.adevClr n := by
  rw [State.chCmd_alone (by decide)]
  simp

/-- A command answered on path `p` has changed channel n by `f`, and nothing else. -/
theorem State.modChan_answered (s : State) (n : Ch) (f : Chan → Chan) (p : Path) (y : PathSt → PathSt) :
    ((s.modChan n f).modPath p y).chan n = f (s.chan n) ∧ (∀ m : Ch, m ≠ n → ((s.modChan n f).modPath p y).chan m = s.chan m) ∧
      (s.modChan n f).modPath p y = { s with chans := ((s.modChan n f).modPath p y).chans, paths := ((s.modChan n f).modPath p y).paths } := by
  refine ⟨?_, fun m hm => ?_, rfl⟩
  · rw [State.chan_modPath, State.chan_modChan_same]
  · rw [State.chan_modPath, State.chan_modChan_other _ _ hm.symm]

theorem tieRst_anchors (hs : s.Serves) (n : Ch) :
    ∃ t, exec (.tieRst n) s = .next t ∧ t.chan n = { s.chan n with
        red := { (s.chan n).red with carry := { (s.chan n).red.carry with tieFrom := some (16 * Int.ofNat s.mclkNext) } },
        tieAt := (s.chan n).tieAt.map fun (_ : Nat) => s.mclkNext } ∧
      (∀ m : Ch, m ≠ n → t.chan m = s.chan m) ∧ t = { s with clk := (s.reach s.mclkNext).clk, chans := t.chans, paths := t.paths } := by
  have hexec : exec (.tieRst n) s = .next (((s.reach s.mclkNext).tieRst n s.mclkNext).modPath .host fun x => { x with resp := 0 }) := by
    rw [show exec (.tieRst n) s = .next (s.wrCmd (chBase n + R.CH_CMD) F.CH_CMD_TIE_RST) from rfl, State.wrCmd_gate hs, State.chCmd_tieRst]
  obtain ⟨hchan, hothers, hstands⟩ := (s.reach s.mclkNext).modChan_answered n _ .host _
  simp only [State.chan_reach] at hchan hothers
  refine ⟨_, hexec, hchan, hothers, hstands.trans ?_⟩
  rw [s.reach_stands]
  rfl

theorem adevDump_marks (hs : s.Serves) (n : Ch) :
    ∃ t, exec (.adevDump n) s = .next t ∧ t.chan n = { s.chan n with adevDumpDue := some s.now } ∧
      (∀ m : Ch, m ≠ n → t.chan m = s.chan m) ∧ t = { s with chans := t.chans, paths := t.paths } := by
  have hexec : exec (.adevDump n) s = .next ((s.adevDumpCmd n).modPath .host fun x => { x with resp := 0 }) := by
    rw [show exec (.adevDump n) s = .next (s.wrCmd (chBase n + R.CH_CMD) F.CH_CMD_ADEV_DUMP) from rfl, State.wrCmd_gate hs, State.chCmd_adevDump]
  exact ⟨_, hexec, s.modChan_answered n _ .host _⟩

theorem adevClr_clears (hs : s.Serves) (n : Ch) :
    ∃ t, exec (.adevClr n) s = .next t ∧ t.chan n = { s.chan n with red := { (s.chan n).red with carry := (s.chan n).red.carry.clearAdev } } ∧
      (∀ m : Ch, m ≠ n → t.chan m = s.chan m) ∧ t = { s with chans := t.chans, paths := t.paths } := by
  have hexec : exec (.adevClr n) s = .next ((s.adevClr n).modPath .host fun x => { x with resp := 0 }) := by
    rw [show exec (.adevClr n) s = .next (s.wrCmd (chBase n + R.CH_CMD) F.CH_CMD_ADEV_CLR) from rfl, State.wrCmd_gate hs, State.chCmd_adevClr]
  exact ⟨_, hexec, s.modChan_answered n _ .host _⟩

/-! ### PAIR_TIMEOUT -/

/-- Device time at the end of a start's T_to, with what the stream may still hold from before it past. -/
def State.atLimit (s : State) (g : GateRec) (p : Int × Bool) : State := s.reach ((g.limit p / 16).toNat + 4096)

/-- The channel that gate g of channel n takes its stops from. -/
def GateRec.stopsOf (n : Ch) (g : GateRec) : Ch := if g.cfg.usesPartner n then chOf g.cfg.pch else n

/-- The queue in which channel n's reducer holds gate g's stops. -/
def Chan.stopQ (n : Ch) (g : GateRec) (c : Chan) : List SItem := if g.cfg.usesPartner n then c.red.partQ else c.red.ownQ

/-- What channel n's reducer works on under its front gate. -/
def Chan.work (c : Chan) : RedWork := { carry := c.red.carry, acc := c.red.acc, out := [] }

/-- The reducer's state after work on its front gate. -/
def Chan.worked (w : RedWork) (c : Chan) : Chan := { c with red := { c.red with carry := w.carry, acc := w.acc } }

/-- No stop at or before the end of the T_to can still come, and the gate does not close first. -/
structure State.LimitMet (n : Ch) (g : GateRec) (p : Int × Bool) (s : State) : Prop where
  queue : (s.chan n).stopQ n g = []
  gate : g.holds (g.limit p + 1) = false
  front : passed ((s.atLimit g p).frontOf (g.stopsOf n)) (g.limit p) = true

theorem State.pairTimeout_idle (h : (s.chan n).gates = [] ∨ (s.chan n).red.carry.firstPending = none) : s.pairTimeout n = s := by
  rw [State.pairTimeout]
  rcases h with h | h
  · rw [h]
  · rw [h]
    cases (s.chan n).gates with
    | nil => rfl
    | cons g gs => rfl

theorem State.pairTimeout_pending (hg : (s.chan n).gates = g :: rest) (hp : (s.chan n).red.carry.firstPending = some p) :
    s.pairTimeout n =
      if g.holds (g.limit p + 1) || !((s.chan n).stopQ n g).isEmpty || !passed ((s.atLimit g p).frontOf (g.stopsOf n)) (g.limit p) then
        s.atLimit g p
      else
        ((s.atLimit g p).setChan n ((s.chan n).worked ((s.chan n).work.expire n g (g.limit p + 1)))).forAll
          ((s.chan n).work.expire n g (g.limit p + 1)).out.reverse (State.redOut n g) := by
  rw [State.pairTimeout]
  simp only [hg, hp]
  refine ite_congr rfl (fun _ => rfl) fun _ => ?_
  simp only [Reduce.apply, State.forAll, List.nil_append, List.foldl_map]
  rw [← hg]
  rfl

/-- Where earlier stops may still come or the gate closes first, only time passes. -/
theorem State.pairTimeout_waits (hg : (s.chan n).gates = g :: rest) (hp : (s.chan n).red.carry.firstPending = some p)
    (h : g.holds (g.limit p + 1) = true ∨ (s.chan n).stopQ n g ≠ [] ∨ passed ((s.atLimit g p).frontOf (g.stopsOf n)) (g.limit p) = false) :
    s.pairTimeout n = s.atLimit g p := by
  rw [State.pairTimeout_pending hg hp, if_pos]
  rcases h with h | h | h <;> simp [h]

theorem State.pairTimeout_expires (hg : (s.chan n).gates = g :: rest) (hp : (s.chan n).red.carry.firstPending = some p) (h : s.LimitMet n g p) :
    s.pairTimeout n = ((s.atLimit g p).setChan n ((s.chan n).worked ((s.chan n).work.expire n g (g.limit p + 1)))).forAll
      ((s.chan n).work.expire n g (g.limit p + 1)).out.reverse (State.redOut n g) := by
  rw [State.pairTimeout_pending hg hp, if_neg]
  simp [h.queue, h.gate, h.front]

/-! ### A dropped start -/

/-- A dropped start is counted and flagged, and its entry queued (R103, R113). -/
theorem State.redOut_timeout (s : State) (n : Ch) (g : GateRec) (e : Entry) :
    (s.redOut n g (.timeout e)).fb (chBase n) F.CH_STAT_TIMEOUT = true ∧
      (s.redOut n g (.timeout e)).pair (chBase n + R.CH_TIMEOUT_H) = (s.pair (chBase n + R.CH_TIMEOUT_H) + 1) % 2 ^ 64 ∧
      (s.redOut n g (.timeout e)).link0.tx.length = s.link0.tx.length + 1 ∧
      (s.sendEntry e).OnlyRegs (s.redOut n g (.timeout e)) [chBase n + R.CH_TIMEOUT_H, chBase n + R.CH_TIMEOUT_H + 4, chBase n + R.CH_STAT] := by
  have heq : s.redOut n g (.timeout e) = ((s.sendEntry e).count (chBase n + R.CH_TIMEOUT_H) 1).raise (chBase n) F.CH_STAT_TIMEOUT := rfl
  rw [heq]
  refine ⟨State.fb_raise _ _ rfl (by decide), ?_, ?_, (State.OnlyRegs.count (.refl _ _) 1 (by simp) (by simp)).raise (by simp)⟩
  · rw [State.raise, State.pair_setF _ (by simp) (by simp), State.pair_count]
    rfl
  · rw [State.raise_link0, State.count_link0]
    exact List.length_append

theorem pairTimeout_drops (hg : (s.chan n).gates = g :: rest) (hp : (s.chan n).red.carry.pend.toList ++ (s.chan n).red.carry.npend = [p])
    (hstop : (s.chan n).red.carry.pend = none → (s.chan n).work.earlierStop g p = none) (h : s.LimitMet n g p) :
    ∃ t, exec (.pairTimeout n) s = .next t ∧ (t.chan n).red.carry.pend = none ∧ (t.chan n).red.carry.npend = [] ∧
      (t.chan n).red.acc.timeouts = (s.chan n).red.acc.timeouts + 1 ∧ t.fb (chBase n) F.CH_STAT_TIMEOUT = true ∧
      t.pair (chBase n + R.CH_TIMEOUT_H) = (s.pair (chBase n + R.CH_TIMEOUT_H) + 1) % 2 ^ 64 ∧
      t.link0.tx.length = s.link0.tx.length + 1 ∧
      (∀ a, a ∉ [chBase n + R.CH_TIMEOUT_H, chBase n + R.CH_TIMEOUT_H + 4, chBase n + R.CH_STAT] → t.w a = s.w a) ∧
      (∀ m : Ch, m ≠ n → t.chan m = s.chan m) ∧ t = { s with regs := t.regs, chans := t.chans, clk := t.clk, link0 := t.link0 } := by
  refine ⟨_, rfl, ?_⟩
  rw [State.pairTimeout_expires hg (Carry.firstPending_of_only hp) h, RedWork.expire_drops hp hstop (Int.lt_succ _)]
  obtain ⟨c, hc⟩ : ∃ c, c = (s.chan n).worked ((s.chan n).work.unpended.timeOut n g p) := ⟨_, rfl⟩
  obtain ⟨e, he⟩ : ∃ e, ((s.chan n).work.unpended.timeOut n g p).out = [.timeout e] := ⟨_, rfl⟩
  rw [← hc, he]
  obtain ⟨hflag, hcount, hqueued, hstands, hwords⟩ := ((s.atLimit g p).setChan n c).redOut_timeout n g e
  have hchan (m : Ch) : (((s.atLimit g p).setChan n c).redOut n g (.timeout e)).chan m = ((s.atLimit g p).setChan n c).chan m := by
    rw [State.chan, hstands]
    rfl
  have hself : (((s.atLimit g p).setChan n c).redOut n g (.timeout e)).chan n = c := by rw [hchan, State.chan_setChan_same]
  refine ⟨?_, ?_, ?_, hflag, ?_, ?_, fun a ha => ?_, fun m hm => ?_, ?_⟩
  · exact congrArg (fun c : Chan => c.red.carry.pend) (hself.trans hc)
  · exact congrArg (fun c : Chan => c.red.carry.npend) (hself.trans hc)
  · exact congrArg (fun c : Chan => c.red.acc.timeouts) (hself.trans hc)
  · rw [State.pair_setChan, State.atLimit, State.pair_reach] at hcount
    exact hcount
  · rw [State.setChan_link0, State.atLimit, State.reach_link0] at hqueued
    exact hqueued
  · exact (hwords a ha).trans (s.w_reach ..)
  · exact (hchan m).trans ((State.chan_setChan_other _ _ hm.symm).trans (s.chan_reach ..))
  · refine hstands.trans ?_
    rw [State.atLimit, s.reach_stands]
    rfl

/-! ### A start paired with an earlier stop -/

theorem pairTimeout_pairs (hg : (s.chan n).gates = g :: rest) (ho : (s.chan n).red.carry.pend = none) (hn : (s.chan n).red.carry.npend = [p])
    (hstop : (s.chan n).work.earlierStop g p = some l) (h : s.LimitMet n g p) (hsrc : ∀ u : Unit16, s.srcEn u 13 = false) :
    ∃ t, exec (.pairTimeout n) s = .next t ∧ (t.chan n).red.carry.npend = [] ∧
      (t.chan n).red.carry.stops = (s.chan n).red.carry.stops.erase l ∧ (t.chan n).red.acc.timeouts = (s.chan n).red.acc.timeouts ∧
      t.pair (chBase n + R.CH_TIMEOUT_H) = s.pair (chBase n + R.CH_TIMEOUT_H) := by
  have hfirst : (s.chan n).red.carry.firstPending = some p := Carry.firstPending_of_only (by rw [ho, hn]; rfl)
  refine ⟨_, rfl, ?_⟩
  rw [State.pairTimeout_expires hg hfirst h, RedWork.expire_pairs ho hn hstop (Int.lt_succ _)]
  obtain ⟨hcarry, htimeouts⟩ := (s.chan n).work.unpended.useStop l |>.pair_keeps n g p l
  have hout := (s.chan n).work.unpended.useStop l |>.pair_out n g p l rfl
  obtain ⟨w, hw⟩ : ∃ w, w = ((s.chan n).work.unpended.useStop l).pair n g p l := ⟨_, rfl⟩
  rw [← hw] at hcarry htimeouts hout ⊢
  obtain ⟨r, hr⟩ : ∃ r, r = (s.atLimit g p).setChan n ((s.chan n).worked w) := ⟨_, rfl⟩
  have hquiet (u : Unit16) : r.srcEn u 13 = false := by
    rw [← hsrc u, hr, State.srcEn, State.tuA, State.f_setChan, State.atLimit, State.f_reach]
    rfl
  have hmeas := State.redOuts_measured hquiet (fun o ho => hout o (List.mem_reverse.1 ho)) n g
  have hself : (r.forAll w.out.reverse (State.redOut n g)).chan n = (s.chan n).worked w := by
    rw [hmeas.chan, hr, State.chan_setChan_same]
  rw [← hr, hself]
  refine ⟨congrArg Carry.npend hcarry, congrArg Carry.stops hcarry, htimeouts, ?_⟩
  rw [hmeas.pair_timeout, hr, State.pair_setChan, State.atLimit, State.pair_reach]

/-- Settles O27: each clause is the lemma of its command and of the pending start's state above. -/
theorem functionCommandsTouchOnlyTheReducer : Obligations.FunctionCommandsTouchOnlyTheReducer := by
  unfold Obligations.FunctionCommandsTouchOnlyTheReducer
  refine ⟨fun s n hs => tieRst_anchors hs n, fun s n hs => adevDump_marks hs n, fun s n hs => ?_,
    fun s n g rest p hg hp hstop hq hgate hfront => pairTimeout_drops hg hp hstop ⟨hq, hgate, hfront⟩,
    fun s n g rest p l hg ho hn hstop hq hgate hfront hsrc => pairTimeout_pairs hg ho hn hstop ⟨hq, hgate, hfront⟩ hsrc,
    fun s n h => ⟨_, rfl, State.pairTimeout_idle h⟩, fun s n g rest p hg hp h => ⟨_, rfl, State.pairTimeout_waits hg hp ?_⟩⟩
  · obtain ⟨t, ht, hchan, hothers, hstands⟩ := adevClr_clears hs n
    exact ⟨t, ht, by rw [hchan]; rfl, by rw [hchan]; rfl, hchan, hothers, hstands⟩
  · exact h

end Sys2Proof.Machine
end

section
/-!
SUPPORT. What Mordant puts out (R136-R140): the words, counters, credits and links that each output touches, and what
a sequence of outputs leaves.
-/

namespace Sys2Proof.Machine

variable {s t u : State} {n : Ch} {m : Mord} {o : MOut} {os : List MOut} {a k x : Nat} {l : List Nat}

/-! ### A committed hit (R136, R170) -/

/-- Where, in its channel's block, a hit puts its deviation, its extras and its bin. -/
def hitOffs : List Nat :=
  [R.CH_MD_XSUM_H, R.CH_MD_XSUM_H + 4, R.CH_MD_DSUM_H, R.CH_MD_DSUM_H + 4, R.CH_MD_DSQ_H, R.CH_MD_DSQ_H + 4, R.CH_MD_DMIN, R.CH_MD_DMAX,
    R.CH_HG_UEL_H, R.CH_HG_UEL_H + 4, R.CH_HG_STAT, R.CH_HG_TOT_H, R.CH_HG_TOT_H + 4, R.CH_HG_NOSINK_H, R.CH_HG_NOSINK_H + 4]

/-- The words of a hit's deviation and the Lake may differ, and nothing else. -/
structure State.HitShown (n : Ch) (s t : State) : Prop where
  stands : t = { s with regs := t.regs, lake := t.lake, lakeUE := t.lakeUE, lakeCE := t.lakeCE }
  words : ∀ a, a ∉ hitOffs.map (chBase n + ·) → t.w a = s.w a

namespace State.HitShown

theorem refl (n : Ch) (s : State) : s.HitShown n s := ⟨rfl, fun _ _ => rfl⟩

theorem trans (h : s.HitShown n t) (k : t.HitShown n u) : s.HitShown n u :=
  ⟨by rw [k.stands, h.stands], fun a ha => (k.words a ha).trans (h.words a ha)⟩

theorem setW (h : s.HitShown n t) (w : Word) (hx : x ∈ hitOffs) : s.HitShown n (t.setW (chBase n + x) w) :=
  h.trans ⟨rfl, fun _ ha => t.w_setW_other w fun he => ha (List.mem_map.2 ⟨x, hx, he⟩)⟩

theorem setF (h : s.HitShown n t) {f : Fld} (v : Nat) (hf : f.addr ∈ hitOffs) : s.HitShown n (t.setF (chBase n) f v) := h.setW _ hf

theorem setPair (h : s.HitShown n t) (v : Nat) (hx : x ∈ hitOffs) (hx' : x + 4 ∈ hitOffs) : s.HitShown n (t.setPair (chBase n + x) v) := by
  have h4 := (h.setW (BitVec.ofNat 32 (v / 2 ^ 32)) hx).setW (BitVec.ofNat 32 v) hx'
  rw [← Nat.add_assoc] at h4
  exact h4

theorem count (h : s.HitShown n t) (v : Nat) (hx : x ∈ hitOffs) (hx' : x + 4 ∈ hitOffs) : s.HitShown n (t.count (chBase n + x) v) :=
  h.setPair _ hx hx'

theorem chan (h : s.HitShown n t) (c : Ch) : t.chan c = s.chan c := by rw [State.chan, h.stands, State.chan]

end State.HitShown

theorem State.bumpBin_hitShown (s : State) (n : Ch) (a : Nat) : s.HitShown n (s.bumpBin n a) := by
  unfold State.bumpBin
  dsimp only
  split
  · exact .setF (.count (.refl n s) _ (by decide) (by decide)) _ (by decide)
  · split
    · exact .setF (.refl n s) _ (by decide)
    · split
      · exact ⟨rfl, fun _ _ => rfl⟩
      · exact ⟨rfl, fun _ _ => rfl⟩

theorem State.histUpdate_hitShown (s : State) (n : Ch) (v e : Int) : s.HitShown n (s.histUpdate n v e) := by
  unfold State.histUpdate
  dsimp only
  split
  · exact .refl n s
  · refine .count ?_ _ (by decide) (by decide)
    split
    · exact .refl n s
    · exact s.bumpBin_hitShown n _

/-- A hit counts in CH_MD_HIT and in the channel's number of deviations, and shows its deviation. -/
theorem State.commitHit_shown (s : State) (n : Ch) (dev edge : Int) (lake : Bool) (extras : Nat) :
    ∃ v, (s.count (chBase n + R.CH_MD_HIT_H) 1).HitShown n v ∧
      (v.modChan n fun c => { c with devN := c.devN + 1 }).HitShown n (s.commitHit n dev edge lake extras) := by
  refine ⟨((s.count (chBase n + R.CH_MD_HIT_H) 1).count (chBase n + R.CH_MD_XSUM_H) extras).addPair (chBase n + R.CH_MD_DSUM_H) dev,
    .setPair (.count (.refl n _) _ (by decide) (by decide)) _ (by decide) (by decide), ?_⟩
  unfold State.commitHit
  extract_lets b s1 s2 s3 s4 s5
  have hsq : s2.HitShown n s3 := .setPair (.refl n _) _ (by decide) (by decide)
  have hmin : s3.HitShown n s4 := by
    unfold s4
    split
    · exact .setF (.refl n _) _ (by decide)
    · exact .refl n _
  have hmax : s4.HitShown n s5 := by
    unfold s5
    split
    · exact .setF (.refl n _) _ (by decide)
    · exact .refl n _
  refine hsq.trans (hmin.trans (hmax.trans ?_))
  split
  · exact .refl n _
  · split
    · exact s5.histUpdate_hitShown n dev edge
    · exact .setF (.count (.refl n _) _ (by decide) (by decide)) _ (by decide)

theorem State.commitHit_chan (s : State) (n : Ch) (dev edge : Int) (lake : Bool) (extras : Nat) :
    (s.commitHit n dev edge lake extras).chan n = { s.chan n with devN := (s.chan n).devN + 1 } := by
  obtain ⟨v, hv, hshown⟩ := s.commitHit_shown n dev edge lake extras
  rw [hshown.chan, State.chan_modChan_same, hv.chan, State.chan_count]

theorem State.commitHit_chan_other {c : Ch} (s : State) (h : c ≠ n) (dev edge : Int) (lake : Bool) (extras : Nat) :
    (s.commitHit n dev edge lake extras).chan c = s.chan c := by
  obtain ⟨v, hv, hshown⟩ := s.commitHit_shown n dev edge lake extras
  rw [hshown.chan, State.chan_modChan_other _ _ h.symm, hv.chan, State.chan_count]

/-- Outside the words of its deviation a hit counts, and no more. -/
theorem State.w_commitHit (s : State) (ha : a ∉ hitOffs.map (chBase n + ·)) (dev edge : Int) (lake : Bool) (extras : Nat) :
    (s.commitHit n dev edge lake extras).w a = (s.count (chBase n + R.CH_MD_HIT_H) 1).w a := by
  obtain ⟨v, hv, hshown⟩ := s.commitHit_shown n dev edge lake extras
  rw [hshown.words a ha, State.w_modChan, hv.words a ha]

/-! ### What each output adds -/

/-- What an output adds to the counter at offset `k` of its channel's block (R136). -/
def MOut.adds (k : Nat) : MOut → Nat
  | .hit .. => if k = R.CH_MD_HIT_H then 1 else 0
  | .miss => if k = R.CH_MD_MISS_H then 1 else 0
  | .extra => if k = R.CH_MD_EXTRA_H then 1 else 0
  | .late => if k = R.CH_MD_LATE_H then 1 else 0
  | .withdrawn j => if k = R.CH_MD_WDRAW_H then j else 0
  | _ => 0

/-- The credits that an output returns (R122). -/
def MOut.credit : MOut → Nat
  | .creditReturn => 1
  | _ => 0

/-- Where, in its channel's block, an output may write, beside CH_MD_STAT. -/
def MOut.offs : MOut → List Nat
  | .hit .. => R.CH_MD_HIT_H :: (R.CH_MD_HIT_H + 4) :: hitOffs
  | .miss => [R.CH_MD_MISS_H, R.CH_MD_MISS_H + 4]
  | .extra => [R.CH_MD_EXTRA_H, R.CH_MD_EXTRA_H + 4]
  | .late => [R.CH_MD_LATE_H, R.CH_MD_LATE_H + 4, R.CH_STAT]
  | .polSuspect => [R.CH_STAT]
  | .withdrawn _ => [R.CH_MD_WDRAW_H, R.CH_MD_WDRAW_H + 4]
  | _ => []

/-- What a sequence of outputs adds to the counter at offset `k`, and the credits it returns. -/
def addedTo (k : Nat) (os : List MOut) : Nat := (os.map (MOut.adds k)).sum
def creditsOf (os : List MOut) : Nat := (os.map MOut.credit).sum

@[simp] theorem addedTo_nil (k : Nat) : addedTo k [] = 0 := rfl
@[simp] theorem addedTo_cons (k : Nat) (o : MOut) (os : List MOut) : addedTo k (o :: os) = o.adds k + addedTo k os := rfl
@[simp] theorem addedTo_append (k : Nat) (os os' : List MOut) : addedTo k (os ++ os') = addedTo k os + addedTo k os' := by
  simp [addedTo]
@[simp] theorem creditsOf_nil : creditsOf [] = 0 := rfl
@[simp] theorem creditsOf_cons (o : MOut) (os : List MOut) : creditsOf (o :: os) = o.credit + creditsOf os := rfl
@[simp] theorem creditsOf_append (os os' : List MOut) : creditsOf (os ++ os') = creditsOf os + creditsOf os' := by simp [creditsOf]

/-- The counters of a channel's Mordant that its outputs move. -/
def mdCounters : List Nat := [R.CH_MD_HIT_H, R.CH_MD_MISS_H, R.CH_MD_EXTRA_H, R.CH_MD_LATE_H, R.CH_MD_WDRAW_H]

theorem State.pair_lt (s : State) (a : Nat) : s.pair a < 2 ^ 64 := by
  have hhigh := (s.w a).isLt
  have hlow := (s.w (a + 4)).isLt
  unfold State.pair
  omega

/-- Counters of one block that lie apart count apart. -/
theorem State.pair_count_chan (s : State) (n : Ch) (j : Nat) (hk : k ∈ mdCounters) (hx : x ∈ mdCounters) :
    (s.count (chBase n + x) j).pair (chBase n + k) = (s.pair (chBase n + k) + if k = x then j else 0) % 2 ^ 64 := by
  have happart : ∀ k ∈ mdCounters, ∀ x ∈ mdCounters, k ≠ x → x + 4 < k ∨ k + 4 < x := by decide
  by_cases h : k = x
  · rw [h, State.pair_count, if_pos rfl]
  · have := happart k hk x hx h
    rw [State.count, State.pair_setPair_apart _ _ (by omega), if_neg h, Nat.add_zero, Nat.mod_eq_of_lt (s.pair_lt _)]

/-- An output's words and those of its counters are offsets of its channel's block. -/
theorem not_mem_offs (hk : k ∉ l) (n : Ch) : chBase n + k ∉ l.map (chBase n + ·) := by
  rw [List.mem_map]
  rintro ⟨y, hy, he⟩
  exact hk (by rwa [← Nat.add_left_cancel he])

theorem off_ne_low (n : Ch) (h : k + 4 ≠ x) : chBase n + x ≠ chBase n + k + 4 := by omega

/-! ### One output -/

theorem State.mordOut_verdict (s : State) (n : Ch) (w0 w1 : BitVec 64) : s.mordOut n (.verdict w0 w1) =
    s.forAll (s.verdictLinks n) fun l s => s.send l .msg (bytesBE 8 w0.toNat ++ bytesBE 8 w1.toNat) .none := rfl
theorem State.mordOut_late (s : State) (n : Ch) :
    s.mordOut n .late = (s.count (chBase n + R.CH_MD_LATE_H) 1).raise (chBase n) F.CH_STAT_LATE_DESC := rfl

/-- A channel one more credit of which is owed. -/
def Chan.owe (now : Nat) (c : Chan) : Chan :=
  { c with mord := { c.mord with owed := c.mord.owed + 1, owedSince := some (c.mord.owedSince.getD now) } }

theorem State.mordOut_creditReturn (s : State) (n : Ch) : s.mordOut n .creditReturn = s.modChan n (Chan.owe s.now) := rfl

/-- Registers, channels, the Lake and the links' queues may differ, and nothing else. -/
def State.OnlyOutputs (s t : State) : Prop :=
  t = { s with regs := t.regs, chans := t.chans, lake := t.lake, lakeUE := t.lakeUE, lakeCE := t.lakeCE, link0 := t.link0, link1 := t.link1 }

namespace State.OnlyOutputs

theorem refl (s : State) : s.OnlyOutputs s := rfl

theorem trans (h : s.OnlyOutputs t) (k : t.OnlyOutputs u) : s.OnlyOutputs u := by
  rw [State.OnlyOutputs] at *
  rw [k, h]

theorem setW (h : s.OnlyOutputs t) (a : Nat) (w : Word) : s.OnlyOutputs (t.setW a w) := h.trans rfl
theorem setF (h : s.OnlyOutputs t) (b : Nat) (f : Fld) (v : Nat) : s.OnlyOutputs (t.setF b f v) := h.setW ..
theorem count (h : s.OnlyOutputs t) (a j : Nat) : s.OnlyOutputs (t.count a j) := .setW (.setW h ..) ..
theorem modChan (h : s.OnlyOutputs t) (n : Ch) (g : Chan → Chan) : s.OnlyOutputs (t.modChan n g) := h.trans rfl
theorem hitShown (h : s.OnlyOutputs t) (k : t.HitShown n u) : s.OnlyOutputs u := h.trans (by rw [State.OnlyOutputs, k.stands])

end State.OnlyOutputs

theorem State.commitHit_onlyOutputs (s : State) (n : Ch) (dev edge : Int) (lake : Bool) (extras : Nat) :
    s.OnlyOutputs (s.commitHit n dev edge lake extras) ∧ (s.commitHit n dev edge lake extras).link0 = s.link0 ∧
      (s.commitHit n dev edge lake extras).link1 = s.link1 := by
  obtain ⟨v, hv, hshown⟩ := s.commitHit_shown n dev edge lake extras
  refine ⟨.hitShown (.modChan (.hitShown (.count (.refl s) _ _) hv) ..) hshown, ?_, ?_⟩
  · rw [hshown.stands, State.modChan, State.setChan_link0, hv.stands, State.count_link0]
  · rw [hshown.stands, State.modChan, State.setChan_link1, hv.stands, State.count_link1]

/-- A verdict goes to links, and changes nothing else (R139). -/
theorem State.send_stands (s : State) (l : Link) (c : FClass) (bytes : List Byte) (tag : TxTag) :
    s.send l c bytes tag = { s with link0 := (s.send l c bytes tag).link0, link1 := (s.send l c bytes tag).link1 } := by
  cases l <;> rfl

theorem State.verdict_stands (s : State) (n : Ch) (w0 w1 : BitVec 64) : s.mordOut n (.verdict w0 w1) =
    { s with link0 := (s.mordOut n (.verdict w0 w1)).link0, link1 := (s.mordOut n (.verdict w0 w1)).link1 } := by
  rw [State.mordOut_verdict]
  exact State.forAll_rel (rel := fun a b => b = { a with link0 := b.link0, link1 := b.link1 }) (fun _ => rfl)
    (fun h k => by rw [k, h]) (fun l _ x => x.send_stands l _ _ _) s

/-- Other outputs stay with registers and channels. -/
theorem State.mordOut_onlyChans (s : State) (n : Ch) (hv : ∀ w0 w1, o ≠ .verdict w0 w1) (hh : o.adds R.CH_MD_HIT_H = 0) :
    s.OnlyChans (s.mordOut n o) := by
  cases o with
  | verdict w0 w1 => exact absurd rfl (hv w0 w1)
  | hit => simp [MOut.adds] at hh
  | miss => exact .count (.refl s) ..
  | extra => exact .count (.refl s) ..
  | late => exact .setF (.count (.refl s) ..) ..
  | logFull => exact .setF (.refl s) ..
  | polSuspect => exact .setF (.refl s) ..
  | creditReturn => exact .setChan (.refl s) ..
  | withdrawn j => exact .count (.refl s) ..

theorem State.mordOut_onlyOutputs (s : State) (n : Ch) (o : MOut) : s.OnlyOutputs (s.mordOut n o) := by
  by_cases hv : ∃ w0 w1, o = .verdict w0 w1
  · obtain ⟨w0, w1, rfl⟩ := hv
    rw [State.OnlyOutputs, State.verdict_stands]
  · by_cases hh : o.adds R.CH_MD_HIT_H = 0
    · have h := s.mordOut_onlyChans n (fun w0 w1 ho => hv ⟨w0, w1, ho⟩) hh
      rw [State.OnlyOutputs, h]
    · cases o with
      | hit dev edge lake extras => exact (s.commitHit_onlyOutputs ..).1
      | _ => exact absurd rfl hh

/-- Without a hit the Lake stands (R170). -/
theorem State.mordOut_lake (s : State) (n : Ch) (h : o.adds R.CH_MD_HIT_H = 0) :
    (s.mordOut n o).lake = s.lake ∧ (s.mordOut n o).lakeUE = s.lakeUE ∧ (s.mordOut n o).lakeCE = s.lakeCE := by
  by_cases hv : ∃ w0 w1, o = .verdict w0 w1
  · obtain ⟨w0, w1, rfl⟩ := hv
    rw [State.verdict_stands]
    exact ⟨rfl, rfl, rfl⟩
  · rw [s.mordOut_onlyChans n (fun w0 w1 ho => hv ⟨w0, w1, ho⟩) h]
    exact ⟨rfl, rfl, rfl⟩

/-- Only verdicts go to links. -/
theorem State.mordOut_links (s : State) (n : Ch) (hv : ∀ w0 w1, o ≠ .verdict w0 w1) :
    (s.mordOut n o).link0 = s.link0 ∧ (s.mordOut n o).link1 = s.link1 := by
  by_cases hh : o.adds R.CH_MD_HIT_H = 0
  · rw [s.mordOut_onlyChans n hv hh]
    exact ⟨rfl, rfl⟩
  · cases o with
    | hit dev edge lake extras => exact (s.commitHit_onlyOutputs ..).2
    | _ => exact absurd rfl hh

/-- What an output makes of its channel: it moves the credits owed and the number of deviations. -/
def Chan.afterOut (o : MOut) (since : Option Nat) (c : Chan) : Chan :=
  { c with mord := { c.mord with owed := c.mord.owed + o.credit, owedSince := since }, devN := c.devN + o.adds R.CH_MD_HIT_H }

theorem State.chan_mordOut (s : State) (n : Ch) (o : MOut) : ∃ x, (s.mordOut n o).chan n = (s.chan n).afterOut o x := by
  have hsame {t : State} (ho : o.credit = 0 ∧ o.adds R.CH_MD_HIT_H = 0) (h : t.chan n = s.chan n) :
      ∃ x, t.chan n = (s.chan n).afterOut o x := ⟨(s.chan n).mord.owedSince, by rw [h, Chan.afterOut, ho.1, ho.2]; rfl⟩
  cases o with
  | verdict w0 w1 => exact hsame ⟨rfl, rfl⟩ (by rw [State.verdict_stands]; rfl)
  | hit dev edge lake extras => exact ⟨(s.chan n).mord.owedSince, s.commitHit_chan n dev edge lake extras⟩
  | miss => exact hsame ⟨rfl, rfl⟩ (s.chan_count ..)
  | extra => exact hsame ⟨rfl, rfl⟩ (s.chan_count ..)
  | late => exact hsame ⟨rfl, rfl⟩ (by rw [State.mordOut_late, State.chan_raise, State.chan_count])
  | logFull => exact hsame ⟨rfl, rfl⟩ (s.chan_raise ..)
  | polSuspect => exact hsame ⟨rfl, rfl⟩ (s.chan_raise ..)
  | creditReturn => exact ⟨_, s.chan_modChan_same n _⟩
  | withdrawn j => exact hsame ⟨rfl, rfl⟩ (s.chan_count ..)

theorem State.chan_mordOut_other {c : Ch} (s : State) (h : c ≠ n) (o : MOut) : (s.mordOut n o).chan c = s.chan c := by
  cases o with
  | verdict w0 w1 => rw [State.verdict_stands]; rfl
  | hit dev edge lake extras => exact s.commitHit_chan_other h dev edge lake extras
  | miss => exact s.chan_count ..
  | extra => exact s.chan_count ..
  | late => rw [State.mordOut_late, State.chan_raise, State.chan_count]
  | logFull => exact s.chan_raise ..
  | polSuspect => exact s.chan_raise ..
  | creditReturn => exact s.chan_modChan_other _ h.symm
  | withdrawn j => exact s.chan_count ..

/-- An output writes its own words and CH_MD_STAT alone. -/
theorem State.w_mordOut (s : State) (hstat : a ≠ chBase n + R.CH_MD_STAT) (ha : a ∉ o.offs.map (chBase n + ·)) :
    (s.mordOut n o).w a = s.w a := by
  have hcount (x j : Nat) (hx : a ∉ [x, x + 4].map (chBase n + ·)) : (s.count (chBase n + x) j).w a = s.w a := s.w_count_other hx
  cases o with
  | verdict w0 w1 => rw [State.verdict_stands]; rfl
  | hit dev edge lake extras =>
    simp only [MOut.offs, List.map_cons, List.mem_cons, not_or] at ha
    exact (s.w_commitHit ha.2.2 dev edge lake extras).trans (hcount _ _ (by simp [ha]))
  | miss => exact hcount _ _ ha
  | extra => exact hcount _ _ ha
  | late =>
    simp only [MOut.offs, List.map_cons, List.map_nil, List.mem_cons, List.not_mem_nil, or_false, not_or] at ha
    exact (State.w_setF_other _ (Ne.symm ha.2.2)).trans (hcount _ _ (by simp [ha]))
  | logFull => exact s.w_setF_other hstat.symm
  | polSuspect => exact s.w_setF_other (by simpa [MOut.offs, eq_comm] using ha)
  | creditReturn => rfl
  | withdrawn j => exact hcount _ _ ha

/-- An output moves its own counter. -/
theorem State.pair_mordOut (s : State) (n : Ch) (hk : k ∈ mdCounters) (o : MOut) :
    (s.mordOut n o).pair (chBase n + k) = (s.pair (chBase n + k) + o.adds k) % 2 ^ 64 := by
  have hne : ∀ k ∈ mdCounters, k ≠ R.CH_STAT ∧ k + 4 ≠ R.CH_STAT ∧ k ≠ R.CH_MD_STAT ∧ k + 4 ≠ R.CH_MD_STAT ∧ k ∉ hitOffs ∧ k + 4 ∉ hitOffs := by
    decide
  obtain ⟨hs, hs4, hm, hm4, hh, hh4⟩ := hne k hk
  have hsame (v : State) (hv : v.w (chBase n + k) = s.w (chBase n + k)) (hv4 : v.w (chBase n + k + 4) = s.w (chBase n + k + 4)) :
      v.pair (chBase n + k) = (s.pair (chBase n + k) + 0) % 2 ^ 64 := by
    rw [Nat.add_zero, Nat.mod_eq_of_lt (s.pair_lt _), State.pair, hv, hv4, State.pair]
  cases o with
  | verdict w0 w1 =>
    rw [State.verdict_stands]
    exact hsame _ rfl rfl
  | hit dev edge lake extras =>
    refine Eq.trans ?_ (s.pair_count_chan n 1 hk (x := R.CH_MD_HIT_H) (by decide))
    rw [State.pair, State.pair, show s.mordOut n (.hit dev edge lake extras) = s.commitHit n dev edge lake extras from rfl,
      s.w_commitHit (not_mem_offs hh n), Nat.add_assoc, s.w_commitHit (not_mem_offs hh4 n)]
  | miss => exact s.pair_count_chan n 1 hk (by decide)
  | extra => exact s.pair_count_chan n 1 hk (by decide)
  | late => exact (State.pair_setF _ (by simpa using hs.symm) (off_ne_low n hs4)).trans (s.pair_count_chan n 1 hk (by decide))
  | logFull => exact hsame _ (s.w_setF_other (by simpa using hm.symm)) (s.w_setF_other (off_ne_low n hm4))
  | polSuspect => exact hsame _ (s.w_setF_other (by simpa using hs.symm)) (s.w_setF_other (off_ne_low n hs4))
  | creditReturn => exact hsame _ rfl rfl
  | withdrawn j => exact s.pair_count_chan n j hk (by decide)

/-- LATE_DESC is set by its output, and cleared by none (R127). -/
theorem State.fb_mordOut_late (s : State) (n : Ch) (h : o = .late ∨ s.fb (chBase n) F.CH_STAT_LATE_DESC = true) :
    (s.mordOut n o).fb (chBase n) F.CH_STAT_LATE_DESC = true := by
  by_cases hlate : o = .late
  · rw [hlate]
    exact State.fb_raise _ _ rfl (by decide)
  · have hs := h.resolve_left hlate
    by_cases hpol : o = .polSuspect
    · rw [hpol]
      exact (State.fb_raise_of_apart _ _ (by decide)).trans hs
    · rw [State.fb, State.f, State.w_mordOut, ← State.f, ← State.fb, hs]
      · simp
      · refine not_mem_offs ?_ n
        cases o <;> simp_all [MOut.offs, hitOffs]

/-! ### A sequence of outputs -/

/-- Mordant's data `m` has been put in place on channel n, and its outputs `os` sent. -/
structure State.Emitted (n : Ch) (m : Mord) (os : List MOut) (s t : State) : Prop where
  stands : s.OnlyOutputs t
  own : ∃ x, t.chan n = { s.chan n with
    mord := { m with owed := m.owed + creditsOf os, owedSince := x }, devN := (s.chan n).devN + addedTo R.CH_MD_HIT_H os }
  others : ∀ c : Ch, c ≠ n → t.chan c = s.chan c
  words : ∀ a, a ≠ chBase n + R.CH_MD_STAT → (∀ o ∈ os, a ∉ o.offs.map (chBase n + ·)) → t.w a = s.w a
  counted : ∀ k ∈ mdCounters, t.pair (chBase n + k) = (s.pair (chBase n + k) + addedTo k os) % 2 ^ 64
  lake : addedTo R.CH_MD_HIT_H os = 0 → t.lake = s.lake ∧ t.lakeUE = s.lakeUE ∧ t.lakeCE = s.lakeCE
  links : (∀ w0 w1, .verdict w0 w1 ∉ os) → t.link0 = s.link0 ∧ t.link1 = s.link1
  late : .late ∈ os → t.fb (chBase n) F.CH_STAT_LATE_DESC = true

namespace State.Emitted

theorem placed (s : State) (n : Ch) (m : Mord) : s.Emitted n m [] (s.modChan n fun c => { c with mord := m }) where
  stands := rfl
  own := ⟨m.owedSince, s.chan_modChan_same n _⟩
  others _ hc := s.chan_modChan_other _ hc.symm
  words _ _ _ := rfl
  counted k _ := by
    rw [addedTo_nil, Nat.add_zero, Nat.mod_eq_of_lt (s.pair_lt _), State.modChan, State.pair_setChan]
  lake _ := ⟨rfl, rfl, rfl⟩
  links _ := ⟨rfl, rfl⟩
  late h := absurd h List.not_mem_nil

theorem mordOut (h : s.Emitted n m os t) (o : MOut) : s.Emitted n m (os ++ [o]) (t.mordOut n o) where
  stands := h.stands.trans (t.mordOut_onlyOutputs n o)
  own := by
    obtain ⟨x, hx⟩ := h.own
    obtain ⟨y, hy⟩ := t.chan_mordOut n o
    refine ⟨y, ?_⟩
    rw [hy, hx, Chan.afterOut, creditsOf_append, addedTo_append]
    simp only [creditsOf_cons, creditsOf_nil, addedTo_cons, addedTo_nil, Nat.add_zero, Nat.add_assoc]
  others c hc := (t.chan_mordOut_other hc o).trans (h.others c hc)
  words a hstat ha := (t.w_mordOut hstat (ha o (by simp))).trans (h.words a hstat fun o' ho' => ha o' (by simp [ho']))
  counted k hk := by
    rw [t.pair_mordOut n hk, h.counted k hk]
    simp [Nat.add_assoc]
  lake hhit := by
    simp only [addedTo_append, addedTo_cons, addedTo_nil, Nat.add_zero, Nat.add_eq_zero_iff] at hhit
    obtain ⟨hl, hu, hc⟩ := h.lake hhit.1
    obtain ⟨hl', hu', hc'⟩ := t.mordOut_lake n hhit.2
    exact ⟨hl'.trans hl, hu'.trans hu, hc'.trans hc⟩
  links hv := by
    obtain ⟨h0, h1⟩ := h.links fun w0 w1 hm => hv w0 w1 (by simp [hm])
    obtain ⟨h0', h1'⟩ := t.mordOut_links n (o := o) fun w0 w1 ho => hv w0 w1 (by simp [ho])
    exact ⟨h0'.trans h0, h1'.trans h1⟩
  late hm := by
    refine t.fb_mordOut_late n ?_
    rcases List.mem_append.1 hm with hm | hm
    · exact .inr (h.late hm)
    · exact .inl (by simpa [eq_comm] using hm)

theorem forAll (h : s.Emitted n m os t) (os' : List MOut) : s.Emitted n m (os ++ os') (t.forAll os' fun o v => v.mordOut n o) := by
  induction os' generalizing os t with
  | nil => simpa [State.forAll] using h
  | cons o l ih => simpa [State.forAll] using ih (h.mordOut o)

/-- The generation is shown in CH_MD_STAT alone. -/
theorem showGen (h : s.Emitted n m os t) : s.Emitted n m os (t.showGen n) := by
  have hw {a : Nat} (ha : a ≠ chBase n + R.CH_MD_STAT) : (t.showGen n).w a = t.w a := t.w_setF_other ha.symm
  exact {
    stands := h.stands.trans rfl
    own := h.own
    others := h.others
    words := fun a hstat ha => (hw hstat).trans (h.words a hstat ha)
    counted := fun k hk => by
      have hne : ∀ k ∈ mdCounters, k ≠ R.CH_MD_STAT ∧ k + 4 ≠ R.CH_MD_STAT := by decide
      obtain ⟨hk0, hk4⟩ := hne k hk
      rw [← h.counted k hk]
      exact t.pair_setF (by simpa using hk0.symm) (off_ne_low n hk4)
    lake := h.lake
    links := h.links
    late := fun hm => (t.fb_setF_other (by simp)).trans (h.late hm) }

/-- The generation as CH_MD_STAT shows it. -/
theorem gen_shown (h : s.Emitted n m os t) (hg : m.gen < 16) : (t.showGen n).f (chBase n) F.CH_MD_STAT_GEN = m.gen := by
  obtain ⟨x, hx⟩ := h.own
  rw [State.showGen, State.f_setF _ _ _ _ (by decide), hx]
  exact Nat.mod_eq_of_lt hg

/-! What channel n holds then: the new data, but for the credits owed. -/

theorem exps_eq (h : s.Emitted n m os t) : (t.chan n).mord.exps = m.exps := by obtain ⟨x, hx⟩ := h.own; rw [hx]
theorem free_eq (h : s.Emitted n m os t) : (t.chan n).mord.free = m.free := by obtain ⟨x, hx⟩ := h.own; rw [hx]
theorem queue_eq (h : s.Emitted n m os t) : (t.chan n).mord.queue = m.queue := by obtain ⟨x, hx⟩ := h.own; rw [hx]
theorem input_eq (h : s.Emitted n m os t) : (t.chan n).mord.input = m.input := by obtain ⟨x, hx⟩ := h.own; rw [hx]
theorem front_eq (h : s.Emitted n m os t) : (t.chan n).mord.front = m.front := by obtain ⟨x, hx⟩ := h.own; rw [hx]
theorem gen_eq (h : s.Emitted n m os t) : (t.chan n).mord.gen = m.gen := by obtain ⟨x, hx⟩ := h.own; rw [hx]
theorem expSeq_eq (h : s.Emitted n m os t) : (t.chan n).mord.expSeq = m.expSeq := by obtain ⟨x, hx⟩ := h.own; rw [hx]
theorem owed_eq (h : s.Emitted n m os t) : (t.chan n).mord.owed = m.owed + creditsOf os := by obtain ⟨x, hx⟩ := h.own; rw [hx]
theorem devN_eq (h : s.Emitted n m os t) : (t.chan n).devN = (s.chan n).devN + addedTo R.CH_MD_HIT_H os := by
  obtain ⟨x, hx⟩ := h.own
  rw [hx]

/-! What the outputs leave where they are few. -/

theorem clk (h : s.Emitted n m os t) : t.clk = s.clk := by rw [h.stands]
theorem vat (h : s.Emitted n m os t) : t.vat = s.vat := by rw [h.stands]

/-- Without a hit the Lake stands. -/
theorem lakeless (h : s.Emitted n m os t) (hhit : addedTo R.CH_MD_HIT_H os = 0) :
    t = { s with regs := t.regs, chans := t.chans, link0 := t.link0, link1 := t.link1 } := by
  obtain ⟨hl, hu, hc⟩ := h.lake hhit
  have hs := h.stands
  rw [State.OnlyOutputs, hl, hu, hc] at hs
  exact hs

/-- Credits alone change registers and channels only. -/
theorem silent (h : s.Emitted n m os t) (hos : ∀ o ∈ os, o = .creditReturn) :
    (∀ a, a ≠ chBase n + R.CH_MD_STAT → t.w a = s.w a) ∧ t = { s with regs := t.regs, chans := t.chans } := by
  have hhit : addedTo R.CH_MD_HIT_H os = 0 := List.sum_eq_zero fun x hx => by
    obtain ⟨o, ho, rfl⟩ := List.mem_map.1 hx
    rw [hos o ho]
    rfl
  obtain ⟨h0, h1⟩ := h.links fun w0 w1 hm => by simpa using hos _ hm
  refine ⟨fun a ha => h.words a ha fun o ho => by rw [hos o ho]; exact List.not_mem_nil, ?_⟩
  have hs := h.lakeless hhit
  rw [h0, h1] at hs
  exact hs

end State.Emitted

theorem State.mordSet_emitted (s : State) (n : Ch) (r : Mord × List MOut) : s.Emitted n r.1 r.2 (s.mordSet n r) :=
  ((State.Emitted.placed s n r.1).forAll r.2).showGen

theorem State.mordSet_gen (s : State) (n : Ch) (r : Mord × List MOut) (hg : r.1.gen < 16) :
    (s.mordSet n r).f (chBase n) F.CH_MD_STAT_GEN = r.1.gen :=
  ((State.Emitted.placed s n r.1).forAll r.2).gen_shown hg

/-- Mordant's data put back as it stands leaves every channel. -/
theorem State.mordSet_same (s : State) (n : Ch) (m : Mord) (h : m = (s.chan n).mord) :
    (s.mordSet n (m, [])).chans = s.chans := by
  rw [h, State.mordSet, State.showGen, State.setF_chans]
  exact congrArg State.chans (s.setChan_self n)

/-! ### An operation of Mordant (R139) -/

theorem State.runMord_runs {op : MdCfg → Mord → Mord × List MOut} (he : s.fb (chBase n) F.CH_MD_CTL_EN = true)
    (hs : s.mordantStalls n = false) : s.runMord n op = s.mordSet n (op (s.mdCfg n) (s.chan n).mord) := by
  rw [State.runMord, he, hs]
  rfl

theorem State.runMord_disabled {op : MdCfg → Mord → Mord × List MOut} (he : s.fb (chBase n) F.CH_MD_CTL_EN = false) :
    s.runMord n op = s := by
  rw [State.runMord, he]
  rfl

theorem State.runMord_stalled {op : MdCfg → Mord → Mord × List MOut} (hs : s.mordantStalls n = true) : s.runMord n op = s := by
  rw [State.runMord, hs, Bool.or_true]
  rfl

end Sys2Proof.Machine
end

section
/-!
SUPPORT. Mordant's log and table (R121-R132): what a seal, an ageing, a forced exit and a closing window leave, and
what they put out.
-/

namespace Sys2Proof.Machine

variable {m m' m'' : Mord} {r r' : Mord × List MOut} {c : MdCfg} {e : Exp} {x : Int × Bool} {os : List MOut} {k : Nat}

/-! ### What may change of Mordant -/

/-- Expectations, free edges, the key of the latest seal, the next id and the polarity count may differ, and nothing else. -/
def Mord.OnlyLog (m m' : Mord) : Prop :=
  m' = { m with exps := m'.exps, free := m'.free, lastSealed := m'.lastSealed, nextId := m'.nextId, polCount := m'.polCount, polHeld := m'.polHeld }

namespace Mord.OnlyLog

theorem refl (m : Mord) : m.OnlyLog m := rfl

theorem trans (h : m.OnlyLog m') (k : m'.OnlyLog m'') : m.OnlyLog m'' := by
  rw [Mord.OnlyLog] at *
  rw [k, h]

theorem exps (h : m.OnlyLog m') (l : List Exp) : m.OnlyLog { m' with exps := l } := h.trans rfl
theorem free (h : m.OnlyLog m') (l : List (Int × Bool)) : m.OnlyLog { m' with free := l } := h.trans rfl

theorem front_eq (h : m.OnlyLog m') : m'.front = m.front := by rw [h]
theorem queue_eq (h : m.OnlyLog m') : m'.queue = m.queue := by rw [h]
theorem input_eq (h : m.OnlyLog m') : m'.input = m.input := by rw [h]
theorem gen_eq (h : m.OnlyLog m') : m'.gen = m.gen := by rw [h]
theorem owed_eq (h : m.OnlyLog m') : m'.owed = m.owed := by rw [h]
theorem expSeq_eq (h : m.OnlyLog m') : m'.expSeq = m.expSeq := by rw [h]

end Mord.OnlyLog

/-- Whether an output tells of an expectation or an edge; the others tell of descriptors and withdrawals. -/
def MOut.ofLog : MOut → Bool
  | .creditReturn => false
  | .withdrawn _ => false
  | _ => true

/-- They return no credit. -/
theorem creditsOf_ofLog (h : ∀ o ∈ os, o.ofLog = true) : creditsOf os = 0 :=
  List.sum_eq_zero fun j hj => by
    obtain ⟨o, ho, rfl⟩ := List.mem_map.1 hj
    have := h o ho
    cases o with
    | creditReturn => exact absurd this (by decide)
    | _ => rfl

/-- Mordant's log and table have moved, and put out what tells of expectations and edges. -/
structure Mord.Commits (m : Mord) (r : Mord × List MOut) : Prop where
  stands : m.OnlyLog r.1
  outs : ∀ o ∈ r.2, o.ofLog = true

theorem Mord.Commits.refl (m : Mord) : m.Commits (m, []) := ⟨rfl, fun _ ho => absurd ho List.not_mem_nil⟩

theorem Mord.Commits.andThen (h : m.Commits r) (h' : r.1.Commits r') : m.Commits (r'.1, r.2 ++ r'.2) :=
  ⟨h.stands.trans h'.stands, fun o ho => (List.mem_append.1 ho).elim (h.outs o) (h'.outs o)⟩

/-- Operations one after another, with what they put out in order. -/
def Mord.each {α : Type} (f : α → Mord → Mord × List MOut) (l : List α) (r : Mord × List MOut) : Mord × List MOut :=
  l.foldl (fun r a => ((f a r.1).1, r.2 ++ (f a r.1).2)) r

theorem Mord.each_commits {α : Type} {f : α → Mord → Mord × List MOut} (hf : ∀ (a : α) (m : Mord), m.Commits (f a m)) (l : List α) (h : m.Commits r) :
    m.Commits (Mord.each f l r) := by
  induction l generalizing r with
  | nil => exact h
  | cons a l ih => exact ih (h.andThen (hf a r.1))

/-! ### One seal (R132, R136, R140) -/

/-- What goes ahead of a count: the log's overflow, and the verdict where it is emitted (R118, R123). -/
theorem mem_heading {early sent : Bool} {w0 w1 : BitVec 64} {o : MOut}
    (h : o ∈ (if early then [.logFull] else []) ++ (if sent then [.verdict w0 w1] else [])) : o = .logFull ∨ ∃ w0 w1, o = .verdict w0 w1 := by
  rcases List.mem_append.1 h with h | h
  · cases early
    · exact absurd h List.not_mem_nil
    · exact .inl (List.mem_singleton.1 h)
  · cases sent
    · exact absurd h List.not_mem_nil
    · exact .inr ⟨w0, w1, List.mem_singleton.1 h⟩

theorem Mord.polCheck_stands (on : Bool) (e : Exp) (m : Mord) : ∃ k b, (m.polCheck on e).1 = { m with polCount := k, polHeld := b } := by
  unfold Mord.polCheck
  dsimp only
  split
  · exact ⟨_, _, rfl⟩
  · split
    · exact ⟨_, _, rfl⟩
    · split
      · exact ⟨_, _, rfl⟩
      · exact ⟨_, _, rfl⟩

theorem Mord.polCheck_outs (on : Bool) (e : Exp) (m : Mord) : ∀ o ∈ (m.polCheck on e).2, o = .polSuspect := by
  unfold Mord.polCheck
  dsimp only
  split
  · simp
  · split
    · simp
    · split <;> simp

/-- The table without a sealed expectation. -/
def Mord.unlist (e : Exp) (m : Mord) : Mord :=
  { m with exps := m.exps.filter (fun x => x.id != e.id), lastSealed := some (laterKey e.key m.lastSealed) }

/-- A sealed expectation leaves the table. -/
theorem Mord.seal_stands (ch : Nat) (pchk early : Bool) (e : Exp) (m : Mord) :
    (m.seal ch pchk early e).1.exps = m.exps.filter (fun (y : Exp) => y.id != e.id) ∧ (m.seal ch pchk early e).1.free = m.free ∧
      m.OnlyLog (m.seal ch pchk early e).1 := by
  have hfst : (m.seal ch pchk early e).1 = ((m.unlist e).polCheck pchk e).1 := by
    unfold Mord.seal
    dsimp only
    split <;> rfl
  obtain ⟨k, b, h⟩ := Mord.polCheck_stands pchk e (m.unlist e)
  rw [hfst, h]
  exact ⟨rfl, rfl, rfl⟩

/-- A seal counts its verdict, a HIT with an edge and a MISS without. -/
def Exp.verdictOut (e : Exp) : MOut :=
  match e.edge with
  | some x => .hit (x.1 - 16 * e.texp) x.1 (e.action == 3#3 || e.action == 4#3) e.extras.length
  | none => .miss

theorem Mord.seal_outs (ch : Nat) (pchk early : Bool) (e : Exp) (m : Mord) :
    ∃ before after, (m.seal ch pchk early e).2 = before ++ e.verdictOut :: after ∧
      (∀ o ∈ before, o = .logFull ∨ ∃ w0 w1, o = .verdict w0 w1) ∧ ∀ o ∈ after, o = .polSuspect := by
  have hpol := Mord.polCheck_outs pchk e (m.unlist e)
  unfold Mord.seal Exp.verdictOut
  dsimp only
  cases e.edge with
  | some x =>
    exact ⟨_, _, (List.append_assoc ..), fun _ => mem_heading, hpol⟩
  | none =>
    exact ⟨_, _, (List.append_assoc ..), fun _ => mem_heading, hpol⟩

theorem Mord.seal_added (k ch : Nat) (pchk early : Bool) (e : Exp) (m : Mord) :
    addedTo k (m.seal ch pchk early e).2 = e.verdictOut.adds k := by
  obtain ⟨before, after, h, hbefore, hafter⟩ := Mord.seal_outs ch pchk early e m
  have hb : addedTo k before = 0 := List.sum_eq_zero fun j hj => by
    obtain ⟨o, ho, rfl⟩ := List.mem_map.1 hj
    rcases hbefore o ho with rfl | ⟨w0, w1, rfl⟩ <;> rfl
  have ha : addedTo k after = 0 := List.sum_eq_zero fun j hj => by
    obtain ⟨o, ho, rfl⟩ := List.mem_map.1 hj
    rw [hafter o ho]
    rfl
  rw [h, addedTo_append, addedTo_cons, hb, ha, Nat.zero_add, Nat.add_zero]

theorem Mord.seal_commits (ch : Nat) (pchk early : Bool) (e : Exp) (m : Mord) : m.Commits (m.seal ch pchk early e) := by
  obtain ⟨-, -, hstands⟩ := Mord.seal_stands ch pchk early e m
  obtain ⟨before, after, h, hbefore, hafter⟩ := Mord.seal_outs ch pchk early e m
  refine ⟨hstands, fun o ho => ?_⟩
  rw [h, List.mem_append, List.mem_cons] at ho
  rcases ho with ho | rfl | ho
  · rcases hbefore o ho with rfl | ⟨w0, w1, rfl⟩ <;> rfl
  · unfold Exp.verdictOut
    cases e.edge <;> rfl
  · rw [hafter o ho]
    rfl

/-! ### One ageing (R123, R131) -/

theorem Mord.ageOut_outs (ch : Nat) (xemit early : Bool) (x : Int × Bool) (m : Mord) :
    ∃ before, (m.ageOut ch xemit early x).2 = before ++ [.extra] ∧ ∀ o ∈ before, o = .logFull ∨ ∃ w0 w1, o = .verdict w0 w1 := by
  exact ⟨_, rfl, fun _ => mem_heading⟩

theorem Mord.ageOut_added (k ch : Nat) (xemit early : Bool) (x : Int × Bool) (m : Mord) :
    addedTo k (m.ageOut ch xemit early x).2 = MOut.extra.adds k := by
  obtain ⟨before, h, hbefore⟩ := Mord.ageOut_outs ch xemit early x m
  have hb : addedTo k before = 0 := List.sum_eq_zero fun j hj => by
    obtain ⟨o, ho, rfl⟩ := List.mem_map.1 hj
    rcases hbefore o ho with rfl | ⟨w0, w1, rfl⟩ <;> rfl
  rw [h, addedTo_append, hb, addedTo_cons, addedTo_nil, Nat.zero_add, Nat.add_zero]

theorem Mord.ageOut_commits (ch : Nat) (xemit early : Bool) (x : Int × Bool) (m : Mord) : m.Commits (m.ageOut ch xemit early x) := by
  obtain ⟨before, h, hbefore⟩ := Mord.ageOut_outs ch xemit early x m
  refine ⟨rfl, fun o ho => ?_⟩
  rw [h, List.mem_append, List.mem_singleton] at ho
  rcases ho with ho | rfl
  · rcases hbefore o ho with rfl | ⟨w0, w1, rfl⟩ <;> rfl
  · rfl

/-! ### Everything due at the front (R132, R138) -/

theorem Mord.sealDue_eq (c : MdCfg) (m : Mord) :
    m.sealDue c = Mord.each (Mord.seal c.ch c.polchk false) (m.exps.filter (Exp.due c.h m.front)) (m, []) := rfl

theorem Mord.drain_eq (c : MdCfg) (m : Mord) :
    m.drain c = Mord.each (Mord.ageOut c.ch c.xemit false) ((m.sealDue c).1.free.filter (edgeDue c.h (m.sealDue c).1.front)) (m.sealDue c) := rfl

theorem Mord.sealDue_commits (c : MdCfg) (m : Mord) : m.Commits (m.sealDue c) :=
  Mord.each_commits (fun _ m => m.seal_commits ..) _ (.refl m)

theorem Mord.drain_commits (c : MdCfg) (m : Mord) : m.Commits (m.drain c) :=
  Mord.each_commits (fun _ m => m.ageOut_commits ..) _ (m.sealDue_commits c)

/-- Of the table, what carries no sealed id stays. -/
theorem Mord.each_seal (ch : Nat) (pchk : Bool) (l : List Exp) (r : Mord × List MOut) :
    (Mord.each (Mord.seal ch pchk false) l r).1.exps = r.1.exps.filter (fun (y : Exp) => l.all fun e => y.id != e.id) ∧
      (Mord.each (Mord.seal ch pchk false) l r).1.free = r.1.free := by
  induction l generalizing r with
  | nil => exact ⟨by simp [Mord.each], rfl⟩
  | cons e l ih =>
    obtain ⟨hexps, hfree, -⟩ := Mord.seal_stands ch pchk false e r.1
    obtain ⟨hexps', hfree'⟩ := ih ((r.1.seal ch pchk false e).1, r.2 ++ (r.1.seal ch pchk false e).2)
    refine ⟨hexps'.trans ?_, hfree'.trans hfree⟩
    dsimp only
    rw [hexps, List.filter_filter]
    simp [Bool.and_comm]

theorem Mord.sealDue_free (c : MdCfg) (m : Mord) : (m.sealDue c).1.free = m.free := (Mord.each_seal _ _ _ _).2

/-- No expectation that is due stays. -/
theorem Mord.sealDue_exps (c : MdCfg) (h : e ∈ (m.sealDue c).1.exps) : e ∈ m.exps ∧ Exp.due c.h m.front e = false := by
  rw [Mord.sealDue_eq, (Mord.each_seal _ _ _ _).1, List.mem_filter] at h
  obtain ⟨hmem, hids⟩ := h
  refine ⟨hmem, ?_⟩
  by_contra hdue
  have := List.all_eq_true.1 hids e (List.mem_filter.2 ⟨hmem, by simpa using hdue⟩)
  simp at this

/-- Seals tell of no EXTRA. -/
theorem Mord.each_seal_extra (ch : Nat) (pchk : Bool) (l : List Exp) (r : Mord × List MOut) :
    addedTo R.CH_MD_EXTRA_H (Mord.each (Mord.seal ch pchk false) l r).2 = addedTo R.CH_MD_EXTRA_H r.2 := by
  induction l generalizing r with
  | nil => rfl
  | cons e l ih =>
    have hseal : addedTo R.CH_MD_EXTRA_H (r.1.seal ch pchk false e).2 = 0 := by
      rw [Mord.seal_added]
      unfold Exp.verdictOut
      cases e.edge <;> rfl
    refine (ih _).trans ?_
    rw [addedTo_append, hseal, Nat.add_zero]

theorem Mord.sealDue_none (h : ∀ e ∈ m.exps, Exp.due c.h m.front e = false) : m.sealDue c = (m, []) := by
  rw [Mord.sealDue_eq, List.filter_eq_nil_iff.2 fun e he => by simp [h e he]]
  rfl

theorem Mord.drain_none (h : ∀ e ∈ m.exps, Exp.due c.h m.front e = false) (hf : ∀ x ∈ m.free, edgeDue c.h m.front x = false) :
    m.drain c = (m, []) := by
  rw [Mord.drain_eq, Mord.sealDue_none h, List.filter_eq_nil_iff.2 fun x hx => by simp [hf x hx]]
  rfl

/-! ### Room in the log, and the front (R115, R121, R123, R124) -/

theorem Mord.forceOut_commits (c : MdCfg) (m : Mord) : m.Commits (m.forceOut c) := by
  unfold Mord.forceOut
  dsimp only
  split
  · split
    · exact m.ageOut_commits ..
    · exact m.seal_commits ..
  · exact m.ageOut_commits ..
  · exact m.seal_commits ..
  · exact .refl m

theorem Mord.makeRoom_commits (c : MdCfg) (m : Mord) : m.Commits (m.makeRoom c) := by
  have hdrain := m.drain_commits c
  unfold Mord.makeRoom
  dsimp only
  split
  · exact .refl m
  · split
    · exact hdrain
    · exact hdrain.andThen ((m.drain c).1.forceOut_commits c)

theorem Mord.makeRoom_free (h : m.logLen < 8192) : m.makeRoom c = (m, []) := if_pos h

/-- The window of one expectation closes. -/
def Mord.closeWindow (c : MdCfg) (e : Exp) (m : Mord) : Mord × List MOut :=
  let r := if e.edge.isNone && m.exps.any (fun x => x.id == e.id) then m.makeRoom c else (m, [])
  ({ r.1 with exps := r.1.exps.map fun x => if x.id == e.id then { x with closed := true } else x }, r.2)

theorem Mord.closeWindows_eq (c : MdCfg) (m : Mord) :
    m.closeWindows c = Mord.each (Mord.closeWindow c) (m.exps.filter fun e => !e.closed && decide (16 * e.we < m.front)) (m, []) := rfl

theorem Mord.closeWindow_commits (c : MdCfg) (e : Exp) (m : Mord) : m.Commits (m.closeWindow c e) := by
  have h : m.Commits (if e.edge.isNone && m.exps.any (fun x => x.id == e.id) then m.makeRoom c else (m, [])) := by
    split
    · exact m.makeRoom_commits c
    · exact .refl m
  exact ⟨h.stands.exps _, h.outs⟩

theorem Mord.closeWindows_none (h : ∀ e ∈ m.exps, (!e.closed && decide (16 * e.we < m.front)) = false) : m.closeWindows c = (m, []) := by
  rw [Mord.closeWindows_eq, List.filter_eq_nil_iff.2 fun e he => by simp [h e he]]
  rfl

/-- Beside the front, which never goes back, an advance moves the log and the table alone. -/
theorem Mord.advance_commits (c : MdCfg) (t : Int) (m : Mord) : ({ m with front := max m.front t } : Mord).Commits (m.advance c t) := by
  have h : ({ m with front := max m.front t } : Mord).Commits (({ m with front := max m.front t } : Mord).closeWindows c) :=
    Mord.each_commits (fun e m => m.closeWindow_commits c e) _ (.refl _)
  exact ⟨h.stands.trans rfl, h.outs⟩

/-! ### Offers of edges (R128, R129) -/

/-- An expectation's key, cover and generation, which an offer of an edge leaves. -/
def Exp.SameKey (e e' : Exp) : Prop := e'.seq = e.seq ∧ e'.elem = e.elem ∧ e'.covered = e.covered

theorem mem_updateFirst {α : Type} {p : α → Bool} {f : α → α} {l : List α} {a : α} (h : a ∈ updateFirst p f l) : a ∈ l ∨ ∃ b ∈ l, a = f b := by
  induction l with
  | nil => exact absurd h List.not_mem_nil
  | cons b l ih =>
    unfold updateFirst at h
    split at h
    · rcases List.mem_cons.1 h with rfl | h
      · exact .inr ⟨b, by simp, rfl⟩
      · exact .inl (by simp [h])
    · rcases List.mem_cons.1 h with rfl | h
      · exact .inl (by simp)
      · rcases ih h with h | ⟨d, hd, rfl⟩
        · exact .inl (by simp [h])
        · exact .inr ⟨d, by simp [hd], rfl⟩

theorem Mord.offer_onlyLog (x : Int × Bool) (m : Mord) : m.OnlyLog (m.offer x) := by
  unfold Mord.offer
  dsimp only
  split
  · rfl
  · split <;> rfl

/-- The table with the marks of an edge of the opposite polarity. -/
def Mord.opposed (x : Int × Bool) (m : Mord) : List Exp :=
  m.exps.map fun (e : Exp) => if e.contains x.1 && e.opposes x.2 then { e with opp := true } else e

theorem Mord.mem_opposed (h : e ∈ m.opposed x) : ∃ e' ∈ m.exps, e'.SameKey e := by
  obtain ⟨e', he', rfl⟩ := List.mem_map.1 h
  refine ⟨e', he', ?_⟩
  split <;> exact ⟨rfl, rfl, rfl⟩

theorem Mord.mem_offer (h : e ∈ (m.offer x).exps) : ∃ e' ∈ m.exps, e'.SameKey e := by
  have hupdate {p : Exp → Bool} {f : Exp → Exp} (h : e ∈ updateFirst p f (m.opposed x)) (hf : ∀ d : Exp, d.SameKey (f d)) :
      ∃ e' ∈ m.exps, e'.SameKey e := by
    rcases mem_updateFirst h with h | ⟨d, hd, rfl⟩
    · exact Mord.mem_opposed h
    · obtain ⟨e', he', hseq, helem, hcov⟩ := Mord.mem_opposed hd
      obtain ⟨hseq', helem', hcov'⟩ := hf d
      exact ⟨e', he', hseq'.trans hseq, helem'.trans helem, hcov'.trans hcov⟩
  unfold Mord.offer at h
  dsimp only at h
  split at h
  · exact hupdate h fun _ => ⟨rfl, rfl, rfl⟩
  · split at h
    · exact hupdate h fun _ => ⟨rfl, rfl, rfl⟩
    · exact Mord.mem_opposed h

theorem Mord.mem_offers (l : List (Int × Bool)) (h : e ∈ (l.foldl (fun m x => m.offer x) m).exps) : ∃ e' ∈ m.exps, e'.SameKey e := by
  induction l generalizing m with
  | nil => exact ⟨e, h, rfl, rfl, rfl⟩
  | cons x l ih =>
    obtain ⟨d, hd, hseq, helem, hcov⟩ := ih h
    obtain ⟨e', he', hseq', helem', hcov'⟩ := Mord.mem_offer hd
    exact ⟨e', he', hseq.trans hseq', helem.trans helem', hcov.trans hcov'⟩

theorem Mord.offers_onlyLog (l : List (Int × Bool)) (m : Mord) : m.OnlyLog (l.foldl (fun m x => m.offer x) m) := by
  induction l generalizing m with
  | nil => rfl
  | cons x l ih => exact (m.offer_onlyLog x).trans (ih _)

/-! ### What is put out at one value of F (R138) -/

theorem mem_byKind {o : MOut} (h : o ∈ byKind os) : o ∈ os := by
  unfold byKind at h
  rcases List.mem_append.1 h with h | h <;> exact (List.mem_filter.1 h).1

theorem mem_byKind_of {o : MOut} (h : o ∈ os) : o ∈ byKind os := by
  unfold byKind
  cases hx : o.ofExtra <;> simp [h, hx]

end Sys2Proof.Machine
end

section
/-!
PROOFS. Descriptors that reach a channel (R117, R120, R122).
-/

namespace Sys2Proof.Machine

variable {s t u : State} {n : Ch} {ch : BitVec 8} {d : Desc} {f : Fld} {a : Nat}

/-! ### What the messages of the pattern link may change -/

/-- The words that a descriptor's answer may change. -/
def descWords (n : Ch) : List Nat := [chBase n + R.CH_MD_BAD_H, chBase n + R.CH_MD_BAD_H + 4, chBase n + R.CH_MD_STAT]

/-- A descriptor's answer: its words and its channel may differ, and nothing else. -/
structure State.DescAnswered (n : Ch) (s t : State) : Prop where
  words : ∀ a, a ∉ descWords n → t.w a = s.w a
  others : ∀ m : Ch, m ≠ n → t.chan m = s.chan m
  stands : s.OnlyChans t

/-- Content that is taken leaves everything but its link. -/
theorem State.takeContent_stands (s : State) (c : FClass) (k : Nat) :
    s.takeContent .pattern c k = { s with link1 := (s.takeContent .pattern c k).link1 } := rfl

/-! ### A refusal (R120, R122) -/

theorem State.mdReject_onlyRegs (s : State) (n : Ch) (hf : f.addr = R.CH_MD_STAT) : s.OnlyRegs (s.mdReject n f) (descWords n) :=
  .raise (.count (.refl s _) 1 (by simp [descWords]) (by simp [descWords])) (by simp [descWords, hf])

theorem State.mdReject_flag (s : State) (n : Ch) (hl : f.len = 1) (hlo : f.lo < 32) : (s.mdReject n f).fb (chBase n) f = true :=
  State.fb_raise _ _ hl hlo

theorem State.mdReject_bad (s : State) (n : Ch) (hf : f.addr = R.CH_MD_STAT) :
    (s.mdReject n f).pair (chBase n + R.CH_MD_BAD_H) = (s.pair (chBase n + R.CH_MD_BAD_H) + 1) % 2 ^ 64 :=
  (State.pair_setF _ (by simp [hf]) (off_ne_low n (by rw [hf]; decide))).trans (s.pair_count ..)

theorem State.returnCredit_eq (s : State) (n : Ch) : s.returnCredit n = s.modChan n (Chan.owe s.now) := s.mordOut_creditReturn n

/-- A descriptor refused with a flag of CH_MD_STAT counts, and its credit returns. -/
theorem State.mdReject_refused (s : State) (n : Ch) (hf : f.addr = R.CH_MD_STAT) (hl : f.len = 1) (hlo : f.lo < 32) :
    s.DescRefused n f ((s.mdReject n f).returnCredit n) ∧ s.DescAnswered n ((s.mdReject n f).returnCredit n) := by
  have hregs := s.mdReject_onlyRegs n hf
  have hflag := s.mdReject_flag n hl hlo
  have hbad := s.mdReject_bad n hf
  have hchan (m : Ch) : (s.mdReject n f).chan m = s.chan m := by rw [State.chan, hregs.1]; rfl
  rw [State.returnCredit_eq]
  generalize s.mdReject n f = v at *
  have hown : (v.modChan n (Chan.owe v.now)).chan n = (s.chan n).owe v.now := by rw [State.chan_modChan_same, hchan]
  refine ⟨⟨?_, ?_, ?_, ?_, ?_⟩, ⟨fun a ha => ?_, fun m hm => ?_, ?_⟩⟩
  · rw [State.modChan, State.fb_setChan, hflag]
  · rw [State.modChan, State.pair_setChan, hbad]
  · rw [hown]; rfl
  · rw [hown]; rfl
  · rw [hown]; rfl
  · rw [State.w_modChan, hregs.2 a ha]
  · rw [State.chan_modChan_other _ _ hm.symm, hchan]
  · exact .modChan (by rw [State.OnlyChans, hregs.1]) ..

/-! ### A descriptor for a channel (R120) -/

/-- What becomes of a descriptor for channel n once its content is taken. -/
def State.meetDesc (n : Ch) (d : Desc) (s : State) : State :=
  if d.malformed then (s.mdReject n F.CH_MD_STAT_BAD_DESC).returnCredit n
  else if !s.fb (chBase n) F.CH_MD_CTL_EN then (s.mdReject n F.CH_MD_STAT_NOEN).returnCredit n
  else
    let r := (s.chan n).mord.queueDesc s.now d
    match r.2 with
    | .accepted err =>
      let s := s.modChan n fun c => { c with mord := r.1 }
      if err then s.raise (chBase n) F.CH_MD_STAT_SEQ_ERR else s
    | .early => (s.mdReject n F.CH_MD_STAT_BAD_DESC).returnCredit n
    | .noSlot => (s.mdReject n F.CH_MD_STAT_QOVR).returnCredit n

theorem chOfCode_eq (h : ch.toNat = n.val) (hlt : ch.toNat < 128) : (⟨ch.toNat, hlt⟩ : Ch) = n := Fin.ext h

theorem State.descriptor_channel (s : State) (h : ch.toNat = n.val) (d : Desc) :
    s.descriptor ch d = (s.takeContent .pattern .msg d.bytes).meetDesc n d := by
  have hlt : ch.toNat < 128 := h ▸ n.isLt
  rw [← chOfCode_eq h hlt]
  exact dif_pos hlt

theorem State.descriptor_noChannel (s : State) (h : 128 ≤ ch.toNat) (d : Desc) :
    s.descriptor ch d = (s.takeContent .pattern .msg d.bytes).noChannel := dif_neg (Nat.not_lt.2 h)

/-- The queue's answer to a descriptor: too early, no slot, or joined (R120). -/
theorem Mord.queueDesc_early {m : Mord} {now : Nat} (h : d.before now m.orderRef = true) : m.queueDesc now d = (m, .early) := by
  unfold Mord.queueDesc
  exact if_pos h

theorem Mord.queueDesc_full {m : Mord} {now : Nat} (h : d.before now m.orderRef = false) (hfull : 64 ≤ m.queue.length) :
    m.queueDesc now d = (m, .noSlot) := by
  unfold Mord.queueDesc
  exact (if_neg (Bool.eq_false_iff.1 h)).trans (if_pos hfull)

/-- Whether a SEQ is another than the one expected. -/
def seqWrong (expected : Option (BitVec 24)) (seq : BitVec 24) : Bool := match expected with
  | some x => x != seq
  | none => false

theorem Mord.queueDesc_joins {m : Mord} {now : Nat} (h : d.before now m.orderRef = false) (hroom : m.queue.length < 64) :
    ∃ ref, m.queueDesc now d = ({ m with
      queue := m.queue ++ [{ d := d, left := d.elems, covered := [], done := 0 }], expSeq := some (d.seq + 1#24), orderRef := ref },
      .accepted (seqWrong m.expSeq d.seq)) := by
  unfold Mord.queueDesc
  exact ⟨_, (if_neg (Bool.eq_false_iff.1 h)).trans (if_neg (Nat.not_le.2 hroom))⟩

/-- A descriptor that the queue takes joins it, and a wrong SEQ is flagged. -/
theorem State.meetDesc_queued {m : Mord} {ref : Option Int} (s : State) (n : Ch) (d : Desc) (hm : m = { (s.chan n).mord with
      queue := (s.chan n).mord.queue ++ [{ d := d, left := d.elems, covered := [], done := 0 }], expSeq := some (d.seq + 1#24), orderRef := ref })
    (ht : t = if seqWrong (s.chan n).mord.expSeq d.seq then (s.modChan n fun c => { c with mord := m }).raise (chBase n) F.CH_MD_STAT_SEQ_ERR
      else s.modChan n fun c => { c with mord := m }) : s.DescQueued n d t ∧ s.DescAnswered n t := by
  have hchan (c : Ch) : t.chan c = (s.modChan n fun c => { c with mord := m }).chan c := by
    rw [ht]
    split <;> rfl
  have hown : (t.chan n).mord = m := by rw [hchan, State.chan_modChan_same]
  have hword {a : Nat} (ha : a ≠ chBase n + R.CH_MD_STAT) : t.w a = s.w a := by
    rw [ht]
    split
    · exact State.w_setF_other _ ha.symm
    · rfl
  have hstands : s.OnlyChans t := by
    rw [ht]
    split
    · exact .setF (.modChan (.refl s) ..) ..
    · exact .modChan (.refl s) ..
  refine ⟨⟨by rw [hown, hm], by rw [hown, hm], by rw [hown, hm], ?_, ?_⟩, ⟨fun a ha => hword fun he => ha (by simp [descWords, he]),
    fun c hc => by rw [hchan, State.chan_modChan_other _ _ hc.symm], hstands⟩⟩
  · rw [State.pair, hword (by simp), hword (off_ne_low n (by decide)).symm, State.pair]
  · rw [ht]
    change _ = (_ || seqWrong _ _)
    cases seqWrong (s.chan n).mord.expSeq d.seq with
    | true => exact (State.fb_raise _ _ rfl (by decide)).trans (Bool.or_true _).symm
    | false => exact (Bool.or_false _).symm

theorem State.meetDesc_met (s : State) (n : Ch) (d : Desc) : s.DescriptorMet n d (s.meetDesc n d) ∧ s.DescAnswered n (s.meetDesc n d) := by
  unfold State.DescriptorMet State.meetDesc
  by_cases hbad : d.malformed = true
  · rw [if_pos hbad, if_pos hbad]
    exact s.mdReject_refused n rfl rfl (by decide)
  rw [if_neg hbad, if_neg hbad]
  by_cases hen : s.fb (chBase n) F.CH_MD_CTL_EN = false
  · rw [if_pos hen, if_pos (by simp [hen])]
    exact s.mdReject_refused n rfl rfl (by decide)
  have hen' : ¬ (!s.fb (chBase n) F.CH_MD_CTL_EN) = true := by simpa using hen
  rw [if_neg hen, if_neg hen']
  by_cases hearly : d.before s.now (s.chan n).mord.orderRef = true
  · rw [if_pos hearly, Mord.queueDesc_early hearly]
    exact s.mdReject_refused n rfl rfl (by decide)
  rw [if_neg hearly]
  rw [Bool.not_eq_true] at hearly
  by_cases hfull : 64 ≤ (s.chan n).mord.queue.length
  · rw [if_pos hfull, Mord.queueDesc_full hearly hfull]
    exact s.mdReject_refused n rfl rfl (by decide)
  rw [if_neg hfull]
  obtain ⟨ref, hjoins⟩ := Mord.queueDesc_joins hearly (Nat.not_le.1 hfull)
  rw [hjoins]
  exact State.meetDesc_queued s n d rfl rfl

/-! ### The messages -/

/-- With content of the pattern link taken, what becomes of a descriptor stays the same. -/
theorem State.descriptorMet_taken {x : LinkSt} (h : ({ s with link1 := x } : State).DescriptorMet n d t) : s.DescriptorMet n d t := h

/-- A descriptor for a channel is met there, and its content is taken. -/
theorem State.descriptor_met (s : State) (h : ch.toNat = n.val) (d : Desc) :
    s.DescriptorMet n d (s.descriptor ch d) ∧ (∀ a, a ∉ descWords n → (s.descriptor ch d).w a = s.w a) ∧
      (∀ m : Ch, m ≠ n → (s.descriptor ch d).chan m = s.chan m) ∧
      s.descriptor ch d = { s with regs := (s.descriptor ch d).regs, chans := (s.descriptor ch d).chans, link1 := (s.descriptor ch d).link1 } := by
  rw [s.descriptor_channel h, s.takeContent_stands]
  obtain ⟨hmet, hwords, hothers, hstands⟩ := State.meetDesc_met { s with link1 := (s.takeContent .pattern .msg d.bytes).link1 } n d
  generalize State.meetDesc n d { s with link1 := (s.takeContent .pattern .msg d.bytes).link1 } = t at *
  refine ⟨State.descriptorMet_taken hmet, hwords, hothers, ?_⟩
  rw [hstands]

/-- A message that names no channel counts on the pattern link, once its content is taken (R120). -/
theorem State.noChannel_counts {v : State} (hv : v = { s with link1 := v.link1 }) : v.noChannel.fb (lkBase 1) F.LNK_STAT_CLS_ERR = true ∧
    v.noChannel.pair (lkBase 1 + R.LNK_CLS_H) = (s.pair (lkBase 1 + R.LNK_CLS_H) + 1) % 2 ^ 64 ∧
    v.noChannel = { s with regs := v.noChannel.regs, link1 := v.noChannel.link1 } := by
  have hpair : v.pair (lkBase 1 + R.LNK_CLS_H) = s.pair (lkBase 1 + R.LNK_CLS_H) := by rw [hv]; rfl
  have hregs : v.OnlyRegs v.noChannel [lkBase 1 + R.LNK_CLS_H, lkBase 1 + R.LNK_CLS_H + 4, lkBase 1 + R.LNK_STAT] :=
    .raise (.count (.refl v _) 1 (by simp) (by simp)) (by simp)
  refine ⟨State.fb_raise _ _ rfl (by decide), ?_, ?_⟩
  · rw [← hpair]
    exact (State.pair_setF _ (by decide) (by decide)).trans (v.pair_count ..)
  · rw [hregs.1, hv]

theorem State.unknownMsg_channel (s : State) {w0 : BitVec 64} (h : (w0.extractLsb' 32 8).toNat = n.val) :
    s.unknownMsg w0 = s.discardRest.mdReject n F.CH_MD_STAT_BAD_DESC := by
  have hlt : (w0.extractLsb' 32 8).toNat < 128 := h ▸ n.isLt
  rw [← chOfCode_eq h hlt]
  exact dif_pos hlt

theorem State.unknownMsg_noChannel (s : State) {w0 : BitVec 64} (h : 128 ≤ (w0.extractLsb' 32 8).toNat) :
    s.unknownMsg w0 = s.discardRest.noChannel := dif_neg (Nat.not_lt.2 h)

theorem unknownDtype_counts (s : State) {w0 : BitVec 64} (h : (w0.extractLsb' 32 8).toNat = n.val) :
    ∃ t, exec (.unknownDtype w0) s = .next t ∧ t.fb (chBase n) F.CH_MD_STAT_BAD_DESC = true ∧
      t.pair (chBase n + R.CH_MD_BAD_H) = (s.pair (chBase n + R.CH_MD_BAD_H) + 1) % 2 ^ 64 ∧ t.chans = s.chans ∧
      (∀ a, a ∉ descWords n → t.w a = s.w a) ∧ t = { s with regs := t.regs, link1 := t.link1 } := by
  refine ⟨_, rfl, ?_⟩
  rw [s.unknownMsg_channel h]
  obtain ⟨hstands, hwords⟩ := s.discardRest.mdReject_onlyRegs n (f := F.CH_MD_STAT_BAD_DESC) rfl
  refine ⟨State.mdReject_flag _ n rfl (by decide), State.mdReject_bad _ n rfl, by rw [hstands]; rfl, hwords, ?_⟩
  rw [hstands]
  rfl

/-- Settles O28: each descriptor is met as `State.meetDesc_met` says, and codes above 127 name no channel. -/
theorem descriptorsQueueOrCountAsBad : Obligations.DescriptorsQueueOrCountAsBad := by
  unfold Obligations.DescriptorsQueueOrCountAsBad
  have hno (s : State) {ch : BitVec 8} (h : 128 ≤ ch.toNat) (d : Desc) :=
    (s.descriptor_noChannel h d).symm ▸ State.noChannel_counts (s.takeContent_stands .msg d.bytes)
  refine ⟨fun s n ch h hn => ⟨_, rfl, s.descriptor_met hn _⟩, fun s ch h hc => ⟨_, rfl, hno s hc _⟩,
    fun s n ch h period count alt hn => ⟨_, rfl, s.descriptor_met hn _⟩, fun s ch h period count alt hc => ⟨_, rfl, hno s hc _⟩,
    fun s n ch h ui mask hn => ⟨_, rfl, s.descriptor_met hn _⟩, fun s ch h ui mask hc => ⟨_, rfl, hno s hc _⟩,
    fun s w0 n hn => unknownDtype_counts s hn, fun s w0 hc => ⟨_, rfl, ?_⟩⟩
  rw [s.unknownMsg_noChannel hc]
  exact State.noChannel_counts rfl

end Sys2Proof.Machine
end

section
/-!
PROOFS. RETRACT and SEAL (R120, R132-R134), and the credits that return (R122, R232).
-/

namespace Sys2Proof.Machine

variable {s t v : State} {n : Ch} {ch : BitVec 8} {seq : BitVec 24} {elem : BitVec 16} {gen : BitVec 4} {m : Mord} {c : MdCfg} {e : Exp} {q : QDesc}
  {k now : Nat}

/-! ### SEAL (R132) -/

/-- Every unsealed expectation at or before the one named is covered, those still queued included. -/
def Mord.cover (seq : BitVec 24) (k : Nat) (m : Mord) : Mord :=
  { m with
    exps := m.exps.map fun (e : Exp) => if keyGe seq k e.seq e.elem then { e with covered := true } else e
    queue := m.queue.map fun (q : QDesc) => { q with covered := q.covered ++ q.left.filter fun j => keyGe seq k q.d.seq j } }

theorem Mord.sealMsg_eq (c : MdCfg) (seq : BitVec 24) (k : Nat) (m : Mord) : m.sealMsg c seq k =
    ((((m.drain c).1.cover seq k).sealDue c).1, (m.drain c).2 ++ (((m.drain c).1.cover seq k).sealDue c).2) := rfl

theorem Mord.mem_cover (h : e ∈ (m.cover seq k).exps) (hk : keyGe seq k e.seq e.elem = true) : e.covered = true := by
  obtain ⟨d, -, rfl⟩ := List.mem_map.1 h
  split at hk
  next hd => rw [if_pos hd]
  next hd => exact absurd hk hd

theorem Mord.mem_cover_queue {i : Nat} (h : q ∈ (m.cover seq k).queue) (hi : i ∈ q.left) (hk : keyGe seq k q.d.seq i = true) :
    q.covered.contains i = true := by
  obtain ⟨d, -, rfl⟩ := List.mem_map.1 h
  exact List.contains_iff_mem.2 (List.mem_append_right _ (List.mem_filter.2 ⟨hi, hk⟩))

theorem Mord.cover_queue (seq : BitVec 24) (k : Nat) (m : Mord) :
    (m.cover seq k).queue.map (fun (q : QDesc) => (q.d, q.left)) = m.queue.map (fun (q : QDesc) => (q.d, q.left)) := by
  rw [Mord.cover, List.map_map]
  rfl

/-- What a SEAL leaves: the front and the generation, and of the queue all but its cover. -/
theorem Mord.sealMsg_kept (c : MdCfg) (seq : BitVec 24) (k : Nat) (m : Mord) : (m.sealMsg c seq k).1.gen = m.gen ∧
    (m.sealMsg c seq k).1.front = m.front ∧ (m.sealMsg c seq k).1.queue = ((m.drain c).1.cover seq k).queue := by
  have hdrain := (m.drain_commits c).stands
  have hseal := (((m.drain c).1.cover seq k).sealDue_commits c).stands
  exact ⟨hseal.gen_eq.trans hdrain.gen_eq, hseal.front_eq.trans hdrain.front_eq, hseal.queue_eq⟩

/-- What stays after a SEAL is not due, and covered where it is at or before the one named. -/
theorem Mord.sealMsg_exps (h : e ∈ (m.sealMsg c seq k).1.exps) :
    Exp.due c.h m.front e = false ∧ (keyGe seq k e.seq e.elem = true → e.covered = true) := by
  rw [Mord.sealMsg_eq] at h
  obtain ⟨hmem, hdue⟩ := Mord.sealDue_exps c h
  rw [show ((m.drain c).1.cover seq k).front = m.front from (m.drain_commits c).stands.front_eq] at hdue
  exact ⟨hdue, Mord.mem_cover hmem⟩

/-! ### RETRACT (R133, R134) -/

/-- What a RETRACT leaves before it offers the released edges anew: the next generation, and from the expectation
named on only what is covered. -/
structure Mord.Withdrawn (seq : BitVec 24) (k : Nat) (m m' : Mord) : Prop where
  gen : m'.gen = (m.gen + 1) % 16
  expSeq : m'.expSeq = some (if k = 0 then seq else seq + 1#24)
  exps : ∀ e ∈ m'.exps, keyGe e.seq e.elem seq k = true → e.covered = true
  queue : ∀ q ∈ m'.queue, ∀ i ∈ q.left, keyGe q.d.seq i seq k = true → q.covered.contains i = true

theorem Mord.retract_withdraws (c : MdCfg) (now : Nat) (seq : BitVec 24) (k : Nat) (m : Mord) : m.Withdrawn seq k (m.retract c now seq k).1 := by
  obtain ⟨l, m', hm', hgen, hexpSeq, hexps, hqueue⟩ : ∃ (l : List (Int × Bool)) (m' : Mord),
      (m.retract c now seq k).1 = l.foldl (fun m x => m.offer x) m' ∧ m'.gen = ((m.drain c).1.gen + 1) % 16 ∧
      m'.expSeq = some (if k = 0 then seq else seq + 1#24) ∧
      m'.exps = (m.drain c).1.exps.filter (fun e => !(keyGe e.seq e.elem seq k && !e.covered)) ∧
      m'.queue = ((m.drain c).1.queue.map fun (q : QDesc) => { q with left := q.left.filter fun i => !keyGe q.d.seq i seq k || q.covered.contains i }).filter
        (fun (q : QDesc) => !q.left.isEmpty || (q.d.elems.isEmpty && !keyGe q.d.seq 0 seq k)) := ⟨_, _, rfl, rfl, rfl, rfl, rfl⟩
  have hoffers := Mord.offers_onlyLog l m'
  refine ⟨?_, ?_, fun e he hk => ?_, fun q hq i hi hk => ?_⟩
  · rw [hm', hoffers.gen_eq, hgen, (m.drain_commits c).stands.gen_eq]
  · rw [hm', hoffers.expSeq_eq, hexpSeq]
  · rw [hm'] at he
    obtain ⟨d, hd, hseq, helem, hcov⟩ := Mord.mem_offers l he
    rw [hexps, List.mem_filter] at hd
    rw [hseq, helem] at hk
    rw [hcov]
    simpa [hk] using hd.2
  · rw [hm', hoffers.queue_eq, hqueue] at hq
    obtain ⟨d, -, rfl⟩ := List.mem_map.1 (List.mem_of_mem_filter hq)
    simpa [hk] using (List.mem_filter.1 hi).2

/-! ### What a control message meets (R120, R139) -/

theorem State.control_channel (act : Ch → State → State) (h : ch.toNat = n.val) : s.control ch gen act =
    if s.fb (chBase n) F.CH_MD_CTL_EN = false then (s.takeContent .pattern .msg 16).raise (chBase n) F.CH_MD_STAT_NOEN
    else if gen.toNat ≠ (s.chan n).mord.gen then (s.takeContent .pattern .msg 16).raise (chBase n) F.CH_MD_STAT_STALE
    else if s.mordantStalls n = true then s else act n (s.takeContent .pattern .msg 16) := by
  have hlt : ch.toNat < 128 := h ▸ n.isLt
  obtain rfl := chOfCode_eq h hlt
  refine (dif_pos hlt).trans (ite_congr ?_ (fun _ => rfl) fun _ => rfl)
  simp

theorem State.control_acts (act : Ch → State → State) (h : ch.toNat = n.val) (he : s.fb (chBase n) F.CH_MD_CTL_EN = true)
    (hg : gen.toNat = (s.chan n).mord.gen) (hs : s.mordantStalls n = false) :
    s.control ch gen act = act n (s.takeContent .pattern .msg 16) := by
  rw [State.control_channel act h, if_neg (by simp [he]), if_neg (by simp [hg]), if_neg (by simp [hs])]

theorem State.control_stalls (act : Ch → State → State) (h : ch.toNat = n.val)
    (hg : gen.toNat = (s.chan n).mord.gen) (hs : s.mordantStalls n = true) : s.control ch gen act = s := by
  have he : s.fb (chBase n) F.CH_MD_CTL_EN = true := (Bool.and_eq_true_iff.1 hs).1
  rw [State.control_channel act h, if_neg (by simp [he]), if_neg (by simp [hg]), if_pos hs]

/-- A message for a disabled channel or of another generation sets its flag, and does nothing else. -/
theorem State.control_refused (act : Ch → State → State) (h : ch.toNat = n.val)
    (hr : s.fb (chBase n) F.CH_MD_CTL_EN = false ∨ gen.toNat ≠ (s.chan n).mord.gen) :
    s.control ch gen act = (s.takeContent .pattern .msg 16).raise (chBase n)
      (if s.fb (chBase n) F.CH_MD_CTL_EN then F.CH_MD_STAT_STALE else F.CH_MD_STAT_NOEN) := by
  rw [State.control_channel act h]
  cases he : s.fb (chBase n) F.CH_MD_CTL_EN with
  | false => rfl
  | true => exact (if_neg (by simp)).trans (if_pos (hr.resolve_left (by simp [he])))

theorem State.control_noChannel (act : Ch → State → State) (h : 128 ≤ ch.toNat) :
    s.control ch gen act = (s.takeContent .pattern .msg 16).noChannel := dif_neg (Nat.not_lt.2 h)

/-- A refused control message: NOEN on a disabled channel, STALE on an enabled one. -/
theorem State.control_flags (act : Ch → State → State) (h : ch.toNat = n.val)
    (hr : s.fb (chBase n) F.CH_MD_CTL_EN = false ∨ gen.toNat ≠ (s.chan n).mord.gen) (ht : t = s.control ch gen act) :
    (s.fb (chBase n) F.CH_MD_CTL_EN = false → t.fb (chBase n) F.CH_MD_STAT_NOEN = true) ∧
      (s.fb (chBase n) F.CH_MD_CTL_EN = true → t.fb (chBase n) F.CH_MD_STAT_STALE = true) ∧
      (∀ a, a ≠ chBase n + R.CH_MD_STAT → t.w a = s.w a) ∧ t = { s with regs := t.regs, link1 := t.link1 } := by
  rw [State.control_refused act h hr] at ht
  have haddr : (if s.fb (chBase n) F.CH_MD_CTL_EN then F.CH_MD_STAT_STALE else F.CH_MD_STAT_NOEN).addr = R.CH_MD_STAT := by split <;> rfl
  refine ⟨fun he => ?_, fun he => ?_, fun a ha => ?_, ?_⟩
  · rw [ht, he]
    exact State.fb_raise _ _ rfl (by decide)
  · rw [ht, he]
    exact State.fb_raise _ _ rfl (by decide)
  · rw [ht, State.raise, State.w_setF_other _ (by rw [haddr]; exact ha.symm)]
    rfl
  · rw [ht]
    rfl

/-! ### RETRACT and SEAL on their channel -/

theorem seal_seals (h : ch.toNat = n.val) (he : s.fb (chBase n) F.CH_MD_CTL_EN = true) (hg : gen.toNat = (s.chan n).mord.gen)
    (hs : s.mordantStalls n = false) :
    ∃ t, exec (.seal ch seq elem gen) s = .next t ∧ (t.chan n).mord.gen = (s.chan n).mord.gen ∧
      (t.chan n).mord.front = (s.chan n).mord.front ∧
      (t.chan n).mord.queue.map (fun (q : QDesc) => (q.d, q.left)) = (s.chan n).mord.queue.map (fun (q : QDesc) => (q.d, q.left)) ∧
      (∀ q ∈ (t.chan n).mord.queue, ∀ i ∈ q.left, keyGe seq elem.toNat q.d.seq i = true → q.covered.contains i = true) ∧
      (∀ e ∈ (t.chan n).mord.exps, Exp.due (s.f (chBase n) F.CH_MD_H_H) (s.chan n).mord.front e = false) ∧
      (∀ e ∈ (t.chan n).mord.exps, keyGe seq elem.toNat e.seq e.elem = true → e.covered = true) ∧ t.clk = s.clk ∧
      (∀ m : Ch, m ≠ n → t.chan m = s.chan m) ∧ t.vat = s.vat := by
  refine ⟨_, rfl, ?_⟩
  rw [State.sealMsg, State.control_acts _ h he hg hs, s.takeContent_stands]
  obtain ⟨v, hv⟩ : ∃ v : State, v = { s with link1 := (s.takeContent .pattern .msg 16).link1 } := ⟨_, rfl⟩
  have hchan (m : Ch) : v.chan m = s.chan m := by rw [hv]; rfl
  have hh : (v.mdCfg n).h = s.f (chBase n) F.CH_MD_H_H := by rw [hv]; rfl
  have hclk : v.clk = s.clk ∧ v.vat = s.vat := by rw [hv]; exact ⟨rfl, rfl⟩
  rw [← hv]
  clear hv
  have hemit := v.mordSet_emitted n ((v.chan n).mord.sealMsg (v.mdCfg n) seq elem.toNat)
  obtain ⟨hgen, hfront, hqueue⟩ := Mord.sealMsg_kept (v.mdCfg n) seq elem.toNat (v.chan n).mord
  rw [hemit.gen_eq, hemit.front_eq, hemit.queue_eq, hemit.exps_eq, hqueue, ← hh, ← hchan n]
  refine ⟨hgen, hfront, ?_, fun q hq i hi hk => Mord.mem_cover_queue hq hi hk, fun e he => (Mord.sealMsg_exps he).1,
    fun e he => (Mord.sealMsg_exps he).2, hemit.clk.trans hclk.1, fun m hm => (hemit.others m hm).trans (hchan m), hemit.vat.trans hclk.2⟩
  rw [Mord.cover_queue, (Mord.drain_commits ..).stands.queue_eq]

theorem retract_withdraws (h : ch.toNat = n.val) (he : s.fb (chBase n) F.CH_MD_CTL_EN = true) (hg : gen.toNat = (s.chan n).mord.gen)
    (hs : s.mordantStalls n = false) :
    ∃ t, exec (.retract ch seq elem gen) s = .next t ∧ (t.chan n).mord.gen = ((s.chan n).mord.gen + 1) % 16 ∧
      t.f (chBase n) F.CH_MD_STAT_GEN = ((s.chan n).mord.gen + 1) % 16 ∧
      (t.chan n).mord.expSeq = some (if elem.toNat = 0 then seq else seq + 1#24) ∧
      (∀ e ∈ (t.chan n).mord.exps, keyGe e.seq e.elem seq elem.toNat = true → e.covered = true) ∧
      (∀ q ∈ (t.chan n).mord.queue, ∀ i ∈ q.left, keyGe q.d.seq i seq elem.toNat = true → q.covered.contains i = true) ∧ t.clk = s.clk ∧
      (∀ m : Ch, m ≠ n → t.chan m = s.chan m) ∧ t.vat = s.vat := by
  refine ⟨_, rfl, ?_⟩
  rw [State.retractMsg, State.control_acts _ h he hg hs, s.takeContent_stands]
  obtain ⟨v, hv⟩ : ∃ v : State, v = { s with link1 := (s.takeContent .pattern .msg 16).link1 } := ⟨_, rfl⟩
  have hchan (m : Ch) : v.chan m = s.chan m := by rw [hv]; rfl
  have hclk : v.clk = s.clk ∧ v.vat = s.vat := by rw [hv]; exact ⟨rfl, rfl⟩
  rw [← hv]
  clear hv
  dsimp only
  obtain ⟨hgen, hexpSeq, hexps, hqueue⟩ := Mord.retract_withdraws (v.mdCfg n) v.now seq elem.toNat (v.chan n).mord
  obtain ⟨r, hr⟩ : ∃ r, r = (v.chan n).mord.retract (v.mdCfg n) v.now seq elem.toNat := ⟨_, rfl⟩
  rw [← hr] at hgen hexpSeq hexps hqueue ⊢
  have hemit := v.mordSet_emitted n (r.1, r.2.1)
  have hshown := v.mordSet_gen n (r.1, r.2.1) (by rw [hgen]; exact Nat.mod_lt _ (by decide))
  generalize v.mordSet n (r.1, r.2.1) = y at *
  obtain ⟨t, ht⟩ : ∃ t, t = if r.2.2 then y.raise (chBase n) F.CH_MD_STAT_RT_PARTIAL else y := ⟨_, rfl⟩
  have hyclk : t.clk = y.clk ∧ t.vat = y.vat := by rw [ht]; split <;> exact ⟨rfl, rfl⟩
  have hychan (m : Ch) : t.chan m = y.chan m := by rw [ht]; split <;> rfl
  have hygen : t.f (chBase n) F.CH_MD_STAT_GEN = y.f (chBase n) F.CH_MD_STAT_GEN := by
    rw [ht]
    split
    · exact y.f_setF_of_apart _ 1 (by decide)
    · rfl
  rw [← ht, hychan, hemit.gen_eq, hemit.expSeq_eq, hemit.exps_eq, hemit.queue_eq, ← hchan n, hygen]
  exact ⟨hgen, hshown.trans hgen, hexpSeq, hexps, hqueue, hyclk.1.trans (hemit.clk.trans hclk.1),
    fun m hm => (hychan m).trans ((hemit.others m hm).trans (hchan m)), hyclk.2.trans (hemit.vat.trans hclk.2)⟩

/-! ### CREDIT_RETURN (R122, R232) -/

theorem State.creditReturn_none (h : (s.chan n).mord.owed = 0 ∨ (s.chan n).mord.owedSince = none) : s.creditReturn n = s := by
  unfold State.creditReturn
  dsimp only
  cases hs : (s.chan n).mord.owedSince with
  | none => rfl
  | some since => exact if_pos (h.resolve_right (by simp [hs]))

theorem creditReturn_sends {since : Nat} (hs : (s.chan n).mord.owedSince = some since) (ho : (s.chan n).mord.owed ≠ 0) :
    ∃ t, exec (.creditReturn n) s = .next t ∧ (t.chan n).mord.owed = (s.chan n).mord.owed - min (s.chan n).mord.owed 64 ∧
      t.link1.tx.map TxItem.bytes = s.link1.tx.map TxItem.bytes ++ [creditBytes n.val (min (s.chan n).mord.owed 64)] ∧
      ((s.chan n).mord.owed < 8 → t.clk = (s.reach (since + tkUs)).clk) ∧ (8 ≤ (s.chan n).mord.owed → t.clk = s.clk) ∧
      (∀ m : Ch, m ≠ n → t.chan m = s.chan m) ∧ t = { s with chans := t.chans, clk := t.clk, link1 := t.link1 } := by
  obtain ⟨v, hv⟩ : ∃ v, v = if (s.chan n).mord.owed ≥ 8 then s else s.reach (since + creditWait) := ⟨_, rfl⟩
  have hstands : v = { s with clk := v.clk } := by
    rw [hv]
    split
    · rfl
    · exact s.reach_stands _
  have hchan (m : Ch) : v.chan m = s.chan m := by rw [hstands]; rfl
  obtain ⟨y, hy⟩ : ∃ y, y = v.modChan n fun c => { c with mord := { c.mord with
      owed := (s.chan n).mord.owed - min (s.chan n).mord.owed 64
      owedSince := if (s.chan n).mord.owed = min (s.chan n).mord.owed 64 then none else some v.now } } := ⟨_, rfl⟩
  have hexec : s.creditReturn n = y.send .pattern .msg (creditBytes n (min (s.chan n).mord.owed 64)) .credit := by
    rw [hy, hv]
    unfold State.creditReturn
    dsimp only
    rw [hs]
    exact if_neg ho
  have hlink : y.link1 = s.link1 := by rw [hy, State.modChan, State.setChan_link1, hstands]
  have hclk : y.clk = v.clk := by rw [hy, State.modChan, State.setChan_clk]
  have hsent (m : Ch) : (s.creditReturn n).chan m = y.chan m := by rw [hexec, State.send_stands]; rfl
  have hsentclk : (s.creditReturn n).clk = v.clk := by rw [hexec, State.send_stands, hclk]
  refine ⟨_, rfl, ?_, ?_, fun hlt => ?_, fun hge => ?_, fun m hm => ?_, ?_⟩
  · rw [hsent, hy, State.chan_modChan_same]
  · rw [hexec, ← hlink]
    exact List.map_append
  · rw [hsentclk, hv, if_neg (Nat.not_le.2 hlt)]
    rfl
  · rw [hsentclk, hv, if_pos hge]
  · rw [hsent, hy, State.chan_modChan_other _ _ hm.symm, hchan]
  · have hystands : y = { s with chans := y.chans, clk := y.clk } := by
      rw [hy, State.modChan, State.setChan, hstands]
    rw [hexec, State.send, hystands]
    rfl

/-- Settles O29: the control messages on their channel, what refuses them or lets them wait, and the credits. -/
theorem controlMessagesMeetTheGeneration : Obligations.ControlMessagesMeetTheGeneration := by
  unfold Obligations.ControlMessagesMeetTheGeneration
  have hno (s : State) {ch : BitVec 8} (h : 128 ≤ ch.toNat) (gen : BitVec 4) (act : Ch → State → State) :=
    (State.control_noChannel (s := s) (gen := gen) act h).symm ▸ State.noChannel_counts (s.takeContent_stands .msg 16)
  exact ⟨fun s n ch seq elem gen h he hg hs => retract_withdraws h he hg hs,
    fun s n ch seq elem gen h he hg hs => seal_seals h he hg hs,
    fun s n ch seq elem gen h hr => ⟨_, rfl, State.control_flags _ h hr rfl⟩,
    fun s n ch seq elem gen h hr => ⟨_, rfl, State.control_flags _ h hr rfl⟩,
    fun s n ch seq elem gen h hg hs => ⟨_, rfl, State.control_stalls _ h hg hs⟩,
    fun s n ch seq elem gen h hg hs => ⟨_, rfl, State.control_stalls _ h hg hs⟩,
    fun s ch seq elem gen hc => ⟨_, rfl, hno s hc gen _⟩,
    fun s ch seq elem gen hc => ⟨_, rfl, hno s hc gen _⟩,
    fun s n since hs ho => creditReturn_sends hs ho,
    fun s n h => ⟨_, rfl, State.creditReturn_none h⟩⟩

end Sys2Proof.Machine
end

section
/-!
PROOFS. Materialising, binding, sealing and ageing (R116, R121, R124, R127, R128, R131, R132, R136, R138, R139).
-/

namespace Sys2Proof.Machine

variable {s t : State} {n : Ch} {m m' m'' : Mord} {c : MdCfg} {e : Exp} {q : QDesc} {i now : Nat} {left : List Nat} {rest : List QDesc}
  {prof : Nat → Nat × Nat} {op : MdCfg → Mord → Mord × List MOut} {os : List MOut} {k : Nat}

/-! ### An operation on channel n (R139) -/

theorem State.runMord_emitted (he : s.fb (chBase n) F.CH_MD_CTL_EN = true) (hs : s.mordantStalls n = false) :
    s.Emitted n (op (s.mdCfg n) (s.chan n).mord).1 (op (s.mdCfg n) (s.chan n).mord).2 (s.runMord n op) := by
  rw [State.runMord_runs he hs]
  exact s.mordSet_emitted n _

/-- An operation that finds nothing to do leaves every channel. -/
theorem State.runMord_idle (he : s.fb (chBase n) F.CH_MD_CTL_EN = true) (hs : s.mordantStalls n = false)
    (h : op (s.mdCfg n) (s.chan n).mord = ((s.chan n).mord, [])) (ht : t = s.runMord n op) :
    t.chans = s.chans ∧ (∀ a, a ≠ chBase n + R.CH_MD_STAT → t.w a = s.w a) ∧ t = { s with regs := t.regs } := by
  rw [State.runMord_runs he hs, h] at ht
  have hemitted := s.mordSet_emitted n ((s.chan n).mord, [])
  have hchans := s.mordSet_same n _ rfl
  rw [← ht] at hemitted hchans
  obtain ⟨hwords, hstands⟩ := hemitted.silent (by simp)
  rw [hchans] at hstands
  exact ⟨hchans, hwords, hstands⟩

/-- A counter that no output moves stands. -/
theorem State.Emitted.uncounted (h : s.Emitted n m os t) (hk : k ∈ mdCounters) (h0 : addedTo k os = 0) :
    t.pair (chBase n + k) = s.pair (chBase n + k) := by
  rw [h.counted k hk, h0, Nat.add_zero, Nat.mod_eq_of_lt (s.pair_lt _)]

/-! ### An expectation enters the table (R124, R127) -/

/-- The expectation as it enters: with an id of its own, and the marks of what the stream has brought so far. -/
def Mord.entering (e : Exp) (m : Mord) : Exp := m.marked { e with id := m.nextId }

theorem Mord.addExp_commits (c : MdCfg) (e : Exp) (m : Mord) : m.Commits (m.addExp c e) := by
  have hsilent (l : List Exp) (f : List (Int × Bool)) : m.Commits ({ m with nextId := m.nextId + 1, exps := l, free := f }, []) :=
    ⟨rfl, fun _ ho => absurd ho List.not_mem_nil⟩
  unfold Mord.addExp
  extract_lets e1 m1 w fits closed
  split
  · refine ⟨rfl, fun o ho => ?_⟩
    rcases List.mem_append.1 ho with ho | ho
    · split at ho
      · rw [List.mem_singleton.1 ho]
        rfl
      · exact absurd ho List.not_mem_nil
    · rw [List.mem_singleton.1 ho]
      rfl
  · split
    · exact hsilent _ _
    · clear_value fits
      cases fits with
      | cons x xs => exact hsilent _ _
      | nil =>
        have hroom : m1.Commits (if closed then m1.makeRoom c else (m1, [])) := by
          split
          · exact m1.makeRoom_commits c
          · exact .refl m1
        exact ⟨(show m.OnlyLog m1 from rfl).trans (hroom.stands.exps _), hroom.outs⟩

/-- Past its window's start by more than H it seals LATE_DESC. -/
theorem Mord.addExp_late (h : 16 * (e.ws + Int.ofNat c.h) < m.front) : ∃ w0 w1, m.addExp c e =
    ({ m with nextId := m.nextId + 1, lastSealed := some (laterKey e.key m.lastSealed) },
      (if emits e.action true false then [.verdict w0 w1] else []) ++ [.late]) := by
  unfold Mord.addExp
  exact ⟨_, _, if_pos h⟩

/-- Into an empty log and table it enters alone, open before its window and watching from its start on. -/
theorem Mord.addExp_alone (h : m.front ≤ 16 * (e.ws + Int.ofNat c.h)) (hexps : m.exps = []) (hfree : m.free = []) :
    ∃ b, m.addExp c e = ({ m with
      nextId := m.nextId + 1
      exps := [{ m.entering e with st := if m.front < 16 * e.ws then ExpSt.opened else ExpSt.watch, closed := b }] }, []) := by
  unfold Mord.addExp
  extract_lets e1 m1 w fits closed
  rw [if_neg (show ¬ m1.front > 16 * (e1.ws + Int.ofNat c.h) from Int.not_lt.2 h)]
  by_cases hlt : m.front < 16 * e.ws
  · refine ⟨e1.closed, ?_⟩
    rw [if_pos (show m1.front < 16 * e1.ws from hlt), if_pos hlt, hexps]
    rfl
  · have hfits : fits = [] := by
      show m.free.filter _ = []
      rw [hfree]
      rfl
    have hroom : m1.makeRoom c = (m1, []) := Mord.makeRoom_free (by
      show m.free.length + (m.exps.map _).sum < 8192
      rw [hfree, hexps]
      decide)
    refine ⟨closed, ?_⟩
    rw [if_neg (show ¬ m1.front < 16 * e1.ws from hlt), if_neg hlt, hfits]
    dsimp only
    rw [hroom, ite_self, hexps]
    rfl

/-! ### MATERIALISE (R121) -/

/-- The queue without its head's next element; a descriptor leaves with its last one. -/
def QDesc.shorten (q : QDesc) (left : List Nat) (rest : List QDesc) : List QDesc :=
  if left.isEmpty then rest else { q with left := left, done := q.done + 1 } :: rest

/-- The credit of a descriptor that has left. -/
def creditOf (left : List Nat) : List MOut := if left.isEmpty then [.creditReturn] else []

theorem creditOf_eq (left : List Nat) : ∀ o ∈ creditOf left, o = .creditReturn := by
  unfold creditOf
  split <;> simp

theorem credits_creditOf (left : List Nat) : creditsOf (creditOf left) = if left.isEmpty then 1 else 0 := by
  unfold creditOf
  split <;> rfl

/-- Element i as an expectation. -/
def QDesc.element (q : QDesc) (gen now i : Nat) (p : Nat × Nat) : Exp :=
  { q.d.expect gen now i q.done p.1 p.2 with covered := q.covered.contains i }

/-- Mordant with everything due gone and the queue shortened. -/
def Mord.shortened (c : MdCfg) (q : QDesc) (left : List Nat) (rest : List QDesc) (m : Mord) : Mord :=
  { (m.drain c).1 with queue := q.shorten left rest }

theorem Mord.materialise_eq (hq : m.queue = q :: rest) (hl : q.left = i :: left) (ht : m.tableLen < 512) :
    m.materialise c now prof =
      (((m.shortened c q left rest).addExp c (q.element (m.drain c).1.gen now i (prof q.d.profile.toNat))).1,
        (m.drain c).2 ++ byKind ((m.shortened c q left rest).addExp c (q.element (m.drain c).1.gen now i (prof q.d.profile.toNat))).2 ++
          creditOf left) := by
  unfold Mord.materialise
  simp only [hq, hl]
  rw [if_neg (Nat.not_le.2 ht)]
  rfl

theorem Mord.materialise_kept (hq : m.queue = q :: rest) (hl : q.left = i :: left) (ht : m.tableLen < 512) :
    (m.materialise c now prof).1.queue = q.shorten left rest ∧ (m.materialise c now prof).1.front = m.front ∧
      (m.materialise c now prof).1.input = m.input ∧
      (m.materialise c now prof).1.owed + creditsOf (m.materialise c now prof).2 = m.owed + if left.isEmpty then 1 else 0 := by
  have hdrain := m.drain_commits c
  have hadd := (m.shortened c q left rest).addExp_commits c (q.element (m.drain c).1.gen now i (prof q.d.profile.toNat))
  rw [Mord.materialise_eq hq hl ht]
  refine ⟨hadd.stands.queue_eq, hadd.stands.front_eq.trans hdrain.stands.front_eq, hadd.stands.input_eq.trans hdrain.stands.input_eq, ?_⟩
  rw [creditsOf_append, creditsOf_append, creditsOf_ofLog hdrain.outs, creditsOf_ofLog fun o ho => hadd.outs o (mem_byKind ho), credits_creditOf,
    hadd.stands.owed_eq, show (m.shortened c q left rest).owed = m.owed from hdrain.stands.owed_eq]
  omega

/-- With log and table otherwise empty nothing is due. -/
theorem Mord.shortened_alone (hexps : m.exps = []) (hfree : m.free = []) :
    m.drain c = (m, []) ∧ m.shortened c q left rest = { m with queue := q.shorten left rest } := by
  have hdrain : m.drain c = (m, []) := Mord.drain_none (by simp [hexps]) (by simp [hfree])
  exact ⟨hdrain, by rw [Mord.shortened, hdrain]⟩

theorem Mord.tableLen_empty (h : m.exps = []) : m.tableLen < 512 := by
  rw [Mord.tableLen, h]
  decide

theorem addedTo_byKind (k : Nat) (os : List MOut) : addedTo k (byKind os) = addedTo k os := by
  have hperm : (byKind os).Perm os := List.perm_append_comm.trans (List.filter_append_perm MOut.ofExtra os)
  exact (hperm.map _).sum_eq

theorem addedTo_creditOf (k : Nat) (left : List Nat) : addedTo k (creditOf left) = 0 := by
  unfold creditOf
  split <;> rfl

/-- The element of an otherwise empty log and table enters alone. -/
theorem Mord.materialise_enters (hq : m.queue = q :: rest) (hl : q.left = i :: left) (hexps : m.exps = []) (hfree : m.free = [])
    (he : e = q.element m.gen now i (prof q.d.profile.toNat)) (h : m.front ≤ 16 * (e.ws + Int.ofNat c.h)) :
    ∃ b, (m.materialise c now prof).1.exps =
        [{ m.entering e with st := if m.front < 16 * e.ws then ExpSt.opened else ExpSt.watch, closed := b }] ∧
      (m.materialise c now prof).2 = creditOf left := by
  obtain ⟨hdrain, hshort⟩ := Mord.shortened_alone (c := c) (q := q) (left := left) (rest := rest) hexps hfree
  obtain ⟨b, hadd⟩ := Mord.addExp_alone (m := { m with queue := q.shorten left rest }) h hexps hfree
  refine ⟨b, ?_⟩
  rw [Mord.materialise_eq hq hl (Mord.tableLen_empty hexps), hdrain, hshort, ← he, hadd]
  exact ⟨rfl, rfl⟩

/-- Past its window's start by more than H it seals LATE_DESC. -/
theorem Mord.materialise_late (hq : m.queue = q :: rest) (hl : q.left = i :: left) (hexps : m.exps = []) (hfree : m.free = [])
    (he : e = q.element m.gen now i (prof q.d.profile.toNat)) (h : 16 * (e.ws + Int.ofNat c.h) < m.front) :
    (m.materialise c now prof).1.exps = [] ∧ .late ∈ (m.materialise c now prof).2 ∧ addedTo R.CH_MD_LATE_H (m.materialise c now prof).2 = 1 := by
  obtain ⟨hdrain, hshort⟩ := Mord.shortened_alone (c := c) (q := q) (left := left) (rest := rest) hexps hfree
  obtain ⟨w0, w1, hadd⟩ := Mord.addExp_late (m := { m with queue := q.shorten left rest }) h
  rw [Mord.materialise_eq hq hl (Mord.tableLen_empty hexps), hdrain, hshort, ← he, hadd]
  refine ⟨hexps, List.mem_append_left _ (List.mem_append_right _ (mem_byKind_of (by simp))), ?_⟩
  rw [addedTo_append, addedTo_append, addedTo_byKind, addedTo_creditOf, addedTo_append]
  split <;> rfl

theorem Mord.materialise_none (h : m.queue = [] ∨ 512 ≤ m.tableLen ∧ m.queue.head?.all (fun (q : QDesc) => !q.left.isEmpty) = true) :
    m.materialise c now prof = (m, []) := by
  unfold Mord.materialise
  cases hq : m.queue with
  | nil => rfl
  | cons q rest =>
    rw [hq] at h
    obtain ⟨hlen, hleft⟩ := h.resolve_left nofun
    dsimp only
    cases hl : q.left with
    | nil => simp [hl] at hleft
    | cons i left => exact if_pos hlen

theorem Mord.materialise_spent (hq : m.queue = q :: rest) (hl : q.left = []) :
    m.materialise c now prof = ({ m with queue := rest }, [.creditReturn]) := by
  unfold Mord.materialise
  simp only [hq, hl]

theorem State.materialise_eq (s : State) (n : Ch) : s.materialise n = s.runMord n fun c m => m.materialise c s.now (s.mdProfile n) := rfl

theorem materialise_takes (he : s.fb (chBase n) F.CH_MD_CTL_EN = true) (hs : s.mordantStalls n = false)
    (hq : (s.chan n).mord.queue = q :: rest) (hl : q.left = i :: left) (ht : (s.chan n).mord.tableLen < 512) :
    ∃ t, exec (.materialise n) s = .next t ∧
      (t.chan n).mord.queue = (if left.isEmpty then rest else { q with left := left, done := q.done + 1 } :: rest) ∧
      (t.chan n).mord.owed = (s.chan n).mord.owed + (if left.isEmpty then 1 else 0) ∧
      (t.chan n).mord.front = (s.chan n).mord.front ∧ (t.chan n).mord.input = (s.chan n).mord.input ∧
      t.clk = s.clk ∧ t.vat = s.vat ∧ (∀ m : Ch, m ≠ n → t.chan m = s.chan m) := by
  refine ⟨_, rfl, ?_⟩
  have h := State.runMord_emitted (op := fun c m => m.materialise c s.now (s.mdProfile n)) he hs
  rw [← State.materialise_eq] at h
  obtain ⟨hqueue, hfront, hinput, howed⟩ := Mord.materialise_kept (c := s.mdCfg n) (now := s.now) (prof := s.mdProfile n) hq hl ht
  exact ⟨h.queue_eq.trans hqueue, h.owed_eq.trans howed, h.front_eq.trans hfront, h.input_eq.trans hinput, h.clk, h.vat, h.others⟩

theorem materialise_alone (he : s.fb (chBase n) F.CH_MD_CTL_EN = true) (hs : s.mordantStalls n = false)
    (hq : (s.chan n).mord.queue = q :: rest) (hl : q.left = i :: left) (hexps : (s.chan n).mord.exps = []) (hfree : (s.chan n).mord.free = [])
    (hexp : e = q.d.expect (s.chan n).mord.gen s.now i q.done (s.mdProfile n q.d.profile.toNat).1 (s.mdProfile n q.d.profile.toNat).2) :
    ∃ t, exec (.materialise n) s = .next t ∧
      (16 * (e.ws + Int.ofNat (s.f (chBase n) F.CH_MD_H_H)) < (s.chan n).mord.front →
        (t.chan n).mord.exps = [] ∧ t.pair (chBase n + R.CH_MD_LATE_H) = (s.pair (chBase n + R.CH_MD_LATE_H) + 1) % 2 ^ 64 ∧
        t.fb (chBase n) F.CH_STAT_LATE_DESC = true) ∧
      ((s.chan n).mord.front ≤ 16 * (e.ws + Int.ofNat (s.f (chBase n) F.CH_MD_H_H)) →
        (t.chan n).mord.exps.map (fun (x : Exp) => (x.seq, x.elem, x.pol, x.gen)) = [(q.d.seq, i, q.d.polOf i q.done, (s.chan n).mord.gen)] ∧
        (t.chan n).mord.exps.map (fun (x : Exp) => (x.texp, x.texp - x.ws, x.we - x.texp)) =
          [(resolveTime 48 s.now q.d.texp.toNat + Int.ofNat (q.d.offset i), Int.ofNat (s.mdProfile n q.d.profile.toNat).1,
            Int.ofNat (s.mdProfile n q.d.profile.toNat).2)] ∧
        (t.chan n).mord.exps.map (fun (x : Exp) => (x.st, x.edge, x.covered)) =
          [(if (s.chan n).mord.front < 16 * e.ws then ExpSt.opened else ExpSt.watch, none, q.covered.contains i)] ∧
        (∀ a, a ≠ chBase n + R.CH_MD_STAT → t.w a = s.w a) ∧ t = { s with regs := t.regs, chans := t.chans }) := by
  refine ⟨_, rfl, ?_⟩
  have h := State.runMord_emitted (op := fun c m => m.materialise c s.now (s.mdProfile n)) he hs
  rw [← State.materialise_eq] at h
  generalize s.materialise n = t at *
  refine ⟨fun hlate => ?_, fun hfits => ?_⟩
  · obtain ⟨hnone, hmem, hcount⟩ := Mord.materialise_late (c := s.mdCfg n) (now := s.now) (prof := s.mdProfile n) hq hl hexps hfree rfl
      (by rw [hexp] at hlate; exact hlate)
    refine ⟨h.exps_eq.trans hnone, ?_, h.late hmem⟩
    rw [h.counted _ (by decide), hcount]
  · obtain ⟨b, hone, houts⟩ := Mord.materialise_enters (c := s.mdCfg n) (now := s.now) (prof := s.mdProfile n) hq hl hexps hfree rfl
      (by rw [hexp] at hfits; exact hfits)
    obtain ⟨hwords, hstands⟩ := h.silent (by rw [houts]; exact creditOf_eq left)
    rw [h.exps_eq, hone, hexp]
    refine ⟨rfl, ?_, rfl, hwords, hstands⟩
    refine congrArg (fun x => [x]) (Prod.ext rfl (Prod.ext ?_ ?_))
    · exact sub_sub_self ..
    · exact add_sub_cancel_left ..

theorem materialise_spends (he : s.fb (chBase n) F.CH_MD_CTL_EN = true) (hs : s.mordantStalls n = false)
    (hq : (s.chan n).mord.queue = q :: rest) (hl : q.left = []) :
    ∃ t, exec (.materialise n) s = .next t ∧ (t.chan n).mord.queue = rest ∧ (t.chan n).mord.owed = (s.chan n).mord.owed + 1 ∧
      (t.chan n).mord.exps = (s.chan n).mord.exps ∧ (∀ a, a ≠ chBase n + R.CH_MD_STAT → t.w a = s.w a) ∧
      (∀ m : Ch, m ≠ n → t.chan m = s.chan m) ∧ t = { s with regs := t.regs, chans := t.chans } := by
  refine ⟨_, rfl, ?_⟩
  have h := State.runMord_emitted (op := fun c m => m.materialise c s.now (s.mdProfile n)) he hs
  rw [← State.materialise_eq] at h
  rw [Mord.materialise_spent hq hl] at h
  obtain ⟨hwords, hstands⟩ := h.silent (by simp)
  exact ⟨h.queue_eq, h.owed_eq, h.exps_eq, hwords, h.others, hstands⟩

/-! ### MORDANT_EDGE (R115, R121, R128) -/

variable {j : MIn} {inputs : List MIn} {x : Int} {rising : Bool}

/-- Where an input takes the front. -/
def MIn.frontFrom (f : Int) : MIn → Int
  | .edge x _ => max f x
  | .watermark x => max f x
  | .blind _ x => max f x
  | .crowd _ => f

/-- The front has reached `x`; queue and input stand. -/
structure Mord.Reached (x : Int) (m m' : Mord) : Prop where
  front : m'.front = max m.front x
  queue : m'.queue = m.queue
  input : m'.input = m.input

theorem Mord.advance_reached (c : MdCfg) (x : Int) (m : Mord) : m.Reached x (m.advance c x).1 := by
  have h := (m.advance_commits c x).stands
  exact ⟨h.front_eq, h.queue_eq, h.input_eq⟩

/-- What moves log and table alone may go before, and after. -/
theorem Mord.Reached.before (h : m'.Reached x m'') (hf : m'.front = m.front) (hq : m'.queue = m.queue) (hi : m'.input = m.input) :
    m.Reached x m'' := ⟨by rw [h.front, hf], h.queue.trans hq, h.input.trans hi⟩

theorem Mord.Reached.after (h : m.Reached x m') (k : m'.OnlyLog m'') : m.Reached x m'' :=
  ⟨k.front_eq.trans h.front, k.queue_eq.trans h.queue, k.input_eq.trans h.input⟩

theorem Mord.drain_advance (c : MdCfg) (x : Int) (m : Mord) : m.Reached x ((m.drain c).1.advance c x).1 := by
  have h := (m.drain_commits c).stands
  exact (Mord.advance_reached c x _).before h.front_eq h.queue_eq h.input_eq

/-- An edge is offered, and kept among those taken. -/
def Mord.taken (x : Int × Bool) (m : Mord) : Mord := { m.offer x with seen := x :: m.seen }

theorem Mord.takeEdge_eq (c : MdCfg) (x : Int × Bool) (m : Mord) : m.takeEdge c x =
    ((((m.drain c).1.advance c x.1).1.makeRoom c).1.taken x,
      (m.drain c).2 ++ byKind (((m.drain c).1.advance c x.1).2 ++ (((m.drain c).1.advance c x.1).1.makeRoom c).2)) := by
  unfold Mord.takeEdge
  cases m.drain c with
  | mk m1 o1 =>
    dsimp only
    cases m1.advance c x.1 with
    | mk m2 o2 => rfl

theorem Mord.Reached.taken (h : m.Reached x m') (y : Int × Bool) : m.Reached x (m'.taken y) := by
  have hoffer := h.after (Mord.offer_onlyLog y m')
  exact ⟨hoffer.front, hoffer.queue, hoffer.input⟩

theorem Mord.takeEdge_reached (c : MdCfg) (y : Int × Bool) (m : Mord) : m.Reached y.1 (m.takeEdge c y).1 := by
  rw [Mord.takeEdge_eq]
  exact ((Mord.drain_advance c y.1 m).after (Mord.makeRoom_commits c _).stands).taken y

/-- The next input is taken; the front goes where it says. -/
theorem Mord.takeInput_kept (h : m.input = j :: inputs) : (m.takeInput c).1.input = inputs ∧
    (m.takeInput c).1.front = j.frontFrom m.front ∧ (m.takeInput c).1.queue = m.queue := by
  obtain ⟨m', hm'⟩ : ∃ m' : Mord, m' = { m with input := inputs } := ⟨_, rfl⟩
  have hreached (x : Int) (m'' : Mord) (k : m'.Reached x m'') : m''.input = inputs ∧ m''.front = max m.front x ∧ m''.queue = m.queue := by
    rw [hm'] at k
    exact ⟨k.input, k.front, k.queue⟩
  unfold Mord.takeInput
  rw [h]
  dsimp only
  rw [← hm']
  cases j with
  | edge x r => exact hreached x _ (Mord.takeEdge_reached c (x, r) m')
  | watermark x => exact hreached x _ (Mord.drain_advance c x m')
  | crowd x =>
    rw [hm']
    exact ⟨rfl, rfl, rfl⟩
  | blind x y =>
    have k := (m'.drain_commits c).stands
    exact hreached y _ ((Mord.advance_reached c y _).before k.front_eq k.queue_eq k.input_eq)

/-- Where no window closes or opens, an advance moves the front alone. -/
theorem Mord.advance_quiet (hclose : ∀ e ∈ m.exps, max m.front x ≤ 16 * e.we) (hopen : ∀ e ∈ m.exps, e.st ≠ .opened) :
    m.advance c x = ({ m with front := max m.front x }, []) := by
  have hclosed : ({ m with front := max m.front x } : Mord).closeWindows c = ({ m with front := max m.front x }, []) :=
    Mord.closeWindows_none fun e he => by simpa using fun _ => max_le_iff.1 (hclose e he)
  have hopened : ({ m with front := max m.front x } : Mord).openWindows = { m with front := max m.front x } := by
    refine congrArg (fun l => { m with front := max m.front x, exps := l }) ((List.map_congr_left fun e he => ?_).trans (List.map_id _))
    exact if_neg (by simp [hopen e he])
  unfold Mord.advance
  dsimp only
  rw [hclosed]
  exact congrArg (·, []) hopened

/-- Where nothing is due besides, an edge only moves the front and is offered. -/
theorem Mord.takeEdge_quiet (hdue : ∀ e ∈ m.exps, Exp.due c.h m.front e = false) (hfree : m.free = [])
    (hclose : ∀ e ∈ m.exps, max m.front x ≤ 16 * e.we) (hopen : ∀ e ∈ m.exps, e.st ≠ .opened) (hlog : m.logLen < 8192) :
    m.takeEdge c (x, rising) = (({ m with front := max m.front x } : Mord).taken (x, rising), []) := by
  have hroom : ({ m with front := max m.front x } : Mord).makeRoom c = ({ m with front := max m.front x }, []) := Mord.makeRoom_free hlog
  rw [Mord.takeEdge_eq, Mord.drain_none hdue (by simp [hfree])]
  dsimp only
  rw [Mord.advance_quiet hclose hopen]
  dsimp only
  rw [hroom]
  rfl

theorem Mord.takeInput_edge (h : m.input = .edge x rising :: inputs) :
    m.takeInput c = ({ m with input := inputs } : Mord).takeEdge c (x, rising) := by
  unfold Mord.takeInput
  rw [h]

/-- A polarity that fits does not oppose. -/
theorem Exp.opposes_of_matches (h : e.matches rising = true) : e.opposes rising = false := by
  unfold Exp.matches at h
  unfold Exp.opposes
  generalize e.pol = p at h ⊢
  revert p rising
  decide

/-- The only expectation of the table, where it watches and fits, binds the edge. -/
theorem Mord.taken_binds (hexps : m.exps = [e]) (hst : e.st = .watch) (hin : e.contains x = true) (hpol : e.matches rising = true) :
    (m.taken (x, rising)).exps = [{ e with st := .bound, edge := some (x, rising) }] ∧ (m.taken (x, rising)).free = m.free := by
  show (m.offer (x, rising)).exps = _ ∧ (m.offer (x, rising)).free = m.free
  unfold Mord.offer
  simp [hexps, Exp.opposes_of_matches hpol, hst, hin, hpol, updateFirst]

/-- Into an empty log and table an edge goes free. -/
theorem Mord.taken_stays (hexps : m.exps = []) (hfree : m.free = []) :
    (m.taken (x, rising)).exps = [] ∧ (m.taken (x, rising)).free = [(x, rising)] := by
  show (m.offer (x, rising)).exps = _ ∧ (m.offer (x, rising)).free = _
  unfold Mord.offer
  simp [hexps, hfree, insertEdge]

/-- The window still holds a front inside it. -/
theorem Exp.contains_le (h : e.contains x = true) : x ≤ 16 * e.we := of_decide_eq_true (Bool.and_eq_true_iff.1 h).2

theorem mordantEdge_takes (he : s.fb (chBase n) F.CH_MD_CTL_EN = true) (hs : s.mordantStalls n = false)
    (hi : (s.chan n).mord.input = j :: inputs) :
    ∃ t, exec (.mordantEdge n) s = .next t ∧ (t.chan n).mord.input = inputs ∧
      (t.chan n).mord.front = j.frontFrom (s.chan n).mord.front ∧
      (t.chan n).mord.queue = (s.chan n).mord.queue ∧ t.clk = s.clk ∧ t.vat = s.vat ∧ (∀ m : Ch, m ≠ n → t.chan m = s.chan m) := by
  refine ⟨_, rfl, ?_⟩
  have h := State.runMord_emitted (op := Mord.takeInput) he hs
  obtain ⟨hinput, hfront, hqueue⟩ := Mord.takeInput_kept (c := s.mdCfg n) hi
  exact ⟨h.input_eq.trans hinput, h.front_eq.trans hfront, h.queue_eq.trans hqueue, h.clk, h.vat, h.others⟩

theorem mordantEdge_binds (he : s.fb (chBase n) F.CH_MD_CTL_EN = true) (hs : s.mordantStalls n = false)
    (hi : (s.chan n).mord.input = .edge x rising :: inputs) (hexps : (s.chan n).mord.exps = [e]) (hfree : (s.chan n).mord.free = [])
    (hst : e.st = .watch) (hclosed : e.closed = false) (hedge : e.edge = none) (hin : e.contains x = true) (hpol : e.matches rising = true)
    (hfront : (s.chan n).mord.front ≤ x) (hdue : Exp.due (s.f (chBase n) F.CH_MD_H_H) (s.chan n).mord.front e = false) :
    ∃ t, exec (.mordantEdge n) s = .next t ∧ (t.chan n).mord.exps = [{ e with st := .bound, edge := some (x, rising) }] ∧
      (t.chan n).mord.free = [] ∧ (∀ a, a ≠ chBase n + R.CH_MD_STAT → t.w a = s.w a) ∧
      t = { s with regs := t.regs, chans := t.chans } := by
  refine ⟨_, rfl, ?_⟩
  have h := State.runMord_emitted (op := Mord.takeInput) he hs
  have hquiet : ({ (s.chan n).mord with input := inputs } : Mord).takeEdge (s.mdCfg n) (x, rising) = _ :=
    Mord.takeEdge_quiet (by rw [hexps]; exact List.forall_mem_singleton.2 hdue) hfree (by simpa [hexps, hfront] using Exp.contains_le hin) (by simp [hexps, hst])
      (by simp [Mord.logLen, hexps, hfree, hedge, hclosed])
  rw [Mord.takeInput_edge hi, hquiet] at h
  obtain ⟨hwords, hstands⟩ := h.silent (by simp)
  obtain ⟨hbound, hkept⟩ := Mord.taken_binds
    (m := { (s.chan n).mord with input := inputs, front := max (s.chan n).mord.front x }) hexps hst hin hpol
  exact ⟨h.exps_eq.trans hbound, (h.free_eq.trans hkept).trans hfree, hwords, hstands⟩

theorem mordantEdge_stays (he : s.fb (chBase n) F.CH_MD_CTL_EN = true) (hs : s.mordantStalls n = false)
    (hi : (s.chan n).mord.input = .edge x rising :: inputs) (hexps : (s.chan n).mord.exps = []) (hfree : (s.chan n).mord.free = []) :
    ∃ t, exec (.mordantEdge n) s = .next t ∧ (t.chan n).mord.free = [(x, rising)] ∧ (t.chan n).mord.exps = [] ∧
      (∀ a, a ≠ chBase n + R.CH_MD_STAT → t.w a = s.w a) ∧ t = { s with regs := t.regs, chans := t.chans } := by
  refine ⟨_, rfl, ?_⟩
  have h := State.runMord_emitted (op := Mord.takeInput) he hs
  have hquiet : ({ (s.chan n).mord with input := inputs } : Mord).takeEdge (s.mdCfg n) (x, rising) = _ :=
    Mord.takeEdge_quiet (by simp [hexps]) hfree (by simp [hexps]) (by simp [hexps]) (by simp [Mord.logLen, hexps, hfree])
  rw [Mord.takeInput_edge hi, hquiet] at h
  obtain ⟨hwords, hstands⟩ := h.silent (by simp)
  obtain ⟨hnone, hfreed⟩ := Mord.taken_stays (x := x) (rising := rising)
    (m := { (s.chan n).mord with input := inputs, front := max (s.chan n).mord.front x }) hexps hfree
  exact ⟨h.free_eq.trans hfreed, h.exps_eq.trans hnone, hwords, hstands⟩

/-! ### AUTO_SEAL (R132, R136) -/

theorem Exp.verdictOut_hit (h : e.edge.isSome = true) (k : Nat) : e.verdictOut.adds k = if k = R.CH_MD_HIT_H then 1 else 0 := by
  obtain ⟨x, hx⟩ := Option.isSome_iff_exists.1 h
  rw [Exp.verdictOut, hx]
  rfl

theorem Exp.verdictOut_miss (h : e.edge = none) (k : Nat) : e.verdictOut.adds k = if k = R.CH_MD_MISS_H then 1 else 0 := by
  rw [Exp.verdictOut, h]
  rfl

theorem Mord.sealFirst_some (h : m.exps.find? (Exp.due c.h m.front) = some e) : m.sealFirst c = m.seal c.ch c.polchk false e := by
  unfold Mord.sealFirst
  rw [h]

theorem Mord.sealFirst_none (h : m.exps.find? (Exp.due c.h m.front) = none) : m.sealFirst c = (m, []) := by
  unfold Mord.sealFirst
  rw [h]

theorem autoSeal_commits (he : s.fb (chBase n) F.CH_MD_CTL_EN = true) (hs : s.mordantStalls n = false)
    (hfind : (s.chan n).mord.exps.find? (Exp.due (s.f (chBase n) F.CH_MD_H_H) (s.chan n).mord.front) = some e) :
    ∃ t, exec (.autoSeal n) s = .next t ∧
      (t.chan n).mord.exps = (s.chan n).mord.exps.filter (fun (x : Exp) => x.id != e.id) ∧
      (e.edge.isSome = true → t.pair (chBase n + R.CH_MD_HIT_H) = (s.pair (chBase n + R.CH_MD_HIT_H) + 1) % 2 ^ 64 ∧
        t.pair (chBase n + R.CH_MD_MISS_H) = s.pair (chBase n + R.CH_MD_MISS_H) ∧ (t.chan n).devN = (s.chan n).devN + 1) ∧
      (e.edge = none → t.pair (chBase n + R.CH_MD_MISS_H) = (s.pair (chBase n + R.CH_MD_MISS_H) + 1) % 2 ^ 64 ∧
        t.pair (chBase n + R.CH_MD_HIT_H) = s.pair (chBase n + R.CH_MD_HIT_H) ∧ t.lake = s.lake) ∧
      (∀ m : Ch, m ≠ n → t.chan m = s.chan m) ∧ t.clk = s.clk ∧ t.vat = s.vat := by
  refine ⟨_, rfl, ?_⟩
  have h := State.runMord_emitted (op := Mord.sealFirst) he hs
  rw [Mord.sealFirst_some (c := s.mdCfg n) hfind] at h
  obtain ⟨hexps, -, -⟩ := Mord.seal_stands (s.mdCfg n).ch (s.mdCfg n).polchk false e (s.chan n).mord
  have hadded (k : Nat) := Mord.seal_added k (s.mdCfg n).ch (s.mdCfg n).polchk false e (s.chan n).mord
  refine ⟨h.exps_eq.trans hexps, fun hedge => ⟨?_, ?_, ?_⟩, fun hedge => ⟨?_, ?_, ?_⟩, h.others, h.clk, h.vat⟩
  · rw [h.counted _ (by decide), hadded, Exp.verdictOut_hit hedge]
    rfl
  · exact h.uncounted (by decide) ((hadded _).trans (Exp.verdictOut_hit hedge _))
  · rw [h.devN_eq, hadded, Exp.verdictOut_hit hedge]
    rfl
  · rw [h.counted _ (by decide), hadded, Exp.verdictOut_miss hedge]
    rfl
  · exact h.uncounted (by decide) ((hadded _).trans (Exp.verdictOut_miss hedge _))
  · exact (h.lake ((hadded _).trans (Exp.verdictOut_miss hedge _))).1

/-! ### EDGE_AGE_OUT (R131, R138) -/

/-- The oldest due free edge ages after every due expectation has sealed. -/
theorem Mord.ageFirst_some {y : Int × Bool} (h : m.free.find? (edgeDue c.h m.front) = some y) : m.ageFirst c =
    (((m.sealDue c).1.ageOut c.ch c.xemit false y).1, (m.sealDue c).2 ++ ((m.sealDue c).1.ageOut c.ch c.xemit false y).2) := by
  have hfree := m.sealDue_free c
  have hfront := (m.sealDue_commits c).stands.front_eq
  unfold Mord.ageFirst
  cases hr : m.sealDue c with
  | mk m' o =>
    rw [hr] at hfree hfront
    dsimp only at hfree hfront ⊢
    rw [hfree, hfront, h]

theorem Mord.ageFirst_none (hexps : m.exps.any (Exp.due c.h m.front) = false) (hfree : m.free.any (edgeDue c.h m.front) = false) :
    m.ageFirst c = (m, []) := by
  unfold Mord.ageFirst
  rw [Mord.sealDue_none (by simpa using hexps)]
  dsimp only
  rw [List.find?_eq_none.2 (by simpa using hfree)]

theorem edgeAgeOut_ages {y : Int × Bool} (he : s.fb (chBase n) F.CH_MD_CTL_EN = true) (hs : s.mordantStalls n = false)
    (hfind : (s.chan n).mord.free.find? (edgeDue (s.f (chBase n) F.CH_MD_H_H) (s.chan n).mord.front) = some y) :
    ∃ t, exec (.edgeAgeOut n) s = .next t ∧ (t.chan n).mord.free = (s.chan n).mord.free.erase y ∧
      (∀ e ∈ (t.chan n).mord.exps, Exp.due (s.f (chBase n) F.CH_MD_H_H) (s.chan n).mord.front e = false) ∧
      t.pair (chBase n + R.CH_MD_EXTRA_H) = (s.pair (chBase n + R.CH_MD_EXTRA_H) + 1) % 2 ^ 64 ∧
      ((s.chan n).mord.exps = [] →
        (∀ a, a ∉ [chBase n + R.CH_MD_EXTRA_H, chBase n + R.CH_MD_EXTRA_H + 4, chBase n + R.CH_MD_STAT] → t.w a = s.w a) ∧
        t = { s with regs := t.regs, chans := t.chans, link0 := t.link0, link1 := t.link1 }) ∧
      (∀ m : Ch, m ≠ n → t.chan m = s.chan m) ∧ t.clk = s.clk ∧ t.vat = s.vat := by
  refine ⟨_, rfl, ?_⟩
  have h := State.runMord_emitted (op := Mord.ageFirst) he hs
  rw [Mord.ageFirst_some (c := s.mdCfg n) hfind] at h
  obtain ⟨m, hm⟩ : ∃ m, m = (s.chan n).mord := ⟨_, rfl⟩
  obtain ⟨c, hc⟩ : ∃ c, c = s.mdCfg n := ⟨_, rfl⟩
  have hh : s.f (chBase n) F.CH_MD_H_H = c.h := by rw [hc]; rfl
  rw [← hm, ← hc] at h
  rw [← hm, hh]
  have hage (k : Nat) := Mord.ageOut_added k c.ch c.xemit false y (m.sealDue c).1
  refine ⟨?_, fun e hmem => ?_, ?_, fun hexps => ⟨fun a ha => ?_, ?_⟩, h.others, h.clk, h.vat⟩
  · exact h.free_eq.trans (congrArg (·.erase y) (m.sealDue_free c))
  · rw [h.exps_eq] at hmem
    exact (Mord.sealDue_exps c hmem).2
  · rw [h.counted _ (by decide), addedTo_append, hage, Mord.sealDue_eq, Mord.each_seal_extra]
    rfl
  · obtain ⟨before, houts, hbefore⟩ := Mord.ageOut_outs c.ch c.xemit false y (m.sealDue c).1
    rw [Mord.sealDue_none (by simp [hexps])] at h houts
    simp only [List.mem_cons, List.not_mem_nil, or_false, not_or] at ha
    refine h.words a ha.2.2 fun o ho => ?_
    rw [List.nil_append, houts, List.mem_append, List.mem_singleton] at ho
    rcases ho with ho | rfl
    · rcases hbefore o ho with rfl | ⟨w0, w1, rfl⟩ <;> exact List.not_mem_nil
    · simp [MOut.offs, ha, ← Nat.add_assoc]
  · rw [Mord.sealDue_none (by simp [hexps])] at h hage
    exact h.lakeless (by rw [List.nil_append, hage]; rfl)

/-- Settles O30: each clause is the lemma of its command above; what finds nothing to do, or may not run, leaves the state. -/
theorem mordantBindsSealsAndAges : Obligations.MordantBindsSealsAndAges := by
  unfold Obligations.MordantBindsSealsAndAges
  refine ⟨?_, ?_, ?_, ?_, ?_, ?_, ?_, ?_, ?_, ?_, ?_, ?_, ?_, ?_, ?_, ?_, ?_, ?_, ?_, ?_⟩
  · exact fun s n q rest i left he hs hq hl ht => materialise_takes he hs hq hl ht
  · exact fun s n q rest i left e he hs hq hl hexps hfree hexp => materialise_alone he hs hq hl hexps hfree hexp
  · exact fun s n q rest he hs hq hl => materialise_spends he hs hq hl
  · exact fun s n he hs h => ⟨_, rfl, State.runMord_idle (op := fun c m => m.materialise c s.now (s.mdProfile n)) he hs (Mord.materialise_none (c := s.mdCfg n) h) rfl⟩
  · intro s n i rest he hs hi
    obtain ⟨t, ht, hinput, hfront, hkept⟩ := mordantEdge_takes he hs hi
    exact ⟨t, ht, hinput, hfront.trans (by cases i <;> rfl), hkept⟩
  · exact fun s n x r rest e he hs hi hexps hfree hst hclosed hedge hin hpol hfront hdue =>
      mordantEdge_binds he hs hi hexps hfree hst hclosed hedge hin hpol hfront hdue
  · exact fun s n x r rest he hs hi hexps hfree => mordantEdge_stays he hs hi hexps hfree
  · exact fun s n he hs h => ⟨_, rfl, State.runMord_idle (op := Mord.takeInput) he hs (by unfold Mord.takeInput; rw [h]) rfl⟩
  · exact fun s n e he hs h => autoSeal_commits he hs h
  · exact fun s n he hs h => ⟨_, rfl, State.runMord_idle (op := Mord.sealFirst) he hs (Mord.sealFirst_none (c := s.mdCfg n) h) rfl⟩
  · exact fun s n x he hs h => edgeAgeOut_ages he hs h
  · exact fun s n he hs hexps hfree => ⟨_, rfl, State.runMord_idle (op := Mord.ageFirst) he hs (Mord.ageFirst_none (c := s.mdCfg n) hexps hfree) rfl⟩
  · exact fun s n he => ⟨_, rfl, State.runMord_disabled he⟩
  · exact fun s n hs => ⟨_, rfl, State.runMord_stalled hs⟩
  · exact fun s n he => ⟨_, rfl, State.runMord_disabled he⟩
  · exact fun s n hs => ⟨_, rfl, State.runMord_stalled hs⟩
  · exact fun s n he => ⟨_, rfl, State.runMord_disabled he⟩
  · exact fun s n hs => ⟨_, rfl, State.runMord_stalled hs⟩
  · exact fun s n he => ⟨_, rfl, State.runMord_disabled he⟩
  · exact fun s n hs => ⟨_, rfl, State.runMord_stalled hs⟩

end Sys2Proof.Machine
end

section
/-!
PROOFS. Enabling, disabling, FLUSH and the other commands that CH_MD_CTL, CH_MD_H and CH_MD_CMD carry (R125, R126,
R140, R205, R288).
-/

namespace Sys2Proof.Machine

variable {s t u : State} {n : Ch} {p : Path} {r : RegRow} {w x : Word} {a k : Nat}

/-! ### The registers' own writes -/

/-- No claim holds CH_MD_CTL. -/
theorem State.writeChan_mdCtl (s : State) (p : Path) (n : Ch) (r : RegRow) (w : Word) : s.writeChan p n R.CH_MD_CTL r w = s.writeMdCtl n w := by
  unfold State.writeChan
  dsimp only
  rw [show claimOffs.contains R.CH_MD_CTL = false from rfl, Bool.and_false, if_neg Bool.false_ne_true]
  rfl

/-- No claim holds CH_MD_H. -/
theorem State.writeChan_mdH (s : State) (p : Path) (n : Ch) (r : RegRow) (w : Word) : s.writeChan p n R.CH_MD_H r w = s.writeMdH n w := by
  unfold State.writeChan
  dsimp only
  rw [show claimOffs.contains R.CH_MD_H = false from rfl, Bool.and_false, if_neg Bool.false_ne_true]
  rfl

/-- No claim holds CH_MD_CMD. -/
theorem State.writeChan_mdCmd (s : State) (p : Path) (n : Ch) (r : RegRow) (w : Word) : s.writeChan p n R.CH_MD_CMD r w = s.writeMdCmd n w := by
  unfold State.writeChan
  dsimp only
  rw [show claimOffs.contains R.CH_MD_CMD = false from rfl, Bool.and_false, if_neg Bool.false_ne_true]
  rfl

/-- What the host's write answers. -/
def State.hostAnswered (s : State) : State := s.modPath .host fun x => { x with resp := 0 }

theorem State.wr_mdCtl (hs : s.Serves) (n : Ch) (w : Word) : s.wr .host (chBase n + R.CH_MD_CTL) w = (s.writeMdCtl n w).hostAnswered := by
  obtain ⟨r, hr, hg, -, -⟩ := row_CH_MD_CTL
  rw [State.wr_chan hs n (by decide) (by decide) hr hg, State.writeChan_mdCtl]
  rfl

theorem State.wr_mdH (hs : s.Serves) (n : Ch) (w : Word) : s.wr .host (chBase n + R.CH_MD_H) w = (s.writeMdH n w).hostAnswered := by
  obtain ⟨r, hr, hg, -, -⟩ := row_CH_MD_H
  rw [State.wr_chan hs n (by decide) (by decide) hr hg, State.writeChan_mdH]
  rfl

theorem State.wrCmd_md (hs : s.Serves) (n : Ch) (f : Fld) :
    s.wrCmd (chBase n + R.CH_MD_CMD) f = (s.writeMdCmd n (f.into 0#32 1)).hostAnswered := by
  obtain ⟨r, hr, hg, hrw, -⟩ := row_CH_MD_CMD
  rw [State.wrCmd_chan hs n (by decide) (by decide) hr hg, State.writeChan_mdCmd, hrw, BitVec.and_zero]
  rfl

@[simp] theorem State.chan_hostAnswered (s : State) (m : Ch) : s.hostAnswered.chan m = s.chan m := rfl
@[simp] theorem State.w_hostAnswered (s : State) (a : Nat) : s.hostAnswered.w a = s.w a := rfl
@[simp] theorem State.f_hostAnswered (s : State) (b : Nat) (f : Fld) : s.hostAnswered.f b f = s.f b f := rfl
@[simp] theorem State.fb_hostAnswered (s : State) (b : Nat) (f : Fld) : s.hostAnswered.fb b f = s.fb b f := rfl
@[simp] theorem State.pair_hostAnswered (s : State) (a : Nat) : s.hostAnswered.pair a = s.pair a := rfl

/-! ### CH_MD_CTL's fields (R125) -/

/-- The fields beside EN stand where EN is put. -/
theorem mdCtl_en_into (w : Word) (v : Nat) : F.CH_MD_CTL_EN.into w v &&& 0x78000000#32 = w &&& 0x78000000#32 := by
  have hmask : maskAt 31 1 = 0x80000000#32 := by decide
  rw [Fld.into, bitsSet, hmask, BitVec.and_or_distrib_right, BitVec.and_assoc, BitVec.and_assoc,
    show 0x80000000#32 &&& 0x78000000#32 = 0#32 from rfl, BitVec.and_zero, BitVec.or_zero]
  rfl

/-- The fields beside EN take their values. -/
def State.keepCtl (n : Ch) (w : Word) (s : State) : State :=
  s.setW (chBase n + R.CH_MD_CTL) (F.CH_MD_CTL_EN.into (w &&& 0xF8000000#32) (s.f (chBase n) F.CH_MD_CTL_EN))

theorem State.keepCtl_ctl (s : State) (n : Ch) (w : Word) :
    (s.keepCtl n w).w (chBase n + R.CH_MD_CTL) &&& 0x78000000#32 = w &&& 0x78000000#32 := by
  rw [State.keepCtl, State.w_setW_same, mdCtl_en_into, BitVec.and_assoc]
  rfl

theorem State.keepCtl_en (s : State) (n : Ch) (w : Word) :
    (s.keepCtl n w).fb (chBase n) F.CH_MD_CTL_EN = s.fb (chBase n) F.CH_MD_CTL_EN := by
  have hlt : s.f (chBase n) F.CH_MD_CTL_EN < 2 ^ 1 := Fld.of_lt _ _
  rw [State.fb, State.keepCtl, State.f_setW, if_pos rfl, Fld.of_into _ _ _ (by decide), Nat.mod_eq_of_lt hlt, State.fb]

theorem State.w_keepCtl (s : State) (w : Word) (h : a ≠ chBase n + R.CH_MD_CTL) : (s.keepCtl n w).w a = s.w a := s.w_setW_other _ h.symm

@[simp] theorem State.chan_keepCtl (s : State) (n m : Ch) (w : Word) : (s.keepCtl n w).chan m = s.chan m := rfl

section Enables
variable (hw : F.CH_MD_CTL_EN.of w = 1)
include hw

theorem State.writeMdCtl_refused (h : s.mdRefused n = true) : s.writeMdCtl n w = (s.keepCtl n w).raise (chBase n) F.CH_MD_STAT_EN_REJ := by
  unfold State.writeMdCtl
  exact (if_pos hw).trans (if_pos h)

theorem State.writeMdCtl_again (h : s.mdRefused n = false) (he : s.fb (chBase n) F.CH_MD_CTL_EN = true) : s.writeMdCtl n w = s.keepCtl n w := by
  unfold State.writeMdCtl
  exact (if_pos hw).trans ((if_neg (by simp [h])).trans (if_pos he))

/-- A generation starts: no SEQ is expected, and nothing is the ordering reference. -/
def Chan.startMord (c : Chan) : Chan := { c with mord := { c.mord with gen := 0, expSeq := none, orderRef := none } }

theorem State.writeMdCtl_enables (h : s.mdRefused n = false) (he : s.fb (chBase n) F.CH_MD_CTL_EN = false) :
    s.writeMdCtl n w = ((((s.breakIdle n).keepCtl n w).setF (chBase n) F.CH_MD_CTL_EN 1).modChan n Chan.startMord).showGen n := by
  unfold State.writeMdCtl
  exact (if_pos hw).trans ((if_neg (by simp [h])).trans (if_neg (by simp [he])))

end Enables

theorem State.writeMdCtl_disables (hw : F.CH_MD_CTL_EN.of w = 0) : s.writeMdCtl n w =
    (((s.keepCtl n w).flushMord n).modChan n fun c => { c with mord := { c.mord with input := [] } }).setF (chBase n) F.CH_MD_CTL_EN 0 := by
  unfold State.writeMdCtl
  exact if_neg (by omega)

/-! ### MD_ENABLE (R125, R205) -/

/-- What every MD_ENABLE leaves. -/
structure State.MdEnabling (n : Ch) (w : Word) (s t : State) : Prop where
  fields : t.w (chBase n + R.CH_MD_CTL) &&& 0x78000000#32 = w &&& 0x78000000#32
  others : ∀ m : Ch, m ≠ n → t.chan m = s.chan m
  stands : s.OnlyFabric t

theorem State.mdEnable_refused (s : State) (n : Ch) (w : Word) (ht : t = (s.keepCtl n w).raise (chBase n) F.CH_MD_STAT_EN_REJ) :
    s.MdEnabling n w t ∧ t.fb (chBase n) F.CH_MD_STAT_EN_REJ = true ∧ t.fb (chBase n) F.CH_MD_CTL_EN = s.fb (chBase n) F.CH_MD_CTL_EN ∧
      t.chans = s.chans := by
  have hctl := s.keepCtl_ctl n w
  have hen := s.keepCtl_en n w
  have hstands : s.OnlyFabric (s.keepCtl n w) := .setW (.refl s) ..
  have hchan (m : Ch) := s.chan_keepCtl n m w
  have hchans : (s.keepCtl n w).chans = s.chans := rfl
  generalize s.keepCtl n w = v at *
  rw [ht]
  refine ⟨⟨?_, fun m hm => hchan m, .setF hstands ..⟩, v.fb_raise (chBase n) rfl (by decide), ?_, hchans⟩
  · rw [State.raise, State.w_setF_other _ (by simp), hctl]
  · rw [State.raise, State.fb_setF_other _ (by simp), hen]

theorem State.mdEnable_again (s : State) (n : Ch) (w : Word) (he : s.fb (chBase n) F.CH_MD_CTL_EN = true) (ht : t = s.keepCtl n w) :
    s.MdEnabling n w t ∧ t.fb (chBase n) F.CH_MD_CTL_EN = true ∧ t.chans = s.chans := by
  rw [ht]
  exact ⟨⟨s.keepCtl_ctl n w, fun m _ => s.chan_keepCtl n m w, .setW (.refl s) ..⟩, (s.keepCtl_en n w).trans he, rfl⟩

theorem State.mdEnable_starts (s : State) (n : Ch) (w : Word)
    (ht : t = ((((s.breakIdle n).keepCtl n w).setF (chBase n) F.CH_MD_CTL_EN 1).modChan n Chan.startMord).showGen n) :
    s.MdEnabling n w t ∧ t.fb (chBase n) F.CH_MD_CTL_EN = true ∧ t.f (chBase n) F.CH_MD_STAT_GEN = 0 ∧
      (t.chan n).mord = { (s.chan n).mord with gen := 0, expSeq := none, orderRef := none } := by
  have hidle := s.breakIdle_onlyIdle n
  obtain ⟨x, hx⟩ := hidle.chan
  have hfabric : s.OnlyFabric (s.breakIdle n) := (State.OnlyFabric.refl s).idle hidle
  have hothers := hidle.others
  generalize s.breakIdle n = u at *
  obtain ⟨v, hv⟩ : ∃ v, v = ((u.keepCtl n w).setF (chBase n) F.CH_MD_CTL_EN 1).modChan n Chan.startMord := ⟨_, rfl⟩
  have hown : v.chan n = { (s.chan n).startMord with blind := x } := by
    rw [hv, State.chan_modChan_same, State.chan_setF, State.chan_keepCtl, hx]
    rfl
  have hgen : v.showGen n = v.setF (chBase n) F.CH_MD_STAT_GEN 0 := by
    rw [State.showGen, hown]
    rfl
  rw [← hv, hgen] at ht
  rw [ht]
  refine ⟨⟨?_, fun m hm => ?_, ?_⟩, ?_, ?_, ?_⟩
  · rw [State.w_setF_other _ (by simp), hv, State.w_modChan, State.w_setF, if_pos rfl, mdCtl_en_into, State.keepCtl_ctl]
  · rw [State.chan_setF, hv, State.chan_modChan_other _ _ hm.symm, State.chan_setF, State.chan_keepCtl, hothers m hm]
  · rw [hv]
    exact .setF (.modChan (.setF (.setW hfabric ..) ..) ..) ..
  · rw [State.fb_setF_other _ (by simp), hv, State.fb, State.f, State.w_modChan]
    exact (u.keepCtl n w).fb_raise (chBase n) rfl (by decide)
  · rw [State.f_setF _ _ _ _ (by decide)]
    rfl
  · rw [State.chan_setF, hown]
    rfl

theorem mdEnable_enables (hs : s.Serves) (n : Ch) (w : Word) :
    ∃ t, exec (.mdEnable n w) s = .next t ∧ t.w (chBase n + R.CH_MD_CTL) &&& 0x78000000#32 = w &&& 0x78000000#32 ∧
      (s.mdRefused n = true → t.fb (chBase n) F.CH_MD_STAT_EN_REJ = true ∧
        t.fb (chBase n) F.CH_MD_CTL_EN = s.fb (chBase n) F.CH_MD_CTL_EN ∧ t.chans = s.chans) ∧
      (s.mdRefused n = false → s.fb (chBase n) F.CH_MD_CTL_EN = false → t.fb (chBase n) F.CH_MD_CTL_EN = true ∧
        t.f (chBase n) F.CH_MD_STAT_GEN = 0 ∧
        (t.chan n).mord = { (s.chan n).mord with gen := 0, expSeq := none, orderRef := none }) ∧
      (s.mdRefused n = false → s.fb (chBase n) F.CH_MD_CTL_EN = true → t.fb (chBase n) F.CH_MD_CTL_EN = true ∧ t.chans = s.chans) ∧
      (∀ m : Ch, m ≠ n → t.chan m = s.chan m) ∧ t.clk = s.clk ∧ s.SameMemory t := by
  have hw : F.CH_MD_CTL_EN.of (F.CH_MD_CTL_EN.into w 1) = 1 := Fld.of_into _ _ _ (by decide)
  refine ⟨_, rfl, ?_⟩
  rw [State.wr_mdCtl hs, ← mdCtl_en_into w 1]
  obtain ⟨x, hx⟩ : ∃ x, x = F.CH_MD_CTL_EN.into w 1 := ⟨_, rfl⟩
  rw [← hx] at hw ⊢
  obtain ⟨t, ht⟩ : ∃ t, t = s.writeMdCtl n x := ⟨_, rfl⟩
  rw [← ht]
  have hall (h : s.MdEnabling n x t) :
      (∀ m : Ch, m ≠ n → t.hostAnswered.chan m = s.chan m) ∧ t.hostAnswered.clk = s.clk ∧ s.SameMemory t.hostAnswered :=
    ⟨h.others, h.stands.clk, h.stands.memory⟩
  cases hr : s.mdRefused n with
  | true =>
    obtain ⟨h, hrej, hen, hchans⟩ := State.mdEnable_refused s n x (ht.trans (State.writeMdCtl_refused hw hr))
    exact ⟨h.fields, fun _ => ⟨hrej, hen, hchans⟩, nofun, nofun, hall h⟩
  | false =>
    cases he : s.fb (chBase n) F.CH_MD_CTL_EN with
    | true =>
      obtain ⟨h, hen, hchans⟩ := State.mdEnable_again s n x he (ht.trans (State.writeMdCtl_again hw hr he))
      exact ⟨h.fields, nofun, nofun, fun _ _ => ⟨hen, hchans⟩, hall h⟩
    | false =>
      obtain ⟨h, hen, hgen, hmord⟩ := State.mdEnable_starts s n x (ht.trans (State.writeMdCtl_enables hw hr he))
      exact ⟨h.fields, nofun, fun _ _ => ⟨hen, hgen, hmord⟩, nofun, hall h⟩

/-! ### Withdrawal (R126) -/

/-- The elements a flush withdraws. -/
def Mord.unsealed (m : Mord) : Nat := m.exps.length + (m.queue.map fun (q : QDesc) => q.left.length).sum

/-- A flush puts out what it withdraws, and the credit of each queued descriptor. -/
theorem Mord.flush_outs (m : Mord) : creditsOf m.flush.2 = m.queue.length ∧ addedTo R.CH_MD_WDRAW_H m.flush.2 = m.unsealed ∧
    addedTo R.CH_MD_HIT_H m.flush.2 = 0 ∧ ∀ o ∈ m.flush.2, o = .withdrawn m.unsealed ∨ o = .creditReturn := by
  have hcredits : creditsOf (m.queue.map fun _ => MOut.creditReturn) = m.queue.length := by simp [creditsOf, MOut.credit]
  have hadded (k : Nat) : addedTo k (m.queue.map fun _ => MOut.creditReturn) = 0 := by simp [addedTo, MOut.adds]
  refine ⟨?_, ?_, ?_, fun o ho => ?_⟩
  · exact (Nat.zero_add _).trans hcredits
  · exact congrArg (m.unsealed + ·) (hadded _)
  · exact congrArg (0 + ·) (hadded _)
  · rcases List.mem_cons.1 ho with rfl | ho
    · exact .inl rfl
    · obtain ⟨-, -, rfl⟩ := List.mem_map.1 ho
      exact .inr rfl

/-- Everything unsealed of channel n is withdrawn and counted; its Mordant and CH_MD_WDRAW may differ, and nothing else. -/
structure State.Flushed (n : Ch) (s t : State) : Prop where
  exps : (t.chan n).mord.exps = []
  queue : (t.chan n).mord.queue = []
  free : (t.chan n).mord.free = []
  owed : (t.chan n).mord.owed = (s.chan n).mord.owed + (s.chan n).mord.queue.length
  counted : t.pair (chBase n + R.CH_MD_WDRAW_H) = (s.pair (chBase n + R.CH_MD_WDRAW_H) + (s.chan n).mord.unsealed) % 2 ^ 64
  ctl : t.w (chBase n + R.CH_MD_CTL) = s.w (chBase n + R.CH_MD_CTL)
  others : ∀ m : Ch, m ≠ n → t.chan m = s.chan m
  stands : s.OnlyChans t

theorem State.flushMord_flushed (s : State) (n : Ch) : s.Flushed n (s.flushMord n) := by
  have h := s.mordSet_emitted n (s.chan n).mord.flush
  obtain ⟨hcredits, hwdraw, hhit, houts⟩ := (s.chan n).mord.flush_outs
  obtain ⟨h0, h1⟩ := h.links fun w0 w1 hm => by simpa using houts _ hm
  have hstands := h.lakeless hhit
  rw [h0, h1] at hstands
  exact {
    exps := h.exps_eq
    queue := h.queue_eq
    free := h.free_eq
    owed := h.owed_eq.trans (congrArg _ hcredits)
    counted := (h.counted _ (by decide)).trans (by rw [hwdraw])
    ctl := h.words _ (by simp) fun o ho => by
      rcases houts o ho with rfl | rfl
      · exact not_mem_offs (show R.CH_MD_CTL ∉ [R.CH_MD_WDRAW_H, R.CH_MD_WDRAW_H + 4] by decide) n
      · exact List.not_mem_nil
    others := h.others
    stands := hstands }

theorem State.Flushed.memory (h : s.Flushed n t) : s.SameMemory t := h.stands.fabric.memory

theorem State.writeMdCmd_flush (s : State) (n : Ch) : s.writeMdCmd n (F.CH_MD_CMD_FLUSH.into 0#32 1) = s.flushMord n := by
  unfold State.writeMdCmd
  dsimp only
  rw [if_neg (by decide), if_neg (by decide), if_pos (by decide)]

theorem flush_withdraws (hs : s.Serves) (n : Ch) :
    ∃ t, exec (.flush n) s = .next t ∧ t.w (chBase n + R.CH_MD_CTL) = s.w (chBase n + R.CH_MD_CTL) ∧
      (t.chan n).mord.exps = [] ∧ (t.chan n).mord.queue = [] ∧ (t.chan n).mord.free = [] ∧
      (t.chan n).mord.owed = (s.chan n).mord.owed + (s.chan n).mord.queue.length ∧
      t.pair (chBase n + R.CH_MD_WDRAW_H) = (s.pair (chBase n + R.CH_MD_WDRAW_H) + (s.chan n).mord.unsealed) % 2 ^ 64 ∧
      (∀ m : Ch, m ≠ n → t.chan m = s.chan m) ∧ t.clk = s.clk ∧ s.SameMemory t ∧ t.link0 = s.link0 ∧ t.link1 = s.link1 := by
  have h := s.flushMord_flushed n
  refine ⟨_, rfl, ?_⟩
  rw [State.wrCmd_md hs, State.writeMdCmd_flush]
  generalize s.flushMord n = t at *
  refine ⟨h.ctl, h.exps, h.queue, h.free, h.owed, h.counted, h.others, h.stands.clk, h.memory, ?_, ?_⟩
  · show t.link0 = s.link0
    rw [h.stands]
  · show t.link1 = s.link1
    rw [h.stands]

theorem mdDisable_withdraws (hs : s.Serves) (n : Ch) :
    ∃ t, exec (.mdDisable n) s = .next t ∧ t.fb (chBase n) F.CH_MD_CTL_EN = false ∧
      t.w (chBase n + R.CH_MD_CTL) &&& 0x78000000#32 = s.w (chBase n + R.CH_MD_CTL) &&& 0x78000000#32 ∧
      (t.chan n).mord.exps = [] ∧ (t.chan n).mord.queue = [] ∧ (t.chan n).mord.free = [] ∧ (t.chan n).mord.input = [] ∧
      (t.chan n).mord.owed = (s.chan n).mord.owed + (s.chan n).mord.queue.length ∧
      t.pair (chBase n + R.CH_MD_WDRAW_H) = (s.pair (chBase n + R.CH_MD_WDRAW_H) + (s.chan n).mord.unsealed) % 2 ^ 64 ∧
      (∀ m : Ch, m ≠ n → t.chan m = s.chan m) ∧ t.clk = s.clk ∧ s.SameMemory t ∧ t.link0 = s.link0 ∧ t.link1 = s.link1 := by
  have hw : F.CH_MD_CTL_EN.of (F.CH_MD_CTL_EN.into (s.w (chBase n + R.CH_MD_CTL)) 0) = 0 := Fld.of_into _ _ _ (by decide)
  refine ⟨_, rfl, ?_⟩
  rw [State.wr_mdCtl hs, ← mdCtl_en_into (s.w (chBase n + R.CH_MD_CTL)) 0]
  obtain ⟨x, hx⟩ : ∃ x, x = F.CH_MD_CTL_EN.into (s.w (chBase n + R.CH_MD_CTL)) 0 := ⟨_, rfl⟩
  rw [← hx] at hw ⊢
  rw [State.writeMdCtl_disables hw]
  have h := (s.keepCtl n x).flushMord_flushed n
  have hstands : s.OnlyChans ((s.keepCtl n x).flushMord n) := (State.OnlyChans.setW (.refl s) ..).trans h.stands
  have hpair : (s.keepCtl n x).pair (chBase n + R.CH_MD_WDRAW_H) = s.pair (chBase n + R.CH_MD_WDRAW_H) := by
    rw [State.pair, State.w_keepCtl _ _ (by simp), State.w_keepCtl _ _ (off_ne_low n (by decide)).symm, State.pair]
  have hcounted := h.counted
  rw [hpair] at hcounted
  have hctl := h.ctl
  have hothers := h.others
  obtain ⟨v, hv⟩ : ∃ v, v = (s.keepCtl n x).flushMord n := ⟨_, rfl⟩
  rw [← hv] at h hstands hcounted hctl hothers ⊢
  obtain ⟨c, hc⟩ : ∃ c : Chan, c = { v.chan n with mord := { (v.chan n).mord with input := [] } } := ⟨_, rfl⟩
  have hmod : (v.modChan n fun c => { c with mord := { c.mord with input := [] } }) = v.setChan n c := by rw [hc]; rfl
  have hlast : s.OnlyChans ((v.setChan n c).setF (chBase n) F.CH_MD_CTL_EN 0) := .setF (.setChan hstands ..) ..
  rw [hmod]
  have hown : ((v.setChan n c).setF (chBase n) F.CH_MD_CTL_EN 0).chan n = c := (v.chan_setChan_same n c)
  have hen : ((v.setChan n c).setF (chBase n) F.CH_MD_CTL_EN 0).fb (chBase n) F.CH_MD_CTL_EN = false := by
    rw [State.fb, State.f_setF _ _ _ _ (by decide)]
    rfl
  have hword : ((v.setChan n c).setF (chBase n) F.CH_MD_CTL_EN 0).w (chBase n + R.CH_MD_CTL) &&& 0x78000000#32 = x &&& 0x78000000#32 := by
    rw [State.w_setF, if_pos rfl, mdCtl_en_into, State.w_setChan, hctl, State.keepCtl_ctl]
  have hwdraw : ((v.setChan n c).setF (chBase n) F.CH_MD_CTL_EN 0).pair (chBase n + R.CH_MD_WDRAW_H) = v.pair (chBase n + R.CH_MD_WDRAW_H) := by
    rw [State.pair_setF _ (by simp) (off_ne_low n (by decide)), State.pair_setChan]
  have hrest (m : Ch) (hm : m ≠ n) : ((v.setChan n c).setF (chBase n) F.CH_MD_CTL_EN 0).chan m = v.chan m := v.chan_setChan_other c hm.symm
  generalize (v.setChan n c).setF (chBase n) F.CH_MD_CTL_EN 0 = u at *
  rw [← hwdraw] at hcounted
  simp only [State.chan_hostAnswered, State.w_hostAnswered, State.fb_hostAnswered, State.pair_hostAnswered, hown, hc]
  refine ⟨hen, hword, h.exps, h.queue, h.free, trivial, h.owed, hcounted, fun m hm => (hrest m hm).trans (hothers m hm), hlast.clk,
    hlast.fabric.memory, ?_, ?_⟩
  · show u.link0 = s.link0
    rw [hlast]
  · show u.link1 = s.link1
    rw [hlast]

/-! ### POL_RST and DCLR (R140, R288) -/

theorem State.writeMdCmd_polRst (s : State) (n : Ch) : s.writeMdCmd n (F.CH_MD_CMD_POL_RST.into 0#32 1) = s.polReset n := by
  unfold State.writeMdCmd
  dsimp only
  rw [if_neg (by decide), if_pos (by decide), if_neg (by decide)]

theorem State.writeMdCmd_dclr (s : State) (n : Ch) : s.writeMdCmd n (F.CH_MD_CMD_DCLR.into 0#32 1) = s.dclr n := by
  unfold State.writeMdCmd
  dsimp only
  rw [if_pos (by decide), if_neg (by decide), if_neg (by decide)]

theorem polRst_restarts (hs : s.Serves) (n : Ch) :
    ∃ t, exec (.polRst n) s = .next t ∧ t.chan n = { s.chan n with mord := { (s.chan n).mord with polCount := 0, polHeld := false } } ∧
      (∀ m : Ch, m ≠ n → t.chan m = s.chan m) ∧ t = { s with chans := t.chans, paths := t.paths } := by
  refine ⟨_, rfl, ?_⟩
  rw [State.wrCmd_md hs, State.writeMdCmd_polRst]
  exact s.modChan_answered n _ .host _

/-- The words that DCLR clears. -/
def devWords (n : Ch) : List Nat :=
  [chBase n + R.CH_MD_DSUM_H, chBase n + R.CH_MD_DSUM_H + 4, chBase n + R.CH_MD_DSQ_H, chBase n + R.CH_MD_DSQ_H + 4,
    chBase n + R.CH_MD_DMIN, chBase n + R.CH_MD_DMAX]

/-- The deviations' registers as DCLR leaves them. -/
def State.clearDevs (n : Ch) (s : State) : State :=
  (((s.setPair (chBase n + R.CH_MD_DSUM_H) 0).setPair (chBase n + R.CH_MD_DSQ_H) 0).setF (chBase n) F.CH_MD_DMIN_DMIN 0x7FFFFF).setF (chBase n)
    F.CH_MD_DMAX_DMAX 0x800000

theorem State.clearDevs_onlyRegs (s : State) (n : Ch) : s.OnlyRegs (s.clearDevs n) (devWords n) :=
  .setF (.setF (.setPair (.setPair (.refl s _) 0 (by simp [devWords]) (by simp [devWords])) 0 (by simp [devWords]) (by simp [devWords])) _
    (by simp [devWords])) _ (by simp [devWords])

theorem State.clearDevs_clears (s : State) (n : Ch) : (s.clearDevs n).pair (chBase n + R.CH_MD_DSUM_H) = 0 ∧
    (s.clearDevs n).pair (chBase n + R.CH_MD_DSQ_H) = 0 ∧ (s.clearDevs n).f (chBase n) F.CH_MD_DMIN_DMIN = 0x7FFFFF ∧
    (s.clearDevs n).f (chBase n) F.CH_MD_DMAX_DMAX = 0x800000 := by
  unfold State.clearDevs
  refine ⟨?_, ?_, ?_, ?_⟩
  · rw [State.pair_setF _ (by simp) (off_ne_low n (by decide)), State.pair_setF _ (by simp) (off_ne_low n (by decide)),
      State.pair_setPair_apart _ _ (by unfold R.CH_MD_DSUM_H R.CH_MD_DSQ_H; omega), State.pair_setPair _ _ (by decide)]
  · rw [State.pair_setF _ (by simp) (off_ne_low n (by decide)), State.pair_setF _ (by simp) (off_ne_low n (by decide)),
      State.pair_setPair _ _ (by decide)]
  · rw [State.f_setF_other _ _ (by simp), State.f_setF _ _ _ _ (by decide)]
    rfl
  · rw [State.f_setF _ _ _ _ (by decide)]
    rfl

/-- Deviation groups start anew. -/
def Chan.dropDevs (c : Chan) : Chan := { c with devN := 0 }

theorem State.dclr_eq (s : State) (n : Ch) : s.dclr n = (s.modChan n Chan.dropDevs).clearDevs n := rfl

theorem State.OnlyChans.answered (h : s.OnlyChans t) :
    t.hostAnswered = { s with regs := t.hostAnswered.regs, chans := t.hostAnswered.chans, paths := t.hostAnswered.paths } := by
  rw [h]
  rfl

theorem dclr_clears (hs : s.Serves) (n : Ch) :
    ∃ t, exec (.dclr n) s = .next t ∧ t.pair (chBase n + R.CH_MD_DSUM_H) = 0 ∧ t.pair (chBase n + R.CH_MD_DSQ_H) = 0 ∧
      t.f (chBase n) F.CH_MD_DMIN_DMIN = 0x7FFFFF ∧ t.f (chBase n) F.CH_MD_DMAX_DMAX = 0x800000 ∧
      (∀ a, a ∉ devWords n → t.w a = s.w a) ∧ t.chan n = { s.chan n with devN := 0 } ∧
      (∀ m : Ch, m ≠ n → t.chan m = s.chan m) ∧ t = { s with regs := t.regs, chans := t.chans, paths := t.paths } := by
  refine ⟨_, rfl, ?_⟩
  obtain ⟨v, hv⟩ : ∃ v, v = s.modChan n Chan.dropDevs := ⟨_, rfl⟩
  have hown : v.chan n = { s.chan n with devN := 0 } := hv ▸ s.chan_modChan_same n _
  have hothers (m : Ch) (hm : m ≠ n) : v.chan m = s.chan m := hv ▸ s.chan_modChan_other _ hm.symm
  have hmod : s.OnlyChans v := hv ▸ .modChan (.refl s) ..
  have hword (a : Nat) : v.w a = s.w a := hv ▸ rfl
  rw [State.wrCmd_md hs, State.writeMdCmd_dclr, State.dclr_eq, ← hv]
  obtain ⟨hstands, hwords⟩ := v.clearDevs_onlyRegs n
  obtain ⟨hsum, hsq, hmin, hmax⟩ := v.clearDevs_clears n
  generalize v.clearDevs n = t at *
  have hchan (m : Ch) : t.chan m = v.chan m := by rw [hstands]; rfl
  have hchans : v.OnlyChans t := by rw [hstands]; rfl
  exact ⟨hsum, hsq, hmin, hmax, fun a ha => (hwords a ha).trans (hword a), (hchan n).trans hown,
    fun m hm => (hchan m).trans (hothers m hm), (hmod.trans hchans).answered⟩

/-! ### MD_H_WRITE (R125) -/

theorem mdHWrite_writes (hs : s.Serves) (n : Ch) (w : Word) :
    ∃ t, exec (.mdHWrite n w) s = .next t ∧
      (s.fb (chBase n) F.CH_MD_CTL_EN = false → t.f (chBase n) F.CH_MD_H_H = max 64000 (min 12800000 (F.CH_MD_H_H.of w)) ∧
        s.OnlyRegsOf .host t [chBase n + R.CH_MD_H]) ∧
      (s.fb (chBase n) F.CH_MD_CTL_EN = true → t.fb (chBase n) F.CH_MD_STAT_EN_REJ = true ∧
        s.OnlyRegsOf .host t [chBase n + R.CH_MD_STAT]) := by
  refine ⟨_, rfl, fun he => ?_, fun he => ?_⟩
  · rw [State.wr_mdH hs, show s.writeMdH n w = s.setF (chBase n) F.CH_MD_H_H (clampNat 64000 12800000 (F.CH_MD_H_H.of w)) from
      if_neg (by simp [he])]
    refine ⟨?_, ((State.OnlyRegs.refl s _).setF _ (by simp)).modPath .host _⟩
    rw [State.f_hostAnswered, State.f_setF _ _ _ _ (by decide), Nat.mod_eq_of_lt (by unfold clampNat; simp)]
    rfl
  · rw [State.wr_mdH hs, show s.writeMdH n w = s.raise (chBase n) F.CH_MD_STAT_EN_REJ from if_pos he]
    refine ⟨?_, ((State.OnlyRegs.refl s _).raise (by simp)).modPath .host _⟩
    rw [State.fb_hostAnswered]
    exact s.fb_raise (chBase n) rfl (by decide)

/-- Settles O31: each clause is the lemma of its command above. -/
theorem mordantEnablesFlushesAndClears : Obligations.MordantEnablesFlushesAndClears := by
  unfold Obligations.MordantEnablesFlushesAndClears
  refine ⟨?_, ?_, ?_, ?_, ?_, ?_⟩
  · exact fun s n w hs => mdEnable_enables hs n w
  · exact fun s n hs => mdDisable_withdraws hs n
  · exact fun s n hs => flush_withdraws hs n
  · exact fun s n hs => polRst_restarts hs n
  · exact fun s n hs => dclr_clears hs n
  · exact fun s n w hs => mdHWrite_writes hs n w

end Sys2Proof.Machine
end
